-- ==== Sys2Proof/Word.lean ====
section
/-! DEFINITION. The word types of the device (R2, R5) and the plain data of the register map: a field, its access
type (R7) and its range (R723). -/

namespace Sys2Proof

/-- One byte of memory or of a message. -/
abbrev Byte := BitVec 8

/-- One 64-bit register or message word (R5). -/
abbrev Word := BitVec 64

/-- A table keyed by numbers: keys strictly rising, one entry a key. -/
abbrev Tab (α : Type) := List (Nat × α)

/-- A register field: the BAR 0 offset of its register, its lowest bit, its width and its reset value (R7). -/
structure Fld where
  off : Nat
  lo : Nat
  wid : Nat
  reset : Nat
deriving DecidableEq, Repr

/-- The access types of R7. -/
inductive Acc where
  | rw | ro | wo | w1c | w1s | rwl
deriving DecidableEq, Repr

/-- A bound of a field's range (R723): none, a number, or the field of the same register that starts at bit `lo`. -/
inductive Bound where
  | none
  | const (n : Nat)
  | field (lo : Nat)
deriving DecidableEq, Repr

/-- A field as a register table gives it. -/
structure FSpec where
  fld : Fld
  acc : Acc
  mn : Bound
  mx : Bound
deriving DecidableEq, Repr

/-- A register as the register tables give it: its first offset, the stride and count of each index, the offset and
stride of the register that holds the lock bit of its block, and its fields. -/
structure RegSpec where
  base : Nat
  dims : List (Nat × Nat)
  lock : Option (Nat × Nat)
  fields : List FSpec
deriving DecidableEq, Repr

/-- The key a field's value is kept under. -/
def Fld.key (f : Fld) : Nat := f.off * 64 + f.lo

/-- The same field in the register at offset `o`. -/
def Fld.on (f : Fld) (o : Nat) : Fld := { f with off := o }

end Sys2Proof
end

