-- ==== Sys2Proof/Syntax.lean ====
section
/-! DEFINITION. The commands of the device: one constructor for each row of spec/opcode_table.json, and the plain data
they carry. -/

namespace Sys2Proof

/-- The completion codes of R244. -/
inductive Code where
  | ok | short | poison | remap | staleBase | retryRsv | faultHeld | abortDisable | denied
  | portLost | ownerLost | integrity | timeout | malformed | cpair | notOwner | restarted | capacity
deriving DecidableEq, Repr

/-- A request or class-0 message from a partner: the header fields of R122 and R171 and the payload. `b30` is header
bit 30 (KEPT of a SNP_FWD, reserved elsewhere), `rsvd` says that some other reserved header bit is set, `cut` says that the message is cut
through with its tail status still open (R514, R515), and `t` the time of arrival in ns of SYS_TIME. -/
structure Req where
  port : Fin 6
  partner : Fin 256
  cls : Fin 4
  tag : Fin 8192
  len : Fin 256
  ret : Bool
  b30 : Bool
  rsvd : Bool
  ctx : Fin 65536
  tenant : Fin 256
  addr : BitVec 57
  epoch : BitVec 32
  epochC : BitVec 32
  payload : List Byte
  cut : Bool
  t : Nat
deriving DecidableEq, Repr

/-- A descriptor of a submission ring (R226): the ring, its index in the ring and its eight words. -/
structure Desc where
  ring : Fin 1048576
  idx : Fin 65536
  words : List Word
  t : Nat
deriving DecidableEq, Repr

/-- The tail status of R515. -/
inductive Tail where
  | good | replayed | poisoned
deriving DecidableEq, Repr

/-- What the reading of a module's SPD gave (R71). -/
structure Spd where
  readable : Bool
  mrdimm : Bool
  gib : Nat
  mts : Nat
  mfr : BitVec 16
  serial : BitVec 32
  rev : BitVec 8
deriving DecidableEq, Repr

/-- What the reading of a stack's identity gave (R70). -/
structure StackId where
  readable : Bool
  height : Nat
  gib : Nat
  vendor : BitVec 16
  serial : BitVec 36
deriving DecidableEq, Repr

/-- What a read of memory met: nothing, an error the ECC corrects (with the row of the stack, or the device of the
channel), a device of the channel that has failed and is marked, or an uncorrectable error (R65, R67). -/
inductive EccEvent where
  | clean
  | corrected (unit : Nat)
  | failedDevice (unit : Nat)
  | uncorrectable (unit : Nat)
deriving DecidableEq, Repr

/-- When a slot issues: its bundle's index in the stream and the cycle of the 1.2 GHz arithmetic clock, counted from
SYS_TIME 0. -/
structure Issue where
  bundle : Nat
  cyc : Nat
deriving DecidableEq, Repr

/-- A sub-slot of a sector slot (R315, R317): the sector, the slot's TMASK, the sub-slot's bits and when it issues. -/
structure Slot where
  sector : Fin 4
  tmask : BitVec 16
  bits : BitVec 64
  iss : Issue
deriving DecidableEq, Repr

/-- Which copy a copy row runs: a ring descriptor, or the next kernel copy of an engine. -/
inductive CopyRef where
  | ring (d : Desc)
  | kernel (engine : Fin 8) (t : Nat)
deriving DecidableEq, Repr

/-- What the reading of a laser module's CMIS memory gave (R473). -/
structure Cmis where
  readable : Bool
  source1311 : Bool
  outputs : Nat
  milliwatts : Nat
  oui : BitVec 24
  rev : BitVec 8
  serial : BitVec 32
deriving DecidableEq, Repr

/-- What a poll of a laser module met (R474): its present signal, whether its bus answers, a latched laser-fault or low-power alarm, and
its lowest output power in units of 0.1 mW. -/
structure LsmReading where
  present : Bool
  answers : Bool
  alarm : Bool
  power : BitVec 16
deriving DecidableEq, Repr

/-- The fields of a CONTROL flit (R483) and whether its TAG verifies (R488). -/
structure CtlFlit where
  ack : Fin 4096
  nak : Bool
  mark : Bool
  down : Bool
  markCount : BitVec 32
  credits : Word
  tagOk : Bool
deriving DecidableEq, Repr

/-- A crypto frame as it arrived (R486): COUNTER, KEY_SLOT, the FSN of its first flit, whether its tag verifies, and the envelopes of
the messages that end in it as (SPACE, MSN) (R479). -/
structure Frame0 where
  counter : BitVec 63
  slot : Bool
  first : Fin 4096
  good : Bool
  msgs : List (Bool × BitVec 16)
deriving DecidableEq, Repr

/-- The fields of INIT_DATA (R495). -/
structure InitData where
  peer : Word
  version : BitVec 16
  personality : BitVec 8
  accept : Bool
  credits : Word
  tags : Fin 8193
deriving DecidableEq, Repr

/-- The CXL.mem messages of R501, and any other. -/
inductive CxlOp where
  | memRdAny | memRdShared | memRdData | memRdInv
  | memWr (inv : Bool) (data : List Byte)
  | memWrPtl (mask : BitVec 64) (data : List Byte)
  | memClnEvct
  | biRsp (kept : Bool) (dirty : Option (List Byte))
  | other
deriving DecidableEq, Repr

/-- A CXL.mem message: its port, its tag (a snoop tag for a BIRsp), its host physical address less the decoder's base, and when it
arrived. -/
structure CxlMsg where
  port : Fin 6
  tag : Fin 8192
  off : BitVec 57
  op : CxlOp
  t : Nat
deriving DecidableEq, Repr

/-- The fault domain types of R558. -/
inductive DomType where
  | channel | stack | link | port | tile | engine | sector
deriving DecidableEq, Repr

/-- The wake events of R651 but for a written WAKE. -/
inductive WakeBy where
  | access | light | timer | memFault
deriving DecidableEq, Repr

/-- A management-port access in DEEP_IDLE (R652): its BAR, its offset, and the value written, if it writes. -/
structure MgmtAccess where
  bar : Fin 5
  off : BitVec 32
  val : Option Word
deriving DecidableEq, Repr

/-- A packet of an MCTP message (R705, R706): its binding, its source and destination EIDs, its message tag, whether it starts and ends
its message, the message type and its bytes. -/
structure MctpPkt where
  pcie : Bool
  src : BitVec 8
  dst : BitVec 8
  tag : Fin 16
  som : Bool
  eom : Bool
  type : BitVec 7
  bytes : Nat
deriving DecidableEq, Repr

/-- The header of a firmware image (R595) as far as its acceptance needs it, and what the checks of R596 on it found. -/
structure Image where
  header : List Byte
  version : BitVec 32
  svn : BitVec 8
  raise : Bool
  herquinOk : Bool
  ownerOk : Bool
  digestOk : Bool
deriving DecidableEq, Repr

/-- The controller buses of R714. -/
inductive SideBus where
  | i3c (channel : Fin 32)
  | lsm (m : Fin 12)
  | cs
  | mgt
deriving DecidableEq, Repr

/-- What a pool-window access does: a read of so many bytes, or a write. -/
inductive WinOp where
  | read (len : Fin 4097)
  | write (data : List Byte)
deriving DecidableEq, Repr

/-- The commands. -/
inductive Instr where
  -- the register map (spec/00, R5 to R12; spec/18, R699)
  | registerWrite (off : Fin 0x80000) (val : Word) (t : Nat)
  | partialRegisterAccess (off : Fin 0x80000) (write : Bool)
  | cpRegisterWrite (idx : Fin 65536) (val : Word) (t : Nat)
  | unmappedAccess (off : Fin 0x80000) (write : Bool)
  -- the store (spec/02)
  | decayEpoch (sector : Fin 4) (t : Nat)
  | nearLowDemotion (sector : Fin 4) (t : Nat)
  | granuleCopyDone (page : Fin 67108864) (t : Nat)
  | migratingWaitTimeout (port : Fin 6) (tag : Fin 8192) (t : Nat)
  | dirtyLineEviction (line : Fin (2 ^ 41)) (t : Nat)
  | drizzleRead (sector : Fin 4) (far : Bool) (place : Nat) (ev : EccEvent) (t : Nat)
  | stackIdent (stack : Fin 8) (id : StackId)
  | dimmInsert (channel : Fin 32)
  | spdReadComplete (channel : Fin 32) (spd : Spd)
  | channelTrainingDone (channel : Fin 32) (passed : Bool) (ms : Fin 65536)
  | channelDrained (channel : Fin 32)
  | channelFail (channel : Fin 32) (beyondEcc : Bool) (t : Nat)
  | dimmRemove (channel : Fin 32)
  | ddrRetire (channel : Fin 32)
  | ddrReturn (channel : Fin 32)
  | ddrClrCounts (channel : Fin 32)
  | hbmClrCounts (stack : Fin 8)
  | touchMaxClear (sector : Fin 4)
  | anvFlagClear (port : Fin 6)
  | storeHazeCheck (stack : Bool) (unit : Fin 32) (median peers : Nat) (t : Nat)
  | tierAlloc (d : Desc)
  | tierFree (d : Desc)
  | tierHint (d : Desc)
  | tierSplit (d : Desc)
  -- contexts, translation, faults (spec/03)
  | xltCtxSet (d : Desc)
  | xltCtxClear (d : Desc)
  | xltSegSet (d : Desc)
  | xltSegClear (d : Desc)
  | xltInval (d : Desc)
  | xltSwapOut (d : Desc)
  | xltSwapIn (d : Desc)
  | invalAck (inval : Nat) (unit : Fin 256) (t : Nat)
  | invalTimeout (inval : Nat) (unit : Fin 256) (t : Nat)
  | faultQueueConsume (t : Nat)
  | stalledRecordPost (t : Nat)
  | waiterRoom (t : Nat)
  | faultResolve (seq : BitVec 32) (framesFreed : Bool) (t : Nat)
  | faultHeldTimeout (port : Fin 6) (tag : Fin 8192) (t : Nat)
  -- partner requests (spec/04, spec/05)
  | rd (r : Req)
  | rdShared (r : Req)
  | rdOwn (r : Req)
  | wr (r : Req)
  | wrLine (r : Req)
  | wrFlag (r : Req)
  | atomAdd (r : Req)
  | atomAnd (r : Req)
  | atomOr (r : Req)
  | atomXor (r : Req)
  | atomSwap (r : Req)
  | atomCas (r : Req)
  | atomMinS (r : Req)
  | atomMaxS (r : Req)
  | atomMinU (r : Req)
  | atomMaxU (r : Req)
  | atomAddF (r : Req)
  | atomMinF (r : Req)
  | atomMaxF (r : Req)
  | upgrade (r : Req)
  | evictClean (r : Req)
  | evictDirty (r : Req)
  | publish (r : Req)
  | snpAck (r : Req)
  | snpFwd (r : Req)
  | readEntryDataReturn (entry : Nat) (t : Nat)
  | atomicWindowExpiry (entry : Nat) (t : Nat)
  | anvilRsvReissue (entry : Nat) (t : Nat)
  | flagRelease (port : Fin 6) (tag : Fin 8192) (t : Nat)
  | tailStatus (port : Fin 6) (tag : Fin 8192) (tail : Tail) (t : Nat)
  | holdExpiry (line : Fin (2 ^ 41)) (t : Nat)
  | dirHoldSweep (sector : Fin 4) (t : Nat)
  | reservationExpiry (port : Fin 6) (latency : Bool) (credit : Fin 64) (t : Nat)
  | pendingBufferRetry (sector : Fin 4) (t : Nat)
  | snoopTimeout (port : Fin 6) (stag : Fin 2048) (t : Nat)
  -- rings (spec/06)
  | doorbellWrite (ring : Fin 1048576) (path : Fin 7) (partner : Fin 256) (ctx : Fin 65536) (tag : Fin 8192) (aligned8 : Bool) (val : Word) (t : Nat)
  | doorbellRead (ring : Fin 1048576) (path : Fin 7) (partner : Fin 256) (ctx : Fin 65536) (tag : Fin 8192) (aligned8 : Bool)
  | descriptorFetch (ring : Fin 1048576) (t : Nat)
  | descriptorReadComplete (ring : Fin 1048576) (idx : Fin 65536) (words : Option (List Word)) (t : Nat)
  | nopDesc (d : Desc)
  | descriptorComplete (ring : Fin 1048576) (idx : Fin 65536) (t : Nat)
  | notifyTimer (ring : Fin 1048576) (t : Nat)
  | disableBoundExpiry (ring : Fin 1048576) (t : Nat)
  | ringSet (d : Desc)
  | ringDisable (d : Desc)
  | ringQcRead (ring : Fin 1048576)
  | ringQcWrite (ring : Fin 1048576) (t : Nat)
  | ringQcDisable (ring : Fin 1048576) (t : Nat)
  | functionReset (full : Bool) (t : Nat)
  | perst (t : Nat)
  -- tiles and guest lines (spec/07)
  | tileIdleTimer (tile : Fin 64) (t : Nat)
  | tpMaintFlush (sectors : Fin 16) (t : Nat)
  | tpMaintAcquire (sectors : Fin 16) (t : Nat)
  | tpMaintFlushAll (sectors : Fin 16) (t : Nat)
  | tileConflictClear (tile : Fin 64)
  -- the bundle's slots (spec/08): control word, copy slot, sector sub-slots, synchronisation word
  | loopOpen (w : Word) (i : Issue)
  | yieldPoint (w : Word) (i : Issue)
  | bundleEnd (w : Word) (i : Issue)
  | tload (w : Word) (i : Issue)
  | startCopy (engine : Fin 8) (w : Word) (i : Issue)
  | mma (x : Slot)
  | ldsa (x : Slot)
  | ldsb (x : Slot)
  | accSt (x : Slot)
  | accLd (x : Slot)
  | vadd (x : Slot)
  | vsub (x : Slot)
  | vmul (x : Slot)
  | vfma (x : Slot)
  | vmin (x : Slot)
  | vmax (x : Slot)
  | vselLt (x : Slot)
  | vselEq (x : Slot)
  | vexp (x : Slot)
  | vexp2 (x : Slot)
  | vrcp (x : Slot)
  | vrsq (x : Slot)
  | vpopc (x : Slot)
  | vxor (x : Slot)
  | vand (x : Slot)
  | vor (x : Slot)
  | vshl (x : Slot)
  | vshr (x : Slot)
  | viadd (x : Slot)
  | visub (x : Slot)
  | cvti (x : Slot)
  | cvto (x : Slot)
  | rsum (x : Slot)
  | rmax (x : Slot)
  | amov (x : Slot)
  | awr (x : Slot)
  | vld (x : Slot) (corrected : Bool)
  | vst (x : Slot)
  | auxAdd (x : Slot)
  | auxSet (x : Slot)
  | waitEv (w : Word) (i : Issue)
  | spfence (w : Word) (i : Issue)
  | acquire (w : Word) (i : Issue)
  | flush (w : Word) (i : Issue)
  | drain (w : Word) (i : Issue)
  -- copies and kernels (spec/08)
  | copyComplete (engine : Fin 8) (ring : Bool) (t : Nat)
  | cpyMem (c : CopyRef)
  | cpyToSp (engine : Fin 8) (t : Nat)
  | cpyFromSp (engine : Fin 8) (t : Nat)
  | cpyPlace (c : CopyRef)
  | kernelLaunch (d : Desc)
  | launchQueueRoom (t : Nat)
  | kernelStart (t : Nat)
  | planeStart (t : Nat)
  | kernelResume (t : Nat)
  | kernelComplete (t : Nat)
  | kernelRestart (tile : Option (Fin 64)) (t : Nat)
  -- embedding engines (spec/09)
  | embTableSet (d : Desc)
  | embTableClear (d : Desc)
  | embGather (d : Desc)
  | embScatter (d : Desc)
  | embScatterAdd (d : Desc)
  | embUpdate (d : Desc)
  | embHookOpen (d : Desc)
  | embHookCommit (d : Desc)
  | versionRelease (t : Nat)
  | rowPinExpiry (t : Nat)
  | hookTimeout (t : Nat)
  | balanceEpoch (t : Nat)
  -- search engines (spec/10)
  | srchIndexSet (d : Desc)
  | srchIndexClear (d : Desc)
  | srchFlat (d : Desc)
  | srchGraph (d : Desc)
  | srchInsert (d : Desc)
  | srchDelete (d : Desc)
  -- the block store and the Contrail log (spec/11)
  | blkSpaceSet (d : Desc)
  | blkSpaceClear (d : Desc)
  | blkGet (d : Desc)
  | blkPut (d : Desc)
  | blkPin (d : Desc)
  | blkUnpin (d : Desc)
  | blkHandoff (d : Desc)
  | blkRelease (d : Desc)
  | blkLogRead (d : Desc)
  | offer (t : Nat)
  | ack (t : Nat)
  | confirm (t : Nat)
  | nack (t : Nat)
  | handoffTimeout (t : Nat)
  | ackResend (t : Nat)
  | giveupTimeout (t : Nat)
  | goneExpiry (t : Nat)
  | logRoom (t : Nat)
  -- ports, links and lasers (spec/12)
  | lsmPresent (m : Fin 12) (x : Cmis) (t : Nat)
  | lsmPoll (m : Fin 12) (x : LsmReading) (t : Nat)
  | flitReceive (port link : Fin 6) (corr uncorr : Nat) (flit : List Byte) (t : Nat)
  | controlFlit (port link : Fin 6) (x : CtlFlit) (t : Nat)
  | cryptoFrame (port link : Fin 6) (x : Frame0) (t : Nat)
  | rekey (port link : Fin 6) (counter : BitVec 63) (t : Nat)
  | linkLight (port link : Fin 6) (t : Nat)
  | linkTrainingDone (port link : Fin 6) (t : Nat)
  | linkTrainTimeout (port link : Fin 6) (lanes : Fin 16) (t : Nat)
  | laneLockLoss (port link : Fin 6) (t : Nat)
  | flitSilence (port link : Fin 6) (t : Nat)
  | linkHazeCheck (port link : Fin 6) (median peers t : Nat)
  | linkRetire (port link : Fin 6) (t : Nat)
  | linkReturn (port link : Fin 6) (t : Nat)
  | linkRetrain (port link : Fin 6) (t : Nat)
  | portEnable (port : Fin 6) (en : Bool) (t : Nat)
  | portInit (port : Fin 6) (x : InitData) (t : Nat)
  | portSilence (port : Fin 6) (t : Nat)
  | portDown (port : Fin 6) (t : Nat)
  | downNoticeEnd (port : Fin 6) (t : Nat)
  | portFlushDone (port : Fin 6) (t : Nat)
  | cxlMemRequest (x : CxlMsg)
  | biConflict (port : Fin 6)
  | identifyMemoryDevice (port : Fin 6)
  | getPartitionInfo (port : Fin 6)
  | getHealthInfo (port : Fin 6)
  | getSupportedLogs (port : Fin 6)
  | getEventRecords (port : Fin 6)
  | clearEventRecords (port : Fin 6)
  | cxlMailboxUnsupported (port : Fin 6) (op : BitVec 16)
  -- the scheduler (spec/13)
  | schedulerSelect (port : Fin 6) (t : Nat)
  | spillReadback (port : Fin 6) (tag : Fin 8192) (t : Nat)
  | tqRead (port : Fin 6) (tenant : Fin 256)
  | tqWrite (port : Fin 6) (tenant : Fin 256) (t : Nat)
  | limitsWrite (port : Fin 6) (val : Word)
  -- composition and repair (spec/14)
  | cmpStage (d : Desc)
  | cmpCommit (d : Desc)
  | cmpEvents (d : Desc)
  | cmpLease (d : Desc)
  | cmpFence (d : Desc)
  | cmpSector (d : Desc)
  | cmpDomain (d : Desc)
  | cmpFwActivate (d : Desc)
  | stageTimeout (t : Nat)
  | mapPersist (t : Nat)
  | managerTimeout (t : Nat)
  | leaseLapse (port : Fin 6) (partner : Fin 256) (t : Nat)
  | domainFault (ty : DomType) (inst : Fin 256) (cause : Fin 16) (t : Nat)
  | domainRecovered (ty : DomType) (inst : Fin 256) (ok : Bool) (t : Nat)
  | unitHazeCheck (tile : Bool) (unit : Fin 64) (median peers t : Nat)
  | hazeFailTimeout (ty : DomType) (inst : Fin 256) (t : Nat)
  | evacPageMoved (page : Fin 67108864) (t : Nat)
  | sectorPowerDown (sector : Fin 4) (t : Nat)
  | sectorSelfTestDone (sector : Fin 4) (passed : Bool) (t : Nat)
  | coreHealthCheck (core : Fin 4) (passed : Bool) (t : Nat)
  | zenithCoreFail (core : Fin 4) (t : Nat)
  | deviceFault (block : Fin 9) (t : Nat)
  -- security (spec/15)
  | secDomainSet (d : Desc)
  | secDomainTeardown (d : Desc)
  | secAttest (d : Desc)
  | secKeyImport (d : Desc)
  | secKeyDiscard (d : Desc)
  | secUnseal (d : Desc)
  | secPortKey (d : Desc)
  | secLc (d : Desc)
  | tamper (sensor : Fin 5) (t : Nat)
  | xmssBlockCommit (t : Nat)
  | zeroFillDone (dom : Fin 256) (t : Nat)
  | svnFuse (t : Nat)
  -- clocks, power, supplies, cooling (spec/16, spec/17)
  | powerOn (xdly : Fin 8)
  | supplyLoss (t : Nat)
  | xtalTestStart (t : Nat)
  | xtalStable (t : Nat)
  | xtalStartTimeout (t : Nat)
  | ioscTrimWindow (marks : Bool) (ppm : Int) (t : Nat)
  | pllIdleStop (engines : Bool) (t : Nat)
  | pllLocked (loop : Fin 3) (ns : Nat) (t : Nat)
  | xtalLoss (t : Nat)
  | portLoopHoldover (port : Fin 6) (t : Nat)
  | refclkLoss (t : Nat)
  | xtalReturn (t : Nat)
  | enterDeep (t : Nat)
  | wake (t : Nat)
  | deepWakeEvent (by_ : WakeBy) (t : Nat)
  | deepIdleMgmtAccess (a : MgmtAccess) (t : Nat)
  | engineIdleGate (engine : Fin 20) (t : Nat)
  | throttleN (low : Bool) (t : Nat)
  | thermalLimitTick (tj : Fin 256) (t : Nat)
  | hbmTempCheck (stack : Fin 8) (temp : Fin 256) (t : Nat)
  | thermalTrip (junction stack engine : Fin 256) (t : Nat)
  | inletSensorRead (temp : Option (Fin 256)) (t : Nat)
  -- the management port (spec/18)
  | poolWindowAccess (off : BitVec 32) (op : WinOp) (t : Nat)
  | msixPendingSend (linkUp enabled : Bool) (unmask : List (Fin 2048)) (t : Nat)
  | mctpMessage (p : MctpPkt) (t : Nat)
  | setEndpointId (pcie : Bool) (eid : BitVec 8)
  | getEndpointId (pcie : Bool)
  | getEndpointUuid (pcie : Bool)
  | getMctpVersionSupport (pcie : Bool) (type : BitVec 8)
  | getMessageTypeSupport (pcie : Bool)
  | getVendorDefinedMessageSupport (pcie : Bool) (sel : BitVec 8)
  | getTid (pcie : Bool)
  | setTid (pcie : Bool) (tid : BitVec 8)
  | getPldmVersion (pcie : Bool) (type : BitVec 8)
  | getPldmTypes (pcie : Bool)
  | getPldmCommands (pcie : Bool) (type : BitVec 8)
  | getPdrRepositoryInfo (pcie : Bool)
  | getPdr (pcie : Bool) (handle : BitVec 32)
  | setEventReceiver (pcie : Bool) (eid : BitVec 8)
  | getSensorReading (pcie : Bool) (id : BitVec 16)
  | getStateSensorReadings (pcie : Bool) (id : BitVec 16)
  | pldmSensorRefresh (t : Nat)
  | requestUpdate (pcie : Bool) (agent : BitVec 8) (maxTransfer : Nat) (t : Nat)
  | passComponentTable (pcie : Bool) (agent : BitVec 8) (size : Nat) (t : Nat)
  | requestFirmwareData (pcie : Bool) (agent : BitVec 8) (len : Nat) (image : Option Image) (t : Nat)
  | activateFirmware (pcie : Bool) (agent : BitVec 8) (t : Nat)
  | updateAgentTimeout (t : Nat)
  | getIdentity (pcie : Bool) (inst : BitVec 8)
  | getCert (pcie : Bool) (inst : BitVec 8) (off : BitVec 32) (len : BitVec 16)
  | getReport (pcie : Bool) (inst : BitVec 8) (dom : BitVec 8) (nonce : List Byte) (t : Nat)
  | getXmss (pcie : Bool) (inst : BitVec 8)
  | mgtBusTimeout (bus : SideBus) (t : Nat)
  | telemSnap (t : Nat)
  -- start-up and the rest (spec/04, spec/12, spec/16 to spec/18)
  | reply (port : Fin 6) (tag : Fin 8192) (code : Code) (detail : BitVec 32) (t : Nat)
  | laserModuleReady (m : Fin 12) (t : Nat)
  | refclkReturn (t : Nat)
  | completionTimeout (ring : Fin 1048576) (idx : Fin 65536) (t : Nat)
  | hbmTrained (t : Nat)
  | activeBankVerified (image : Image) (t : Nat)
  | debugOpen (token : List Byte) (t : Nat)
  | tapInstruction (instr : String)
  | powerLimitWindow (watts amps : Nat) (t : Nat)
deriving DecidableEq, Repr

end Sys2Proof
end

