-- ==== Sys2Proof/Decode.lean ====
section
/-! DEFINITION. Commands from words. No row of spec/opcode_table.json gives a command bits: a command reaches the block as an access, a
message or an event, and none is spelled by a word. -/

namespace Sys2Proof

/-- The command that a word spells by the bits of spec/opcode_table.json: none, as no row has bits. -/
def decodeTableWord (_nbits _w : Nat) : Option Instr := none

end Sys2Proof
end

