-- ==== Sys2Proof/Config.lean ====
section
/-! DEFINITION. Figures the spec fixes for the AMT-U4, and the free values: constants with no body, one for each value the
spec leaves open. Nothing can evaluate a free value; a claim about one holds whatever it is. -/

namespace Sys2Proof.Config

/-- Pool pages of the address space: 2^47 bytes in pages of 2 MiB (spec/02, R36). -/
def poolPages : Nat := 67108864
/-- Pages allocated at most (R36). -/
def maxPages : Nat := 33554432
/-- Near frames of a sector (R45). -/
def nearFrames : Nat := 49152
/-- 4 KiB frames of a 512 GiB module (spec/02, "Placement inside a tier"). -/
def framesPerGib : Nat := 262144
/-- Entries of the fault queue (R109). -/
def fqEntries : Nat := 16384
/-- Tasks on waiter lists (R110). -/
def waiterMax : Nat := 65536
/-- First byte of the handoff window (R451). -/
def handoffBase : Nat := 0x7FFFE0000000
/-- First byte of the doorbell window (R220). -/
def doorbellBase : Nat := 0x7FFFF0000000

/-- The n-th choice that the spec leaves to the device: which of several admissible frames, ways, entries or orders it
takes. FREE VALUE. -/
opaque pick : Nat → Nat
/-- The frames, less 1, that a granule compresses into at the n-th compression (16 and above: it does not compress; spec/02,
"Compression and promotion on touch"). FREE VALUE. -/
opaque compressed : Nat → Nat
/-- The n-th byte read from a remote pool or from memory outside the device. FREE VALUE. -/
opaque remoteByte : Nat → Nat → BitVec 8

/-- The next content of a tile's random generator (R272 fixes its seed and when it advances, not its sequence). FREE VALUE. -/
opaque rngNext : Nat → BitVec 64
/-- The 16-bit number a tile draws from its generator (R271). FREE VALUE. -/
opaque rngDraw : Nat → BitVec 16
/-- The result of a special function on an input, by operation and input, where only a bound of its error is stated (R259).
FREE VALUE. -/
opaque special : Nat → Nat → Nat
/-- A word of a tile whose state was lost with its power (R283 states the loss, not what the word then holds), by the n-th loss and
word. FREE VALUE. -/
opaque lostWord : Nat → Nat → Nat
/-- The hash of table and row by which an embedding engine partitions a job (R384 names no function), by table offset and row. FREE
VALUE. -/
opaque rowHash : Nat → Nat → Nat

/-- A value of a mailbox, MCTP or PLDM response, or of a CMIS-driven choice, whose content the spec does not state, by command and
position. FREE VALUE. -/
opaque answerField : Nat → Nat → Nat
/-- What a counter reads that counts waiting time or traffic on chip, which this model does not follow, by offset, low bit and number of the
reading. FREE VALUE. -/
opaque counter : Nat → Nat → Nat → Nat

/-! The primitives of the cryptographic standards that the spec names, as functions of which nothing is known. -/

/-- The first 32 bytes of SHAKE256 over a message. FREE VALUE. -/
opaque shake : List (BitVec 8) → List (BitVec 8)
/-- Does an XMSS^MT signature over a message verify under a public key? FREE VALUE. -/
opaque xmssOk : List (BitVec 8) → List (BitVec 8) → List (BitVec 8) → Bool
/-- The XMSS public key that a KEY_HANDLE of a MANAGER entry names (R540; no rule says how it comes there). FREE VALUE. -/
opaque handleKey : Nat → List (BitVec 8)
/-- The identity public key of the device (R588). FREE VALUE. -/
opaque identityKey : List (BitVec 8)
/-- The Herquin provisioning and firmware keys. FREE VALUES. -/
opaque herquinKey : List (BitVec 8)
opaque herquinFwKey : List (BitVec 8)
/-- The signature of a message by the identity key with an index (R588, R590). FREE VALUE. -/
opaque signature : Nat → List (BitVec 8) → Nat → BitVec 8
/-- Byte `i` of the device certificate, and its length (R588, R713). FREE VALUES. -/
opaque certByte : Nat → BitVec 8
opaque certLen : Nat
/-- Byte of the ML-KEM-1024 encapsulation key of the n-th key pair (R602). FREE VALUE. -/
opaque ekeyByte : Nat → Nat → BitVec 8
/-- What a sealed blob gives under a key pair and the report that carried its EKEY: none when its tag fails (R603). FREE VALUE. -/
opaque openBlob : Nat → List (BitVec 8) → List (BitVec 8) → Option Nat
/-- The plaintext of a chunk under a key and an IV, none when its tag fails (R605). FREE VALUE. -/
opaque openChunk : Nat → List (BitVec 8) → List (BitVec 8) → List (BitVec 8) → Option (Nat → BitVec 8)
/-- Does the owner ask for OWNER_COSIGN in a statement that names its key (LC_SVN; no rule says where)? FREE VALUE. -/
opaque ownerAsks : List (BitVec 8) → Bool
/-- The n-th nonce that the device issues for a debug token (R580; no rule says how it leaves the device). FREE VALUE. -/
opaque debugNonce : Nat → List (BitVec 8)

end Sys2Proof.Config
end

