-- ==== Sys2Proof/Machine/Maps.lean ====
section
/-! DEFINITION. Tables keyed by numbers in one canonical form (keys strictly rising), and small list helpers. -/

namespace Sys2Proof.Machine

/-- The entry under `k`, if any. -/
def tabGet? {α : Type} (k : Nat) : Tab α → Option α
  | [] => none
  | (j, v) :: t => if j = k then some v else tabGet? k t

/-- The entry under `k`, or `d`. -/
def tabGet {α : Type} (d : α) (k : Nat) (t : Tab α) : α := (tabGet? k t).getD d

/-- Put `v` under `k`, keeping the keys rising. -/
def tabPut {α : Type} (k : Nat) (v : α) : Tab α → Tab α
  | [] => [(k, v)]
  | (j, w) :: t =>
    if k < j then (k, v) :: (j, w) :: t
    else if k = j then (k, v) :: t
    else (j, w) :: tabPut k v t

/-- Remove the entry under `k`. -/
def tabDel {α : Type} (k : Nat) (t : Tab α) : Tab α := t.filter fun e => e.1 != k

/-- Put `v` under `k`, where an absent entry reads as `d`: writing `d` removes the entry. -/
def tabPutD {α : Type} [DecidableEq α] (d : α) (k : Nat) (v : α) (t : Tab α) : Tab α :=
  if v = d then tabDel k t else tabPut k v t

/-- Change the entry under `k` if there is one. -/
def tabMod {α : Type} (k : Nat) (f : α → α) (t : Tab α) : Tab α :=
  t.map fun e => if e.1 = k then (e.1, f e.2) else e

/-- Is there an entry under `k`? -/
def tabHas {α : Type} (k : Nat) (t : Tab α) : Bool := (tabGet? k t).isSome

/-- Keys rise strictly. -/
def keysRise {α : Type} : Tab α → Bool
  | [] => true
  | [_] => true
  | (j, _) :: (k, v) :: t => decide (j < k) && keysRise ((k, v) :: t)

/-- The first `n` numbers from `a`. -/
def span (a n : Nat) : List Nat := (List.range n).map (a + ·)

/-- Replace element `i` of a list. -/
def listSet {α : Type} : List α → Nat → α → List α
  | [], _, _ => []
  | _ :: t, 0, v => v :: t
  | h :: t, n + 1, v => h :: listSet t n v

/-- Insert a number into a strictly rising list. -/
def setAdd (k : Nat) : List Nat → List Nat
  | [] => [k]
  | j :: t => if k < j then k :: j :: t else if k = j then j :: t else j :: setAdd k t

/-- Remove a number from a list. -/
def setDel (k : Nat) (l : List Nat) : List Nat := l.filter (· ≠ k)

/-- Little-endian value of a list of bytes (R2). -/
def leVal : List Byte → Nat
  | [] => 0
  | b :: t => b.toNat + 256 * leVal t

/-- The `n` little-endian bytes of a value (R2). -/
def leBytes : Nat → Nat → List Byte
  | 0, _ => []
  | n + 1, v => BitVec.ofNat 8 v :: leBytes n (v / 256)

/-- Bits `lo` to `lo + wid - 1` of a value. -/
def bits (v lo wid : Nat) : Nat := v / 2 ^ lo % 2 ^ wid

/-- The ones' complement of a value of `wid` bits. -/
def onesComp (wid v : Nat) : Nat := 2 ^ wid - 1 - v % 2 ^ wid

/-- Truncate a list of bytes to `n`, filling with zero bytes. -/
def padTo (n : Nat) (l : List Byte) : List Byte := l.take n ++ List.replicate (n - l.length) 0

/-- Division rounding up. -/
def ceilDiv (a b : Nat) : Nat := (a + b - 1) / b

end Sys2Proof.Machine
end

