-- ==== Sys2Proof/Machine/Regs.lean ====
section
/-! DEFINITION. The registers of BAR 0: every field of every register table of spec/ as a named constant, and the
register table that a write walks (R5 to R9, R699, R723; the offsets of spec/18 R698). -/

namespace Sys2Proof.Machine

namespace F
/-- TIER_POOL_STATUS (02_the_store.md) -/
def TIER_POOL_STATUS : Nat := 0x1d000
def TIER_POOL_STATUS_ALLOCATED : Fld := ⟨TIER_POOL_STATUS, 0, 26, 0⟩
def TIER_POOL_STATUS_LIMIT : Fld := ⟨TIER_POOL_STATUS, 26, 26, 0⟩
/-- TIER_S_CTRL (02_the_store.md) -/
def TIER_S_CTRL (n : Nat) : Nat := 0x1e000 + 0x1000 * n
def TIER_S_CTRL_MIG_EN (n : Nat) : Fld := ⟨TIER_S_CTRL n, 0, 1, 1⟩
def TIER_S_CTRL_TOUCH_PROMOTE (n : Nat) : Fld := ⟨TIER_S_CTRL n, 1, 1, 1⟩
def TIER_S_CTRL_DRIZZLE_EN (n : Nat) : Fld := ⟨TIER_S_CTRL n, 2, 1, 1⟩
def TIER_S_CTRL_LOCK (n : Nat) : Fld := ⟨TIER_S_CTRL n, 63, 1, 0⟩
/-- TIER_S_COUNTER_DECAY (02_the_store.md) -/
def TIER_S_COUNTER_DECAY (n : Nat) : Nat := 0x1e008 + 0x1000 * n
def TIER_S_COUNTER_DECAY_EPOCH_MS (n : Nat) : Fld := ⟨TIER_S_COUNTER_DECAY n, 0, 14, 100⟩
/-- TIER_S_THRESHOLDS (02_the_store.md) -/
def TIER_S_THRESHOLDS (n : Nat) : Nat := 0x1e010 + 0x1000 * n
def TIER_S_THRESHOLDS_HOT (n : Nat) : Fld := ⟨TIER_S_THRESHOLDS n, 0, 16, 4096⟩
def TIER_S_THRESHOLDS_COLD (n : Nat) : Fld := ⟨TIER_S_THRESHOLDS n, 16, 16, 256⟩
def TIER_S_THRESHOLDS_MIN_RES_MS (n : Nat) : Fld := ⟨TIER_S_THRESHOLDS n, 32, 16, 1000⟩
/-- TIER_S_MIG_RATE (02_the_store.md) -/
def TIER_S_MIG_RATE (n : Nat) : Nat := 0x1e018 + 0x1000 * n
def TIER_S_MIG_RATE_GBPS (n : Nat) : Fld := ⟨TIER_S_MIG_RATE n, 0, 10, 56⟩
/-- TIER_S_NEAR_WATER (02_the_store.md) -/
def TIER_S_NEAR_WATER (n : Nat) : Nat := 0x1e020 + 0x1000 * n
def TIER_S_NEAR_WATER_LOW (n : Nat) : Fld := ⟨TIER_S_NEAR_WATER n, 0, 16, 2048⟩
def TIER_S_NEAR_WATER_HIGH (n : Nat) : Fld := ⟨TIER_S_NEAR_WATER n, 16, 16, 4096⟩
def TIER_S_NEAR_WATER_PIN_LIMIT (n : Nat) : Fld := ⟨TIER_S_NEAR_WATER n, 32, 16, 36864⟩
/-- TIER_S_FAR_CFG (02_the_store.md) -/
def TIER_S_FAR_CFG (n : Nat) : Nat := 0x1e028 + 0x1000 * n
def TIER_S_FAR_CFG_OVERCOMMIT (n : Nat) : Fld := ⟨TIER_S_FAR_CFG n, 0, 6, 16⟩
def TIER_S_FAR_CFG_LOW_FRAMES (n : Nat) : Fld := ⟨TIER_S_FAR_CFG n, 8, 28, 262144⟩
/-- TIER_S_NEAR_STATUS (02_the_store.md) -/
def TIER_S_NEAR_STATUS (n : Nat) : Nat := 0x1e030 + 0x1000 * n
def TIER_S_NEAR_STATUS_POOL_FRAMES (n : Nat) : Fld := ⟨TIER_S_NEAR_STATUS n, 0, 16, 0⟩
def TIER_S_NEAR_STATUS_FREE_FRAMES (n : Nat) : Fld := ⟨TIER_S_NEAR_STATUS n, 16, 16, 0⟩
def TIER_S_NEAR_STATUS_PINNED (n : Nat) : Fld := ⟨TIER_S_NEAR_STATUS n, 32, 16, 0⟩
def TIER_S_NEAR_STATUS_THRESH_ERR (n : Nat) : Fld := ⟨TIER_S_NEAR_STATUS n, 48, 1, 0⟩
/-- TIER_S_FAR_STATUS (02_the_store.md) -/
def TIER_S_FAR_STATUS (n : Nat) : Nat := 0x1e038 + 0x1000 * n
def TIER_S_FAR_STATUS_FREE_FRAMES (n : Nat) : Fld := ⟨TIER_S_FAR_STATUS n, 0, 31, 0⟩
def TIER_S_FAR_STATUS_JOINED (n : Nat) : Fld := ⟨TIER_S_FAR_STATUS n, 31, 8, 0⟩
def TIER_S_FAR_STATUS_FAR_PRESSURE (n : Nat) : Fld := ⟨TIER_S_FAR_STATUS n, 39, 1, 0⟩
/-- TIER_S_HAZE (02_the_store.md) -/
def TIER_S_HAZE (n : Nat) : Nat := 0x1e040 + 0x1000 * n
def TIER_S_HAZE_CHANNELS (n : Nat) : Fld := ⟨TIER_S_HAZE n, 0, 8, 0⟩
def TIER_S_HAZE_STACKS (n : Nat) : Fld := ⟨TIER_S_HAZE n, 8, 2, 0⟩
/-- TIER_S_HAZE_CFG (02_the_store.md) -/
def TIER_S_HAZE_CFG (n : Nat) : Nat := 0x1e048 + 0x1000 * n
def TIER_S_HAZE_CFG_RATIO (n : Nat) : Fld := ⟨TIER_S_HAZE_CFG n, 0, 8, 32⟩
def TIER_S_HAZE_CFG_WINDOW_MS (n : Nat) : Fld := ⟨TIER_S_HAZE_CFG n, 8, 8, 10⟩
def TIER_S_HAZE_CFG_EXIT_MS (n : Nat) : Fld := ⟨TIER_S_HAZE_CFG n, 16, 16, 100⟩
def TIER_S_HAZE_CFG_EXIT_RATIO (n : Nat) : Fld := ⟨TIER_S_HAZE_CFG n, 32, 8, 20⟩
/-- TIER_S_MIG_STATS (02_the_store.md) -/
def TIER_S_MIG_STATS (n : Nat) : Nat := 0x1e050 + 0x1000 * n
def TIER_S_MIG_STATS_PROMOTED (n : Nat) : Fld := ⟨TIER_S_MIG_STATS n, 0, 32, 0⟩
def TIER_S_MIG_STATS_DEMOTED (n : Nat) : Fld := ⟨TIER_S_MIG_STATS n, 32, 32, 0⟩
/-- TIER_S_PROMOTE_DENIED (02_the_store.md) -/
def TIER_S_PROMOTE_DENIED (n : Nat) : Nat := 0x1e058 + 0x1000 * n
def TIER_S_PROMOTE_DENIED_COUNT (n : Nat) : Fld := ⟨TIER_S_PROMOTE_DENIED n, 0, 32, 0⟩
/-- TIER_S_TOUCH_MAX (02_the_store.md) -/
def TIER_S_TOUCH_MAX (n : Nat) : Nat := 0x1e060 + 0x1000 * n
def TIER_S_TOUCH_MAX_MAX_NS (n : Nat) : Fld := ⟨TIER_S_TOUCH_MAX n, 0, 16, 0⟩
def TIER_S_TOUCH_MAX_CLEAR (n : Nat) : Fld := ⟨TIER_S_TOUCH_MAX n, 63, 1, 0⟩
/-- TIER_S_DRIZZLE (02_the_store.md) -/
def TIER_S_DRIZZLE (n : Nat) : Nat := 0x1e068 + 0x1000 * n
def TIER_S_DRIZZLE_NEAR_PERIOD_H (n : Nat) : Fld := ⟨TIER_S_DRIZZLE n, 0, 8, 24⟩
def TIER_S_DRIZZLE_FAR_PERIOD_H (n : Nat) : Fld := ⟨TIER_S_DRIZZLE n, 8, 8, 24⟩
/-- TIER_S_DRIZZLE_STATUS (02_the_store.md) -/
def TIER_S_DRIZZLE_STATUS (n : Nat) : Nat := 0x1e070 + 0x1000 * n
def TIER_S_DRIZZLE_STATUS_NEAR_PASSES (n : Nat) : Fld := ⟨TIER_S_DRIZZLE_STATUS n, 0, 16, 0⟩
def TIER_S_DRIZZLE_STATUS_FAR_PASSES (n : Nat) : Fld := ⟨TIER_S_DRIZZLE_STATUS n, 16, 16, 0⟩
def TIER_S_DRIZZLE_STATUS_CORRECTED (n : Nat) : Fld := ⟨TIER_S_DRIZZLE_STATUS n, 32, 16, 0⟩
def TIER_S_DRIZZLE_STATUS_UNCORRECTED (n : Nat) : Fld := ⟨TIER_S_DRIZZLE_STATUS n, 48, 16, 0⟩
/-- HBM_H_STATUS (02_the_store.md) -/
def HBM_H_STATUS (n : Nat) : Nat := 0x22000 + 0x1000 * n
def HBM_H_STATUS_STATE (n : Nat) : Fld := ⟨HBM_H_STATUS n, 0, 3, 0⟩
def HBM_H_STATUS_IDENT_OK (n : Nat) : Fld := ⟨HBM_H_STATUS n, 3, 1, 0⟩
def HBM_H_STATUS_REASON (n : Nat) : Fld := ⟨HBM_H_STATUS n, 4, 4, 0⟩
/-- HBM_H_IDENT (02_the_store.md) -/
def HBM_H_IDENT (n : Nat) : Nat := 0x22008 + 0x1000 * n
def HBM_H_IDENT_VENDOR (n : Nat) : Fld := ⟨HBM_H_IDENT n, 0, 16, 0⟩
def HBM_H_IDENT_HEIGHT (n : Nat) : Fld := ⟨HBM_H_IDENT n, 16, 5, 0⟩
def HBM_H_IDENT_CAPACITY_GIB (n : Nat) : Fld := ⟨HBM_H_IDENT n, 21, 7, 0⟩
def HBM_H_IDENT_SERIAL (n : Nat) : Fld := ⟨HBM_H_IDENT n, 28, 36, 0⟩
/-- HBM_H_ECC (02_the_store.md) -/
def HBM_H_ECC (n : Nat) : Nat := 0x22010 + 0x1000 * n
def HBM_H_ECC_CORRECTED (n : Nat) : Fld := ⟨HBM_H_ECC n, 0, 32, 0⟩
def HBM_H_ECC_UNCORRECTED (n : Nat) : Fld := ⟨HBM_H_ECC n, 32, 16, 0⟩
/-- HBM_H_SPARE (02_the_store.md) -/
def HBM_H_SPARE (n : Nat) : Nat := 0x22018 + 0x1000 * n
def HBM_H_SPARE_USED (n : Nat) : Fld := ⟨HBM_H_SPARE n, 0, 10, 0⟩
def HBM_H_SPARE_TOTAL (n : Nat) : Fld := ⟨HBM_H_SPARE n, 10, 10, 512⟩
/-- HBM_H_ERR_ADDR (02_the_store.md) -/
def HBM_H_ERR_ADDR (n : Nat) : Nat := 0x22020 + 0x1000 * n
def HBM_H_ERR_ADDR_POOL_ADDR (n : Nat) : Fld := ⟨HBM_H_ERR_ADDR n, 0, 47, 0⟩
def HBM_H_ERR_ADDR_VALID (n : Nat) : Fld := ⟨HBM_H_ERR_ADDR n, 47, 1, 0⟩
/-- HBM_H_CTRL (02_the_store.md) -/
def HBM_H_CTRL (n : Nat) : Nat := 0x22028 + 0x1000 * n
def HBM_H_CTRL_ROW_SPARE_THRESH (n : Nat) : Fld := ⟨HBM_H_CTRL n, 0, 8, 16⟩
def HBM_H_CTRL_CLR_COUNTS (n : Nat) : Fld := ⟨HBM_H_CTRL n, 8, 1, 0⟩
/-- DDR_D_CTRL (02_the_store.md) -/
def DDR_D_CTRL (n : Nat) : Nat := 0x40000 + 0x1000 * n
def DDR_D_CTRL_SLOT_PWR (n : Nat) : Fld := ⟨DDR_D_CTRL n, 0, 1, 1⟩
def DDR_D_CTRL_RETIRE (n : Nat) : Fld := ⟨DDR_D_CTRL n, 1, 1, 0⟩
def DDR_D_CTRL_RETURN (n : Nat) : Fld := ⟨DDR_D_CTRL n, 2, 1, 0⟩
def DDR_D_CTRL_AUTO_RETIRE (n : Nat) : Fld := ⟨DDR_D_CTRL n, 3, 1, 1⟩
def DDR_D_CTRL_PSW_PRESENT (n : Nat) : Fld := ⟨DDR_D_CTRL n, 4, 1, 0⟩
def DDR_D_CTRL_CLR_COUNTS (n : Nat) : Fld := ⟨DDR_D_CTRL n, 5, 1, 0⟩
def DDR_D_CTRL_LOCK (n : Nat) : Fld := ⟨DDR_D_CTRL n, 63, 1, 0⟩
/-- DDR_D_STATUS (02_the_store.md) -/
def DDR_D_STATUS (n : Nat) : Nat := 0x40008 + 0x1000 * n
def DDR_D_STATUS_STATE (n : Nat) : Fld := ⟨DDR_D_STATUS n, 0, 4, 0⟩
def DDR_D_STATUS_REASON (n : Nat) : Fld := ⟨DDR_D_STATUS n, 4, 4, 0⟩
def DDR_D_STATUS_SPEED (n : Nat) : Fld := ⟨DDR_D_STATUS n, 8, 8, 0⟩
def DDR_D_STATUS_CAPACITY_GIB (n : Nat) : Fld := ⟨DDR_D_STATUS n, 16, 12, 0⟩
def DDR_D_STATUS_PRESENT (n : Nat) : Fld := ⟨DDR_D_STATUS n, 28, 1, 0⟩
def DDR_D_STATUS_PWR_GOOD (n : Nat) : Fld := ⟨DDR_D_STATUS n, 29, 1, 0⟩
def DDR_D_STATUS_GRANULES (n : Nat) : Fld := ⟨DDR_D_STATUS n, 32, 32, 0⟩
/-- DDR_D_SPD (02_the_store.md) -/
def DDR_D_SPD (n : Nat) : Nat := 0x40010 + 0x1000 * n
def DDR_D_SPD_MFR_ID (n : Nat) : Fld := ⟨DDR_D_SPD n, 0, 16, 0⟩
def DDR_D_SPD_SERIAL (n : Nat) : Fld := ⟨DDR_D_SPD n, 16, 32, 0⟩
def DDR_D_SPD_SPD_REV (n : Nat) : Fld := ⟨DDR_D_SPD n, 48, 8, 0⟩
/-- DDR_D_ECC (02_the_store.md) -/
def DDR_D_ECC (n : Nat) : Nat := 0x40018 + 0x1000 * n
def DDR_D_ECC_CORRECTED (n : Nat) : Fld := ⟨DDR_D_ECC n, 0, 32, 0⟩
def DDR_D_ECC_UNCORRECTED (n : Nat) : Fld := ⟨DDR_D_ECC n, 32, 16, 0⟩
def DDR_D_ECC_MARKED (n : Nat) : Fld := ⟨DDR_D_ECC n, 48, 5, 31⟩
/-- DDR_D_ERR_ADDR (02_the_store.md) -/
def DDR_D_ERR_ADDR (n : Nat) : Nat := 0x40020 + 0x1000 * n
def DDR_D_ERR_ADDR_POOL_ADDR (n : Nat) : Fld := ⟨DDR_D_ERR_ADDR n, 0, 47, 0⟩
def DDR_D_ERR_ADDR_VALID (n : Nat) : Fld := ⟨DDR_D_ERR_ADDR n, 47, 1, 0⟩
/-- DDR_D_TRAIN (02_the_store.md) -/
def DDR_D_TRAIN (n : Nat) : Nat := 0x40028 + 0x1000 * n
def DDR_D_TRAIN_LAST_MS (n : Nat) : Fld := ⟨DDR_D_TRAIN n, 0, 16, 0⟩
def DDR_D_TRAIN_ATTEMPTS (n : Nat) : Fld := ⟨DDR_D_TRAIN n, 16, 2, 0⟩
/-- XLT_CTRL (03_contexts_and_translation.md) -/
def XLT_CTRL : Nat := 0x8000
def XLT_CTRL_FAULT_TIMEOUT_MS : Fld := ⟨XLT_CTRL, 0, 16, 10⟩
def XLT_CTRL_SQUALL_SHARE : Fld := ⟨XLT_CTRL, 16, 16, 256⟩
def XLT_CTRL_LOCK : Fld := ⟨XLT_CTRL, 63, 1, 0⟩
/-- XLT_FQ_STATUS (03_contexts_and_translation.md) -/
def XLT_FQ_STATUS : Nat := 0x8008
def XLT_FQ_STATUS_RECORDS : Fld := ⟨XLT_FQ_STATUS, 0, 15, 0⟩
def XLT_FQ_STATUS_SQUALL : Fld := ⟨XLT_FQ_STATUS, 15, 1, 0⟩
def XLT_FQ_STATUS_WAITERS : Fld := ⟨XLT_FQ_STATUS, 16, 17, 0⟩
def XLT_FQ_STATUS_FULL : Fld := ⟨XLT_FQ_STATUS, 33, 1, 0⟩
def XLT_FQ_STATUS_STALLED : Fld := ⟨XLT_FQ_STATUS, 34, 16, 0⟩
/-- XLT_FQ_PTRS (03_contexts_and_translation.md) -/
def XLT_FQ_PTRS : Nat := 0x8010
def XLT_FQ_PTRS_TAIL : Fld := ⟨XLT_FQ_PTRS, 0, 14, 0⟩
def XLT_FQ_PTRS_TAIL_WRAP : Fld := ⟨XLT_FQ_PTRS, 14, 1, 0⟩
def XLT_FQ_PTRS_HEAD : Fld := ⟨XLT_FQ_PTRS, 32, 14, 0⟩
def XLT_FQ_PTRS_HEAD_WRAP : Fld := ⟨XLT_FQ_PTRS, 46, 1, 0⟩
/-- XLT_FQ_OVERFLOW (03_contexts_and_translation.md) -/
def XLT_FQ_OVERFLOW : Nat := 0x8018
def XLT_FQ_OVERFLOW_STALLS : Fld := ⟨XLT_FQ_OVERFLOW, 0, 32, 0⟩
def XLT_FQ_OVERFLOW_HELD : Fld := ⟨XLT_FQ_OVERFLOW, 32, 15, 0⟩
/-- XLT_FQ_COALESCED (03_contexts_and_translation.md) -/
def XLT_FQ_COALESCED : Nat := 0x8020
def XLT_FQ_COALESCED_COUNT : Fld := ⟨XLT_FQ_COALESCED, 0, 32, 0⟩
/-- XLT_SQUALL_STATS (03_contexts_and_translation.md) -/
def XLT_SQUALL_STATS : Nat := 0x8028
def XLT_SQUALL_STATS_ENTRIES : Fld := ⟨XLT_SQUALL_STATS, 0, 32, 0⟩
def XLT_SQUALL_STATS_THROTTLED : Fld := ⟨XLT_SQUALL_STATS, 32, 16, 0⟩
/-- XLT_INVAL_STATUS (03_contexts_and_translation.md) -/
def XLT_INVAL_STATUS : Nat := 0x8030
def XLT_INVAL_STATUS_BUSY : Fld := ⟨XLT_INVAL_STATUS, 0, 1, 0⟩
def XLT_INVAL_STATUS_LAST_US : Fld := ⟨XLT_INVAL_STATUS, 16, 16, 0⟩
def XLT_INVAL_STATUS_COUNT : Fld := ⟨XLT_INVAL_STATUS, 32, 32, 0⟩
/-- XLT_SWAP_BASE (03_contexts_and_translation.md) -/
def XLT_SWAP_BASE : Nat := 0x8038
def XLT_SWAP_BASE_FABRIC_BASE : Fld := ⟨XLT_SWAP_BASE, 0, 56, 0⟩
/-- XLT_SWAP_CFG (03_contexts_and_translation.md) -/
def XLT_SWAP_CFG : Nat := 0x8040
def XLT_SWAP_CFG_SLOTS : Fld := ⟨XLT_SWAP_CFG, 0, 24, 0⟩
def XLT_SWAP_CFG_REMOTE_CTX : Fld := ⟨XLT_SWAP_CFG, 24, 16, 0⟩
def XLT_SWAP_CFG_EN : Fld := ⟨XLT_SWAP_CFG, 48, 1, 0⟩
/-- XLT_SWAP_STATUS (03_contexts_and_translation.md) -/
def XLT_SWAP_STATUS : Nat := 0x8048
def XLT_SWAP_STATUS_USED : Fld := ⟨XLT_SWAP_STATUS, 0, 24, 0⟩
def XLT_SWAP_STATUS_SWAP_INS : Fld := ⟨XLT_SWAP_STATUS, 24, 32, 0⟩
/-- XLT_DENIED (03_contexts_and_translation.md) -/
def XLT_DENIED : Nat := 0x8050
def XLT_DENIED_QUEUE : Fld := ⟨XLT_DENIED, 0, 32, 0⟩
def XLT_DENIED_HOME : Fld := ⟨XLT_DENIED, 32, 32, 0⟩
/-- XLT_K_TLB (03_contexts_and_translation.md) -/
def XLT_K_TLB (n : Nat) : Nat := 0x8100 + 0x8 * n
def XLT_K_TLB_MISSES (n : Nat) : Fld := ⟨XLT_K_TLB n, 0, 32, 0⟩
def XLT_K_TLB_ENTRIES (n : Nat) : Fld := ⟨XLT_K_TLB n, 32, 15, 0⟩
def XLT_K_TLB_SEG_MISSES (n : Nat) : Fld := ⟨XLT_K_TLB n, 48, 16, 0⟩
/-- XLT_S_TLB (03_contexts_and_translation.md) -/
def XLT_S_TLB (n : Nat) : Nat := 0x8130 + 0x8 * n
def XLT_S_TLB_MISSES (n : Nat) : Fld := ⟨XLT_S_TLB n, 0, 32, 0⟩
def XLT_S_TLB_ENTRIES (n : Nat) : Fld := ⟨XLT_S_TLB n, 32, 15, 0⟩
def XLT_S_TLB_SEG_MISSES (n : Nat) : Fld := ⟨XLT_S_TLB n, 48, 16, 0⟩
/-- ANV_CTRL (04_fabric_requests.md) -/
def ANV_CTRL : Nat := 0xa000
def ANV_CTRL_RD_EN : Fld := ⟨ANV_CTRL, 0, 1, 1⟩
def ANV_CTRL_AT_EN : Fld := ⟨ANV_CTRL, 1, 1, 1⟩
def ANV_CTRL_RD_WINDOW : Fld := ⟨ANV_CTRL, 8, 7, 64⟩
def ANV_CTRL_AT_WINDOW : Fld := ⟨ANV_CTRL, 16, 7, 64⟩
def ANV_CTRL_HOT_SPAN : Fld := ⟨ANV_CTRL, 24, 13, 1024⟩
/-- ANV_STATUS (04_fabric_requests.md) -/
def ANV_STATUS : Nat := 0xa008
def ANV_STATUS_ENTRIES_OPEN : Fld := ⟨ANV_STATUS, 0, 13, 0⟩
def ANV_STATUS_HOT_LINES : Fld := ⟨ANV_STATUS, 16, 16, 0⟩
def ANV_STATUS_CLOSES : Fld := ⟨ANV_STATUS, 32, 32, 0⟩
/-- ANV_K_OUTSTANDING (04_fabric_requests.md) -/
def ANV_K_OUTSTANDING (n : Nat) : Nat := 0xa100 + 0x40 * n
def ANV_K_OUTSTANDING_IN_USE (n : Nat) : Fld := ⟨ANV_K_OUTSTANDING n, 0, 14, 0⟩
def ANV_K_OUTSTANDING_PEAK (n : Nat) : Fld := ⟨ANV_K_OUTSTANDING n, 16, 14, 0⟩
def ANV_K_OUTSTANDING_INIT_IN_USE (n : Nat) : Fld := ⟨ANV_K_OUTSTANDING n, 32, 14, 0⟩
def ANV_K_OUTSTANDING_TAG_ERRORS (n : Nat) : Fld := ⟨ANV_K_OUTSTANDING n, 48, 16, 0⟩
/-- ANV_K_RD_COMB (04_fabric_requests.md) -/
def ANV_K_RD_COMB (n : Nat) : Nat := 0xa108 + 0x40 * n
def ANV_K_RD_COMB_JOINED (n : Nat) : Fld := ⟨ANV_K_RD_COMB n, 0, 32, 0⟩
def ANV_K_RD_COMB_OPENED (n : Nat) : Fld := ⟨ANV_K_RD_COMB n, 32, 32, 0⟩
/-- ANV_K_AT_COMB (04_fabric_requests.md) -/
def ANV_K_AT_COMB (n : Nat) : Nat := 0xa110 + 0x40 * n
def ANV_K_AT_COMB_JOINED (n : Nat) : Fld := ⟨ANV_K_AT_COMB n, 0, 32, 0⟩
def ANV_K_AT_COMB_DISPATCHED (n : Nat) : Fld := ⟨ANV_K_AT_COMB n, 32, 32, 0⟩
/-- ANV_K_ORDER (04_fabric_requests.md) -/
def ANV_K_ORDER (n : Nat) : Nat := 0xa118 + 0x40 * n
def ANV_K_ORDER_SOURCES (n : Nat) : Fld := ⟨ANV_K_ORDER n, 0, 12, 0⟩
def ANV_K_ORDER_FULL (n : Nat) : Fld := ⟨ANV_K_ORDER n, 12, 1, 0⟩
def ANV_K_ORDER_FLAGS_HELD (n : Nat) : Fld := ⟨ANV_K_ORDER n, 16, 16, 0⟩
def ANV_K_ORDER_STALLS (n : Nat) : Fld := ⟨ANV_K_ORDER n, 32, 32, 0⟩
/-- ANV_K_FLAG (04_fabric_requests.md) -/
def ANV_K_FLAG (n : Nat) : Nat := 0xa120 + 0x40 * n
def ANV_K_FLAG_MAX_NS (n : Nat) : Fld := ⟨ANV_K_FLAG n, 0, 32, 0⟩
def ANV_K_FLAG_FAILED (n : Nat) : Fld := ⟨ANV_K_FLAG n, 32, 16, 0⟩
def ANV_K_FLAG_CLEAR (n : Nat) : Fld := ⟨ANV_K_FLAG n, 63, 1, 0⟩
/-- DIR_RSV_C2 (05_coherence.md) -/
def DIR_RSV_C2 : Nat := 0x18000
def DIR_RSV_C2_K0 : Fld := ⟨DIR_RSV_C2, 0, 7, 0⟩
def DIR_RSV_C2_K1 : Fld := ⟨DIR_RSV_C2, 8, 7, 0⟩
def DIR_RSV_C2_K2 : Fld := ⟨DIR_RSV_C2, 16, 7, 0⟩
def DIR_RSV_C2_K3 : Fld := ⟨DIR_RSV_C2, 24, 7, 0⟩
def DIR_RSV_C2_K4 : Fld := ⟨DIR_RSV_C2, 32, 7, 0⟩
def DIR_RSV_C2_K5 : Fld := ⟨DIR_RSV_C2, 40, 7, 0⟩
/-- DIR_RSV_C3 (05_coherence.md) -/
def DIR_RSV_C3 : Nat := 0x18008
def DIR_RSV_C3_K0 : Fld := ⟨DIR_RSV_C3, 0, 7, 0⟩
def DIR_RSV_C3_K1 : Fld := ⟨DIR_RSV_C3, 8, 7, 0⟩
def DIR_RSV_C3_K2 : Fld := ⟨DIR_RSV_C3, 16, 7, 0⟩
def DIR_RSV_C3_K3 : Fld := ⟨DIR_RSV_C3, 24, 7, 0⟩
def DIR_RSV_C3_K4 : Fld := ⟨DIR_RSV_C3, 32, 7, 0⟩
def DIR_RSV_C3_K5 : Fld := ⟨DIR_RSV_C3, 40, 7, 0⟩
/-- DIR_S_CTRL (05_coherence.md) -/
def DIR_S_CTRL (n : Nat) : Nat := 0x19000 + 0x1000 * n
def DIR_S_CTRL_HOLD_NS (n : Nat) : Fld := ⟨DIR_S_CTRL n, 0, 13, 256⟩
def DIR_S_CTRL_EXCL_EN (n : Nat) : Fld := ⟨DIR_S_CTRL n, 13, 1, 1⟩
def DIR_S_CTRL_FAST_UNRESP (n : Nat) : Fld := ⟨DIR_S_CTRL n, 14, 1, 1⟩
def DIR_S_CTRL_LOCK (n : Nat) : Fld := ⟨DIR_S_CTRL n, 63, 1, 0⟩
/-- DIR_S_RECALL_CFG (05_coherence.md) -/
def DIR_S_RECALL_CFG (n : Nat) : Nat := 0x19008 + 0x1000 * n
def DIR_S_RECALL_CFG_TIMEOUT_US (n : Nat) : Fld := ⟨DIR_S_RECALL_CFG n, 0, 10, 50⟩
def DIR_S_RECALL_CFG_RETRIES (n : Nat) : Fld := ⟨DIR_S_RECALL_CFG n, 10, 4, 8⟩
def DIR_S_RECALL_CFG_RSV_TIMEOUT_US (n : Nat) : Fld := ⟨DIR_S_RECALL_CFG n, 16, 10, 10⟩
/-- DIR_S_STATUS (05_coherence.md) -/
def DIR_S_STATUS (n : Nat) : Nat := 0x19010 + 0x1000 * n
def DIR_S_STATUS_ENTRIES (n : Nat) : Fld := ⟨DIR_S_STATUS n, 0, 23, 0⟩
def DIR_S_STATUS_MASK_ENTRIES (n : Nat) : Fld := ⟨DIR_S_STATUS n, 24, 23, 0⟩
def DIR_S_STATUS_LOST (n : Nat) : Fld := ⟨DIR_S_STATUS n, 48, 15, 0⟩
def DIR_S_STATUS_LOST_FULL (n : Nat) : Fld := ⟨DIR_S_STATUS n, 63, 1, 0⟩
/-- DIR_S_BUSY (05_coherence.md) -/
def DIR_S_BUSY (n : Nat) : Nat := 0x19018 + 0x1000 * n
def DIR_S_BUSY_TXN (n : Nat) : Fld := ⟨DIR_S_BUSY n, 0, 12, 0⟩
def DIR_S_BUSY_PENDING (n : Nat) : Fld := ⟨DIR_S_BUSY n, 16, 11, 0⟩
def DIR_S_BUSY_PEND_FULL (n : Nat) : Fld := ⟨DIR_S_BUSY n, 27, 1, 0⟩
def DIR_S_BUSY_PEND_STALLS (n : Nat) : Fld := ⟨DIR_S_BUSY n, 32, 32, 0⟩
/-- DIR_S_CACHE (05_coherence.md) -/
def DIR_S_CACHE (n : Nat) : Nat := 0x19020 + 0x1000 * n
def DIR_S_CACHE_HITS (n : Nat) : Fld := ⟨DIR_S_CACHE n, 0, 32, 0⟩
def DIR_S_CACHE_MISSES (n : Nat) : Fld := ⟨DIR_S_CACHE n, 32, 32, 0⟩
/-- DIR_S_RECALLS (05_coherence.md) -/
def DIR_S_RECALLS (n : Nat) : Nat := 0x19028 + 0x1000 * n
def DIR_S_RECALLS_TOTAL (n : Nat) : Fld := ⟨DIR_S_RECALLS n, 0, 32, 0⟩
def DIR_S_RECALLS_CAPACITY (n : Nat) : Fld := ⟨DIR_S_RECALLS n, 32, 32, 0⟩
/-- DIR_S_TIMEOUTS (05_coherence.md) -/
def DIR_S_TIMEOUTS (n : Nat) : Nat := 0x19030 + 0x1000 * n
def DIR_S_TIMEOUTS_OWNER_LOST (n : Nat) : Fld := ⟨DIR_S_TIMEOUTS n, 0, 16, 0⟩
def DIR_S_TIMEOUTS_SHARER_DROPPED (n : Nat) : Fld := ⟨DIR_S_TIMEOUTS n, 16, 16, 0⟩
def DIR_S_TIMEOUTS_RESENDS (n : Nat) : Fld := ⟨DIR_S_TIMEOUTS n, 32, 16, 0⟩
def DIR_S_TIMEOUTS_UNRESP (n : Nat) : Fld := ⟨DIR_S_TIMEOUTS n, 48, 16, 0⟩
/-- DIR_S_RETRY (05_coherence.md) -/
def DIR_S_RETRY (n : Nat) : Nat := 0x19038 + 0x1000 * n
def DIR_S_RETRY_ISSUED (n : Nat) : Fld := ⟨DIR_S_RETRY n, 0, 32, 0⟩
def DIR_S_RETRY_EXPIRED (n : Nat) : Fld := ⟨DIR_S_RETRY n, 32, 16, 0⟩
def DIR_S_RETRY_STRAY (n : Nat) : Fld := ⟨DIR_S_RETRY n, 48, 16, 0⟩
/-- DIR_S_LOST_ADDR (05_coherence.md) -/
def DIR_S_LOST_ADDR (n : Nat) : Nat := 0x19040 + 0x1000 * n
def DIR_S_LOST_ADDR_POOL_ADDR (n : Nat) : Fld := ⟨DIR_S_LOST_ADDR n, 0, 47, 0⟩
def DIR_S_LOST_ADDR_VALID (n : Nat) : Fld := ⟨DIR_S_LOST_ADDR n, 47, 1, 0⟩
def DIR_S_LOST_ADDR_PORT (n : Nat) : Fld := ⟨DIR_S_LOST_ADDR n, 48, 3, 0⟩
def DIR_S_LOST_ADDR_PARTNER (n : Nat) : Fld := ⟨DIR_S_LOST_ADDR n, 51, 8, 0⟩
/-- DIR_S_PUBLISH (05_coherence.md) -/
def DIR_S_PUBLISH (n : Nat) : Nat := 0x19048 + 0x1000 * n
def DIR_S_PUBLISH_COMMITTED (n : Nat) : Fld := ⟨DIR_S_PUBLISH n, 0, 32, 0⟩
def DIR_S_PUBLISH_STALE (n : Nat) : Fld := ⟨DIR_S_PUBLISH n, 32, 32, 0⟩
/-- RING_CTRL (06_rings_and_doorbells.md) -/
def RING_CTRL : Nat := 0x9000
def RING_CTRL_FETCH_BURST : Fld := ⟨RING_CTRL, 0, 7, 8⟩
def RING_CTRL_DISABLE_BOUND_US : Fld := ⟨RING_CTRL, 8, 16, 1000⟩
def RING_CTRL_LOCK : Fld := ⟨RING_CTRL, 63, 1, 0⟩
/-- RING_STATUS (06_rings_and_doorbells.md) -/
def RING_STATUS : Nat := 0x9008
def RING_STATUS_ENABLED : Fld := ⟨RING_STATUS, 0, 21, 0⟩
def RING_STATUS_DRAINING : Fld := ⟨RING_STATUS, 21, 21, 0⟩
def RING_STATUS_ERROR : Fld := ⟨RING_STATUS, 42, 21, 0⟩
/-- RING_QC_SEL (06_rings_and_doorbells.md) -/
def RING_QC_SEL : Nat := 0x9010
def RING_QC_SEL_RING : Fld := ⟨RING_QC_SEL, 0, 20, 0⟩
def RING_QC_SEL_CMD : Fld := ⟨RING_QC_SEL, 20, 2, 0⟩
def RING_QC_SEL_BUSY : Fld := ⟨RING_QC_SEL, 24, 1, 0⟩
def RING_QC_SEL_RESULT : Fld := ⟨RING_QC_SEL, 25, 5, 0⟩
/-- RING_QC_DATA (06_rings_and_doorbells.md) -/
def RING_QC_DATA (n : Nat) : Nat := 0x9018 + 0x8 * n
def RING_QC_DATA_WORD (n : Nat) : Fld := ⟨RING_QC_DATA n, 0, 64, 0⟩
/-- RING_CACHE (06_rings_and_doorbells.md) -/
def RING_CACHE : Nat := 0x9058
def RING_CACHE_HITS : Fld := ⟨RING_CACHE, 0, 32, 0⟩
def RING_CACHE_MISSES : Fld := ⟨RING_CACHE, 32, 32, 0⟩
/-- RING_DB_ERRORS (06_rings_and_doorbells.md) -/
def RING_DB_ERRORS : Nat := 0x9060
def RING_DB_ERRORS_CPAIR : Fld := ⟨RING_DB_ERRORS, 0, 16, 0⟩
def RING_DB_ERRORS_RANGE : Fld := ⟨RING_DB_ERRORS, 16, 16, 0⟩
def RING_DB_ERRORS_PATH : Fld := ⟨RING_DB_ERRORS, 32, 16, 0⟩
def RING_DB_ERRORS_DISABLED : Fld := ⟨RING_DB_ERRORS, 48, 16, 0⟩
/-- TP_CTRL (07_tensor_plane.md) -/
def TP_CTRL : Nat := 0x30000
def TP_CTRL_PLANE_EN : Fld := ⟨TP_CTRL, 0, 1, 1⟩
def TP_CTRL_SR_EN : Fld := ⟨TP_CTRL, 1, 1, 1⟩
def TP_CTRL_COUNT_EN : Fld := ⟨TP_CTRL, 2, 1, 1⟩
def TP_CTRL_LOCK : Fld := ⟨TP_CTRL, 63, 1, 0⟩
/-- TP_STATUS (07_tensor_plane.md) -/
def TP_STATUS : Nat := 0x30008
def TP_STATUS_TILES_ON : Fld := ⟨TP_STATUS, 0, 7, 0⟩
def TP_STATUS_TILES_RET : Fld := ⟨TP_STATUS, 7, 7, 0⟩
def TP_STATUS_TILES_OFF : Fld := ⟨TP_STATUS, 14, 7, 64⟩
def TP_STATUS_RUNNING : Fld := ⟨TP_STATUS, 21, 1, 0⟩
/-- TP_POWER_CFG (07_tensor_plane.md) -/
def TP_POWER_CFG : Nat := 0x30010
def TP_POWER_CFG_TILE_RET_US : Fld := ⟨TP_POWER_CFG, 0, 16, 10⟩
def TP_POWER_CFG_TILE_OFF_MS : Fld := ⟨TP_POWER_CFG, 16, 16, 100⟩
/-- TP_STALLS (07_tensor_plane.md) -/
def TP_STALLS : Nat := 0x30018
def TP_STALLS_PLANE_STALLS : Fld := ⟨TP_STALLS, 0, 32, 0⟩
/-- TP_MAINT_BASE (07_tensor_plane.md) -/
def TP_MAINT_BASE : Nat := 0x30020
def TP_MAINT_BASE_POOL_BASE : Fld := ⟨TP_MAINT_BASE, 0, 47, 0⟩
/-- TP_MAINT_LEN (07_tensor_plane.md) -/
def TP_MAINT_LEN : Nat := 0x30028
def TP_MAINT_LEN_LENGTH : Fld := ⟨TP_MAINT_LEN, 0, 40, 0⟩
/-- TP_MAINT_CMD (07_tensor_plane.md) -/
def TP_MAINT_CMD : Nat := 0x30030
def TP_MAINT_CMD_OP : Fld := ⟨TP_MAINT_CMD, 0, 2, 0⟩
def TP_MAINT_CMD_SECTORS : Fld := ⟨TP_MAINT_CMD, 4, 4, 0⟩
def TP_MAINT_CMD_BUSY : Fld := ⟨TP_MAINT_CMD, 8, 1, 0⟩
def TP_MAINT_CMD_RESULT : Fld := ⟨TP_MAINT_CMD, 16, 8, 0⟩
/-- TP_T_STATUS (07_tensor_plane.md) -/
def TP_T_STATUS (n : Nat) : Nat := 0x31000 + 0x40 * n
def TP_T_STATUS_STATE (n : Nat) : Fld := ⟨TP_T_STATUS n, 0, 2, 0⟩
def TP_T_STATUS_HAZY (n : Nat) : Fld := ⟨TP_T_STATUS n, 2, 1, 0⟩
def TP_T_STATUS_FAILED (n : Nat) : Fld := ⟨TP_T_STATUS n, 3, 1, 0⟩
def TP_T_STATUS_BANKS_ON (n : Nat) : Fld := ⟨TP_T_STATUS n, 8, 16, 0⟩
def TP_T_STATUS_BANKS_RET (n : Nat) : Fld := ⟨TP_T_STATUS n, 24, 16, 0⟩
def TP_T_STATUS_BUSY (n : Nat) : Fld := ⟨TP_T_STATUS n, 40, 1, 0⟩
/-- TP_T_FLAGS (07_tensor_plane.md) -/
def TP_T_FLAGS (n : Nat) : Nat := 0x31008 + 0x40 * n
def TP_T_FLAGS_INVALID (n : Nat) : Fld := ⟨TP_T_FLAGS n, 0, 1, 0⟩
def TP_T_FLAGS_OVERFLOW (n : Nat) : Fld := ⟨TP_T_FLAGS n, 1, 1, 0⟩
def TP_T_FLAGS_SATURATED (n : Nat) : Fld := ⟨TP_T_FLAGS n, 2, 1, 0⟩
def TP_T_FLAGS_INT_WRAP (n : Nat) : Fld := ⟨TP_T_FLAGS n, 3, 1, 0⟩
def TP_T_FLAGS_NAN_SCALE (n : Nat) : Fld := ⟨TP_T_FLAGS n, 4, 1, 0⟩
def TP_T_FLAGS_BANK_ERR (n : Nat) : Fld := ⟨TP_T_FLAGS n, 5, 1, 0⟩
/-- TP_T_CONFLICT0 (07_tensor_plane.md) -/
def TP_T_CONFLICT0 (n : Nat) : Nat := 0x31010 + 0x40 * n
def TP_T_CONFLICT0_MA (n : Nat) : Fld := ⟨TP_T_CONFLICT0 n, 0, 16, 0⟩
def TP_T_CONFLICT0_MB (n : Nat) : Fld := ⟨TP_T_CONFLICT0 n, 16, 16, 0⟩
def TP_T_CONFLICT0_ACC (n : Nat) : Fld := ⟨TP_T_CONFLICT0 n, 32, 16, 0⟩
def TP_T_CONFLICT0_VLD (n : Nat) : Fld := ⟨TP_T_CONFLICT0 n, 48, 16, 0⟩
/-- TP_T_CONFLICT1 (07_tensor_plane.md) -/
def TP_T_CONFLICT1 (n : Nat) : Nat := 0x31018 + 0x40 * n
def TP_T_CONFLICT1_VST (n : Nat) : Fld := ⟨TP_T_CONFLICT1 n, 0, 16, 0⟩
def TP_T_CONFLICT1_CPY (n : Nat) : Fld := ⟨TP_T_CONFLICT1 n, 16, 16, 0⟩
def TP_T_CONFLICT1_SAVE (n : Nat) : Fld := ⟨TP_T_CONFLICT1 n, 32, 16, 0⟩
def TP_T_CONFLICT1_CLEAR (n : Nat) : Fld := ⟨TP_T_CONFLICT1 n, 63, 1, 0⟩
/-- TP_T_ECC (07_tensor_plane.md) -/
def TP_T_ECC (n : Nat) : Nat := 0x31020 + 0x40 * n
def TP_T_ECC_CORRECTED (n : Nat) : Fld := ⟨TP_T_ECC n, 0, 32, 0⟩
def TP_T_ECC_UNCORRECTED (n : Nat) : Fld := ⟨TP_T_ECC n, 32, 16, 0⟩
/-- TP_S_CACHE_CFG (07_tensor_plane.md) -/
def TP_S_CACHE_CFG (n : Nat) : Nat := 0x32000 + 0x100 * n
def TP_S_CACHE_CFG_GUEST_WAYS (n : Nat) : Fld := ⟨TP_S_CACHE_CFG n, 0, 5, 8⟩
def TP_S_CACHE_CFG_FLUSH_GBPS (n : Nat) : Fld := ⟨TP_S_CACHE_CFG n, 16, 10, 512⟩
def TP_S_CACHE_CFG_LOCK (n : Nat) : Fld := ⟨TP_S_CACHE_CFG n, 63, 1, 0⟩
/-- TP_S_CACHE_STATS (07_tensor_plane.md) -/
def TP_S_CACHE_STATS (n : Nat) : Nat := 0x32008 + 0x100 * n
def TP_S_CACHE_STATS_HITS (n : Nat) : Fld := ⟨TP_S_CACHE_STATS n, 0, 32, 0⟩
def TP_S_CACHE_STATS_MISSES (n : Nat) : Fld := ⟨TP_S_CACHE_STATS n, 32, 32, 0⟩
/-- TP_S_GUEST (07_tensor_plane.md) -/
def TP_S_GUEST (n : Nat) : Nat := 0x32010 + 0x100 * n
def TP_S_GUEST_LINES (n : Nat) : Fld := ⟨TP_S_GUEST n, 0, 19, 0⟩
def TP_S_GUEST_DIRTY (n : Nat) : Fld := ⟨TP_S_GUEST n, 19, 19, 0⟩
def TP_S_GUEST_REGIONS (n : Nat) : Fld := ⟨TP_S_GUEST n, 38, 13, 0⟩
/-- TP_S_FLUSH (07_tensor_plane.md) -/
def TP_S_FLUSH (n : Nat) : Nat := 0x32018 + 0x100 * n
def TP_S_FLUSH_COUNT (n : Nat) : Fld := ⟨TP_S_FLUSH n, 0, 32, 0⟩
def TP_S_FLUSH_LAST_US (n : Nat) : Fld := ⟨TP_S_FLUSH n, 32, 16, 0⟩
def TP_S_FLUSH_TRACKER_EVICTIONS (n : Nat) : Fld := ⟨TP_S_FLUSH n, 48, 16, 0⟩
/-- TP_S_ACQUIRE (07_tensor_plane.md) -/
def TP_S_ACQUIRE (n : Nat) : Nat := 0x32020 + 0x100 * n
def TP_S_ACQUIRE_COUNT (n : Nat) : Fld := ⟨TP_S_ACQUIRE n, 0, 32, 0⟩
def TP_S_ACQUIRE_STALE_MISSES (n : Nat) : Fld := ⟨TP_S_ACQUIRE n, 32, 32, 0⟩
/-- TP_S_STAMP (07_tensor_plane.md) -/
def TP_S_STAMP (n : Nat) : Nat := 0x32028 + 0x100 * n
def TP_S_STAMP_STAMP (n : Nat) : Fld := ⟨TP_S_STAMP n, 0, 48, 1⟩
def TP_S_STAMP_WRAPS (n : Nat) : Fld := ⟨TP_S_STAMP n, 48, 16, 0⟩
/-- TP_SEQ_CTRL (08_instruction_stream.md) -/
def TP_SEQ_CTRL : Nat := 0x33000
def TP_SEQ_CTRL_QUANTUM_US : Fld := ⟨TP_SEQ_CTRL, 0, 16, 1000⟩
def TP_SEQ_CTRL_MAX_RESTARTS : Fld := ⟨TP_SEQ_CTRL, 16, 4, 2⟩
def TP_SEQ_CTRL_FETCH_LEAD : Fld := ⟨TP_SEQ_CTRL, 20, 8, 128⟩
/-- TP_SEQ_STATUS (08_instruction_stream.md) -/
def TP_SEQ_STATUS : Nat := 0x33008
def TP_SEQ_STATUS_STATE : Fld := ⟨TP_SEQ_STATUS, 0, 3, 0⟩
def TP_SEQ_STATUS_CONTEXT : Fld := ⟨TP_SEQ_STATUS, 3, 16, 0⟩
def TP_SEQ_STATUS_BUNDLE : Fld := ⟨TP_SEQ_STATUS, 19, 24, 0⟩
def TP_SEQ_STATUS_SUSPENDED : Fld := ⟨TP_SEQ_STATUS, 43, 9, 0⟩
/-- TP_SEQ_ERR (08_instruction_stream.md) -/
def TP_SEQ_ERR : Nat := 0x33010
def TP_SEQ_ERR_KIND : Fld := ⟨TP_SEQ_ERR, 0, 4, 0⟩
def TP_SEQ_ERR_BUNDLE : Fld := ⟨TP_SEQ_ERR, 4, 24, 0⟩
def TP_SEQ_ERR_CONTEXT : Fld := ⟨TP_SEQ_ERR, 28, 16, 0⟩
def TP_SEQ_ERR_VALID : Fld := ⟨TP_SEQ_ERR, 44, 1, 0⟩
/-- TP_SEQ_STATS (08_instruction_stream.md) -/
def TP_SEQ_STATS : Nat := 0x33018
def TP_SEQ_STATS_KERNELS : Fld := ⟨TP_SEQ_STATS, 0, 32, 0⟩
def TP_SEQ_STATS_RESTARTS : Fld := ⟨TP_SEQ_STATS, 32, 16, 0⟩
def TP_SEQ_STATS_SWITCHES : Fld := ⟨TP_SEQ_STATS, 48, 16, 0⟩
/-- TP_SEQ_FETCH (08_instruction_stream.md) -/
def TP_SEQ_FETCH : Nat := 0x33020
def TP_SEQ_FETCH_UNDERRUN : Fld := ⟨TP_SEQ_FETCH, 0, 32, 0⟩
def TP_SEQ_FETCH_SYNC_HOLD : Fld := ⟨TP_SEQ_FETCH, 32, 32, 0⟩
/-- TP_SEQ_QUEUE (08_instruction_stream.md) -/
def TP_SEQ_QUEUE : Nat := 0x33028
def TP_SEQ_QUEUE_QUEUED : Fld := ⟨TP_SEQ_QUEUE, 0, 13, 0⟩
def TP_SEQ_QUEUE_PEAK : Fld := ⟨TP_SEQ_QUEUE, 13, 13, 0⟩
/-- CPY_CTRL (08_instruction_stream.md) -/
def CPY_CTRL : Nat := 0xd000
def CPY_CTRL_RATE_GBPS : Fld := ⟨CPY_CTRL, 0, 10, 512⟩
def CPY_CTRL_RING_SHARE : Fld := ⟨CPY_CTRL, 16, 7, 25⟩
def CPY_CTRL_LOCK : Fld := ⟨CPY_CTRL, 63, 1, 0⟩
/-- CPY_C_STATUS (08_instruction_stream.md) -/
def CPY_C_STATUS (n : Nat) : Nat := 0xd100 + 0x40 * n
def CPY_C_STATUS_STATE (n : Nat) : Fld := ⟨CPY_C_STATUS n, 0, 2, 0⟩
def CPY_C_STATUS_KQ (n : Nat) : Fld := ⟨CPY_C_STATUS n, 2, 6, 0⟩
def CPY_C_STATUS_RQ (n : Nat) : Fld := ⟨CPY_C_STATUS n, 8, 7, 0⟩
def CPY_C_STATUS_INFLIGHT (n : Nat) : Fld := ⟨CPY_C_STATUS n, 15, 11, 0⟩
/-- CPY_C_BYTES (08_instruction_stream.md) -/
def CPY_C_BYTES (n : Nat) : Nat := 0xd108 + 0x40 * n
def CPY_C_BYTES_BYTES (n : Nat) : Fld := ⟨CPY_C_BYTES n, 0, 64, 0⟩
/-- CPY_C_COPIES (08_instruction_stream.md) -/
def CPY_C_COPIES (n : Nat) : Nat := 0xd110 + 0x40 * n
def CPY_C_COPIES_COMPLETED (n : Nat) : Fld := ⟨CPY_C_COPIES n, 0, 32, 0⟩
def CPY_C_COPIES_FAULTED (n : Nat) : Fld := ⟨CPY_C_COPIES n, 32, 16, 0⟩
def CPY_C_COPIES_POISONED (n : Nat) : Fld := ⟨CPY_C_COPIES n, 48, 16, 0⟩
/-- CPY_C_STALLS (08_instruction_stream.md) -/
def CPY_C_STALLS (n : Nat) : Nat := 0xd118 + 0x40 * n
def CPY_C_STALLS_SLOT_STALLS (n : Nat) : Fld := ⟨CPY_C_STALLS n, 0, 32, 0⟩
def CPY_C_STALLS_TAG_WAITS (n : Nat) : Fld := ⟨CPY_C_STALLS n, 32, 32, 0⟩
/-- CPY_C_DECOMP (08_instruction_stream.md) -/
def CPY_C_DECOMP (n : Nat) : Nat := 0xd120 + 0x40 * n
def CPY_C_DECOMP_GRANULES (n : Nat) : Fld := ⟨CPY_C_DECOMP n, 0, 32, 0⟩
def CPY_C_DECOMP_TOUCHES (n : Nat) : Fld := ⟨CPY_C_DECOMP n, 32, 32, 0⟩
/-- EMB_CTRL (09_embedding_engines.md) -/
def EMB_CTRL : Nat := 0xe000
def EMB_CTRL_EN : Fld := ⟨EMB_CTRL, 0, 1, 1⟩
def EMB_CTRL_BAL_EN : Fld := ⟨EMB_CTRL, 1, 1, 1⟩
def EMB_CTRL_BAL_RATIO : Fld := ⟨EMB_CTRL, 8, 8, 24⟩
def EMB_CTRL_BAL_EPOCH_MS : Fld := ⟨EMB_CTRL, 16, 16, 100⟩
def EMB_CTRL_BAL_MAX : Fld := ⟨EMB_CTRL, 32, 16, 1024⟩
def EMB_CTRL_PIN_LOG2 : Fld := ⟨EMB_CTRL, 48, 5, 10⟩
def EMB_CTRL_LOCK : Fld := ⟨EMB_CTRL, 63, 1, 0⟩
/-- EMB_TIMING (09_embedding_engines.md) -/
def EMB_TIMING : Nat := 0xe008
def EMB_TIMING_HOOK_MS : Fld := ⟨EMB_TIMING, 0, 16, 1000⟩
def EMB_TIMING_PIN_US : Fld := ⟨EMB_TIMING, 16, 16, 1000⟩
def EMB_TIMING_PIN_MIB : Fld := ⟨EMB_TIMING, 32, 4, 4⟩
/-- EMB_TABLES (09_embedding_engines.md) -/
def EMB_TABLES : Nat := 0xe010
def EMB_TABLES_VERSIONS : Fld := ⟨EMB_TABLES, 0, 18, 0⟩
def EMB_TABLES_RETIRING : Fld := ⟨EMB_TABLES, 18, 18, 0⟩
def EMB_TABLES_HOOKS : Fld := ⟨EMB_TABLES, 36, 5, 0⟩
/-- EMB_E_STATUS (09_embedding_engines.md) -/
def EMB_E_STATUS (n : Nat) : Nat := 0xe100 + 0x40 * n
def EMB_E_STATUS_STATE (n : Nat) : Fld := ⟨EMB_E_STATUS n, 0, 2, 0⟩
def EMB_E_STATUS_INFLIGHT (n : Nat) : Fld := ⟨EMB_E_STATUS n, 2, 11, 0⟩
def EMB_E_STATUS_BUF (n : Nat) : Fld := ⟨EMB_E_STATUS n, 13, 17, 0⟩
def EMB_E_STATUS_PASSES (n : Nat) : Fld := ⟨EMB_E_STATUS n, 30, 7, 0⟩
def EMB_E_STATUS_SUBSTITUTE (n : Nat) : Fld := ⟨EMB_E_STATUS n, 37, 1, 0⟩
/-- EMB_E_STATS (09_embedding_engines.md) -/
def EMB_E_STATS (n : Nat) : Nat := 0xe108 + 0x40 * n
def EMB_E_STATS_JOBS (n : Nat) : Fld := ⟨EMB_E_STATS n, 0, 24, 0⟩
def EMB_E_STATS_ROW_RMW (n : Nat) : Fld := ⟨EMB_E_STATS n, 24, 32, 0⟩
def EMB_E_STATS_NONFINITE (n : Nat) : Fld := ⟨EMB_E_STATS n, 56, 8, 0⟩
/-- EMB_E_INDICES (09_embedding_engines.md) -/
def EMB_E_INDICES (n : Nat) : Nat := 0xe110 + 0x40 * n
def EMB_E_INDICES_INVALID (n : Nat) : Fld := ⟨EMB_E_INDICES n, 0, 32, 0⟩
def EMB_E_INDICES_MISSING (n : Nat) : Fld := ⟨EMB_E_INDICES n, 32, 32, 0⟩
/-- EMB_E_COMBINE (09_embedding_engines.md) -/
def EMB_E_COMBINE (n : Nat) : Nat := 0xe118 + 0x40 * n
def EMB_E_COMBINE_DUPLICATES (n : Nat) : Fld := ⟨EMB_E_COMBINE n, 0, 32, 0⟩
def EMB_E_COMBINE_RESTARTS (n : Nat) : Fld := ⟨EMB_E_COMBINE n, 32, 16, 0⟩
def EMB_E_COMBINE_PINNED (n : Nat) : Fld := ⟨EMB_E_COMBINE n, 48, 16, 0⟩
/-- EMB_E_LOAD (09_embedding_engines.md) -/
def EMB_E_LOAD (n : Nat) : Nat := 0xe120 + 0x40 * n
def EMB_E_LOAD_LAST_EPOCH (n : Nat) : Fld := ⟨EMB_E_LOAD n, 0, 32, 0⟩
def EMB_E_LOAD_RELOCATED (n : Nat) : Fld := ⟨EMB_E_LOAD n, 32, 21, 0⟩
/-- SRCH_CTRL (10_hamming_search.md) -/
def SRCH_CTRL : Nat := 0xf000
def SRCH_CTRL_EN : Fld := ⟨SRCH_CTRL, 0, 1, 1⟩
def SRCH_CTRL_PREFETCH : Fld := ⟨SRCH_CTRL, 1, 4, 4⟩
def SRCH_CTRL_LOCK : Fld := ⟨SRCH_CTRL, 63, 1, 0⟩
/-- SRCH_INDEXES (10_hamming_search.md) -/
def SRCH_INDEXES : Nat := 0xf008
def SRCH_INDEXES_DEFS : Fld := ⟨SRCH_INDEXES, 0, 15, 0⟩
def SRCH_INDEXES_RETIRING : Fld := ⟨SRCH_INDEXES, 15, 15, 0⟩
/-- SRCH_Q_STATUS (10_hamming_search.md) -/
def SRCH_Q_STATUS (n : Nat) : Nat := 0xf100 + 0x40 * n
def SRCH_Q_STATUS_STATE (n : Nat) : Fld := ⟨SRCH_Q_STATUS n, 0, 2, 0⟩
def SRCH_Q_STATUS_INFLIGHT (n : Nat) : Fld := ⟨SRCH_Q_STATUS n, 2, 11, 0⟩
def SRCH_Q_STATUS_SUBSTITUTE (n : Nat) : Fld := ⟨SRCH_Q_STATUS n, 13, 1, 0⟩
/-- SRCH_Q_STATS (10_hamming_search.md) -/
def SRCH_Q_STATS (n : Nat) : Nat := 0xf108 + 0x40 * n
def SRCH_Q_STATS_QUERIES (n : Nat) : Fld := ⟨SRCH_Q_STATS n, 0, 32, 0⟩
def SRCH_Q_STATS_SHORT (n : Nat) : Fld := ⟨SRCH_Q_STATS n, 32, 16, 0⟩
def SRCH_Q_STATS_RESTARTS (n : Nat) : Fld := ⟨SRCH_Q_STATS n, 48, 16, 0⟩
/-- SRCH_Q_SCAN (10_hamming_search.md) -/
def SRCH_Q_SCAN (n : Nat) : Nat := 0xf110 + 0x40 * n
def SRCH_Q_SCAN_BYTES (n : Nat) : Fld := ⟨SRCH_Q_SCAN n, 0, 64, 0⟩
/-- SRCH_Q_GRAPH (10_hamming_search.md) -/
def SRCH_Q_GRAPH (n : Nat) : Nat := 0xf118 + 0x40 * n
def SRCH_Q_GRAPH_RECORDS (n : Nat) : Fld := ⟨SRCH_Q_GRAPH n, 0, 32, 0⟩
def SRCH_Q_GRAPH_STALE (n : Nat) : Fld := ⟨SRCH_Q_GRAPH n, 32, 32, 0⟩
/-- SRCH_Q_FILTER (10_hamming_search.md) -/
def SRCH_Q_FILTER (n : Nat) : Nat := 0xf120 + 0x40 * n
def SRCH_Q_FILTER_REJECTED (n : Nat) : Fld := ⟨SRCH_Q_FILTER n, 0, 32, 0⟩
def SRCH_Q_FILTER_POISON_SKIPPED (n : Nat) : Fld := ⟨SRCH_Q_FILTER n, 32, 16, 0⟩
def SRCH_Q_FILTER_BUDGET_HITS (n : Nat) : Fld := ⟨SRCH_Q_FILTER n, 48, 16, 0⟩
/-- SRCH_Q_UPDATE (10_hamming_search.md) -/
def SRCH_Q_UPDATE (n : Nat) : Nat := 0xf128 + 0x40 * n
def SRCH_Q_UPDATE_INSERTS (n : Nat) : Fld := ⟨SRCH_Q_UPDATE n, 0, 32, 0⟩
def SRCH_Q_UPDATE_DELETES (n : Nat) : Fld := ⟨SRCH_Q_UPDATE n, 32, 32, 0⟩
/-- BLK_CTRL (11_block_store.md) -/
def BLK_CTRL : Nat := 0x10000
def BLK_CTRL_EN : Fld := ⟨BLK_CTRL, 0, 1, 1⟩
def BLK_CTRL_LOCK : Fld := ⟨BLK_CTRL, 63, 1, 0⟩
/-- BLK_TIMING (11_block_store.md) -/
def BLK_TIMING : Nat := 0x10008
def BLK_TIMING_HANDOFF_MS : Fld := ⟨BLK_TIMING, 0, 16, 50⟩
def BLK_TIMING_ACK_RESEND_US : Fld := ⟨BLK_TIMING, 16, 16, 1000⟩
def BLK_TIMING_GIVEUP_MS : Fld := ⟨BLK_TIMING, 32, 16, 200⟩
def BLK_TIMING_GONE_MS : Fld := ⟨BLK_TIMING, 48, 16, 400⟩
/-- BLK_STATUS (11_block_store.md) -/
def BLK_STATUS : Nat := 0x10010
def BLK_STATUS_SPACES : Fld := ⟨BLK_STATUS, 0, 9, 0⟩
def BLK_STATUS_LEDGER : Fld := ⟨BLK_STATUS, 9, 21, 0⟩
def BLK_STATUS_SENDING : Fld := ⟨BLK_STATUS, 30, 16, 0⟩
def BLK_STATUS_ACKED : Fld := ⟨BLK_STATUS, 46, 16, 0⟩
/-- BLK_HANDOFF_STATS (11_block_store.md) -/
def BLK_HANDOFF_STATS : Nat := 0x10018
def BLK_HANDOFF_STATS_COMPLETED : Fld := ⟨BLK_HANDOFF_STATS, 0, 32, 0⟩
def BLK_HANDOFF_STATS_RECLAIMED : Fld := ⟨BLK_HANDOFF_STATS, 32, 16, 0⟩
def BLK_HANDOFF_STATS_STALE : Fld := ⟨BLK_HANDOFF_STATS, 48, 16, 0⟩
/-- BLK_LOG_CFG (11_block_store.md) -/
def BLK_LOG_CFG : Nat := 0x10020
def BLK_LOG_CFG_LOG_GIB : Fld := ⟨BLK_LOG_CFG, 0, 7, 4⟩
/-- BLK_LOG_STATUS (11_block_store.md) -/
def BLK_LOG_STATUS : Nat := 0x10028
def BLK_LOG_STATUS_USED_MIB : Fld := ⟨BLK_LOG_STATUS, 0, 17, 0⟩
def BLK_LOG_STATUS_OPEN : Fld := ⟨BLK_LOG_STATUS, 17, 24, 0⟩
def BLK_LOG_STATUS_WAITING : Fld := ⟨BLK_LOG_STATUS, 41, 1, 0⟩
/-- BLK_LOG_STATS (11_block_store.md) -/
def BLK_LOG_STATS : Nat := 0x10030
def BLK_LOG_STATS_RECORDS : Fld := ⟨BLK_LOG_STATS, 0, 32, 0⟩
def BLK_LOG_STATS_WAITS : Fld := ⟨BLK_LOG_STATS, 32, 32, 0⟩
/-- BLK_B_STATUS (11_block_store.md) -/
def BLK_B_STATUS (n : Nat) : Nat := 0x10100 + 0x40 * n
def BLK_B_STATUS_STATE (n : Nat) : Fld := ⟨BLK_B_STATUS n, 0, 2, 0⟩
def BLK_B_STATUS_INFLIGHT (n : Nat) : Fld := ⟨BLK_B_STATUS n, 2, 11, 0⟩
def BLK_B_STATUS_SUBSTITUTE (n : Nat) : Fld := ⟨BLK_B_STATUS n, 13, 1, 0⟩
/-- BLK_B_OPS (11_block_store.md) -/
def BLK_B_OPS (n : Nat) : Nat := 0x10108 + 0x40 * n
def BLK_B_OPS_GETS (n : Nat) : Fld := ⟨BLK_B_OPS n, 0, 32, 0⟩
def BLK_B_OPS_PUTS (n : Nat) : Fld := ⟨BLK_B_OPS n, 32, 32, 0⟩
/-- BLK_B_LEASE (11_block_store.md) -/
def BLK_B_LEASE (n : Nat) : Nat := 0x10110 + 0x40 * n
def BLK_B_LEASE_EVICTED (n : Nat) : Fld := ⟨BLK_B_LEASE n, 0, 32, 0⟩
def BLK_B_LEASE_PROBE_FULL (n : Nat) : Fld := ⟨BLK_B_LEASE n, 32, 16, 0⟩
def BLK_B_LEASE_PIN_FULL (n : Nat) : Fld := ⟨BLK_B_LEASE n, 48, 16, 0⟩
/-- KZP_CTRL (12_kwazia_ports.md) -/
def KZP_CTRL (n : Nat) : Nat := 0x12000 + 0x1000 * n
def KZP_CTRL_EN (n : Nat) : Fld := ⟨KZP_CTRL n, 0, 1, 1⟩
def KZP_CTRL_PERSONALITY (n : Nat) : Fld := ⟨KZP_CTRL n, 1, 1, 0⟩
def KZP_CTRL_MIN_LINKS (n : Nat) : Fld := ⟨KZP_CTRL n, 2, 3, 1⟩
def KZP_CTRL_REKEY_LOG2 (n : Nat) : Fld := ⟨KZP_CTRL n, 8, 6, 40⟩
def KZP_CTRL_LOCK (n : Nat) : Fld := ⟨KZP_CTRL n, 63, 1, 0⟩
/-- KZP_STATUS (12_kwazia_ports.md) -/
def KZP_STATUS (n : Nat) : Nat := 0x12008 + 0x1000 * n
def KZP_STATUS_STATE (n : Nat) : Fld := ⟨KZP_STATUS n, 0, 2, 0⟩
def KZP_STATUS_LINK_SET (n : Nat) : Fld := ⟨KZP_STATUS n, 2, 6, 0⟩
def KZP_STATUS_HAZY (n : Nat) : Fld := ⟨KZP_STATUS n, 8, 6, 0⟩
def KZP_STATUS_SESSION (n : Nat) : Fld := ⟨KZP_STATUS n, 16, 16, 0⟩
def KZP_STATUS_REASON (n : Nat) : Fld := ⟨KZP_STATUS n, 32, 4, 0⟩
/-- KZP_PEER (12_kwazia_ports.md) -/
def KZP_PEER (n : Nat) : Nat := 0x12010 + 0x1000 * n
def KZP_PEER_PEER_ID (n : Nat) : Fld := ⟨KZP_PEER n, 0, 64, 0⟩
/-- KZP_CRYPTO (12_kwazia_ports.md) -/
def KZP_CRYPTO (n : Nat) : Nat := 0x12018 + 0x1000 * n
def KZP_CRYPTO_TAG_FAILS (n : Nat) : Fld := ⟨KZP_CRYPTO n, 0, 16, 0⟩
def KZP_CRYPTO_REKEYS (n : Nat) : Fld := ⟨KZP_CRYPTO n, 16, 16, 0⟩
def KZP_CRYPTO_KEY_WAIT (n : Nat) : Fld := ⟨KZP_CRYPTO n, 32, 6, 0⟩
/-- KZP_CXL_CFG (12_kwazia_ports.md) -/
def KZP_CXL_CFG (n : Nat) : Nat := 0x12020 + 0x1000 * n
def KZP_CXL_CFG_CXL_CTX (n : Nat) : Fld := ⟨KZP_CXL_CFG n, 0, 16, 0⟩
def KZP_CXL_CFG_CXL_TENANT (n : Nat) : Fld := ⟨KZP_CXL_CFG n, 16, 8, 0⟩
/-- KZP_CXL_VA (12_kwazia_ports.md) -/
def KZP_CXL_VA (n : Nat) : Nat := 0x12028 + 0x1000 * n
def KZP_CXL_VA_CXL_VA_BASE (n : Nat) : Fld := ⟨KZP_CXL_VA n, 0, 57, 0⟩
/-- KZP_CXL_STATUS (12_kwazia_ports.md) -/
def KZP_CXL_STATUS (n : Nat) : Nat := 0x12030 + 0x1000 * n
def KZP_CXL_STATUS_LINK_UP (n : Nat) : Fld := ⟨KZP_CXL_STATUS n, 0, 1, 0⟩
def KZP_CXL_STATUS_MEM_EN (n : Nat) : Fld := ⟨KZP_CXL_STATUS n, 1, 1, 0⟩
def KZP_CXL_STATUS_WR_DROPPED (n : Nat) : Fld := ⟨KZP_CXL_STATUS n, 16, 16, 0⟩
def KZP_CXL_STATUS_RD_POISONED (n : Nat) : Fld := ⟨KZP_CXL_STATUS n, 32, 16, 0⟩
def KZP_CXL_STATUS_UNSUPPORTED (n : Nat) : Fld := ⟨KZP_CXL_STATUS n, 48, 16, 0⟩
/-- KZP_L_STATUS (12_kwazia_ports.md) -/
def KZP_L_STATUS (n : Nat) (m : Nat) : Nat := 0x12100 + 0x1000 * n + 0x20 * m
def KZP_L_STATUS_STATE (n : Nat) (m : Nat) : Fld := ⟨KZP_L_STATUS n m, 0, 3, 0⟩
def KZP_L_STATUS_WIDTH (n : Nat) (m : Nat) : Fld := ⟨KZP_L_STATUS n m, 3, 1, 0⟩
def KZP_L_STATUS_LANES_OK (n : Nat) (m : Nat) : Fld := ⟨KZP_L_STATUS n m, 4, 4, 0⟩
def KZP_L_STATUS_REASON (n : Nat) (m : Nat) : Fld := ⟨KZP_L_STATUS n m, 8, 4, 0⟩
def KZP_L_STATUS_LAST_TRAIN_MS (n : Nat) (m : Nat) : Fld := ⟨KZP_L_STATUS n m, 12, 12, 0⟩
def KZP_L_STATUS_TX_COUNTER_HI (n : Nat) (m : Nat) : Fld := ⟨KZP_L_STATUS n m, 24, 40, 0⟩
/-- KZP_L_CTRL (12_kwazia_ports.md) -/
def KZP_L_CTRL (n : Nat) (m : Nat) : Nat := 0x12108 + 0x1000 * n + 0x20 * m
def KZP_L_CTRL_RETIRE (n : Nat) (m : Nat) : Fld := ⟨KZP_L_CTRL n m, 0, 1, 0⟩
def KZP_L_CTRL_RETURN (n : Nat) (m : Nat) : Fld := ⟨KZP_L_CTRL n m, 1, 1, 0⟩
def KZP_L_CTRL_RETRAIN (n : Nat) (m : Nat) : Fld := ⟨KZP_L_CTRL n m, 2, 1, 0⟩
/-- KZP_L_ERRS (12_kwazia_ports.md) -/
def KZP_L_ERRS (n : Nat) (m : Nat) : Nat := 0x12110 + 0x1000 * n + 0x20 * m
def KZP_L_ERRS_FEC_CORR (n : Nat) (m : Nat) : Fld := ⟨KZP_L_ERRS n m, 0, 32, 0⟩
def KZP_L_ERRS_FEC_UNCORR (n : Nat) (m : Nat) : Fld := ⟨KZP_L_ERRS n m, 32, 16, 0⟩
def KZP_L_ERRS_REPLAYS (n : Nat) (m : Nat) : Fld := ⟨KZP_L_ERRS n m, 48, 16, 0⟩
/-- KZP_OE_STATUS (12_kwazia_ports.md) -/
def KZP_OE_STATUS (n : Nat) (m : Nat) : Nat := 0x12200 + 0x1000 * n + 0x20 * m
def KZP_OE_STATUS_STATE (n : Nat) (m : Nat) : Fld := ⟨KZP_OE_STATUS n m, 0, 2, 0⟩
def KZP_OE_STATUS_TEMP_C (n : Nat) (m : Nat) : Fld := ⟨KZP_OE_STATUS n m, 2, 8, 0⟩
def KZP_OE_STATUS_LSM_PRESENT (n : Nat) (m : Nat) : Fld := ⟨KZP_OE_STATUS n m, 10, 1, 0⟩
def KZP_OE_STATUS_LSM_STATE (n : Nat) (m : Nat) : Fld := ⟨KZP_OE_STATUS n m, 11, 2, 0⟩
def KZP_OE_STATUS_LSM_REASON (n : Nat) (m : Nat) : Fld := ⟨KZP_OE_STATUS n m, 16, 4, 0⟩
def KZP_OE_STATUS_LSM_POWER (n : Nat) (m : Nat) : Fld := ⟨KZP_OE_STATUS n m, 20, 16, 0⟩
/-- KZP_LSM_IDENT (12_kwazia_ports.md) -/
def KZP_LSM_IDENT (n : Nat) (m : Nat) : Nat := 0x12208 + 0x1000 * n + 0x20 * m
def KZP_LSM_IDENT_VENDOR_OUI (n : Nat) (m : Nat) : Fld := ⟨KZP_LSM_IDENT n m, 0, 24, 0⟩
def KZP_LSM_IDENT_CMIS_REV (n : Nat) (m : Nat) : Fld := ⟨KZP_LSM_IDENT n m, 24, 8, 0⟩
def KZP_LSM_IDENT_SERIAL (n : Nat) (m : Nat) : Fld := ⟨KZP_LSM_IDENT n m, 32, 32, 0⟩
/-- SCH_CTRL (13_ingress_and_scheduling.md) -/
def SCH_CTRL : Nat := 0xb000
def SCH_CTRL_INIT_SHARE : Fld := ⟨SCH_CTRL, 0, 7, 25⟩
def SCH_CTRL_LOCK : Fld := ⟨SCH_CTRL, 63, 1, 0⟩
/-- SCH_SPILL_STATUS (13_ingress_and_scheduling.md) -/
def SCH_SPILL_STATUS : Nat := 0xb008
def SCH_SPILL_STATUS_SEGMENTS : Fld := ⟨SCH_SPILL_STATUS, 0, 16, 0⟩
def SCH_SPILL_STATUS_PEAK : Fld := ⟨SCH_SPILL_STATUS, 16, 16, 0⟩
def SCH_SPILL_STATUS_FULL : Fld := ⟨SCH_SPILL_STATUS, 32, 1, 0⟩
/-- SCH_TQ_SEL (13_ingress_and_scheduling.md) -/
def SCH_TQ_SEL : Nat := 0xb010
def SCH_TQ_SEL_PORT : Fld := ⟨SCH_TQ_SEL, 0, 3, 0⟩
def SCH_TQ_SEL_TENANT : Fld := ⟨SCH_TQ_SEL, 3, 8, 0⟩
def SCH_TQ_SEL_CMD : Fld := ⟨SCH_TQ_SEL, 11, 2, 0⟩
def SCH_TQ_SEL_BUSY : Fld := ⟨SCH_TQ_SEL, 13, 1, 0⟩
def SCH_TQ_SEL_RESULT : Fld := ⟨SCH_TQ_SEL, 16, 8, 0⟩
/-- SCH_TQ_CFG0 (13_ingress_and_scheduling.md) -/
def SCH_TQ_CFG0 : Nat := 0xb018
def SCH_TQ_CFG0_EN : Fld := ⟨SCH_TQ_CFG0, 0, 1, 0⟩
def SCH_TQ_CFG0_DOMAIN : Fld := ⟨SCH_TQ_CFG0, 1, 8, 0⟩
def SCH_TQ_CFG0_WEIGHT : Fld := ⟨SCH_TQ_CFG0, 9, 8, 16⟩
def SCH_TQ_CFG0_RATE : Fld := ⟨SCH_TQ_CFG0, 17, 12, 0⟩
def SCH_TQ_CFG0_RATE_CAP_KIB : Fld := ⟨SCH_TQ_CFG0, 29, 16, 256⟩
/-- SCH_TQ_CFG1 (13_ingress_and_scheduling.md) -/
def SCH_TQ_CFG1 : Nat := 0xb020
def SCH_TQ_CFG1_RESV : Fld := ⟨SCH_TQ_CFG1, 0, 12, 0⟩
def SCH_TQ_CFG1_RESV_CAP_KIB : Fld := ⟨SCH_TQ_CFG1, 12, 16, 64⟩
def SCH_TQ_CFG1_INFLIGHT_MAX : Fld := ⟨SCH_TQ_CFG1, 28, 14, 8192⟩
def SCH_TQ_CFG1_BUF_KIB : Fld := ⟨SCH_TQ_CFG1, 42, 12, 512⟩
/-- SCH_TQ_STAT (13_ingress_and_scheduling.md) -/
def SCH_TQ_STAT : Nat := 0xb028
def SCH_TQ_STAT_INFLIGHT : Fld := ⟨SCH_TQ_STAT, 0, 14, 0⟩
def SCH_TQ_STAT_QUEUED : Fld := ⟨SCH_TQ_STAT, 14, 14, 0⟩
def SCH_TQ_STAT_SPILLING : Fld := ⟨SCH_TQ_STAT, 28, 1, 0⟩
def SCH_TQ_STAT_HELD : Fld := ⟨SCH_TQ_STAT, 29, 1, 0⟩
def SCH_TQ_STAT_SERVED_MIB : Fld := ⟨SCH_TQ_STAT, 32, 32, 0⟩
/-- SCH_K_LIMITS (13_ingress_and_scheduling.md) -/
def SCH_K_LIMITS (n : Nat) : Nat := 0xb100 + 0x80 * n
def SCH_K_LIMITS_C0_KIB (n : Nat) : Fld := ⟨SCH_K_LIMITS n, 0, 11, 256⟩
def SCH_K_LIMITS_C1_KIB (n : Nat) : Fld := ⟨SCH_K_LIMITS n, 11, 11, 256⟩
def SCH_K_LIMITS_C2_KIB (n : Nat) : Fld := ⟨SCH_K_LIMITS n, 22, 12, 2048⟩
def SCH_K_LIMITS_C3_KIB (n : Nat) : Fld := ⟨SCH_K_LIMITS n, 34, 12, 1536⟩
/-- SCH_K_SPILL_CFG (13_ingress_and_scheduling.md) -/
def SCH_K_SPILL_CFG (n : Nat) : Nat := 0xb108 + 0x80 * n
def SCH_K_SPILL_CFG_SPILL_C2_MIB (n : Nat) : Fld := ⟨SCH_K_SPILL_CFG n, 0, 12, 96⟩
def SCH_K_SPILL_CFG_SPILL_C3_MIB (n : Nat) : Fld := ⟨SCH_K_SPILL_CFG n, 12, 12, 224⟩
def SCH_K_SPILL_CFG_EGRESS_HIGH_KIB (n : Nat) : Fld := ⟨SCH_K_SPILL_CFG n, 24, 12, 512⟩
/-- SCH_K_OCCUPANCY (13_ingress_and_scheduling.md) -/
def SCH_K_OCCUPANCY (n : Nat) : Nat := 0xb110 + 0x80 * n
def SCH_K_OCCUPANCY_C0 (n : Nat) : Fld := ⟨SCH_K_OCCUPANCY n, 0, 11, 0⟩
def SCH_K_OCCUPANCY_C1 (n : Nat) : Fld := ⟨SCH_K_OCCUPANCY n, 11, 11, 0⟩
def SCH_K_OCCUPANCY_C2 (n : Nat) : Fld := ⟨SCH_K_OCCUPANCY n, 22, 12, 0⟩
def SCH_K_OCCUPANCY_C3 (n : Nat) : Fld := ⟨SCH_K_OCCUPANCY n, 34, 12, 0⟩
def SCH_K_OCCUPANCY_STAGING (n : Nat) : Fld := ⟨SCH_K_OCCUPANCY n, 46, 13, 0⟩
/-- SCH_K_SPILL (13_ingress_and_scheduling.md) -/
def SCH_K_SPILL (n : Nat) : Nat := 0xb118 + 0x80 * n
def SCH_K_SPILL_SEGMENTS (n : Nat) : Fld := ⟨SCH_K_SPILL n, 0, 16, 0⟩
def SCH_K_SPILL_PEAK (n : Nat) : Fld := ⟨SCH_K_SPILL n, 16, 16, 0⟩
def SCH_K_SPILL_SPILLED_MIB (n : Nat) : Fld := ⟨SCH_K_SPILL n, 32, 32, 0⟩
/-- SCH_K_CREDITS (13_ingress_and_scheduling.md) -/
def SCH_K_CREDITS (n : Nat) : Nat := 0xb120 + 0x80 * n
def SCH_K_CREDITS_C0 (n : Nat) : Fld := ⟨SCH_K_CREDITS n, 0, 16, 0⟩
def SCH_K_CREDITS_C1 (n : Nat) : Fld := ⟨SCH_K_CREDITS n, 16, 16, 0⟩
def SCH_K_CREDITS_C2 (n : Nat) : Fld := ⟨SCH_K_CREDITS n, 32, 16, 0⟩
def SCH_K_CREDITS_C3 (n : Nat) : Fld := ⟨SCH_K_CREDITS n, 48, 16, 0⟩
/-- SCH_K_WITHHOLD (13_ingress_and_scheduling.md) -/
def SCH_K_WITHHOLD (n : Nat) : Nat := 0xb128 + 0x80 * n
def SCH_K_WITHHOLD_C2_US (n : Nat) : Fld := ⟨SCH_K_WITHHOLD n, 0, 32, 0⟩
def SCH_K_WITHHOLD_C3_US (n : Nat) : Fld := ⟨SCH_K_WITHHOLD n, 32, 32, 0⟩
/-- SCH_K_STATUS (13_ingress_and_scheduling.md) -/
def SCH_K_STATUS (n : Nat) : Nat := 0xb130 + 0x80 * n
def SCH_K_STATUS_FLUSHING (n : Nat) : Fld := ⟨SCH_K_STATUS n, 0, 1, 0⟩
def SCH_K_STATUS_GATE_CLOSED (n : Nat) : Fld := ⟨SCH_K_STATUS n, 1, 1, 0⟩
def SCH_K_STATUS_TQ_DENIED (n : Nat) : Fld := ⟨SCH_K_STATUS n, 16, 16, 0⟩
def SCH_K_STATUS_TAIL_REPLAYED (n : Nat) : Fld := ⟨SCH_K_STATUS n, 32, 16, 0⟩
def SCH_K_STATUS_TAIL_POISONED (n : Nat) : Fld := ⟨SCH_K_STATUS n, 48, 16, 0⟩
/-- SCH_K_VTIME2 (13_ingress_and_scheduling.md) -/
def SCH_K_VTIME2 (n : Nat) : Nat := 0xb138 + 0x80 * n
def SCH_K_VTIME2_V (n : Nat) : Fld := ⟨SCH_K_VTIME2 n, 0, 64, 0⟩
/-- SCH_K_VTIME3 (13_ingress_and_scheduling.md) -/
def SCH_K_VTIME3 (n : Nat) : Nat := 0xb140 + 0x80 * n
def SCH_K_VTIME3_V (n : Nat) : Fld := ⟨SCH_K_VTIME3 n, 0, 64, 0⟩
/-- XB_STATUS (13_ingress_and_scheduling.md) -/
def XB_STATUS : Nat := 0xc000
def XB_STATUS_EP_UP : Fld := ⟨XB_STATUS, 0, 12, 4095⟩
/-- XB_HOME_MAP (13_ingress_and_scheduling.md) -/
def XB_HOME_MAP : Nat := 0xc008
def XB_HOME_MAP_ENTRY0 : Fld := ⟨XB_HOME_MAP, 0, 2, 0⟩
def XB_HOME_MAP_ENTRY1 : Fld := ⟨XB_HOME_MAP, 2, 2, 1⟩
def XB_HOME_MAP_ENTRY2 : Fld := ⟨XB_HOME_MAP, 4, 2, 2⟩
def XB_HOME_MAP_ENTRY3 : Fld := ⟨XB_HOME_MAP, 6, 2, 3⟩
/-- XB_EP_BYTES (13_ingress_and_scheduling.md) -/
def XB_EP_BYTES (n : Nat) : Nat := 0xc100 + 0x10 * n
def XB_EP_BYTES_IN_MIB (n : Nat) : Fld := ⟨XB_EP_BYTES n, 0, 32, 0⟩
def XB_EP_BYTES_OUT_MIB (n : Nat) : Fld := ⟨XB_EP_BYTES n, 32, 32, 0⟩
/-- XB_EP_STALLS (13_ingress_and_scheduling.md) -/
def XB_EP_STALLS (n : Nat) : Nat := 0xc108 + 0x10 * n
def XB_EP_STALLS_C0 (n : Nat) : Fld := ⟨XB_EP_STALLS n, 0, 16, 0⟩
def XB_EP_STALLS_C1 (n : Nat) : Fld := ⟨XB_EP_STALLS n, 16, 16, 0⟩
def XB_EP_STALLS_C2 (n : Nat) : Fld := ⟨XB_EP_STALLS n, 32, 16, 0⟩
def XB_EP_STALLS_C3 (n : Nat) : Fld := ⟨XB_EP_STALLS n, 48, 16, 0⟩
/-- CMP_CTRL (14_composition_and_repair.md) -/
def CMP_CTRL : Nat := 0x6000
def CMP_CTRL_STAGE_TIMEOUT_MS : Fld := ⟨CMP_CTRL, 0, 16, 1000⟩
def CMP_CTRL_LOCK : Fld := ⟨CMP_CTRL, 63, 1, 0⟩
/-- CMP_STATUS (14_composition_and_repair.md) -/
def CMP_STATUS : Nat := 0x6008
def CMP_STATUS_LEASE : Fld := ⟨CMP_STATUS, 0, 1, 0⟩
def CMP_STATUS_STAGING : Fld := ⟨CMP_STATUS, 1, 1, 0⟩
def CMP_STATUS_PERSISTED : Fld := ⟨CMP_STATUS, 2, 1, 0⟩
def CMP_STATUS_EXPELLED : Fld := ⟨CMP_STATUS, 3, 1, 0⟩
def CMP_STATUS_STAGE_OWNER : Fld := ⟨CMP_STATUS, 8, 16, 0⟩
def CMP_STATUS_STAGED : Fld := ⟨CMP_STATUS, 24, 17, 0⟩
/-- CMP_EPOCH (14_composition_and_repair.md) -/
def CMP_EPOCH : Nat := 0x6010
def CMP_EPOCH_EPOCH : Fld := ⟨CMP_EPOCH, 0, 32, 0⟩
def CMP_EPOCH_EPOCH_C : Fld := ⟨CMP_EPOCH, 32, 32, 4294967295⟩
/-- CMP_NODE (14_composition_and_repair.md) -/
def CMP_NODE : Nat := 0x6018
def CMP_NODE_NODE_ID : Fld := ⟨CMP_NODE, 0, 9, 0⟩
def CMP_NODE_GRACE_US : Fld := ⟨CMP_NODE, 9, 16, 1000⟩
def CMP_NODE_QUORUM_K : Fld := ⟨CMP_NODE, 25, 4, 1⟩
def CMP_NODE_MANAGERS : Fld := ⟨CMP_NODE, 29, 8, 0⟩
def CMP_NODE_LOST_HOME : Fld := ⟨CMP_NODE, 37, 4, 0⟩
/-- CMP_STATS (14_composition_and_repair.md) -/
def CMP_STATS : Nat := 0x6020
def CMP_STATS_REMAPS : Fld := ⟨CMP_STATS, 0, 32, 0⟩
def CMP_STATS_GRANT_DENIED : Fld := ⟨CMP_STATS, 32, 16, 0⟩
def CMP_STATS_STALE_COMMITS : Fld := ⟨CMP_STATS, 48, 16, 0⟩
/-- CMP_LEASE_STATUS (14_composition_and_repair.md) -/
def CMP_LEASE_STATUS : Nat := 0x6028
def CMP_LEASE_STATUS_LEASED : Fld := ⟨CMP_LEASE_STATUS, 0, 11, 0⟩
def CMP_LEASE_STATUS_LAPSED : Fld := ⟨CMP_LEASE_STATUS, 11, 11, 0⟩
def CMP_LEASE_STATUS_MS_SINCE_MGR : Fld := ⟨CMP_LEASE_STATUS, 32, 32, 0⟩
/-- CMP_FENCE (14_composition_and_repair.md) -/
def CMP_FENCE : Nat := 0x6030
def CMP_FENCE_FENCE_SEQ : Fld := ⟨CMP_FENCE, 0, 32, 0⟩
def CMP_FENCE_FENCED : Fld := ⟨CMP_FENCE, 32, 11, 0⟩
/-- RAS_CTRL (14_composition_and_repair.md) -/
def RAS_CTRL : Nat := 0x7000
def RAS_CTRL_EVAC_GBPS : Fld := ⟨RAS_CTRL, 0, 10, 400⟩
def RAS_CTRL_AUTO_RECOVER : Fld := ⟨RAS_CTRL, 10, 1, 1⟩
def RAS_CTRL_HAZE_FAIL_S : Fld := ⟨RAS_CTRL, 16, 16, 0⟩
def RAS_CTRL_LOCK : Fld := ⟨RAS_CTRL, 63, 1, 0⟩
/-- RAS_STATUS (14_composition_and_repair.md) -/
def RAS_STATUS : Nat := 0x7010
def RAS_STATUS_RECOVERING : Fld := ⟨RAS_STATUS, 0, 8, 0⟩
def RAS_STATUS_DEVICE_FAULT : Fld := ⟨RAS_STATUS, 8, 1, 0⟩
def RAS_STATUS_BLOCK : Fld := ⟨RAS_STATUS, 16, 8, 0⟩
def RAS_STATUS_CORES_UP : Fld := ⟨RAS_STATUS, 24, 4, 15⟩
/-- RAS_COUNTS (14_composition_and_repair.md) -/
def RAS_COUNTS : Nat := 0x7018
def RAS_COUNTS_FAULTS : Fld := ⟨RAS_COUNTS, 0, 16, 0⟩
def RAS_COUNTS_RECOVERED : Fld := ⟨RAS_COUNTS, 16, 16, 0⟩
def RAS_COUNTS_RETIRED : Fld := ⟨RAS_COUNTS, 32, 16, 0⟩
def RAS_COUNTS_SECOND : Fld := ⟨RAS_COUNTS, 48, 16, 0⟩
/-- RAS_SECTOR (14_composition_and_repair.md) -/
def RAS_SECTOR : Nat := 0x7020
def RAS_SECTOR_STATE : Fld := ⟨RAS_SECTOR, 0, 16, 0⟩
def RAS_SECTOR_TARGET : Fld := ⟨RAS_SECTOR, 16, 2, 0⟩
/-- RAS_EVAC (14_composition_and_repair.md) -/
def RAS_EVAC : Nat := 0x7028
def RAS_EVAC_MOVED : Fld := ⟨RAS_EVAC, 0, 26, 0⟩
def RAS_EVAC_TOTAL : Fld := ⟨RAS_EVAC, 26, 26, 0⟩
/-- RAS_FW (14_composition_and_repair.md) -/
def RAS_FW : Nat := 0x7030
def RAS_FW_ACTIVE_BANK : Fld := ⟨RAS_FW, 0, 1, 0⟩
def RAS_FW_READY : Fld := ⟨RAS_FW, 1, 1, 0⟩
def RAS_FW_STAGE : Fld := ⟨RAS_FW, 2, 2, 0⟩
def RAS_FW_ON_NEW : Fld := ⟨RAS_FW, 4, 4, 0⟩
def RAS_FW_VERSION : Fld := ⟨RAS_FW, 32, 32, 0⟩
/-- SEC_CTRL (15_security.md) -/
def SEC_CTRL : Nat := 0x4000
def SEC_CTRL_ZERO_GBPS : Fld := ⟨SEC_CTRL, 0, 8, 32⟩
def SEC_CTRL_LOCK : Fld := ⟨SEC_CTRL, 63, 1, 0⟩
/-- SEC_STATUS (15_security.md) -/
def SEC_STATUS : Nat := 0x4008
def SEC_STATUS_CONF_DOMAINS : Fld := ⟨SEC_STATUS, 0, 7, 0⟩
def SEC_STATUS_DOMAINS : Fld := ⟨SEC_STATUS, 7, 9, 1⟩
def SEC_STATUS_CONF_MODE : Fld := ⟨SEC_STATUS, 16, 1, 0⟩
def SEC_STATUS_OCC_EXPOSED : Fld := ⟨SEC_STATUS, 17, 1, 0⟩
def SEC_STATUS_IDENTITY_OK : Fld := ⟨SEC_STATUS, 18, 1, 0⟩
def SEC_STATUS_SLOTS : Fld := ⟨SEC_STATUS, 19, 12, 0⟩
def SEC_STATUS_ZEROING : Fld := ⟨SEC_STATUS, 31, 1, 0⟩
/-- SEC_CPAIR_ERRORS (15_security.md) -/
def SEC_CPAIR_ERRORS : Nat := 0x4010
def SEC_CPAIR_ERRORS_COUNT : Fld := ⟨SEC_CPAIR_ERRORS, 0, 32, 0⟩
/-- SEC_TAMPER_CFG (15_security.md) -/
def SEC_TAMPER_CFG : Nat := 0x4018
def SEC_TAMPER_CFG_PIN_EN : Fld := ⟨SEC_TAMPER_CFG, 0, 1, 1⟩
def SEC_TAMPER_CFG_LID_EN : Fld := ⟨SEC_TAMPER_CFG, 1, 1, 1⟩
def SEC_TAMPER_CFG_VOLT_EN : Fld := ⟨SEC_TAMPER_CFG, 2, 1, 1⟩
def SEC_TAMPER_CFG_CLK_EN : Fld := ⟨SEC_TAMPER_CFG, 3, 1, 1⟩
def SEC_TAMPER_CFG_COLD_EN : Fld := ⟨SEC_TAMPER_CFG, 4, 1, 1⟩
def SEC_TAMPER_CFG_LOCK : Fld := ⟨SEC_TAMPER_CFG, 63, 1, 0⟩
/-- SEC_TAMPER_STATUS (15_security.md) -/
def SEC_TAMPER_STATUS : Nat := 0x4020
def SEC_TAMPER_STATUS_SOURCE : Fld := ⟨SEC_TAMPER_STATUS, 0, 5, 0⟩
def SEC_TAMPER_STATUS_TAMPERED : Fld := ⟨SEC_TAMPER_STATUS, 5, 1, 0⟩
def SEC_TAMPER_STATUS_COUNT : Fld := ⟨SEC_TAMPER_STATUS, 16, 16, 0⟩
/-- SEC_DEVICE_ID (15_security.md) -/
def SEC_DEVICE_ID : Nat := 0x4028
def SEC_DEVICE_ID_DEVICE_ID : Fld := ⟨SEC_DEVICE_ID, 0, 64, 0⟩
/-- SEC_XMSS_STATE (15_security.md) -/
def SEC_XMSS_STATE : Nat := 0x4030
def SEC_XMSS_STATE_BLOCKS : Fld := ⟨SEC_XMSS_STATE, 0, 32, 0⟩
def SEC_XMSS_STATE_BLOCKS_C : Fld := ⟨SEC_XMSS_STATE, 32, 32, 4294967295⟩
/-- SEC_XMSS_USED (15_security.md) -/
def SEC_XMSS_USED : Nat := 0x4038
def SEC_XMSS_USED_NEXT_INDEX : Fld := ⟨SEC_XMSS_USED, 0, 40, 0⟩
/-- SEC_DOMAIN_SEL (15_security.md) -/
def SEC_DOMAIN_SEL : Nat := 0x4040
def SEC_DOMAIN_SEL_DOMAIN : Fld := ⟨SEC_DOMAIN_SEL, 0, 8, 0⟩
/-- SEC_DOMAIN_CFG (15_security.md) -/
def SEC_DOMAIN_CFG : Nat := 0x4048
def SEC_DOMAIN_CFG_EXISTS : Fld := ⟨SEC_DOMAIN_CFG, 0, 1, 1⟩
def SEC_DOMAIN_CFG_CONFIDENTIAL : Fld := ⟨SEC_DOMAIN_CFG, 1, 1, 0⟩
def SEC_DOMAIN_CFG_ZEROING : Fld := ⟨SEC_DOMAIN_CFG, 2, 1, 0⟩
def SEC_DOMAIN_CFG_EKEY : Fld := ⟨SEC_DOMAIN_CFG, 3, 1, 0⟩
def SEC_DOMAIN_CFG_PAGE_QUOTA : Fld := ⟨SEC_DOMAIN_CFG, 4, 26, 0⟩
def SEC_DOMAIN_CFG_ALLOCATED : Fld := ⟨SEC_DOMAIN_CFG, 30, 26, 0⟩
/-- SEC_INTEGRITY (15_security.md) -/
def SEC_INTEGRITY : Nat := 0x4050
def SEC_INTEGRITY_MAC_FAILS : Fld := ⟨SEC_INTEGRITY, 0, 32, 0⟩
def SEC_INTEGRITY_TREE_FAILS : Fld := ⟨SEC_INTEGRITY, 32, 16, 0⟩
def SEC_INTEGRITY_UNSEAL_FAILS : Fld := ⟨SEC_INTEGRITY, 48, 16, 0⟩
/-- SEC_PORT_KEYS (15_security.md) -/
def SEC_PORT_KEYS : Nat := 0x4058
def SEC_PORT_KEYS_KEYS : Fld := ⟨SEC_PORT_KEYS, 0, 12, 0⟩
/-- LC_STATE (15_security.md) -/
def LC_STATE : Nat := 0x5000
def LC_STATE_STATE : Fld := ⟨LC_STATE, 0, 32, 2⟩
def LC_STATE_STATE_C : Fld := ⟨LC_STATE, 32, 32, 4294967293⟩
/-- LC_SVN (15_security.md) -/
def LC_SVN : Nat := 0x5008
def LC_SVN_SVN : Fld := ⟨LC_SVN, 0, 8, 0⟩
def LC_SVN_OWNER_COSIGN : Fld := ⟨LC_SVN, 8, 1, 0⟩
/-- LC_DEBUG (15_security.md) -/
def LC_DEBUG : Nat := 0x5010
def LC_DEBUG_OPEN : Fld := ⟨LC_DEBUG, 0, 1, 0⟩
def LC_DEBUG_OPENS : Fld := ⟨LC_DEBUG, 16, 16, 0⟩
/-- CLK_CTRL (16_clocks_and_power_states.md) -/
def CLK_CTRL : Nat := 0x2000
def CLK_CTRL_WARM_T : Fld := ⟨CLK_CTRL, 0, 1, 0⟩
def CLK_CTRL_WARM_E : Fld := ⟨CLK_CTRL, 1, 1, 0⟩
def CLK_CTRL_TRIM_SRC : Fld := ⟨CLK_CTRL, 2, 2, 0⟩
def CLK_CTRL_LOCK : Fld := ⟨CLK_CTRL, 63, 1, 0⟩
/-- CLK_STATUS (16_clocks_and_power_states.md) -/
def CLK_STATUS : Nat := 0x2008
def CLK_STATUS_XDLY : Fld := ⟨CLK_STATUS, 0, 3, 0⟩
def CLK_STATUS_XTAL_OK : Fld := ⟨CLK_STATUS, 3, 1, 0⟩
def CLK_STATUS_REFCLK_OK : Fld := ⟨CLK_STATUS, 4, 1, 0⟩
def CLK_STATUS_COASTING : Fld := ⟨CLK_STATUS, 5, 1, 0⟩
def CLK_STATUS_TRIM_REF : Fld := ⟨CLK_STATUS, 6, 2, 0⟩
def CLK_STATUS_LPO_TRIMMED : Fld := ⟨CLK_STATUS, 8, 1, 0⟩
def CLK_STATUS_XTAL_STABLE_MS : Fld := ⟨CLK_STATUS, 16, 16, 0⟩
/-- CLK_SOURCE_LOST (16_clocks_and_power_states.md) -/
def CLK_SOURCE_LOST : Nat := 0x2010
def CLK_SOURCE_LOST_XTAL : Fld := ⟨CLK_SOURCE_LOST, 0, 1, 0⟩
def CLK_SOURCE_LOST_REFCLK : Fld := ⟨CLK_SOURCE_LOST, 1, 1, 0⟩
def CLK_SOURCE_LOST_XTAL_EVENTS : Fld := ⟨CLK_SOURCE_LOST, 16, 16, 0⟩
def CLK_SOURCE_LOST_REFCLK_EVENTS : Fld := ⟨CLK_SOURCE_LOST, 32, 16, 0⟩
def CLK_SOURCE_LOST_COAST_MS : Fld := ⟨CLK_SOURCE_LOST, 48, 16, 0⟩
/-- CLK_IOSC_TRIM (16_clocks_and_power_states.md) -/
def CLK_IOSC_TRIM : Nat := 0x2018
def CLK_IOSC_TRIM_CODE : Fld := ⟨CLK_IOSC_TRIM, 0, 8, 0⟩
def CLK_IOSC_TRIM_ERR_PPM : Fld := ⟨CLK_IOSC_TRIM, 8, 16, 0⟩
def CLK_IOSC_TRIM_WINDOWS : Fld := ⟨CLK_IOSC_TRIM, 32, 32, 0⟩
/-- CLK_PLL_T (16_clocks_and_power_states.md) -/
def CLK_PLL_T : Nat := 0x2020
def CLK_PLL_T_STATE : Fld := ⟨CLK_PLL_T, 0, 2, 0⟩
def CLK_PLL_T_FREQ_MHZ : Fld := ⟨CLK_PLL_T, 2, 11, 0⟩
def CLK_PLL_T_STARTS : Fld := ⟨CLK_PLL_T, 16, 16, 0⟩
def CLK_PLL_T_LAST_LOCK_NS : Fld := ⟨CLK_PLL_T, 32, 16, 0⟩
/-- CLK_PLL_X (16_clocks_and_power_states.md) -/
def CLK_PLL_X : Nat := 0x2028
def CLK_PLL_X_STATE : Fld := ⟨CLK_PLL_X, 0, 2, 0⟩
def CLK_PLL_X_FREQ_MHZ : Fld := ⟨CLK_PLL_X, 2, 11, 0⟩
def CLK_PLL_X_STARTS : Fld := ⟨CLK_PLL_X, 16, 16, 0⟩
def CLK_PLL_X_LAST_LOCK_NS : Fld := ⟨CLK_PLL_X, 32, 16, 0⟩
/-- CLK_PLL_E (16_clocks_and_power_states.md) -/
def CLK_PLL_E : Nat := 0x2030
def CLK_PLL_E_STATE : Fld := ⟨CLK_PLL_E, 0, 2, 0⟩
def CLK_PLL_E_FREQ_MHZ : Fld := ⟨CLK_PLL_E, 2, 11, 0⟩
def CLK_PLL_E_STARTS : Fld := ⟨CLK_PLL_E, 16, 16, 0⟩
def CLK_PLL_E_LAST_LOCK_NS : Fld := ⟨CLK_PLL_E, 32, 16, 0⟩
/-- PWR_CTRL (16_clocks_and_power_states.md) -/
def PWR_CTRL : Nat := 0x3000
def PWR_CTRL_CMD : Fld := ⟨PWR_CTRL, 0, 2, 0⟩
def PWR_CTRL_WAKE_ON_LIGHT : Fld := ⟨PWR_CTRL, 2, 1, 1⟩
def PWR_CTRL_WAKE_ON_PCIE : Fld := ⟨PWR_CTRL, 3, 1, 1⟩
def PWR_CTRL_WAKE_ON_TIMER : Fld := ⟨PWR_CTRL, 4, 1, 0⟩
def PWR_CTRL_LOCK : Fld := ⟨PWR_CTRL, 63, 1, 0⟩
/-- PWR_STATUS (16_clocks_and_power_states.md) -/
def PWR_STATUS : Nat := 0x3008
def PWR_STATUS_STATE : Fld := ⟨PWR_STATUS, 0, 2, 0⟩
def PWR_STATUS_ENTERING : Fld := ⟨PWR_STATUS, 2, 1, 0⟩
def PWR_STATUS_EXITING : Fld := ⟨PWR_STATUS, 3, 1, 0⟩
def PWR_STATUS_RESULT : Fld := ⟨PWR_STATUS, 4, 8, 0⟩
def PWR_STATUS_DENY_REASON : Fld := ⟨PWR_STATUS, 12, 4, 0⟩
def PWR_STATUS_POWER_W : Fld := ⟨PWR_STATUS, 16, 12, 0⟩
/-- PWR_IDLE_CFG (16_clocks_and_power_states.md) -/
def PWR_IDLE_CFG : Nat := 0x3010
def PWR_IDLE_CFG_PLLT_OFF_US : Fld := ⟨PWR_IDLE_CFG, 0, 16, 100⟩
def PWR_IDLE_CFG_PLLE_OFF_US : Fld := ⟨PWR_IDLE_CFG, 16, 16, 50⟩
/-- PWR_DOMAINS (16_clocks_and_power_states.md) -/
def PWR_DOMAINS : Nat := 0x3018
def PWR_DOMAINS_SECTORS : Fld := ⟨PWR_DOMAINS, 0, 4, 15⟩
def PWR_DOMAINS_PORTS : Fld := ⟨PWR_DOMAINS, 4, 6, 0⟩
def PWR_DOMAINS_DDR_PHY : Fld := ⟨PWR_DOMAINS, 10, 32, 0⟩
def PWR_DOMAINS_HBM_PHY : Fld := ⟨PWR_DOMAINS, 42, 8, 0⟩
/-- PWR_WAKE (16_clocks_and_power_states.md) -/
def PWR_WAKE : Nat := 0x3020
def PWR_WAKE_TIMER_MS : Fld := ⟨PWR_WAKE, 0, 32, 0⟩
def PWR_WAKE_CAUSE : Fld := ⟨PWR_WAKE, 32, 4, 0⟩
/-- PWR_STATS (16_clocks_and_power_states.md) -/
def PWR_STATS : Nat := 0x3028
def PWR_STATS_DEEP_ENTRIES : Fld := ⟨PWR_STATS, 0, 16, 0⟩
def PWR_STATS_DEEP_ABORTS : Fld := ⟨PWR_STATS, 16, 16, 0⟩
def PWR_STATS_DEEP_S : Fld := ⟨PWR_STATS, 32, 32, 0⟩
/-- PWR_LIMIT (17_package_supplies_cooling.md) -/
def PWR_LIMIT : Nat := 0x3030
def PWR_LIMIT_POWER_LIMIT_W : Fld := ⟨PWR_LIMIT, 0, 11, 1600⟩
def PWR_LIMIT_CORE_LIMIT_A : Fld := ⟨PWR_LIMIT, 11, 11, 1400⟩
def PWR_LIMIT_PIN_LIMIT_W : Fld := ⟨PWR_LIMIT, 22, 11, 800⟩
/-- PWR_THERMAL (17_package_supplies_cooling.md) -/
def PWR_THERMAL : Nat := 0x3038
def PWR_THERMAL_THROTTLE_C : Fld := ⟨PWR_THERMAL, 0, 7, 104⟩
def PWR_THERMAL_TJ_MAX_C : Fld := ⟨PWR_THERMAL, 8, 8, 0⟩
def PWR_THERMAL_HBM_MAX_C : Fld := ⟨PWR_THERMAL, 16, 8, 0⟩
def PWR_THERMAL_OE_MAX_C : Fld := ⟨PWR_THERMAL, 24, 8, 0⟩
def PWR_THERMAL_INLET_C : Fld := ⟨PWR_THERMAL, 32, 8, 0⟩
def PWR_THERMAL_INLET_PRESENT : Fld := ⟨PWR_THERMAL, 40, 1, 0⟩
def PWR_THERMAL_INLET_HOT : Fld := ⟨PWR_THERMAL, 41, 1, 0⟩
/-- PWR_THROTTLE (17_package_supplies_cooling.md) -/
def PWR_THROTTLE : Nat := 0x3040
def PWR_THROTTLE_POWER : Fld := ⟨PWR_THROTTLE, 0, 1, 0⟩
def PWR_THROTTLE_CURRENT : Fld := ⟨PWR_THROTTLE, 1, 1, 0⟩
def PWR_THROTTLE_THERMAL : Fld := ⟨PWR_THROTTLE, 2, 1, 0⟩
def PWR_THROTTLE_PIN : Fld := ⟨PWR_THROTTLE, 3, 1, 0⟩
def PWR_THROTTLE_HBM : Fld := ⟨PWR_THROTTLE, 4, 1, 0⟩
def PWR_THROTTLE_LIMIT_W : Fld := ⟨PWR_THROTTLE, 16, 11, 1600⟩
def PWR_THROTTLE_THROTTLED_MS : Fld := ⟨PWR_THROTTLE, 32, 32, 0⟩
/-- SYS_ID (18_management_and_register_map.md) -/
def SYS_ID : Nat := 0x0
def SYS_ID_PART : Fld := ⟨SYS_ID, 0, 16, 2564⟩
def SYS_ID_STEPPING : Fld := ⟨SYS_ID, 16, 8, 176⟩
def SYS_ID_SECTORS : Fld := ⟨SYS_ID, 24, 4, 4⟩
def SYS_ID_PORTS : Fld := ⟨SYS_ID, 28, 4, 6⟩
def SYS_ID_TILES : Fld := ⟨SYS_ID, 32, 7, 64⟩
/-- SYS_TIME (18_management_and_register_map.md) -/
def SYS_TIME : Nat := 0x8
def SYS_TIME_TIME : Fld := ⟨SYS_TIME, 0, 64, 0⟩
/-- SYS_STATUS (18_management_and_register_map.md) -/
def SYS_STATUS : Nat := 0x10
def SYS_STATUS_FW_RUNNING : Fld := ⟨SYS_STATUS, 0, 1, 0⟩
def SYS_STATUS_MAP_INSTALLED : Fld := ⟨SYS_STATUS, 1, 1, 0⟩
def SYS_STATUS_NEAR_SERVING : Fld := ⟨SYS_STATUS, 2, 1, 0⟩
def SYS_STATUS_FAR_COMPLETE : Fld := ⟨SYS_STATUS, 3, 1, 0⟩
def SYS_STATUS_PORTS_UP : Fld := ⟨SYS_STATUS, 4, 6, 0⟩
def SYS_STATUS_FAR_SERVING : Fld := ⟨SYS_STATUS, 32, 32, 0⟩
/-- SYS_BOOT (18_management_and_register_map.md) -/
def SYS_BOOT : Nat := 0x18
def SYS_BOOT_COLD : Fld := ⟨SYS_BOOT, 0, 1, 1⟩
def SYS_BOOT_WARM_RESTARTS : Fld := ⟨SYS_BOOT, 16, 16, 0⟩
def SYS_BOOT_FW_MS : Fld := ⟨SYS_BOOT, 32, 16, 0⟩
def SYS_BOOT_NEAR_MS : Fld := ⟨SYS_BOOT, 48, 16, 0⟩
/-- SYS_SCRATCH (18_management_and_register_map.md) -/
def SYS_SCRATCH (n : Nat) : Nat := 0x20 + 0x8 * n
def SYS_SCRATCH_VALUE (n : Nat) : Fld := ⟨SYS_SCRATCH n, 0, 64, 0⟩
/-- MGT_CTRL (18_management_and_register_map.md) -/
def MGT_CTRL : Nat := 0x1000
def MGT_CTRL_MCTP_PCIE_EN : Fld := ⟨MGT_CTRL, 0, 1, 1⟩
def MGT_CTRL_MCTP_SMBUS_EN : Fld := ⟨MGT_CTRL, 1, 1, 1⟩
def MGT_CTRL_FWUP_EN : Fld := ⟨MGT_CTRL, 2, 1, 1⟩
def MGT_CTRL_ATTEST_EN : Fld := ⟨MGT_CTRL, 3, 1, 1⟩
def MGT_CTRL_LOCK : Fld := ⟨MGT_CTRL, 63, 1, 0⟩
/-- MGT_STATUS (18_management_and_register_map.md) -/
def MGT_STATUS : Nat := 0x1008
def MGT_STATUS_SPEED : Fld := ⟨MGT_STATUS, 0, 3, 0⟩
def MGT_STATUS_WIDTH : Fld := ⟨MGT_STATUS, 3, 3, 0⟩
def MGT_STATUS_FLIT : Fld := ⟨MGT_STATUS, 6, 1, 0⟩
def MGT_STATUS_BME : Fld := ⟨MGT_STATUS, 7, 1, 0⟩
def MGT_STATUS_MSIX_EN : Fld := ⟨MGT_STATUS, 8, 1, 0⟩
def MGT_STATUS_FN_RESET : Fld := ⟨MGT_STATUS, 9, 1, 0⟩
def MGT_STATUS_EID_PCIE : Fld := ⟨MGT_STATUS, 16, 8, 0⟩
def MGT_STATUS_EID_SMBUS : Fld := ⟨MGT_STATUS, 24, 8, 0⟩
/-- MGT_PARTIAL_ACCESS (18_management_and_register_map.md) -/
def MGT_PARTIAL_ACCESS : Nat := 0x1010
def MGT_PARTIAL_ACCESS_COUNT : Fld := ⟨MGT_PARTIAL_ACCESS, 0, 32, 0⟩
def MGT_PARTIAL_ACCESS_UNMAPPED : Fld := ⟨MGT_PARTIAL_ACCESS, 32, 32, 0⟩
/-- MGT_POOLWIN (18_management_and_register_map.md) -/
def MGT_POOLWIN : Nat := 0x1018
def MGT_POOLWIN_EN : Fld := ⟨MGT_POOLWIN, 0, 1, 0⟩
def MGT_POOLWIN_CTX : Fld := ⟨MGT_POOLWIN, 16, 16, 0⟩
def MGT_POOLWIN_BASE : Fld := ⟨MGT_POOLWIN, 32, 15, 0⟩
/-- MGT_POOLWIN_ERR (18_management_and_register_map.md) -/
def MGT_POOLWIN_ERR : Nat := 0x1020
def MGT_POOLWIN_ERR_LAST_CODE : Fld := ⟨MGT_POOLWIN_ERR, 0, 8, 0⟩
def MGT_POOLWIN_ERR_COUNT : Fld := ⟨MGT_POOLWIN_ERR, 16, 32, 0⟩
/-- MGT_POOLWIN_ADDR (18_management_and_register_map.md) -/
def MGT_POOLWIN_ADDR : Nat := 0x1028
def MGT_POOLWIN_ADDR_POOL_ADDR : Fld := ⟨MGT_POOLWIN_ADDR, 0, 47, 0⟩
def MGT_POOLWIN_ADDR_VALID : Fld := ⟨MGT_POOLWIN_ADDR, 47, 1, 0⟩
/-- MGT_IRQ_STATUS (18_management_and_register_map.md) -/
def MGT_IRQ_STATUS : Nat := 0x1030
def MGT_IRQ_STATUS_SOURCES : Fld := ⟨MGT_IRQ_STATUS, 0, 8, 0⟩
/-- MGT_IRQ_MASK (18_management_and_register_map.md) -/
def MGT_IRQ_MASK : Nat := 0x1038
def MGT_IRQ_MASK_SOURCES : Fld := ⟨MGT_IRQ_MASK, 0, 8, 0⟩
/-- MGT_IRQ_VEC0 (18_management_and_register_map.md) -/
def MGT_IRQ_VEC0 : Nat := 0x1040
def MGT_IRQ_VEC0_VEC0 : Fld := ⟨MGT_IRQ_VEC0, 0, 11, 2047⟩
def MGT_IRQ_VEC0_VEC1 : Fld := ⟨MGT_IRQ_VEC0, 16, 11, 2046⟩
def MGT_IRQ_VEC0_VEC2 : Fld := ⟨MGT_IRQ_VEC0, 32, 11, 2045⟩
def MGT_IRQ_VEC0_VEC3 : Fld := ⟨MGT_IRQ_VEC0, 48, 11, 2044⟩
/-- MGT_IRQ_VEC1 (18_management_and_register_map.md) -/
def MGT_IRQ_VEC1 : Nat := 0x1048
def MGT_IRQ_VEC1_VEC4 : Fld := ⟨MGT_IRQ_VEC1, 0, 11, 2043⟩
def MGT_IRQ_VEC1_VEC5 : Fld := ⟨MGT_IRQ_VEC1, 16, 11, 2042⟩
def MGT_IRQ_VEC1_VEC6 : Fld := ⟨MGT_IRQ_VEC1, 32, 11, 2041⟩
def MGT_IRQ_VEC1_VEC7 : Fld := ⟨MGT_IRQ_VEC1, 48, 11, 2040⟩
/-- MGT_MCTP_STATS (18_management_and_register_map.md) -/
def MGT_MCTP_STATS : Nat := 0x1050
def MGT_MCTP_STATS_RECEIVED : Fld := ⟨MGT_MCTP_STATS, 0, 32, 0⟩
def MGT_MCTP_STATS_DROPPED : Fld := ⟨MGT_MCTP_STATS, 32, 16, 0⟩
def MGT_MCTP_STATS_BAD_TYPE : Fld := ⟨MGT_MCTP_STATS, 48, 16, 0⟩
/-- MGT_SIDEBAND (18_management_and_register_map.md) -/
def MGT_SIDEBAND : Nat := 0x1058
def MGT_SIDEBAND_I3C_ERRS : Fld := ⟨MGT_SIDEBAND, 0, 16, 0⟩
def MGT_SIDEBAND_LSM_ERRS : Fld := ⟨MGT_SIDEBAND, 16, 16, 0⟩
def MGT_SIDEBAND_CS_ERRS : Fld := ⟨MGT_SIDEBAND, 32, 16, 0⟩
def MGT_SIDEBAND_I3C_STUCK : Fld := ⟨MGT_SIDEBAND, 48, 4, 0⟩
def MGT_SIDEBAND_CS_STUCK : Fld := ⟨MGT_SIDEBAND, 52, 1, 0⟩
/-- MGT_TELEM_SEL (18_management_and_register_map.md) -/
def MGT_TELEM_SEL : Nat := 0x1060
def MGT_TELEM_SEL_DOMAIN : Fld := ⟨MGT_TELEM_SEL, 0, 8, 0⟩
def MGT_TELEM_SEL_SNAP : Fld := ⟨MGT_TELEM_SEL, 8, 1, 0⟩
def MGT_TELEM_SEL_BUSY : Fld := ⟨MGT_TELEM_SEL, 9, 1, 0⟩
/-- MGT_TELEM_TIME (18_management_and_register_map.md) -/
def MGT_TELEM_TIME : Nat := 0x1068
def MGT_TELEM_TIME_TIME : Fld := ⟨MGT_TELEM_TIME, 0, 64, 0⟩
/-- MGT_TELEM0 (18_management_and_register_map.md) -/
def MGT_TELEM0 : Nat := 0x1070
def MGT_TELEM0_RD_MIB : Fld := ⟨MGT_TELEM0, 0, 32, 0⟩
def MGT_TELEM0_WR_MIB : Fld := ⟨MGT_TELEM0, 32, 32, 0⟩
/-- MGT_TELEM1 (18_management_and_register_map.md) -/
def MGT_TELEM1 : Nat := 0x1078
def MGT_TELEM1_KERNELS : Fld := ⟨MGT_TELEM1, 0, 32, 0⟩
def MGT_TELEM1_JOBS : Fld := ⟨MGT_TELEM1, 32, 32, 0⟩
/-- MGT_TELEM2 (18_management_and_register_map.md) -/
def MGT_TELEM2 : Nat := 0x1080
def MGT_TELEM2_FAULTS : Fld := ⟨MGT_TELEM2, 0, 32, 0⟩
def MGT_TELEM2_THROTTLE_MS : Fld := ⟨MGT_TELEM2, 32, 32, 0⟩
/-- MGT_TELEM3 (18_management_and_register_map.md) -/
def MGT_TELEM3 : Nat := 0x1088
def MGT_TELEM3_POISON : Fld := ⟨MGT_TELEM3, 0, 16, 0⟩
def MGT_TELEM3_INTEGRITY : Fld := ⟨MGT_TELEM3, 16, 16, 0⟩
def MGT_TELEM3_DENIED : Fld := ⟨MGT_TELEM3, 32, 32, 0⟩
/-- KZP_HAZE_CFG (02_the_store.md) -/
def KZP_HAZE_CFG : Nat := 0x11000
def KZP_HAZE_CFG_RATIO : Fld := ⟨KZP_HAZE_CFG, 0, 8, 32⟩
def KZP_HAZE_CFG_WINDOW_MS : Fld := ⟨KZP_HAZE_CFG, 8, 8, 10⟩
def KZP_HAZE_CFG_EXIT_MS : Fld := ⟨KZP_HAZE_CFG, 16, 16, 100⟩
def KZP_HAZE_CFG_EXIT_RATIO : Fld := ⟨KZP_HAZE_CFG, 32, 8, 20⟩
/-- RAS_HAZE_CFG (02_the_store.md) -/
def RAS_HAZE_CFG : Nat := 0x7008
def RAS_HAZE_CFG_RATIO : Fld := ⟨RAS_HAZE_CFG, 0, 8, 32⟩
def RAS_HAZE_CFG_WINDOW_MS : Fld := ⟨RAS_HAZE_CFG, 8, 8, 10⟩
def RAS_HAZE_CFG_EXIT_MS : Fld := ⟨RAS_HAZE_CFG, 16, 16, 100⟩
def RAS_HAZE_CFG_EXIT_RATIO : Fld := ⟨RAS_HAZE_CFG, 32, 8, 20⟩
end F

def regTable00 : List RegSpec := [
  ⟨F.TIER_POOL_STATUS, [], none, [
    ⟨F.TIER_POOL_STATUS_ALLOCATED, .ro, .none, .none⟩,
    ⟨F.TIER_POOL_STATUS_LIMIT, .ro, .none, .none⟩]⟩,
  ⟨F.TIER_S_CTRL 0, [(0x1000, 4)], some (0x1e000, 0x1000), [
    ⟨F.TIER_S_CTRL_MIG_EN 0, .rw, .none, .none⟩,
    ⟨F.TIER_S_CTRL_TOUCH_PROMOTE 0, .rw, .none, .none⟩,
    ⟨F.TIER_S_CTRL_DRIZZLE_EN 0, .rw, .none, .none⟩,
    ⟨F.TIER_S_CTRL_LOCK 0, .w1s, .none, .none⟩]⟩,
  ⟨F.TIER_S_COUNTER_DECAY 0, [(0x1000, 4)], some (0x1e000, 0x1000), [
    ⟨F.TIER_S_COUNTER_DECAY_EPOCH_MS 0, .rw, (.const 1), (.const 10000)⟩]⟩,
  ⟨F.TIER_S_THRESHOLDS 0, [(0x1000, 4)], some (0x1e000, 0x1000), [
    ⟨F.TIER_S_THRESHOLDS_HOT 0, .rw, .none, .none⟩,
    ⟨F.TIER_S_THRESHOLDS_COLD 0, .rw, .none, .none⟩,
    ⟨F.TIER_S_THRESHOLDS_MIN_RES_MS 0, .rw, .none, .none⟩]⟩,
  ⟨F.TIER_S_MIG_RATE 0, [(0x1000, 4)], some (0x1e000, 0x1000), [
    ⟨F.TIER_S_MIG_RATE_GBPS 0, .rw, (.const 1), (.const 563)⟩]⟩,
  ⟨F.TIER_S_NEAR_WATER 0, [(0x1000, 4)], some (0x1e000, 0x1000), [
    ⟨F.TIER_S_NEAR_WATER_LOW 0, .rw, .none, .none⟩,
    ⟨F.TIER_S_NEAR_WATER_HIGH 0, .rw, (.field 0), (.const 65535)⟩,
    ⟨F.TIER_S_NEAR_WATER_PIN_LIMIT 0, .rw, .none, .none⟩]⟩,
  ⟨F.TIER_S_FAR_CFG 0, [(0x1000, 4)], some (0x1e000, 0x1000), [
    ⟨F.TIER_S_FAR_CFG_OVERCOMMIT 0, .rwl, (.const 16), (.const 32)⟩,
    ⟨F.TIER_S_FAR_CFG_LOW_FRAMES 0, .rwl, .none, .none⟩]⟩,
  ⟨F.TIER_S_NEAR_STATUS 0, [(0x1000, 4)], some (0x1e000, 0x1000), [
    ⟨F.TIER_S_NEAR_STATUS_POOL_FRAMES 0, .ro, .none, .none⟩,
    ⟨F.TIER_S_NEAR_STATUS_FREE_FRAMES 0, .ro, .none, .none⟩,
    ⟨F.TIER_S_NEAR_STATUS_PINNED 0, .ro, .none, .none⟩,
    ⟨F.TIER_S_NEAR_STATUS_THRESH_ERR 0, .ro, .none, .none⟩]⟩,
  ⟨F.TIER_S_FAR_STATUS 0, [(0x1000, 4)], some (0x1e000, 0x1000), [
    ⟨F.TIER_S_FAR_STATUS_FREE_FRAMES 0, .ro, .none, .none⟩,
    ⟨F.TIER_S_FAR_STATUS_JOINED 0, .ro, .none, .none⟩,
    ⟨F.TIER_S_FAR_STATUS_FAR_PRESSURE 0, .ro, .none, .none⟩]⟩,
  ⟨F.TIER_S_HAZE 0, [(0x1000, 4)], some (0x1e000, 0x1000), [
    ⟨F.TIER_S_HAZE_CHANNELS 0, .ro, .none, .none⟩,
    ⟨F.TIER_S_HAZE_STACKS 0, .ro, .none, .none⟩]⟩,
  ⟨F.TIER_S_HAZE_CFG 0, [(0x1000, 4)], some (0x1e000, 0x1000), [
    ⟨F.TIER_S_HAZE_CFG_RATIO 0, .rw, (.const 17), (.const 255)⟩,
    ⟨F.TIER_S_HAZE_CFG_WINDOW_MS 0, .rw, (.const 1), (.const 255)⟩,
    ⟨F.TIER_S_HAZE_CFG_EXIT_MS 0, .rw, (.const 1), (.const 65535)⟩,
    ⟨F.TIER_S_HAZE_CFG_EXIT_RATIO 0, .rw, (.const 16), (.field 0)⟩]⟩,
  ⟨F.TIER_S_MIG_STATS 0, [(0x1000, 4)], some (0x1e000, 0x1000), [
    ⟨F.TIER_S_MIG_STATS_PROMOTED 0, .ro, .none, .none⟩,
    ⟨F.TIER_S_MIG_STATS_DEMOTED 0, .ro, .none, .none⟩]⟩]
def regTable01 : List RegSpec := [
  ⟨F.TIER_S_PROMOTE_DENIED 0, [(0x1000, 4)], some (0x1e000, 0x1000), [
    ⟨F.TIER_S_PROMOTE_DENIED_COUNT 0, .ro, .none, .none⟩]⟩,
  ⟨F.TIER_S_TOUCH_MAX 0, [(0x1000, 4)], some (0x1e000, 0x1000), [
    ⟨F.TIER_S_TOUCH_MAX_MAX_NS 0, .ro, .none, .none⟩,
    ⟨F.TIER_S_TOUCH_MAX_CLEAR 0, .wo, .none, .none⟩]⟩,
  ⟨F.TIER_S_DRIZZLE 0, [(0x1000, 4)], some (0x1e000, 0x1000), [
    ⟨F.TIER_S_DRIZZLE_NEAR_PERIOD_H 0, .rw, (.const 1), (.const 168)⟩,
    ⟨F.TIER_S_DRIZZLE_FAR_PERIOD_H 0, .rw, (.const 1), (.const 168)⟩]⟩,
  ⟨F.TIER_S_DRIZZLE_STATUS 0, [(0x1000, 4)], some (0x1e000, 0x1000), [
    ⟨F.TIER_S_DRIZZLE_STATUS_NEAR_PASSES 0, .ro, .none, .none⟩,
    ⟨F.TIER_S_DRIZZLE_STATUS_FAR_PASSES 0, .ro, .none, .none⟩,
    ⟨F.TIER_S_DRIZZLE_STATUS_CORRECTED 0, .ro, .none, .none⟩,
    ⟨F.TIER_S_DRIZZLE_STATUS_UNCORRECTED 0, .ro, .none, .none⟩]⟩,
  ⟨F.HBM_H_STATUS 0, [(0x1000, 8)], none, [
    ⟨F.HBM_H_STATUS_STATE 0, .ro, .none, .none⟩,
    ⟨F.HBM_H_STATUS_IDENT_OK 0, .ro, .none, .none⟩,
    ⟨F.HBM_H_STATUS_REASON 0, .ro, .none, .none⟩]⟩,
  ⟨F.HBM_H_IDENT 0, [(0x1000, 8)], none, [
    ⟨F.HBM_H_IDENT_VENDOR 0, .ro, .none, .none⟩,
    ⟨F.HBM_H_IDENT_HEIGHT 0, .ro, .none, .none⟩,
    ⟨F.HBM_H_IDENT_CAPACITY_GIB 0, .ro, .none, .none⟩,
    ⟨F.HBM_H_IDENT_SERIAL 0, .ro, .none, .none⟩]⟩,
  ⟨F.HBM_H_ECC 0, [(0x1000, 8)], none, [
    ⟨F.HBM_H_ECC_CORRECTED 0, .ro, .none, .none⟩,
    ⟨F.HBM_H_ECC_UNCORRECTED 0, .ro, .none, .none⟩]⟩,
  ⟨F.HBM_H_SPARE 0, [(0x1000, 8)], none, [
    ⟨F.HBM_H_SPARE_USED 0, .ro, .none, .none⟩,
    ⟨F.HBM_H_SPARE_TOTAL 0, .ro, .none, .none⟩]⟩,
  ⟨F.HBM_H_ERR_ADDR 0, [(0x1000, 8)], none, [
    ⟨F.HBM_H_ERR_ADDR_POOL_ADDR 0, .ro, .none, .none⟩,
    ⟨F.HBM_H_ERR_ADDR_VALID 0, .w1c, .none, .none⟩]⟩,
  ⟨F.HBM_H_CTRL 0, [(0x1000, 8)], none, [
    ⟨F.HBM_H_CTRL_ROW_SPARE_THRESH 0, .rw, (.const 1), (.const 255)⟩,
    ⟨F.HBM_H_CTRL_CLR_COUNTS 0, .wo, .none, .none⟩]⟩,
  ⟨F.DDR_D_CTRL 0, [(0x1000, 32)], some (0x40000, 0x1000), [
    ⟨F.DDR_D_CTRL_SLOT_PWR 0, .rw, .none, .none⟩,
    ⟨F.DDR_D_CTRL_RETIRE 0, .w1s, .none, .none⟩,
    ⟨F.DDR_D_CTRL_RETURN 0, .wo, .none, .none⟩,
    ⟨F.DDR_D_CTRL_AUTO_RETIRE 0, .rw, .none, .none⟩,
    ⟨F.DDR_D_CTRL_PSW_PRESENT 0, .rwl, .none, .none⟩,
    ⟨F.DDR_D_CTRL_CLR_COUNTS 0, .wo, .none, .none⟩,
    ⟨F.DDR_D_CTRL_LOCK 0, .w1s, .none, .none⟩]⟩,
  ⟨F.DDR_D_STATUS 0, [(0x1000, 32)], some (0x40000, 0x1000), [
    ⟨F.DDR_D_STATUS_STATE 0, .ro, .none, .none⟩,
    ⟨F.DDR_D_STATUS_REASON 0, .ro, .none, .none⟩,
    ⟨F.DDR_D_STATUS_SPEED 0, .ro, .none, .none⟩,
    ⟨F.DDR_D_STATUS_CAPACITY_GIB 0, .ro, .none, .none⟩,
    ⟨F.DDR_D_STATUS_PRESENT 0, .ro, .none, .none⟩,
    ⟨F.DDR_D_STATUS_PWR_GOOD 0, .ro, .none, .none⟩,
    ⟨F.DDR_D_STATUS_GRANULES 0, .ro, .none, .none⟩]⟩]
def regTable02 : List RegSpec := [
  ⟨F.DDR_D_SPD 0, [(0x1000, 32)], some (0x40000, 0x1000), [
    ⟨F.DDR_D_SPD_MFR_ID 0, .ro, .none, .none⟩,
    ⟨F.DDR_D_SPD_SERIAL 0, .ro, .none, .none⟩,
    ⟨F.DDR_D_SPD_SPD_REV 0, .ro, .none, .none⟩]⟩,
  ⟨F.DDR_D_ECC 0, [(0x1000, 32)], some (0x40000, 0x1000), [
    ⟨F.DDR_D_ECC_CORRECTED 0, .ro, .none, .none⟩,
    ⟨F.DDR_D_ECC_UNCORRECTED 0, .ro, .none, .none⟩,
    ⟨F.DDR_D_ECC_MARKED 0, .ro, .none, .none⟩]⟩,
  ⟨F.DDR_D_ERR_ADDR 0, [(0x1000, 32)], some (0x40000, 0x1000), [
    ⟨F.DDR_D_ERR_ADDR_POOL_ADDR 0, .ro, .none, .none⟩,
    ⟨F.DDR_D_ERR_ADDR_VALID 0, .w1c, .none, .none⟩]⟩,
  ⟨F.DDR_D_TRAIN 0, [(0x1000, 32)], some (0x40000, 0x1000), [
    ⟨F.DDR_D_TRAIN_LAST_MS 0, .ro, .none, .none⟩,
    ⟨F.DDR_D_TRAIN_ATTEMPTS 0, .ro, .none, .none⟩]⟩,
  ⟨F.XLT_CTRL, [], some (0x8000, 0x0), [
    ⟨F.XLT_CTRL_FAULT_TIMEOUT_MS, .rw, (.const 1), (.const 60000)⟩,
    ⟨F.XLT_CTRL_SQUALL_SHARE, .rw, (.const 16), (.const 8192)⟩,
    ⟨F.XLT_CTRL_LOCK, .w1s, .none, .none⟩]⟩,
  ⟨F.XLT_FQ_STATUS, [], some (0x8000, 0x0), [
    ⟨F.XLT_FQ_STATUS_RECORDS, .ro, .none, .none⟩,
    ⟨F.XLT_FQ_STATUS_SQUALL, .ro, .none, .none⟩,
    ⟨F.XLT_FQ_STATUS_WAITERS, .ro, .none, .none⟩,
    ⟨F.XLT_FQ_STATUS_FULL, .ro, .none, .none⟩,
    ⟨F.XLT_FQ_STATUS_STALLED, .ro, .none, .none⟩]⟩,
  ⟨F.XLT_FQ_PTRS, [], some (0x8000, 0x0), [
    ⟨F.XLT_FQ_PTRS_TAIL, .ro, .none, .none⟩,
    ⟨F.XLT_FQ_PTRS_TAIL_WRAP, .ro, .none, .none⟩,
    ⟨F.XLT_FQ_PTRS_HEAD, .rw, .none, .none⟩,
    ⟨F.XLT_FQ_PTRS_HEAD_WRAP, .rw, .none, .none⟩]⟩,
  ⟨F.XLT_FQ_OVERFLOW, [], some (0x8000, 0x0), [
    ⟨F.XLT_FQ_OVERFLOW_STALLS, .ro, .none, .none⟩,
    ⟨F.XLT_FQ_OVERFLOW_HELD, .ro, .none, .none⟩]⟩,
  ⟨F.XLT_FQ_COALESCED, [], some (0x8000, 0x0), [
    ⟨F.XLT_FQ_COALESCED_COUNT, .ro, .none, .none⟩]⟩,
  ⟨F.XLT_SQUALL_STATS, [], some (0x8000, 0x0), [
    ⟨F.XLT_SQUALL_STATS_ENTRIES, .ro, .none, .none⟩,
    ⟨F.XLT_SQUALL_STATS_THROTTLED, .ro, .none, .none⟩]⟩,
  ⟨F.XLT_INVAL_STATUS, [], some (0x8000, 0x0), [
    ⟨F.XLT_INVAL_STATUS_BUSY, .ro, .none, .none⟩,
    ⟨F.XLT_INVAL_STATUS_LAST_US, .ro, .none, .none⟩,
    ⟨F.XLT_INVAL_STATUS_COUNT, .ro, .none, .none⟩]⟩,
  ⟨F.XLT_SWAP_BASE, [], some (0x8000, 0x0), [
    ⟨F.XLT_SWAP_BASE_FABRIC_BASE, .rwl, .none, .none⟩]⟩]
def regTable03 : List RegSpec := [
  ⟨F.XLT_SWAP_CFG, [], some (0x8000, 0x0), [
    ⟨F.XLT_SWAP_CFG_SLOTS, .rwl, (.const 0), (.const 16777215)⟩,
    ⟨F.XLT_SWAP_CFG_REMOTE_CTX, .rwl, .none, .none⟩,
    ⟨F.XLT_SWAP_CFG_EN, .rwl, .none, .none⟩]⟩,
  ⟨F.XLT_SWAP_STATUS, [], some (0x8000, 0x0), [
    ⟨F.XLT_SWAP_STATUS_USED, .ro, .none, .none⟩,
    ⟨F.XLT_SWAP_STATUS_SWAP_INS, .ro, .none, .none⟩]⟩,
  ⟨F.XLT_DENIED, [], some (0x8000, 0x0), [
    ⟨F.XLT_DENIED_QUEUE, .ro, .none, .none⟩,
    ⟨F.XLT_DENIED_HOME, .ro, .none, .none⟩]⟩,
  ⟨F.XLT_K_TLB 0, [(0x8, 6)], some (0x8000, 0x0), [
    ⟨F.XLT_K_TLB_MISSES 0, .ro, .none, .none⟩,
    ⟨F.XLT_K_TLB_ENTRIES 0, .ro, .none, .none⟩,
    ⟨F.XLT_K_TLB_SEG_MISSES 0, .ro, .none, .none⟩]⟩,
  ⟨F.XLT_S_TLB 0, [(0x8, 4)], some (0x8000, 0x0), [
    ⟨F.XLT_S_TLB_MISSES 0, .ro, .none, .none⟩,
    ⟨F.XLT_S_TLB_ENTRIES 0, .ro, .none, .none⟩,
    ⟨F.XLT_S_TLB_SEG_MISSES 0, .ro, .none, .none⟩]⟩,
  ⟨F.ANV_CTRL, [], none, [
    ⟨F.ANV_CTRL_RD_EN, .rw, .none, .none⟩,
    ⟨F.ANV_CTRL_AT_EN, .rw, .none, .none⟩,
    ⟨F.ANV_CTRL_RD_WINDOW, .rw, (.const 1), (.const 64)⟩,
    ⟨F.ANV_CTRL_AT_WINDOW, .rw, (.const 1), (.const 64)⟩,
    ⟨F.ANV_CTRL_HOT_SPAN, .rw, (.const 64), (.const 4096)⟩]⟩,
  ⟨F.ANV_STATUS, [], none, [
    ⟨F.ANV_STATUS_ENTRIES_OPEN, .ro, .none, .none⟩,
    ⟨F.ANV_STATUS_HOT_LINES, .ro, .none, .none⟩,
    ⟨F.ANV_STATUS_CLOSES, .ro, .none, .none⟩]⟩,
  ⟨F.ANV_K_OUTSTANDING 0, [(0x40, 6)], none, [
    ⟨F.ANV_K_OUTSTANDING_IN_USE 0, .ro, .none, .none⟩,
    ⟨F.ANV_K_OUTSTANDING_PEAK 0, .ro, .none, .none⟩,
    ⟨F.ANV_K_OUTSTANDING_INIT_IN_USE 0, .ro, .none, .none⟩,
    ⟨F.ANV_K_OUTSTANDING_TAG_ERRORS 0, .ro, .none, .none⟩]⟩,
  ⟨F.ANV_K_RD_COMB 0, [(0x40, 6)], none, [
    ⟨F.ANV_K_RD_COMB_JOINED 0, .ro, .none, .none⟩,
    ⟨F.ANV_K_RD_COMB_OPENED 0, .ro, .none, .none⟩]⟩,
  ⟨F.ANV_K_AT_COMB 0, [(0x40, 6)], none, [
    ⟨F.ANV_K_AT_COMB_JOINED 0, .ro, .none, .none⟩,
    ⟨F.ANV_K_AT_COMB_DISPATCHED 0, .ro, .none, .none⟩]⟩,
  ⟨F.ANV_K_ORDER 0, [(0x40, 6)], none, [
    ⟨F.ANV_K_ORDER_SOURCES 0, .ro, .none, .none⟩,
    ⟨F.ANV_K_ORDER_FULL 0, .ro, .none, .none⟩,
    ⟨F.ANV_K_ORDER_FLAGS_HELD 0, .ro, .none, .none⟩,
    ⟨F.ANV_K_ORDER_STALLS 0, .ro, .none, .none⟩]⟩,
  ⟨F.ANV_K_FLAG 0, [(0x40, 6)], none, [
    ⟨F.ANV_K_FLAG_MAX_NS 0, .ro, .none, .none⟩,
    ⟨F.ANV_K_FLAG_FAILED 0, .ro, .none, .none⟩,
    ⟨F.ANV_K_FLAG_CLEAR 0, .wo, .none, .none⟩]⟩]
def regTable04 : List RegSpec := [
  ⟨F.DIR_RSV_C2, [], none, [
    ⟨F.DIR_RSV_C2_K0, .ro, .none, .none⟩,
    ⟨F.DIR_RSV_C2_K1, .ro, .none, .none⟩,
    ⟨F.DIR_RSV_C2_K2, .ro, .none, .none⟩,
    ⟨F.DIR_RSV_C2_K3, .ro, .none, .none⟩,
    ⟨F.DIR_RSV_C2_K4, .ro, .none, .none⟩,
    ⟨F.DIR_RSV_C2_K5, .ro, .none, .none⟩]⟩,
  ⟨F.DIR_RSV_C3, [], none, [
    ⟨F.DIR_RSV_C3_K0, .ro, .none, .none⟩,
    ⟨F.DIR_RSV_C3_K1, .ro, .none, .none⟩,
    ⟨F.DIR_RSV_C3_K2, .ro, .none, .none⟩,
    ⟨F.DIR_RSV_C3_K3, .ro, .none, .none⟩,
    ⟨F.DIR_RSV_C3_K4, .ro, .none, .none⟩,
    ⟨F.DIR_RSV_C3_K5, .ro, .none, .none⟩]⟩,
  ⟨F.DIR_S_CTRL 0, [(0x1000, 4)], some (0x19000, 0x1000), [
    ⟨F.DIR_S_CTRL_HOLD_NS 0, .rw, (.const 64), (.const 4000)⟩,
    ⟨F.DIR_S_CTRL_EXCL_EN 0, .rw, .none, .none⟩,
    ⟨F.DIR_S_CTRL_FAST_UNRESP 0, .rw, .none, .none⟩,
    ⟨F.DIR_S_CTRL_LOCK 0, .w1s, .none, .none⟩]⟩,
  ⟨F.DIR_S_RECALL_CFG 0, [(0x1000, 4)], some (0x19000, 0x1000), [
    ⟨F.DIR_S_RECALL_CFG_TIMEOUT_US 0, .rw, (.const 1), (.const 1000)⟩,
    ⟨F.DIR_S_RECALL_CFG_RETRIES 0, .rw, (.const 0), (.const 15)⟩,
    ⟨F.DIR_S_RECALL_CFG_RSV_TIMEOUT_US 0, .rw, (.const 1), (.const 1000)⟩]⟩,
  ⟨F.DIR_S_STATUS 0, [(0x1000, 4)], some (0x19000, 0x1000), [
    ⟨F.DIR_S_STATUS_ENTRIES 0, .ro, .none, .none⟩,
    ⟨F.DIR_S_STATUS_MASK_ENTRIES 0, .ro, .none, .none⟩,
    ⟨F.DIR_S_STATUS_LOST 0, .ro, .none, .none⟩,
    ⟨F.DIR_S_STATUS_LOST_FULL 0, .w1c, .none, .none⟩]⟩,
  ⟨F.DIR_S_BUSY 0, [(0x1000, 4)], some (0x19000, 0x1000), [
    ⟨F.DIR_S_BUSY_TXN 0, .ro, .none, .none⟩,
    ⟨F.DIR_S_BUSY_PENDING 0, .ro, .none, .none⟩,
    ⟨F.DIR_S_BUSY_PEND_FULL 0, .ro, .none, .none⟩,
    ⟨F.DIR_S_BUSY_PEND_STALLS 0, .ro, .none, .none⟩]⟩,
  ⟨F.DIR_S_CACHE 0, [(0x1000, 4)], some (0x19000, 0x1000), [
    ⟨F.DIR_S_CACHE_HITS 0, .ro, .none, .none⟩,
    ⟨F.DIR_S_CACHE_MISSES 0, .ro, .none, .none⟩]⟩,
  ⟨F.DIR_S_RECALLS 0, [(0x1000, 4)], some (0x19000, 0x1000), [
    ⟨F.DIR_S_RECALLS_TOTAL 0, .ro, .none, .none⟩,
    ⟨F.DIR_S_RECALLS_CAPACITY 0, .ro, .none, .none⟩]⟩,
  ⟨F.DIR_S_TIMEOUTS 0, [(0x1000, 4)], some (0x19000, 0x1000), [
    ⟨F.DIR_S_TIMEOUTS_OWNER_LOST 0, .ro, .none, .none⟩,
    ⟨F.DIR_S_TIMEOUTS_SHARER_DROPPED 0, .ro, .none, .none⟩,
    ⟨F.DIR_S_TIMEOUTS_RESENDS 0, .ro, .none, .none⟩,
    ⟨F.DIR_S_TIMEOUTS_UNRESP 0, .ro, .none, .none⟩]⟩,
  ⟨F.DIR_S_RETRY 0, [(0x1000, 4)], some (0x19000, 0x1000), [
    ⟨F.DIR_S_RETRY_ISSUED 0, .ro, .none, .none⟩,
    ⟨F.DIR_S_RETRY_EXPIRED 0, .ro, .none, .none⟩,
    ⟨F.DIR_S_RETRY_STRAY 0, .ro, .none, .none⟩]⟩,
  ⟨F.DIR_S_LOST_ADDR 0, [(0x1000, 4)], some (0x19000, 0x1000), [
    ⟨F.DIR_S_LOST_ADDR_POOL_ADDR 0, .ro, .none, .none⟩,
    ⟨F.DIR_S_LOST_ADDR_VALID 0, .w1c, .none, .none⟩,
    ⟨F.DIR_S_LOST_ADDR_PORT 0, .ro, .none, .none⟩,
    ⟨F.DIR_S_LOST_ADDR_PARTNER 0, .ro, .none, .none⟩]⟩,
  ⟨F.DIR_S_PUBLISH 0, [(0x1000, 4)], some (0x19000, 0x1000), [
    ⟨F.DIR_S_PUBLISH_COMMITTED 0, .ro, .none, .none⟩,
    ⟨F.DIR_S_PUBLISH_STALE 0, .ro, .none, .none⟩]⟩]
def regTable05 : List RegSpec := [
  ⟨F.RING_CTRL, [], some (0x9000, 0x0), [
    ⟨F.RING_CTRL_FETCH_BURST, .rw, (.const 1), (.const 64)⟩,
    ⟨F.RING_CTRL_DISABLE_BOUND_US, .rwl, (.const 10), (.const 65535)⟩,
    ⟨F.RING_CTRL_LOCK, .w1s, .none, .none⟩]⟩,
  ⟨F.RING_STATUS, [], some (0x9000, 0x0), [
    ⟨F.RING_STATUS_ENABLED, .ro, .none, .none⟩,
    ⟨F.RING_STATUS_DRAINING, .ro, .none, .none⟩,
    ⟨F.RING_STATUS_ERROR, .ro, .none, .none⟩]⟩,
  ⟨F.RING_QC_SEL, [], some (0x9000, 0x0), [
    ⟨F.RING_QC_SEL_RING, .rw, .none, .none⟩,
    ⟨F.RING_QC_SEL_CMD, .wo, .none, .none⟩,
    ⟨F.RING_QC_SEL_BUSY, .ro, .none, .none⟩,
    ⟨F.RING_QC_SEL_RESULT, .ro, .none, .none⟩]⟩,
  ⟨F.RING_QC_DATA 0, [(0x8, 8)], some (0x9000, 0x0), [
    ⟨F.RING_QC_DATA_WORD 0, .rw, .none, .none⟩]⟩,
  ⟨F.RING_CACHE, [], some (0x9000, 0x0), [
    ⟨F.RING_CACHE_HITS, .ro, .none, .none⟩,
    ⟨F.RING_CACHE_MISSES, .ro, .none, .none⟩]⟩,
  ⟨F.RING_DB_ERRORS, [], some (0x9000, 0x0), [
    ⟨F.RING_DB_ERRORS_CPAIR, .ro, .none, .none⟩,
    ⟨F.RING_DB_ERRORS_RANGE, .ro, .none, .none⟩,
    ⟨F.RING_DB_ERRORS_PATH, .ro, .none, .none⟩,
    ⟨F.RING_DB_ERRORS_DISABLED, .ro, .none, .none⟩]⟩,
  ⟨F.TP_CTRL, [], some (0x30000, 0x0), [
    ⟨F.TP_CTRL_PLANE_EN, .rw, .none, .none⟩,
    ⟨F.TP_CTRL_SR_EN, .rw, .none, .none⟩,
    ⟨F.TP_CTRL_COUNT_EN, .rw, .none, .none⟩,
    ⟨F.TP_CTRL_LOCK, .w1s, .none, .none⟩]⟩,
  ⟨F.TP_STATUS, [], some (0x30000, 0x0), [
    ⟨F.TP_STATUS_TILES_ON, .ro, .none, .none⟩,
    ⟨F.TP_STATUS_TILES_RET, .ro, .none, .none⟩,
    ⟨F.TP_STATUS_TILES_OFF, .ro, .none, .none⟩,
    ⟨F.TP_STATUS_RUNNING, .ro, .none, .none⟩]⟩,
  ⟨F.TP_POWER_CFG, [], some (0x30000, 0x0), [
    ⟨F.TP_POWER_CFG_TILE_RET_US, .rw, (.const 1), (.const 65535)⟩,
    ⟨F.TP_POWER_CFG_TILE_OFF_MS, .rw, (.const 1), (.const 65535)⟩]⟩,
  ⟨F.TP_STALLS, [], some (0x30000, 0x0), [
    ⟨F.TP_STALLS_PLANE_STALLS, .ro, .none, .none⟩]⟩,
  ⟨F.TP_MAINT_BASE, [], some (0x30000, 0x0), [
    ⟨F.TP_MAINT_BASE_POOL_BASE, .rw, .none, .none⟩]⟩,
  ⟨F.TP_MAINT_LEN, [], some (0x30000, 0x0), [
    ⟨F.TP_MAINT_LEN_LENGTH, .rw, .none, .none⟩]⟩]
def regTable06 : List RegSpec := [
  ⟨F.TP_MAINT_CMD, [], some (0x30000, 0x0), [
    ⟨F.TP_MAINT_CMD_OP, .wo, .none, .none⟩,
    ⟨F.TP_MAINT_CMD_SECTORS, .wo, .none, .none⟩,
    ⟨F.TP_MAINT_CMD_BUSY, .ro, .none, .none⟩,
    ⟨F.TP_MAINT_CMD_RESULT, .ro, .none, .none⟩]⟩,
  ⟨F.TP_T_STATUS 0, [(0x40, 64)], some (0x30000, 0x0), [
    ⟨F.TP_T_STATUS_STATE 0, .ro, .none, .none⟩,
    ⟨F.TP_T_STATUS_HAZY 0, .ro, .none, .none⟩,
    ⟨F.TP_T_STATUS_FAILED 0, .ro, .none, .none⟩,
    ⟨F.TP_T_STATUS_BANKS_ON 0, .ro, .none, .none⟩,
    ⟨F.TP_T_STATUS_BANKS_RET 0, .ro, .none, .none⟩,
    ⟨F.TP_T_STATUS_BUSY 0, .ro, .none, .none⟩]⟩,
  ⟨F.TP_T_FLAGS 0, [(0x40, 64)], some (0x30000, 0x0), [
    ⟨F.TP_T_FLAGS_INVALID 0, .w1c, .none, .none⟩,
    ⟨F.TP_T_FLAGS_OVERFLOW 0, .w1c, .none, .none⟩,
    ⟨F.TP_T_FLAGS_SATURATED 0, .w1c, .none, .none⟩,
    ⟨F.TP_T_FLAGS_INT_WRAP 0, .w1c, .none, .none⟩,
    ⟨F.TP_T_FLAGS_NAN_SCALE 0, .w1c, .none, .none⟩,
    ⟨F.TP_T_FLAGS_BANK_ERR 0, .w1c, .none, .none⟩]⟩,
  ⟨F.TP_T_CONFLICT0 0, [(0x40, 64)], some (0x30000, 0x0), [
    ⟨F.TP_T_CONFLICT0_MA 0, .ro, .none, .none⟩,
    ⟨F.TP_T_CONFLICT0_MB 0, .ro, .none, .none⟩,
    ⟨F.TP_T_CONFLICT0_ACC 0, .ro, .none, .none⟩,
    ⟨F.TP_T_CONFLICT0_VLD 0, .ro, .none, .none⟩]⟩,
  ⟨F.TP_T_CONFLICT1 0, [(0x40, 64)], some (0x30000, 0x0), [
    ⟨F.TP_T_CONFLICT1_VST 0, .ro, .none, .none⟩,
    ⟨F.TP_T_CONFLICT1_CPY 0, .ro, .none, .none⟩,
    ⟨F.TP_T_CONFLICT1_SAVE 0, .ro, .none, .none⟩,
    ⟨F.TP_T_CONFLICT1_CLEAR 0, .wo, .none, .none⟩]⟩,
  ⟨F.TP_T_ECC 0, [(0x40, 64)], some (0x30000, 0x0), [
    ⟨F.TP_T_ECC_CORRECTED 0, .ro, .none, .none⟩,
    ⟨F.TP_T_ECC_UNCORRECTED 0, .ro, .none, .none⟩]⟩,
  ⟨F.TP_S_CACHE_CFG 0, [(0x100, 4)], some (0x32000, 0x100), [
    ⟨F.TP_S_CACHE_CFG_GUEST_WAYS 0, .rwl, (.const 1), (.const 15)⟩,
    ⟨F.TP_S_CACHE_CFG_FLUSH_GBPS 0, .rw, (.const 64), (.const 1000)⟩,
    ⟨F.TP_S_CACHE_CFG_LOCK 0, .w1s, .none, .none⟩]⟩,
  ⟨F.TP_S_CACHE_STATS 0, [(0x100, 4)], some (0x32000, 0x100), [
    ⟨F.TP_S_CACHE_STATS_HITS 0, .ro, .none, .none⟩,
    ⟨F.TP_S_CACHE_STATS_MISSES 0, .ro, .none, .none⟩]⟩,
  ⟨F.TP_S_GUEST 0, [(0x100, 4)], some (0x32000, 0x100), [
    ⟨F.TP_S_GUEST_LINES 0, .ro, .none, .none⟩,
    ⟨F.TP_S_GUEST_DIRTY 0, .ro, .none, .none⟩,
    ⟨F.TP_S_GUEST_REGIONS 0, .ro, .none, .none⟩]⟩,
  ⟨F.TP_S_FLUSH 0, [(0x100, 4)], some (0x32000, 0x100), [
    ⟨F.TP_S_FLUSH_COUNT 0, .ro, .none, .none⟩,
    ⟨F.TP_S_FLUSH_LAST_US 0, .ro, .none, .none⟩,
    ⟨F.TP_S_FLUSH_TRACKER_EVICTIONS 0, .ro, .none, .none⟩]⟩,
  ⟨F.TP_S_ACQUIRE 0, [(0x100, 4)], some (0x32000, 0x100), [
    ⟨F.TP_S_ACQUIRE_COUNT 0, .ro, .none, .none⟩,
    ⟨F.TP_S_ACQUIRE_STALE_MISSES 0, .ro, .none, .none⟩]⟩,
  ⟨F.TP_S_STAMP 0, [(0x100, 4)], some (0x32000, 0x100), [
    ⟨F.TP_S_STAMP_STAMP 0, .ro, .none, .none⟩,
    ⟨F.TP_S_STAMP_WRAPS 0, .ro, .none, .none⟩]⟩]
def regTable07 : List RegSpec := [
  ⟨F.TP_SEQ_CTRL, [], some (0x30000, 0x0), [
    ⟨F.TP_SEQ_CTRL_QUANTUM_US, .rw, (.const 10), (.const 65535)⟩,
    ⟨F.TP_SEQ_CTRL_MAX_RESTARTS, .rw, (.const 0), (.const 15)⟩,
    ⟨F.TP_SEQ_CTRL_FETCH_LEAD, .rw, (.const 1), (.const 255)⟩]⟩,
  ⟨F.TP_SEQ_STATUS, [], some (0x30000, 0x0), [
    ⟨F.TP_SEQ_STATUS_STATE, .ro, .none, .none⟩,
    ⟨F.TP_SEQ_STATUS_CONTEXT, .ro, .none, .none⟩,
    ⟨F.TP_SEQ_STATUS_BUNDLE, .ro, .none, .none⟩,
    ⟨F.TP_SEQ_STATUS_SUSPENDED, .ro, .none, .none⟩]⟩,
  ⟨F.TP_SEQ_ERR, [], some (0x30000, 0x0), [
    ⟨F.TP_SEQ_ERR_KIND, .ro, .none, .none⟩,
    ⟨F.TP_SEQ_ERR_BUNDLE, .ro, .none, .none⟩,
    ⟨F.TP_SEQ_ERR_CONTEXT, .ro, .none, .none⟩,
    ⟨F.TP_SEQ_ERR_VALID, .w1c, .none, .none⟩]⟩,
  ⟨F.TP_SEQ_STATS, [], some (0x30000, 0x0), [
    ⟨F.TP_SEQ_STATS_KERNELS, .ro, .none, .none⟩,
    ⟨F.TP_SEQ_STATS_RESTARTS, .ro, .none, .none⟩,
    ⟨F.TP_SEQ_STATS_SWITCHES, .ro, .none, .none⟩]⟩,
  ⟨F.TP_SEQ_FETCH, [], some (0x30000, 0x0), [
    ⟨F.TP_SEQ_FETCH_UNDERRUN, .ro, .none, .none⟩,
    ⟨F.TP_SEQ_FETCH_SYNC_HOLD, .ro, .none, .none⟩]⟩,
  ⟨F.TP_SEQ_QUEUE, [], some (0x30000, 0x0), [
    ⟨F.TP_SEQ_QUEUE_QUEUED, .ro, .none, .none⟩,
    ⟨F.TP_SEQ_QUEUE_PEAK, .ro, .none, .none⟩]⟩,
  ⟨F.CPY_CTRL, [], some (0xd000, 0x0), [
    ⟨F.CPY_CTRL_RATE_GBPS, .rw, (.const 16), (.const 512)⟩,
    ⟨F.CPY_CTRL_RING_SHARE, .rw, (.const 0), (.const 100)⟩,
    ⟨F.CPY_CTRL_LOCK, .w1s, .none, .none⟩]⟩,
  ⟨F.CPY_C_STATUS 0, [(0x40, 8)], some (0xd000, 0x0), [
    ⟨F.CPY_C_STATUS_STATE 0, .ro, .none, .none⟩,
    ⟨F.CPY_C_STATUS_KQ 0, .ro, .none, .none⟩,
    ⟨F.CPY_C_STATUS_RQ 0, .ro, .none, .none⟩,
    ⟨F.CPY_C_STATUS_INFLIGHT 0, .ro, .none, .none⟩]⟩,
  ⟨F.CPY_C_BYTES 0, [(0x40, 8)], some (0xd000, 0x0), [
    ⟨F.CPY_C_BYTES_BYTES 0, .ro, .none, .none⟩]⟩,
  ⟨F.CPY_C_COPIES 0, [(0x40, 8)], some (0xd000, 0x0), [
    ⟨F.CPY_C_COPIES_COMPLETED 0, .ro, .none, .none⟩,
    ⟨F.CPY_C_COPIES_FAULTED 0, .ro, .none, .none⟩,
    ⟨F.CPY_C_COPIES_POISONED 0, .ro, .none, .none⟩]⟩,
  ⟨F.CPY_C_STALLS 0, [(0x40, 8)], some (0xd000, 0x0), [
    ⟨F.CPY_C_STALLS_SLOT_STALLS 0, .ro, .none, .none⟩,
    ⟨F.CPY_C_STALLS_TAG_WAITS 0, .ro, .none, .none⟩]⟩,
  ⟨F.CPY_C_DECOMP 0, [(0x40, 8)], some (0xd000, 0x0), [
    ⟨F.CPY_C_DECOMP_GRANULES 0, .ro, .none, .none⟩,
    ⟨F.CPY_C_DECOMP_TOUCHES 0, .ro, .none, .none⟩]⟩]
def regTable08 : List RegSpec := [
  ⟨F.EMB_CTRL, [], some (0xe000, 0x0), [
    ⟨F.EMB_CTRL_EN, .rw, .none, .none⟩,
    ⟨F.EMB_CTRL_BAL_EN, .rw, .none, .none⟩,
    ⟨F.EMB_CTRL_BAL_RATIO, .rw, (.const 17), (.const 255)⟩,
    ⟨F.EMB_CTRL_BAL_EPOCH_MS, .rw, (.const 10), (.const 10000)⟩,
    ⟨F.EMB_CTRL_BAL_MAX, .rw, (.const 1), (.const 65535)⟩,
    ⟨F.EMB_CTRL_PIN_LOG2, .rw, (.const 4), (.const 20)⟩,
    ⟨F.EMB_CTRL_LOCK, .w1s, .none, .none⟩]⟩,
  ⟨F.EMB_TIMING, [], some (0xe000, 0x0), [
    ⟨F.EMB_TIMING_HOOK_MS, .rwl, (.const 1), (.const 65535)⟩,
    ⟨F.EMB_TIMING_PIN_US, .rw, (.const 1), (.const 65535)⟩,
    ⟨F.EMB_TIMING_PIN_MIB, .rw, (.const 1), (.const 8)⟩]⟩,
  ⟨F.EMB_TABLES, [], some (0xe000, 0x0), [
    ⟨F.EMB_TABLES_VERSIONS, .ro, .none, .none⟩,
    ⟨F.EMB_TABLES_RETIRING, .ro, .none, .none⟩,
    ⟨F.EMB_TABLES_HOOKS, .ro, .none, .none⟩]⟩,
  ⟨F.EMB_E_STATUS 0, [(0x40, 4)], some (0xe000, 0x0), [
    ⟨F.EMB_E_STATUS_STATE 0, .ro, .none, .none⟩,
    ⟨F.EMB_E_STATUS_INFLIGHT 0, .ro, .none, .none⟩,
    ⟨F.EMB_E_STATUS_BUF 0, .ro, .none, .none⟩,
    ⟨F.EMB_E_STATUS_PASSES 0, .ro, .none, .none⟩,
    ⟨F.EMB_E_STATUS_SUBSTITUTE 0, .ro, .none, .none⟩]⟩,
  ⟨F.EMB_E_STATS 0, [(0x40, 4)], some (0xe000, 0x0), [
    ⟨F.EMB_E_STATS_JOBS 0, .ro, .none, .none⟩,
    ⟨F.EMB_E_STATS_ROW_RMW 0, .ro, .none, .none⟩,
    ⟨F.EMB_E_STATS_NONFINITE 0, .ro, .none, .none⟩]⟩,
  ⟨F.EMB_E_INDICES 0, [(0x40, 4)], some (0xe000, 0x0), [
    ⟨F.EMB_E_INDICES_INVALID 0, .ro, .none, .none⟩,
    ⟨F.EMB_E_INDICES_MISSING 0, .ro, .none, .none⟩]⟩,
  ⟨F.EMB_E_COMBINE 0, [(0x40, 4)], some (0xe000, 0x0), [
    ⟨F.EMB_E_COMBINE_DUPLICATES 0, .ro, .none, .none⟩,
    ⟨F.EMB_E_COMBINE_RESTARTS 0, .ro, .none, .none⟩,
    ⟨F.EMB_E_COMBINE_PINNED 0, .ro, .none, .none⟩]⟩,
  ⟨F.EMB_E_LOAD 0, [(0x40, 4)], some (0xe000, 0x0), [
    ⟨F.EMB_E_LOAD_LAST_EPOCH 0, .ro, .none, .none⟩,
    ⟨F.EMB_E_LOAD_RELOCATED 0, .ro, .none, .none⟩]⟩,
  ⟨F.SRCH_CTRL, [], some (0xf000, 0x0), [
    ⟨F.SRCH_CTRL_EN, .rw, .none, .none⟩,
    ⟨F.SRCH_CTRL_PREFETCH, .rw, (.const 0), (.const 8)⟩,
    ⟨F.SRCH_CTRL_LOCK, .w1s, .none, .none⟩]⟩,
  ⟨F.SRCH_INDEXES, [], some (0xf000, 0x0), [
    ⟨F.SRCH_INDEXES_DEFS, .ro, .none, .none⟩,
    ⟨F.SRCH_INDEXES_RETIRING, .ro, .none, .none⟩]⟩,
  ⟨F.SRCH_Q_STATUS 0, [(0x40, 4)], some (0xf000, 0x0), [
    ⟨F.SRCH_Q_STATUS_STATE 0, .ro, .none, .none⟩,
    ⟨F.SRCH_Q_STATUS_INFLIGHT 0, .ro, .none, .none⟩,
    ⟨F.SRCH_Q_STATUS_SUBSTITUTE 0, .ro, .none, .none⟩]⟩,
  ⟨F.SRCH_Q_STATS 0, [(0x40, 4)], some (0xf000, 0x0), [
    ⟨F.SRCH_Q_STATS_QUERIES 0, .ro, .none, .none⟩,
    ⟨F.SRCH_Q_STATS_SHORT 0, .ro, .none, .none⟩,
    ⟨F.SRCH_Q_STATS_RESTARTS 0, .ro, .none, .none⟩]⟩]
def regTable09 : List RegSpec := [
  ⟨F.SRCH_Q_SCAN 0, [(0x40, 4)], some (0xf000, 0x0), [
    ⟨F.SRCH_Q_SCAN_BYTES 0, .ro, .none, .none⟩]⟩,
  ⟨F.SRCH_Q_GRAPH 0, [(0x40, 4)], some (0xf000, 0x0), [
    ⟨F.SRCH_Q_GRAPH_RECORDS 0, .ro, .none, .none⟩,
    ⟨F.SRCH_Q_GRAPH_STALE 0, .ro, .none, .none⟩]⟩,
  ⟨F.SRCH_Q_FILTER 0, [(0x40, 4)], some (0xf000, 0x0), [
    ⟨F.SRCH_Q_FILTER_REJECTED 0, .ro, .none, .none⟩,
    ⟨F.SRCH_Q_FILTER_POISON_SKIPPED 0, .ro, .none, .none⟩,
    ⟨F.SRCH_Q_FILTER_BUDGET_HITS 0, .ro, .none, .none⟩]⟩,
  ⟨F.SRCH_Q_UPDATE 0, [(0x40, 4)], some (0xf000, 0x0), [
    ⟨F.SRCH_Q_UPDATE_INSERTS 0, .ro, .none, .none⟩,
    ⟨F.SRCH_Q_UPDATE_DELETES 0, .ro, .none, .none⟩]⟩,
  ⟨F.BLK_CTRL, [], some (0x10000, 0x0), [
    ⟨F.BLK_CTRL_EN, .rw, .none, .none⟩,
    ⟨F.BLK_CTRL_LOCK, .w1s, .none, .none⟩]⟩,
  ⟨F.BLK_TIMING, [], some (0x10000, 0x0), [
    ⟨F.BLK_TIMING_HANDOFF_MS, .rwl, (.const 1), (.const 65535)⟩,
    ⟨F.BLK_TIMING_ACK_RESEND_US, .rwl, (.const 10), (.const 65535)⟩,
    ⟨F.BLK_TIMING_GIVEUP_MS, .rwl, (.field 0), (.const 65535)⟩,
    ⟨F.BLK_TIMING_GONE_MS, .rwl, (.field 32), (.const 65535)⟩]⟩,
  ⟨F.BLK_STATUS, [], some (0x10000, 0x0), [
    ⟨F.BLK_STATUS_SPACES, .ro, .none, .none⟩,
    ⟨F.BLK_STATUS_LEDGER, .ro, .none, .none⟩,
    ⟨F.BLK_STATUS_SENDING, .ro, .none, .none⟩,
    ⟨F.BLK_STATUS_ACKED, .ro, .none, .none⟩]⟩,
  ⟨F.BLK_HANDOFF_STATS, [], some (0x10000, 0x0), [
    ⟨F.BLK_HANDOFF_STATS_COMPLETED, .ro, .none, .none⟩,
    ⟨F.BLK_HANDOFF_STATS_RECLAIMED, .ro, .none, .none⟩,
    ⟨F.BLK_HANDOFF_STATS_STALE, .ro, .none, .none⟩]⟩,
  ⟨F.BLK_LOG_CFG, [], some (0x10000, 0x0), [
    ⟨F.BLK_LOG_CFG_LOG_GIB, .rwl, (.const 1), (.const 64)⟩]⟩,
  ⟨F.BLK_LOG_STATUS, [], some (0x10000, 0x0), [
    ⟨F.BLK_LOG_STATUS_USED_MIB, .ro, .none, .none⟩,
    ⟨F.BLK_LOG_STATUS_OPEN, .ro, .none, .none⟩,
    ⟨F.BLK_LOG_STATUS_WAITING, .ro, .none, .none⟩]⟩,
  ⟨F.BLK_LOG_STATS, [], some (0x10000, 0x0), [
    ⟨F.BLK_LOG_STATS_RECORDS, .ro, .none, .none⟩,
    ⟨F.BLK_LOG_STATS_WAITS, .ro, .none, .none⟩]⟩,
  ⟨F.BLK_B_STATUS 0, [(0x40, 4)], some (0x10000, 0x0), [
    ⟨F.BLK_B_STATUS_STATE 0, .ro, .none, .none⟩,
    ⟨F.BLK_B_STATUS_INFLIGHT 0, .ro, .none, .none⟩,
    ⟨F.BLK_B_STATUS_SUBSTITUTE 0, .ro, .none, .none⟩]⟩]
def regTable10 : List RegSpec := [
  ⟨F.BLK_B_OPS 0, [(0x40, 4)], some (0x10000, 0x0), [
    ⟨F.BLK_B_OPS_GETS 0, .ro, .none, .none⟩,
    ⟨F.BLK_B_OPS_PUTS 0, .ro, .none, .none⟩]⟩,
  ⟨F.BLK_B_LEASE 0, [(0x40, 4)], some (0x10000, 0x0), [
    ⟨F.BLK_B_LEASE_EVICTED 0, .ro, .none, .none⟩,
    ⟨F.BLK_B_LEASE_PROBE_FULL 0, .ro, .none, .none⟩,
    ⟨F.BLK_B_LEASE_PIN_FULL 0, .ro, .none, .none⟩]⟩,
  ⟨F.KZP_CTRL 0, [(0x1000, 6)], some (0x12000, 0x1000), [
    ⟨F.KZP_CTRL_EN 0, .rw, .none, .none⟩,
    ⟨F.KZP_CTRL_PERSONALITY 0, .rwl, .none, .none⟩,
    ⟨F.KZP_CTRL_MIN_LINKS 0, .rw, (.const 1), (.const 6)⟩,
    ⟨F.KZP_CTRL_REKEY_LOG2 0, .rwl, (.const 20), (.const 62)⟩,
    ⟨F.KZP_CTRL_LOCK 0, .w1s, .none, .none⟩]⟩,
  ⟨F.KZP_STATUS 0, [(0x1000, 6)], some (0x12000, 0x1000), [
    ⟨F.KZP_STATUS_STATE 0, .ro, .none, .none⟩,
    ⟨F.KZP_STATUS_LINK_SET 0, .ro, .none, .none⟩,
    ⟨F.KZP_STATUS_HAZY 0, .ro, .none, .none⟩,
    ⟨F.KZP_STATUS_SESSION 0, .ro, .none, .none⟩,
    ⟨F.KZP_STATUS_REASON 0, .ro, .none, .none⟩]⟩,
  ⟨F.KZP_PEER 0, [(0x1000, 6)], some (0x12000, 0x1000), [
    ⟨F.KZP_PEER_PEER_ID 0, .ro, .none, .none⟩]⟩,
  ⟨F.KZP_CRYPTO 0, [(0x1000, 6)], some (0x12000, 0x1000), [
    ⟨F.KZP_CRYPTO_TAG_FAILS 0, .ro, .none, .none⟩,
    ⟨F.KZP_CRYPTO_REKEYS 0, .ro, .none, .none⟩,
    ⟨F.KZP_CRYPTO_KEY_WAIT 0, .ro, .none, .none⟩]⟩,
  ⟨F.KZP_CXL_CFG 0, [(0x1000, 6)], some (0x12000, 0x1000), [
    ⟨F.KZP_CXL_CFG_CXL_CTX 0, .rwl, .none, .none⟩,
    ⟨F.KZP_CXL_CFG_CXL_TENANT 0, .rwl, .none, .none⟩]⟩,
  ⟨F.KZP_CXL_VA 0, [(0x1000, 6)], some (0x12000, 0x1000), [
    ⟨F.KZP_CXL_VA_CXL_VA_BASE 0, .rwl, .none, .none⟩]⟩,
  ⟨F.KZP_CXL_STATUS 0, [(0x1000, 6)], some (0x12000, 0x1000), [
    ⟨F.KZP_CXL_STATUS_LINK_UP 0, .ro, .none, .none⟩,
    ⟨F.KZP_CXL_STATUS_MEM_EN 0, .ro, .none, .none⟩,
    ⟨F.KZP_CXL_STATUS_WR_DROPPED 0, .ro, .none, .none⟩,
    ⟨F.KZP_CXL_STATUS_RD_POISONED 0, .ro, .none, .none⟩,
    ⟨F.KZP_CXL_STATUS_UNSUPPORTED 0, .ro, .none, .none⟩]⟩,
  ⟨F.KZP_L_STATUS 0 0, [(0x1000, 6), (0x20, 6)], some (0x12000, 0x1000), [
    ⟨F.KZP_L_STATUS_STATE 0 0, .ro, .none, .none⟩,
    ⟨F.KZP_L_STATUS_WIDTH 0 0, .ro, .none, .none⟩,
    ⟨F.KZP_L_STATUS_LANES_OK 0 0, .ro, .none, .none⟩,
    ⟨F.KZP_L_STATUS_REASON 0 0, .ro, .none, .none⟩,
    ⟨F.KZP_L_STATUS_LAST_TRAIN_MS 0 0, .ro, .none, .none⟩,
    ⟨F.KZP_L_STATUS_TX_COUNTER_HI 0 0, .ro, .none, .none⟩]⟩,
  ⟨F.KZP_L_CTRL 0 0, [(0x1000, 6), (0x20, 6)], some (0x12000, 0x1000), [
    ⟨F.KZP_L_CTRL_RETIRE 0 0, .w1s, .none, .none⟩,
    ⟨F.KZP_L_CTRL_RETURN 0 0, .wo, .none, .none⟩,
    ⟨F.KZP_L_CTRL_RETRAIN 0 0, .wo, .none, .none⟩]⟩,
  ⟨F.KZP_L_ERRS 0 0, [(0x1000, 6), (0x20, 6)], some (0x12000, 0x1000), [
    ⟨F.KZP_L_ERRS_FEC_CORR 0 0, .ro, .none, .none⟩,
    ⟨F.KZP_L_ERRS_FEC_UNCORR 0 0, .ro, .none, .none⟩,
    ⟨F.KZP_L_ERRS_REPLAYS 0 0, .ro, .none, .none⟩]⟩]
def regTable11 : List RegSpec := [
  ⟨F.KZP_OE_STATUS 0 0, [(0x1000, 6), (0x20, 2)], some (0x12000, 0x1000), [
    ⟨F.KZP_OE_STATUS_STATE 0 0, .ro, .none, .none⟩,
    ⟨F.KZP_OE_STATUS_TEMP_C 0 0, .ro, .none, .none⟩,
    ⟨F.KZP_OE_STATUS_LSM_PRESENT 0 0, .ro, .none, .none⟩,
    ⟨F.KZP_OE_STATUS_LSM_STATE 0 0, .ro, .none, .none⟩,
    ⟨F.KZP_OE_STATUS_LSM_REASON 0 0, .ro, .none, .none⟩,
    ⟨F.KZP_OE_STATUS_LSM_POWER 0 0, .ro, .none, .none⟩]⟩,
  ⟨F.KZP_LSM_IDENT 0 0, [(0x1000, 6), (0x20, 2)], some (0x12000, 0x1000), [
    ⟨F.KZP_LSM_IDENT_VENDOR_OUI 0 0, .ro, .none, .none⟩,
    ⟨F.KZP_LSM_IDENT_CMIS_REV 0 0, .ro, .none, .none⟩,
    ⟨F.KZP_LSM_IDENT_SERIAL 0 0, .ro, .none, .none⟩]⟩,
  ⟨F.SCH_CTRL, [], some (0xb000, 0x0), [
    ⟨F.SCH_CTRL_INIT_SHARE, .rw, (.const 0), (.const 100)⟩,
    ⟨F.SCH_CTRL_LOCK, .w1s, .none, .none⟩]⟩,
  ⟨F.SCH_SPILL_STATUS, [], some (0xb000, 0x0), [
    ⟨F.SCH_SPILL_STATUS_SEGMENTS, .ro, .none, .none⟩,
    ⟨F.SCH_SPILL_STATUS_PEAK, .ro, .none, .none⟩,
    ⟨F.SCH_SPILL_STATUS_FULL, .ro, .none, .none⟩]⟩,
  ⟨F.SCH_TQ_SEL, [], some (0xb000, 0x0), [
    ⟨F.SCH_TQ_SEL_PORT, .rw, (.const 0), (.const 5)⟩,
    ⟨F.SCH_TQ_SEL_TENANT, .rw, .none, .none⟩,
    ⟨F.SCH_TQ_SEL_CMD, .wo, .none, .none⟩,
    ⟨F.SCH_TQ_SEL_BUSY, .ro, .none, .none⟩,
    ⟨F.SCH_TQ_SEL_RESULT, .ro, .none, .none⟩]⟩,
  ⟨F.SCH_TQ_CFG0, [], some (0xb000, 0x0), [
    ⟨F.SCH_TQ_CFG0_EN, .rw, .none, .none⟩,
    ⟨F.SCH_TQ_CFG0_DOMAIN, .rw, .none, .none⟩,
    ⟨F.SCH_TQ_CFG0_WEIGHT, .rw, (.const 0), (.const 255)⟩,
    ⟨F.SCH_TQ_CFG0_RATE, .rw, .none, .none⟩,
    ⟨F.SCH_TQ_CFG0_RATE_CAP_KIB, .rw, (.const 1), (.const 65535)⟩]⟩,
  ⟨F.SCH_TQ_CFG1, [], some (0xb000, 0x0), [
    ⟨F.SCH_TQ_CFG1_RESV, .rw, .none, .none⟩,
    ⟨F.SCH_TQ_CFG1_RESV_CAP_KIB, .rw, (.const 1), (.const 65535)⟩,
    ⟨F.SCH_TQ_CFG1_INFLIGHT_MAX, .rw, (.const 1), (.const 8192)⟩,
    ⟨F.SCH_TQ_CFG1_BUF_KIB, .rw, (.const 16), (.const 3072)⟩]⟩,
  ⟨F.SCH_TQ_STAT, [], some (0xb000, 0x0), [
    ⟨F.SCH_TQ_STAT_INFLIGHT, .ro, .none, .none⟩,
    ⟨F.SCH_TQ_STAT_QUEUED, .ro, .none, .none⟩,
    ⟨F.SCH_TQ_STAT_SPILLING, .ro, .none, .none⟩,
    ⟨F.SCH_TQ_STAT_HELD, .ro, .none, .none⟩,
    ⟨F.SCH_TQ_STAT_SERVED_MIB, .ro, .none, .none⟩]⟩,
  ⟨F.SCH_K_LIMITS 0, [(0x80, 6)], some (0xb000, 0x0), [
    ⟨F.SCH_K_LIMITS_C0_KIB 0, .rwl, (.const 64), (.const 1024)⟩,
    ⟨F.SCH_K_LIMITS_C1_KIB 0, .rwl, (.const 64), (.const 1024)⟩,
    ⟨F.SCH_K_LIMITS_C2_KIB 0, .rwl, (.const 256), (.const 3072)⟩,
    ⟨F.SCH_K_LIMITS_C3_KIB 0, .rwl, (.const 256), (.const 3072)⟩]⟩,
  ⟨F.SCH_K_SPILL_CFG 0, [(0x80, 6)], some (0xb000, 0x0), [
    ⟨F.SCH_K_SPILL_CFG_SPILL_C2_MIB 0, .rwl, (.const 0), (.const 2048)⟩,
    ⟨F.SCH_K_SPILL_CFG_SPILL_C3_MIB 0, .rwl, (.const 0), (.const 2048)⟩,
    ⟨F.SCH_K_SPILL_CFG_EGRESS_HIGH_KIB 0, .rw, (.const 64), (.const 2048)⟩]⟩,
  ⟨F.SCH_K_OCCUPANCY 0, [(0x80, 6)], some (0xb000, 0x0), [
    ⟨F.SCH_K_OCCUPANCY_C0 0, .ro, .none, .none⟩,
    ⟨F.SCH_K_OCCUPANCY_C1 0, .ro, .none, .none⟩,
    ⟨F.SCH_K_OCCUPANCY_C2 0, .ro, .none, .none⟩,
    ⟨F.SCH_K_OCCUPANCY_C3 0, .ro, .none, .none⟩,
    ⟨F.SCH_K_OCCUPANCY_STAGING 0, .ro, .none, .none⟩]⟩,
  ⟨F.SCH_K_SPILL 0, [(0x80, 6)], some (0xb000, 0x0), [
    ⟨F.SCH_K_SPILL_SEGMENTS 0, .ro, .none, .none⟩,
    ⟨F.SCH_K_SPILL_PEAK 0, .ro, .none, .none⟩,
    ⟨F.SCH_K_SPILL_SPILLED_MIB 0, .ro, .none, .none⟩]⟩]
def regTable12 : List RegSpec := [
  ⟨F.SCH_K_CREDITS 0, [(0x80, 6)], some (0xb000, 0x0), [
    ⟨F.SCH_K_CREDITS_C0 0, .ro, .none, .none⟩,
    ⟨F.SCH_K_CREDITS_C1 0, .ro, .none, .none⟩,
    ⟨F.SCH_K_CREDITS_C2 0, .ro, .none, .none⟩,
    ⟨F.SCH_K_CREDITS_C3 0, .ro, .none, .none⟩]⟩,
  ⟨F.SCH_K_WITHHOLD 0, [(0x80, 6)], some (0xb000, 0x0), [
    ⟨F.SCH_K_WITHHOLD_C2_US 0, .ro, .none, .none⟩,
    ⟨F.SCH_K_WITHHOLD_C3_US 0, .ro, .none, .none⟩]⟩,
  ⟨F.SCH_K_STATUS 0, [(0x80, 6)], some (0xb000, 0x0), [
    ⟨F.SCH_K_STATUS_FLUSHING 0, .ro, .none, .none⟩,
    ⟨F.SCH_K_STATUS_GATE_CLOSED 0, .ro, .none, .none⟩,
    ⟨F.SCH_K_STATUS_TQ_DENIED 0, .ro, .none, .none⟩,
    ⟨F.SCH_K_STATUS_TAIL_REPLAYED 0, .ro, .none, .none⟩,
    ⟨F.SCH_K_STATUS_TAIL_POISONED 0, .ro, .none, .none⟩]⟩,
  ⟨F.SCH_K_VTIME2 0, [(0x80, 6)], some (0xb000, 0x0), [
    ⟨F.SCH_K_VTIME2_V 0, .ro, .none, .none⟩]⟩,
  ⟨F.SCH_K_VTIME3 0, [(0x80, 6)], some (0xb000, 0x0), [
    ⟨F.SCH_K_VTIME3_V 0, .ro, .none, .none⟩]⟩,
  ⟨F.XB_STATUS, [], none, [
    ⟨F.XB_STATUS_EP_UP, .ro, .none, .none⟩]⟩,
  ⟨F.XB_HOME_MAP, [], none, [
    ⟨F.XB_HOME_MAP_ENTRY0, .ro, .none, .none⟩,
    ⟨F.XB_HOME_MAP_ENTRY1, .ro, .none, .none⟩,
    ⟨F.XB_HOME_MAP_ENTRY2, .ro, .none, .none⟩,
    ⟨F.XB_HOME_MAP_ENTRY3, .ro, .none, .none⟩]⟩,
  ⟨F.XB_EP_BYTES 0, [(0x10, 12)], none, [
    ⟨F.XB_EP_BYTES_IN_MIB 0, .ro, .none, .none⟩,
    ⟨F.XB_EP_BYTES_OUT_MIB 0, .ro, .none, .none⟩]⟩,
  ⟨F.XB_EP_STALLS 0, [(0x10, 12)], none, [
    ⟨F.XB_EP_STALLS_C0 0, .ro, .none, .none⟩,
    ⟨F.XB_EP_STALLS_C1 0, .ro, .none, .none⟩,
    ⟨F.XB_EP_STALLS_C2 0, .ro, .none, .none⟩,
    ⟨F.XB_EP_STALLS_C3 0, .ro, .none, .none⟩]⟩,
  ⟨F.CMP_CTRL, [], some (0x6000, 0x0), [
    ⟨F.CMP_CTRL_STAGE_TIMEOUT_MS, .rwl, (.const 10), (.const 65535)⟩,
    ⟨F.CMP_CTRL_LOCK, .w1s, .none, .none⟩]⟩,
  ⟨F.CMP_STATUS, [], some (0x6000, 0x0), [
    ⟨F.CMP_STATUS_LEASE, .ro, .none, .none⟩,
    ⟨F.CMP_STATUS_STAGING, .ro, .none, .none⟩,
    ⟨F.CMP_STATUS_PERSISTED, .ro, .none, .none⟩,
    ⟨F.CMP_STATUS_EXPELLED, .ro, .none, .none⟩,
    ⟨F.CMP_STATUS_STAGE_OWNER, .ro, .none, .none⟩,
    ⟨F.CMP_STATUS_STAGED, .ro, .none, .none⟩]⟩,
  ⟨F.CMP_EPOCH, [], some (0x6000, 0x0), [
    ⟨F.CMP_EPOCH_EPOCH, .ro, .none, .none⟩,
    ⟨F.CMP_EPOCH_EPOCH_C, .ro, .none, .none⟩]⟩]
def regTable13 : List RegSpec := [
  ⟨F.CMP_NODE, [], some (0x6000, 0x0), [
    ⟨F.CMP_NODE_NODE_ID, .ro, .none, .none⟩,
    ⟨F.CMP_NODE_GRACE_US, .ro, .none, .none⟩,
    ⟨F.CMP_NODE_QUORUM_K, .ro, .none, .none⟩,
    ⟨F.CMP_NODE_MANAGERS, .ro, .none, .none⟩,
    ⟨F.CMP_NODE_LOST_HOME, .ro, .none, .none⟩]⟩,
  ⟨F.CMP_STATS, [], some (0x6000, 0x0), [
    ⟨F.CMP_STATS_REMAPS, .ro, .none, .none⟩,
    ⟨F.CMP_STATS_GRANT_DENIED, .ro, .none, .none⟩,
    ⟨F.CMP_STATS_STALE_COMMITS, .ro, .none, .none⟩]⟩,
  ⟨F.CMP_LEASE_STATUS, [], some (0x6000, 0x0), [
    ⟨F.CMP_LEASE_STATUS_LEASED, .ro, .none, .none⟩,
    ⟨F.CMP_LEASE_STATUS_LAPSED, .ro, .none, .none⟩,
    ⟨F.CMP_LEASE_STATUS_MS_SINCE_MGR, .ro, .none, .none⟩]⟩,
  ⟨F.CMP_FENCE, [], some (0x6000, 0x0), [
    ⟨F.CMP_FENCE_FENCE_SEQ, .ro, .none, .none⟩,
    ⟨F.CMP_FENCE_FENCED, .ro, .none, .none⟩]⟩,
  ⟨F.RAS_CTRL, [], some (0x7000, 0x0), [
    ⟨F.RAS_CTRL_EVAC_GBPS, .rw, (.const 16), (.const 1000)⟩,
    ⟨F.RAS_CTRL_AUTO_RECOVER, .rw, .none, .none⟩,
    ⟨F.RAS_CTRL_HAZE_FAIL_S, .rw, .none, .none⟩,
    ⟨F.RAS_CTRL_LOCK, .w1s, .none, .none⟩]⟩,
  ⟨F.RAS_STATUS, [], some (0x7000, 0x0), [
    ⟨F.RAS_STATUS_RECOVERING, .ro, .none, .none⟩,
    ⟨F.RAS_STATUS_DEVICE_FAULT, .w1c, .none, .none⟩,
    ⟨F.RAS_STATUS_BLOCK, .ro, .none, .none⟩,
    ⟨F.RAS_STATUS_CORES_UP, .ro, .none, .none⟩]⟩,
  ⟨F.RAS_COUNTS, [], some (0x7000, 0x0), [
    ⟨F.RAS_COUNTS_FAULTS, .ro, .none, .none⟩,
    ⟨F.RAS_COUNTS_RECOVERED, .ro, .none, .none⟩,
    ⟨F.RAS_COUNTS_RETIRED, .ro, .none, .none⟩,
    ⟨F.RAS_COUNTS_SECOND, .ro, .none, .none⟩]⟩,
  ⟨F.RAS_SECTOR, [], some (0x7000, 0x0), [
    ⟨F.RAS_SECTOR_STATE, .ro, .none, .none⟩,
    ⟨F.RAS_SECTOR_TARGET, .ro, .none, .none⟩]⟩,
  ⟨F.RAS_EVAC, [], some (0x7000, 0x0), [
    ⟨F.RAS_EVAC_MOVED, .ro, .none, .none⟩,
    ⟨F.RAS_EVAC_TOTAL, .ro, .none, .none⟩]⟩,
  ⟨F.RAS_FW, [], some (0x7000, 0x0), [
    ⟨F.RAS_FW_ACTIVE_BANK, .ro, .none, .none⟩,
    ⟨F.RAS_FW_READY, .ro, .none, .none⟩,
    ⟨F.RAS_FW_STAGE, .ro, .none, .none⟩,
    ⟨F.RAS_FW_ON_NEW, .ro, .none, .none⟩,
    ⟨F.RAS_FW_VERSION, .ro, .none, .none⟩]⟩,
  ⟨F.SEC_CTRL, [], some (0x4000, 0x0), [
    ⟨F.SEC_CTRL_ZERO_GBPS, .rw, (.const 1), (.const 255)⟩,
    ⟨F.SEC_CTRL_LOCK, .w1s, .none, .none⟩]⟩,
  ⟨F.SEC_STATUS, [], some (0x4000, 0x0), [
    ⟨F.SEC_STATUS_CONF_DOMAINS, .ro, .none, .none⟩,
    ⟨F.SEC_STATUS_DOMAINS, .ro, .none, .none⟩,
    ⟨F.SEC_STATUS_CONF_MODE, .ro, .none, .none⟩,
    ⟨F.SEC_STATUS_OCC_EXPOSED, .ro, .none, .none⟩,
    ⟨F.SEC_STATUS_IDENTITY_OK, .ro, .none, .none⟩,
    ⟨F.SEC_STATUS_SLOTS, .ro, .none, .none⟩,
    ⟨F.SEC_STATUS_ZEROING, .ro, .none, .none⟩]⟩]
def regTable14 : List RegSpec := [
  ⟨F.SEC_CPAIR_ERRORS, [], some (0x4000, 0x0), [
    ⟨F.SEC_CPAIR_ERRORS_COUNT, .ro, .none, .none⟩]⟩,
  ⟨F.SEC_TAMPER_CFG, [], some (0x4018, 0x0), [
    ⟨F.SEC_TAMPER_CFG_PIN_EN, .rwl, .none, .none⟩,
    ⟨F.SEC_TAMPER_CFG_LID_EN, .rwl, .none, .none⟩,
    ⟨F.SEC_TAMPER_CFG_VOLT_EN, .rwl, .none, .none⟩,
    ⟨F.SEC_TAMPER_CFG_CLK_EN, .rwl, .none, .none⟩,
    ⟨F.SEC_TAMPER_CFG_COLD_EN, .rwl, .none, .none⟩,
    ⟨F.SEC_TAMPER_CFG_LOCK, .w1s, .none, .none⟩]⟩,
  ⟨F.SEC_TAMPER_STATUS, [], some (0x4000, 0x0), [
    ⟨F.SEC_TAMPER_STATUS_SOURCE, .ro, .none, .none⟩,
    ⟨F.SEC_TAMPER_STATUS_TAMPERED, .ro, .none, .none⟩,
    ⟨F.SEC_TAMPER_STATUS_COUNT, .ro, .none, .none⟩]⟩,
  ⟨F.SEC_DEVICE_ID, [], some (0x4000, 0x0), [
    ⟨F.SEC_DEVICE_ID_DEVICE_ID, .ro, .none, .none⟩]⟩,
  ⟨F.SEC_XMSS_STATE, [], some (0x4000, 0x0), [
    ⟨F.SEC_XMSS_STATE_BLOCKS, .ro, .none, .none⟩,
    ⟨F.SEC_XMSS_STATE_BLOCKS_C, .ro, .none, .none⟩]⟩,
  ⟨F.SEC_XMSS_USED, [], some (0x4000, 0x0), [
    ⟨F.SEC_XMSS_USED_NEXT_INDEX, .ro, .none, .none⟩]⟩,
  ⟨F.SEC_DOMAIN_SEL, [], some (0x4000, 0x0), [
    ⟨F.SEC_DOMAIN_SEL_DOMAIN, .rw, .none, .none⟩]⟩,
  ⟨F.SEC_DOMAIN_CFG, [], some (0x4000, 0x0), [
    ⟨F.SEC_DOMAIN_CFG_EXISTS, .ro, .none, .none⟩,
    ⟨F.SEC_DOMAIN_CFG_CONFIDENTIAL, .ro, .none, .none⟩,
    ⟨F.SEC_DOMAIN_CFG_ZEROING, .ro, .none, .none⟩,
    ⟨F.SEC_DOMAIN_CFG_EKEY, .ro, .none, .none⟩,
    ⟨F.SEC_DOMAIN_CFG_PAGE_QUOTA, .ro, .none, .none⟩,
    ⟨F.SEC_DOMAIN_CFG_ALLOCATED, .ro, .none, .none⟩]⟩,
  ⟨F.SEC_INTEGRITY, [], some (0x4000, 0x0), [
    ⟨F.SEC_INTEGRITY_MAC_FAILS, .ro, .none, .none⟩,
    ⟨F.SEC_INTEGRITY_TREE_FAILS, .ro, .none, .none⟩,
    ⟨F.SEC_INTEGRITY_UNSEAL_FAILS, .ro, .none, .none⟩]⟩,
  ⟨F.SEC_PORT_KEYS, [], some (0x4000, 0x0), [
    ⟨F.SEC_PORT_KEYS_KEYS, .ro, .none, .none⟩]⟩,
  ⟨F.LC_STATE, [], none, [
    ⟨F.LC_STATE_STATE, .ro, .none, .none⟩,
    ⟨F.LC_STATE_STATE_C, .ro, .none, .none⟩]⟩,
  ⟨F.LC_SVN, [], none, [
    ⟨F.LC_SVN_SVN, .ro, .none, .none⟩,
    ⟨F.LC_SVN_OWNER_COSIGN, .ro, .none, .none⟩]⟩]
def regTable15 : List RegSpec := [
  ⟨F.LC_DEBUG, [], none, [
    ⟨F.LC_DEBUG_OPEN, .ro, .none, .none⟩,
    ⟨F.LC_DEBUG_OPENS, .ro, .none, .none⟩]⟩,
  ⟨F.CLK_CTRL, [], some (0x2000, 0x0), [
    ⟨F.CLK_CTRL_WARM_T, .rw, .none, .none⟩,
    ⟨F.CLK_CTRL_WARM_E, .rw, .none, .none⟩,
    ⟨F.CLK_CTRL_TRIM_SRC, .rwl, .none, .none⟩,
    ⟨F.CLK_CTRL_LOCK, .w1s, .none, .none⟩]⟩,
  ⟨F.CLK_STATUS, [], some (0x2000, 0x0), [
    ⟨F.CLK_STATUS_XDLY, .ro, .none, .none⟩,
    ⟨F.CLK_STATUS_XTAL_OK, .ro, .none, .none⟩,
    ⟨F.CLK_STATUS_REFCLK_OK, .ro, .none, .none⟩,
    ⟨F.CLK_STATUS_COASTING, .ro, .none, .none⟩,
    ⟨F.CLK_STATUS_TRIM_REF, .ro, .none, .none⟩,
    ⟨F.CLK_STATUS_LPO_TRIMMED, .ro, .none, .none⟩,
    ⟨F.CLK_STATUS_XTAL_STABLE_MS, .ro, .none, .none⟩]⟩,
  ⟨F.CLK_SOURCE_LOST, [], some (0x2000, 0x0), [
    ⟨F.CLK_SOURCE_LOST_XTAL, .w1c, .none, .none⟩,
    ⟨F.CLK_SOURCE_LOST_REFCLK, .w1c, .none, .none⟩,
    ⟨F.CLK_SOURCE_LOST_XTAL_EVENTS, .ro, .none, .none⟩,
    ⟨F.CLK_SOURCE_LOST_REFCLK_EVENTS, .ro, .none, .none⟩,
    ⟨F.CLK_SOURCE_LOST_COAST_MS, .ro, .none, .none⟩]⟩,
  ⟨F.CLK_IOSC_TRIM, [], some (0x2000, 0x0), [
    ⟨F.CLK_IOSC_TRIM_CODE, .ro, .none, .none⟩,
    ⟨F.CLK_IOSC_TRIM_ERR_PPM, .ro, .none, .none⟩,
    ⟨F.CLK_IOSC_TRIM_WINDOWS, .ro, .none, .none⟩]⟩,
  ⟨F.CLK_PLL_T, [], some (0x2000, 0x0), [
    ⟨F.CLK_PLL_T_STATE, .ro, .none, .none⟩,
    ⟨F.CLK_PLL_T_FREQ_MHZ, .ro, .none, .none⟩,
    ⟨F.CLK_PLL_T_STARTS, .ro, .none, .none⟩,
    ⟨F.CLK_PLL_T_LAST_LOCK_NS, .ro, .none, .none⟩]⟩,
  ⟨F.CLK_PLL_X, [], some (0x2000, 0x0), [
    ⟨F.CLK_PLL_X_STATE, .ro, .none, .none⟩,
    ⟨F.CLK_PLL_X_FREQ_MHZ, .ro, .none, .none⟩,
    ⟨F.CLK_PLL_X_STARTS, .ro, .none, .none⟩,
    ⟨F.CLK_PLL_X_LAST_LOCK_NS, .ro, .none, .none⟩]⟩,
  ⟨F.CLK_PLL_E, [], some (0x2000, 0x0), [
    ⟨F.CLK_PLL_E_STATE, .ro, .none, .none⟩,
    ⟨F.CLK_PLL_E_FREQ_MHZ, .ro, .none, .none⟩,
    ⟨F.CLK_PLL_E_STARTS, .ro, .none, .none⟩,
    ⟨F.CLK_PLL_E_LAST_LOCK_NS, .ro, .none, .none⟩]⟩,
  ⟨F.PWR_CTRL, [], some (0x3000, 0x0), [
    ⟨F.PWR_CTRL_CMD, .wo, .none, .none⟩,
    ⟨F.PWR_CTRL_WAKE_ON_LIGHT, .rw, .none, .none⟩,
    ⟨F.PWR_CTRL_WAKE_ON_PCIE, .rw, .none, .none⟩,
    ⟨F.PWR_CTRL_WAKE_ON_TIMER, .rw, .none, .none⟩,
    ⟨F.PWR_CTRL_LOCK, .w1s, .none, .none⟩]⟩,
  ⟨F.PWR_STATUS, [], some (0x3000, 0x0), [
    ⟨F.PWR_STATUS_STATE, .ro, .none, .none⟩,
    ⟨F.PWR_STATUS_ENTERING, .ro, .none, .none⟩,
    ⟨F.PWR_STATUS_EXITING, .ro, .none, .none⟩,
    ⟨F.PWR_STATUS_RESULT, .ro, .none, .none⟩,
    ⟨F.PWR_STATUS_DENY_REASON, .ro, .none, .none⟩,
    ⟨F.PWR_STATUS_POWER_W, .ro, .none, .none⟩]⟩,
  ⟨F.PWR_IDLE_CFG, [], some (0x3000, 0x0), [
    ⟨F.PWR_IDLE_CFG_PLLT_OFF_US, .rw, (.const 1), (.const 65535)⟩,
    ⟨F.PWR_IDLE_CFG_PLLE_OFF_US, .rw, (.const 1), (.const 65535)⟩]⟩,
  ⟨F.PWR_DOMAINS, [], some (0x3000, 0x0), [
    ⟨F.PWR_DOMAINS_SECTORS, .ro, .none, .none⟩,
    ⟨F.PWR_DOMAINS_PORTS, .ro, .none, .none⟩,
    ⟨F.PWR_DOMAINS_DDR_PHY, .ro, .none, .none⟩,
    ⟨F.PWR_DOMAINS_HBM_PHY, .ro, .none, .none⟩]⟩]
def regTable16 : List RegSpec := [
  ⟨F.PWR_WAKE, [], some (0x3000, 0x0), [
    ⟨F.PWR_WAKE_TIMER_MS, .rw, .none, .none⟩,
    ⟨F.PWR_WAKE_CAUSE, .ro, .none, .none⟩]⟩,
  ⟨F.PWR_STATS, [], some (0x3000, 0x0), [
    ⟨F.PWR_STATS_DEEP_ENTRIES, .ro, .none, .none⟩,
    ⟨F.PWR_STATS_DEEP_ABORTS, .ro, .none, .none⟩,
    ⟨F.PWR_STATS_DEEP_S, .ro, .none, .none⟩]⟩,
  ⟨F.PWR_LIMIT, [], some (0x3000, 0x0), [
    ⟨F.PWR_LIMIT_POWER_LIMIT_W, .rwl, (.const 400), (.const 1600)⟩,
    ⟨F.PWR_LIMIT_CORE_LIMIT_A, .rwl, (.const 400), (.const 1400)⟩,
    ⟨F.PWR_LIMIT_PIN_LIMIT_W, .rwl, (.const 400), (.const 1600)⟩]⟩,
  ⟨F.PWR_THERMAL, [], some (0x3000, 0x0), [
    ⟨F.PWR_THERMAL_THROTTLE_C, .rwl, (.const 85), (.const 105)⟩,
    ⟨F.PWR_THERMAL_TJ_MAX_C, .ro, .none, .none⟩,
    ⟨F.PWR_THERMAL_HBM_MAX_C, .ro, .none, .none⟩,
    ⟨F.PWR_THERMAL_OE_MAX_C, .ro, .none, .none⟩,
    ⟨F.PWR_THERMAL_INLET_C, .ro, .none, .none⟩,
    ⟨F.PWR_THERMAL_INLET_PRESENT, .ro, .none, .none⟩,
    ⟨F.PWR_THERMAL_INLET_HOT, .ro, .none, .none⟩]⟩,
  ⟨F.PWR_THROTTLE, [], some (0x3000, 0x0), [
    ⟨F.PWR_THROTTLE_POWER, .ro, .none, .none⟩,
    ⟨F.PWR_THROTTLE_CURRENT, .ro, .none, .none⟩,
    ⟨F.PWR_THROTTLE_THERMAL, .ro, .none, .none⟩,
    ⟨F.PWR_THROTTLE_PIN, .ro, .none, .none⟩,
    ⟨F.PWR_THROTTLE_HBM, .ro, .none, .none⟩,
    ⟨F.PWR_THROTTLE_LIMIT_W, .ro, .none, .none⟩,
    ⟨F.PWR_THROTTLE_THROTTLED_MS, .ro, .none, .none⟩]⟩,
  ⟨F.SYS_ID, [], none, [
    ⟨F.SYS_ID_PART, .ro, .none, .none⟩,
    ⟨F.SYS_ID_STEPPING, .ro, .none, .none⟩,
    ⟨F.SYS_ID_SECTORS, .ro, .none, .none⟩,
    ⟨F.SYS_ID_PORTS, .ro, .none, .none⟩,
    ⟨F.SYS_ID_TILES, .ro, .none, .none⟩]⟩,
  ⟨F.SYS_TIME, [], none, [
    ⟨F.SYS_TIME_TIME, .ro, .none, .none⟩]⟩,
  ⟨F.SYS_STATUS, [], none, [
    ⟨F.SYS_STATUS_FW_RUNNING, .ro, .none, .none⟩,
    ⟨F.SYS_STATUS_MAP_INSTALLED, .ro, .none, .none⟩,
    ⟨F.SYS_STATUS_NEAR_SERVING, .ro, .none, .none⟩,
    ⟨F.SYS_STATUS_FAR_COMPLETE, .ro, .none, .none⟩,
    ⟨F.SYS_STATUS_PORTS_UP, .ro, .none, .none⟩,
    ⟨F.SYS_STATUS_FAR_SERVING, .ro, .none, .none⟩]⟩,
  ⟨F.SYS_BOOT, [], none, [
    ⟨F.SYS_BOOT_COLD, .ro, .none, .none⟩,
    ⟨F.SYS_BOOT_WARM_RESTARTS, .ro, .none, .none⟩,
    ⟨F.SYS_BOOT_FW_MS, .ro, .none, .none⟩,
    ⟨F.SYS_BOOT_NEAR_MS, .ro, .none, .none⟩]⟩,
  ⟨F.SYS_SCRATCH 0, [(0x8, 4)], none, [
    ⟨F.SYS_SCRATCH_VALUE 0, .rw, .none, .none⟩]⟩,
  ⟨F.MGT_CTRL, [], some (0x1000, 0x0), [
    ⟨F.MGT_CTRL_MCTP_PCIE_EN, .rw, .none, .none⟩,
    ⟨F.MGT_CTRL_MCTP_SMBUS_EN, .rw, .none, .none⟩,
    ⟨F.MGT_CTRL_FWUP_EN, .rwl, .none, .none⟩,
    ⟨F.MGT_CTRL_ATTEST_EN, .rw, .none, .none⟩,
    ⟨F.MGT_CTRL_LOCK, .w1s, .none, .none⟩]⟩,
  ⟨F.MGT_STATUS, [], some (0x1000, 0x0), [
    ⟨F.MGT_STATUS_SPEED, .ro, .none, .none⟩,
    ⟨F.MGT_STATUS_WIDTH, .ro, .none, .none⟩,
    ⟨F.MGT_STATUS_FLIT, .ro, .none, .none⟩,
    ⟨F.MGT_STATUS_BME, .ro, .none, .none⟩,
    ⟨F.MGT_STATUS_MSIX_EN, .ro, .none, .none⟩,
    ⟨F.MGT_STATUS_FN_RESET, .ro, .none, .none⟩,
    ⟨F.MGT_STATUS_EID_PCIE, .ro, .none, .none⟩,
    ⟨F.MGT_STATUS_EID_SMBUS, .ro, .none, .none⟩]⟩]
def regTable17 : List RegSpec := [
  ⟨F.MGT_PARTIAL_ACCESS, [], some (0x1000, 0x0), [
    ⟨F.MGT_PARTIAL_ACCESS_COUNT, .ro, .none, .none⟩,
    ⟨F.MGT_PARTIAL_ACCESS_UNMAPPED, .ro, .none, .none⟩]⟩,
  ⟨F.MGT_POOLWIN, [], some (0x1000, 0x0), [
    ⟨F.MGT_POOLWIN_EN, .rw, .none, .none⟩,
    ⟨F.MGT_POOLWIN_CTX, .rw, .none, .none⟩,
    ⟨F.MGT_POOLWIN_BASE, .rw, .none, .none⟩]⟩,
  ⟨F.MGT_POOLWIN_ERR, [], some (0x1000, 0x0), [
    ⟨F.MGT_POOLWIN_ERR_LAST_CODE, .ro, .none, .none⟩,
    ⟨F.MGT_POOLWIN_ERR_COUNT, .ro, .none, .none⟩]⟩,
  ⟨F.MGT_POOLWIN_ADDR, [], some (0x1000, 0x0), [
    ⟨F.MGT_POOLWIN_ADDR_POOL_ADDR, .ro, .none, .none⟩,
    ⟨F.MGT_POOLWIN_ADDR_VALID, .w1c, .none, .none⟩]⟩,
  ⟨F.MGT_IRQ_STATUS, [], some (0x1000, 0x0), [
    ⟨F.MGT_IRQ_STATUS_SOURCES, .w1c, .none, .none⟩]⟩,
  ⟨F.MGT_IRQ_MASK, [], some (0x1000, 0x0), [
    ⟨F.MGT_IRQ_MASK_SOURCES, .rw, .none, .none⟩]⟩,
  ⟨F.MGT_IRQ_VEC0, [], some (0x1000, 0x0), [
    ⟨F.MGT_IRQ_VEC0_VEC0, .rw, .none, .none⟩,
    ⟨F.MGT_IRQ_VEC0_VEC1, .rw, .none, .none⟩,
    ⟨F.MGT_IRQ_VEC0_VEC2, .rw, .none, .none⟩,
    ⟨F.MGT_IRQ_VEC0_VEC3, .rw, .none, .none⟩]⟩,
  ⟨F.MGT_IRQ_VEC1, [], some (0x1000, 0x0), [
    ⟨F.MGT_IRQ_VEC1_VEC4, .rw, .none, .none⟩,
    ⟨F.MGT_IRQ_VEC1_VEC5, .rw, .none, .none⟩,
    ⟨F.MGT_IRQ_VEC1_VEC6, .rw, .none, .none⟩,
    ⟨F.MGT_IRQ_VEC1_VEC7, .rw, .none, .none⟩]⟩,
  ⟨F.MGT_MCTP_STATS, [], some (0x1000, 0x0), [
    ⟨F.MGT_MCTP_STATS_RECEIVED, .ro, .none, .none⟩,
    ⟨F.MGT_MCTP_STATS_DROPPED, .ro, .none, .none⟩,
    ⟨F.MGT_MCTP_STATS_BAD_TYPE, .ro, .none, .none⟩]⟩,
  ⟨F.MGT_SIDEBAND, [], some (0x1000, 0x0), [
    ⟨F.MGT_SIDEBAND_I3C_ERRS, .ro, .none, .none⟩,
    ⟨F.MGT_SIDEBAND_LSM_ERRS, .ro, .none, .none⟩,
    ⟨F.MGT_SIDEBAND_CS_ERRS, .ro, .none, .none⟩,
    ⟨F.MGT_SIDEBAND_I3C_STUCK, .ro, .none, .none⟩,
    ⟨F.MGT_SIDEBAND_CS_STUCK, .ro, .none, .none⟩]⟩,
  ⟨F.MGT_TELEM_SEL, [], some (0x1000, 0x0), [
    ⟨F.MGT_TELEM_SEL_DOMAIN, .rw, .none, .none⟩,
    ⟨F.MGT_TELEM_SEL_SNAP, .wo, .none, .none⟩,
    ⟨F.MGT_TELEM_SEL_BUSY, .ro, .none, .none⟩]⟩,
  ⟨F.MGT_TELEM_TIME, [], some (0x1000, 0x0), [
    ⟨F.MGT_TELEM_TIME_TIME, .ro, .none, .none⟩]⟩]
def regTable18 : List RegSpec := [
  ⟨F.MGT_TELEM0, [], some (0x1000, 0x0), [
    ⟨F.MGT_TELEM0_RD_MIB, .ro, .none, .none⟩,
    ⟨F.MGT_TELEM0_WR_MIB, .ro, .none, .none⟩]⟩,
  ⟨F.MGT_TELEM1, [], some (0x1000, 0x0), [
    ⟨F.MGT_TELEM1_KERNELS, .ro, .none, .none⟩,
    ⟨F.MGT_TELEM1_JOBS, .ro, .none, .none⟩]⟩,
  ⟨F.MGT_TELEM2, [], some (0x1000, 0x0), [
    ⟨F.MGT_TELEM2_FAULTS, .ro, .none, .none⟩,
    ⟨F.MGT_TELEM2_THROTTLE_MS, .ro, .none, .none⟩]⟩,
  ⟨F.MGT_TELEM3, [], some (0x1000, 0x0), [
    ⟨F.MGT_TELEM3_POISON, .ro, .none, .none⟩,
    ⟨F.MGT_TELEM3_INTEGRITY, .ro, .none, .none⟩,
    ⟨F.MGT_TELEM3_DENIED, .ro, .none, .none⟩]⟩,
  ⟨F.KZP_HAZE_CFG, [], none, [
    ⟨F.KZP_HAZE_CFG_RATIO, .rw, (.const 17), (.const 255)⟩,
    ⟨F.KZP_HAZE_CFG_WINDOW_MS, .rw, (.const 1), (.const 255)⟩,
    ⟨F.KZP_HAZE_CFG_EXIT_MS, .rw, (.const 1), (.const 65535)⟩,
    ⟨F.KZP_HAZE_CFG_EXIT_RATIO, .rw, (.const 16), (.field 0)⟩]⟩,
  ⟨F.RAS_HAZE_CFG, [], some (0x7000, 0x0), [
    ⟨F.RAS_HAZE_CFG_RATIO, .rw, (.const 17), (.const 255)⟩,
    ⟨F.RAS_HAZE_CFG_WINDOW_MS, .rw, (.const 1), (.const 255)⟩,
    ⟨F.RAS_HAZE_CFG_EXIT_MS, .rw, (.const 1), (.const 65535)⟩,
    ⟨F.RAS_HAZE_CFG_EXIT_RATIO, .rw, (.const 16), (.field 0)⟩]⟩]

/-- Every register of the map (R698). -/
def regTable : List RegSpec :=
  regTable00 ++ regTable01 ++ regTable02 ++ regTable03 ++ regTable04 ++ regTable05 ++ regTable06 ++ regTable07 ++ regTable08 ++ regTable09 ++ regTable10 ++ regTable11 ++ regTable12 ++ regTable13 ++ regTable14 ++ regTable15 ++ regTable16 ++ regTable17 ++ regTable18

end Sys2Proof.Machine
end

