-- ==== Sys2Proof/Machine/State.lean ====
section
/-! DEFINITION. The state of the device: plain data, every piece of state that spec/ gives the machine. -/

namespace Sys2Proof.Machine

/-- A request as its opcode names it (R124, R169). -/
inductive ROp where
  | rd | rdShared | rdOwn | wr | wrLine | wrFlag
  | fadd | fand | fior | fxor | swap | cas | minS | maxS | minU | maxU | faddF | fminF | fmaxF
  | upgrade | publish
  /-- a write of the bytes of a mask in one line (R501) -/
  | wrMask
deriving DecidableEq, Repr

/-- What the device sends or hands out, oldest first in `State.out`. -/
inductive Out where
  /-- A reply through a port (R123). -/
  | reply (port tag cls : Nat) (code : Code) (detail : Nat) (data : List Byte)
  /-- A snoop message (R173): opcode, snoop tag, partner and fabric address of the line. -/
  | snoop (port op stag partner line : Nat)
  /-- A request the device sends through a port (R153, R548): its outbound tag, what it is, its fabric or partner address, the epoch it
  carries and its data. -/
  | request (port tag : Nat) (what : String) (addr epoch : Nat) (data : List Byte)
  /-- A write into a partner's memory (records, notification words, results). -/
  | partnerWrite (port partner addr : Nat) (data : List Byte)
  /-- A posted write into host memory. -/
  | hostWrite (addr : Nat) (data : List Byte)
  /-- An MSI-X message on a vector. -/
  | msix (vec : Nat)
  /-- The value a read over the management port returns. -/
  | mmio (val : Nat)
  /-- A handoff message (R452) to a fabric address. -/
  | handoff (addr : Nat) (msg : List Byte)
  /-- A CONTROL flit or another link-layer action of a port: link and what it carries. -/
  | control (port link : Nat) (what : String) (arg : Nat)
  /-- A message of the management channel (MCTP, PLDM, CXL mailbox, vendor). -/
  | mgmt (what : String) (code : Nat) (data : List Nat)
  /-- A signal or strap of a pin. -/
  | pin (what : String) (level : Bool)
deriving DecidableEq, Repr

/-- A granule entry of a far page record (R48). -/
structure Granule where
  frames : Nat := 0
  channel : Nat := 0
  frame : Nat := 0
  poison : Bool := false
deriving DecidableEq, Repr

/-- Why and where a page moves: the kinds of a transfer record. -/
inductive MoveKind where
  | promote | demote
deriving DecidableEq, Repr

/-- The transfer record of a MIGRATING page: its index, the near frame at one end, the granule entries at the far end, the granules that have arrived and the one being
copied (R58). -/
structure Xfer where
  index : Nat
  kind : MoveKind
  frame : Option Nat
  granules : List Granule
  arrived : List Nat
  copying : Option Nat
deriving DecidableEq, Repr

/-- Where a page lies: STATE and LOC of R47. -/
inductive Loc where
  | near (frame : Nat)
  | far (granules : List Granule)
  | swapped (slot : Nat)
  | migrating (x : Xfer)
deriving DecidableEq, Repr

/-- An entry of a small-page vector: a slice of a near frame, a far granule or a swapped small page. -/
inductive Small where
  | near (frame slice : Nat)
  | far (g : Granule)
  | swapped (slot : Nat)
deriving DecidableEq, Repr

/-- A second-level entry of the migration map (R47) of an allocated page; `movedAt` is the time of its latest change of
tier and `tensorPages` holds page count minus 1 on a tensor's first page. -/
structure Page where
  domain : Nat := 0
  tensorBase : Nat := 0
  tensorPages : Nat := 0
  count : Nat := 0
  pinNear : Bool := false
  preferFar : Bool := false
  neverCompress : Bool := false
  loc : Loc := .far []
  split : Option (List Small) := none
  movedAt : Nat := 0
deriving DecidableEq, Repr

/-- A planned move of a tensor: its first page, the tier it goes to and whether it is count-driven. -/
structure Move where
  first : Nat
  toNear : Bool
  counted : Bool
deriving DecidableEq, Repr

/-- The run of Haze windows of a unit: ms in a row above the entry ratio and at or below the exit ratio. -/
structure HazeRun where
  above : Nat := 0
  below : Nat := 0
  hazy : Bool := false
  since : Nat := 0
deriving DecidableEq, Repr

/-- The store (spec/02). -/
structure Store where
  /-- allocated pool pages by page index (R47) -/
  pages : Tab Page := []
  /-- pool bytes that are not zero, by pool address -/
  mem : List Host.Cell := []
  /-- poisoned lines of the near tier, by line number -/
  poison : List Nat := []
  /-- full lines staged for a poisoned far granule, by granule number then line number (R158) -/
  stage : Tab (Tab (List Byte)) := []
  /-- lines held dirty in the sector cache over a far granule -/
  dirty : List Nat := []
  /-- regions with a huge mapping: region × 4 + sector (R46, R50) -/
  huge : List Nat := []
  /-- near frames in use besides page frames, per sector (MAC and version trees, moved map, R571) -/
  extra : Tab Nat := []
  /-- planned tensor moves -/
  moves : List Move := []
  /-- next transfer record index -/
  nextXfer : Nat := 0
  /-- times of the corrected errors of a stack's row in the last 24 hours, by stack × 2^32 + row (R66) -/
  rowErrs : Tab (List Nat) := []
  /-- rows that a spare row has replaced (R66) -/
  spared : List Nat := []
  /-- Haze runs of stacks (0 to 7) and channels (8 to 39) (R76) -/
  haze : Tab HazeRun := []
  /-- next frame of Drizzle, by sector × 2 + tier (R69) -/
  drizzle : Tab Nat := []
deriving DecidableEq, Repr

/-- A valid context entry (R81). -/
structure Ctx where
  domain : Nat := 0
  priv : Bool := false
  fresh : Bool := false
deriving DecidableEq, Repr

/-- A valid segment entry (R83); GEN is kept apart, since it outlives a clear. -/
structure Seg where
  vaBase : Nat := 0
  rd : Bool := false
  wr : Bool := false
  atm : Bool := false
  ex : Bool := false
  len : Nat := 1
  pinNear : Bool := false
  preferFar : Bool := false
  neverCompress : Bool := false
  demand : Bool := false
  fabric : Nat := 0
  remoteCtx : Nat := 0
deriving DecidableEq, Repr

/-- A task that waits on a fault: a partner request by port and TAG, a descriptor by ring and index, a kernel by its
number, or a pool-window access. -/
inductive Task where
  | flight (port tag : Nat)
  | job (ring idx : Nat)
  | kernel (id : Nat)
  | window (id : Nat)
deriving DecidableEq, Repr

/-- A waiter: the task, its context, the segment it faulted through (16: none), the unit where it waits and the time. -/
structure Waiter where
  task : Task
  ctx : Nat
  seg : Nat
  unit : Nat
  since : Nat
deriving DecidableEq, Repr

/-- A fault record (R106) with its waiter list (R109); `page` is the pool page of a page fault. -/
structure FaultRec where
  kind : Nat
  source : Nat
  ctx : Nat := 0
  domain : Nat := 0
  pool : Bool := false
  addr : Nat := 0
  seq : Nat := 0
  detail : Nat := 0
  time : Nat := 0
  page : Option Nat := none
  waiters : List Waiter := []
deriving DecidableEq, Repr

/-- What met the full fault queue, in the order it did (R115, R116): a record in the overflow area, a stalled task whose
page fault needs a record, or a task stalled because the waiter lists are full (R110). -/
inductive Late where
  | record (r : FaultRec)
  | stalled (r : FaultRec) (w : Waiter)
  | noRoom (page : Nat) (r : FaultRec) (w : Waiter)
deriving DecidableEq, Repr

/-- What a range invalidation belongs to. -/
inductive InvalFor where
  | xltInval | segment | tierFree | swapOut | teardown
deriving DecidableEq, Repr

/-- A range invalidation (R102): its number, what it is for, the descriptor that waits on it, the units that have not
acknowledged, its start and whether it counts in XLT_INVAL_STATUS. -/
structure Inval where
  id : Nat
  what : InvalFor
  ring : Nat
  idx : Nat
  waitOn : List Nat
  start : Nat
  counted : Bool
  /-- the range: a pool range, or a range of a context's virtual addresses -/
  pool : Bool := true
  ctx : Nat := 0
  base : Nat := 0
  len : Nat := 0
deriving DecidableEq, Repr

/-- A span a page TLB entry covers (R95): a page, a small page, a run of 16 pages, or a sector's pages of a region. -/
inductive TlbSpan where
  | page (p : Nat)
  | small (p g : Nat)
  | run (p : Nat)
  | region (r sector : Nat)
deriving DecidableEq, Repr

/-- A stored complement-paired value whose two halves no longer agree (R13, R576). -/
inductive Corrupt where
  | ctx (c : Nat) | seg (c s : Nat) | queueCtx (g : Nat) | mapEntry (ty ix : Nat) | portEpoch (p : Nat)
  | keyHandle (i : Nat) | faultRec (seq : Nat)
deriving DecidableEq, Repr

/-- Contexts, segments, translation units and the fault queue (spec/03). -/
structure Xlt where
  ctxs : Tab Ctx := []
  /-- segments by context × 16 + segment -/
  segs : Tab Seg := []
  /-- GEN by context × 16 + segment (R86) -/
  gens : Tab Nat := []
  /-- records in the queue, oldest first -/
  queue : List FaultRec := []
  /-- consumed records whose fault is not resolved, oldest first -/
  service : List FaultRec := []
  /-- what met the full queue or full waiter lists, oldest first -/
  late : List Late := []
  /-- SEQ of the next record -/
  seq : Nat := 0
  /-- range invalidations under way -/
  invals : List Inval := []
  nextInval : Nat := 0
  /-- page TLB spans held by a unit, latest first -/
  tlb : Tab (List TlbSpan) := []
  /-- context × 16 + segment entries of the segment cache of a unit -/
  segCache : Tab (List Nat) := []
  /-- kernels and pool-window accesses whose fault was resolved, with the code that ends them, if any -/
  woken : List (Task × Option Code) := []
  /-- stored paired values that disagree with their complement -/
  corrupt : List Corrupt := []
deriving DecidableEq, Repr

/-- Where a partner request waits. -/
inductive Stage where
  /-- in its lane, on chip or spilled; `whole`: read back whole (R508) -/
  | lane (spilled whole : Bool)
  /-- forwarded, its tail status not yet known (R515) -/
  | tail
  /-- dropped as replayed, waiting for the copy with the same MSN (R515, R516) -/
  | replay
  /-- behind an earlier overlapping or untranslated write of its source (R133) -/
  | order
  /-- a flag store held by the ordering slice (R135) -/
  | held
  /-- on a page fault (R105) -/
  | fault
  /-- on a granule being copied (R59) -/
  | migrating
  /-- in a slice's pending buffer (R188) -/
  | pending
  /-- at its port, the pending buffer being full (R188) -/
  | atPort
  /-- a consumer of a reservation, or a flag store, waiting at the home for its line (R186, R187) -/
  | home
  /-- its transaction is under way (R177) -/
  | txn
  /-- in a combining entry (R144) -/
  | anvil (entry : Nat)
deriving DecidableEq, Repr

/-- A partner request in flight: its opcode, its arrival number at its port's source numbering (R139), its pool address
once translated, where it waits, and since when. `order` is its place in reservation order on its line; `reserved` says
that it consumed a reservation, `step3` that it was selected in reserved service (R521). -/
structure Flight where
  op : ROp
  req : Req
  num : Nat
  pool : Option Nat := none
  stage : Stage
  since : Nat := 0
  order : Nat := 0
  reserved : Bool := false
  step3 : Bool := false
  picked : Bool := false
  /-- the combining entry whose access it makes (R144) -/
  entry : Option Nat := none
  /-- an UPGRADE whose partner was a precise sharer when it was decided: granted without data (R175) -/
  noData : Bool := false
deriving DecidableEq, Repr

/-- A write of a source that completed with a code other than OK (R137). -/
structure Failed where
  port : Nat
  ctx : Nat
  num : Nat
  code : Code
  tag : Nat
deriving DecidableEq, Repr

/-- The result a read entry's access brought: code, detail and data (R147). -/
structure Got where
  code : Code
  detail : Nat
  data : List Byte
deriving DecidableEq, Repr

/-- A combining entry of the Anvil (R144). Joiners are (port, TAG) in join order; `got` is the data of a read entry whose
access has been served; `resv` says that the home answered the entry with RETRY_RSV (R152). -/
structure Entry where
  id : Nat
  atomic : Bool
  op : ROp
  ctx : Nat
  addr : Nat
  len : Nat
  epoch : Nat
  domain : Nat
  pool : Nat
  start : Nat
  closed : Bool := false
  joiners : List (Nat × Nat)
  got : Option Got := none
  resv : Bool := false
deriving DecidableEq, Repr

/-- A request the device sent through a port and whose reply is open (R143): outbound tag, purpose and what it serves. -/
structure OutReq where
  port : Nat
  tag : Nat
  what : String
  ring : Nat := 0
  idx : Nat := 0
  node : Nat := 0
  /-- descriptors that a descriptor read fetches -/
  count : Nat := 0
  addr : Nat := 0
  data : List Byte := []
  resent : Bool := false
  /-- the descriptor whose work it is -/
  job : Option (Nat × Nat) := none
deriving DecidableEq, Repr

/-- Requests in flight and the Anvil (spec/04). -/
structure Fabric where
  flights : List Flight := []
  /-- next arrival number -/
  nextNum : Nat := 0
  failed : List Failed := []
  entries : List Entry := []
  nextEntry : Nat := 0
  /-- hot filter: line to the time of its latest dispatch (R150) -/
  hot : Tab Nat := []
  outReqs : List OutReq := []
deriving DecidableEq, Repr

/-- STATE of a directory entry (R164). -/
inductive DirSt where
  | shared | mask | owned
deriving DecidableEq, Repr

/-- A directory entry (R164): sharer pointers as (port, partner), the ports of MASK, HELD and the commit time of the
latest E grant in 16 ns units. -/
structure DirE where
  st : DirSt
  shr : List (Nat × Nat) := []
  mask : List Nat := []
  held : Bool := false
  grantT : Nat := 0
deriving DecidableEq, Repr

/-- An outstanding snoop: port, snoop tag, partner, opcode, first send of the latest sending, sendings so far. -/
structure Snoop where
  port : Nat
  stag : Nat
  partner : Nat
  op : Nat
  sent : Nat
  sends : Nat := 1
  owner : Bool := false
deriving DecidableEq, Repr

/-- What a transaction serves. -/
inductive TxnFor where
  | flight (port tag : Nat)
  | entry (id : Nat)
  | job (ring idx : Nat)
  | none
deriving DecidableEq, Repr

/-- A transaction on a line (R177): the snoops not yet answered or sent, the data an answer or eviction brought, and what
it serves. `keep`: the owner kept the line in S; `lost`: the owner's recall went unanswered. -/
structure Txn where
  line : Nat
  snoops : List Snoop
  /-- snoops that wait for a free snoop tag: port, partner, opcode, owner -/
  toSend : List (Nat × Nat × Nat × Bool) := []
  what : TxnFor
  data : Option (List Byte) := none
  kept : Bool := false
  evicted : Bool := false
  lost : Bool := false
  capacity : Bool := false
  /-- only these holders are recalled; every other stays in the entry (R183) -/
  part : Option (List (Nat × Nat)) := none
deriving DecidableEq, Repr

/-- A reservation (R186) on a line: port, class, credit, context and its place in the line's order. -/
structure Rsv where
  port : Nat
  cls : Nat
  credit : Nat
  ctx : Nat
  line : Nat
  order : Nat
  made : Nat
  consumed : Bool := false
deriving DecidableEq, Repr

/-- The directory slices (spec/05). -/
structure Dir where
  /-- entries by line number PA[46:6] -/
  ents : Tab DirE := []
  /-- lost-line tables: line numbers -/
  lost : List Nat := []
  txns : List Txn := []
  rsvs : List Rsv := []
  /-- next place in reservation order -/
  nextOrder : Nat := 0
  /-- partners marked unresponsive: sector, port, partner (R199) -/
  unresp : List (Nat × Nat × Nat) := []
  /-- lines whose entry each slice holds in its directory cache, latest first (R167) -/
  cache : Tab (List Nat) := []
deriving DecidableEq, Repr

/-- STATE of a queue context (R211). -/
inductive RingSt where
  | disabled | enabled | draining | error
deriving DecidableEq, Repr

/-- A queue context (R211) of a ring that has been set up since the last cold start. -/
structure Ring where
  st : RingSt := .disabled
  completion : Bool := false
  log2 : Nat := 1
  path : Nat := 6
  partner : Nat := 0
  cq : Nat := 0
  base : Nat := 0
  pi : Nat := 0
  ci : Nat := 0
  phase : Bool := true
  vector : Nat := 0
  notify : Bool := false
  count : Nat := 1
  timeUs : Nat := 0
  /-- records written since the last notification and the time of the first of them (R251) -/
  unnotified : Nat := 0
  firstAt : Nat := 0
  /-- entries reserved for fetched descriptors (R230) -/
  reserved : Nat := 0
  /-- time it entered DRAINING, and whether because its port went down (R247) -/
  drainAt : Nat := 0
  drainPort : Bool := false
  /-- the first index whose read failed: CI does not move past it (R232) -/
  stuckAt : Option Nat := none
  /-- by index, the code that a member of a failed chain completes with once it is fetched, and whether as skipped (R236, R237) -/
  chainFail : Tab (Code × Bool) := []
  /-- the next index to read -/
  fetch : Nat := 0
deriving DecidableEq, Repr

/-- Where a fetched descriptor stands; `switched`: a kernel that was switched out at a yield. -/
inductive JobSt where
  | reading | queued | running | faulted | waiting | switched | finished
deriving DecidableEq, Repr

/-- A fetched descriptor (R229 to R238): its words, where it stands, its completion code and DETAIL once finished, the
phase a stepwise job has reached, and the number of the invalidation or other unit of work it waits on. -/
structure Job where
  ring : Nat
  idx : Nat
  words : List Word
  st : JobSt
  code : Code := .ok
  detail : Nat := 0
  skipped : Bool := false
  phase : Nat := 0
  aux : Nat := 0
  /-- segments (context × 16 + segment) the descriptor was translated through at queue time -/
  segs : List Nat := []
  /-- the unit that runs it (R108) -/
  unit : Nat := 0
  /-- the stamp it was given at its start (R296) -/
  stamp : Nat := 0
  /-- the flush of R302 has been started -/
  flushed : Bool := false
  /-- the versions or definitions bound at queue time (R369, R408), by offset from the first table -/
  bound : List (Option Nat) := []
  /-- its engine failed, and a substitute runs it again (R390, R433, R467) -/
  replayed : Bool := false
deriving DecidableEq, Repr

/-- Rings and their descriptors (spec/06). -/
structure Rings where
  qcs : Tab Ring := []
  jobs : List Job := []
  /-- the ring whose register DISABLE leaves RING_QC_SEL.BUSY at 1 -/
  qcBusy : Option Nat := none
  /-- queue contexts cached on chip, latest first (R213) -/
  cache : List Nat := []
deriving DecidableEq, Repr

/-- A guest line (R288): the sector's copy of a line homed elsewhere, its dirty bytes (bit `i`: byte `i`) and its stamp. -/
structure Guest where
  data : List Byte
  dirty : Nat := 0
  stamp : Nat := 0
deriving DecidableEq, Repr

/-- A write-back under way (R292): sector, line, and whether the guest line goes once its bytes are home. -/
structure WriteBack where
  sector : Nat
  line : Nat
  gone : Bool
deriving DecidableEq, Repr

/-- The sector caches as far as they show (spec/07): guest lines by sector × 2^41 + line, the guest tracker of each sector as
(region, context of the latest writer + 1 or 0), latest used first, and the write-backs under way. -/
structure Cache where
  guests : Tab Guest := []
  track : Tab (List (Nat × Nat)) := []
  wbs : List WriteBack := []
deriving DecidableEq, Repr

/-- A matrix operation under way in a tile: bank, formats, first slices, steps taken and in all, and the sums so far (R255). -/
structure Mma where
  acc : Nat
  fa : Nat
  fb : Nat
  addrA : Nat
  addrB : Nat
  k : Nat
  steps : Nat
  sums : List Nat
deriving DecidableEq, Repr

/-- What a tile does at a cycle to come (R324): a result lands at words of its memory, words are read and land later, or a matrix
operation takes its next step. -/
inductive TileDo where
  | land (dst : Nat) (data : List Nat)
  | move (src n dst : Nat) (landAt : Nat)
  | step (m : Mma)
deriving DecidableEq, Repr

/-- An event of a tile and its cycle. -/
structure TileEv where
  due : Nat
  what : TileDo
deriving DecidableEq, Repr

/-- A physical tile (R254): its words that are not zero (scratchpad, vector registers, accumulator banks, scale buffers and tile
registers by `tileKey`), its random generator, what it will do, until when its units are held, since when it has no kernel,
and the domain that last used each bank + 1. `lost` is not 0 once the state outside the scratchpad has been lost with the power; it
then names the free values that unlisted words hold. -/
structure Tile where
  mem : Tab Nat := []
  rng : Nat := 0
  evs : List TileEv := []
  held : Tab Nat := []
  idleAt : Nat := 0
  bankDom : Tab Nat := []
  lost : Nat := 0
deriving DecidableEq, Repr

/-- A range of a kernel's range table (R344), with its argument added. -/
structure KRange where
  va : Nat
  len : Nat
  cls : Nat
deriving DecidableEq, Repr

/-- A live range (R344). -/
structure LRange where
  sectors : Nat
  tiles : Nat
  start : Nat
  beats : Nat
deriving DecidableEq, Repr

/-- The launch frame of a kernel (R343, R344, R347). -/
structure Frame where
  imageVa : Nat
  bundles : Nat
  bundleOff : Nat
  copies : List (List Word)
  ranges : List KRange
  tregs : List (List Nat)
  lsets : List (Nat × Nat)
  lranges : List LRange
  tileMask : Nat
  bankMask : Nat
  saveBytes : Nat
  saveVa : Nat
  args : List Nat
  seed : Nat
  /-- bytes of the header, tables and arguments, as the log takes them (R359) -/
  bytes : List Byte
deriving DecidableEq, Repr

/-- Where a launch stands. -/
inductive KSt where
  | queued
  /-- tiles mapped, first bundle not issued (R352) -/
  | starting
  | issuing
  /-- switched out (R354); `fault`: after a fault -/
  | out (fault : Bool)
  /-- END issued, a plan error or an error that ends it -/
  | ending
deriving DecidableEq, Repr

/-- An open loop (R330). -/
structure KLoop where
  level : Nat
  start : Nat
  len : Nat
  count : Nat
  iter : Nat
deriving DecidableEq, Repr

/-- What is kept of a logical tile of a switched-out kernel: the physical tile, the banks kept in place there, its scratchpad and
its tile registers. -/
structure KeptTile where
  logical : Nat
  phys : Nat
  banks : List Nat
  mem : Tab Nat
  tregs : List Nat
deriving DecidableEq, Repr

/-- A kernel launch that the sequencer holds. -/
structure Kern where
  ring : Nat
  idx : Nat
  ctx : Nat
  frame : Frame
  st : KSt
  restartable : Bool
  restarts : Nat := 0
  /-- logical tile to physical tile -/
  tiles : List (Nat × Nat) := []
  lc : List Nat := [0, 0, 0, 0]
  ev : Tab Nat := []
  loops : List KLoop := []
  /-- the bundle that issues now, its cycle and its IDLE -/
  bundle : Nat := 0
  cyc : Nat := 0
  idle : Nat := 0
  /-- a bundle has issued since the start -/
  begun : Bool := false
  /-- TLOAD row and AUX changes of the bundle, applied after it: (physical tile, register, add, value) -/
  aux : List (Nat × Nat × Bool × Nat) := []
  /-- code and DETAIL with which an error ended it -/
  err : Option (Code × Nat) := none
  bankErr : Bool := false
  /-- an uncorrectable error has stopped it (R360) -/
  hurt : Bool := false
  startedAt : Nat := 0
  /-- when it started or last resumed -/
  runFrom : Nat := 0
  stamps : List Nat := []
  kept : List KeptTile := []
  /-- the live set it was switched out with -/
  live : Nat := 0xFFF
  /-- when its tiles and banks are ON -/
  readyAt : Nat := 0
  outAt : Nat := 0
  /-- the WAIT of the yield point at which it was switched out: event and count -/
  pendWait : Option (Nat × Nat) := none
  /-- sectors whose write-backs an ACQUIRE or FLUSH bundle waits for (R323) -/
  sync : List Nat := []
  /-- the flush of R302 has been started -/
  flushed : Bool := false
deriving DecidableEq, Repr

/-- Where a kernel's copy stands. -/
inductive CopySt where
  | queued | placing | faulted | done
deriving DecidableEq, Repr

/-- A copy started by a kernel (R313): its number, the kernel, engine, entry, loop count, event counter and
the cycle of its START. -/
structure KCopy where
  no : Nat
  ring : Nat
  idx : Nat
  engine : Nat
  entry : Nat
  lc : Nat
  event : Nat
  started : Nat
  st : CopySt := .queued
  /-- the copy slot of its START, whose sector's tiles it addresses -/
  slot : Nat := 0
deriving DecidableEq, Repr

/-- The tensor plane, the sequencer and the copy engines (spec/07, spec/08). -/
structure Plane where
  tiles : Tab Tile := []
  kerns : List Kern := []
  /-- the kernel on the plane: ring and index -/
  active : Option (Nat × Nat) := none
  /-- domain served last by the plane's queue -/
  rr : Nat := 255
  kcopies : List KCopy := []
  nextCopy : Nat := 0
  /-- ring copies queued to each engine, in order (R342) -/
  rq : Tab (List (Nat × Nat)) := []
deriving DecidableEq, Repr

/-- A version of an embedding table (R363, R365, R369 to R373); `waiters` are the descriptors that complete when it is released, with
the DETAIL they then carry. -/
structure EmbVer where
  ctx : Nat
  table : Nat
  ver : Nat
  fmt : Nat
  opt : Nat
  sfmt : Nat
  units : Nat
  stUnits : Nat
  rowVa : Nat
  rows : Nat
  balPages : Nat
  balVa : Nat
  defVa : Nat
  writable : Bool
  /-- the segments (context × 16 + segment) it was registered through (R373) -/
  segs : List Nat := []
  retiring : Bool := false
  waiters : List (Nat × Nat × Nat) := []
deriving DecidableEq, Repr

/-- A hook (R393 to R397): its locked rows as (table, version, row) in the order of its entries; `live` until it has timed out. -/
structure Hook where
  id : Nat
  ctx : Nat
  table : Nat
  ver : Nat
  rows : List (Nat × Nat × Nat)
  since : Nat
  live : Bool := true
deriving DecidableEq, Repr

/-- A row named across tables: context, table, version and row. -/
structure RowId where
  ctx : Nat
  table : Nat
  ver : Nat
  row : Nat
deriving DecidableEq, Repr

/-- A pinned row (R385) with its sector, its bytes and when it was pinned. -/
structure RowPin where
  row : RowId
  sector : Nat
  bytes : Nat
  since : Nat
deriving DecidableEq, Repr

/-- A relocated row (R399): the sector of its slot and the slot's address. -/
structure Reloc where
  row : RowId
  sector : Nat
  slot : Nat
deriving DecidableEq, Repr

/-- The embedding engines (spec/09): versions, the latest version number by context × 4096 + table, hooks, pins, relocation maps, and of
the balance epoch its start, the rows served by engine and the rows' own counts. -/
structure Emb where
  vers : List EmbVer := []
  last : Tab Nat := []
  hooks : List Hook := []
  pins : List RowPin := []
  relocs : List Reloc := []
  epochAt : Nat := 0
  served : Tab Nat := []
  hot : List (RowId × Nat) := []
deriving DecidableEq, Repr

/-- An index definition (R406 to R408): `num` numbers it among those of its index. -/
structure SrchDef where
  ctx : Nat
  index : Nat
  num : Nat
  units : Nat
  maxDeg : Nat
  promote : Bool
  shard : Nat
  va : Nat
  nodes : Nat
  entry : Nat
  writable : Bool
  retiring : Bool := false
  waiters : List (Nat × Nat) := []
deriving DecidableEq, Repr

/-- The search engines (spec/10): definitions, and the latest number by context × 1024 + index. -/
structure Srch where
  defs : List SrchDef := []
  last : Tab Nat := []
deriving DecidableEq, Repr

/-- A handoff message that has reached the handoff window (R451), with the context of the write. -/
structure InMsg where
  ctx : Nat
  msg : List Byte
deriving DecidableEq, Repr

/-- A record of the Contrail log (R461); it is open until the job it records has completed (R464). -/
structure LogRec where
  type : Nat
  source : Nat
  ctx : Nat
  seq : Nat
  time : Nat
  ring : Nat
  idx : Nat
  payload : List Byte
  live : Bool
  /-- the domain of its context when it was written -/
  domain : Nat := 0
deriving DecidableEq, Repr

/-- The Contrail log (R460 to R464): its records, oldest first, the latest SEQ of each stream, the size in force and the jobs that
wait for room, with the bytes they need. -/
structure Log where
  recs : List LogRec := []
  seqs : Tab Nat := []
  gib : Nat := 4
  waits : List (Nat × Nat × Nat) := []
deriving DecidableEq, Repr

/-- A block space (R436): its context and definition; `slots` are the index entries in use (bucket × 4 + place), `pins` the pages marked
as pin pages. -/
structure Space where
  ctx : Nat
  logData : Bool
  log2 : Nat
  areaPages : Nat
  indexVa : Nat
  areaVa : Nat
  leaseMs : Nat
  pinPages : Nat
  slots : List Nat := []
  pins : List Nat := []
deriving DecidableEq, Repr

/-- The state of a ledger entry (R450). -/
inductive Own where
  | owned | sending | acked | gone
deriving DecidableEq, Repr

/-- A ledger entry (R450): its space and group, the peer's reply address and space during a handoff, when it entered its state and when
it last sent an ACK, and the BLK_HANDOFF descriptor that waits. -/
structure Ledger where
  space : Nat
  group : Nat
  epoch : Nat
  st : Own
  reply : Nat := 0
  peerSpace : Nat := 0
  since : Nat := 0
  sentAt : Nat := 0
  job : Option (Nat × Nat) := none
deriving DecidableEq, Repr

/-- The block store (spec/11). -/
structure Blk where
  inbox : List InMsg := []
  spaces : Tab Space := []
  ledger : List Ledger := []
deriving DecidableEq, Repr

/-- A link as its receiver and sender keep it (spec/12): the next FSN expected, the FSN after the highest the partner has acknowledged and
the replays in a row from it (R478), 1 + the COUNTER of the last frame verified, the key slot and generation of each direction (R490,
R614), the times of its tag failures (R489), MARK_COUNT as received (R485), when its training began and whether it is a retrain (R491),
when its last valid flit came, and its Haze run (R493). -/
structure Link where
  rxNext : Nat := 0
  acked : Nat := 0
  again : Nat := 0
  rxCtr : Nat := 0
  rxSlot : Bool := false
  rxGen : Nat := 0
  txSlot : Bool := false
  txGen : Nat := 0
  tagAt : List Nat := []
  marks : Nat := 0
  trainAt : Nat := 0
  retrain : Bool := false
  flitAt : Nat := 0
  haze : HazeRun := {}
deriving DecidableEq, Repr

/-- A port as far as its registers do not show it (spec/12): since when it sends DOWN (R496), the personality in effect (R498), the next
MSN of each order space and the MSNs that came early (R480), as space × 65536 + MSN, the credits and inbound tags the partner has given
(R484, R495), when its last flit came, and the event records of Get Event Records (R503). -/
structure PortSt where
  notice : Option Nat := none
  cxl : Bool := false
  msn0 : Nat := 0
  msn1 : Nat := 0
  early : List Nat := []
  credits : List Nat := [0, 0, 0, 0]
  tags : Nat := 0
  flitAt : Nat := 0
  cxlEvents : List (Code × Nat) := []
deriving DecidableEq, Repr

/-- The Kwazia ports: links by port × 6 + link, ports, and the laser modules accepted under R473 that are coming ready. -/
structure Ports where
  links : Tab Link := []
  ports : Tab PortSt := []
  lasers : List Nat := []
deriving DecidableEq, Repr

/-- A lane of a tenant queue: its tags S and F and whether it was eligible when last looked at (R524). -/
structure Lane where
  s : Nat := 0
  f : Nat := 0
  was : Bool := false
deriving DecidableEq, Repr

/-- A tenant queue (R517): its settings, its credits in bytes with the time they were last brought up to date, its lanes
and its count of bytes selected. -/
structure Tenant where
  en : Bool := false
  domain : Nat := 0
  weight : Nat := 16
  rate : Nat := 0
  rateCap : Nat := 256
  resv : Nat := 0
  resvCap : Nat := 64
  inflightMax : Nat := 8192
  bufKib : Nat := 512
  rateCredit : Int := 0
  resvCredit : Int := 0
  upd : Nat := 0
  lane2 : Lane := {}
  lane3 : Lane := {}
  served : Nat := 0
deriving DecidableEq, Repr

/-- Ingress and scheduling (spec/13). -/
structure Sched where
  /-- tenant queues by port × 256 + tenant -/
  tqs : Tab Tenant := []
  /-- last tenant number taken in reserved service, per port (R521) -/
  rr : Tab Nat := []
  /-- replies and requests not yet sent, bytes per port -/
  egress : Tab Nat := []
  /-- class stores in force, KiB, by port × 4 + class (R533) -/
  limits : Tab Nat := []
  /-- bytes written to the spill area, per port -/
  spilled : Tab Nat := []
deriving DecidableEq, Repr

/-- A NODE entry (R540). -/
structure NodeEnt where
  nodeId : Nat := 0
  graceUs : Nat := 1000
  quorumK : Nat := 1
  lostHome : Nat := 0
  leaseMs : Nat := 2000
  mgrMs : Nat := 1000
deriving DecidableEq, Repr

/-- A REGION entry (R540). -/
structure RegionEnt where
  domain : Nat
  basePage : Nat
  pages : Nat
deriving DecidableEq, Repr

/-- A GRANT entry (R540). -/
structure GrantEnt where
  region : Nat
  port : Nat
  partner : Nat
  rd : Bool
  wr : Bool
deriving DecidableEq, Repr

/-- A TENANT entry: images of SCH_TQ_CFG0 and SCH_TQ_CFG1 (R540). -/
structure TenantEnt where
  cfg0 : Word
  cfg1 : Word
deriving DecidableEq, Repr

/-- A MANAGER entry (R540). -/
structure MgrEnt where
  ctx : Nat
  eventRing : Nat
  key : BitVec 32
deriving DecidableEq, Repr

/-- A composition map (R540). -/
structure CMap where
  node : NodeEnt := {}
  /-- PEER_ID by port -/
  ports : Tab Nat := []
  /-- LEASE_OK by port × 256 + partner -/
  partners : Tab Bool := []
  regions : Tab RegionEnt := []
  grants : Tab GrantEnt := []
  /-- port by node -/
  routes : Tab Nat := []
  /-- by port × 256 + tenant -/
  tenants : Tab TenantEnt := []
  managers : Tab MgrEnt := []
deriving DecidableEq, Repr

/-- A recovery under way (R560). -/
structure Recovery where
  ty : DomType
  inst : Nat
  cause : Nat
  since : Nat
deriving DecidableEq, Repr

/-- A firmware bank: header bytes 0 to 63, version, SVN and RAISE_SVN of its image (R595). -/
structure Bank where
  header : List Byte := []
  version : Nat := 0
  svn : Nat := 0
  raise : Bool := false
deriving DecidableEq, Repr

/-- Composition and repair (spec/14). -/
structure Comp where
  map : CMap := {}
  staging : Option CMap := none
  /-- entries changed in staging, as (type, index) -/
  changed : List (Nat × Nat) := []
  stageAt : Nat := 0
  prev : Option CMap := none
  /-- time the current epoch came into force -/
  since : Nat := 0
  persisted : CMap := {}
  persistedEpoch : Nat := 0
  /-- a commit whose homes are still recalling withdrawn lines (R543): ring and index of its descriptor -/
  committing : Option (Nat × Nat) := none
  /-- epochs learned of remote nodes (R548) -/
  remote : Tab Nat := []
  lastBeat : Nat := 0
  /-- lease ends by port × 256 + partner, in LEASE mode (R550) -/
  leases : Tab Nat := []
  /-- partners lapsed under R552 and partners fenced under R555, port × 256 + partner -/
  lapsed : List Nat := []
  fenced : List Nat := []
  /-- the latest 4,096 RAS events, oldest first (R559) -/
  events : List FaultRec := []
  /-- SEQ of the latest event that is no longer kept -/
  lostEvent : Option Nat := none
  recoveries : List Recovery := []
  retired : List (DomType × Nat) := []
  /-- pages that have moved to the target (R570) -/
  moved : List Nat := []
  /-- Haze runs of tiles (0 to 63) and engines (64 + SOURCE code) (R564) -/
  haze : Tab HazeRun := []
  /-- the images of the two firmware banks (R573, R595) -/
  banks : List Bank := [{}, {}]
  /-- since when all four cores have run the active image (R596) -/
  imageAt : Nat := 0
  /-- partners fenced and EXPEL as flash keeps them (R555) -/
  kept : List Nat := []
  keptExpel : Bool := false
  /-- cores left to move to the new image, in order, and the core that is restarting (R574) -/
  rolling : List Nat := []
  coreBusy : Option Nat := none
  /-- lines in MASK that a partner which loses its access has been told to drop, as (line, port, partner) (R183) -/
  maskDone : List (Nat × Nat × Nat) := []
deriving DecidableEq, Repr

/-- A tenancy domain that exists (spec/15). -/
structure Dom where
  conf : Bool := false
  quota : Nat := 0
  /-- its zero-fill after a teardown is under way (R621) -/
  zeroing : Bool := false
deriving DecidableEq, Repr

/-- A key slot in use (R601, R604): its domain, GEN and key. -/
structure KeySlot where
  domain : Nat
  gen : Nat
  key : Nat
deriving DecidableEq, Repr

/-- A domain's decapsulation key (R602): the number of its generation, and the first 1,728 bytes of the latest report that carried its
EKEY. -/
structure EKey where
  no : Nat
  report : List Byte := []
deriving DecidableEq, Repr

/-- A GET_REPORT that waits (R713): its binding, instance, domain and nonce. -/
structure ReportReq where
  pcie : Bool
  inst : Nat
  dom : Nat
  nonce : List Byte
deriving DecidableEq, Repr

/-- Security (spec/15). -/
structure Sec where
  /-- domains that exist, and torn-down ones whose zero-fill runs; domain 0 always exists -/
  doms : Tab Dom := []
  slots : Tab KeySlot := []
  /-- GEN of a slot's latest key -/
  gens : Tab Nat := []
  ekeys : Tab EKey := []
  /-- number of the next ML-KEM key pair -/
  nextEkey : Nat := 1
  /-- CURRENT and NEXT port keys by port (R612, R615) -/
  portCur : Tab Nat := []
  portNext : Tab Nat := []
  /-- the owner's public key (R579) -/
  owner : List Byte := []
  /-- the copies of BLOCKS that fail their check (R594) -/
  blocksBad : Nat := 0
  /-- a block commit is due in the background (R592) -/
  blockDue : Bool := false
  /-- reports that wait for the signer (R713) -/
  waiting : List ReportReq := []
  /-- debug tokens that have opened debug: the next needs the nonce of this number (R580) -/
  nonce : Nat := 0
deriving DecidableEq, Repr

/-- Clocks and power (spec/16, spec/17) as far as registers do not show them: loss of supply, the XTAL test under way, since when the loops
coast, the reference of each port loop (0 XTAL, 1 REFCLK, 2 lost), whether the memory PHYs run at their lowest bin, since when PLL-T and
PLL-E have been idle, since when each engine (R108 SOURCE code less 8) has been idle and which are gated, when DEEP_IDLE was entered, the
stacks slowed under R681 and the temperature each stack last reported, the thermal limit with the times it was last lowered and raised, a
thermal trip, how far issue is held for power (R678: 1 bundles, 2 and engines, 3 and copies), and since when any cause of PWR_THROTTLE has been active. -/
structure Clk where
  off : Bool := false
  testing : Bool := false
  coastAt : Option Nat := none
  portRef : Tab Nat := []
  slowMem : Bool := false
  idleT : Nat := 0
  idleE : Nat := 0
  engAt : Tab Nat := []
  gated : List Nat := List.range 20
  deepAt : Nat := 0
  hot : List Nat := []
  temps : Tab Nat := []
  thermal : Nat := 1600
  lowerAt : Nat := 0
  raiseAt : Nat := 0
  trip : Bool := false
  held : Nat := 0
  throttleAt : Option Nat := none
deriving DecidableEq, Repr

/-- The counters of a domain (R716): bytes read and written at homes, kernels, jobs, page faults, and completions with POISON, INTEGRITY and
DENIED. -/
structure Telem where
  rd : Nat := 0
  wr : Nat := 0
  kernels : Nat := 0
  jobs : Nat := 0
  faults : Nat := 0
  poison : Nat := 0
  integrity : Nat := 0
  denied : Nat := 0
deriving DecidableEq, Repr

/-- A message under assembly (R706). -/
structure Assembly where
  pcie : Bool
  src : Nat
  tag : Nat
  type : Nat
  bytes : Nat
deriving DecidableEq, Repr

/-- A firmware update under way (R709, R710): its agent, the size of its component once the table has been passed, the bytes written so
far, the chunk size, and when the agent last sent something. -/
structure Update where
  pcie : Bool
  agent : Nat
  size : Option Nat := none
  got : Nat := 0
  chunk : Nat := 4096
  heard : Nat := 0
deriving DecidableEq, Repr

/-- The management function (spec/18): the conditions that let MSI-X messages leave, masked vectors, messages that are
pending under R704 with their source (8: a ring's own vector), whether records may be written to host memory (R250), whether it has
answered a configuration request (R666), the terminus ID and event receiver (R707, R708), the sensors as last refreshed, the messages under
assembly (R706), the firmware update (R709), since when a pool-window access has waited for a granule that is being copied (R695), and the counters of R716 with their snapshot. -/
structure Mgmt where
  linkUp : Bool := false
  msixEn : Bool := false
  masked : List Nat := []
  pendMsix : List (Nat × Nat) := []
  hostWrites : Bool := true
  answered : Bool := false
  tid : Nat := 0
  receiver : Option (Bool × Nat) := none
  sensors : Tab Nat := []
  assemblies : List Assembly := []
  update : Option Update := none
  winAt : Option Nat := none
  telem : Tab Telem := []
  snap : Tab Telem := []
deriving DecidableEq, Repr

/-- Stops of the machine. No command of this block stops with a fault: the spec ends each with a reply, a record, a count
or no effect; the type is closed and its one constructor is raised by nothing (safe). -/
inductive Fault where
  /-- raised by no command; safe -/
  | none
deriving DecidableEq, Repr

/-- Refusals of the machine. -/
inductive Refusal where
  /-- raised by the dispatcher for a command without a meaning yet; safe -/
  | notModelled (mnemonic : String)
deriving DecidableEq, Repr

/-- The state of the device. -/
structure State where
  /-- commands that wait, first in, first out -/
  pending : List Instr := []
  /-- SYS_TIME in ns -/
  now : Nat := 0
  /-- the model's own counter of free values taken -/
  free : Nat := 0
  /-- register fields that do not hold their reset value, by `Fld.key` -/
  regs : Tab Nat := []
  /-- values of CP registers that are not 0, by offset (R10) -/
  cpRegs : Tab Nat := []
  store : Store := {}
  xlt : Xlt := {}
  fab : Fabric := {}
  dir : Dir := {}
  rings : Rings := {}
  cache : Cache := {}
  plane : Plane := {}
  sched : Sched := {}
  comp : Comp := {}
  mgmt : Mgmt := {}
  log : Log := {}
  emb : Emb := {}
  srch : Srch := {}
  blk : Blk := {}
  sec : Sec := {}
  ports : Ports := {}
  clk : Clk := {}
  /-- what the device has sent, oldest first -/
  out : List Out := []
deriving DecidableEq, Repr

/-- The machine right after reset: registers at their reset values, no page allocated (R37), contexts 0 and 1 as R82
gives, nothing queued. -/
def State.reset : State :=
  { xlt := { ctxs := [(0, {}), (1, { priv := true })] } }

end Sys2Proof.Machine
end

