-- ==== Sys2Proof/Machine/Ops.lean ====
section
/-! DEFINITION. The named operations every command is written with: register fields, pool bytes, time, output, completion
codes, interrupt sources, fault records and completion records. -/

namespace Sys2Proof.Machine

open Sys2Proof

/-- The number of a completion code (R244). -/
def codeNum : Code → Nat
  | .ok => 0 | .short => 1 | .poison => 2 | .remap => 3 | .staleBase => 4 | .retryRsv => 5 | .faultHeld => 6
  | .abortDisable => 7 | .denied => 8 | .portLost => 9 | .ownerLost => 10 | .integrity => 11 | .timeout => 12
  | .malformed => 13 | .cpair => 14 | .notOwner => 15 | .restarted => 16 | .capacity => 17

/-! ### Register fields -/

/-- The stored value of a field. -/
def State.get (s : State) (f : Fld) : Nat := tabGet f.reset f.key s.regs

/-- Is a one-bit field 1? -/
def State.flag (s : State) (f : Fld) : Bool := s.get f != 0

/-- Set a field, truncated to its width. -/
def State.set (s : State) (f : Fld) (v : Nat) : State :=
  { s with regs := tabPutD f.reset f.key (v % 2 ^ f.wid) s.regs }

/-- Set a one-bit field. -/
def State.setFlag (s : State) (f : Fld) (b : Bool) : State := s.set f b.toNat

/-- Raise a wrapping counter. -/
def State.bump (s : State) (f : Fld) (n : Nat := 1) : State := s.set f (s.get f + n)

/-- Raise a saturating counter. -/
def State.bumpSat (s : State) (f : Fld) (n : Nat := 1) : State := s.set f (min (s.get f + n) (2 ^ f.wid - 1))

/-- Raise a field to a value if it is larger: a highest-seen or longest-wait field, saturating. -/
def State.raiseTo (s : State) (f : Fld) (v : Nat) : State := s.set f (max (s.get f) (min v (2 ^ f.wid - 1)))

/-! ### Time, output and free values -/

/-- Move SYS_TIME forward to `t`. -/
def State.upto (s : State) (t : Nat) : State := { s with now := max s.now t }

/-- What the block does when no command waits: SYS_TIME, which counts ns in every power state while the device has its supply, moves on
by one (R629). DESIGN CHOICE: one step is one nanosecond. -/
def idle (s : State) : State := if s.clk.off then s else { s with now := s.now + 1 }

/-- Append to what the device has sent. -/
def State.emit (s : State) (o : Out) : State := { s with out := s.out ++ [o] }

/-- Take one free choice. -/
def State.takeFree (s : State) : Nat × State := (Config.pick s.free, { s with free := s.free + 1 })

/-! ### Pool bytes: an unlisted byte reads zero (R41) -/

/-- One byte of the pool. -/
def State.byte (s : State) (a : Nat) : Byte := tabGet 0 a s.store.mem

/-- Store one byte of the pool. -/
def State.putByte (s : State) (a : Nat) (b : Byte) : State :=
  { s with store := { s.store with mem := tabPutD 0 a b s.store.mem } }

/-- `n` bytes of the pool from address `a`. -/
def State.bytes (s : State) (a : Nat) : Nat → List Byte
  | 0 => []
  | n + 1 => s.byte a :: s.bytes (a + 1) n

/-- Store bytes of the pool from address `a`. -/
def State.putBytes (s : State) (a : Nat) : List Byte → State
  | [] => s
  | b :: t => (s.putByte a b).putBytes (a + 1) t

/-- Make every byte of a pool page zero. -/
def State.zeroPage (s : State) (p : Nat) : State :=
  { s with store := { s.store with mem := s.store.mem.filter fun c => c.1 / 2097152 ≠ p } }

/-! ### Interrupt sources (R702 to R704) -/

/-- Vector of an interrupt source. -/
def irqVec (s : State) (b : Nat) : Nat :=
  match b with
  | 0 => s.get F.MGT_IRQ_VEC0_VEC0 | 1 => s.get F.MGT_IRQ_VEC0_VEC1
  | 2 => s.get F.MGT_IRQ_VEC0_VEC2 | 3 => s.get F.MGT_IRQ_VEC0_VEC3
  | 4 => s.get F.MGT_IRQ_VEC1_VEC4 | 5 => s.get F.MGT_IRQ_VEC1_VEC5
  | 6 => s.get F.MGT_IRQ_VEC1_VEC6 | _ => s.get F.MGT_IRQ_VEC1_VEC7

/-- Send an MSI-X message, or leave it pending (R704); `src` 8 is a ring's own vector. -/
def sendMsix (s : State) (src vec : Nat) : State :=
  if s.mgmt.linkUp && s.mgmt.msixEn && !s.mgmt.masked.contains vec then s.emit (.msix vec)
  else { s with mgmt := { s.mgmt with pendMsix := s.mgmt.pendMsix ++ [(src, vec)] } }

/-- Set an interrupt source's status bit; a rising bit that is not masked sends its message (R703). -/
def raiseIrq (s : State) (b : Nat) : State :=
  let st := s.get F.MGT_IRQ_STATUS_SOURCES
  if bits st b 1 = 1 then s
  else
    let s := s.set F.MGT_IRQ_STATUS_SOURCES (st + 2 ^ b)
    if bits (s.get F.MGT_IRQ_MASK_SOURCES) b 1 = 1 then s else sendMsix s b (irqVec s b)

/-! ### Rings: completion records and notifications (R239 to R242, R251 to R253) -/

/-- The queue context of a ring; one never set up is DISABLED with index 0. -/
def State.ring (s : State) (g : Nat) : Ring := tabGet {} g s.rings.qcs

/-- Store a ring's queue context. -/
def State.putRing (s : State) (g : Nat) (r : Ring) : State :=
  { s with rings := { s.rings with qcs := tabPut g r s.rings.qcs } }

/-- A port beyond its registers. -/
def portSt (s : State) (p : Nat) : PortSt := tabGet {} p s.ports.ports

/-- Change a port beyond its registers. -/
def setPort (s : State) (p : Nat) (f : PortSt → PortSt) : State :=
  { s with ports := { s.ports with ports := tabPutD {} p (f (portSt s p)) s.ports.ports } }

/-- Is the CXL 3.2 personality in effect (R498)? -/
def cxlPort (s : State) (p : Nat) : Bool := (portSt s p).cxl

/-- Is a port UP (KZP status coding of R494)? -/
def portUp (s : State) (p : Nat) : Bool := s.get (F.KZP_STATUS_STATE p) == 3

/-- Write bytes to the memory of a ring's owner. -/
def ringWrite (s : State) (r : Ring) (addr : Nat) (data : List Byte) : State :=
  if r.path = 6 then (if s.mgmt.hostWrites then s.emit (.hostWrite addr data) else s)
  else if portUp s r.path then s.emit (.partnerWrite r.path r.partner addr data) else s

/-- Notify a completion ring's consumer (R252, R253). -/
def notifyRing (s : State) (g : Nat) : State :=
  let r := s.ring g
  let s := s.putRing g { r with unnotified := 0 }
  if r.path = 6 then sendMsix s 8 r.vector
  else ringWrite s r (r.base + 16 * 2 ^ r.log2) (leBytes 8 (r.pi % 65536 + g % 1048576 * 65536))

/-- Free entries of a completion ring (R230). -/
def ringRoom (r : Ring) : Nat := 2 ^ r.log2 - 1 - ((r.pi + 65536 - r.ci) % 65536 + r.reserved)

/-- Write a 16-byte record at PI of completion ring `g` (R240) and notify when R251 says so; `w0` and `w1` are its words
without PHASE. -/
def writeRecord (s : State) (g w0 w1 : Nat) : State :=
  let r := s.ring g
  let rec8 := leBytes 8 w0 ++ leBytes 8 (w1 % 2 ^ 63 + (if r.phase then 2 ^ 63 else 0))
  let s := ringWrite s r (r.base + 16 * (r.pi % 2 ^ r.log2)) rec8
  let last := r.pi % 2 ^ r.log2 = 2 ^ r.log2 - 1
  let r' := { r with pi := (r.pi + 1) % 65536, phase := if last then !r.phase else r.phase,
                     unnotified := r.unnotified + 1,
                     firstAt := if r.unnotified = 0 then s.now else r.firstAt }
  let s := s.putRing g r'
  if r.notify && (r'.unnotified ≥ r.count || r.timeUs = 0) then notifyRing s g else s

/-! ### Faults (R106 to R116) -/

/-- Records in the overflow area (R116). -/
def overflowHeld (s : State) : Nat :=
  (s.xlt.late.filter fun l => match l with | .record _ => true | _ => false).length

/-- Put a record that has room into the fault queue, entering Squall above 12,288 records (R113). -/
def enqueueFault (s : State) (r : FaultRec) : State :=
  let tail := s.get F.XLT_FQ_PTRS_TAIL
  let s := { s with xlt := { s.xlt with queue := s.xlt.queue ++ [r] } }
  let s := s.set F.XLT_FQ_PTRS_TAIL (tail + 1)
  let s := if tail = 16383 then s.set F.XLT_FQ_PTRS_TAIL_WRAP (s.get F.XLT_FQ_PTRS_TAIL_WRAP + 1) else s
  if s.xlt.queue.length > 12288 && !s.flag F.XLT_FQ_STATUS_SQUALL then
    raiseIrq ((s.setFlag F.XLT_FQ_STATUS_SQUALL true).bump F.XLT_SQUALL_STATS_ENTRIES) 0
  else s

/-- Number a record: SEQ and TIME are taken at posting (R106). -/
def stampFault (s : State) (r : FaultRec) : FaultRec × State :=
  ({ r with seq := s.xlt.seq, time := s.now }, { s with xlt := { s.xlt with seq := (s.xlt.seq + 1) % 2 ^ 32 } })

/-- Post a record with no waiting task: into the queue, or behind what already met the full queue (R116). -/
def postFault (s : State) (r : FaultRec) : State :=
  let (r, s) := stampFault s r
  if s.xlt.queue.length < Config.fqEntries && s.xlt.late.isEmpty then enqueueFault s r
  else { s with xlt := { s.xlt with late := s.xlt.late ++ [.record r] } }

/-- The domain of a context, 0 when it is invalid. -/
def ctxDomain (s : State) (c : Nat) : Nat := (tabGet {} c s.xlt.ctxs).domain

/-- Is a context valid? -/
def ctxValid (s : State) (c : Nat) : Bool := tabHas c s.xlt.ctxs

/-- A complement-pair mismatch (R13): a fault record of kind 0x07. -/
def postCpair (s : State) (source ctx detail : Nat) : State :=
  postFault s { kind := 7, source := source, ctx := ctx, domain := ctxDomain s ctx, detail := detail }

/-- Does a tenancy domain exist (R599, R621)? Domain 0 always does. -/
def domLive (s : State) (d : Nat) : Bool := d == 0 || match tabGet? d s.sec.doms with | some x => !x.zeroing | none => false

/-- Is a domain confidential? -/
def domConf (s : State) (d : Nat) : Bool := domLive s d && (tabGet {} d s.sec.doms).conf

/-- Confidential domains (R616). -/
def confCount (s : State) : Nat := (s.sec.doms.filter fun e => e.2.conf && !e.2.zeroing).length

/-- Has the device halted: a tamper response (R584), or no supply? -/
def halted (s : State) : Bool := s.flag F.SEC_TAMPER_STATUS_TAMPERED || s.clk.off

/-! ### Clocks and power as work meets them (R638, R647, R655, R674, R682) -/

/-- Does the device run at all: not halted, no thermal trip (R682), not in DEEP_IDLE (R646)? -/
def awake (s : State) : Bool := !halted s && !s.clk.trip && s.get F.PWR_STATUS_STATE != 2

/-- STATE of a core loop: 0 PLL-T, 1 PLL-X, 2 PLL-E. -/
def loopState : Nat → Fld
  | 0 => F.CLK_PLL_T_STATE | 1 => F.CLK_PLL_X_STATE | _ => F.CLK_PLL_E_STATE
/-- FREQ_MHZ of a core loop. -/
def loopFreq : Nat → Fld
  | 0 => F.CLK_PLL_T_FREQ_MHZ | 1 => F.CLK_PLL_X_FREQ_MHZ | _ => F.CLK_PLL_E_FREQ_MHZ
/-- STARTS of a core loop. -/
def loopStarts : Nat → Fld
  | 0 => F.CLK_PLL_T_STARTS | 1 => F.CLK_PLL_X_STARTS | _ => F.CLK_PLL_E_STARTS
/-- LAST_LOCK_NS of a core loop. -/
def loopLock : Nat → Fld
  | 0 => F.CLK_PLL_T_LAST_LOCK_NS | 1 => F.CLK_PLL_X_LAST_LOCK_NS | _ => F.CLK_PLL_E_LAST_LOCK_NS

/-- Output of a locked core loop, MHz: its own, or its lowest while it coasts on IOSC (R636, R642). -/
def loopMhz (s : State) (k : Nat) : Nat :=
  match k, s.flag F.CLK_STATUS_COASTING with
  | 0, c => if c then 300 else 1200
  | 1, c => if c then 500 else 2000
  | _, c => if c then 400 else 1600

/-- Is a core loop locked? -/
def loopLocked (s : State) (k : Nat) : Bool := s.get (loopState k) == 2

/-- Has PLL-X been started, so that the memory tiers and the ports run (R632, R653)? -/
def chipClock (s : State) : Bool := s.get F.CLK_PLL_X_STATE != 0

/-- Work arrives for a loop: a stopped one starts, a gated one is ungated (R638, R639); the device is then in FULL (R647). -/
def startLoop (s : State) (k : Nat) : State :=
  match s.get (loopState k) with
  | 0 => ((s.set (loopState k) 1).bump (loopStarts k)).set F.PWR_STATUS_STATE 0
  | 3 => ((s.set (loopState k) 2).set (loopFreq k) (loopMhz s k)).set F.PWR_STATUS_STATE 0
  | _ => s

/-- Does the tensor plane run? -/
def planeRuns (s : State) : Bool := awake s && loopLocked s 0

/-- Has a port's loop a reference (R636, R643)? -/
def portClocked (s : State) (p : Nat) : Bool := awake s && chipClock s && tabGet 0 p s.clk.portRef != 2

/-- Is the opcode one of the copy, embedding, search or block-store families (R227)? -/
def engineOp (op : Nat) : Bool := op / 16 == 1 || op / 16 == 3 || op / 16 == 5

/-- Is the opcode a kernel launch? -/
def kernelOp (op : Nat) : Bool := op == 0x20

/-- The loops that a descriptor's work needs are started (R638). -/
def workArrives (s : State) (op : Nat) : State :=
  if engineOp op then startLoop s 2 else if kernelOp op then startLoop s 0 else s

/-- Do the units that run an opcode have their clocks, the near tier that kernels and engine jobs need, and the firmware that Zenith's
families need (R536, R638, R674)? -/
def unitReady (s : State) (op unit : Nat) : Bool :=
  awake s && loopLocked s 1 && (!(engineOp op || kernelOp op) || s.flag F.SYS_STATUS_NEAR_SERVING) &&
  (!engineOp op || loopLocked s 2) && (unit != 0xA0 || (s.flag F.SYS_STATUS_FW_RUNNING && s.get F.RAS_STATUS_CORES_UP != 0))

/-- The power domain of an engine that work needs is ON (R655). -/
def ungate (s : State) (unit : Nat) : State :=
  if 0x08 ≤ unit ∧ unit < 0x1C then { s with clk := { s.clk with gated := setDel (unit - 0x08) s.clk.gated } } else s

/-- The work of a unit has ended, which is when its idle time begins (R637, R655). -/
def unitIdle (s : State) (op unit : Nat) : State :=
  if engineOp op then
    let a := if 0x08 ≤ unit ∧ unit < 0x1C then tabPut (unit - 0x08) s.now s.clk.engAt else s.clk.engAt
    { s with clk := { s.clk with idleE := s.now, engAt := a } }
  else if kernelOp op then { s with clk := { s.clk with idleT := s.now } } else s

/-- The valid MANAGER entries of the current map. -/
def managers (s : State) : List MgrEnt := s.comp.map.managers.map (·.2)

/-- Post a RAS event (R557): a fault record, kept among the latest 4,096 with a record on the event ring of every valid
manager (R559), and sent to the event receiver (R708). -/
def postRas (s : State) (kind source detail : Nat) (addr : Nat := 0) : State :=
  let r : FaultRec := { kind := kind, source := source, detail := detail, addr := addr,
                        pool := addr != 0, seq := s.xlt.seq, time := s.now }
  let s := postFault s r
  let ev := s.comp.events ++ [r]
  let gone := match (ev.take (ev.length - 4096)).getLast? with | some x => some x.seq | none => s.comp.lostEvent
  let s := { s with comp := { s.comp with events := ev.drop (ev.length - 4096), lostEvent := gone } }
  let s := raiseIrq s 1
  let s := match s.mgmt.receiver with
    | some _ => s.emit (.mgmt "PLATFORM_EVENT_RAS" 0 [kind, source, detail])
    | none => s
  (managers s).foldl (fun s m =>
    let g := m.ctx * 16 + m.eventRing
    let rg := s.ring g
    if rg.completion && rg.st = .enabled && ringRoom rg > 0 then
      writeRecord s g (0x62 * 256) ((kind + source * 256) % 2 ^ 32 + r.seq % 2 ^ 30 * 2 ^ 32)
    else s) s

/-! ### The counters of a domain (R716) -/

/-- Change the counters of a domain. -/
def telem (s : State) (dom : Nat) (f : Telem → Telem) : State :=
  { s with mgmt := { s.mgmt with telem := tabPutD {} dom (f (tabGet {} dom s.mgmt.telem)) s.mgmt.telem } }

/-- Count a completion with POISON, INTEGRITY or DENIED. -/
def telemCode (s : State) (dom : Nat) (c : Code) : State :=
  match c with
  | .poison => telem s dom fun x => { x with poison := min (x.poison + 1) 65535 }
  | .integrity => telem s dom fun x => { x with integrity := min (x.integrity + 1) 65535 }
  | .denied => telem s dom fun x => { x with denied := (x.denied + 1) % 2 ^ 32 }
  | _ => s

/-! ### Descriptors -/

/-- A descriptor's bytes as one little-endian number. -/
def descVal (ws : List Word) : Nat :=
  match ws with
  | [] => 0
  | w :: t => w.toNat + 2 ^ 64 * descVal t

/-- Bits of a descriptor: `wid` bits from bit `lo` of byte `b`. -/
def dbits (ws : List Word) (b lo wid : Nat) : Nat := bits (descVal ws) (8 * b + lo) wid

/-- The opcode of a descriptor (R226). -/
def descOp (ws : List Word) : Nat := dbits ws 0 0 8

/-- The job of a ring's index, if it has been fetched and its record not yet written. -/
def findJob (s : State) (g i : Nat) : Option Job := s.rings.jobs.find? fun j => j.ring = g && j.idx = i

/-- Replace a job. -/
def putJob (s : State) (j : Job) : State :=
  { s with rings := { s.rings with
      jobs := s.rings.jobs.map fun k => if k.ring = j.ring && k.idx = j.idx then j else k } }

/-- CHAIN of a descriptor (R226). -/
def descChain (ws : List Word) : Bool := dbits ws 3 1 1 == 1

/-- FENCE of a descriptor (R226). -/
def descFence (ws : List Word) : Bool := dbits ws 3 0 1 == 1

/-- NOCMPL of a descriptor (R226). -/
def descNocmpl (ws : List Word) : Bool := dbits ws 3 2 1 == 1

/-- The context of a ring. -/
def ringCtx (g : Nat) : Nat := g / 16

/-- Later members of a chain whose member at `i` failed complete with its code, not run (R236). -/
def skipChain (s : State) (g : Nat) (c : Code) (sk : Bool) : Nat → Nat → State
  | 0, _ => s
  | fuel + 1, i =>
    match findJob s g i with
    | none => s.putRing g { s.ring g with chainFail := tabPut i (c, sk) (s.ring g).chainFail }
    | some j =>
      if j.st = .reading then s.putRing g { s.ring g with chainFail := tabPut i (c, sk) (s.ring g).chainFail }
      else
      let s := putJob s { j with st := .finished, code := c, detail := 0, skipped := sk }
      if descChain j.words then skipChain s g c sk fuel ((i + 1) % 65536) else s

/-- End a job with a code (R236). -/
def finishJob (s : State) (j : Job) (c : Code) (detail : Nat := 0) : State :=
  let c := if c = .ok ∧ j.replayed then .restarted else c
  let s := putJob s { j with st := .finished, code := c, detail := detail % 2 ^ 30 }
  if c ≠ .ok ∧ descChain j.words then skipChain s j.ring c true 256 ((j.idx + 1) % 65536) else s

end Sys2Proof.Machine
end

