-- ==== Sys2Proof/Machine/Pool.lean ====
section
/-! DEFINITION. The pool as every requester meets it: home sectors (R24), pages and frames (R35, R42, R45 to R50), poison
(R68, R155 to R158), the segment and location steps of translation (R84 to R96) and page faults (R105 to R116). -/

namespace Sys2Proof.Machine

open Sys2Proof

/-! ### Home sectors (R24, R25, R570) -/

/-- Index into the home map of a pool page: PA[22:21] XOR PA[24:23]. -/
def homeIndex (page : Nat) : Nat := Nat.xor (page % 4) (page / 4 % 4)

/-- The state of a sector (R567), coded as in RAS_SECTOR.STATE. -/
def sectorState (s : State) (n : Nat) : Nat := bits (s.get F.RAS_SECTOR_STATE) (4 * n) 4

/-- Set the state of a sector, with its RAS event (R557). -/
def setSectorState (s : State) (n v : Nat) : State :=
  let w := s.get F.RAS_SECTOR_STATE
  let s := s.set F.RAS_SECTOR_STATE (w - bits w (4 * n) 4 * 2 ^ (4 * n) + v * 2 ^ (4 * n))
  postRas s 0x2D 0xA0 (n + v * 16)

/-- Entry `i` of XB_HOME_MAP. -/
def homeEntry (s : State) (i : Nat) : Nat :=
  match i with
  | 0 => s.get F.XB_HOME_MAP_ENTRY0 | 1 => s.get F.XB_HOME_MAP_ENTRY1
  | 2 => s.get F.XB_HOME_MAP_ENTRY2 | _ => s.get F.XB_HOME_MAP_ENTRY3

/-- Change entry `i` of XB_HOME_MAP (R25). -/
def setHomeEntry (s : State) (i v : Nat) : State :=
  match i with
  | 0 => s.set F.XB_HOME_MAP_ENTRY0 v | 1 => s.set F.XB_HOME_MAP_ENTRY1 v
  | 2 => s.set F.XB_HOME_MAP_ENTRY2 v | _ => s.set F.XB_HOME_MAP_ENTRY3 v

/-- The home sector of a pool page, with the moved map of R570 while its sector is evacuating or returning. -/
def homeOf (s : State) (page : Nat) : Nat :=
  let i := homeIndex page
  let st := sectorState s i
  let m := s.comp.moved.contains page
  if st = 1 then (if m then s.get F.RAS_SECTOR_TARGET else i)
  else if st = 5 then (if m then i else s.get F.RAS_SECTOR_TARGET)
  else homeEntry s i

/-! ### Pages, granules and frames -/

/-- The entry of an allocated page. -/
def State.page? (s : State) (p : Nat) : Option Page := tabGet? p s.store.pages

/-- Store the entry of a page. -/
def State.putPage (s : State) (p : Nat) (e : Page) : State :=
  { s with store := { s.store with pages := tabPut p e s.store.pages } }

/-- The granule entries of a location that has any. -/
def Loc.granules : Loc → List Granule
  | .far g => g
  | .migrating x => x.granules
  | _ => []

/-- The near frame of a location, if it holds one. -/
def Loc.frame? : Loc → Option Nat
  | .near f => some f
  | .migrating x => x.frame
  | _ => none

/-- Does the page hold no slot of the swap area? -/
def Loc.resident : Loc → Bool
  | .swapped _ => false
  | _ => true

/-- A far page of 32 zero granules (R41). -/
def zeroFar : List Granule := List.replicate 32 {}

/-- The pages homed in a sector. -/
def sectorPages (s : State) (n : Nat) : List (Nat × Page) := s.store.pages.filter fun e => homeOf s e.1 = n

/-- The granules of a page, those of a split page's far small pages among them. -/
def Page.granules (e : Page) : List Granule :=
  match e.split with
  | none => e.loc.granules
  | some v => v.filterMap fun x => match x with | .far g => some g | _ => none

/-- The near frames of a page. -/
def Page.frames (e : Page) : List Nat :=
  match e.split with
  | none => e.loc.frame?.toList
  | some v => (v.filterMap fun x => match x with | .near f _ => some f | _ => none).eraseDups

/-- Near frames of a sector in use. -/
def nearUsed (s : State) (n : Nat) : List Nat := (sectorPages s n).flatMap fun e => e.2.frames

/-- Near frames that a sector leaves to pool pages with a log of `gib` GiB in force: 49,152 less the reservations of R45 (metadata, directory,
queue contexts, launch frames, version records, ledger, spill segments and the log). -/
def poolFrames (gib : Nat) : Nat := Config.nearFrames - (1536 + 33 + 8 + 272 + 16 + 16 + 256 + gib * 128)

/-- POOL_FRAMES of every sector follows the log size in force (R45, R463). -/
def setPoolFrames (s : State) : State :=
  (List.range 4).foldl (fun u n => u.set (F.TIER_S_NEAR_STATUS_POOL_FRAMES n) (poolFrames s.log.gib)) s

/-- Free near frames of a sector: TIER_Sn_NEAR_STATUS.FREE_FRAMES. -/
def freeNear (s : State) (n : Nat) : Nat :=
  s.get (F.TIER_S_NEAR_STATUS_POOL_FRAMES n) - (nearUsed s n).length - tabGet 0 n s.store.extra

/-- Near frames held by PIN_NEAR pages of a sector. -/
def pinned (s : State) (n : Nat) : Nat :=
  ((sectorPages s n).filter fun e => e.2.pinNear).length

/-- 4 KiB frames of a channel. -/
def channelFrames (s : State) (d : Nat) : Nat := s.get (F.DDR_D_STATUS_CAPACITY_GIB d) * Config.framesPerGib

/-- State of a channel (R72). -/
def channelState (s : State) (d : Nat) : Nat := s.get (F.DDR_D_STATUS_STATE d)

/-- The granules that lie on a channel: page, granule number and entry. -/
def channelGranules (s : State) (d : Nat) : List (Nat × Granule) :=
  (sectorPages s (d / 8)).flatMap fun e =>
    (e.2.granules.filter fun g => g.frames != 0 && g.channel = d % 8).map fun g => (e.1, g)

/-- Frames in use on a channel. -/
def channelUsed (s : State) (d : Nat) : Nat := ((channelGranules s d).map fun g => g.2.frames).sum

/-- The channels of a sector in a state. -/
def channelsIn (s : State) (n st : Nat) : List Nat :=
  (span (8 * n) 8).filter fun d => channelState s d = st

/-- Free far frames of a sector: TIER_Sn_FAR_STATUS.FREE_FRAMES. -/
def freeFar (s : State) (n : Nat) : Nat :=
  ((channelsIn s n 3).map fun d => channelFrames s d - channelUsed s d).sum

/-- The pages a sector admits (R42). -/
def sectorLimit (s : State) (n : Nat) : Nat :=
  s.get (F.TIER_S_NEAR_STATUS_POOL_FRAMES n) +
    ((channelsIn s n 3).map fun d => channelFrames s d).sum / 512 * s.get (F.TIER_S_FAR_CFG_OVERCOMMIT n) / 16

/-- Allocated resident pages of a sector. -/
def residentPages (s : State) (n : Nat) : Nat :=
  ((sectorPages s n).filter fun e => e.2.loc.resident).length

/-- Is a recovery of the domain under way (R561)? -/
def recovering (s : State) (ty : DomType) (inst : Nat) : Bool := s.comp.recoveries.any fun r => r.ty = ty && r.inst = inst

/-- May a near frame be placed on the stack that holds it: the stack SERVING and not in recovery (R70, R77, R560)? -/
def stackTakes (s : State) (n f : Nat) : Bool :=
  s.get (F.HBM_H_STATUS_STATE (2 * n + f % 2)) == 3 && !recovering s .stack (2 * n + f % 2)

/-- The first frame from `f` on, of at most `fuel` looked at, that is free and lies on a stack that takes frames. -/
def scanFrame (s : State) (n lo : Nat) (used : List Nat) : Nat → Nat → Option Nat
  | 0, _ => none
  | fuel + 1, f =>
    let f := if f < lo ∨ Config.nearFrames ≤ f then lo else f
    if !used.contains f && stackTakes s n f then some f else scanFrame s n lo used fuel (f + 1)

/-- A free near frame of a sector, the device's choice (R45, R77): none when no frame is free. -/
def takeFrame (s : State) (n : Nat) : Option Nat × State :=
  if freeNear s n = 0 then (none, s)
  else
    let pool := s.get (F.TIER_S_NEAR_STATUS_POOL_FRAMES n)
    let lo := Config.nearFrames - pool
    let (k, s) := s.takeFree
    (scanFrame s n lo (nearUsed s n) pool (lo + k % max pool 1), s)

/-- The starts of the free runs of at least `len` frames on a channel. -/
def freeRuns (s : State) (d len : Nat) : List Nat :=
  let used := (channelGranules s d).map fun g => (g.2.frame, g.2.frames)
  let starts := 0 :: used.map fun u => u.1 + u.2
  starts.filter fun a => decide (a + len ≤ channelFrames s d) &&
    used.all fun u => decide (u.1 + u.2 ≤ a ∨ a + len ≤ u.1)

/-- Place a granule of `len` frames of page `p` (R35): position (g + p) mod N among the SERVING channels with room, at a
free run of the device's choice. -/
def placeGranule (s : State) (n p g len : Nat) : Option Granule × State :=
  let cs := (channelsIn s n 3).filter fun d => !(freeRuns s d len).isEmpty
  match cs[(g + p) % max cs.length 1]? with
  | none => (none, s)
  | some d =>
    let rs := freeRuns s d len
    let (k, s) := s.takeFree
    (some { frames := len, channel := d % 8, frame := rs.getD (k % max rs.length 1) 0 }, s)

/-- The frames a granule takes when it is written to the far tier: 16 uncompressed (spec/02, "Compression and promotion on
touch"). -/
def granuleFrames (s : State) (e : Page) : Nat × State :=
  if e.neverCompress then (16, s)
  else
    let c := Config.compressed s.free
    (if c < 15 then c + 1 else 16, { s with free := s.free + 1 })

/-- The granule entry of a page and granule number. -/
def granuleOf (e : Page) (g : Nat) : Granule :=
  match e.split with
  | none => e.loc.granules.getD g {}
  | some v => match v.getD g (.near 0 0) with | .far x => x | _ => {}

/-- Does granule `g` of a page lie in the near tier now? -/
def granuleNear (e : Page) (g : Nat) : Bool :=
  match e.split with
  | some v => match v.getD g (.near 0 0) with | .near _ _ => true | _ => false
  | none =>
    match e.loc with
    | .near _ => true
    | .migrating x => if x.kind = .demote then !x.arrived.contains g else x.arrived.contains g
    | _ => false

/-- Put back a granule entry of a page. -/
def setGranule (e : Page) (g : Nat) (x : Granule) : Page :=
  match e.split with
  | some v => { e with split := some (listSet v g (.far x)) }
  | none =>
    match e.loc with
    | .far l => { e with loc := .far (listSet l g x) }
    | .migrating m => { e with loc := .migrating { m with granules := listSet m.granules g x } }
    | _ => e

/-! ### Poison -/

/-- Is a line poisoned: its own mark, or that of its far granule (R68)? -/
def linePoisoned (s : State) (line : Nat) : Bool :=
  s.store.poison.contains line ||
    match s.page? (line / 32768) with
    | none => false
    | some e => !granuleNear e (line / 1024 % 32) && (granuleOf e (line / 1024 % 32)).poison

/-- The channel or stack a line lies on, as the DETAIL of a POISON record gives it (R107). -/
def lineUnit (s : State) (line : Nat) : Nat :=
  let p := line / 32768
  let n := homeOf s p
  match s.page? p with
  | none => 2 * n
  | some e =>
    if granuleNear e (line / 1024 % 32) then 2 * n + (e.frames.getD 0 0) % 2
    else 8 * n + (granuleOf e (line / 1024 % 32)).channel + 256

/-- Mark the data of a line that cannot be corrected as poisoned, with its fault record (R68). -/
def poisonLine (s : State) (line : Nat) : State :=
  let p := line / 32768
  let g := line / 1024 % 32
  let u := lineUnit s line
  let s := match s.page? p with
    | none => s
    | some e =>
      if granuleNear e g then { s with store := { s.store with poison := setAdd line s.store.poison } }
      else s.putPage p (setGranule e g { granuleOf e g with poison := true })
  postFault s { kind := 6, source := 0x1C + homeOf s p, pool := true, addr := line * 64, detail := u }

/-- Mark a line poisoned without a record: the destination of a copy that read poison (R161). -/
def spoilLine (s : State) (line : Nat) : State :=
  { s with store := { s.store with poison := setAdd line s.store.poison } }

/-- The lines that `n` bytes from `a` touch. -/
def linesOf (a n : Nat) : List Nat := if n = 0 then [] else span (a / 64) ((a + n - 1) / 64 - a / 64 + 1)

/-- Does the range cover the line whole? -/
def covers (a n line : Nat) : Bool := decide (a ≤ line * 64) && decide (line * 64 + 64 ≤ a + n)

/-- Place the staged lines of a far granule once all 1,024 are written, clearing POISON (R158). -/
def finishStage (s : State) (gr : Nat) : State :=
  let st := tabGet [] gr s.store.stage
  if st.length < 1024 then s
  else
    let s := st.foldl (fun s e => s.putBytes (e.1 * 64) e.2) s
    let s := { s with store := { s.store with stage := tabDel gr s.store.stage } }
    match s.page? (gr / 32) with
    | none => s
    | some e =>
      let x := granuleOf e (gr % 32)
      let (g, s) := if x.frames = 0 then placeGranule s (homeOf s (gr / 32)) (gr / 32) (gr % 32) 16 else (some x, s)
      s.putPage (gr / 32) (setGranule e (gr % 32) { g.getD x with poison := false })

/-- Write one whole or partial line's bytes at the home, where no poison forbids it: the bytes of a poisoned far granule
are staged (R158); a whole line clears the poison of a near line (R157) and leaves the lost-line table (R201). -/
def writeLine (s : State) (line a : Nat) (data : List Byte) : State :=
  let p := line / 32768
  let g := line / 1024 % 32
  let whole := a = line * 64 ∧ data.length = 64
  match s.page? p with
  | none => s.putBytes a data
  | some e =>
    if !granuleNear e g && (granuleOf e g).poison then
      let gr := line / 1024
      let st := tabPut line data (tabGet [] gr s.store.stage)
      finishStage { s with store := { s.store with stage := tabPut gr st s.store.stage } } gr
    else
      let s := s.putBytes a data
      let s := if whole then
          { s with store := { s.store with poison := setDel line s.store.poison },
                   dir := { s.dir with lost := setDel line s.dir.lost } }
        else s
      if !granuleNear e g && (granuleOf e g).frames < 16 then
        { s with store := { s.store with dirty := setAdd line s.store.dirty } }
      else s

/-- Write a range at the home, line by line (R157). -/
def writeRange (s : State) (a : Nat) (data : List Byte) : State :=
  (linesOf a data.length).foldl (fun s l =>
    let lo := max a (l * 64)
    let hi := min (a + data.length) (l * 64 + 64)
    writeLine s l lo ((data.drop (lo - a)).take (hi - lo))) s

/-- Raise the access counters of the pages that the lines lie in, one a line, to at most 65,535 (R51). -/
def countLines (s : State) (ls : List Nat) : State :=
  ls.foldl (fun s l =>
    { s with store := { s.store with
        pages := tabMod (l / 32768) (fun e => { e with count := min (e.count + 1) 65535 }) s.store.pages } }) s

/-! ### Segments (R84, R89) -/

/-- What an access needs of a segment. -/
inductive Right where
  | rd | rdwr | wr | atm | ex
deriving DecidableEq, Repr

/-- Does the segment give the right? -/
def segGives (g : Seg) : Right → Bool
  | .rd => g.rd
  | .rdwr => g.rd && g.wr
  | .wr => g.wr
  | .atm => g.rd && g.wr && g.atm
  | .ex => g.rd && g.ex

/-- The valid segment of a context that holds the whole range, with its number (R84). -/
def segFor (s : State) (c va len : Nat) : Option (Nat × Seg) :=
  (span (c * 16) 16).findSome? fun k =>
    match tabGet? k s.xlt.segs with
    | some g => if g.vaBase ≤ va ∧ va + len ≤ g.vaBase + g.len * 65536 then some (k - c * 16, g) else none
    | none => none

/-- Where a range of context virtual addresses leads: a code, a pool address of this device through a segment, or a fabric
address of another device under its context there. -/
inductive Where where
  | code (c : Code)
  | here (pa seg : Nat)
  | away (fa rctx seg : Nat)
deriving DecidableEq, Repr

/-- The segment step (orders 2 to 5 of R89; R21). -/
def translate (s : State) (c va len : Nat) (r : Right) : Where :=
  if !ctxValid s c then .code .denied
  else if s.xlt.corrupt.contains (.ctx c) then .code .cpair
  else
    match segFor s c va len with
    | none => .code .denied
    | some (k, g) =>
      if s.xlt.corrupt.contains (.seg c k) then .code .cpair
      else if !segGives g r then .code .denied
      else
        let fa := g.fabric + (va - g.vaBase)
        if fa / 2 ^ 47 = s.get F.CMP_NODE_NODE_ID then .here (fa % 2 ^ 47) k else .away fa g.remoteCtx k

/-- Restore the context and segment entries of a context that failed their check, with a fault record for each (R13,
R576). -/
def restoreCtx (s : State) (c source : Nat) : State :=
  let bad := s.xlt.corrupt.filter fun x => match x with | .ctx d => d = c | .seg d _ => d = c | _ => false
  let s := bad.foldl (fun s x =>
    postCpair s source c (match x with | .ctx _ => 0x80000001 | _ => 0x80000002)) s
  { s with xlt := { s.xlt with corrupt := s.xlt.corrupt.filter fun x => !bad.contains x } }

/-! ### The location step and page faults -/

/-- Is a pool address inside the doorbell or the handoff window (R220, R451)? -/
def inWindow (pa : Nat) : Bool := decide (Config.handoffBase ≤ pa)

/-- The kinds of access that an UNALLOCATED record names (R107). -/
inductive AccKind where
  | read | write | atomic | fetch
deriving DecidableEq, Repr

/-- Number of an access kind. -/
def AccKind.num : AccKind → Nat
  | .read => 0 | .write => 1 | .atomic => 2 | .fetch => 3

/-- What the location step finds (spec/03, "Page faults and the fault queue"; R58, R59): usable, a page fault of a kind
with its DETAIL, a granule that is being copied now, or an address no page can have (R725). -/
inductive Located where
  | ok
  | fault (kind detail : Nat)
  | copying
  | denied
deriving DecidableEq, Repr

/-- The location step for one granule of the pool (64 KiB). -/
def locate (s : State) (gr : Nat) (a : AccKind) : Located :=
  if inWindow (gr * 65536) then .denied
  else
    match s.page? (gr / 32) with
    | none => .fault 1 a.num
    | some e =>
      match e.split with
      | some v => match v.getD (gr % 32) (.near 0 0) with | .swapped k => .fault 3 k | _ => .ok
      | none =>
        match e.loc with
        | .swapped k => .fault 3 k
        | .migrating x => if x.copying = some (gr % 32) then .copying else .ok
        | _ => .ok

/-- The granules that a range touches. -/
def granulesOf (a n : Nat) : List Nat := if n = 0 then [] else span (a / 65536) ((a + n - 1) / 65536 - a / 65536 + 1)

/-- The first granule of the range that cannot be used now, with what the location step found. -/
def locateRange (s : State) (a n : Nat) (k : AccKind) : Option (Nat × Located) :=
  (granulesOf a n).findSome? fun g => match locate s g k with | .ok => none | x => some (g, x)

/-- Tasks on waiter lists (R110). -/
def waiterCount (s : State) : Nat :=
  ((s.xlt.queue ++ s.xlt.service).map fun r => r.waiters.length).sum

/-- Is there an unresolved record of a page fault on this page, in the queue or consumed (R109)? -/
def hasFault (s : State) (p : Nat) : Bool := (s.xlt.queue ++ s.xlt.service).any fun r => r.page = some p

/-- Add a waiter to the record of a page. -/
def joinFault (s : State) (p : Nat) (w : Waiter) : State :=
  let f := fun r : FaultRec => if r.page = some p then { r with waiters := r.waiters ++ [w] } else r
  { s with xlt := { s.xlt with queue := s.xlt.queue.map f, service := s.xlt.service.map f } }

/-- A page fault (R105, R109, R110, R115): the waiter joins the record of its page, a new record is posted, or the waiter's
context is stalled in place. -/
def pageFault (s : State) (p kind detail addr : Nat) (pool : Bool) (source : Nat) (w : Waiter) : State :=
  let r : FaultRec := { kind := kind, source := source, ctx := w.ctx, domain := ctxDomain s w.ctx, pool := pool,
                        addr := addr, detail := detail, page := some p }
  let s := telem s (ctxDomain s w.ctx) fun x => { x with faults := (x.faults + 1) % 2 ^ 32 }
  let stall := fun (s : State) (l : Late) =>
    ({ s with xlt := { s.xlt with late := s.xlt.late ++ [l] } }).bump F.XLT_FQ_OVERFLOW_STALLS
  if waiterCount s ≥ Config.waiterMax then stall s (.noRoom p r w)
  else if hasFault s p then (joinFault s p w).bump F.XLT_FQ_COALESCED_COUNT
  else if s.xlt.queue.length < Config.fqEntries && s.xlt.late.isEmpty then
    let (r, s) := stampFault s r
    enqueueFault s { r with waiters := [w] }
  else stall s (.stalled r w)

/-- Is a context stalled in place at a unit (R115)? -/
def stalledAt (s : State) (unit c : Nat) : Bool :=
  s.xlt.late.any fun l => match l with
    | .record _ => false
    | .stalled _ w => w.unit = unit && w.ctx = c
    | .noRoom _ _ w => w.unit = unit && w.ctx = c

/-- Is a context throttled (R114)? -/
def throttled (s : State) (c : Nat) : Bool :=
  s.flag F.XLT_FQ_STATUS_SQUALL && c != 0 &&
    decide (s.get F.XLT_CTRL_SQUALL_SHARE ≤ (s.xlt.queue.filter fun r => r.ctx = c).length)

/-- The home's domain check (R90). -/
def domainOk (s : State) (c page : Nat) : Bool :=
  c == 0 || match s.page? page with | some e => e.domain = ctxDomain s c | none => true

/-- The pages that a range touches. -/
def pagesOf (a n : Nat) : List Nat := if n = 0 then [] else span (a / 2097152) ((a + n - 1) / 2097152 - a / 2097152 + 1)

/-! ### Translation look-aside buffers (R95, R96) -/

/-- The span a unit makes for a granule: the largest that the migration map allows (R95). -/
def spanFor (s : State) (gr : Nat) : Option TlbSpan :=
  let p := gr / 32
  let nearOf := fun q => match s.page? q with
    | some e => if e.split.isNone then (match e.loc with | .near f => some (e.domain, f) | _ => none) else none
    | none => none
  match s.page? p with
  | none => none
  | some e =>
    if s.store.huge.contains (p / 512 * 4 + homeOf s p) then some (.region (p / 512) (homeOf s p))
    else
      let q := p / 16 * 16
      let run := span q 16
      let okDom := run.all fun x => (nearOf x).map (·.1) = some e.domain
      let okFr := (List.range 4).all fun n =>
        let mine := (run.filter fun x => homeOf s x = n).filterMap fun x => (nearOf x).map (·.2)
        mine = span (mine.getD 0 0) 4
      if okDom && okFr then some (.run q)
      else if e.split.isSome then some (.small p (gr % 32))
      else match e.loc with
        | .near _ => some (.page p)
        | .far _ => some (.page p)
        | _ => none

/-- Does the span cover the page? -/
def TlbSpan.covers : TlbSpan → Nat → Bool
  | .page q, p => q = p
  | .small q _, p => q = p
  | .run q, p => decide (q ≤ p) && decide (p < q + 16)
  | .region r _, p => p / 512 = r

/-- Does the span cover the granule, for a look-up? -/
def TlbSpan.hits (s : State) : TlbSpan → Nat → Bool
  | .page q, g => q = g / 32
  | .small q h, g => q = g / 32 && h = g % 32
  | .run q, g => decide (q ≤ g / 32) && decide (g / 32 < q + 16)
  | .region r n, g => g / 32 / 512 = r && homeOf s (g / 32) = n

/-- MISSES of a unit's TLB register; units 0 to 5 are the ports, 6 to 9 the sectors. -/
def tlbMiss (s : State) (u : Nat) : State :=
  if u < 6 then s.bump (F.XLT_K_TLB_MISSES u) else s.bump (F.XLT_S_TLB_MISSES (u - 6))

/-- SEG_MISSES of a unit's TLB register. -/
def segMiss (s : State) (u : Nat) : State :=
  if u < 6 then s.bump (F.XLT_K_TLB_SEG_MISSES u) else s.bump (F.XLT_S_TLB_SEG_MISSES (u - 6))

/-- Keep at most `n` of a list, dropping an element of the device's choice when it is longer by one. -/
def evictOne {α : Type} (s : State) (l : List α) (n : Nat) : List α × State :=
  if l.length ≤ n then (l, s)
  else
    let (k, s) := s.takeFree
    (l.eraseIdx (1 + k % n), s)

/-- A look-up of a granule in a unit's page TLB, which fills it on a miss. -/
def tlbLook (s : State) (u gr : Nat) : State :=
  let l := tabGet [] u s.xlt.tlb
  if l.any fun x => TlbSpan.hits s x gr then s
  else
    let s := tlbMiss s u
    match spanFor s gr with
    | none => s
    | some x =>
      let (l, s) := evictOne s (x :: l) (if u < 6 then 4096 else 16384)
      { s with xlt := { s.xlt with tlb := tabPut u l s.xlt.tlb } }

/-- A look-up of a context's segment in a unit's segment cache. -/
def segLook (s : State) (u c seg : Nat) : State :=
  let l := tabGet [] u s.xlt.segCache
  if l.contains (c * 16 + seg) then s
  else
    let s := segMiss s u
    let (l, s) := evictOne s ((c * 16 + seg) :: l) (if u < 6 then 16384 else 65536)
    { s with xlt := { s.xlt with segCache := tabPut u l s.xlt.segCache } }

/-- Drop every page TLB entry that covers one of the pages (the internal invalidation of spec/03, "Range invalidation"). -/
def dropTlb (s : State) (ps : List Nat) : State :=
  { s with xlt := { s.xlt with tlb := s.xlt.tlb.map fun e => (e.1, e.2.filter fun x => !ps.any fun p => x.covers p) } }

/-- Drop a segment from every segment cache. -/
def dropSeg (s : State) (k : Nat) : State :=
  { s with xlt := { s.xlt with segCache := s.xlt.segCache.map fun e => (e.1, e.2.filter fun x => x != k) } }

end Sys2Proof.Machine
end

