-- ==== Sys2Proof/Machine/Domains.lean ====
section
/-! DEFINITION. Fault domains and how their faults are recorded (R30 to R32, R557 to R563). -/

namespace Sys2Proof.Machine

open Sys2Proof

/-- TYPE of a domain (R558). -/
def domNum : DomType → Nat
  | .channel => 0 | .stack => 1 | .link => 2 | .port => 3 | .tile => 4 | .engine => 5 | .sector => 6

/-- DETAIL of a domain (R558). -/
def domDetail (ty : DomType) (inst cause : Nat) : Nat := domNum ty + inst * 16 + cause * 4096

/-- The larger domain that contains a domain, if one does (R30). -/
def domAbove (ty : DomType) (inst : Nat) : Option (DomType × Nat) :=
  match ty with
  | .channel => some (.sector, inst / 8)
  | .stack => some (.sector, inst / 2)
  | .link => some (.port, inst / 6)
  | .tile => some (.sector, inst / 16)
  | .engine => some (.sector, if inst < 8 then inst / 2 else inst % 4)
  | .port | .sector => none

/-- Is the number an instance of the domain type (R30, R558)? -/
def domExists (ty : DomType) (inst : Nat) : Bool :=
  decide (inst < match ty with
    | .channel => 32 | .stack => 8 | .link => 36 | .port => 6 | .tile => 64 | .engine => 24 | .sector => 4)

/-- End a domain's recovery without a word. -/
def dropRecovery (s : State) (ty : DomType) (inst : Nat) : State :=
  { s with comp := { s.comp with recoveries := s.comp.recoveries.filter fun r => !(r.ty = ty && r.inst = inst) } }

/-- DOMAIN_RECOVERED (R557, R560). -/
def recovered (s : State) (ty : DomType) (inst : Nat) : State :=
  let c := ((s.comp.recoveries.find? fun r => r.ty = ty && r.inst = inst).map (·.cause)).getD 0
  (postRas (dropRecovery s ty inst) 0x21 0xA0 (domDetail ty inst c)).bumpSat F.RAS_COUNTS_RECOVERED

/-- DOMAIN_RETIRED (R557, R560, R562). -/
def retired (s : State) (ty : DomType) (inst : Nat) (second : Bool) : State :=
  let c := ((s.comp.recoveries.find? fun r => r.ty = ty && r.inst = inst).map (·.cause)).getD 0
  let s := dropRecovery s ty inst
  let s := { s with comp := { s.comp with retired := s.comp.retired.filter (fun x => x != (ty, inst)) ++ [(ty, inst)] } }
  let s := (postRas s 0x22 0xA0 (domDetail ty inst c + second.toNat * 65536)).bumpSat F.RAS_COUNTS_RETIRED
  if second then s.bumpSat F.RAS_COUNTS_SECOND else s

/-- How a fault of a domain counts. -/
inductive FaultAs where
  /-- it starts the domain's recovery (R560) -/
  | first
  /-- it is the second fault, which retires the instance (R562) -/
  | second
  /-- it joins the recovery of a larger domain (R32, R563), or the domain is retired already -/
  | joined
deriving DecidableEq, Repr

/-- Record a fault of a domain (R560 to R563). -/
def noteFault (s : State) (ty : DomType) (inst cause : Nat) : FaultAs × State :=
  let above := match domAbove ty inst with | some x => recovering s x.1 x.2 | none => false
  if above || s.comp.retired.contains (ty, inst) then (.joined, s)
  else if recovering s ty inst then (.second, retired s ty inst true)
  else
    let own := fun r : Recovery => domAbove r.ty r.inst != some (ty, inst)
    let s := { s with comp := { s.comp with
      recoveries := s.comp.recoveries.filter own ++ [{ ty := ty, inst := inst, cause := cause, since := s.now }] } }
    (.first, (postRas s 0x20 0xA0 (domDetail ty inst cause)).bumpSat F.RAS_COUNTS_FAULTS)

end Sys2Proof.Machine
end

