-- ==== Sys2Proof/Machine/Floats.lean ====
section
/-! DEFINITION. Exact binary floating point: a value is a sign, a whole number and a power of two, and a result is rounded
once, to nearest even, into a format with subnormals (R129, R259). -/

namespace Sys2Proof.Machine

open Sys2Proof

/-- A format: exponent bits, fraction bits and bias. -/
structure Fmt where
  eb : Nat
  mb : Nat
  bias : Nat
deriving DecidableEq, Repr

def fmt16 : Fmt := ⟨5, 10, 15⟩
def fmtBf16 : Fmt := ⟨8, 7, 127⟩
def fmt32 : Fmt := ⟨8, 23, 127⟩
def fmt64 : Fmt := ⟨11, 52, 1023⟩

/-- A floating-point value; a finite one is (−1)^neg × m × 2^e. -/
inductive Fl where
  | nan
  | inf (neg : Bool)
  | fin (neg : Bool) (m : Nat) (e : Int)
deriving DecidableEq, Repr

/-- The value of a bit pattern. -/
def Fmt.value (f : Fmt) (w : Nat) : Fl :=
  let m := w % 2 ^ f.mb
  let e := w / 2 ^ f.mb % 2 ^ f.eb
  let neg := w / 2 ^ (f.mb + f.eb) % 2 = 1
  if e = 2 ^ f.eb - 1 then (if m = 0 then .inf neg else .nan)
  else if e = 0 then .fin neg m (1 - (f.bias : Int) - f.mb)
  else .fin neg (m + 2 ^ f.mb) ((e : Int) - f.bias - f.mb)

/-- The canonical quiet NaN of a format. -/
def Fmt.qnan (f : Fmt) : Nat := (2 ^ f.eb - 1) * 2 ^ f.mb + 2 ^ (f.mb - 1)

/-- Infinity of a format. -/
def Fmt.infBits (f : Fmt) (neg : Bool) : Nat := (2 ^ f.eb - 1) * 2 ^ f.mb + neg.toNat * 2 ^ (f.mb + f.eb)

/-- Divide by a power of two, rounding to nearest even. -/
def shiftRne (m k : Nat) : Nat :=
  let q := m / 2 ^ k
  let r := m % 2 ^ k
  if 2 * r > 2 ^ k ∨ (2 * r = 2 ^ k ∧ q % 2 = 1) then q + 1 else q

/-- The bit pattern of a value, rounded to nearest even; a value too large becomes infinity. -/
def Fmt.round (f : Fmt) : Fl → Nat
  | .nan => f.qnan
  | .inf neg => f.infBits neg
  | .fin neg m e =>
    let s := neg.toNat * 2 ^ (f.mb + f.eb)
    if m = 0 then s
    else
      let lo : Int := 1 - (f.bias : Int) - f.mb
      let q : Int := max ((m.log2 : Int) + e - f.mb) lo
      let k := if e ≥ q then m * 2 ^ (e - q).toNat else shiftRne m (q - e).toNat
      let v := (q - lo).toNat * 2 ^ f.mb + k
      if v ≥ (2 ^ f.eb - 1) * 2 ^ f.mb then f.infBits neg else s + v

/-- The signed whole number of a finite value at exponent `e`, which is at most its own. -/
def Fl.scaled (neg : Bool) (m : Nat) (x e : Int) : Int :=
  let v : Int := m * 2 ^ (x - e).toNat
  if neg then -v else v

/-- Exact sum. -/
def Fl.add : Fl → Fl → Fl
  | .nan, _ => .nan
  | _, .nan => .nan
  | .inf a, .inf b => if a = b then .inf a else .nan
  | .inf a, _ => .inf a
  | _, .inf b => .inf b
  | .fin a m x, .fin b n y =>
    let e := min x y
    let v := Fl.scaled a m x e + Fl.scaled b n y e
    if v = 0 then .fin (a && b) 0 e else .fin (decide (v < 0)) v.natAbs e

/-- Exact product. -/
def Fl.mul : Fl → Fl → Fl
  | .nan, _ => .nan
  | _, .nan => .nan
  | .inf a, .inf b => .inf (a != b)
  | .inf a, .fin b n _ => if n = 0 then .nan else .inf (a != b)
  | .fin a m _, .inf b => if m = 0 then .nan else .inf (a != b)
  | .fin a m x, .fin b n y => .fin (a != b) (m * n) (x + y)

/-- The opposite value. -/
def Fl.neg : Fl → Fl
  | .nan => .nan
  | .inf a => .inf (!a)
  | .fin a m x => .fin (!a) m x

/-- Is the first value less than the second, −0 equal to +0? False when either is NaN. -/
def Fl.lt : Fl → Fl → Bool
  | .nan, _ => false
  | _, .nan => false
  | .inf a, .inf b => a && !b
  | .inf a, .fin _ _ _ => a
  | .fin _ _ _, .inf b => !b
  | .fin a m x, .fin b n y => decide (Fl.scaled a m x (min x y) < Fl.scaled b n y (min x y))

/-- Is the value zero, of either sign? -/
def Fl.isZero : Fl → Bool
  | .fin _ m _ => m == 0
  | _ => false

/-- Is the sign negative? -/
def Fl.sign : Fl → Bool
  | .nan => false
  | .inf a => a
  | .fin a _ _ => a

/-- Order with −0 below +0. -/
def Fl.ltz (a b : Fl) : Bool := a.lt b || (a.isZero && b.isZero && a.sign && !b.sign)

/-- Sum of two patterns of one format, rounded once (R129). -/
def Fmt.addBits (f : Fmt) (a b : Nat) : Nat := f.round ((f.value a).add (f.value b))

/-- Lesser of two patterns by the rule of R129: the other when one is a NaN, the canonical NaN when both are. -/
def Fmt.minBits (f : Fmt) (a b : Nat) : Nat :=
  match f.value a, f.value b with
  | .nan, .nan => f.qnan
  | .nan, _ => b
  | _, .nan => a
  | x, y => if y.ltz x then b else a

/-- Greater of two patterns by the rule of R129. -/
def Fmt.maxBits (f : Fmt) (a b : Nat) : Nat :=
  match f.value a, f.value b with
  | .nan, .nan => f.qnan
  | .nan, _ => b
  | _, .nan => a
  | x, y => if x.ltz y then b else a

end Sys2Proof.Machine
end

