-- ==== Sys2Proof/Machine/Coherence.lean ====
section
/-! DEFINITION. The directory slices (spec/05): entries, hold times, snoops, transactions, reservations, lost lines, and the
recall of a range for a requester inside the device. -/

namespace Sys2Proof.Machine

open Sys2Proof

/-- The home sector of a line. -/
def lineHome (s : State) (line : Nat) : Nat := homeOf s (line / 32768)

/-- The fabric address of a line of this device (R4). -/
def lineFabric (s : State) (line : Nat) : Nat := s.get F.CMP_NODE_NODE_ID * 2 ^ 47 + line * 64

/-- The directory entry of a line, if a partner holds it. -/
def dirEnt (s : State) (line : Nat) : Option DirE := tabGet? line s.dir.ents

/-- Store or remove a directory entry. -/
def putDir (s : State) (line : Nat) (e : Option DirE) : State :=
  { s with dir := { s.dir with ents := match e with | some x => tabPut line x s.dir.ents | none => tabDel line s.dir.ents } }

/-- ns of a grant's age, in the 16 ns units of GRANT_T (R164). -/
def grantAge (s : State) (e : DirE) : Nat := (s.now / 16 + 32768 - e.grantT) % 32768 * 16

/-- Is the owner's hold running (R167, R184)? -/
def holdRuns (s : State) (line : Nat) (e : DirE) : Bool :=
  e.held && decide (grantAge s e < s.get (F.DIR_S_CTRL_HOLD_NS (lineHome s line)))

/-- HOLD_LEFT of R174. -/
def holdLeft (s : State) (line : Nat) : Nat :=
  match dirEnt s line with
  | none => 0
  | some e => if e.st = .owned ∧ holdRuns s line e then
      ceilDiv (s.get (F.DIR_S_CTRL_HOLD_NS (lineHome s line)) - grantAge s e) 16 else 0

/-- The set of a line (R162). -/
def dirSet (line : Nat) : Nat := Nat.xor (line % 262144) (line / 262144 % 262144)

/-- The entries of a line's slice and set. -/
def setEnts (s : State) (line : Nat) : Tab DirE :=
  s.dir.ents.filter fun e => dirSet e.1 = dirSet line && lineHome s e.1 = lineHome s line

/-- Is a transaction on the line in progress (R177)? -/
def inTxn (s : State) (line : Nat) : Bool := s.dir.txns.any fun t => t.line = line

/-- The order of R193: what is preferred as a victim comes lower. -/
def victimRank (s : State) (e : DirE) : Nat :=
  (match e.st with | .shared => e.shr.length | .mask => 16 | .owned => 17) * 1048576 + (1048576 - grantAge s e)

/-- The victim of a full set (R193): none when no way qualifies. -/
def dirVictim (s : State) (line : Nat) : Option (Nat × DirE) :=
  let c := (setEnts s line).filter fun e => !inTxn s e.1 && !holdRuns s e.1 e.2
  c.foldl (fun b e => match b with
    | none => some e
    | some v => if victimRank s e.2 < victimRank s v.2 then some e else some v) none

/-- A look-up in a slice's directory cache (R167). -/
def dirLook (s : State) (line : Nat) : State :=
  let n := lineHome s line
  let l := tabGet [] n s.dir.cache
  if l.contains line then s.bump (F.DIR_S_CACHE_HITS n)
  else
    let (l, s) := evictOne (s.bump (F.DIR_S_CACHE_MISSES n)) (line :: l) 524288
    { s with dir := { s.dir with cache := tabPut n l s.dir.cache } }

/-! ### Snoops and transactions -/

/-- The lowest free snoop tag of a port (R182). -/
def freeStag (s : State) (p : Nat) : Option Nat :=
  let used := s.dir.txns.flatMap fun t => (t.snoops.filter fun x => x.port = p).map (·.stag)
  (List.range (used.length + 1)).find? fun t => !used.contains t && decide (t < 2048)

/-- Send the waiting snoops of a transaction that find a free tag. -/
def sendSnoops (s : State) (t : Txn) : Txn × State :=
  t.toSend.foldl (fun (t, s) (p, q, op, own) =>
    let s0 := { s with dir := { s.dir with txns := t :: s.dir.txns.filter fun u => u.line ≠ t.line } }
    match freeStag s0 p with
    | none => ({ t with toSend := t.toSend ++ [(p, q, op, own)] }, s)
    | some g =>
      let s := s.emit (.snoop p op g q (lineFabric s t.line))
      let s := if op = 0x38 then s else s.bump (F.DIR_S_RECALLS_TOTAL (lineHome s t.line))
      ({ t with snoops := t.snoops ++ [{ port := p, stag := g, partner := q, op := op, sent := s.now, owner := own }] }, s))
    ({ t with toSend := [] }, s)

/-- Keep a transaction. -/
def putTxn (s : State) (t : Txn) : State :=
  { s with dir := { s.dir with txns := s.dir.txns.map fun u => if u.line = t.line then t else u } }

/-- The partners that the map admits to the region of a page on a port (R178). -/
def admitted (s : State) (page p : Nat) : List Nat :=
  let m := s.comp.map
  ((m.grants.filter fun g => g.2.port = p && (g.2.rd || g.2.wr) &&
    match tabGet? g.2.region m.regions with
    | some r => decide (r.basePage ≤ page) && decide (page < r.basePage + r.pages)
    | none => false).map fun g => g.2.partner).eraseDups

/-- Whom a request must snoop on a line (R175, R178): `own` for exclusive access of (port, partner), else a write. -/
def snoopList (s : State) (line : Nat) (e : DirE) (op : Nat) (but : Option (Nat × Nat)) : List (Nat × Nat × Nat × Bool) :=
  match e.st with
  | .owned => e.shr.map fun x => (x.1, x.2, op, true)
  | .shared => (e.shr.filter fun x => some x ≠ but).map fun x => (x.1, x.2, 0x38, false)
  | .mask => (e.mask.flatMap fun p => (admitted s (line / 32768) p).map fun q => (p, q)).filterMap fun x =>
      if some x = but then none else some (x.1, x.2, 0x38, false)

/-- Start a transaction on a line (R177). -/
def startTxn (s : State) (line : Nat) (whom : List (Nat × Nat × Nat × Bool)) (what : TxnFor) (cap : Bool := false)
    (part : Option (List (Nat × Nat)) := none) : State :=
  let t : Txn := { line := line, snoops := [], toSend := whom, what := what, capacity := cap, part := part }
  let (t, s) := sendSnoops s t
  { s with dir := { s.dir with txns := s.dir.txns ++ [t] } }

/-- Free a way for a line whose set is full (R193). -/
def recallVictim (s : State) (v : Nat × DirE) (what : TxnFor) : State :=
  let s := startTxn s v.1 (snoopList s v.1 v.2 0x3A none) what true
  s.bump (F.DIR_S_RECALLS_CAPACITY (lineHome s v.1))

/-- The directory change of a committed transaction (R180): the holders that were snooped are gone, but for an owner that
kept the line in S; an entry in MASK stays as it is when only some partners were meant (R183). -/
def commitEnt (s : State) (t : Txn) : State :=
  match dirEnt s t.line, t.part with
  | none, _ => s
  | some e, some l =>
    if e.st = .mask then s
    else
      let left := e.shr.filter fun x => !l.contains x
      putDir s t.line (if left.isEmpty then none else some { e with shr := left })
  | some e, none => putDir s t.line (if t.kept then some { e with st := .shared, held := false } else none)

/-- Send what waits for snoop tags, after one was freed (R182). -/
def pumpSnoops (s : State) : State :=
  s.dir.txns.foldl (fun s t => if t.toSend.isEmpty then s else
    let (t, s) := sendSnoops s t
    putTxn s t) s

/-- Commit a transaction when every answer has arrived (R180): a modified copy home is written, the entry changes and the
transaction ends. -/
def commitTxn (s : State) (t : Txn) : State :=
  if !(t.snoops.isEmpty && t.toSend.isEmpty) then putTxn s t
  else
    let s := match t.data with | some d => writeLine s t.line (t.line * 64) d | none => s
    let s := commitEnt s t
    pumpSnoops { s with dir := { s.dir with txns := s.dir.txns.filter fun u => u.line ≠ t.line } }

/-! ### Grants (R166, R174, R175) -/

/-- Add a sharer to an entry (R166). -/
def addSharer (e : DirE) (x : Nat × Nat) : DirE :=
  match e.st with
  | .mask => { e with mask := setAdd x.1 e.mask }
  | _ =>
    if e.shr.contains x then { e with st := .shared, held := false }
    else if e.shr.length < 4 then { e with st := .shared, held := false, shr := e.shr ++ [x] }
    else { e with st := .mask, held := false, shr := [], mask := ((e.shr ++ [x]).map (·.1)).foldl (fun l p => setAdd p l) [] }

/-- Grant S on a line. -/
def grantS (s : State) (line : Nat) (x : Nat × Nat) : State :=
  let s := { s with comp := { s.comp with maskDone := s.comp.maskDone.filter fun y => y != (line, x.1, x.2) } }
  putDir s line (some (addSharer ((dirEnt s line).getD { st := .shared }) x))

/-- Grant E on a line: its hold begins (R184). -/
def grantE (s : State) (line : Nat) (x : Nat × Nat) : State :=
  putDir s line (some { st := .owned, shr := [x], held := true, grantT := s.now / 16 % 32768 })

/-- Count an ignored eviction or answer in a slice (R172, R175). -/
def stray (s : State) (line : Nat) : State := s.bumpSat (F.DIR_S_RETRY_STRAY (lineHome s line))

/-- Remove a sharer from a SHARED entry; the line is uncached when none remains. -/
def dropSharer (s : State) (line : Nat) (e : DirE) (x : Nat × Nat) : State :=
  let l := e.shr.filter (· ≠ x)
  putDir s line (if l.isEmpty then none else some { e with shr := l })

/-! ### Lost lines (R197 to R200) -/

/-- Lines of a slice's lost-line table. -/
def lostOf (s : State) (n : Nat) : List Nat := s.dir.lost.filter fun l => lineHome s l = n

/-- Enter a line in its slice's lost-line table, or poison its storage when the table is full (R200). -/
def enterLost (s : State) (line : Nat) : State :=
  let n := lineHome s line
  if (lostOf s n).length ≥ 16384 then (poisonLine s line).setFlag (F.DIR_S_STATUS_LOST_FULL n) true
  else { s with dir := { s.dir with lost := setAdd line s.dir.lost } }

/-- An owner did not answer its recall (R197, R199). -/
def ownerLost (s : State) (line port partner : Nat) : State :=
  let n := lineHome s line
  let s := putDir (enterLost s line) line none
  let s := s.bumpSat (F.DIR_S_TIMEOUTS_OWNER_LOST n)
  let s := (((s.set (F.DIR_S_LOST_ADDR_POOL_ADDR n) (line * 64)).setFlag (F.DIR_S_LOST_ADDR_VALID n) true).set
    (F.DIR_S_LOST_ADDR_PORT n) port).set (F.DIR_S_LOST_ADDR_PARTNER n) partner
  postRas s 0x26 (0x80 + n) (port * 256 + partner) (line * 64)

/-- Mark a partner unresponsive (R199). -/
def markUnresp (s : State) (n port partner : Nat) : State :=
  if s.flag (F.DIR_S_CTRL_FAST_UNRESP n) && !s.dir.unresp.contains (n, port, partner) then
    { s with dir := { s.dir with unresp := s.dir.unresp ++ [(n, port, partner)] } }
  else s

/-- A class-0 message from a partner ends its marks (R199). -/
def clearUnresp (s : State) (port partner : Nat) : State :=
  { s with dir := { s.dir with unresp := s.dir.unresp.filter fun x => !(x.2.1 = port && x.2.2 = partner) } }

/-! ### Access withdrawn from partners (R183) -/

/-- What a line's holders must give up when `left line p q` is what partner `q` on port `p` may still do on the line, read and write. -/
def cutSnoops (s : State) (line : Nat) (e : DirE) (left : Nat → Nat → Nat → Bool × Bool) : List (Nat × Nat × Nat × Bool) :=
  match e.st with
  | .owned => e.shr.filterMap fun x =>
      if !(left line x.1 x.2).1 then some (x.1, x.2, 0x3A, true)
      else if !(left line x.1 x.2).2 then some (x.1, x.2, 0x39, true) else none
  | .shared => (e.shr.filter fun x => !(left line x.1 x.2).1).map fun x => (x.1, x.2, 0x38, false)
  | .mask => (e.mask.flatMap fun p => (admitted s (line / 32768) p).map fun q => (p, q)).filterMap fun x =>
      if (left line x.1 x.2).1 || s.comp.maskDone.contains (line, x.1, x.2) then none else some (x.1, x.2, 0x38, false)

/-- Start what a withdrawal needs on a line, unless the line is in a transaction or its owner's hold runs. -/
def cutLine (left : Nat → Nat → Nat → Bool × Bool) (s : State) (x : Nat × DirE) : State :=
  let l := cutSnoops s x.1 x.2 left
  if l.isEmpty || inTxn s x.1 || (x.2.st = .owned && holdRuns s x.1 x.2) then s
  else
    let who := l.map fun y => (y.1, y.2.1)
    let done := if x.2.st = .mask then who.map fun y => (x.1, y.1, y.2) else []
    let s := { s with comp := { s.comp with maskDone := s.comp.maskDone ++ done } }
    startTxn s x.1 l .none false (if x.2.st = .owned then none else some who)

/-- Start what a withdrawal needs on every line. -/
def cutAll (s : State) (left : Nat → Nat → Nat → Bool × Bool) : State := s.dir.ents.foldl (cutLine left) s

/-- Is a withdrawal still under way? -/
def cutOpen (s : State) (left : Nat → Nat → Nat → Bool × Bool) : Bool :=
  (s.dir.ents.any fun e => !(cutSnoops s e.1 e.2 left).isEmpty) || s.dir.txns.any fun t => t.part.isSome

/-! ### Ranges recalled for a requester inside the device -/

/-- Start what a read (write = false) or a write of a device requester needs on a line (R175, R190): nothing when the line
is in a transaction or its owner's hold runs, since the requester then waits. -/
def recallLine (s : State) (line : Nat) (write : Bool) (what : TxnFor) : State :=
  match dirEnt s line with
  | none => s
  | some e =>
    if inTxn s line then s
    else if e.st = .owned then
      (if holdRuns s line e then s else startTxn s line (snoopList s line e (if write then 0x3A else 0x39) none) what)
    else if write then startTxn s line (snoopList s line e 0x38 none) what
    else s

/-- Must a device requester wait for the line? -/
def lineBlocks (s : State) (line : Nat) (write : Bool) : Bool :=
  inTxn s line || match dirEnt s line with
    | none => false
    | some e => write || e.st = .owned

/-- Lines of a range that the directory knows: only these can block a device requester. -/
def knownLines (s : State) (a n : Nat) : List Nat :=
  ((s.dir.ents.map (·.1)) ++ s.dir.txns.map (·.line)).eraseDups.filter fun l =>
    decide (a < l * 64 + 64) && decide (l * 64 < a + n)

/-- Recall a range for a device requester: true when nothing is left to wait for. -/
def recallRange (s : State) (a n : Nat) (write : Bool) (what : TxnFor) : Bool × State :=
  let ls := knownLines s a n
  let s := ls.foldl (fun s l => recallLine s l write what) s
  (!(ls.any fun l => lineBlocks s l write), s)

/-- RECALL_I or SNP_INV to every holder of every line of a range: for a free, a swap-out and a moving sector (R43, R118,
R570). -/
def evictRange (s : State) (a n : Nat) (what : TxnFor) : Bool × State := recallRange s a n true what

end Sys2Proof.Machine
end

