-- ==== Sys2Proof/Machine/Guest.lean ====
section
/-! DEFINITION. Guest lines of the sector caches and the memory model among the device's engines (R288 to R303, R306). -/

namespace Sys2Proof.Machine

open Sys2Proof

/-- Key of a guest line. -/
def guestKey (n line : Nat) : Nat := n * 2 ^ 41 + line

/-- The guest line of a sector. -/
def guest? (s : State) (n line : Nat) : Option Guest := tabGet? (guestKey n line) s.cache.guests

/-- Store a guest line. -/
def putGuest (s : State) (n line : Nat) (g : Guest) : State :=
  { s with cache := { s.cache with guests := tabPut (guestKey n line) g s.cache.guests } }

/-- Lines of a sector's guest copies. -/
def guestLines (s : State) (n : Nat) : List Nat :=
  (s.cache.guests.filter fun e => e.1 / 2 ^ 41 = n).map fun e => e.1 % 2 ^ 41

/-- Invalidate a guest line; a tracker entry without lines is free. -/
def dropGuest (s : State) (n line : Nat) : State :=
  let s := { s with cache := { s.cache with guests := tabDel (guestKey n line) s.cache.guests } }
  let rg := line / 1024
  if (guestLines s n).any fun l => l / 1024 = rg then s
  else
    let l := (tabGet [] n s.cache.track).filter fun e => e.1 ≠ rg
    { s with cache := { s.cache with track := tabPut n l s.cache.track } }

/-- The old bytes with the dirty ones laid over. -/
def mergeBytes (old new : List Byte) (mask : Nat) : List Byte :=
  (List.range 64).map fun i => if bits mask i 1 = 1 then new.getD i 0 else old.getD i 0

/-- Apply a write-back at the home (R292): only the dirty bytes are carried. A poisoned or lost line takes them only when they are
the whole line (R155, R157). -/
def applyBack (s : State) (n line : Nat) (gone : Bool) : State :=
  match guest? s n line with
  | none => s
  | some g =>
    let bad := (s.dir.lost.contains line || linePoisoned s line) && g.dirty != 2 ^ 64 - 1
    let s := if g.dirty = 0 ∨ bad ∨ (s.page? (line / 32768)).isNone then s
      else if g.dirty = 2 ^ 64 - 1 then writeLine s line (line * 64) g.data
      else s.putBytes (line * 64) (mergeBytes (s.bytes (line * 64) 64) g.data g.dirty)
    if gone then dropGuest s n line else putGuest s n line { g with dirty := 0 }

/-- Send the write-backs whose lines no partner holds, and recall the others (R175, R292). -/
def drainBacks (s : State) : State :=
  s.cache.wbs.foldl (fun s w =>
    if lineBlocks s w.line true then recallLine s w.line true .none
    else applyBack { s with cache := { s.cache with wbs := s.cache.wbs.filter fun x => x ≠ w } } w.sector w.line w.gone) s

/-- Write back lines of a sector's cache, keeping them clean or dropping them. -/
def writeBacks (s : State) (n : Nat) (ls : List Nat) (gone : Bool) : State :=
  let dirtyAt := fun l => match guest? s n l with | some g => g.dirty != 0 | none => false
  let d := ls.filter dirtyAt
  let new := d.map fun l => (⟨n, l, gone⟩ : WriteBack)
  let s := if gone then (ls.filter fun l => !dirtyAt l).foldl (fun s l => dropGuest s n l) s else s
  drainBacks { s with cache := { s.cache with wbs := s.cache.wbs ++ new.filter fun w => !s.cache.wbs.contains w } }

/-- Guest lines of a sector in a pool range. -/
def guestsIn (s : State) (n base len : Nat) : List Nat :=
  (guestLines s n).filter fun l => decide (base < l * 64 + 64) && decide (l * 64 < base + len)

/-- Dirty bytes among lines of a sector. -/
def dirtyBytes (s : State) (n : Nat) (ls : List Nat) : Nat :=
  (ls.map fun l => match guest? s n l with
    | some g => ((List.range 64).filter fun i => bits g.dirty i 1 = 1).length
    | none => 0).sum

/-- A flush of lines in one sector, with its count and its duration (R300). -/
def flushLines (s : State) (n : Nat) (ls : List Nat) : State :=
  let ns := 200 + dirtyBytes s n ls / max (s.get (F.TP_S_CACHE_CFG_FLUSH_GBPS n)) 1
  let s := writeBacks s n ls false
  (s.bump (F.TP_S_FLUSH_COUNT n)).set (F.TP_S_FLUSH_LAST_US n) (min (ns / 1000) 65535)

/-- A flush of a pool range in sectors (R300). -/
def flushRange (s : State) (ns : List Nat) (base len : Nat) : State :=
  ns.foldl (fun s n => flushLines s n (guestsIn s n base len)) s

/-- An acquire of a pool range in sectors (R297). -/
def acquireRange (s : State) (ns : List Nat) (base len : Nat) : State :=
  ns.foldl (fun s n => (writeBacks s n (guestsIn s n base len) true).bump (F.TP_S_ACQUIRE_COUNT n)) s

/-- Lines of the tracker regions that a context wrote last (R302). -/
def ownedLines (s : State) (n c : Nat) : List Nat :=
  let rs := ((tabGet [] n s.cache.track).filter fun e => e.2 = c + 1).map (·.1)
  (guestLines s n).filter fun l => rs.contains (l / 1024)

/-- The flush before a completion record of a context's work in sectors (R302). -/
def flushContext (s : State) (ns : List Nat) (c : Nat) : State :=
  ns.foldl (fun s n => flushLines s n (ownedLines s n c)) s

/-- Is a write-back of these sectors still under way? -/
def backsOpen (s : State) (ns : List Nat) : Bool := s.cache.wbs.any fun w => ns.contains w.sector

/-- A sector's next stamp (R296, R303). -/
def nextStamp (s : State) (n : Nat) : Nat × State :=
  let k := s.get (F.TP_S_STAMP_STAMP n)
  if k = 2 ^ 48 - 1 then
    let s := writeBacks s n (guestLines s n) true
    (1, (s.set (F.TP_S_STAMP_STAMP n) 1).bumpSat (F.TP_S_STAMP_WRAPS n))
  else (k + 1, s.set (F.TP_S_STAMP_STAMP n) (k + 1))

/-- A region of the guest tracker is used: a new one takes a free entry, or that of the least recently used region (R301). -/
def trackUse (s : State) (n line writer : Nat) : State :=
  let rg := line / 1024
  let l := tabGet [] n s.cache.track
  match l.find? fun e => e.1 = rg with
  | some e =>
    let e' := if writer = 0 then e else (rg, writer)
    { s with cache := { s.cache with track := tabPut n (e' :: l.filter fun x => x.1 ≠ rg) s.cache.track } }
  | none =>
    let s := match (if l.length ≥ 4096 then l.getLast? else none) with
      | some v =>
        (writeBacks s n ((guestLines s n).filter fun x => x / 1024 = v.1) true).bumpSat (F.TP_S_FLUSH_TRACKER_EVICTIONS n)
      | none => s
    let l := (tabGet [] n s.cache.track).take 4095
    { s with cache := { s.cache with track := tabPut n ((rg, writer) :: l) s.cache.track } }

/-- Room for one more guest line in its set: at most GUEST_WAYS ways of a set hold guest lines, and the line that leaves is the
device's choice (R288). -/
def guestRoom (s : State) (n line : Nat) : State :=
  let same := (guestLines s n).filter fun l => l % 16384 = line % 16384
  if same.length < s.get (F.TP_S_CACHE_CFG_GUEST_WAYS n) then s
  else
    let (k, s) := s.takeFree
    match same[k % max same.length 1]? with
    | some v => writeBacks s n [v] true
    | none => s

/-- How a device requester sees memory: the sector whose cache it uses and the stamp below which a guest line is stale (none:
never stale by age); no sector: it reads and writes at the home. -/
structure View where
  sector : Nat
  stamp : Option Nat
deriving DecidableEq, Repr

/-- Is the guest copy stale for the reader (R295, R296)? -/
def guestStale (v : View) (g : Guest) : Bool := match v.stamp with | some k => decide (g.stamp < k) | none => false

/-- Does the requester use its sector's guest copy of this line (R289 to R291)? -/
def usesGuest (s : State) (v : Option View) (line : Nat) : Option View :=
  match v with
  | none => none
  | some x => if lineHome s line = x.sector then none else some x

/-- Must a read of the line fetch it at its home? -/
def readsHome (s : State) (v : Option View) (line : Nat) : Bool :=
  match usesGuest s v line with
  | none => true
  | some x => match guest? s x.sector line with | some g => guestStale x g | none => true

/-- Read one line as a requester sees it (R295, R299). -/
def readLine (s : State) (v : Option View) (line : Nat) : List Byte × State :=
  match usesGuest s v line with
  | none => (s.bytes (line * 64) 64, s)
  | some x =>
    let n := x.sector
    match guest? s n line with
    | some g =>
      if guestStale x g then
        let d := mergeBytes (s.bytes (line * 64) 64) g.data g.dirty
        let s := (trackUse s n line 0).bump (F.TP_S_ACQUIRE_STALE_MISSES n)
        (d, putGuest s n line { g with data := d, stamp := s.get (F.TP_S_STAMP_STAMP n) })
      else (g.data, trackUse s n line 0)
    | none =>
      let d := s.bytes (line * 64) 64
      if s.dir.lost.contains line || linePoisoned s line then (d, s)
      else
        let s := trackUse (guestRoom s n line) n line 0
        (d, putGuest s n line { data := d, stamp := s.get (F.TP_S_STAMP_STAMP n) })

/-- Dirty mask of `k` bytes at offset `o` of a line. -/
def byteMask (o k : Nat) : Nat := (2 ^ k - 1) * 2 ^ o

/-- Write part of one line as a requester of a context does (R290, R291). -/
def writePart (s : State) (v : Option View) (c line a : Nat) (data : List Byte) : State :=
  match usesGuest s v line with
  | none => writeLine s line a data
  | some x =>
    let n := x.sector
    let o := a - line * 64
    let m := byteMask o data.length
    let laid := List.replicate o 0 ++ data ++ List.replicate (64 - o - data.length) 0
    match guest? s n line with
    | some g => putGuest (trackUse s n line (c + 1)) n line
        { g with data := mergeBytes g.data laid m, dirty := Nat.lor g.dirty m }
    | none =>
      let base := s.bytes (line * 64) 64
      let s := trackUse (guestRoom s n line) n line (c + 1)
      putGuest s n line { data := mergeBytes base laid m, dirty := m, stamp := s.get (F.TP_S_STAMP_STAMP n) }

/-- Discard every guest line of pages in all four caches (R43). -/
def discardGuests (s : State) (ps : List Nat) : State :=
  (List.range 4).foldl (fun s n => ((guestLines s n).filter fun l => ps.contains (l / 32768)).foldl (fun s l => dropGuest s n l) s) s

end Sys2Proof.Machine
end

