-- ==== Sys2Proof/Machine/Lanes.lean ====
section
/-! DEFINITION. Ingress lanes, tenant credits and selection (spec/13), and doorbells (R219 to R225). -/

namespace Sys2Proof.Machine

open Sys2Proof

/-! ### Flights -/

/-- The flight of a port and TAG, if the TAG is in use (R141). -/
def flightOf (s : State) (p t : Nat) : Option Flight :=
  s.fab.flights.find? fun f => f.req.port.val = p && f.req.tag.val = t

/-- Replace a flight. -/
def putFlight (s : State) (f : Flight) : State :=
  { s with fab := { s.fab with flights := s.fab.flights.map fun g =>
      if g.req.port = f.req.port && g.req.tag = f.req.tag then f else g } }

/-- Remove a flight: its TAG is free again. -/
def dropFlight (s : State) (f : Flight) : State :=
  { s with fab := { s.fab with flights := s.fab.flights.filter fun g =>
      !(g.req.port = f.req.port && g.req.tag = f.req.tag) } }

/-- Is the opcode an atomic (R128)? -/
def ROp.atomic : ROp → Bool
  | .fadd | .fand | .fior | .fxor | .swap | .cas | .minS | .maxS | .minU | .maxU | .faddF | .fminF | .fmaxF => true
  | _ => false

/-- Is the opcode a flag store (R137)? -/
def ROp.flag : ROp → Bool
  | .wrFlag | .publish => true
  | _ => false

/-- Is the opcode write-type (R139)? -/
def ROp.write : ROp → Bool
  | .wr | .wrLine | .wrFlag | .publish | .wrMask => true
  | o => o.atomic

/-- Bytes of the target (R122). -/
def reqSize (r : Req) : Nat := r.len.val + 1

/-- Bytes a message takes, envelope included (R484; the envelope is 8 bytes and the header 24). -/
def msgBytes (r : Req) : Nat := 32 + r.payload.length

/-- 64-byte units a message takes in its store (R505, R484). -/
def reqUnits (r : Req) : Nat := ceilDiv (msgBytes r) 64

/-- The cost of a request (R523). -/
def flightCost (f : Flight) : Nat :=
  if f.req.cls.val < 2 then 0
  else if f.op.atomic || f.op.flag then 64
  else match f.op with
    | .rd | .wr => max 64 reqSize f.req
    | _ => 64

/-! ### Tenant queues -/

/-- Key of a tenant queue. -/
def tqKey (p t : Nat) : Nat := p * 256 + t

/-- A tenant queue. -/
def tenant (s : State) (p t : Nat) : Tenant := tabGet {} (tqKey p t) s.sched.tqs

/-- Store a tenant queue. -/
def putTenant (s : State) (p t : Nat) (q : Tenant) : State :=
  { s with sched := { s.sched with tqs := tabPut (tqKey p t) q s.sched.tqs } }

/-- Does the flight wait in a lane? -/
def Flight.inLane (f : Flight) : Bool :=
  match f.stage with | .lane _ _ => true | _ => false

/-- The requests of a lane, in arrival order (R508). -/
def laneOf (s : State) (p t c : Nat) : List Flight :=
  s.fab.flights.filter fun f => f.inLane && f.req.port.val = p && f.req.tenant.val = t && f.req.cls.val = c

/-- Requests of a queue selected and not yet answered (R519). -/
def tqInflight (s : State) (p t : Nat) : Nat :=
  (s.fab.flights.filter fun f => f.picked && f.req.port.val = p && f.req.tenant.val = t && f.req.cls.val ≥ 2).length

/-- Requests that wait in both lanes of a queue. -/
def tqQueued (s : State) (p t : Nat) : Nat := (laneOf s p t 2).length + (laneOf s p t 3).length

/-- Usable bandwidth of a port in units of 10 MB/s (R470). -/
def usableBw (s : State) (p : Nat) : Nat :=
  ((List.range 6).map fun l =>
    if bits (s.get (F.KZP_STATUS_LINK_SET p)) l 1 = 1 then
      (if s.flag (F.KZP_L_STATUS_WIDTH p l) then 4750 else 9499) else 0).sum

/-- Sum of RESV over the enabled queues of a port, in units of 10 MB/s (R526). -/
def resvSum (s : State) (p : Nat) : Nat :=
  ((s.sched.tqs.filter fun e => e.1 / 256 = p && e.2.en).map fun e => e.2.resv * 25).sum

/-- The effective reserve of a queue in units of 10 MB/s (R527). -/
def effReserve (s : State) (p t : Nat) : Nat :=
  let r := (tenant s p t).resv * 25
  let sum := resvSum s p
  let cap := usableBw s p * 9 / 10
  if sum > cap then r * cap / max sum 1 else r

/-- Bring a queue's credits up to date (R525): they rise while the queue holds a waiting request. -/
def refreshTq (s : State) (p t : Nat) : State :=
  let q := tenant s p t
  let dt := s.now - q.upd
  let q' := if tqQueued s p t = 0 then { q with upd := s.now }
    else { q with upd := s.now,
                  rateCredit := max q.rateCredit (min (q.rateCap * 1024 : Nat) (q.rateCredit + (q.rate * dt / 4 : Nat))),
                  resvCredit := max q.resvCredit (min (q.resvCap * 1024 : Nat) (q.resvCredit + (effReserve s p t * dt / 100 : Nat))) }
  putTenant s p t q'

/-- Bytes of replies that wait in a port's egress queue. -/
def egressBytes (s : State) (p : Nat) : Nat := tabGet 0 p s.sched.egress

/-- Is the dispatch gate of a port open (R522)? -/
def gateOpen (s : State) (p : Nat) : Bool := decide (egressBytes s p ≤ s.get (F.SCH_K_SPILL_CFG_EGRESS_HIGH_KIB p) * 1024)

/-- Is a lane eligible by R522, apart from the dispatch gate? -/
def laneReady (s : State) (p t c : Nat) : Bool :=
  let q := tenant s p t
  match (laneOf s p t c).head? with
  | none => false
  | some f =>
    (match f.stage with | .lane true w => w | _ => true) &&
    !throttled s f.req.ctx.val && decide (tqInflight s p t < q.inflightMax) &&
    (q.rate == 0 || decide (q.rateCredit > 0))

/-- The 64-bit signed comparison of tags (R524). -/
def tagLt (a b : Nat) : Bool := decide (a ≠ b) && decide ((b + 2 ^ 64 - a) % 2 ^ 64 < 2 ^ 63)

/-- The virtual time of a weighted group (R524). -/
def vtime (p c : Nat) : Fld := if c = 2 then F.SCH_K_VTIME2_V p else F.SCH_K_VTIME3_V p

/-- A lane's tags. -/
def Tenant.lane (q : Tenant) (c : Nat) : Lane := if c = 2 then q.lane2 else q.lane3

/-- Store a lane's tags. -/
def Tenant.setLane (q : Tenant) (c : Nat) (l : Lane) : Tenant := if c = 2 then { q with lane2 := l } else { q with lane3 := l }

/-- The larger of two tags. -/
def tagMax (a b : Nat) : Nat := if tagLt a b then b else a

/-- A request has become the head of its lane (R524). -/
def headTag (s : State) (p t c : Nat) : State :=
  let q := tenant s p t
  let l := q.lane c
  putTenant s p t (q.setLane c { l with s := tagMax (s.get (vtime p c)) l.f })

/-- Keep whether a lane is eligible; one that becomes eligible takes S = max(V, S) (R524). -/
def noteLane (s : State) (p t c : Nat) : State :=
  let q := tenant s p t
  let l := q.lane c
  let now := laneReady s p t c && gateOpen s p
  let l := if now && !l.was then { l with s := tagMax (s.get (vtime p c)) l.s, was := true } else { l with was := now }
  putTenant s p t (q.setLane c l)

/-- Note every lane of a port. -/
def noteLanes (s : State) (p : Nat) : State :=
  (s.sched.tqs.filter fun e => e.1 / 256 = p).foldl (fun s e =>
    noteLane (noteLane s p (e.1 % 256) 2) p (e.1 % 256) 3) s

/-- Charge a selection (R524, R525, R534): `step3` is reserved service. -/
def chargeTq (s : State) (f : Flight) (step3 : Bool) : State :=
  let p := f.req.port.val
  let t := f.req.tenant.val
  let c := f.req.cls.val
  let cost := flightCost f
  let q := tenant s p t
  let q := { q with rateCredit := q.rateCredit - cost, served := if (tabGet {} q.domain s.sec.doms).conf then q.served else q.served + cost,
                    resvCredit := if step3 then q.resvCredit - cost else q.resvCredit }
  if step3 then putTenant s p t q
  else
    let l := q.lane c
    let s := s.set (vtime p c) l.s
    putTenant s p t (q.setLane c { l with f := (l.s + cost * 256 / max q.weight 1) % 2 ^ 64 })

/-- Class-store units in use on a port (R505): messages kept on chip that have not been forwarded, and those that wait at the
port under R188. -/
def storeUnits (s : State) (p c : Nat) : Nat :=
  ((s.fab.flights.filter fun f => f.req.port.val = p && f.req.cls.val = c &&
    (match f.stage with | .lane false _ => true | .atPort => true | _ => false)).map fun f => reqUnits f.req).sum

/-- The size of a class store in force, in units of 64 bytes (R533). -/
def storeCap (s : State) (p c : Nat) : Nat :=
  16 * tabGet (match c with | 0 => 256 | 1 => 256 | 2 => 2048 | _ => 1536) (p * 4 + c) s.sched.limits

/-- Is a message of this lane spilled on arrival (R507)? -/
def mustSpill (s : State) (r : Req) : Bool :=
  let p := r.port.val
  let t := r.tenant.val
  let c := r.cls.val
  let lane := laneOf s p t c
  (lane.any fun f => match f.stage with | .lane sp _ => sp | _ => false) ||
  decide (storeUnits s p c + reqUnits r > storeCap s p c) ||
  decide (((lane.map fun f => reqUnits f.req).sum + reqUnits r) * 64 > (tenant s p t).bufKib * 1024)

/-- Spilled bytes of a port and class, in the spill area now. -/
def spillBytes (s : State) (p c : Nat) : Nat :=
  ((s.fab.flights.filter fun f => f.req.port.val = p && f.req.cls.val = c &&
    (match f.stage with | .lane true w => !w | _ => false)).map fun f => reqUnits f.req * 64).sum

/-- Spill segments of 64 KiB a port holds (R509). -/
def spillSegs (s : State) (p : Nat) : Nat := ceilDiv (spillBytes s p 2) 65536 + ceilDiv (spillBytes s p 3) 65536

/-- Spill segments of all ports. -/
def spillSegsAll (s : State) : Nat := ((List.range 6).map fun p => spillSegs s p).sum

/-- Count a spilled message: SPILLED_MIB and the peaks. -/
def countSpill (s : State) (r : Req) : State :=
  let p := r.port.val
  let b := tabGet 0 p s.sched.spilled + reqUnits r * 64
  let s := { s with sched := { s.sched with spilled := tabPut p b s.sched.spilled } }
  let s := s.set (F.SCH_K_SPILL_SPILLED_MIB p) (b / 1048576)
  (s.raiseTo (F.SCH_K_SPILL_PEAK p) (spillSegs s p)).raiseTo F.SCH_SPILL_STATUS_PEAK (spillSegsAll s)

/-! ### Doorbells (R219 to R225) -/

/-- The ring whose doorbell lies at an offset of the doorbell window, if one does (R219). -/
def doorbellRing (off : Nat) : Option Nat :=
  if off % 4096 < 128 ∧ off % 8 = 0 then some (off / 4096 * 16 + off % 4096 / 8) else none

/-- Has the ring been set up since the last cold start, and does the request come by its path (order 2 of R223)? Context 65,536
stands for the management port, which names none. -/
def doorbellPath (s : State) (g path partner ctx : Nat) : Bool :=
  tabHas g s.rings.qcs && (s.ring g).path == path &&
    (path == 6 || ((s.ring g).partner == partner && ctx == g / 16))

/-- Is the index in the window of R224? -/
def doorbellWindow (r : Ring) (n : Nat) : Bool :=
  let d := (n + 65536 - r.ci) % 65536
  if r.completion then decide (d ≤ (r.pi + 65536 - r.ci) % 65536)
  else decide (d ≤ 2 ^ r.log2 - 1) && decide ((n + 65536 - r.pi) % 65536 ≤ d)

/-- A look-up in the queue-context cache (R213). -/
def qcLook (s : State) (g : Nat) : State :=
  if s.rings.cache.contains g then s.bump F.RING_CACHE_HITS
  else
    let (l, s) := evictOne (s.bump F.RING_CACHE_MISSES) (g :: s.rings.cache) 16384
    { s with rings := { s.rings with cache := l } }

/-- The unit code of a doorbell's path (R108). -/
def pathUnit (path : Nat) : Nat := if path = 6 then 0x90 else path

/-- A ring's queue context fails its check (R13, R233): the ring enters ERROR, and what was fetched and has not started
completes with CPAIR. -/
def ringCpair (s : State) (g : Nat) : State :=
  let r : Ring := s.ring g
  let st : RingSt := if r.st = .enabled then .error else r.st
  let s : State := s.putRing g { r with st := st }
  let s : State := { s with xlt := { s.xlt with corrupt := s.xlt.corrupt.filter fun x => x != .queueCtx g } }
  let s : State := (s.rings.jobs.filter fun j => j.ring = g && j.st = .queued).foldl (fun s j => finishJob s j .cpair) s
  postCpair s (pathUnit r.path) (g / 16) 0x80000003

/-- A doorbell write (R223). -/
def doorbell (s : State) (g path partner ctx : Nat) (aligned : Bool) (v : Nat) : Code × State :=
  if !aligned then (.malformed, s)
  else if !doorbellPath s g path partner ctx then (.denied, s.bumpSat F.RING_DB_ERRORS_PATH)
  else
    let s := qcLook s g
    if s.xlt.corrupt.contains (.queueCtx g) then (.cpair, ringCpair s g)
    else if v / 65536 % 65536 ≠ onesComp 16 v ∨ v / 2 ^ 32 ≠ 0 then
      (.cpair, (postCpair s (pathUnit path) (g / 16) 0x80000004).bumpSat F.RING_DB_ERRORS_CPAIR)
    else
      let r := s.ring g
      if r.st ≠ .enabled then (.abortDisable, s.bumpSat F.RING_DB_ERRORS_DISABLED)
      else if !doorbellWindow r (v % 65536) then (.malformed, s.bumpSat F.RING_DB_ERRORS_RANGE)
      else (.ok, s.putRing g (if r.completion then { r with ci := v % 65536 } else { r with pi := v % 65536 }))

/-- A doorbell read (R225): the code and the value. -/
def doorbellGet (s : State) (g path partner ctx : Nat) (aligned : Bool) : Code × Nat × State :=
  if !aligned then (.malformed, 0, s)
  else if !doorbellPath s g path partner ctx then (.denied, 0, s.bumpSat F.RING_DB_ERRORS_PATH)
  else
    let r := s.ring g
    let x := if r.completion then r.ci else r.pi
    (.ok, x % 65536 + onesComp 16 x * 65536, qcLook s g)

end Sys2Proof.Machine
end

