-- ==== Sys2Proof/Machine/Fabric.lean ====
section
/-! DEFINITION. A partner request from its arrival to its reply (R122 to R160, R175 to R194, R726): checks, the Anvil, ordering
by source, the directory and the home, and the waking of what waits. -/

namespace Sys2Proof.Machine

open Sys2Proof

/-! ### Checks of R726 -/

/-- The size rules of an opcode (R124, R125, R128, R169), on a size in bytes. -/
def sizeOk (op : ROp) (n : Nat) : Bool :=
  match op with
  | .rd | .wr => true
  | .rdShared | .rdOwn | .wrLine | .upgrade | .wrMask => n == 64
  | .wrFlag => n == 4 || n == 8
  | .publish => n == 16
  | .faddF | .fminF | .fmaxF => n == 4 || n == 8
  | _ => n == 4 || n == 8 || n == 16

/-- The alignment rules of R125. -/
def alignOk (op : ROp) (a n : Nat) : Bool :=
  match op with
  | .rd | .wr => a / 256 == (a + n - 1) / 256
  | .rdShared | .rdOwn | .wrLine | .upgrade | .wrMask => a % 64 == 0
  | .publish => a % 16 == 0
  | _ => a % n == 0

/-- The class rule of R125 and R126. -/
def classOk (op : ROp) (r : Req) : Bool :=
  r.cls.val ≥ 2 || (r.cls.val == 1 && r.tenant.val == 0 &&
    match op with
    | .rd | .wr => reqSize r == 8 && r.addr.toNat % 8 == 0
    | .wrLine => true
    | _ => false)

/-- Step 1 of R726: the header breaks no condition of R125. -/
def headerOk (op : ROp) (r : Req) : Bool :=
  !r.rsvd && !r.b30 && (op.atomic || !r.ret) && sizeOk op (reqSize r) && alignOk op r.addr.toNat (reqSize r) &&
    classOk op r && r.epochC == ~~~r.epoch

/-- Step 2 of R726: the port and partner have a valid PARTNER entry and are neither fenced nor lapsed (R544, R552). -/
def partnerOk (s : State) (p q : Nat) : Bool :=
  tabHas (tqKey p q) s.comp.map.partners && !s.comp.fenced.contains (tqKey p q) && !s.comp.lapsed.contains (tqKey p q)

/-- What the epoch of a request means now (R546): the current epoch, the last one within its grace window, or neither. -/
inductive EpochIs where
  | current | grace | stale
deriving DecidableEq, Repr

/-- The current epoch. -/
def curEpoch (s : State) : Nat := s.get F.CMP_EPOCH_EPOCH

/-- Step 3 of R726: the epoch of a request (R546, R576). -/
def epochIs (s : State) (p e : Nat) : EpochIs :=
  if s.xlt.corrupt.contains (.portEpoch p) then .stale
  else if e = curEpoch s then .current
  else if e + 1 = curEpoch s ∧ s.now - s.comp.since < s.comp.map.node.graceUs * 1000 then .grace
  else .stale

/-- Does a map give the port and partner the rights on the page for the domain (R545)? -/
def mapAdmits (m : CMap) (p q dom page : Nat) (wr : Bool) : Bool :=
  m.regions.any fun r => decide (r.2.domain = dom) && decide (r.2.basePage ≤ page) &&
    decide (page < r.2.basePage + r.2.pages) &&
    m.grants.any fun g => g.2.region = r.1 && g.2.port = p && g.2.partner = q && g.2.rd && (!wr || g.2.wr)

/-- Does the opcode need the WR grant right (R545)? -/
def needsWr : ROp → Bool
  | .rd | .rdShared => false
  | _ => true

/-- The rights of a segment that an opcode needs (spec/03, "Segments"). -/
def opRight : ROp → Right
  | .rd | .rdShared => .rd
  | .rdOwn | .upgrade => .rdwr
  | .wr | .wrLine | .wrFlag | .wrMask => .wr
  | _ => .atm

/-- Steps 1 to 4 of R726. -/
def headCheck (s : State) (op : ROp) (r : Req) : Option Code :=
  let p := r.port.val
  if !headerOk op r then some .malformed
  else if !partnerOk s p r.partner.val then some .denied
  else if epochIs s p r.epoch.toNat = .stale then some .remap
  else if r.cls.val ≥ 2 ∧ !((tenant s p r.tenant.val).en && decide ((tenant s p r.tenant.val).domain = ctxDomain s r.ctx.val))
    then some .denied
  else none

/-! ### Replies -/

/-- What a CXL port does beside its reply when a code is not OK (R503): a read returns poisoned, a write is dropped and posts an event
record. -/
def cxlNote (s : State) (f : Flight) (c : Code) : State :=
  let p := f.req.port.val
  if !cxlPort s p || c = .ok then s
  else if f.op.write then
    (setPort s p fun x => { x with cxlEvents := x.cxlEvents ++ [(c, f.req.addr.toNat)] }).bumpSat (F.KZP_CXL_STATUS_WR_DROPPED p)
  else s.bumpSat (F.KZP_CXL_STATUS_RD_POISONED p)

/-- Send a reply for a flight (R127, R123): the TAG is free, and a write that did not complete with OK is kept for the next
flag store of its source (R137). The reply of a port that has gone down is discarded (R531). -/
def answer (s : State) (f : Flight) (c : Code) (detail : Nat) (data : List Byte) : State :=
  let r := f.req
  let s := dropFlight s f
  let s := if portUp s r.port.val then cxlNote (s.emit (.reply r.port.val r.tag.val r.cls.val c detail data)) f c else s
  let s := telemCode s (ctxDomain s r.ctx.val) c
  let s := if c = .remap then s.bump F.CMP_STATS_REMAPS else s
  if f.op.write && !f.op.flag && c ≠ .ok then
    { s with fab := { s.fab with failed := s.fab.failed ++
        [{ port := r.port.val, ctx := r.ctx.val, num := f.num, code := c, tag := r.tag.val }] } }
  else if f.op.flag then
    { s with fab := { s.fab with failed := s.fab.failed.filter fun x =>
        !(x.port = r.port.val && x.ctx = r.ctx.val && decide (x.num < f.num)) } }
  else s

/-- A reply without data; REMAP carries the current epoch (R546). -/
def answerCode (s : State) (f : Flight) (c : Code) : State :=
  answer s f c (if c = .remap then curEpoch s else 0) []

/-! ### Order by source (R133, R135) -/

/-- Are two flights of one source? -/
def sameSource (f g : Flight) : Bool := f.req.port = g.req.port && f.req.ctx = g.req.ctx

/-- Do the pool bytes of two flights overlap, an untranslated one counting as overlapping (R133)? -/
def overlap (f g : Flight) : Bool :=
  match f.pool, g.pool with
  | some a, some b => decide (a < b + reqSize g.req) && decide (b < a + reqSize f.req)
  | _, _ => true

/-- Must the flight wait for an earlier request of its source (R133), or for a stalled context (R115)? -/
def orderBlocked (s : State) (f : Flight) : Bool :=
  stalledAt s f.req.port.val f.req.ctx.val ||
  s.fab.flights.any fun g => sameSource f g && decide (g.num < f.num) && (g.op.write || f.op.write) && overlap f g

/-- Is an earlier write of the flag's source not yet visible (R135)? -/
def flagBlocked (s : State) (f : Flight) : Bool :=
  s.fab.flights.any fun g => sameSource f g && decide (g.num < f.num) && g.op.write

/-- The earliest failed write that bars a flag store (R137). -/
def flagBar (s : State) (f : Flight) : Option Failed :=
  (s.fab.failed.filter fun x => x.port = f.req.port.val && x.ctx = f.req.ctx.val && decide (x.num < f.num)).foldl
    (fun b x => match b with
      | none => some x
      | some y => if x.num < y.num then some x else some y) none

/-! ### Anvil entries -/

/-- The entry of a number. -/
def entryOf (s : State) (id : Nat) : Option Entry := s.fab.entries.find? fun e => e.id = id

/-- Replace an entry. -/
def putEntry (s : State) (e : Entry) : State :=
  { s with fab := { s.fab with entries := s.fab.entries.map fun x => if x.id = e.id then e else x } }

/-- Remove an entry. -/
def dropEntry (s : State) (id : Nat) : State :=
  { s with fab := { s.fab with entries := s.fab.entries.filter fun x => x.id ≠ id } }

/-- Close the open read entries that a write covers (R148). -/
def closeReads (s : State) (a n : Nat) : State :=
  let hit := fun e : Entry => !e.atomic && !e.closed && decide (e.pool < a + n) && decide (a < e.pool + e.len)
  let k := (s.fab.entries.filter hit).length
  let s := { s with fab := { s.fab with entries := s.fab.entries.map fun e => if hit e then { e with closed := true } else e } }
  if k = 0 then s else s.bump F.ANV_STATUS_CLOSES k

/-- Renew a line's time in the hot filter; a full filter loses the line whose latest dispatch is oldest (R150). -/
def renewHot (s : State) (line : Nat) : State :=
  let live := s.fab.hot.filter fun e => decide (2 * (s.now - e.2) ≤ s.get F.ANV_CTRL_HOT_SPAN)
  let live := if live.length ≥ 16384 ∧ !tabHas line live then
      (match live.foldl (fun b e => match b with
        | none => some e
        | some (x : Nat × Nat) => if e.2 < x.2 then some e else some x) none with
       | some x => tabDel x.1 live
       | none => live)
    else live
  { s with fab := { s.fab with hot := tabPut line s.now live } }

/-- Does a line count as hot (R150)? -/
def isHot (s : State) (line : Nat) : Bool :=
  match tabGet? line s.fab.hot with
  | some t => decide (2 * (s.now - t) ≤ s.get F.ANV_CTRL_HOT_SPAN)
  | none => false

/-! ### Touch of a compressed granule (R60, R61) -/

/-- The pages of the tensor that a page belongs to. -/
def tensorOf (s : State) (p : Nat) : List (Nat × Page) :=
  match s.page? p with
  | none => []
  | some e => s.store.pages.filter fun x => x.2.tensorBase = e.tensorBase && x.2.domain = e.domain

/-- Does every sector of a tensor keep at least LOW free near frames after its promotion (R55)? -/
def promoteRoom (s : State) (t : List (Nat × Page)) : Bool :=
  (List.range 4).all fun n =>
    let k := (t.filter fun e => homeOf s e.1 = n && e.2.loc.frame?.isNone).length
    k == 0 || decide (s.get (F.TIER_S_NEAR_WATER_LOW n) + k ≤ freeNear s n)

/-- Plan the move of a tensor, unless it is planned already. -/
def planMove (s : State) (m : Move) : State :=
  if s.store.moves.any fun x => x.first = m.first && x.toNear = m.toNear then s
  else { s with store := { s.store with moves := s.store.moves ++ [m] } }

/-- Begin to move a page to the near tier: a frame is taken and the page becomes MIGRATING, with the granules in `got`
arrived already. -/
def beginPromote (s : State) (p : Nat) (e : Page) (got : List Nat) : State :=
  match e.loc with
  | .far gs =>
    let (fr, s) := takeFrame s (homeOf s p)
    match fr with
    | none => s
    | some f =>
      let x : Xfer := { index := s.store.nextXfer, kind := .promote, frame := some f, granules := gs, arrived := got,
                        copying := if got.isEmpty then some 0 else none }
      let s := { s with store := { s.store with nextXfer := s.store.nextXfer + 1 } }
      dropTlb (s.putPage p { e with loc := .migrating x }) [p]
  | _ => s

/-- A load, store or atomic reaches a granule: touch of a compressed one (R60, R61). The wait it records is not stated by the
spec beyond its bound of 2 µs, and is a free value. -/
def touch (s : State) (gr : Nat) : State :=
  let p := gr / 32
  match s.page? p with
  | none => s
  | some e =>
    let g := granuleOf e (gr % 32)
    if granuleNear e (gr % 32) || g.frames == 0 || g.frames ≥ 16 then s
    else
      let n := homeOf s p
      let (k, s) := s.takeFree
      let s := s.raiseTo (F.TIER_S_TOUCH_MAX_MAX_NS n) (k % 2001)
      let t := tensorOf s p
      if e.preferFar || !s.flag (F.TIER_S_CTRL_TOUCH_PROMOTE n) then s
      else if !promoteRoom s t then s.bump (F.TIER_S_PROMOTE_DENIED_COUNT n)
      else
        let s := match e.loc, e.split with
          | .far _, none => beginPromote s p e [gr % 32]
          | _, _ => s
        planMove s { first := e.tensorBase, toNear := true, counted := false }

/-! ### Atomics (R128 to R130) -/

/-- The new value of an atomic on `n` bytes. -/
def atomicNew (op : ROp) (n old x y : Nat) : Nat :=
  let w := 8 * n
  let f := if n = 8 then fmt64 else fmt32
  let sg := fun v : Nat => if v < 2 ^ (w - 1) then (v : Int) else (v : Int) - 2 ^ w
  match op with
  | .fadd => (old + x) % 2 ^ w
  | .fand => Nat.land old x
  | .fior => Nat.lor old x
  | .fxor => Nat.xor old x
  | .swap => x
  | .cas => if old = x then y else old
  | .minS => if sg x < sg old then x else old
  | .maxS => if sg old < sg x then x else old
  | .minU => min old x
  | .maxU => max old x
  | .faddF => f.addBits old x
  | .fminF => f.minBits old x
  | .fmaxF => f.maxBits old x
  | _ => old

/-! ### What the directory needs (R175) -/

/-- The snoops a request needs on a line, given its entry. -/
def needSnoops (s : State) (f : Flight) (line : Nat) (e : DirE) : List (Nat × Nat × Nat × Bool) :=
  let me := (f.req.port.val, f.req.partner.val)
  match f.op with
  | .rd | .rdShared => if e.st = .owned then snoopList s line e 0x39 none else []
  | .rdOwn | .upgrade => snoopList s line e 0x3A (if e.st = .owned then none else some me)
  | _ => snoopList s line e 0x3A none

/-- Does the request need a new entry in a full set (R193)? -/
def needsWay (s : State) (f : Flight) (line : Nat) : Bool :=
  match f.op with
  | .rdShared | .rdOwn | .upgrade => (dirEnt s line).isNone && decide ((setEnts s line).length ≥ 16)
  | _ => false

/-- Is the line busy for a flight (R185, R194)? `f.order` is its place in reservation order, 0 when it has none. -/
def lineBusy (s : State) (f : Flight) (line : Nat) : Bool :=
  inTxn s line ||
  (s.dir.rsvs.any fun r => r.line = line && (f.order == 0 || decide (r.order < f.order))) ||
  (s.fab.flights.any fun g => decide (g.order ≠ 0) && (f.order == 0 || decide (g.order < f.order)) &&
    !(g.req.port = f.req.port && g.req.tag = f.req.tag) &&
    (match g.stage with | .home | .pending | .atPort => true | _ => false) &&
    (match g.pool with | some a => (linesOf a (reqSize g.req)).contains line | none => false)) ||
  (match dirEnt s line with
   | some e => !(needSnoops s f line e).isEmpty && e.st = .owned && holdRuns s line e
   | none => false) ||
  (needsWay s f line && (dirVictim s line).isNone)

/-- The lowest free reserved credit of a port and class (R186). -/
def freeCredit (s : State) (p c : Nat) : Option Nat :=
  let used := (s.dir.rsvs.filter fun r => r.port = p && r.cls = c).map (·.credit)
  (List.range 64).find? fun k => !used.contains k

/-- Requests in a slice's pending buffer (R188). -/
def pendingOf (s : State) (n : Nat) : Nat :=
  (s.fab.flights.filter fun f => f.stage = .pending &&
    match f.pool with | some a => lineHome s (a / 64) = n | none => false).length

/-- Take the next place in reservation order. -/
def nextOrder (s : State) : Nat × State :=
  (s.dir.nextOrder + 1, { s with dir := { s.dir with nextOrder := s.dir.nextOrder + 1 } })

/-- Make a reservation on a line with a credit (R186). -/
def makeRsv (s : State) (f : Flight) (line k : Nat) : State :=
  let (o, s) := nextOrder s
  let r : Rsv := { port := f.req.port.val, cls := f.req.cls.val, credit := k, ctx := f.req.ctx.val, line := line,
                   order := o, made := s.now }
  let s := { s with dir := { s.dir with rsvs := s.dir.rsvs ++ [r] } }
  s.bump (F.DIR_S_RETRY_ISSUED (lineHome s line))

/-- DETAIL of a RETRY_RSV reply (R174). -/
def rsvDetail (s : State) (f : Flight) (line k : Nat) : Nat :=
  k + (f.req.cls.val - 2) * 64 + holdLeft s line % 256 * 256 + lineHome s line * 65536

/-- Wait at the home in reservation order (R187, R188, R190). -/
def waitHome (s : State) (f : Flight) (st : Stage) : State :=
  if f.order = 0 then
    let (o, s) := nextOrder s
    putFlight s { f with stage := st, order := o }
  else putFlight s { f with stage := st }

/-- The home answers a busy line (R186, R188, R191). -/
def homeBusy (s : State) (f : Flight) (line : Nat) : State :=
  let n := lineHome s line
  if f.op.flag || f.reserved || f.order ≠ 0 then waitHome s f (match f.stage with | .pending => .pending | _ => .home)
  else
    match freeCredit s f.req.port.val f.req.cls.val with
    | none =>
      if pendingOf s n < 1024 then waitHome s f .pending
      else waitHome (s.bump (F.DIR_S_BUSY_PEND_STALLS n)) f .atPort
    | some k =>
      let d := rsvDetail s f line k
      let many := match f.entry with
        | some id => (match entryOf s id with | some e => decide (e.joiners.length ≥ 2) | none => false)
        | none => false
      let s := makeRsv s f line k
      if many then
        match f.entry.bind (entryOf s) with
        | some e => putFlight (putEntry s { e with closed := true, resv := true }) { f with stage := .anvil e.id }
        | none => s
      else
        let s := match f.entry with | some id => dropEntry s id | none => s
        answer s f .retryRsv d []

/-- Consume the reservation that the request meets, if one is its own (R187, R192). -/
def consumeRsv (s : State) (f : Flight) (lines : List Nat) : Flight × State :=
  if f.op.flag || f.reserved then (f, s)
  else
    match s.dir.rsvs.find? fun r => r.port = f.req.port.val && r.cls = f.req.cls.val && r.ctx = f.req.ctx.val && lines.contains r.line with
    | none => (f, s)
    | some r =>
      ({ f with reserved := true, order := r.order },
       { s with dir := { s.dir with rsvs := s.dir.rsvs.filter fun x => !(x.port = r.port && x.cls = r.cls && x.credit = r.credit) } })

/-! ### Applying a request at its home -/

/-- May the partner of a flight hold E: it has the WR grant right (R545), and EXCL_EN is 1 (R175)? -/
def mayExcl (s : State) (f : Flight) (pa line : Nat) : Bool :=
  s.flag (F.DIR_S_CTRL_EXCL_EN (lineHome s line)) &&
    mapAdmits s.comp.map f.req.port.val f.req.partner.val (ctxDomain s f.req.ctx.val) (pa / 2097152) true

/-- Grant for RD_SHARED of one request (R175): the GRANT field, 1 for S and 2 for E. -/
def shareOne (s : State) (f : Flight) (pa line : Nat) : Nat × State :=
  let me := (f.req.port.val, f.req.partner.val)
  if (dirEnt s line).isNone && mayExcl s f pa line then (2, grantE s line me) else (1, grantS s line me)

/-- Apply a PUBLISH (R203 to R206): code, DETAIL and the new state. -/
def applyPublish (s : State) (pa : Nat) (payload : List Byte) : Code × Nat × State :=
  let n := lineHome s (pa / 64)
  let base := leVal (payload.take 4)
  if leVal ((payload.drop 4).take 4) ≠ onesComp 32 base then (.malformed, 0, s)
  else
    let v := leVal (s.bytes pa 4)
    let c := leVal (s.bytes (pa + 4) 4)
    let zero := leVal (s.bytes pa 16) = 0
    if !(c = onesComp 32 v || zero) then (.cpair, 0, postCpair s (0x80 + n) 0 0x80000009)
    else if v ≠ base then (.staleBase, v, s.bump (F.DIR_S_PUBLISH_STALE n))
    else
      let w := (base + 1) % 2 ^ 32
      let s := closeReads s pa 16
      let s := writeRange s pa (leBytes 4 w ++ leBytes 4 (onesComp 32 w) ++ padTo 8 (payload.drop 8))
      (.ok, w, s.bump (F.DIR_S_PUBLISH_COMMITTED n))

/-- Apply one request at its home, its lines free of every other holder (R131, R155 to R157, R175): code, DETAIL, data. -/
def applyAt (s : State) (f : Flight) (pa : Nat) : Got × State :=
  let n := reqSize f.req
  let ls := linesOf pa n
  let line := pa / 64
  let lost := fun l => s.dir.lost.contains l || linePoisoned s l
  let me := (f.req.port.val, f.req.partner.val)
  let whole := f.op != .wrMask || leVal ((f.req.payload.drop 64).take 8) == 2 ^ 64 - 1
  let bad := if f.op = .wr ∨ f.op = .wrLine ∨ f.op = .wrMask then ls.any fun l => lost l && !(whole && covers pa n l) else ls.any lost
  let s := if bad then s else telem s (ctxDomain s f.req.ctx.val) fun x =>
    if f.op.write then { x with wr := x.wr + n } else { x with rd := x.rd + n }
  let s := touch s (pa / 65536)
  let s := countLines s ls
  if bad then (⟨.poison, 0, []⟩, s)
  else
    match f.op with
    | .rd => (⟨.ok, 0, s.bytes pa n⟩, s)
    | .rdShared =>
      let d := s.bytes pa 64
      let (g, s) := shareOne s f pa line
      (⟨.ok, g, d⟩, s)
    | .rdOwn => (⟨.ok, 2, s.bytes pa 64⟩, grantE s line me)
    | .upgrade => (⟨.ok, 2, if f.noData then [] else s.bytes pa 64⟩, grantE s line me)
    | .wr | .wrLine | .wrFlag => (⟨.ok, 0, []⟩, writeRange (closeReads s pa n) pa (padTo n f.req.payload))
    | .wrMask =>
      let d := mergeBytes (s.bytes pa 64) (padTo 64 f.req.payload) (leVal ((f.req.payload.drop 64).take 8))
      (⟨.ok, 0, []⟩, writeRange (closeReads s pa n) pa d)
    | .publish =>
      let (c, d, s) := applyPublish s pa f.req.payload
      (⟨c, d, []⟩, s)
    | _ =>
      let old := leVal (s.bytes pa n)
      let x := leVal (padTo n f.req.payload)
      let y := leVal (padTo n (f.req.payload.drop n))
      let s := writeRange (closeReads s pa n) pa (leBytes n (atomicNew f.op n old x y))
      (⟨.ok, 0, if f.req.ret then leBytes n old else []⟩, s)

/-- Step 6 of R726 for a flight on a page: none when it passes, else its code (R545, R546). -/
def grantCheck (s : State) (f : Flight) (page : Nat) : Option Code :=
  let r := f.req
  let dom := ctxDomain s r.ctx.val
  let adm := fun m => mapAdmits m r.port.val r.partner.val dom page (needsWr f.op)
  if adm s.comp.map then none
  else if epochIs s r.port.val r.epoch.toNat = .grace && (match s.comp.prev with | some m => adm m | none => false) then some .remap
  else some .denied

/-- Deliver a read entry's result to its joiners, each subject to its own check of region and grant (R147). -/
def deliver (s : State) (e : Entry) (got : Got) : State :=
  let s := dropEntry s e.id
  e.joiners.foldl (fun s j =>
    match flightOf s j.1 j.2 with
    | none => s
    | some f =>
      match grantCheck s f (e.pool / 2097152) with
      | some .remap => answerCode s f .remap
      | some c => answerCode (s.bumpSat F.CMP_STATS_GRANT_DENIED) f c
      | none => answer s f got.code got.detail got.data) s

/-- The joiners of an RD_SHARED entry that receive data. -/
def shareJoiners (s : State) (e : Entry) : List Flight :=
  (e.joiners.filterMap fun j => flightOf s j.1 j.2).filter fun f => (grantCheck s f (e.pool / 2097152)).isNone

/-- Serve a combined RD_SHARED (R147, R175): S to each of several, or the grant of a lone one. -/
def applyShared (s : State) (e : Entry) (pa : Nat) : Got × State :=
  match shareJoiners s e with
  | [] => (⟨.ok, 1, []⟩, s)
  | [g] => applyAt s g pa
  | g :: t =>
    let (got, s) := applyAt s { g with op := .rd } pa
    if got.code = .ok then
      (⟨.ok, 1, got.data⟩, (g :: t).foldl (fun s h => grantS s (pa / 64) (h.req.port.val, h.req.partner.val)) s)
    else (got, s)

/-- Apply the operations of a dispatched atomic entry one after another in join order (R151). -/
def applyEntryAtomics (s : State) (e : Entry) : State :=
  e.joiners.foldl (fun s j =>
    match flightOf s j.1 j.2 with
    | none => s
    | some f =>
      let (got, s) := applyAt s f e.pool
      answer s f got.code got.detail got.data) (dropEntry s e.id)

/-- The request, alone or with its entry, is applied and answered. `fin` says that the data of a read entry returns now
(R147); until then a served access waits in the Anvil. -/
def finishHome (s : State) (f : Flight) (pa : Nat) (fin : Bool) : State :=
  match f.entry.bind (entryOf s) with
  | none =>
    let (got, s) := applyAt s f pa
    answer s f got.code got.detail got.data
  | some e =>
    if e.atomic then applyEntryAtomics s e
    else if !fin then putFlight s { f with stage := .anvil e.id }
    else if f.op = .rdShared then
      let (got, s) := applyShared s e pa
      deliver s e got
    else
      let (got, s) := applyAt s f pa
      deliver s e got

/-- A flight's request ends with a code before it is applied: its whole read entry does (R147). -/
def endHome (s : State) (f : Flight) (c : Code) : State :=
  match f.entry.bind (entryOf s) with
  | none => answerCode s f c
  | some e =>
    let s := dropEntry s e.id
    e.joiners.foldl (fun s j => match flightOf s j.1 j.2 with | none => s | some g => answerCode s g c) s

/-- What kind of access an opcode makes (R107). -/
def opAccess (op : ROp) : AccKind :=
  if op.atomic || op == .publish then .atomic
  else if op.write || op == .rdOwn || op == .upgrade then .write else .read

/-- Would a write to this granule find no free run when it is rewritten (R64)? -/
def noRun (s : State) (gr : Nat) : Bool :=
  match s.page? (gr / 32) with
  | none => false
  | some e => !granuleNear e (gr % 32) && decide ((granuleOf e (gr % 32)).frames < 16) &&
      s.get (F.TIER_S_FAR_CFG_OVERCOMMIT (homeOf s (gr / 32))) != 16 &&
      (channelsIn s (homeOf s (gr / 32)) 3).all fun d => (freeRuns s d 16).isEmpty

/-- A translated request that is in order reaches its home: domain check (R90), location step (R88), directory (R175), and the
access. -/
def homeGo (s : State) (f : Flight) (fin : Bool) : State :=
  match f.pool with
  | none => s
  | some pa =>
    let r := f.req
    let n := reqSize r
    let gr := pa / 65536
    let w : Waiter := { task := .flight r.port.val r.tag.val, ctx := r.ctx.val,
                        seg := (match segFor s r.ctx.val r.addr.toNat n with | some x => x.1 | none => 16),
                        unit := r.port.val, since := s.now }
    match locate s gr (opAccess f.op) with
    | .fault k d => pageFault (putFlight s { f with stage := .fault, since := s.now }) (pa / 2097152) k d pa true r.port.val w
    | .denied => endHome s f .denied
    | .copying =>
      putFlight s { f with stage := .migrating, since := s.now }
    | .ok =>
      if !domainOk s r.ctx.val (pa / 2097152) then endHome (s.bumpSat F.XLT_DENIED_HOME) f .denied
      else if f.op.write && noRun s gr then
        pageFault (putFlight s { f with stage := .fault, since := s.now }) (pa / 2097152) 4 (gr % 32) pa true r.port.val w
      else
        let ls := linesOf pa n
        let s := ls.foldl dirLook s
        let (f, s) := consumeRsv s f ls
        match ls.find? fun l => lineBusy s f l with
        | some l => homeBusy (putFlight s f) f l
        | none =>
          let up := f.op = .upgrade && match dirEnt s (pa / 64) with
            | some e => e.st = .shared && e.shr.contains (r.port.val, r.partner.val)
            | none => false
          let f := { f with noData := f.noData || up }
          let what := TxnFor.flight r.port.val r.tag.val
          let go := ls.filter fun l => match dirEnt s l with
            | some e => !(needSnoops s f l e).isEmpty
            | none => needsWay s f l
          if go.isEmpty then finishHome (putFlight s f) f pa fin
          else
            let s := go.foldl (fun s l => match dirEnt s l with
              | some e => startTxn s l (needSnoops s f l e) what
              | none => match dirVictim s l with | some v => recallVictim s v what | none => s) s
            putFlight s { f with stage := .txn }

/-! ### The Anvil (R144 to R152) -/

/-- Do a flight and an open entry share a key at the ingress or the pool stage (R145, R149)? -/
def keyMatch (s : State) (f : Flight) (pa : Nat) (e : Entry) : Bool :=
  let r := f.req
  if e.atomic then f.op.atomic && e.domain == ctxDomain s r.ctx.val && e.pool == pa && e.len == reqSize r
  else !f.op.atomic && e.op == f.op && e.len == reqSize r && e.epoch == r.epoch.toNat &&
    ((e.ctx == r.ctx.val && e.addr == r.addr.toNat) || (e.domain == ctxDomain s r.ctx.val && e.pool == pa))

/-- May a flight join an entry (R145, R150)? -/
def mayJoin (s : State) (f : Flight) (pa : Nat) (e : Entry) : Bool :=
  keyMatch s f pa e && !e.closed && e.got.isNone && decide (e.joiners.length < 64) &&
    decide (2 * (s.now - e.start) ≤ if e.atomic then s.get F.ANV_CTRL_AT_WINDOW else s.get F.ANV_CTRL_RD_WINDOW)

/-- Join an entry. -/
def joinEntry (s : State) (f : Flight) (e : Entry) : State :=
  let s := putEntry s { e with joiners := e.joiners ++ [(f.req.port.val, f.req.tag.val)] }
  let s := putFlight s { f with stage := .anvil e.id }
  if e.atomic then s.bump (F.ANV_K_AT_COMB_JOINED f.req.port.val) else s.bump (F.ANV_K_RD_COMB_JOINED f.req.port.val)

/-- Open an entry with a flight as its opener. -/
def openEntry (s : State) (f : Flight) (pa : Nat) : Flight × State :=
  let id := s.fab.nextEntry
  let e : Entry := { id := id, atomic := f.op.atomic, op := f.op, ctx := f.req.ctx.val, addr := f.req.addr.toNat,
                     len := reqSize f.req, epoch := f.req.epoch.toNat, domain := ctxDomain s f.req.ctx.val, pool := pa,
                     start := s.now, joiners := [(f.req.port.val, f.req.tag.val)] }
  let s := { s with fab := { s.fab with entries := s.fab.entries ++ [e], nextEntry := id + 1 } }
  let f := { f with entry := some id, stage := .anvil id }
  (f, putFlight s f)

/-- A read reaches the Anvil. -/
def anvilRead (s : State) (f : Flight) (pa : Nat) : State :=
  match s.fab.entries.find? (mayJoin s f pa) with
  | some e => joinEntry s f e
  | none =>
    if s.fab.entries.length < 4096 then
      let (f, s) := openEntry s f pa
      homeGo (s.bump (F.ANV_K_RD_COMB_OPENED f.req.port.val)) f false
    else homeGo s f true

/-- An atomic reaches the Anvil (R150). -/
def anvilAtomic (s : State) (f : Flight) (pa : Nat) : State :=
  match s.fab.entries.find? (mayJoin s f pa) with
  | some e => joinEntry s f e
  | none =>
    if isHot s (pa / 64) && decide (s.fab.entries.length < 4096) then (openEntry s f pa).2
    else homeGo ((renewHot s (pa / 64)).bump (F.ANV_K_AT_COMB_DISPATCHED f.req.port.val)) f true

/-! ### From the scheduler to the home -/

/-- A flag store whose earlier writes are all visible (R137). -/
def flagGo (s : State) (f : Flight) : State :=
  match flagBar s f with
  | some x => answer (s.bumpSat (F.ANV_K_FLAG_FAILED f.req.port.val)) f x.code x.tag []
  | none => homeGo s f true

/-- A translated request goes on: its tail (R515), the order of its source (R133), the flag rule (R135), the Anvil, the
home. -/
def proceed (s : State) (f : Flight) : State :=
  match f.pool with
  | none => s
  | some pa =>
    if f.req.cut then putFlight s { f with stage := .tail }
    else if orderBlocked s f then putFlight s { f with stage := .order }
    else if f.op.flag then (if flagBlocked s f then putFlight s { f with stage := .held } else flagGo s f)
    else if cxlPort s f.req.port.val then homeGo s f true
    else if (f.op = .rd ∨ f.op = .rdShared) ∧ s.flag F.ANV_CTRL_RD_EN then anvilRead s f pa
    else if f.op.atomic && s.flag F.ANV_CTRL_AT_EN then anvilAtomic s f pa
    else homeGo s f true

/-- A request to the doorbell or the handoff window (R126, R223, R225, R451). -/
def windowGo (s : State) (f : Flight) (pa : Nat) : State :=
  let r := f.req
  let n := reqSize r
  if pa < Config.doorbellBase then
    if f.op = .wrLine then
      answerCode { s with blk := { s.blk with inbox := s.blk.inbox ++ [⟨r.ctx.val, padTo 64 r.payload⟩] } } f .ok
    else answerCode s f .malformed
  else
    let off := pa - Config.doorbellBase
    let al := n = 8 ∧ pa % 8 = 0
    match f.op, doorbellRing off with
    | .wr, some g =>
      let (c, s) := doorbell s g r.port.val r.partner.val r.ctx.val al (leVal (padTo 8 r.payload))
      answerCode s f c
    | .rd, some g =>
      let (c, v, s) := doorbellGet s g r.port.val r.partner.val r.ctx.val al
      answer s f c 0 (if c = .ok then leBytes 8 v else [])
    | .wr, none => answerCode s f (if al then .ok else .malformed)
    | .rd, none => answer s f (if al then .ok else .malformed) 0 (if al then leBytes 8 0 else [])
    | _, _ => answerCode s f .malformed

/-- Translation of a selected request: steps 5 and 6 of R726. -/
def forward (s : State) (f : Flight) : State :=
  let r := f.req
  let c := r.ctx.val
  let deny := fun (s : State) => answerCode (s.bumpSat F.XLT_DENIED_QUEUE) f .denied
  if c = 0 then deny s
  else
    match translate s c r.addr.toNat (reqSize r) (opRight f.op) with
    | .code .cpair => answerCode (restoreCtx s c r.port.val) f .cpair
    | .code _ => deny s
    | .away _ _ _ => deny s
    | .here pa k =>
      let s := segLook s r.port.val c k
      let f := { f with pool := some pa }
      if inWindow pa then
        let db := decide (Config.doorbellBase ≤ pa)
        if r.cls.val = 1 ∧ ((f.op = .wrLine) = db) then answerCode s f .malformed
        else if f.req.cut then putFlight s { f with stage := .tail }
        else windowGo s f pa
      else if r.cls.val = 1 then answerCode s f .malformed
      else
        match grantCheck s f (pa / 2097152) with
        | some .remap => answerCode s f .remap
        | some d => answerCode (s.bumpSat F.CMP_STATS_GRANT_DENIED) f d
        | none =>
          let s := tlbLook s r.port.val (pa / 65536)
          proceed (putFlight s f) f

/-- A request is selected from its lane (R521). -/
def selectFlight (s : State) (f : Flight) (step3 : Bool) : State :=
  let p := f.req.port.val
  let t := f.req.tenant.val
  let c := f.req.cls.val
  let s := chargeTq s f step3
  let f := { f with stage := .order, step3 := step3, picked := true }
  let s := putFlight s f
  let s := if (laneOf s p t c).isEmpty then s else headTag s p t c
  noteLanes (forward s f) p

/-- Has the queue of a lane reserved service now (R521 step 3)? -/
def hasReserve (s : State) (p t : Nat) : Bool :=
  decide ((tenant s p t).resvCredit > 0) && decide ((tenant s p t).resv > 0)

/-- May the lane be selected at steps 4 and 5: the gate is open and the weight is not 0 (R522, R524)? -/
def weightedOk (s : State) (p t : Nat) : Bool := gateOpen s p && (tenant s p t).weight != 0

/-- A request that passed its header checks joins its lane (R507, R508); alone in it and eligible, it is selected at once. -/
def joinLane (s : State) (f : Flight) : State :=
  let r := f.req
  let p := r.port.val
  let t := r.tenant.val
  let c := r.cls.val
  let s := refreshTq s p t
  let spill := mustSpill s r
  let alone := (laneOf s p t c).isEmpty
  let s := if spill then countSpill s r else s
  let s := putFlight s { f with stage := .lane spill false }
  let s := if alone then headTag s p t c else s
  let s := noteLane s p t c
  if alone && !spill && laneReady s p t c && (hasReserve s p t || weightedOk s p t) then
    selectFlight s f (hasReserve s p t)
  else s

/-! ### Waking what waits -/

/-- Insert by a key, rising. -/
def insertBy (k : Flight → Nat) (f : Flight) : List Flight → List Flight
  | [] => [f]
  | g :: t => if k f < k g then f :: g :: t else g :: insertBy k f t

/-- Sort by a key, rising. -/
def sortBy (k : Flight → Nat) (l : List Flight) : List Flight := l.foldr (insertBy k) []

/-- Present a waiting flight again, if it still waits so. -/
def again (s : State) (f : Flight) (go : State → Flight → State) : State :=
  match flightOf s f.req.port.val f.req.tag.val with
  | none => s
  | some g => if g.stage = f.stage then go s g else s

/-- Take back what lapsed and fenced partners still hold (R552, R556). -/
def chaseBarred (s : State) : State :=
  if s.comp.lapsed.isEmpty && s.comp.fenced.isEmpty then s
  else
    let may := fun p q => !s.comp.lapsed.contains (tqKey p q) && !s.comp.fenced.contains (tqKey p q)
    cutAll s fun _ p q => (may p q, may p q)

/-- Serve what waits at the homes in reservation order (R187, R188), then what waits for its source in arrival order (R133). -/
def wake (s : State) : State :=
  let s := drainBacks (chaseBarred s)
  let home := sortBy (·.order) (s.fab.flights.filter fun f => match f.stage with | .home | .pending => true | _ => false)
  let s := home.foldl (fun s f => again s f fun s g => homeGo s g g.entry.isNone) s
  let late := sortBy (·.num) (s.fab.flights.filter fun f => f.stage = .order)
  late.foldl (fun s f => again s f proceed) s

/-- A flight whose last transaction has committed is served (R180). -/
def resumeFlight (s : State) (p t : Nat) : State :=
  match flightOf s p t with
  | none => s
  | some f =>
    if f.stage ≠ .txn ∨ s.dir.txns.any (fun x => x.what = .flight p t) then s
    else
      let (o, s) := if f.order = 0 then (1, s) else (f.order, s)
      homeGo s { f with order := o, stage := .home } (f.entry.isNone)

/-! ### Arrival -/

/-- A request of classes 1 to 3 arrives at a port (R139, R141, R142, R726). -/
def arrive (op : ROp) (r : Req) (s : State) : State :=
  let s := s.upto r.t
  let p := r.port.val
  if !portUp s p then s
  else
    match flightOf s p r.tag.val with
    | some f =>
      if f.stage = .replay ∧ f.op = op ∧ f.req.ctx = r.ctx then wake (proceed s { f with req := r })
      else s.bumpSat (F.ANV_K_OUTSTANDING_TAG_ERRORS p)
    | none =>
      let f : Flight := { op := op, req := r, num := s.fab.nextNum, stage := .tail, since := s.now }
      let s := { s with fab := { s.fab with flights := s.fab.flights ++ [f], nextNum := s.fab.nextNum + 1 } }
      let s := s.raiseTo (F.ANV_K_OUTSTANDING_PEAK p) (s.fab.flights.filter fun g => g.req.port = r.port).length
      match headCheck s op r with
      | some c =>
        let s := if c = .denied ∧ partnerOk s p r.partner.val then s.bumpSat (F.SCH_K_STATUS_TQ_DENIED p) else s
        wake (answerCode s f c)
      | none => wake (if r.cls.val = 1 then forward s f else joinLane s f)

end Sys2Proof.Machine
end

