-- ==== Sys2Proof/Machine/FabricRows.lean ====
section
/-! DEFINITION. The meanings of the partner requests and coherence messages, and of the events of the Anvil, the ordering slice
and the directory (spec/04, spec/05). -/

namespace Sys2Proof.Machine

open Sys2Proof

/-- Every command of this block ends in a next state. -/
abbrev Ans := Host.Outcome State Fault Refusal

/-! ### Requests (R124, R128, R169) -/

def execRd (r : Req) (s : State) : Ans := .next (arrive .rd r s)
def execRdShared (r : Req) (s : State) : Ans := .next (arrive .rdShared r s)
def execRdOwn (r : Req) (s : State) : Ans := .next (arrive .rdOwn r s)
def execWr (r : Req) (s : State) : Ans := .next (arrive .wr r s)
def execWrLine (r : Req) (s : State) : Ans := .next (arrive .wrLine r s)
def execWrFlag (r : Req) (s : State) : Ans := .next (arrive .wrFlag r s)
def execAtomAdd (r : Req) (s : State) : Ans := .next (arrive .fadd r s)
def execAtomAnd (r : Req) (s : State) : Ans := .next (arrive .fand r s)
def execAtomOr (r : Req) (s : State) : Ans := .next (arrive .fior r s)
def execAtomXor (r : Req) (s : State) : Ans := .next (arrive .fxor r s)
def execAtomSwap (r : Req) (s : State) : Ans := .next (arrive .swap r s)
def execAtomCas (r : Req) (s : State) : Ans := .next (arrive .cas r s)
def execAtomMinS (r : Req) (s : State) : Ans := .next (arrive .minS r s)
def execAtomMaxS (r : Req) (s : State) : Ans := .next (arrive .maxS r s)
def execAtomMinU (r : Req) (s : State) : Ans := .next (arrive .minU r s)
def execAtomMaxU (r : Req) (s : State) : Ans := .next (arrive .maxU r s)
def execAtomAddF (r : Req) (s : State) : Ans := .next (arrive .faddF r s)
def execAtomMinF (r : Req) (s : State) : Ans := .next (arrive .fminF r s)
def execAtomMaxF (r : Req) (s : State) : Ans := .next (arrive .fmaxF r s)
def execUpgrade (r : Req) (s : State) : Ans := .next (arrive .upgrade r s)
def execPublish (r : Req) (s : State) : Ans := .next (arrive .publish r s)

/-! ### Class-0 messages (R169 to R172, R175 to R180) -/

/-- The line that a class-0 message names, by ADDRESS[46:0]. -/
def msgLine (r : Req) : Nat := r.addr.toNat % 2 ^ 47 / 64

/-- The checks of R172 but for the snoop tag. -/
def msgOk (s : State) (r : Req) : Bool :=
  r.cls.val == 0 && decide (r.addr.toNat / 2 ^ 47 % 512 = s.get F.CMP_NODE_NODE_ID) && ctxValid s r.ctx.val &&
    match s.page? (msgLine r / 32768) with
    | some e => e.domain == ctxDomain s r.ctx.val
    | none => false

/-- A reply to an eviction; it holds no TAG of R141. -/
def evictReply (s : State) (r : Req) (c : Code) : State := s.emit (.reply r.port.val r.tag.val r.cls.val c 0 [])

/-- An eviction that R172 admits (R175, R178, R572). -/
def evictGo (s : State) (r : Req) (dirty : Bool) : State :=
  let line := msgLine r
  let me := (r.port.val, r.partner.val)
  let data := padTo 64 r.payload
  match dirEnt s line with
  | some e =>
    match e.st with
    | .owned =>
      if !e.shr.contains me then stray s line
      else
        match s.dir.txns.find? fun t => t.line = line with
        | some t => putTxn s { t with evicted := true, data := if dirty then some data else t.data }
        | none => putDir (if dirty then writeLine s line (line * 64) data else s) line none
    | .shared =>
      if !e.shr.contains me then stray s line
      else dropSharer (if dirty then stray s line else s) line e me
    | .mask => if !e.mask.contains me.1 ∨ dirty then stray s line else s
  | none =>
    if dirty ∧ bits (s.get F.CMP_NODE_LOST_HOME) (homeIndex (line / 32768)) 1 = 1 ∧ linePoisoned s line then
      writeLine s line (line * 64) data
    else stray s line

/-- EVICT_CLEAN and EVICT_DIRTY. -/
def evict (dirty : Bool) (r : Req) (s : State) : State :=
  let s := s.upto r.t
  if !portUp s r.port.val then s
  else
    let s := clearUnresp s r.port.val r.partner.val
    if !msgOk s r then evictReply (stray s (msgLine r)) r (if r.cls.val ≠ 0 then .malformed else .denied)
    else wake (evictReply (evictGo s r dirty) r .ok)

def execEvictClean (r : Req) (s : State) : Ans := .next (evict false r s)
def execEvictDirty (r : Req) (s : State) : Ans := .next (evict true r s)

/-- The transaction and snoop that an answer names (R172). -/
def snoopOf (s : State) (p stag q : Nat) : Option (Txn × Snoop) :=
  s.dir.txns.findSome? fun t => (t.snoops.find? fun x => x.port = p && x.stag = stag && x.partner = q).map fun x => (t, x)

/-- What a transaction served goes on once it has ended. -/
def resumeWhat (s : State) (t : Txn) : State :=
  if s.dir.txns.any fun u => u.line = t.line then s
  else
    match t.what with
    | .flight p g => wake (resumeFlight s p g)
    | _ => wake s

/-- An answer has come for a snoop (R180). -/
def answered (s : State) (t : Txn) (x : Snoop) (data : Option (List Byte)) (kept : Bool) : State :=
  let t := { t with snoops := t.snoops.filter (fun y => y != x), data := data.orElse fun _ => t.data, kept := kept }
  resumeWhat (commitTxn s t) t

/-- SNP_ACK and SNP_FWD. -/
def snoopAnswer (fwd : Bool) (r : Req) (s : State) : State :=
  let s := s.upto r.t
  if !portUp s r.port.val then s
  else
    let s := if r.cls.val = 0 then clearUnresp s r.port.val r.partner.val else s
    match snoopOf s r.port.val r.tag.val r.partner.val with
    | none => stray s (msgLine r)
    | some (t, x) =>
      if !msgOk s r ∨ msgLine r ≠ t.line then stray s (msgLine r)
      else if fwd && x.owner then
        answered s t x (if r.ret then some (padTo 64 r.payload) else none) (r.b30 && x.op == 0x39)
      else answered s t x none false

def execSnpAck (r : Req) (s : State) : Ans := .next (snoopAnswer false r s)
def execSnpFwd (r : Req) (s : State) : Ans := .next (snoopAnswer true r s)

/-- The transactions of a flight serve nothing any more. -/
def detachTxns (s : State) (p g : Nat) : State :=
  let f := fun u : Txn => if u.what = TxnFor.flight p g then { u with what := TxnFor.none } else u
  { s with dir := { s.dir with txns := s.dir.txns.map f } }

/-- A snoop is declared unanswered (R195 to R199). -/
def unanswered (s : State) (t : Txn) (x : Snoop) : State :=
  let n := lineHome s t.line
  if x.owner = false then answered (s.bumpSat (F.DIR_S_TIMEOUTS_SHARER_DROPPED n)) t x none false
  else
    let s := markUnresp s n x.port x.partner
    if t.evicted then answered s t x none false
    else
      let s := { s with dir := { s.dir with txns := s.dir.txns.filter fun u => u.line ≠ t.line } }
      let s := ownerLost s t.line x.port x.partner
      let s := match t.what with
        | .flight p g => (match flightOf s p g with
            | some f =>
              endHome (detachTxns s p g) f .ownerLost
            | none => s)
        | .job g i => (match findJob s g i with | some j => finishJob s j .ownerLost | none => s)
        | _ => s
      wake (pumpSnoops s)

/-- SNOOP_TIMEOUT (R195, R199). -/
def execSnoopTimeout (p : Fin 6) (g : Fin 2048) (t : Nat) (s : State) : Ans :=
  let s := s.upto t
  .next <|
    match s.dir.txns.findSome? fun u => (u.snoops.find? fun x => x.port = p.val && x.stag = g.val).map fun x => (u, x) with
    | none => s
    | some (u, x) =>
      let n := lineHome s u.line
      if s.now < x.sent + 1000 * s.get (F.DIR_S_RECALL_CFG_TIMEOUT_US n) then s
      else if x.sends ≤ s.get (F.DIR_S_RECALL_CFG_RETRIES n) ∧ !s.dir.unresp.contains (n, x.port, x.partner) then
        let y := { x with sends := x.sends + 1, sent := s.now }
        let s := putTxn s { u with snoops := u.snoops.map fun z => if z = x then y else z }
        (s.emit (.snoop x.port x.op x.stag x.partner (lineFabric s u.line))).bumpSat (F.DIR_S_TIMEOUTS_RESENDS n)
      else unanswered s u x

/-! ### Events of the Anvil and the ordering slice -/

/-- READ_ENTRY_DATA_RETURN (R147): the opener's access is served and every joiner answered. -/
def execReadEntryDataReturn (id t : Nat) (s : State) : Ans :=
  let s := s.upto t
  .next <| wake <|
    match s.fab.flights.find? fun f => f.entry = some id && f.stage = .anvil id with
    | some f => (match entryOf s id with
        | some e => if e.atomic || e.resv then s else homeGo s f true
        | none => s)
    | none => s

/-- ATOMIC_WINDOW_EXPIRY (R150): the entry closes and is dispatched. -/
def execAtomicWindowExpiry (id t : Nat) (s : State) : Ans :=
  let s := s.upto t
  .next <| wake <|
    match entryOf s id with
    | none => s
    | some e =>
      if !e.atomic || e.closed || decide (2 * (s.now - e.start) < s.get F.ANV_CTRL_AT_WINDOW) then s
      else
        match s.fab.flights.find? fun f => f.entry = some id with
        | none => dropEntry s id
        | some f =>
          let s := putEntry s { e with closed := true }
          homeGo ((renewHot s (e.pool / 64)).bump (F.ANV_K_AT_COMB_DISPATCHED f.req.port.val)) f true

/-- ANVIL_RSV_REISSUE (R152): the entry's access is reissued with its reservation. -/
def execAnvilRsvReissue (id t : Nat) (s : State) : Ans :=
  let s := s.upto t
  .next <| wake <|
    match entryOf s id with
    | none => s
    | some e =>
      if !e.resv then s
      else
        match s.fab.flights.find? fun f => f.entry = some id with
        | none => dropEntry s id
        | some f => homeGo (putEntry s { e with resv := false, closed := true }) f true

/-- FLAG_RELEASE (R135, R137). -/
def execFlagRelease (p : Fin 6) (g : Fin 8192) (t : Nat) (s : State) : Ans :=
  let s := s.upto t
  .next <|
    match flightOf s p.val g.val with
    | none => s
    | some f =>
      if f.stage ≠ .held ∨ flagBlocked s f then s
      else wake (flagGo (s.raiseTo (F.ANV_K_FLAG_MAX_NS p.val) (s.now - f.since)) f)

/-- TAIL_STATUS (R515, R516). -/
def execTailStatus (p : Fin 6) (g : Fin 8192) (k : Tail) (t : Nat) (s : State) : Ans :=
  let s := s.upto t
  .next <|
    match flightOf s p.val g.val with
    | none => s
    | some f =>
      if f.stage ≠ .tail then s
      else
        match k with
        | .good =>
          let f := { f with req := { f.req with cut := false } }
          let s := putFlight s f
          wake (match f.pool with
            | some pa => if inWindow pa then windowGo s f pa else proceed s f
            | none => s)
        | .poisoned => wake (answerCode (s.bumpSat (F.SCH_K_STATUS_TAIL_POISONED p.val)) f .poison)
        | .replayed => putFlight (s.bumpSat (F.SCH_K_STATUS_TAIL_REPLAYED p.val)) { f with stage := .replay }

/-! ### Events of the directory -/

/-- HOLD_EXPIRY (R184): what waited for the owner's hold goes on. -/
def execHoldExpiry (line : Fin (2 ^ 41)) (t : Nat) (s : State) : Ans :=
  let s := s.upto t
  .next (match dirEnt s line.val with
    | some e => if holdRuns s line.val e then s else wake s
    | none => wake s)

/-- DIR_HOLD_SWEEP (R168). -/
def execDirHoldSweep (n : Fin 4) (t : Nat) (s : State) : Ans :=
  let s := s.upto t
  let ents := s.dir.ents.map fun e =>
    if lineHome s e.1 = n.val ∧ e.2.held ∧ !holdRuns s e.1 e.2 then (e.1, { e.2 with held := false }) else e
  .next (wake { s with dir := { s.dir with ents := ents } })

/-- RESERVATION_EXPIRY (R189). -/
def execReservationExpiry (p : Fin 6) (latency : Bool) (k : Fin 64) (t : Nat) (s : State) : Ans :=
  let s := s.upto t
  let c := if latency then 2 else 3
  .next <|
    match s.dir.rsvs.find? fun r => r.port = p.val && r.cls = c && r.credit = k.val with
    | none => s
    | some r =>
      let n := lineHome s r.line
      if s.now < r.made + 1000 * s.get (F.DIR_S_RECALL_CFG_RSV_TIMEOUT_US n) then s
      else wake ({ s with dir := { s.dir with rsvs := s.dir.rsvs.filter (fun x => x != r) } }.bumpSat (F.DIR_S_RETRY_EXPIRED n))

/-- PENDING_BUFFER_RETRY (R188). -/
def execPendingBufferRetry (n : Fin 4) (t : Nat) (s : State) : Ans :=
  let s := s.upto t
  let l := sortBy (·.order) (s.fab.flights.filter fun f => f.stage = .atPort &&
    match f.pool with | some a => lineHome s (a / 64) = n.val | none => false)
  .next (wake (l.foldl (fun s f => if pendingOf s n.val < 1024 then putFlight s { f with stage := .pending } else s) s))

/-- Remove a task from every waiter list and from what is stalled. -/
def dropWaiter (s : State) (k : Task) : State :=
  let f := fun r : FaultRec => { r with waiters := r.waiters.filter fun w => w.task != k }
  { s with xlt := { s.xlt with
      queue := s.xlt.queue.map f, service := s.xlt.service.map f,
      late := s.xlt.late.filter fun l => match l with
        | .record _ => true
        | .stalled _ w => w.task != k
        | .noRoom _ _ w => w.task != k } }

/-- FAULT_HELD_TIMEOUT (R112). -/
def execFaultHeldTimeout (p : Fin 6) (g : Fin 8192) (t : Nat) (s : State) : Ans :=
  let s := s.upto t
  .next <|
    match flightOf s p.val g.val with
    | none => s
    | some f =>
      if f.stage ≠ .fault ∨ s.now < f.since + 1000000 * s.get F.XLT_CTRL_FAULT_TIMEOUT_MS then s
      else wake (endHome (dropWaiter s (.flight p.val g.val)) f .faultHeld)

/-- MIGRATING_WAIT_TIMEOUT (R59): a wait of more than 2 µs becomes a page fault. -/
def execMigratingWaitTimeout (p : Fin 6) (g : Fin 8192) (t : Nat) (s : State) : Ans :=
  let s := s.upto t
  .next <|
    match flightOf s p.val g.val with
    | none => s
    | some f =>
      match f.pool with
      | none => s
      | some pa =>
        if f.stage ≠ .migrating ∨ s.now ≤ f.since + 2000 then s
        else
          let ix := match s.page? (pa / 2097152) with
            | some e => (match e.loc with | .migrating x => x.index | _ => 0)
            | none => 0
          let w : Waiter := { task := .flight p.val g.val, ctx := f.req.ctx.val, seg := 16, unit := p.val, since := s.now }
          pageFault (putFlight s { f with stage := .fault, since := s.now }) (pa / 2097152) 2 ix pa true
            (0x1C + homeOf s (pa / 2097152)) w

/-- Writing CLEAR of ANV_Kp_FLAG (R137): MAX_NS and FAILED become 0. -/
def anvFlagClear (s : State) (p : Nat) : State := (s.set (F.ANV_K_FLAG_MAX_NS p) 0).set (F.ANV_K_FLAG_FAILED p) 0

end Sys2Proof.Machine
end

