-- ==== Sys2Proof/Machine/Jobs.lean ====
section
/-! DEFINITION. Descriptors at work: the queue-time check of R89, the rules of when a descriptor may start (R114, R234 to R238),
and the memory accesses of the device's own units (R29, R87, R91, R105, R190). -/

namespace Sys2Proof.Machine

open Sys2Proof

/-! ### Queue time (R87, R89, R228) -/

/-- The header's reserved fields are zero (R226). -/
def descHeaderOk (ws : List Word) : Bool := dbits ws 3 3 5 == 0 && dbits ws 8 0 64 == 0

/-- The context a descriptor names. -/
def descCtx (ws : List Word) : Nat := dbits ws 1 0 16

/-- An address range of a descriptor: context virtual address, length in bytes and the right it needs. -/
structure Range where
  va : Nat
  len : Nat
  right : Right
deriving DecidableEq, Repr

/-- Orders 1 to 5 of R89 for a descriptor: the first code that holds. -/
def queueCheck (s : State) (g : Nat) (ws : List Word) (fmt accepts : Bool) (rs : List Range) : Option Code :=
  let c := descCtx ws
  let ts := rs.map fun r => if r.len = 0 then Where.here 0 16 else translate s c r.va r.len r.right
  if !descHeaderOk ws || !fmt then some .malformed
  else if c ≠ ringCtx g ∨ !ctxValid s c ∨ !accepts then some .denied
  else if ts.any fun t => t = .code .cpair then some .cpair
  else if ts.any fun t => match t with | .code _ => true | _ => false then some .denied
  else none

/-- The segments, as context × 16 + segment, that ranges go through. -/
def rangeSegs (s : State) (c : Nat) (rs : List Range) : List Nat :=
  rs.filterMap fun r => match translate s c r.va r.len r.right with
    | .here _ k => some (c * 16 + k)
    | .away _ _ k => some (c * 16 + k)
    | .code _ => none

/-! ### When a descriptor may start -/

/-- Has every earlier descriptor of the ring completed (R238)? The job table keeps the order of fetching, and a completed
descriptor has left it. -/
def fenceClear (s : State) (j : Job) : Bool :=
  (s.rings.jobs.takeWhile fun k => !(k.ring = j.ring && k.idx = j.idx)).all fun k => k.ring != j.ring

/-- The members of a chain from a job on, when all of them have been fetched (R235). -/
def chainFrom (s : State) (g : Nat) : Nat → Nat → Option (List Job)
  | 0, _ => none
  | fuel + 1, i =>
    match findJob s g i with
    | none => none
    | some j => if j.st = .reading then none
      else if descChain j.words then (chainFrom s g fuel ((i + 1) % 65536)).map (j :: ·) else some [j]

/-- The job just before, when it belongs to the same chain and has not completed. -/
def chainPrev (s : State) (j : Job) : Option Job :=
  match findJob s j.ring ((j.idx + 65535) % 65536) with
  | some k => if descChain k.words then some k else none
  | none => none

/-- The first member of a job's chain. -/
def chainHead (s : State) : Nat → Job → Job
  | 0, j => j
  | fuel + 1, j => match chainPrev s j with | some k => chainHead s fuel k | none => j

/-- May a queued job start: its context is not throttled (R114) nor stalled at its unit (R115), its fence (of its chain, where
it has one) is clear (R238), the chain's members are fetched (R235) and the member before it has completed with OK? -/
def mayStart (s : State) (j : Job) (unit : Nat) : Bool :=
  let c := ringCtx j.ring
  let h := chainHead s 256 j
  !throttled s c && !stalledAt s unit c &&
  (!descChain h.words || (chainFrom s j.ring 256 h.idx).isSome) &&
  (!(descFence j.words) || fenceClear s j) &&
  (!((chainFrom s j.ring 256 h.idx).getD []).any (fun k => descFence k.words) || fenceClear s h) &&
  (chainPrev s j).isNone

/-! ### Memory accesses of the device's own units -/

/-- The port that the composition map routes a node to, when it is UP (R154). -/
def routeUp (s : State) (node : Nat) : Option Nat :=
  match tabGet? node s.comp.map.routes with
  | some p => if portUp s p then some p else none
  | none => none

/-- The lowest free outbound tag of a port (R143). -/
def freeTag (s : State) (p : Nat) : Option Nat :=
  let used := (s.fab.outReqs.filter fun o => o.port = p).map (·.tag)
  (List.range (used.length + 1)).find? fun t => !used.contains t && decide (t < 8192)

/-- Send a request through a port under an outbound tag (R143, R153, R154). -/
def sendOut (s : State) (p : Nat) (o : OutReq) : State :=
  match freeTag s p with
  | none => s
  | some t =>
    let s := { s with fab := { s.fab with outReqs := s.fab.outReqs ++ [{ o with port := p, tag := t }] } }
    s.emit (.request p t o.what o.addr (tabGet 0 o.node s.comp.remote) o.data)

/-- What stands in the way of an access: nothing, a code that ends the job, a wait, or a page fault. -/
inductive Bar where
  | clear
  | code (c : Code)
  | wait
  | fault (page kind detail addr seg : Nat)
deriving DecidableEq, Repr

/-- Does a right write? -/
def Right.writes : Right → Bool
  | .rd | .ex => false
  | _ => true

/-- The access kind of a right (R107). -/
def Right.kind : Right → AccKind
  | .rd => .read
  | .ex => .fetch
  | .atm => .atomic
  | _ => .write

/-- What stands in the way of one range for a device requester, after the recalls it needs have been started (R20 to R22, R90,
R725, R190). -/
def barRange (s : State) (v : Option View) (c : Nat) (what : TxnFor) (r : Range) : Bar × State :=
  if r.len = 0 then (.clear, s)
  else
    match translate s c r.va r.len r.right with
    | .code x => (.code x, s)
    | .away fa _ _ => (if (routeUp s (fa / 2 ^ 47)).isSome then .clear else .code .portLost, s)
    | .here pa k =>
      let s := segLook s (6 + homeOf s (pa / 2097152)) c k
      match locateRange s pa r.len r.right.kind with
      | some (_, .denied) => (.code .denied, s)
      | some (g, .fault kind d) => (.fault (g / 32) kind d (max pa (g * 65536)) k, s)
      | some (_, _) => (.wait, s)
      | none =>
        if (pagesOf pa r.len).any fun p => !domainOk s c p then (.code .denied, s.bumpSat F.XLT_DENIED_HOME)
        else
          let s := (granulesOf pa r.len).foldl (fun s g => tlbLook s (6 + homeOf s (g / 32)) g) s
          let w := r.right.writes
          let need := fun l => if w then (usesGuest s v l).isNone else readsHome s v l
          let ls := (knownLines s pa r.len).filter need
          let s := ls.foldl (fun s l => recallLine s l w what) s
          (if ls.any (fun l => lineBlocks s l w) then .wait else .clear, s)

/-- The first bar of several ranges. -/
def barRanges (s : State) (v : Option View) (c : Nat) (what : TxnFor) : List Range → Bar × State
  | [] => (.clear, s)
  | r :: t =>
    match barRange s v c what r with
    | (.clear, s) => barRanges s v c what t
    | x => x

/-- Prepare a job's accesses: true when every range can be used now; else the job has been ended, suspended on a fault (R105)
or left waiting. -/
def prepareAs (s : State) (j : Job) (c unit : Nat) (rs : List Range) (v : Option View := none) : Bool × State :=
  match barRanges s v c (.job j.ring j.idx) rs with
  | (.clear, s) => (true, s)
  | (.code x, s) => (false, finishJob s j x)
  | (.wait, s) => (false, putJob s { j with st := .waiting })
  | (.fault p k d a sg, s) =>
    let w : Waiter := { task := .job j.ring j.idx, ctx := c, seg := sg, unit := unit, since := s.now }
    (false, pageFault (putJob s { j with st := .faulted, unit := unit }) p k d a true unit w)

/-- The same under the ring's own context. -/
def prepare (s : State) (j : Job) (unit : Nat) (rs : List Range) (v : Option View := none) : Bool × State :=
  prepareAs s j (ringCtx j.ring) unit rs v

/-- Bytes from outside the device: free values. -/
def remoteBytes (k : Nat) : Nat → List Byte
  | 0 => []
  | n + 1 => remoteBytes k n ++ [Config.remoteByte k n]

/-- The bytes of a range out of the lines it touches. -/
def cutLines (ls : List (List Byte)) (pa len : Nat) : List Byte := (ls.flatten.drop (pa % 64)).take len

/-- Read a range that `prepare` has cleared; `prom`: the read is a touch (R60, R338). -/
def readVa (s : State) (c va len : Nat) (r : Right := .rd) (v : Option View := none) (prom : Bool := true) : List Byte × State :=
  if len = 0 then ([], s)
  else
    match translate s c va len r with
    | .here pa _ =>
      let s := if prom then (granulesOf pa len).foldl touch s else s
      let s := telem (countLines s (linesOf pa len)) (ctxDomain s c) fun x =>
        { x with rd := x.rd + 64 * ((linesOf pa len).filter (readsHome s v)).length }
      let (ls, s) := (linesOf pa len).foldl (fun (a : List (List Byte) × State) l =>
        let (d, s) := readLine a.2 v l
        (d :: a.1, s)) ([], s)
      (cutLines ls.reverse pa len, s)
    | .away fa _ _ =>
      let s := match routeUp s (fa / 2 ^ 47) with
        | some p => sendOut s p { port := p, tag := 0, what := "RD", addr := fa, node := fa / 2 ^ 47 }
        | none => s
      (remoteBytes s.free len, { s with free := s.free + 1 })
    | .code _ => ([], s)

/-- Is any line of a cleared range that is read at its home poisoned or lost (R155, R161)? -/
def poisonVa (s : State) (c va len : Nat) (v : Option View := none) : Bool :=
  if len = 0 then false
  else
    match translate s c va len .rd with
    | .here pa _ => (linesOf pa len).any fun l => readsHome s v l && (s.dir.lost.contains l || linePoisoned s l)
    | _ => false

/-- Write a range that `prepare` has cleared. -/
def writeVa (s : State) (c va : Nat) (data : List Byte) (v : Option View := none) : State :=
  if data.isEmpty then s
  else
    match translate s c va data.length .wr with
    | .here pa _ =>
      let s := (granulesOf pa data.length).foldl touch s
      let s := telem (countLines s (linesOf pa data.length)) (ctxDomain s c) fun x =>
        { x with wr := x.wr + 64 * ((linesOf pa data.length).filter fun l => (usesGuest s v l).isNone).length }
      let s := closeReads s pa data.length
      (linesOf pa data.length).foldl (fun s l =>
        let lo := max pa (l * 64)
        let hi := min (pa + data.length) (l * 64 + 64)
        writePart s v c l lo ((data.drop (lo - pa)).take (hi - lo))) s
    | .away fa _ _ => (match routeUp s (fa / 2 ^ 47) with
        | some p => sendOut s p { port := p, tag := 0, what := "WR", addr := fa, data := data, node := fa / 2 ^ 47 }
        | none => s)
    | .code _ => s

/-- Mark every line of a cleared destination range poisoned (R161). -/
def spoilVa (s : State) (c va len : Nat) : State :=
  if len = 0 then s
  else
    match translate s c va len .wr with
    | .here pa _ => (linesOf pa len).foldl spoilLine s
    | _ => s

/-- The pool address of a range on this device. -/
def poolOf (s : State) (c va len : Nat) (r : Right) : Option Nat :=
  match translate s c va len r with
  | .here pa _ => some pa
  | _ => none

/-! ### Engine jobs and the sector caches (R296, R297, R302) -/

/-- Is the context's freshness mode acquire (R296)? -/
def ctxFresh (s : State) (c : Nat) : Bool := (tabGet {} c s.xlt.ctxs).fresh

/-- How a started engine job sees memory from sector `n`. -/
def jobView (s : State) (j : Job) (n : Nat) : View := ⟨n, if ctxFresh s (ringCtx j.ring) then none else some j.stamp⟩

/-- The start of an engine job in a sector: it takes the sector's next stamp, or acquires its input ranges (R296). -/
def engineStart (s : State) (j : Job) (n : Nat) (ins : List Range) : Job × State :=
  let c := ringCtx j.ring
  if ctxFresh s c then
    (j, ins.foldl (fun s r => match poolOf s c r.va r.len r.right with
      | some pa => acquireRange s [n] pa r.len
      | none => s) s)
  else
    let (k, s) := nextStamp s n
    ({ j with stamp := k }, s)

/-- The sector of an engine's SOURCE code (R108). -/
def unitSector (u : Nat) : Option Nat :=
  if 0x08 ≤ u ∧ u < 0x10 then some ((u - 0x08) / 2) else if 0x10 ≤ u ∧ u < 0x1C then some (u % 4) else none

/-! ### Running a descriptor's row -/

/-- The requests sent since there were `k` of them are a descriptor's (R241). -/
def ownReqs (s : State) (k : Nat) (j : Job) : State :=
  let own := fun o : OutReq => { o with job := some (j.ring, j.idx) }
  { s with fab := { s.fab with outReqs := s.fab.outReqs.take k ++ (s.fab.outReqs.drop k).map own } }

/-- Run the row of an opcode on a fetched descriptor: nothing happens unless the descriptor is in the job table with these words,
has passed queue time and may start or go on; `eff` is the opcode's own effect. -/
def runDesc (s : State) (d : Desc) (op : Nat) (unit : Nat) (eff : State → Job → State) : State :=
  let s := s.upto d.t
  match findJob s d.ring.val d.idx.val with
  | none => s
  | some j =>
    if j.words ≠ d.words ∨ descOp j.words ≠ op then s
    else
      let k := s.fab.outReqs.length
      match j.st with
      | .queued =>
        if mayStart s j unit && unitReady s op unit then ownReqs (eff (ungate s unit) { j with st := .running, unit := unit }) k j else s
      | .running | .waiting => if stalledAt s unit (ringCtx j.ring) || !unitReady s op unit then s else ownReqs (eff s j) k j
      | _ => s

end Sys2Proof.Machine
end

