-- ==== Sys2Proof/Machine/Store.lean ====
section
/-! DEFINITION. The meanings of the store (spec/02): allocation, migration, compression, ECC and Drizzle, channel states and
Haze. -/

namespace Sys2Proof.Machine

open Sys2Proof

/-! ### Far pressure (R63) -/

/-- Bring FAR_PRESSURE of a sector up to date: a rise posts a record of capacity pressure and raises the interrupt source. -/
def farCheck (s : State) (n : Nat) : State :=
  let low := decide (freeFar s n < s.get (F.TIER_S_FAR_CFG_LOW_FRAMES n))
  if low && !s.flag (F.TIER_S_FAR_STATUS_FAR_PRESSURE n) then
    let s := s.setFlag (F.TIER_S_FAR_STATUS_FAR_PRESSURE n) true
    raiseIrq (postFault s { kind := 5, source := 0x1C + n, detail := min (freeFar s n) (2 ^ 32 - 1) }) 5
  else if low then s else s.setFlag (F.TIER_S_FAR_STATUS_FAR_PRESSURE n) false

/-! ### Allocation and freeing (R36 to R45) -/

/-- Is the page inside a valid region of the domain (R40 order 2, R111)? -/
def inRegion (m : CMap) (dom p : Nat) : Bool :=
  m.regions.any fun r => r.2.domain = dom && decide (r.2.basePage ≤ p) && decide (p < r.2.basePage + r.2.pages)

/-- Pages a domain holds. -/
def domPages (s : State) (d : Nat) : Nat := (s.store.pages.filter fun e => e.2.domain = d).length

/-- The page quota of a domain (R600); the device's own domain 0 has none. -/
def quotaLeft (s : State) (d : Nat) : Nat :=
  if d = 0 then Config.maxPages else (tabGet {} d s.sec.doms).quota - domPages s d

/-- The pages of a range homed in a sector. -/
def homedIn (s : State) (ps : List Nat) (n : Nat) : List Nat := ps.filter fun p => homeOf s p = n

/-- Would allocating these pages for a domain exceed R36, R42, R63, R600 or the pin limits (order 5 of R40)? -/
def overCapacity (s : State) (dom : Nat) (ps : List Nat) (pin : Bool) : Bool :=
  decide (s.store.pages.length + ps.length > Config.maxPages) || decide (ps.length > quotaLeft s dom) ||
  (List.range 4).any fun n =>
    let k := (homedIn s ps n).length
    k != 0 && (s.flag (F.TIER_S_FAR_STATUS_FAR_PRESSURE n) || decide (residentPages s n + k > sectorLimit s n) ||
      (pin && decide (pinned s n + k > s.get (F.TIER_S_NEAR_WATER_PIN_LIMIT n))) ||
      (pin && decide (k > freeNear s n)))

/-- Allocate one page with content zero (R41): far with zero granules, or near when pinned. -/
def allocPage (s : State) (p : Nat) (e : Page) : State :=
  let s := s.zeroPage p
  let e := { e with loc := .far zeroFar, movedAt := s.now }
  if e.pinNear then
    match takeFrame s (homeOf s p) with
    | (some f, s) => s.putPage p { e with loc := .near f }
    | (none, s) => s.putPage p e
  else s.putPage p e

/-- The start of a run of `k` free near frames of a sector. -/
def frameRun (s : State) (n k : Nat) : Option Nat :=
  let used := nearUsed s n
  let lo := Config.nearFrames - s.get (F.TIER_S_NEAR_STATUS_POOL_FRAMES n)
  (lo :: used.map (· + 1)).find? fun a => decide (lo ≤ a) && decide (a + k ≤ Config.nearFrames) &&
    (span a k).all fun f => !used.contains f && stackTakes s n f

/-- Lay a sector's pages of a region into a contiguous run: a huge mapping (R46, R50). -/
def layHuge (s : State) (r n : Nat) : State :=
  let ps := homedIn s (span (r * 512) 512) n
  match frameRun s n ps.length with
  | none => s
  | some a =>
    let s := (ps.zip (span a ps.length)).foldl (fun s x =>
      { s with store := { s.store with pages := tabMod x.1 (fun e => { e with loc := .near x.2 }) s.store.pages } }) s
    { s with store := { s.store with huge := setAdd (r * 4 + n) s.store.huge } }

/-- Free pages: their content, lines, poison, staging and planned moves go with them (R43, R44, R201). -/
def freePages (s : State) (ps : List Nat) : State :=
  let inn := fun p : Nat => ps.contains p
  let s := ps.foldl (fun s p => s.zeroPage p) (discardGuests s ps)
  { s with
    store := { s.store with
      pages := s.store.pages.filter fun e => !inn e.1
      poison := s.store.poison.filter fun l => !inn (l / 32768)
      dirty := s.store.dirty.filter fun l => !inn (l / 32768)
      stage := s.store.stage.filter fun e => !inn (e.1 / 32)
      moves := s.store.moves.filter fun m => !inn m.first
      huge := s.store.huge.filter fun h => !ps.any fun p => p / 512 = h / 4 }
    dir := { s.dir with lost := s.dir.lost.filter fun l => !inn (l / 32768) } }

/-- Body fields of the tier family (R39). -/
structure TierBody where
  base : Nat
  count : Nat
  tensor : Bool
  pinNear : Bool
  preferFar : Bool
  neverCompress : Bool
  huge : Bool
  join : Bool
deriving DecidableEq, Repr

def tierBody (ws : List Word) : TierBody :=
  { base := dbits ws 16 0 47, count := dbits ws 24 0 32, tensor := dbits ws 28 0 1 == 1, pinNear := dbits ws 28 1 1 == 1,
    preferFar := dbits ws 28 2 1 == 1, neverCompress := dbits ws 28 3 1 == 1, huge := dbits ws 28 4 1 == 1,
    join := dbits ws 28 5 1 == 1 }

/-- Order 1 of R40. -/
def tierFmt (ws : List Word) : Bool :=
  let b := tierBody ws
  let op := descOp ws
  b.base % 2097152 == 0 && b.count != 0 && dbits ws 16 47 17 == 0 && dbits ws 28 6 10 == 0 && dbits ws 30 0 272 == 0 &&
    (op == 0x40 || (!b.tensor && !b.huge)) && (op == 0x43 || !b.join) && !(b.pinNear && b.preferFar) &&
    !(b.tensor && decide (b.count > 32768))

/-- Does the range cover part of a registered tensor of several pages but not all of it (order 4 of R40)? -/
def cutsTensor (s : State) (ps : List Nat) : Bool :=
  ps.any fun p => match s.page? p with
    | none => false
    | some e => (tensorOf s p).any fun x => x.2.tensorBase = e.tensorBase && !ps.contains x.1

/-- Orders 2 to 5 of R40 for an opcode. -/
def tierCheck (s : State) (op dom : Nat) (b : TierBody) (ps : List Nat) : Option Code :=
  let alloc := op = 0x40
  if ps.any fun p => inWindow (p * 2097152) || !inRegion s.comp.map dom p || decide (p ≥ Config.poolPages) then some .denied
  else if ps.any fun p => match s.page? p with
      | some e => alloc || decide (e.domain ≠ dom)
      | none => !alloc then some .denied
  else if !alloc && cutsTensor s ps then some .malformed
  else if alloc && overCapacity s dom ps b.pinNear then some .capacity
  else if op = 0x42 ∧ b.pinNear ∧ (List.range 4).any (fun n =>
      let k := ((homedIn s ps n).filter fun p => match s.page? p with | some e => !e.pinNear | none => false).length
      k != 0 && decide (pinned s n + k > s.get (F.TIER_S_NEAR_WATER_PIN_LIMIT n))) then some .capacity
  else none

/-- The pages of a tier descriptor. -/
def tierPages (b : TierBody) : List Nat := span (b.base / 2097152) b.count

/-- TIER_ALLOC's own effect. -/
def allocGo (s : State) (dom : Nat) (b : TierBody) (ps : List Nat) : State :=
  let first := b.base / 2097152
  let s := ps.foldl (fun s p => allocPage s p
    { domain := dom, tensorBase := if b.tensor then first else p,
      tensorPages := if b.tensor ∧ p = first then b.count - 1 else 0,
      pinNear := b.pinNear, preferFar := b.preferFar, neverCompress := b.neverCompress }) s
  if b.huge && b.pinNear then
    ((ps.map (· / 512)).eraseDups.filter fun r => (span (r * 512) 512).all fun p => ps.contains p).foldl
      (fun s r => (List.range 4).foldl (fun s n => layHuge s r n) s) s
  else s

/-- The engine code of the migration unit that runs a tier descriptor: that of the home sector of its first page. -/
def tierUnit (s : State) (ws : List Word) : Nat := 0x1C + homeOf s (dbits ws 16 0 47 / 2097152)

/-- A tier descriptor's row: the checks of R40, then the opcode's effect, which ends the job or leaves it waiting. -/
def tierRun (op : Nat) (d : Desc) (s : State) (eff : State → Job → Nat → TierBody → List Nat → State) : State :=
  runDesc s d op (tierUnit s d.words) fun s j =>
    let b := tierBody j.words
    let ps := tierPages b
    let dom := ctxDomain s (ringCtx j.ring)
    if j.phase = 0 then
      match tierCheck s op dom b ps with
      | some c => finishJob s j c
      | none => eff s j dom b ps
    else eff s j dom b ps

/-- TIER_ALLOC (R41, R42). -/
def execTierAlloc (d : Desc) (s : State) : Ans :=
  .next (tierRun 0x40 d s fun s j dom b ps => finishJob (allocGo s dom b ps) j .ok)

/-! ### Range invalidation (R102, R103) -/

/-- The units that acknowledge an invalidation: translation units of ports and sectors, engines, sequencer, tiles; a tile in OFF
acknowledges at once (R103). -/
def invalUnits (s : State) : List Nat :=
  span 0 6 ++ span 0x80 4 ++ span 0x08 24 ++ [0x20] ++
    (span 0 64).filterMap fun t => if s.get (F.TP_T_STATUS_STATE t) = 0 then none else some (0x40 + t)

/-- Start a range invalidation for a job; the translation units drop what they hold for the range. -/
def startInval (s : State) (what : InvalFor) (j : Job) (counted pool : Bool) (c base len : Nat) : Nat × State :=
  let id := s.xlt.nextInval
  let v : Inval := { id := id, what := what, ring := j.ring, idx := j.idx, waitOn := invalUnits s, start := s.now,
                     counted := counted, pool := pool, ctx := c, base := base, len := len }
  let s := if pool then dropTlb s (pagesOf base len)
    else (span (c * 16) 16).foldl (fun s k => match tabGet? k s.xlt.segs with
      | some g => if base < g.vaBase + g.len * 65536 ∧ g.vaBase < base + len then dropSeg s k else s
      | none => dropSeg s k) s
  (id, { s with xlt := { s.xlt with invals := s.xlt.invals ++ [v], nextInval := id + 1 } })

/-- Is an invalidation still under way? -/
def invalOpen (s : State) (id : Nat) : Bool := s.xlt.invals.any fun v => v.id = id

/-- TIER_FREE (R43): invalidation, recall of partner copies, then the pages go. -/
def execTierFree (d : Desc) (s : State) : Ans :=
  .next (tierRun 0x41 d s fun s j _ b ps =>
    if j.phase = 0 then
      let (id, s) := startInval s .tierFree j false true 0 b.base (b.count * 2097152)
      putJob s { j with st := .waiting, phase := 1, aux := id }
    else if invalOpen s j.aux then putJob s { j with st := .waiting }
    else
      let (ok, s) := evictRange s b.base (b.count * 2097152) (.job j.ring j.idx)
      if !ok then putJob s { j with st := .waiting }
      else finishJob (freePages s ps) j .ok)

/-- TIER_HINT (R40): the hints are replaced, and a tensor that is not where they want it is planned to move. -/
def execTierHint (d : Desc) (s : State) : Ans :=
  .next (tierRun 0x42 d s fun s j _ b ps =>
    let s := ps.foldl (fun s p => { s with store := { s.store with
      pages := tabMod p (fun e => { e with pinNear := b.pinNear, preferFar := b.preferFar, neverCompress := b.neverCompress })
        s.store.pages } }) s
    let firsts := (ps.filterMap fun p => (s.page? p).map (·.tensorBase)).eraseDups
    let s := firsts.foldl (fun s f => if b.pinNear then planMove s ⟨f, true, false⟩
      else if b.preferFar then planMove s ⟨f, false, false⟩ else s) s
    finishJob s j .ok)

/-- A page split into small pages. -/
def splitPage (e : Page) : Page :=
  match e.split, e.loc with
  | some _, _ => e
  | none, .near f => { e with split := some ((List.range 32).map fun i => .near f i) }
  | none, .far gs => { e with split := some (gs.map .far) }
  | none, .swapped k => { e with split := some (List.replicate 32 (.swapped k)) }
  | none, .migrating _ => e

/-- The small pages of a vector that lie near. -/
def nearSmalls (v : List Small) : List Nat :=
  (v.zip (List.range v.length)).filterMap fun x => match x.1 with | .near _ _ => some x.2 | _ => none

/-- A split page joined again: whole in one tier where its small pages are, else a page that moves to the near frame that some
of them hold. -/
def joinPage (s : State) (e : Page) : Page :=
  match e.split with
  | none => e
  | some v =>
    let e := { e with split := none }
    let gs := v.map fun x => match x with | .far g => g | _ => {}
    match v.find? fun x => match x with | .near _ _ => true | _ => false, v.head? with
    | none, some (.swapped k) => { e with loc := .swapped k }
    | none, _ => { e with loc := .far gs }
    | some (.near f _), _ =>
      if (nearSmalls v).length = 32 then { e with loc := .near f }
      else { e with loc := .migrating { index := s.store.nextXfer, kind := .promote, frame := some f, granules := gs,
                                        arrived := nearSmalls v, copying := none } }
    | some _, _ => e

/-- TIER_SPLIT (R49, R50): splits or joins; a page on the move is waited for. -/
def execTierSplit (d : Desc) (s : State) : Ans :=
  .next (tierRun 0x43 d s fun s j _ b ps =>
    if ps.any fun p => match s.page? p with
        | some e => (match e.loc with | .migrating _ => true | _ => false)
        | none => false then putJob s { j with st := .waiting, phase := 1 }
    else
      let s := { s with store := { s.store with huge := s.store.huge.filter fun h => !ps.any fun p => p / 512 = h / 4 } }
      let s := ps.foldl (fun s p => match s.page? p with
        | none => s
        | some e =>
          let s := s.putPage p (if b.join then joinPage s e else splitPage e)
          { s with store := { s.store with nextXfer := s.store.nextXfer + 1 } }) s
      finishJob (dropTlb s ps) j .ok)

/-! ### Migration (R49 to R64, R73, R77) -/

/-- Heat of a tensor: the sum of its pages' counters over its page count (R52). -/
def heat (t : List (Nat × Page)) : Nat := (t.map fun e => e.2.count).sum / max t.length 1

/-- The tensors whose first page is homed in a sector, as lists of their pages. -/
def sectorTensors (s : State) (n : Nat) : List (Nat × List (Nat × Page)) :=
  (s.store.pages.filter fun e => e.2.tensorBase = e.1 && homeOf s e.1 = n).map fun e => (e.1, tensorOf s e.1)

/-- Insert a tensor by falling heat. -/
def insertHot (x : Nat × List (Nat × Page)) : List (Nat × List (Nat × Page)) → List (Nat × List (Nat × Page))
  | [] => [x]
  | y :: t => if heat x.2 > heat y.2 then x :: y :: t else y :: insertHot x t

/-- Do count-driven moves rest in a sector: MIG_EN 0, or HOT not above COLD (R56)? -/
def migRests (s : State) (n : Nat) : Bool :=
  !s.flag (F.TIER_S_CTRL_MIG_EN n) || decide (s.get (F.TIER_S_THRESHOLDS_HOT n) ≤ s.get (F.TIER_S_THRESHOLDS_COLD n))

/-- Near frames that planned promotions will take in a sector. -/
def plannedNear (s : State) (n : Nat) : Nat :=
  ((s.store.moves.filter (·.toNear)).map fun m =>
    ((tensorOf s m.first).filter fun e => homeOf s e.1 = n && e.2.loc.frame?.isNone).length).sum

/-- Room for the promotion of a tensor beside what is planned (R55). -/
def roomBeside (s : State) (t : List (Nat × Page)) : Bool :=
  (List.range 4).all fun n =>
    let k := (t.filter fun e => homeOf s e.1 = n && e.2.loc.frame?.isNone).length
    k == 0 || decide (s.get (F.TIER_S_NEAR_WATER_LOW n) + k + plannedNear s n ≤ freeNear s n)

/-- Is any page of the tensor out of the near tier? -/
def notNear (t : List (Nat × Page)) : Bool := t.any fun e => match e.2.loc with | .far _ => true | _ => false

/-- DECAY_EPOCH (R52, R53, R55, R56): heats, promotions hottest first, then the counters of the sector are halved. -/
def execDecayEpoch (n : Fin 4) (t : Nat) (s : State) : Ans :=
  let s := s.upto t
  let n := n.val
  let hot := s.get (F.TIER_S_THRESHOLDS_HOT n)
  let s := s.setFlag (F.TIER_S_NEAR_STATUS_THRESH_ERR n) (hot ≤ s.get (F.TIER_S_THRESHOLDS_COLD n))
  let cand := ((sectorTensors s n).filter fun x => notNear x.2 && decide (hot ≤ heat x.2) &&
    x.2.all fun e => !e.2.preferFar && decide (e.2.movedAt + 1000000 * s.get (F.TIER_S_THRESHOLDS_MIN_RES_MS n) ≤ s.now)).foldr
      insertHot []
  let s := if migRests s n then s else cand.foldl (fun s x =>
    if roomBeside s x.2 then planMove s ⟨x.1, true, true⟩ else s.bump (F.TIER_S_PROMOTE_DENIED_COUNT n)) s
  let halve := fun e : Nat × Page => if homeOf s e.1 = n then (e.1, { e.2 with count := e.2.count / 2 }) else e
  .next { s with store := { s.store with pages := s.store.pages.map halve } }

/-- NEAR_LOW_DEMOTION (R54): near tensors of heat at most COLD, coldest first, until HIGH frames will be free. -/
def execNearLowDemotion (n : Fin 4) (t : Nat) (s : State) : Ans :=
  let s := s.upto t
  let n := n.val
  .next <|
    if migRests s n || decide (s.get (F.TIER_S_NEAR_WATER_LOW n) ≤ freeNear s n) then s
    else
      let nearHere := fun x : Nat × List (Nat × Page) =>
        (x.2.filter fun e => homeOf s e.1 = n && (match e.2.loc with | .near _ => true | _ => false)).length
      let cold := (((s.store.pages.filter fun e => e.2.tensorBase = e.1).map fun e => (e.1, tensorOf s e.1)).filter fun x =>
        decide (nearHere x ≠ 0) && decide (heat x.2 ≤ s.get (F.TIER_S_THRESHOLDS_COLD n)) && x.2.all fun e => !e.2.pinNear).foldr
          insertHot []
      (cold.reverse.foldl (fun (a : Nat × State) x =>
        if a.1 ≥ s.get (F.TIER_S_NEAR_WATER_HIGH n) then a
        else (a.1 + nearHere x, planMove a.2 ⟨x.1, false, true⟩)) (freeNear s n, s)).2

/-- The first granule of a move that has not arrived. -/
def nextGranule (arrived : List Nat) : Option Nat := (List.range 32).find? fun g => !arrived.contains g

/-- Write back the sector-cache lines of a page (spec/02, "Accesses during a move"). -/
def writeBack (s : State) (p : Nat) : State :=
  { s with store := { s.store with dirty := s.store.dirty.filter fun l => l / 32768 ≠ p } }

/-- Begin to move a page to the far tier. -/
def beginDemote (s : State) (p : Nat) (e : Page) : State :=
  match e.loc with
  | .near f =>
    let x : Xfer := { index := s.store.nextXfer, kind := .demote, frame := some f, granules := zeroFar, arrived := [],
                      copying := some 0 }
    let s := { s with store := { s.store with nextXfer := s.store.nextXfer + 1,
                                              huge := setDel (p / 512 * 4 + homeOf s p) s.store.huge } }
    dropTlb ((writeBack s p).putPage p { e with loc := .migrating x }) [p]
  | _ => s

/-- The lines of a poisoned granule keep their poison when it reaches the near tier. -/
def spreadPoison (s : State) (p g : Nat) (x : Granule) : State :=
  if x.poison then (span (p * 32768 + g * 1024) 1024).foldl spoilLine s else s

/-- The page's last granule has arrived: its entry is rewritten in one update. -/
def endMove (s : State) (p : Nat) (e : Page) (x : Xfer) : State :=
  let n := homeOf s p
  let s := match x.kind, x.frame with
    | .promote, some f => (s.putPage p { e with loc := .near f, movedAt := s.now }).bump (F.TIER_S_MIG_STATS_PROMOTED n)
    | _, _ => (s.putPage p { e with loc := .far x.granules, movedAt := s.now }).bump (F.TIER_S_MIG_STATS_DEMOTED n)
  dropTlb (farCheck s n) [p]

/-- One granule of a MIGRATING page has arrived (R58). -/
def granuleArrives (s : State) (p : Nat) (e : Page) (x : Xfer) : State :=
  match x.copying.orElse fun _ => nextGranule x.arrived with
  | none => endMove s p e x
  | some g =>
    let place : Option Granule × State :=
      if x.kind = .demote then
        let (len, s) := granuleFrames s e
        placeGranule s (homeOf s p) p g len
      else (some (x.granules.getD g {}), s)
    match place with
    | (none, s) => s
    | (some gr, s) =>
      let s := if x.kind = .promote then spreadPoison s p g (x.granules.getD g {}) else s
      let arrived := setAdd g x.arrived
      let x := { x with granules := listSet x.granules g gr, arrived := arrived, copying := nextGranule arrived }
      if arrived.length = 32 then endMove s p e x else s.putPage p { e with loc := .migrating x }

/-- Move one small page of a split page toward a tier (R49). -/
def moveSmall (s : State) (p : Nat) (e : Page) (v : List Small) (toNear : Bool) : State :=
  let n := homeOf s p
  if toNear then
    match (v.zip (List.range 32)).find? fun x => match x.1 with | .far _ => true | _ => false with
    | some (.far g, i) =>
      let (f, s) := match e.frames.head? with | some f => (some f, s) | none => takeFrame s n
      match f with
      | some f => dropTlb ((spreadPoison s p i g).putPage p { e with split := some (listSet v i (.near f i)), movedAt := s.now }) [p]
      | none => s
    | _ => s
  else
    match (v.zip (List.range 32)).find? fun x => match x.1 with | .near _ _ => true | _ => false with
    | some (_, i) =>
      let (len, s) := granuleFrames s e
      match placeGranule s n p i len with
      | (some g, s) => dropTlb (farCheck (s.putPage p { e with split := some (listSet v i (.far g)), movedAt := s.now }) n) [p]
      | (none, s) => s
    | none => s

/-- Move one granule off a DRAINING or Hazy channel (R73, R77). -/
def drainGranule (s : State) (p : Nat) (e : Page) : State :=
  let n := homeOf s p
  let onBad := fun g : Granule => g.frames != 0 &&
    (channelState s (8 * n + g.channel) == 5 || channelState s (8 * n + g.channel) == 4)
  match (List.range 32).find? fun i => !granuleNear e i && onBad (granuleOf e i) with
  | none => s
  | some i =>
    let g := granuleOf e i
    match placeGranule s n p i g.frames with
    | (none, s) => s
    | (some x, s) => farCheck (s.putPage p (setGranule e i { x with poison := g.poison })) n

/-- Move a near page off a Hazy or FAILED stack (R77, R560). -/
def leaveStack (s : State) (p : Nat) (e : Page) : State :=
  match e.loc with
  | .near f =>
    if stackTakes s (homeOf s p) f then s
    else match takeFrame s (homeOf s p) with
      | (some g, s) => dropTlb (s.putPage p { e with loc := .near g }) [p]
      | (none, s) => s
  | _ => s

/-- Drop the planned moves whose tensor has arrived. -/
def sweepMoves (s : State) : State :=
  let todo := fun (toNear : Bool) (e : Page) => match e.split, e.loc with
    | some v, _ => if toNear then decide ((nearSmalls v).length ≠ 32) else !(nearSmalls v).isEmpty
    | none, .far _ => toNear
    | none, .near _ => !toNear
    | none, .migrating _ => true
    | none, .swapped _ => false
  let l := s.store.moves.filter fun m => (tensorOf s m.first).any fun e => todo m.toNear e.2
  { s with store := { s.store with moves := l } }

/-- Requests that waited for the granule go on (R59). -/
def wakeMigrating (s : State) (p : Nat) : State :=
  let l := s.fab.flights.filter fun f => f.stage = .migrating &&
    match f.pool with | some a => a / 2097152 = p | none => false
  wake (l.foldl (fun s f => again s f fun s g => homeGo s g g.entry.isNone) s)

/-- GRANULE_COPY_DONE (R49, R58, R73, R77): the next granule of a moving page arrives, a planned move of the page begins, or one
granule or frame leaves a channel or stack that must be emptied. -/
def execGranuleCopyDone (p : Fin 67108864) (t : Nat) (s : State) : Ans :=
  let s := s.upto t
  let p := p.val
  .next <|
    match s.page? p with
    | none => s
    | some e =>
      match e.split, e.loc with
      | none, .migrating x => wakeMigrating (sweepMoves (granuleArrives s p e x)) p
      | sp, _ =>
        match s.store.moves.find? fun m => m.first = e.tensorBase with
        | some m =>
          (match sp, e.loc with
           | some v, _ => sweepMoves (moveSmall s p e v m.toNear)
           | none, .far _ => if m.toNear then beginPromote (writeBack s p) p e [] else drainGranule s p e
           | none, .near _ => if m.toNear then leaveStack s p e else beginDemote s p e
           | none, _ => s)
        | none => leaveStack (drainGranule s p e) p ((s.page? p).getD e)

/-- DIRTY_LINE_EVICTION (R62): the line is merged and its granule rewritten into a new run. -/
def execDirtyLineEviction (line : Fin (2 ^ 41)) (t : Nat) (s : State) : Ans :=
  let s := s.upto t
  let l := line.val
  let p := l / 32768
  let g := l / 1024 % 32
  let clean := fun (s : State) => { s with store := { s.store with dirty := setDel l s.store.dirty } }
  .next <|
    if !s.store.dirty.contains l then s
    else
      match s.page? p with
      | none => clean s
      | some e =>
        if granuleNear e g || (granuleOf e g).frames ≥ 16 then clean s
        else
          let (len, s) := granuleFrames s e
          match placeGranule s (homeOf s p) p g len with
          | (none, s) => s
          | (some x, s) => farCheck (clean (s.putPage p (setGranule e g { x with poison := (granuleOf e g).poison }))) (homeOf s p)

/-! ### Errors and Drizzle (R65 to R69, R724) -/

/-- Record the pool address of the latest uncorrectable error of a stack or channel. -/
def errAddr (s : State) (far : Bool) (u a : Nat) : State :=
  if far then (s.set (F.DDR_D_ERR_ADDR_POOL_ADDR u) a).setFlag (F.DDR_D_ERR_ADDR_VALID u) true
  else (s.set (F.HBM_H_ERR_ADDR_POOL_ADDR u) a).setFlag (F.HBM_H_ERR_ADDR_VALID u) true

/-- Replace a row of a stack by a spare (R66). -/
def spareRow (s : State) (m row : Nat) : State :=
  let k := m * 2 ^ 32 + row
  if s.store.spared.contains k || decide (s.get (F.HBM_H_SPARE_USED m) ≥ 512) then s
  else { s with store := { s.store with spared := setAdd k s.store.spared, rowErrs := tabDel k s.store.rowErrs } }.bump
    (F.HBM_H_SPARE_USED m)

/-- A corrected error of a row: at ROW_SPARE_THRESH within 24 hours the row is spared (R66). -/
def rowError (s : State) (m row : Nat) : State :=
  let k := m * 2 ^ 32 + row
  let ts := (tabGet [] k s.store.rowErrs).filter (fun t => decide (s.now < t + 86400000000000)) ++ [s.now]
  let s := { s with store := { s.store with rowErrs := tabPut k ts s.store.rowErrs } }
  if ts.length ≥ s.get (F.HBM_H_CTRL_ROW_SPARE_THRESH m) then spareRow s m row else s

/-- A second device of a channel errs after one was marked: automatic retirement (R75). -/
def autoRetire (s : State) (d dev : Nat) : State :=
  let m := s.get (F.DDR_D_ECC_MARKED d)
  if s.flag (F.DDR_D_CTRL_AUTO_RETIRE d) && m != 31 && m != dev && (channelState s d == 3 || channelState s d == 4) then
    (s.set (F.DDR_D_STATUS_STATE d) 5).setFlag (F.DDR_D_CTRL_RETIRE d) true
  else s

/-- The line of an allocated page that lies at a 64-byte place of a near frame. -/
def nearLine (s : State) (n f off : Nat) : Option Nat :=
  (sectorPages s n).findSome? fun e =>
    match e.2.split, e.2.loc with
    | none, .near g => if g = f then some (e.1 * 32768 + off % 32768) else none
    | some v, _ => if granuleNear e.2 (off / 1024 % 32) && (v.any fun x => x = .near f (off / 1024 % 32))
        then some (e.1 * 32768 + off % 32768) else none
    | _, _ => none

/-- The granule that lies over a frame of a channel: page and granule number. -/
def farGranule (s : State) (d fr : Nat) : Option (Nat × Nat) :=
  (sectorPages s (d / 8)).findSome? fun e =>
    ((List.range 32).find? fun g => !granuleNear e.2 g && (granuleOf e.2 g).channel = d % 8 &&
      decide ((granuleOf e.2 g).frame ≤ fr) && decide (fr < (granuleOf e.2 g).frame + (granuleOf e.2 g).frames)).map fun g => (e.1, g)

/-- Drizzle has read one more frame: a pass ends after the last (R69). -/
def drizzleStep (s : State) (n : Nat) (far : Bool) : State :=
  let k := n * 2 + far.toNat
  let total := if far then ((span (8 * n) 8).map (channelFrames s)).sum else Config.nearFrames
  let pos := tabGet 0 k s.store.drizzle + 1
  if pos ≥ total then
    let s := { s with store := { s.store with drizzle := tabDel k s.store.drizzle } }
    if far then s.bump (F.TIER_S_DRIZZLE_STATUS_FAR_PASSES n) else s.bump (F.TIER_S_DRIZZLE_STATUS_NEAR_PASSES n)
  else { s with store := { s.store with drizzle := tabPut k pos s.store.drizzle } }

/-- DRIZZLE_READ (R66 to R69, R724). `place` names the frame: a near frame × 32,768 + its 64-byte place, or a channel of the
sector × 2^27 + its far frame. -/
def execDrizzleRead (n : Fin 4) (far : Bool) (place : Nat) (ev : EccEvent) (t : Nat) (s : State) : Ans :=
  let s := s.upto t
  let n := n.val
  let d := 8 * n + place / 2 ^ 27 % 8
  let m := 2 * n + place / 32768 % 2
  .next <|
    if !s.flag (F.TIER_S_CTRL_DRIZZLE_EN n) then s
    else
      let s := drizzleStep s n far
      match ev with
      | .clean => s
      | .corrected u =>
        let s := s.bumpSat (F.TIER_S_DRIZZLE_STATUS_CORRECTED n)
        if far then autoRetire (s.bumpSat (F.DDR_D_ECC_CORRECTED d)) d u
        else rowError (s.bumpSat (F.HBM_H_ECC_CORRECTED m)) m u
      | .failedDevice u =>
        if far && s.get (F.DDR_D_ECC_MARKED d) == 31 then s.set (F.DDR_D_ECC_MARKED d) (u % 20) else s
      | .uncorrectable u =>
        let s := s.bumpSat (F.TIER_S_DRIZZLE_STATUS_UNCORRECTED n)
        if far then
          let s := s.bumpSat (F.DDR_D_ECC_UNCORRECTED d)
          match farGranule s d (place % 2 ^ 27) with
          | none => s
          | some (p, g) => errAddr (poisonLine s (p * 32768 + g * 1024)) true d (p * 2097152 + g * 65536)
        else
          let s := spareRow (s.bumpSat (F.HBM_H_ECC_UNCORRECTED m)) m u
          match nearLine s n (place / 32768) (place % 32768) with
          | none => s
          | some l => errAddr (poisonLine s l) false m (l * 64)

/-! ### Identity and states of stacks and channels (R70 to R75, R80) -/

/-- STACK_IDENT (R70). -/
def execStackIdent (m : Fin 8) (id : StackId) (s : State) : Ans :=
  let m := m.val
  .next <|
    if s.get (F.HBM_H_STATUS_STATE m) > 1 ∨ !chipClock s then s
    else
      let fail := fun (s : State) (r : Nat) => (s.set (F.HBM_H_STATUS_STATE m) 5).set (F.HBM_H_STATUS_REASON m) r
      if !id.readable then fail s 4
      else
        let s := (((s.set (F.HBM_H_IDENT_VENDOR m) id.vendor.toNat).set (F.HBM_H_IDENT_HEIGHT m) id.height).set
          (F.HBM_H_IDENT_CAPACITY_GIB m) id.gib).set (F.HBM_H_IDENT_SERIAL m) id.serial.toNat
        if id.height ≠ 16 then fail s 1
        else if id.gib ≠ 48 then fail s 2
        else (s.set (F.HBM_H_STATUS_STATE m) 2).setFlag (F.HBM_H_STATUS_IDENT_OK m) true

/-- Is a slot powered: by its switch, or always where the board has none? -/
def slotPowered (s : State) (d : Nat) : Bool := !s.flag (F.DDR_D_CTRL_PSW_PRESENT d) || s.flag (F.DDR_D_CTRL_SLOT_PWR d)

/-- The slot's switch or its module has changed: a powered slot with a module leaves ABSENT, and a retired or failed channel without
power and module enters it (R72). -/
def slotUp (s : State) (d : Nat) : State :=
  let st := channelState s d
  let on := slotPowered s d
  let there := s.flag (F.DDR_D_STATUS_PRESENT d)
  let s := s.setFlag (F.DDR_D_STATUS_PWR_GOOD d) on
  if st = 0 ∧ there ∧ on then s.set (F.DDR_D_STATUS_STATE d) 1
  else if (st = 6 ∨ st = 7) ∧ !there ∧ !on then (s.set (F.DDR_D_STATUS_STATE d) 0).set (F.DDR_D_STATUS_CAPACITY_GIB d) 0
  else s

/-- DIMM_INSERT (R72). -/
def execDimmInsert (d : Fin 32) (s : State) : Ans :=
  .next (if channelState s d.val = 0 then slotUp (s.setFlag (F.DDR_D_STATUS_PRESENT d.val) true) d.val else s)

/-- SPD_READ_COMPLETE (R71). -/
def execSpdReadComplete (d : Fin 32) (x : Spd) (s : State) : Ans :=
  let d := d.val
  .next <|
    if channelState s d ≠ 1 ∨ !chipClock s then s
    else
      let fail := fun (s : State) (r : Nat) => (s.set (F.DDR_D_STATUS_STATE d) 7).set (F.DDR_D_STATUS_REASON d) r
      if !x.readable then fail s 4
      else
        let s := ((s.set (F.DDR_D_SPD_MFR_ID d) x.mfr.toNat).set (F.DDR_D_SPD_SERIAL d) x.serial.toNat).set
          (F.DDR_D_SPD_SPD_REV d) x.rev.toNat
        if !x.mrdimm then fail s 1
        else if x.gib ≠ 256 ∧ x.gib ≠ 512 then fail s 2
        else if x.mts < 6400 then fail s 3
        else (((s.set (F.DDR_D_STATUS_STATE d) 2).set (F.DDR_D_STATUS_SPEED d) (min x.mts 8800 / 100)).set
          (F.DDR_D_STATUS_CAPACITY_GIB d) x.gib).set (F.DDR_D_TRAIN_ATTEMPTS d) 0

/-- CHANNEL_TRAINING_DONE (R72): a pass within 900 ms serves; the third failed attempt fails the channel. -/
def execChannelTrainingDone (d : Fin 32) (passed : Bool) (ms : Fin 65536) (s : State) : Ans :=
  let d := d.val
  .next <|
    if channelState s d ≠ 2 ∨ !chipClock s ∨ s.flag F.CLK_STATUS_COASTING then s
    else
      let k := s.get (F.DDR_D_TRAIN_ATTEMPTS d) + 1
      let s := (s.set (F.DDR_D_TRAIN_ATTEMPTS d) k).set (F.DDR_D_TRAIN_LAST_MS d) ms.val
      if passed && decide (ms.val ≤ 900) then
        farCheck ((s.set (F.DDR_D_STATUS_STATE d) 3).set (F.DDR_D_STATUS_REASON d) 0) (d / 8)
      else if k ≥ 3 then (s.set (F.DDR_D_STATUS_STATE d) 7).set (F.DDR_D_STATUS_REASON d) 5
      else s

/-- CHANNEL_DRAINED (R72). -/
def execChannelDrained (d : Fin 32) (s : State) : Ans :=
  .next (if channelState s d.val = 5 ∧ (channelGranules s d.val).isEmpty then s.set (F.DDR_D_STATUS_STATE d.val) 6 else s)

/-- Poison every granule on a channel (R74). -/
def poisonChannel (s : State) (d : Nat) : State :=
  (sectorPages s (d / 8)).foldl (fun s e =>
    (List.range 32).foldl (fun s g =>
      let x := granuleOf e.2 g
      if !granuleNear e.2 g && x.frames != 0 && x.channel = d % 8 && !x.poison then poisonLine s (e.1 * 32768 + g * 1024)
      else s) s) s

/-- A channel in service enters FAILED (R72, R74). -/
def failChannel (s : State) (d reason : Nat) : State :=
  let s := (s.set (F.DDR_D_STATUS_STATE d) 7).set (F.DDR_D_STATUS_REASON d) reason
  farCheck (poisonChannel s d) (d / 8)

/-- Is a channel in service? -/
def channelOn (s : State) (d : Nat) : Bool := channelState s d == 3 || channelState s d == 4 || channelState s d == 5

/-- A fault of a channel that nothing can be drained from (R72, R74, R560, R562): the instance retires. -/
def deadChannel (s : State) (d reason cause : Nat) : State :=
  match noteFault s .channel d cause with
  | (.first, s) => retired (failChannel s d reason) .channel d false
  | (_, s) => failChannel s d reason

/-- CHANNEL_FAIL (R72, R74, R560). -/
def execChannelFail (d : Fin 32) (beyond : Bool) (t : Nat) (s : State) : Ans :=
  let s := s.upto t
  .next (if channelOn s d.val then deadChannel s d.val (if beyond then 6 else 7) (if beyond then 0 else 1) else s)

/-- DIMM_REMOVE (R72): PRESENT falls; the channel enters ABSENT only from RETIRED or FAILED with the slot's power off. -/
def execDimmRemove (d : Fin 32) (s : State) : Ans :=
  .next (slotUp (s.setFlag (F.DDR_D_STATUS_PRESENT d.val) false) d.val)

/-- Writing RETIRE (R72, R73). -/
def ddrRetire (s : State) (d : Nat) : State :=
  let st := channelState s d
  let s := s.setFlag (F.DDR_D_CTRL_RETIRE d) true
  if st = 3 ∨ st = 4 then farCheck (s.set (F.DDR_D_STATUS_STATE d) 5) (d / 8) else s

/-- Writing RETURN (R72): in RETIRED with the module present RETIRE clears and the channel enters IDENT; once the slot is ABSENT
or past it, RETIRE clears (spec/02, "Replacing a DIMM in service", step 7). -/
def ddrReturn (s : State) (d : Nat) : State :=
  let st := channelState s d
  if st = 6 ∧ s.flag (F.DDR_D_STATUS_PRESENT d) then
    (s.setFlag (F.DDR_D_CTRL_RETIRE d) false).set (F.DDR_D_STATUS_STATE d) 1
  else if st < 3 then s.setFlag (F.DDR_D_CTRL_RETIRE d) false
  else s

/-- Writing CLR_COUNTS of a channel. -/
def ddrClr (s : State) (d : Nat) : State := (s.set (F.DDR_D_ECC_CORRECTED d) 0).set (F.DDR_D_ECC_UNCORRECTED d) 0

/-- Writing CLR_COUNTS of a stack. -/
def hbmClr (s : State) (m : Nat) : State := (s.set (F.HBM_H_ECC_CORRECTED m) 0).set (F.HBM_H_ECC_UNCORRECTED m) 0

/-- Writing CLEAR of TIER_Sn_TOUCH_MAX. -/
def touchMaxClear (s : State) (n : Nat) : State := s.set (F.TIER_S_TOUCH_MAX_MAX_NS n) 0

/-! ### Haze in the store (R76, R77) -/

/-- One millisecond of a Haze test (R76): the new run, and whether the unit enters or leaves Haze. -/
def hazeStep (s : State) (h : HazeRun) (ratio window exitMs exitRatio median peers : Nat) : HazeRun × Option Bool :=
  let above := if median * 16 > ratio * peers then h.above + 1 else 0
  let below := if median * 16 ≤ exitRatio * peers then h.below + 1 else 0
  if !h.hazy && decide (window ≤ above) then ({ above := above, below := 0, hazy := true, since := s.now }, some true)
  else if h.hazy && decide (exitMs ≤ below) then ({ above := 0, below := below, hazy := false, since := 0 }, some false)
  else ({ h with above := above, below := below }, none)

/-- HAZY_ENTER or HAZY_EXIT of a domain (R557, R558). -/
def hazeEvent (s : State) (enter : Bool) (ty inst : Nat) : State :=
  postRas s (if enter then 0x23 else 0x24) 0xA0 (ty + inst * 16)

/-- STORE_HAZE_CHECK (R76). -/
def execStoreHazeCheck (stack : Bool) (u : Fin 32) (median peers t : Nat) (s : State) : Ans :=
  let s := s.upto t
  let u := if stack then u.val % 8 else u.val
  let n := if stack then u / 2 else u / 8
  let k := if stack then u else 8 + u
  let fld := if stack then F.HBM_H_STATUS_STATE u else F.DDR_D_STATUS_STATE u
  .next <|
    if s.get fld ≠ 3 ∧ s.get fld ≠ 4 then s
    else
      let (h, ev) := hazeStep s (tabGet {} k s.store.haze) (s.get (F.TIER_S_HAZE_CFG_RATIO n))
        (s.get (F.TIER_S_HAZE_CFG_WINDOW_MS n)) (s.get (F.TIER_S_HAZE_CFG_EXIT_MS n)) (s.get (F.TIER_S_HAZE_CFG_EXIT_RATIO n))
        median peers
      let s := { s with store := { s.store with haze := tabPut k h s.store.haze } }
      match ev with
      | none => s
      | some b => hazeEvent (s.set fld (if b then 4 else 3)) b (if stack then 1 else 0) u

end Sys2Proof.Machine
end

