-- ==== Sys2Proof/Machine/Log.lean ====
section
/-! DEFINITION. The Contrail log (R460 to R465). -/

namespace Sys2Proof.Machine

open Sys2Proof

/-- Bytes of a record in the log, header included and padded to 64 (R461). -/
def logBytes (payload : List Byte) : Nat := 64 + ceilDiv payload.length 64 * 64

/-- Bytes of all records. -/
def logUsed (s : State) : Nat := (s.log.recs.map fun r => logBytes r.payload).sum

/-- The log's size in force (R463). -/
def logCap (s : State) : Nat := s.log.gib * 2 ^ 30

/-- Drop closed records, oldest first, until `need` bytes are free; none when an open one stands in the way (R464). -/
def logMake (cap need : Nat) : List LogRec → Nat → Option (List LogRec)
  | [], used => if used + need ≤ cap then some [] else none
  | r :: t, used =>
    if used + need ≤ cap then some (r :: t)
    else if r.live then none
    else logMake cap need t (used - logBytes r.payload)

/-- What writing a record brings. -/
inductive LogAns where
  | done (s : State)
  | wait (s : State)
  | tooLong
deriving DecidableEq, Repr

/-- What follows on each answer of `logWrite`: waiting for room, a record longer than the log, and a record written. -/
def onLog (a : LogAns) (wait : State → State) (long : State) (done : State → State) : State :=
  match a with
  | .wait s => wait s
  | .tooLong => long
  | .done s => done s

/-- The SEQ that the next record of a stream takes (R460). -/
def logNext (s : State) (c : Nat) : Nat := tabGet 0 c s.log.seqs + 1

/-- Write a record for a job (R460, R464); a job that must wait is kept with the room it needs. -/
def logWrite (s : State) (type source ctx ring idx : Nat) (payload : List Byte) : LogAns :=
  let n := logBytes payload
  if n > logCap s then .tooLong
  else
    match logMake (logCap s) n s.log.recs (logUsed s) with
    | none =>
      if s.log.waits.any fun w => w.1 = ring && w.2.1 = idx then .wait s
      else .wait ({ s with log := { s.log with waits := s.log.waits ++ [(ring, idx, n)] } }.bump F.BLK_LOG_STATS_WAITS)
    | some l =>
      let q := logNext s ctx
      let r : LogRec := { type := type, source := source, ctx := ctx, seq := q, time := s.now, ring := ring, idx := idx,
                          payload := payload, live := true, domain := ctxDomain s ctx }
      .done ({ s with log := { s.log with recs := l ++ [r], seqs := tabPut ctx q s.log.seqs } }.bump F.BLK_LOG_STATS_RECORDS)

/-- Does the job wait for log room? -/
def logWaits (s : State) (ring idx : Nat) : Bool := s.log.waits.any fun w => w.1 = ring && w.2.1 = idx

/-- The job's records close: it has completed with its changes visible (R464). -/
def logClose (s : State) (ring idx : Nat) : State :=
  let f := fun r : LogRec => if r.ring = ring && r.idx = idx then { r with live := false } else r
  { s with log := { s.log with recs := s.log.recs.map f, waits := s.log.waits.filter fun w => !(w.1 = ring && w.2.1 = idx) } }

/-- CRC-32C of bytes, reflected. PRESUMED: the parameters of the published CRC. -/
def crc32c (b : List Byte) : Nat :=
  let bit := fun c : Nat => if c % 2 = 1 then Nat.xor (c / 2) 0x82F63B78 else c / 2
  let step := fun (c : Nat) (x : Byte) => (List.range 8).foldl (fun c _ => bit c) (Nat.xor c x.toNat)
  Nat.xor (b.foldl step 0xFFFFFFFF) 0xFFFFFFFF

/-- A record's bytes (R461). -/
def logImage (r : LogRec) : List Byte :=
  let body := r.payload ++ List.replicate (ceilDiv r.payload.length 64 * 64 - r.payload.length) 0
  leBytes 8 (r.type + r.source * 256 + r.ctx * 65536 + logBytes r.payload * 2 ^ 32) ++ leBytes 8 r.seq ++ leBytes 8 r.time ++
    leBytes 8 (r.ring + r.idx * 2 ^ 20) ++ leBytes 8 (crc32c body) ++ List.replicate 24 0 ++ body

end Sys2Proof.Machine
end

