-- ==== Sys2Proof/Machine/PlaneArith.lean ====
section
/-! DEFINITION. The arithmetic of a tile (R255 to R274): formats, products and sums, vector operations, conversions. -/

namespace Sys2Proof.Machine

open Sys2Proof

/-- The flags of a tile (R275). -/
structure TFlags where
  invalid : Bool := false
  overflow : Bool := false
  saturated : Bool := false
  intWrap : Bool := false
  nanScale : Bool := false
  bankErr : Bool := false
deriving DecidableEq, Repr

/-- Flags of two sources together. -/
def TFlags.or (a b : TFlags) : TFlags :=
  { invalid := a.invalid || b.invalid, overflow := a.overflow || b.overflow, saturated := a.saturated || b.saturated,
    intWrap := a.intWrap || b.intWrap, nanScale := a.nanScale || b.nanScale, bankErr := a.bankErr || b.bankErr }

/-! ### Formats (R261, R263, R317) -/

/-- Bits of an element of a format code. -/
def fmtBits : Nat → Nat
  | 0 => 16 | 1 => 16 | 2 => 8 | 3 => 8 | 4 => 8 | 5 => 4 | 6 => 8 | 7 => 8 | 8 => 6 | 9 => 6 | 10 => 4 | 11 => 8 | _ => 32

/-- K step of a format (R263). -/
def fmtStep : Nat → Nat
  | 0 => 1 | 1 => 1 | 5 => 4 | 10 => 4 | _ => 2

/-- Is the format one of the MX formats? -/
def fmtMx (c : Nat) : Bool := decide (6 ≤ c) && decide (c ≤ 11)

/-- Is the format INT8 or INT4? -/
def fmtInt (c : Nat) : Bool := c == 4 || c == 5

/-- The layout of a floating format code. -/
def fmtOf : Nat → Fmt
  | 0 => fmtBf16 | 1 => fmt16 | 2 => ⟨4, 3, 7⟩ | 3 => ⟨5, 2, 15⟩ | 6 => ⟨4, 3, 7⟩ | 7 => ⟨5, 2, 15⟩ | 8 => ⟨3, 2, 3⟩
  | 9 => ⟨2, 3, 1⟩ | 10 => ⟨2, 1, 1⟩ | _ => fmt32

/-- The largest finite magnitude of a floating format code, as its bits. -/
def fmtMax : Nat → Nat
  | 0 => 0x7F7F | 1 => 0x7BFF | 2 => 0x7E | 3 => 0x7B | 6 => 0x7E | 7 => 0x7B | 8 => 0x1F | 9 => 0x1F | 10 => 0x7 | _ => 0x7F7FFFFF

/-- A two's-complement value of `w` bits. -/
def sgn (w v : Nat) : Int := if v % 2 ^ w < 2 ^ (w - 1) then (v % 2 ^ w : Nat) else (v % 2 ^ w : Nat) - (2 ^ w : Int)

/-- An integer times a power of two as a value. -/
def Fl.ofInt (v : Int) (e : Int) : Fl := .fin (decide (v < 0)) v.natAbs e

/-- A finite value of a format without special encodings. -/
def Fmt.finite (f : Fmt) (w : Nat) : Fl :=
  let m := w % 2 ^ f.mb
  let e := w / 2 ^ f.mb % 2 ^ f.eb
  let neg := w / 2 ^ (f.mb + f.eb) % 2 = 1
  if e = 0 then .fin neg m (1 - (f.bias : Int) - f.mb) else .fin neg (m + 2 ^ f.mb) ((e : Int) - f.bias - f.mb)

/-- The value of an element of a format code. -/
def elemValue (c w : Nat) : Fl :=
  match c with
  | 2 | 6 => if w % 128 = 127 then .nan else (fmtOf 2).finite w
  | 8 | 9 | 10 => (fmtOf c).finite w
  | 4 => Fl.ofInt (sgn 8 w) 0
  | 5 => Fl.ofInt (sgn 4 w) 0
  | 11 => Fl.ofInt (sgn 8 w) (-6)
  | 13 => Fl.ofInt (sgn 32 w) 0
  | _ => (fmtOf c).value w

/-- Multiply by 2^(scale − 127), exactly; a scale of 0xFF gives NaN (R266). -/
def Fl.scaleBy (x : Fl) (scale : Nat) : Fl :=
  if scale = 255 then .nan
  else match x with
    | .fin n m e => .fin n m (e + scale - 127)
    | y => y

/-- Is the value NaN? -/
def Fl.isNan : Fl → Bool
  | .nan => true
  | _ => false

/-- Is the value finite? -/
def Fl.isFin : Fl → Bool
  | .fin _ _ _ => true
  | _ => false

/-- Is a binary32 pattern infinite or NaN? -/
def special32 (w : Nat) : Bool := w / 2 ^ 23 % 256 == 255

/-! ### Accumulation (R262, R267 to R269) -/

/-- Exact sum of products, with whether a NaN arose from operands that were none. -/
def sumProducts (ps : List (Fl × Fl)) : Fl × Bool :=
  ps.foldl (fun (a : Fl × Bool) p =>
    let q := p.1.mul p.2
    let bad := q.isNan && !p.1.isNan && !p.2.isNan
    let r := a.1.add q
    (r, a.2 || bad || (r.isNan && !a.1.isNan && !q.isNan))) (.fin true 0 0, false)

/-- One cycle of FP32 accumulation of one element: exact sum, then one rounding (R267, R268). -/
def accFloat (c : Nat) (ps : List (Fl × Fl)) : Nat × TFlags :=
  let (x, bad) := sumProducts ps
  let cv := fmt32.value c
  let t := cv.add x
  let r := fmt32.round t
  (r, { invalid := bad || (t.isNan && !cv.isNan && !x.isNan), overflow := t.isFin && special32 r })

/-- One cycle of INT32 accumulation of one element (R269). -/
def accInt (c : Nat) (ps : List (Int × Int)) : Nat × TFlags :=
  let x := sgn 32 c + (ps.map fun p => p.1 * p.2).sum
  ((x % 2 ^ 32).toNat, { intWrap := decide (x < -(2 ^ 31)) || decide (x ≥ 2 ^ 31) })

/-! ### Rounding to a format (R270 to R274) -/

/-- How a conversion rounds: to nearest even, or stochastically with a draw. -/
inductive Rnd where
  | rne
  | sr (r : Nat)
deriving DecidableEq, Repr

/-- Divide by a power of two in a rounding mode (R270, R271). -/
def shiftRnd (md : Rnd) (m k : Nat) : Nat :=
  match md with
  | .rne => shiftRne m k
  | .sr r => if r < m % 2 ^ k * 65536 / 2 ^ k then m / 2 ^ k + 1 else m / 2 ^ k

/-- The magnitude bits of a finite value rounded into a format whose exponent range has no upper end. -/
def Fmt.magnitude (f : Fmt) (md : Rnd) (m : Nat) (e : Int) : Nat :=
  if m = 0 then 0
  else
    let lo : Int := 1 - (f.bias : Int) - f.mb
    let q : Int := max ((m.log2 : Int) + e - f.mb) lo
    let k := if e ≥ q then m * 2 ^ (e - q).toNat else shiftRnd md m (q - e).toNat
    (q - lo).toNat * 2 ^ f.mb + k

/-- A finite value rounded to a whole number of steps 2^p. -/
def roundInt (md : Rnd) (neg : Bool) (m : Nat) (e p : Int) : Int :=
  let k : Nat := if e ≥ p then m * 2 ^ (e - p).toNat else shiftRnd md m (p - e).toNat
  if neg then -(k : Int) else k

/-- Clamp to the range of `w`-bit two's complement: the value and whether it changed. -/
def clampInt (w : Nat) (v : Int) : Nat × Bool :=
  let hi : Int := 2 ^ (w - 1) - 1
  let lo : Int := -(2 ^ (w - 1))
  let x := if v > hi then hi else if v < lo then lo else v
  ((x % 2 ^ w).toNat, decide (x ≠ v))

/-- Convert one value to a format that is not an MX element (R273). `any` is the free value of the one case the spec leaves
unstated, a value beyond the range of INT32. -/
def convert (c : Nat) (sat : Bool) (md : Rnd) (x : Fl) (any : Nat) : Nat × TFlags :=
  let f := fmtOf c
  let sb := fun neg : Bool => neg.toNat * 2 ^ (f.mb + f.eb)
  let beyond := fun neg : Bool =>
    if sat then (sb neg + fmtMax c, ({ saturated := true } : TFlags))
    else if c = 2 then (sb neg + 0x7F, { overflow := true })
    else (f.infBits neg, { overflow := true })
  if c = 4 ∨ c = 5 then
    let w := fmtBits c
    match x with
    | .nan => (0, { invalid := true })
    | .inf neg => (if neg then 2 ^ (w - 1) else 2 ^ (w - 1) - 1, { saturated := true })
    | .fin neg m e =>
      let (v, b) := clampInt w (roundInt md neg m e 0)
      (v, { saturated := b })
  else if c = 13 then
    match x with
    | .nan => (0, { invalid := true })
    | .inf _ => (any % 2 ^ 32, {})
    | .fin neg m e =>
      let v := roundInt md neg m e 0
      let (w, b) := clampInt 32 v
      (if b then any % 2 ^ 32 else w, {})
  else
    match x with
    | .nan => (if c = 2 then 0x7F else f.qnan, {})
    | .inf neg => if c = 2 then beyond neg else if c = 12 ∨ !sat then (f.infBits neg, {}) else (sb neg + fmtMax c, {})
    | .fin neg m e =>
      let v := f.magnitude md m e
      if v > fmtMax c then (if c = 12 then (f.infBits neg, { overflow := true }) else beyond neg) else (sb neg + v, {})

/-- Convert a NaN to E4M3, keeping the sign (R273). -/
def nanE4m3 (w : Nat) : Nat := if w / 2 ^ 31 % 2 = 1 then 0xFF else 0x7F

/-- *e*max of an MX element format (R274). -/
def mxEmax : Nat → Int
  | 6 => 8 | 7 => 15 | 8 => 4 | 9 => 2 | 10 => 2 | _ => 0

/-- ⌊log2⌋ of a finite non-zero magnitude. -/
def Fl.log2 : Fl → Int
  | .fin _ m e => (m.log2 : Int) + e
  | _ => 0

/-- The scale of a block (R274, steps 1 to 3). -/
def mxScale (c : Nat) (xs : List Fl) : Nat :=
  if xs.any fun x => !x.isFin then 255
  else if xs.all Fl.isZero then 127
  else
    let top := (xs.filter fun x => !x.isZero).map Fl.log2
    let l := top.foldl max (top.headD 0)
    (max 0 (min 254 (l - mxEmax c + 127))).toNat

/-- One element of a block under its scale (R274, steps 4 and 5), with whether it saturated. -/
def mxElem (c scale : Nat) (md : Rnd) (x : Fl) : Nat × Bool :=
  if scale = 255 then (0, false)
  else
    match x with
    | .fin neg m e =>
      let e := e - scale + 127
      if c = 11 then clampInt 8 (roundInt md neg m e (-6))
      else
        let f := fmtOf c
        let v := f.magnitude md m e
        (neg.toNat * 2 ^ (f.mb + f.eb) + min v (fmtMax c), decide (v > fmtMax c))
    | _ => (0, false)

/-! ### Vector operations (R259, R260) -/

/-- The binary32 pattern of a value, a NaN that arose from non-NaN operands setting INVALID. -/
def vres (xs : List Fl) (r : Fl) : Nat × TFlags :=
  (fmt32.round r, { invalid := r.isNan && xs.all fun x => !x.isNan })

/-- Reciprocal within 1 ulp: the truncated quotient, one more, or for an exact one a neighbour, as the free value `any` has it. -/
def recip (m : Nat) (e : Int) (neg : Bool) (any : Nat) : Nat :=
  let k := m.log2 + 64
  let q := 2 ^ k / m
  let lo := fmt32.magnitude (.sr 65536) q (-(e + k))
  let exact := decide (2 ^ k % m = 0)
  let v := if exact then lo + any % 3 - 1 else lo + any % 2
  neg.toNat * 2 ^ 31 + min v 0x7F800000

/-- Reciprocal square root within 1 ulp, likewise. -/
def rsqrt (m : Nat) (e : Int) (any : Nat) : Nat :=
  let m2 := if e % 2 = 0 then m else 2 * m
  let e2 := if e % 2 = 0 then e else e - 1
  let k := 2 * (m2.log2 / 2 + 64)
  let q := Nat.sqrt (2 ^ k / m2)
  let lo := fmt32.magnitude (.sr 65536) q (-(e2 / 2) - (k / 2 : Nat))
  let exact := decide (q * q * m2 = 2 ^ k)
  min (if exact then lo + any % 3 - 1 else lo + any % 2) 0x7F800000

/-- EXP, EXP2, RCP and RSQ of one lane (R260): `any` is the free value within the stated bound. -/
def specialLane (op a any : Nat) : Nat × TFlags :=
  let nan := fmt32.qnan
  match op, fmt32.value a with
  | _, .nan => (nan, {})
  | 0x12, .inf neg => (neg.toNat * 2 ^ 31, {})
  | 0x13, .inf neg => if neg then (nan, { invalid := true }) else (0, {})
  | _, .inf neg => if neg then (0, {}) else (fmt32.infBits false, {})
  | 0x12, .fin neg m e => (if m = 0 then fmt32.infBits neg else recip m e neg any, {})
  | 0x13, .fin neg m e =>
    if m = 0 then (fmt32.infBits neg, {})
    else if neg then (nan, { invalid := true }) else (rsqrt m e any, {})
  | _, .fin _ m _ => (if m = 0 then 0x3F800000 else any % 0x7F800001, {})

/-- Number of set bits. -/
def popc (a : Nat) : Nat := ((List.range 32).filter fun i => bits a i 1 = 1).length

/-- One lane of a vector operation on VA, VB and VC (R259). -/
def vecLane (op a b c : Nat) : Nat × TFlags :=
  let x := fmt32.value a
  let y := fmt32.value b
  match op with
  | 0x01 => vres [x, y] (x.add y)
  | 0x02 => vres [x, y] (x.add y.neg)
  | 0x03 => vres [x, y] (x.mul y)
  | 0x04 => vres [x, y, fmt32.value c] ((x.mul y).add (fmt32.value c))
  | 0x05 => (fmt32.minBits a b, {})
  | 0x06 => (fmt32.maxBits a b, {})
  | 0x07 => (if x.lt y then c else a, {})
  | 0x08 => (if !x.isNan && !y.isNan && !x.lt y && !y.lt x then c else a, {})
  | 0x18 => (popc a, {})
  | 0x19 => (Nat.xor a b, {})
  | 0x1A => (Nat.land a b, {})
  | 0x1B => (Nat.lor a b, {})
  | 0x1C => (a * 2 ^ (b % 32) % 2 ^ 32, {})
  | 0x1D => (a / 2 ^ (b % 32), {})
  | 0x1E => ((a + b) % 2 ^ 32, {})
  | 0x1F => ((a + 2 ^ 32 - b) % 2 ^ 32, {})
  | _ => (a, {})

/-- One level of the reduction tree: lanes 2i with 2i + 1 (R259). -/
def pairUp (f : Nat → Nat → Nat × TFlags) : List Nat → List Nat × TFlags
  | a :: b :: t =>
    let (r, g) := f a b
    let (l, h) := pairUp f t
    (r :: l, g.or h)
  | l => (l, {})

/-- The whole tree over 256 lanes. -/
def reduce (f : Nat → Nat → Nat × TFlags) : Nat → List Nat → TFlags → Nat × TFlags
  | 0, l, g => (l.headD 0, g)
  | n + 1, l, g =>
    let (l, h) := pairUp f l
    reduce f n l (g.or h)

end Sys2Proof.Machine
end

