-- ==== Sys2Proof/Machine/Tiles.lean ====
section
/-! DEFINITION. Tiles: their memory, the events of operations under way (R324), the units an operation holds (R325), bundles and
loops, and the meanings of the sector-slot, control and synchronisation rows of a bundle (R308 to R331, R353 to R357). -/

namespace Sys2Proof.Machine

open Sys2Proof

/-! ### A tile's memory -/

/-- Key of word `w` of the scratchpad. -/
def spKey (w : Nat) : Nat := w % 2 ^ 20
/-- Key of the first word of a 128-byte unit of the scratchpad. -/
def unitKey (u : Nat) : Nat := u % 32768 * 32
/-- Key of lane `l` of vector register `r`. -/
def vrKey (r l : Nat) : Nat := 2 ^ 20 + r * 256 + l
/-- Key of element `i` of accumulator bank `b`. -/
def accKey (b i : Nat) : Nat := 2 ^ 21 + b * 4096 + i
/-- Key of word `i` of the scale buffer of port `p`. -/
def scaleKey (p i : Nat) : Nat := 2 ^ 22 + p * 1024 + i
/-- Key of tile register `r`. -/
def trKey (r : Nat) : Nat := 2 ^ 23 + r

/-- May the word be reached: it lies outside the scratchpad, or in a bank of the mask (R286)? -/
def inMask (mask k : Nat) : Bool := decide (2 ^ 20 ≤ k) || bits mask (k / 65536) 1 == 1

/-- What an unlisted word of a tile holds: zero, or a free value where the tile has lost its state (R283). -/
def Tile.unlisted (t : Tile) (k : Nat) : Nat :=
  if t.lost = 0 ∨ k < 2 ^ 20 ∨ 2 ^ 23 ≤ k then 0 else Config.lostWord t.lost k % 2 ^ 32

/-- One word of a tile. -/
def Tile.word (t : Tile) (mask k : Nat) : Nat := if inMask mask k then tabGet (t.unlisted k) k t.mem else 0

/-- Store one word of a tile. -/
def Tile.putWord (t : Tile) (k v : Nat) : Tab Nat :=
  if t.lost = 0 ∨ k < 2 ^ 20 ∨ 2 ^ 23 ≤ k then tabPutD 0 k v t.mem else tabPut k v t.mem

/-- Words of a tile from a key. -/
def Tile.words (t : Tile) (mask k n : Nat) : List Nat := (span k n).map fun i => t.word mask i

/-- Store words; a write to a bank outside the mask is discarded. -/
def Tile.put (t : Tile) (mask k : Nat) (d : List Nat) : Tile :=
  (d.zip (List.range d.length)).foldl (fun t x =>
    if inMask mask (k + x.2) then { t with mem := t.putWord (k + x.2) x.1 } else t) t

/-- Does an access to these words set BANK_ERR? -/
def bankBad (mask k n : Nat) : Bool := n != 0 && (!inMask mask k || !inMask mask (k + n - 1))

/-! ### Events -/

/-- Rank of events of one cycle: results land before they are read. -/
def TileDo.rank : TileDo → Nat
  | .land _ _ => 0
  | _ => 1

/-- Index of the earliest event due by a cycle. -/
def nextEv (l : List TileEv) (cyc : Nat) : Option (Nat × TileEv) :=
  (l.zip (List.range l.length)).foldl (fun b x =>
    if cyc < x.1.due then b
    else match b with
      | none => some (x.2, x.1)
      | some y => if x.1.due * 2 + x.1.what.rank < y.2.due * 2 + y.2.what.rank then some (x.2, x.1) else b) none

/-- A little-endian number of 32-bit words. -/
def wordsVal : List Nat → Nat
  | [] => 0
  | w :: t => w + 2 ^ 32 * wordsVal t

/-- The `n` 32-bit words of a number. -/
def valWords : Nat → Nat → List Nat
  | 0, _ => []
  | n + 1, v => v % 2 ^ 32 :: valWords n (v / 2 ^ 32)

/-- The scale of row or column `r` for element `kk` of a port, 127 (one) when its format is not MX (R265, R266). -/
def portScale (t : Tile) (p fmt r kk : Nat) : Nat :=
  if fmtMx fmt then bits (t.word 0 (scaleKey p ((r * 64 + kk / 32) / 4))) ((r * 64 + kk / 32) % 4 * 8) 8 else 127

/-- One step of a matrix operation (R255, R257, R266 to R269). -/
def mmaStep (t : Tile) (mask : Nat) (m : Mma) : Mma × TFlags :=
  let ks := min (fmtStep m.fa) (fmtStep m.fb)
  let ka := unitKey (m.addrA + m.k)
  let kb := unitKey (m.addrB + m.k)
  let a := wordsVal (t.words mask ka 32)
  let b := wordsVal (t.words mask kb 32)
  let va := fun r e => bits a ((r * ks + e) * fmtBits m.fa) (fmtBits m.fa)
  let vb := fun c e => bits b ((c * ks + e) * fmtBits m.fb) (fmtBits m.fb)
  let int := fmtInt m.fa && fmtInt m.fb
  let one := fun i : Nat =>
    let r := i / 64
    let c := i % 64
    let old := m.sums.getD i 0
    if int then accInt old ((List.range ks).map fun e => (sgn (fmtBits m.fa) (va r e), sgn (fmtBits m.fb) (vb c e)))
    else accFloat old ((List.range ks).map fun e =>
      ((elemValue m.fa (va r e)).scaleBy (portScale t 0 m.fa r (m.k * ks + e)),
       (elemValue m.fb (vb c e)).scaleBy (portScale t 1 m.fb c (m.k * ks + e))))
  let rs := (List.range 4096).map one
  let nanS := (List.range 64).any fun r =>
    portScale t 0 m.fa r (m.k * ks) == 255 || portScale t 1 m.fb r (m.k * ks) == 255
  let fl := rs.foldl (fun g x => g.or x.2) { nanScale := nanS, bankErr := bankBad mask ka 32 || bankBad mask kb 32 }
  ({ m with k := m.k + 1, sums := rs.map (·.1) }, fl)

/-- Take one event. -/
def doEv (t : Tile) (mask : Nat) (e : TileEv) : Tile × TFlags :=
  match e.what with
  | .land k d => (t.put mask k d, { bankErr := bankBad mask k d.length })
  | .move a n b l =>
    ({ t with evs := t.evs ++ [⟨l, .land b (t.words mask a n)⟩] }, { bankErr := bankBad mask a n })
  | .step m =>
    let (m, fl) := mmaStep t mask m
    let next : TileEv := if m.k = m.steps then ⟨e.due + 25, .land (accKey m.acc 0) m.sums⟩ else ⟨e.due + 1, .step m⟩
    ({ t with evs := t.evs ++ [next] }, fl)

/-- What is left of an event, in steps. -/
def evSteps (e : TileEv) : Nat :=
  match e.what with
  | .land _ _ => 1
  | .move _ _ _ _ => 2
  | .step m => m.steps - m.k + 2

/-- Take every event due by a cycle, in order. -/
def runEvs (mask cyc : Nat) : Nat → Tile → TFlags → Tile × TFlags
  | 0, t, g => (t, g)
  | n + 1, t, g =>
    match nextEv t.evs cyc with
    | none => (t, g)
    | some (i, e) =>
      let (t, h) := doEv { t with evs := t.evs.eraseIdx i } mask e
      runEvs mask cyc n t (g.or h)

/-- Bring a tile to a cycle. -/
def Tile.upto (t : Tile) (mask cyc : Nat) : Tile × TFlags := runEvs mask cyc ((t.evs.map evSteps).sum + 1) t {}

/-! ### Kernels on the plane -/

/-- The physical tile `g`. -/
def tile (s : State) (g : Nat) : Tile := tabGet {} g s.plane.tiles

/-- Store a tile. -/
def putTile (s : State) (g : Nat) (t : Tile) : State :=
  { s with plane := { s.plane with tiles := tabPut g t s.plane.tiles } }

/-- The kernel of a launch descriptor. -/
def kernOf (s : State) (g i : Nat) : Option Kern := s.plane.kerns.find? fun k => k.ring = g && k.idx = i

/-- Replace a kernel. -/
def putKern (s : State) (k : Kern) : State :=
  { s with plane := { s.plane with kerns := s.plane.kerns.map fun x => if x.ring = k.ring && x.idx = k.idx then k else x } }

/-- The kernel on the plane. -/
def activeKern (s : State) : Option Kern := s.plane.active.bind fun x => kernOf s x.1 x.2

/-- Is the kernel's domain confidential (R307, R362)? -/
def kernConf (s : State) (k : Kern) : Bool := (tabGet {} (ctxDomain s k.ctx) s.sec.doms).conf

/-- Set the flags of a tile (R275), unless a confidential kernel runs on it (R307). -/
def setTFlags (s : State) (k : Kern) (g : Nat) (f : TFlags) : State :=
  if kernConf s k then s
  else
    let up := fun (s : State) (b : Bool) (x : Fld) => if b then s.setFlag x true else s
    let s := up s f.invalid (F.TP_T_FLAGS_INVALID g)
    let s := up s f.overflow (F.TP_T_FLAGS_OVERFLOW g)
    let s := up s f.saturated (F.TP_T_FLAGS_SATURATED g)
    let s := up s f.intWrap (F.TP_T_FLAGS_INT_WRAP g)
    let s := up s f.nanScale (F.TP_T_FLAGS_NAN_SCALE g)
    up s f.bankErr (F.TP_T_FLAGS_BANK_ERR g)

/-- Note BANK_ERR for the launch's code (R286). -/
def noteBank (s : State) (k : Kern) (b : Bool) : State :=
  if b then
    match kernOf s k.ring k.idx with
    | some k => putKern s { k with bankErr := true }
    | none => s
  else s

/-- Bring every tile of a kernel to a cycle. -/
def settle (s : State) (k : Kern) (cyc : Nat) : State :=
  k.tiles.foldl (fun s x =>
    let (t, f) := (tile s x.2).upto k.frame.bankMask cyc
    noteBank (setTFlags (putTile s x.2 t) k x.2 f) k f.bankErr) s

/-- A plan error (R326): kind, code; or kind 0 under R358. -/
def planError (s : State) (k : Kern) (kind : Nat) (c : Code) : State :=
  let s := s.set F.TP_SEQ_ERR_KIND kind
  let s := s.set F.TP_SEQ_ERR_BUNDLE k.bundle
  let s := s.set F.TP_SEQ_ERR_CONTEXT k.ctx
  let s := s.setFlag F.TP_SEQ_ERR_VALID true
  let st : KSt := match k.st with | .out _ => k.st | _ => .ending
  putKern s { k with err := some (c, k.bundle % 2 ^ 26), st := st }

/-! ### Bundles and loops (R309, R311, R327 to R331) -/

/-- Open loops after the bundle, and the next bundle: the innermost loop whose body ends here repeats or closes (R330). -/
def loopNext (b : Nat) : List KLoop → Nat × List KLoop
  | [] => (b + 1, [])
  | l :: t =>
    if l.start + l.len = b then
      if l.iter + 1 < l.count then (l.start + 1, { l with iter := l.iter + 1 } :: t) else loopNext b t
    else (b + 1, l :: t)

/-- Step to the next bundle; open loops are kept innermost first. -/
def nextBundle (k : Kern) : Kern :=
  if !k.begun then { k with begun := true, bundle := 0 }
  else
    let (b, ls) := loopNext k.bundle k.loops
    let lc := ls.foldl (fun c l => listSet c l.level l.iter) k.lc
    { k with bundle := b, loops := ls, lc := lc }

/-- Step until bundle `b`, over bundles without a row of their own. -/
def seekBundle (b : Nat) : Nat → Kern → Option Kern
  | 0, _ => none
  | n + 1, k =>
    let k := nextBundle k
    if k.bundle = b then some k else if k.bundle ≥ k.frame.bundles then none else seekBundle b n k

/-- Apply what TLOAD and AUX left for after their bundle (R321). -/
def applyAux (s : State) (k : Kern) : State :=
  k.aux.foldl (fun s (g, r, add, v) =>
    let t := tile s g
    let old := tabGet 0 (trKey r) t.mem
    let new := (if add then old + v else v) % 32768
    putTile s g { t with mem := tabPutD 0 (trKey r) new t.mem }) s

/-- What a slot finds: its bundle issues, with the state and the kernel; it is held; or it is no bundle of the kernel now. -/
inductive Opened where
  | go (s : State) (k : Kern)
  | held
  | no
deriving DecidableEq, Repr

/-- Issue the bundle of a slot, or join the one that issues in this cycle. -/
def openBundle (s : State) (k : Kern) (i : Issue) : Opened :=
  if k.st ≠ .issuing ∨ k.hurt ∨ k.err ≠ none ∨ !planeRuns s then .no
  else if k.begun ∧ i.bundle = k.bundle ∧ i.cyc = k.cyc then .go s k
  else if i.cyc < k.cyc + k.idle + (if k.begun then 1 else 0) then .no
  else if backsOpen s k.sync then .held
  else if (match k.pendWait with | some w => decide (tabGet 0 w.1 k.ev < w.2) | none => false) then .held
  else
    match seekBundle i.bundle (i.cyc + 1 - k.cyc - k.idle) k with
    | none => .no
    | some k2 =>
      let s := settle (applyAux s k) k i.cyc
      let ev := match k.pendWait with | some w => tabPutD 0 w.1 (tabGet 0 w.1 k.ev - w.2) k.ev | none => k.ev
      let k2 := { k2 with cyc := i.cyc, idle := 0, aux := [], sync := [], pendWait := none, ev := ev,
                          bankErr := (match kernOf s k.ring k.idx with | some x => x.bankErr | none => k.bankErr) }
      .go (putKern s k2) k2

/-- A held cycle of a synchronisation slot (R328; R362 for a confidential kernel). -/
def holdCycle (s : State) (k : Kern) : State := if kernConf s k then s else s.bump F.TP_SEQ_FETCH_SYNC_HOLD

/-- A slot's row: nothing happens unless a kernel issues and the bundle can issue now; issue past the last bundle is RUNOFF. -/
def slotRow (s : State) (i : Issue) (f : State → Kern → State) : State :=
  let s := s.upto (i.cyc * 5 / 6)
  match activeKern s with
  | none => s
  | some k =>
    match openBundle s k i with
    | .no => s
    | .held => holdCycle s k
    | .go s k => if i.bundle ≥ k.frame.bundles then planError s k 7 .malformed else f s k

/-! ### Sector slots (R315 to R321, R324, R325) -/

/-- The physical tiles that a sector slot drives. -/
def slotTiles (k : Kern) (x : Slot) : List Nat :=
  k.tiles.filterMap fun p => if p.1 / 16 = x.sector.val ∧ bits x.tmask.toNat (p.1 % 16) 1 = 1 then some p.2 else none

/-- A field of a sub-slot. -/
def slotF (x : Slot) (lo wid : Nat) : Nat := bits x.bits.toNat lo wid

/-- The address of a field with an offset register (R316). -/
def tileAddr (t : Tile) (addr off : Nat) : Nat := (addr + if off = 0 then 0 else tabGet 0 (trKey off) t.mem) % 32768

/-- The units of a tile: 0 matrix unit, 1 and 2 ports A and B, 3 ACC master, 4 special pipe, 5 reduction tree, 6 load port,
7 store port, 8 to 11 accumulator banks. A need is a unit and the cycles it is held. -/
abbrev Needs := List (Nat × Nat)

/-- Is any unit held now (R325)? -/
def occupied (t : Tile) (cyc : Nat) (ns : Needs) : Bool := ns.any fun n => decide (cyc < tabGet 0 n.1 t.held)

/-- Hold units from a cycle. -/
def Tile.hold (t : Tile) (cyc : Nat) (ns : Needs) : Tile :=
  { t with held := ns.foldl (fun h n => tabPut n.1 (cyc + n.2) h) t.held }

/-- The row of a sector sub-slot: `ok` says that the sub-slot breaks no range (R310), `op` that its opcode is the row's, `need` the
units it takes and `eff` what it makes a tile do. -/
def tileRow (x : Slot) (op ok : Bool) (need : Needs) (eff : State → Kern → Tile → Nat → Tile × TFlags) (s : State) : State :=
  if !op then s
  else slotRow s x.iss fun s k =>
    let gs := slotTiles k x
    if !ok then planError s k 1 .malformed
    else if gs.any fun g => occupied (tile s g) x.iss.cyc need then planError s k 2 .malformed
    else gs.foldl (fun s g =>
      let (t, f) := eff s k (tile s g) g
      setTFlags (putTile s g (t.hold x.iss.cyc need)) k g f) s

/-- Add events to a tile. -/
def Tile.plan (t : Tile) (es : List TileEv) : Tile := { t with evs := t.evs ++ es }

/-- MMA (R255, R263, R264; R317). -/
def mmaRow (x : Slot) (s : State) : State :=
  let fa := slotF x 6 4
  let fb := slotF x 10 4
  let steps := slotF x 45 12 + 1
  let kk := steps * min (fmtStep fa) (fmtStep fb)
  let ok := decide (fa ≤ 11) && decide (fb ≤ 11) && slotF x 63 1 == 0 &&
    (!(fmtMx fa || fmtMx fb) || (kk % 32 == 0 && decide (kk ≤ 2048)))
  let b := slotF x 4 2
  let cyc := x.iss.cyc
  tileRow x (slotF x 0 4 == 1) ok [(0, steps), (1, steps), (2, steps), (8 + b, steps + 24)] (fun _ k t _ =>
    let old := if slotF x 14 1 = 1 then List.replicate 4096 0 else t.words k.frame.bankMask (accKey b 0) 4096
    let m : Mma := { acc := b, fa := fa, fb := fb, addrA := tileAddr t (slotF x 15 15) (slotF x 57 3),
                     addrB := tileAddr t (slotF x 30 15) (slotF x 60 3), k := 0, steps := steps, sums := old }
    (t.plan [⟨cyc, .step m⟩], {})) s

/-- LDSA and LDSB (R265): 4 KiB, a beat a cycle. -/
def scaleRow (op p : Nat) (x : Slot) (s : State) : State :=
  let cyc := x.iss.cyc
  tileRow x (slotF x 0 4 == op) (slotF x 63 1 == 0) [(1 + p, 32)] (fun _ _ t _ =>
    let a := tileAddr t (slotF x 15 15) (slotF x 57 3)
    (t.plan ((List.range 32).map fun j => ⟨cyc + j, .move (unitKey (a + j)) 32 (scaleKey p (32 * j)) (cyc + 32)⟩), {})) s

/-- ACC_ST and ACC_LD (R324): 16 KiB, row-major. -/
def accRow (st : Bool) (x : Slot) (s : State) : State :=
  let cyc := x.iss.cyc
  let b := slotF x 4 2
  tileRow x (slotF x 0 4 == if st then 4 else 5) (slotF x 63 1 == 0) [(3, 128), (8 + b, 128)] (fun _ _ t _ =>
    let a := tileAddr t (slotF x 15 15) (slotF x 57 3)
    (t.plan ((List.range 128).map fun j =>
      if st then ⟨cyc + j, .move (accKey b (32 * j)) 32 (unitKey (a + j)) (cyc + 130)⟩
      else ⟨cyc + j, .move (unitKey (a + j)) 32 (accKey b (32 * j)) (cyc + 130)⟩), {})) s

/-- The 256 lanes of a vector register. -/
def vreg (t : Tile) (r : Nat) : List Nat := t.words 0 (vrKey r 0) 256

/-- The VEC fields that every operation shares: the reserved bits are zero. -/
def vecOk (x : Slot) : Bool := slotF x 41 23 == 0

/-- A lane-wise vector operation (R259). -/
def vecRow (op : Nat) (x : Slot) (s : State) : State :=
  tileRow x (slotF x 0 6 == op) (vecOk x) [] (fun _ _ t _ =>
    let a := vreg t (slotF x 11 5)
    let b := vreg t (slotF x 16 5)
    let c := vreg t (slotF x 21 5)
    let rs := (List.range 256).map fun i => vecLane op (a.getD i 0) (b.getD i 0) (c.getD i 0)
    (t.plan [⟨x.iss.cyc + 4, .land (vrKey (slotF x 6 5) 0) (rs.map (·.1))⟩], rs.foldl (fun g r => g.or r.2) {})) s

/-- A special function (R260). -/
def specialRow (op : Nat) (x : Slot) (s : State) : State :=
  tileRow x (slotF x 0 6 == op) (vecOk x) [(4, 4)] (fun _ _ t _ =>
    let rs := (vreg t (slotF x 11 5)).map fun a => specialLane op a (Config.special op a)
    (t.plan [⟨x.iss.cyc + 12, .land (vrKey (slotF x 6 5) 0) (rs.map (·.1))⟩], rs.foldl (fun g r => g.or r.2) {})) s

/-- RSUM and RMAX (R259): lane 0 of VD takes the result, the other lanes 0. -/
def reduceRow (op : Nat) (x : Slot) (s : State) : State :=
  tileRow x (slotF x 0 6 == op) (vecOk x) [(5, 8)] (fun _ _ t _ =>
    let f := fun a b => vecLane (if op = 0x22 then 0x01 else 0x06) a b 0
    let (r, g) := reduce f 8 (vreg t (slotF x 11 5)) {}
    (t.plan [⟨x.iss.cyc + 10, .land (vrKey (slotF x 6 5) 0) (r :: List.replicate 255 0)⟩], g)) s

/-- Is PART within R318 for the format, and the format one of the table? -/
def partOk (x : Slot) : Bool :=
  let f := slotF x 26 4
  let p := slotF x 38 3
  decide (f ≤ 13) && match fmtBits f with
    | 32 => p == 0 | 16 => decide (p ≤ 1) | 8 => decide (p ≤ 3) | 6 => decide (p ≤ 4) | _ => true

/-- CVTI (R318). -/
def cvtiRow (x : Slot) (s : State) : State :=
  let f := slotF x 26 4
  let w := fmtBits f
  let p := slotF x 38 3
  tileRow x (slotF x 0 6 == 0x20) (vecOk x && partOk x) [] (fun _ _ t _ =>
    let src := wordsVal (((vreg t (slotF x 11 5)).drop (p * 8 * w)).take (8 * w))
    let sc := wordsVal (((vreg t (slotF x 21 5)).drop (p * 2)).take 2)
    let scale := fun i => if fmtMx f then bits sc (i / 32 * 8) 8 else 127
    let rs := (List.range 256).map fun i => fmt32.round ((elemValue f (bits src (i * w) w)).scaleBy (scale i))
    let bad := fmtMx f && (List.range 8).any fun b => scale (32 * b) == 255
    (t.plan [⟨x.iss.cyc + 4, .land (vrKey (slotF x 6 5) 0) rs⟩], { nanScale := bad })) s

/-- The draws of a stochastic conversion: one for each element, the generator advancing each time (R271, R272). -/
def draws : Nat → Nat → List Nat × Nat
  | 0, g => ([], g)
  | n + 1, g =>
    let (l, h) := draws n (Config.rngNext g).toNat
    ((Config.rngDraw g).toNat :: l, h)

/-- The elements of a number of `w` bits each, packed. -/
def packBits (w : Nat) : List Nat → Nat
  | [] => 0
  | v :: t => v % 2 ^ w + 2 ^ w * packBits w t

/-- CVTO (R270 to R274, R318). -/
def cvtoRow (x : Slot) (s : State) : State :=
  let f := slotF x 26 4
  let w := fmtBits f
  let p := slotF x 38 3
  let cyc := x.iss.cyc
  tileRow x (slotF x 0 6 == 0x21) (vecOk x && partOk x) [] (fun s _ t _ =>
    let src := vreg t (slotF x 11 5)
    let int := slotF x 16 1 = 1
    let vals := src.map fun a => if int then Fl.ofInt (sgn 32 a) 0 else fmt32.value a
    let sr := slotF x 30 1 = 1 ∧ s.flag F.TP_CTRL_SR_EN
    let (ds, g) := if sr then draws 256 t.rng else ([], t.rng)
    let md := fun i : Nat => if sr then Rnd.sr (ds.getD i 0) else Rnd.rne
    let t := { t with rng := g }
    if fmtMx f then
      let block := fun b : Nat =>
        let xs := (vals.drop (32 * b)).take 32
        let sc := mxScale f xs
        (sc, (xs.zip (List.range 32)).map fun y => mxElem f sc (md (32 * b + y.2)) y.1)
      let bs := (List.range 8).map block
      let data := valWords (8 * w) (packBits w (bs.flatMap fun b => b.2.map (·.1)))
      let scs := valWords 2 (packBits 8 (bs.map (·.1)))
      (t.plan [⟨cyc + 4, .land (vrKey (slotF x 6 5) (p * 8 * w)) data⟩, ⟨cyc + 4, .land (vrKey (slotF x 21 5) (p * 2)) scs⟩],
       { nanScale := bs.any fun b => b.1 == 255, saturated := bs.any fun b => b.2.any (·.2) })
    else
      let rs := (vals.zip (List.range 256)).map fun y =>
        let r := convert f (slotF x 31 1 = 1) (md y.2) y.1 (Config.pick s.free)
        if f = 2 ∧ y.1.isNan then (nanE4m3 (src.getD y.2 0), r.2) else r
      let same := f = 12 ∧ !int ∨ f = 13 ∧ int
      let out := if same then src else rs.map (·.1)
      (t.plan [⟨cyc + 4, .land (vrKey (slotF x 6 5) (p * 8 * w)) (valWords (8 * w) (packBits w out))⟩],
       if same then {} else rs.foldl (fun g r => g.or r.2) {})) s

/-- AMOV and AWR (R258, R319). -/
def amovRow (write : Bool) (x : Slot) (s : State) : State :=
  let b := slotF x 32 2
  tileRow x (slotF x 0 6 == if write then 0x29 else 0x28) (vecOk x) [(8 + b, 1)] (fun _ _ t _ =>
    let k := accKey b (slotF x 34 4 * 256)
    if write then (t.plan [⟨x.iss.cyc + 2, .land k (vreg t (slotF x 11 5))⟩], {})
    else (t.plan [⟨x.iss.cyc + 2, .land (vrKey (slotF x 6 5) 0) (t.words 0 k 256)⟩], {})) s

/-- VLD and VST (R320). -/
def portRow (store : Bool) (x : Slot) (s : State) : State :=
  let n := slotF x 25 3 + 1
  let cyc := x.iss.cyc
  let r := slotF x 2 5
  tileRow x (slotF x 0 2 == 1) (slotF x 28 36 == 0) [(if store then 7 else 6, n)] (fun _ _ t _ =>
    let a := tileAddr t (slotF x 7 15) (slotF x 22 3)
    (t.plan ((List.range n).map fun j =>
      if store then ⟨cyc + j, .move (vrKey r (32 * j)) 32 (unitKey (a + j)) (cyc + n + 2)⟩
      else ⟨cyc + j, .move (unitKey (a + j)) 32 (vrKey r (32 * j)) (cyc + n + 3)⟩), {})) s

/-- AUX_ADD and AUX_SET (R321): the change waits until the bundle's addresses have been formed. -/
def auxRow (add : Bool) (x : Slot) (s : State) : State :=
  if slotF x 16 4 ≠ (if add then 1 else 2) then s
  else slotRow s x.iss fun s k =>
    if slotF x 20 3 = 0 ∨ slotF x 39 25 ≠ 0 then planError s k 1 .malformed
    else
      let v := (sgn 16 (slotF x 23 16) % 32768).toNat
      putKern s { k with aux := k.aux ++ (slotTiles k x).map fun g => (g, slotF x 20 3, add, v) }

/-! ### Control slot (R309 to R311, R329, R357) -/

/-- A control row: its opcode, its reserved bits from `top` of the operands, and its effect; IDLE holds for every one. -/
def controlRow (op top : Nat) (w : Word) (i : Issue) (f : State → Kern → State) (s : State) : State :=
  let v := w.toNat
  if bits v 0 6 ≠ op then s
  else slotRow s i fun s k =>
    let k := { k with idle := bits v 48 16 }
    let s := putKern s k
    if bits v top (48 - top) ≠ 0 then planError s k 1 .malformed else f s k

/-- LOOP (R329, R330). -/
def loopRow (w : Word) (i : Issue) (s : State) : State :=
  controlRow 0x01 36 w i (fun s k =>
    let v := w.toNat
    let lev := bits v 6 2
    let cnt := bits v 8 16 + 1
    let len := bits v 24 12 + 1
    let last := k.bundle + len
    if lev ≠ k.loops.length ∨ k.loops.any (fun l => decide (l.start + l.len < last)) ∨ last ≥ k.frame.bundles then
      planError s k 3 .malformed
    else
      let l : KLoop := { level := lev, start := k.bundle, len := len, count := cnt, iter := 0 }
      putKern s { k with loops := l :: k.loops, lc := listSet k.lc lev 0 }) s

/-- END (R357). -/
def endRow (w : Word) (i : Issue) (s : State) : State :=
  controlRow 0x04 6 w i (fun s k => putKern s { k with st := .ending }) s

/-- TLOAD (R310, R344): TR1 to TR7 of every tile of the kernel. -/
def tloadRow (w : Word) (i : Issue) (s : State) : State :=
  controlRow 0x05 12 w i (fun s k =>
    match k.frame.tregs[bits w.toNat 6 6]? with
    | none => planError s k 4 .malformed
    | some row =>
      let ch := k.tiles.flatMap fun p => (span 1 7).map fun r => (p.2, r, false, row.getD (p.1 * 8 + r) 0)
      putKern s { k with aux := ch ++ k.aux }) s

/-! ### Switching (R353 to R356) -/

/-- Does the live set of the kernel hold the word of a logical tile? -/
def inLive (k : Kern) (live l w : Nat) : Bool :=
  match k.frame.lsets[live]? with
  | none => false
  | some (first, n) => ((k.frame.lranges.drop first).take n).any fun r =>
      bits r.sectors (l / 16) 1 == 1 && bits r.tiles (l % 16) 1 == 1 && decide (r.start ≤ w / 32) && decide (w / 32 < r.start + r.beats)

/-- The banks of a logical tile that the live set touches. -/
def liveBanks (k : Kern) (live l : Nat) : List Nat :=
  match k.frame.lsets[live]? with
  | none => []
  | some (first, n) => (List.range 16).filter fun b => bits k.frame.bankMask b 1 = 1 &&
      ((k.frame.lranges.drop first).take n).any fun r => bits r.sectors (l / 16) 1 == 1 && bits r.tiles (l % 16) 1 == 1 &&
        decide (r.start < (b + 1) * 2048) && decide (b * 2048 < r.start + r.beats)

/-- The flags and conflict counts of a tile. -/
def tileCounts (g : Nat) : List Fld :=
  [F.TP_T_FLAGS_INVALID g, F.TP_T_FLAGS_OVERFLOW g, F.TP_T_FLAGS_SATURATED g, F.TP_T_FLAGS_INT_WRAP g, F.TP_T_FLAGS_NAN_SCALE g,
   F.TP_T_FLAGS_BANK_ERR g, F.TP_T_CONFLICT0_MA g, F.TP_T_CONFLICT0_MB g, F.TP_T_CONFLICT0_ACC g, F.TP_T_CONFLICT0_VLD g,
   F.TP_T_CONFLICT1_VST g, F.TP_T_CONFLICT1_CPY g, F.TP_T_CONFLICT1_SAVE g]

/-- A kernel leaves its tiles; those of a confidential domain have their flags and conflict counts cleared (R307). -/
def leaveTiles (s : State) (k : Kern) : State :=
  let conf := kernConf s k
  let dom := ctxDomain s k.ctx + 1
  k.tiles.foldl (fun s p =>
    let t := tile s p.2
    let ds := (List.range 16).foldl (fun d b => if bits k.frame.bankMask b 1 = 1 then tabPut b dom d else d) t.bankDom
    let s := (putTile s p.2 { t with evs := [], held := [], idleAt := s.now, bankDom := ds }).setFlag (F.TP_T_STATUS_BUSY p.2) false
    if conf then (tileCounts p.2).foldl (fun s f => s.set f 0) s else s) s

/-- Remove a kernel and its copies. -/
def dropKern (s : State) (k : Kern) : State :=
  { s with plane := { s.plane with
      kerns := s.plane.kerns.filter fun x => !(x.ring = k.ring && x.idx = k.idx)
      kcopies := s.plane.kcopies.filter fun c => !(c.ring = k.ring && c.idx = k.idx)
      active := if s.plane.active = some (k.ring, k.idx) then none else s.plane.active } }

/-- Drop the kernels whose launch has been cancelled. -/
def reapKerns (s : State) : State :=
  (s.plane.kerns.filter fun k => match findJob s k.ring k.idx with
    | some j => j.st == .finished
    | none => true).foldl (fun s k => dropKern (leaveTiles s k) k) s

/-- Has a copy of the kernel faulted? -/
def copyFaulted (s : State) (k : Kern) : Bool :=
  s.plane.kcopies.any fun c => c.ring = k.ring && c.idx = k.idx && c.st = .faulted

/-- Kernels switched out. -/
def keptKerns (s : State) : Nat := (s.plane.kerns.filter fun k => match k.st with | .out _ => true | _ => false).length

/-- Switch the kernel out (R354): issued operations complete, and its state is kept. -/
def switchOut (s : State) (k : Kern) (live : Nat) (fault : Bool) : State :=
  let s := settle (applyAux s k) k (k.cyc + 10000)
  let keep := k.tiles.map fun p =>
    let t := tile s p.2
    ({ logical := p.1, phys := p.2, banks := liveBanks k live p.1,
       mem := t.mem.filter fun e => decide (e.1 < 2 ^ 20) && inMask k.frame.bankMask e.1,
       tregs := t.words 0 (trKey 0) 8 } : KeptTile)
  let s := leaveTiles s k
  let s := putKern s { k with st := .out fault, kept := keep, live := live, tiles := [], aux := [], outAt := s.now }
  let s := { s with plane := { s.plane with active := none } }
  let s := s.bumpSat F.TP_SEQ_STATS_SWITCHES
  match findJob s k.ring k.idx with
  | some j => putJob s { j with st := if fault then .faulted else .switched }
  | none => s

/-- Does a launch of another domain wait (R353)? -/
def otherWaits (s : State) (k : Kern) : Bool :=
  s.plane.kerns.any fun x => ctxDomain s x.ctx != ctxDomain s k.ctx &&
    (match x.st with | .queued => true | .out _ => !copyFaulted s x | _ => false)

/-- Is a tile of the kernel Hazy while its sector holds a spare (R565)? -/
def hazyWithSpare (s : State) (k : Kern) : Bool :=
  k.tiles.any fun p => s.flag (F.TP_T_STATUS_HAZY p.2) &&
    (span (p.2 / 16 * 16) 16).any fun g =>
      !(k.tiles.any fun q => q.2 = g) && !s.flag (F.TP_T_STATUS_HAZY g) && !s.flag (F.TP_T_STATUS_FAILED g)

/-- A yield point (R353, R247): none when it issues as an ordinary bundle. `met`: the condition of a WAIT holds already. -/
def yieldAt (s : State) (k : Kern) (live : Nat) (isYield met : Bool) (w : Option (Nat × Nat)) : Option State :=
  let r := s.ring k.ring
  if r.st = .draining then
    let s := dropKern (leaveTiles s k) k
    some (match findJob s k.ring k.idx with
      | some j => finishJob s j (if r.drainPort then .portLost else .abortDisable)
      | none => s)
  else if copyFaulted s k && !met then
    (if keptKerns s < 256 then some (switchOut s { k with pendWait := w } live true) else none)
  else if isYield && keptKerns s < 256 &&
      ((otherWaits s k && decide (k.runFrom + 1000 * s.get F.TP_SEQ_CTRL_QUANTUM_US ≤ s.now)) || hazyWithSpare s k) then
    some (switchOut s k live false)
  else none

/-- Is a live-set index within its table, or 0xFFF? -/
def liveOk (k : Kern) (l : Nat) : Bool := l == 0xFFF || decide (l < k.frame.lsets.length)

/-- YIELD (R353). -/
def yieldRow (w : Word) (i : Issue) (s : State) : State :=
  controlRow 0x03 18 w i (fun s k =>
    let l := bits w.toNat 6 12
    if !liveOk k l then planError s k 4 .malformed
    else (yieldAt s k l true false none).getD s) s

/-! ### Synchronisation slot (R322, R323) -/

/-- A synchronisation row: `hold` says that the bundle does not issue yet; then only the held cycle shows. -/
def syncRow (op : Nat) (w : Word) (i : Issue) (ok : Nat → Kern → Option Nat) (hold : State → Kern → Bool)
    (f : State → Kern → State) (s : State) : State :=
  let v := w.toNat
  if bits v 0 4 ≠ op then s
  else
    let s0 := s.upto (i.cyc * 5 / 6)
    match activeKern s0 with
    | none => s0
    | some k0 =>
      match openBundle s0 k0 i with
      | .no => s0
      | .held => holdCycle s0 k0
      | .go s k =>
        if i.bundle ≥ k.frame.bundles then planError s k 7 .malformed
        else
          match ok v k with
          | some kind => planError s k kind .malformed
          | none => if hold s k then holdCycle s0 k0 else f s k

/-- WAIT (R322, R353). -/
def waitRow (w : Word) (i : Issue) (s : State) : State :=
  let v := w.toNat
  let e := bits v 4 8
  let c := bits v 12 16
  let safe := bits v 40 1 = 1
  let met := fun k : Kern => decide (c ≤ tabGet 0 e k.ev)
  let leaves := fun (s : State) (k : Kern) => if safe then yieldAt s k (bits v 28 12) false (met k) (some (e, c)) else none
  syncRow 1 w i (fun v k => if c = 0 ∨ bits v 41 23 ≠ 0 then some 1 else if liveOk k (bits v 28 12) then none else some 4)
    (fun s k => !met k && (leaves s k).isNone)
    (fun s k => match leaves s k with
      | some s => s
      | none => putKern s { k with ev := tabPutD 0 e (tabGet 0 e k.ev - c) k.ev }) s

/-- Is a scratchpad write of an earlier bundle still on its way? -/
def spPending (s : State) (k : Kern) : Bool :=
  k.tiles.any fun p => (tile s p.2).evs.any fun e => match e.what with
    | .land d _ => decide (d < 2 ^ 20)
    | .move _ _ d _ => decide (d < 2 ^ 20)
    | .step _ => false

/-- SPFENCE (R322). -/
def spfenceRow (w : Word) (i : Issue) (s : State) : State :=
  syncRow 2 w i (fun v _ => if bits v 4 60 ≠ 0 then some 1 else none) (fun s k => spPending s k) (fun s _ => s) s

/-- DRAIN (R322). -/
def drainRow (w : Word) (i : Issue) (s : State) : State :=
  syncRow 5 w i (fun v _ => if bits v 4 60 ≠ 0 then some 1 else none)
    (fun s k => s.plane.kcopies.any fun c => c.ring = k.ring && c.idx = k.idx && decide (c.started < i.cyc)) (fun s _ => s) s

/-- ACQUIRE and FLUSH from the synchronisation slot (R297, R300, R323). -/
def rangeRow (acq : Bool) (w : Word) (i : Issue) (s : State) : State :=
  let v := w.toNat
  let ns := if bits v 24 4 = 0 then List.range 4 else (List.range 4).filter fun n => bits v (24 + n) 1 = 1
  syncRow (if acq then 3 else 4) w i
    (fun v k => if bits v 28 36 ≠ 0 ∨ bits v 4 8 ≠ 0 then some 1 else if bits v 12 12 < k.frame.ranges.length then none else some 4)
    (fun _ _ => false)
    (fun s k => match k.frame.ranges[bits v 12 12]? with
      | none => s
      | some r =>
        match poolOf s k.ctx r.va r.len (if r.cls = 2 then .wr else .rd) with
        | none => s
        | some pa =>
          let s := if acq then acquireRange s ns pa r.len else flushRange s ns pa r.len
          putKern s { k with sync := ns }) s

end Sys2Proof.Machine
end

