-- ==== Sys2Proof/Machine/Translation.lean ====
section
/-! DEFINITION. The meanings of contexts, segments, range invalidation, swapping and page faults (spec/03). -/

namespace Sys2Proof.Machine

open Sys2Proof

/-- The embedding versions that were registered through a narrowed segment become retiring (R373). -/
def retireThrough (s : State) (k : Nat) : State :=
  let f := fun v : EmbVer => if v.segs.contains k then { v with retiring := true } else v
  { s with emb := { s.emb with vers := s.emb.vers.map f } }

/-! ### Format of the translation family (R97, order 1 of R101) -/

def xltFmt (ws : List Word) : Bool :=
  match descOp ws with
  | 0x48 => dbits ws 19 2 6 == 0 && dbits ws 20 0 352 == 0
  | 0x49 => dbits ws 18 0 368 == 0
  | 0x4A => dbits ws 18 4 44 == 0 && dbits ws 32 0 256 == 0
  | 0x4B => dbits ws 18 4 364 == 0
  | 0x4C => dbits ws 18 1 47 == 0 && dbits ws 24 0 16 == 0 && dbits ws 32 0 16 == 0 && dbits ws 32 0 64 != 0 &&
      dbits ws 40 0 192 == 0 && (dbits ws 18 0 1 == 0 || dbits ws 16 0 16 == 0)
  | 0x4D | 0x4E => dbits ws 16 0 64 == 0 && dbits ws 24 0 21 == 0 && dbits ws 32 0 32 != 0 && dbits ws 36 0 224 == 0
  | _ => false

/-- The unit that runs the translation family. -/
def xltUnit : Nat := 0x80

/-- A translation-family descriptor's row. -/
def xltRun (op : Nat) (d : Desc) (s : State) (eff : State → Job → State) : Ans := .next (runDesc s d op xltUnit eff)

/-- Does an invalidation that the job started await acknowledgements? -/
def jobInval (s : State) (j : Job) : Bool := s.xlt.invals.any fun v => v.ring = j.ring && v.idx = j.idx

/-- Install a segment value: GEN rises by one (R86). -/
def installSeg (s : State) (k : Nat) (g : Option Seg) : State :=
  let s := dropSeg s k
  { s with xlt := { s.xlt with
      segs := match g with | some x => tabPut k x s.xlt.segs | none => tabDel k s.xlt.segs
      gens := match g with | some _ => tabPut k ((tabGet 0 k s.xlt.gens + 1) % 65536) s.xlt.gens | none => s.xlt.gens
      corrupt := s.xlt.corrupt.filter fun x => x != .seg (k / 16) (k % 16) } }

/-- Is the change of a segment widening (spec/03, "Changing a segment under queued work")? -/
def widens (o n : Seg) : Bool :=
  o.vaBase == n.vaBase && o.fabric == n.fabric && o.remoteCtx == n.remoteCtx && decide (o.len ≤ n.len) &&
    (!o.rd || n.rd) && (!o.wr || n.wr) && (!o.atm || n.atm) && (!o.ex || n.ex)

/-- Has the job been translated through the segment and not started, or been switched out (R93)? -/
def narrowHits (k : Nat) (j : Job) : Bool :=
  j.segs.contains k && (match j.st with | .queued | .faulted | .switched => true | _ => false)

/-- End a job that was switched out or suspended: it leaves its waiter list. -/
def cancelJob (s : State) (j : Job) (c : Code) : State := finishJob (dropWaiter s (.job j.ring j.idx)) j c

/-- A narrowing change of a segment is installed (R93; R373 for the versions registered through it). -/
def narrow (s : State) (k : Nat) : State :=
  let s := (s.rings.jobs.filter (narrowHits k)).foldl (fun s j => cancelJob s j .denied) s
  retireThrough s k

/-- Does running work translated through a segment go on (R93, R94)? -/
def segInUse (s : State) (k : Nat) (j : Job) : Bool :=
  s.rings.jobs.any fun x => x.segs.contains k && !(x.ring = j.ring && x.idx = j.idx) &&
    (match x.st with | .running | .waiting => true | _ => false)

/-- XLT_CTX_SET (R99, R101). -/
def execXltCtxSet (d : Desc) (s : State) : Ans :=
  xltRun 0x48 d s fun s j =>
    let c := dbits j.words 16 0 16
    let dom := dbits j.words 18 0 8
    if c = 0 then finishJob s j .denied
    else if ctxValid s c ∧ ctxDomain s c ≠ dom then finishJob s j .malformed
    else if !domLive s dom then finishJob s j .denied
    else
      let e : Ctx := { domain := dom, priv := dbits j.words 19 0 1 == 1, fresh := dbits j.words 19 1 1 == 1 }
      finishJob { s with xlt := { s.xlt with ctxs := tabPut c e s.xlt.ctxs, corrupt := s.xlt.corrupt.filter fun x => x != .ctx c } } j .ok

/-- Is any ring of the context in a state other than DISABLED (R100)? -/
def ctxRingsBusy (s : State) (c : Nat) : Bool :=
  (span (c * 16) 16).any fun g => (s.ring g).st != .disabled

/-- Clear one segment as a narrowing change and start the invalidation of its range. -/
def clearSeg (s : State) (j : Job) (k : Nat) : State :=
  match tabGet? k s.xlt.segs with
  | none => s
  | some o =>
    let s := (startInval s .segment j true false (k / 16) o.vaBase (o.len * 65536)).2
    narrow (installSeg s k none) k

/-- XLT_CTX_CLEAR (R100). -/
def execXltCtxClear (d : Desc) (s : State) : Ans :=
  xltRun 0x49 d s fun s j =>
    let c := dbits j.words 16 0 16
    let ks := span (c * 16) 16
    if j.phase = 0 then
      if c = 0 ∨ ctxRingsBusy s c ∨ !ctxValid s c then finishJob s j .denied
      else
        let s := ks.foldl (fun s k => clearSeg s j k) s
        if jobInval s j ∨ ks.any (fun k => segInUse s k j) then putJob s { j with st := .waiting, phase := 1 }
        else finishJob { s with xlt := { s.xlt with ctxs := tabDel c s.xlt.ctxs } } j .ok
    else if jobInval s j ∨ ks.any (fun k => segInUse s k j) then putJob s { j with st := .waiting }
    else finishJob { s with xlt := { s.xlt with ctxs := tabDel c s.xlt.ctxs } } j .ok

/-- A segment entry as four words hold it (R83). -/
def segOf (w : Nat → Nat) : Seg :=
  { vaBase := bits (w 0) 0 57, rd := bits (w 0) 58 1 == 1, wr := bits (w 0) 59 1 == 1, atm := bits (w 0) 60 1 == 1,
    ex := bits (w 0) 61 1 == 1, len := bits (w 1) 0 42, pinNear := bits (w 1) 42 1 == 1, preferFar := bits (w 1) 43 1 == 1,
    neverCompress := bits (w 1) 44 1 == 1, demand := bits (w 1) 45 1 == 1, fabric := bits (w 2) 0 56,
    remoteCtx := bits (w 3) 0 16 }

/-- Word `i` of a byte list. -/
def word (b : List Byte) (i : Nat) : Nat := leVal ((b.drop (8 * i)).take 8)

/-- Words 4 to 7 are the ones' complement of words 0 to 3. -/
def pairedOk (b : List Byte) : Bool := (List.range 4).all fun i => word b (i + 4) == onesComp 64 (word b i)

/-- Order 6 of R101: the entry keeps R83 and R85 in its own value. -/
def segValueOk (w : Nat → Nat) : Bool :=
  let g := segOf w
  bits (w 0) 57 1 == 1 && bits (w 0) 62 2 == 0 && g.vaBase % 65536 == 0 && g.len != 0 && bits (w 1) 46 18 == 0 &&
    g.fabric % 65536 == 0 && bits (w 2) 56 8 == 0 && bits (w 3) 32 32 == 0 &&
    g.fabric / 2 ^ 47 == (g.fabric + g.len * 65536 - 1) / 2 ^ 47 &&
    !(g.demand && g.pinNear && g.preferFar)

/-- The lowest other valid segment of the context that the range overlaps (R85). -/
def overlapSeg (s : State) (c seg : Nat) (g : Seg) : Option Nat :=
  (List.range 16).find? fun i => i != seg && match tabGet? (c * 16 + i) s.xlt.segs with
    | some o => decide (o.vaBase < g.vaBase + g.len * 65536) && decide (g.vaBase < o.vaBase + o.len * 65536)
    | none => false

/-- XLT_SEG_SET (R83 to R86, R92 to R94, R101). -/
def execXltSegSet (d : Desc) (s : State) : Ans :=
  xltRun 0x4A d s fun s j =>
    let c := dbits j.words 16 0 16
    let sg := dbits j.words 18 0 4
    let k := c * 16 + sg
    let va := dbits j.words 24 0 64
    let me := ringCtx j.ring
    if j.phase = 1 then
      (if jobInval s j ∨ (j.aux = 1 ∧ segInUse s k j) then putJob s { j with st := .waiting } else finishJob s j .ok)
    else if c = 0 ∨ !ctxValid s c then finishJob s j .denied
    else
      match prepare s j xltUnit [⟨va, 64, .rd⟩] with
      | (false, s) => s
      | (true, s) =>
        if poisonVa s me va 64 then finishJob s j .poison
        else
          let (b, s) := readVa s me va 64
          let w := word b
          let g := segOf w
          if !pairedOk b then finishJob s j .cpair
          else if !segValueOk w then finishJob s j .malformed
          else
            match overlapSeg s c sg g with
            | some o => finishJob s j .denied (16 + o)
            | none =>
              match tabGet? k s.xlt.segs with
              | none => finishJob (installSeg s k (some g)) j .ok
              | some o =>
                let s := (startInval s .segment j true false c o.vaBase (o.len * 65536)).2
                let s := installSeg s k (some g)
                let wide := widens o g
                let s := if wide then s else narrow s k
                putJob s { j with st := .waiting, phase := 1, aux := (!wide).toNat }

/-- XLT_SEG_CLEAR (R93, R94). -/
def execXltSegClear (d : Desc) (s : State) : Ans :=
  xltRun 0x4B d s fun s j =>
    let c := dbits j.words 16 0 16
    let k := c * 16 + dbits j.words 18 0 4
    if j.phase = 0 then
      if c = 0 ∨ !ctxValid s c then finishJob s j .denied
      else if !tabHas k s.xlt.segs then finishJob s j .ok
      else putJob (clearSeg s j k) { j with st := .waiting, phase := 1 }
    else if jobInval s j ∨ segInUse s k j then putJob s { j with st := .waiting }
    else finishJob s j .ok

/-- XLT_INVAL (R102). -/
def execXltInval (d : Desc) (s : State) : Ans :=
  xltRun 0x4C d s fun s j =>
    let c := dbits j.words 16 0 16
    let pool := dbits j.words 18 0 1 == 1
    if j.phase = 0 then
      if !pool && (c == 0 || !ctxValid s c) then finishJob s j .denied
      else
        let s := (startInval s .xltInval j true pool c (dbits j.words 24 0 64) (dbits j.words 32 0 64)).2
        putJob s { j with st := .waiting, phase := 1 }
    else if jobInval s j then putJob s { j with st := .waiting }
    else finishJob s j .ok

/-- An acknowledgement of a range invalidation; the last one ends it (R102). -/
def invalAcked (s : State) (v : Inval) (unit : Nat) : State :=
  let left := v.waitOn.filter (· ≠ unit)
  if left.isEmpty then
    let s := { s with xlt := { s.xlt with invals := s.xlt.invals.filter fun x => x.id ≠ v.id } }
    if v.counted then
      (s.bump F.XLT_INVAL_STATUS_COUNT).set F.XLT_INVAL_STATUS_LAST_US (min ((s.now - v.start) / 1000) 65535)
    else s
  else
    let l := s.xlt.invals.map fun x => if x.id = v.id then { v with waitOn := left } else x
    { s with xlt := { s.xlt with invals := l } }

/-- Does a port unit hold a request translated through the range that has not reached its home slice (R102)? -/
def unhomed (s : State) (v : Inval) (unit : Nat) : Bool :=
  s.fab.flights.any fun f => f.req.port.val = unit &&
    (match f.stage with
      | .tail | .replay | .order | .held | .atPort => true
      | .anvil id => (match entryOf s id with | some e => e.atomic && !e.closed | none => false)
      | _ => false) &&
    (match f.pool with
      | none => false
      | some a => if v.pool then decide (a < v.base + v.len) && decide (v.base < a + reqSize f.req)
          else f.req.ctx.val == v.ctx && decide (f.req.addr.toNat < v.base + v.len) &&
            decide (v.base < f.req.addr.toNat + reqSize f.req))

/-- INVAL_ACK (R102, R103). -/
def execInvalAck (id : Nat) (unit : Fin 256) (t : Nat) (s : State) : Ans :=
  let s := s.upto t
  .next <|
    match s.xlt.invals.find? fun v => v.id = id with
    | none => s
    | some v => if v.waitOn.contains unit.val && !unhomed s v unit.val then invalAcked s v unit.val else s

/-! ### Swapping to remote pools (R117 to R121) -/

/-- Is the domain confidential? -/
def confDomain (s : State) (dom : Nat) : Bool := (tabGet {} dom s.sec.doms).conf

/-- The slots that hold pages. -/
def slotsUsed (s : State) : List Nat :=
  s.store.pages.filterMap fun e => match e.2.loc with | .swapped k => some k | _ => none

/-- Fabric address of a swap slot (R117). -/
def slotAddr (s : State) (k : Nat) : Nat := s.get F.XLT_SWAP_BASE_FABRIC_BASE + k * 2097152

/-- The port that leads to the swap area. -/
def swapPort (s : State) : Option Nat := routeUp s (s.get F.XLT_SWAP_BASE_FABRIC_BASE / 2 ^ 47)

/-- A page with a new location, in its small pages too when it is split. -/
def placed (s : State) (e : Page) (l : Loc) : Page :=
  let v := match l with
    | .near f => (List.range 32).map fun i => Small.near f i
    | .far gs => gs.map Small.far
    | .swapped k => List.replicate 32 (Small.swapped k)
    | .migrating _ => []
  { e with loc := l, split := e.split.map fun _ => v, movedAt := s.now }

/-- Swap one page out to the lowest free slot (R118): its content leaves under the domain's memory key (R120). -/
def swapOutPage (s : State) (p : Nat) : State :=
  match s.page? p with
  | none => s
  | some e =>
    match e.loc with
    | .swapped _ => s
    | _ =>
      let used := slotsUsed s
      match (List.range (used.length + 1)).find? fun k => !used.contains k with
      | none => s
      | some k =>
        let s := dropTlb ((writeBack s p).putPage p (placed s e (.swapped k))) [p]
        let s := { s with store := { s.store with moves := s.store.moves.filter fun m => m.first ≠ p } }
        match swapPort s with
        | none => s
        | some q => sendOut s q { port := q, tag := 0, what := "SWAP_OUT", addr := slotAddr s k, node := slotAddr s k / 2 ^ 47 }

/-- XLT_SWAP_OUT (R118 to R121). -/
def execXltSwapOut (d : Desc) (s : State) : Ans :=
  xltRun 0x4D d s fun s j =>
    let base := dbits j.words 24 0 64
    let n := dbits j.words 32 0 32
    let ps := (span (base / 2097152) n).filter fun p => (s.page? p).isSome
    if !s.flag F.XLT_SWAP_CFG_EN then finishJob s j .denied
    else if ps.any fun p => match s.page? p with | some e => e.pinNear || confDomain s e.domain | none => false then
      finishJob s j .denied
    else if s.get F.XLT_SWAP_CFG_SLOTS - (slotsUsed s).length < n then finishJob s j .capacity
    else if (swapPort s).isNone then finishJob s j .portLost
    else
      let (ok, s) := evictRange s base (n * 2097152) (.job j.ring j.idx)
      let moving := ps.any fun p => match s.page? p with
        | some e => (match e.loc with | .migrating _ => true | _ => false)
        | none => false
      if !ok || moving then putJob s { j with st := .waiting }
      else
        let s := (List.range 4).foldl (fun s m => writeBacks s m (guestsIn s m base (n * 2097152)) true) s
        finishJob (ps.foldl swapOutPage s) j .ok

/-- Place 32 granules of a page in the far tier. -/
def placeFar (s : State) (p : Nat) (e : Page) : Nat → List Granule → Option (List Granule) × State
  | 0, l => (some l.reverse, s)
  | k + 1, l =>
    let (len, s) := granuleFrames s e
    match placeGranule s (homeOf s p) p (31 - k) len with
    | (some g, s) =>
      let s := s.putPage p { e with loc := .far (l.reverse ++ [g]), split := none }
      placeFar s p e k (g :: l)
    | (none, s) => (none, s)

/-- Swap one page in: to a near frame by the rules for a promotion, else to the far tier; none when there is no room. -/
def swapInPage (s : State) (p : Nat) (e : Page) (k : Nat) : Option State :=
  let s := match swapPort s with
    | none => s
    | some q => sendOut s q { port := q, tag := 0, what := "SWAP_IN", addr := slotAddr s k, node := slotAddr s k / 2 ^ 47 }
  let done := fun (s : State) (l : Loc) => dropTlb ((s.putPage p (placed s e l)).bump F.XLT_SWAP_STATUS_SWAP_INS) [p]
  let near := !e.preferFar && promoteRoom s [(p, e)]
  match (if near then takeFrame s (homeOf s p) else (none, s)) with
  | (some f, s) => some (done s (.near f))
  | (none, s) =>
    match placeFar s p e 32 [] with
    | (some gs, s) => some (farCheck (done s (.far gs)) (homeOf s p))
    | (none, _) => none

/-- XLT_SWAP_IN (R121). -/
def execXltSwapIn (d : Desc) (s : State) : Ans :=
  xltRun 0x4E d s fun s j =>
    let base := dbits j.words 24 0 64
    let n := dbits j.words 32 0 32
    let todo := (span (base / 2097152) n).filterMap fun p => match s.page? p with
      | some e => (match e.loc with | .swapped k => some (p, e, k) | _ => none)
      | none => none
    if !todo.isEmpty && (swapPort s).isNone then finishJob s j .portLost
    else
      let r := todo.foldl (fun (a : Option State) x => a.bind fun s => swapInPage s x.1 x.2.1 x.2.2) (some s)
      match r with
      | some s => finishJob s j .ok
      | none => finishJob s j .capacity

/-! ### The fault queue (R109 to R116, R624) -/

/-- End a waiting task with a code. -/
def endTask (s : State) (k : Task) (c : Code) : State :=
  match k with
  | .flight p g => (match flightOf s p g with
      | some f => if f.stage = .fault then endHome s f c else s
      | none => s)
  | .job g i => (match findJob s g i with
      | some j => if j.st = .faulted then finishJob s j c else s
      | none => s)
  | .kernel no => (match s.plane.kcopies.find? fun x => x.no = no with
      | some x =>
        let s := { s with plane := { s.plane with kcopies := s.plane.kcopies.filter fun y => y.no ≠ no } }
        (match kernOf s x.ring x.idx with
         | some kr => planError s kr 0 c
         | none => s)
      | none => s)
  | _ => { s with xlt := { s.xlt with woken := s.xlt.woken ++ [(k, some c)] } }

/-- A waiting task repeats its location step (R111). -/
def resumeTask (s : State) (k : Task) : State :=
  match k with
  | .flight p g => (match flightOf s p g with
      | some f => if f.stage = .fault then homeGo s f f.entry.isNone else s
      | none => s)
  | .job g i => (match findJob s g i with
      | some j => if j.st = .faulted then putJob s { j with st := .running } else s
      | none => s)
  | .kernel no =>
    let f := fun x : KCopy => if x.no = no ∧ x.st = .faulted then { x with st := .queued } else x
    { s with plane := { s.plane with kcopies := s.plane.kcopies.map f } }
  | _ => { s with xlt := { s.xlt with woken := s.xlt.woken ++ [(k, none)] } }

/-- Every waiter of a record ends with a code. -/
def endWaiters (s : State) (r : FaultRec) (c : Code) : State := r.waiters.foldl (fun s w => endTask s w.task c) s

/-- Every waiter of a record resumes. -/
def resumeWaiters (s : State) (r : FaultRec) : State := r.waiters.foldl (fun s w => resumeTask s w.task) s

/-- FAULT_QUEUE_CONSUME (R109, R113, R624; R576 for a record that fails its check). -/
def execFaultQueueConsume (t : Nat) (s : State) : Ans :=
  let s := s.upto t
  .next <|
    match s.xlt.queue with
    | [] => s
    | r :: l =>
      let head := s.get F.XLT_FQ_PTRS_HEAD
      let s := s.set F.XLT_FQ_PTRS_HEAD (head + 1)
      let s := if head = 16383 then s.set F.XLT_FQ_PTRS_HEAD_WRAP (s.get F.XLT_FQ_PTRS_HEAD_WRAP + 1) else s
      let bad := s.xlt.corrupt.contains (.faultRec r.seq)
      let s := { s with xlt := { s.xlt with queue := l, service := if bad then s.xlt.service else s.xlt.service ++ [r],
                                            corrupt := s.xlt.corrupt.filter fun x => x != .faultRec r.seq } }
      let s := if s.flag F.XLT_FQ_STATUS_SQUALL && decide (l.length ≤ 8192) then s.setFlag F.XLT_FQ_STATUS_SQUALL false else s
      if bad then wake (resumeWaiters (postCpair s 0xA0 0 0x80000008) r) else wake s

/-- STALLED_RECORD_POST (R115, R116): the queue takes the record that met it full earliest. -/
def execStalledRecordPost (t : Nat) (s : State) : Ans :=
  let s := s.upto t
  let ready := fun l : Late => match l with | .noRoom _ _ _ => false | _ => true
  .next <|
    if s.xlt.queue.length ≥ Config.fqEntries then s
    else
      match s.xlt.late.find? ready with
      | none => s
      | some x =>
        let drop := fun (s : State) => { s with xlt := { s.xlt with late := s.xlt.late.erase x } }
        match x with
        | .record r => wake (enqueueFault (drop s) r)
        | .stalled r w =>
          if waiterCount s ≥ Config.waiterMax then s
          else
            let s := drop s
            match r.page with
            | some p =>
              if hasFault s p then wake ((joinFault s p w).bump F.XLT_FQ_COALESCED_COUNT)
              else
                let (r, s) := stampFault s r
                wake (enqueueFault s { r with waiters := [w] })
            | none => wake s
        | .noRoom _ _ _ => s

/-- WAITER_ROOM (R110): the earliest task stalled for want of room joins its page's waiter list, or posts its record. -/
def execWaiterRoom (t : Nat) (s : State) : Ans :=
  let s := s.upto t
  let ready := fun l : Late => match l with | .noRoom _ _ _ => true | _ => false
  .next <|
    if waiterCount s ≥ Config.waiterMax then s
    else
      match s.xlt.late.find? ready with
      | some (.noRoom p r w) =>
        let l := s.xlt.late.erase (.noRoom p r w)
        if hasFault s p then wake ((joinFault { s with xlt := { s.xlt with late := l } } p w).bump F.XLT_FQ_COALESCED_COUNT)
        else if s.xlt.queue.length < Config.fqEntries then
          let (r, s) := stampFault { s with xlt := { s.xlt with late := l } } r
          wake (enqueueFault s { r with waiters := [w] })
        else
          let l := s.xlt.late.map fun x => if x = .noRoom p r w then .stalled r w else x
          { s with xlt := { s.xlt with late := l } }
      | _ => s

/-- The earliest waiter that faulted through a segment with DEMAND set now, with that segment (R111). -/
def demandWaiter (s : State) (r : FaultRec) : Option (Waiter × Seg) :=
  r.waiters.findSome? fun w =>
    if w.seg < 16 then
      match tabGet? (w.ctx * 16 + w.seg) s.xlt.segs with
      | some g => if g.demand then some (w, g) else none
      | none => none
    else none

/-- Resolve an UNALLOCATED fault (R111, R725). -/
def resolveUnallocated (s : State) (r : FaultRec) (p : Nat) : State :=
  if (s.page? p).isSome then resumeWaiters s r
  else
    match demandWaiter s r with
    | none => endWaiters s r .denied
    | some (w, g) =>
      let dom := ctxDomain s w.ctx
      if !inRegion s.comp.map dom p || inWindow (p * 2097152) then endWaiters s r .denied
      else if overCapacity s dom [p] g.pinNear then endWaiters s r .capacity
      else
        let e : Page := { domain := dom, tensorBase := p, pinNear := g.pinNear, preferFar := g.preferFar,
                          neverCompress := g.neverCompress }
        resumeWaiters (allocPage s p e) r

/-- Resolve a page fault: none when it cannot be resolved yet. -/
def resolvePage (s : State) (r : FaultRec) (p : Nat) (freed : Bool) : Option State :=
  match r.kind with
  | 1 => some (resolveUnallocated s r p)
  | 2 =>
    match s.page? p with
    | some e => (match e.loc with | .migrating _ => none | _ => some (resumeWaiters s r))
    | none => some (resumeWaiters s r)
  | 3 =>
    match s.page? p with
    | some e =>
      (match e.loc with
       | .swapped k => if (swapPort s).isNone then none
           else match swapInPage s p e k with
             | some s => some (resumeWaiters s r)
             | none => some (endWaiters s r .capacity)
       | _ => some (resumeWaiters s r))
    | none => some (resumeWaiters s r)
  | _ => some (if freed then resumeWaiters s r else endWaiters s r .capacity)

/-- FAULT_RESOLVE (R111). -/
def execFaultResolve (seq : BitVec 32) (freed : Bool) (t : Nat) (s : State) : Ans :=
  let s := s.upto t
  .next <|
    match s.xlt.service.find? fun r => r.seq = seq.toNat with
    | none => s
    | some r =>
      let s1 := { s with xlt := { s.xlt with service := s.xlt.service.erase r } }
      match r.page with
      | none => s1
      | some p =>
        match resolvePage s1 r p freed with
        | none => s
        | some s => wake s

end Sys2Proof.Machine
end

