-- ==== Sys2Proof/Machine/Rings.lean ====
section
/-! DEFINITION. The meanings of rings, doorbells and completions (spec/06), but for the return of a descriptor read. -/

namespace Sys2Proof.Machine

open Sys2Proof

/-! ### Doorbells -/

/-! ### Fetching (R229 to R231) -/

/-- Add a fetched descriptor whose read is under way. -/
def addReading (s : State) (g i : Nat) : State :=
  { s with rings := { s.rings with jobs := s.rings.jobs ++ [{ ring := g, idx := i, words := [], st := .reading }] } }

/-- Read one descriptor: an entry of the completion ring is reserved, and the read joins the request before it when both lie in
the same 256 bytes (R230, R231). -/
def fetchOne (s : State) (g : Nat) : State :=
  let r := s.ring g
  let cg := g / 16 * 16 + r.cq
  let i := r.fetch
  let addr := r.base + 64 * (i % 2 ^ r.log2)
  let joins := fun o : OutReq => o.what = "FETCH" && o.ring = g && o.port = r.path &&
    o.addr + 64 * o.count = addr && o.addr / 256 = addr / 256
  let sent : Option State :=
    if r.path = 6 then
      some (if addr % 256 = 0 ∨ !s.rings.jobs.any (fun j => j.ring = g && j.st = .reading) then
        s.emit (.request 6 0 "FETCH" addr 0 []) else s)
    else if s.fab.outReqs.any joins then
      some { s with fab := { s.fab with outReqs := s.fab.outReqs.map fun o => if joins o then { o with count := o.count + 1 } else o } }
    else if (freeTag s r.path).isSome then
      some (sendOut s r.path { port := r.path, tag := 0, what := "FETCH", ring := g, idx := i, addr := addr, count := 1 })
    else none
  match sent with
  | none => s
  | some s =>
    let s := s.putRing g { s.ring g with fetch := (i + 1) % 65536 }
    let c := s.ring cg
    addReading (s.putRing cg { c with reserved := c.reserved + 1 }) g i

/-- One turn of a ring: at most `n` descriptors while entries, doorbelled descriptors and reservations last (R229, R230). -/
def fetchTurn (s : State) (g : Nat) : Nat → State
  | 0 => s
  | n + 1 =>
    let r := s.ring g
    if r.fetch = r.pi ∨ ringRoom (s.ring (g / 16 * 16 + r.cq)) = 0 then s
    else fetchTurn (fetchOne s g) g n

/-- DESCRIPTOR_FETCH (R229 to R231). -/
def execDescriptorFetch (g : Fin 1048576) (t : Nat) (s : State) : Ans :=
  let s := s.upto t
  let g := g.val
  .next <|
    if s.xlt.corrupt.contains (.queueCtx g) then ringCpair s g
    else
      let r := s.ring g
      if r.st ≠ .enabled ∨ r.completion ∨ (r.path ≠ 6 ∧ !portUp s r.path) ∨ !awake s ∨ s.flag F.PWR_STATUS_ENTERING then s
      else fetchTurn (qcLook s g) g (s.get F.RING_CTRL_FETCH_BURST)

/-- NOP (R227). -/
def execNopDesc (d : Desc) (s : State) : Ans := .next (runDesc s d 0x00 0x90 fun s j => finishJob s j .ok)

/-! ### Draining (R245 to R249) -/

/-- End of the commands that wait for a ring to reach DISABLED (R248). -/
def ringDisabled (s : State) (g : Nat) : State :=
  let ci := (s.ring g).ci
  let wants := fun j : Job => j.st = .waiting && descOp j.words = 0x71 && dbits j.words 16 0 20 = g
  let s := (s.rings.jobs.filter wants).foldl (fun s j => finishJob s j .ok ci) s
  if s.rings.qcBusy = some g then
    let s := { s with rings := { s.rings with qcBusy := none } }
    (s.setFlag F.RING_QC_SEL_BUSY false).set F.RING_QC_SEL_RESULT 0
  else s

/-- A DRAINING ring with no descriptor left becomes DISABLED. -/
def checkDrained (s : State) (g : Nat) : State :=
  let r := s.ring g
  if r.st = .draining ∧ !s.rings.jobs.any (fun j => j.ring = g) then
    ringDisabled (s.putRing g { r with st := .disabled, chainFail := [], stuckAt := none }) g
  else s

/-- Has a fetched descriptor not started, or is its task suspended (R246)? -/
def notRunning (j : Job) : Bool :=
  match j.st with | .queued | .faulted | .switched => true | _ => false

/-- A ring enters DRAINING (R246). -/
def enterDraining (s : State) (g : Nat) (port : Bool) : State :=
  let r := s.ring g
  if r.st = .enabled ∨ r.st = .error then
    let s := s.putRing g { r with st := .draining, drainAt := s.now, drainPort := port }
    let s := (s.rings.jobs.filter fun j => j.ring = g && notRunning j).foldl (fun s j => cancelJob s j .abortDisable) s
    checkDrained s g
  else s

/-! ### Completion (R236, R239 to R242) -/

/-- May a record be written into a completion ring (R247, R250)? -/
def recordRoute (s : State) (r : Ring) : Bool := if r.path = 6 then s.mgmt.hostWrites else portUp s r.path

/-- Count a completed job for its domain (R716). -/
def telemJob (s : State) (j : Job) : State :=
  let op := descOp j.words
  let dom := ctxDomain s (ringCtx j.ring)
  let s := telemCode s dom j.code
  if op = 0x20 then telem s dom fun x => { x with kernels := (x.kernels + 1) % 2 ^ 32 }
  else if op / 16 = 1 ∨ op / 16 = 3 ∨ op / 16 = 5 then telem s dom fun x => { x with jobs := (x.jobs + 1) % 2 ^ 32 } else s

/-- The record of a finished job, or the release of its reservation without one (R239 to R242, R251): its log records close, its
kernel leaves, and the descriptor is gone. -/
def recordJob (s : State) (j : Job) : State :=
  let s := telemJob (logClose (reapKerns (unitIdle s (descOp j.words) j.unit)) j.ring j.idx) j
  let r := s.ring j.ring
  let cg := j.ring / 16 * 16 + r.cq
  let c := s.ring cg
  let s := s.putRing cg { c with reserved := c.reserved - 1 }
  let s :=
    if (descNocmpl j.words && j.code == .ok) || !recordRoute s c then s
    else writeRecord s cg (codeNum j.code + descOp j.words * 256 + r.ci * 65536 + j.ring % 16 * 2 ^ 32 + j.idx * 2 ^ 48)
      (dbits j.words 4 0 32 + j.detail * 2 ^ 32 + j.skipped.toNat * 2 ^ 62)
  let s := { s with rings := { s.rings with jobs := s.rings.jobs.filter fun k => !(k.ring = j.ring && k.idx = j.idx) } }
  checkDrained s j.ring

/-- The end of a finished job: an engine's sector first flushes what the job's context wrote (R302). -/
def completeJob (s : State) (j : Job) : State :=
  match unitSector j.unit with
  | none => recordJob s j
  | some n =>
    let s := if j.flushed then s else flushContext (putJob s { j with flushed := true }) [n] (ringCtx j.ring)
    if backsOpen s [n] then s else recordJob s j

/-- DESCRIPTOR_COMPLETE (R239 to R242, R251): once the results are visible. -/
def execDescriptorComplete (g : Fin 1048576) (i : Fin 65536) (t : Nat) (s : State) : Ans :=
  let s := s.upto t
  .next <|
    match findJob s g.val i.val with
    | none => s
    | some j =>
      if j.st ≠ .finished ∨ s.fab.outReqs.any (fun o => o.job = some (j.ring, j.idx)) then s
      else completeJob s j

/-- NOTIFY_TIMER (R251). -/
def execNotifyTimer (g : Fin 1048576) (t : Nat) (s : State) : Ans :=
  let s := s.upto t
  let r := s.ring g.val
  .next (if r.notify ∧ r.unnotified ≠ 0 ∧ r.firstAt + 1000 * r.timeUs ≤ s.now then notifyRing s g.val else s)

/-- DISABLE_BOUND_EXPIRY (R247): running work of the ring is cancelled. -/
def execDisableBoundExpiry (g : Fin 1048576) (t : Nat) (s : State) : Ans :=
  let s := s.upto t
  let g := g.val
  let r := s.ring g
  .next <|
    if r.st = .draining ∧ r.drainAt + 1000 * s.get F.RING_CTRL_DISABLE_BOUND_US ≤ s.now then
      let run := fun j : Job => j.ring = g && (match j.st with | .running | .waiting => true | _ => false)
      checkDrained ((s.rings.jobs.filter run).foldl (fun s j => cancelJob s j (if r.drainPort then .portLost else .abortDisable)) s) g
    else s

/-! ### Setting up (R211, R214 to R217, R502) -/

/-- A queue context as four words hold it (R211), as RING_SET installs it (R217). -/
def ringOf (w : Nat → Nat) : Ring :=
  { st := .enabled, completion := bits (w 0) 2 1 == 1, log2 := bits (w 0) 3 5, path := bits (w 0) 8 3, partner := bits (w 0) 11 8,
    cq := bits (w 0) 19 4, base := bits (w 1) 0 64, vector := bits (w 3) 0 11, notify := bits (w 3) 11 1 == 1,
    count := bits (w 3) 12 8, timeUs := bits (w 3) 20 16 }

/-- Order 2 of R216. -/
def ringImageOk (w : Nat → Nat) : Bool :=
  let r := ringOf w
  let size := 2 ^ r.log2 * (if r.completion then 16 else 64)
  decide (1 ≤ r.log2) && decide (r.log2 ≤ 16) && r.path != 7 && (r.path != 6 || r.partner == 0) &&
    (!r.completion || (r.cq == 0 && r.count != 0)) && r.base % max size 4096 == 0 &&
    bits (w 0) 23 41 == 0 && bits (w 2) 33 31 == 0 && (if r.completion then bits (w 3) 36 28 == 0 else w 3 == 0)

/-- The value words of a queue context (R211). -/
def ringWords (r : Ring) : List Nat :=
  let st := match r.st with | .disabled => 0 | .enabled => 1 | .draining => 2 | .error => 3
  [ st + r.completion.toNat * 4 + r.log2 * 8 + r.path * 256 + r.partner * 2 ^ 11 + r.cq * 2 ^ 19, r.base,
    r.pi + r.ci * 65536 + (if r.completion then r.phase.toNat else 0) * 2 ^ 32,
    if r.completion then r.vector + r.notify.toNat * 2 ^ 11 + r.count * 2 ^ 12 + r.timeUs * 2 ^ 20 else 0 ]

/-- Install a queue-context image (R215 to R217): the code, and the state. -/
def installRing (s : State) (g : Nat) (paired : Bool) (w : Nat → Nat) : Code × State :=
  let c := g / 16
  let r := ringOf w
  if c = 0 ∨ !ctxValid s c then (.denied, s)
  else if !paired then (.cpair, s)
  else if !ringImageOk w then (.malformed, s)
  else if (s.ring g).st ≠ .disabled then (.denied, s)
  else if r.path < 6 && cxlPort s r.path then (.denied, s)
  else
    let cr := s.ring (c * 16 + r.cq)
    if !r.completion ∧ !(cr.completion && cr.st == .enabled) then (.denied, s)
    else
      let s : State := { s with xlt := { s.xlt with corrupt := s.xlt.corrupt.filter fun x => x != .queueCtx g } }
      (.ok, s.putRing g r)

/-- Format of the ring family (R214). -/
def ringFmt (ws : List Word) : Bool :=
  match descOp ws with
  | 0x70 => dbits ws 16 20 44 == 0 && dbits ws 32 0 256 == 0
  | 0x71 => dbits ws 16 20 364 == 0
  | _ => false

/-- RING_SET (R214 to R217). -/
def execRingSet (d : Desc) (s : State) : Ans :=
  .next (runDesc s d 0x70 0x90 fun s j =>
    let g := dbits j.words 16 0 20
    let va := dbits j.words 24 0 64
    let me := ringCtx j.ring
    if g / 16 = 0 ∨ !ctxValid s (g / 16) then finishJob s j .denied
    else
      match prepare s j 0x90 [⟨va, 64, .rd⟩] with
      | (false, s) => s
      | (true, s) =>
        if poisonVa s me va 64 then finishJob s j .poison
        else
          let (b, s) := readVa s me va 64
          let (c, s) := installRing s g (pairedOk b) (word b)
          finishJob s j c)

/-- Is a submission ring bound to completion ring `g` not DISABLED (R249)? -/
def boundBusy (s : State) (g : Nat) : Bool :=
  (span (g / 16 * 16) 16).any fun h =>
    let r := s.ring h
    !r.completion && r.st != .disabled && r.cq == g % 16

/-- What a disable of a ring does (R245, R248, R249): a code when it completes at once, and whether it now drains. -/
def disableRing (s : State) (g : Nat) : Option Code × State :=
  let r := s.ring g
  if r.st = .disabled then (some .ok, s)
  else if r.completion && boundBusy s g then (some .denied, s)
  else
    let s := enterDraining s g false
    (if (s.ring g).st = .disabled then some .ok else none, s)

/-- RING_DISABLE (R248, R249). -/
def execRingDisable (d : Desc) (s : State) : Ans :=
  .next (runDesc s d 0x71 0x90 fun s j =>
    let g := dbits j.words 16 0 20
    if j.phase = 1 then
      (if (s.ring g).st = .disabled then finishJob s j .ok (s.ring g).ci else s)
    else if g / 16 = 0 ∨ !ctxValid s (g / 16) then finishJob s j .denied
    else if g = j.ring then finishJob s j .malformed
    else
      match disableRing s g with
      | (some c, s) => finishJob s j c (if c = .ok then (s.ring g).ci else 0)
      | (none, s) => putJob s { j with st := .waiting, phase := 1 })

/-! ### The RING_QC_ registers -/

/-- The stored value of RING_QC_DATA word `i`. -/
def qcData (s : State) (i : Nat) : Nat := s.get (F.RING_QC_DATA_WORD i)

/-- CMD READ: the queue context is copied into RING_QC_DATA0-7. -/
def qcRead (s : State) (g : Nat) : State :=
  if s.flag F.RING_QC_SEL_BUSY then s
  else
    let s := s.set F.RING_QC_SEL_RING g
    let ws := ringWords (s.ring g)
    let ws := ws ++ ws.map (onesComp 64)
    let s := (ws.zip (List.range 8)).foldl (fun s x => s.set (F.RING_QC_DATA_WORD x.2) x.1) s
    s.set F.RING_QC_SEL_RESULT 0

/-- CMD WRITE (R216, R217): a ring of host memory set up again lets records leave for host memory again. -/
def qcWrite (s : State) (g : Nat) : State :=
  if s.flag F.RING_QC_SEL_BUSY then s
  else
    let s := s.set F.RING_QC_SEL_RING g
    let paired := (List.range 4).all fun i => qcData s (i + 4) == onesComp 64 (qcData s i)
    let (c, s) := installRing s g paired (qcData s)
    let s := if c = .ok ∧ (s.ring g).path = 6 then { s with mgmt := { s.mgmt with hostWrites := true } } else s
    s.set F.RING_QC_SEL_RESULT (codeNum c)

/-- CMD DISABLE (R248). -/
def qcDisable (s : State) (g : Nat) : State :=
  if s.flag F.RING_QC_SEL_BUSY then s
  else
    let s := s.set F.RING_QC_SEL_RING g
    match disableRing s g with
    | (some c, s) => s.set F.RING_QC_SEL_RESULT (codeNum c)
    | (none, s) => { s with rings := { s.rings with qcBusy := some g } }.setFlag F.RING_QC_SEL_BUSY true

/-! ### Function reset (R250, R665, R691) -/

/-- Every ring in host memory drains, and no record leaves for host memory from now on. -/
def drainHost (s : State) : State :=
  let s := { s with mgmt := { s.mgmt with hostWrites := false } }
  (s.rings.qcs.filter fun e => e.2.path = 6).foldl (fun s e => enterDraining s e.1 false) s

/-- A function reset also clears MGT_POOLWIN.EN and masks every MSI-X table entry (R691). -/
def fnReset (s : State) : State :=
  let s := { (drainHost s) with mgmt := { (drainHost s).mgmt with masked := List.range 2048 } }
  s.setFlag F.MGT_POOLWIN_EN false

/-- FUNCTION_RESET: a function reset when `full`, else D3hot or Bus Master Enable cleared. -/
def execFunctionReset (full : Bool) (t : Nat) (s : State) : Ans :=
  let s := s.upto t
  .next (if full then fnReset s else drainHost s)

/-- PERST (R665). -/
def execPerst (t : Nat) (s : State) : Ans := .next (fnReset (s.upto t))

end Sys2Proof.Machine
end

