-- ==== Sys2Proof/Machine/Engines.lean ====
section
/-! DEFINITION. What embedding, search and block-store jobs share: the engine that serves a sector (R27, R390, R432, R467), the start
of a job, FP32 arithmetic of the engines, and choices that the spec leaves to the device. -/

namespace Sys2Proof.Machine

open Sys2Proof

/-! ### Engines -/

/-- Does an engine take new jobs: neither failed nor Hazy, and its sector SERVING (R390, R432, R467, R571)? -/
def engineTakes (st : Nat → Fld) (s : State) (n : Nat) : Bool := decide (s.get (st n) < 2) && sectorState s n == 0

/-- The engine that serves a sector: its own, or the next one that takes new jobs; its own when none does. -/
def serving (st : Nat → Fld) (s : State) (n : Nat) : Nat :=
  ([n, (n + 1) % 4, (n + 2) % 4, (n + 3) % 4].find? fun m => engineTakes st s m).getD n

/-- Is the engine serving another sector? -/
def substitutes (st : Nat → Fld) (s : State) (n : Nat) : Bool :=
  (List.range 4).any fun m => m != n && serving st s m == n

/-- The home sector of the first byte of a range of a context, sector 0 where it does not translate. -/
def vaHome (s : State) (c va : Nat) : Nat :=
  match poolOf s c va 1 .rd with | some pa => homeOf s (pa / 2097152) | none => 0

/-- The row of an engine job's opcode: a job that has not started takes its engine now and starts only while the family is
enabled. -/
def engineRow (op : Nat) (d : Desc) (unitOf : State → Job → Nat) (en : State → Bool) (go : State → Job → State) (s : State) : State :=
  let s := s.upto d.t
  match findJob s d.ring.val d.idx.val with
  | none => s
  | some j =>
    let u := if j.phase = 0 then unitOf s j else j.unit
    runDesc s d op u fun s j => if j.phase = 0 ∧ !en s then s else go s j

/-- Start a job once (R296): the job, and whether the acquires of its start are done. -/
def startJob (s : State) (j : Job) (n : Nat) (ins : List Range) : Job × State :=
  if j.phase = 0 then
    let (j, s) := engineStart s { j with phase := 1 } n ins
    (j, putJob s j)
  else (j, s)

/-- Does the job still wait for the write-backs of its acquires? -/
def acquiring (s : State) (j : Job) (n : Nat) : Bool := ctxFresh s (ringCtx j.ring) && backsOpen s [n]

/-- Is the job's domain confidential? -/
def jobConf (s : State) (j : Job) : Bool := (tabGet {} (ctxDomain s (ringCtx j.ring)) s.sec.doms).conf

/-! ### Choices -/

/-- An order of a list that the device chooses, from free values `n` on. -/
def shuffle {α : Type} : Nat → Nat → List α → List α
  | 0, _, l => l
  | _ + 1, _, [] => []
  | k + 1, n, a :: t =>
    let i := Config.pick n % (t.length + 1)
    match (a :: t)[i]? with
    | some x => x :: shuffle k (n + 1) ((a :: t).eraseIdx i)
    | none => a :: t

/-- The free choices from which one command's orders are drawn: 2^21 for each of `k` uses. -/
def takeMany (s : State) (k : Nat) : Nat × State := (s.free, { s with free := s.free + k * 2 ^ 21 })

/-! ### FP32 arithmetic, every operation rounding to nearest even (R392) -/

/-- The exact quotient, with a sticky bit below its precision. -/
def Fl.div : Fl → Fl → Fl
  | .nan, _ => .nan
  | _, .nan => .nan
  | .inf _, .inf _ => .nan
  | .inf a, .fin b _ _ => .inf (a != b)
  | .fin a _ _, .inf b => .fin (a != b) 0 0
  | .fin a m x, .fin b n y =>
    if n = 0 then (if m = 0 then .nan else .inf (a != b))
    else .fin (a != b) (2 * (m * 2 ^ 64 / n) + (if m * 2 ^ 64 % n = 0 then 0 else 1)) (x - y - 65)

/-- The square root, with a sticky bit. -/
def Fl.sqrt : Fl → Fl
  | .nan => .nan
  | .inf a => if a then .nan else .inf false
  | .fin a m x =>
    if m = 0 then .fin a 0 0
    else if a then .nan
    else
      let m2 := if x % 2 = 0 then m else 2 * m
      let x2 := if x % 2 = 0 then x else x - 1
      let q := Nat.sqrt (m2 * 2 ^ 80)
      .fin false (2 * q + (if q * q = m2 * 2 ^ 80 then 0 else 1)) (x2 / 2 - 41)

/-- FP32 sum. -/
def fAdd (a b : Nat) : Nat := fmt32.addBits a b
/-- FP32 difference. -/
def fSub (a b : Nat) : Nat := fmt32.round ((fmt32.value a).add (fmt32.value b).neg)
/-- FP32 product. -/
def fMul (a b : Nat) : Nat := fmt32.round ((fmt32.value a).mul (fmt32.value b))
/-- FP32 quotient. -/
def fDiv (a b : Nat) : Nat := fmt32.round ((fmt32.value a).div (fmt32.value b))
/-- FP32 square root. -/
def fSqrt (a : Nat) : Nat := fmt32.round (fmt32.value a).sqrt
/-- A number in FP32. -/
def fOfNat (n : Nat) : Nat := fmt32.round (.fin false n 0)
/-- FP32 one. -/
def fOne : Nat := 0x3F800000

/-- The FP32 sum of a list in its order; the sum of none is zero. -/
def fSum : List Nat → Nat
  | [] => 0
  | a :: t => t.foldl fAdd a

end Sys2Proof.Machine
end

