-- ==== Sys2Proof/Machine/Blocks.lean ====
section
/-! DEFINITION. The meanings of the block store, its handoff messages and the Contrail log's commands (spec/11). -/

namespace Sys2Proof.Machine

open Sys2Proof

/-! ### Spaces and index entries (R436 to R440) -/

/-- The space that BLK_SPACE_SET describes. -/
def spaceOf (c : Nat) (ws : List Word) : Space :=
  { ctx := c, logData := dbits ws 17 0 1 == 1, log2 := dbits ws 18 0 5, areaPages := dbits ws 20 0 32, indexVa := dbits ws 24 0 57,
    areaVa := dbits ws 32 0 57, leaseMs := dbits ws 40 0 32, pinPages := dbits ws 44 0 32 }

/-- A key's place in the hash (R438): the bucket. -/
def bucketOf (sp : Space) (key : Nat) : Nat :=
  let hi := bits key 64 64
  let rot := (hi * 2 ^ 31 + hi / 2 ^ 33) % 2 ^ 64
  Nat.xor (bits key 0 64) rot * 0x9E3779B97F4A7C15 % 2 ^ 64 / 2 ^ (64 - sp.log2)

/-- The buckets that a look-up of bucket `b` probes (R440). -/
def probes (b : Nat) : List Nat := (List.range 16).map fun i => b / 8192 * 8192 + (b % 8192 + i) % 8192

/-- An index entry (R439). -/
structure BlkEnt where
  key : Nat
  v : Bool
  state : Nat
  sizeLog : Nat
  pin : Bool
  loc : Nat
  group : Nat
  seq : Nat
  lease : Nat
  len : Nat
deriving DecidableEq, Repr

/-- Read an entry's bytes. -/
def entOf (b : List Byte) : BlkEnt :=
  let w := fun i => leVal ((b.drop (8 * i)).take 8)
  { key := leVal (b.take 16), v := bits (w 2) 0 1 == 1, state := bits (w 2) 1 2, sizeLog := bits (w 2) 3 3, pin := bits (w 2) 6 1 == 1,
    loc := bits (w 2) 8 47, group := w 3, seq := w 4, lease := w 5, len := bits (w 6) 0 22 }

/-- An entry's bytes. -/
def entBytes (e : BlkEnt) : List Byte :=
  leBytes 16 e.key ++
  leBytes 8 (e.v.toNat + e.state * 2 + e.sizeLog * 8 + e.pin.toNat * 64 + e.loc * 256) ++ leBytes 8 e.group ++ leBytes 8 e.seq ++
  leBytes 8 e.lease ++ leBytes 8 e.len ++ List.replicate 8 0

/-- Address of an index entry: bucket × 4 + place. -/
def slotVa (sp : Space) (k : Nat) : Nat := sp.indexVa + k * 64

/-- Block size. -/
def BlkEnt.size (e : BlkEnt) : Nat := 16384 * 2 ^ e.sizeLog

/-- The space of a number. -/
def spaceAt (s : State) (i : Nat) : Option Space := tabGet? i s.blk.spaces

/-- Store a space. -/
def putSpace (s : State) (i : Nat) (sp : Space) : State := { s with blk := { s.blk with spaces := tabPut i sp s.blk.spaces } }

/-- The pool address of a space's extent. -/
def extPa (s : State) (sp : Space) (va : Nat) : Nat := (poolOf s sp.ctx va 1 .rd).getD 0

/-- Does the page of an address of the space exist? -/
def pageThere (s : State) (sp : Space) (va : Nat) : Bool := (s.page? (extPa s sp va / 2097152)).isSome

/-- An entry in use, as memory holds it. -/
def entAt (s : State) (sp : Space) (k : Nat) : BlkEnt := entOf (s.bytes (extPa s sp (slotVa sp k)) 64)

/-- Write an entry. -/
def putEnt (s : State) (i : Nat) (sp : Space) (k : Nat) (e : BlkEnt) : State :=
  let s := writeVa s sp.ctx (slotVa sp k) (entBytes e)
  match spaceAt s i with
  | some x => putSpace s i { x with slots := if e.v then setAdd k x.slots else setDel k x.slots }
  | none => s

/-- Free an entry. -/
def freeEnt (s : State) (i : Nat) (sp : Space) (k : Nat) : State := putEnt s i sp k { entAt s sp k with v := false }

/-- The entries of a space that are in use. -/
def entsOf (s : State) (sp : Space) : List (Nat × BlkEnt) := sp.slots.map fun k => (k, entAt s sp k)

/-- The entries of a group. -/
def groupEnts (s : State) (sp : Space) (g : Nat) : List (Nat × BlkEnt) := (entsOf s sp).filter fun x => x.2.group = g

/-- Free every block of a group. -/
def freeGroup (s : State) (i g : Nat) : State :=
  match spaceAt s i with
  | none => s
  | some sp => (groupEnts s sp g).foldl (fun s x => freeEnt s i sp x.1) s

/-- The ranges of a look-up. -/
def probeRanges (sp : Space) (key : Nat) : List Range := (probes (bucketOf sp key)).map fun b => ⟨sp.indexVa + b * 256, 256, .rdwr⟩

/-- The index entries of a look-up, in probe order. -/
def probeSlots (sp : Space) (key : Nat) : List Nat := (probes (bucketOf sp key)).flatMap fun b => span (b * 4) 4

/-- The entry that holds a key. -/
def lookUp (s : State) (sp : Space) (key : Nat) : Option (Nat × BlkEnt) :=
  (probeSlots sp key).findSome? fun k =>
    let e := entAt s sp k
    if e.v ∧ e.key = key then some (k, e) else none

/-! ### Room for blocks (R437, R441, R447, R448) -/

/-- Do blocks of a space lie in the bytes? -/
def blockIn (s : State) (sp : Space) (but : List Nat) (a n : Nat) : Bool :=
  (entsOf s sp).any fun x => !but.contains x.1 && decide (x.2.loc < a + n) && decide (a < x.2.loc + x.2.size)

/-- Can blocks be placed in an area page now: it is at a place, or it can be allocated? -/
def pageUsable (s : State) (sp : Space) (p : Nat) (pin : Bool) : Bool :=
  match s.page? p with
  | some e => (match e.loc with | .near _ | .far _ => true | _ => false)
  | none => !overCapacity s (ctxDomain s sp.ctx) [p] pin

/-- Free places for a block of `n` bytes among some area pages, given entries that will be gone. -/
def roomIn (s : State) (sp : Space) (but pages : List Nat) (n : Nat) : List Nat :=
  pages.flatMap fun p => ((List.range (2097152 / n)).map fun k => p * 2097152 + k * n).filter fun a => !blockIn s sp but a n

/-- The area's pages. -/
def areaPages (s : State) (sp : Space) : List Nat := span (extPa s sp sp.areaVa / 2097152) sp.areaPages

/-- A place for a block: in pages homed in the engine's sector whenever they have room (R441); `n0` draws among the places. -/
def placeBlock (s : State) (sp : Space) (but : List Nat) (sector n n0 : Nat) : Option Nat :=
  let ps := (areaPages s sp).filter fun p => pageUsable s sp p false
  let a := roomIn s sp but (ps.filter fun p => homeOf s p = sector) n
  let l := if a.isEmpty then roomIn s sp but ps n else a
  l[Config.pick n0 % max l.length 1]?

/-- Entries that may be evicted, earliest LEASE_END first (R447). -/
def lapsed (s : State) (sp : Space) : List (Nat × BlkEnt) :=
  let l := (entsOf s sp).filter fun x => !x.2.pin && x.2.state == 0 && decide (x.2.lease < s.now)
  sort l.length l
where
  /-- Order entries by LEASE_END. -/
  sort : Nat → List (Nat × BlkEnt) → List (Nat × BlkEnt)
    | 0, _ => []
    | n + 1, l =>
      match l.foldl (fun b x => match b with
        | none => some x
        | some (y : Nat × BlkEnt) => if x.2.lease < y.2.lease then some x else some y) none with
      | none => []
      | some x => x :: sort n (l.erase x)

/-- Evict until a block fits: the place and the entries that go (R447). -/
def makeRoom (s : State) (sp : Space) (sector n n0 : Nat) : List (Nat × BlkEnt) → List Nat → Option (Nat × List Nat)
  | l, gone =>
    match placeBlock s sp gone sector n n0 with
    | some a => some (a, gone)
    | none =>
      match l with
      | [] => none
      | x :: t => makeRoom s sp sector n n0 t (gone ++ [x.1])

/-- Allocate a page of a space, zero-filled, when it is not there. -/
def needPage (s : State) (sp : Space) (p : Nat) (pin : Bool) : State :=
  if (s.page? p).isSome then s
  else allocPage s p { domain := ctxDomain s sp.ctx, tensorBase := p, pinNear := pin }

/-! ### Messages (R451, R452) -/

/-- A handoff message. -/
structure HMsg where
  msg : Nat
  space : Nat
  epoch : Nat
  code : Nat := 0
  group : Nat
  manifest : Nat := 0
  reply : Nat := 0
  blocks : Nat := 0
  replySpace : Nat := 0
deriving DecidableEq, Repr

/-- Read a message. -/
def msgOf (b : List Byte) : HMsg :=
  let w := fun i => leVal ((b.drop (8 * i)).take 8)
  { msg := bits (w 0) 0 8, space := bits (w 0) 8 8, epoch := bits (w 0) 16 30, code := bits (w 0) 46 8, group := w 1,
    manifest := bits (w 2) 0 56, reply := bits (w 3) 0 56, blocks := bits (w 4) 0 32, replySpace := bits (w 4) 32 8 }

/-- A message's bytes. -/
def msgBytesOf (m : HMsg) : List Byte :=
  leBytes 8 (m.msg + m.space * 2 ^ 8 + m.epoch % 2 ^ 30 * 2 ^ 16 + m.code * 2 ^ 46) ++ leBytes 8 m.group ++ leBytes 8 m.manifest ++
  leBytes 8 m.reply ++ leBytes 8 (m.blocks + m.replySpace * 2 ^ 32) ++ List.replicate 24 0

/-- This device's own handoff window (R451). -/
def ownWindow (s : State) : Nat := s.get F.CMP_NODE_NODE_ID * 2 ^ 47 + Config.handoffBase

/-- Send a handoff message to a fabric address (R153): through the port of its node, or into the own window. -/
def sendMsg (s : State) (addr : Nat) (m : HMsg) : State :=
  let node := addr / 2 ^ 47
  if node = s.get F.CMP_NODE_NODE_ID then
    { s with blk := { s.blk with inbox := s.blk.inbox ++ [⟨(match spaceAt s m.space with | some x => x.ctx | none => 0), msgBytesOf m⟩] } }
  else
    match routeUp s node with
    | some p => sendOut s p { port := p, tag := 0, what := "HANDOFF", addr := addr, data := msgBytesOf m, node := node }
    | none => s

/-- The ledger entry of a group. -/
def ledgerOf (s : State) (i g : Nat) : Option Ledger := s.blk.ledger.find? fun x => x.space = i && x.group = g

/-- Put a ledger entry, or remove it. -/
def putLedger (s : State) (i g : Nat) (x : Option Ledger) : State :=
  { s with blk := { s.blk with ledger := (s.blk.ledger.filter fun y => !(y.space = i && y.group = g)) ++ x.toList } }

/-! ### Format (R436, R442, R443 order 1, R452, R466) -/

/-- Format of the block-store family. -/
def blkFmt (ws : List Word) : Bool :=
  let op := descOp ws
  let va := fun b => dbits ws (b + 7) 1 7 == 0
  match op with
  | 0x50 =>
    dbits ws 17 1 7 == 0 && dbits ws 18 5 11 == 0 && decide (13 ≤ dbits ws 18 0 5) && decide (dbits ws 18 0 5 ≤ 28) &&
    decide (1 ≤ dbits ws 20 0 32) && decide (dbits ws 20 0 32 ≤ 33554432) && va 24 && dbits ws 24 0 57 % 2097152 == 0 && va 32 &&
    dbits ws 32 0 57 % 2097152 == 0 && decide (1 ≤ dbits ws 40 0 32) && decide (dbits ws 40 0 32 ≤ 86400000) &&
    decide (dbits ws 44 0 32 ≤ dbits ws 20 0 32) && dbits ws 48 0 128 == 0
  | 0x51 => dbits ws 17 0 376 == 0
  | 0x56 =>
    dbits ws 18 0 16 == 0 && dbits ws 23 6 2 == 0 && va 24 && dbits ws 32 0 64 == 0 && va 48 && dbits ws 48 0 57 % 64 == 0 &&
    dbits ws 60 0 32 == 0
  | 0x58 =>
    dbits ws 16 0 64 == 0 && dbits ws 32 0 128 == 0 && va 48 && dbits ws 48 0 57 % 64 == 0 && dbits ws 60 0 32 == 0
  | _ =>
    let size := 16384 * 2 ^ dbits ws 17 0 3
    let buf := op = 0x52 ∨ op = 0x53
    decide (0x52 ≤ op) && decide (op ≤ 0x57) && (op == 0x53 || dbits ws 17 0 3 == 0) && (op == 0x57 || dbits ws 17 3 1 == 0) &&
    dbits ws 17 4 4 == 0 && dbits ws 18 0 16 == 0 && dbits ws 23 6 2 == 0 && va 48 &&
    (if buf then dbits ws 48 0 57 % 64 == 0 else dbits ws 48 0 96 == 0) &&
    (op != 0x53 || (decide (1 ≤ dbits ws 56 0 32) && decide (dbits ws 56 0 32 ≤ size))) &&
    (dbits ws 17 3 1 == 0 || dbits ws 24 0 128 == 0)

/-- The extents of BLK_SPACE_SET (R437). -/
def spaceRanges (ws : List Word) : List Range :=
  let sp := spaceOf 0 ws
  [⟨sp.indexVa, 2 ^ sp.log2 * 256, .rdwr⟩, ⟨sp.areaVa, sp.areaPages * 2097152, .rdwr⟩]

/-- Orders 2 and 3 of R443. -/
def blkCheck (s : State) (c : Nat) (ws : List Word) : Option Code :=
  let op := descOp ws
  let r : Range := ⟨dbits ws 48 0 57, dbits ws 56 0 32, if op = 0x52 then .wr else .rd⟩
  match spaceAt s (dbits ws 16 0 8) with
  | none => some .denied
  | some sp =>
    if ctxDomain s sp.ctx ≠ ctxDomain s c then some .denied
    else if (op = 0x52 ∨ op = 0x53) ∧ r.len ≠ 0 then
      match translate s c r.va r.len r.right with
      | .code .cpair => some .cpair
      | .code _ => some .denied
      | _ => none
    else none

/-- Binding and queue-time checks of a block descriptor (R437, R443). -/
def blkBind (s : State) (c : Nat) (ws : List Word) : Option Code × List (Option Nat) :=
  let op := descOp ws
  if 0x52 ≤ op ∧ op ≤ 0x57 then (blkCheck s c ws, [some (dbits ws 16 0 8)]) else (none, [])

/-! ### Engines and jobs -/

/-- The engine of a sector's block work (R467). -/
def blkServing (s : State) (n : Nat) : Nat := serving F.BLK_B_STATUS_STATE s n

/-- The engine that runs a job (R27, R440; a whole group's by R450). -/
def blkUnit (s : State) (j : Job) : Nat :=
  let w := j.words
  let c := ringCtx j.ring
  let op := descOp w
  let n := match op with
    | 0x50 => vaHome s c (dbits w 24 0 57)
    | 0x58 => vaHome s c (dbits w 48 0 57)
    | _ => match spaceAt s (dbits w 16 0 8) with
      | none => 0
      | some sp =>
        if op = 0x51 then vaHome s sp.ctx sp.indexVa
        else if op = 0x56 ∨ dbits w 17 3 1 = 1 then dbits w 40 0 64 % 4
        else vaHome s sp.ctx (sp.indexVa + bucketOf sp (dbits w 24 0 128) * 256)
  0x18 + blkServing s n

/-- A block job's row. -/
def blkRow (op : Nat) (d : Desc) (go : State → Job → State) (s : State) : Ans :=
  .next (engineRow op d blkUnit (fun s => s.flag F.BLK_CTRL_EN) go s)

/-- Count on an engine unless the job's domain is confidential (R468). -/
def blkCount (s : State) (j : Job) (f : Fld) (sat : Bool) (n : Nat := 1) : State :=
  if jobConf s j then s else if sat then s.bumpSat f n else s.bump f n

/-- End a block job. -/
def blkEnd (s : State) (j : Job) (c : Code) (detail : Nat := 0) : State :=
  let op := descOp j.words
  let e := j.unit % 4
  let s := if op = 0x52 then blkCount s j (F.BLK_B_OPS_GETS e) false
    else if op = 0x53 then blkCount s j (F.BLK_B_OPS_PUTS e) false else s
  finishJob s j c detail

/-- The lease of an operation, in ns from now (R447). -/
def leaseEnd (s : State) (sp : Space) (ws : List Word) : Nat :=
  s.now + 1000000 * (if dbits ws 60 0 32 = 0 then sp.leaseMs else dbits ws 60 0 32)

/-- What orders 2 to 5 of R443 bring for a descriptor: a code, a wait, or the space and the group's ledger entry (none: first PUT). -/
inductive BlkGo where
  | code (c : Code) (detail : Nat)
  | wait
  | go (sp : Space) (l : Option Ledger)
deriving DecidableEq, Repr

/-- Orders 2 to 5 of R443, and the wait of R454. -/
def blkOrders (s : State) (j : Job) : BlkGo :=
  let w := j.words
  let op := descOp w
  let i := dbits w 16 0 8
  let g := dbits w 40 0 64
  let ep := dbits w 20 0 30
  match blkCheck s (ringCtx j.ring) w, spaceAt s i with
  | some c, _ => .code c 0
  | none, none => .code .denied 0
  | none, some sp =>
    match ledgerOf s i g with
    | none =>
      if op = 0x53 ∧ ep = 0 then (if s.blk.ledger.length ≥ 1048576 then .code .capacity 0 else .go sp none)
      else .code .notOwner 0
    | some l =>
      if l.st = .sending ∧ (op = 0x53 ∨ op = 0x57 ∨ op = 0x56) then .wait
      else if (l.st = .owned ∨ l.st = .sending) ∧ l.epoch = ep then .go sp (some l)
      else .code .notOwner l.epoch

/-- A job on one key: the orders, the probe, and order 6; `f` gets the space, its group's entry and the key's entry. -/
def keyJob (s : State) (j : Job) (f : State → Job → Space → Option Ledger → Option (Nat × BlkEnt) → State) : State :=
  let w := j.words
  let key := dbits w 24 0 128
  match blkOrders s j with
  | .code c d => blkEnd s j c d
  | .wait => putJob s { j with st := .waiting }
  | .go sp l =>
    let bva := sp.indexVa + bucketOf sp key * 256
    if !pageThere s sp bva then f s j sp l none
    else
      match prepareAs s j sp.ctx j.unit (probeRanges sp key) with
      | (false, s) => s
      | (true, s) =>
        if (probeRanges sp key).any fun r => poisonVa s sp.ctx r.va r.len then blkEnd s j .poison
        else
          match lookUp s sp key with
          | none => f s j sp l none
          | some (k, e) => if e.group ≠ dbits w 40 0 64 then blkEnd s j .denied else f s j sp l (some (k, e))

/-- The context virtual address of a pool address of the area. -/
def areaVaOf (s : State) (sp : Space) (loc : Nat) : Nat := sp.areaVa + (loc - extPa s sp sp.areaVa)

/-- Copy bytes between two contexts' memory in pieces of destination lines, poison following its line (R161). The flag says that poison
was met. -/
def copyBytes (s : State) (c1 va1 : Nat) (v1 : Option View) (c2 va2 : Nat) (v2 : Option View) (n : Nat) : State × Bool :=
  ((linesOf va2 n).map fun l => (max va2 (l * 64) - va2, min (va2 + n) (l * 64 + 64) - max va2 (l * 64))).foldl
    (fun (x : State × Bool) p =>
      let s := x.1
      if poisonVa s c1 (va1 + p.1) p.2 v1 then (spoilVa s c2 (va2 + p.1) p.2, true)
      else
        let (d, s) := readVa s c1 (va1 + p.1) p.2 .rd v1
        (writeVa s c2 (va2 + p.1) d v2, x.2)) (s, false)

/-- BLK_SPACE_SET (R436, R437). -/
def execBlkSpaceSet (d : Desc) (s : State) : Ans :=
  blkRow 0x50 d (fun s j =>
    let i := dbits j.words 16 0 8
    if (spaceAt s i).isSome then blkEnd s j .denied
    else blkEnd (putSpace s i (spaceOf (ringCtx j.ring) j.words)) j .ok) s

/-- Is an earlier descriptor bound to the space (R437)? -/
def spaceHeld (s : State) (j : Job) (i : Nat) : Bool :=
  (s.rings.jobs.takeWhile fun k => !(k.ring = j.ring && k.idx = j.idx)).any fun k =>
    k.bound.head? == some (some i) && decide (0x52 ≤ descOp k.words) && decide (descOp k.words ≤ 0x57)

/-- BLK_SPACE_CLEAR (R437). -/
def execBlkSpaceClear (d : Desc) (s : State) : Ans :=
  blkRow 0x51 d (fun s j =>
    let i := dbits j.words 16 0 8
    match spaceAt s i with
    | none => blkEnd s j .denied
    | some sp =>
      if ctxDomain s sp.ctx ≠ ctxDomain s (ringCtx j.ring) then blkEnd s j .denied
      else if spaceHeld s j i then putJob s { j with st := .waiting }
      else
        let ps := (span (extPa s sp sp.indexVa / 2097152) (2 ^ sp.log2 / 8192) ++ areaPages s sp).filter fun p => (s.page? p).isSome
        let ls := ps.flatMap fun p => knownLines s (p * 2097152) 2097152
        let s := ls.foldl (fun s l => recallLine s l true (.job j.ring j.idx)) s
        if ls.any fun l => lineBlocks s l true then putJob s { j with st := .waiting }
        else
          let s := freePages s ps
          blkEnd { s with blk := { s.blk with spaces := tabDel i s.blk.spaces,
                                              ledger := s.blk.ledger.filter fun x => x.space ≠ i } } j .ok) s

/-- BLK_GET (R444, R446, R447). -/
def execBlkGet (d : Desc) (s : State) : Ans :=
  blkRow 0x52 d (fun s j =>
    let w := j.words
    let c := ringCtx j.ring
    let buf := dbits w 48 0 57
    keyJob s j fun s j sp _ hit =>
      match hit with
      | none => blkEnd s j .short
      | some (k, e) =>
        if dbits w 56 0 32 < e.len then blkEnd s j .capacity
        else
          let (j, s) := startJob s j (j.unit % 4) []
          let v := jobView s j (j.unit % 4)
          let bva := areaVaOf s sp e.loc
          match prepareAs s j sp.ctx j.unit [⟨bva, e.len, .rd⟩] with
          | (false, s) => s
          | (true, s) =>
            match prepare s j j.unit [⟨buf, e.len, .wr⟩] (some v) with
            | (false, s) => s
            | (true, s) =>
              let (s, bad) := copyBytes s sp.ctx bva none c buf (some v) e.len
              let s := putEnt s (dbits w 16 0 8) sp k { e with lease := leaseEnd s sp w }
              if bad then blkEnd s j .poison else blkEnd s j .ok e.len) s

/-- A PUT refused for want of room; a first PUT leaves no group behind (R443). -/
def putRefused (s : State) (j : Job) (full : Bool) : State :=
  let s := if full then blkCount s j (F.BLK_B_LEASE_PROBE_FULL (j.unit % 4)) true else s
  blkEnd s j .capacity

/-- The block of a BLK_PUT lands, everything it touches being ready: the log, the entries it displaces, the bytes and the new entry (R441, R447). -/
def putLand (s : State) (j : Job) (sp : Space) (led : Option Ledger) (k loc ip : Nat) (gone : List Nat) (v : View) : State :=
  let w := j.words
  let c := ringCtx j.ring
  let i := dbits w 16 0 8
  let key := dbits w 24 0 128
  let g := dbits w 40 0 64
  let buf := dbits w 48 0 57
  let len := dbits w 56 0 32
  let e := j.unit % 4
  let (b, s) := if sp.logData then readVa s c buf len .rd (some v) else ([], s)
  let seq := logNext s c
  onLog (logWrite s 3 j.unit c j.ring j.idx (leBytes 64 (descVal w) ++ b))
    (fun s => putJob s { j with st := .waiting }) (putRefused s j false) fun s =>
    let s := gone.foldl (fun s k => freeEnt s i sp k) s
    let s := if gone.isEmpty then s else blkCount s j (F.BLK_B_LEASE_EVICTED e) false gone.length
    let s := needPage (needPage s sp ip false) sp (loc / 2097152) false
    let (s, bad) := copyBytes s c buf (some v) sp.ctx (areaVaOf s sp loc) none len
    let s := putEnt s i sp k { key := key, v := true, state := 0, sizeLog := dbits w 17 0 3, pin := false, loc := loc,
                               group := g, seq := seq, lease := leaseEnd s sp w, len := len }
    let ep := match led with | some l => l.epoch | none => 1
    let s := match led with
      | some _ => s
      | none => putLedger s i g (some { space := i, group := g, epoch := 1, st := .owned, since := s.now })
    blkEnd s j (if bad then .poison else .ok) (if bad then 0 else ep)

/-- BLK_PUT (R440, R441, R445, R447). -/
def execBlkPut (d : Desc) (s : State) : Ans :=
  blkRow 0x53 d (fun s j =>
    let w := j.words
    let key := dbits w 24 0 128
    let buf := dbits w 48 0 57
    let len := dbits w 56 0 32
    let e := j.unit % 4
    keyJob s j fun s j sp led hit =>
      let (j, s) := if j.phase = 0 then
          let (j, s) := startJob s j e [⟨buf, len, .rd⟩]
          let j := { j with aux := s.free }
          (j, putJob { s with free := s.free + 1 } j)
        else (j, s)
      let v := jobView s j e
      if acquiring s j e then s
      else
        let ip := extPa s sp (sp.indexVa + bucketOf sp key * 256) / 2097152
        if !pageUsable s sp ip false ∧ (s.page? ip).isNone then putRefused s j false
        else
          let free := if (s.page? ip).isNone then (probeSlots sp key).head? else (probeSlots sp key).find? fun k => !(entAt s sp k).v
          match hit.map (·.1) <|> free with
          | none => putRefused s j true
          | some k =>
            let n := 16384 * 2 ^ dbits w 17 0 3
            match makeRoom s sp e n j.aux (lapsed s sp) [] with
            | none => putRefused s j false
            | some (loc, gone) =>
              let ready := if (s.page? (loc / 2097152)).isNone then (true, s)
                else prepareAs s j sp.ctx j.unit [⟨areaVaOf s sp loc, len, .wr⟩]
              match ready with
              | (false, s) => s
              | (true, s) =>
                match prepare s j j.unit [⟨buf, len, .rd⟩] (some v) with
                | (false, s) => s
                | (true, s) =>
                  putLand s j sp led k loc ip gone v) s

/-- A place in a pin page for a block, with the page when it becomes one now (R448). -/
def pinPlace (s : State) (sp : Space) (n n0 : Nat) : Option (Nat × Option Nat) :=
  let l := roomIn s sp [] (sp.pins.filter fun p => pageUsable s sp p true) n
  match l[Config.pick n0 % max l.length 1]? with
  | some a => some (a, none)
  | none =>
    if sp.pins.length ≥ sp.pinPages then none
    else
      let l := roomIn s sp [] ((areaPages s sp).filter fun p => !sp.pins.contains p && pageUsable s sp p true) n
      (l[Config.pick n0 % max l.length 1]?).map fun a => (a, some (a / 2097152))

/-- Mark a page as a pin page: PIN_NEAR, and planned to move near. -/
def markPin (s : State) (i : Nat) (sp : Space) (p : Nat) : State :=
  let s := match s.page? p with
    | none => needPage s sp p true
    | some e => planMove (s.putPage p { e with pinNear := true }) ⟨e.tensorBase, true, false⟩
  match spaceAt s i with
  | some x => putSpace s i { x with pins := setAdd p x.pins }
  | none => s

/-- BLK_PIN (R447, R448). -/
def execBlkPin (d : Desc) (s : State) : Ans :=
  blkRow 0x54 d (fun s j =>
    let w := j.words
    let i := dbits w 16 0 8
    keyJob s j fun s j sp _ hit =>
      match hit with
      | none => blkEnd s j .short
      | some (k, e) =>
        let (j, s) := if j.phase = 0 then
            let j := { j with aux := s.free, phase := 1 }
            (j, putJob { s with free := s.free + 1 } j)
          else (j, s)
        if e.pin then blkEnd (putEnt s i sp k { e with lease := leaseEnd s sp w }) j .ok
        else
          match pinPlace s sp e.size j.aux with
          | none => blkEnd (blkCount s j (F.BLK_B_LEASE_PIN_FULL (j.unit % 4)) true) j .capacity
          | some (loc, new) =>
            let far : List Range := if (s.page? (loc / 2097152)).isSome then [⟨areaVaOf s sp loc, e.len, .wr⟩] else []
            match prepareAs s j sp.ctx j.unit (⟨areaVaOf s sp e.loc, e.len, .rd⟩ :: far) with
            | (false, s) => s
            | (true, s) =>
              let s := match new with | some p => markPin s i sp p | none => s
              let (s, bad) := copyBytes s sp.ctx (areaVaOf s sp e.loc) none sp.ctx (areaVaOf s sp loc) none e.len
              let s := putEnt s i sp k { e with pin := true, loc := loc, lease := leaseEnd s sp w }
              blkEnd s j (if bad then .poison else .ok)) s

/-- BLK_UNPIN (R448). -/
def execBlkUnpin (d : Desc) (s : State) : Ans :=
  blkRow 0x55 d (fun s j =>
    keyJob s j fun s j sp _ hit =>
      match hit with
      | none => blkEnd s j .short
      | some (k, e) => blkEnd (putEnt s (dbits j.words 16 0 8) sp k { e with pin := false }) j .ok) s

/-- BLK_RELEASE (R449). -/
def execBlkRelease (d : Desc) (s : State) : Ans :=
  blkRow 0x57 d (fun s j =>
    let w := j.words
    let i := dbits w 16 0 8
    let g := dbits w 40 0 64
    if dbits w 17 3 1 = 1 then
      match blkOrders s j with
      | .code c d => blkEnd s j c d
      | .wait => putJob s { j with st := .waiting }
      | .go _ _ => blkEnd (putLedger (freeGroup s i g) i g none) j .ok
    else
      keyJob s j fun s j sp _ hit =>
        match hit with
        | none => blkEnd s j .short
        | some (k, _) => blkEnd (freeEnt s i sp k) j .ok) s

/-- The manifest of a group's blocks (R453). -/
def manifestOf (s : State) (es : List BlkEnt) : List Byte :=
  es.flatMap fun e => leBytes 16 e.key ++ leBytes 8 (s.get F.CMP_NODE_NODE_ID * 2 ^ 47 + e.loc) ++ leBytes 3 e.len ++ leBytes 1 e.sizeLog ++
    List.replicate 4 0

/-- Is a fabric address inside a handoff window (R451)? -/
def inHandoff (a : Nat) : Bool := decide (Config.handoffBase ≤ a % 2 ^ 47) && decide (a % 2 ^ 47 < Config.doorbellBase)

/-- The manifest of a BLK_HANDOFF is logged and written, and the OFFER leaves (R450, R452, R453). -/
def handoffLand (s : State) (j : Job) (l : Ledger) (es : List (Nat × BlkEnt)) (fa mpa : Nat) (v : View) : State :=
  let w := j.words
  let c := ringCtx j.ring
  let i := dbits w 16 0 8
  let g := dbits w 40 0 64
  let mva := dbits w 48 0 57
  let mlen := es.length * 32
  let (n, s) := takeMany s 1
  let man := manifestOf s (shuffle es.length n (es.map (·.2)))
  onLog (logWrite s 4 j.unit c j.ring j.idx (leBytes 64 (descVal w) ++ man))
    (fun s => putJob s { j with st := .waiting }) (blkEnd s j .capacity) fun s =>
    let s := writeVa s c mva man (some v)
    let s := flushRange s [j.unit % 4] mpa mlen
    let s := putLedger s i g (some { l with st := .sending, since := s.now, job := some (j.ring, j.idx), reply := fa,
                                            peerSpace := dbits w 17 0 8 })
    let m : HMsg := { msg := 1, space := dbits w 17 0 8, epoch := l.epoch + 1, group := g,
                      manifest := s.get F.CMP_NODE_NODE_ID * 2 ^ 47 + mpa, reply := ownWindow s, blocks := es.length, replySpace := i }
    sendMsg (putJob s { j with st := .waiting, phase := 2 }) fa m

/-- BLK_HANDOFF (R450, R452 to R454). -/
def execBlkHandoff (d : Desc) (s : State) : Ans :=
  blkRow 0x56 d (fun s j =>
    let w := j.words
    let c := ringCtx j.ring
    let g := dbits w 40 0 64
    let mva := dbits w 48 0 57
    if j.phase = 2 then s
    else
      match blkOrders s j with
      | .code c d => blkEnd s j c d
      | .wait => putJob s { j with st := .waiting }
      | .go _ none => s
      | .go sp (some l) =>
        let es := groupEnts s sp g
        let mlen := es.length * 32
        let dest := match translate s c (dbits w 24 0 57) 64 .wr with
          | .away fa _ _ => some fa
          | .here pa _ => some (s.get F.CMP_NODE_NODE_ID * 2 ^ 47 + pa)
          | .code _ => none
        match dest, poolOf s c mva (max mlen 1) .wr with
        | some fa, some mpa =>
          if !inHandoff fa then blkEnd s j .denied
          else if dbits w 56 0 32 < mlen ∨ l.epoch + 1 ≥ 2 ^ 30 ∨ es.length > 65536 then blkEnd s j .capacity
          else if fa / 2 ^ 47 ≠ s.get F.CMP_NODE_NODE_ID ∧ (routeUp s (fa / 2 ^ 47)).isNone then blkEnd s j .portLost
          else
            let (j, s) := startJob s j (j.unit % 4) []
            let v := jobView s j (j.unit % 4)
            match prepare s j j.unit [⟨mva, mlen, .wr⟩] (some v) with
            | (false, s) => s
            | (true, s) =>
              handoffLand s j l es fa mpa v
        | _, _ => blkEnd s j .denied) s

/-- The code of BLK_LOG_READ and what it copies (R466). -/
def logRead (s : State) (c start len : Nat) : List Byte × Nat × Bool :=
  let l := s.log.recs.filter fun r => r.ctx = c && decide (start ≤ r.seq)
  let r := l.foldl (fun (x : List Byte × Nat × Bool) r =>
    let b := logImage r
    if x.2.2 ∨ x.1.length + b.length > len then (x.1, x.2.1, true) else (x.1 ++ b, x.2.1 + 1, false)) ([], 0, false)
  let last := tabGet 0 c s.log.seqs
  let oldest := ((s.log.recs.filter fun r => r.ctx = c).map (·.seq)).head?
  let lostSome := decide (max start 1 ≤ last) && (match oldest with | some q => decide (max start 1 < q) | none => true)
  (r.1, r.2.1, r.2.2 || lostSome)

/-- BLK_LOG_READ (R466). -/
def execBlkLogRead (d : Desc) (s : State) : Ans :=
  blkRow 0x58 d (fun s j =>
    let w := j.words
    let c := ringCtx j.ring
    let buf := dbits w 48 0 57
    let (b, n, part) := logRead s c (dbits w 24 0 64) (dbits w 56 0 32)
    let (j, s) := startJob s j (j.unit % 4) []
    let v := jobView s j (j.unit % 4)
    match prepare s j j.unit [⟨buf, b.length, .wr⟩] (some v) with
    | (false, s) => s
    | (true, s) => blkEnd (writeVa s c buf b (some v)) j (if part then .short else .ok) n) s

/-! ### Handoff messages (R455 to R459) -/

/-- The first message of a kind in the window. -/
def firstMsg (s : State) (k : Nat) : Option (InMsg × HMsg) :=
  s.blk.inbox.findSome? fun m => if (msgOf m.msg).msg = k then some (m, msgOf m.msg) else none

/-- Take a message out of the window. -/
def takeMsg (s : State) (m : InMsg) : State := { s with blk := { s.blk with inbox := s.blk.inbox.erase m } }

/-- Answer a message with NACK. -/
def sendNack (s : State) (m : HMsg) (c : Code) : State :=
  let ep := match ledgerOf s m.space m.group with | some l => l.epoch | none => 0
  let s := if c = .notOwner then s.bumpSat F.BLK_HANDOFF_STATS_STALE else s
  sendMsg s m.reply { msg := 4, space := m.replySpace, epoch := ep, code := codeNum c, group := m.group, reply := ownWindow s,
                      replySpace := m.space }

/-- Does the message's context belong to the domain of its space (R451)? -/
def msgAllowed (s : State) (x : InMsg) (m : HMsg) : Bool :=
  match spaceAt s m.space with
  | some sp => ctxValid s x.ctx && decide (ctxDomain s x.ctx = ctxDomain s sp.ctx)
  | none => false

/-- The context virtual address, in the space context, of a fabric range (R455 step 2). -/
def fabricVa (s : State) (c fa len : Nat) : Option Nat :=
  (List.range 16).findSome? fun i => match tabGet? (c * 16 + i) s.xlt.segs with
    | some g => if g.fabric ≤ fa ∧ fa + len ≤ g.fabric + g.len * 65536 then some (g.vaBase + (fa - g.fabric)) else none
    | none => none

/-- What taking an offered block brings. -/
inductive Staged where
  | ok (s : State)
  | no (c : Code)
  | later (s : State)
deriving DecidableEq, Repr

/-- Stage one block of an offer (R455 steps 1 and 2). -/
def stageBlock (s : State) (i : Nat) (sp : Space) (group seq : Nat) (b : List Byte) : Staged :=
  let key := leVal (b.take 16)
  let fa := bits (leVal ((b.drop 16).take 8)) 0 56
  let len := bits (leVal ((b.drop 24).take 3)) 0 22
  let sl := leVal ((b.drop 27).take 1) % 8
  let n := 16384 * 2 ^ sl
  let c := sp.ctx
  let e := vaHome s c (sp.indexVa + bucketOf sp key * 256)
  let ip := extPa s sp (sp.indexVa + bucketOf sp key * 256) / 2097152
  match fabricVa s c fa len with
  | none => .no .denied
  | some va =>
    if (s.page? ip).isNone ∧ !pageUsable s sp ip false then .no .capacity
    else
      let there := (s.page? ip).isSome
      let hit := if there then lookUp s sp key else none
      let free := if there then (probeSlots sp key).find? fun k => !(entAt s sp k).v else (probeSlots sp key).head?
      match hit, free, makeRoom s sp e n s.free (lapsed s sp) [] with
      | some _, _, _ => .no .denied
      | none, some k, some (loc, gone) =>
        let rs : List Range := [⟨va, len, .rd⟩] ++ (if (s.page? (loc / 2097152)).isSome then [⟨areaVaOf s sp loc, len, .wr⟩] else [])
        match barRanges s none c .none rs with
        | (.clear, s) =>
          let s := gone.foldl (fun s k => freeEnt s i sp k) { s with free := s.free + 1 }
          let s := if gone.isEmpty ∨ confDomain s (ctxDomain s c) then s
            else s.bump (F.BLK_B_LEASE_EVICTED (blkServing s e)) gone.length
          let s := needPage (needPage s sp ip false) sp (loc / 2097152) false
          let (s, _) := copyBytes s c va none c (areaVaOf s sp loc) none len
          .ok (putEnt s i sp k { key := key, v := true, state := 2, sizeLog := sl, pin := false, loc := loc, group := group, seq := seq,
                                 lease := s.now + 1000000 * sp.leaseMs, len := len })
        | (.code _, _) => .no .denied
        | (_, s) => .later s
      | none, _, _ => .no .capacity

/-- Stage every block of a manifest. -/
def stageAll (s : State) (i group seq : Nat) : List (List Byte) → Staged
  | [] => .ok s
  | b :: t =>
    match spaceAt s i with
    | none => .no .denied
    | some sp =>
      match stageBlock s i sp group seq b with
      | .ok s => stageAll s i group seq t
      | x => x

/-- Cut bytes into pieces of 32. -/
def cut32 : Nat → List Byte → List (List Byte)
  | 0, _ => []
  | n + 1, b => b.take 32 :: cut32 n (b.drop 32)

/-- The blocks of an OFFER are staged and the ACK leaves (R455); `s0` is the device before any of it, to which a refusal returns. -/
def offerLand (s0 s : State) (x : InMsg) (m : HMsg) (sp : Space) (va : Nat) : State :=
  let (man, s) := readVa s sp.ctx va (32 * m.blocks)
  let seq := logNext s sp.ctx
  onLog (logWrite s 5 (0x18 + blkServing s (m.group % 4)) sp.ctx 0 0 (x.msg ++ man))
    (fun s => s) (sendNack (takeMsg s0 x) m .capacity) fun s1 =>
     match stageAll s1 m.space m.group seq (cut32 m.blocks man) with
     | .no c => sendNack (takeMsg s0 x) m c
     | .later s => { s with log := s0.log, regs := s0.regs }
     | .ok s =>
       let close := fun r : LogRec => if r.ctx = sp.ctx ∧ r.seq = seq then { r with live := false } else r
       let s := { s with log := { s.log with recs := s.log.recs.map close } }
       let l : Ledger := { space := m.space, group := m.group, epoch := m.epoch, st := .acked, reply := m.reply,
                           peerSpace := m.replySpace, since := s.now, sentAt := s.now }
       let s := putLedger (takeMsg s x) m.space m.group (some l)
       sendMsg s m.reply { msg := 2, space := m.replySpace, epoch := m.epoch, group := m.group, reply := ownWindow s,
                           replySpace := m.space }

/-- OFFER (R455): a message whose memory cannot be reached now stays in the window. -/
def execOffer (t : Nat) (s : State) : Ans :=
  let s := s.upto t
  .next <|
    match firstMsg s 1 with
    | none => s
    | some (x, m) =>
      let s0 := s
      let refuse := fun (s : State) (c : Code) => sendNack (takeMsg s x) m c
      let held : Bool := match ledgerOf s m.space m.group with
        | some l => l.st != .gone || decide (m.epoch ≤ l.epoch)
        | none => false
      if !msgAllowed s x m || held then refuse s .denied
      else
        match spaceAt s m.space with
        | none => refuse s .denied
        | some sp =>
          if s.blk.ledger.length ≥ 1048576 then refuse s .capacity
          else
            match fabricVa s sp.ctx m.manifest (32 * m.blocks) with
            | none => refuse s .denied
            | some va =>
              match barRanges s none sp.ctx .none [⟨va, 32 * m.blocks, .rd⟩] with
              | (.code _, _) => refuse s0 .denied
              | (.clear, s) =>
                offerLand s0 s x m sp va
              | (_, s) => s

/-- The BLK_HANDOFF descriptor of an entry completes. -/
def endHandoff (s : State) (l : Ledger) (c : Code) (detail : Nat) : State :=
  match l.job.bind fun x => findJob s x.1 x.2 with
  | some j => if j.st = .waiting then blkEnd s j c detail else s
  | none => s

/-- ACK (R456). -/
def execAck (t : Nat) (s : State) : Ans :=
  let s := s.upto t
  .next <|
    match firstMsg s 2 with
    | none => s
    | some (x, m) =>
      let s := takeMsg s x
      let conf := fun s : State => sendMsg s m.reply { msg := 3, space := m.replySpace, epoch := m.epoch, group := m.group,
                                                       reply := ownWindow s, replySpace := m.space }
      if !msgAllowed s x m then sendNack s m .denied
      else
        match ledgerOf s m.space m.group with
        | none => sendNack s m .notOwner
        | some l =>
          if l.st = .sending ∧ l.epoch + 1 = m.epoch then
            let s := putLedger (freeGroup s m.space m.group) m.space m.group
              (some { l with st := .gone, epoch := m.epoch, since := s.now, job := none })
            conf (endHandoff (s.bump F.BLK_HANDOFF_STATS_COMPLETED) l .ok m.epoch)
          else if l.st = .gone ∧ l.epoch = m.epoch then conf s
          else sendNack s m .notOwner

/-- Make a group's staged blocks READY. -/
def readyGroup (s : State) (i g : Nat) : State :=
  match spaceAt s i with
  | none => s
  | some sp => (groupEnts s sp g).foldl (fun s x => putEnt s i sp x.1 { x.2 with state := 0 }) s

/-- CONFIRM (R457). -/
def execConfirm (t : Nat) (s : State) : Ans :=
  let s := s.upto t
  .next <|
    match firstMsg s 3 with
    | none => s
    | some (x, m) =>
      let s := takeMsg s x
      if !msgAllowed s x m then sendNack s m .denied
      else
        match ledgerOf s m.space m.group with
        | some l =>
          if l.st = .acked ∧ l.epoch = m.epoch then
            readyGroup (putLedger s m.space m.group (some { l with st := .owned, since := s.now })) m.space m.group
          else s
        | none => s

/-- Reclaim a group (R458). -/
def reclaim (s : State) (l : Ledger) (c : Code) : State :=
  let s := putLedger s l.space l.group (some { l with st := .owned, epoch := l.epoch + 2, since := s.now, job := none })
  endHandoff (s.bumpSat F.BLK_HANDOFF_STATS_RECLAIMED) l c (l.epoch + 2)

/-- The staged blocks of a group go with its entry (R457). -/
def dropStaged (s : State) (l : Ledger) : State := putLedger (freeGroup s l.space l.group) l.space l.group none

/-- The code of a number in a NACK (R452). -/
def nackCode (n : Nat) : Code := if n = codeNum .capacity then .capacity else if n = codeNum .notOwner then .notOwner else .denied

/-- NACK (R457, R458). -/
def execNack (t : Nat) (s : State) : Ans :=
  let s := s.upto t
  .next <|
    match firstMsg s 4 with
    | none => s
    | some (x, m) =>
      let s := takeMsg s x
      if !msgAllowed s x m then s
      else
        match ledgerOf s m.space m.group with
        | some l => (match l.st with
            | .sending => reclaim s l (nackCode m.code)
            | .acked => dropStaged s l
            | _ => s)
        | none => s

/-- The first ledger entry in a state whose time is over. -/
def ledgerDue (s : State) (st : Own) (since : Ledger → Nat) (ns : Nat) : Option Ledger :=
  s.blk.ledger.find? fun l => l.st = st && decide (since l + ns ≤ s.now)

/-- HANDOFF_TIMEOUT (R458). -/
def execHandoffTimeout (t : Nat) (s : State) : Ans :=
  let s := s.upto t
  .next <|
    match ledgerDue s .sending (·.since) (1000000 * s.get F.BLK_TIMING_HANDOFF_MS) with
    | some l => reclaim s l .timeout
    | none => s

/-- ACK_RESEND (R457). -/
def execAckResend (t : Nat) (s : State) : Ans :=
  let s := s.upto t
  .next <|
    match ledgerDue s .acked (·.sentAt) (1000 * s.get F.BLK_TIMING_ACK_RESEND_US) with
    | some l =>
      sendMsg (putLedger s l.space l.group (some { l with sentAt := s.now })) l.reply
        { msg := 2, space := l.peerSpace, epoch := l.epoch, group := l.group, reply := ownWindow s, replySpace := l.space }
    | none => s

/-- GIVEUP_TIMEOUT (R457). -/
def execGiveupTimeout (t : Nat) (s : State) : Ans :=
  let s := s.upto t
  .next <|
    match ledgerDue s .acked (·.since) (1000000 * s.get F.BLK_TIMING_GIVEUP_MS) with
    | some l => dropStaged s l
    | none => s

/-- GONE_EXPIRY (R450). -/
def execGoneExpiry (t : Nat) (s : State) : Ans :=
  let s := s.upto t
  .next <|
    match ledgerDue s .gone (·.since) (1000000 * s.get F.BLK_TIMING_GONE_MS) with
    | some l => putLedger s l.space l.group none
    | none => s

/-- LOG_ROOM (R464): the first job that waits and now has room waits no longer. -/
def execLogRoom (t : Nat) (s : State) : Ans :=
  let s := s.upto t
  .next <|
    match s.log.waits.find? fun w => (logMake (logCap s) w.2.2 s.log.recs (logUsed s)).isSome with
    | none => s
    | some w => { s with log := { s.log with waits := s.log.waits.erase w } }

end Sys2Proof.Machine
end

