-- ==== Sys2Proof/Machine/Embedding.lean ====
section
/-! DEFINITION. The meanings of the embedding engines (spec/09). -/

namespace Sys2Proof.Machine

open Sys2Proof

/-! ### Tables and records (R363, R365) -/

/-- Element width of a table format in bytes. -/
def embWidth : Nat → Nat
  | 0 => 4 | 1 => 2 | _ => 1

/-- A table format's code among the plane's formats (R317). -/
def embCode : Nat → Nat
  | 0 => 12 | 1 => 0 | 2 => 2 | 3 => 3 | _ => 4

/-- Bytes of elements in a record. -/
def EmbVer.rowBytes (v : EmbVer) : Nat := v.units * 16
/-- Elements of a record. -/
def EmbVer.dim (v : EmbVer) : Nat := v.rowBytes / embWidth v.fmt
/-- Bytes of an element of optimiser state. -/
def EmbVer.stWidth (v : EmbVer) : Nat := if v.sfmt = 0 then 4 else 2

/-- Bytes of optimiser state (R363). -/
def EmbVer.stateBytes (v : EmbVer) : Nat :=
  match v.opt with
  | 1 => v.dim * v.stWidth
  | 3 => 2 * v.dim * v.stWidth
  | 4 => v.stUnits * 16
  | _ => 0

/-- The stride of records (R363). -/
def EmbVer.stride (v : EmbVer) : Nat := ceilDiv (v.rowBytes + 16 + v.stateBytes) 64 * 64

/-- The version that EMB_TABLE_SET describes (R365); `n` numbers it. -/
def embVerOf (c : Nat) (ws : List Word) (n : Nat) (writable : Bool) (segs : List Nat) : EmbVer :=
  { ctx := c, table := dbits ws 16 0 12, ver := n, fmt := dbits ws 18 0 3, opt := dbits ws 18 3 3, sfmt := dbits ws 18 6 1,
    units := dbits ws 20 0 11, stUnits := dbits ws 22 0 10, rowVa := dbits ws 24 0 57, rows := dbits ws 32 0 32,
    balPages := dbits ws 36 0 32, balVa := dbits ws 48 0 57, defVa := dbits ws 40 0 57, writable := writable, segs := segs }

/-- Format of EMB_TABLE_SET and EMB_TABLE_CLEAR (R365, R368 order 1). -/
def embTableFmt (ws : List Word) : Bool :=
  if descOp ws = 0x30 then
    let va := dbits ws 24 0 64
    let df := dbits ws 40 0 64
    let bv := dbits ws 48 0 64
    let bp := dbits ws 36 0 32
    dbits ws 17 4 4 == 0 && dbits ws 18 7 1 == 0 && dbits ws 19 1 7 == 0 && dbits ws 21 3 5 == 0 && dbits ws 23 2 6 == 0 &&
    decide (dbits ws 18 0 3 ≤ 4) && decide (dbits ws 18 3 3 ≤ 4) && decide (1 ≤ dbits ws 20 0 11) && decide (dbits ws 20 0 11 ≤ 1024) &&
    (dbits ws 18 3 3 == 4 || dbits ws 22 0 10 == 0) && va % 64 == 0 && decide (va < 2 ^ 57) && dbits ws 32 0 32 != 0 &&
    df % 64 == 0 && decide (df < 2 ^ 57) && bv % 2097152 == 0 && decide (bv < 2 ^ 57) && (bv == 0) == (bp == 0) &&
    dbits ws 56 0 64 == 0
  else dbits ws 17 4 4 == 0 && dbits ws 18 0 368 == 0

/-- The extents of EMB_TABLE_SET (R367). -/
def embTableRanges (ws : List Word) : List Range :=
  let v := embVerOf 0 ws 0 false []
  [⟨v.rowVa, v.rows * v.stride, .rd⟩, ⟨v.defVa, if v.defVa = 0 then 0 else v.rowBytes + 16, .rd⟩,
   ⟨v.balVa, v.balPages * 2097152, .rdwr⟩]

/-- The current version of a table. -/
def currentVer (s : State) (c t : Nat) : Option EmbVer :=
  s.emb.vers.find? fun v => v.ctx = c && v.table = t && !v.retiring

/-- A version by number. -/
def verOf (s : State) (c t n : Nat) : Option EmbVer := s.emb.vers.find? fun v => v.ctx = c && v.table = t && v.ver = n

/-- Is the opcode one of the descriptors that bind versions? -/
def embBinds (op : Nat) : Bool := decide (0x32 ≤ op) && decide (op ≤ 0x37)

/-- Does a descriptor hold a reference to the version (R369)? -/
def verHeld (s : State) (v : EmbVer) : Bool :=
  s.rings.jobs.any fun j => embBinds (descOp j.words) && ringCtx j.ring = v.ctx && decide (dbits j.words 16 0 12 ≤ v.table) &&
    j.bound.getD (v.table - dbits j.words 16 0 12) none == some v.ver

/-- The engine of a sector's rows (R387, R390). -/
def embServing (s : State) (n : Nat) : Nat := serving F.EMB_E_STATUS_STATE s n

/-- The engine that runs a job: that of record 0 of its table (R27, R366). -/
def embUnit (s : State) (j : Job) : Nat :=
  let c := ringCtx j.ring
  let va := if descOp j.words = 0x30 then dbits j.words 24 0 57
    else match j.bound.head? with
      | some (some n) => (match verOf s c (dbits j.words 16 0 12) n with | some v => v.rowVa | none => 0)
      | _ => (match currentVer s c (dbits j.words 16 0 12) with | some v => v.rowVa | none => 0)
  0x10 + embServing s (vaHome s c va)

/-- An embedding job's row. -/
def embRow (op : Nat) (d : Desc) (go : State → Job → State) (s : State) : Ans :=
  .next (engineRow op d embUnit (fun s => s.flag F.EMB_CTRL_EN) go s)

/-- End an embedding job, counting it (EMB_E STATS). -/
def embEnd (s : State) (j : Job) (c : Code) (detail : Nat := 0) : State :=
  finishJob (s.bump (F.EMB_E_STATS_JOBS (j.unit % 4))) j c detail

/-- Make a version retiring and add a descriptor that waits for its release. -/
def retireVer (s : State) (v : EmbVer) (w : List (Nat × Nat × Nat)) : State :=
  let f := fun x : EmbVer => if x.ctx = v.ctx ∧ x.table = v.table ∧ x.ver = v.ver then
    { x with retiring := true, waiters := x.waiters ++ w } else x
  { s with emb := { s.emb with vers := s.emb.vers.map f } }

/-- EMB_TABLE_SET (R365 to R372). -/
def execEmbTableSet (d : Desc) (s : State) : Ans :=
  embRow 0x30 d (fun s j =>
    if j.phase = 1 then s
    else
      let c := ringCtx j.ring
      let t := dbits j.words 16 0 12
      let w := embVerOf c j.words 0 false []
      if s.emb.vers.length ≥ 131072 then embEnd s j .capacity
      else
        let n := tabGet 0 (c * 4096 + t) s.emb.last + 1
        let wr := (poolOf s c w.rowVa (w.rows * w.stride) .rdwr).isSome
        let v := embVerOf c j.words n wr (rangeSegs s c (embTableRanges j.words))
        let old := currentVer s c t
        let wait := dbits j.words 19 0 1 = 1 ∧ old.isSome
        let s := match old with
          | some o => retireVer s o (if wait then [(j.ring, j.idx, n)] else [])
          | none => s
        let s := { s with emb := { s.emb with vers := s.emb.vers ++ [v], last := tabPut (c * 4096 + t) n s.emb.last } }
        if wait then putJob s { j with st := .waiting, phase := 1 } else embEnd s j .ok n) s

/-- EMB_TABLE_CLEAR (R372). -/
def execEmbTableClear (d : Desc) (s : State) : Ans :=
  embRow 0x31 d (fun s j =>
    if j.phase = 1 then s
    else
      match currentVer s (ringCtx j.ring) (dbits j.words 16 0 12) with
      | none => embEnd s j .denied
      | some v => putJob (retireVer s v [(j.ring, j.idx, 0)]) { j with st := .waiting, phase := 1 }) s

/-! ### Look-up descriptors (R375 to R379) -/

/-- The body of R375. -/
structure EmbD where
  table : Nat
  ntab : Nat
  idx64 : Bool
  dfmt : Nat
  pool : Nat
  bag : Nat
  idxVa : Nat
  count : Nat
  stride : Nat
  dataVa : Nat
  auxVa : Nat
  stage : Nat
deriving DecidableEq, Repr

/-- Read the body. -/
def embOf (ws : List Word) : EmbD :=
  { table := dbits ws 16 0 12, ntab := dbits ws 18 0 13, idx64 := dbits ws 20 0 1 == 1, dfmt := dbits ws 20 1 2, pool := dbits ws 20 3 2,
    bag := dbits ws 21 0 8 + 1, idxVa := dbits ws 24 0 57, count := dbits ws 32 0 32, stride := dbits ws 36 0 32,
    dataVa := dbits ws 40 0 57, auxVa := dbits ws 48 0 57, stage := dbits ws 56 0 40 }

/-- Bytes of an index entry. -/
def EmbD.idxWidth (d : EmbD) : Nat := if d.idx64 then 8 else 4
/-- Rows of the output or input array. -/
def EmbD.outRows (d : EmbD) : Nat := if d.pool = 0 then d.count else d.count / d.bag

/-- Format of the descriptors of R375 and R396 (R376 orders 1 and 2). -/
def embFmt (ws : List Word) : Bool :=
  let op := descOp ws
  let d := embOf ws
  let va := fun b => dbits ws (b + 7) 1 7 == 0
  if op = 0x37 then
    dbits ws 17 4 4 == 0 && dbits ws 20 4 4 == 0 && va 48 && d.auxVa % 64 == 0 && dbits ws 61 0 24 == 0
  else
    let hook := op = 0x36
    dbits ws 17 4 4 == 0 && dbits ws 19 5 3 == 0 && dbits ws 20 5 3 == 0 && dbits ws 22 0 16 == 0 && dbits ws 61 0 24 == 0 &&
    decide (1 ≤ d.ntab) && decide (d.table + d.ntab ≤ 4096) && d.dfmt != 3 && d.pool != 3 && (op == 0x32 || d.pool == 0) &&
    (d.pool != 0 || dbits ws 21 0 8 == 0) && va 24 && va 40 && va 48 && d.idxVa % d.idxWidth == 0 &&
    decide (1 ≤ d.count) && decide (d.count ≤ 1048576) && d.stride % 16 == 0 && d.dataVa % 16 == 0 &&
    (if hook then d.auxVa % 64 == 0 else if op = 0x35 then d.auxVa % 4 == 0 else d.auxVa == 0) &&
    (hook || d.stage == 0) && (d.pool == 0 || d.count % d.bag == 0)

/-- Bytes of a data row for a version. -/
def dataBytes (dfmt : Nat) (v : EmbVer) : Nat :=
  match dfmt with
  | 0 => v.dim * 4
  | 1 => v.dim * 2
  | _ => v.rowBytes + 16

/-- The largest data row of some versions. -/
def dataMax (dfmt : Nat) (vs : List EmbVer) : Nat := (vs.map (dataBytes dfmt)).foldl max 0

/-- Binding and the queue-time checks beyond R89 (R369, R376): the code, or the versions bound by table offset. -/
def embBind (s : State) (c : Nat) (ws : List Word) : Option Code × List (Option Nat) × List Nat :=
  let op := descOp ws
  let d := embOf ws
  let ntab := if op = 0x37 then 1 else d.ntab
  let bs := (List.range ntab).map fun k => currentVer s c (d.table + k)
  let vs := bs.filterMap id
  let nums := bs.map fun b => b.map (·.ver)
  let same := fun (f : EmbVer → Nat) => (vs.map f).eraseDups.length ≤ 1
  let hook := op = 0x36 ∨ op = 0x37
  let ext := (d.outRows - 1) * d.stride + dataMax d.dfmt vs
  let rs : List Range := (if op = 0x37 then [] else [⟨d.idxVa, d.count * d.idxWidth, .rd⟩, ⟨d.dataVa, ext, if op = 0x32 then .wr else .rd⟩]) ++
    (if op = 0x35 then [⟨d.auxVa, 64, .rd⟩] else if hook then [⟨d.auxVa, d.stage, .rdwr⟩] else [])
  let bad := rs.map fun r => if r.len = 0 then Where.here 0 16 else translate s c r.va r.len r.right
  let code : Option Code :=
    if op ≠ 0x37 ∧ (d.stride < dataMax d.dfmt vs ∨ (d.dfmt = 2 ∧ !(decide (same (·.fmt)) && decide (same (·.rowBytes))))) then some .malformed
    else if (bs.getD 0 none).isNone then some .denied
    else if bad.any fun t => t = .code .cpair then some .cpair
    else if bad.any fun t => match t with | .code _ => true | _ => false then some .denied
    else if op ≠ 0x32 ∧ vs.any (fun v => !v.writable) then some .denied
    else if (op = 0x35 ∧ vs.any (fun v => v.opt = 4)) ∨
        (hook ∧ !(decide (same (·.rowBytes)) && decide (same (·.fmt)) && decide (same (·.stride)))) then some .malformed
    else if op = 0x36 ∧ (s.emb.hooks.filter (·.live)).length ≥ 16 then some .capacity
    else none
  (code, nums, (rangeSegs s c rs ++ vs.flatMap (·.segs)).eraseDups)

/-- An index entry: its table offset and row, and whether it is missing or invalid (R377). -/
inductive Ix where
  | row (v : EmbVer) (i : Nat)
  | missing (v : Option EmbVer)
  | invalid (v : Option EmbVer)
  /-- its line is poisoned -/
  | lost
deriving DecidableEq, Repr

/-- Decode an index entry. -/
def ixOf (s : State) (j : Job) (d : EmbD) (e : Nat) : Ix :=
  let row := e % 2 ^ 32
  let k := bits e 32 12
  let v := match j.bound.getD k none with | some n => verOf s (ringCtx j.ring) (d.table + k) n | none => none
  let v := if k < d.ntab then v else none
  if row = 0xFFFFFFFF then .missing v
  else
    match v with
    | some w => if row < w.rows ∧ bits e 44 20 = 0 then .row w row else .invalid (some w)
    | none => .invalid none

/-- The row that an index names. -/
def Ix.id? : Ix → Option (EmbVer × Nat)
  | .row v i => some (v, i)
  | _ => none

/-- The identity of a row. -/
def rowId (v : EmbVer) (i : Nat) : RowId := ⟨v.ctx, v.table, v.ver, i⟩

/-- Where a row's record lies now (R387, R399). -/
def recordVa (s : State) (v : EmbVer) (i : Nat) : Nat :=
  match s.emb.relocs.find? fun r => r.row = rowId v i with
  | some r => r.slot
  | none => v.rowVa + i * v.stride

/-- The home engine of a row (R387). -/
def rowEngine (s : State) (v : EmbVer) (i : Nat) : Nat := embServing s (vaHome s v.ctx (recordVa s v i))

/-- Distinct rows in the order of their first index. -/
def uniqueRows (ixs : List Ix) : List (EmbVer × Nat) := (ixs.filterMap Ix.id?).eraseDups

/-- Read the index array of a job. -/
def readIxs (s : State) (j : Job) (d : EmbD) (w : View) : List Ix × State :=
  let c := ringCtx j.ring
  let (b, s) := readVa s c d.idxVa (d.count * d.idxWidth) .rd (some w)
  let one := fun k => if poisonVa s c (d.idxVa + k * d.idxWidth) d.idxWidth (some w) then Ix.lost
    else ixOf s j d (leVal ((b.drop (k * d.idxWidth)).take d.idxWidth))
  ((List.range d.count).map one, s)

/-- Is the row locked by an open hook (R395)? -/
def rowLocked (s : State) (v : EmbVer) (i : Nat) : Bool :=
  s.emb.hooks.any fun h => h.live && h.ctx = v.ctx && h.rows.contains (v.table, v.ver, i)

/-! ### Elements (R363, R380, R382) -/

/-- SCALE of a record or RAW data row as a value: zero when it is zero or not finite. -/
def scaleFl (w : Nat) : Fl := match fmt32.value w with | .fin a m e => .fin a m e | _ => .fin false 0 0

/-- The exact values of a record's elements (R363): all zero when SCALE is zero or not finite. -/
def elemFls (v : EmbVer) (b : List Byte) : List Fl :=
  let w := embWidth v.fmt
  let sc := scaleFl (fieldAt b v.rowBytes 4)
  (List.range v.dim).map fun k =>
    if sc.isZero then .fin false 0 0 else (elemValue (embCode v.fmt) (fieldAt b (k * w) w)).mul sc
where
  /-- `n` bytes of a list from byte `i`, as a number. -/
  fieldAt (b : List Byte) (i n : Nat) : Nat := leVal ((b.drop i).take n)

/-- FP32 values of a record's elements. -/
def elemF32 (v : EmbVer) (b : List Byte) : List Nat := (elemFls v b).map fmt32.round

/-- Elements of FP32 or BF16 as bytes. -/
def denseBytes (dfmt : Nat) (l : List Nat) : List Byte :=
  if dfmt = 0 then l.flatMap (leBytes 4) else l.flatMap fun x => leBytes 2 (fmtBf16.round (fmt32.value x))

/-- The largest magnitude of finite FP32 patterns. -/
def maxMag (l : List Nat) : Nat := (l.map fun x => x % 2 ^ 31).foldl max 0

/-- Elements and SCALE as a table stores FP32 values, and whether a value was not finite (R382). Where the spec gives no SCALE or no
element, it is the free value `n`. -/
def encodeRow (v : EmbVer) (l : List Nat) (n : Nat) : List Byte × Nat × Bool :=
  let w := embWidth v.fmt
  let c := embCode v.fmt
  if v.fmt ≤ 1 then (l.flatMap fun x => leBytes w (if v.fmt = 0 then x else fmtBf16.round (fmt32.value x)), fOne, false)
  else if l.any fun x => !(fmt32.value x).isFin then
    (List.replicate v.dim (BitVec.ofNat 8 (match v.fmt with | 2 => 0x7F | 3 => 0x7E | _ => 0)), Config.pick n % 2 ^ 32, true)
  else
    let m := maxMag l
    let lim := fOfNat (match v.fmt with | 2 => 448 | 3 => 57344 | _ => 127)
    let sc := if m = 0 then fOne else fDiv m lim
    let q := fun x => if sc = 0 then Config.pick n % 256 else (convert c true .rne ((fmt32.value x).div (fmt32.value sc)) 0).1
    (l.flatMap fun x => leBytes 1 (q x), sc, false)

/-- FP32 values of a data row (R375). -/
def dataF32 (dfmt : Nat) (v : EmbVer) (b : List Byte) : List Nat :=
  match dfmt with
  | 0 => (List.range v.dim).map fun k => leVal ((b.drop (4 * k)).take 4)
  | 1 => (List.range v.dim).map fun k => fmt32.round (fmtBf16.value (leVal ((b.drop (2 * k)).take 2)))
  | _ => elemF32 v b

/-! ### Counters -/

/-- Count rows served by their home engines (R398), unless the job's domain is confidential (R401). -/
def countServed (s : State) (j : Job) (rows : List (EmbVer × Nat)) : State :=
  if jobConf s j then s
  else
    rows.foldl (fun s x =>
      let e := rowEngine s x.1 x.2
      let r := rowId x.1 x.2
      let k := ((s.emb.hot.find? fun h => h.1 = r).map (·.2)).getD 0
      { s with emb := { s.emb with served := tabPut e (tabGet 0 e s.emb.served + 1) s.emb.served,
                                   hot := (r, k + 1) :: s.emb.hot.filter fun h => h.1 ≠ r } }) s

/-- Missing and invalid indices of a job. -/
def ixCounts (ixs : List Ix) : Nat × Nat :=
  ((ixs.filter fun i => match i with | .invalid _ => true | _ => false).length,
   (ixs.filter fun i => match i with | .missing _ => true | _ => false).length)

/-- Counters of a job's indices and combining buffer (R379, R383, R384, R401); `p` is the partitions it took. -/
def countIxs (s : State) (j : Job) (ixs : List Ix) (u p : Nat) : State :=
  if jobConf s j then s
  else
    let e := j.unit % 4
    let (inv, mis) := ixCounts ixs
    let s := (s.bump (F.EMB_E_INDICES_INVALID e) inv).bump (F.EMB_E_INDICES_MISSING e) mis
    let s := s.bump (F.EMB_E_COMBINE_DUPLICATES e) ((ixs.filterMap Ix.id?).length - u)
    s.bumpSat (F.EMB_E_COMBINE_RESTARTS e) (Nat.log2 p)

/-- DETAIL of a look-up (R379). -/
def ixDetail (ixs : List Ix) : Nat :=
  let (inv, mis) := ixCounts ixs
  min inv 32767 + min mis 32767 * 2 ^ 15

/-- The partitions a job's rows take (R384): the first of 1, 2, 4, … 64 under which each pass fits the combining buffer. -/
def partitions (d : EmbD) (us : List (EmbVer × Nat)) : Option Nat :=
  [1, 2, 4, 8, 16, 32, 64].find? fun p =>
    (List.range p).all fun k =>
      decide ((us.filter fun x => p = 1 || Config.rowHash (x.1.table - d.table) x.2 % p = k).length ≤ 65536)

/-! ### EMB_GATHER (R378 to R380) -/

/-- Bytes of a gathered data row from a record's bytes. -/
def rowOut (dfmt : Nat) (v : EmbVer) (b : List Byte) : List Byte :=
  match dfmt with
  | 0 => (elemFls v b).flatMap fun x => leBytes 4 (fmt32.round x)
  | 1 => (elemFls v b).flatMap fun x => leBytes 2 (fmtBf16.round x)
  | _ => b.take (v.rowBytes + 4) ++ List.replicate 12 0

/-- The default record's bytes of a version, zeros without one (R378). -/
def defaultOf (defs : List (EmbVer × List Byte)) (v : EmbVer) : List Byte :=
  ((defs.find? fun x => x.1 = v).map (·.2)).getD (List.replicate (v.rowBytes + 16) 0)

/-- What one index gives a gather: a version with record bytes, a row of zeros, nothing, or poison. -/
inductive RowGot where
  | bytes (v : EmbVer) (b : List Byte)
  | zeros
  | poison
deriving DecidableEq, Repr

/-- What an index gives. -/
def gotOf (recs : List ((EmbVer × Nat) × List Byte × Bool)) (defs : List (EmbVer × List Byte)) : Ix → RowGot
  | .row v i => (match recs.find? fun r => r.1 = (v, i) with
    | some r => if r.2.2 then .poison else .bytes v r.2.1
    | none => .zeros)
  | .missing (some v) | .invalid (some v) => .bytes v (defaultOf defs v)
  | .missing none | .invalid none => .zeros
  | .lost => .poison

/-- A pooled data row (R378, R380): the FP32 sum or mean of a bag's rows; `n` draws the order of the sum. -/
def bagRow (dfmt pool : Nat) (size : Nat) (l : List (Ix × RowGot)) (n : Nat) : List Byte :=
  let terms := l.filter fun x => match x.1 with | .missing _ => false | _ => true
  let vs := terms.filterMap fun x => match x.2 with | .bytes v b => some (v, elemF32 v b) | _ => none
  match vs.head? with
  | none => List.replicate size 0
  | some (v0, _) =>
    let dim := (vs.map fun x => x.2.length).foldl max 0
    let sum := fun k => fSum (shuffle 256 n (vs.filterMap fun x => x.2[k]?))
    let out := (List.range dim).map fun k => if pool = 2 then fDiv (sum k) (fOfNat terms.length) else sum k
    if dfmt = 2 then
      let (b, sc, _) := encodeRow v0 out n
      b ++ leBytes 4 sc ++ List.replicate 12 0
    else denseBytes dfmt out

/-- The versions whose default records a gather reads (R378). -/
def defVers (ixs : List Ix) : List EmbVer :=
  (ixs.filterMap fun i => match i with
    | .missing (some v) | .invalid (some v) => if v.defVa = 0 then none else some v
    | _ => none).eraseDups

/-- The versions that a job has bound. -/
def boundVers (s : State) (j : Job) (d : EmbD) : List EmbVer :=
  (j.bound.zip (List.range j.bound.length)).filterMap fun x => x.1.bind fun n => verOf s (ringCtx j.ring) (d.table + x.2) n

/-- Bytes of a gather's output row `k`; `size` is the largest of its tables. -/
def outSize (d : EmbD) (ixs : List Ix) (size k : Nat) : Nat :=
  if d.pool ≠ 0 then size else
    match ixs.getD k .lost with
    | .row v _ | .missing (some v) | .invalid (some v) => dataBytes d.dfmt v
    | _ => size

/-- The rows and default records that a gather reads, and the rows that it writes. -/
def gatherIns (s : State) (ixs : List Ix) : List Range :=
  (uniqueRows ixs).map (fun x => (⟨recordVa s x.1 x.2, x.1.rowBytes + 16, .rd⟩ : Range)) ++
  (defVers ixs).map fun v => (⟨v.defVa, v.rowBytes + 16, .rd⟩ : Range)
def gatherOuts (s : State) (j : Job) (ixs : List Ix) : List Range :=
  let d := embOf j.words
  (List.range d.outRows).map fun k => ⟨d.dataVa + k * d.stride, outSize d ixs (dataMax d.dfmt (boundVers s j d)) k, .wr⟩

/-- The look-ups of a gather that reads and writes nothing unready: output rows in order, a row that depends on poison spoiled (R378 to R380). -/
def gatherLand (s : State) (j : Job) (w : View) (ixs : List Ix) (p : Nat) : State :=
  let c := ringCtx j.ring
  let d := embOf j.words
  let us := uniqueRows ixs
  let sizeAt := outSize d ixs (dataMax d.dfmt (boundVers s j d))
  let (recs, s) := us.foldl (fun (a : List ((EmbVer × Nat) × List Byte × Bool) × State) x =>
    let va := recordVa a.2 x.1 x.2
    let bad := poisonVa a.2 c va (x.1.rowBytes + 16)
    let (b, s) := readVa a.2 c va (x.1.rowBytes + 16)
    ((x, b, bad) :: a.1, s)) ([], s)
  let (defs, s) := (defVers ixs).foldl (fun (a : List (EmbVer × List Byte) × State) v =>
    let (b, s) := readVa a.2 c v.defVa (v.rowBytes + 16)
    ((v, b) :: a.1, s)) ([], s)
  let (n, s) := takeMany s d.outRows
  let got := ixs.map fun i => (i, gotOf recs defs i)
  let cell := fun k => if d.pool = 0 then (got.drop k).take 1 else (got.drop (k * d.bag)).take d.bag
  let isBad := fun l : List (Ix × RowGot) => l.any fun x => x.2 = .poison
  let out := fun k => if d.pool = 0 then (match cell k with
      | [(_, .bytes v b)] => rowOut d.dfmt v b
      | _ => List.replicate (sizeAt k) 0)
    else bagRow d.dfmt d.pool (sizeAt k) (cell k) (n + k * 2 ^ 21)
  let s := (List.range d.outRows).foldl (fun s k =>
    if isBad (cell k) then spoilVa s c (d.dataVa + k * d.stride) (sizeAt k)
    else writeVa s c (d.dataVa + k * d.stride) (out k) (some w)) s
  let s := countIxs (countServed s j us) j ixs us.length p
  if isBad got then embEnd s j .poison else embEnd s j .ok (ixDetail ixs)

/-- EMB_GATHER at work. -/
def gatherGo (s : State) (j : Job) : State :=
  let d := embOf j.words
  let u := j.unit
  let e := u % 4
  let ir : Range := ⟨d.idxVa, d.count * d.idxWidth, .rd⟩
  let (j, s) := startJob s j e [ir]
  let w := jobView s j e
  if acquiring s j e then s
  else
    match prepare s j u [ir] (some w) with
    | (false, s) => s
    | (true, s) =>
      let (ixs, s) := readIxs s j d w
      match prepare s j u (gatherIns s ixs) with
      | (false, s) => s
      | (true, s) =>
        match prepare s j u (gatherOuts s j ixs) (some w) with
        | (false, s) => s
        | (true, s) =>
          match partitions d (uniqueRows ixs) with
          | none => embEnd s j .capacity
          | some p => gatherLand s j w ixs p

/-- EMB_GATHER. -/
def execEmbGather (d : Desc) (s : State) : Ans := embRow 0x32 d gatherGo s

/-! ### Descriptors that write rows (R381 to R389, R391, R392) -/

/-- One unique row of a job: its occurrences by index position. -/
structure Reduced where
  v : EmbVer
  row : Nat
  occ : List Nat
deriving DecidableEq, Repr

/-- The reduced entries of a job. -/
def reduceIxs (ixs : List Ix) : List Reduced :=
  let l := ixs.zip (List.range ixs.length)
  (uniqueRows ixs).map fun x => ⟨x.1, x.2, l.filterMap fun y => if y.1.id? = some x then some y.2 else none⟩

/-- Accumulate the data rows of an entry in FP32, in an order that the device chooses (R383). -/
def accumulate (dim : Nat) (rows : List (List Nat)) (n : Nat) : List Nat :=
  let rows := if rows.length ≤ 2 then rows else shuffle rows.length n rows
  (List.range dim).map fun k => fSum (rows.map fun r => r.getD k 0)

/-- The header of a logged or staged entry (R389, R393): row, table offset and count. -/
def entryHead (tab : Nat) (r : Reduced) : List Byte :=
  leBytes 4 r.row ++ leBytes 4 (r.v.table - tab) ++ leBytes 4 r.occ.length ++ leBytes 4 0

/-- A record with new elements, SCALE, ACC, SEQ and state. -/
def buildRecord (v : EmbVer) (old elems : List Byte) (scale acc seq : Nat) (st : List Byte) : List Byte :=
  elems ++ leBytes 4 scale ++ leBytes 4 acc ++ leBytes 8 seq ++ st ++ old.drop (v.rowBytes + 16 + st.length)

/-- The parameters of an optimiser block (R391). -/
structure OptB where
  lr : Nat
  b1 : Nat
  b2 : Nat
  eps : Nat
  wd : Nat
  bc1 : Nat
  bc2 : Nat
  mean : Bool
  nest : Bool
deriving DecidableEq, Repr

/-- Read an optimiser block. -/
def optOf (b : List Byte) : OptB :=
  let f := fun i => leVal ((b.drop i).take 4)
  { lr := f 0, b1 := f 4, b2 := f 8, eps := f 12, wd := f 16, bc1 := f 20, bc2 := f 24, mean := bits (f 28) 0 1 == 1,
    nest := bits (f 28) 1 1 == 1 }

/-- The reserved fields of an optimiser block are zero. -/
def optBlockOk (b : List Byte) : Bool := leVal (b.drop 28) / 4 == 0

/-- State elements of a record, as FP32. -/
def stateF32 (v : EmbVer) (old : List Byte) (k : Nat) : Nat :=
  let w := v.stWidth
  let x := leVal ((old.drop (v.rowBytes + 16 + k * w)).take w)
  if v.sfmt = 0 then x else fmt32.round (fmtBf16.value x)

/-- State elements rounded to SFMT. -/
def stateOut (v : EmbVer) (l : List Nat) : List Byte :=
  l.flatMap fun x => leBytes v.stWidth (if v.sfmt = 0 then x else fmtBf16.round (fmt32.value x))

/-- One optimiser step on a row (R392): new elements in FP32, new ACC and new state. `n` draws the order of the sum of squares. -/
def optStep (o : OptB) (v : EmbVer) (old : List Byte) (w g : List Nat) (n : Nat) : List Nat × Nat × List Byte :=
  let acc := leVal ((old.drop (v.rowBytes + 4)).take 4)
  let ix := List.range v.dim
  let wk := fun k => w.getD k 0
  let gk := fun k => g.getD k 0
  let decay := fun k u => fSub (wk k) (fMul o.lr (fAdd u (fMul o.wd (wk k))))
  match v.opt with
  | 0 => (ix.map fun k => decay k (gk k), acc, [])
  | 1 =>
    let m := ix.map fun k => fAdd (fMul o.b1 (stateF32 v old k)) (gk k)
    (ix.map fun k => decay k (if o.nest then fAdd (gk k) (fMul o.b1 (m.getD k 0)) else m.getD k 0), acc, stateOut v m)
  | 2 =>
    let sq := shuffle v.dim n (ix.map fun k => fMul (gk k) (gk k))
    let a := fAdd acc (fDiv (fSum sq) (fOfNat v.dim))
    (ix.map fun k => fSub (wk k) (fDiv (fMul o.lr (gk k)) (fAdd (fSqrt a) o.eps)), a, [])
  | _ =>
    let m := ix.map fun k => fAdd (fMul o.b1 (stateF32 v old k)) (fMul (fSub fOne o.b1) (gk k))
    let q := ix.map fun k => fAdd (fMul o.b2 (stateF32 v old (v.dim + k))) (fMul (fSub fOne o.b2) (fMul (gk k) (gk k)))
    let u := fun k => fDiv (fMul (m.getD k 0) o.bc1) (fAdd (fSqrt (fMul (q.getD k 0) o.bc2)) o.eps)
    (ix.map fun k => decay k (u k), acc, stateOut v (m ++ q))

/-- Pin a row whose occurrences reach PIN_COUNT (R385); over the limit the oldest pin of the sector ends. -/
def pinRow (s : State) (r : Reduced) : State :=
  if r.occ.length < 2 ^ s.get F.EMB_CTRL_PIN_LOG2 then s
  else
    let id := rowId r.v r.row
    let n := vaHome s r.v.ctx (recordVa s r.v r.row)
    let l := (s.emb.pins.filter fun p => p.row ≠ id) ++ [⟨id, n, r.v.stride, s.now⟩]
    let lim := s.get F.EMB_TIMING_PIN_MIB * 1048576
    { s with emb := { s.emb with pins := trim lim n l.length l } }
where
  /-- Drop the oldest pins of sector `n` until its pins fit. -/
  trim (lim n : Nat) : Nat → List RowPin → List RowPin
    | 0, l => l
    | k + 1, l =>
      if ((l.filter fun p => p.sector = n).map (·.bytes)).sum ≤ lim then l
      else
        match l.find? fun p => p.sector = n with
        | some x => trim lim n k (l.erase x)
        | none => l

/-- Write a changed record at its home engine (R383, R388, R389). -/
def putRecord (s : State) (j : Job) (r : Reduced) (b : List Byte) (nonfinite : Bool) : State :=
  let c := ringCtx j.ring
  let e := rowEngine s r.v r.row
  let s := writeVa s c (recordVa s r.v r.row) b
  let s := s.bump (F.EMB_E_STATS_ROW_RMW e)
  let s := if nonfinite then s.bumpSat (F.EMB_E_STATS_NONFINITE e) else s
  pinRow s r

/-- The data rows of a job, each with its poison. -/
def readData (s : State) (j : Job) (d : EmbD) (w : View) (rs : List Reduced) : List (Nat × List Byte × Bool) × State :=
  rs.foldl (fun (a : List (Nat × List Byte × Bool) × State) r =>
    r.occ.foldl (fun (a : List (Nat × List Byte × Bool) × State) k =>
      let va := d.dataVa + k * d.stride
      let n := dataBytes d.dfmt r.v
      let bad := poisonVa a.2 (ringCtx j.ring) va n (some w)
      let (b, s) := readVa a.2 (ringCtx j.ring) va n .rd (some w)
      ((k, b, bad) :: a.1, s)) a) ([], s)

/-- What a descriptor does to one row: new elements in FP32 or RAW bytes with SCALE, ACC and state. -/
def rowChange (op : Nat) (d : EmbD) (o : OptB) (r : Reduced) (old : List Byte) (rows : List (List Byte)) (seq n : Nat) :
    List Byte × Bool :=
  let v := r.v
  let acc := leVal ((old.drop (v.rowBytes + 4)).take 4)
  let last := rows.getLast?.getD []
  if op = 0x33 ∧ d.dfmt = 2 then
    (buildRecord v old (last.take v.rowBytes) (leVal ((last.drop v.rowBytes).take 4)) acc seq [], false)
  else if op = 0x33 then
    let (b, sc, bad) := encodeRow v (dataF32 d.dfmt v last) n
    (buildRecord v old b sc acc seq [], bad)
  else
    let g := accumulate v.dim (rows.map (dataF32 d.dfmt v)) n
    let w := elemF32 v old
    if op = 0x34 then
      let (b, sc, bad) := encodeRow v ((List.range v.dim).map fun k => fAdd (w.getD k 0) (g.getD k 0)) n
      (buildRecord v old b sc acc seq [], bad)
    else
      let g := if o.mean then g.map fun x => fDiv x (fOfNat rows.length) else g
      let (nw, a, st) := optStep o v old w g (n + 2 ^ 20)
      let (b, sc, bad) := encodeRow v nw n
      (buildRecord v old b sc a seq st, bad)

/-- The accumulated data of a logged entry (R389): FP32, or a scatter's last data row. -/
def entryData (op : Nat) (d : EmbD) (r : Reduced) (rows : List (List Byte)) (n : Nat) : List Byte :=
  if op = 0x33 then (if d.dfmt = 2 then rows.getLast?.getD [] else (dataF32 d.dfmt r.v (rows.getLast?.getD [])).flatMap (leBytes 4))
  else (accumulate r.v.dim (rows.map (dataF32 d.dfmt r.v)) n).flatMap (leBytes 4)

/-- The writes of EMB_SCATTER, EMB_SCATTER_ADD and EMB_UPDATE, every row being ready: the data rows are read, the operation is logged, and
each row takes its change. -/
def writeRowsLand (op : Nat) (s : State) (j : Job) (w : View) (ixs : List Ix) (ob : List Byte) (auxBad : Bool) (p : Nat) : State :=
  let c := ringCtx j.ring
  let d := embOf j.words
  let u := j.unit
  let rs := reduceIxs ixs
  let (dat, s) := readData s j d w rs
  let rowsOf := fun r : Reduced => r.occ.filterMap fun k => (dat.find? fun x => x.1 = k).map (·.2.1)
  let badOf := fun r : Reduced => auxBad || (if op = 0x33 then r.occ.drop (r.occ.length - 1) else r.occ).any fun k =>
    (dat.find? fun x => x.1 = k).any (·.2.2)
  let (n, s) := takeMany s rs.length
  let seq := logNext s c
  let ord := rs.zip (List.range rs.length)
  let body := ord.flatMap fun x => entryHead d.table x.1 ++ entryData op d x.1 (rowsOf x.1) (n + x.2 * 2 ^ 21)
  onLog (logWrite s 2 u c j.ring j.idx (leBytes 64 (descVal j.words) ++ ob ++ body))
    (fun s => putJob s { j with st := .waiting }) (embEnd s j .capacity) fun s =>
    let o := optOf ob
    let (s, bad) := ord.foldl (fun (a : State × Bool) x =>
      let r := x.1
      let va := recordVa a.1 r.v r.row
      if poisonVa a.1 c va r.v.stride then (a.1, true)
      else if badOf r then (spoilVa a.1 c va r.v.stride, true)
      else
        let (old, s) := readVa a.1 c va r.v.stride .rdwr
        let (b, nf) := rowChange op d o r old (rowsOf r) seq (n + x.2 * 2 ^ 21)
        (putRecord s j r b nf, a.2)) (s, ixs.contains .lost)
    let s := countIxs (countServed s j (rs.map fun r => (r.v, r.row))) j ixs rs.length p
    if bad then embEnd s j .poison else embEnd s j .ok (ixDetail ixs)

/-- The records that a job changes, and the data rows that it reads. -/
def recordRanges (s : State) (rs : List Reduced) : List Range := rs.map fun r => ⟨recordVa s r.v r.row, r.v.stride, .rdwr⟩
def dataRanges (d : EmbD) (rs : List Reduced) : List Range :=
  rs.flatMap fun r => r.occ.map fun k => ⟨d.dataVa + k * d.stride, dataBytes d.dfmt r.v, .rd⟩

/-- EMB_SCATTER, EMB_SCATTER_ADD and EMB_UPDATE at work: nothing is written before every row is ready and the log has the entries. -/
def writeRowsGo (op : Nat) (s : State) (j : Job) : State :=
  let c := ringCtx j.ring
  let d := embOf j.words
  let u := j.unit
  let e := u % 4
  let ir : Range := ⟨d.idxVa, d.count * d.idxWidth, .rd⟩
  let ar : List Range := if op = 0x35 then [⟨d.auxVa, 64, .rd⟩] else []
  let (j, s) := startJob s j e (ir :: ar)
  let w := jobView s j e
  if acquiring s j e then s
  else
    match prepare s j u (ir :: ar) (some w) with
    | (false, s) => s
    | (true, s) =>
      let (ixs, s) := readIxs s j d w
      let auxBad := op = 0x35 ∧ poisonVa s c d.auxVa 64 (some w)
      let (ob, s) := if op = 0x35 then readVa s c d.auxVa 64 .rd (some w) else ([], s)
      let rs := reduceIxs ixs
      if op = 0x35 ∧ !auxBad ∧ !optBlockOk ob then embEnd s j .malformed
      else if rs.any fun r => rowLocked s r.v r.row then putJob s { j with st := .waiting }
      else
        match prepare s j u (recordRanges s rs) with
        | (false, s) => s
        | (true, s) =>
          match prepare s j u (dataRanges d rs) (some w) with
          | (false, s) => s
          | (true, s) =>
            match partitions d (rs.map fun r => (r.v, r.row)) with
            | none => embEnd s j .capacity
            | some p =>
              writeRowsLand op s j w ixs ob auxBad p

/-- EMB_SCATTER. -/
def execEmbScatter (d : Desc) (s : State) : Ans := embRow 0x33 d (writeRowsGo 0x33) s
/-- EMB_SCATTER_ADD. -/
def execEmbScatterAdd (d : Desc) (s : State) : Ans := embRow 0x34 d (writeRowsGo 0x34) s
/-- EMB_UPDATE. -/
def execEmbUpdate (d : Desc) (s : State) : Ans := embRow 0x35 d (writeRowsGo 0x35) s

/-! ### Hooks (R393 to R397) -/

/-- Bytes of a staging entry (R393). -/
def entryBytes (v : EmbVer) : Nat := ceilDiv (16 + v.stride + v.dim * 4) 64 * 64

/-- The free hook numbers. -/
def freeHooks (s : State) : List Nat := (List.range 16).filter fun i => !s.emb.hooks.any fun h => h.id = i && h.live

/-- The staging of a hook whose rows are ready: its entries in an order that the device chooses, and the hook with its locks (R393 to R395). -/
def hookOpenLand (s : State) (j : Job) (w : View) (ixs : List Ix) : State :=
  let c := ringCtx j.ring
  let d := embOf j.words
  let rs := reduceIxs ixs
  let eb := match rs.head? with | some r => entryBytes r.v | none => 64
  let (dat, s) := readData s j d w rs
  let (n, s) := takeMany s (rs.length + 1)
  let rs := shuffle rs.length (n + rs.length * 2 ^ 21) rs
  let (k, s) := s.takeFree
  let fs := freeHooks s
  let id := fs.getD (k % max fs.length 1) 0
  let s := writeVa s c d.auxVa (leBytes 8 (rs.length + eb * 2 ^ 32) ++ List.replicate 56 0) (some w)
  let (s, bad) := (rs.zip (List.range rs.length)).foldl (fun (a : State × Bool) x =>
    let r := x.1
    let va := recordVa a.1 r.v r.row
    let dst := d.auxVa + 64 + x.2 * eb
    let rows := r.occ.filterMap fun k => (dat.find? fun y => y.1 = k).map (·.2.1)
    if poisonVa a.1 c va r.v.stride || r.occ.any (fun k => (dat.find? fun y => y.1 = k).any (·.2.2)) then
      (spoilVa a.1 c dst eb, true)
    else
      let (old, s) := readVa a.1 c va r.v.stride .rdwr
      let g := accumulate r.v.dim (rows.map (dataF32 d.dfmt r.v)) (n + x.2 * 2 ^ 21)
      (writeVa s c dst (padTo eb (entryHead d.table r ++ old ++ g.flatMap (leBytes 4))) (some w), a.2))
    (s, ixs.contains .lost)
  let h : Hook := { id := id, ctx := c, table := d.table, ver := ((j.bound.head?).join).getD 0,
                    rows := rs.map fun r => (r.v.table, r.v.ver, r.row), since := s.now }
  let s := { s with emb := { s.emb with hooks := (s.emb.hooks.filter fun x => x.id ≠ id) ++ [h] } }
  let s := countIxs (countServed s j (rs.map fun r => (r.v, r.row))) j ixs rs.length 1
  if bad then embEnd s j .poison else embEnd s j .ok (id + rs.length * 16)

/-- EMB_HOOK_OPEN at work (R393 to R395). -/
def hookOpenGo (s : State) (j : Job) : State :=
  let d := embOf j.words
  let u := j.unit
  let e := u % 4
  let ir : Range := ⟨d.idxVa, d.count * d.idxWidth, .rd⟩
  let (j, s) := startJob s j e [ir]
  let w := jobView s j e
  if acquiring s j e then s
  else
    match prepare s j u [ir] (some w) with
    | (false, s) => s
    | (true, s) =>
      let (ixs, s) := readIxs s j d w
      let rs := reduceIxs ixs
      let eb := match rs.head? with | some r => entryBytes r.v | none => 64
      if rs.length > 65536 ∨ d.stage < 64 + rs.length * eb ∨ (freeHooks s).isEmpty then embEnd s j .capacity
      else if rs.any fun r => rowLocked s r.v r.row then putJob s { j with st := .waiting }
      else
        match prepare s j u (recordRanges s rs) with
        | (false, s) => s
        | (true, s) =>
          match prepare s j u (dataRanges d rs ++ [⟨d.auxVa, 64 + rs.length * eb, .rdwr⟩]) (some w) with
          | (false, s) => s
          | (true, s) =>
            hookOpenLand s j w ixs

/-- EMB_HOOK_OPEN. -/
def execEmbHookOpen (d : Desc) (s : State) : Ans := embRow 0x36 d hookOpenGo s

/-- The staged entries of a commit land: they are read, logged, and every row takes its new bytes (R396, R397). -/
def hookLand (s : State) (j : Job) (id : Nat) (rows : List (EmbVer × Nat)) (eb : Nat) (w : View) : State :=
  let c := ringCtx j.ring
  let d := embOf j.words
  let u := j.unit
  let at_ := fun k => d.auxVa + 64 + k * eb
  let ks := rows.zip (List.range rows.length)
  let (st, s) := ks.foldl (fun (a : List ((EmbVer × Nat) × List Byte × Bool) × State) x =>
    let bad := poisonVa a.2 c (at_ x.2 + 16) x.1.1.stride (some w)
    let (b, s) := readVa a.2 c (at_ x.2 + 16) x.1.1.stride .rd (some w)
    (a.1 ++ [(x.1, b, bad)], s)) ([], s)
  let seq := logNext s c
  let body := st.flatMap fun x => entryHead d.table ⟨x.1.1, x.1.2, [0]⟩ ++ x.2.1
  onLog (logWrite s 2 u c j.ring j.idx (leBytes 64 (descVal j.words) ++ body))
    (fun s => putJob s { j with st := .waiting }) (embEnd s j .capacity) fun s =>
    let (s, bad) := st.foldl (fun (a : State × Bool) x =>
      let v := x.1.1
      let r : Reduced := ⟨v, x.1.2, []⟩
      if x.2.2 then (spoilVa a.1 c (recordVa a.1 v x.1.2) v.stride, true)
      else (putRecord a.1 j r (x.2.1.take (v.rowBytes + 8) ++ leBytes 8 seq ++ x.2.1.drop (v.rowBytes + 16)) false, a.2))
      (s, false)
    let s := countServed s j rows
    let s := { s with emb := { s.emb with hooks := s.emb.hooks.filter fun x => x.id ≠ id } }
    embEnd s j (if bad then .poison else .ok)

/-- EMB_HOOK_COMMIT at work (R396, R397). -/
def hookCommitGo (s : State) (j : Job) : State :=
  let c := ringCtx j.ring
  let d := embOf j.words
  let u := j.unit
  let e := u % 4
  let id := dbits j.words 20 0 4
  let ver := (j.bound.head?).join
  match s.emb.hooks.find? fun h => h.id = id && h.ctx = c && h.table = d.table && ver == some h.ver with
  | none => embEnd s j .denied
  | some h =>
    let rows := h.rows.filterMap fun x => (verOf s c x.1 x.2.1).map fun v => (v, x.2.2)
    let eb := match rows.head? with | some r => entryBytes r.1 | none => 64
    if !h.live then embEnd s j .timeout
    else if d.stage < 64 + h.rows.length * eb then embEnd s j .capacity
    else
      let sr : Range := ⟨d.auxVa, 64 + h.rows.length * eb, .rd⟩
      let (j, s) := startJob s j e [sr]
      let w := jobView s j e
      if acquiring s j e then s
      else
        match prepare s j u (rows.map fun x => ⟨recordVa s x.1 x.2, x.1.stride, .rdwr⟩) with
        | (false, s) => s
        | (true, s) =>
          match prepare s j u [sr] (some w) with
          | (false, s) => s
          | (true, s) =>
            hookLand s j id rows eb w

/-- EMB_HOOK_COMMIT. -/
def execEmbHookCommit (d : Desc) (s : State) : Ans := embRow 0x37 d hookCommitGo s

/-- HOOK_TIMEOUT (R397). -/
def execHookTimeout (t : Nat) (s : State) : Ans :=
  let s := s.upto t
  let due := fun h : Hook => h.live && decide (h.since + 1000000 * s.get F.EMB_TIMING_HOOK_MS ≤ s.now)
  .next <|
    match s.emb.hooks.find? due with
    | none => s
    | some h =>
      let f := fun x : Hook => if x = h then { x with live := false } else x
      { s with emb := { s.emb with hooks := s.emb.hooks.map f } }

/-- ROW_PIN_EXPIRY (R385): the oldest pin whose time has passed ends. -/
def execRowPinExpiry (t : Nat) (s : State) : Ans :=
  let s := s.upto t
  .next <|
    match s.emb.pins.find? fun p => p.since + 1000 * s.get F.EMB_TIMING_PIN_US ≤ s.now with
    | none => s
    | some p => { s with emb := { s.emb with pins := s.emb.pins.erase p } }

/-! ### Release and balancing (R371, R398 to R400) -/

/-- Copy a record between two places of a context's memory; none when the device cannot reach both now. -/
def copyRecord (s : State) (c src dst n : Nat) : Option State × State :=
  match barRanges s none c .none [⟨src, n, .rd⟩, ⟨dst, n, .wr⟩] with
  | (.clear, s) =>
    let (b, s) := readVa s c src n
    (some (writeVa s c dst b), s)
  | (.code _, s) => (some s, s)
  | (_, s) => (none, s)

/-- A relocated row returns to its own record; it stays while its memory cannot be reached. -/
def returnRow (s : State) (r : Reloc) : State :=
  match verOf s r.row.ctx r.row.table r.row.ver with
  | none => { s with emb := { s.emb with relocs := s.emb.relocs.erase r } }
  | some v =>
    if rowLocked s v r.row.row then s
    else
      match copyRecord s v.ctx r.slot (v.rowVa + r.row.row * v.stride) v.stride with
      | (some s, _) => { s with emb := { s.emb with relocs := s.emb.relocs.erase r } }
      | (none, s) => s

/-- Does a search descriptor hold a reference to a definition (R408)? -/
def defHeld (s : State) (x : SrchDef) : Bool :=
  s.rings.jobs.any fun j => decide (0x3A ≤ descOp j.words) && decide (descOp j.words ≤ 0x3D) && ringCtx j.ring = x.ctx &&
    dbits j.words 16 0 10 = x.index && j.bound.head? == some (some x.num)

/-- VERSION_RELEASE (R371, R408): the first retiring version, or index definition, that no descriptor holds. -/
def execVersionRelease (t : Nat) (s : State) : Ans :=
  let s := s.upto t
  .next <|
    match s.emb.vers.find? fun v => v.retiring && !verHeld s v with
    | some v =>
      let mine := fun r : Reloc => r.row.ctx = v.ctx && r.row.table = v.table && r.row.ver = v.ver
      let s := (s.emb.relocs.filter mine).foldl returnRow s
      if s.emb.relocs.any mine then s
      else
        let gone := fun x : EmbVer => x.ctx = v.ctx && x.table = v.table && x.ver = v.ver
        let s := { s with emb := { s.emb with vers := s.emb.vers.filter fun x => !gone x,
                                              pins := s.emb.pins.filter fun p => !(p.row.ctx = v.ctx && p.row.table = v.table && p.row.ver = v.ver) } }
        v.waiters.foldl (fun s w => match findJob s w.1 w.2.1 with
          | some j => if j.st = .waiting then embEnd s j .ok w.2.2 else s
          | none => s) s
    | none =>
      match s.srch.defs.find? fun x => x.retiring && !defHeld s x with
      | none => s
      | some x =>
        let s := { s with srch := { s.srch with defs := s.srch.defs.filter fun y => y ≠ x } }
        x.waiters.foldl (fun s w => match findJob s w.1 w.2 with
          | some j => if j.st = .waiting then finishJob s j .ok else s
          | none => s) s

/-- The free slots of a version's balance area in a sector (R399). -/
def freeSlots (s : State) (v : EmbVer) (n : Nat) : List Nat :=
  ((List.range v.balPages).filter fun p => vaHome s v.ctx (v.balVa + p * 2097152) = n).flatMap fun p =>
    ((List.range (2097152 / v.stride)).map fun i => v.balVa + p * 2097152 + i * v.stride).filter fun a =>
      !s.emb.relocs.any fun r => r.row.ctx = v.ctx && decide (r.slot < a + v.stride) &&
        decide (a < r.slot + (match verOf s v.ctx r.row.table r.row.ver with | some x => x.stride | none => 64))

/-- Relocate a row to a sector (R399). -/
def relocate (s : State) (r : RowId) (n : Nat) : State :=
  match verOf s r.ctx r.table r.ver with
  | none => s
  | some v =>
    if rowLocked s v r.row || s.emb.relocs.any (fun x => x.row = r) || decide ((s.emb.relocs.filter fun x => x.sector = n).length ≥ 1048576) then s
    else
      let fs := freeSlots s v n
      let (k, s) := s.takeFree
      match fs[k % max fs.length 1]? with
      | none => s
      | some a =>
        match copyRecord s v.ctx (v.rowVa + r.row * v.stride) a v.stride with
        | (some s, _) => { s with emb := { s.emb with relocs := s.emb.relocs ++ [⟨r, n, a⟩] } }
        | (none, s) => s

/-- The engine with the most, or fewest, rows served among some. -/
def engineBy (s : State) (better : Nat → Nat → Bool) (es : List Nat) : Option Nat :=
  es.foldl (fun b e => match b with
    | none => some e
    | some x => if better (tabGet 0 e s.emb.served) (tabGet 0 x s.emb.served) then some e else some x) none

/-- The hottest rows first. -/
def hottest : Nat → List (RowId × Nat) → List RowId
  | 0, _ => []
  | n + 1, l =>
    match l.foldl (fun b x => match b with
      | none => some x
      | some (y : RowId × Nat) => if x.2 > y.2 then some x else some y) none with
    | none => []
    | some x => x.1 :: hottest n (l.erase x)

/-- BALANCE_EPOCH (R398 to R400). -/
def execBalanceEpoch (t : Nat) (s : State) : Ans :=
  let s := s.upto t
  .next <|
    if s.now < s.emb.epochAt + 1000000 * s.get F.EMB_CTRL_BAL_EPOCH_MS then s
    else
      let n := fun e => tabGet 0 e s.emb.served
      let s := (List.range 4).foldl (fun s e => s.set (F.EMB_E_LOAD_LAST_EPOCH e) (min (n e) (2 ^ 32 - 1))) s
      let ok := (List.range 4).filter fun e => s.get (F.EMB_E_STATUS_STATE e) < 2
      let hi := engineBy s (fun a b => decide (a > b)) ok
      let lo := engineBy s (fun a b => decide (a < b)) ok
      let hot := match hi, lo with
        | some a, some b => if n a * 16 > s.get F.EMB_CTRL_BAL_RATIO * n b then some (a, b) else none
        | _, _ => none
      let back := fun r : Reloc => match verOf s r.row.ctx r.row.table r.row.ver with
        | some v => match hot with
          | some (a, _) => embServing s (vaHome s v.ctx (v.rowVa + r.row.row * v.stride)) != a
          | none => true
        | none => true
      let s := (s.emb.relocs.filter back).foldl returnRow s
      let s := match hot with
        | some (a, b) =>
          if s.flag F.EMB_CTRL_BAL_EN then
            let mine := s.emb.hot.filter fun (h : RowId × Nat) => match verOf s h.1.ctx h.1.table h.1.ver with
              | some v => v.balPages != 0 && rowEngine s v h.1.row = a
              | none => false
            (hottest (min (s.get F.EMB_CTRL_BAL_MAX) 4096) mine).foldl (fun s r => relocate s r b) s
          else s
        | none => s
      { s with emb := { s.emb with served := [], hot := [], epochAt := s.now } }

end Sys2Proof.Machine
end

