-- ==== Sys2Proof/Machine/Ports.lean ====
section
/-! DEFINITION. The Kwazia ports: link and port states, going down and
its settlement (R469 to R497, R531, R532). -/

namespace Sys2Proof.Machine

open Sys2Proof

/-! ### Links -/

/-- Key of a link. -/
def linkKey (p l : Nat) : Nat := p * 6 + l

/-- A link beyond its registers. -/
def linkOf (s : State) (p l : Nat) : Link := tabGet {} (linkKey p l) s.ports.links

/-- Change a link beyond its registers. -/
def setLink (s : State) (p l : Nat) (f : Link → Link) : State :=
  { s with ports := { s.ports with links := tabPutD {} (linkKey p l) (f (linkOf s p l)) s.ports.links } }

/-- STATE of a link: 0 OFF, 1 LIGHT, 2 TRAINING, 3 ACTIVE, 4 HAZY, 5 FAILED, 6 RETIRED. -/
def linkSt (s : State) (p l : Nat) : Nat := s.get (F.KZP_L_STATUS_STATE p l)

/-- The link numbers of a port. -/
def sixLinks : List Nat := [0, 1, 2, 3, 4, 5]

/-- The laser module of a link (R471, R472), as port × 2 or port × 2 + 1. -/
def laserOf (p l : Nat) : Nat := 2 * p + l / 3

/-- Is the laser module READY? -/
def laserReady (s : State) (m : Nat) : Bool := s.get (F.KZP_OE_STATUS_LSM_STATE (m / 2) (m % 2)) == 2

/-- Does the port hold a CURRENT key (R612, R614)? The CXL personality needs none. -/
def portKeyed (s : State) (p : Nat) : Bool := cxlPort s p || tabHas p s.sec.portCur

/-- Links of the port in its link set. -/
def linkSetSize (s : State) (p : Nat) : Nat := (sixLinks.filter fun l => bits (s.get (F.KZP_STATUS_LINK_SET p)) l 1 = 1).length

/-- May the port leave DOWN at all: no tamper response (R584), EXPEL (R556), thermal trip (R682) or loss of supply? -/
def portsMayRun (s : State) : Bool :=
  !s.flag F.SEC_TAMPER_STATUS_TAMPERED && !s.flag F.CMP_STATUS_EXPELLED && !s.clk.trip && !s.clk.off

/-- The class stores take the sizes that were accepted (R533). -/
def takeLimits (s : State) (p : Nat) : State :=
  let put := fun (c : Nat) (f : Fld) (t : Tab Nat) => tabPut (p * 4 + c) (s.get f) t
  let t := put 2 (F.SCH_K_LIMITS_C2_KIB p) (put 3 (F.SCH_K_LIMITS_C3_KIB p) s.sched.limits)
  { s with sched := { s.sched with limits := put 0 (F.SCH_K_LIMITS_C0_KIB p) (put 1 (F.SCH_K_LIMITS_C1_KIB p) t) } }

/-- LINKING to INIT once enough links are ACTIVE with keys, else REASON 7 while only keys are missing (R494, R615). -/
def tryInit (s : State) (p : Nat) : State :=
  if s.get (F.KZP_STATUS_STATE p) ≠ 1 ∨ linkSetSize s p < s.get (F.KZP_CTRL_MIN_LINKS p) then s
  else if portKeyed s p then s.set (F.KZP_STATUS_STATE p) 2
  else s.set (F.KZP_STATUS_REASON p) 7

/-- DOWN to LINKING (R494, R498, R532, R533, R656). -/
def tryLinking (s : State) (p : Nat) : State :=
  if s.get (F.KZP_STATUS_STATE p) ≠ 0 ∨ !s.flag (F.KZP_CTRL_EN p) ∨ s.flag (F.SCH_K_STATUS_FLUSHING p) ∨ !portsMayRun s
      ∨ s.comp.retired.contains (.port, p) ∨ !portClocked s p ∨ sixLinks.all (fun l => linkSt s p l = 0) then s
  else
    let s := setPort (takeLimits s p) p fun x => { x with cxl := s.flag (F.KZP_CTRL_PERSONALITY p) }
    tryInit (s.set (F.KZP_STATUS_STATE p) 1) p

/-- A laser module has become READY, or its port enabled: a link in OFF goes to LIGHT (R491). Links L4 and L5 stay OFF under the CXL
personality (R498). -/
def lightLink (s : State) (p l : Nat) : State :=
  if linkSt s p l = 0 && laserReady s (laserOf p l) && s.flag (F.KZP_CTRL_EN p) && portClocked s p &&
      !(s.flag (F.KZP_CTRL_PERSONALITY p) && decide (4 ≤ l)) then s.set (F.KZP_L_STATUS_STATE p l) 1 else s

/-- Light every link of a port, and let it link. -/
def lightPort (s : State) (p : Nat) : State := tryLinking (sixLinks.foldl (fun s l => lightLink s p l) s) p

/-! ### Settlement of a port that goes down (R531) -/

/-- A flight that the settlement removes. -/
def flightDrops (s : State) (f : Flight) : Bool :=
  match f.stage with
  | .txn => false
  | .anvil id => (match entryOf s id with
      | some e => e.atomic && !e.closed
      | none => true)
  | _ => true

/-- Remove joiners of a port from the entries, the next joiner becoming the opener of an entry whose opener has gone; an atomic entry with
no joiner left ends. -/
def pruneEntry (p : Nat) (s : State) (e : Entry) : State :=
  let gone := fun j : Nat × Nat => j.1 = p && (flightOf s p j.2).isNone
  let js := e.joiners.filter fun j => !gone j
  if js.length = e.joiners.length then s
  else
    let s := putEntry s { e with joiners := js }
    if s.fab.flights.any fun f => f.entry = some e.id then s
    else
      match js with
      | [] => dropEntry s e.id
      | j :: _ => (match flightOf s j.1 j.2 with | some f => putFlight s { f with entry := some e.id } | none => s)

/-- A device-initiated request of a port that has gone down ends with PORT_LOST: the descriptor whose work it is does (R531). -/
def outLost (s : State) (o : OutReq) : State :=
  match o.job with
  | some x => (match findJob s x.1 x.2 with
      | some j => if j.st = .finished then (if j.code = .ok then putJob s { j with code := .portLost } else s) else finishJob s j .portLost
      | none => s)
  | none => s

/-- Drop every precise sharer on a port (R202); owners stay for R195. -/
def dropPortSharers (s : State) (p : Nat) : State :=
  let cut := fun e : Nat × DirE =>
    match e.2.st with
    | .owned => some e
    | .shared => let l := e.2.shr.filter (fun x => x.1 != p); if l.isEmpty then none else some (e.1, { e.2 with shr := l })
    | .mask => let l := e.2.mask.filter (fun x => x != p); if l.isEmpty then none else some (e.1, { e.2 with mask := l })
  { s with dir := { s.dir with ents := s.dir.ents.filterMap cut } }

/-- The settlement of R531. -/
def settlePort (s : State) (p : Nat) : State :=
  let mine := s.fab.flights.filter fun f => f.req.port.val = p && flightDrops s f
  let s := mine.foldl (fun s f => dropFlight (dropWaiter s (.flight p f.req.tag.val)) f) s
  let s := s.fab.entries.foldl (pruneEntry p) s
  let s := { s with fab := { s.fab with failed := s.fab.failed.filter fun x => x.port ≠ p },
                    dir := { s.dir with rsvs := s.dir.rsvs.filter fun r => r.port ≠ p } }
  let s := dropPortSharers s p
  let outs := s.fab.outReqs.filter fun o => o.port = p
  let s := { s with fab := { s.fab with outReqs := s.fab.outReqs.filter fun o => o.port ≠ p } }
  let s := outs.foldl outLost s
  let s := (s.rings.qcs.filter fun e => e.2.path = p).foldl (fun s e => enterDraining s e.1 true) s
  wake { s with sched := { s.sched with egress := tabDel p s.sched.egress } }

/-- CURRENT and every link key are discarded, and NEXT becomes CURRENT (R615). -/
def turnKeys (s : State) (p : Nat) : State :=
  let s := { s with sec := { s.sec with
    portCur := match tabGet? p s.sec.portNext with | some k => tabPut p k s.sec.portCur | none => tabDel p s.sec.portCur,
    portNext := tabDel p s.sec.portNext } }
  let fresh := fun x : Link => { x with rxCtr := 0, rxSlot := false, rxGen := 0, txSlot := false, txGen := 0 }
  let s := sixLinks.foldl (fun s l => (setLink s p l fresh).set (F.KZP_L_STATUS_TX_COUNTER_HI p l) 0) s
  s.set (F.KZP_CRYPTO_KEY_WAIT p) 0

/-- A port enters DOWN (R494, R496, R531, R615); `send`: DOWN is sent for 10 µs. -/
def goDown (s : State) (p reason : Nat) (send : Bool) : State :=
  if s.get (F.KZP_STATUS_STATE p) = 0 then s
  else
    let s := (s.set (F.KZP_STATUS_STATE p) 0).set (F.KZP_STATUS_REASON p) reason
    let s := setPort s p fun x => { x with notice := if send then some s.now else none, early := [], msn0 := 0, msn1 := 0 }
    let s := if send then s.emit (.control p 6 "DOWN" reason) else s
    let s := (s.setFlag (F.KZP_CXL_STATUS_LINK_UP p) false).setFlag (F.KZP_CXL_STATUS_MEM_EN p) false
    settlePort (turnKeys (s.setFlag (F.SCH_K_STATUS_FLUSHING p) true) p) p

/-- A condition of R496 that the port's own state shows: too few links, disabled, or withdrawn by the map. -/
def downReason (s : State) (p : Nat) : Option Nat :=
  if !s.flag (F.KZP_CTRL_EN p) then some 1
  else if s.flag F.CMP_STATUS_EXPELLED ∨ !tabHas p s.comp.map.ports then some 12
  else if linkSetSize s p < s.get (F.KZP_CTRL_MIN_LINKS p) then some 2
  else none

/-! ### Link sets -/

/-- A link leaves the link set: its unacknowledged messages go to the others (R481), and a port left with fewer than MIN_LINKS goes
DOWN (R496). -/
def leaveSet (s : State) (p l : Nat) : State :=
  let f := F.KZP_STATUS_LINK_SET p
  if bits (s.get f) l 1 = 0 then s
  else
    let s := (s.set f (s.get f - 2 ^ l)).emit (.control p l "MOVE" (linkOf s p l).acked)
    if s.get (F.KZP_STATUS_STATE p) = 3 ∧ linkSetSize s p < s.get (F.KZP_CTRL_MIN_LINKS p) then goDown s p 2 true else s

/-- A link joins the link set; four trained links L0 to L3 bring the CXL link up (R498). -/
def joinSet (s : State) (p l : Nat) : State :=
  let f := F.KZP_STATUS_LINK_SET p
  let s := if bits (s.get f) l 1 = 1 then s else s.set f (s.get f + 2 ^ l)
  let s := if cxlPort s p ∧ (List.range 4).all (fun i => linkSt s p i = 3) then s.setFlag (F.KZP_CXL_STATUS_LINK_UP p) true else s
  tryInit s p

/-- Set a link's STATE and its HAZY bit. -/
def setLinkSt (s : State) (p l v : Nat) : State :=
  let f := F.KZP_STATUS_HAZY p
  let was := bits (s.get f) l 1
  let s := s.set f (s.get f - was * 2 ^ l + if v = 4 then 2 ^ l else 0)
  s.set (F.KZP_L_STATUS_STATE p l) v

/-- A link leaves service for a state with a reason. -/
def linkOut (s : State) (p l v reason : Nat) : State :=
  leaveSet (((setLinkSt s p l v).set (F.KZP_L_STATUS_REASON p l) reason)) p l

/-- A link starts training (R491). -/
def linkTrain (s : State) (p l reason : Nat) (retrain : Bool) : State :=
  let s := setLink s p l fun x => { x with trainAt := s.now, retrain := retrain, haze := {} }
  linkOut s p l 2 reason

/-- A fault of a link (R31, R560): the recovery retrains a link in service. -/
def linkFault (s : State) (p l cause : Nat) : State :=
  match noteFault s .link (linkKey p l) cause with
  | (.first, s) => if linkSt s p l = 3 ∨ linkSt s p l = 4 then linkTrain s p l 8 true else s
  | (.second, s) => linkOut s p l 5 8
  | (.joined, s) => s

/-- A laser module goes to FAILED (R474): its links go to OFF, each recorded as a fault of its link. -/
def laserFail (s : State) (m : Nat) : State :=
  let p := m / 2
  let s := s.set (F.KZP_OE_STATUS_LSM_STATE p (m % 2)) 3
  let s := (s.set (F.KZP_OE_STATUS_LSM_REASON p (m % 2)) 11).set (F.KZP_OE_STATUS_STATE p (m % 2)) 0
  let s := { s with ports := { s.ports with lasers := setDel m s.ports.lasers } }
  let s := s.emit (.pin "LSM_OUTPUTS" false)
  ((span (m % 2 * 3) 3).filter fun l => linkSt s p l ≠ 0).foldl (fun s l => linkFault (linkOut s p l 0 11) p l 6) s

/-- Write EN of a port (R491, R494). -/
def enablePort (s : State) (p : Nat) (en : Bool) : State :=
  let s := s.setFlag (F.KZP_CTRL_EN p) en
  let s := { s with comp := { s.comp with retired := s.comp.retired.filter fun x => x != (DomType.port, p) } }
  if en then lightPort s p
  else
    let s := goDown s p 1 true
    sixLinks.foldl (fun s l => if linkSt s p l = 0 then s else linkOut s p l 0 1) s

/-- RETIRE of a link written (R491). -/
def retireLink (s : State) (p l : Nat) : State :=
  let s := s.setFlag (F.KZP_L_CTRL_RETIRE p l) true
  if linkSt s p l = 6 then s else linkOut s p l 6 1

/-- RETURN of a link written (R491). -/
def returnLink (s : State) (p l : Nat) : State :=
  if linkSt s p l = 5 ∨ linkSt s p l = 6 then
    let s := { s with comp := { s.comp with retired := s.comp.retired.filter fun x => x != (DomType.link, linkKey p l) } }
    tryLinking ((s.setFlag (F.KZP_L_CTRL_RETIRE p l) false).set (F.KZP_L_STATUS_STATE p l) 1) p
  else s

/-- RETRAIN of a link written: a ×2 link tries ×4 again (R491, R492). -/
def retrainLink (s : State) (p l : Nat) : State :=
  if linkSt s p l = 3 ∨ linkSt s p l = 4 then
    linkTrain ((s.set (F.KZP_L_STATUS_WIDTH p l) 0).set (F.KZP_L_STATUS_LANES_OK p l) 0) p l 1 true
  else s

end Sys2Proof.Machine
end

