-- ==== Sys2Proof/Machine/Links.lean ====
section
/-! DEFINITION. The meanings of the commands of the Kwazia ports (spec/12): laser modules, flits, crypto frames, link and port states, and
the CXL 3.2 personality. -/

namespace Sys2Proof.Machine

open Sys2Proof

/-! ### Laser modules (R473, R474, R720) -/

/-- Is a module accepted under R473? -/
def cmisOk (x : Cmis) : Bool := x.readable && x.source1311 && decide (12 ≤ x.outputs) && decide (100 ≤ x.milliwatts)

/-- LSM_PRESENT (R473): the module is read, and accepted or refused with REASON 11. -/
def execLsmPresent (m : Fin 12) (x : Cmis) (t : Nat) (s : State) : Ans :=
  let s := s.upto t
  let p := m.val / 2
  let e := m.val % 2
  .next <|
    if s.get (F.KZP_OE_STATUS_LSM_STATE p e) = 2 ∨ !portClocked s p then s
    else
      let s := s.setFlag (F.KZP_OE_STATUS_LSM_PRESENT p e) true
      let s := if x.readable then ((s.set (F.KZP_LSM_IDENT_VENDOR_OUI p e) x.oui.toNat).set (F.KZP_LSM_IDENT_CMIS_REV p e) x.rev.toNat).set
          (F.KZP_LSM_IDENT_SERIAL p e) x.serial.toNat else s
      if cmisOk x then
        let s := (s.set (F.KZP_OE_STATUS_LSM_STATE p e) 1).set (F.KZP_OE_STATUS_LSM_REASON p e) 0
        { s with ports := { s.ports with lasers := setAdd m.val s.ports.lasers } }
      else
        let s := { s with ports := { s.ports with lasers := setDel m.val s.ports.lasers } }
        (s.set (F.KZP_OE_STATUS_LSM_STATE p e) 3).set (F.KZP_OE_STATUS_LSM_REASON p e) 11

/-- LASER_MODULE_READY (R473, R491): its outputs are enabled and its engine's links go to LIGHT. -/
def execLaserModuleReady (m : Fin 12) (t : Nat) (s : State) : Ans :=
  let s := s.upto t
  let p := m.val / 2
  .next <|
    if !s.ports.lasers.contains m.val then s
    else
      let s := { s with ports := { s.ports with lasers := setDel m.val s.ports.lasers } }
      let s := ((s.set (F.KZP_OE_STATUS_LSM_STATE p (m.val % 2)) 2).set (F.KZP_OE_STATUS_STATE p (m.val % 2)) 1).emit (.pin "LSM_OUTPUTS" true)
      lightPort s p

/-- LSM_POLL (R474): an accepted module that fails, falls silent or is removed goes to FAILED; a slot left open holds nothing (R720). -/
def execLsmPoll (m : Fin 12) (x : LsmReading) (t : Nat) (s : State) : Ans :=
  let s := s.upto t
  let p := m.val / 2
  let e := m.val % 2
  .next <|
    let s := s.setFlag (F.KZP_OE_STATUS_LSM_PRESENT p e) x.present
    let st := s.get (F.KZP_OE_STATUS_LSM_STATE p e)
    if st = 1 ∨ st = 2 then
      (if x.present && x.answers && !x.alarm then s.set (F.KZP_OE_STATUS_LSM_POWER p e) x.power.toNat
       else laserFail s m.val)
    else s

/-! ### Flits (R475 to R478, R481, R483 to R485) -/

/-- CRC-64 of bytes with the ECMA-182 polynomial. PRESUMED: initial value 0, most significant bit first, no final inversion. -/
def crc64 (b : List Byte) : Nat :=
  let bit := fun c : Nat => if c / 2 ^ 63 = 1 then Nat.xor (c * 2 % 2 ^ 64) 0x42F0E1EBA9EA3693 else c * 2
  let step := fun (c : Nat) (x : Byte) => (List.range 8).foldl (fun c _ => bit c) (Nat.xor c (x.toNat * 2 ^ 56))
  b.foldl step 0

/-- The header word of a flit (R475). -/
def flitHead (b : List Byte) : Nat := leVal (b.take 8)

/-- Does the flit fail (R475, R476): its length, CRC, KIND, rsvd bits or SESSION are wrong, or a codeword it touches is uncorrectable? -/
def flitFails (s : State) (p uncorr : Nat) (b : List Byte) : Bool :=
  let h := flitHead b
  uncorr != 0 || b.length != 256 || bits h 0 2 == 3 || bits h 22 10 != 0 || bits h 48 16 != 0 ||
    bits h 32 16 != s.get (F.KZP_STATUS_SESSION p) || leVal ((b.drop 248).take 8) != crc64 (b.take 248)

/-- Does the link receive flits: is it ACTIVE or HAZY? -/
def linkOn (s : State) (p l : Nat) : Bool := linkSt s p l == 3 || linkSt s p l == 4

/-- A valid flit has come on a link (R491, R496). -/
def flitSeen (s : State) (p l : Nat) : State :=
  setPort (setLink s p l fun x => { x with flitAt := s.now }) p fun x => { x with flitAt := s.now }

/-- The FSN that a CONTROL flit acknowledges: the highest received in unbroken order. -/
def ackFsn (s : State) (p l : Nat) : Nat := ((linkOf s p l).rxNext + 4095) % 4096

/-- FLIT_RECEIVE (R475 to R478): a DATA flit in order is accepted; one that fails or skips an FSN is discarded with a NAK; one received
before is discarded. -/
def execFlitReceive (p l : Fin 6) (corr uncorr : Nat) (b : List Byte) (t : Nat) (s : State) : Ans :=
  let s := s.upto t
  let p := p.val
  let l := l.val
  .next <|
    if !linkOn s p l then s
    else
      let s := (s.bump (F.KZP_L_ERRS_FEC_CORR p l) corr).bumpSat (F.KZP_L_ERRS_FEC_UNCORR p l) uncorr
      let h := flitHead b
      let k := linkOf s p l
      let nak := s.emit (.control p l "NAK" (ackFsn s p l))
      if flitFails s p uncorr b then (if bits h 0 2 = 1 then nak else s)
      else
        let s := flitSeen s p l
        if bits h 0 2 ≠ 1 then s
        else if bits h 2 12 = k.rxNext then
          let s := setLink s p l fun x => { x with rxNext := (x.rxNext + 1) % 4096 }
          s.emit (.control p l "ACK" (ackFsn s p l))
        else if (bits h 2 12 + 4096 - k.rxNext) % 4096 < 2048 then s.emit (.control p l "NAK" (ackFsn s p l))
        else s

/-- A frame or CONTROL flit fails its tag (R489): counted, and the third on a link within one second fails the link with an INTEGRITY
record. -/
def tagFails (s : State) (p l : Nat) : State :=
  let ts := (linkOf s p l).tagAt.filter (fun x => decide (s.now < x + 1000000000)) ++ [s.now]
  let s := setLink (s.bumpSat (F.KZP_CRYPTO_TAG_FAILS p)) p l fun x => { x with tagAt := ts }
  if ts.length < 3 then s
  else
    let s := setLink s p l fun x => { x with tagAt := [] }
    linkOut (postRas s 0x28 0xA0 (domDetail .link (linkKey p l) 3)) p l 5 10

/-- The replay that a NAK asks for (R478): every DATA flit from the first unacknowledged one; the eighth in a row from one FSN retrains
the link. -/
def replay (s : State) (p l : Nat) : State :=
  let k := linkOf s p l
  let s := (s.bumpSat (F.KZP_L_ERRS_REPLAYS p l)).emit (.control p l "REPLAY" k.acked)
  let s := setLink s p l fun x => { x with again := x.again + 1 }
  if k.again + 1 < 8 then s else linkTrain (setLink s p l fun x => { x with again := 0 }) p l 9 true

/-- Credits returned, 16 bits per class (R483, R484). -/
def addCredits (old : List Nat) (w : Nat) : List Nat := (List.range 4).map fun c => old.getD c 0 + bits w (16 * c) 16

/-- CONTROL_FLIT (R483 to R485, R488, R496). Without an installed key it may carry only training, key-exchange and initialisation
content. -/
def execControlFlit (p l : Fin 6) (x : CtlFlit) (t : Nat) (s : State) : Ans :=
  let s := s.upto t
  let p := p.val
  let l := l.val
  .next <|
    if !linkOn s p l then s
    else if !portKeyed s p then flitSeen s p l
    else if !x.tagOk then tagFails s p l
    else
      let s := flitSeen s p l
      let next := (x.ack.val + 1) % 4096
      let s := setLink s p l fun k => if k.acked = next then k else { k with acked := next, again := 0 }
      let s := if x.mark then setLink s p l fun k => { k with marks := x.markCount.toNat } else s
      let s := setPort s p fun q => { q with credits := addCredits q.credits x.credits.toNat }
      let s := if x.nak then replay s p l else s
      if x.down && s.get (F.KZP_STATUS_STATE p) == 3 then goDown s p 3 true else s

/-! ### Messages and crypto frames (R479 to R481, R486 to R490) -/

/-- Hand on the messages of an order space that are next in MSN order (R480). -/
def handOn (sp : Nat) : Nat → Nat → List Nat → Nat × List Nat
  | 0, n, e => (n, e)
  | k + 1, n, e => if e.contains (sp * 65536 + n) then handOn sp k ((n + 1) % 65536) (setDel (sp * 65536 + n) e) else (n, e)

/-- A message has come (R480, R481): one received before is discarded, one ahead of a gap waits. -/
def takeMsn (x : PortSt) (m : Bool × BitVec 16) : PortSt :=
  let sp := m.1.toNat
  let next := if m.1 then x.msn1 else x.msn0
  if (m.2.toNat + 65536 - next) % 65536 < 32768 then
    let (n, e) := handOn sp (x.early.length + 1) next (setAdd (sp * 65536 + m.2.toNat) x.early)
    if m.1 then { x with msn1 := n, early := e } else { x with msn0 := n, early := e }
  else x

/-- CRYPTO_FRAME (R486, R487, R489, R490): a frame that verifies releases its messages; the first frame in the other key slot brings the
next generation. -/
def execCryptoFrame (p l : Fin 6) (x : Frame0) (t : Nat) (s : State) : Ans :=
  let s := s.upto t
  let p := p.val
  let l := l.val
  let k := linkOf s p l
  let turn := x.slot != k.rxSlot
  .next <|
    if !linkOn s p l || !portKeyed s p then s
    else if !turn && decide (x.counter.toNat < k.rxCtr) then s
    else if !x.good then (tagFails s p l).emit (.control p l "NAK" ((x.first.val + 4095) % 4096))
    else
      let s := setLink s p l fun k => { k with rxCtr := x.counter.toNat + 1, rxSlot := x.slot, rxGen := if turn then k.rxGen + 1 else k.rxGen }
      let s := if turn then s.bump (F.KZP_CRYPTO_REKEYS p) else s
      setPort s p fun q => x.msgs.foldl takeMsn q

/-- REKEY (R490, R614): the transmit COUNTER of a link has reached a value. -/
def execRekey (p l : Fin 6) (counter : BitVec 63) (t : Nat) (s : State) : Ans :=
  let s := s.upto t
  let p := p.val
  let l := l.val
  let c := counter.toNat
  let s := if linkOn s p l then s.set (F.KZP_L_STATUS_TX_COUNTER_HI p l) (c / 2 ^ 24) else s
  .next <|
    if !linkOn s p l || decide (c < 2 ^ s.get (F.KZP_CTRL_REKEY_LOG2 p)) then s
    else if portKeyed s p then
      let s := setLink s p l fun k => { k with txGen := k.txGen + 1, txSlot := !k.txSlot }
      (s.bump (F.KZP_CRYPTO_REKEYS p)).set (F.KZP_L_STATUS_TX_COUNTER_HI p l) 0
    else if c < 2 ^ 62 then s
    else
      let f := F.KZP_CRYPTO_KEY_WAIT p
      let s := if bits (s.get f) l 1 = 1 then s else s.set f (s.get f + 2 ^ l)
      leaveSet s p l

/-! ### Link states (R491 to R493) -/

/-- LINK_LIGHT (R491). -/
def execLinkLight (p l : Fin 6) (t : Nat) (s : State) : Ans :=
  let s := s.upto t
  .next (if linkSt s p.val l.val = 1 ∧ portClocked s p.val then linkTrain s p.val l.val (s.get (F.KZP_L_STATUS_REASON p.val l.val)) false else s)

/-- Training time of a link so far, and its bound (R491). -/
def trainBound (s : State) (p l : Nat) : Nat := if (linkOf s p l).retrain then 5000000 else 200000000

/-- A trained link becomes ACTIVE. -/
def linkActive (s : State) (p l lanes : Nat) (half : Bool) : State :=
  let s := setLinkSt s p l 3
  let s := s.set (F.KZP_L_STATUS_LAST_TRAIN_MS p l) (min ((s.now - (linkOf s p l).trainAt) / 1000000) 4095)
  let s := (s.set (F.KZP_L_STATUS_LANES_OK p l) lanes).setFlag (F.KZP_L_STATUS_WIDTH p l) half
  joinSet (flitSeen s p l) p l

/-- LINK_TRAINING_DONE (R491, R492): the link joins the link set at the width it trained for. -/
def execLinkTrainingDone (p l : Fin 6) (t : Nat) (s : State) : Ans :=
  let s := s.upto t
  let p := p.val
  let l := l.val
  .next <|
    if linkSt s p l ≠ 2 ∨ !portClocked s p ∨ (linkOf s p l).trainAt + trainBound s p l < s.now then s
    else
      let half := s.flag (F.KZP_L_STATUS_WIDTH p l)
      linkActive s p l (if half then s.get (F.KZP_L_STATUS_LANES_OK p l) else 15) half

/-- LINK_TRAIN_TIMEOUT (R491, R492, R557): ACTIVE at ×2 on two adjacent trained lanes, else FAILED. -/
def execLinkTrainTimeout (p l : Fin 6) (lanes : Fin 16) (t : Nat) (s : State) : Ans :=
  let s := s.upto t
  let p := p.val
  let l := l.val
  .next <|
    if linkSt s p l ≠ 2 ∨ s.now < (linkOf s p l).trainAt + trainBound s p l then s
    else if lanes.val % 4 = 3 ∨ lanes.val / 4 = 3 then
      let s := linkActive s p l lanes.val true
      postRas s 0x25 0xA0 (domDetail .link (linkKey p l) 0 + if lanes.val % 4 = 3 then 0 else 65536)
    else linkOut s p l 5 8

/-- LANE_LOCK_LOSS (R491). -/
def execLaneLockLoss (p l : Fin 6) (t : Nat) (s : State) : Ans :=
  let s := s.upto t
  .next (if linkSt s p.val l.val = 3 then linkTrain s p.val l.val 8 true else s)

/-- FLIT_SILENCE (R491): no valid flit for 10 µs. -/
def execFlitSilence (p l : Fin 6) (t : Nat) (s : State) : Ans :=
  let s := s.upto t
  .next (if linkSt s p.val l.val = 3 ∧ (linkOf s p.val l.val).flitAt + 10000 ≤ s.now then linkTrain s p.val l.val 4 true else s)

/-- LINK_HAZE_CHECK (R493): one millisecond of the test. -/
def execLinkHazeCheck (p l : Fin 6) (median peers t : Nat) (s : State) : Ans :=
  let s := s.upto t
  let p := p.val
  let l := l.val
  .next <|
    if !linkOn s p l then s
    else
      let (h, ev) := hazeStep s (linkOf s p l).haze (s.get F.KZP_HAZE_CFG_RATIO) (s.get F.KZP_HAZE_CFG_WINDOW_MS)
        (s.get F.KZP_HAZE_CFG_EXIT_MS) (s.get F.KZP_HAZE_CFG_EXIT_RATIO) median peers
      let s := setLink s p l fun x => { x with haze := h }
      match ev with
      | none => s
      | some true => hazeEvent (leaveSet (setLinkSt s p l 4) p l) true 2 (linkKey p l)
      | some false => hazeEvent (joinSet (setLinkSt s p l 3) p l) false 2 (linkKey p l)

/-! ### Port states (R494 to R496, R532) -/

/-- The check of the partner's INIT (R494, R495): the reason it is refused with, if it is. -/
def initRefused (s : State) (p : Nat) (x : InitData) : Option Nat :=
  if tabGet? p s.comp.map.ports ≠ some x.peer.toNat then some 5
  else if x.version.toNat ≠ 1 ∨ x.personality.toNat ≠ (cxlPort s p).toNat then some 6
  else none

/-- PORT_INIT (R494, R495): the port comes UP with a new SESSION, or stays in INIT with its reason. -/
def execPortInit (p : Fin 6) (x : InitData) (t : Nat) (s : State) : Ans :=
  let s := s.upto t
  let p := p.val
  .next <|
    if s.get (F.KZP_STATUS_STATE p) ≠ 2 then s
    else
      let s := s.set (F.KZP_PEER_PEER_ID p) x.peer.toNat
      match initRefused s p x with
      | some r => s.set (F.KZP_STATUS_REASON p) r
      | none =>
        let s := (s.set (F.KZP_STATUS_STATE p) 3).bump (F.KZP_STATUS_SESSION p)
        let s := setPort s p fun q => { q with notice := none, msn0 := 0, msn1 := 0, early := [], flitAt := s.now,
                                               credits := addCredits [] x.credits.toNat, tags := x.tags.val }
        s.emit (.control p 6 "INIT" (s.get (F.KZP_STATUS_SESSION p)))

/-- PORT_SILENCE (R496): no flit on any link for 100 µs. -/
def execPortSilence (p : Fin 6) (t : Nat) (s : State) : Ans :=
  let s := s.upto t
  .next (if s.get (F.KZP_STATUS_STATE p.val) = 3 ∧ (portSt s p.val).flitAt + 100000 ≤ s.now then goDown s p.val 4 true else s)

/-- PORT_DOWN (R496, R531): a condition of R496 holds. -/
def execPortDown (p : Fin 6) (t : Nat) (s : State) : Ans :=
  let s := s.upto t
  .next <|
    match downReason s p.val with
    | some r => if s.get (F.KZP_STATUS_STATE p.val) = 3 then goDown s p.val r true else s
    | none => s

/-- DOWN_NOTICE_END (R496): after 10 µs of DOWN no DATA flit is sent. -/
def execDownNoticeEnd (p : Fin 6) (t : Nat) (s : State) : Ans :=
  let s := s.upto t
  .next <|
    match (portSt s p.val).notice with
    | some a => if a + 10000 ≤ s.now then (setPort s p.val fun q => { q with notice := none }).emit (.control p.val 6 "QUIET" 0) else s
    | none => s

/-- PORT_FLUSH_DONE (R531, R532): nothing of the port's work is left, and it may leave DOWN. -/
def execPortFlushDone (p : Fin 6) (t : Nat) (s : State) : Ans :=
  let s := s.upto t
  .next <|
    if !s.flag (F.SCH_K_STATUS_FLUSHING p.val) || s.fab.flights.any (fun f => f.req.port.val = p.val) then s
    else tryLinking (s.setFlag (F.SCH_K_STATUS_FLUSHING p.val) false) p.val

/-! ### The CXL 3.2 personality (R498 to R503) -/

/-- A request of the CXL port (R500). -/
def cxlReq (s : State) (x : CxlMsg) (len : Fin 256) (payload : List Byte) : Req :=
  let p := x.port.val
  let va := s.get (F.KZP_CXL_VA_CXL_VA_BASE p) + x.off.toNat
  let ctx : Fin 65536 := Fin.ofNat 65536 (s.get (F.KZP_CXL_CFG_CXL_CTX p))
  let ten : Fin 256 := Fin.ofNat 256 (s.get (F.KZP_CXL_CFG_CXL_TENANT p))
  { port := x.port, partner := 0, cls := 2, tag := x.tag, len := len, ret := false, b30 := false, rsvd := false, ctx := ctx, tenant := ten,
    addr := BitVec.ofNat 57 va, epoch := BitVec.ofNat 32 (curEpoch s), epochC := ~~~BitVec.ofNat 32 (curEpoch s),
    payload := payload, cut := false, t := x.t }

/-- The fabric address that a CXL.mem message's line has, where it translates on this device. -/
def cxlLine (s : State) (x : CxlMsg) : Option Nat :=
  let va := s.get (F.KZP_CXL_VA_CXL_VA_BASE x.port.val) + x.off.toNat
  match translate s (s.get (F.KZP_CXL_CFG_CXL_CTX x.port.val)) (va / 64 * 64) 64 .rd with
  | .here pa _ => some (s.get F.CMP_NODE_NODE_ID * 2 ^ 47 + pa)
  | _ => none

/-- A coherence message of the CXL port (R501), in class 0. -/
def cxlMsg0 (s : State) (x : CxlMsg) (payload : List Byte) (dirty kept : Bool) : Req :=
  let r := cxlReq s x 63 payload
  { r with cls := 0, tenant := 0, ret := dirty, b30 := kept, addr := BitVec.ofNat 57 ((cxlLine s x).getD 0) }

/-- Does the port own the line of a CXL.mem message? -/
def cxlOwns (s : State) (x : CxlMsg) : Bool :=
  match (cxlLine s x).bind fun fa => dirEnt s (fa % 2 ^ 47 / 64) with
  | some e => e.st = .owned && e.shr.contains (x.port.val, 0)
  | none => false

/-- CXL_MEM_REQUEST (R500, R501): the message as the device's request or coherence message. -/
def execCxlMemRequest (x : CxlMsg) (s : State) : Ans :=
  let s := s.upto x.t
  let p := x.port.val
  .next <|
    if !cxlPort s p || !portUp s p then s
    else
      let s := s.setFlag (F.KZP_CXL_STATUS_MEM_EN p) true
      match x.op with
      | .memRdAny => arrive .rdOwn (cxlReq s x 63 []) s
      | .memRdShared | .memRdData => arrive .rdShared (cxlReq s x 63 []) s
      | .memRdInv => arrive .rd (cxlReq s x 63 []) s
      | .memWr inv d => if inv && cxlOwns s x then evict true (cxlMsg0 s x d false false) s else arrive .wrLine (cxlReq s x 63 (padTo 64 d)) s
      | .memWrPtl m d => arrive .wrMask (cxlReq s x 63 (padTo 64 d ++ leBytes 8 m.toNat)) s
      | .memClnEvct => evict false (cxlMsg0 s x [] false false) s
      | .biRsp kept d =>
        (match d with
         | some b => snoopAnswer true (cxlMsg0 s x b true kept) s
         | none => snoopAnswer kept (cxlMsg0 s x [] false kept) s)
      | .other => s.bumpSat (F.KZP_CXL_STATUS_UNSUPPORTED p)

/-- BICONFLICT (R501). -/
def execBiConflict (p : Fin 6) (s : State) : Ans :=
  .next (if cxlPort s p.val then s.emit (.control p.val 0 "BIConflictAck" 0) else s)

/-- A mailbox response of the CXL personality (R499). -/
def mailbox (p : Nat) (what : String) (code : Nat) (data : List Nat) (s : State) : State :=
  if cxlPort s p then s.emit (.mgmt what code (p :: data)) else s

/-- Bytes of pool that the device admits: the sectors' limits (R42). -/
def cxlCapacity (s : State) : Nat := ((List.range 4).map (sectorLimit s)).sum * 2097152

/-- IDENTIFY_MEMORY_DEVICE: all capacity is volatile (R499). -/
def execIdentifyMemoryDevice (p : Fin 6) (s : State) : Ans :=
  .next (mailbox p.val "IDENTIFY_MEMORY_DEVICE" 0 [cxlCapacity s, cxlCapacity s, 0] s)

/-- GET_PARTITION_INFO: active volatile and persistent capacity, and the next ones (R499). -/
def execGetPartitionInfo (p : Fin 6) (s : State) : Ans :=
  .next (mailbox p.val "GET_PARTITION_INFO" 0 [cxlCapacity s, 0, cxlCapacity s, 0] s)

/-- A response field whose content the spec does not state: a free value. -/
def freeField (s : State) (k : Nat) : Nat × State := (Config.answerField k s.free, { s with free := s.free + 1 })

/-- GET_HEALTH_INFO (R499): the fields of the response are not stated. -/
def execGetHealthInfo (p : Fin 6) (s : State) : Ans :=
  let (v, s) := freeField s 0
  .next (mailbox p.val "GET_HEALTH_INFO" 0 [v] s)

/-- GET_SUPPORTED_LOGS (R499): the fields of the response are not stated. -/
def execGetSupportedLogs (p : Fin 6) (s : State) : Ans :=
  let (v, s) := freeField s 1
  .next (mailbox p.val "GET_SUPPORTED_LOGS" 0 [v] s)

/-- GET_EVENT_RECORDS (R499, R503): the code and address of every dropped write not cleared. -/
def execGetEventRecords (p : Fin 6) (s : State) : Ans :=
  .next (mailbox p.val "GET_EVENT_RECORDS" 0 ((portSt s p.val).cxlEvents.flatMap fun e => [codeNum e.1, e.2]) s)

/-- CLEAR_EVENT_RECORDS (R499). -/
def execClearEventRecords (p : Fin 6) (s : State) : Ans :=
  .next (if cxlPort s p.val then mailbox p.val "CLEAR_EVENT_RECORDS" 0 [] (setPort s p.val fun x => { x with cxlEvents := [] }) else s)

/-- CXL_MAILBOX_UNSUPPORTED (R499): every other command returns Unsupported. -/
def execCxlMailboxUnsupported (p : Fin 6) (op : BitVec 16) (s : State) : Ans :=
  .next (mailbox p.val "Unsupported" 0x15 [op.toNat] s)

end Sys2Proof.Machine
end

