-- ==== Sys2Proof/Machine/Scheduler.lean ====
section
/-! DEFINITION. The meanings of the commands of the port scheduler (spec/13): selection, spill read-back, tenant queues and class limits. -/

namespace Sys2Proof.Machine

open Sys2Proof

/-- The tenant numbers of a port's queues, from the one after `a` on, round-robin (R521). -/
def tenantsAfter (s : State) (p a : Nat) : List Nat :=
  let ts := (s.sched.tqs.filter fun e => e.1 / 256 = p).map fun e => e.1 % 256
  (ts.filter fun t => decide (a < t)) ++ ts.filter fun t => decide (t ≤ a)

/-- Step 3 of R521: the first ready lane whose queue has a positive reserve credit, class 2 before class 3. -/
def pickReserved (s : State) (p : Nat) : Option (Nat × Nat) :=
  (tenantsAfter s p (tabGet 255 p s.sched.rr)).findSome? fun t =>
    if !hasReserve s p t then none
    else if laneReady s p t 2 then some (t, 2)
    else if laneReady s p t 3 then some (t, 3) else none

/-- The selection of a weighted group (R524): the eligible lane with the smallest S, the lower tenant among equals. -/
def pickWeighted (s : State) (p c : Nat) : Option (Nat × Nat) :=
  let ts := ((s.sched.tqs.filter fun e => e.1 / 256 = p).map fun e => e.1 % 256).filter fun t =>
    laneReady s p t c && weightedOk s p t
  (ts.foldl (fun (b : Option Nat) t => match b with
    | none => some t
    | some u => if tagLt ((tenant s p t).lane c).s ((tenant s p u).lane c).s then some t else some u) none).map fun t => (t, c)

/-- One selection (R521 to R525): steps 3, 4 and 5. -/
def selectOne (s : State) (p : Nat) : State :=
  let go := fun (s : State) (x : Nat × Nat) (step3 : Bool) =>
    match (laneOf s p x.1 x.2).head? with
    | some f => selectFlight s f step3
    | none => s
  match pickReserved s p with
  | some x => go { s with sched := { s.sched with rr := tabPut p x.1 s.sched.rr } } x true
  | none =>
    match pickWeighted s p 2 with
    | some x => go s x false
    | none =>
      match pickWeighted s p 3 with
      | some x => go s x false
      | none => s

/-- SCHEDULER_SELECT (R521): up to two selections. Messages of classes 0 and 1 are taken as they arrive. -/
def execSchedulerSelect (p : Fin 6) (t : Nat) (s : State) : Ans :=
  let s := s.upto t
  let p := p.val
  let s := (s.sched.tqs.filter fun e => e.1 / 256 = p).foldl (fun s e => refreshTq s p (e.1 % 256)) s
  .next (wake (selectOne (selectOne (noteLanes s p) p) p))

/-- SPILL_READBACK (R508): a spilled message has been read back whole. -/
def execSpillReadback (p : Fin 6) (g : Fin 8192) (t : Nat) (s : State) : Ans :=
  let s := s.upto t
  .next <|
    match flightOf s p.val g.val with
    | some f => (match f.stage with
        | .lane true false => noteLanes (putFlight s { f with stage := .lane true true }) p.val
        | _ => s)
    | none => s

/-! ### Tenant queues (R517, R518, R525, R526) -/

/-- A value clamped to a range (R723). -/
def clampTo (lo hi v : Nat) : Nat := max lo (min hi v)

/-- A tenant queue's settings as SCH_TQ_CFG0 and SCH_TQ_CFG1 hold them; credits and tags are those of `q`. -/
def tenantOf (q : Tenant) (c0 c1 : Nat) : Tenant :=
  { q with en := bits c0 0 1 == 1, domain := bits c0 1 8, weight := bits c0 9 8, rate := bits c0 17 12,
           rateCap := clampTo 1 65535 (bits c0 29 16), resv := bits c1 0 12, resvCap := clampTo 1 65535 (bits c1 12 16),
           inflightMax := clampTo 1 8192 (bits c1 28 14), bufKib := clampTo 16 3072 (bits c1 42 12) }

/-- The images of a queue's settings. -/
def tenantWords (q : Tenant) : Nat × Nat :=
  (q.en.toNat + q.domain * 2 + q.weight * 2 ^ 9 + q.rate * 2 ^ 17 + q.rateCap * 2 ^ 29,
   q.resv + q.resvCap * 2 ^ 12 + q.inflightMax * 2 ^ 28 + q.bufKib * 2 ^ 42)

/-- Does a change of DOMAIN meet a queue that holds a request (R518)? -/
def tqRefuses (s : State) (p t dom : Nat) : Bool :=
  dom != (tenant s p t).domain && (tqQueued s p t != 0 || tqInflight s p t != 0)

/-- Put a queue's settings in force, with credits as R525 gives them. -/
def forceTq (s : State) (p t c0 c1 : Nat) : State :=
  let s := refreshTq s p t
  let old := tenant s p t
  let q := tenantOf old c0 c1
  let q := if q.en && !old.en then { q with rateCredit := (q.rateCap * 1024 : Nat), resvCredit := (q.resvCap * 1024 : Nat), upd := s.now }
    else { q with rateCredit := min q.rateCredit (q.rateCap * 1024 : Nat), resvCredit := min q.resvCredit (q.resvCap * 1024 : Nat) }
  noteLanes (putTenant s p t q) p

/-- Install a queue's settings (R518, R525, R526): the code, and the state. -/
def installTq (s : State) (p t c0 c1 : Nat) : Code × State :=
  if tqRefuses s p t (bits c0 1 8) then (.denied, s)
  else
    let s' := forceTq s p t c0 c1
    if resvSum s p < resvSum s' p ∧ 51296 < resvSum s' p then (.capacity, s) else (.ok, s')

/-- CMD READ (R517): a queue's settings and counts. -/
def tqRead (s : State) (p t : Nat) : State :=
  if s.flag F.SCH_TQ_SEL_BUSY then s
  else
    let s := (s.set F.SCH_TQ_SEL_PORT p).set F.SCH_TQ_SEL_TENANT t
    let q := tenant s p t
    let s := (((s.setFlag F.SCH_TQ_CFG0_EN q.en).set F.SCH_TQ_CFG0_DOMAIN q.domain).set F.SCH_TQ_CFG0_WEIGHT q.weight).set
      F.SCH_TQ_CFG0_RATE q.rate
    let s := ((s.set F.SCH_TQ_CFG0_RATE_CAP_KIB q.rateCap).set F.SCH_TQ_CFG1_RESV q.resv).set F.SCH_TQ_CFG1_RESV_CAP_KIB q.resvCap
    let s := (s.set F.SCH_TQ_CFG1_INFLIGHT_MAX q.inflightMax).set F.SCH_TQ_CFG1_BUF_KIB q.bufKib
    let ls := laneOf s p t 2 ++ laneOf s p t 3
    let s := (s.set F.SCH_TQ_STAT_INFLIGHT (tqInflight s p t)).set F.SCH_TQ_STAT_QUEUED ls.length
    let s := s.setFlag F.SCH_TQ_STAT_SPILLING (ls.any fun f => match f.stage with | .lane sp _ => sp | _ => false)
    let s := s.setFlag F.SCH_TQ_STAT_HELD (ls.any fun f => throttled s f.req.ctx.val)
    (s.set F.SCH_TQ_STAT_SERVED_MIB (q.served / 1048576)).set F.SCH_TQ_SEL_RESULT 0

/-- CMD WRITE (R518, R526, R723): installs SCH_TQ_CFG0 and SCH_TQ_CFG1. -/
def tqWrite (s : State) (p t : Nat) : State :=
  if s.flag F.SCH_TQ_SEL_BUSY then s
  else
    let s := (s.set F.SCH_TQ_SEL_PORT p).set F.SCH_TQ_SEL_TENANT t
    let c0 := (tenantWords { en := s.flag F.SCH_TQ_CFG0_EN, domain := s.get F.SCH_TQ_CFG0_DOMAIN, weight := s.get F.SCH_TQ_CFG0_WEIGHT,
                             rate := s.get F.SCH_TQ_CFG0_RATE, rateCap := s.get F.SCH_TQ_CFG0_RATE_CAP_KIB }).1
    let c1 := (tenantWords { resv := s.get F.SCH_TQ_CFG1_RESV, resvCap := s.get F.SCH_TQ_CFG1_RESV_CAP_KIB,
                             inflightMax := s.get F.SCH_TQ_CFG1_INFLIGHT_MAX, bufKib := s.get F.SCH_TQ_CFG1_BUF_KIB }).2
    let (c, s) := installTq s p t c0 c1
    s.set F.SCH_TQ_SEL_RESULT (codeNum c)

/-- A write of SCH_Kp_LIMITS (R533, R723), unless the block is locked: refused as a whole when its shares exceed 4,096 KiB. -/
def limitsWrite (s : State) (p v : Nat) : State :=
  let c0 := clampTo 64 1024 (bits v 0 11)
  let c1 := clampTo 64 1024 (bits v 11 11)
  let c2 := clampTo 256 3072 (bits v 22 12)
  let c3 := clampTo 256 3072 (bits v 34 12)
  if s.flag F.SCH_CTRL_LOCK ∨ 4096 < c0 + c1 + c2 + c3 then s
  else (((s.set (F.SCH_K_LIMITS_C0_KIB p) c0).set (F.SCH_K_LIMITS_C1_KIB p) c1).set (F.SCH_K_LIMITS_C2_KIB p) c2).set
    (F.SCH_K_LIMITS_C3_KIB p) c3

end Sys2Proof.Machine
end

