-- ==== Sys2Proof/Machine/Compose.lean ====
section
/-! DEFINITION. The composition map, its staging and commit, leases and fences (spec/14, R537 to R559). -/

namespace Sys2Proof.Machine

open Sys2Proof

/-! ### Map entries (R539, R540) -/

/-- Value words of the NODE entry. -/
def nodeWords (n : NodeEnt) : List Nat :=
  [1 + 2 ^ 8 + n.nodeId * 2 ^ 16 + n.graceUs * 2 ^ 25 + n.quorumK * 2 ^ 41 + n.lostHome * 2 ^ 45, n.leaseMs + n.mgrMs * 2 ^ 32, 0, 0]

/-- Value words of a MANAGER entry. -/
def mgrWords (i : Nat) (m : MgrEnt) : List Nat :=
  [8 + 2 ^ 8 + i * 2 ^ 16 + m.ctx * 2 ^ 19 + m.eventRing * 2 ^ 35, m.key.toNat, 0, 0]

/-- Value words of a REGION entry. -/
def regionWords (i : Nat) (r : RegionEnt) : List Nat :=
  [4 + 2 ^ 8 + i * 2 ^ 16 + r.domain * 2 ^ 32, r.basePage + r.pages * 2 ^ 26, 0, 0]

/-- Value words of a GRANT entry. -/
def grantWords (i : Nat) (g : GrantEnt) : List Nat :=
  [5 + 2 ^ 8 + i * 2 ^ 16, g.region + g.port * 2 ^ 16 + g.partner * 2 ^ 19 + g.rd.toNat * 2 ^ 27 + g.wr.toNat * 2 ^ 28, 0, 0]

/-- Put or remove an entry of a table. -/
def entryPut {α : Type} (v : Bool) (k : Nat) (x : α) (t : Tab α) : Tab α := if v then tabPut k x t else tabDel k t

/-- One entry applied to a map: the map, and the entry's type and index; none where it breaks R540. -/
def applyEntry (m : CMap) (w : Nat → Nat) : Option (CMap × (Nat × Nat)) :=
  let v := bits (w 0) 8 1 == 1
  let top := fun k : Nat => decide (w 0 < 2 ^ k)
  let low := bits (w 0) 9 7 == 0
  let port := bits (w 0) 16 3
  let noTail := w 2 == 0 && w 3 == 0
  let keep := fun (ok : Bool) (m : CMap) (ty ix : Nat) => if ok && low then some (m, (ty, ix)) else none
  match bits (w 0) 0 8 with
  | 1 =>
    let n : NodeEnt := { nodeId := bits (w 0) 16 9, graceUs := bits (w 0) 25 16, quorumK := bits (w 0) 41 4, lostHome := bits (w 0) 45 4,
                         leaseMs := bits (w 1) 0 32, mgrMs := bits (w 1) 32 32 }
    keep (v && top 49 && noTail && n.graceUs != 0 && decide (1 ≤ n.quorumK) && decide (n.quorumK ≤ 8)) { m with node := n } 1 0
  | 2 => keep (top 19 && noTail && decide (port < 6)) { m with ports := entryPut v port (w 1) m.ports } 2 port
  | 3 =>
    let k := tqKey port (bits (w 0) 19 8)
    keep (top 28 && w 1 == 0 && noTail && decide (port < 6)) { m with partners := entryPut v k (bits (w 0) 27 1 == 1) m.partners } 3 k
  | 4 =>
    let i := bits (w 0) 16 16
    let r : RegionEnt := { domain := bits (w 0) 32 8, basePage := bits (w 1) 0 26, pages := bits (w 1) 26 26 }
    keep (top 40 && decide (w 1 < 2 ^ 52) && noTail && (!v || r.pages != 0)) { m with regions := entryPut v i r m.regions } 4 i
  | 5 =>
    let i := bits (w 0) 16 18
    let g : GrantEnt := { region := bits (w 1) 0 16, port := bits (w 1) 16 3, partner := bits (w 1) 19 8, rd := bits (w 1) 27 1 == 1,
                          wr := bits (w 1) 28 1 == 1 }
    keep (top 34 && decide (w 1 < 2 ^ 29) && noTail && (!v || decide (g.port < 6))) { m with grants := entryPut v i g m.grants } 5 i
  | 6 =>
    let i := bits (w 0) 16 9
    let p := bits (w 0) 25 3
    keep (top 28 && w 1 == 0 && noTail && (!v || decide (p < 6))) { m with routes := entryPut v i p m.routes } 6 i
  | 7 =>
    let k := tqKey port (bits (w 0) 19 8)
    keep (top 27 && w 3 == 0 && decide (port < 6))
      { m with tenants := entryPut v k { cfg0 := BitVec.ofNat 64 (w 1), cfg1 := BitVec.ofNat 64 (w 2) } m.tenants } 7 k
  | 8 =>
    let e : MgrEnt := { ctx := bits (w 0) 19 16, eventRing := bits (w 0) 35 4, key := BitVec.ofNat 32 (w 1) }
    keep (top 39 && decide (w 1 < 2 ^ 32) && noTail) { m with managers := entryPut v port e m.managers } 8 port
  | _ => none

/-- Entries applied in list order, with the (type, index) pairs they name; none when one breaks R540. -/
def applyEntries (m : CMap) (named : List (Nat × Nat)) : List (List Byte) → Option (CMap × List (Nat × Nat))
  | [] => some (m, named)
  | b :: t =>
    match applyEntry m (word b) with
    | none => none
    | some (m, k) => applyEntries m (if named.contains k then named else named ++ [k]) t

/-- A list of bytes cut into pieces of `n`. -/
def cutBytes (n : Nat) : Nat → List Byte → List (List Byte)
  | 0, _ => []
  | k + 1, b => b.take n :: cutBytes n k (b.drop n)

/-! ### The family (R537, R538) -/

/-- The unit that runs the composition family (R108). -/
def zenith : Nat := 0xA0

/-- Is the domain type of CMP_DOMAIN one of R558? -/
def domOf : Nat → Option DomType
  | 0 => some .channel | 1 => some .stack | 2 => some .link | 3 => some .port | 4 => some .tile | 5 => some .engine | 6 => some .sector
  | _ => none

/-- Format of the composition family (R537). -/
def cmpFmt (ws : List Word) : Bool :=
  let d := dbits ws
  match descOp ws with
  | 0x60 => d 16 1 63 == 0 && d 36 0 224 == 0 && decide (d 32 0 32 ≤ 4096) && (d 32 0 32 != 0 || d 16 0 1 == 1)
  | 0x61 => d 33 0 248 == 0 && decide (d 32 0 8 ≤ 8)
  | 0x62 => d 16 0 64 == 0 && d 32 0 128 == 0 && d 60 0 32 == 0
  | 0x63 | 0x67 => d 16 0 384 == 0
  | 0x64 => d 16 0 64 == 0 && decide (1 ≤ d 32 0 8) && decide (d 32 0 8 ≤ 8) && d 33 0 56 == 0 && d 48 0 128 == 0
  | 0x65 => d 16 3 5 == 0 && d 17 2 374 == 0
  | 0x66 => d 16 4 4 == 0 && d 18 1 367 == 0 && (match domOf (d 16 0 4) with | some ty => domExists ty (d 17 0 8) | none => false)
  | _ => false

/-- Is the context that of a valid MANAGER entry? -/
def isManager (s : State) (c : Nat) : Bool := (managers s).any fun m => m.ctx = c

/-- Does the device accept the descriptor from the context (R538)? -/
def cmpAccepts (s : State) (c : Nat) (ws : List Word) : Bool := descOp ws == 0x63 || c == 1 || isManager s c

/-- The address ranges of a composition-family descriptor. -/
def cmpRanges (ws : List Word) : List Range :=
  let d := dbits ws
  match descOp ws with
  | 0x60 => [⟨d 24 0 64, 64 * d 32 0 32, .rd⟩]
  | 0x61 => [⟨d 24 0 64, 3456 * d 32 0 8, .rd⟩]
  | 0x62 => [⟨d 48 0 64, d 56 0 32, .wr⟩]
  | 0x64 => [⟨d 24 0 64, 64, .rd⟩, ⟨d 40 0 64, 3456 * d 32 0 8, .rd⟩]
  | _ => []

/-- Is a commit running steps 1 to 3 of R543? -/
def commitRuns (s : State) : Bool :=
  match s.comp.committing with
  | some x => (match findJob s x.1 x.2 with | some j => j.st != .finished | none => false)
  | none => false

/-- Read ranges for a job: their bytes, or the state in which it waits or has ended. -/
def fetchRanges (s : State) (j : Job) (unit : Nat) (rs : List Range) : Option (List (List Byte)) × State :=
  match prepare s j unit rs with
  | (false, s) => (none, s)
  | (true, s) =>
    if rs.any fun r => poisonVa s (ringCtx j.ring) r.va r.len then (none, finishJob s j .poison)
    else
      let (l, s) := rs.foldl (fun (a : List (List Byte) × State) r =>
        let (b, s) := readVa a.2 (ringCtx j.ring) r.va r.len
        (a.1 ++ [b], s)) ([], s)
      (some l, s)

/-! ### Staging (R541) -/

/-- Show the staging map in CMP_STATUS. -/
def showStaging (s : State) (owner : Nat) : State :=
  let on := s.comp.staging.isSome
  ((s.setFlag F.CMP_STATUS_STAGING on).set F.CMP_STATUS_STAGE_OWNER (if on then owner else 0)).set F.CMP_STATUS_STAGED s.comp.changed.length

/-- Discard the staging map. -/
def dropStaging (s : State) : State := showStaging { s with comp := { s.comp with staging := none, changed := [] } } 0

/-- Is there a staging map that the context owns? -/
def ownsStaging (s : State) (c : Nat) : Bool := s.comp.staging.isSome && s.get F.CMP_STATUS_STAGE_OWNER == c

/-- CMP_STAGE (R541). -/
def execCmpStage (d : Desc) (s : State) : Ans :=
  .next (runDesc s d 0x60 zenith fun s j =>
    let c := ringCtx j.ring
    if commitRuns s then putJob s { j with st := .waiting }
    else
      match fetchRanges s j zenith (cmpRanges j.words) with
      | (none, s) => s
      | (some bs, s) =>
        let es := cutBytes 64 (dbits j.words 32 0 32) (bs.getD 0 [])
        let s := if ownsStaging s c then { s with comp := { s.comp with stageAt := s.now } } else s
        if es.any fun b => !pairedOk b then finishJob s j .cpair
        else
          match applyEntries (s.comp.staging.getD s.comp.map) s.comp.changed es with
          | none => finishJob s j .malformed
          | some (m, named) =>
            if s.comp.staging.isSome && !ownsStaging s c then finishJob s j .denied
            else if named.length > 65536 then finishJob s j .capacity
            else if dbits j.words 16 0 1 = 1 then finishJob (dropStaging s) j .ok
            else
              let s := { s with comp := { s.comp with staging := some m, changed := named, stageAt := s.now } }
              finishJob (showStaging s c) j .ok)

/-- STAGE_TIMEOUT (R541). -/
def execStageTimeout (t : Nat) (s : State) : Ans :=
  let s := s.upto t
  .next (if s.comp.staging.isSome && !commitRuns s && decide (s.comp.stageAt + 1000000 * s.get F.CMP_CTRL_STAGE_TIMEOUT_MS ≤ s.now) then
      dropStaging s else s)

/-! ### Endorsements (R553, R554) -/

/-- DEVICE_ID (R588), 0 in MANUFACTURE. -/
def deviceId (s : State) : Nat := if s.get F.LC_STATE_STATE = 1 then 0 else leVal ((Config.shake Config.identityKey).take 8)

/-- A 64-byte statement of R554. -/
def statement (s : State) (action port partner epoch seq : Nat) (digest : List Byte) : List Byte :=
  leBytes 8 (deviceId s) ++ leBytes 4 (action + port * 256 + partner * 65536) ++ leBytes 4 epoch ++ leBytes 8 seq ++ padTo 32 digest ++
    leBytes 8 0

/-- The manager whose endorsement of a statement counts by itself: its entry is valid, it verifies, and every other byte is zero. -/
def endorser (s : State) (stmt e : List Byte) : Option Nat :=
  let i := leVal (e.take 1)
  match tabGet? i s.comp.map.managers with
  | none => none
  | some m =>
    if leVal ((e.drop 1).take 15) = 0 ∧ leVal (e.drop 3453) = 0 ∧
        Config.xmssOk (Config.handleKey m.key.toNat) stmt ((e.drop 16).take 3437) then some i else none

/-- The endorsements that count (R553). -/
def endorsed (s : State) (stmt : List Byte) (es : List (List Byte)) : Nat :=
  (es.filter fun e => (endorser s stmt e).isSome && decide ((es.filter fun x => x.take 1 = e.take 1).length = 1)).length

/-! ### Commit (R542, R543) -/

/-- Do two regions of a map overlap? -/
def regionsClash (m : CMap) : Bool :=
  m.regions.any fun a => m.regions.any fun b => a.1 != b.1 && decide (a.2.basePage < b.2.basePage + b.2.pages) &&
    decide (b.2.basePage < a.2.basePage + a.2.pages)

/-- Order 5 of R542. -/
def mapMalformed (m : CMap) : Bool :=
  regionsClash m ||
  (m.grants.any fun g => !tabHas g.2.region m.regions || !tabHas (tqKey g.2.port g.2.partner) m.partners) ||
  (!m.managers.isEmpty && decide (m.managers.length < m.node.quorumK))

/-- STAGE_DIGEST (R542). -/
def stageDigest (m : CMap) : List Byte :=
  Config.shake ((nodeWords m.node ++ m.managers.flatMap fun e => mgrWords e.1 e.2).flatMap (leBytes 8))

/-- Order 6 of R542; with no valid MANAGER entry in the current map it is met without endorsements (R722). -/
def needsQuorum (s : State) (m : CMap) (es : List (List Byte)) : Bool :=
  let cur := s.comp.map
  let stmt := statement s 5 0 0 (curEpoch s) (s.get F.CMP_FENCE_FENCE_SEQ) (stageDigest m)
  !cur.managers.isEmpty && (m.managers != cur.managers || m.node.quorumK != cur.node.quorumK) &&
    decide (endorsed s stmt es < cur.node.quorumK)

/-- Is a region removed or shrunk while a page of its domain stays allocated outside every region of that domain? -/
def cutsRegion (s : State) (m : CMap) : Bool :=
  s.comp.map.regions.any fun r =>
    (match tabGet? r.1 m.regions with
     | some x => decide (x.domain ≠ r.2.domain ∨ r.2.basePage < x.basePage ∨ x.basePage + x.pages < r.2.basePage + r.2.pages)
     | none => true) &&
    s.store.pages.any fun e => e.2.domain = r.2.domain && !inRegion m e.2.domain e.1

/-- The settings that a map gives a tenant queue, as DOMAIN and both words; none: reset values. -/
def mapTenant (m : CMap) (k : Nat) : Nat × Nat :=
  match tabGet? k m.tenants with
  | some e => (e.cfg0.toNat, e.cfg1.toNat)
  | none => tenantWords {}

/-- The tenant queues whose entry differs between two maps. -/
def tenantsChanged (a b : CMap) : List Nat :=
  ((a.tenants ++ b.tenants).map (·.1)).eraseDups.filter fun k => tabGet? k a.tenants != tabGet? k b.tenants

/-- Order 7 of R542. -/
def mapDenied (s : State) (m : CMap) : Bool :=
  (m.routes.any fun r => s.flag (F.KZP_CTRL_PERSONALITY r.2)) ||
  ((tenantsChanged s.comp.map m).any fun k => tqRefuses s (k / 256) (k % 256) (bits (mapTenant m k).1 1 8)) ||
  (m.node.nodeId != s.comp.map.node.nodeId && (List.range 6).any fun p => portUp s p) ||
  cutsRegion s m

/-- What a partner may still do on a line under a map (R543, R545). -/
def mapLeaves (s : State) (m : CMap) (line p q : Nat) : Bool × Bool :=
  let pg := line / 32768
  match s.page? pg with
  | none => (true, true)
  | some e => (mapAdmits m p q e.domain pg false, mapAdmits m p q e.domain pg true)

/-- LEASE mode ends (R552). -/
def endLease (s : State) : State :=
  if s.flag F.CMP_STATUS_LEASE then
    postRas ({ s with comp := { s.comp with leases := [] } }.setFlag F.CMP_STATUS_LEASE false) 0x2A zenith 0
  else s

/-- A manager's heartbeat (R550). -/
def heartbeat (s : State) : State := endLease { s with comp := { s.comp with lastBeat := s.now } }

/-- Show the current map in CMP_NODE. -/
def showNode (s : State) : State :=
  let m := s.comp.map
  let s := ((s.set F.CMP_NODE_NODE_ID m.node.nodeId).set F.CMP_NODE_GRACE_US m.node.graceUs).set F.CMP_NODE_QUORUM_K m.node.quorumK
  (s.set F.CMP_NODE_MANAGERS ((m.managers.map fun e => 2 ^ e.1).sum)).set F.CMP_NODE_LOST_HOME m.node.lostHome

/-- Does an entry that names a partner differ between two maps (R199)? -/
def namesPartner (a b : CMap) (p q : Nat) : Bool :=
  tabGet? p a.ports != tabGet? p b.ports || tabGet? (tqKey p q) a.partners != tabGet? (tqKey p q) b.partners ||
  (a.grants.filter fun g => g.2.port = p && g.2.partner = q) != (b.grants.filter fun g => g.2.port = p && g.2.partner = q)

/-- Put a map in force under an epoch (steps 2 and 3 of R543; R199, R496, R518, R550, R552); `tell`: MAP_COMMIT is posted. -/
def placeMap (s : State) (m : CMap) (e : Nat) (tell : Bool) : State :=
  let old := s.comp.map
  let kept := s.comp.maskDone.filter fun x => s.comp.fenced.contains (tqKey x.2.1 x.2.2)
  let c := { s.comp with map := m, prev := some old, since := s.now, lapsed := [], maskDone := kept, committing := none }
  let un := s.dir.unresp.filter fun x => !namesPartner old m x.2.1 x.2.2
  let s := { s with comp := c, dir := { s.dir with unresp := un } }
  let s := ((s.set F.CMP_EPOCH_EPOCH e).set F.CMP_EPOCH_EPOCH_C (onesComp 32 e)).setFlag F.CMP_STATUS_PERSISTED false
  let s := showNode s
  let s := (tenantsChanged old m).foldl (fun s k => forceTq s (k / 256) (k % 256) (mapTenant m k).1 (mapTenant m k).2) s
  let s := heartbeat (if tell then postRas s 0x29 zenith (e % 2 ^ 32) else s)
  let gone := (List.range 6).filter fun p => portUp s p && tabGet? p old.ports != tabGet? p m.ports
  wake (gone.foldl (fun s p => goDown s p 12 true) s)

/-- Put a map in force as the next epoch. -/
def installMap (s : State) (m : CMap) : State := placeMap s m (curEpoch s + 1) true

/-- Take back what the new map withdraws, and install it once nothing is left (R543). -/
def commitGo (s : State) (j : Job) (m : CMap) : State :=
  let s := cutAll s (mapLeaves s m)
  if cutOpen s (mapLeaves s m) then putJob s { j with st := .waiting, phase := 1 }
  else
    let s := dropStaging (installMap s m)
    finishJob s j .ok (curEpoch s)

/-- CMP_COMMIT (R542, R543). -/
def execCmpCommit (d : Desc) (s : State) : Ans :=
  .next (runDesc s d 0x61 zenith fun s j =>
    let c := ringCtx j.ring
    let base := dbits j.words 16 0 32
    if j.phase = 1 then
      (match s.comp.staging with
       | some m => if curEpoch s = base then commitGo s j m
           else finishJob (s.bumpSat F.CMP_STATS_STALE_COMMITS) j .staleBase (curEpoch s)
       | none => finishJob s j .denied)
    else if commitRuns s then putJob s { j with st := .waiting }
    else
      match fetchRanges s j zenith (cmpRanges j.words) with
      | (none, s) => s
      | (some bs, s) =>
        let es := cutBytes 3456 (dbits j.words 32 0 8) (bs.getD 0 [])
        let s := if ownsStaging s c then { s with comp := { s.comp with stageAt := s.now } } else s
        if dbits j.words 20 0 32 ≠ onesComp 32 base then finishJob s j .cpair
        else if !ownsStaging s c then finishJob s j .denied
        else if curEpoch s ≠ base then finishJob (s.bumpSat F.CMP_STATS_STALE_COMMITS) j .staleBase (curEpoch s)
        else if base = 2 ^ 32 - 1 then finishJob s j .capacity
        else
          let m := s.comp.staging.getD s.comp.map
          if mapMalformed m then finishJob s j .malformed
          else if needsQuorum s m es then finishJob s j .integrity
          else if mapDenied s m then finishJob s j .denied
          else
            let fresh := s.comp.maskDone.filter fun x => s.comp.fenced.contains (tqKey x.2.1 x.2.2) || s.comp.lapsed.contains (tqKey x.2.1 x.2.2)
            commitGo { s with comp := { s.comp with committing := some (j.ring, j.idx), maskDone := fresh } } j m)

/-- MAP_PERSIST (R543): the map is in flash. -/
def execMapPersist (t : Nat) (s : State) : Ans :=
  let s := s.upto t
  .next (if s.flag F.CMP_STATUS_PERSISTED then s
    else { s with comp := { s.comp with persisted := s.comp.map, persistedEpoch := curEpoch s } }.setFlag F.CMP_STATUS_PERSISTED true)

/-! ### RAS events (R106, R559) -/

/-- The 64 bytes of a fault record (R106). -/
def faultImage (r : FaultRec) : List Byte :=
  let ws := [r.kind + r.source * 2 ^ 8 + r.ctx * 2 ^ 16 + r.domain * 2 ^ 32 + r.pool.toNat * 2 ^ 40, r.addr % 2 ^ 57,
             r.seq % 2 ^ 32 + r.detail % 2 ^ 32 * 2 ^ 32, r.time]
  (ws ++ ws.map (onesComp 64)).flatMap (leBytes 8)

/-- CMP_EVENTS (R466, R559). -/
def execCmpEvents (d : Desc) (s : State) : Ans :=
  .next (runDesc s d 0x62 zenith fun s j =>
    let start := dbits j.words 24 0 64
    let buf := dbits j.words 48 0 64
    let ev := s.comp.events.filter fun r => decide (start ≤ r.seq)
    let n := min ev.length (dbits j.words 56 0 32 / 64)
    match prepare s j zenith [⟨buf, 64 * n, .wr⟩] with
    | (false, s) => s
    | (true, s) =>
      let lost := match s.comp.lostEvent with | some q => decide (start ≤ q) | none => false
      finishJob (writeVa s (ringCtx j.ring) buf ((ev.take n).flatMap faultImage)) j
        (if decide (n < ev.length) || lost then .short else .ok) n)

/-! ### LEASE mode (R550 to R552) -/

/-- CMP_LEASE (R550, R551). -/
def execCmpLease (d : Desc) (s : State) : Ans :=
  .next (runDesc s d 0x63 zenith fun s j =>
    let r := s.ring j.ring
    let k := tqKey r.path r.partner
    if isManager s (ringCtx j.ring) then finishJob (heartbeat s) j .ok
    else if s.flag F.CMP_STATUS_LEASE && decide (r.path < 6) && tabHas k s.comp.leases then
      let l := tabPut k (s.now + 1000000 * s.comp.map.node.leaseMs) s.comp.leases
      finishJob { s with comp := { s.comp with leases := l } } j .ok
    else finishJob s j .ok)

/-- MANAGER_TIMEOUT (R550). -/
def execManagerTimeout (t : Nat) (s : State) : Ans :=
  let s := s.upto t
  .next <|
    if s.flag F.CMP_STATUS_LEASE ∨ s.comp.map.managers.isEmpty ∨ s.now < s.comp.lastBeat + 1000000 * s.comp.map.node.mgrMs then s
    else
      let until_ := s.now + 1000000 * s.comp.map.node.leaseMs
      let l := (s.comp.map.partners.filter fun e => e.2).map fun e => (e.1, until_)
      postRas ({ s with comp := { s.comp with leases := l } }.setFlag F.CMP_STATUS_LEASE true) 0x2A zenith 1

/-- LEASE_LAPSE (R552). -/
def execLeaseLapse (p : Fin 6) (q : Fin 256) (t : Nat) (s : State) : Ans :=
  let s := s.upto t
  let k := tqKey p.val q.val
  .next <|
    match tabGet? k s.comp.leases with
    | none => s
    | some e =>
      if s.flag F.CMP_STATUS_LEASE && decide (e ≤ s.now) then
        let s := { s with comp := { s.comp with leases := tabDel k s.comp.leases, lapsed := setAdd k s.comp.lapsed } }
        wake (postRas s 0x2B zenith (p.val * 256 + q.val))
      else s

/-! ### Fences (R553 to R556) -/

/-- The partner's requests not yet applied are discarded and its rings drain (R531, R556). -/
def settlePartner (s : State) (p q : Nat) : State :=
  let mine := s.fab.flights.filter fun f => f.req.port.val = p && f.req.partner.val = q && flightDrops s f
  let s := mine.foldl (fun s f => dropFlight (dropWaiter s (.flight p f.req.tag.val)) f) s
  let s := s.fab.entries.foldl (pruneEntry p) s
  let rs := s.rings.qcs.filter fun e => e.2.path = p && e.2.partner = q
  wake (rs.foldl (fun s e => enterDraining s e.1 false) s)

/-- An action of R556. -/
def fenceGo (s : State) (action p q : Nat) : State :=
  let k := tqKey p q
  match action with
  | 1 => settlePartner { s with comp := { s.comp with fenced := setAdd k s.comp.fenced } } p q
  | 2 => { s with comp := { s.comp with fenced := setDel k s.comp.fenced,
                                         maskDone := s.comp.maskDone.filter fun x => tqKey x.2.1 x.2.2 ≠ k } }
  | 3 => (List.range 6).foldl (fun s p => goDown s p 12 true) (s.setFlag F.CMP_STATUS_EXPELLED true)
  | _ => (List.range 6).foldl tryLinking (s.setFlag F.CMP_STATUS_EXPELLED false)

/-- Does a fence statement break R554 for this device, or name ACTION 5 (R555)? -/
def fenceMalformed (s : State) (b : List Byte) : Bool :=
  let a := leVal ((b.drop 8).take 1)
  leVal (b.take 8) != deviceId s || a == 0 || decide (4 < a) || decide (5 < leVal ((b.drop 9).take 1)) || leVal ((b.drop 11).take 1) != 0 ||
    leVal (b.drop 24) != 0

/-- CMP_FENCE (R555). -/
def execCmpFence (d : Desc) (s : State) : Ans :=
  .next (runDesc s d 0x64 zenith fun s j =>
    if commitRuns s then putJob s { j with st := .waiting }
    else
      match fetchRanges s j zenith (cmpRanges j.words) with
      | (none, s) => s
      | (some bs, s) =>
        let b := bs.getD 0 []
        let seq := s.get F.CMP_FENCE_FENCE_SEQ
        let a := leVal ((b.drop 8).take 1)
        let p := leVal ((b.drop 9).take 1)
        let q := leVal ((b.drop 10).take 1)
        if endorsed s b (cutBytes 3456 (dbits j.words 32 0 8) (bs.getD 1 [])) < s.comp.map.node.quorumK then finishJob s j .integrity
        else if leVal ((b.drop 12).take 4) ≠ curEpoch s ∨ leVal ((b.drop 16).take 8) ≠ seq then
          finishJob (s.bumpSat F.CMP_STATS_STALE_COMMITS) j .staleBase (curEpoch s)
        else if fenceMalformed s b then finishJob s j .malformed
        else
          let s := fenceGo (s.set F.CMP_FENCE_FENCE_SEQ (seq + 1)) a p q
          let s := { s with comp := { s.comp with kept := s.comp.fenced, keptExpel := s.flag F.CMP_STATUS_EXPELLED } }
          finishJob (postRas s 0x2C zenith (a + p * 2 ^ 8 + q * 2 ^ 11)) j .ok)

end Sys2Proof.Machine
end

