-- ==== Sys2Proof/Machine/Copies.lean ====
section
/-! DEFINITION. Copies: their descriptors, extents and rows, and what CPY_MEM, CPY_TO_SP, CPY_FROM_SP and CPY_PLACE move
(R332 to R342). -/

namespace Sys2Proof.Machine

open Sys2Proof

/-! ### The descriptor (R332, R333, R337) -/

/-- A copy-family body (R332). -/
structure CopyD where
  op : Nat
  src : Nat
  dst : Nat
  rowBytes : Nat
  rows : Nat
  srcStride : Int
  dstStride : Int
  srcStep : Int
  dstStep : Int
  tmask : Nat
  split : Bool
  noProm : Bool
  toFar : Bool
  srcArg : Nat
  iter : Nat
  dstArg : Nat
deriving DecidableEq, Repr

/-- The body of a copy descriptor; ITER_MAX 0 reads as 1. -/
def copyOf (ws : List Word) : CopyD :=
  { op := descOp ws, src := dbits ws 16 0 64, dst := dbits ws 24 0 64, rowBytes := dbits ws 32 0 32, rows := dbits ws 36 0 32,
    srcStride := sgn 32 (dbits ws 40 0 32), dstStride := sgn 32 (dbits ws 44 0 32), srcStep := sgn 32 (dbits ws 48 0 32),
    dstStep := sgn 32 (dbits ws 52 0 32), tmask := dbits ws 56 0 16, split := dbits ws 58 0 1 == 1,
    noProm := dbits ws 58 1 1 == 1, toFar := dbits ws 58 2 1 == 1, srcArg := dbits ws 59 0 7,
    iter := max (dbits ws 60 0 16) 1, dstArg := dbits ws 62 0 7 }

/-- Is the source in memory? -/
def CopyD.srcMem (c : CopyD) : Bool := c.op != 0x12
/-- Is the destination in memory? -/
def CopyD.dstMem (c : CopyD) : Bool := c.op == 0x10 || c.op == 0x12

/-- A scratchpad side keeps R333. -/
def spSideOk (a : Nat) (stride step : Int) (rowBytes : Nat) : Bool :=
  decide (a < 2 ^ 22) && a % 16 == 0 && stride % 16 == 0 && step % 16 == 0 && rowBytes % 16 == 0

/-- The format of a copy descriptor, on a ring or in a kernel's copy table (R332, R333). -/
def copyFmt (onRing : Bool) (ws : List Word) : Bool :=
  let c := copyOf ws
  (c.op == 0x10 || c.op == 0x13 || (!onRing && (c.op == 0x11 || c.op == 0x12))) &&
  c.rowBytes != 0 && c.rows != 0 && decide (c.rowBytes * c.rows ≤ 2 ^ 36) &&
  dbits ws 58 3 5 == 0 && dbits ws 59 7 1 == 0 && dbits ws 62 7 1 == 0 && dbits ws 63 0 8 == 0 &&
  (c.op == 0x13 || !c.toFar) && (c.op != 0x13 || c.dst == 0) &&
  decide (c.srcArg ≤ 64) && decide (c.dstArg ≤ 64) &&
  (if c.srcMem then decide (c.src < 2 ^ 57) else spSideOk c.src c.srcStride c.srcStep c.rowBytes) &&
  (if c.op == 0x13 then true
   else if c.dstMem then decide (c.dst < 2 ^ 57) else spSideOk c.dst c.dstStride c.dstStep c.rowBytes) &&
  (!onRing || (c.srcStep == 0 && c.dstStep == 0 && c.srcArg == 0 && c.dstArg == 0 && dbits ws 60 0 16 == 0))

/-- An address moved by a signed amount; below zero it lies in no segment. -/
def moved (a : Nat) (d : Int) : Nat := if (a : Int) + d < 0 then 2 ^ 60 else ((a : Int) + d).toNat

/-- The extent of a side (R337): from its lowest byte to its highest over every row and loop count. -/
def extent (a : Nat) (stride step : Int) (c : CopyD) (right : Right) : Range :=
  let x := stride * ((c.rows : Int) - 1)
  let y := step * ((c.iter : Int) - 1)
  let lo := min x 0 + min y 0
  let hi := max x 0 + max y 0
  ⟨moved a lo, (hi - lo).toNat + c.rowBytes, right⟩

/-- The memory extents of a copy, with the right each needs (R337). -/
def copyExtents (c : CopyD) : List Range :=
  (if c.srcMem then [extent c.src c.srcStride c.srcStep c (if c.op = 0x13 then .rdwr else .rd)] else []) ++
  (if c.dstMem then [extent c.dst c.dstStride c.dstStep c .wr] else [])

/-- A copy with its argument bases and its loop offset applied (R312, R332). -/
def placeCopy (c : CopyD) (args : List Nat) (lc : Nat) : CopyD :=
  let base := fun k : Nat => if k = 0 then 0 else args.getD (k - 1) 0
  { c with src := moved (c.src + base c.srcArg) (c.srcStep * lc), dst := moved (c.dst + base c.dstArg) (c.dstStep * lc) }

/-- Source and destination of row `r`; with SPLIT the scratchpad side counts rows of its tile (R333, R334). -/
def copyRow (c : CopyD) (m r : Nat) : Nat × Nat :=
  let k := if c.split ∧ m ≠ 0 then r / m else r
  (moved c.src (c.srcStride * (if c.srcMem then r else k : Nat)), moved c.dst (c.dstStride * (if c.dstMem then r else k : Nat)))

/-! ### Scratchpads (R334, R335) -/

/-- The logical tiles of a sector that a mask names, in increasing order. -/
def maskTiles (n mask : Nat) : List Nat := (span (16 * n) 16).filter fun l => bits mask (l % 16) 1 = 1

/-- Bytes of a list of 32-bit words. -/
def wordBytes (l : List Nat) : List Byte := l.flatMap (leBytes 4)

/-- The 32-bit words of a list of bytes. -/
def byteWords (b : List Byte) : List Nat := valWords (b.length / 4) (leVal b)

/-- Read a kernel's scratchpad: on its tile, or what is kept of it while the kernel is switched out. -/
def spRead (k : Kern) (s : State) (l a n : Nat) : List Byte :=
  let w := a % 2 ^ 22 / 4
  wordBytes ((span w (n / 4)).map fun i =>
    match k.tiles.find? fun p => p.1 = l with
    | some p => (tile s p.2).word k.frame.bankMask (spKey i)
    | none => match k.kept.find? fun x => x.logical = l with
      | some x => tabGet 0 (spKey i) x.mem
      | none => 0)

/-- Does a copy's access to `n` words of a scratchpad from word `w` touch a bank outside the mask (R286)? -/
def spBad (mask w n : Nat) : Bool := (List.range n).any fun i => !inMask mask (spKey (w + i))

/-- Store words in a tile's scratchpad, whose addresses wrap; a write to a bank outside the mask is discarded. -/
def Tile.putSp (t : Tile) (mask w : Nat) (d : List Nat) : Tile :=
  (d.zip (List.range d.length)).foldl (fun t x =>
    if inMask mask (spKey (w + x.2)) then { t with mem := t.putWord (spKey (w + x.2)) x.1 } else t) t

/-- Write a kernel's scratchpad; a bank outside the mask discards the write and sets BANK_ERR (R286). -/
def spWrite (s : State) (k : Kern) (l a : Nat) (data : List Byte) : State :=
  let w := a % 2 ^ 22 / 4
  let ws := byteWords data
  match k.tiles.find? fun p => p.1 = l with
  | some p =>
    let bad := spBad k.frame.bankMask w ws.length
    let s := putTile s p.2 ((tile s p.2).putSp k.frame.bankMask w ws)
    noteBank (setTFlags s k p.2 { bankErr := bad }) k bad
  | none =>
    match kernOf s k.ring k.idx with
    | none => s
    | some k =>
      let put := fun (m : Tab Nat) (x : Nat × Nat) =>
        if inMask k.frame.bankMask (spKey (w + x.2)) then tabPutD 0 (spKey (w + x.2)) x.1 m else m
      let f := fun x : KeptTile => if x.logical = l then { x with mem := (ws.zip (List.range ws.length)).foldl put x.mem } else x
      putKern s { k with kept := k.kept.map f, bankErr := k.bankErr || spBad k.frame.bankMask w ws.length }

/-! ### Moving bytes -/

/-- The pieces of a row that lie in one destination line each: offset and length. -/
def pieces (dst n : Nat) : List (Nat × Nat) :=
  (linesOf dst n).map fun l =>
    let lo := max dst (l * 64)
    (lo - dst, min (dst + n) (l * 64 + 64) - lo)

/-- Who copies: the context, its view of memory, the kernel (none for a ring copy) and whether reads are touches. -/
structure Copier where
  ctx : Nat
  view : View
  kern : Option Kern
  prom : Bool
deriving DecidableEq, Repr

/-- The memory ranges that a copy reads and writes, row by row. -/
def copyRanges (c : CopyD) (m : Nat) : List Range :=
  (List.range c.rows).flatMap fun r =>
    let (a, b) := copyRow c m r
    (if c.srcMem then [⟨a, c.rowBytes, if c.op = 0x13 then .rdwr else .rd⟩] else []) ++
    (if c.dstMem then [⟨b, c.rowBytes, .wr⟩] else [])

/-- Compressed granules that a copy reads (R338). -/
def packedRead (s : State) (k : Copier) (c : CopyD) (m : Nat) : Nat :=
  if !c.srcMem then 0
  else
    let gs := (List.range c.rows).flatMap fun r => match poolOf s k.ctx (copyRow c m r).1 c.rowBytes .rd with
      | some pa => granulesOf pa c.rowBytes
      | none => []
    (gs.eraseDups.filter fun g => match s.page? (g / 32) with
      | some e =>
        let x := granuleOf e (g % 32)
        !granuleNear e (g % 32) && decide (1 ≤ x.frames) && decide (x.frames < 16)
      | none => false).length

/-- One row of CPY_MEM: data that depends on poison makes its destination line poisoned (R161). The flag says that the row met poison. -/
def rowMem (k : Copier) (c : CopyD) (s : State) (r : Nat) : State × Bool :=
  let (a, b) := copyRow c 0 r
  (pieces b c.rowBytes).foldl (fun (x : State × Bool) p =>
    let s := x.1
    if poisonVa s k.ctx (a + p.1) p.2 (some k.view) then (spoilVa s k.ctx (b + p.1) p.2, true)
    else
      let (d, s) := readVa s k.ctx (a + p.1) p.2 .rd (some k.view) k.prom
      (writeVa s k.ctx (b + p.1) d (some k.view), x.2)) (s, false)

/-- One row of CPY_TO_SP. -/
def rowToSp (k : Copier) (kr : Kern) (ts : List Nat) (c : CopyD) (s : State) (r : Nat) : State × Bool :=
  let (a, b) := copyRow c ts.length r
  if poisonVa s k.ctx a c.rowBytes (some k.view) then (s, true)
  else
    let (d, s) := readVa s k.ctx a c.rowBytes .rd (some k.view) k.prom
    let dests := if c.split then (ts[r % max ts.length 1]?).toList else ts
    (dests.foldl (fun s l => spWrite s kr l b d) s, false)

/-- One row of CPY_FROM_SP; without SPLIT every tile of the mask sends the row, and which of them lands last is the device's choice. -/
def rowFromSp (k : Copier) (kr : Kern) (ts : List Nat) (c : CopyD) (s : State) (r : Nat) : State × Bool :=
  let (a, b) := copyRow c ts.length r
  let (any, s) := if c.split ∨ ts.length ≤ 1 then (r, s) else s.takeFree
  match ts[any % max ts.length 1]? with
  | none => (s, false)
  | some l =>
    let bad := spBad kr.frame.bankMask (a % 2 ^ 22 / 4) (c.rowBytes / 4)
    let s := match kr.tiles.find? fun p => p.1 = l with
      | some p => noteBank (setTFlags s kr p.2 { bankErr := bad }) kr bad
      | none => noteBank s kr bad
    (writeVa s k.ctx b (spRead kr s l a c.rowBytes) (some k.view), false)

/-- All rows of a copy. -/
def runRows (k : Copier) (n : Nat) (c : CopyD) (s : State) : State × Bool :=
  let ts := maskTiles n c.tmask
  let one := fun (s : State) (r : Nat) => match c.op, k.kern with
    | 0x11, some kr => rowToSp k kr ts c s r
    | 0x12, some kr => rowFromSp k kr ts c s r
    | _, _ => rowMem k c s r
  (List.range c.rows).foldl (fun (x : State × Bool) r =>
    let (s, p) := one x.1 r
    (s, x.2 || p)) (s, false)

/-- Counters of a copy engine for a copy that has moved its bytes. -/
def copyCounts (s : State) (e : Nat) (c : CopyD) (packed : Nat) (poison : Bool) : State :=
  let s := s.bump (F.CPY_C_BYTES_BYTES e) (c.rows * c.rowBytes)
  let s := if packed = 0 then s else s.bump (F.CPY_C_DECOMP_GRANULES e) packed
  let s := if packed = 0 ∨ c.noProm then s else s.bump (F.CPY_C_DECOMP_TOUCHES e) packed
  if poison then s.bumpSat (F.CPY_C_COPIES_POISONED e) else s

/-! ### CPY_PLACE (R336) -/

/-- First page, domain and pages of the tensors with a page in a pool range. -/
def tensorsIn (s : State) (pa len : Nat) : List (Nat × List (Nat × Page)) :=
  let fs := ((pagesOf pa len).filterMap fun p => (s.page? p).map (·.tensorBase)).eraseDups
  fs.map fun f => (f, tensorOf s f)

/-- Does a page lie whole in the tier? -/
def inTier (near : Bool) (e : Page) : Bool :=
  match e.split, e.loc with
  | some v, _ => v.all fun x => match x with | .near _ _ => near | .far _ => !near | .swapped _ => false
  | none, .near _ => near
  | none, .far _ => !near
  | none, _ => false

/-- Plan the moves of CPY_PLACE: R55 for a promotion, R54's pin for a demotion. Answers the pages that will move. -/
def planPlace (s : State) (far : Bool) (ts : List (Nat × List (Nat × Page))) : Nat × State :=
  let r := ts.foldl (fun (x : Nat × List (Nat × Page) × State) t =>
    let todo := t.2.filter fun e => !inTier (!far) e.2
    if todo.isEmpty then x
    else
      let ok := if far then !(t.2.any fun e => e.2.pinNear) else promoteRoom x.2.2 (x.2.1 ++ t.2)
      if ok then (x.1 + todo.length, x.2.1 ++ (if far then [] else t.2), planMove x.2.2 ⟨t.1, !far, false⟩)
      else if far then x
      else (x.1, x.2.1, (todo.map fun e => homeOf x.2.2 e.1).eraseDups.foldl
        (fun s n => s.bump (F.TIER_S_PROMOTE_DENIED_COUNT n)) x.2.2)) (0, [], s)
  (r.1, r.2.2)

/-- Where CPY_PLACE stands: moves still planned, all tensors in the tier, or some that did not move. -/
inductive Placed where
  | moving | all | short
deriving DecidableEq, Repr

/-- The tensors of all rows of CPY_PLACE. -/
def placeTensors (s : State) (ctx : Nat) (c : CopyD) : List (Nat × List (Nat × Page)) :=
  ((List.range c.rows).flatMap fun r => match poolOf s ctx (copyRow c 0 r).1 c.rowBytes .rdwr with
    | some pa => tensorsIn s pa c.rowBytes
    | none => []).eraseDups

/-- How far a CPY_PLACE has come. -/
def placeState (s : State) (far : Bool) (ts : List (Nat × List (Nat × Page))) : Placed :=
  if ts.any fun t => s.store.moves.any fun m => m.first = t.1 && m.toNear = !far then .moving
  else if ts.all fun t => t.2.all fun e => inTier (!far) e.2 then .all
  else .short

/-! ### Ring copies (R341, R342) -/

/-- Ring copies queued to an engine that have not been cancelled. -/
def rqOf (s : State) (e : Nat) : List (Nat × Nat) :=
  (tabGet [] e s.plane.rq).filter fun x => match findJob s x.1 x.2 with | some j => j.st != .finished | none => false

/-- The engine that a copy slot drives (R565, R571): its own, the target's while its sector does not serve, or the other one of the sector
while its own has failed. -/
def slotEngine (s : State) (e : Nat) : Nat :=
  let e := if sectorState s (e / 2) = 0 then e else 2 * s.get F.RAS_SECTOR_TARGET + e % 2
  if s.get (F.CPY_C_STATUS_STATE e) = 3 then e / 2 * 2 + (e + 1) % 2 else e

/-- Queue a ring copy to the copy engine of its home sector that holds fewer (R342), one that is Hazy or has failed leaving its copies to
the other (R30, R565); none when the one chosen holds 64. -/
def assignCopy (s : State) (j : Job) : Option (Nat × State) :=
  let c := copyOf j.words
  let n := match poolOf s (ringCtx j.ring) c.src 1 .rd with | some pa => homeOf s (pa / 2097152) | none => 0
  let n := if sectorState s n = 0 then n else s.get F.RAS_SECTOR_TARGET
  let a := (rqOf s (2 * n)).length
  let b := (rqOf s (2 * n + 1)).length
  let st := fun e => s.get (F.CPY_C_STATUS_STATE e)
  let e := if st (2 * n) / 2 < st (2 * n + 1) / 2 then 2 * n
    else if st (2 * n + 1) / 2 < st (2 * n) / 2 then 2 * n + 1
    else if st (2 * n) = 3 then 2 * n + 1
    else if st (2 * n + 1) = 3 then 2 * n
    else if a ≤ b then 2 * n else 2 * n + 1
  if (rqOf s e).length ≥ 64 ∨ st e = 3 then none
  else
    let s := { s with plane := { s.plane with rq := tabPut e (rqOf s e ++ [(j.ring, j.idx)]) s.plane.rq } }
    some (e, putJob s { j with unit := 0x08 + e, phase := 1 })

/-- Is the copy the first of its engine's ring copies that has neither moved its bytes nor been suspended? -/
def rqFirst (s : State) (e : Nat) (j : Job) : Bool :=
  let wait := (rqOf s e).filter fun x => match findJob s x.1 x.2 with
    | some k => k.phase == 1 && k.st != .faulted
    | none => false
  wait.head? == some (j.ring, j.idx)

/-- A ring copy whose engine is running it: it starts (R296), moves its bytes and waits for COPY_COMPLETE. -/
def ringCopyGo (s : State) (j : Job) : State :=
  let e := j.unit - 0x08
  let n := e / 2
  let c := copyOf j.words
  let rs := copyRanges c 0
  let (j, s) := if j.aux = 0 then engineStart s { j with aux := 1 } n (rs.filter fun r => r.right = .rd) else (j, s)
  let s := putJob s j
  if backsOpen s [n] ∧ ctxFresh s (ringCtx j.ring) then s
  else
    let v := jobView s j n
    match prepare s j j.unit rs (some v) with
    | (false, s) => (match findJob s j.ring j.idx with
        | some k => if k.st = .faulted then s.bumpSat (F.CPY_C_COPIES_FAULTED e) else s
        | none => s)
    | (true, s) =>
      let k : Copier := { ctx := ringCtx j.ring, view := v, kern := none, prom := !c.noProm }
      if c.op = 0x13 then
        let (m, s) := planPlace s c.toFar (placeTensors s k.ctx c)
        putJob s { j with phase := 3, aux := m, st := .waiting }
      else
        let pk := packedRead s k c 0
        let (s, bad) := runRows k n c s
        putJob (copyCounts s e c pk bad) { j with phase := 2, code := if bad then .poison else .ok, st := .waiting }

/-- The row of a ring copy. -/
def ringCopyRow (op : Nat) (d : Desc) (s : State) : State :=
  let s := s.upto d.t
  match findJob s d.ring.val d.idx.val with
  | none => s
  | some j =>
    let s := if j.words = d.words ∧ descOp j.words = op ∧ j.st = .queued ∧ j.phase = 0 ∧ mayStart s j 0x08 then
        (match assignCopy s j with | some x => x.2 | none => s)
      else s
    let u := match findJob s d.ring.val d.idx.val with | some j => j.unit | none => 0x08
    runDesc s d op u fun s j =>
      if j.phase = 3 then
        let ts := placeTensors s (ringCtx j.ring) (copyOf j.words)
        match placeState s (copyOf j.words).toFar ts with
        | .moving => s
        | .all => putJob s { j with phase := 2, st := .waiting }
        | .short => putJob s { j with phase := 2, code := .short, detail := j.aux, st := .waiting }
      else if j.phase = 1 ∧ rqFirst s (u - 0x08) j then ringCopyGo s j
      else s

/-! ### Kernel copies (R312 to R314, R339 to R341, R358, R360) -/

/-- Change a kernel copy. -/
def putKcopy (s : State) (c : KCopy) : State :=
  { s with plane := { s.plane with kcopies := s.plane.kcopies.map fun x => if x.no = c.no then c else x } }

/-- How a kernel's copies see memory from a sector (R296). -/
def kernView (s : State) (k : Kern) (n : Nat) : View := ⟨n, if ctxFresh s k.ctx then none else k.stamps[n]?⟩

/-- Move the bytes of a kernel copy. -/
def kernCopyGo (s : State) (k : Kern) (x : KCopy) (c : CopyD) : State :=
  let n := x.slot / 2
  let m := (maskTiles n c.tmask).length
  let v := kernView s k (x.engine / 2)
  match barRanges s (some v) k.ctx (.job k.ring k.idx) (copyRanges c m) with
  | (.wait, s) => s
  | (.code e, s) =>
    planError { s with plane := { s.plane with kcopies := s.plane.kcopies.filter fun y => y.no ≠ x.no } } k 0 e
  | (.fault p kd dt a sg, s) =>
    let w : Waiter := { task := .kernel x.no, ctx := k.ctx, seg := sg, unit := 0x08 + x.engine, since := s.now }
    pageFault ((putKcopy s { x with st := .faulted }).bumpSat (F.CPY_C_COPIES_FAULTED x.engine)) p kd dt a true (0x08 + x.engine) w
  | (.clear, s) =>
    let cp : Copier := { ctx := k.ctx, view := v, kern := some k, prom := !c.noProm }
    if c.op = 0x13 then
      putKcopy (planPlace s c.toFar (placeTensors s k.ctx c)).2 { x with st := .placing }
    else
      let pk := packedRead s cp c m
      let r := s.fab.outReqs.length
      let (s, bad) := runRows cp n c s
      let own := fun o : OutReq => { o with job := some (k.ring, k.idx) }
      let s := { s with fab := { s.fab with outReqs := s.fab.outReqs.take r ++ (s.fab.outReqs.drop r).map own } }
      let s := putKcopy (copyCounts s x.engine c pk bad) { x with st := .done }
      if bad then
        (match kernOf s k.ring k.idx with
         | some k => putKern s { k with hurt := true }
         | none => s)
      else s

/-- The row of a kernel copy: the first copy of the engine that may move its bytes, if its opcode is the row's. -/
def kernCopyRow (op e t : Nat) (s : State) : State :=
  let s := s.upto t
  match s.plane.kcopies.find? fun x => x.engine = e && (x.st = .queued || (x.st = .placing && op == 0x13)) with
  | none => s
  | some x =>
    match kernOf s x.ring x.idx with
    | none => s
    | some k =>
      match k.frame.copies[x.entry]? with
      | none => s
      | some ws =>
        if descOp ws ≠ op ∨ s.get (F.CPY_C_STATUS_STATE e) = 3 ∨ !loopLocked s 2 ∨ !awake s then s
        else
          let c := placeCopy (copyOf ws) k.frame.args x.lc
          if x.st = .placing then
            (if placeState s c.toFar (placeTensors s k.ctx c) = .moving then s else putKcopy s { x with st := .done })
          else
            let s := if k.tiles.isEmpty then s else settle s k (s.now * 6 / 5)
            kernCopyGo s ((kernOf s k.ring k.idx).getD k) x c

/-- The row of a copy opcode. -/
def copyOpRow (op : Nat) (r : CopyRef) (s : State) : State :=
  match r with
  | .ring d => ringCopyRow op d s
  | .kernel e t => kernCopyRow op e.val t s

/-- CPY_MEM (R332 to R342). -/
def execCpyMem (r : CopyRef) (s : State) : Ans := .next (copyOpRow 0x10 r s)

/-- CPY_TO_SP (R334, R335). -/
def execCpyToSp (e : Fin 8) (t : Nat) (s : State) : Ans := .next (kernCopyRow 0x11 e.val t s)

/-- CPY_FROM_SP (R334, R335). -/
def execCpyFromSp (e : Fin 8) (t : Nat) (s : State) : Ans := .next (kernCopyRow 0x12 e.val t s)

/-- CPY_PLACE (R336). -/
def execCpyPlace (r : CopyRef) (s : State) : Ans := .next (copyOpRow 0x13 r s)

/-- COPY_COMPLETE (R314, R340): the earliest copy of the engine that has moved its bytes. -/
def execCopyComplete (e : Fin 8) (onRing : Bool) (t : Nat) (s : State) : Ans :=
  let s := s.upto t
  let e := e.val
  .next <|
    if onRing then
      match (rqOf s e).findSome? fun x => match findJob s x.1 x.2 with
        | some j => if j.phase = 2 then some j else none
        | none => none with
      | none => s
      | some j =>
        let l := (rqOf s e).filter fun x => x ≠ (j.ring, j.idx)
        let s := { s with plane := { s.plane with rq := tabPut e l s.plane.rq } }
        finishJob (s.bump (F.CPY_C_COPIES_COMPLETED e)) j j.code j.detail
    else
      match s.plane.kcopies.find? fun x => x.engine = e && x.st = .done with
      | none => s
      | some x =>
        let s := { s with plane := { s.plane with kcopies := s.plane.kcopies.filter fun y => y.no ≠ x.no } }
        let s := unitIdle (s.bump (F.CPY_C_COPIES_COMPLETED e)) 0x10 (0x08 + e)
        match kernOf s x.ring x.idx with
        | none => s
        | some k =>
          let v := tabGet 0 x.event k.ev + 1
          if v > 65535 then planError s k 6 .malformed else putKern s { k with ev := tabPut x.event v k.ev }

/-- START (R312, R313; R326 for kinds 4, 5 and 8). -/
def execStartCopy (e : Fin 8) (w : Word) (i : Issue) (s : State) : Ans :=
  let v := w.toNat
  let e := e.val
  .next <|
    if bits v 0 4 ≠ 1 then s
    else
      let s0 := s.upto (i.cyc * 5 / 6)
      match activeKern s0 with
      | none => s0
      | some k0 =>
        match openBundle s0 k0 i with
        | .no => s0
        | .held => holdCycle s0 k0
        | .go s k =>
          if i.bundle ≥ k.frame.bundles then planError s k 7 .malformed
          else if bits v 27 37 ≠ 0 then planError s k 1 .malformed
          else
            match k.frame.copies[bits v 4 12]? with
            | none => planError s k 4 .malformed
            | some ws =>
              let c := copyOf ws
              let lc := if bits v 16 1 = 1 then k.lc.getD (bits v 17 2) 0 else 0
              if bits v 16 1 = 1 ∧ lc ≥ c.iter then planError s k 5 .denied
              else if (c.op = 0x11 ∨ c.op = 0x12) ∧
                  (maskTiles (e / 2) c.tmask).any (fun l => bits k.frame.tileMask l 1 = 0) then planError s k 8 .denied
              else if (s0.plane.kcopies.filter fun x => x.engine = slotEngine s0 e).length ≥ 32 then s0.bump (F.CPY_C_STALLS_SLOT_STALLS (slotEngine s0 e))
              else
                let x : KCopy := { no := s.plane.nextCopy, ring := k.ring, idx := k.idx, engine := slotEngine s0 e, entry := bits v 4 12, lc := lc,
                                   event := bits v 19 8, started := i.cyc, slot := e }
                let s := ungate (startLoop s 2) (0x08 + x.engine)
                { s with plane := { s.plane with kcopies := s.plane.kcopies ++ [x], nextCopy := s.plane.nextCopy + 1 } }

end Sys2Proof.Machine
end

