-- ==== Sys2Proof/Machine/Plane.lean ====
section
/-! DEFINITION. The rows of a bundle's slots, and launching, starting, resuming, completing and restarting kernels
(R343 to R360), the power states of tiles (R283 to R287) and the TP_ commands. -/

namespace Sys2Proof.Machine

open Sys2Proof

/-! ### The rows of a bundle -/

/-- LOOP (R329, R330). -/
def execLoopOpen (w : Word) (i : Issue) (s : State) : Ans := .next (loopRow w i s)
/-- YIELD (R353). -/
def execYieldPoint (w : Word) (i : Issue) (s : State) : Ans := .next (yieldRow w i s)
/-- END (R357). -/
def execBundleEnd (w : Word) (i : Issue) (s : State) : Ans := .next (endRow w i s)
/-- TLOAD (R310). -/
def execTload (w : Word) (i : Issue) (s : State) : Ans := .next (tloadRow w i s)
/-- MMA (R255 to R269). -/
def execMma (x : Slot) (s : State) : Ans := .next (mmaRow x s)
/-- LDSA (R265). -/
def execLdsa (x : Slot) (s : State) : Ans := .next (scaleRow 2 0 x s)
/-- LDSB (R265). -/
def execLdsb (x : Slot) (s : State) : Ans := .next (scaleRow 3 1 x s)
/-- ACC_ST (R317). -/
def execAccSt (x : Slot) (s : State) : Ans := .next (accRow true x s)
/-- ACC_LD (R317). -/
def execAccLd (x : Slot) (s : State) : Ans := .next (accRow false x s)
/-- ADD (R259). -/
def execVadd (x : Slot) (s : State) : Ans := .next (vecRow 0x01 x s)
/-- SUB (R259). -/
def execVsub (x : Slot) (s : State) : Ans := .next (vecRow 0x02 x s)
/-- MUL (R259). -/
def execVmul (x : Slot) (s : State) : Ans := .next (vecRow 0x03 x s)
/-- FMA (R259). -/
def execVfma (x : Slot) (s : State) : Ans := .next (vecRow 0x04 x s)
/-- MIN. -/
def execVmin (x : Slot) (s : State) : Ans := .next (vecRow 0x05 x s)
/-- MAX. -/
def execVmax (x : Slot) (s : State) : Ans := .next (vecRow 0x06 x s)
/-- SEL_LT. -/
def execVselLt (x : Slot) (s : State) : Ans := .next (vecRow 0x07 x s)
/-- SEL_EQ. -/
def execVselEq (x : Slot) (s : State) : Ans := .next (vecRow 0x08 x s)
/-- EXP (R260). -/
def execVexp (x : Slot) (s : State) : Ans := .next (specialRow 0x10 x s)
/-- EXP2 (R260). -/
def execVexp2 (x : Slot) (s : State) : Ans := .next (specialRow 0x11 x s)
/-- RCP (R260). -/
def execVrcp (x : Slot) (s : State) : Ans := .next (specialRow 0x12 x s)
/-- RSQ (R260). -/
def execVrsq (x : Slot) (s : State) : Ans := .next (specialRow 0x13 x s)
/-- POPC. -/
def execVpopc (x : Slot) (s : State) : Ans := .next (vecRow 0x18 x s)
/-- XOR. -/
def execVxor (x : Slot) (s : State) : Ans := .next (vecRow 0x19 x s)
/-- AND. -/
def execVand (x : Slot) (s : State) : Ans := .next (vecRow 0x1A x s)
/-- OR. -/
def execVor (x : Slot) (s : State) : Ans := .next (vecRow 0x1B x s)
/-- SHL. -/
def execVshl (x : Slot) (s : State) : Ans := .next (vecRow 0x1C x s)
/-- SHR. -/
def execVshr (x : Slot) (s : State) : Ans := .next (vecRow 0x1D x s)
/-- IADD. -/
def execViadd (x : Slot) (s : State) : Ans := .next (vecRow 0x1E x s)
/-- ISUB. -/
def execVisub (x : Slot) (s : State) : Ans := .next (vecRow 0x1F x s)
/-- CVTI (R318). -/
def execCvti (x : Slot) (s : State) : Ans := .next (cvtiRow x s)
/-- CVTO (R270 to R274, R318). -/
def execCvto (x : Slot) (s : State) : Ans := .next (cvtoRow x s)
/-- RSUM (R259). -/
def execRsum (x : Slot) (s : State) : Ans := .next (reduceRow 0x22 x s)
/-- RMAX (R259). -/
def execRmax (x : Slot) (s : State) : Ans := .next (reduceRow 0x23 x s)
/-- AMOV (R319). -/
def execAmov (x : Slot) (s : State) : Ans := .next (amovRow false x s)
/-- AWR (R319). -/
def execAwr (x : Slot) (s : State) : Ans := .next (amovRow true x s)

/-- Is the corrected-error count of the tiles that a slot names raised (R282)? Only where its bundle issues. -/
def countCorrected (x : Slot) (s s2 : State) : State :=
  if s2.plane = s.plane then s2
  else
    match activeKern s2 with
    | none => s2
    | some k => if k.err ≠ none then s2 else (slotTiles k x).foldl (fun s g => s.bumpSat (F.TP_T_ECC_CORRECTED g)) s2

/-- VLD (R320); `corrected`: the read met an error that ECC corrected (R282). -/
def execVld (x : Slot) (corrected : Bool) (s : State) : Ans :=
  let s2 := portRow false x s
  .next (if corrected then countCorrected x s s2 else s2)

/-- VST (R320). -/
def execVst (x : Slot) (s : State) : Ans := .next (portRow true x s)
/-- AUX_ADD (R321). -/
def execAuxAdd (x : Slot) (s : State) : Ans := .next (auxRow true x s)
/-- AUX_SET (R321). -/
def execAuxSet (x : Slot) (s : State) : Ans := .next (auxRow false x s)
/-- WAIT (R322). -/
def execWaitEv (w : Word) (i : Issue) (s : State) : Ans := .next (waitRow w i s)
/-- SPFENCE (R322). -/
def execSpfence (w : Word) (i : Issue) (s : State) : Ans := .next (spfenceRow w i s)
/-- ACQUIRE (R297, R323). -/
def execAcquire (w : Word) (i : Issue) (s : State) : Ans := .next (rangeRow true w i s)
/-- FLUSH (R300, R323). -/
def execFlush (w : Word) (i : Issue) (s : State) : Ans := .next (rangeRow false w i s)
/-- DRAIN (R322). -/
def execDrain (w : Word) (i : Issue) (s : State) : Ans := .next (drainRow w i s)

/-! ### The launch (R343 to R350) -/

/-- The fields of an image header (R343). -/
structure Header where
  bundles : Nat
  bundleOff : Nat
  copyN : Nat
  copyOff : Nat
  rangeN : Nat
  rangeOff : Nat
  tregN : Nat
  tregOff : Nat
  lsetN : Nat
  lsetOff : Nat
  lrangeN : Nat
  lrangeOff : Nat
  tileMask : Nat
  bankMask : Nat
  saveBytes : Nat
deriving DecidableEq, Repr

/-- A field of bytes: `n` bytes from byte `i`. -/
def fieldOf (b : List Byte) (i n : Nat) : Nat := leVal ((b.drop i).take n)

/-- Read the header. -/
def headerOf (b : List Byte) : Header :=
  { bundles := fieldOf b 8 4, bundleOff := fieldOf b 12 4, copyN := fieldOf b 16 4, copyOff := fieldOf b 20 4, rangeN := fieldOf b 24 4,
    rangeOff := fieldOf b 28 4, tregN := fieldOf b 32 4, tregOff := fieldOf b 36 4, lsetN := fieldOf b 40 4, lsetOff := fieldOf b 44 4,
    lrangeN := fieldOf b 48 4, lrangeOff := fieldOf b 52 4, tileMask := fieldOf b 56 8, bankMask := fieldOf b 64 2,
    saveBytes := fieldOf b 72 8 }

/-- The tables of an image: offset and bytes. -/
def Header.tables (h : Header) : List (Nat × Nat) :=
  [(h.copyOff, h.copyN * 64), (h.rangeOff, h.rangeN * 16), (h.tregOff, h.tregN * 1024), (h.lsetOff, h.lsetN * 8),
   (h.lrangeOff, h.lrangeN * 8)]

/-- R343 for an image of `len` bytes. -/
def imageHeaderOk (b : List Byte) (len : Nat) : Bool :=
  let h := headerOf b
  fieldOf b 0 4 == 0x53494C55 && fieldOf b 4 4 == 1 && decide (1 ≤ h.bundles) && decide (h.bundles ≤ 16777216) &&
  decide (h.copyN ≤ 4096) && decide (h.rangeN ≤ 4096) && decide (h.tregN ≤ 64) && decide (h.lsetN ≤ 1024) &&
  decide (h.lrangeN ≤ 4096) && fieldOf b 66 6 == 0 && fieldOf b 80 176 == 0 &&
  ((h.bundleOff, h.bundles * 192) :: h.tables).all fun t => t.1 % 64 == 0 && decide (t.1 + t.2 ≤ len)

/-- Cut bytes into entries of `n` bytes. -/
def entries (n : Nat) : Nat → List Byte → List (List Byte)
  | 0, _ => []
  | k + 1, b => b.take n :: entries n k (b.drop n)

/-- The eight words of a 64-byte descriptor. -/
def wordsOf (b : List Byte) : List Word := (entries 8 8 b).map fun w => BitVec.ofNat 64 (leVal w)

/-- An entry of the copy table keeps R344 and R333. -/
def copyEntryOk (c : Nat) (ws : List Word) : Bool :=
  copyFmt false ws && descCtx ws == c && dbits ws 3 0 40 == 0 && dbits ws 8 0 64 == 0

/-- An entry of the range table keeps R344. -/
def rangeEntryOk (b : List Byte) : Bool :=
  let v := leVal b
  bits v 59 5 == 0 && bits v 64 40 != 0 && decide (bits v 104 7 ≤ 64) && bits v 111 17 == 0

/-- A range with its argument base added. -/
def rangeOf (args : List Nat) (b : List Byte) : KRange :=
  let v := leVal b
  let k := bits v 104 7
  { va := bits v 0 57 + (if k = 0 then 0 else args.getD (k - 1) 0), len := bits v 64 40, cls := bits v 57 2 }

/-- Every argument index that the tables name. -/
def argsNamed (copies : List (List Word)) (ranges : List (List Byte)) : List Nat :=
  copies.flatMap (fun w => [(copyOf w).srcArg, (copyOf w).dstArg]) ++ ranges.map fun b => bits (leVal b) 104 7

/-- The right a range of a class needs (R346 order 3). -/
def clsRight : Nat → Right
  | 2 => .wr
  | 3 => .rdwr
  | _ => .rd

/-- Does a range of one of the classes hold the extent (R346 order 4)? -/
def heldBy (rs : List KRange) (cls : Nat) (x : Range) : Bool :=
  rs.any fun r => (r.cls == cls || r.cls == 3) && decide (r.va ≤ x.va) && decide (x.va + x.len ≤ r.va + r.len)

/-- Tiles of a sector that are neither FAILED nor Hazy (R352), nor in recovery (R560), nor in a sector that does not serve (R571). -/
def goodTiles (s : State) (n : Nat) : List Nat :=
  (span (16 * n) 16).filter fun g => !s.flag (F.TP_T_STATUS_FAILED g) && !s.flag (F.TP_T_STATUS_HAZY g) &&
    sectorState s n == 0 && !recovering s .tile g

/-- Logical tiles of a sector that a kernel's mask names. -/
def wantTiles (mask n : Nat) : List Nat := (span (16 * n) 16).filter fun l => bits mask l 1 = 1

/-- The tile mapping of R352; none when a sector has too few tiles. -/
def mapTiles (s : State) (mask : Nat) : Option (List (Nat × Nat)) :=
  if (List.range 4).all fun n => decide ((wantTiles mask n).length ≤ (goodTiles s n).length) then
    some ((List.range 4).flatMap fun n => (wantTiles mask n).zip (goodTiles s n))
  else none

/-- Is a launch restartable (R349)? -/
def restartableBy (rs : List KRange) : Bool :=
  !(rs.any fun r => r.cls == 3) && !(rs.any fun o => o.cls == 2 && rs.any fun i => i.cls == 1 &&
    decide (o.va < i.va + i.len) && decide (i.va < o.va + o.len))

/-- Orders 1 to 5 of R346 on a frame: the first code that holds. -/
def launchCheck (s : State) (c : Nat) (f : Frame) (tabOk : Bool) (named : List Nat) : Option Code :=
  let cs := f.copies.map fun w => placeCopy (copyOf w) f.args 0
  let xs := cs.flatMap fun d => (copyExtents d).map fun r => (d, r)
  let denied := fun r : Range => match translate s c r.va r.len r.right with | .code _ => true | _ => false
  if !tabOk then some .malformed
  else if (f.saveBytes ≠ 0 ∧ f.saveVa = 0) ∨ (f.saveBytes = 0 ∧ f.saveVa ≠ 0) ∨
      named.any (fun k => k != 0 && f.args.getD (k - 1) 0 == 0) then some .malformed
  else if xs.any (fun x => denied x.2) ∨ f.ranges.any (fun r => denied ⟨r.va, r.len, clsRight r.cls⟩) then some .denied
  else if xs.any (fun x => !heldBy f.ranges (if x.2.right = .wr then 2 else 1) x.2) then some .malformed
  else if (mapTiles s f.tileMask).isNone then some .capacity
  else none

/-- Launches in the plane's queue (R348). -/
def planeQueued (s : State) : Nat := (s.plane.kerns.filter fun k => k.st = .queued).length

/-- The ranges of an image's tables, and the argument table after them, when there is one (R344). -/
def launchRanges (h : Header) (va av : Nat) : List Range :=
  h.tables.map (fun t => (⟨va + t.1, t.2, .ex⟩ : Range)) ++ (if av = 0 then [] else [⟨av, 512, .rd⟩])

/-- Read ranges one after another. -/
def readAll (s : State) (c : Nat) (rs : List Range) : List (List Byte) × State :=
  rs.foldl (fun (x : List (List Byte) × State) r =>
    let (b, s) := readVa x.2 c r.va r.len r.right
    (x.1 ++ [b], s)) ([], s)

/-- The entries of the tables read: copies, ranges, rows of tile registers, live sets and live ranges. -/
def tableCopies (h : Header) (bs : List (List Byte)) : List (List Word) := (entries 64 h.copyN (bs.getD 0 [])).map wordsOf
def tableRanges (h : Header) (bs : List (List Byte)) : List (List Byte) := entries 16 h.rangeN (bs.getD 1 [])
def tableTregs (h : Header) (bs : List (List Byte)) : List (List Nat) :=
  (entries 1024 h.tregN (bs.getD 2 [])).map fun b => (entries 2 512 b).map leVal
def tableLsets (h : Header) (bs : List (List Byte)) : List Nat := (entries 8 h.lsetN (bs.getD 3 [])).map leVal
def tableLranges (h : Header) (bs : List (List Byte)) : List Nat := (entries 8 h.lrangeN (bs.getD 4 [])).map leVal

/-- Do the entries of the tables keep R344? -/
def tablesOk (c : Nat) (h : Header) (bs : List (List Byte)) : Bool :=
  (tableCopies h bs).all (copyEntryOk c) && (tableRanges h bs).all rangeEntryOk &&
  (tableTregs h bs).all (fun l => l.all fun v => decide (v < 32768)) && (tableLsets h bs).all (fun v => bits v 32 32 == 0) &&
  (tableLranges h bs).all fun v => bits v 51 13 == 0 && decide (1 ≤ bits v 35 16) && decide (bits v 35 16 ≤ 32768)

/-- The launch frame (R347): what a kernel needs, from the image's header bytes and tables and the launch's words. -/
def frameOf (w : List Word) (hb : List Byte) (bs : List (List Byte)) : Frame :=
  let h := headerOf hb
  let args := if dbits w 32 0 64 = 0 then [] else (entries 8 64 (bs.getD 5 [])).map leVal
  { imageVa := dbits w 16 0 64, bundles := h.bundles, bundleOff := h.bundleOff, copies := tableCopies h bs,
    ranges := (tableRanges h bs).map (rangeOf args), tregs := tableTregs h bs,
    lsets := (tableLsets h bs).map fun v => (bits v 0 16, bits v 16 16),
    lranges := (tableLranges h bs).map fun v => ⟨bits v 0 4, bits v 4 16, bits v 20 15, bits v 35 16⟩,
    tileMask := h.tileMask, bankMask := h.bankMask, saveBytes := h.saveBytes, saveVa := dbits w 40 0 64, args := args,
    seed := dbits w 48 0 64, bytes := hb ++ bs.flatten }

/-- The kernel of a launch that has passed its checks. -/
def newKern (j : Job) (f : Frame) : Kern :=
  { ring := j.ring, idx := j.idx, ctx := ringCtx j.ring, frame := f, st := .queued, restartable := restartableBy f.ranges }

/-- May the save area not be used (R345)? -/
def saveDenied (s : State) (c : Nat) (w : List Word) (h : Header) : Bool :=
  h.saveBytes != 0 && dbits w 40 0 64 != 0 &&
    (match translate s c (dbits w 40 0 64) h.saveBytes .rdwr with | .code _ => true | _ => false)

/-- The end of a launch's queue time: the checks of R346 on its frame, and the plane's queue. -/
def launchQueue (s : State) (j : Job) (hb : List Byte) (bs : List (List Byte)) : State :=
  let c := ringCtx j.ring
  let h := headerOf hb
  let f := frameOf j.words hb bs
  match launchCheck s c f (tablesOk c h bs) (argsNamed (tableCopies h bs) (tableRanges h bs)) with
  | some e => finishJob s j e
  | none =>
    if planeQueued s ≥ 4096 then putJob s { j with st := .queued, phase := 2 }
    else
      let used := rangeSegs s c (f.ranges.map fun r => ⟨r.va, r.len, clsRight r.cls⟩)
      let s := putJob s { j with st := .queued, phase := 1, unit := 0x20, segs := (j.segs ++ used).eraseDups }
      let s := { s with plane := { s.plane with kerns := s.plane.kerns ++ [newKern j f] } }
      s.raiseTo F.TP_SEQ_QUEUE_PEAK (planeQueued s)

/-- A launch at queue time (R346 to R348): checks, the launch frame, and the plane's queue. -/
def launchGo (s : State) (j : Job) : State :=
  let c := ringCtx j.ring
  let w := j.words
  let va := dbits w 16 0 64
  let len := dbits w 24 0 32
  if j.phase = 1 then s
  else if len < 256 then finishJob s j .malformed
  else
    match prepare s j 0x20 [⟨va, 256, .ex⟩] with
    | (false, s) => s
    | (true, s) =>
      let (hb, s) := readVa s c va 256 .ex
      let h := headerOf hb
      if !imageHeaderOk hb len then finishJob s j .malformed
      else if saveDenied s c w h then finishJob s j .denied
      else
        let rs := launchRanges h va (dbits w 32 0 64)
        match prepare s j 0x20 rs with
        | (false, s) => s
        | (true, s) =>
          if rs.any (fun r => poisonVa s c r.va r.len) ∨ poisonVa s c va 256 then finishJob s j .poison
          else
            let (bs, s) := readAll s c rs
            launchQueue s j hb bs

/-- Format of the launch family (R345). -/
def launchFmt (ws : List Word) : Bool :=
  descOp ws == 0x20 && dbits ws 16 0 64 % 64 == 0 && dbits ws 28 0 32 == 0 && dbits ws 32 0 64 % 64 == 0 && dbits ws 56 0 64 == 0

/-- KERNEL_LAUNCH (R345 to R348). -/
def execKernelLaunch (d : Desc) (s : State) : Ans := .next (runDesc s d 0x20 0x20 launchGo)

/-- LAUNCH_QUEUE_ROOM (R348): the earliest launch that waits for room is queued. -/
def execLaunchQueueRoom (t : Nat) (s : State) : Ans :=
  let s := s.upto t
  .next <|
    match s.rings.jobs.find? fun j => descOp j.words = 0x20 && j.phase = 2 && j.st = .queued with
    | none => s
    | some j => if planeQueued s < 4096 then ownReqs (launchGo s j) s.fab.outReqs.length j else s

/-! ### Starting and resuming (R284 to R287, R351, R352, R355) -/

/-- Can the sequencer take this kernel now: a queued one, or one switched out whose copies have all resumed? -/
def kernReady (s : State) (k : Kern) : Bool :=
  (match findJob s k.ring k.idx with | some j => j.st != .finished | none => false) &&
  !throttled s k.ctx && k.err == none && (mapTiles s k.frame.tileMask).isSome &&
  (match k.st with
   | .queued => s.flag F.TP_CTRL_PLANE_EN
   | .out _ => !copyFaulted s k
   | _ => false)

/-- Is the kernel switched out? -/
def Kern.isOut (k : Kern) : Bool := match k.st with | .out _ => true | _ => false

/-- Which of two kernels goes first: the domain next in turn; in it, switched-out kernels in the order of their suspension before
new launches in queue order. -/
def goesBefore (s : State) (a b : Kern) : Bool :=
  let turn := fun k : Kern => (ctxDomain s k.ctx + 255 - s.plane.rr) % 256
  decide (turn a < turn b) ||
    (turn a == turn b && ((a.isOut && !b.isOut) || (a.isOut && b.isOut && decide (a.outAt < b.outAt))))

/-- The kernel that the sequencer takes next. -/
def nextKern (s : State) : Option Kern :=
  (s.plane.kerns.filter (kernReady s)).foldl (fun b k => match b with
    | none => some k
    | some x => if goesBefore s k x then some k else some x) none

/-- The banks of a physical tile that keep a switched-out kernel's data in place (R287). -/
def keptBanks (s : State) (g : Nat) : List Nat :=
  (s.plane.kerns.flatMap fun k => k.kept.flatMap fun x => if x.phys = g then x.banks else []).eraseDups

/-- Banks that a kernel needs are kept in place no longer (R354). -/
def giveUpBanks (s : State) (g mask : Nat) : State :=
  let f := fun x : KeptTile => if x.phys = g then { x with banks := x.banks.filter fun b => bits mask b 1 = 0 } else x
  let h := fun k : Kern => { k with kept := k.kept.map f }
  { s with plane := { s.plane with kerns := s.plane.kerns.map h } }

/-- A number with the bits of a list of banks. -/
def bankBits (l : List Nat) : Nat := (l.map fun b => 2 ^ b).sum

/-- The bytes of a word that a choice of four bits keeps; the others read zero. -/
def keepBytes (v c : Nat) : Nat := ((List.range 4).map fun i => if bits c i 1 = 1 then bits v (8 * i) 8 * 256 ^ i else 0).sum

/-- Bring a physical tile and its banks ON for logical tile `l` of a kernel (R283 to R287). `kept` holds what a resumed kernel
finds again. Answers the wake time in ns. -/
def wakeTile (s : State) (k : Kern) (l g : Nat) (kept : Option KeptTile) : Nat × State :=
  let mask := k.frame.bankMask
  let dom := ctxDomain s k.ctx + 1
  let st := s.get (F.TP_T_STATUS_STATE g)
  let on := s.get (F.TP_T_STATUS_BANKS_ON g)
  let ret := s.get (F.TP_T_STATUS_BANKS_RET g)
  let t := tile s g
  let has := fun b => bits on b 1 = 1 ∨ bits ret b 1 = 1
  let held := (keptBanks s g).filter fun b => bits mask b 1 = 0
  let stays := fun b => bits mask b 1 = 1 && decide (has b) && (tabGet 0 b t.bankDom == 0 || tabGet 0 b t.bankDom == dom)
  let bankWake := (List.range 16).foldl (fun w b =>
    if bits mask b 1 = 0 ∨ bits on b 1 = 1 then w else max w (if bits ret b 1 = 1 then 100 else 2000)) 0
  let tileWake := if st = 2 then 0 else if st = 1 then 500 else 10000
  let n := s.free + 1
  let keep := fun w : Nat => if w < 2 ^ 20 then (held.contains (w / 65536) || (kept.isNone && stays (w / 65536)))
    else kept.isNone && st == 2 && decide (w < 2 ^ 23)
  let base := t.mem.filter fun e => keep e.1
  let back := match kept with
    | none => base
    | some x => x.mem.foldl (fun m e => tabPutD 0 e.1
        (if inLive k k.live l e.1 then e.2 else keepBytes e.2 (Config.lostWord n e.1)) m) base
  let trs := match kept with
    | some x => x.tregs
    | none => match k.frame.tregs with
      | [] => []
      | row :: _ => (span (l * 8) 8).map fun i => row.getD i 0
  let mem := (span 1 7).foldl (fun m r => tabPutD 0 (trKey r) (trs.getD r 0) m) back
  let lost := if kept.isSome then 0 else if st = 2 then t.lost else n
  let rng := if kept.isSome then Config.lostWord n (2 ^ 24 + g) else Nat.xor k.frame.seed g
  let s := { s with free := n }
  let s := putTile s g { t with mem := mem, rng := rng, evs := [], held := [], lost := lost,
                                bankDom := t.bankDom.filter fun e => bits mask e.1 1 = 1 || held.contains e.1 }
  let s := (giveUpBanks s g mask).set (F.TP_T_STATUS_STATE g) 2
  let s := (s.set (F.TP_T_STATUS_BANKS_ON g) mask).set (F.TP_T_STATUS_BANKS_RET g) (bankBits held)
  (max bankWake tileWake, s.setFlag (F.TP_T_STATUS_BUSY g) true)

/-- Wake every tile of a mapping. -/
def wakeTiles (s : State) (k : Kern) (ts : List (Nat × Nat)) : Nat × State :=
  ts.foldl (fun (x : Nat × State) p =>
    let kept := if k.isOut then some ((k.kept.find? fun q => q.logical = p.1).getD ⟨p.1, p.2, [], [], []⟩) else none
    let (w, s) := wakeTile x.2 k p.1 p.2 kept
    (max x.1 w, s)) (0, s)

/-- The stamps of a kernel of a context in next-kernel mode (R296). -/
def kernStamps (s : State) (c : Nat) : List Nat × State :=
  if ctxFresh s c then ([], s)
  else (List.range 4).foldl (fun (x : List Nat × State) n =>
    let (k, s) := nextStamp x.2 n
    (x.1 ++ [k], s)) ([], s)

/-- Start a kernel on its tiles (R352). -/
def startKern (s : State) (k : Kern) (ts : List (Nat × Nat)) : State :=
  let (w, s) := wakeTiles s k ts
  let clear := fun (s : State) (p : Nat × Nat) =>
    [F.TP_T_FLAGS_INVALID p.2, F.TP_T_FLAGS_OVERFLOW p.2, F.TP_T_FLAGS_SATURATED p.2, F.TP_T_FLAGS_INT_WRAP p.2,
     F.TP_T_FLAGS_NAN_SCALE p.2, F.TP_T_FLAGS_BANK_ERR p.2].foldl (fun s f => s.set f 0) s
  let s := ts.foldl clear s
  let (ks, s) := kernStamps s k.ctx
  let k := { k with st := .starting, tiles := ts, lc := [0, 0, 0, 0], ev := [], loops := [], begun := false, stamps := ks,
                    startedAt := if k.restarts = 0 then s.now else k.startedAt, runFrom := s.now, readyAt := s.now + w }
  let s := putKern s k
  let s := { s with plane := { s.plane with active := some (k.ring, k.idx), rr := ctxDomain s k.ctx } }
  match findJob s k.ring k.idx with
  | some j => putJob s { j with st := .running }
  | none => s

/-- KERNEL_START (R351, R352, R359): a restartable launch is first logged. -/
def execKernelStart (t : Nat) (s : State) : Ans :=
  let s := s.upto t
  .next <|
    match s.plane.active, nextKern s with
    | none, some k =>
      if k.isOut ∨ !planeRuns s then s
      else
        match mapTiles s k.frame.tileMask with
        | none => s
        | some ts =>
          if k.restartable ∧ k.restarts = 0 then
            let ws := match findJob s k.ring k.idx with | some j => j.words | none => []
            onLog (logWrite s 1 0x20 k.ctx k.ring k.idx (leBytes 64 (descVal ws) ++ k.frame.bytes)) id
              (match findJob s k.ring k.idx with
                | some j => dropKern (finishJob s j .capacity) k
                | none => s) fun s => startKern s k ts
          else startKern s k ts
    | _, _ => s

/-- PLANE_START (R285, R327): everything is ON and the first bundles are in the stream buffer. -/
def execPlaneStart (t : Nat) (s : State) : Ans :=
  let s := s.upto t
  .next <|
    match activeKern s with
    | none => s
    | some k =>
      if k.st ≠ .starting ∨ s.now < k.readyAt ∨ !planeRuns s then s
      else
        match findJob s k.ring k.idx with
        | none => s
        | some j =>
          let n := min (s.get F.TP_SEQ_CTRL_FETCH_LEAD) k.frame.bundles * 192
          let r : Range := ⟨k.frame.imageVa + k.frame.bundleOff, n, .ex⟩
          if j.st = .faulted then s
          else
            match prepare s j 0x20 [r] with
            | (false, s) => s
            | (true, s) =>
              let s := putJob s { j with st := .running }
              if poisonVa s k.ctx r.va r.len then putKern s { k with hurt := true }
              else
                let (_, s) := readVa s k.ctx r.va r.len .ex
                putKern s { k with st := .issuing, cyc := ceilDiv (s.now * 6) 5, idle := 0, bundle := 0, begun := false }

/-- KERNEL_RESUME (R353 to R355). -/
def execKernelResume (t : Nat) (s : State) : Ans :=
  let s := s.upto t
  .next <|
    match s.plane.active, nextKern s with
    | none, some k =>
      if !k.isOut ∨ !planeRuns s then s
      else
        match mapTiles s k.frame.tileMask with
        | none => s
        | some ts =>
          let (w, s) := wakeTiles s k ts
          let k := { k with st := .issuing, tiles := ts, kept := [], cyc := ceilDiv ((s.now + w) * 6) 5, idle := 0, runFrom := s.now }
          let s := putKern s k
          let s := { s with plane := { s.plane with active := some (k.ring, k.idx), rr := ctxDomain s k.ctx } }
          match findJob s k.ring k.idx with
          | some j => putJob s { j with st := .running }
          | none => s
    | _, _ => s

/-! ### The end of a kernel (R302, R326, R350, R357, R360) -/

/-- Stall cycles of the banks (R278 to R281) and held cycles (R328): the spec fixes how they count, the bank traffic of copies and
fetches that they count is timing, so what a kernel has added is a free value. -/
def countStalls (s : State) (k : Kern) : State :=
  if kernConf s k then s
  else
    let step := fun (s : State) (f : Fld) =>
      let (v, s) := s.takeFree
      s.bumpSat f v
    let s := if s.flag F.TP_CTRL_COUNT_EN then
        k.tiles.foldl (fun s p => [F.TP_T_CONFLICT0_MA p.2, F.TP_T_CONFLICT0_MB p.2, F.TP_T_CONFLICT0_ACC p.2,
          F.TP_T_CONFLICT0_VLD p.2, F.TP_T_CONFLICT1_VST p.2, F.TP_T_CONFLICT1_CPY p.2, F.TP_T_CONFLICT1_SAVE p.2].foldl step s) s
      else s
    let (a, s) := s.takeFree
    let (b, s) := s.takeFree
    (s.bump F.TP_STALLS_PLANE_STALLS a).bump F.TP_SEQ_FETCH_UNDERRUN b

/-- The code of a kernel that has ended, and its DETAIL. -/
def kernCode (s : State) (k : Kern) : Code × Nat :=
  let low := k.restarts % 16
  let run := min ((s.now - k.startedAt) / 1000) (2 ^ 26 - 1)
  match k.err with
  | some (c, b) => (c, low + 16 * b)
  | none =>
    if k.hurt then (.poison, low)
    else if k.bankErr then (.denied, low)
    else if k.restarts ≠ 0 then (.restarted, low + 16 * run)
    else (.ok, low + 16 * run)

/-- KERNEL_COMPLETE (R357): when no copy of the kernel is left, its context's lines are flushed (R302), and then its launch ends. A
switched-out kernel that a fault ended goes the same way. -/
def execKernelComplete (t : Nat) (s : State) : Ans :=
  let s := s.upto t
  let ended := fun k : Kern => k.st = .ending || (k.isOut && k.err != none)
  .next <|
    match s.plane.kerns.find? ended with
    | none => s
    | some k =>
      if s.plane.kcopies.any fun c => c.ring = k.ring && c.idx = k.idx then s
      else
        let s := if k.flushed then s else
          flushContext (putKern (settle (applyAux s k) k (k.cyc + 10000)) { k with flushed := true, aux := [] }) [0, 1, 2, 3] k.ctx
        if backsOpen s [0, 1, 2, 3] then s
        else
          let k := (kernOf s k.ring k.idx).getD k
          let (c, d) := kernCode s k
          let s := dropKern (leaveTiles (countStalls s k) k) k
          let s := s.bump F.TP_SEQ_STATS_KERNELS
          match findJob s k.ring k.idx with
          | some j => if j.st = .finished then s else finishJob s j c d
          | none => s

/-- KERNEL_RESTART (R282, R360): an uncorrectable error of a tile's scratchpad, or one that has stopped the kernel already. -/
def execKernelRestart (tl : Option (Fin 64)) (t : Nat) (s : State) : Ans :=
  let s := s.upto t
  .next <|
    match activeKern s with
    | none => s
    | some k =>
      let hit := match tl with | some g => k.tiles.any fun p => p.2 = g.val | none => k.hurt
      if !hit ∨ k.flushed then s
      else
        let s := match tl with | some g => s.bumpSat (F.TP_T_ECC_UNCORRECTED g.val) | none => s
        if k.restartable ∧ k.restarts < s.get F.TP_SEQ_CTRL_MAX_RESTARTS ∧ k.err = none then
          let s := { s with plane := { s.plane with
            kcopies := s.plane.kcopies.filter fun c => !(c.ring = k.ring && c.idx = k.idx), active := none } }
          let wipe := fun (s : State) (p : Nat × Nat) =>
            let t := tile s p.2
            let s := putTile s p.2 { t with mem := t.mem.filter fun e => !(decide (e.1 < 2 ^ 20) && inMask k.frame.bankMask e.1) }
            s.set (F.TP_T_STATUS_BANKS_ON p.2) 0
          let s := k.tiles.foldl wipe (leaveTiles s k)
          let n : Kern := { ring := k.ring, idx := k.idx, ctx := k.ctx, frame := k.frame, st := .queued, restartable := true,
                            restarts := k.restarts + 1, startedAt := k.startedAt }
          let s := (putKern s n).bumpSat F.TP_SEQ_STATS_RESTARTS
          match mapTiles s n.frame.tileMask with
          | some ts => startKern s n ts
          | none => (match findJob s k.ring k.idx with
              | some j => putJob s { j with st := .queued }
              | none => s)
        else putKern s { k with hurt := true, st := .ending }

/-! ### Tiles and caches by command -/

/-- TILE_IDLE_TIMER (R283, R287): a tile without a kernel goes to RETENTION, then OFF; the scratchpad banks that keep nothing
go OFF. -/
def execTileIdleTimer (g : Fin 64) (t : Nat) (s : State) : Ans :=
  let s := s.upto t
  let g := g.val
  let x := tile s g
  let held := keptBanks s g
  let idle := s.now - x.idleAt
  let busy := match activeKern s with | some k => k.tiles.any fun p => p.2 = g | none => false
  .next <|
    if busy then s
    else if s.get (F.TP_T_STATUS_STATE g) = 2 ∧ 1000 * s.get F.TP_POWER_CFG_TILE_RET_US ≤ idle then
      let mem := x.mem.filter fun e => decide (e.1 < 2 ^ 20) && held.contains (e.1 / 65536)
      let s := putTile { s with free := s.free + 1 } g { x with mem := mem, lost := s.free + 1 }
      let s := { s with clk := { s.clk with idleT := s.now } }
      ((s.set (F.TP_T_STATUS_STATE g) 1).set (F.TP_T_STATUS_BANKS_ON g) 0).set (F.TP_T_STATUS_BANKS_RET g) (bankBits held)
    else if s.get (F.TP_T_STATUS_STATE g) = 1 ∧ 1000000 * s.get F.TP_POWER_CFG_TILE_OFF_MS ≤ idle ∧ held = [] then
      (s.set (F.TP_T_STATUS_STATE g) 0).set (F.TP_T_STATUS_BANKS_RET g) 0
    else s

/-- The sectors that a mask names. -/
def maskSectors (m : Nat) : List Nat := (List.range 4).filter fun n => bits m n 1 = 1

/-- Is the latest maintenance operation still under way? -/
def maintBusy (s : State) : Bool := s.flag F.TP_MAINT_CMD_BUSY && backsOpen s (maskSectors (s.get F.TP_MAINT_CMD_SECTORS))

/-- A maintenance command: refused with MALFORMED, else run in the sectors named. -/
def maintRow (sectors : Nat) (ranged : Bool) (f : State → List Nat → State) (s : State) : State :=
  if maintBusy s then s
  else
    let base := s.get F.TP_MAINT_BASE_POOL_BASE
    let len := s.get F.TP_MAINT_LEN_LENGTH
    let bad := sectors == 0 || (ranged && (base % 64 != 0 || len % 64 != 0 || len == 0))
    if bad then (s.set F.TP_MAINT_CMD_RESULT 0x0D).setFlag F.TP_MAINT_CMD_BUSY false
    else
      let s := f s (maskSectors sectors)
      ((s.set F.TP_MAINT_CMD_RESULT 0).set F.TP_MAINT_CMD_SECTORS sectors).setFlag F.TP_MAINT_CMD_BUSY true

/-- OP FLUSH (R300). -/
def maintFlush (s : State) (n : Nat) : State :=
  maintRow n true (fun s ns => flushRange s ns (s.get F.TP_MAINT_BASE_POOL_BASE) (s.get F.TP_MAINT_LEN_LENGTH)) s

/-- OP ACQUIRE (R297). -/
def maintAcquire (s : State) (n : Nat) : State :=
  maintRow n true (fun s ns => acquireRange s ns (s.get F.TP_MAINT_BASE_POOL_BASE) (s.get F.TP_MAINT_LEN_LENGTH)) s

/-- OP FLUSH_ALL. -/
def maintFlushAll (s : State) (n : Nat) : State :=
  maintRow n false (fun s ns => ns.foldl (fun s m => flushLines s m (guestLines s m)) s) s

/-- Writing CLEAR of a tile's conflict registers (R281). -/
def conflictClear (s : State) (g : Nat) : State :=
  [F.TP_T_CONFLICT0_MA g, F.TP_T_CONFLICT0_MB g, F.TP_T_CONFLICT0_ACC g, F.TP_T_CONFLICT0_VLD g, F.TP_T_CONFLICT1_VST g,
    F.TP_T_CONFLICT1_CPY g, F.TP_T_CONFLICT1_SAVE g].foldl (fun s f => s.set f 0) s

end Sys2Proof.Machine
end

