-- ==== Sys2Proof/Machine/Repair.lean ====
section
/-! DEFINITION. Faults and their recovery per domain, Haze of tiles and engines, evacuation and return of a sector, and the live firmware
update (spec/14, R560 to R575). -/

namespace Sys2Proof.Machine

open Sys2Proof

/-! ### Work that leaves a failed unit -/

/-- The STATE field of an engine by its instance number (R558); the migration units have none. -/
def engineState (e : Nat) : Option Fld :=
  if e < 8 then some (F.CPY_C_STATUS_STATE e)
  else if e < 12 then some (F.EMB_E_STATUS_STATE (e - 8))
  else if e < 16 then some (F.SRCH_Q_STATUS_STATE (e - 12))
  else if e < 20 then some (F.BLK_B_STATUS_STATE (e - 16)) else none

/-- Set the STATE of an engine. -/
def setEngine (s : State) (e v : Nat) : State := match engineState e with | some f => s.set f v | none => s

/-- The engine that takes over from one that has failed (R390, R432, R467, R565, R571). -/
def heirOf (s : State) (e : Nat) : Nat :=
  if e < 8 then slotEngine s e
  else if e < 12 then 8 + serving F.EMB_E_STATUS_STATE s (e - 8)
  else if e < 16 then 12 + serving F.SRCH_Q_STATUS_STATE s (e - 12)
  else if e < 20 then 16 + serving F.BLK_B_STATUS_STATE s (e - 16) else e

/-- The work of a failed engine moves to its heir: copies wait there, and interrupted jobs of the other engines are replayed (R390, R433, R467). -/
def moveWork (s : State) (e : Nat) : State :=
  let h := heirOf s e
  if h = e then s
  else if e < 8 then
    let q := rqOf s e
    let mv := fun x : KCopy => if x.engine = e then { x with engine := h } else x
    let mj := fun j : Job => if q.contains (j.ring, j.idx) then { j with unit := 0x08 + h } else j
    let s := { s with plane := { s.plane with rq := tabDel e (tabPut h (rqOf s h ++ q) s.plane.rq), kcopies := s.plane.kcopies.map mv } }
    { s with rings := { s.rings with jobs := s.rings.jobs.map mj } }
  else
    let hit := fun j : Job => decide (j.unit = 0x08 + e) && j.phase != 0 && j.st != .finished
    let mj := fun j : Job => if hit j then { j with unit := 0x08 + h, replayed := true } else j
    let n := (s.rings.jobs.filter hit).length
    let s := if 12 ≤ e ∧ e < 16 then s.bumpSat (F.SRCH_Q_STATS_RESTARTS (h - 12)) n else s
    { s with rings := { s.rings with jobs := s.rings.jobs.map mj } }

/-- The kernels that use a tile, or keep banks on it, are stopped (R360). -/
def hurtTile (s : State) (g : Nat) : State :=
  let hit := fun k : Kern => k.tiles.any (fun p => p.2 = g) || k.kept.any (fun x => x.phys = g && !x.banks.isEmpty)
  { s with plane := { s.plane with kerns := s.plane.kerns.map fun k => if hit k then { k with hurt := true } else k } }

/-- A tile is reset: its words are zero, and those outside its scratchpad are not known. -/
def resetTile (s : State) (g : Nat) : State :=
  let t := tile s g
  putTile { s with free := s.free + 1 } g { rng := t.rng, idleAt := s.now, lost := s.free + 1 }

/-! ### Stacks -/

/-- The pages of a stack's sector that lie on the stack, with its frames. -/
def stackPages (s : State) (m : Nat) : List (Nat × Page) :=
  (sectorPages s (m / 2)).filter fun e => e.2.frames.any fun f => f % 2 = m % 2

/-- The lines of a page that lie on a stack. -/
def stackLines (m p : Nat) (e : Page) : List Nat :=
  match e.split with
  | none => span (p * 32768) 32768
  | some v => (v.zip (List.range 32)).flatMap fun x => match x.1 with
      | .near f _ => if f % 2 = m % 2 then span (p * 32768 + x.2 * 1024) 1024 else []
      | _ => []

/-- A stack that fails poisons what still lies on it, with one record a page (R560). -/
def failStack (s : State) (m : Nat) : State :=
  let s := s.set (F.HBM_H_STATUS_STATE m) 5
  (stackPages s m).foldl (fun s e =>
    let l := stackLines m e.1 e.2
    let s := { s with store := { s.store with poison := l.foldl (fun a x => setAdd x a) s.store.poison } }
    postFault s { kind := 6, source := 0x1C + m / 2, pool := true, addr := (l.headD 0) * 64, detail := m }) s

/-! ### Sector evacuation (R567 to R572) -/

/-- Near frames of the structures of R571: queue contexts 8, launch frames 272, version records and relocation map 16, ledger 16, lost-line
table and directory 33. -/
def evacFrames : Nat := 345

/-- Allocated pages of a home index. -/
def indexPages (s : State) (n : Nat) : List (Nat × Page) := s.store.pages.filter fun e => homeIndex e.1 = n

/-- Change the near frames a sector holds besides page frames. -/
def addExtra (s : State) (n : Nat) (d : Int) : State :=
  let k : Nat := tabGet 0 n s.store.extra
  let v : Nat := ((k : Int) + d).toNat
  { s with store := { s.store with extra := tabPutD 0 n v s.store.extra } }

/-- EVACUATING or RETURNING ends once every page of the index has moved (R567, R570). -/
def evacCheck (s : State) (n : Nat) : State :=
  let st := sectorState s n
  let t := s.get F.RAS_SECTOR_TARGET
  if (st ≠ 1 ∧ st ≠ 5) ∨ (indexPages s n).any (fun e => !s.comp.moved.contains e.1) then s
  else
    let s := { s with comp := { s.comp with moved := [] } }
    if st = 1 then
      let s := setSectorState (addExtra (setHomeEntry s n t) t (-1)) n 2
      if recovering s .sector n then recovered s .sector n else s
    else setSectorState (addExtra (setHomeEntry s n n) t (-(evacFrames + 1 : Nat))) n 0

/-- Show the progress of an evacuation or return. -/
def showEvac (s : State) (n : Nat) : State :=
  (s.set F.RAS_EVAC_MOVED s.comp.moved.length).set F.RAS_EVAC_TOTAL (indexPages s n).length

/-- EVACUATING begins toward a target (R570, R571). -/
def evacStart (s : State) (n t : Nat) : State :=
  let s := setSectorState (s.set F.RAS_SECTOR_TARGET t) n 1
  let s := addExtra { s with comp := { s.comp with moved := [] } } t (evacFrames + 1 : Nat)
  evacCheck (showEvac s n) n

/-- R569, but for TARGET equal to SECTOR: another sector is not SERVING, or the target lacks room. -/
def evacRefused (s : State) (n t : Nat) : Option Code :=
  if (List.range 4).any (fun m => sectorState s m ≠ 0) ∨ t = n then some .denied
  else if sectorLimit s t < residentPages s t + residentPages s n ∨ freeNear s t < pinned s n + evacFrames then some .capacity
  else none

/-- The engines of a sector, by instance number. -/
def sectorEngines (n : Nat) : List Nat := [2 * n, 2 * n + 1, 8 + n, 12 + n, 16 + n]

/-- The units of a sector that has failed stop (R571). -/
def stopSector (s : State) (n : Nat) : State :=
  let s := (span (16 * n) 16).foldl hurtTile s
  let s := (sectorEngines n).foldl (fun s e => setEngine s e 3) s
  (sectorEngines n).foldl moveWork s

/-- The sector with most free space but `n`. -/
def roomiest (s : State) (n : Nat) : Nat :=
  let room := fun m => freeNear s m * 512 + freeFar s m
  ((List.range 4).filter fun m => m ≠ n).foldl (fun b m => if b = n ∨ room b < room m then m else b) n

/-- The pages of an index that are lost with its sector and lie in a valid region, with the region's domain (R572). -/
def lostPages (s : State) (n : Nat) : List (Nat × Nat) :=
  s.comp.map.regions.flatMap fun r => ((span r.2.basePage r.2.pages).filter fun p =>
    homeIndex p = n && !s.comp.moved.contains p).map fun p => (p, r.2.domain)

/-- Forget what the directory holds for lines; requests whose transactions go are served again. -/
def dropLines (s : State) (out : Nat → Bool) : State :=
  let txns := s.dir.txns.filter fun t => out t.line
  let s := { s with dir := { s.dir with ents := s.dir.ents.filter fun e => !out e.1, txns := s.dir.txns.filter fun t => !out t.line,
                                         lost := s.dir.lost.filter fun l => !out l } }
  txns.foldl (fun s t => match t.what with | .flight p g => resumeFlight s p g | _ => s) s

/-- The sector becomes RETIRED (R572): its unmoved pages are lost, and the current map is committed again with LOST_HOME. -/
def retireSector (s : State) (n : Nat) : State :=
  let t := s.get F.RAS_SECTOR_TARGET
  let gone := fun p => homeIndex p = n && !s.comp.moved.contains p
  let goneLine := fun l => gone (l / 32768)
  let lost := lostPages s n
  let mk := fun (ps : Tab Page) (x : Nat × Nat) =>
    tabPut x.1 { domain := x.2, tensorBase := x.1, loc := .far (List.replicate 32 { poison := true }) } ps
  let st := s.store
  let s := { s with store := { st with
    pages := lost.foldl mk (st.pages.filter fun e => !gone e.1)
    mem := st.mem.filter fun c => !gone (c.1 / 2097152)
    poison := st.poison.filter fun l => !goneLine l
    stage := st.stage.filter fun e => !gone (e.1 / 32)
    dirty := st.dirty.filter fun l => !goneLine l
    huge := st.huge.filter fun h => h % 4 ≠ n
    moves := st.moves.filter fun m => !gone m.first } }
  let s := setSectorState (setHomeEntry { s with comp := { s.comp with moved := [] } } n t) n 6
  let s := dropTlb (stopSector s n) (lost.map (·.1))
  let m := s.comp.map
  let s := installMap s { m with node := { m.node with lostHome := Nat.lor m.node.lostHome (2 ^ n) } }
  wake (dropLines s goneLine)

/-- A fault of the sector itself (R563, R567, R568). -/
def sectorFault (s : State) (n cause : Nat) : State :=
  let (how, s) := noteFault s .sector n cause
  match sectorState s n with
  | 0 =>
    let s := stopSector s n
    let t := roomiest s n
    if s.flag F.RAS_CTRL_AUTO_RECOVER && (evacRefused s n t).isNone then evacStart s n t else dropRecovery s .sector n
  | 1 => if how = .second then retireSector s n else s
  | 5 =>
    let back := s.comp.moved
    let s := { s with comp := { s.comp with moved := ((indexPages s n).map (·.1)).filter fun p => !back.contains p } }
    evacCheck (showEvac (setSectorState (stopSector s n) n 1) n) n
  | _ => dropRecovery s .sector n

/-- The small pages of a split page laid out in a sector: the old near frames map to new ones as they are met. -/
def relaySmalls (n p : Nat) : List Small → List (Nat × Nat) → State → Option State
  | [], _, s => some s
  | x :: t, seen, s =>
    let add := fun (s : State) (y : Small) => match s.page? p with
      | some e => s.putPage p { e with split := e.split.map (· ++ [y]) }
      | none => s
    match x with
    | .swapped k => relaySmalls n p t seen (add s (.swapped k))
    | .near f sl => (match seen.find? fun y => y.1 = f with
        | some y => relaySmalls n p t seen (add s (.near y.2 sl))
        | none => (match takeFrame s n with
            | (some g, s) => relaySmalls n p t ((f, g) :: seen) (add s (.near g sl))
            | (none, _) => none))
    | .far g =>
      if g.frames = 0 then relaySmalls n p t seen (add s (.far g))
      else (match placeGranule s n p (32 - t.length - 1) g.frames with
        | (some h, s) => relaySmalls n p t seen (add s (.far { h with poison := g.poison }))
        | (none, _) => none)

/-- The granules of a far page laid out in a sector. -/
def relayFar (n p : Nat) : List Granule → State → Option State
  | [], s => some s
  | g :: t, s =>
    let add := fun (s : State) (h : Granule) => match s.page? p with
      | some e => s.putPage p { e with loc := .far (e.loc.granules ++ [h]) }
      | none => s
    if g.frames = 0 then relayFar n p t (add s g)
    else match placeGranule s n p (32 - t.length - 1) g.frames with
      | (some h, s) => relayFar n p t (add s { h with poison := g.poison })
      | (none, _) => none

/-- A page laid out in the same tier of another sector (R570 step 3); none without room. The page's moved bit is set already. -/
def relayPage (s : State) (n p : Nat) (e : Page) : Option State :=
  match e.split, e.loc with
  | some v, _ => relaySmalls n p v [] (s.putPage p { e with split := some [] })
  | none, .near _ => (match takeFrame (s.putPage p { e with loc := .far [] }) n with
      | (some f, s) => some (s.putPage p { e with loc := .near f })
      | (none, _) => none)
  | none, .far gs => relayFar n p gs (s.putPage p { e with loc := .far [] })
  | none, .swapped _ => some s
  | none, .migrating _ => none

/-- Has another page of the index near frames and not moved yet (R570)? -/
def nearLeft (s : State) (n : Nat) : Bool := (indexPages s n).any fun e => !e.2.frames.isEmpty && !s.comp.moved.contains e.1

/-- EVAC_PAGE_MOVED (R570). -/
def execEvacPageMoved (p : Fin 67108864) (t : Nat) (s : State) : Ans :=
  let s := s.upto t
  let p := p.val
  let n := homeIndex p
  let st := sectorState s n
  .next <|
    if st ≠ 1 ∧ st ≠ 5 then s
    else
      match s.page? p with
      | none => evacCheck s n
      | some e =>
        if s.comp.moved.contains p then evacCheck s n
        else if e.frames.isEmpty && nearLeft s n then s
        else
          let (ok, s) := evictRange s (p * 2097152) 2097152 .none
          let s := (List.range 4).foldl (fun s m => writeBacks s m (guestsIn s m (p * 2097152) 2097152) true) s
          if !ok || s.cache.wbs.any (fun w => w.line / 32768 = p) then s
          else
            let dst := if st = 1 then s.get F.RAS_SECTOR_TARGET else n
            let huge := s.store.huge.filter fun h => h ≠ p / 512 * 4 + homeOf s p
            let s1 := { s with store := { s.store with huge := huge }, comp := { s.comp with moved := setAdd p s.comp.moved } }
            match relayPage s1 dst p e with
            | none => s
            | some s => evacCheck (wake (showEvac (dropTlb s [p]) n)) n

/-- CMP_SECTOR (R567 to R569). -/
def execCmpSector (d : Desc) (s : State) : Ans :=
  .next (runDesc s d 0x65 zenith fun s j =>
    let n := dbits j.words 16 0 2
    let t := dbits j.words 17 0 2
    if dbits j.words 16 2 1 = 1 then
      (if sectorState s n = 3 ∧ !(List.range 4).any (fun m => m ≠ n && sectorState s m ≠ 0) then finishJob (setSectorState s n 4) j .ok
       else finishJob s j .denied)
    else
      match evacRefused s n t with
      | some c => finishJob s j c
      | none =>
        let r : Recovery := { ty := .sector, inst := n, cause := 5, since := s.now }
        finishJob (evacStart { s with comp := { s.comp with recoveries := s.comp.recoveries ++ [r] } } n t) j .ok)

/-- Is work under way on the units of a sector? -/
def sectorBusy (s : State) (n : Nat) : Bool :=
  (match activeKern s with | some k => k.tiles.any fun p => p.2 / 16 = n | none => false) ||
  s.rings.jobs.any fun j => (sectorEngines n).any (fun e => j.unit = 0x08 + e) && j.phase != 0 && j.st != .finished

/-- SECTOR_POWER_DOWN (R567): the dirty guest lines are written back first. -/
def execSectorPowerDown (n : Fin 4) (t : Nat) (s : State) : Ans :=
  let s := s.upto t
  let n := n.val
  .next <|
    if sectorState s n ≠ 2 ∨ sectorBusy s n then s
    else
      let s := writeBacks s n (guestLines s n) true
      if backsOpen s [n] then s
      else
        let off := fun (s : State) (g : Nat) =>
          (((resetTile s g).set (F.TP_T_STATUS_STATE g) 0).set (F.TP_T_STATUS_BANKS_ON g) 0).set (F.TP_T_STATUS_BANKS_RET g) 0
        setSectorState ((span (16 * n) 16).foldl off s) n 3

/-- Are a sector's stacks and channels done with their training (R567)? -/
def memorySettled (s : State) (n : Nat) : Bool :=
  let busy := fun v : Nat => v == 1 || v == 2
  ([2 * n, 2 * n + 1].all fun m => !busy (s.get (F.HBM_H_STATUS_STATE m))) && (span (8 * n) 8).all fun d => !busy (channelState s d)

/-- SECTOR_SELF_TEST_DONE (R567). -/
def execSectorSelfTestDone (n : Fin 4) (passed : Bool) (t : Nat) (s : State) : Ans :=
  let s := s.upto t
  let n := n.val
  .next <|
    if sectorState s n ≠ 4 then s
    else if !passed then setSectorState s n 3
    else if !memorySettled s n then s
    else
      let back := (sectorEngines n).filter fun e => !s.comp.retired.contains (.engine, e)
      let s := setSectorState (back.foldl (fun s e => setEngine s e 0) s) n 5
      let s := addExtra { s with comp := { s.comp with moved := [] } } (s.get F.RAS_SECTOR_TARGET) 1
      evacCheck (showEvac s n) n

/-! ### Faults of the smaller domains (R560 to R563) -/

/-- A fault of a channel: it drains, unless it no longer responds. -/
def channelFault (s : State) (d cause : Nat) : State :=
  if !channelOn s d then s
  else if cause = 1 then deadChannel s d 7 1
  else match noteFault s .channel d cause with
    | (.first, s) => farCheck (s.set (F.DDR_D_STATUS_STATE d) 5) (d / 8)
    | (.second, s) => failChannel s d 6
    | (.joined, s) => s

/-- A fault of a stack: its frames are moved away, or it fails. -/
def stackFault (s : State) (m cause : Nat) : State :=
  let st := s.get (F.HBM_H_STATUS_STATE m)
  if st ≠ 3 ∧ st ≠ 4 then s
  else match noteFault s .stack m cause with
    | (.second, s) => failStack s m
    | (_, s) => s

/-- A fault of a port: it settles, and links again unless it is retired. -/
def portFault (s : State) (p cause : Nat) : State := goDown (noteFault s .port p cause).2 p 0 true

/-- A fault of a tile: the kernel on it is stopped. -/
def tileFault (s : State) (g cause : Nat) : State :=
  match noteFault s .tile g cause with
  | (.second, s) => hurtTile (s.setFlag (F.TP_T_STATUS_FAILED g) true) g
  | (_, s) => hurtTile s g

/-- A fault of an engine: its work moves away. -/
def engineFault (s : State) (e cause : Nat) : State := moveWork (setEngine (noteFault s .engine e cause).2 e 3) e

/-- A fault of a domain instance. -/
def domainFaulted (s : State) (ty : DomType) (inst cause : Nat) : State :=
  match ty with
  | .channel => channelFault s inst cause
  | .stack => stackFault s inst cause
  | .link => linkFault s (inst / 6) (inst % 6) cause
  | .port => portFault s inst cause
  | .tile => tileFault s inst cause
  | .engine => engineFault s inst cause
  | .sector => sectorFault s inst cause

/-- DOMAIN_FAULT (R560 to R563). -/
def execDomainFault (ty : DomType) (inst : Fin 256) (cause : Fin 16) (t : Nat) (s : State) : Ans :=
  let s := s.upto t
  .next (if domExists ty inst.val then wake (domainFaulted s ty inst.val cause.val) else s)

/-- Has the work of a recovery been done, so that it can end well (R560)? -/
def recoveryDone (s : State) (ty : DomType) (i : Nat) : Bool :=
  match ty with
  | .channel => (channelState s i == 5 || channelState s i == 6) && (channelGranules s i).isEmpty
  | .stack => (stackPages s i).isEmpty
  | .link => linkSt s (i / 6) (i % 6) == 3 || linkSt s (i / 6) (i % 6) == 4
  | .port => portUp s i
  | .tile => !(s.plane.kerns.any fun k => k.tiles.any fun p => p.2 = i)
  | .engine => !(s.rings.jobs.any fun j => j.unit = 0x08 + i && j.phase != 0 && j.st != .finished)
  | .sector => false

/-- The unit of a recovery that has ended well: it serves again, or stays away when software retired it. -/
def backInService (s : State) (ty : DomType) (i : Nat) (soft : Bool) : State :=
  match ty with
  | .channel => s.set (F.DDR_D_STATUS_STATE i) 6
  | .stack => s.set (F.HBM_H_STATUS_STATE i) (if soft then 5 else 3)
  | .link => if soft then linkOut s (i / 6) (i % 6) 6 1 else s
  | .port => if soft then goDown s i 1 true else s
  | .tile => if soft then s.setFlag (F.TP_T_STATUS_FAILED i) true else resetTile s i
  | .engine => if soft then s else setEngine s i 0
  | .sector => s

/-- The unit of a recovery that has failed, in its retired state (R560). -/
def retiredState (s : State) (ty : DomType) (i : Nat) : State :=
  match ty with
  | .channel => if channelOn s i then failChannel s i 6 else s
  | .stack => failStack s i
  | .link => linkOut s (i / 6) (i % 6) 5 8
  | .port => goDown s i 0 true
  | .tile => s.setFlag (F.TP_T_STATUS_FAILED i) true
  | .engine => setEngine s i 3
  | .sector => s

/-- DOMAIN_RECOVERED (R560): a recovery ends; one that software began ends in retirement (R558, CAUSE 5). An evacuation ends by itself. -/
def execDomainRecovered (ty : DomType) (inst : Fin 256) (ok : Bool) (t : Nat) (s : State) : Ans :=
  let s := s.upto t
  let i := inst.val
  .next <|
    match s.comp.recoveries.find? fun r => r.ty = ty && r.inst = i with
    | none => s
    | some r =>
      if ty = .sector then s
      else if !ok then wake (retiredState (retired s ty i false) ty i)
      else if !recoveryDone s ty i then s
      else if r.cause = 5 then wake (backInService (retired s ty i false) ty i true)
      else wake (backInService (recovered s ty i) ty i false)

/-- A retired instance is returned by software. -/
def returnDomain (s : State) (ty : DomType) (i : Nat) : State :=
  let was := s.comp.retired.contains (ty, i)
  let s := { s with comp := { s.comp with retired := s.comp.retired.filter fun x => x != (ty, i) } }
  match ty with
  | .channel => ddrReturn s i
  | .stack => if was && s.get (F.HBM_H_STATUS_STATE i) == 5 then s.set (F.HBM_H_STATUS_STATE i) 1 else s
  | .link => returnLink s (i / 6) (i % 6)
  | .port => if was then lightPort s i else s
  | .tile => if was then (resetTile s i).setFlag (F.TP_T_STATUS_FAILED i) false else s
  | .engine => if was then setEngine s i 0 else s
  | .sector => s

/-- CMP_DOMAIN (R537, R558, R560). -/
def execCmpDomain (d : Desc) (s : State) : Ans :=
  .next (runDesc s d 0x66 zenith fun s j =>
    let i := dbits j.words 17 0 8
    match domOf (dbits j.words 16 0 4) with
    | none => finishJob s j .malformed
    | some ty => wake (finishJob (if dbits j.words 18 0 1 = 1 then returnDomain s ty i else domainFaulted s ty i 5) j .ok))

/-! ### Haze (R564 to R566) -/

/-- UNIT_HAZE_CHECK (R564, R565): one millisecond of the test on a tile that is ON, or an engine that has not failed. -/
def execUnitHazeCheck (isTile : Bool) (u : Fin 64) (median peers t : Nat) (s : State) : Ans :=
  let s := s.upto t
  let u := u.val
  let k := if isTile then u else 72 + u
  let can := if isTile then s.get (F.TP_T_STATUS_STATE u) == 2 && !s.flag (F.TP_T_STATUS_FAILED u)
    else decide (u < 24) && (match engineState u with | some f => s.get f != 3 | none => true)
  .next <|
    if !can then s
    else
      let (h, ev) := hazeStep s (tabGet {} k s.comp.haze) (s.get F.RAS_HAZE_CFG_RATIO) (s.get F.RAS_HAZE_CFG_WINDOW_MS)
        (s.get F.RAS_HAZE_CFG_EXIT_MS) (s.get F.RAS_HAZE_CFG_EXIT_RATIO) median peers
      let s := { s with comp := { s.comp with haze := tabPut k h s.comp.haze } }
      match ev with
      | none => s
      | some b =>
        if isTile then hazeEvent (s.setFlag (F.TP_T_STATUS_HAZY u) b) b 4 u
        else hazeEvent (setEngine s u (if b then 2 else 0)) b 5 u

/-- The Haze run of a domain instance. -/
def hazeRun (s : State) (ty : DomType) (i : Nat) : HazeRun :=
  match ty with
  | .channel => tabGet {} (8 + i) s.store.haze
  | .stack => tabGet {} i s.store.haze
  | .link => (linkOf s (i / 6) (i % 6)).haze
  | .tile => tabGet {} i s.comp.haze
  | .engine => tabGet {} (72 + i) s.comp.haze
  | _ => {}

/-- The run counts anew from now. -/
def hazeAnew (s : State) (ty : DomType) (i : Nat) : State :=
  let h := { hazeRun s ty i with since := s.now }
  match ty with
  | .channel => { s with store := { s.store with haze := tabPut (8 + i) h s.store.haze } }
  | .stack => { s with store := { s.store with haze := tabPut i h s.store.haze } }
  | .link => setLink s (i / 6) (i % 6) fun x => { x with haze := h }
  | .tile => { s with comp := { s.comp with haze := tabPut i h s.comp.haze } }
  | .engine => { s with comp := { s.comp with haze := tabPut (72 + i) h s.comp.haze } }
  | _ => s

/-- HAZE_FAIL_TIMEOUT (R566). -/
def execHazeFailTimeout (ty : DomType) (inst : Fin 256) (t : Nat) (s : State) : Ans :=
  let s := s.upto t
  let i := inst.val
  let lim := s.get F.RAS_CTRL_HAZE_FAIL_S
  let h := hazeRun s ty i
  .next (if domExists ty i && lim != 0 && h.hazy && decide (h.since + 1000000000 * lim ≤ s.now) then
      wake (domainFaulted (hazeAnew s ty i) ty i 4) else s)

/-! ### Live firmware update (R573 to R575) -/

/-- FW_UPDATE (R557). -/
def fwEvent (s : State) (bank what : Nat) : State := postRas s 0x2E zenith (bank + what * 2)

/-- RAS_FW.STAGE changes, with the firmware interrupt (R702). -/
def setStage (s : State) (v : Nat) : State := raiseIrq (s.set F.RAS_FW_STAGE v) 6

/-- The bank that does not run. -/
def otherBank (s : State) : Nat := 1 - s.get F.RAS_FW_ACTIVE_BANK

/-- May an activation start (R573)? -/
def mayRoll (s : State) : Bool := s.flag F.RAS_FW_READY && s.get F.RAS_FW_STAGE != 1

/-- An activation starts with Z0 (R574). -/
def rollStart (s : State) : State :=
  let s := { s with comp := { s.comp with rolling := [1, 2, 3], coreBusy := some 0 } }
  fwEvent ((setStage s 1).set F.RAS_FW_ON_NEW 0) (otherBank s) 0

/-- CMP_FW_ACTIVATE (R573, R574, R710). -/
def execCmpFwActivate (d : Desc) (s : State) : Ans :=
  .next (runDesc s d 0x67 zenith fun s j =>
    if !mayRoll s ∨ s.mgmt.update.isSome then finishJob s j .denied else finishJob (rollStart s) j .ok)

/-- The new image runs on all four cores. -/
def fwDone (s : State) : State :=
  let b := otherBank s
  let s := { s with comp := { s.comp with rolling := [], coreBusy := none, imageAt := s.now } }
  let s := (((setStage s 0).set F.RAS_FW_ON_NEW 0).set F.RAS_FW_ACTIVE_BANK b).setFlag F.RAS_FW_READY false
  fwEvent (s.set F.RAS_FW_VERSION ((s.comp.banks.getD b {}).version)) b 1

/-- CORE_HEALTH_CHECK (R536, R574, R575). -/
def execCoreHealthCheck (core : Fin 4) (passed : Bool) (t : Nat) (s : State) : Ans :=
  let s := s.upto t
  let c := core.val
  .next <|
    if s.get F.RAS_FW_STAGE = 1 then
      if s.comp.coreBusy ≠ some c then s
      else if !passed then
        let s := { s with comp := { s.comp with rolling := [], coreBusy := none } }
        fwEvent ((setStage s 2).set F.RAS_FW_ON_NEW 0) (otherBank s) 2
      else
        let s := s.set F.RAS_STATUS_CORES_UP (Nat.lor (s.get F.RAS_STATUS_CORES_UP) (2 ^ c))
        let s := s.set F.RAS_FW_ON_NEW (Nat.lor (s.get F.RAS_FW_ON_NEW) (2 ^ c))
        match s.comp.rolling with
        | [] => fwDone s
        | x :: l => { s with comp := { s.comp with rolling := l, coreBusy := some x } }
    else if passed then s.set F.RAS_STATUS_CORES_UP (Nat.lor (s.get F.RAS_STATUS_CORES_UP) (2 ^ c)) else s

end Sys2Proof.Machine
end

