-- ==== Sys2Proof/Machine/Security.lean ====
section
/-! DEFINITION. Security (spec/15): tenancy domains, keys, attestation, the life cycle, and the tamper response. -/

namespace Sys2Proof.Machine

open Sys2Proof

/-! ### The family (R597, R601) -/

/-- DOMAIN and SLOT and GEN of a key handle (R601). -/
def handleSlot (h : Nat) : Nat := bits h 0 11
def handleDom (h : Nat) : Nat := bits h 11 8
def handleGen (h : Nat) : Nat := bits h 19 11

/-- Format of the security family (R597). -/
def secFmt (ws : List Word) : Bool :=
  let d := dbits ws
  match descOp ws with
  | 0x68 => d 16 0 8 != 0 && d 17 1 23 == 0 && d 24 0 320 == 0
  | 0x69 => d 16 0 8 != 0 && d 17 0 376 == 0
  | 0x6A => d 17 1 55 == 0 && d 32 0 128 == 0 && d 60 0 32 == 0
  | 0x6B => d 17 0 56 == 0 && d 32 0 256 == 0
  | 0x6C => d 16 30 2 == 0 && d 24 0 320 == 0
  | 0x6D => d 16 30 2 == 0 && d 48 0 32 != 0 && decide (12 ≤ d 52 0 5) && decide (d 52 0 5 ≤ 21) && d 52 5 27 == 0 && d 60 0 32 == 0
  | 0x6E => decide (d 16 0 3 < 6) && d 16 4 60 == 0 && d 32 0 256 == 0
  | 0x6F => decide (1 ≤ d 16 0 8) && decide (d 16 0 8 ≤ 5) && d 17 0 56 == 0 && decide (d 32 0 8 ≤ 8) && d 33 0 56 == 0 && d 48 0 128 == 0
  | _ => false

/-- Does the security block accept the descriptor from the context (R597)? -/
def secAccepts (s : State) (c : Nat) (ws : List Word) : Bool :=
  let d := dbits ws
  let dom := ctxDomain s c
  match descOp ws with
  | 0x68 | 0x69 => c == 1
  | 0x6A => c == 1 || isManager s c || dom == d 16 0 8
  | 0x6B => dom == d 16 0 8
  | 0x6C | 0x6D => dom == handleDom (d 16 0 32)
  | 0x6E | 0x6F => c == 1 || isManager s c
  | _ => false

/-- The address ranges of a security-family descriptor. -/
def secRanges (ws : List Word) : List Range :=
  let d := dbits ws
  match descOp ws with
  | 0x6A => [⟨d 24 0 64, 32, .rd⟩, ⟨d 48 0 64, d 56 0 32, .rdwr⟩]
  | 0x6B | 0x6E => [⟨d 24 0 64, 1664, .rd⟩]
  | 0x6D =>
    let n := d 48 0 32
    let len := n * 2 ^ d 52 0 5
    [⟨d 24 0 64, len, .rd⟩, ⟨d 32 0 64, 16 * n, .rd⟩, ⟨d 40 0 64, len, .rdwr⟩]
  | 0x6F => [⟨d 24 0 64, 64, .rd⟩, ⟨d 40 0 64, 3456 * d 32 0 8, .rd⟩]
  | _ => []

/-- The life-cycle state in force (R579, R626): 1 MANUFACTURE, 2 PROVISIONED, 3 DEPLOYED, 4 RMA, 5 SCRAPPED. -/
def lcState (s : State) : Nat := s.get F.LC_STATE_STATE

/-- A value under complement pairing in the security block fails its check (R626). -/
def secCpair (s : State) (c : Nat) : State := postCpair s zenith c 0x80000007

/-- A handle that a descriptor names (R601, R626): its key, or the code that ends the descriptor. -/
def useHandle (s : State) (c h hc : Nat) : Except Code Nat × State :=
  let k := handleSlot h
  if hc ≠ onesComp 32 h then (.error .cpair, secCpair s c)
  else if s.xlt.corrupt.contains (.keyHandle k) then
    let s := { s with xlt := { s.xlt with corrupt := s.xlt.corrupt.filter fun x => x != .keyHandle k },
                      sec := { s.sec with slots := tabDel k s.sec.slots } }
    (.error .cpair, secCpair s c)
  else
    match tabGet? k s.sec.slots with
    | none => (.error .denied, s)
    | some x => if x.gen = handleGen h ∧ x.domain = handleDom h then (.ok x.key, s) else (.error .denied, s)

/-! ### Tenancy domains (R599, R618 to R621) -/

/-- Does a domain hold an allocated page or a valid context (R599)? -/
def domInUse (s : State) (d : Nat) : Bool := s.store.pages.any (fun e => e.2.domain = d) || s.xlt.ctxs.any fun e => e.2.domain = d

/-- Confidential mode closes debug (R616). -/
def confCloses (s : State) : State := if confCount s = 0 then s else s.setFlag F.LC_DEBUG_OPEN false

/-- SEC_DOMAIN_SET (R580, R599, R716). -/
def execSecDomainSet (d : Desc) (s : State) : Ans :=
  .next (runDesc s d 0x68 zenith fun s j =>
    let n := dbits j.words 16 0 8
    let conf := dbits j.words 17 0 1 == 1
    let old := tabGet? n s.sec.doms
    let new := { s with
      sec := { s.sec with doms := tabPut n { conf := conf, quota := dbits j.words 20 0 32 } s.sec.doms }
      mgmt := { s.mgmt with telem := if old.isSome then s.mgmt.telem else tabDel n s.mgmt.telem } }
    if conf && (old.map (·.conf)) != some true && decide (64 ≤ confCount s) then finishJob s j .capacity
    else if (match old with | some x => x.zeroing || (x.conf != conf && domInUse s n) | none => false) then finishJob s j .denied
    else if (lcState s ≠ 2 ∧ lcState s ≠ 3) ∨ (lcState s = 2 ∧ conf) then finishJob s j .denied
    else finishJob (confCloses new) j .ok)

/-- Zero what a tile holds of a domain (R619). -/
def scrubTile (dom : Nat) (s : State) (g : Nat) : State :=
  let t := tile s g
  let bs := (List.range 16).filter fun b => tabGet 0 b t.bankDom = dom + 1
  if bs.isEmpty then s
  else putTile s g { t with mem := t.mem.filter fun e => decide (e.1 < 2 ^ 20) && !bs.contains (e.1 / 65536), lost := 0,
                            bankDom := t.bankDom.filter fun e => e.2 ≠ dom + 1 }

/-- The on-chip and structure classes of R619. -/
def scrubDomain (s : State) (dom : Nat) : State :=
  let ps := (s.store.pages.filter fun e => e.2.domain = dom).map (·.1)
  let s := dropTlb ((List.range 64).foldl (scrubTile dom) s) ps
  let inn := fun l : Nat => ps.contains (l / 32768)
  let s := { s with cache := { s.cache with wbs := s.cache.wbs.filter fun w => !inn w.line } }
  let s := freePages s ps
  let mine := s.fab.flights.filter fun f => f.inLane && (tenant s f.req.port.val f.req.tenant.val).domain = dom
  let s := mine.foldl (fun s f => dropFlight s f) s
  let live := fun c : Nat => ctxValid s c
  { s with
    fab := { s.fab with entries := s.fab.entries.filter fun e => e.domain ≠ dom }
    sec := { s.sec with slots := s.sec.slots.filter (fun e => e.2.domain ≠ dom), ekeys := tabDel dom s.sec.ekeys }
    log := { s.log with recs := s.log.recs.filter fun r => r.domain ≠ dom }
    emb := { s.emb with vers := s.emb.vers.filter (fun v => live v.ctx), hooks := s.emb.hooks.filter (fun h => live h.ctx),
                        pins := s.emb.pins.filter (fun p => live p.row.ctx), relocs := s.emb.relocs.filter fun r => live r.row.ctx }
    srch := { s.srch with defs := s.srch.defs.filter fun v => live v.ctx }
    blk := { s.blk with spaces := s.blk.spaces.filter fun e => live e.2.ctx } }

/-- SEC_DOMAIN_TEARDOWN (R618 to R620): partner copies of the domain's pages are recalled first. -/
def execSecDomainTeardown (d : Desc) (s : State) : Ans :=
  .next (runDesc s d 0x69 zenith fun s j =>
    let n := dbits j.words 16 0 8
    let busy := s.xlt.ctxs.any (fun e => e.2.domain = n) || s.sched.tqs.any fun e => e.2.en && e.2.domain == n
    if !domLive s n || (j.phase = 0 && busy) then finishJob s j .denied
    else
      let ps := (s.store.pages.filter fun e => e.2.domain = n).map (·.1)
      let cut := fun (a : Bool × State) (p : Nat) =>
        let (ok, s) := evictRange a.2 (p * 2097152) 2097152 (.job j.ring j.idx)
        (a.1 && ok, s)
      let (ok, s) := ps.foldl cut (true, s)
      if !ok then putJob s { j with st := .waiting, phase := 1 }
      else
        let x := tabGet {} n s.sec.doms
        let s := scrubDomain s n
        finishJob (wake { s with sec := { s.sec with doms := tabPut n { x with zeroing := true } s.sec.doms } }) j .ok)

/-- ZERO_FILL_DONE (R620, R621). -/
def execZeroFillDone (n : Fin 256) (t : Nat) (s : State) : Ans :=
  let s := s.upto t
  .next (match tabGet? n.val s.sec.doms with
    | some x => if x.zeroing then { s with sec := { s.sec with doms := tabDel n.val s.sec.doms } } else s
    | none => s)

/-! ### Signatures (R590 to R594) -/

/-- What an attempt to take an index gives: the index, a wait for the next block, or a code. -/
inductive SignAns where
  | index (i : Nat)
  | wait
  | code (c : Code)
deriving DecidableEq, Repr

/-- Take the next index (R590, R592 to R594); with 768 of a block used the next block is due. -/
def takeIndex (s : State) : SignAns × State :=
  let i := s.get F.SEC_XMSS_USED_NEXT_INDEX
  let b := s.get F.SEC_XMSS_STATE_BLOCKS
  if s.sec.blocksBad ≥ 2 then (.code .cpair, s)
  else if b ≤ i / 1024 then
    if 2 ^ 30 ≤ b then (.code .capacity, s) else (.wait, { s with sec := { s.sec with blockDue := true } })
  else
    let s := s.set F.SEC_XMSS_USED_NEXT_INDEX (i + 1)
    (.index i, if 768 ≤ (i + 1) % 1024 ∨ (i + 1) % 1024 = 0 then { s with sec := { s.sec with blockDue := decide (b ≤ (i + 1024) / 1024) && decide (b < 2 ^ 30) } } else s)

/-- The 3,437 bytes of a signature. -/
def signBytes (i : Nat) (msg : List Byte) : List Byte := (List.range 3437).map (Config.signature i msg)

/-- Does the device sign (R580)? -/
def signs (s : State) : Bool := lcState s == 2 || lcState s == 3 || lcState s == 4

/-! ### Attestation (R602) -/

/-- The header bytes 0 to 63 of the running image. -/
def runningHeader (s : State) : List Byte := padTo 64 (s.comp.banks.getD (s.get F.RAS_FW_ACTIVE_BANK) {}).header

/-- CFG_MEAS (R602). -/
def cfgMeas (s : State) (dom : Nat) : List Byte :=
  let x := tabGet {} dom s.sec.doms
  let m := s.comp.map
  let rs := m.regions.filter fun e => e.2.domain = dom
  let gs := m.grants.filter fun e => rs.any fun r => r.1 = e.2.region
  let ws := (rs.flatMap fun e => regionWords e.1 e.2) ++ gs.flatMap fun e => grantWords e.1 e.2
  Config.shake (leBytes 1 dom ++ leBytes 1 x.conf.toNat ++ leBytes 4 x.quota ++ ws.flatMap (leBytes 8))

/-- Bytes 0 to 1,727 of a report (R602). -/
def reportBody (s : State) (dom no : Nat) (nonce : List Byte) : List Byte :=
  let flags := (domConf s dom).toNat + (if s.get F.LC_DEBUG_OPENS = 0 then 0 else 2)
  leBytes 4 0x52545441 ++ leBytes 2 1 ++ leBytes 1 (lcState s) ++ leBytes 1 flags ++ leBytes 8 (deviceId s) ++ padTo 32 nonce ++
    padTo 32 (Config.shake (runningHeader s)) ++ padTo 32 (cfgMeas s dom) ++ leBytes 4 (curEpoch s) ++
    leBytes 1 (s.get F.LC_SVN_SVN) ++ leBytes 1 dom ++ leBytes 10 0 ++ (List.range 1568).map (Config.ekeyByte no) ++ leBytes 32 0

/-- The decapsulation key of a domain, a new one when asked for or when it has none (R602): its number. -/
def domKey (s : State) (dom : Nat) (regen : Bool) : Nat × State :=
  match tabGet? dom s.sec.ekeys with
  | some k => if regen then (s.sec.nextEkey, { s with sec := { s.sec with nextEkey := s.sec.nextEkey + 1 } }) else (k.no, s)
  | none => (s.sec.nextEkey, { s with sec := { s.sec with nextEkey := s.sec.nextEkey + 1 } })

/-- Make a report: its bytes, a wait for an index, or a code. The domain's key is kept with the report's bytes 0 to 1,727 (R603). -/
def makeReport (s : State) (dom : Nat) (regen : Bool) (nonce : List Byte) : Except Code (Option (List Byte)) × State :=
  if !signs s || !domLive s dom then (.error .denied, s)
  else
    match takeIndex s with
    | (.code c, s) => (.error c, s)
    | (.wait, s) => (.ok none, s)
    | (.index i, s) =>
      let (no, s) := domKey s dom regen
      let b := reportBody s dom no nonce
      let s := { s with sec := { s.sec with ekeys := tabPut dom { no := no, report := b } s.sec.ekeys } }
      (.ok (some (b ++ signBytes i b ++ leBytes 19 0)), s)

/-- SEC_ATTEST (R602). -/
def execSecAttest (d : Desc) (s : State) : Ans :=
  .next (runDesc s d 0x6A zenith fun s j =>
    let w := j.words
    let va := dbits w 48 0 64
    let nva := dbits w 24 0 64
    if dbits w 56 0 32 < 5184 then finishJob s j .capacity
    else
      match prepare s j zenith [⟨nva, 32, .rd⟩, ⟨va, 5184, .rdwr⟩] with
      | (false, s) => s
      | (true, s) =>
        if poisonVa s (ringCtx j.ring) nva 32 then finishJob (spoilVa s (ringCtx j.ring) va 5184) j .poison
        else
          let (nonce, s) := readVa s (ringCtx j.ring) nva 32
          match makeReport s (dbits w 16 0 8) (dbits w 17 0 1 == 1) nonce with
          | (.error c, s) => finishJob s j c
          | (.ok none, s) => putJob s { j with st := .waiting }
          | (.ok (some b), s) => finishJob (writeVa s (ringCtx j.ring) va b) j .ok)

/-! ### Keys (R603 to R606, R612) -/

/-- Open a sealed blob with a domain's decapsulation key (R603). -/
def openSealed (s : State) (dom : Nat) (blob : List Byte) : Option Nat :=
  match tabGet? dom s.sec.ekeys with
  | some k => Config.openBlob k.no k.report blob
  | none => none

/-- A free key slot, the device's choice. -/
def freeSlot (s : State) : Option Nat × State :=
  let l := (List.range 2048).filter fun k => !tabHas k s.sec.slots
  if l.isEmpty then (none, s)
  else
    let (k, s) := s.takeFree
    (l[k % l.length]?, s)

/-- SEC_KEY_IMPORT (R604). -/
def execSecKeyImport (d : Desc) (s : State) : Ans :=
  .next (runDesc s d 0x6B zenith fun s j =>
    let dom := dbits j.words 16 0 8
    match fetchRanges s j zenith (secRanges j.words) with
    | (none, s) => s
    | (some bs, s) =>
      let b := bs.getD 0 []
      if leVal ((b.drop 1568).take 1) ≠ 1 ∨ leVal ((b.drop 1569).take 1) ≠ dom then finishJob s j .denied
      else
        match openSealed s dom b with
        | none => finishJob (s.bumpSat F.SEC_INTEGRITY_UNSEAL_FAILS) j .integrity
        | some key =>
          match freeSlot s with
          | (none, s) => finishJob s j .capacity
          | (some k, s) =>
            let g := (tabGet 0 k s.sec.gens + 1) % 2048
            let s := { s with sec := { s.sec with slots := tabPut k { domain := dom, gen := g, key := key } s.sec.slots,
                                                   gens := tabPut k g s.sec.gens } }
            finishJob s j .ok (k + dom * 2 ^ 11 + g * 2 ^ 19))

/-- SEC_KEY_DISCARD (R597, R601). -/
def execSecKeyDiscard (d : Desc) (s : State) : Ans :=
  .next (runDesc s d 0x6C zenith fun s j =>
    let h := dbits j.words 16 0 32
    match useHandle s (ringCtx j.ring) h (dbits j.words 20 0 32) with
    | (.error c, s) => finishJob s j c
    | (.ok _, s) => finishJob { s with sec := { s.sec with slots := tabDel (handleSlot h) s.sec.slots } } j .ok)

/-- Chunks `i` on of a SEC_UNSEAL (R605, R606): the code and DETAIL it ends with. -/
def unsealFrom (c key src tags dst sz iv : Nat) : Nat → Nat → State → Code × Nat × State
  | 0, _, s => (.ok, 0, s)
  | n + 1, i, s =>
    if poisonVa s c (src + i * sz) sz || poisonVa s c (tags + 16 * i) 16 then (.poison, 0, spoilVa s c (dst + i * sz) sz)
    else
      let (x, s) := readVa s c (src + i * sz) sz
      let (g, s) := readVa s c (tags + 16 * i) 16
      match Config.openChunk key (leBytes 4 iv ++ leBytes 8 i) x g with
      | none => (.integrity, i, s.bumpSat F.SEC_INTEGRITY_UNSEAL_FAILS)
      | some f => unsealFrom c key src tags dst sz iv n (i + 1) (writeVa s c (dst + i * sz) ((List.range sz).map f))

/-- SEC_UNSEAL (R605, R606). -/
def execSecUnseal (d : Desc) (s : State) : Ans :=
  .next (runDesc s d 0x6D zenith fun s j =>
    let w := j.words
    let c := ringCtx j.ring
    match useHandle s c (dbits w 16 0 32) (dbits w 20 0 32) with
    | (.error e, s) => finishJob s j e
    | (.ok key, s) =>
      match prepare s j zenith (secRanges w) with
      | (false, s) => s
      | (true, s) =>
        let (e, i, s) := unsealFrom c key (dbits w 24 0 64) (dbits w 32 0 64) (dbits w 40 0 64) (2 ^ dbits w 52 0 5) (dbits w 56 0 32)
          (dbits w 48 0 32) 0 s
        finishJob s j e i)

/-- SEC_PORT_KEY (R612, R614). -/
def execSecPortKey (d : Desc) (s : State) : Ans :=
  .next (runDesc s d 0x6E zenith fun s j =>
    let p := dbits j.words 16 0 3
    let next := dbits j.words 16 3 1 == 1
    match fetchRanges s j zenith (secRanges j.words) with
    | (none, s) => s
    | (some bs, s) =>
      let b := bs.getD 0 []
      if leVal ((b.drop 1568).take 1) ≠ 2 ∨ leVal ((b.drop 1569).take 1) ≠ 0 then finishJob s j .denied
      else
        match openSealed s 0 b with
        | none => finishJob (s.bumpSat F.SEC_INTEGRITY_UNSEAL_FAILS) j .integrity
        | some key =>
          if tabGet? p s.sec.portCur = some key ∨ tabGet? p s.sec.portNext = some key then finishJob s j .denied
          else if next then finishJob { s with sec := { s.sec with portNext := tabPut p key s.sec.portNext } } j .ok
          else if 1 < s.get (F.KZP_STATUS_STATE p) then finishJob s j .denied
          else finishJob (tryInit { s with sec := { s.sec with portCur := tabPut p key s.sec.portCur } } p) j .ok)

/-! ### The life cycle (R579 to R581, R598) -/

/-- The secure SRAM is wiped (R586): key slots, decapsulation keys, port and link keys. -/
def wipeSram (s : State) : State :=
  { s with sec := { s.sec with slots := [], ekeys := [], portCur := [], portNext := [] } }

/-- The pool as R581 step 5 leaves it: no page, no directory entry, no sector-cache line. -/
def dropPool (s : State) : State :=
  let x := { s.store with pages := [], mem := [], poison := [], stage := [], dirty := [], huge := [], moves := [] }
  let s := { s with store := x, cache := { s.cache with guests := [], track := [], wbs := [] },
                    xlt := { s.xlt with tlb := [] } }
  dropLines s fun _ => true

/-- The steps of R581. -/
def changeLc (s : State) (to_ : Nat) : State :=
  let s := (List.range 6).foldl (fun s p => goDown s p 13 true) s
  let s := ((wipeSram s).set F.LC_STATE_STATE to_).set F.LC_STATE_STATE_C (onesComp 32 to_)
  let bad := if to_ = 4 then 0 else s.sec.blocksBad
  wake (dropPool { s with sec := { s.sec with doms := [], blocksBad := bad } })

/-- The checks of a statement as CMP_FENCE makes them (R555, R598), with the endorsement count that holds: the code, none when it passes. -/
def lcStatement (s : State) (b : List Byte) (action : Nat) (signed : Bool) : Option (Code × Nat) :=
  if !signed then some (.integrity, 0)
  else if leVal ((b.drop 12).take 4) ≠ curEpoch s ∨ leVal ((b.drop 16).take 8) ≠ s.get F.CMP_FENCE_FENCE_SEQ then some (.staleBase, curEpoch s)
  else if leVal (b.take 8) ≠ deviceId s ∨ leVal ((b.drop 8).take 1) ≠ action ∨ leVal (b.drop 24) ≠ 0 then some (.malformed, 0)
  else none

/-- SEC_LC (R579 to R581, R598). -/
def execSecLc (d : Desc) (s : State) : Ans :=
  .next (runDesc s d 0x6F zenith fun s j =>
    let w := j.words
    let to_ := dbits w 16 0 8
    let c := ringCtx j.ring
    let go := lcState s
    let listed := (go == 1 && to_ == 2) || (go == 2 && to_ == 3) || (go == 3 && to_ == 4) || (go == 4 && to_ == 5) ||
      (to_ == 5 && decide (1 ≤ go) && decide (go ≤ 3))
    let alone := (go == 2 && to_ == 3) || (to_ == 5 && decide (go < 3))
    if !listed || (alone && c != 1) || (!(go == 3 && to_ == 4) && !s.sec.doms.isEmpty) then finishJob s j .denied
    else
      let rs : List Range := [⟨dbits w 24 0 64, 64, .rd⟩, ⟨dbits w 40 0 64, 3456 * dbits w 32 0 8, .rd⟩]
      match fetchRanges s j zenith (if alone then rs.take (if to_ = 3 then 1 else 0) else rs) with
      | (none, s) => s
      | (some bs, s) =>
        let b := bs.getD 0 []
        let es := cutBytes 3456 (dbits w 32 0 8) (bs.getD 1 [])
        let herquin := es.any fun e => Config.xmssOk Config.herquinKey b ((e.drop 16).take 3437)
        let no := if alone then none
          else if go = 1 then (if herquin then none else some (Code.integrity, 0))
          else lcStatement s b (if to_ = 4 then 6 else 7)
            (if go = 4 then herquin else decide (s.comp.map.node.quorumK ≤ endorsed s b es))
        match no with
        | some (e, x) => finishJob s j e x
        | none =>
          let s := if to_ = 3 then
              { s with sec := { s.sec with owner := b.take 52 } }.setFlag F.LC_SVN_OWNER_COSIGN (Config.ownerAsks b)
            else s
          finishJob (changeLc s to_) j .ok)

/-! ### Tamper response (R582 to R586) -/

/-- Is a sensor enabled (R583)? -/
def sensorOn (s : State) (k : Nat) : Bool :=
  lcState s == 3 || lcState s == 4 || (match k with
    | 0 => s.flag F.SEC_TAMPER_CFG_PIN_EN | 1 => s.flag F.SEC_TAMPER_CFG_LID_EN | 2 => s.flag F.SEC_TAMPER_CFG_VOLT_EN
    | 3 => s.flag F.SEC_TAMPER_CFG_CLK_EN | _ => s.flag F.SEC_TAMPER_CFG_COLD_EN)

/-- Everything that could still access memory or a link is gone: requests, descriptors, kernels, transactions, write-backs. -/
def stopAll (s : State) : State :=
  let s := { s with
    fab := { s.fab with flights := [], failed := [], entries := [], outReqs := [] }
    dir := { s.dir with txns := [], rsvs := [] }
    rings := { s.rings with jobs := [], qcBusy := none }
    cache := { s.cache with wbs := [] }
    plane := { s.plane with kerns := [], active := none, kcopies := [], rq := [] }
    xlt := { s.xlt with invals := [], late := [], woken := [] }
    sched := { s.sched with egress := [] } }
  let f := fun r : FaultRec => { r with waiters := [] }
  { s with xlt := { s.xlt with queue := s.xlt.queue.map f, service := s.xlt.service.map f } }

/-- A port goes DOWN with nothing sent and nothing left to settle (R584). -/
def cutPort (s : State) (p reason : Nat) : State :=
  let s := (s.set (F.KZP_STATUS_STATE p) 0).set (F.KZP_STATUS_REASON p) reason
  let s := (s.setFlag (F.KZP_CXL_STATUS_LINK_UP p) false).setFlag (F.KZP_CXL_STATUS_MEM_EN p) false
  turnKeys (setPort s p fun x => { x with notice := none, early := [], msn0 := 0, msn1 := 0 }) p

/-- TAMPER (R582 to R586): a sensor's condition has lasted for its filter time. -/
def execTamper (k : Fin 5) (t : Nat) (s : State) : Ans :=
  let s := s.upto t
  .next <|
    if !sensorOn s k.val ∨ s.clk.off then s
    else
      let f := F.SEC_TAMPER_STATUS_SOURCE
      let s := s.set f (Nat.lor (s.get f) (2 ^ k.val))
      if s.flag F.SEC_TAMPER_STATUS_TAMPERED then s
      else wipeSram ((List.range 6).foldl (fun s p => cutPort s p 14) (stopAll s)) |>.setFlag F.SEC_TAMPER_STATUS_TAMPERED true

/-- SVN_FUSE (R596): an image whose RAISE_SVN is 1 has run on all four cores for 60 s. -/
def execSvnFuse (t : Nat) (s : State) : Ans :=
  let s := s.upto t
  let b := s.comp.banks.getD (s.get F.RAS_FW_ACTIVE_BANK) {}
  .next (if b.raise && s.get F.RAS_FW_STAGE != 1 && s.get F.RAS_STATUS_CORES_UP == 15 && decide (s.comp.imageAt + 60000000000 ≤ s.now)
      && decide (s.get F.LC_SVN_SVN < b.svn) then s.set F.LC_SVN_SVN b.svn else s)

end Sys2Proof.Machine
end

