-- ==== Sys2Proof/Machine/Power.lean ====
section
/-! DEFINITION. Clocks, power states, supplies, cooling and start-up (spec/16, spec/17), and the warm restart (R577). -/

namespace Sys2Proof.Machine

open Sys2Proof

/-! ### Start-up (R37, R630, R670, R671, R674) -/

/-- The map keeps only the fences that flash kept (R555). -/
def keptFences (s : State) : State :=
  { s with comp := { s.comp with fenced := s.comp.kept } }.setFlag F.CMP_STATUS_EXPELLED s.comp.keptExpel

/-- The device with only what fuses and flash keep: the life-cycle state, SVN and owner (R579, R596), BLOCKS (R590), the tamper count
(R585), the persisted map and fences (R543, R555) and the firmware banks (R573). -/
def coldState (s : State) : State :=
  let keep := fun (a : State) (f : Fld) => a.set f (s.get f)
  let z : State := { State.reset with
    pending := s.pending, free := s.free, out := s.out
    comp := { persisted := s.comp.persisted, persistedEpoch := s.comp.persistedEpoch, kept := s.comp.kept,
              keptExpel := s.comp.keptExpel, banks := s.comp.banks }
    sec := { owner := s.sec.owner, blocksBad := s.sec.blocksBad, nextEkey := s.sec.nextEkey, nonce := s.sec.nonce } }
  let z := [F.LC_STATE_STATE, F.LC_STATE_STATE_C, F.LC_SVN_SVN, F.LC_SVN_OWNER_COSIGN, F.SEC_XMSS_STATE_BLOCKS, F.SEC_XMSS_STATE_BLOCKS_C,
    F.SEC_TAMPER_STATUS_COUNT, F.RAS_FW_ACTIVE_BANK].foldl keep z
  if s.flag F.SEC_TAMPER_STATUS_TAMPERED then z.bumpSat F.SEC_TAMPER_STATUS_COUNT else z

/-- POWER_ON (R630, R670): a cold start. -/
def execPowerOn (xdly : Fin 8) (s : State) : Ans := .next ((coldState s).set F.CLK_STATUS_XDLY xdly.val)

/-- SUPPLY_LOSS (R671): no further access completes, and every ball is released. -/
def execSupplyLoss (t : Nat) (s : State) : Ans :=
  let s := s.upto t
  let z := coldState s
  .next ({ z with now := s.now, clk := { z.clk with off := true } }.emit (.pin "ALL_BALLS_RELEASED" true))

/-- The strap delay, ms (R630). -/
def xtalDelay (s : State) : Nat := [2, 5, 10, 20, 40, 80, 160, 320].getD (s.get F.CLK_STATUS_XDLY) 0

/-- Milliseconds of SYS_TIME, saturating at 16 bits. -/
def nowMs (s : State) : Nat := min (s.now / 1000000) 65535

/-- XTAL_TEST_START (R630). -/
def execXtalTestStart (t : Nat) (s : State) : Ans :=
  let s := s.upto t
  .next (if !s.clk.off && !chipClock s && decide (1000000 * xtalDelay s ≤ s.now) then { s with clk := { s.clk with testing := true } } else s)

/-- XTAL_STABLE (R628, R631, R674): the first acceptance after start, which PLL-X and the LPO trim wait for. -/
def execXtalStable (t : Nat) (s : State) : Ans :=
  let s := s.upto t
  .next <|
    if !s.clk.testing ∨ s.clk.off then s
    else
      let s := { s with clk := { s.clk with testing := false } }
      let s := (s.setFlag F.CLK_STATUS_XTAL_OK true).set F.CLK_STATUS_XTAL_STABLE_MS (nowMs s)
      ((s.setFlag F.CLK_STATUS_LPO_TRIMMED true).set F.CLK_PLL_X_STATE 1).bump F.CLK_PLL_X_STARTS

/-- A bit of CLK_SOURCE_LOST is set, with the clock interrupt (R642, R644, R702). -/
def sourceLost (s : State) (f : Fld) : State := raiseIrq (s.setFlag f true) 2

/-- XTAL_START_TIMEOUT (R632): the test goes on. -/
def execXtalStartTimeout (t : Nat) (s : State) : Ans :=
  let s := s.upto t
  .next (if s.clk.testing && !s.clk.off && decide (2000000 * xtalDelay s ≤ s.now) && !s.flag F.CLK_SOURCE_LOST_XTAL then
      { (sourceLost s F.CLK_SOURCE_LOST_XTAL) with mgmt := { (sourceLost s F.CLK_SOURCE_LOST_XTAL).mgmt with linkUp := s.flag F.CLK_STATUS_REFCLK_OK } }
    else s)

/-- The commit at a start (R591): BLOCKS + 1, the first index at the old BLOCKS × 1,024; nothing beyond 2^30 blocks (R593), nor while both
copies of BLOCKS fail (R594). -/
def startBlock (s : State) : State :=
  let b := s.get F.SEC_XMSS_STATE_BLOCKS
  let s := s.set F.SEC_XMSS_USED_NEXT_INDEX (b * 1024)
  if s.sec.blocksBad ≥ 2 ∨ 2 ^ 30 ≤ b then s
  else
    { ((s.set F.SEC_XMSS_STATE_BLOCKS (b + 1)).set F.SEC_XMSS_STATE_BLOCKS_C (onesComp 32 (b + 1))) with
      sec := { s.sec with blocksBad := 0, blockDue := false } }

/-- Does an image pass R596 in the life-cycle state (R580)? -/
def imageOk (s : State) (x : Image) : Bool :=
  x.herquinOk && (!s.flag F.LC_SVN_OWNER_COSIGN || x.ownerOk) && x.digestOk && decide (s.get F.LC_SVN_SVN ≤ x.svn.toNat) && lcState s != 5

/-- A bank's content as an image gives it. -/
def bankOf (x : Image) : Bank := { header := x.header, version := x.version.toNat, svn := x.svn.toNat, raise := x.raise }

/-- Put an image into a bank. -/
def putBank (s : State) (b : Nat) (x : Image) : State :=
  { s with comp := { s.comp with banks := listSet s.comp.banks b (bankOf x) } }

/-- ACTIVE_BANK_VERIFIED (R591, R596, R674). -/
def execActiveBankVerified (x : Image) (t : Nat) (s : State) : Ans :=
  let s := s.upto t
  .next <|
    if s.flag F.SYS_STATUS_FW_RUNNING ∨ s.clk.off ∨ !imageOk s x then s
    else
      let s := putBank s (s.get F.RAS_FW_ACTIVE_BANK) x
      let s := { s with comp := { s.comp with imageAt := s.now } }
      startBlock (((s.setFlag F.SYS_STATUS_FW_RUNNING true).set F.SYS_BOOT_FW_MS (nowMs s)).set F.RAS_FW_VERSION x.version.toNat)

/-- HBM_TRAINED (R674): every stack in TRAINING serves; the first time, the near tier serves with
the frames of R45 for pool pages, and the persisted map is installed. -/
def execHbmTrained (t : Nat) (s : State) : Ans :=
  let s := s.upto t
  let st := fun m : Nat => s.get (F.HBM_H_STATUS_STATE m)
  let first := !s.flag F.SYS_STATUS_NEAR_SERVING
  .next <|
    if !loopLocked s 1 || !awake s || !s.flag F.SYS_STATUS_FW_RUNNING || !(List.range 8).any (fun m => st m == 2) ||
        (first && (List.range 8).any fun m => decide (st m < 2)) then s
    else
      let up := fun (s : State) (m : Nat) => if s.get (F.HBM_H_STATUS_STATE m) = 2 then s.set (F.HBM_H_STATUS_STATE m) 3 else s
      let s := (List.range 8).foldl up s
      if first then
        let s := setPoolFrames ((s.setFlag F.SYS_STATUS_NEAR_SERVING true).set F.SYS_BOOT_NEAR_MS (nowMs s))
        let s := placeMap (keptFences (s.setFlag F.SYS_STATUS_MAP_INSTALLED true)) s.comp.persisted s.comp.persistedEpoch false
        s.setFlag F.CMP_STATUS_PERSISTED true
      else wake s

/-! ### Loops (R636 to R639, R647) -/

/-- Is a descriptor not finished whose opcode `p` picks? -/
def openWork (s : State) (p : Nat → Bool) : Bool := s.rings.jobs.any fun j => j.st != .finished && !j.words.isEmpty && p (descOp j.words)

/-- Has a loop nothing to do? -/
def loopIdle (s : State) (engines : Bool) : Bool :=
  if engines then !openWork s engineOp && s.plane.kcopies.isEmpty && decide (s.clk.idleE + 1000 * s.get F.PWR_IDLE_CFG_PLLE_OFF_US ≤ s.now)
  else !openWork s kernelOp && s.plane.kerns.isEmpty && !(List.range 64).any (fun g => s.get (F.TP_T_STATUS_STATE g) == 2) &&
    decide (s.clk.idleT + 1000 * s.get F.PWR_IDLE_CFG_PLLT_OFF_US ≤ s.now)

/-- PLL_IDLE_STOP (R637, R639, R647). -/
def execPllIdleStop (engines : Bool) (t : Nat) (s : State) : Ans :=
  let s := s.upto t
  let k := if engines then 2 else 0
  let warm := if engines then s.flag F.CLK_CTRL_WARM_E else s.flag F.CLK_CTRL_WARM_T
  .next <|
    if !awake s ∨ !loopLocked s k ∨ !loopIdle s engines then s
    else
      let s := (s.set (loopState k) (if warm then 3 else 0)).set (loopFreq k) 0
      let rest := s.get (loopState (2 - k))
      if rest = 0 ∨ rest = 3 then s.set F.PWR_STATUS_STATE 1 else s

/-- PLL_LOCKED (R636, R638): a started loop locks to XTAL, or to IOSC while XTAL is lost. -/
def execPllLocked (k : Fin 3) (ns t : Nat) (s : State) : Ans :=
  let s := s.upto t
  .next <|
    if s.get (loopState k.val) ≠ 1 ∨ !awake s ∨ !(s.flag F.CLK_STATUS_XTAL_OK || s.flag F.CLK_STATUS_COASTING) then s
    else
      let s := ((s.set (loopState k.val) 2).set (loopFreq k.val) (loopMhz s k.val)).set (loopLock k.val) (min ns 65535)
      { s with clk := { s.clk with idleT := if k.val = 0 then s.now else s.clk.idleT, idleE := if k.val = 2 then s.now else s.clk.idleE } }

/-! ### Sources lost and returned (R641 to R645) -/

/-- Every core loop that runs takes the frequency of its reference. -/
def retune (s : State) : State :=
  (List.range 3).foldl (fun s k => if loopLocked s k then s.set (loopFreq k) (loopMhz s k) else s) s

/-- XTAL_LOSS (R629, R642): the loops coast on IOSC, and the memories slow down. -/
def execXtalLoss (t : Nat) (s : State) : Ans :=
  let s := s.upto t
  .next <|
    if !s.flag F.CLK_STATUS_XTAL_OK ∨ s.clk.off then s
    else
      let s := (sourceLost s F.CLK_SOURCE_LOST_XTAL).bumpSat F.CLK_SOURCE_LOST_XTAL_EVENTS
      let s := s.setFlag F.CLK_STATUS_XTAL_OK false
      if s.get F.PWR_STATUS_STATE = 2 then s
      else
        let s := { s with clk := { s.clk with coastAt := some s.now, slowMem := true, portRef := [] } }
        retune (s.setFlag F.CLK_STATUS_COASTING true)

/-- The links of a port whose loop has lost lock leave service (R643). -/
def unlockPort (s : State) (p : Nat) : State :=
  sixLinks.foldl (fun s l => if 2 ≤ linkSt s p l ∧ linkSt s p l ≤ 4 then linkOut s p l 1 8 else s) s

/-- PORT_LOOP_HOLDOVER (R642, R643): after 10 ms the port's loop changes to REFCLK, or loses lock when REFCLK is not valid. -/
def execPortLoopHoldover (p : Fin 6) (t : Nat) (s : State) : Ans :=
  let s := s.upto t
  let p := p.val
  .next <|
    match s.clk.coastAt with
    | none => s
    | some a =>
      if s.now < a + 10000000 ∨ tabGet 0 p s.clk.portRef = 2 then s
      else if s.flag F.CLK_STATUS_REFCLK_OK then { s with clk := { s.clk with portRef := tabPut p 1 s.clk.portRef } }
      else unlockPort { s with clk := { s.clk with portRef := tabPut p 2 s.clk.portRef } } p

/-- REFCLK_LOSS (R644). -/
def execRefclkLoss (t : Nat) (s : State) : Ans :=
  let s := s.upto t
  .next <|
    if !s.flag F.CLK_STATUS_REFCLK_OK ∨ s.clk.off then s
    else
      let s := { s with mgmt := { s.mgmt with linkUp := false } }
      (sourceLost (s.setFlag F.CLK_STATUS_REFCLK_OK false) F.CLK_SOURCE_LOST_REFCLK).bumpSat F.CLK_SOURCE_LOST_REFCLK_EVENTS

/-- Ports with nothing to wait for leave DOWN (R494). -/
def portsLink (s : State) : State := (List.range 6).foldl lightPort s

/-- REFCLK_RETURN (R641, R643, R644): the management port's link comes back, and port loops that had no reference lock to REFCLK. -/
def execRefclkReturn (t : Nat) (s : State) : Ans :=
  let s := s.upto t
  .next <|
    if s.flag F.CLK_STATUS_REFCLK_OK ∨ s.clk.off then s
    else
      let ref := s.clk.portRef.map fun e => if e.2 = 2 then (e.1, 1) else e
      let s := { s with mgmt := { s.mgmt with linkUp := true }, clk := { s.clk with portRef := ref } }
      portsLink (s.setFlag F.CLK_STATUS_REFCLK_OK true)

/-- XTAL_RETURN (R629, R641, R645): every running loop is back on XTAL at full rate, and so are the memories and the port loops. -/
def execXtalReturn (t : Nat) (s : State) : Ans :=
  let s := s.upto t
  .next <|
    if s.flag F.CLK_STATUS_XTAL_OK ∨ s.clk.off ∨ s.clk.testing ∨ s.get F.CLK_STATUS_XTAL_STABLE_MS = 0 then s
    else
      let s := (s.setFlag F.CLK_STATUS_XTAL_OK true).set F.CLK_STATUS_XTAL_STABLE_MS (nowMs s)
      match s.clk.coastAt with
      | none => s
      | some a =>
        let s := (s.setFlag F.CLK_STATUS_COASTING false).raiseTo F.CLK_SOURCE_LOST_COAST_MS ((s.now - a) / 1000000)
        let s := { s with clk := { s.clk with coastAt := none, slowMem := false, portRef := [] } }
        let lock := fun (s : State) (k : Nat) =>
          if loopLocked s k then let (x, s) := s.takeFree; s.set (loopLock k) x else s
        portsLink (retune ((List.range 3).foldl lock s))

/-! ### The trim of IOSC (R634, R635) -/

/-- Does some port in UP have a link that carries marks (R634)? -/
def marksCome (s : State) : Bool :=
  match (List.range 6).find? fun p => portUp s p with
  | some p => s.get (F.KZP_STATUS_LINK_SET p) != 0
  | none => false

/-- The reference of the trim: 0 none, 1 REFCLK, 2 marks. -/
def trimRef (s : State) : Nat :=
  let ok := s.flag F.CLK_STATUS_REFCLK_OK
  match s.get F.CLK_CTRL_TRIM_SRC with
  | 0 => if ok then 1 else if marksCome s then 2 else 0
  | 1 => if ok then 1 else 0
  | 2 => if marksCome s then 2 else 0
  | _ => 0

/-- A two's-complement number of so many bits. -/
def signedOf (w v : Nat) : Int := if v < 2 ^ (w - 1) then v else (v : Int) - 2 ^ w

/-- Its bits, saturating. -/
def signedBits (w : Nat) (v : Int) : Nat := (max (-(2 ^ (w - 1) : Int)) (min v (2 ^ (w - 1) - 1)) % 2 ^ w).toNat

/-- The trim code after a window with an error in ppm: at most 8 steps of 0.1 % toward zero error, when the error exceeds 0.05 %. -/
def trimStep (code ppm : Int) : Int :=
  if ppm.natAbs ≤ 500 then code
  else
    let n : Int := min 8 ((ppm.natAbs + 500) / 1000)
    max (-128) (min 127 (if 0 < ppm then code - n else code + n))

/-- IOSC_TRIM_WINDOW (R634, R635): a window of the reference in use ends with a relative error. -/
def execIoscTrimWindow (marks : Bool) (ppm : Int) (t : Nat) (s : State) : Ans :=
  let s := s.upto t
  .next <|
    if s.clk.off ∨ s.get F.PWR_STATUS_STATE = 2 ∨ trimRef s ≠ (if marks then 2 else 1) then s
    else
      let code := trimStep (signedOf 8 (s.get F.CLK_IOSC_TRIM_CODE)) ppm
      ((s.bump F.CLK_IOSC_TRIM_WINDOWS).set F.CLK_IOSC_TRIM_ERR_PPM (signedBits 16 ppm)).set F.CLK_IOSC_TRIM_CODE (signedBits 8 code)

/-! ### DEEP_IDLE (R646 to R654) -/

/-- The first reason against entry (R648). -/
def deepDenied (s : State) : Option Nat :=
  let sts := (List.range 32).map (channelState s)
  if openWork s (fun op => engineOp op || kernelOp op || op / 8 == 8) || !s.plane.kerns.isEmpty || !s.plane.kcopies.isEmpty then some 1
  else if !s.xlt.queue.isEmpty || waiterCount s != 0 then some 2
  else if !s.comp.recoveries.isEmpty || (List.range 4).any (fun n => sectorState s n != 0) then some 3
  else if s.comp.staging.isSome || s.get F.RAS_FW_STAGE == 1 then some 4
  else if s.flag F.CLK_SOURCE_LOST_XTAL || s.flag F.CLK_SOURCE_LOST_REFCLK then some 5
  else if sts.any fun x => x == 2 || x == 5 then some 6
  else none

/-- An entry ends: RESULT and DENY_REASON, with the power interrupt (R702). -/
def deepResult (s : State) (c : Code) (why : Nat) : State :=
  raiseIrq ((((s.setFlag F.PWR_STATUS_ENTERING false).set F.PWR_STATUS_RESULT (codeNum c)).set F.PWR_STATUS_DENY_REASON why)) 4

/-- A tile is unpowered. -/
def tileOff (s : State) (g : Nat) : State :=
  (((resetTile s g).set (F.TP_T_STATUS_STATE g) 0).set (F.TP_T_STATUS_BANKS_ON g) 0).set (F.TP_T_STATUS_BANKS_RET g) 0

/-- What the sector caches hold dirty over far granules goes to its storage. -/
def storeDirty (s : State) : State := (s.store.dirty.map (· / 32768)).eraseDups.foldl writeBack s

/-- The on-chip arrays that go OFF, which hold zeros when they return (R656). -/
def arraysOff (s : State) : State :=
  let s := storeDirty s
  { s with
    cache := { s.cache with track := [] }
    dir := { s.dir with cache := [] }
    rings := { s.rings with cache := [] }
    xlt := { s.xlt with tlb := [], segCache := [] } }

/-- Steps 2 to 7 of R649, as far as they can go now. -/
def deepGo (s : State) : State :=
  let (clear, s) := evictRange s 0 (2 ^ 47) .none
  if !clear || !s.dir.txns.isEmpty then s
  else
    let s := (List.range 6).foldl (fun s p => goDown s p 1 true) s
    let s := (List.range 4).foldl (fun s n => writeBacks s n (guestLines s n) true) s
    if backsOpen s [0, 1, 2, 3] then s
    else
      let s := (List.range 64).foldl tileOff (arraysOff s)
      let links := fun (s : State) (p : Nat) =>
        sixLinks.foldl (fun s l => if 1 ≤ linkSt s p l ∧ linkSt s p l ≤ 4 then linkOut s p l 1 1 else s) s
      let s := ((List.range 6).foldl links s).emit (.pin "LSM_OUTPUTS" false)
      let s := (List.range 3).foldl (fun s k => (s.set (loopState k) 0).set (loopFreq k) 0) s
      let s := { s with clk := { s.clk with gated := List.range 20, deepAt := s.now } }
      deepResult ((s.set F.PWR_STATUS_STATE 2).bumpSat F.PWR_STATS_DEEP_ENTRIES) .ok 0

/-- Writing ENTER_DEEP (R648, R649). While recalls and write-backs are open the entry stays under way, and goes on at the next such row. -/
def enterDeep (s : State) : State :=
  if !awake s ∨ !loopLocked s 1 then s
  else if s.flag F.PWR_STATUS_ENTERING then deepGo s
  else
    match deepDenied s with
    | some r => deepResult s .denied r
    | none => deepGo (s.setFlag F.PWR_STATUS_ENTERING true)

/-- Leaving DEEP_IDLE for a cause (R629, R651 to R653), or abandoning an entry under way (R650). -/
def wakeUp (s : State) (cause : Nat) : State :=
  if halted s || s.clk.trip then s
  else if s.get F.PWR_STATUS_STATE = 2 then
    let s := (s.set F.PWR_STATUS_STATE 1).set F.PWR_WAKE_CAUSE cause
    let s := s.bump F.PWR_STATS_DEEP_S ((s.now - s.clk.deepAt) / 1000000000)
    let (x, s) := s.takeFree
    let coast := !s.flag F.CLK_STATUS_XTAL_OK
    let s := { s with clk := { s.clk with coastAt := if coast then some s.now else none, slowMem := coast, portRef := [] } }
    let s := (((s.setFlag F.CLK_STATUS_COASTING coast).set F.CLK_PLL_X_STATE 2).bump F.CLK_PLL_X_STARTS).set F.CLK_PLL_X_LAST_LOCK_NS x
    let s := (s.set F.CLK_PLL_X_FREQ_MHZ (loopMhz s 1)).emit (.pin "LSM_OUTPUTS" true)
    portsLink (raiseIrq s 4)
  else if s.flag F.PWR_STATUS_ENTERING then
    portsLink ((deepResult (s.set F.PWR_WAKE_CAUSE cause) .denied 7).bumpSat F.PWR_STATS_DEEP_ABORTS)
  else s

/-- WAKE (R651, R653): CMD 2 of PWR_CTRL. -/
def execWake (t : Nat) (s : State) : Ans := .next (wakeUp (s.upto t) 1)

/-- DEEP_WAKE_EVENT (R651). -/
def execDeepWakeEvent (w : WakeBy) (t : Nat) (s : State) : Ans :=
  let s := s.upto t
  .next <|
    match w with
    | .access => if s.flag F.PWR_CTRL_WAKE_ON_PCIE then wakeUp s 2 else s
    | .light => if s.flag F.PWR_CTRL_WAKE_ON_LIGHT then wakeUp s 3 else s
    | .timer =>
      let ms := s.get F.PWR_WAKE_TIMER_MS
      if s.flag F.PWR_CTRL_WAKE_ON_TIMER ∧ ms ≠ 0 ∧ s.get F.PWR_STATUS_STATE = 2 ∧ s.clk.deepAt + 1000000 * ms ≤ s.now then wakeUp s 4 else s
    | .memFault => wakeUp s 5

/-- ENGINE_IDLE_GATE (R655). -/
def execEngineIdleGate (e : Fin 20) (t : Nat) (s : State) : Ans :=
  let s := s.upto t
  let e := e.val
  let family := fun op : Nat => if e < 8 then op / 16 == 1 else if e < 12 then op / 8 == 6 else if e < 16 then op / 8 == 7 else op / 16 == 5
  let mine := s.rings.jobs.any fun j => j.st != .finished && (j.unit == 0x08 + e || (j.unit == 0 && family (descOp j.words)))
  .next (if mine || s.plane.kcopies.any (fun x => x.engine = e) || s.clk.gated.contains e || decide (s.now < tabGet 0 e s.clk.engAt + 50000) then s
    else { s with clk := { s.clk with gated := setAdd e s.clk.gated } })

/-! ### Power and temperature limits (R677 to R683) -/

/-- The limit in force (R677). -/
def limitNow (s : State) : Nat :=
  let l := min (s.get F.PWR_LIMIT_POWER_LIMIT_W) s.clk.thermal
  if s.flag F.PWR_THROTTLE_PIN then min l (s.get F.PWR_LIMIT_PIN_LIMIT_W) else l

/-- Is any cause of PWR_THROTTLE active? -/
def throttling (s : State) : Bool :=
  s.flag F.PWR_THROTTLE_POWER || s.flag F.PWR_THROTTLE_CURRENT || s.flag F.PWR_THROTTLE_THERMAL || s.flag F.PWR_THROTTLE_PIN ||
  s.flag F.PWR_THROTTLE_HBM

/-- Keep the time with a cause active (THROTTLED_MS). -/
def noteThrottle (s : State) : State :=
  match s.clk.throttleAt with
  | none => if throttling s then { s with clk := { s.clk with throttleAt := some s.now } } else s
  | some a =>
    if throttling s then s
    else { s with clk := { s.clk with throttleAt := none } }.bump F.PWR_THROTTLE_THROTTLED_MS ((s.now - a) / 1000000)

/-- THROTTLE_N (R679): it has been low for 1 µs, or high for 1 ms. -/
def execThrottleN (low : Bool) (t : Nat) (s : State) : Ans :=
  let s := s.upto t
  .next (if s.clk.off then s else noteThrottle (s.setFlag F.PWR_THROTTLE_PIN low))

/-- THERMAL_LIMIT_TICK (R680). -/
def execThermalLimitTick (tj : Fin 256) (t : Nat) (s : State) : Ans :=
  let s := s.upto t
  .next <|
    if s.clk.off then s
    else
      let s := s.set F.PWR_THERMAL_TJ_MAX_C tj.val
      let lim := s.get F.PWR_THERMAL_THROTTLE_C
      let clk :=
        if lim ≤ tj.val ∧ s.clk.lowerAt + 10000000 ≤ s.now then { s.clk with thermal := max 400 (s.clk.thermal - 80), lowerAt := s.now }
        else if tj.val + 3 ≤ lim ∧ s.clk.raiseAt + 100000000 ≤ s.now then { s.clk with thermal := min 1600 (s.clk.thermal + 80), raiseAt := s.now }
        else s.clk
      let rises := s.clk.thermal == 1600 && decide (clk.thermal < 1600)
      let s := noteThrottle ({ s with clk := clk }.setFlag F.PWR_THROTTLE_THERMAL (decide (clk.thermal < 1600)))
      if rises then raiseIrq s 3 else s

/-- The hottest stack, of the latest readings. -/
def hottestStack (s : State) : Nat := (s.clk.temps.map (·.2)).foldl max 0

/-- HBM_TEMP_CHECK (R681). -/
def execHbmTempCheck (m : Fin 8) (temp : Fin 256) (t : Nat) (s : State) : Ans :=
  let s := s.upto t
  .next <|
    if s.clk.off then s
    else
      let hot := if 90 ≤ temp.val then setAdd m.val s.clk.hot else if temp.val ≤ 87 then setDel m.val s.clk.hot else s.clk.hot
      let s := { s with clk := { s.clk with hot := hot, temps := tabPut m.val temp.val s.clk.temps } }
      noteThrottle ((s.set F.PWR_THERMAL_HBM_MAX_C (hottestStack s)).setFlag F.PWR_THROTTLE_HBM (!hot.isEmpty))

/-- THERMAL_TRIP (R682): the hottest readings that have lasted for 1 ms; at a limit, all issue stops, every port goes DOWN, THERMTRIP_N is
asserted and no other output is driven. -/
def execThermalTrip (junction stack engine : Fin 256) (t : Nat) (s : State) : Ans :=
  let s := s.upto t
  .next <|
    if s.clk.off ∨ s.clk.trip then s
    else
      let s := ((s.set F.PWR_THERMAL_TJ_MAX_C junction.val).set F.PWR_THERMAL_HBM_MAX_C stack.val).set F.PWR_THERMAL_OE_MAX_C engine.val
      if junction.val < 115 ∧ stack.val < 105 ∧ engine.val < 90 then s
      else
        let s := (List.range 6).foldl (fun s p => cutPort s p 0) (stopAll s)
        { s with clk := { s.clk with trip := true } }.emit (.pin "THERMTRIP_N" false)

/-- INLET_SENSOR_READ (R682, R683, R715): none when the sensor does not answer. -/
def execInletSensorRead (temp : Option (Fin 256)) (t : Nat) (s : State) : Ans :=
  let s := s.upto t
  .next <|
    if s.clk.off then s
    else
      match temp with
      | none => ((s.setFlag F.PWR_THERMAL_INLET_PRESENT false).set F.PWR_THERMAL_INLET_C 0).setFlag F.PWR_THERMAL_INLET_HOT false
      | some c =>
        let rises := !s.flag F.PWR_THERMAL_INLET_HOT && decide (40 < c.val)
        let s := ((s.setFlag F.PWR_THERMAL_INLET_PRESENT true).set F.PWR_THERMAL_INLET_C c.val).setFlag F.PWR_THERMAL_INLET_HOT (decide (40 < c.val))
        if rises then raiseIrq s 3 else s

/-- POWER_LIMIT_WINDOW (R677, R678): above a limit one more group is held or slowed, in the order bundles, engines, copies; below, one
less. -/
def execPowerLimitWindow (watts amps t : Nat) (s : State) : Ans :=
  let s := s.upto t
  .next <|
    if s.clk.off then s
    else
      let s := s.set F.PWR_STATUS_POWER_W (min watts 4095)
      let l := limitNow s
      let hot := decide (l ≤ watts)
      let amp := decide (s.get F.PWR_LIMIT_CORE_LIMIT_A ≤ amps)
      let s := { s with clk := { s.clk with held := if hot || amp then min 3 (s.clk.held + 1) else s.clk.held - 1 } }
      noteThrottle ((s.setFlag F.PWR_THROTTLE_POWER (hot && l == s.get F.PWR_LIMIT_POWER_LIMIT_W)).setFlag F.PWR_THROTTLE_CURRENT amp)

/-! ### Zenith cores and device faults (R536, R577, R587, R591) -/

/-- A register field that a warm restart keeps: those of no chip-level block, of SYS_, CLK_, PWR_ and LC_, and what names homes, sectors,
tamper events and signatures. -/
def keptWarm (k : Nat) : Bool :=
  let off := k / 64
  decide (0x11000 ≤ off) || decide (off < 0x1000) || (decide (0x2000 ≤ off) && decide (off < 0x4000)) ||
  (decide (0x5000 ≤ off) && decide (off < 0x6000)) ||
  [F.XB_HOME_MAP_ENTRY0.off, F.RAS_SECTOR_STATE.off, F.RAS_FW_ACTIVE_BANK.off, F.SEC_TAMPER_STATUS_COUNT.off, F.SEC_XMSS_STATE_BLOCKS.off,
   F.SEC_XMSS_USED_NEXT_INDEX.off].contains off

/-- The LOG_GIB written before a reset reads as before, and comes into force with it (R463). -/
def logInForce (gib : Nat) (s : State) : State :=
  let s := { s.set F.BLK_LOG_CFG_LOG_GIB gib with log := { s.log with gib := gib } }
  if s.flag F.SYS_STATUS_NEAR_SERVING then setPoolFrames s else s

/-- The warm restart of R577; the LOG_GIB written before it comes into force (R463). -/
def warmRestart (s : State) (block : Nat) : State :=
  let s := if block = 5 then s else postRas s 0x2F zenith block
  let s := (List.range 6).foldl (fun s p => goDown s p 0 true) s
  let recs := s.xlt.queue ++ s.xlt.service
  let hurt := fun k : Kern => if k.tiles.isEmpty then k else { k with hurt := true }
  let gib := s.get F.BLK_LOG_CFG_LOG_GIB
  let s := { s with
    regs := s.regs.filter fun e => keptWarm e.1
    xlt := { s.xlt with queue := [], service := [], late := [], corrupt := [] }
    sec := { s.sec with portCur := [], portNext := [], ekeys := [], waiting := [] }
    plane := { s.plane with kerns := s.plane.kerns.map hurt }
    mgmt := { linkUp := s.mgmt.linkUp, msixEn := s.mgmt.msixEn, masked := s.mgmt.masked, hostWrites := s.mgmt.hostWrites, answered := s.mgmt.answered }
    comp := { s.comp with rolling := [], coreBusy := none, staging := none, changed := [], committing := none, leases := [] } }
  let s := recs.foldl resumeWaiters (logInForce gib s)
  let s := ((s.setFlag F.RAS_STATUS_DEVICE_FAULT true).set F.RAS_STATUS_BLOCK block).set F.RAS_FW_STAGE 0
  let s := startBlock ((s.bumpSat F.SYS_BOOT_WARM_RESTARTS).setFlag F.SYS_BOOT_COLD false)
  let s := (s.setFlag F.RAS_FW_READY false).set F.RAS_FW_ON_NEW 0
  (placeMap (keptFences s) s.comp.persisted s.comp.persistedEpoch false).setFlag F.CMP_STATUS_PERSISTED true

/-- DEVICE_FAULT (R577): block codes 1 to 8 of RAS_STATUS. -/
def execDeviceFault (block : Fin 9) (t : Nat) (s : State) : Ans :=
  let s := s.upto t
  .next (if block.val = 0 ∨ !awake s then s else wake (warmRestart s block.val))

/-- ZENITH_CORE_FAIL (R536): the failure of the last healthy core is a device fault of Zenith. -/
def execZenithCoreFail (core : Fin 4) (t : Nat) (s : State) : Ans :=
  let s := s.upto t
  let up := s.get F.RAS_STATUS_CORES_UP
  .next <|
    if !awake s then s
    else
      let s := s.set F.RAS_STATUS_CORES_UP (up - bits up core.val 1 * 2 ^ core.val)
      if up ≠ 0 ∧ s.get F.RAS_STATUS_CORES_UP = 0 then wake (warmRestart s 2) else s

/-! ### A unit that does not acknowledge (R104) -/

/-- Recovery of a translation unit by its SOURCE code: the port, engine, tile or sector that holds it, and the sequencer by a warm
restart (R104, R560, R577). -/
def recoverUnit (s : State) (u : Nat) : State :=
  if u < 6 then domainFaulted s .port u 1
  else if 0x08 ≤ u ∧ u < 0x20 then domainFaulted s .engine (u - 0x08) 1
  else if u = 0x20 then warmRestart s 4
  else if 0x40 ≤ u ∧ u < 0x80 then domainFaulted s .tile (u - 0x40) 1
  else if 0x80 ≤ u ∧ u < 0x84 then domainFaulted s .sector (u - 0x80) 1
  else s

/-- INVAL_TIMEOUT (R104): after 1 ms, a fault record, the unit's recovery, and its acknowledgement. -/
def execInvalTimeout (id : Nat) (unit : Fin 256) (t : Nat) (s : State) : Ans :=
  let s := s.upto t
  .next <|
    match s.xlt.invals.find? fun v => v.id = id with
    | none => s
    | some v =>
      if v.waitOn.contains unit.val ∧ 1000000 ≤ s.now - v.start then
        let s := postFault s { kind := 8, source := unit.val, detail := unit.val }
        wake (recoverUnit (invalAcked s v unit.val) unit.val)
      else s

end Sys2Proof.Machine
end

