-- ==== Sys2Proof/Machine/Management.lean ====
section
/-! DEFINITION. The management port (spec/18): the pool window, interrupts, MCTP, PLDM, vendor messages, sideband buses and telemetry; the
commit of a signature block (R592); the test access port (R666) and debug (R580). -/

namespace Sys2Proof.Machine

open Sys2Proof

/-! ### Accesses over the management port (R651, R652, R666) -/

/-- An access arrives over the management port: it has answered configuration requests, and in DEEP_IDLE the access wakes the device while
WAKE_ON_PCIE is 1. -/
def mgmtTouch (s : State) : State :=
  let s := { s with mgmt := { s.mgmt with answered := s.mgmt.answered || !s.clk.off } }
  if s.get F.PWR_STATUS_STATE = 2 ∧ s.flag F.PWR_CTRL_WAKE_ON_PCIE then wakeUp s 2 else s

/-! ### The pool window (R694 to R696) -/

/-- A piece of an access: pool address and length, within 256 bytes. -/
def cutPieces : Nat → Nat → Nat → List (Nat × Nat)
  | 0, _, _ => []
  | fuel + 1, a, n =>
    if n = 0 then []
    else
      let k := min n (256 - a % 256)
      (a, k) :: cutPieces fuel (a + k) (n - k)

/-- Is a line of the piece poisoned or lost? -/
def pieceSpoiled (s : State) (p : Nat × Nat) : Bool := (linesOf p.1 p.2).any fun l => s.dir.lost.contains l || linePoisoned s l

/-- The outcome of R695 for a piece; `late`: the access has waited for longer than R59 lets it. -/
def pieceCode (s : State) (write late : Bool) (p : Nat × Nat) : Code :=
  let c := s.get F.MGT_POOLWIN_CTX
  if !s.flag F.MGT_POOLWIN_EN || c == 0 || !ctxValid s c then .denied
  else if inWindow p.1 then .denied
  else
    match s.page? (p.1 / 2097152) with
    | none => .denied
    | some e =>
      if domConf s e.domain || e.domain != ctxDomain s c then .denied
      else
        match locate s (p.1 / 65536) (if write then .write else .read) with
        | .fault _ _ => .faultHeld
        | .copying => if late then .faultHeld else .ok
        | _ => if pieceSpoiled s p then .poison else .ok

/-- Does a refused read piece of a confidential page read as zeros (order 4)? -/
def pieceZeros (s : State) (p : Nat × Nat) : Bool :=
  let c := s.get F.MGT_POOLWIN_CTX
  s.flag F.MGT_POOLWIN_EN && c != 0 && ctxValid s c && !inWindow p.1 &&
    match s.page? (p.1 / 2097152) with | some e => domConf s e.domain | none => false

/-- Count an outcome other than OK. -/
def countPiece (s : State) (a : Nat) (c : Code) : State :=
  let s := (s.set F.MGT_POOLWIN_ERR_LAST_CODE (codeNum c)).bumpSat F.MGT_POOLWIN_ERR_COUNT
  let was := s.flag F.MGT_POOLWIN_ADDR_VALID
  let s := (s.set F.MGT_POOLWIN_ADDR_POOL_ADDR a).setFlag F.MGT_POOLWIN_ADDR_VALID true
  if was then s else raiseIrq s 7

/-- The bytes that a read piece gives. -/
def readPiece (s : State) (late : Bool) (p : Nat × Nat) : List Byte × State :=
  match pieceCode s false late p with
  | .ok =>
    let s := touch s (p.1 / 65536)
    let s := telem (countLines s (linesOf p.1 p.2)) (ctxDomain s (s.get F.MGT_POOLWIN_CTX)) fun x => { x with rd := x.rd + p.2 }
    (s.bytes p.1 p.2, s)
  | c => (List.replicate p.2 (if pieceZeros s p then 0 else 255), countPiece s p.1 c)

/-- A write piece takes effect at its home. -/
def writePiece (s : State) (late : Bool) (a : Nat) (data : List Byte) : State :=
  match pieceCode s true late (a, data.length) with
  | .ok =>
    let s := touch s (a / 65536)
    let s := telem (countLines s (linesOf a data.length)) (ctxDomain s (s.get F.MGT_POOLWIN_CTX)) fun x => { x with wr := x.wr + data.length }
    writeRange (closeReads s a data.length) a data
  | c => countPiece s a c

/-- Must the access wait: for a granule being copied (R59), or for partners' copies (R175)? The recalls have then been started. -/
def windowWaits (s : State) (write late : Bool) (ps : List (Nat × Nat)) : Bool × State :=
  let ok := ps.filter fun p => pieceCode s write late p = .ok
  let copying := ok.any fun p => decide (locate s (p.1 / 65536) (if write then .write else .read) = .copying)
  if copying then (true, { s with mgmt := { s.mgmt with winAt := some (s.mgmt.winAt.getD s.now) } })
  else
    let go := fun (a : Bool × State) (p : Nat × Nat) => let (r, s) := recallRange a.2 p.1 p.2 write .none; (a.1 && r, s)
    let (r, s) := ok.foldl go (true, s)
    (!r, s)

/-- POOL_WINDOW_ACCESS (R694 to R696). An access that must wait takes effect when it is given again. -/
def execPoolWindowAccess (off : BitVec 32) (op : WinOp) (t : Nat) (s : State) : Ans :=
  let s := mgmtTouch (s.upto t)
  let base := s.get F.MGT_POOLWIN_BASE * 2 ^ 32 + off.toNat
  let n := match op with | .read k => k.val | .write d => d.length
  let write := match op with | .read _ => false | .write _ => true
  let ps := cutPieces 17 base n
  let late := match s.mgmt.winAt with | some a => decide (a + 2000 < s.now) | none => false
  .next <|
    if !awake s then (if write then s else s.emit (.mmio (2 ^ (8 * n) - 1)))
    else
      match windowWaits s write late ps with
      | (true, s) => s
      | (false, s) =>
        let s := { s with mgmt := { s.mgmt with winAt := none } }
        match op with
        | .read _ =>
          if ps.any fun p => pieceCode s false late p = .poison then
            (ps.foldl (fun s p => (readPiece s late p).2) s).emit (.mgmt "POISONED_COMPLETION" (codeNum .poison) [])
          else
            let get := fun (a : List Byte × State) (p : Nat × Nat) => let (d, s) := readPiece a.2 late p; (a.1 ++ d, s)
            let (d, s) := ps.foldl get ([], s)
            s.emit (.mmio (leVal d))
        | .write d => wake (ps.foldl (fun s p => writePiece s late p.1 ((d.drop (p.1 - base)).take p.2)) s)

/-! ### MSI-X (R702 to R704) -/

/-- Send what is pending and can leave now: a source's message only while its status bit is 1 (R704). -/
def sendPending (s : State) : State :=
  let can := fun x : Nat × Nat => s.mgmt.linkUp && s.mgmt.msixEn && !s.mgmt.masked.contains x.2
  let now := s.mgmt.pendMsix.filter can
  let s := { s with mgmt := { s.mgmt with pendMsix := s.mgmt.pendMsix.filter fun x => !can x } }
  now.foldl (fun s x => if x.1 = 8 ∨ bits (s.get F.MGT_IRQ_STATUS_SOURCES) x.1 1 = 1 then s.emit (.msix x.2) else s) s

/-- MSIX_PENDING_SEND (R704): the state of the link, of MSI-X Enable, and vectors that are unmasked. The link needs REFCLK (R644). -/
def execMsixPendingSend (linkUp enabled : Bool) (unmask : List (Fin 2048)) (t : Nat) (s : State) : Ans :=
  let s := s.upto t
  let up := linkUp && s.flag F.CLK_STATUS_REFCLK_OK && !s.clk.off
  let open_ := unmask.map fun v => v.val
  .next (sendPending { s with mgmt := { s.mgmt with
    linkUp := up, msixEn := enabled, answered := s.mgmt.answered || up, masked := s.mgmt.masked.filter fun v => !open_.contains v } })

/-! ### MCTP (R705, R706) -/

/-- Does a binding work? -/
def binding (s : State) (pcie : Bool) : Bool :=
  !halted s && (if pcie then s.flag F.MGT_CTRL_MCTP_PCIE_EN && s.mgmt.linkUp else s.flag F.MGT_CTRL_MCTP_SMBUS_EN)

/-- The device's EID on a binding. -/
def ownEid (s : State) (pcie : Bool) : Nat := s.get (if pcie then F.MGT_STATUS_EID_PCIE else F.MGT_STATUS_EID_SMBUS)

/-- Send a response on the binding that carried its request. -/
def respond (s : State) (pcie : Bool) (what : String) (code : Nat) (data : List Nat) : State := s.emit (.mgmt what code (pcie.toNat :: data))

/-- An MCTP control command: answered while its binding works. -/
def control (s : State) (pcie : Bool) (go : State → State) : State := if binding s pcie then go s else s

/-- A PLDM or vendor message: answered once the EID is set, too (R705). -/
def withEid (s : State) (pcie : Bool) (go : State → State) : State := if binding s pcie && ownEid s pcie != 0 then go s else s

/-- A message is dropped and counted (R706). -/
def dropMsg (s : State) (badType : Bool) : State :=
  let s := s.bumpSat F.MGT_MCTP_STATS_DROPPED
  if badType then s.bumpSat F.MGT_MCTP_STATS_BAD_TYPE else s

/-- The message of a packet under assembly. -/
def assemblyOf (s : State) (p : MctpPkt) : Option Assembly :=
  s.mgmt.assemblies.find? fun a => a.pcie = p.pcie && a.src = p.src.toNat && a.tag = p.tag.val

/-- Replace the message under assembly that a packet belongs to. -/
def putAssembly (s : State) (p : MctpPkt) (a : Option Assembly) : State :=
  let rest := s.mgmt.assemblies.filter fun a => !(a.pcie = p.pcie && a.src = p.src.toNat && a.tag = p.tag.val)
  { s with mgmt := { s.mgmt with assemblies := rest ++ a.toList } }

/-- The message so far, with a packet added. -/
def assemble (s : State) (p : MctpPkt) (a : Assembly) : State :=
  let a := { a with bytes := a.bytes + p.bytes }
  if 64 < p.bytes ∨ 8192 < a.bytes then dropMsg (putAssembly s p none) false
  else if p.eom then (putAssembly s p none).bump F.MGT_MCTP_STATS_RECEIVED
  else putAssembly s p (some a)

/-- MCTP_MESSAGE (R705, R706): a packet of a message. -/
def execMctpMessage (p : MctpPkt) (t : Nat) (s : State) : Ans :=
  let s := s.upto t
  let eid := ownEid s p.pcie
  let mine := (p.dst.toNat = 0 && (p.type = 0 || !p.som)) || (eid != 0 && p.dst.toNat == eid)
  .next <|
    if !binding s p.pcie || !mine then s
    else if p.som then
      let s := putAssembly s p none
      if p.type ≠ 0 ∧ p.type ≠ 1 ∧ p.type ≠ 0x7E then dropMsg s true
      else if !p.eom ∧ 4 ≤ s.mgmt.assemblies.length then dropMsg s false
      else assemble s p { pcie := p.pcie, src := p.src.toNat, tag := p.tag.val, type := p.type.toNat, bytes := 0 }
    else
      match assemblyOf s p with
      | none => s
      | some a => assemble s p a

/-- A byte or field whose content the spec does not state: the same at every reading. -/
def fixedField (what k : Nat) : Nat := Config.answerField (1000000 + what) k

/-- SET_ENDPOINT_ID (R705): the null and the broadcast EID are no EIDs to assign. -/
def execSetEndpointId (pcie : Bool) (eid : BitVec 8) (s : State) : Ans :=
  .next (control s pcie fun s =>
    if eid = 0 ∨ eid = 0xFF then respond s pcie "SET_ENDPOINT_ID" 1 [ownEid s pcie]
    else respond (s.set (if pcie then F.MGT_STATUS_EID_PCIE else F.MGT_STATUS_EID_SMBUS) eid.toNat) pcie "SET_ENDPOINT_ID" 0 [eid.toNat])

/-- GET_ENDPOINT_ID (R706). -/
def execGetEndpointId (pcie : Bool) (s : State) : Ans := .next (control s pcie fun s => respond s pcie "GET_ENDPOINT_ID" 0 [ownEid s pcie])

/-- GET_ENDPOINT_UUID (R706): 16 bytes. -/
def execGetEndpointUuid (pcie : Bool) (s : State) : Ans :=
  .next (control s pcie fun s => respond s pcie "GET_ENDPOINT_UUID" 0 ((List.range 16).map fun i => fixedField 1 i % 256))

/-- Message types the device supports (R706). -/
def mctpTypes : List Nat := [0x00, 0x01, 0x7E]

/-- GET_MCTP_VERSION_SUPPORT (R706). -/
def execGetMctpVersionSupport (pcie : Bool) (type : BitVec 8) (s : State) : Ans :=
  .next (control s pcie fun s =>
    if mctpTypes.contains type.toNat ∨ type = 0xFF then respond s pcie "GET_MCTP_VERSION_SUPPORT" 0 [fixedField 2 type.toNat]
    else respond s pcie "GET_MCTP_VERSION_SUPPORT" 1 [])

/-- GET_MESSAGE_TYPE_SUPPORT (R706). -/
def execGetMessageTypeSupport (pcie : Bool) (s : State) : Ans :=
  .next (control s pcie fun s => respond s pcie "GET_MESSAGE_TYPE_SUPPORT" 0 mctpTypes)

/-- GET_VENDOR_DEFINED_MESSAGE_SUPPORT (R706, R711): one vendor, with the PCI vendor ID. -/
def execGetVendorDefinedMessageSupport (pcie : Bool) (sel : BitVec 8) (s : State) : Ans :=
  .next (control s pcie fun s =>
    if sel = 0 then respond s pcie "GET_VENDOR_DEFINED_MESSAGE_SUPPORT" 0 [0x1FA7] else respond s pcie "GET_VENDOR_DEFINED_MESSAGE_SUPPORT" 1 [])

/-! ### PLDM base and monitoring (R707, R708) -/

/-- GET_TID (R707). -/
def execGetTid (pcie : Bool) (s : State) : Ans := .next (withEid s pcie fun s => respond s pcie "GET_TID" 0 [s.mgmt.tid])

/-- SET_TID (R707): 0 and 0xFF are no terminus IDs. -/
def execSetTid (pcie : Bool) (tid : BitVec 8) (s : State) : Ans :=
  .next (withEid s pcie fun s =>
    if tid = 0 ∨ tid = 0xFF then respond s pcie "SET_TID" 1 []
    else respond { s with mgmt := { s.mgmt with tid := tid.toNat } } pcie "SET_TID" 0 [])

/-- PLDM types the device implements (R707, R709). -/
def pldmTypes : List Nat := [0, 2, 5]

/-- GET_PLDM_VERSION (R707). -/
def execGetPldmVersion (pcie : Bool) (type : BitVec 8) (s : State) : Ans :=
  .next (withEid s pcie fun s =>
    if pldmTypes.contains type.toNat then respond s pcie "GET_PLDM_VERSION" 0 [fixedField 3 type.toNat] else respond s pcie "GET_PLDM_VERSION" 1 [])

/-- GET_PLDM_TYPES (R707). -/
def execGetPldmTypes (pcie : Bool) (s : State) : Ans := .next (withEid s pcie fun s => respond s pcie "GET_PLDM_TYPES" 0 pldmTypes)

/-- The commands of a PLDM type as the rules list them. -/
def pldmCommands : Nat → Option (List String)
  | 0 => some ["SET_TID", "GET_TID", "GET_PLDM_VERSION", "GET_PLDM_TYPES", "GET_PLDM_COMMANDS"]
  | 2 => some ["GET_PDR_REPOSITORY_INFO", "GET_PDR", "SET_EVENT_RECEIVER", "GET_SENSOR_READING", "GET_STATE_SENSOR_READINGS"]
  | 5 => some ["REQUEST_UPDATE", "PASS_COMPONENT_TABLE", "REQUEST_FIRMWARE_DATA", "ACTIVATE_FIRMWARE"]
  | _ => none

/-- GET_PLDM_COMMANDS (R707): how many the rules list, and the bit map that names them. -/
def execGetPldmCommands (pcie : Bool) (type : BitVec 8) (s : State) : Ans :=
  .next (withEid s pcie fun s =>
    match pldmCommands type.toNat with
    | some l => respond s pcie "GET_PLDM_COMMANDS" 0 [l.length, fixedField 4 type.toNat]
    | none => respond s pcie "GET_PLDM_COMMANDS" 1 [])

/-- The numeric sensors, and the state sensors, of R707. -/
def numericSensors : List Nat := [1, 2, 3, 4, 5, 6, 7]
def stateSensors : List Nat := span 20 12

/-- What a sensor reads now (R707); none: unavailable. -/
def sensorNow (s : State) (i : Nat) : Option Nat :=
  match i with
  | 1 => some (s.get F.PWR_THERMAL_TJ_MAX_C)
  | 2 => some (s.get F.PWR_THERMAL_HBM_MAX_C)
  | 3 => some (s.get F.PWR_THERMAL_OE_MAX_C)
  | 4 => if s.flag F.PWR_THERMAL_INLET_PRESENT then some (s.get F.PWR_THERMAL_INLET_C) else none
  | 5 => some (s.get F.PWR_STATUS_POWER_W)
  | 6 => some (limitNow s)
  | 7 => some s.store.pages.length
  | 20 => some (s.get F.PWR_STATUS_STATE)
  | 21 => some (lcState s)
  | _ => if 22 ≤ i ∧ i < 26 then some (sectorState s (i - 22)) else if 26 ≤ i ∧ i < 32 then some (s.get (F.KZP_STATUS_STATE (i - 26))) else none

/-- GET_PDR_REPOSITORY_INFO (R707): one record for each sensor. -/
def execGetPdrRepositoryInfo (pcie : Bool) (s : State) : Ans :=
  .next (withEid s pcie fun s => respond s pcie "GET_PDR_REPOSITORY_INFO" 0 [(numericSensors ++ stateSensors).length, fixedField 5 0])

/-- GET_PDR (R707): the record of a sensor, handle 0 naming the first; what its fields hold beside the sensor's number is not stated. -/
def execGetPdr (pcie : Bool) (handle : BitVec 32) (s : State) : Ans :=
  .next (withEid s pcie fun s =>
    match (numericSensors ++ stateSensors)[handle.toNat - 1]? with
    | some i => respond s pcie "GET_PDR" 0 [i, fixedField 6 i]
    | none => respond s pcie "GET_PDR" 1 [])

/-- SET_EVENT_RECEIVER (R708). -/
def execSetEventReceiver (pcie : Bool) (eid : BitVec 8) (s : State) : Ans :=
  .next (withEid s pcie fun s =>
    respond { s with mgmt := { s.mgmt with receiver := if eid = 0 then none else some (pcie, eid.toNat) } } pcie "SET_EVENT_RECEIVER" 0 [])

/-- The reading of a sensor as last refreshed: unavailable before the first refresh. -/
def sensorAnswer (s : State) (pcie : Bool) (what : String) (among : List Nat) (i : Nat) : State :=
  if !among.contains i then respond s pcie what 1 []
  else
    match tabGet? i s.mgmt.sensors with
    | some v => respond s pcie what 0 [1, v]
    | none => respond s pcie what 0 [0]

/-- GET_SENSOR_READING (R707). -/
def execGetSensorReading (pcie : Bool) (id : BitVec 16) (s : State) : Ans :=
  .next (withEid s pcie fun s => sensorAnswer s pcie "GET_SENSOR_READING" numericSensors id.toNat)

/-- GET_STATE_SENSOR_READINGS (R707). -/
def execGetStateSensorReadings (pcie : Bool) (id : BitVec 16) (s : State) : Ans :=
  .next (withEid s pcie fun s => sensorAnswer s pcie "GET_STATE_SENSOR_READINGS" stateSensors id.toNat)

/-- Refresh one sensor; a state sensor that has changed sends an event (R708). -/
def refreshOne (s : State) (i : Nat) : State :=
  let old := tabGet? i s.mgmt.sensors
  let new := sensorNow s i
  let l := match new with | some v => tabPut i v s.mgmt.sensors | none => tabDel i s.mgmt.sensors
  let tells := stateSensors.contains i && old.isSome && old != new && s.mgmt.receiver.isSome
  let s := { s with mgmt := { s.mgmt with sensors := l } }
  if tells then s.emit (.mgmt "PLATFORM_EVENT_SENSOR" 0 [i, new.getD 0]) else s

/-- PLDM_SENSOR_REFRESH (R707, R708). -/
def execPldmSensorRefresh (t : Nat) (s : State) : Ans :=
  let s := s.upto t
  .next (if halted s then s else (numericSensors ++ stateSensors).foldl refreshOne s)

/-! ### PLDM firmware update (R709, R710) -/

/-- Is the message from the agent of the update under way? -/
def fromAgent (s : State) (pcie : Bool) (agent : BitVec 8) : Option Update :=
  match s.mgmt.update with
  | some u => if u.pcie = pcie ∧ u.agent = agent.toNat then some u else none
  | none => none

/-- Keep the state of the update, heard from its agent now. -/
def putUpdate (s : State) (u : Update) : State := { s with mgmt := { s.mgmt with update := some { u with heard := s.now } } }

/-- The code of a PLDM update response: 0 success, 1 error, 0x81 ALREADY_IN_UPDATE_MODE. -/
def alreadyUpdating : Nat := 0x81

/-- REQUEST_UPDATE (R709, R710, MGT_CTRL.FWUP_EN); no image is accepted in SCRAPPED (R580), nor while an update is rolling. -/
def execRequestUpdate (pcie : Bool) (agent : BitVec 8) (maxTransfer : Nat) (t : Nat) (s : State) : Ans :=
  let s := s.upto t
  .next (withEid s pcie fun s =>
    if s.mgmt.update.isSome then respond s pcie "REQUEST_UPDATE" alreadyUpdating []
    else if !s.flag F.MGT_CTRL_FWUP_EN ∨ lcState s = 5 ∨ s.get F.RAS_FW_STAGE = 1 then respond s pcie "REQUEST_UPDATE" 1 []
    else
      let u : Update := { pcie := pcie, agent := agent.toNat, chunk := min maxTransfer 4096 }
      respond ((putUpdate s u).setFlag F.RAS_FW_READY false) pcie "REQUEST_UPDATE" 0 [])

/-- PASS_COMPONENT_TABLE (R709): a component larger than the bank is refused. -/
def execPassComponentTable (pcie : Bool) (agent : BitVec 8) (size : Nat) (t : Nat) (s : State) : Ans :=
  let s := s.upto t
  .next (withEid s pcie fun s =>
    match fromAgent s pcie agent with
    | none => respond s pcie "PASS_COMPONENT_TABLE" 1 []
    | some u =>
      if 2 ^ 25 < size then respond (putUpdate s u) pcie "PASS_COMPONENT_TABLE" 1 []
      else
        let s := respond (putUpdate s { u with size := some size, got := 0 }) pcie "PASS_COMPONENT_TABLE" 0 []
        s.emit (.mgmt "REQUEST_FIRMWARE_DATA" 0 [pcie.toNat, 0, min u.chunk size]))

/-- The whole image is in the inactive bank: it is verified and applied (R596, R709). -/
def verifyImage (s : State) (pcie : Bool) (u : Update) (image : Option Image) : State :=
  let done := putUpdate s { u with size := none, got := 0 }
  match image with
  | some x =>
    if imageOk s x then
      let s := raiseIrq ((putBank done (otherBank s) x).setFlag F.RAS_FW_READY true) 6
      (s.emit (.mgmt "VERIFY_COMPLETE" 0 [pcie.toNat])).emit (.mgmt "APPLY_COMPLETE" 0 [pcie.toNat])
    else done.emit (.mgmt "VERIFY_COMPLETE" 1 [pcie.toNat])
  | none => done.emit (.mgmt "VERIFY_COMPLETE" 1 [pcie.toNat])

/-- REQUEST_FIRMWARE_DATA (R709): a chunk arrives; the one that completes the component comes with what the checks of R596 find. -/
def execRequestFirmwareData (pcie : Bool) (agent : BitVec 8) (len : Nat) (image : Option Image) (t : Nat) (s : State) : Ans :=
  let s := s.upto t
  .next (withEid s pcie fun s =>
    match fromAgent s pcie agent with
    | none => s
    | some u =>
      match u.size with
      | none => putUpdate s u
      | some n =>
        let u := { u with got := u.got + min len (min u.chunk (n - u.got)) }
        let s := { s with comp := { s.comp with banks := listSet s.comp.banks (otherBank s) {} } }
        if u.got = n then verifyImage s pcie u image
        else (putUpdate s u).emit (.mgmt "REQUEST_FIRMWARE_DATA" 0 [pcie.toNat, u.got, min u.chunk (n - u.got)]))

/-- ACTIVATE_FIRMWARE (R709): as CMP_FW_ACTIVATE, with 1 s as the estimated time; the update ends. -/
def execActivateFirmware (pcie : Bool) (agent : BitVec 8) (t : Nat) (s : State) : Ans :=
  let s := s.upto t
  .next (withEid s pcie fun s =>
    match fromAgent s pcie agent with
    | none => respond s pcie "ACTIVATE_FIRMWARE" 1 []
    | some u =>
      if !mayRoll s then respond (putUpdate s u) pcie "ACTIVATE_FIRMWARE" 1 []
      else respond (rollStart { s with mgmt := { s.mgmt with update := none } }) pcie "ACTIVATE_FIRMWARE" 0 [1])

/-- UPDATE_AGENT_TIMEOUT (R710). -/
def execUpdateAgentTimeout (t : Nat) (s : State) : Ans :=
  let s := s.upto t
  .next (match s.mgmt.update with
    | some u => if u.heard + 120000000000 ≤ s.now then { s with mgmt := { s.mgmt with update := none } }.setFlag F.RAS_FW_READY false else s
    | none => s)

/-! ### Vendor messages (R711 to R713) -/

/-- A vendor response: its command, code, INSTANCE and payload. -/
def vendorSay (s : State) (pcie : Bool) (cmd : Nat) (c : Code) (inst : Nat) (b : List Byte) : State :=
  respond s pcie "VENDOR" (codeNum c) (cmd :: inst :: b.map (·.toNat))

/-- A vendor command: refused under ATTEST_EN and R712, and MALFORMED with a payload of the wrong length. -/
def vendor (s : State) (pcie : Bool) (cmd inst : Nat) (lenOk : Bool) (go : State → State) : State :=
  withEid s pcie fun s =>
    if !s.flag F.MGT_CTRL_ATTEST_EN ∨ lcState s = 5 ∨ (lcState s = 1 ∧ (cmd = 2 ∨ cmd = 3)) then vendorSay s pcie cmd .denied inst []
    else if !lenOk then vendorSay s pcie cmd .malformed inst []
    else go s

/-- The identity public key, zeros in MANUFACTURE. -/
def identityBytes (s : State) : List Byte := if lcState s = 1 then List.replicate 52 0 else padTo 52 Config.identityKey

/-- GET_IDENTITY (R712). -/
def execGetIdentity (pcie : Bool) (inst : BitVec 8) (s : State) : Ans :=
  .next (vendor s pcie 1 inst.toNat true fun s =>
    vendorSay s pcie 1 .ok inst.toNat (leBytes 8 (deviceId s) ++ leBytes 1 (lcState s) ++ leBytes 1 (s.get F.LC_SVN_SVN) ++ leBytes 6 0 ++
      identityBytes s))

/-- GET_CERT (R712). -/
def execGetCert (pcie : Bool) (inst : BitVec 8) (off : BitVec 32) (len : BitVec 16) (s : State) : Ans :=
  .next (vendor s pcie 2 inst.toNat (decide (1 ≤ len.toNat) && decide (len.toNat ≤ 1024)) fun s =>
    if Config.certLen ≤ off.toNat then vendorSay s pcie 2 .malformed inst.toNat []
    else
      vendorSay s pcie 2 .ok inst.toNat
        (leBytes 4 Config.certLen ++ (span off.toNat (min len.toNat (Config.certLen - off.toNat))).map Config.certByte))

/-- Sign one report that was asked for; it waits for an index when it must. -/
def reportNow (s : State) (r : ReportReq) : State :=
  match makeReport s r.dom false r.nonce with
  | (.error c, s) => vendorSay s r.pcie 3 c r.inst []
  | (.ok none, s) => { s with sec := { s.sec with waiting := s.sec.waiting ++ [r] } }
  | (.ok (some b), s) => vendorSay s r.pcie 3 .ok r.inst b

/-- GET_REPORT (R712, R713): up to four wait. -/
def execGetReport (pcie : Bool) (inst : BitVec 8) (dom : BitVec 8) (nonce : List Byte) (t : Nat) (s : State) : Ans :=
  let s := s.upto t
  .next (vendor s pcie 3 inst.toNat (nonce.length == 32) fun s =>
    let r : ReportReq := { pcie := pcie, inst := inst.toNat, dom := dom.toNat, nonce := nonce }
    if !domLive s dom.toNat then vendorSay s pcie 3 .denied inst.toNat []
    else if 4 ≤ s.sec.waiting.length then vendorSay s pcie 3 .capacity inst.toNat []
    else if !s.sec.waiting.isEmpty then { s with sec := { s.sec with waiting := s.sec.waiting ++ [r] } }
    else reportNow s r)

/-- GET_XMSS (R712). -/
def execGetXmss (pcie : Bool) (inst : BitVec 8) (s : State) : Ans :=
  .next (vendor s pcie 4 inst.toNat true fun s =>
    vendorSay s pcie 4 .ok inst.toNat (leBytes 4 (s.get F.SEC_XMSS_STATE_BLOCKS) ++ leBytes 8 (s.get F.SEC_XMSS_USED_NEXT_INDEX)))

/-- XMSS_BLOCK_COMMIT (R592 to R594): the block that is due is reserved, and the reports that wait for it are signed. -/
def execXmssBlockCommit (t : Nat) (s : State) : Ans :=
  let s := s.upto t
  let b := s.get F.SEC_XMSS_STATE_BLOCKS
  .next <|
    if !s.sec.blockDue ∨ s.sec.blocksBad ≥ 2 ∨ 2 ^ 30 ≤ b ∨ halted s then s
    else
      let s := (s.set F.SEC_XMSS_STATE_BLOCKS (b + 1)).set F.SEC_XMSS_STATE_BLOCKS_C (onesComp 32 (b + 1))
      let w := s.sec.waiting
      w.foldl reportNow { s with sec := { s.sec with blockDue := false, blocksBad := 0, waiting := [] } }

/-! ### Sideband buses (R714, R715) -/

/-- MGT_BUS_TIMEOUT (R715): a target stays unreadable after three retries; on the MGT bus the device releases SDA. -/
def execMgtBusTimeout (bus : SideBus) (t : Nat) (s : State) : Ans :=
  let s := s.upto t
  .next <|
    if s.clk.off then s
    else
      match bus with
      | .i3c d =>
        let n := d.val / 8
        let s := (s.bumpSat F.MGT_SIDEBAND_I3C_ERRS).set F.MGT_SIDEBAND_I3C_STUCK (Nat.lor (s.get F.MGT_SIDEBAND_I3C_STUCK) (2 ^ n))
        if channelState s d.val = 1 then (s.set (F.DDR_D_STATUS_STATE d.val) 7).set (F.DDR_D_STATUS_REASON d.val) 4 else s
      | .lsm m =>
        let s := s.bumpSat F.MGT_SIDEBAND_LSM_ERRS
        let st := s.get (F.KZP_OE_STATUS_LSM_STATE (m.val / 2) (m.val % 2))
        if st = 1 ∨ st = 2 then wake (laserFail s m.val) else s
      | .cs =>
        let s := (s.bumpSat F.MGT_SIDEBAND_CS_ERRS).setFlag F.MGT_SIDEBAND_CS_STUCK true
        ((s.setFlag F.PWR_THERMAL_INLET_PRESENT false).set F.PWR_THERMAL_INLET_C 0).setFlag F.PWR_THERMAL_INLET_HOT false
      | .mgt => s.emit (.pin "MGT_SDA" true)

/-! ### Telemetry (R716) -/

/-- Writing SNAP (R716). -/
def telemSnap (s : State) : State := { s with mgmt := { s.mgmt with snap := s.mgmt.telem } }.set F.MGT_TELEM_TIME_TIME s.now

/-! ### Debug and the test access port (R580, R666) -/

/-- Does a debug token open debug in the life-cycle state (R580, R616)? -/
def debugMay (s : State) (token : List Byte) : Bool :=
  let msg := leBytes 8 (deviceId s) ++ Config.debugNonce s.sec.nonce
  match lcState s with
  | 1 => true
  | 2 | 4 => Config.xmssOk Config.herquinKey msg token
  | 3 => confCount s == 0 && Config.xmssOk s.sec.owner msg token
  | _ => false

/-- DEBUG_OPEN (R580). -/
def execDebugOpen (token : List Byte) (t : Nat) (s : State) : Ans :=
  let s := s.upto t
  .next <|
    if halted s || !debugMay s token then s
    else { s with sec := { s.sec with nonce := s.sec.nonce + 1 } }.setFlag F.LC_DEBUG_OPEN true |>.bumpSat F.LC_DEBUG_OPENS

/-- TAP_INSTRUCTION (R666): accepted, or refused once the management port has answered a configuration request. -/
def execTapInstruction (instr : String) (s : State) : Ans :=
  let ok := !s.clk.off && (!s.mgmt.answered || instr = "BYPASS" || instr = "IDCODE")
  .next (s.emit (.mgmt "TAP_INSTRUCTION" (if ok then 0 else 1) []))

end Sys2Proof.Machine
end

