-- ==== Sys2Proof/Machine/Search.lean ====
section
/-! DEFINITION. The meanings of the search engines (spec/10). -/

namespace Sys2Proof.Machine

open Sys2Proof

/-! ### Definitions and records (R402, R406, R409) -/

/-- Bytes of a code. -/
def SrchDef.codeBytes (x : SrchDef) : Nat := x.units * 8
/-- The stride of records (R402). -/
def SrchDef.stride (x : SrchDef) : Nat := ceilDiv (16 + x.codeBytes + 8 * x.maxDeg) 64 * 64
/-- Address of a node's record. -/
def SrchDef.recVa (x : SrchDef) (n : Nat) : Nat := x.va + n * x.stride

/-- The definition that SRCH_INDEX_SET describes. -/
def srchDefOf (c : Nat) (ws : List Word) (n : Nat) (writable : Bool) : SrchDef :=
  { ctx := c, index := dbits ws 16 0 10, num := n, units := dbits ws 18 0 7, maxDeg := dbits ws 19 0 7, promote := dbits ws 19 7 1 == 1,
    shard := dbits ws 20 0 16, va := dbits ws 24 0 57, nodes := dbits ws 32 0 32, entry := dbits ws 36 0 32, writable := writable }

/-- The body of a query (R409). -/
structure SrchD where
  index : Nat
  k : Nat
  nterm : Nat
  skip : Bool
  beam : Nat
  queryVa : Nat
  resultVa : Nat
  maxDist : Nat
  budget : Nat
  first : Nat
  count : Nat
deriving DecidableEq, Repr

/-- Read a query. -/
def srchOf (ws : List Word) : SrchD :=
  { index := dbits ws 16 0 10, k := dbits ws 18 0 11, nterm := dbits ws 20 0 3, skip := dbits ws 20 3 1 == 1, beam := dbits ws 22 0 13,
    queryVa := dbits ws 24 0 57, resultVa := dbits ws 32 0 57, maxDist := dbits ws 40 0 13,
    budget := if dbits ws 44 0 32 = 0 then 65536 else dbits ws 44 0 32, first := dbits ws 48 0 32, count := dbits ws 52 0 32 }

/-- Format of the search family, as far as it needs no definition (R404, R406, R407, R410 order 1, R424). -/
def srchFmt (ws : List Word) : Bool :=
  let op := descOp ws
  let idx := dbits ws 17 2 6 == 0
  match op with
  | 0x38 =>
    let x := srchDefOf 0 ws 0 false
    idx && dbits ws 18 7 1 == 0 && decide (1 ≤ x.units) && decide (x.units ≤ 64) && decide (x.maxDeg ≤ 64) && dbits ws 22 0 16 == 0 &&
      x.va % 64 == 0 && dbits ws 31 1 7 == 0 && x.nodes != 0 && decide (x.entry < x.nodes) && (x.maxDeg != 0 || x.entry == 0) &&
      dbits ws 40 0 192 == 0
  | 0x39 => idx && dbits ws 18 0 368 == 0
  | 0x3A | 0x3B =>
    let d := srchOf ws
    idx && dbits ws 19 3 5 == 0 && decide (1 ≤ d.k) && decide (d.k ≤ 1024) && decide (d.nterm ≤ 4) && dbits ws 20 4 12 == 0 &&
      dbits ws 23 5 3 == 0 && dbits ws 31 1 7 == 0 && d.queryVa % 8 == 0 && dbits ws 39 1 7 == 0 && d.resultVa % 16 == 0 &&
      dbits ws 41 5 19 == 0 && dbits ws 56 0 64 == 0 &&
      (if op = 0x3B then decide (1 ≤ d.beam) && decide (d.beam ≤ 4096) && decide (d.budget ≤ 65536) && d.first == 0 && d.count == 0
       else d.beam == 0 && dbits ws 44 0 32 == 0)
  | 0x3C => idx && dbits ws 19 0 40 == 0 && dbits ws 28 0 32 == 0 && dbits ws 32 0 64 % 8 == 0 && dbits ws 39 1 7 == 0 &&
      dbits ws 40 0 192 == 0
  | 0x3D => idx && dbits ws 18 0 48 == 0 && dbits ws 32 0 256 == 0
  | _ => false

/-- The current definition of an index. -/
def currentDef (s : State) (c i : Nat) : Option SrchDef := s.srch.defs.find? fun x => x.ctx = c && x.index = i && !x.retiring

/-- The definition a job has bound (R408). -/
def boundDef (s : State) (j : Job) : Option SrchDef :=
  match (j.bound.head?).join with
  | some n => s.srch.defs.find? fun x => x.ctx = ringCtx j.ring && x.index = dbits j.words 16 0 10 && x.num = n
  | none => none

/-- Nodes that a flat scan reads. -/
def scanCount (d : SrchD) (x : SrchDef) : Nat := if d.count = 0 then x.nodes - d.first else d.count

/-- Binding and the queue-time checks beyond R89 (R408, R410, R424). -/
def srchBind (s : State) (c : Nat) (ws : List Word) : Option Code × List (Option Nat) × List Nat :=
  let op := descOp ws
  let d := srchOf ws
  let cur := currentDef s c d.index
  let query := op = 0x3A ∨ op = 0x3B
  let nedge := dbits ws 18 0 7
  let bad := match cur with
    | none => false
    | some x =>
      if query then decide (d.maxDist > x.units * 64) || decide (d.first + d.count > x.nodes) || decide (d.first > x.nodes)
      else decide (nedge > x.maxDeg) || decide (dbits ws 24 0 32 ≥ x.nodes) ||
        (op == 0x3D && dbits ws 28 0 32 != 0 && dbits ws 24 0 32 != x.entry)
  let flat := match cur with | some x => decide (op = 0x3B) && x.maxDeg == 0 | none => false
  let rs : List Range := match cur with
    | none => []
    | some x => if query then [⟨d.queryVa, x.codeBytes + 24 * d.nterm, .rd⟩, ⟨d.resultVa, d.k * 16, .wr⟩]
        else if op = 0x3C then [⟨dbits ws 32 0 57, 8 + x.codeBytes + 4 * nedge, .rd⟩] else []
  let ts := rs.map fun r => translate s c r.va r.len r.right
  let rec_ : List Range := match cur with | some x => [⟨x.va, x.nodes * x.stride, .rd⟩] | none => []
  let code : Option Code :=
    if bad || flat then some .malformed
    else if cur.isNone then some .denied
    else if ts.any fun t => t = .code .cpair then some .cpair
    else if ts.any fun t => match t with | .code _ => true | _ => false then some .denied
    else if !decide query && !(match cur with | some x => x.writable | none => false) then some .denied
    else none
  (code, [cur.map (·.num)], (rangeSegs s c (rs ++ rec_)).eraseDups)

/-- The engine of a sector's search work (R432). -/
def srchServing (s : State) (n : Nat) : Nat := serving F.SRCH_Q_STATUS_STATE s n

/-- The engine that runs a job: that of record 0 of its definition (R27, R405). -/
def srchUnit (s : State) (j : Job) : Nat :=
  let va := if descOp j.words = 0x38 then dbits j.words 24 0 57
    else match boundDef s j with
      | some x => x.va
      | none => match currentDef s (ringCtx j.ring) (dbits j.words 16 0 10) with | some x => x.va | none => 0
  0x14 + srchServing s (vaHome s (ringCtx j.ring) va)

/-- A search job's row. -/
def srchRow (op : Nat) (d : Desc) (go : State → Job → State) (s : State) : Ans :=
  .next (engineRow op d srchUnit (fun s => s.flag F.SRCH_CTRL_EN) go s)

/-- Make a definition retiring and add a descriptor that waits for its release. -/
def retireDef (s : State) (x : SrchDef) (w : List (Nat × Nat)) : State :=
  let f := fun y : SrchDef => if y = x then { y with retiring := true, waiters := y.waiters ++ w } else y
  { s with srch := { s.srch with defs := s.srch.defs.map f } }

/-- SRCH_INDEX_SET (R406 to R408). -/
def execSrchIndexSet (d : Desc) (s : State) : Ans :=
  srchRow 0x38 d (fun s j =>
    let c := ringCtx j.ring
    let x := srchDefOf c j.words 0 false
    if s.srch.defs.length ≥ 16384 then finishJob s j .capacity
    else
      let n := tabGet 0 (c * 1024 + x.index) s.srch.last + 1
      let wr := (poolOf s c x.va (x.nodes * x.stride) .rdwr).isSome
      let s := match currentDef s c x.index with | some o => retireDef s o [] | none => s
      let new := srchDefOf c j.words n wr
      finishJob { s with srch := { s.srch with defs := s.srch.defs ++ [new], last := tabPut (c * 1024 + x.index) n s.srch.last } } j .ok) s

/-- SRCH_INDEX_CLEAR (R372, R408). -/
def execSrchIndexClear (d : Desc) (s : State) : Ans :=
  srchRow 0x39 d (fun s j =>
    if j.phase = 1 then s
    else
      match currentDef s (ringCtx j.ring) (dbits j.words 16 0 10) with
      | none => finishJob s j .denied
      | some x => putJob (retireDef s x [(j.ring, j.idx)]) { j with st := .waiting, phase := 1 }) s

/-! ### Distance, filter and order (R403, R411 to R413, R417) -/

/-- A record as the engine reads it. -/
structure SrchRec where
  live : Bool
  tomb : Bool
  deg : Nat
  gen : Nat
  attr : Nat
  code : Nat
  edges : List (Nat × Nat)
deriving DecidableEq, Repr

/-- Read a record's bytes; no more edges than MAX_DEG. -/
def recOf (x : SrchDef) (b : List Byte) : SrchRec :=
  let w := leVal (b.take 8)
  let deg := min (bits w 8 7) x.maxDeg
  let edge := fun e => leVal ((b.drop (16 + x.codeBytes + 8 * e)).take 8)
  { live := bits w 0 1 == 1, tomb := bits w 1 1 == 1, deg := bits w 8 7, gen := bits w 16 16, attr := leVal ((b.drop 8).take 8),
    code := leVal ((b.drop 16).take x.codeBytes),
    edges := (List.range deg).map fun e => (bits (edge e) 0 32, bits (edge e) 32 16) }

/-- Number of set bits of the lowest `n` bits. -/
def popCount (n v : Nat) : Nat := ((List.range n).filter fun i => bits v i 1 = 1).length

/-- The distance (R403). -/
def srchDist (x : SrchDef) (q : Nat) (r : SrchRec) : Nat := popCount (x.units * 64) (Nat.xor q r.code)

/-- A filter term (R411). -/
structure Term where
  range : Bool
  neg : Bool
  lo : Nat
  width : Nat
  a : Nat
  b : Nat
deriving DecidableEq, Repr

/-- Read a term; none when it breaks the layout. -/
def termOf (b : List Byte) : Option Term :=
  let w := leVal (b.take 8)
  let kind := bits w 0 2
  if (kind = 1 ∨ (kind = 2 ∧ bits w 8 6 + bits w 14 6 ≤ 63)) ∧ bits w 3 5 = 0 ∧ bits w 20 44 = 0 then
    some { range := kind == 2, neg := bits w 2 1 == 1, lo := bits w 8 6, width := bits w 14 6 + 1, a := leVal ((b.drop 8).take 8),
           b := leVal ((b.drop 16).take 8) }
  else none

/-- Does a term hold (R412)? -/
def Term.holds (t : Term) (attr : Nat) : Bool :=
  let v := if t.range then (let f := bits attr t.lo t.width; decide (t.a ≤ f) && decide (f ≤ t.b)) else Nat.land attr t.a == t.b
  v != t.neg

/-- A result: distance, node and ATTR. -/
structure Hit where
  dist : Nat
  node : Nat
  attr : Nat
deriving DecidableEq, Repr

/-- Order of R417 within one index. -/
def Hit.before (a b : Hit) : Bool := decide (a.dist < b.dist) || (a.dist == b.dist && decide (a.node < b.node))

/-- Put a hit into an ordered list, keeping at most `k`. -/
def putHit (k : Nat) (h : Hit) (l : List Hit) : List Hit :=
  ((l.takeWhile fun x => x.before h) ++ [h] ++ (l.dropWhile fun x => x.before h)).take k

/-! ### A query at work -/

/-- What a search has so far. -/
structure Found where
  hits : List Hit := []
  reads : Nat := 0
  stale : Nat := 0
  rejected : Nat := 0
  budgetHit : Bool := false
  skipped : Nat := 0
  poison : Bool := false
deriving DecidableEq, Repr

/-- Take a live record into the results (R413). -/
def takeRec (x : SrchDef) (d : SrchD) (q : Nat) (ts : List Term) (n : Nat) (r : SrchRec) (f : Found) : Found :=
  let pass := ts.all fun t => t.holds r.attr
  let dist := srchDist x q r
  let f := if pass then f else { f with rejected := f.rejected + 1 }
  if pass ∧ dist ≤ d.maxDist then { f with hits := putHit d.k ⟨dist, n, r.attr⟩ f.hits } else f

/-- DETAIL of a query (R421). -/
def foundDetail (f : Found) : Nat :=
  f.hits.length + f.budgetHit.toNat * 2 ^ 11 + (if f.skipped = 0 then 0 else 2 ^ 12) + min f.stale 131071 * 2 ^ 13

/-- The result array (R420). -/
def resultBytes (x : SrchDef) (k : Nat) (hits : List Hit) : List Byte :=
  let one := fun h : Hit => leBytes 2 h.dist ++ leBytes 2 x.shard ++ leBytes 4 h.node ++ leBytes 8 h.attr
  hits.flatMap one ++ (List.replicate (k - hits.length) (leBytes 2 0xFFFF ++ List.replicate 14 0)).flatten

/-- End a query: results, counters and code (R420 to R422). -/
def endQuery (s : State) (j : Job) (x : SrchDef) (d : SrchD) (v : View) (f : Found) : State :=
  let c := ringCtx j.ring
  let e := j.unit % 4
  let short := decide (f.hits.length < d.k)
  let s := s.bump (F.SRCH_Q_STATS_QUERIES e)
  if f.poison then finishJob (spoilVa s c d.resultVa (d.k * 16)) j .poison
  else
    let s := writeVa s c d.resultVa (resultBytes x d.k f.hits) (some v)
    let s := if short then s.bumpSat (F.SRCH_Q_STATS_SHORT e) else s
    finishJob s j (if short then .short else .ok) (foundDetail f)

/-- Read the query block (R409, R411): query code and terms; none when a term is malformed. -/
def queryOf (x : SrchDef) (d : SrchD) (b : List Byte) : Option (Nat × List Term) :=
  let ts := (List.range d.nterm).map fun i => termOf ((b.drop (x.codeBytes + 24 * i)).take 24)
  if ts.all Option.isSome then some (leVal (b.take x.codeBytes), ts.filterMap id) else none

/-- A query starts and its query block and result array are ready: the query code, terms and view; else the state as it then is. -/
def openQuery (s : State) (j : Job) (x : SrchDef) (d : SrchD) : Option (Job × Nat × List Term × View) × State :=
  let c := ringCtx j.ring
  let u := j.unit
  let n := x.codeBytes + 24 * d.nterm
  let qr : Range := ⟨d.queryVa, n, .rd⟩
  let (j, s) := startJob s j (u % 4) [qr]
  let v := jobView s j (u % 4)
  if acquiring s j (u % 4) then (none, s)
  else
    match prepare s j u [qr, ⟨d.resultVa, d.k * 16, .wr⟩] (some v) with
    | (false, s) => (none, s)
    | (true, s) =>
      if poisonVa s c d.queryVa n (some v) then (none, endQuery s j x d v { poison := true })
      else
        let (b, s) := readVa s c d.queryVa n .rd (some v)
        match queryOf x d b with
        | none => (none, finishJob s j .malformed)
        | some (q, ts) => (some (j, q, ts, v), s)

/-- Count what one engine's records gave (R434). -/
def countScan (s : State) (j : Job) (e bytes rejected skipped : Nat) : State :=
  if jobConf s j then s
  else
    ((s.bump (F.SRCH_Q_SCAN_BYTES e) bytes).bump (F.SRCH_Q_FILTER_REJECTED e) rejected).bumpSat (F.SRCH_Q_FILTER_POISON_SKIPPED e) skipped

/-- One record of a flat scan, at its home engine (R413, R414, R422, R434). -/
def scanRec (j : Job) (x : SrchDef) (d : SrchD) (q : Nat) (ts : List Term) (a : Found × State) (i : Nat) : Found × State :=
  let (f, s) := a
  let c := ringCtx j.ring
  let va := x.recVa i
  let e := srchServing s (vaHome s c va)
  let bad := poisonVa s c va x.stride
  let (b, s) := readVa s c va x.stride .rd none x.promote
  let r := recOf x b
  let g := if bad then (if d.skip then { f with skipped := f.skipped + 1 } else { f with poison := true })
    else if r.live then takeRec x d q ts i r f else f
  (g, countScan s j e x.stride (g.rejected - f.rejected) (g.skipped - f.skipped))

/-- SRCH_FLAT at work (R414). -/
def flatGo (s : State) (j : Job) : State :=
  let d := srchOf j.words
  match boundDef s j with
  | none => finishJob s j .denied
  | some x =>
    match openQuery s j x d with
    | (none, s) => s
    | (some (j, q, ts, v), s) =>
      let n := scanCount d x
      match prepare s j j.unit [⟨x.recVa d.first, n * x.stride, .rd⟩] with
      | (false, s) => s
      | (true, s) =>
        let (f, s) := (span d.first n).foldl (scanRec j x d q ts) (({} : Found), s)
        endQuery s j x d v f

/-- SRCH_FLAT. -/
def execSrchFlat (d : Desc) (s : State) : Ans := srchRow 0x3A d flatGo s

/-- A candidate of a graph search, with its edges and whether it has been expanded. -/
structure Cand where
  hit : Hit
  edges : List (Nat × Nat)
  done : Bool
deriving DecidableEq, Repr

/-- A graph search under way (R416); `stop`: a record cannot be read now, the job has been suspended or left waiting. -/
structure Walk where
  s : State
  f : Found := {}
  cands : List Cand := []
  visited : List Nat := []
  stop : Bool := false
  over_ : Bool := false
deriving DecidableEq, Repr

/-- Put a candidate into the list, keeping at most `k`. -/
def putCand (k : Nat) (h : Cand) (l : List Cand) : List Cand :=
  ((l.takeWhile fun x => x.hit.before h.hit) ++ [h] ++ (l.dropWhile fun x => x.hit.before h.hit)).take k

/-- Read one record for a graph search: ready, and its bytes unless it is poisoned. -/
def readRec (s : State) (j : Job) (x : SrchDef) (n : Nat) : Bool × Option SrchRec × State :=
  let c := ringCtx j.ring
  match prepare s j j.unit [⟨x.recVa n, x.stride, .rd⟩] with
  | (false, s) => (false, none, s)
  | (true, s) =>
    let bad := poisonVa s c (x.recVa n) x.stride
    let (b, s) := readVa s c (x.recVa n) x.stride
    (true, if bad then none else some (recOf x b), s)

/-- Visit a node (R416). -/
def visitNode (x : SrchDef) (d : SrchD) (q : Nat) (ts : List Term) (n : Nat) (r : SrchRec) (w : Walk) : Walk :=
  let h : Hit := ⟨srchDist x q r, n, r.attr⟩
  { w with f := takeRec x d q ts n r w.f, visited := n :: w.visited, cands := putCand d.beam ⟨h, r.edges, false⟩ w.cands }

/-- Follow one edge (R415, R416). -/
def walkEdge (j : Job) (x : SrchDef) (d : SrchD) (q : Nat) (ts : List Term) (w : Walk) (e : Nat × Nat) : Walk :=
  if w.stop || w.over_ || w.visited.contains e.1 then w
  else if w.f.reads = d.budget then { w with f := { w.f with budgetHit := true }, over_ := true }
  else if e.1 ≥ x.nodes then { w with f := { w.f with reads := w.f.reads + 1, stale := w.f.stale + 1 } }
  else
    match readRec w.s j x e.1 with
    | (false, _, s) => { w with s := s, stop := true }
    | (true, none, s) =>
      let f := { w.f with reads := w.f.reads + 1 }
      if d.skip then { w with s := s, f := { f with skipped := f.skipped + 1 } }
      else { w with s := s, f := { f with poison := true }, over_ := true }
    | (true, some r, s) =>
      let w := { w with s := s, f := { w.f with reads := w.f.reads + 1 } }
      if !r.live || r.gen ≠ e.2 then { w with f := { w.f with stale := w.f.stale + 1 } }
      else visitNode x d q ts e.1 r w

/-- Mark the first unexpanded candidate expanded. -/
def markFirst : List Cand → List Cand
  | [] => []
  | c :: t => if c.done then c :: markFirst t else { c with done := true } :: t

/-- Expand candidates until none is left (R416). -/
def walkLoop (j : Job) (x : SrchDef) (d : SrchD) (q : Nat) (ts : List Term) : Nat → Walk → Walk
  | 0, w => w
  | n + 1, w =>
    if w.stop || w.over_ then w
    else
      match w.cands.find? fun c => !c.done with
      | none => w
      | some c => walkLoop j x d q ts n (c.edges.foldl (walkEdge j x d q ts) { w with cands := markFirst w.cands })

/-- SRCH_GRAPH at work (R415 to R418). -/
def graphGo (s : State) (j : Job) : State :=
  let d := srchOf j.words
  match boundDef s j with
  | none => finishJob s j .denied
  | some x =>
    match openQuery s j x d with
    | (none, s) => s
    | (some (j, q, ts, v), s) =>
      match readRec s j x x.entry with
      | (false, _, s) => s
      | (true, r, s) =>
        let w : Walk := { s := s, f := { reads := 1 } }
        let w := match r with
          | none => if d.skip then { w with f := { w.f with skipped := 1 } } else { w with f := { w.f with poison := true } }
          | some r => if r.live then walkLoop j x d q ts 65537 (visitNode x d q ts x.entry r w) else w
        if w.stop then w.s
        else
          let e := j.unit % 4
          let s := countScan w.s j e 0 w.f.rejected w.f.skipped
          let s := if jobConf s j then s else
            let s := (s.bump (F.SRCH_Q_GRAPH_RECORDS e) w.f.reads).bump (F.SRCH_Q_GRAPH_STALE e) w.f.stale
            if w.f.budgetHit then s.bumpSat (F.SRCH_Q_FILTER_BUDGET_HITS e) else s
          endQuery s j x d v w.f

/-- SRCH_GRAPH. -/
def execSrchGraph (d : Desc) (s : State) : Ans := srchRow 0x3B d graphGo s

/-! ### Insertion and deletion (R424 to R430) -/

/-- The first word of a record. -/
def recHead (live tomb : Bool) (deg gen : Nat) : Nat := live.toNat + tomb.toNat * 2 + deg % 128 * 256 + gen % 65536 * 65536

/-- An edge's bytes. -/
def edgeBytes (n g : Nat) : List Byte := leBytes 4 n ++ leBytes 4 (g % 65536)

/-- Read the record of a node whose memory is ready; none when it is poisoned. -/
def peekRec (s : State) (c : Nat) (x : SrchDef) (n : Nat) : Option SrchRec × State :=
  let bad := poisonVa s c (x.recVa n) x.stride
  let (b, s) := readVa s c (x.recVa n) x.stride
  (if bad then none else some (recOf x b), s)

/-- Is an edge stale now (R415)? -/
def edgeStale (s : State) (c : Nat) (x : SrchDef) (e : Nat × Nat) : Bool :=
  decide (e.1 ≥ x.nodes) || (match (peekRec s c x e.1).1 with | some r => !r.live || r.gen != e.2 | none => false)

/-- Add a back-link to a target (R426): whether one was made. -/
def backLink (s : State) (c : Nat) (x : SrchDef) (t node gen : Nat) : Bool × State :=
  match peekRec s c x t with
  | (none, s) => (false, s)
  | (some r, s) =>
    let put := fun (s : State) (i : Nat) => writeVa s c (x.recVa t + 16 + x.codeBytes + 8 * i) (edgeBytes node gen)
    if r.deg < x.maxDeg then
      (true, writeVa (put s r.deg) c (x.recVa t) (leBytes 8 (recHead r.live r.tomb (r.deg + 1) r.gen)))
    else
      match (r.edges.zip (List.range r.edges.length)).find? fun e => edgeStale s c x e.1 with
      | some e => (true, put s e.2)
      | none => (false, s)

/-- The records that an insertion names: the nodes of its neighbour list that lie in the index (R425). -/
def namedNodes (x : SrchDef) (nedge : Nat) (b : List Byte) : List Nat :=
  (List.range nedge).map fun i => leVal ((b.drop (8 + x.codeBytes + 4 * i)).take 4)

/-- The nodes that the edges of full targets name: a back-link may take the place of a stale one (R426). -/
def fullEdges (s : State) (c : Nat) (x : SrchDef) (known : List Nat) : List Nat :=
  (known.flatMap fun n => match (peekRec s c x n).1 with
    | some r => if r.deg < x.maxDeg then [] else r.edges.filterMap fun e => if e.1 < x.nodes then some e.1 else none
    | none => []).eraseDups

/-- An insertion whose records are ready: poison ends it, a live node is refused; else the record is written with its live neighbours' edges, and with
BACK the neighbours take links to it (R425 to R427). -/
def insertLand (s : State) (j : Job) (x : SrchDef) (srcBad : Bool) (b : List Byte) (known : List Nat) : State :=
  let c := ringCtx j.ring
  let nedge := dbits j.words 18 0 7
  let back := dbits j.words 18 7 1 = 1
  let node := dbits j.words 24 0 32
  let (me, s) := peekRec s c x node
  let heads := known.map fun n => (n, (peekRec s c x n).1)
  if srcBad || me.isNone || heads.any (fun h => h.2.isNone) then finishJob (spoilVa s c (x.recVa node) x.stride) j .poison
  else
    match me with
    | none => s
    | some r =>
      if r.live then finishJob s j .denied
      else
        let kept := (namedNodes x nedge b).filterMap fun n => match heads.find? fun h => h.1 = n with
          | some (_, some t) => if t.live then some (n, t.gen) else none
          | _ => none
        let body := leBytes 8 (recHead true false kept.length r.gen) ++ b.take (8 + x.codeBytes) ++
          kept.flatMap fun e => edgeBytes e.1 e.2
        let s := writeVa s c (x.recVa node) (padTo x.stride body)
        let s := s.bump (F.SRCH_Q_UPDATE_INSERTS (srchServing s (vaHome s c (x.recVa node))))
        let (made, s) := if back then kept.foldl (fun (a : Nat × State) e =>
            let (y, s) := backLink a.2 c x e.1 node r.gen
            (a.1 + y.toNat, s)) (0, s) else (0, s)
        finishJob s j .ok ((nedge - kept.length) + made * 128)

/-- SRCH_INSERT at work (R425 to R427). -/
def insertGo (s : State) (j : Job) : State :=
  let c := ringCtx j.ring
  let w := j.words
  match boundDef s j with
  | none => finishJob s j .denied
  | some x =>
    let u := j.unit
    let nedge := dbits w 18 0 7
    let back := dbits w 18 7 1 = 1
    let sva := dbits w 32 0 57
    let sr : Range := ⟨sva, 8 + x.codeBytes + 4 * nedge, .rd⟩
    let (j, s) := startJob s j (u % 4) [sr]
    let v := jobView s j (u % 4)
    if acquiring s j (u % 4) then s
    else
      match prepare s j u [sr] (some v) with
      | (false, s) => s
      | (true, s) =>
        let srcBad := poisonVa s c sva sr.len (some v)
        let (b, s) := readVa s c sva sr.len .rd (some v)
        let known := if srcBad then [] else (namedNodes x nedge b).filter (· < x.nodes)
        let rr := fun (n : Nat) (r : Right) => (⟨x.recVa n, x.stride, r⟩ : Range)
        match prepare s j u (rr (dbits w 24 0 32) .rdwr :: known.map fun n => rr n (if back then .rdwr else .rd)) with
        | (false, s) => s
        | (true, s) =>
          match prepare s j u ((if back then fullEdges s c x known else []).map fun n => rr n .rd) with
          | (false, s) => s
          | (true, s) => insertLand s j x srcBad b known

/-- SRCH_INSERT. -/
def execSrchInsert (d : Desc) (s : State) : Ans := srchRow 0x3C d insertGo s

/-- SRCH_DELETE at work (R428, R429). -/
def deleteGo (s : State) (j : Job) : State :=
  let c := ringCtx j.ring
  let w := j.words
  match boundDef s j with
  | none => finishJob s j .denied
  | some x =>
    let node := dbits w 24 0 32
    let ne := dbits w 28 0 32
    let isEntry := node = x.entry
    let other := isEntry ∧ ne < x.nodes ∧ ne ≠ node
    let rs : List Range := ⟨x.recVa node, x.stride, .rdwr⟩ :: (if other then [⟨x.recVa ne, x.stride, .rd⟩] else [])
    let (j, s) := startJob s j (j.unit % 4) []
    match prepare s j j.unit rs with
    | (false, s) => s
    | (true, s) =>
      let (me, s) := peekRec s c x node
      let (alt, s) := if other then peekRec s c x ne else (none, s)
      match me with
      | none => finishJob s j .poison
      | some r =>
        if isEntry ∧ !(decide other && (match alt with | some a => a.live | none => false)) then
          finishJob s j (if decide other && alt.isNone then .poison else .denied)
        else if !r.live then finishJob s j .ok 1
        else
          let s := writeVa s c (x.recVa node) (leBytes 8 (recHead false true r.deg (r.gen + 1)))
          let s := s.bump (F.SRCH_Q_UPDATE_DELETES (srchServing s (vaHome s c (x.recVa node))))
          let f := fun y : SrchDef => if y = x ∧ isEntry then { y with entry := ne } else y
          finishJob { s with srch := { s.srch with defs := s.srch.defs.map f } } j .ok

/-- SRCH_DELETE. -/
def execSrchDelete (d : Desc) (s : State) : Ans := srchRow 0x3D d deleteGo s

end Sys2Proof.Machine
end

