-- ==== Sys2Proof/Machine/Descriptors.lean ====
section
/-! DEFINITION. The return of descriptor reads (R226 to R237) and the replies to the device's own requests (R143, R548, R690). -/

namespace Sys2Proof.Machine

open Sys2Proof

/-! ### The families at queue time (R89, R227) -/

/-- Format: the opcode is assigned and its family's fields are as the family states (order 1 of R89). -/
def familyFmt (ws : List Word) : Bool :=
  let op := descOp ws
  if op = 0 then true
  else if op / 16 = 1 then copyFmt true ws
  else if op / 8 = 4 then launchFmt ws
  else if op / 8 = 6 then (if op < 0x32 then embTableFmt ws else embFmt ws)
  else if op / 8 = 7 then srchFmt ws
  else if op / 8 = 8 then decide (op < 0x44) && tierFmt ws
  else if op / 8 = 9 then xltFmt ws
  else if op / 16 = 5 then blkFmt ws
  else if op / 8 = 12 then cmpFmt ws
  else if op / 8 = 13 then secFmt ws
  else if op / 8 = 14 then ringFmt ws
  else false

/-- Does the family accept descriptors from the context (R98, R215, R538, R597)? -/
def familyAccepts (s : State) (c : Nat) (ws : List Word) : Bool :=
  let op := descOp ws
  let priv := (tabGet {} c s.xlt.ctxs).priv
  if op / 8 = 9 ∨ op / 8 = 14 then priv
  else if op / 8 = 12 then cmpAccepts s c ws
  else if op / 8 = 13 then secAccepts s c ws
  else true

/-- The address ranges of a descriptor that are known without what its family binds. -/
def familyRanges (ws : List Word) : List Range :=
  let op := descOp ws
  let d := dbits ws
  if op / 16 = 1 then copyRanges (copyOf ws) 0
  else if op = 0x20 then [⟨d 16 0 64, d 24 0 32, .ex⟩, ⟨d 32 0 64, if d 32 0 64 = 0 then 0 else 512, .rd⟩]
  else if op = 0x30 then embTableRanges ws
  else if op = 0x38 then let x := srchDefOf 0 ws 0 false; [⟨x.va, x.nodes * x.stride, .rd⟩]
  else if op = 0x4A ∨ op = 0x70 then [⟨d 24 0 64, 64, .rd⟩]
  else if op = 0x50 then spaceRanges ws
  else if op = 0x56 then [⟨d 24 0 57, 64, .wr⟩, ⟨d 48 0 57, d 56 0 32, .wr⟩]
  else if op = 0x58 then [⟨d 48 0 57, d 56 0 32, .wr⟩]
  else if op / 8 = 12 then cmpRanges ws
  else if op / 8 = 13 then secRanges ws
  else []

/-- What a family binds or checks beyond R89 when the descriptor is queued (R369, R376, R408, R410, R443). -/
def familyBind (s : State) (c : Nat) (ws : List Word) : Option Code × List (Option Nat) × List Nat :=
  let op := descOp ws
  if op / 8 = 6 ∧ 0x32 ≤ op then embBind s c ws
  else if op / 8 = 7 ∧ 0x3A ≤ op then srchBind s c ws
  else if op / 16 = 5 then ((blkBind s c ws).1, (blkBind s c ws).2, [])
  else (none, [], [])

/-- A descriptor whose data has arrived is checked, and queued or completed at once (R87, R89, R228). -/
def queueDesc (s : State) (j : Job) : State :=
  let c := descCtx j.words
  let fail := fun (s : State) (e : Code) =>
    let s := if e = .cpair then restoreCtx s c 0x90 else s
    finishJob (if e = .denied then s.bumpSat F.XLT_DENIED_QUEUE else s) j e
  match queueCheck s j.ring j.words (familyFmt j.words) (familyAccepts s c j.words) (familyRanges j.words) with
  | some e => fail s e
  | none =>
    match familyBind s c j.words with
    | (some e, _, _) => fail s e
    | (none, bound, segs) =>
      let own := rangeSegs s c (familyRanges j.words)
      let s := (own.map (· % 16)).foldl (fun s k => segLook s 0x90 c k) s
      workArrives (putJob s { j with st := .queued, bound := bound, segs := (own ++ segs).eraseDups }) (descOp j.words)

/-! ### Chains (R235 to R237) -/

/-- The fetched members with CHAIN set in a row from index `i`, going up or down: at most 256. -/
def chainLinks (s : State) (g : Nat) (up : Bool) : Nat → Nat → List Job
  | 0, _ => []
  | fuel + 1, i =>
    match findJob s g i with
    | some j => if j.st != .reading && descChain j.words then
        j :: chainLinks s g up fuel (if up then (i + 1) % 65536 else (i + 65535) % 65536) else []
    | none => []

/-- With the 256th member fetched and CHAIN set, every member completes with MALFORMED (R237). -/
def chainTooLong (s : State) (g i : Nat) : State :=
  let ms := (chainLinks s g false 256 i).reverse ++ chainLinks s g true 256 ((i + 1) % 65536)
  if ms.length < 256 then s
  else
    let s := ms.foldl (fun s m => match findJob s m.ring m.idx with
      | some k => if k.st = .queued then putJob s { k with st := .finished, code := .malformed } else s
      | none => s) s
    match ms.getLast? with
    | some m => skipChain s g .malformed false 256 ((m.idx + 1) % 65536)
    | none => s

/-! ### Descriptor reads (R229 to R232) -/

/-- A descriptor read that no longer fetches anything leaves the outbound tag (R143, R231). -/
def freeFetch (s : State) (g i : Nat) : State :=
  let covers := fun o : OutReq => o.what = "FETCH" && o.ring = g && decide ((i + 65536 - o.idx) % 65536 < o.count)
  let open_ := fun o : OutReq => (List.range o.count).any fun k => match findJob s g ((o.idx + k) % 65536) with
    | some j => j.st == .reading
    | none => false
  { s with fab := { s.fab with outReqs := s.fab.outReqs.filter fun o => !(covers o && !open_ o) } }

/-- CI counts the descriptors fetched in a row: up to the first whose read is under way or has failed (R212, R232). -/
def moveCi (s : State) (g : Nat) : State :=
  let r := s.ring g
  let isOpen := fun i : Nat => r.stuckAt == some i ||
    (match findJob s g i with | some j => j.st == .reading | none => false)
  let n := (r.fetch + 65536 - r.ci) % 65536
  let done := ((List.range n).takeWhile fun k => !isOpen ((r.ci + k) % 65536)).length
  s.putRing g { r with ci := (r.ci + done) % 65536 }

/-- Is index `a` before index `b`, counting from CI? -/
def beforeFrom (ci a b : Nat) : Bool := decide ((a + 65536 - ci) % 65536 < (b + 65536 - ci) % 65536)

/-- The first of the indices whose reads failed. -/
def firstFailed (r : Ring) (i : Nat) : Nat :=
  match r.stuckAt with
  | some x => if beforeFrom r.ci x i then x else i
  | none => i

/-- A descriptor read fails (R232): no record, its reservation is released, and the ring enters ERROR with a RING_ERROR event. -/
def readFails (s : State) (g i : Nat) : State :=
  let r := s.ring g
  let cg := g / 16 * 16 + r.cq
  let c := s.ring cg
  let s := s.putRing cg { c with reserved := c.reserved - 1 }
  let s := { s with rings := { s.rings with jobs := s.rings.jobs.filter fun j => !(j.ring = g && j.idx = i) } }
  let s := freeFetch s g i
  let r := s.ring g
  let s := s.putRing g { r with stuckAt := some (firstFailed r i) }
  let r := s.ring g
  if r.st = .enabled then postRas (s.putRing g { r with st := .error }) 0x27 0x90 g
  else checkDrained s g

/-- A descriptor's data has arrived whole. -/
def readArrives (s : State) (j : Job) (ws : List Word) : State :=
  let g := j.ring
  let j := { j with words := ws }
  let s := moveCi (freeFetch (putJob s { j with st := .queued }) g j.idx) g
  let r := s.ring g
  match tabGet? j.idx r.chainFail with
  | some (c, sk) =>
    let s := s.putRing g { r with chainFail := tabDel j.idx r.chainFail }
    let s := putJob s { j with st := .finished, code := c, skipped := sk }
    if descChain ws then skipChain s g c sk 256 ((j.idx + 1) % 65536) else s
  | none =>
    if r.st = .draining then finishJob s j .abortDisable
    else chainTooLong (queueDesc s { j with st := .queued }) g j.idx

/-- DESCRIPTOR_READ_COMPLETE (R228, R232, R235 to R237): with no words, the read failed. -/
def execDescriptorReadComplete (g : Fin 1048576) (i : Fin 65536) (words : Option (List Word)) (t : Nat) (s : State) : Ans :=
  let s := s.upto t
  .next <|
    match findJob s g.val i.val with
    | none => s
    | some j =>
      if j.st ≠ .reading ∨ halted s then s
      else
        match words with
        | some ws => if ws.length = 8 then readArrives s j ws else readFails s g.val i.val
        | none => readFails s g.val i.val

/-- COMPLETION_TIMEOUT (R690): a PATH 6 descriptor read fails. -/
def execCompletionTimeout (g : Fin 1048576) (i : Fin 65536) (t : Nat) (s : State) : Ans :=
  let s := s.upto t
  .next <|
    match findJob s g.val i.val with
    | none => s
    | some j => if j.st = .reading ∧ (s.ring g.val).path = 6 then readFails s g.val i.val else s

/-! ### Replies to the device's own requests (R143, R153, R548) -/

/-- The descriptor whose request was answered with a code other than OK carries that code, when it has none of its own. -/
def outFails (s : State) (o : OutReq) (c : Code) : State :=
  if o.what = "FETCH" then
    (List.range o.count).foldl (fun s k => match findJob s o.ring ((o.idx + k) % 65536) with
      | some j => if j.st = .reading then readFails s o.ring j.idx else s
      | none => s) s
  else
    match o.job with
    | some x => (match findJob s x.1 x.2 with
        | some j => if j.st = .finished then (if j.code = .ok then putJob s { j with code := c } else s) else finishJob s j c
        | none => s)
    | none => s

/-- REPLY (R143, R548): the outbound tag is free and the request complete; REMAP brings the remote node's epoch, and the request is sent
once more. A descriptor read stays open until its data has been taken in. -/
def execReply (p : Fin 6) (tag : Fin 8192) (code : Code) (detail : BitVec 32) (t : Nat) (s : State) : Ans :=
  let s := s.upto t
  .next <|
    match s.fab.outReqs.find? fun o => o.port = p.val && o.tag = tag.val with
    | none => s
    | some o =>
      let gone := { s with fab := { s.fab with outReqs := s.fab.outReqs.filter fun x => !(x.port = p.val && x.tag = tag.val) } }
      if code = .remap then
        let learn := fun s : State => { s with comp := { s.comp with remote := tabPut o.node detail.toNat s.comp.remote } }
        if o.resent then wake (outFails (learn gone) o .remap) else sendOut (learn gone) p.val { o with resent := true }
      else if code = .ok then (if o.what = "FETCH" then s else wake gone)
      else wake (outFails gone o code)

end Sys2Proof.Machine
end

