-- ==== Sys2Proof/Machine/Readout.lean ====
section
/-! DEFINITION. What a register reads (R6 to R8, R701): stored fields as they stand, and the fields that report other state of the device
computed from that state. A counter that the model does not follow reads a free value. -/

namespace Sys2Proof.Machine

open Sys2Proof

/-- The value of a field that reports other state: the fields with the functions that give their values. -/
abbrev Derived := List (Nat × (Unit → Nat))

/-- One field. -/
def one (f : Fld) (v : Unit → Nat) : Derived := [(f.key, v)]

/-- One field of each of `n` instances. -/
def many (n : Nat) (f : Nat → Fld) (v : Nat → Nat) : Derived := (List.range n).map fun k => ((f k).key, fun _ => v k)

/-- Bits of the numbers below `n` for which a condition holds. -/
def maskOf (n : Nat) (p : Nat → Bool) : Nat := (((List.range n).filter p).map fun k => 2 ^ k).sum

/-- A saturating field of `w` bits. -/
def satTo (w v : Nat) : Nat := min v (2 ^ w - 1)

/-- A counter that the model does not follow. -/
def freeCount (s : State) (f : Fld) : Nat := Config.counter f.off f.lo s.free % 2 ^ f.wid

/-! ### The store (spec/02) -/

def storeReads (s : State) : Derived :=
  one F.TIER_POOL_STATUS_ALLOCATED (fun _ => s.store.pages.length) ++
  one F.TIER_POOL_STATUS_LIMIT (fun _ => min 33554432 ((List.range 4).map fun n => sectorLimit s n).sum) ++
  many 4 F.TIER_S_NEAR_STATUS_FREE_FRAMES (freeNear s) ++
  many 4 F.TIER_S_NEAR_STATUS_PINNED (pinned s) ++
  many 4 F.TIER_S_FAR_STATUS_FREE_FRAMES (freeFar s) ++
  many 4 F.TIER_S_FAR_STATUS_JOINED (fun n => maskOf 8 fun c => channelState s (8 * n + c) == 3 || channelState s (8 * n + c) == 4) ++
  many 4 F.TIER_S_HAZE_CHANNELS (fun n => maskOf 8 fun c => channelState s (8 * n + c) == 4) ++
  many 4 F.TIER_S_HAZE_STACKS (fun n => maskOf 2 fun k => s.get (F.HBM_H_STATUS_STATE (2 * n + k)) == 4) ++
  many 32 F.DDR_D_STATUS_GRANULES (fun d => (channelGranules s d).length) ++
  many 32 F.DDR_D_STATUS_SPEED (fun d => if s.clk.slowMem && channelOn s d then 44 else s.get (F.DDR_D_STATUS_SPEED d))

/-! ### Translation and the fault queue (spec/03) -/

/-- Contexts with a task that met the full queue (R115). -/
def stalledCtxs (s : State) : List Nat :=
  (s.xlt.late.filterMap fun l => match l with
    | .record _ => none
    | .stalled _ w => some w.ctx
    | .noRoom _ _ w => some w.ctx).eraseDups

def xltReads (s : State) : Derived :=
  one F.XLT_FQ_STATUS_RECORDS (fun _ => s.xlt.queue.length) ++
  one F.XLT_FQ_STATUS_WAITERS (fun _ => waiterCount s) ++
  one F.XLT_FQ_STATUS_FULL (fun _ => (decide (Config.fqEntries ≤ s.xlt.queue.length)).toNat) ++
  one F.XLT_FQ_STATUS_STALLED (fun _ => satTo 16 (stalledCtxs s).length) ++
  one F.XLT_FQ_OVERFLOW_HELD (fun _ => overflowHeld s) ++
  one F.XLT_SQUALL_STATS_THROTTLED (fun _ => satTo 16 (s.xlt.ctxs.filter fun e => throttled s e.1).length) ++
  one F.XLT_INVAL_STATUS_BUSY (fun _ => (s.xlt.invals.any fun v => v.counted).toNat) ++
  one F.XLT_SWAP_STATUS_USED (fun _ => (slotsUsed s).length) ++
  many 6 F.XLT_K_TLB_ENTRIES (fun u => (tabGet [] u s.xlt.tlb).length) ++
  many 4 F.XLT_S_TLB_ENTRIES (fun n => (tabGet [] (6 + n) s.xlt.tlb).length)

/-! ### Requests, the Anvil and the directory (spec/04, spec/05) -/

/-- Reserved credits of a class in use on a port (R186). -/
def rsvUsed (s : State) (p c : Nat) : Nat := (s.dir.rsvs.filter fun r => r.port = p && r.cls = c).length

/-- Entries of a slice. -/
def sliceEnts (s : State) (n : Nat) : Tab DirE := s.dir.ents.filter fun e => lineHome s e.1 = n

/-- The sources that a port's ordering slice tracks: those with requests in flight or a failed write (R137, R140). -/
def sourcesAt (s : State) (p : Nat) : List Nat :=
  ((s.fab.flights.filter fun f => f.req.port.val = p).map (·.req.ctx.val) ++ (s.fab.failed.filter fun f => f.port = p).map (·.ctx)).eraseDups

def fabricReads (s : State) : Derived :=
  one F.ANV_STATUS_ENTRIES_OPEN (fun _ => s.fab.entries.length) ++
  one F.ANV_STATUS_HOT_LINES (fun _ => (s.fab.hot.filter fun e => isHot s e.1).length) ++
  many 6 F.ANV_K_OUTSTANDING_IN_USE (fun p => (s.fab.flights.filter fun f => f.req.port.val = p && f.req.cls.val ≥ 2).length) ++
  many 6 F.ANV_K_OUTSTANDING_INIT_IN_USE (fun p => (s.fab.outReqs.filter fun o => o.port = p).length) ++
  many 6 F.ANV_K_ORDER_SOURCES (fun p => min 2048 (sourcesAt s p).length) ++
  many 6 F.ANV_K_ORDER_FULL (fun p => (decide (2048 ≤ (sourcesAt s p).length)).toNat) ++
  many 6 F.ANV_K_ORDER_FLAGS_HELD (fun p => (s.fab.flights.filter fun f => f.req.port.val = p && f.stage == .held).length) ++
  many 6 F.ANV_K_ORDER_STALLS (fun p => freeCount s (F.ANV_K_ORDER_STALLS p)) ++
  ([F.DIR_RSV_C2_K0, F.DIR_RSV_C2_K1, F.DIR_RSV_C2_K2, F.DIR_RSV_C2_K3, F.DIR_RSV_C2_K4, F.DIR_RSV_C2_K5].zipIdx.map
    fun x => (x.1.key, fun _ => rsvUsed s x.2 2)) ++
  ([F.DIR_RSV_C3_K0, F.DIR_RSV_C3_K1, F.DIR_RSV_C3_K2, F.DIR_RSV_C3_K3, F.DIR_RSV_C3_K4, F.DIR_RSV_C3_K5].zipIdx.map
    fun x => (x.1.key, fun _ => rsvUsed s x.2 3)) ++
  many 4 F.DIR_S_STATUS_ENTRIES (fun n => (sliceEnts s n).length) ++
  many 4 F.DIR_S_STATUS_MASK_ENTRIES (fun n => ((sliceEnts s n).filter fun e => e.2.st == .mask).length) ++
  many 4 F.DIR_S_STATUS_LOST (fun n => (lostOf s n).length) ++
  many 4 F.DIR_S_BUSY_TXN (fun n => (s.dir.txns.filter fun t => lineHome s t.line = n).length) ++
  many 4 F.DIR_S_BUSY_PENDING (pendingOf s) ++
  many 4 F.DIR_S_BUSY_PEND_FULL (fun n => (decide (1024 ≤ pendingOf s n)).toNat) ++
  many 4 F.DIR_S_TIMEOUTS_UNRESP (fun n => (s.dir.unresp.filter fun x => x.1 = n).length)

/-! ### Rings, the plane and the copy engines (spec/06 to spec/08) -/

/-- Rings in a state. -/
def ringsIn (s : State) (st : RingSt) : Nat := (s.rings.qcs.filter fun e => e.2.st = st).length

/-- STATE of an engine: its stored HAZY or FAILED, else BUSY with a job under way. -/
def busyState (s : State) (f : Fld) (e : Nat) : Nat :=
  if 2 ≤ s.get f then s.get f
  else (s.rings.jobs.any fun j => decide (j.unit = 0x08 + e) && j.phase != 0 && j.st != .finished).toNat

/-- Kernel copies an engine holds (R313). -/
def copiesHeld (s : State) (e : Nat) : Nat := (s.plane.kcopies.filter fun x => x.engine = e && x.st != .done).length

/-- STATE of a copy engine. -/
def copyState (s : State) (e : Nat) : Nat :=
  let f := F.CPY_C_STATUS_STATE e
  if 2 ≤ s.get f then s.get f else (copiesHeld s e != 0 || !(rqOf s e).isEmpty).toNat

/-- STATE of the sequencer. -/
def seqState (s : State) : Nat :=
  match activeKern s with
  | none => 0
  | some k => match k.st with
    | .queued | .starting => 1
    | .issuing => if k.sync.isEmpty then 2 else 3
    | .out _ => 4
    | .ending => 5

def planeReads (s : State) : Derived :=
  one F.RING_STATUS_ENABLED (fun _ => ringsIn s .enabled) ++
  one F.RING_STATUS_DRAINING (fun _ => ringsIn s .draining) ++
  one F.RING_STATUS_ERROR (fun _ => ringsIn s .error) ++
  one F.TP_STATUS_TILES_ON (fun _ => ((List.range 64).filter fun g => s.get (F.TP_T_STATUS_STATE g) = 2).length) ++
  one F.TP_STATUS_TILES_RET (fun _ => ((List.range 64).filter fun g => s.get (F.TP_T_STATUS_STATE g) = 1).length) ++
  one F.TP_STATUS_TILES_OFF (fun _ => ((List.range 64).filter fun g => s.get (F.TP_T_STATUS_STATE g) = 0).length) ++
  one F.TP_STATUS_RUNNING (fun _ => (seqState s == 2).toNat) ++
  one F.TP_MAINT_CMD_BUSY (fun _ => (maintBusy s).toNat) ++
  many 4 F.TP_S_CACHE_STATS_HITS (fun n => freeCount s (F.TP_S_CACHE_STATS_HITS n)) ++
  many 4 F.TP_S_CACHE_STATS_MISSES (fun n => freeCount s (F.TP_S_CACHE_STATS_MISSES n)) ++
  many 4 F.TP_S_GUEST_LINES (fun n => (guestLines s n).length) ++
  many 4 F.TP_S_GUEST_DIRTY (fun n => ((guestLines s n).filter fun l => match guest? s n l with
    | some g => g.dirty != 0
    | none => false).length) ++
  many 4 F.TP_S_GUEST_REGIONS (fun n => (tabGet [] n s.cache.track).length) ++
  one F.TP_SEQ_STATUS_STATE (fun _ => seqState s) ++
  one F.TP_SEQ_STATUS_CONTEXT (fun _ => match activeKern s with | some k => k.ctx | none => 0) ++
  one F.TP_SEQ_STATUS_BUNDLE (fun _ => match activeKern s with | some k => k.bundle | none => 0) ++
  one F.TP_SEQ_STATUS_SUSPENDED (fun _ => (s.plane.kerns.filter fun k => match k.st with | .out _ => true | _ => false).length) ++
  one F.TP_SEQ_QUEUE_QUEUED (fun _ => (s.plane.kerns.filter fun k => k.st == .queued).length) ++
  many 8 F.CPY_C_STATUS_STATE (copyState s) ++
  many 8 F.CPY_C_STATUS_KQ (copiesHeld s) ++
  many 8 F.CPY_C_STATUS_RQ (fun e => (rqOf s e).length) ++
  many 8 F.CPY_C_STATUS_INFLIGHT (fun e => freeCount s (F.CPY_C_STATUS_INFLIGHT e)) ++
  many 8 F.CPY_C_STALLS_TAG_WAITS (fun e => freeCount s (F.CPY_C_STALLS_TAG_WAITS e))

/-! ### The engines (spec/09 to spec/11) -/

def engineReads (s : State) : Derived :=
  one F.EMB_TABLES_VERSIONS (fun _ => s.emb.vers.length) ++
  one F.EMB_TABLES_RETIRING (fun _ => (s.emb.vers.filter fun v => v.retiring).length) ++
  one F.EMB_TABLES_HOOKS (fun _ => (s.emb.hooks.filter fun h => h.live).length) ++
  many 4 F.EMB_E_STATUS_STATE (fun e => busyState s (F.EMB_E_STATUS_STATE e) (8 + e)) ++
  many 4 F.EMB_E_STATUS_INFLIGHT (fun e => freeCount s (F.EMB_E_STATUS_INFLIGHT e)) ++
  many 4 F.EMB_E_STATUS_BUF (fun e => freeCount s (F.EMB_E_STATUS_BUF e)) ++
  many 4 F.EMB_E_STATUS_PASSES (fun e => freeCount s (F.EMB_E_STATUS_PASSES e)) ++
  many 4 F.EMB_E_STATUS_SUBSTITUTE (fun e => (substitutes F.EMB_E_STATUS_STATE s e).toNat) ++
  many 4 F.EMB_E_COMBINE_PINNED (fun e => (s.emb.pins.filter fun p => p.sector = e).length) ++
  many 4 F.EMB_E_LOAD_RELOCATED (fun e => (s.emb.relocs.filter fun r => r.sector = e).length) ++
  one F.SRCH_INDEXES_DEFS (fun _ => s.srch.defs.length) ++
  one F.SRCH_INDEXES_RETIRING (fun _ => (s.srch.defs.filter fun x => x.retiring).length) ++
  many 4 F.SRCH_Q_STATUS_STATE (fun e => busyState s (F.SRCH_Q_STATUS_STATE e) (12 + e)) ++
  many 4 F.SRCH_Q_STATUS_INFLIGHT (fun e => freeCount s (F.SRCH_Q_STATUS_INFLIGHT e)) ++
  many 4 F.SRCH_Q_STATUS_SUBSTITUTE (fun e => (substitutes F.SRCH_Q_STATUS_STATE s e).toNat) ++
  one F.BLK_STATUS_SPACES (fun _ => s.blk.spaces.length) ++
  one F.BLK_STATUS_LEDGER (fun _ => s.blk.ledger.length) ++
  one F.BLK_STATUS_SENDING (fun _ => satTo 16 (s.blk.ledger.filter fun l => l.st == .sending).length) ++
  one F.BLK_STATUS_ACKED (fun _ => satTo 16 (s.blk.ledger.filter fun l => l.st == .acked).length) ++
  one F.BLK_LOG_STATUS_USED_MIB (fun _ => ceilDiv (logUsed s) 1048576) ++
  one F.BLK_LOG_STATUS_OPEN (fun _ => satTo 24 (s.log.recs.filter fun r => r.live).length) ++
  one F.BLK_LOG_STATUS_WAITING (fun _ => (!s.log.waits.isEmpty).toNat) ++
  many 4 F.BLK_B_STATUS_STATE (fun e => busyState s (F.BLK_B_STATUS_STATE e) (16 + e)) ++
  many 4 F.BLK_B_STATUS_INFLIGHT (fun e => freeCount s (F.BLK_B_STATUS_INFLIGHT e)) ++
  many 4 F.BLK_B_STATUS_SUBSTITUTE (fun e => (substitutes F.BLK_B_STATUS_STATE s e).toNat)

/-! ### Ports and scheduling (spec/12, spec/13) -/

/-- KiB of a class store in use. -/
def storeKib (s : State) (p c : Nat) : Nat := ceilDiv (storeUnits s p c) 16

/-- Credits of a class that the partner may hold: what the store in force has left. -/
def creditsLeft (s : State) (p c : Nat) : Nat := if portUp s p then storeCap s p c - storeUnits s p c else 0

/-- Horizon endpoints 0 to 5 are the ports, 6 to 9 the sectors, 10 chip services and 11 the sequencer: those of sectors whose domain is
not gated, and all others outside DEEP_IDLE. -/
def sectorOn (s : State) (n : Nat) : Bool :=
  let st := sectorState s n
  st != 3 && st != 6 && s.get F.PWR_STATUS_STATE != 2

def schedReads (s : State) : Derived :=
  ((List.range 6).flatMap fun p => many 2 (F.KZP_OE_STATUS_TEMP_C p) fun e => freeCount s (F.KZP_OE_STATUS_TEMP_C p e)) ++
  one F.SCH_SPILL_STATUS_SEGMENTS (fun _ => spillSegsAll s) ++
  one F.SCH_SPILL_STATUS_FULL (fun _ => (decide (32768 ≤ spillSegsAll s)).toNat) ++
  many 6 F.SCH_K_OCCUPANCY_C0 (fun p => storeKib s p 0) ++
  many 6 F.SCH_K_OCCUPANCY_C1 (fun p => storeKib s p 1) ++
  many 6 F.SCH_K_OCCUPANCY_C2 (fun p => storeKib s p 2) ++
  many 6 F.SCH_K_OCCUPANCY_C3 (fun p => storeKib s p 3) ++
  many 6 F.SCH_K_OCCUPANCY_STAGING (fun p => freeCount s (F.SCH_K_OCCUPANCY_STAGING p)) ++
  many 6 F.SCH_K_SPILL_SEGMENTS (spillSegs s) ++
  many 6 F.SCH_K_CREDITS_C0 (fun p => creditsLeft s p 0) ++
  many 6 F.SCH_K_CREDITS_C1 (fun p => creditsLeft s p 1) ++
  many 6 F.SCH_K_CREDITS_C2 (fun p => creditsLeft s p 2) ++
  many 6 F.SCH_K_CREDITS_C3 (fun p => creditsLeft s p 3) ++
  many 6 F.SCH_K_WITHHOLD_C2_US (fun p => freeCount s (F.SCH_K_WITHHOLD_C2_US p)) ++
  many 6 F.SCH_K_WITHHOLD_C3_US (fun p => freeCount s (F.SCH_K_WITHHOLD_C3_US p)) ++
  many 6 F.SCH_K_STATUS_GATE_CLOSED (fun p => (!gateOpen s p).toNat) ++
  one F.XB_STATUS_EP_UP (fun _ => maskOf 12 fun e =>
    if 6 ≤ e ∧ e < 10 then sectorOn s (e - 6) else s.get F.PWR_STATUS_STATE != 2) ++
  many 12 F.XB_EP_BYTES_IN_MIB (fun e => freeCount s (F.XB_EP_BYTES_IN_MIB e)) ++
  many 12 F.XB_EP_BYTES_OUT_MIB (fun e => freeCount s (F.XB_EP_BYTES_OUT_MIB e)) ++
  many 12 F.XB_EP_STALLS_C0 (fun e => freeCount s (F.XB_EP_STALLS_C0 e)) ++
  many 12 F.XB_EP_STALLS_C1 (fun e => freeCount s (F.XB_EP_STALLS_C1 e)) ++
  many 12 F.XB_EP_STALLS_C2 (fun e => freeCount s (F.XB_EP_STALLS_C2 e)) ++
  many 12 F.XB_EP_STALLS_C3 (fun e => freeCount s (F.XB_EP_STALLS_C3 e))

/-! ### Composition and security (spec/14, spec/15) -/

/-- Pages that the domains may still allocate within their quotas (R625). -/
def quotaOpen (s : State) : Nat := ((s.sec.doms.filter fun e => domLive s e.1).map fun e => e.2.quota - domPages s e.1).sum

/-- Is the pool's occupancy exposed (R625)? -/
def occExposed (s : State) : Bool := (List.range 4).any fun n => decide (sectorLimit s n - residentPages s n < quotaOpen s)

/-- The domain that SEC_DOMAIN_SEL names. -/
def selDom (s : State) : Nat := s.get F.SEC_DOMAIN_SEL_DOMAIN

def secReads (s : State) : Derived :=
  one F.CMP_LEASE_STATUS_LEASED (fun _ => s.comp.leases.length) ++
  one F.CMP_LEASE_STATUS_LAPSED (fun _ => s.comp.lapsed.length) ++
  one F.CMP_LEASE_STATUS_MS_SINCE_MGR (fun _ => satTo 32 ((s.now - s.comp.lastBeat) / 1000000)) ++
  one F.CMP_FENCE_FENCED (fun _ => s.comp.fenced.length) ++
  one F.RAS_STATUS_RECOVERING (fun _ => s.comp.recoveries.length) ++
  one F.SEC_STATUS_CONF_DOMAINS (fun _ => confCount s) ++
  one F.SEC_STATUS_DOMAINS (fun _ => 1 + (s.sec.doms.filter fun e => domLive s e.1).length) ++
  one F.SEC_STATUS_CONF_MODE (fun _ => (confCount s != 0).toNat) ++
  one F.SEC_STATUS_OCC_EXPOSED (fun _ => (occExposed s).toNat) ++
  one F.SEC_STATUS_IDENTITY_OK (fun _ => (signs s && !halted s).toNat) ++
  one F.SEC_STATUS_SLOTS (fun _ => s.sec.slots.length) ++
  one F.SEC_STATUS_ZEROING (fun _ => (s.sec.doms.any fun e => e.2.zeroing).toNat) ++
  one F.SEC_DEVICE_ID_DEVICE_ID (fun _ => deviceId s) ++
  one F.SEC_DOMAIN_CFG_EXISTS (fun _ => (domLive s (selDom s)).toNat) ++
  one F.SEC_DOMAIN_CFG_CONFIDENTIAL (fun _ => (domConf s (selDom s)).toNat) ++
  one F.SEC_DOMAIN_CFG_ZEROING (fun _ => (tabGet {} (selDom s) s.sec.doms).zeroing.toNat) ++
  one F.SEC_DOMAIN_CFG_EKEY (fun _ => (tabHas (selDom s) s.sec.ekeys).toNat) ++
  one F.SEC_DOMAIN_CFG_PAGE_QUOTA (fun _ => (tabGet {} (selDom s) s.sec.doms).quota) ++
  one F.SEC_DOMAIN_CFG_ALLOCATED (fun _ => domPages s (selDom s)) ++
  one F.SEC_PORT_KEYS_KEYS (fun _ => maskOf 12 fun k =>
    if k % 2 = 0 then tabHas (k / 2) s.sec.portCur else tabHas (k / 2) s.sec.portNext)

/-! ### Clocks, power and the management port (spec/16 to spec/18) -/

/-- The counters of the selected domain in the latest snapshot (R716), as R717 shows them. -/
def snapOf (s : State) : Telem :=
  let d := s.get F.MGT_TELEM_SEL_DOMAIN
  let x := tabGet {} d s.mgmt.snap
  if domConf s d then { x with rd := 0, wr := 0, kernels := 0, jobs := 0 } else x

def chipReads (s : State) : Derived :=
  one F.CLK_STATUS_TRIM_REF (fun _ => trimRef s) ++
  one F.PWR_STATUS_EXITING (fun _ => 0) ++
  one F.PWR_DOMAINS_SECTORS (fun _ => maskOf 4 (sectorOn s)) ++
  one F.PWR_DOMAINS_PORTS (fun _ => maskOf 6 fun p => sixLinks.any fun l => 1 ≤ linkSt s p l && linkSt s p l ≤ 4) ++
  one F.PWR_DOMAINS_DDR_PHY (fun _ => maskOf 32 fun d => !(channelState s d == 0 || channelState s d == 6 || channelState s d == 7) &&
    s.get F.PWR_STATUS_STATE != 2) ++
  one F.PWR_DOMAINS_HBM_PHY (fun _ => maskOf 8 fun m => s.get (F.HBM_H_STATUS_STATE m) != 5 && s.get F.PWR_STATUS_STATE != 2) ++
  one F.PWR_THROTTLE_LIMIT_W (fun _ => limitNow s) ++
  one F.PWR_THROTTLE_THROTTLED_MS (fun _ => s.get F.PWR_THROTTLE_THROTTLED_MS +
    (match s.clk.throttleAt with | some a => (s.now - a) / 1000000 | none => 0)) ++
  one F.SYS_TIME_TIME (fun _ => s.now) ++
  one F.SYS_STATUS_FAR_COMPLETE (fun _ => ((List.range 32).all fun d =>
    !s.flag (F.DDR_D_STATUS_PRESENT d) || channelState s d == 3 || channelState s d == 7).toNat) ++
  one F.SYS_STATUS_PORTS_UP (fun _ => maskOf 6 (portUp s)) ++
  one F.SYS_STATUS_FAR_SERVING (fun _ => maskOf 32 fun d => channelState s d == 3) ++
  one F.LC_DEBUG_OPEN (fun _ => if lcState s = 1 then 1 else s.get F.LC_DEBUG_OPEN) ++
  one F.MGT_STATUS_SPEED (fun _ => freeCount s F.MGT_STATUS_SPEED) ++
  one F.MGT_STATUS_WIDTH (fun _ => freeCount s F.MGT_STATUS_WIDTH) ++
  one F.MGT_STATUS_FLIT (fun _ => s.mgmt.linkUp.toNat) ++
  one F.MGT_STATUS_BME (fun _ => s.mgmt.hostWrites.toNat) ++
  one F.MGT_STATUS_MSIX_EN (fun _ => s.mgmt.msixEn.toNat) ++
  one F.MGT_STATUS_FN_RESET (fun _ => (!s.mgmt.hostWrites && s.rings.qcs.any fun e => e.2.path = 6 && e.2.st == .draining).toNat) ++
  one F.MGT_TELEM_SEL_BUSY (fun _ => 0) ++
  one F.MGT_TELEM0_RD_MIB (fun _ => (snapOf s).rd / 1048576) ++
  one F.MGT_TELEM0_WR_MIB (fun _ => (snapOf s).wr / 1048576) ++
  one F.MGT_TELEM1_KERNELS (fun _ => (snapOf s).kernels) ++
  one F.MGT_TELEM1_JOBS (fun _ => (snapOf s).jobs) ++
  one F.MGT_TELEM2_FAULTS (fun _ => (snapOf s).faults) ++
  one F.MGT_TELEM2_THROTTLE_MS (fun _ => freeCount s F.MGT_TELEM2_THROTTLE_MS) ++
  one F.MGT_TELEM3_POISON (fun _ => (snapOf s).poison) ++
  one F.MGT_TELEM3_INTEGRITY (fun _ => (snapOf s).integrity) ++
  one F.MGT_TELEM3_DENIED (fun _ => (snapOf s).denied)

/-- Every field that reports other state. -/
def derivedReads (s : State) : Derived :=
  storeReads s ++ xltReads s ++ fabricReads s ++ planeReads s ++ engineReads s ++ schedReads s ++ secReads s ++ chipReads s

/-- What a field reads. -/
def fieldRead (s : State) (f : Fld) : Nat :=
  match (derivedReads s).find? fun x => x.1 == f.key with
  | some x => x.2 () % 2 ^ f.wid
  | none => s.get f

/-! ### Registers by offset -/

/-- Does a distance from a register's first instance name an instance? -/
def dimHit : List (Nat × Nat) → Nat → Bool
  | [], d => d == 0
  | (st, n) :: t, d => (List.range n).any fun k => decide (st * k ≤ d) && dimHit t (d - st * k)

/-- The register at an offset of BAR 0, none where the offset is unmapped. -/
def regAt (off : Nat) : Option RegSpec := regTable.find? fun r => decide (r.base ≤ off) && dimHit r.dims (off - r.base)

/-- What a register reads: write-only fields and reserved bits read zero (R7, R8). -/
def regRead (s : State) (off : Nat) : Nat :=
  match regAt off with
  | none => 0
  | some r => (r.fields.map fun x => if x.acc = .wo then 0 else fieldRead s (x.fld.on off) * 2 ^ x.fld.lo).sum

end Sys2Proof.Machine
end

