-- ==== Sys2Proof/Machine/RegWrite.lean ====
section
/-! DEFINITION. Register accesses over the management port (R5 to R12, R652, R697 to R701, R723). -/

namespace Sys2Proof.Machine

open Sys2Proof

/-- The value of a bound of a range, in the register at `off`. -/
def boundVal (s : State) (r : RegSpec) (off : Nat) (open_ : Nat) : Bound → Nat
  | .none => open_
  | .const n => n
  | .field lo => match r.fields.find? fun x => x.fld.lo = lo with
    | some x => s.get (x.fld.on off)
    | none => open_

/-- The nearest value within a field's range (R723). -/
def inRange (s : State) (r : RegSpec) (off : Nat) (x : FSpec) (v : Nat) : Nat :=
  max (boundVal s r off 0 x.mn) (min (boundVal s r off (2 ^ x.fld.wid - 1) x.mx) v)

/-- A write to one field as its access type allows (R7); the fields of a register are taken from its low bits upward, so that a bounding
field comes before the field it bounds. -/
def writeField (r : RegSpec) (off : Nat) (locked : Bool) (w : Nat) (s : State) (x : FSpec) : State :=
  let f := x.fld.on off
  let v := bits w f.lo f.wid
  match x.acc with
  | .rw => s.set f (inRange s r off x v)
  | .rwl => if locked then s else s.set f (inRange s r off x v)
  | .w1c => s.set f (Nat.xor (s.get f) (Nat.land (s.get f) v))
  | .w1s => s.set f (Nat.lor (s.get f) v)
  | .ro | .wo => s

/-- The lock bit of the register's block: bit 63 of its control register (R7). -/
def lockedAt (s : State) (r : RegSpec) (off : Nat) : Bool :=
  match r.lock with
  | none => false
  | some (base, stride) =>
    let k := match r.dims with | (st, _) :: _ => (off - r.base) / max st 1 | [] => 0
    s.flag ⟨base + stride * k, 63, 1, 0⟩

/-- The instance a register's offset names, of a register with one index. -/
def instOf (r : RegSpec) (off : Nat) : Nat := match r.dims with | (st, _) :: _ => (off - r.base) / max st 1 | [] => 0

/-- The commands that a register's WO and W1S fields give. -/
def regCommand (s : State) (r : RegSpec) (off w : Nat) : State :=
  let n := instOf r off
  let bit := fun f : Fld => bits w f.lo f.wid
  if r.base = F.TIER_S_THRESHOLDS 0 then
    s.setFlag (F.TIER_S_NEAR_STATUS_THRESH_ERR n) (decide (s.get (F.TIER_S_THRESHOLDS_HOT n) ≤ s.get (F.TIER_S_THRESHOLDS_COLD n)))
  else if r.base = F.TIER_S_TOUCH_MAX 0 then (if bit (F.TIER_S_TOUCH_MAX_CLEAR n) = 1 then touchMaxClear s n else s)
  else if r.base = F.HBM_H_CTRL 0 then (if bit (F.HBM_H_CTRL_CLR_COUNTS n) = 1 then hbmClr s n else s)
  else if r.base = F.DDR_D_CTRL 0 then
    let s := slotUp s n
    let s := if bit (F.DDR_D_CTRL_RETIRE n) = 1 then ddrRetire s n else s
    let s := if bit (F.DDR_D_CTRL_RETURN n) = 1 then ddrReturn s n else s
    if bit (F.DDR_D_CTRL_CLR_COUNTS n) = 1 then ddrClr s n else s
  else if r.base = F.ANV_K_FLAG 0 then (if bit (F.ANV_K_FLAG_CLEAR n) = 1 then anvFlagClear s n else s)
  else if r.base = F.TP_MAINT_CMD then
    let k := bit F.TP_MAINT_CMD_SECTORS
    match bit F.TP_MAINT_CMD_OP with
    | 1 => maintFlush s k
    | 2 => maintAcquire s k
    | 3 => maintFlushAll s k
    | _ => s
  else if r.base = F.TP_T_CONFLICT1 0 then (if bit (F.TP_T_CONFLICT1_CLEAR n) = 1 then conflictClear s n else s)
  else if r.base = F.KZP_L_CTRL 0 0 then
    let p := (off - r.base) / 0x1000
    let l := (off - r.base) % 0x1000 / (F.KZP_L_CTRL 0 1 - F.KZP_L_CTRL 0 0)
    let s := if bit (F.KZP_L_CTRL_RETIRE p l) = 1 then retireLink s p l else s
    let s := if bit (F.KZP_L_CTRL_RETURN p l) = 1 then returnLink s p l else s
    if bit (F.KZP_L_CTRL_RETRAIN p l) = 1 then retrainLink s p l else s
  else if r.base = F.PWR_CTRL then
    match bit F.PWR_CTRL_CMD with
    | 1 => enterDeep s
    | 2 => wakeUp s 1
    | _ => s
  else if r.base = F.MGT_TELEM_SEL then (if bit F.MGT_TELEM_SEL_SNAP = 1 then telemSnap s else s)
  else s

/-- A write whose fields take their values, followed by the commands it gives. -/
def plainWrite (s : State) (r : RegSpec) (off w : Nat) : State :=
  regCommand (r.fields.foldl (writeField r off (lockedAt s r off) w) s) r off w

/-- A write of EN of a port: it acts when it changes the bit (R494). -/
def writeEn (s : State) (p : Nat) (en : Bool) : State := if s.flag (F.KZP_CTRL_EN p) == en then s else enablePort s p en

/-- A write of a mapped register: XLT_FQ_PTRS takes none (R700), SCH_Kp_LIMITS is taken whole (R533), RING_QC_SEL and SCH_TQ_SEL run
their command on the ring or queue just named. -/
def regWrite (s : State) (r : RegSpec) (off w : Nat) : State :=
  if r.base = F.XLT_FQ_PTRS then s
  else if r.base = F.SCH_K_LIMITS 0 then limitsWrite s (instOf r off) w
  else if r.base = F.RING_QC_SEL then
    let s := if s.flag F.RING_QC_SEL_BUSY then s else plainWrite s r off w
    let g := bits w F.RING_QC_SEL_RING.lo F.RING_QC_SEL_RING.wid
    match bits w F.RING_QC_SEL_CMD.lo F.RING_QC_SEL_CMD.wid with
    | 1 => qcRead s g
    | 2 => qcWrite s g
    | 3 => qcDisable s g
    | _ => s
  else if r.base = F.SCH_TQ_SEL then
    let s := if s.flag F.SCH_TQ_SEL_BUSY then s else plainWrite s r off w
    match bits w F.SCH_TQ_SEL_CMD.lo F.SCH_TQ_SEL_CMD.wid with
    | 1 => tqRead s (s.get F.SCH_TQ_SEL_PORT) (s.get F.SCH_TQ_SEL_TENANT)
    | 2 => tqWrite s (s.get F.SCH_TQ_SEL_PORT) (s.get F.SCH_TQ_SEL_TENANT)
    | _ => s
  else if r.base = F.KZP_CTRL 0 then
    let p := instOf r off
    let was := s.flag (F.KZP_CTRL_EN p)
    writeEn ((plainWrite s r off w).setFlag (F.KZP_CTRL_EN p) was) p (bits w 0 1 == 1)
  else plainWrite s r off w

/-- Does a register of BAR 0 take writes in DEEP_IDLE with WAKE_ON_PCIE 0: those of MGT_, CLK_ and PWR_, SYS_ID and SYS_TIME (R652)? -/
def deepServed (off : Nat) : Bool := decide (0x1000 ≤ off ∧ off < 0x4000) || off == F.SYS_ID || off == F.SYS_TIME

/-- Is the device in DEEP_IDLE with its management-port wake off (R652)? -/
def deepNoWake (s : State) : Bool := s.get F.PWR_STATUS_STATE == 2 && !s.flag F.PWR_CTRL_WAKE_ON_PCIE

/-- Does the management port take writes: not after a tamper response, nor in SCRAPPED (R584; spec/15, the life-cycle table)? -/
def takesWrites (s : State) : Bool := !halted s && lcState s != 5

/-- An access over the management port: with no supply nothing happens; in DEEP_IDLE it first wakes the device, or else, unless `served` from
the always-on domain, has the effect `refused` (R651, R652). -/
def mgmtAccess (served : Bool) (s : State) (refused go : State → State) : State :=
  if s.clk.off then s
  else if deepNoWake s && !served then refused s
  else go (mgmtTouch s)

/-- A write over the management port: ignored where the port takes none. -/
def mgmtWrite (served : Bool) (s : State) (go : State → State) : State :=
  mgmtAccess served s id fun s => if takesWrites s then go s else s

/-- A read over the management port: all ones where R652 refuses it, else a value after the effect. -/
def mgmtRead (served : Bool) (s : State) (v : Nat) (go : State → State) : State :=
  mgmtAccess served s (fun s => s.emit (.mmio (2 ^ 64 - 1))) fun s => (go s).emit (.mmio v)

/-- A register write at an offset: mapped, unmapped (R699) or not aligned (R6). -/
def writeAt (s : State) (off w : Nat) : State :=
  if off % 8 ≠ 0 then s.bump F.MGT_PARTIAL_ACCESS_COUNT
  else match regAt off with
    | some r => regWrite s r off w
    | none => s.bump F.MGT_PARTIAL_ACCESS_UNMAPPED

/-- REGISTER_WRITE (R5 to R9, R700, R701, R723). -/
def execRegisterWrite (off : Fin 0x80000) (val : Word) (t : Nat) (s : State) : Ans :=
  .next (mgmtWrite (deepServed off.val) (s.upto t) fun s => writeAt s off.val val.toNat)

/-- PARTIAL_REGISTER_ACCESS (R6, R698): a write is ignored, a read returns zero, and the access is counted. -/
def execPartialRegisterAccess (off : Fin 0x80000) (write : Bool) (s : State) : Ans :=
  let count := fun s : State => s.bump F.MGT_PARTIAL_ACCESS_COUNT
  .next (if write then mgmtWrite (deepServed off.val) s count else mgmtRead (deepServed off.val) s 0 count)

/-- UNMAPPED_ACCESS (R699): a write is ignored, a read returns zero, and the access is counted. -/
def execUnmappedAccess (off : Fin 0x80000) (write : Bool) (s : State) : Ans :=
  let count := fun s : State => s.bump F.MGT_PARTIAL_ACCESS_UNMAPPED
  .next (if write then mgmtWrite (deepServed off.val) s count else mgmtRead (deepServed off.val) s 0 count)

/-- A write of the CP register at an offset (R10 to R12): a word whose upper half is not the complement of its lower half changes nothing,
is counted, and posts a fault record. -/
def cpWrite (s : State) (off w : Nat) : State :=
  let lo := w % 2 ^ 32
  if w / 2 ^ 32 = onesComp 32 lo then { s with cpRegs := tabPutD 0 off lo s.cpRegs }
  else postCpair (s.bump F.SEC_CPAIR_ERRORS_COUNT) 0x90 0 off

/-- CP_REGISTER_WRITE (R10 to R12): the register is named by its offset divided by 8. -/
def execCpRegisterWrite (i : Fin 65536) (val : Word) (t : Nat) (s : State) : Ans :=
  .next (mgmtWrite (deepServed (8 * i.val)) (s.upto t) fun s => cpWrite s (8 * i.val) val.toNat)

/-- DEEP_IDLE_MGMT_ACCESS (R652): an access while the device is in DEEP_IDLE with WAKE_ON_PCIE 0. A register of the always-on domain is
served; every other read returns all ones, and every other write is ignored. -/
def execDeepIdleMgmtAccess (a : MgmtAccess) (t : Nat) (s : State) : Ans :=
  let s := s.upto t
  let off := a.off.toNat
  let served := a.bar == 0 && deepServed off
  .next <|
    if !deepNoWake s then s
    else match a.val with
      | some v => mgmtWrite served s fun s => writeAt s off v.toNat
      | none =>
        let v := if off % 8 = 0 then regRead s off else 0
        mgmtRead served s v fun s =>
          if off % 8 ≠ 0 then s.bump F.MGT_PARTIAL_ACCESS_COUNT
          else if (regAt off).isNone then s.bump F.MGT_PARTIAL_ACCESS_UNMAPPED else s

/-! ### Register writes with a row of their own -/

/-- DDR_RETIRE (R73). -/
def execDdrRetire (d : Fin 32) (s : State) : Ans := .next (mgmtWrite false s fun s => ddrRetire s d.val)

/-- DDR_RETURN (R72). -/
def execDdrReturn (d : Fin 32) (s : State) : Ans := .next (mgmtWrite false s fun s => ddrReturn s d.val)

/-- DDR_CLR_COUNTS. -/
def execDdrClrCounts (d : Fin 32) (s : State) : Ans := .next (mgmtWrite false s fun s => ddrClr s d.val)

/-- HBM_CLR_COUNTS (R65). -/
def execHbmClrCounts (m : Fin 8) (s : State) : Ans := .next (mgmtWrite false s fun s => hbmClr s m.val)

/-- TOUCH_MAX_CLEAR (R60). -/
def execTouchMaxClear (n : Fin 4) (s : State) : Ans := .next (mgmtWrite false s fun s => touchMaxClear s n.val)

/-- ANV_FLAG_CLEAR (R137). -/
def execAnvFlagClear (p : Fin 6) (s : State) : Ans := .next (mgmtWrite false s fun s => anvFlagClear s p.val)

/-- RING_QC_READ. -/
def execRingQcRead (g : Fin 1048576) (s : State) : Ans := .next (mgmtWrite false s fun s => qcRead s g.val)

/-- RING_QC_WRITE (R216, R217). -/
def execRingQcWrite (g : Fin 1048576) (t : Nat) (s : State) : Ans := .next (mgmtWrite false (s.upto t) fun s => qcWrite s g.val)

/-- RING_QC_DISABLE (R248). -/
def execRingQcDisable (g : Fin 1048576) (t : Nat) (s : State) : Ans := .next (mgmtWrite false (s.upto t) fun s => qcDisable s g.val)

/-- TP_MAINT_FLUSH (R300). -/
def execTpMaintFlush (n : Fin 16) (t : Nat) (s : State) : Ans := .next (mgmtWrite false (s.upto t) fun s => maintFlush s n.val)

/-- TP_MAINT_ACQUIRE (R297). -/
def execTpMaintAcquire (n : Fin 16) (t : Nat) (s : State) : Ans := .next (mgmtWrite false (s.upto t) fun s => maintAcquire s n.val)

/-- TP_MAINT_FLUSH_ALL (R300). -/
def execTpMaintFlushAll (n : Fin 16) (t : Nat) (s : State) : Ans := .next (mgmtWrite false (s.upto t) fun s => maintFlushAll s n.val)

/-- TILE_CONFLICT_CLEAR (R281). -/
def execTileConflictClear (g : Fin 64) (s : State) : Ans := .next (mgmtWrite false s fun s => conflictClear s g.val)

/-- LINK_RETIRE (R491). -/
def execLinkRetire (p l : Fin 6) (t : Nat) (s : State) : Ans := .next (mgmtWrite false (s.upto t) fun s => retireLink s p.val l.val)

/-- LINK_RETURN (R491). -/
def execLinkReturn (p l : Fin 6) (t : Nat) (s : State) : Ans := .next (mgmtWrite false (s.upto t) fun s => returnLink s p.val l.val)

/-- LINK_RETRAIN (R491, R492). -/
def execLinkRetrain (p l : Fin 6) (t : Nat) (s : State) : Ans := .next (mgmtWrite false (s.upto t) fun s => retrainLink s p.val l.val)

/-- PORT_ENABLE (R494). -/
def execPortEnable (p : Fin 6) (en : Bool) (t : Nat) (s : State) : Ans := .next (mgmtWrite false (s.upto t) fun s => writeEn s p.val en)

/-- TQ_READ (R517). -/
def execTqRead (p : Fin 6) (t : Fin 256) (s : State) : Ans := .next (mgmtWrite false s fun s => tqRead s p.val t.val)

/-- TQ_WRITE (R518, R526, R723). -/
def execTqWrite (p : Fin 6) (t : Fin 256) (time : Nat) (s : State) : Ans :=
  .next (mgmtWrite false (s.upto time) fun s => tqWrite s p.val t.val)

/-- LIMITS_WRITE (R533): the sizes take effect when the port next leaves DOWN. -/
def execLimitsWrite (p : Fin 6) (v : Word) (s : State) : Ans := .next (mgmtWrite false s fun s => limitsWrite s p.val v.toNat)

/-- ENTER_DEEP (R648, R649): CMD 1 of PWR_CTRL. -/
def execEnterDeep (t : Nat) (s : State) : Ans := .next (mgmtWrite true (s.upto t) enterDeep)

/-- TELEM_SNAP (R716). -/
def execTelemSnap (t : Nat) (s : State) : Ans := .next (mgmtWrite true (s.upto t) telemSnap)

/-! ### Doorbells (R223, R225, R693) -/

/-- A doorbell of another port is not reached while the device does not run. -/
def portAccess (path : Nat) (s : State) (go : State → State) : State :=
  if path = 6 then mgmtWrite false s go else if awake s then go s else s

/-- DOORBELL_WRITE (R223): over a port it is answered, over the management port it is a posted write. -/
def execDoorbellWrite (g : Fin 1048576) (path : Fin 7) (partner : Fin 256) (ctx : Fin 65536) (tag : Fin 8192) (al : Bool)
    (v : Word) (t : Nat) (s : State) : Ans :=
  .next <| portAccess path.val (s.upto t) fun s =>
    let (c, s) := doorbell s g.val path.val partner.val ctx.val al v.toNat
    if path.val = 6 then s else s.emit (.reply path.val tag.val 2 c 0 [])

/-- DOORBELL_READ (R225): a refused read over the management port completes with all ones. -/
def execDoorbellRead (g : Fin 1048576) (path : Fin 7) (partner : Fin 256) (ctx : Fin 65536) (tag : Fin 8192) (al : Bool)
    (s : State) : Ans :=
  let get := fun s : State => doorbellGet s g.val path.val partner.val ctx.val al
  .next <|
    if path.val = 6 then
      mgmtAccess false s (fun s => s.emit (.mmio (2 ^ 64 - 1))) fun s =>
        if halted s then s.emit (.mmio (2 ^ 64 - 1))
        else let (c, v, s) := get s; s.emit (.mmio (if c = .ok then v else 2 ^ 64 - 1))
    else if awake s then
      let (c, v, s) := get s
      s.emit (.reply path.val tag.val 2 c 0 (if c = .ok then leBytes 8 v else []))
    else s

end Sys2Proof.Machine
end

