-- ==== Sys2Proof/Machine/Dispatch.lean ====
section
/-! DEFINITION. The one dispatcher: every command of spec/opcode_table.json and its meaning. -/

namespace Sys2Proof.Machine

open Sys2Proof

def exec (i : Instr) (s : State) : Host.Outcome State Fault Refusal :=
  match i with
  -- the register map (spec/00, R5 to R12; spec/18, R699)
  | .registerWrite off val t => Sys2Proof.Machine.execRegisterWrite off val t s
  | .partialRegisterAccess off write => Sys2Proof.Machine.execPartialRegisterAccess off write s
  | .cpRegisterWrite idx val t => Sys2Proof.Machine.execCpRegisterWrite idx val t s
  | .unmappedAccess off write => Sys2Proof.Machine.execUnmappedAccess off write s
  -- the store (spec/02)
  | .decayEpoch sector t => Sys2Proof.Machine.execDecayEpoch sector t s
  | .nearLowDemotion sector t => Sys2Proof.Machine.execNearLowDemotion sector t s
  | .granuleCopyDone page t => Sys2Proof.Machine.execGranuleCopyDone page t s
  | .migratingWaitTimeout port tag t => Sys2Proof.Machine.execMigratingWaitTimeout port tag t s
  | .dirtyLineEviction line t => Sys2Proof.Machine.execDirtyLineEviction line t s
  | .drizzleRead sector far place ev t => Sys2Proof.Machine.execDrizzleRead sector far place ev t s
  | .stackIdent stack id => Sys2Proof.Machine.execStackIdent stack id s
  | .dimmInsert channel => Sys2Proof.Machine.execDimmInsert channel s
  | .spdReadComplete channel spd => Sys2Proof.Machine.execSpdReadComplete channel spd s
  | .channelTrainingDone channel passed ms => Sys2Proof.Machine.execChannelTrainingDone channel passed ms s
  | .channelDrained channel => Sys2Proof.Machine.execChannelDrained channel s
  | .channelFail channel beyondEcc t => Sys2Proof.Machine.execChannelFail channel beyondEcc t s
  | .dimmRemove channel => Sys2Proof.Machine.execDimmRemove channel s
  | .ddrRetire channel => Sys2Proof.Machine.execDdrRetire channel s
  | .ddrReturn channel => Sys2Proof.Machine.execDdrReturn channel s
  | .ddrClrCounts channel => Sys2Proof.Machine.execDdrClrCounts channel s
  | .hbmClrCounts stack => Sys2Proof.Machine.execHbmClrCounts stack s
  | .touchMaxClear sector => Sys2Proof.Machine.execTouchMaxClear sector s
  | .anvFlagClear port => Sys2Proof.Machine.execAnvFlagClear port s
  | .storeHazeCheck stack unit median peers t => Sys2Proof.Machine.execStoreHazeCheck stack unit median peers t s
  | .tierAlloc d => Sys2Proof.Machine.execTierAlloc d s
  | .tierFree d => Sys2Proof.Machine.execTierFree d s
  | .tierHint d => Sys2Proof.Machine.execTierHint d s
  | .tierSplit d => Sys2Proof.Machine.execTierSplit d s
  -- contexts, translation, faults (spec/03)
  | .xltCtxSet d => Sys2Proof.Machine.execXltCtxSet d s
  | .xltCtxClear d => Sys2Proof.Machine.execXltCtxClear d s
  | .xltSegSet d => Sys2Proof.Machine.execXltSegSet d s
  | .xltSegClear d => Sys2Proof.Machine.execXltSegClear d s
  | .xltInval d => Sys2Proof.Machine.execXltInval d s
  | .xltSwapOut d => Sys2Proof.Machine.execXltSwapOut d s
  | .xltSwapIn d => Sys2Proof.Machine.execXltSwapIn d s
  | .invalAck inval unit t => Sys2Proof.Machine.execInvalAck inval unit t s
  | .invalTimeout inval unit t => Sys2Proof.Machine.execInvalTimeout inval unit t s
  | .faultQueueConsume t => Sys2Proof.Machine.execFaultQueueConsume t s
  | .stalledRecordPost t => Sys2Proof.Machine.execStalledRecordPost t s
  | .waiterRoom t => Sys2Proof.Machine.execWaiterRoom t s
  | .faultResolve seq framesFreed t => Sys2Proof.Machine.execFaultResolve seq framesFreed t s
  | .faultHeldTimeout port tag t => Sys2Proof.Machine.execFaultHeldTimeout port tag t s
  -- partner requests (spec/04, spec/05)
  | .rd r => Sys2Proof.Machine.execRd r s
  | .rdShared r => Sys2Proof.Machine.execRdShared r s
  | .rdOwn r => Sys2Proof.Machine.execRdOwn r s
  | .wr r => Sys2Proof.Machine.execWr r s
  | .wrLine r => Sys2Proof.Machine.execWrLine r s
  | .wrFlag r => Sys2Proof.Machine.execWrFlag r s
  | .atomAdd r => Sys2Proof.Machine.execAtomAdd r s
  | .atomAnd r => Sys2Proof.Machine.execAtomAnd r s
  | .atomOr r => Sys2Proof.Machine.execAtomOr r s
  | .atomXor r => Sys2Proof.Machine.execAtomXor r s
  | .atomSwap r => Sys2Proof.Machine.execAtomSwap r s
  | .atomCas r => Sys2Proof.Machine.execAtomCas r s
  | .atomMinS r => Sys2Proof.Machine.execAtomMinS r s
  | .atomMaxS r => Sys2Proof.Machine.execAtomMaxS r s
  | .atomMinU r => Sys2Proof.Machine.execAtomMinU r s
  | .atomMaxU r => Sys2Proof.Machine.execAtomMaxU r s
  | .atomAddF r => Sys2Proof.Machine.execAtomAddF r s
  | .atomMinF r => Sys2Proof.Machine.execAtomMinF r s
  | .atomMaxF r => Sys2Proof.Machine.execAtomMaxF r s
  | .upgrade r => Sys2Proof.Machine.execUpgrade r s
  | .evictClean r => Sys2Proof.Machine.execEvictClean r s
  | .evictDirty r => Sys2Proof.Machine.execEvictDirty r s
  | .publish r => Sys2Proof.Machine.execPublish r s
  | .snpAck r => Sys2Proof.Machine.execSnpAck r s
  | .snpFwd r => Sys2Proof.Machine.execSnpFwd r s
  | .readEntryDataReturn entry t => Sys2Proof.Machine.execReadEntryDataReturn entry t s
  | .atomicWindowExpiry entry t => Sys2Proof.Machine.execAtomicWindowExpiry entry t s
  | .anvilRsvReissue entry t => Sys2Proof.Machine.execAnvilRsvReissue entry t s
  | .flagRelease port tag t => Sys2Proof.Machine.execFlagRelease port tag t s
  | .tailStatus port tag tail t => Sys2Proof.Machine.execTailStatus port tag tail t s
  | .holdExpiry line t => Sys2Proof.Machine.execHoldExpiry line t s
  | .dirHoldSweep sector t => Sys2Proof.Machine.execDirHoldSweep sector t s
  | .reservationExpiry port latency credit t => Sys2Proof.Machine.execReservationExpiry port latency credit t s
  | .pendingBufferRetry sector t => Sys2Proof.Machine.execPendingBufferRetry sector t s
  | .snoopTimeout port stag t => Sys2Proof.Machine.execSnoopTimeout port stag t s
  -- rings (spec/06)
  | .doorbellWrite ring path partner ctx tag aligned8 val t => Sys2Proof.Machine.execDoorbellWrite ring path partner ctx tag aligned8 val t s
  | .doorbellRead ring path partner ctx tag aligned8 => Sys2Proof.Machine.execDoorbellRead ring path partner ctx tag aligned8 s
  | .descriptorFetch ring t => Sys2Proof.Machine.execDescriptorFetch ring t s
  | .descriptorReadComplete ring idx words t => Sys2Proof.Machine.execDescriptorReadComplete ring idx words t s
  | .nopDesc d => Sys2Proof.Machine.execNopDesc d s
  | .descriptorComplete ring idx t => Sys2Proof.Machine.execDescriptorComplete ring idx t s
  | .notifyTimer ring t => Sys2Proof.Machine.execNotifyTimer ring t s
  | .disableBoundExpiry ring t => Sys2Proof.Machine.execDisableBoundExpiry ring t s
  | .ringSet d => Sys2Proof.Machine.execRingSet d s
  | .ringDisable d => Sys2Proof.Machine.execRingDisable d s
  | .ringQcRead ring => Sys2Proof.Machine.execRingQcRead ring s
  | .ringQcWrite ring t => Sys2Proof.Machine.execRingQcWrite ring t s
  | .ringQcDisable ring t => Sys2Proof.Machine.execRingQcDisable ring t s
  | .functionReset full t => Sys2Proof.Machine.execFunctionReset full t s
  | .perst t => Sys2Proof.Machine.execPerst t s
  -- tiles and guest lines (spec/07)
  | .tileIdleTimer tile t => Sys2Proof.Machine.execTileIdleTimer tile t s
  | .tpMaintFlush sectors t => Sys2Proof.Machine.execTpMaintFlush sectors t s
  | .tpMaintAcquire sectors t => Sys2Proof.Machine.execTpMaintAcquire sectors t s
  | .tpMaintFlushAll sectors t => Sys2Proof.Machine.execTpMaintFlushAll sectors t s
  | .tileConflictClear tile => Sys2Proof.Machine.execTileConflictClear tile s
  -- the bundle's slots (spec/08): control word, copy slot, sector sub-slots, synchronisation word
  | .loopOpen w iss => Sys2Proof.Machine.execLoopOpen w iss s
  | .yieldPoint w iss => Sys2Proof.Machine.execYieldPoint w iss s
  | .bundleEnd w iss => Sys2Proof.Machine.execBundleEnd w iss s
  | .tload w iss => Sys2Proof.Machine.execTload w iss s
  | .startCopy engine w iss => Sys2Proof.Machine.execStartCopy engine w iss s
  | .mma x => Sys2Proof.Machine.execMma x s
  | .ldsa x => Sys2Proof.Machine.execLdsa x s
  | .ldsb x => Sys2Proof.Machine.execLdsb x s
  | .accSt x => Sys2Proof.Machine.execAccSt x s
  | .accLd x => Sys2Proof.Machine.execAccLd x s
  | .vadd x => Sys2Proof.Machine.execVadd x s
  | .vsub x => Sys2Proof.Machine.execVsub x s
  | .vmul x => Sys2Proof.Machine.execVmul x s
  | .vfma x => Sys2Proof.Machine.execVfma x s
  | .vmin x => Sys2Proof.Machine.execVmin x s
  | .vmax x => Sys2Proof.Machine.execVmax x s
  | .vselLt x => Sys2Proof.Machine.execVselLt x s
  | .vselEq x => Sys2Proof.Machine.execVselEq x s
  | .vexp x => Sys2Proof.Machine.execVexp x s
  | .vexp2 x => Sys2Proof.Machine.execVexp2 x s
  | .vrcp x => Sys2Proof.Machine.execVrcp x s
  | .vrsq x => Sys2Proof.Machine.execVrsq x s
  | .vpopc x => Sys2Proof.Machine.execVpopc x s
  | .vxor x => Sys2Proof.Machine.execVxor x s
  | .vand x => Sys2Proof.Machine.execVand x s
  | .vor x => Sys2Proof.Machine.execVor x s
  | .vshl x => Sys2Proof.Machine.execVshl x s
  | .vshr x => Sys2Proof.Machine.execVshr x s
  | .viadd x => Sys2Proof.Machine.execViadd x s
  | .visub x => Sys2Proof.Machine.execVisub x s
  | .cvti x => Sys2Proof.Machine.execCvti x s
  | .cvto x => Sys2Proof.Machine.execCvto x s
  | .rsum x => Sys2Proof.Machine.execRsum x s
  | .rmax x => Sys2Proof.Machine.execRmax x s
  | .amov x => Sys2Proof.Machine.execAmov x s
  | .awr x => Sys2Proof.Machine.execAwr x s
  | .vld x corrected => Sys2Proof.Machine.execVld x corrected s
  | .vst x => Sys2Proof.Machine.execVst x s
  | .auxAdd x => Sys2Proof.Machine.execAuxAdd x s
  | .auxSet x => Sys2Proof.Machine.execAuxSet x s
  | .waitEv w iss => Sys2Proof.Machine.execWaitEv w iss s
  | .spfence w iss => Sys2Proof.Machine.execSpfence w iss s
  | .acquire w iss => Sys2Proof.Machine.execAcquire w iss s
  | .flush w iss => Sys2Proof.Machine.execFlush w iss s
  | .drain w iss => Sys2Proof.Machine.execDrain w iss s
  -- copies and kernels (spec/08)
  | .copyComplete engine ring t => Sys2Proof.Machine.execCopyComplete engine ring t s
  | .cpyMem c => Sys2Proof.Machine.execCpyMem c s
  | .cpyToSp engine t => Sys2Proof.Machine.execCpyToSp engine t s
  | .cpyFromSp engine t => Sys2Proof.Machine.execCpyFromSp engine t s
  | .cpyPlace c => Sys2Proof.Machine.execCpyPlace c s
  | .kernelLaunch d => Sys2Proof.Machine.execKernelLaunch d s
  | .launchQueueRoom t => Sys2Proof.Machine.execLaunchQueueRoom t s
  | .kernelStart t => Sys2Proof.Machine.execKernelStart t s
  | .planeStart t => Sys2Proof.Machine.execPlaneStart t s
  | .kernelResume t => Sys2Proof.Machine.execKernelResume t s
  | .kernelComplete t => Sys2Proof.Machine.execKernelComplete t s
  | .kernelRestart tile t => Sys2Proof.Machine.execKernelRestart tile t s
  -- embedding engines (spec/09)
  | .embTableSet d => Sys2Proof.Machine.execEmbTableSet d s
  | .embTableClear d => Sys2Proof.Machine.execEmbTableClear d s
  | .embGather d => Sys2Proof.Machine.execEmbGather d s
  | .embScatter d => Sys2Proof.Machine.execEmbScatter d s
  | .embScatterAdd d => Sys2Proof.Machine.execEmbScatterAdd d s
  | .embUpdate d => Sys2Proof.Machine.execEmbUpdate d s
  | .embHookOpen d => Sys2Proof.Machine.execEmbHookOpen d s
  | .embHookCommit d => Sys2Proof.Machine.execEmbHookCommit d s
  | .versionRelease t => Sys2Proof.Machine.execVersionRelease t s
  | .rowPinExpiry t => Sys2Proof.Machine.execRowPinExpiry t s
  | .hookTimeout t => Sys2Proof.Machine.execHookTimeout t s
  | .balanceEpoch t => Sys2Proof.Machine.execBalanceEpoch t s
  -- search engines (spec/10)
  | .srchIndexSet d => Sys2Proof.Machine.execSrchIndexSet d s
  | .srchIndexClear d => Sys2Proof.Machine.execSrchIndexClear d s
  | .srchFlat d => Sys2Proof.Machine.execSrchFlat d s
  | .srchGraph d => Sys2Proof.Machine.execSrchGraph d s
  | .srchInsert d => Sys2Proof.Machine.execSrchInsert d s
  | .srchDelete d => Sys2Proof.Machine.execSrchDelete d s
  -- the block store and the Contrail log (spec/11)
  | .blkSpaceSet d => Sys2Proof.Machine.execBlkSpaceSet d s
  | .blkSpaceClear d => Sys2Proof.Machine.execBlkSpaceClear d s
  | .blkGet d => Sys2Proof.Machine.execBlkGet d s
  | .blkPut d => Sys2Proof.Machine.execBlkPut d s
  | .blkPin d => Sys2Proof.Machine.execBlkPin d s
  | .blkUnpin d => Sys2Proof.Machine.execBlkUnpin d s
  | .blkHandoff d => Sys2Proof.Machine.execBlkHandoff d s
  | .blkRelease d => Sys2Proof.Machine.execBlkRelease d s
  | .blkLogRead d => Sys2Proof.Machine.execBlkLogRead d s
  | .offer t => Sys2Proof.Machine.execOffer t s
  | .ack t => Sys2Proof.Machine.execAck t s
  | .confirm t => Sys2Proof.Machine.execConfirm t s
  | .nack t => Sys2Proof.Machine.execNack t s
  | .handoffTimeout t => Sys2Proof.Machine.execHandoffTimeout t s
  | .ackResend t => Sys2Proof.Machine.execAckResend t s
  | .giveupTimeout t => Sys2Proof.Machine.execGiveupTimeout t s
  | .goneExpiry t => Sys2Proof.Machine.execGoneExpiry t s
  | .logRoom t => Sys2Proof.Machine.execLogRoom t s
  -- ports, links and lasers (spec/12)
  | .lsmPresent m x t => Sys2Proof.Machine.execLsmPresent m x t s
  | .lsmPoll m x t => Sys2Proof.Machine.execLsmPoll m x t s
  | .flitReceive port link corr uncorr flit t => Sys2Proof.Machine.execFlitReceive port link corr uncorr flit t s
  | .controlFlit port link x t => Sys2Proof.Machine.execControlFlit port link x t s
  | .cryptoFrame port link x t => Sys2Proof.Machine.execCryptoFrame port link x t s
  | .rekey port link counter t => Sys2Proof.Machine.execRekey port link counter t s
  | .linkLight port link t => Sys2Proof.Machine.execLinkLight port link t s
  | .linkTrainingDone port link t => Sys2Proof.Machine.execLinkTrainingDone port link t s
  | .linkTrainTimeout port link lanes t => Sys2Proof.Machine.execLinkTrainTimeout port link lanes t s
  | .laneLockLoss port link t => Sys2Proof.Machine.execLaneLockLoss port link t s
  | .flitSilence port link t => Sys2Proof.Machine.execFlitSilence port link t s
  | .linkHazeCheck port link median peers t => Sys2Proof.Machine.execLinkHazeCheck port link median peers t s
  | .linkRetire port link t => Sys2Proof.Machine.execLinkRetire port link t s
  | .linkReturn port link t => Sys2Proof.Machine.execLinkReturn port link t s
  | .linkRetrain port link t => Sys2Proof.Machine.execLinkRetrain port link t s
  | .portEnable port en t => Sys2Proof.Machine.execPortEnable port en t s
  | .portInit port x t => Sys2Proof.Machine.execPortInit port x t s
  | .portSilence port t => Sys2Proof.Machine.execPortSilence port t s
  | .portDown port t => Sys2Proof.Machine.execPortDown port t s
  | .downNoticeEnd port t => Sys2Proof.Machine.execDownNoticeEnd port t s
  | .portFlushDone port t => Sys2Proof.Machine.execPortFlushDone port t s
  | .cxlMemRequest x => Sys2Proof.Machine.execCxlMemRequest x s
  | .biConflict port => Sys2Proof.Machine.execBiConflict port s
  | .identifyMemoryDevice port => Sys2Proof.Machine.execIdentifyMemoryDevice port s
  | .getPartitionInfo port => Sys2Proof.Machine.execGetPartitionInfo port s
  | .getHealthInfo port => Sys2Proof.Machine.execGetHealthInfo port s
  | .getSupportedLogs port => Sys2Proof.Machine.execGetSupportedLogs port s
  | .getEventRecords port => Sys2Proof.Machine.execGetEventRecords port s
  | .clearEventRecords port => Sys2Proof.Machine.execClearEventRecords port s
  | .cxlMailboxUnsupported port op => Sys2Proof.Machine.execCxlMailboxUnsupported port op s
  -- the scheduler (spec/13)
  | .schedulerSelect port t => Sys2Proof.Machine.execSchedulerSelect port t s
  | .spillReadback port tag t => Sys2Proof.Machine.execSpillReadback port tag t s
  | .tqRead port tenant => Sys2Proof.Machine.execTqRead port tenant s
  | .tqWrite port tenant t => Sys2Proof.Machine.execTqWrite port tenant t s
  | .limitsWrite port val => Sys2Proof.Machine.execLimitsWrite port val s
  -- composition and repair (spec/14)
  | .cmpStage d => Sys2Proof.Machine.execCmpStage d s
  | .cmpCommit d => Sys2Proof.Machine.execCmpCommit d s
  | .cmpEvents d => Sys2Proof.Machine.execCmpEvents d s
  | .cmpLease d => Sys2Proof.Machine.execCmpLease d s
  | .cmpFence d => Sys2Proof.Machine.execCmpFence d s
  | .cmpSector d => Sys2Proof.Machine.execCmpSector d s
  | .cmpDomain d => Sys2Proof.Machine.execCmpDomain d s
  | .cmpFwActivate d => Sys2Proof.Machine.execCmpFwActivate d s
  | .stageTimeout t => Sys2Proof.Machine.execStageTimeout t s
  | .mapPersist t => Sys2Proof.Machine.execMapPersist t s
  | .managerTimeout t => Sys2Proof.Machine.execManagerTimeout t s
  | .leaseLapse port partner t => Sys2Proof.Machine.execLeaseLapse port partner t s
  | .domainFault ty inst cause t => Sys2Proof.Machine.execDomainFault ty inst cause t s
  | .domainRecovered ty inst ok t => Sys2Proof.Machine.execDomainRecovered ty inst ok t s
  | .unitHazeCheck tile unit median peers t => Sys2Proof.Machine.execUnitHazeCheck tile unit median peers t s
  | .hazeFailTimeout ty inst t => Sys2Proof.Machine.execHazeFailTimeout ty inst t s
  | .evacPageMoved page t => Sys2Proof.Machine.execEvacPageMoved page t s
  | .sectorPowerDown sector t => Sys2Proof.Machine.execSectorPowerDown sector t s
  | .sectorSelfTestDone sector passed t => Sys2Proof.Machine.execSectorSelfTestDone sector passed t s
  | .coreHealthCheck core passed t => Sys2Proof.Machine.execCoreHealthCheck core passed t s
  | .zenithCoreFail core t => Sys2Proof.Machine.execZenithCoreFail core t s
  | .deviceFault block t => Sys2Proof.Machine.execDeviceFault block t s
  -- security (spec/15)
  | .secDomainSet d => Sys2Proof.Machine.execSecDomainSet d s
  | .secDomainTeardown d => Sys2Proof.Machine.execSecDomainTeardown d s
  | .secAttest d => Sys2Proof.Machine.execSecAttest d s
  | .secKeyImport d => Sys2Proof.Machine.execSecKeyImport d s
  | .secKeyDiscard d => Sys2Proof.Machine.execSecKeyDiscard d s
  | .secUnseal d => Sys2Proof.Machine.execSecUnseal d s
  | .secPortKey d => Sys2Proof.Machine.execSecPortKey d s
  | .secLc d => Sys2Proof.Machine.execSecLc d s
  | .tamper sensor t => Sys2Proof.Machine.execTamper sensor t s
  | .xmssBlockCommit t => Sys2Proof.Machine.execXmssBlockCommit t s
  | .zeroFillDone dom t => Sys2Proof.Machine.execZeroFillDone dom t s
  | .svnFuse t => Sys2Proof.Machine.execSvnFuse t s
  -- clocks, power, supplies, cooling (spec/16, spec/17)
  | .powerOn xdly => Sys2Proof.Machine.execPowerOn xdly s
  | .supplyLoss t => Sys2Proof.Machine.execSupplyLoss t s
  | .xtalTestStart t => Sys2Proof.Machine.execXtalTestStart t s
  | .xtalStable t => Sys2Proof.Machine.execXtalStable t s
  | .xtalStartTimeout t => Sys2Proof.Machine.execXtalStartTimeout t s
  | .ioscTrimWindow marks ppm t => Sys2Proof.Machine.execIoscTrimWindow marks ppm t s
  | .pllIdleStop engines t => Sys2Proof.Machine.execPllIdleStop engines t s
  | .pllLocked loop ns t => Sys2Proof.Machine.execPllLocked loop ns t s
  | .xtalLoss t => Sys2Proof.Machine.execXtalLoss t s
  | .portLoopHoldover port t => Sys2Proof.Machine.execPortLoopHoldover port t s
  | .refclkLoss t => Sys2Proof.Machine.execRefclkLoss t s
  | .xtalReturn t => Sys2Proof.Machine.execXtalReturn t s
  | .enterDeep t => Sys2Proof.Machine.execEnterDeep t s
  | .wake t => Sys2Proof.Machine.execWake t s
  | .deepWakeEvent by_ t => Sys2Proof.Machine.execDeepWakeEvent by_ t s
  | .deepIdleMgmtAccess a t => Sys2Proof.Machine.execDeepIdleMgmtAccess a t s
  | .engineIdleGate engine t => Sys2Proof.Machine.execEngineIdleGate engine t s
  | .throttleN low t => Sys2Proof.Machine.execThrottleN low t s
  | .thermalLimitTick tj t => Sys2Proof.Machine.execThermalLimitTick tj t s
  | .hbmTempCheck stack temp t => Sys2Proof.Machine.execHbmTempCheck stack temp t s
  | .thermalTrip junction stack engine t => Sys2Proof.Machine.execThermalTrip junction stack engine t s
  | .inletSensorRead temp t => Sys2Proof.Machine.execInletSensorRead temp t s
  -- the management port (spec/18)
  | .poolWindowAccess off op t => Sys2Proof.Machine.execPoolWindowAccess off op t s
  | .msixPendingSend linkUp enabled unmask t => Sys2Proof.Machine.execMsixPendingSend linkUp enabled unmask t s
  | .mctpMessage p t => Sys2Proof.Machine.execMctpMessage p t s
  | .setEndpointId pcie eid => Sys2Proof.Machine.execSetEndpointId pcie eid s
  | .getEndpointId pcie => Sys2Proof.Machine.execGetEndpointId pcie s
  | .getEndpointUuid pcie => Sys2Proof.Machine.execGetEndpointUuid pcie s
  | .getMctpVersionSupport pcie type => Sys2Proof.Machine.execGetMctpVersionSupport pcie type s
  | .getMessageTypeSupport pcie => Sys2Proof.Machine.execGetMessageTypeSupport pcie s
  | .getVendorDefinedMessageSupport pcie sel => Sys2Proof.Machine.execGetVendorDefinedMessageSupport pcie sel s
  | .getTid pcie => Sys2Proof.Machine.execGetTid pcie s
  | .setTid pcie tid => Sys2Proof.Machine.execSetTid pcie tid s
  | .getPldmVersion pcie type => Sys2Proof.Machine.execGetPldmVersion pcie type s
  | .getPldmTypes pcie => Sys2Proof.Machine.execGetPldmTypes pcie s
  | .getPldmCommands pcie type => Sys2Proof.Machine.execGetPldmCommands pcie type s
  | .getPdrRepositoryInfo pcie => Sys2Proof.Machine.execGetPdrRepositoryInfo pcie s
  | .getPdr pcie handle => Sys2Proof.Machine.execGetPdr pcie handle s
  | .setEventReceiver pcie eid => Sys2Proof.Machine.execSetEventReceiver pcie eid s
  | .getSensorReading pcie id => Sys2Proof.Machine.execGetSensorReading pcie id s
  | .getStateSensorReadings pcie id => Sys2Proof.Machine.execGetStateSensorReadings pcie id s
  | .pldmSensorRefresh t => Sys2Proof.Machine.execPldmSensorRefresh t s
  | .requestUpdate pcie agent maxTransfer t => Sys2Proof.Machine.execRequestUpdate pcie agent maxTransfer t s
  | .passComponentTable pcie agent size t => Sys2Proof.Machine.execPassComponentTable pcie agent size t s
  | .requestFirmwareData pcie agent len image t => Sys2Proof.Machine.execRequestFirmwareData pcie agent len image t s
  | .activateFirmware pcie agent t => Sys2Proof.Machine.execActivateFirmware pcie agent t s
  | .updateAgentTimeout t => Sys2Proof.Machine.execUpdateAgentTimeout t s
  | .getIdentity pcie inst => Sys2Proof.Machine.execGetIdentity pcie inst s
  | .getCert pcie inst off len => Sys2Proof.Machine.execGetCert pcie inst off len s
  | .getReport pcie inst dom nonce t => Sys2Proof.Machine.execGetReport pcie inst dom nonce t s
  | .getXmss pcie inst => Sys2Proof.Machine.execGetXmss pcie inst s
  | .mgtBusTimeout bus t => Sys2Proof.Machine.execMgtBusTimeout bus t s
  | .telemSnap t => Sys2Proof.Machine.execTelemSnap t s
  -- start-up and the rest (spec/04, spec/12, spec/16 to spec/18)
  | .reply port tag code detail t => Sys2Proof.Machine.execReply port tag code detail t s
  | .laserModuleReady m t => Sys2Proof.Machine.execLaserModuleReady m t s
  | .refclkReturn t => Sys2Proof.Machine.execRefclkReturn t s
  | .completionTimeout ring idx t => Sys2Proof.Machine.execCompletionTimeout ring idx t s
  | .hbmTrained t => Sys2Proof.Machine.execHbmTrained t s
  | .activeBankVerified image t => Sys2Proof.Machine.execActiveBankVerified image t s
  | .debugOpen token t => Sys2Proof.Machine.execDebugOpen token t s
  | .tapInstruction instr => Sys2Proof.Machine.execTapInstruction instr s
  | .powerLimitWindow watts amps t => Sys2Proof.Machine.execPowerLimitWindow watts amps t s

end Sys2Proof.Machine
end

