-- ==== Sys2Proof/WellFormed.lean ====
section
/-! DEFINITION. When a command is well formed: the lists it carries have the lengths that the spec gives them. -/

namespace Sys2Proof

/-- A descriptor has eight words (R226). -/
def Desc.wf (d : Desc) : Bool := d.words.length == 8

/-- A request carries at most 256 bytes of payload (R125). -/
def Req.wf (r : Req) : Bool := decide (r.payload.length ≤ 256)

/-- A copy row's descriptor. -/
def CopyRef.wf : CopyRef → Bool
  | .ring d => d.wf
  | .kernel _ _ => true

/-- A CXL.mem message carries whole lines (R501). -/
def CxlMsg.wf (x : CxlMsg) : Bool :=
  match x.op with
  | .memWr _ data | .memWrPtl _ data | .biRsp _ (some data) => data.length == 64
  | _ => true

/-- The first 64 bytes of an image's header (R595). -/
def Image.wf (x : Image) : Bool := x.header.length == 64

/-- A write of the pool window carries at most one page of data. -/
def WinOp.wf : WinOp → Bool
  | .read _ => true
  | .write data => decide (data.length ≤ 4096)

/-- Is a command well formed? -/
def Instr.wf : Instr → Bool
  | .registerWrite _ _ _ => true
  | .partialRegisterAccess _ _ => true
  | .cpRegisterWrite _ _ _ => true
  | .unmappedAccess _ _ => true
  | .decayEpoch _ _ => true
  | .nearLowDemotion _ _ => true
  | .granuleCopyDone _ _ => true
  | .migratingWaitTimeout _ _ _ => true
  | .dirtyLineEviction _ _ => true
  | .drizzleRead _ _ _ _ _ => true
  | .stackIdent _ _ => true
  | .dimmInsert _ => true
  | .spdReadComplete _ _ => true
  | .channelTrainingDone _ _ _ => true
  | .channelDrained _ => true
  | .channelFail _ _ _ => true
  | .dimmRemove _ => true
  | .ddrRetire _ => true
  | .ddrReturn _ => true
  | .ddrClrCounts _ => true
  | .hbmClrCounts _ => true
  | .touchMaxClear _ => true
  | .anvFlagClear _ => true
  | .storeHazeCheck _ _ _ _ _ => true
  | .tierAlloc d => d.wf
  | .tierFree d => d.wf
  | .tierHint d => d.wf
  | .tierSplit d => d.wf
  | .xltCtxSet d => d.wf
  | .xltCtxClear d => d.wf
  | .xltSegSet d => d.wf
  | .xltSegClear d => d.wf
  | .xltInval d => d.wf
  | .xltSwapOut d => d.wf
  | .xltSwapIn d => d.wf
  | .invalAck _ _ _ => true
  | .invalTimeout _ _ _ => true
  | .faultQueueConsume _ => true
  | .stalledRecordPost _ => true
  | .waiterRoom _ => true
  | .faultResolve _ _ _ => true
  | .faultHeldTimeout _ _ _ => true
  | .rd r => r.wf
  | .rdShared r => r.wf
  | .rdOwn r => r.wf
  | .wr r => r.wf
  | .wrLine r => r.wf
  | .wrFlag r => r.wf
  | .atomAdd r => r.wf
  | .atomAnd r => r.wf
  | .atomOr r => r.wf
  | .atomXor r => r.wf
  | .atomSwap r => r.wf
  | .atomCas r => r.wf
  | .atomMinS r => r.wf
  | .atomMaxS r => r.wf
  | .atomMinU r => r.wf
  | .atomMaxU r => r.wf
  | .atomAddF r => r.wf
  | .atomMinF r => r.wf
  | .atomMaxF r => r.wf
  | .upgrade r => r.wf
  | .evictClean r => r.wf
  | .evictDirty r => r.wf
  | .publish r => r.wf
  | .snpAck r => r.wf
  | .snpFwd r => r.wf
  | .readEntryDataReturn _ _ => true
  | .atomicWindowExpiry _ _ => true
  | .anvilRsvReissue _ _ => true
  | .flagRelease _ _ _ => true
  | .tailStatus _ _ _ _ => true
  | .holdExpiry _ _ => true
  | .dirHoldSweep _ _ => true
  | .reservationExpiry _ _ _ _ => true
  | .pendingBufferRetry _ _ => true
  | .snoopTimeout _ _ _ => true
  | .doorbellWrite _ _ _ _ _ _ _ _ => true
  | .doorbellRead _ _ _ _ _ _ => true
  | .descriptorFetch _ _ => true
  | .descriptorReadComplete _ _ words _ => words.all fun ws => ws.length == 8
  | .nopDesc d => d.wf
  | .descriptorComplete _ _ _ => true
  | .notifyTimer _ _ => true
  | .disableBoundExpiry _ _ => true
  | .ringSet d => d.wf
  | .ringDisable d => d.wf
  | .ringQcRead _ => true
  | .ringQcWrite _ _ => true
  | .ringQcDisable _ _ => true
  | .functionReset _ _ => true
  | .perst _ => true
  | .tileIdleTimer _ _ => true
  | .tpMaintFlush _ _ => true
  | .tpMaintAcquire _ _ => true
  | .tpMaintFlushAll _ _ => true
  | .tileConflictClear _ => true
  | .loopOpen _ _ => true
  | .yieldPoint _ _ => true
  | .bundleEnd _ _ => true
  | .tload _ _ => true
  | .startCopy _ _ _ => true
  | .mma _ => true
  | .ldsa _ => true
  | .ldsb _ => true
  | .accSt _ => true
  | .accLd _ => true
  | .vadd _ => true
  | .vsub _ => true
  | .vmul _ => true
  | .vfma _ => true
  | .vmin _ => true
  | .vmax _ => true
  | .vselLt _ => true
  | .vselEq _ => true
  | .vexp _ => true
  | .vexp2 _ => true
  | .vrcp _ => true
  | .vrsq _ => true
  | .vpopc _ => true
  | .vxor _ => true
  | .vand _ => true
  | .vor _ => true
  | .vshl _ => true
  | .vshr _ => true
  | .viadd _ => true
  | .visub _ => true
  | .cvti _ => true
  | .cvto _ => true
  | .rsum _ => true
  | .rmax _ => true
  | .amov _ => true
  | .awr _ => true
  | .vld _ _ => true
  | .vst _ => true
  | .auxAdd _ => true
  | .auxSet _ => true
  | .waitEv _ _ => true
  | .spfence _ _ => true
  | .acquire _ _ => true
  | .flush _ _ => true
  | .drain _ _ => true
  | .copyComplete _ _ _ => true
  | .cpyMem c => c.wf
  | .cpyToSp _ _ => true
  | .cpyFromSp _ _ => true
  | .cpyPlace c => c.wf
  | .kernelLaunch d => d.wf
  | .launchQueueRoom _ => true
  | .kernelStart _ => true
  | .planeStart _ => true
  | .kernelResume _ => true
  | .kernelComplete _ => true
  | .kernelRestart _ _ => true
  | .embTableSet d => d.wf
  | .embTableClear d => d.wf
  | .embGather d => d.wf
  | .embScatter d => d.wf
  | .embScatterAdd d => d.wf
  | .embUpdate d => d.wf
  | .embHookOpen d => d.wf
  | .embHookCommit d => d.wf
  | .versionRelease _ => true
  | .rowPinExpiry _ => true
  | .hookTimeout _ => true
  | .balanceEpoch _ => true
  | .srchIndexSet d => d.wf
  | .srchIndexClear d => d.wf
  | .srchFlat d => d.wf
  | .srchGraph d => d.wf
  | .srchInsert d => d.wf
  | .srchDelete d => d.wf
  | .blkSpaceSet d => d.wf
  | .blkSpaceClear d => d.wf
  | .blkGet d => d.wf
  | .blkPut d => d.wf
  | .blkPin d => d.wf
  | .blkUnpin d => d.wf
  | .blkHandoff d => d.wf
  | .blkRelease d => d.wf
  | .blkLogRead d => d.wf
  | .offer _ => true
  | .ack _ => true
  | .confirm _ => true
  | .nack _ => true
  | .handoffTimeout _ => true
  | .ackResend _ => true
  | .giveupTimeout _ => true
  | .goneExpiry _ => true
  | .logRoom _ => true
  | .lsmPresent _ _ _ => true
  | .lsmPoll _ _ _ => true
  | .flitReceive _ _ _ _ _ _ => true
  | .controlFlit _ _ _ _ => true
  | .cryptoFrame _ _ _ _ => true
  | .rekey _ _ _ _ => true
  | .linkLight _ _ _ => true
  | .linkTrainingDone _ _ _ => true
  | .linkTrainTimeout _ _ _ _ => true
  | .laneLockLoss _ _ _ => true
  | .flitSilence _ _ _ => true
  | .linkHazeCheck _ _ _ _ _ => true
  | .linkRetire _ _ _ => true
  | .linkReturn _ _ _ => true
  | .linkRetrain _ _ _ => true
  | .portEnable _ _ _ => true
  | .portInit _ _ _ => true
  | .portSilence _ _ => true
  | .portDown _ _ => true
  | .downNoticeEnd _ _ => true
  | .portFlushDone _ _ => true
  | .cxlMemRequest x => x.wf
  | .biConflict _ => true
  | .identifyMemoryDevice _ => true
  | .getPartitionInfo _ => true
  | .getHealthInfo _ => true
  | .getSupportedLogs _ => true
  | .getEventRecords _ => true
  | .clearEventRecords _ => true
  | .cxlMailboxUnsupported _ _ => true
  | .schedulerSelect _ _ => true
  | .spillReadback _ _ _ => true
  | .tqRead _ _ => true
  | .tqWrite _ _ _ => true
  | .limitsWrite _ _ => true
  | .cmpStage d => d.wf
  | .cmpCommit d => d.wf
  | .cmpEvents d => d.wf
  | .cmpLease d => d.wf
  | .cmpFence d => d.wf
  | .cmpSector d => d.wf
  | .cmpDomain d => d.wf
  | .cmpFwActivate d => d.wf
  | .stageTimeout _ => true
  | .mapPersist _ => true
  | .managerTimeout _ => true
  | .leaseLapse _ _ _ => true
  | .domainFault _ _ _ _ => true
  | .domainRecovered _ _ _ _ => true
  | .unitHazeCheck _ _ _ _ _ => true
  | .hazeFailTimeout _ _ _ => true
  | .evacPageMoved _ _ => true
  | .sectorPowerDown _ _ => true
  | .sectorSelfTestDone _ _ _ => true
  | .coreHealthCheck _ _ _ => true
  | .zenithCoreFail _ _ => true
  | .deviceFault _ _ => true
  | .secDomainSet d => d.wf
  | .secDomainTeardown d => d.wf
  | .secAttest d => d.wf
  | .secKeyImport d => d.wf
  | .secKeyDiscard d => d.wf
  | .secUnseal d => d.wf
  | .secPortKey d => d.wf
  | .secLc d => d.wf
  | .tamper _ _ => true
  | .xmssBlockCommit _ => true
  | .zeroFillDone _ _ => true
  | .svnFuse _ => true
  | .powerOn _ => true
  | .supplyLoss _ => true
  | .xtalTestStart _ => true
  | .xtalStable _ => true
  | .xtalStartTimeout _ => true
  | .ioscTrimWindow _ _ _ => true
  | .pllIdleStop _ _ => true
  | .pllLocked _ _ _ => true
  | .xtalLoss _ => true
  | .portLoopHoldover _ _ => true
  | .refclkLoss _ => true
  | .xtalReturn _ => true
  | .enterDeep _ => true
  | .wake _ => true
  | .deepWakeEvent _ _ => true
  | .deepIdleMgmtAccess _ _ => true
  | .engineIdleGate _ _ => true
  | .throttleN _ _ => true
  | .thermalLimitTick _ _ => true
  | .hbmTempCheck _ _ _ => true
  | .thermalTrip _ _ _ _ => true
  | .inletSensorRead _ _ => true
  | .poolWindowAccess _ op _ => op.wf
  | .msixPendingSend _ _ _ _ => true
  | .mctpMessage _ _ => true
  | .setEndpointId _ _ => true
  | .getEndpointId _ => true
  | .getEndpointUuid _ => true
  | .getMctpVersionSupport _ _ => true
  | .getMessageTypeSupport _ => true
  | .getVendorDefinedMessageSupport _ _ => true
  | .getTid _ => true
  | .setTid _ _ => true
  | .getPldmVersion _ _ => true
  | .getPldmTypes _ => true
  | .getPldmCommands _ _ => true
  | .getPdrRepositoryInfo _ => true
  | .getPdr _ _ => true
  | .setEventReceiver _ _ => true
  | .getSensorReading _ _ => true
  | .getStateSensorReadings _ _ => true
  | .pldmSensorRefresh _ => true
  | .requestUpdate _ _ _ _ => true
  | .passComponentTable _ _ _ _ => true
  | .requestFirmwareData _ _ _ image _ => image.all Image.wf
  | .activateFirmware _ _ _ => true
  | .updateAgentTimeout _ => true
  | .getIdentity _ _ => true
  | .getCert _ _ _ _ => true
  | .getReport _ _ _ nonce _ => nonce.length == 32
  | .getXmss _ _ => true
  | .mgtBusTimeout _ _ => true
  | .telemSnap _ => true
  | .reply _ _ _ _ _ => true
  | .laserModuleReady _ _ => true
  | .refclkReturn _ => true
  | .completionTimeout _ _ _ => true
  | .hbmTrained _ => true
  | .activeBankVerified image _ => image.wf
  | .debugOpen _ _ => true
  | .tapInstruction _ => true
  | .powerLimitWindow _ _ _ => true

end Sys2Proof
end

