-- ==== Sys2Proof/Safety.lean ====
section
/-! DEFINITION. What counts as a safe run, in the terms that claims use: the canonical form of the pool's memory, and a step that goes on. -/

namespace Sys2Proof.Machine

open Sys2Proof

/-- The canonical form of memory: addresses strictly rising, and no entry equal to what an unlisted address reads as (R41). -/
def Memory.wf (m : List Host.Cell) : Bool := keysRise m && m.all fun c => c.2 != 0

/-- The pool's memory is in canonical form. -/
def MemOk (s : State) : Prop := Memory.wf s.store.mem = true

/-- Every command that waits is well formed. -/
def QueueOk (s : State) : Prop := ∀ c ∈ s.pending, c.wf = true

/-- The block goes on: the next step gives a next state. -/
def GoesOn (s : State) : Prop := ∃ t, step s = .next t

/-! ### The words that statements are made of -/

/-- A command gives a next state, and `P` holds of it. -/
def Gives (c : Instr) (s : State) (P : State → Prop) : Prop := ∃ t, exec c s = .next t ∧ P t

/-- The state once an access over the management port has arrived: the device has answered its link (R666). -/
def answeredState (s : State) : State := { s with mgmt := { s.mgmt with answered := true } }

/-- The management port is open to writes: the device has its supply, is not in DEEP_IDLE (R651, R652), and has met neither a tamper response
nor SCRAPPED (R584). -/
def PortOpen (s : State) : Prop := s.clk.off = false ∧ s.get F.PWR_STATUS_STATE ≠ 2 ∧ takesWrites s = true

/-- Two states that differ at most in their register fields. -/
def SameButFields (s t : State) : Prop := { t with regs := [] } = { s with regs := [] }

/-- From `s` to `t` no register field changes but those with the keys given, and nothing else changes. -/
def OnlyFields (ks : List Nat) (s t : State) : Prop := (∀ f : Fld, f.key ∉ ks → t.get f = s.get f) ∧ SameButFields s t

/-- From `s` to `t` nothing has changed but SYS_TIME. -/
def OnlyTime (s t : State) : Prop := { t with now := s.now } = s

/-- The registers whose writes do more than set their own fields: they give commands, set a field of another register, or take their
value in a way of their own. -/
def commandRegs : List Nat :=
  [F.XLT_FQ_PTRS, F.SCH_K_LIMITS 0, F.RING_QC_SEL, F.SCH_TQ_SEL, F.KZP_CTRL 0, F.TIER_S_THRESHOLDS 0, F.TIER_S_TOUCH_MAX 0,
   F.HBM_H_CTRL 0, F.DDR_D_CTRL 0, F.ANV_K_FLAG 0, F.TP_MAINT_CMD, F.TP_T_CONFLICT1 0, F.KZP_L_CTRL 0 0, F.PWR_CTRL, F.MGT_TELEM_SEL]

/-- The commands that stand for a write over the management port. -/
def portWrite : Instr → Bool
  | .registerWrite _ _ _ | .partialRegisterAccess _ true | .cpRegisterWrite _ _ _ | .unmappedAccess _ true
  | .ddrRetire _ | .ddrReturn _ | .ddrClrCounts _ | .hbmClrCounts _ | .touchMaxClear _ | .anvFlagClear _
  | .ringQcRead _ | .ringQcWrite _ _ | .ringQcDisable _ _ | .tpMaintFlush _ _ | .tpMaintAcquire _ _ | .tpMaintFlushAll _ _
  | .tileConflictClear _ | .linkRetire _ _ _ | .linkReturn _ _ _ | .linkRetrain _ _ _ | .portEnable _ _ _
  | .tqRead _ _ | .tqWrite _ _ _ | .limitsWrite _ _ | .enterDeep _ | .telemSnap _ => true
  | _ => false

/-- The commands whose meaning may store bytes of the pool, or drop some: every command but those listed. -/
def storesPool : Instr → Bool
  | .partialRegisterAccess _ _ | .cpRegisterWrite _ _ _ | .unmappedAccess _ _ | .decayEpoch _ _ | .nearLowDemotion _ _
  | .migratingWaitTimeout _ _ _ | .dirtyLineEviction _ _ | .drizzleRead _ _ _ _ _ | .stackIdent _ _ | .dimmInsert _
  | .spdReadComplete _ _ | .channelTrainingDone _ _ _ | .channelDrained _ | .channelFail _ _ _ | .dimmRemove _ | .ddrRetire _
  | .ddrReturn _ | .ddrClrCounts _ | .hbmClrCounts _ | .touchMaxClear _ | .anvFlagClear _ | .storeHazeCheck _ _ _ _ _ | .tierHint _
  | .tierSplit _ | .xltCtxSet _ | .xltCtxClear _ | .xltSegClear _ | .xltInval _ | .xltSwapIn _ | .invalAck _ _ _
  | .doorbellWrite _ _ _ _ _ _ _ _ | .doorbellRead _ _ _ _ _ _ | .descriptorFetch _ _ | .descriptorReadComplete _ _ _ _ | .nopDesc _
  | .notifyTimer _ _ | .disableBoundExpiry _ _ | .ringDisable _ | .ringQcRead _ | .ringQcWrite _ _ | .ringQcDisable _ _
  | .functionReset _ _ | .perst _ | .tileIdleTimer _ _ | .tileConflictClear _ | .loopOpen _ _ | .yieldPoint _ _ | .bundleEnd _ _
  | .tload _ _ | .startCopy _ _ _ | .mma _ | .ldsa _ | .ldsb _ | .accSt _ | .accLd _ | .vadd _ | .vsub _ | .vmul _ | .vfma _ | .vmin _
  | .vmax _ | .vselLt _ | .vselEq _ | .vexp _ | .vexp2 _ | .vrcp _ | .vrsq _ | .vpopc _ | .vxor _ | .vand _ | .vor _ | .vshl _ | .vshr _
  | .viadd _ | .visub _ | .cvti _ | .cvto _ | .rsum _ | .rmax _ | .amov _ | .awr _ | .vld _ _ | .vst _ | .auxAdd _ | .auxSet _
  | .waitEv _ _ | .spfence _ _ | .drain _ _ | .copyComplete _ _ _ | .kernelResume _ | .embTableSet _ | .embTableClear _ | .rowPinExpiry _
  | .hookTimeout _ | .srchIndexSet _ | .srchIndexClear _ | .blkSpaceSet _ | .handoffTimeout _ | .ackResend _ | .goneExpiry _ | .logRoom _
  | .lsmPresent _ _ _ | .flitReceive _ _ _ _ _ _ | .linkTrainingDone _ _ _ | .linkReturn _ _ _ | .portInit _ _ _ | .downNoticeEnd _ _
  | .portFlushDone _ _ | .biConflict _ | .identifyMemoryDevice _ | .getPartitionInfo _ | .getHealthInfo _ | .getSupportedLogs _
  | .getEventRecords _ | .clearEventRecords _ | .cxlMailboxUnsupported _ _ | .spillReadback _ _ _ | .tqRead _ _ | .tqWrite _ _ _
  | .limitsWrite _ _ | .cmpLease _ | .cmpSector _ | .cmpFwActivate _ | .stageTimeout _ | .mapPersist _ | .managerTimeout _
  | .unitHazeCheck _ _ _ _ _ | .sectorSelfTestDone _ _ _ | .coreHealthCheck _ _ _ | .secDomainSet _ | .secKeyDiscard _ | .tamper _ _
  | .xmssBlockCommit _ | .zeroFillDone _ _ | .svnFuse _ | .xtalTestStart _ | .xtalStable _ | .xtalStartTimeout _ | .ioscTrimWindow _ _ _
  | .pllIdleStop _ _ | .pllLocked _ _ _ | .xtalLoss _ | .refclkLoss _ | .xtalReturn _ | .wake _ | .deepWakeEvent _ _
  | .engineIdleGate _ _ | .throttleN _ _ | .thermalLimitTick _ _ | .hbmTempCheck _ _ _ | .thermalTrip _ _ _ _ | .inletSensorRead _ _
  | .msixPendingSend _ _ _ _ | .mctpMessage _ _ | .setEndpointId _ _ | .getEndpointId _ | .getEndpointUuid _ | .getMctpVersionSupport _ _
  | .getMessageTypeSupport _ | .getVendorDefinedMessageSupport _ _ | .getTid _ | .setTid _ _ | .getPldmVersion _ _ | .getPldmTypes _
  | .getPldmCommands _ _ | .getPdrRepositoryInfo _ | .getPdr _ _ | .setEventReceiver _ _ | .getSensorReading _ _
  | .getStateSensorReadings _ _ | .pldmSensorRefresh _ | .requestUpdate _ _ _ _ | .passComponentTable _ _ _ _
  | .requestFirmwareData _ _ _ _ _ | .activateFirmware _ _ _ | .updateAgentTimeout _ | .getIdentity _ _ | .getCert _ _ _ _
  | .getReport _ _ _ _ _ | .getXmss _ _ | .telemSnap _ | .laserModuleReady _ _ | .refclkReturn _ | .completionTimeout _ _ _
  | .activeBankVerified _ _ | .debugOpen _ _ | .tapInstruction _ | .powerLimitWindow _ _ _ => false
  | _ => true

/-- What a write of `val` at offset `off` leaves in a field: an RW field, or an RWL one whose block is not locked, takes the nearest value in its
range (R723), a W1C field loses the bits written as 1, a W1S field gains them, and every other field keeps its value (R7). -/
def writtenField (s u : State) (r : RegSpec) (off : Nat) (val : Word) (x : FSpec) : Nat :=
  let f := x.fld.on off
  let v := bits val.toNat f.lo f.wid
  match x.acc with
  | .rw => inRange u r off x v % 2 ^ f.wid
  | .rwl => if lockedAt s r off then s.get f else inRange u r off x v % 2 ^ f.wid
  | .w1c => Nat.xor (s.get f) (Nat.land (s.get f) v) % 2 ^ f.wid
  | .w1s => Nat.lor (s.get f) v % 2 ^ f.wid
  | .ro | .wo => s.get f

/-! ### Descriptors -/

/-- The state in which a descriptor's row starts its work: its time has come, and the engine it runs on has power (R655). -/
def startState (s : State) (d : Desc) (unit : Nat) : State := ungate (s.upto d.t) unit

/-- A job that has just started on a unit. -/
def started (j : Job) (unit : Nat) : Job := { j with st := .running, unit := unit }

/-- The state after a descriptor's row: the requests it has sent are the descriptor's own (R241). -/
def rowEnd (s : State) (j : Job) (t : State) : State := ownReqs t s.fab.outReqs.length j

/-- Job `j` is the descriptor `d` of opcode `op`: it is fetched and queued, nothing keeps it from starting on the unit (R114, R115, R235 to
R238), and the unit has its clock (R638). -/
def Ready (s : State) (d : Desc) (op unit : Nat) (j : Job) : Prop :=
  findJob s d.ring.val d.idx.val = some j ∧ j.words = d.words ∧ descOp d.words = op ∧ j.st = .queued ∧
  mayStart (s.upto d.t) j unit = true ∧ unitReady s op unit = true

/-- Job `j` is the descriptor `d` of opcode `op`, has begun, and may go on: its unit holds no stalled work of its context, and has its clock. -/
def Going (s : State) (d : Desc) (op unit : Nat) (j : Job) : Prop :=
  findJob s d.ring.val d.idx.val = some j ∧ j.words = d.words ∧ descOp d.words = op ∧ (j.st = .running ∨ j.st = .waiting) ∧
  stalledAt (s.upto d.t) unit (ringCtx j.ring) = false ∧ unitReady s op unit = true

/-- The code a job ends with: RESTARTED in place of OK after a substitute engine has run it again (R390, R433, R467). -/
def endCode (j : Job) (c : Code) : Code := if c = .ok ∧ j.replayed then .restarted else c

/-- Job `j` is the descriptor `d` of opcode `op` of an engine family: it may start, on the engine that its operands choose, and its family is enabled. -/
def EngineReady (s : State) (d : Desc) (op unit : Nat) (j : Job) (unitOf : State → Job → Nat) (en : Fld) : Prop :=
  Ready s d op unit j ∧ j.phase = 0 ∧ unitOf (s.upto d.t) j = unit ∧ s.flag en = true

/-- The job of an engine as its inputs have been named (R296), and the state. -/
def engineBegun (s : State) (d : Desc) (unit : Nat) (j : Job) (ins : List Range) : Job × State :=
  startJob (startState s d unit) (started j unit) (unit % 4) ins

/-- A block descriptor on one key has passed the orders of R443 on its space `sp` and its group's ledger entry `l`, and its look-up has given `hit`, with `t` the state
after it: the entry with its key that is in use, and belongs to its group; or none, its index page being absent or no entry holding the key. -/
def KeyFound (s : State) (d : Desc) (unit : Nat) (j : Job) (sp : Space) (l : Option Ledger) (hit : Option (Nat × BlkEnt)) (t : State) : Prop :=
  let s0 := startState s d unit
  let key := dbits d.words 24 0 128
  blkOrders s0 (started j unit) = .go sp l ∧
  ((pageThere s0 sp (sp.indexVa + bucketOf sp key * 256) = false ∧ hit = none ∧ t = s0) ∨
   (pageThere s0 sp (sp.indexVa + bucketOf sp key * 256) = true ∧ prepareAs s0 (started j unit) sp.ctx unit (probeRanges sp key) = (true, t) ∧
    (∀ r ∈ probeRanges sp key, poisonVa t sp.ctx r.va r.len = false) ∧ lookUp t sp key = hit ∧
    ∀ x, hit = some x → x.2.group = dbits d.words 40 0 64))

/-- Job `d` has ended with a code. -/
def Ends (t : State) (d : Desc) (c : Code) : Prop :=
  ∃ j, findJob t d.ring.val d.idx.val = some j ∧ j.st = .finished ∧ j.code = c

/-! ### Rest -/

/-- Nothing waits that a command could set going: no request is in flight, no write-back open, no partner barred, and no partner holds a line. -/
def Quiet (s : State) : Prop :=
  s.fab.flights = [] ∧ s.cache.wbs = [] ∧ s.comp.lapsed = [] ∧ s.comp.fenced = [] ∧ s.dir.ents = [] ∧ s.dir.txns = []

/-! ### Bundles -/

/-- The bundle of a slot issues in the slot's cycle, and lies in the stream: `s1` and `k` are the state and the kernel that its slots find (R309, R327, R328). -/
def Issues (s : State) (i : Issue) (s1 : State) (k : Kern) : Prop :=
  (∃ k0 : Kern, activeKern (s.upto (i.cyc * 5 / 6)) = some k0 ∧ openBundle (s.upto (i.cyc * 5 / 6)) k0 i = .go s1 k) ∧ i.bundle < k.frame.bundles

/-- The flags of a tile (R275). -/
def tileFlags (g : Nat) : List Fld :=
  [F.TP_T_FLAGS_INVALID g, F.TP_T_FLAGS_OVERFLOW g, F.TP_T_FLAGS_SATURATED g, F.TP_T_FLAGS_INT_WRAP g, F.TP_T_FLAGS_NAN_SCALE g,
   F.TP_T_FLAGS_BANK_ERR g]

/-- A sector sub-slot takes effect: every tile that it names takes the operation and holds the units that the operation needs, and takes its flags;
nothing else changes. -/
def SlotTakes (x : Slot) (s1 : State) (k : Kern) (need : Needs) (eff : Tile → Tile × TFlags) (u : State) : Prop :=
  (∀ g, (slotTiles k x).count g = 1 → tile u g = (eff (tile s1 g)).1.hold x.iss.cyc need ∧
    ∀ f ∈ tileFlags g, u.get f = (setTFlags s1 k g (eff (tile s1 g)).2).get f) ∧
  (∀ g, g ∉ slotTiles k x → tile u g = tile s1 g) ∧
  OnlyFields ((slotTiles k x).flatMap fun g => (tileFlags g).map Fld.key) { s1 with plane := { s1.plane with tiles := u.plane.tiles } } u

/-- No tile that a sub-slot names holds a unit that the operation needs (R325). -/
def UnitsFree (x : Slot) (s1 : State) (k : Kern) (need : Needs) : Prop := ∀ g ∈ slotTiles k x, occupied (tile s1 g) x.iss.cyc need = false

/-- Sum, difference, product and fused product of binary32 patterns: the exact value of a lane. -/
def laneExact (op a b c : Nat) : Fl :=
  let x := fmt32.value a
  let y := fmt32.value b
  match op with
  | 0x01 => x.add y
  | 0x02 => x.add y.neg
  | 0x03 => x.mul y
  | _ => (x.mul y).add (fmt32.value c)

/-- Does a lane of the four make a NaN of operands that are none (R275)? -/
def laneInvalid (op a b c : Nat) : Bool :=
  (laneExact op a b c).isNan && !(fmt32.value a).isNan && !(fmt32.value b).isNan && (op != 0x04 || !(fmt32.value c).isNan)

/-- The lane-wise vector operations that set no flag: opcode, command and the result of a lane (R259, R318). -/
def plainLanes : List (Nat × (Slot → Instr) × (Nat → Nat → Nat → Nat)) :=
  [(0x05, .vmin, fun a b _ => fmt32.minBits a b), (0x06, .vmax, fun a b _ => fmt32.maxBits a b),
   (0x07, .vselLt, fun a b c => if (fmt32.value a).lt (fmt32.value b) then c else a),
   (0x08, .vselEq, fun a b c => if (fmt32.value a).isNan ∨ (fmt32.value b).isNan ∨ (fmt32.value a).lt (fmt32.value b) ∨ (fmt32.value b).lt (fmt32.value a)
     then a else c),
   (0x18, .vpopc, fun a _ _ => popc a), (0x19, .vxor, fun a b _ => Nat.xor a b), (0x1A, .vand, fun a b _ => Nat.land a b),
   (0x1B, .vor, fun a b _ => Nat.lor a b), (0x1C, .vshl, fun a b _ => a * 2 ^ (b % 32) % 2 ^ 32), (0x1D, .vshr, fun a b _ => a / 2 ^ (b % 32)),
   (0x1E, .viadd, fun a b _ => (a + b) % 2 ^ 32), (0x1F, .visub, fun a b _ => (a + 2 ^ 32 - b) % 2 ^ 32)]

/-- The registers of a VEC sub-slot as their lanes: VA, VB and VC of lane `i`. -/
def laneOperand (t : Tile) (x : Slot) (lo i : Nat) : Nat := (vreg t (slotF x lo 5)).getD i 0

/-- The cycle in which a slot's command issues, where its opcode is the command's. -/
def slotIssue : Instr → Option Issue
  | .loopOpen w i => if bits w.toNat 0 6 = 1 then some i else none
  | .yieldPoint w i => if bits w.toNat 0 6 = 3 then some i else none
  | .bundleEnd w i => if bits w.toNat 0 6 = 4 then some i else none
  | .tload w i => if bits w.toNat 0 6 = 5 then some i else none
  | .startCopy _ w i => if bits w.toNat 0 4 = 1 then some i else none
  | .waitEv w i => if bits w.toNat 0 4 = 1 then some i else none
  | .spfence w i => if bits w.toNat 0 4 = 2 then some i else none
  | .acquire w i => if bits w.toNat 0 4 = 3 then some i else none
  | .flush w i => if bits w.toNat 0 4 = 4 then some i else none
  | .drain w i => if bits w.toNat 0 4 = 5 then some i else none
  | .mma x => if slotF x 0 4 = 1 then some x.iss else none
  | .ldsa x => if slotF x 0 4 = 2 then some x.iss else none
  | .ldsb x => if slotF x 0 4 = 3 then some x.iss else none
  | .accSt x => if slotF x 0 4 = 4 then some x.iss else none
  | .accLd x => if slotF x 0 4 = 5 then some x.iss else none
  | .vadd x => if slotF x 0 6 = 0x01 then some x.iss else none
  | .vsub x => if slotF x 0 6 = 0x02 then some x.iss else none
  | .vmul x => if slotF x 0 6 = 0x03 then some x.iss else none
  | .vfma x => if slotF x 0 6 = 0x04 then some x.iss else none
  | .vmin x => if slotF x 0 6 = 0x05 then some x.iss else none
  | .vmax x => if slotF x 0 6 = 0x06 then some x.iss else none
  | .vselLt x => if slotF x 0 6 = 0x07 then some x.iss else none
  | .vselEq x => if slotF x 0 6 = 0x08 then some x.iss else none
  | .vexp x => if slotF x 0 6 = 0x10 then some x.iss else none
  | .vexp2 x => if slotF x 0 6 = 0x11 then some x.iss else none
  | .vrcp x => if slotF x 0 6 = 0x12 then some x.iss else none
  | .vrsq x => if slotF x 0 6 = 0x13 then some x.iss else none
  | .vpopc x => if slotF x 0 6 = 0x18 then some x.iss else none
  | .vxor x => if slotF x 0 6 = 0x19 then some x.iss else none
  | .vand x => if slotF x 0 6 = 0x1A then some x.iss else none
  | .vor x => if slotF x 0 6 = 0x1B then some x.iss else none
  | .vshl x => if slotF x 0 6 = 0x1C then some x.iss else none
  | .vshr x => if slotF x 0 6 = 0x1D then some x.iss else none
  | .viadd x => if slotF x 0 6 = 0x1E then some x.iss else none
  | .visub x => if slotF x 0 6 = 0x1F then some x.iss else none
  | .cvti x => if slotF x 0 6 = 0x20 then some x.iss else none
  | .cvto x => if slotF x 0 6 = 0x21 then some x.iss else none
  | .rsum x => if slotF x 0 6 = 0x22 then some x.iss else none
  | .rmax x => if slotF x 0 6 = 0x23 then some x.iss else none
  | .amov x => if slotF x 0 6 = 0x28 then some x.iss else none
  | .awr x => if slotF x 0 6 = 0x29 then some x.iss else none
  | .vld x _ => if slotF x 0 2 = 1 then some x.iss else none
  | .vst x => if slotF x 0 2 = 1 then some x.iss else none
  | .auxAdd x => if slotF x 16 4 = 1 then some x.iss else none
  | .auxSet x => if slotF x 16 4 = 2 then some x.iss else none
  | _ => none

/-- The vector commands, whose sub-slot has reserved bits [47:41] (R318). -/
def vectorRows : List (Nat × (Slot → Instr)) :=
  [(0x01, .vadd), (0x02, .vsub), (0x03, .vmul), (0x04, .vfma), (0x05, .vmin), (0x06, .vmax), (0x07, .vselLt), (0x08, .vselEq),
   (0x10, .vexp), (0x11, .vexp2), (0x12, .vrcp), (0x13, .vrsq), (0x18, .vpopc), (0x19, .vxor), (0x1A, .vand), (0x1B, .vor), (0x1C, .vshl),
   (0x1D, .vshr), (0x1E, .viadd), (0x1F, .visub), (0x20, .cvti), (0x21, .cvto), (0x22, .rsum), (0x23, .rmax), (0x28, .amov), (0x29, .awr)]

/-! ### Requests -/

/-- The flight of a request as it arrives, and the state that holds it (R139). -/
def arrival (op : ROp) (r : Req) (s : State) : Flight × State :=
  let s := s.upto r.t
  let f : Flight := { op := op, req := r, num := s.fab.nextNum, stage := .tail, since := s.now }
  let s := { s with fab := { s.fab with flights := s.fab.flights ++ [f], nextNum := s.fab.nextNum + 1 } }
  (f, s.raiseTo (F.ANV_K_OUTSTANDING_PEAK r.port.val) (s.fab.flights.filter fun g => g.req.port = r.port).length)

/-- The state once a request that is alone in its lane has joined it (R507, R524). -/
def laneJoined (s : State) (f : Flight) : State :=
  let p := f.req.port.val
  let t := f.req.tenant.val
  let c := f.req.cls.val
  noteLane (headTag (putFlight (refreshTq s p t) { f with stage := .lane false false }) p t c) p t c

/-- Is a request of class 2 or 3 selected as it arrives (R521): it is alone in its lane, is not spilled, and its queue may be served? -/
def atOnce (s : State) (f : Flight) : Bool :=
  let p := f.req.port.val
  let t := f.req.tenant.val
  let c := f.req.cls.val
  let q := laneJoined s f
  !mustSpill (refreshTq s p t) f.req && (laneOf (refreshTq s p t) p t c).isEmpty && laneReady q p t c &&
    (hasReserve q p t || weightedOk q p t)

/-- A request that is selected as it arrives, and the state in which it goes on. -/
def picked (s : State) (f : Flight) : Flight × State :=
  let p := f.req.port.val
  let t := f.req.tenant.val
  let c := f.req.cls.val
  let q := laneJoined s f
  let step3 := hasReserve q p t
  let g := { f with stage := .order, step3 := step3, picked := true }
  let s := putFlight (chargeTq q f step3) g
  (g, if (laneOf s p t c).isEmpty then s else headTag s p t c)

/-- The state in which a translated request meets its source's order and the Anvil. -/
def translated (s : State) (f : Flight) (pa k : Nat) : State :=
  putFlight (tlbLook (segLook s f.req.port.val f.req.ctx.val k) f.req.port.val (pa / 65536)) f

/-- The state in which a request that neither joins nor opens a combining entry reaches its home slice (R150). -/
def homeward (s : State) (f : Flight) (pa : Nat) : State :=
  if f.op.atomic && !f.op.flag && !cxlPort s f.req.port.val && s.flag F.ANV_CTRL_AT_EN then
    (renewHot s (pa / 64)).bump (F.ANV_K_AT_COMB_DISPATCHED f.req.port.val)
  else s

/-- Does a request that has been translated go to its home by itself: its tail is known, nothing of its source or of its flag stands before
it, and it takes part in no combining entry (R133, R135, R137, R145, R150, R515)? -/
def goesAlone (s : State) (f : Flight) (pa : Nat) : Bool :=
  !f.req.cut && !orderBlocked s f && (!f.op.flag || (!flagBlocked s f && (flagBar s f).isNone)) &&
    (f.op.flag || cxlPort s f.req.port.val ||
      ((!(f.op == .rd || f.op == .rdShared) || !s.flag F.ANV_CTRL_RD_EN) &&
       (!f.op.atomic || !s.flag F.ANV_CTRL_AT_EN || ((s.fab.entries.find? (mayJoin s f pa)).isNone &&
          !(isHot s (pa / 64) && decide (s.fab.entries.length < 4096))))))

/-- The state in which a request is applied at its home: its lines have been looked up. -/
def homeState (s : State) (f : Flight) (pa : Nat) : State := (linesOf pa (reqSize f.req)).foldl dirLook (homeward s f pa)

/-- Does nothing stand in a request's way at its home: its page can be used and is its domain's, it consumes no reservation, its lines are not
busy, and no partner need be snooped (R88, R90, R175, R187)? -/
def homeOpen (s : State) (f : Flight) (pa : Nat) : Prop :=
  let h := homeward s f pa
  let q := homeState s f pa
  let ls := linesOf pa (reqSize f.req)
  locate h (pa / 65536) (opAccess f.op) = .ok ∧ domainOk h f.req.ctx.val (pa / 2097152) = true ∧
  (f.op.write && noRun h (pa / 65536)) = false ∧ consumeRsv q f ls = (f, q) ∧ ls.find? (fun l => lineBusy q f l) = none ∧
  ∀ l ∈ ls, match dirEnt q l with
    | some e => needSnoops q f l e = []
    | none => needsWay q f l = false

/-- A request meets nothing in its way: it arrives at a port that is UP under a free tag, passes the checks of R726, is selected as it arrives, is
translated to `pa`, goes to its home by itself, and is applied there at once in the state `q` as the flight `f`. -/
def Unhindered (s : State) (op : ROp) (r : Req) (pa : Nat) (f : Flight) (q : State) : Prop :=
  let a := arrival op r s
  let b := picked a.2 a.1
  ∃ k : Nat,
    let g := { b.1 with pool := some pa }
    let u := translated b.2 g pa k
    portUp s r.port.val = true ∧ flightOf (s.upto r.t) r.port.val r.tag.val = none ∧ headCheck a.2 op r = none ∧ 2 ≤ r.cls.val ∧
    atOnce a.2 a.1 = true ∧ r.ctx.val ≠ 0 ∧ translate b.2 r.ctx.val r.addr.toNat (reqSize r) (opRight op) = .here pa k ∧
    inWindow pa = false ∧ grantCheck (segLook b.2 r.port.val r.ctx.val k) g (pa / 2097152) = none ∧
    goesAlone u g pa = true ∧ homeOpen u g pa ∧
    f = { g with noData := op = .upgrade && match dirEnt (homeState u g pa) (pa / 64) with
      | some e => e.st = .shared && e.shr.contains (r.port.val, r.partner.val)
      | none => false } ∧
    q = putFlight (homeState u g pa) f

/-- The requests of a partner, with the operation that each makes (R124, R128, R169). -/
def requestRows : List (ROp × (Req → Instr)) :=
  [(.rd, .rd), (.rdShared, .rdShared), (.rdOwn, .rdOwn), (.wr, .wr), (.wrLine, .wrLine), (.wrFlag, .wrFlag), (.fadd, .atomAdd),
   (.fand, .atomAnd), (.fior, .atomOr), (.fxor, .atomXor), (.swap, .atomSwap), (.cas, .atomCas), (.minS, .atomMinS), (.maxS, .atomMaxS),
   (.minU, .atomMinU), (.maxU, .atomMaxU), (.faddF, .atomAddF), (.fminF, .atomMinF), (.fmaxF, .atomMaxF), (.upgrade, .upgrade),
   (.publish, .publish)]

/-- The bytes of a line-aligned range that nothing spoils: its page lies whole in the near tier, and no line of it is lost or poisoned. -/
def NearAndSound (s : State) (pa n : Nat) : Prop :=
  (∃ e : Page, s.page? (pa / 2097152) = some e ∧ e.split = none ∧ ∃ fr : Nat, e.loc = .near fr) ∧
  pa / 2097152 = (pa + n - 1) / 2097152 ∧ 0 < n ∧
  ∀ l ∈ linesOf pa n, s.dir.lost.contains l = false ∧ s.store.poison.contains l = false

end Sys2Proof.Machine
end

