-- ==== Sys2Proof/Certificates/Slice0/Obligations.lean ====
section
/-! DEFINITION. The statements about the block. -/

open Sys2Proof Sys2Proof.Machine

/-- The command at the front of the queue runs on the state with the rest of the queue. With no command waiting, SYS_TIME moves on by one
nanosecond while the device has its supply, and nothing else changes. That one step is one nanosecond is the model's choice (assumption 2);
R629 says that SYS_TIME counts nanoseconds. -/
def Obligations.StepRunsFrontOrTicks : Prop :=
  (∀ (s : State) (c : Instr) (rest : List Instr), step { s with pending := c :: rest } = exec c { s with pending := rest }) ∧
  (∀ s : State, s.pending = [] →
     (s.clk.off = false → step s = .next { s with now := s.now + 1 }) ∧ (s.clk.off = true → step s = .next s))

/-- Every command, in every state, answers a next state: no command ends in a fault or a refusal. It leaves the queue of waiting commands
alone, and a command that stores nothing (`storesPool`) leaves every byte of the pool as it was. -/
def Obligations.CommandsAnswerAndKeepQueue : Prop :=
  ∀ (c : Instr) (s : State), Gives c s fun t =>
    t.pending = s.pending ∧ (storesPool c = false → ∀ a : Nat, t.byte a = s.byte a)

/-- After reset every register field holds its reset value, no pool page is allocated (R37), context 0 is valid in domain 0, context 1 is
valid in domain 0 with PRIV set, and every other context is invalid (R82). -/
def Obligations.ResetState : Prop :=  (∀ f : Fld, State.reset.get f = f.reset) ∧ (∀ p : Nat, State.reset.page? p = none) ∧
  (∀ c : Nat, ctxValid State.reset c = decide (c < 2)) ∧
  ctxDomain State.reset 0 = 0 ∧ ctxDomain State.reset 1 = 0 ∧
  (tabGet {} 0 State.reset.xlt.ctxs).priv = false ∧ (tabGet {} 1 State.reset.xlt.ctxs).priv = true ∧
  State.reset.pending = [] ∧ MemOk State.reset

/-- Every step keeps the pool's memory in canonical form: addresses strictly rising, and no byte listed that reads as an unlisted one. -/
def Obligations.StepKeepsMemory : Prop := ∀ s t : State, MemOk s → step s = .next t → MemOk t

/-- A write of a register that gives no command sets each field of it as its access type allows, the bounds of a range being those after the
write, and changes nothing else: no field of another register, nothing beside the registers. A write of XLT_FQ_PTRS changes nothing (R700).
A CP register takes a write whose upper half is the ones' complement of its lower half, and no other register changes; any other write
leaves it, counts in SEC_CPAIR_ERRORS and posts a fault record of kind 0x07. -/
def Obligations.RegisterWritesSetFields : Prop :=
  (∀ (s : State) (off : Fin 0x80000) (val : Word) (t : Nat) (r : RegSpec),
     PortOpen s → off.val % 8 = 0 → regAt off.val = some r → r.base ∉ commandRegs →
     Gives (.registerWrite off val t) s fun u =>
       (∀ x ∈ r.fields, u.get (x.fld.on off.val) = writtenField s u r off.val val x) ∧
       (∀ f : Fld, f.key / 64 ≠ off.val → u.get f = s.get f) ∧
       SameButFields (answeredState (s.upto t)) u) ∧
  (∀ (s : State) (off : Fin 0x80000) (val : Word) (t : Nat), PortOpen s → off.val = F.XLT_FQ_PTRS →
     exec (.registerWrite off val t) s = .next (answeredState (s.upto t))) ∧
  (∀ (s : State) (i : Fin 65536) (val : Word) (t : Nat), PortOpen s →
     (val.toNat / 2 ^ 32 = onesComp 32 (val.toNat % 2 ^ 32) →
       Gives (.cpRegisterWrite i val t) s fun u =>
         tabGet 0 (8 * i.val) u.cpRegs = val.toNat % 2 ^ 32 ∧
         (∀ k : Nat, k ≠ 8 * i.val → tabGet 0 k u.cpRegs = tabGet 0 k s.cpRegs) ∧
         { u with cpRegs := s.cpRegs } = answeredState (s.upto t)) ∧
     (val.toNat / 2 ^ 32 ≠ onesComp 32 (val.toNat % 2 ^ 32) →
       Gives (.cpRegisterWrite i val t) s fun u =>
         u.cpRegs = s.cpRegs ∧
         u.get F.SEC_CPAIR_ERRORS_COUNT = (s.get F.SEC_CPAIR_ERRORS_COUNT + 1) % 2 ^ F.SEC_CPAIR_ERRORS_COUNT.wid ∧
         ∃ r : FaultRec, r.kind = 7 ∧ r.source = 0x90 ∧
           (u.xlt.queue = s.xlt.queue ++ [r] ∨ u.xlt.late = s.xlt.late ++ [.record r])))

/-- Partial accesses are counted and change nothing else, and a read gives zero; so are accesses at unmapped offsets, and register writes at
an offset that is not aligned or at no register. With no supply, or after a tamper response or in SCRAPPED, a write over the management port
changes nothing but SYS_TIME and the note that the device has answered; in DEEP_IDLE with WAKE_ON_PCIE 0 a write that the always-on domain
does not serve changes nothing. In DEEP_IDLE with WAKE_ON_PCIE 0 an access to a register outside the always-on domain does not wake the
device: a read gives all ones, and a write is ignored. -/
def Obligations.AccessesTurnedAway : Prop :=
  (∀ (s : State) (off : Fin 0x80000) (val : Word) (t : Nat), PortOpen s →
     exec (.partialRegisterAccess off true) s = .next ((answeredState s).bump F.MGT_PARTIAL_ACCESS_COUNT) ∧
     exec (.partialRegisterAccess off false) s = .next (((answeredState s).bump F.MGT_PARTIAL_ACCESS_COUNT).emit (.mmio 0)) ∧
     exec (.unmappedAccess off true) s = .next ((answeredState s).bump F.MGT_PARTIAL_ACCESS_UNMAPPED) ∧
     exec (.unmappedAccess off false) s = .next (((answeredState s).bump F.MGT_PARTIAL_ACCESS_UNMAPPED).emit (.mmio 0)) ∧
     (off.val % 8 ≠ 0 → exec (.registerWrite off val t) s = .next ((answeredState (s.upto t)).bump F.MGT_PARTIAL_ACCESS_COUNT)) ∧
     (off.val % 8 = 0 → regAt off.val = none →
       exec (.registerWrite off val t) s = .next ((answeredState (s.upto t)).bump F.MGT_PARTIAL_ACCESS_UNMAPPED))) ∧
  (∀ (s : State) (c : Instr), portWrite c = true →
     (s.clk.off = true → Gives c s (OnlyTime s)) ∧
     (s.clk.off = false → s.get F.PWR_STATUS_STATE ≠ 2 → takesWrites s = false → Gives c s (OnlyTime (answeredState s))) ∧
     (s.clk.off = false → deepNoWake s = true →
       (match c with
         | .registerWrite off _ _ | .partialRegisterAccess off _ | .unmappedAccess off _ => deepServed off.val
         | .cpRegisterWrite i _ _ => deepServed (8 * i.val)
         | .enterDeep _ | .telemSnap _ => true
         | _ => false) = false →
       Gives c s (OnlyTime s))) ∧
  (∀ (s : State) (a : MgmtAccess) (t : Nat), s.clk.off = false → deepNoWake s = true → (a.bar == 0 && deepServed a.off.toNat) = false →
     (∀ v : Word, a.val = some v → exec (.deepIdleMgmtAccess a t) s = .next (s.upto t)) ∧
     (a.val = none → exec (.deepIdleMgmtAccess a t) s = .next ((s.upto t).emit (.mmio (2 ^ 64 - 1)))))

/-- Writing a CLEAR or CLR_COUNTS bit makes the counters it names zero, and changes no other field. SNAP copies the counters of every domain
into the snapshot, at the present SYS_TIME (R716). -/
def Obligations.CounterClearsAndSnapshot : Prop :=
  (∀ s : State, PortOpen s →
     (∀ d : Fin 32, Gives (.ddrClrCounts d) s fun u =>
       u.get (F.DDR_D_ECC_CORRECTED d) = 0 ∧ u.get (F.DDR_D_ECC_UNCORRECTED d) = 0 ∧
       OnlyFields [(F.DDR_D_ECC_CORRECTED d).key, (F.DDR_D_ECC_UNCORRECTED d).key] (answeredState s) u) ∧
     (∀ m : Fin 8, Gives (.hbmClrCounts m) s fun u =>
       u.get (F.HBM_H_ECC_CORRECTED m) = 0 ∧ u.get (F.HBM_H_ECC_UNCORRECTED m) = 0 ∧
       OnlyFields [(F.HBM_H_ECC_CORRECTED m).key, (F.HBM_H_ECC_UNCORRECTED m).key] (answeredState s) u) ∧
     (∀ n : Fin 4, Gives (.touchMaxClear n) s fun u =>
       u.get (F.TIER_S_TOUCH_MAX_MAX_NS n) = 0 ∧ OnlyFields [(F.TIER_S_TOUCH_MAX_MAX_NS n).key] (answeredState s) u) ∧
     (∀ p : Fin 6, Gives (.anvFlagClear p) s fun u =>
       u.get (F.ANV_K_FLAG_MAX_NS p) = 0 ∧ u.get (F.ANV_K_FLAG_FAILED p) = 0 ∧
       OnlyFields [(F.ANV_K_FLAG_MAX_NS p).key, (F.ANV_K_FLAG_FAILED p).key] (answeredState s) u) ∧
     (∀ g : Fin 64, Gives (.tileConflictClear g) s fun u =>
       let fs := [F.TP_T_CONFLICT0_MA g, F.TP_T_CONFLICT0_MB g, F.TP_T_CONFLICT0_ACC g, F.TP_T_CONFLICT0_VLD g, F.TP_T_CONFLICT1_VST g,
         F.TP_T_CONFLICT1_CPY g, F.TP_T_CONFLICT1_SAVE g]
       (∀ f ∈ fs, u.get f = 0) ∧ OnlyFields (fs.map Fld.key) (answeredState s) u)) ∧
  (∀ (s : State) (t : Nat), PortOpen s →
     Gives (.telemSnap t) s fun u =>
       u.mgmt.snap = s.mgmt.telem ∧ u.mgmt.telem = s.mgmt.telem ∧
       u.get F.MGT_TELEM_TIME_TIME = (max s.now t) % 2 ^ F.MGT_TELEM_TIME_TIME.wid ∧
       (∀ f : Fld, f.key ≠ F.MGT_TELEM_TIME_TIME.key → u.get f = s.get f))

/-- RETIRE takes a SERVING or HAZY channel to DRAINING, and otherwise only sets its bit; RETURN takes a RETIRED channel whose module is
present to IDENT with RETIRE clear, clears RETIRE of a channel that has not come into service, and otherwise changes nothing (R72). The way
of a module into service (R71, R72): a module inserted into a powered empty slot is identified; one whose SPD is accepted is trained at the
lower of its rating and 8,800 MT/s; training that passes within 900 ms serves, and the third attempt that fails makes the channel FAILED; a
channel that is DRAINING and holds no granule is RETIRED. A channel in service that stops responding, or meets an error beyond its ECC, is
FAILED with its reason (R72, R74). A stack that is 16 high and reports 48 GiB is identified; any other is FAILED with its reason, and its
capacity is not used (R70). -/
def Obligations.ChannelsAndStacksServe : Prop :=
  (∀ (s : State) (d : Fin 32), PortOpen s →
     (channelState s d = 3 ∨ channelState s d = 4 →
       Gives (.ddrRetire d) s fun u => channelState u d = 5 ∧ u.flag (F.DDR_D_CTRL_RETIRE d) = true ∧ u.store = s.store) ∧
     (channelState s d ≠ 3 → channelState s d ≠ 4 →
       Gives (.ddrRetire d) s fun u =>
         u.flag (F.DDR_D_CTRL_RETIRE d) = true ∧ OnlyFields [(F.DDR_D_CTRL_RETIRE d).key] (answeredState s) u) ∧
     (channelState s d = 6 → s.flag (F.DDR_D_STATUS_PRESENT d) = true →
       Gives (.ddrReturn d) s fun u =>
         channelState u d = 1 ∧ u.flag (F.DDR_D_CTRL_RETIRE d) = false ∧
         OnlyFields [(F.DDR_D_CTRL_RETIRE d).key, (F.DDR_D_STATUS_STATE d).key] (answeredState s) u) ∧
     (channelState s d < 3 →
       Gives (.ddrReturn d) s fun u =>
         u.flag (F.DDR_D_CTRL_RETIRE d) = false ∧ OnlyFields [(F.DDR_D_CTRL_RETIRE d).key] (answeredState s) u) ∧
     (3 ≤ channelState s d → (channelState s d ≠ 6 ∨ s.flag (F.DDR_D_STATUS_PRESENT d) = false) →
       exec (.ddrReturn d) s = .next (answeredState s))) ∧
  (∀ (s : State) (d : Fin 32),
     (channelState s d = 0 → slotPowered s d = true →
       Gives (.dimmInsert d) s fun u =>
         channelState u d = 1 ∧ u.flag (F.DDR_D_STATUS_PRESENT d) = true ∧
         OnlyFields [(F.DDR_D_STATUS_STATE d).key, (F.DDR_D_STATUS_PRESENT d).key, (F.DDR_D_STATUS_PWR_GOOD d).key] s u) ∧
     (channelState s d ≠ 0 → exec (.dimmInsert d) s = .next s) ∧
     (channelState s d = 6 ∨ channelState s d = 7 → slotPowered s d = false →
       Gives (.dimmRemove d) s fun u => channelState u d = 0 ∧ u.flag (F.DDR_D_STATUS_PRESENT d) = false ∧ u.store = s.store) ∧
     (∀ x : Spd, channelState s d = 1 → chipClock s = true → x.readable = true → x.mrdimm = true → x.gib = 256 ∨ x.gib = 512 →
       6400 ≤ x.mts →
       Gives (.spdReadComplete d x) s fun u =>
         channelState u d = 2 ∧ u.get (F.DDR_D_STATUS_SPEED d) = min x.mts 8800 / 100 ∧
         u.get (F.DDR_D_STATUS_CAPACITY_GIB d) = x.gib ∧ u.get (F.DDR_D_TRAIN_ATTEMPTS d) = 0 ∧
         u.get (F.DDR_D_SPD_MFR_ID d) = x.mfr.toNat ∧ u.get (F.DDR_D_SPD_SERIAL d) = x.serial.toNat ∧ u.store = s.store) ∧
     (∀ x : Spd, channelState s d = 1 → chipClock s = true →
       (x.readable = false ∨ x.mrdimm = false ∨ (x.gib ≠ 256 ∧ x.gib ≠ 512) ∨ x.mts < 6400) →
       Gives (.spdReadComplete d x) s fun u => channelState u d = 7 ∧ u.store = s.store) ∧
     (∀ ms : Fin 65536, channelState s d = 2 → chipClock s = true → s.flag F.CLK_STATUS_COASTING = false →
       (ms.val ≤ 900 → Gives (.channelTrainingDone d true ms) s fun u => channelState u d = 3) ∧
       (2 ≤ s.get (F.DDR_D_TRAIN_ATTEMPTS d) → s.get (F.DDR_D_TRAIN_ATTEMPTS d) < 3 →
         Gives (.channelTrainingDone d false ms) s fun u => channelState u d = 7 ∧ u.get (F.DDR_D_STATUS_REASON d) = 5) ∧
       (s.get (F.DDR_D_TRAIN_ATTEMPTS d) < 2 →
         Gives (.channelTrainingDone d false ms) s fun u =>
           channelState u d = 2 ∧ u.get (F.DDR_D_TRAIN_ATTEMPTS d) = s.get (F.DDR_D_TRAIN_ATTEMPTS d) + 1)) ∧
     (channelState s d = 5 → channelGranules s d = [] →
       Gives (.channelDrained d) s fun u => channelState u d = 6 ∧ OnlyFields [(F.DDR_D_STATUS_STATE d).key] s u)) ∧
  (∀ (s : State) (d : Fin 32) (beyond : Bool) (t : Nat),
     channelState s d = 3 ∨ channelState s d = 4 ∨ channelState s d = 5 →
     Gives (.channelFail d beyond t) s fun u => channelState u d = 7 ∧ u.get (F.DDR_D_STATUS_REASON d) = if beyond then 6 else 7) ∧
  (∀ (s : State) (m : Fin 8) (id : StackId), s.get (F.HBM_H_STATUS_STATE m) ≤ 1 → chipClock s = true →
     (id.readable = true → id.height = 16 → id.gib = 48 →
       Gives (.stackIdent m id) s fun u =>
         u.get (F.HBM_H_STATUS_STATE m) = 2 ∧ u.flag (F.HBM_H_STATUS_IDENT_OK m) = true ∧
         u.get (F.HBM_H_IDENT_VENDOR m) = id.vendor.toNat ∧ u.get (F.HBM_H_IDENT_SERIAL m) = id.serial.toNat ∧ u.store = s.store) ∧
     (id.readable = false ∨ id.height ≠ 16 ∨ id.gib ≠ 48 →
       Gives (.stackIdent m id) s fun u =>
         u.get (F.HBM_H_STATUS_STATE m) = 5 ∧
         u.get (F.HBM_H_STATUS_REASON m) = (if id.readable then (if id.height ≠ 16 then 1 else 2) else 4) ∧ u.store = s.store))

/-- A stack or channel whose median has stayed above RATIO/16 of its peers' for the window becomes Hazy; one that has stayed at or below
EXIT_RATIO/16 for EXIT_MS leaves Haze (R76). The clauses give the last millisecond of each. A decay epoch halves every access counter of the
sector, rounding down, and changes nothing else of a page (R52). When free near frames are below LOW, every tensor that the migration unit
plans to demote is of heat at most COLD and has no page with PIN_NEAR (R54). Drizzle reads one frame more of its tier; a corrected error,
and an uncorrectable one of a near frame, count for their stack or channel, whose counters saturate. -/
def Obligations.TierPolicyTimers : Prop :=
  (∀ (s : State) (stack : Bool) (d : Fin 32) (median peers t : Nat),
     let u := if stack then d.val % 8 else d.val
     let n := if stack then u / 2 else u / 8
     let k := if stack then u else 8 + u
     let fld := if stack then F.HBM_H_STATUS_STATE u else F.DDR_D_STATUS_STATE u
     let run : HazeRun := tabGet {} k s.store.haze
     (s.get fld = 3 → run.hazy = false → s.get (F.TIER_S_HAZE_CFG_RATIO n) * peers < median * 16 →
       s.get (F.TIER_S_HAZE_CFG_WINDOW_MS n) ≤ run.above + 1 →
       Gives (.storeHazeCheck stack d median peers t) s fun v => v.get fld = 4) ∧
     (s.get fld = 4 → run.hazy = true → median * 16 ≤ s.get (F.TIER_S_HAZE_CFG_EXIT_RATIO n) * peers →
       s.get (F.TIER_S_HAZE_CFG_EXIT_MS n) ≤ run.below + 1 →
       Gives (.storeHazeCheck stack d median peers t) s fun v => v.get fld = 3) ∧
     (s.get fld = 3 → run.hazy = false → median * 16 ≤ s.get (F.TIER_S_HAZE_CFG_RATIO n) * peers →
       0 < s.get (F.TIER_S_HAZE_CFG_WINDOW_MS n) →
       Gives (.storeHazeCheck stack d median peers t) s fun v => v.get fld = 3 ∧ (tabGet {} k v.store.haze).above = 0)) ∧
  (∀ (s : State) (n : Fin 4) (t : Nat),
     Gives (.decayEpoch n t) s fun u =>
       u.store.pages = s.store.pages.map (fun e => if homeOf s e.1 = n.val then (e.1, { e.2 with count := e.2.count / 2 }) else e) ∧
       u.store.mem = s.store.mem ∧ u.dir = s.dir ∧ u.fab = s.fab) ∧
  (∀ (s : State) (n : Fin 4) (t : Nat), migRests s n = false → freeNear s n < s.get (F.TIER_S_NEAR_WATER_LOW n) →
     Gives (.nearLowDemotion n t) s fun u =>
       (∀ m ∈ u.store.moves, m ∈ s.store.moves ∨ (m.toNear = false ∧
         heat (tensorOf s m.first) ≤ s.get (F.TIER_S_THRESHOLDS_COLD n) ∧ ∀ e ∈ tensorOf s m.first, e.2.pinNear = false)) ∧
       u.store.pages = s.store.pages ∧ u.regs = s.regs) ∧
  (∀ (s : State) (n : Fin 4) (place t : Nat), s.flag (F.TIER_S_CTRL_DRIZZLE_EN n) = true →
     let m := 2 * n.val + place / 32768 % 2
     let d := 8 * n.val + place / 2 ^ 27 % 8
     (∀ far : Bool, exec (.drizzleRead n far place .clean t) s = .next (drizzleStep (s.upto t) n far)) ∧
     (∀ row : Nat, Gives (.drizzleRead n false place (.corrected row) t) s fun u =>
       u.get (F.HBM_H_ECC_CORRECTED m) = min (s.get (F.HBM_H_ECC_CORRECTED m) + 1) (2 ^ (F.HBM_H_ECC_CORRECTED m).wid - 1) ∧
       u.store.mem = s.store.mem) ∧
     (∀ dev : Nat, Gives (.drizzleRead n true place (.corrected dev) t) s fun u =>
       u.get (F.DDR_D_ECC_CORRECTED d) = min (s.get (F.DDR_D_ECC_CORRECTED d) + 1) (2 ^ (F.DDR_D_ECC_CORRECTED d).wid - 1) ∧
       u.store.mem = s.store.mem) ∧
     (∀ row : Nat, Gives (.drizzleRead n false place (.uncorrectable row) t) s fun u =>
       u.get (F.HBM_H_ECC_UNCORRECTED m) = min (s.get (F.HBM_H_ECC_UNCORRECTED m) + 1) (2 ^ (F.HBM_H_ECC_UNCORRECTED m).wid - 1)))

/-- The granule of a promotion under way that is being copied arrives: it counts as arrived, its poison stays with its lines, the first
granule that has not arrived is copied next, and the page stays MIGRATING while others are still to come (R58); then what waited for it goes
on (R59). A request that has waited for a granule for more than 2 µs becomes a page fault for a migrating page, DETAIL holding the index of
its transfer record (R59). The sector cache evicts a dirty line of a compressed far granule: the line is dirty no more, and its granule lies
in a run of frames of the device's choice (R62). A line that is not dirty changes nothing. -/
def Obligations.GranulesMove : Prop :=
  (∀ (s : State) (p : Fin 67108864) (t : Nat) (e : Page) (x : Xfer) (g : Nat),
     s.page? p = some e → e.split = none → e.loc = .migrating x → x.kind = .promote → x.copying = some g → g ∉ x.arrived →
     x.arrived.length < 31 →
     let s1 := spreadPoison (s.upto t) p g (x.granules.getD g {})
     let y := { x with granules := listSet x.granules g (x.granules.getD g {}), arrived := setAdd g x.arrived,
                       copying := nextGranule (setAdd g x.arrived) }
     exec (.granuleCopyDone p t) s = .next (wakeMigrating (sweepMoves (s1.putPage p { e with loc := .migrating y })) p)) ∧
  (∀ (s : State) (p : Fin 6) (g : Fin 8192) (t : Nat) (f : Flight) (pa : Nat) (e : Page) (x : Xfer),
     flightOf s p.val g.val = some f → f.pool = some pa → f.stage = .migrating → f.since + 2000 < max s.now t →
     s.page? (pa / 2097152) = some e → e.loc = .migrating x →
     exec (.migratingWaitTimeout p g t) s = .next
       (pageFault (putFlight (s.upto t) { f with stage := .fault, since := max s.now t }) (pa / 2097152) 2 x.index pa true
         (0x1C + homeOf s (pa / 2097152))
         { task := .flight p.val g.val, ctx := f.req.ctx.val, seg := 16, unit := p.val, since := max s.now t })) ∧
  (∀ (s : State) (line : Fin (2 ^ 41)) (t : Nat),
     (s.store.dirty.contains line.val = false → exec (.dirtyLineEviction line t) s = .next (s.upto t)) ∧
     (∀ e : Page, s.store.dirty.contains line.val = true → s.page? (line.val / 32768) = some e →
       granuleNear e (line.val / 1024 % 32) = false → (granuleOf e (line.val / 1024 % 32)).frames < 16 →
       (placeGranule (granuleFrames (s.upto t) e).2 (homeOf s (line.val / 32768)) (line.val / 32768) (line.val / 1024 % 32)
         (granuleFrames (s.upto t) e).1).1.isSome = true →
       Gives (.dirtyLineEviction line t) s fun u => u.store.dirty = setDel line.val s.store.dirty ∧ u.store.mem = s.store.mem))

/-- TIER_ALLOC of a range of one page that passes the checks of R40: the page is allocated to the descriptor's domain with content zero, far
with zero granules unless it is pinned near (R41), every byte of another page is as it was, and the descriptor ends with OK. A tier
descriptor that fails a check of R40 ends with that check's code and changes no page and no byte; TIER_FREE that passes them first
invalidates its range (R43); TIER_HINT replaces the hints of its pages; TIER_SPLIT splits or joins pages none of which is on the move. -/
def Obligations.TierDescriptorsRun : Prop :=
  (∀ (s : State) (d : Desc) (j : Job),
     let b := tierBody d.words
     let p := b.base / 2097152
     Ready s d 0x40 (tierUnit s d.words) j → j.phase = 0 → b.count = 1 → b.pinNear = false →
     tierCheck (startState s d (tierUnit s d.words)) 0x40 (ctxDomain s (ringCtx d.ring.val)) b (tierPages b) = none →
     Gives (.tierAlloc d) s fun u =>
       (∃ e : Page, u.page? p = some e ∧ e.domain = ctxDomain s (ringCtx d.ring.val) ∧ e.loc = .far zeroFar) ∧
       (∀ a : Nat, a / 2097152 = p → u.byte a = 0) ∧
       (∀ a : Nat, a / 2097152 ≠ p → u.byte a = s.byte a) ∧
       Ends u d (endCode j .ok)) ∧
  (∀ (s : State) (d : Desc) (j : Job),
     let b := tierBody d.words
     let ps := tierPages b
     let u0 := tierUnit s d.words
     let s0 := startState s d u0
     let dom := ctxDomain s (ringCtx d.ring.val)
     let j1 := started j u0
     (∀ (c : Code) (op : Nat) (i : Instr), (op, i) ∈ [(0x40, Instr.tierAlloc d), (0x41, .tierFree d), (0x42, .tierHint d), (0x43, .tierSplit d)] →
       Ready s d op u0 j → j.phase = 0 → tierCheck s0 op dom b ps = some c →
       exec i s = .next (rowEnd s j (finishJob s0 j1 c))) ∧
     (Ready s d 0x41 u0 j → j.phase = 0 → tierCheck s0 0x41 dom b ps = none →
       Gives (.tierFree d) s fun u =>
         (∃ v ∈ u.xlt.invals, v.id = s.xlt.nextInval ∧ v.what = .tierFree ∧ v.base = b.base ∧ v.len = b.count * 2097152) ∧
         u.store = s.store) ∧
     (Ready s d 0x42 u0 j → j.phase = 0 → tierCheck s0 0x42 dom b ps = none → b.count = 1 →
       ∀ e : Page, s.page? (b.base / 2097152) = some e →
       Gives (.tierHint d) s fun u =>
         u.page? (b.base / 2097152) = some { e with pinNear := b.pinNear, preferFar := b.preferFar, neverCompress := b.neverCompress }) ∧
     (Ready s d 0x43 u0 j → j.phase = 0 → tierCheck s0 0x43 dom b ps = none → b.count = 1 →
       ∀ e : Page, s.page? (b.base / 2097152) = some e → (∀ x : Xfer, e.loc ≠ .migrating x) →
       Gives (.tierSplit d) s fun u => u.page? (b.base / 2097152) = some (if b.join then joinPage s e else splitPage e)))

/-- XLT_CTX_SET of a context other than 0 in a domain that exists, which does not change the domain of a valid context, makes the context
valid with its DOMAIN, PRIV and FRESH, and leaves every other context; one that names context 0 ends with DENIED, and one that would change
the domain with MALFORMED, and then no context changes (R99, R101). XLT_CTX_CLEAR of a valid context other than 0 that has no segment and no
ring in use clears it; while a ring of it is not DISABLED it ends with DENIED and the context stays valid (R99, R100). XLT_SEG_SET whose
entry can be read, is paired, keeps its rules and overlaps no other segment installs it, and GEN of the segment rises by one (R86). A
segment that was not valid is set at once; one that replaces a valid segment leaves the descriptor waiting for the range invalidation of the
old range (R94). XLT_SEG_CLEAR removes a valid segment of a valid context other than 0 and starts the range invalidation of its range; a
segment that is not valid ends at once with OK, and a context that is 0 or invalid with DENIED (R93, R94, R101). XLT_INVAL starts a range
invalidation that counts, and ends with OK once no unit has still to acknowledge it (R102). An acknowledgement of a unit that a range
invalidation still waits for, and that holds no request for the range, takes the unit off its list; the last one ends the invalidation, and
counts it if it counts (R102). Any other acknowledgement changes nothing. -/
def Obligations.ContextsAndSegmentsSet : Prop :=
  (∀ (s : State) (d : Desc) (j : Job), Ready s d 0x48 xltUnit j →
     let c := dbits d.words 16 0 16
     let dom := dbits d.words 18 0 8
     (c ≠ 0 → (ctxValid s c = false ∨ ctxDomain s c = dom) → domLive s dom = true →
       Gives (.xltCtxSet d) s fun u =>
         tabGet? c u.xlt.ctxs = some { domain := dom, priv := dbits d.words 19 0 1 == 1, fresh := dbits d.words 19 1 1 == 1 } ∧
         (∀ k : Nat, k ≠ c → tabGet? k u.xlt.ctxs = tabGet? k s.xlt.ctxs) ∧ u.store = s.store ∧ Ends u d (endCode j .ok)) ∧
     (c = 0 → Gives (.xltCtxSet d) s fun u => u.xlt = s.xlt ∧ Ends u d .denied) ∧
     (c ≠ 0 → ctxValid s c = true → ctxDomain s c ≠ dom → Gives (.xltCtxSet d) s fun u => u.xlt = s.xlt ∧ Ends u d .malformed)) ∧
  (∀ (s : State) (d : Desc) (j : Job), Ready s d 0x49 xltUnit j → j.phase = 0 →
     let c := dbits d.words 16 0 16
     let s0 := startState s d xltUnit
     (c ≠ 0 → ctxRingsBusy s c = false → ctxValid s c = true → (∀ k ∈ span (c * 16) 16, tabGet? k s.xlt.segs = none) →
       jobInval s j = false → (∀ k ∈ span (c * 16) 16, segInUse s0 k (started j xltUnit) = false) →
       Gives (.xltCtxClear d) s fun u =>
         ctxValid u c = false ∧ (∀ k : Nat, k ≠ c → ctxValid u k = ctxValid s k) ∧ Ends u d (endCode j .ok)) ∧
     (c = 0 ∨ ctxRingsBusy s c = true ∨ ctxValid s c = false →
       Gives (.xltCtxClear d) s fun u => u.xlt = s.xlt ∧ Ends u d .denied)) ∧
  (∀ (s s1 : State) (d : Desc) (j : Job), Ready s d 0x4A xltUnit j → j.phase = 0 →
     let c := dbits d.words 16 0 16
     let sg := dbits d.words 18 0 4
     let k := c * 16 + sg
     let va := dbits d.words 24 0 64
     let s0 := startState s d xltUnit
     let b := (readVa s1 (ringCtx j.ring) va 64).1
     let s2 := (readVa s1 (ringCtx j.ring) va 64).2
     let g := segOf (word b)
     c ≠ 0 → ctxValid s c = true → prepare s0 (started j xltUnit) xltUnit [⟨va, 64, .rd⟩] = (true, s1) →
     poisonVa s1 (ringCtx j.ring) va 64 = false → pairedOk b = true → segValueOk (word b) = true → overlapSeg s2 c sg g = none →
     (tabGet? k s2.xlt.segs = none →
       Gives (.xltSegSet d) s fun u =>
         tabGet? k u.xlt.segs = some g ∧ tabGet 0 k u.xlt.gens = (tabGet 0 k s2.xlt.gens + 1) % 65536) ∧
     (∀ o : Seg, tabGet? k s2.xlt.segs = some o →
       Gives (.xltSegSet d) s fun u =>
         tabGet? k u.xlt.segs = some g ∧ tabGet 0 k u.xlt.gens = (tabGet 0 k s2.xlt.gens + 1) % 65536 ∧
         ∃ v ∈ u.xlt.invals, v.what = .segment ∧ v.ctx = c ∧ v.base = o.vaBase ∧ v.len = o.len * 65536)) ∧
  (∀ (s : State) (d : Desc) (j : Job),
     let c := dbits d.words 16 0 16
     let k := c * 16 + dbits d.words 18 0 4
     (Ready s d 0x4B xltUnit j → j.phase = 0 →
       (c ≠ 0 → ctxValid s c = true → ∀ o : Seg, tabGet? k s.xlt.segs = some o →
         Gives (.xltSegClear d) s fun u =>
           tabGet? k u.xlt.segs = none ∧
           ∃ v ∈ u.xlt.invals, v.what = .segment ∧ v.ctx = k / 16 ∧ v.base = o.vaBase ∧ v.len = o.len * 65536) ∧
       (c ≠ 0 → ctxValid s c = true → tabGet? k s.xlt.segs = none →
         Gives (.xltSegClear d) s fun u => u.xlt = s.xlt ∧ Ends u d (endCode j .ok)) ∧
       (c = 0 ∨ ctxValid s c = false → Gives (.xltSegClear d) s fun u => u.xlt = s.xlt ∧ Ends u d .denied)) ∧
     (Ready s d 0x4C xltUnit j → j.phase = 0 → (dbits d.words 18 0 1 = 1 ∨ (c ≠ 0 ∧ ctxValid s c = true)) →
       Gives (.xltInval d) s fun u =>
         ∃ v ∈ u.xlt.invals, v.what = .xltInval ∧ v.counted = true ∧ v.waitOn = invalUnits s ∧
           v.base = dbits d.words 24 0 64 ∧ v.len = dbits d.words 32 0 64) ∧
     (Going s d 0x4C xltUnit j → j.phase = 1 →
       (jobInval s j = false → Gives (.xltInval d) s fun u => Ends u d (endCode j .ok)) ∧
       (jobInval s j = true → Gives (.xltInval d) s fun u => u.xlt = s.xlt))) ∧
  (∀ (s : State) (id : Nat) (unit : Fin 256) (t : Nat) (v : Inval), s.xlt.invals.find? (fun x => x.id = id) = some v →
     (v.waitOn.contains unit.val = true → unhomed s v unit.val = false → v.waitOn.filter (· ≠ unit.val) ≠ [] →
       Gives (.invalAck id unit t) s fun u =>
         u.xlt.invals = s.xlt.invals.map (fun x => if x.id = id then { v with waitOn := v.waitOn.filter (· ≠ unit.val) } else x) ∧
         u.regs = s.regs) ∧
     (v.waitOn.contains unit.val = true → unhomed s v unit.val = false → v.waitOn.filter (· ≠ unit.val) = [] →
       Gives (.invalAck id unit t) s fun u =>
         u.xlt.invals = s.xlt.invals.filter (fun x => x.id ≠ id) ∧
         u.get F.XLT_INVAL_STATUS_COUNT =
           (if v.counted then (s.get F.XLT_INVAL_STATUS_COUNT + 1) % 2 ^ F.XLT_INVAL_STATUS_COUNT.wid
            else s.get F.XLT_INVAL_STATUS_COUNT)) ∧
     (v.waitOn.contains unit.val = false ∨ unhomed s v unit.val = true → exec (.invalAck id unit t) s = .next (s.upto t)))

/-- XLT_SWAP_OUT with swapping enabled, no pinned or confidential page, room, and a way to the swap area swaps each allocated page of the
range out once the directory has recalled every partner copy and the caches have written back (R118 to R121); XLT_SWAP_IN brings each
swapped page of the range in, and leaves every other page (R121). -/
def Obligations.SwapDescriptorsMovePages : Prop :=  ∀ (s : State) (d : Desc) (j : Job),
    let base := dbits d.words 24 0 64
    let n := dbits d.words 32 0 32
    let s0 := startState s d xltUnit
    let ps := (span (base / 2097152) n).filter fun p => (s.page? p).isSome
    (Ready s d 0x4D xltUnit j → s.flag F.XLT_SWAP_CFG_EN = false → Gives (.xltSwapOut d) s fun u => u.store = s.store ∧ Ends u d .denied) ∧
    (Ready s d 0x4D xltUnit j → s.flag F.XLT_SWAP_CFG_EN = true →
      (∀ p ∈ ps, ∀ e : Page, s.page? p = some e → e.pinNear = false ∧ confDomain s e.domain = false ∧ ∀ x : Xfer, e.loc ≠ .migrating x) →
      n ≤ s.get F.XLT_SWAP_CFG_SLOTS - (slotsUsed s).length → (swapPort s).isSome = true →
      ∀ s1 : State, evictRange s0 base (n * 2097152) (.job j.ring j.idx) = (true, s1) → s1.store.pages = s.store.pages →
      exec (.xltSwapOut d) s = .next (rowEnd s j (finishJob
        (ps.foldl swapOutPage ((List.range 4).foldl (fun s m => writeBacks s m (guestsIn s m base (n * 2097152)) true) s1))
        (started j xltUnit) .ok))) ∧
    (Ready s d 0x4E xltUnit j →
      (∀ p ∈ span (base / 2097152) n, ∀ e : Page, s.page? p = some e → ∀ k : Nat, e.loc ≠ .swapped k) →
      Gives (.xltSwapIn d) s fun u => u.store = s.store ∧ Ends u d (endCode j .ok)) ∧
    (Ready s d 0x4E xltUnit j → n = 1 → (swapPort s).isSome = true →
      ∀ (e : Page) (k : Nat) (s1 : State), s.page? (base / 2097152) = some e → e.loc = .swapped k →
      swapInPage s0 (base / 2097152) e k = some s1 →
      exec (.xltSwapIn d) s = .next (rowEnd s j (finishJob s1 (started j xltUnit) .ok)))

/-- Firmware takes the earliest record of the fault queue into its service list and HEAD moves on by one; a record that fails its complement
check is discarded instead, and its waiters repeat the location step (R109, R576, R624). As room appears the queue takes the record that met
it full earliest (R116), and a task stalled for want of room on the waiter lists joins the list of its page's record (R110); with no room
nothing changes. A page fault on an UNALLOCATED page, one of whose waiters came through a segment with DEMAND, allocates the page to the
waiter's domain with content zero and lets the waiters repeat their location step; with no such waiter they end with DENIED (R111). A page
fault on a page that is no longer MIGRATING lets its waiters go on. A partner request that has waited on a page fault for FAULT_TIMEOUT_MS
ends with FAULT_HELD, and leaves the waiter lists; the fault stays for its other waiters (R112). -/
def Obligations.FaultQueueServed : Prop :=
  (∀ (s : State) (t : Nat) (r : FaultRec) (l : List FaultRec), s.xlt.queue = r :: l → s.flag F.XLT_FQ_STATUS_SQUALL = false →
     s.get F.XLT_FQ_PTRS_HEAD < 16383 → s.xlt.corrupt.contains (.faultRec r.seq) = false →
     exec (.faultQueueConsume t) s = .next (wake
       { (s.upto t).set F.XLT_FQ_PTRS_HEAD (s.get F.XLT_FQ_PTRS_HEAD + 1) with
         xlt := { s.xlt with queue := l, service := s.xlt.service ++ [r], corrupt := s.xlt.corrupt.filter fun x => x != .faultRec r.seq } })) ∧
  (∀ (s : State) (t : Nat),
     (Config.fqEntries ≤ s.xlt.queue.length → exec (.stalledRecordPost t) s = .next (s.upto t)) ∧
     (∀ (r : FaultRec) (l : List Late), s.xlt.queue.length < Config.fqEntries → s.xlt.late = .record r :: l →
       exec (.stalledRecordPost t) s = .next (wake (enqueueFault { s.upto t with xlt := { s.xlt with late := l } } r))) ∧
     (Config.waiterMax ≤ waiterCount s → exec (.waiterRoom t) s = .next (s.upto t)) ∧
     (∀ (p : Nat) (r : FaultRec) (w : Waiter) (l : List Late), waiterCount s < Config.waiterMax → s.xlt.late = .noRoom p r w :: l →
       hasFault s p = true →
       exec (.waiterRoom t) s = .next
         (wake ((joinFault { s.upto t with xlt := { s.xlt with late := l } } p w).bump F.XLT_FQ_COALESCED_COUNT)))) ∧
  (∀ (s : State) (seq : BitVec 32) (freed : Bool) (t : Nat) (r : FaultRec) (p : Nat),
     s.xlt.service.find? (fun x => x.seq = seq.toNat) = some r → r.page = some p →
     let s1 := { s.upto t with xlt := { s.xlt with service := s.xlt.service.erase r } }
     (r.kind = 1 → s.page? p = none → demandWaiter s r = none →
       exec (.faultResolve seq freed t) s = .next (wake (endWaiters s1 r .denied))) ∧
     (∀ (w : Waiter) (g : Seg), r.kind = 1 → s.page? p = none → demandWaiter s r = some (w, g) →
       inRegion s.comp.map (ctxDomain s w.ctx) p = true → inWindow (p * 2097152) = false →
       overCapacity s1 (ctxDomain s w.ctx) [p] g.pinNear = false →
       exec (.faultResolve seq freed t) s = .next (wake (resumeWaiters (allocPage s1 p
         { domain := ctxDomain s w.ctx, tensorBase := p, pinNear := g.pinNear, preferFar := g.preferFar,
           neverCompress := g.neverCompress }) r))) ∧
     (∀ e : Page, r.kind = 2 → s.page? p = some e → (∀ x : Xfer, e.loc ≠ .migrating x) →
       exec (.faultResolve seq freed t) s = .next (wake (resumeWaiters s1 r)))) ∧
  (∀ (s : State) (p : Fin 6) (g : Fin 8192) (t : Nat) (f : Flight), flightOf s p.val g.val = some f → f.stage = .fault →
     f.since + 1000000 * s.get F.XLT_CTRL_FAULT_TIMEOUT_MS ≤ max s.now t →
     exec (.faultHeldTimeout p g t) s = .next (wake (endHome (dropWaiter (s.upto t) (.flight p.val g.val)) f .faultHeld)))

/-- A request that meets nothing in its way is applied at its home in the row that brings it, and its reply carries what applying it gives.
A request that arrives at a port that is not UP is discarded; one that fails a check of its header gets that check's code. -/
def Obligations.PartnerRequestsServed : Prop :=
  (∀ (s : State) (r : Req) (pa : Nat) (f : Flight) (q : State), ∀ x ∈ requestRows, Unhindered s x.1 r pa f q →
     let a := applyAt q f pa
     exec (x.2 r) s = .next (wake (noteLanes (answer a.2 f a.1.code a.1.detail a.1.data) r.port.val))) ∧
  (∀ (s : State) (r : Req), ∀ x ∈ requestRows,
     (portUp s r.port.val = false → exec (x.2 r) s = .next (s.upto r.t)) ∧
     (∀ c : Code, portUp s r.port.val = true → flightOf s r.port.val r.tag.val = none → c ≠ .denied →
       headCheck (arrival x.1 r s).2 x.1 r = some c →
       exec (x.2 r) s = .next (wake (answerCode (arrival x.1 r s).2 (arrival x.1 r s).1 c))))

/-- What a read or a write gives on bytes that nothing spoils: a RD returns the bytes of the pool, a RD_SHARED and a RD_OWN the line; a WR,
WR_LINE or WR_FLAG stores its payload and leaves every other byte. What an atomic gives on bytes that nothing spoils: the bytes become the
operation's value, the old value is returned where RET asks for it, and every other byte stays. The values of the integer atomics on `n`
bytes: a sum wraps, the signed ones compare in two's complement, and a compare-and-swap stores its second operand only where the first
equals the old value. A PUBLISH whose BASE is paired and equals the version it finds stores the next version with its complement and the
body, and answers with the new version; on another version it answers STALE_BASE with the version found, and stores nothing (R203 to R206).
-/
def Obligations.MemoryOperationsApply : Prop :=
  (∀ (s : State) (f : Flight) (pa : Nat), NearAndSound s pa (reqSize f.req) →
     let n := reqSize f.req
     let a := applyAt s f pa
     (f.op = .rd → a.1 = ⟨.ok, 0, s.bytes pa n⟩ ∧ a.2.store.mem = s.store.mem) ∧
     (f.op = .rdShared ∨ f.op = .rdOwn → a.1.code = .ok ∧ a.1.data = s.bytes pa 64 ∧ a.2.store.mem = s.store.mem) ∧
     (f.op = .wr ∨ f.op = .wrLine ∨ f.op = .wrFlag →
       a.1 = ⟨.ok, 0, []⟩ ∧ a.2.bytes pa n = padTo n f.req.payload ∧
       ∀ b : Nat, (b < pa ∨ pa + n ≤ b) → a.2.byte b = s.byte b)) ∧
  (∀ (s : State) (f : Flight) (pa : Nat), NearAndSound s pa (reqSize f.req) → f.op.atomic = true → f.op ≠ .publish →
     let n := reqSize f.req
     let a := applyAt s f pa
     let old := leVal (s.bytes pa n)
     let new := atomicNew f.op n old (leVal (padTo n f.req.payload)) (leVal (padTo n (f.req.payload.drop n)))
     a.1 = ⟨.ok, 0, if f.req.ret then leBytes n old else []⟩ ∧ leVal (a.2.bytes pa n) = new % 2 ^ (8 * n) ∧
     ∀ b : Nat, (b < pa ∨ pa + n ≤ b) → a.2.byte b = s.byte b) ∧
  (∀ (n old x y : Nat), 0 < n → old < 2 ^ (8 * n) → x < 2 ^ (8 * n) → y < 2 ^ (8 * n) →
     atomicNew .fadd n old x y = (BitVec.ofNat (8 * n) old + BitVec.ofNat (8 * n) x).toNat ∧
     atomicNew .fand n old x y = (BitVec.ofNat (8 * n) old &&& BitVec.ofNat (8 * n) x).toNat ∧
     atomicNew .fior n old x y = (BitVec.ofNat (8 * n) old ||| BitVec.ofNat (8 * n) x).toNat ∧
     atomicNew .fxor n old x y = (BitVec.ofNat (8 * n) old ^^^ BitVec.ofNat (8 * n) x).toNat ∧
     atomicNew .swap n old x y = x ∧
     atomicNew .cas n old x y = (if old = x then y else old) ∧
     atomicNew .minS n old x y = (if (BitVec.ofNat (8 * n) x).toInt < (BitVec.ofNat (8 * n) old).toInt then x else old) ∧
     atomicNew .maxS n old x y = (if (BitVec.ofNat (8 * n) old).toInt < (BitVec.ofNat (8 * n) x).toInt then x else old) ∧
     atomicNew .minU n old x y = min old x ∧ atomicNew .maxU n old x y = max old x) ∧
  (∀ (s : State) (pa : Nat) (payload : List Byte), NearAndSound s pa 16 → pa % 16 = 0 →
     let base := leVal (payload.take 4)
     let v := leVal (s.bytes pa 4)
     leVal ((payload.drop 4).take 4) = onesComp 32 base → leVal (s.bytes (pa + 4) 4) = onesComp 32 v →
     (v = base →
       let a := applyPublish s pa payload
       let w := (base + 1) % 2 ^ 32
       a.1 = .ok ∧ a.2.1 = w ∧ a.2.2.bytes pa 16 = leBytes 4 w ++ leBytes 4 (onesComp 32 w) ++ padTo 8 (payload.drop 8)) ∧
     (v ≠ base →
       let a := applyPublish s pa payload
       a.1 = .staleBase ∧ a.2.1 = v ∧ a.2.2.store = s.store))

/-- An eviction that R172 admits and whose line is in no transaction: a clean one of a sharer takes it off the entry, and one of the owner
makes the line uncached; a dirty one of the owner first stores its line at the home (R175, R178). The reply is OK. An answer to a snoop that
a transaction waits for counts for it, a SNP_FWD of the owner brings its data, and the transaction commits when the last has come (R172,
R180); an answer that matches no snoop is ignored and counted. A snoop that has gone unanswered for TIMEOUT_US is sent again while RETRIES
last and its partner is not marked unresponsive (R195); after that it is given up: a sharer is dropped, an owner's line is lost (R196 to
R199). Before its time nothing happens. -/
def Obligations.DirectoryAnswers : Prop :=
  (∀ (s : State) (r : Req) (e : DirE), portUp s r.port.val = true → msgOk (s.upto r.t) r = true → dirEnt s (msgLine r) = some e →
     let q := clearUnresp (s.upto r.t) r.port.val r.partner.val
     let ok := fun t : State => wake (evictReply t r .ok)
     (e.st = .owned → e.shr.contains (r.port.val, r.partner.val) = true → inTxn s (msgLine r) = false →
       exec (.evictClean r) s = .next (ok (putDir q (msgLine r) none)) ∧
       exec (.evictDirty r) s = .next
         (ok (putDir (writeLine q (msgLine r) (msgLine r * 64) (padTo 64 r.payload)) (msgLine r) none))) ∧
     (e.st = .shared → e.shr.contains (r.port.val, r.partner.val) = true →
       exec (.evictClean r) s = .next (ok (dropSharer q (msgLine r) e (r.port.val, r.partner.val)))) ∧
     (e.st = .owned ∨ e.st = .shared → e.shr.contains (r.port.val, r.partner.val) = false →
       exec (.evictClean r) s = .next (ok (stray q (msgLine r))) ∧ exec (.evictDirty r) s = .next (ok (stray q (msgLine r))))) ∧
  (∀ (s : State) (r : Req), portUp s r.port.val = true → r.cls.val = 0 →
     let q := clearUnresp (s.upto r.t) r.port.val r.partner.val
     (∀ (t : Txn) (x : Snoop), snoopOf s r.port.val r.tag.val r.partner.val = some (t, x) → msgOk q r = true → msgLine r = t.line →
       exec (.snpAck r) s = .next (answered q t x none false) ∧
       (x.owner = true → exec (.snpFwd r) s = .next
         (answered q t x (if r.ret then some (padTo 64 r.payload) else none) (r.b30 && x.op == 0x39)))) ∧
     (snoopOf s r.port.val r.tag.val r.partner.val = none →
       exec (.snpAck r) s = .next (stray q (msgLine r)) ∧ exec (.snpFwd r) s = .next (stray q (msgLine r)))) ∧
  (∀ (s : State) (p : Fin 6) (g : Fin 2048) (t : Nat) (u : Txn) (x : Snoop),
     (s.dir.txns.findSome? fun u => (u.snoops.find? fun x => x.port = p.val && x.stag = g.val).map fun x => (u, x)) = some (u, x) →
     let n := lineHome s u.line
     let due := x.sent + 1000 * s.get (F.DIR_S_RECALL_CFG_TIMEOUT_US n)
     (max s.now t < due → exec (.snoopTimeout p g t) s = .next (s.upto t)) ∧
     (due ≤ max s.now t → x.sends ≤ s.get (F.DIR_S_RECALL_CFG_RETRIES n) → s.dir.unresp.contains (n, x.port, x.partner) = false →
       Gives (.snoopTimeout p g t) s fun v =>
         v.out = s.out ++ [.snoop x.port x.op x.stag x.partner (lineFabric s u.line)] ∧
         v.dir.ents = s.dir.ents ∧ v.store = s.store) ∧
     (due ≤ max s.now t → s.get (F.DIR_S_RECALL_CFG_RETRIES n) < x.sends →
       exec (.snoopTimeout p g t) s = .next (unanswered (s.upto t) u x)))

/-- The window of an open atomic entry ends: the entry closes, its line counts as hot again, and its access goes to the home (R150). The
data of a read entry returns: its access is served for every joiner (R147). An entry that was answered RETRY_RSV is reissued (R152). A held
flag store whose earlier writes have all completed is released: it goes to its home, or completes with the code of the earliest write that
failed, that write's TAG in DETAIL (R135, R137); while an earlier write is open it stays held. The tail status of a message that was cut
through: good lets it go on, poisoned answers POISON, and replayed leaves it waiting for the copy with the same MSN; the last two are
counted (R515, R516). When an owner's hold has run out, what waited for it goes on (R184); the sweep clears HELD of every entry of its slice
whose hold has run out, and of no other (R168). A reservation that has stood for RSV_TIMEOUT_US is dropped and counted, and what waited
behind it goes on; a younger one stays (R189). A request that waits at its port enters its slice's pending buffer as room appears (R188). -/
def Obligations.RequestsWaitAndGoOn : Prop :=
  (∀ (s : State) (id t : Nat) (e : Entry) (f : Flight), entryOf s id = some e →
     (e.atomic = true → e.closed = false → s.get F.ANV_CTRL_AT_WINDOW ≤ 2 * (max s.now t - e.start) →
       s.fab.flights.find? (fun x => x.entry = some id) = some f →
       exec (.atomicWindowExpiry id t) s = .next (wake (homeGo ((renewHot (putEntry (s.upto t) { e with closed := true }) (e.pool / 64)).bump
         (F.ANV_K_AT_COMB_DISPATCHED f.req.port.val)) f true))) ∧
     (e.atomic = false → e.resv = false → s.fab.flights.find? (fun x => x.entry = some id && x.stage = .anvil id) = some f →
       exec (.readEntryDataReturn id t) s = .next (wake (homeGo (s.upto t) f true))) ∧
     (e.resv = true → s.fab.flights.find? (fun x => x.entry = some id) = some f →
       exec (.anvilRsvReissue id t) s = .next
         (wake (homeGo (putEntry (s.upto t) { e with resv := false, closed := true }) f true)))) ∧
  (∀ (s : State) (p : Fin 6) (g : Fin 8192) (t : Nat) (f : Flight), flightOf s p.val g.val = some f → f.stage = .held →
     let q := (s.upto t).raiseTo (F.ANV_K_FLAG_MAX_NS p.val) (max s.now t - f.since)
     (flagBlocked s f = true → exec (.flagRelease p g t) s = .next (s.upto t)) ∧
     (flagBlocked s f = false → flagBar s f = none → exec (.flagRelease p g t) s = .next (wake (homeGo q f true))) ∧
     (∀ x : Failed, flagBlocked s f = false → flagBar s f = some x →
       exec (.flagRelease p g t) s = .next
         (wake (answer (q.bumpSat (F.ANV_K_FLAG_FAILED f.req.port.val)) f x.code x.tag [])))) ∧
  (∀ (s : State) (p : Fin 6) (g : Fin 8192) (t pa : Nat) (f : Flight), flightOf s p.val g.val = some f → f.stage = .tail →
     (f.pool = some pa → inWindow pa = false →
       let h := { f with req := { f.req with cut := false } }
       exec (.tailStatus p g .good t) s = .next (wake (proceed (putFlight (s.upto t) h) h))) ∧
     exec (.tailStatus p g .poisoned t) s = .next
       (wake (answerCode ((s.upto t).bumpSat (F.SCH_K_STATUS_TAIL_POISONED p.val)) f .poison)) ∧
     exec (.tailStatus p g .replayed t) s = .next
       (putFlight ((s.upto t).bumpSat (F.SCH_K_STATUS_TAIL_REPLAYED p.val)) { f with stage := .replay })) ∧
  (∀ (s : State) (t : Nat),
     (∀ (line : Fin (2 ^ 41)) (e : DirE), dirEnt s line.val = some e → holdRuns (s.upto t) line.val e = false →
       exec (.holdExpiry line t) s = .next (wake (s.upto t))) ∧
     (∀ (line : Fin (2 ^ 41)) (e : DirE), dirEnt s line.val = some e → holdRuns (s.upto t) line.val e = true →
       exec (.holdExpiry line t) s = .next (s.upto t)) ∧
     (∀ n : Fin 4, exec (.dirHoldSweep n t) s = .next (wake { s.upto t with dir := { s.dir with
       ents := s.dir.ents.map fun e => if lineHome s e.1 = n.val ∧ e.2.held ∧ !holdRuns (s.upto t) e.1 e.2 then
         (e.1, { e.2 with held := false }) else e } }))) ∧
  (∀ (s : State) (t : Nat),
     (∀ (p : Fin 6) (latency : Bool) (k : Fin 64) (r : Rsv),
       s.dir.rsvs.find? (fun r => r.port = p.val && r.cls = (if latency then 2 else 3) && r.credit = k.val) = some r →
       let due := r.made + 1000 * s.get (F.DIR_S_RECALL_CFG_RSV_TIMEOUT_US (lineHome s r.line))
       (max s.now t < due → exec (.reservationExpiry p latency k t) s = .next (s.upto t)) ∧
       (due ≤ max s.now t → exec (.reservationExpiry p latency k t) s = .next
         (wake ({ s.upto t with dir := { s.dir with rsvs := s.dir.rsvs.filter fun x => x != r } }.bumpSat
           (F.DIR_S_RETRY_EXPIRED (lineHome s r.line)))))) ∧
     (∀ (n : Fin 4) (f : Flight), (s.fab.flights.filter fun f => f.stage = .atPort &&
         match f.pool with | some a => lineHome s (a / 64) = n.val | none => false) = [f] → pendingOf s n.val < 1024 →
       exec (.pendingBufferRetry n t) s = .next (wake (putFlight (s.upto t) { f with stage := .pending }))))

/-- Setting up a ring (R216, R217): what RING_SET and the register WRITE do with a queue-context image for a ring of a valid context other
than 0. The commands of RING_QC_SEL, while it is not BUSY: READ copies the queue context with its complement, WRITE installs the image in
RING_QC_DATA0–7, and DISABLE disables the ring, at once or once the last of its descriptors has gone (R211, R216, R248). RING_SET reads its
image and ends with the code of its set-up (R216); RING_DISABLE of a ring that is DISABLED, or that drains at once, ends with OK, of its own
ring with MALFORMED, of a completion ring in use with DENIED, and otherwise waits for the ring (R248, R249). -/
def Obligations.RingsSetUpAndDisabled : Prop :=
  (∀ (s : State) (g : Nat) (paired : Bool) (w : Nat → Nat), g / 16 ≠ 0 → ctxValid s (g / 16) = true →
     let i := installRing s g paired w
     let r := ringOf w
     let c := s.ring (g / 16 * 16 + r.cq)
     (paired = false → i = (.cpair, s)) ∧
     (paired = true → ringImageOk w = false → i = (.malformed, s)) ∧
     (paired = true → ringImageOk w = true → (s.ring g).st ≠ .disabled → i = (.denied, s)) ∧
     (paired = true → ringImageOk w = true → (s.ring g).st = .disabled → (r.path = 6 ∨ cxlPort s r.path = false) → r.completion = false →
       (c.completion = false ∨ c.st ≠ .enabled) → i = (.denied, s)) ∧
     (paired = true → ringImageOk w = true → (s.ring g).st = .disabled → (r.path = 6 ∨ cxlPort s r.path = false) →
       (r.completion = true ∨ (c.completion = true ∧ c.st = .enabled)) →
       i.1 = .ok ∧ i.2.ring g = r ∧ r.st = .enabled ∧ r.pi = 0 ∧ r.ci = 0 ∧ r.phase = true ∧
       (∀ k : Nat, k ≠ g → i.2.ring k = s.ring k) ∧ i.2.store = s.store ∧ i.2.regs = s.regs)) ∧
  (∀ (s : State) (g : Fin 1048576) (t : Nat), PortOpen s → s.flag F.RING_QC_SEL_BUSY = false →
     let r := s.ring g.val
     let paired := (List.range 4).all fun i => qcData s (i + 4) == onesComp 64 (qcData s i)
     (Gives (.ringQcRead g) s fun u =>
       (∀ i : Fin 4, u.get (F.RING_QC_DATA_WORD i) = (ringWords r).getD i.val 0 % 2 ^ 64 ∧
         u.get (F.RING_QC_DATA_WORD (i + 4)) = onesComp 64 ((ringWords r).getD i.val 0)) ∧
       u.get F.RING_QC_SEL_RESULT = 0 ∧ u.rings = s.rings ∧ SameButFields (answeredState s) u) ∧
     (Gives (.ringQcWrite g t) s fun u =>
       u.get F.RING_QC_SEL_RESULT = codeNum (installRing s g.val paired (qcData s)).1 ∧
       u.rings = (installRing s g.val paired (qcData s)).2.rings) ∧
     (r.st = .disabled → Gives (.ringQcDisable g t) s fun u => u.get F.RING_QC_SEL_RESULT = 0 ∧ u.rings = s.rings) ∧
     (r.st ≠ .disabled → r.completion = true → boundBusy s g.val = true →
       Gives (.ringQcDisable g t) s fun u => u.get F.RING_QC_SEL_RESULT = 8 ∧ u.rings = s.rings) ∧
     (r.st = .enabled ∨ r.st = .error → (r.completion && boundBusy s g.val) = false →
       (s.rings.jobs.any fun j => j.ring = g.val) = false →
       Gives (.ringQcDisable g t) s fun u => u.get F.RING_QC_SEL_RESULT = 0 ∧ (u.ring g.val).st = .disabled) ∧
     (r.st = .enabled ∨ r.st = .error → (r.completion && boundBusy s g.val) = false →
       (s.rings.jobs.any fun j => j.ring = g.val) = true →
       Gives (.ringQcDisable g t) s fun u =>
         u.flag F.RING_QC_SEL_BUSY = true ∧ (u.ring g.val).st = .draining ∧ u.rings.qcBusy = some g.val)) ∧
  (∀ (s : State) (d : Desc) (j : Job),
     let g := dbits d.words 16 0 20
     let va := dbits d.words 24 0 64
     let s0 := startState s d 0x90
     let me := ringCtx j.ring
     let j1 := started j 0x90
     (∀ s1 : State, Ready s d 0x70 0x90 j → g / 16 ≠ 0 → ctxValid s (g / 16) = true →
       prepare s0 j1 0x90 [⟨va, 64, .rd⟩] = (true, s1) → poisonVa s1 me va 64 = false →
       let b := readVa s1 me va 64
       let i := installRing b.2 g (pairedOk b.1) (word b.1)
       exec (.ringSet d) s = .next (rowEnd s j (finishJob i.2 j1 i.1))) ∧
     (Ready s d 0x70 0x90 j → (g / 16 = 0 ∨ ctxValid s (g / 16) = false) →
       Gives (.ringSet d) s fun u => u.xlt = s.xlt ∧ u.store = s.store ∧ Ends u d .denied) ∧
     (Ready s d 0x71 0x90 j → j.phase ≠ 1 →
       (g / 16 = 0 ∨ ctxValid s (g / 16) = false → Gives (.ringDisable d) s fun u => u.xlt = s.xlt ∧ Ends u d .denied) ∧
       (g / 16 ≠ 0 → ctxValid s (g / 16) = true →
         (g = j.ring → Gives (.ringDisable d) s fun u => u.xlt = s.xlt ∧ Ends u d .malformed) ∧
         (g ≠ j.ring → (s.ring g).st = .disabled →
           exec (.ringDisable d) s = .next (rowEnd s j (finishJob s0 j1 .ok (s.ring g).ci))) ∧
         (g ≠ j.ring → (s.ring g).st ≠ .disabled → (s.ring g).completion = true → boundBusy s g = true →
           exec (.ringDisable d) s = .next (rowEnd s j (finishJob s0 j1 .denied))) ∧
         (g ≠ j.ring → (s.ring g).st = .enabled ∨ (s.ring g).st = .error → ((s.ring g).completion && boundBusy s g) = false →
           (s.rings.jobs.any fun k => k.ring = g) = false →
           Gives (.ringDisable d) s fun u => (u.ring g).st = .disabled ∧ Ends u d (endCode j .ok)) ∧
         (g ≠ j.ring → (s.ring g).st = .enabled ∨ (s.ring g).st = .error → ((s.ring g).completion && boundBusy s g) = false →
           (s.rings.jobs.any fun k => k.ring = g) = true →
           Gives (.ringDisable d) s fun u => (u.ring g).st = .draining))) ∧
     (Going s d 0x71 0x90 j → j.phase = 1 →
       ((s.ring g).st = .disabled → exec (.ringDisable d) s = .next (rowEnd s j (finishJob (s.upto d.t) j .ok (s.ring g).ci))) ∧
       ((s.ring g).st ≠ .disabled → exec (.ringDisable d) s = .next (rowEnd s j (s.upto d.t)))))

/-- A doorbell write that comes by the ring's path, is in its format, and names an index in the window sets PI, or CI of a completion ring,
and leaves every other ring (R223, R224); a doorbell read returns it with its complement (R225). -/
def Obligations.DoorbellsMoveIndices : Prop :=  ∀ (s : State) (g : Fin 1048576) (path : Fin 7) (partner : Fin 256) (ctx : Fin 65536) (tag : Fin 8192) (n t : Nat),
    (if path.val = 6 then PortOpen s else awake s = true) → doorbellPath s g.val path.val partner.val ctx.val = true →
    n < 65536 → s.xlt.corrupt.contains (.queueCtx g.val) = false →
    let v : Word := BitVec.ofNat 64 (n + onesComp 16 n * 65536)
    let r := s.ring g.val
    ((s.ring g.val).st = .enabled → doorbellWindow r n = true →
      Gives (.doorbellWrite g path partner ctx tag true v t) s fun u =>
        u.ring g.val = (if r.completion then { r with ci := n } else { r with pi := n }) ∧
        (∀ k : Nat, k ≠ g.val → u.ring k = s.ring k) ∧
        u.out = s.out ++ (if path.val = 6 then [] else [.reply path.val tag.val 2 .ok 0 []]) ∧ u.store = s.store) ∧
    ((s.ring g.val).st = .enabled → doorbellWindow r n = false →
      Gives (.doorbellWrite g path partner ctx tag true v t) s fun u =>
        (∀ k : Nat, u.ring k = s.ring k) ∧ u.get F.RING_DB_ERRORS_RANGE = min (s.get F.RING_DB_ERRORS_RANGE + 1) (2 ^ F.RING_DB_ERRORS_RANGE.wid - 1) ∧
        u.out = s.out ++ (if path.val = 6 then [] else [.reply path.val tag.val 2 .malformed 0 []])) ∧
    ((s.ring g.val).st ≠ .enabled →
      Gives (.doorbellWrite g path partner ctx tag true v t) s fun u =>
        (∀ k : Nat, u.ring k = s.ring k) ∧
        u.out = s.out ++ (if path.val = 6 then [] else [.reply path.val tag.val 2 .abortDisable 0 []])) ∧
    (let x := (if r.completion then r.ci else r.pi)
     let y := x % 65536 + onesComp 16 x * 65536
     Gives (.doorbellRead g path partner ctx tag true) s fun u =>
       u.out = s.out ++ (if path.val = 6 then [.mmio y] else [.reply path.val tag.val 2 .ok 0 (leBytes 8 y)]) ∧
       ∀ k : Nat, u.ring k = s.ring k)

/-- An ENABLED submission ring whose path is open fetches at most FETCH_BURST descriptors in one turn (R229); each one fetched reserves an
entry of its completion ring (R230). Any other ring fetches nothing. A descriptor whose data arrives whole is held with its words, queued or
already ended by a check (R228); one whose read fails, by itself or by a completion timeout, gets no record, and its ENABLED ring enters
ERROR (R232, R690). A reply to one of the device's own requests frees its tag; REMAP teaches the node's epoch, and the request is sent once
more (R143, R548). -/
def Obligations.DescriptorsFetched : Prop :=
  (∀ (s : State) (g : Fin 1048576) (t : Nat), s.xlt.corrupt.contains (.queueCtx g.val) = false →
     let r := s.ring g.val
     let go := r.st = .enabled ∧ r.completion = false ∧ (r.path = 6 ∨ portUp s r.path = true) ∧ awake s = true ∧
       s.flag F.PWR_STATUS_ENTERING = false
     (¬ go → exec (.descriptorFetch g t) s = .next (s.upto t)) ∧
     (go → exec (.descriptorFetch g t) s = .next (fetchTurn (qcLook (s.upto t) g.val) g.val (s.get F.RING_CTRL_FETCH_BURST))) ∧
     (go → r.path = 6 → r.fetch ≠ r.pi → ringRoom (s.ring (g.val / 16 * 16 + r.cq)) ≠ 0 → s.get F.RING_CTRL_FETCH_BURST = 1 →
       findJob s g.val r.fetch = none →
       Gives (.descriptorFetch g t) s fun u =>
         (u.ring g.val).fetch = (r.fetch + 1) % 65536 ∧
         (u.ring (g.val / 16 * 16 + r.cq)).reserved = (s.ring (g.val / 16 * 16 + r.cq)).reserved + 1 ∧
         (∃ j : Job, findJob u g.val r.fetch = some j ∧ j.st = .reading) ∧ u.store = s.store)) ∧
  ((∀ (s : State) (g : Fin 1048576) (i : Fin 65536) (t : Nat) (j : Job), findJob s g.val i.val = some j → j.st = .reading →
     (∀ ws : List Word, halted s = false → ws.length = 8 →
       Gives (.descriptorReadComplete g i (some ws) t) s fun u =>
         ∃ k : Job, findJob u g.val i.val = some k ∧ k.words = ws ∧ (k.st = .queued ∨ k.st = .finished)) ∧
     (halted s = false → exec (.descriptorReadComplete g i none t) s = .next (readFails (s.upto t) g.val i.val)) ∧
     ((s.ring g.val).path = 6 → exec (.completionTimeout g i t) s = .next (readFails (s.upto t) g.val i.val))) ∧
   (∀ (s : State) (g i : Nat), (s.ring g).st = .enabled →
     ((readFails s g i).ring g).st = .error ∧ findJob (readFails s g i) g i = none ∧ (readFails s g i).store = s.store) ∧
   (∀ (s : State) (p : Fin 6) (tag : Fin 8192) (detail : BitVec 32) (t : Nat) (o : OutReq),
     (s.fab.outReqs.find? fun o => o.port = p.val && o.tag = tag.val) = some o →
     let gone := { s.upto t with fab := { s.fab with outReqs := s.fab.outReqs.filter fun x => !(x.port = p.val && x.tag = tag.val) } }
     let learnt := { gone with comp := { s.comp with remote := tabPut o.node detail.toNat s.comp.remote } }
     (o.what ≠ "FETCH" → exec (.reply p tag .ok detail t) s = .next (wake gone)) ∧
     (o.what = "FETCH" → exec (.reply p tag .ok detail t) s = .next (s.upto t)) ∧
     (o.resent = false → exec (.reply p tag .remap detail t) s = .next (sendOut learnt p.val { o with resent := true })) ∧
     (o.resent = true → exec (.reply p tag .remap detail t) s = .next (wake (outFails learnt o .remap))) ∧
     (∀ c : Code, c ≠ .ok → c ≠ .remap → exec (.reply p tag c detail t) s = .next (wake (outFails gone o c)))))

/-- A NOP ends with OK. A finished descriptor that no engine's sector holds up leaves the device with its record, its reservation is
released, and a record is written unless NOCMPL is set and the code is OK, or the way to its completion ring is closed (R239 to R242). The
record of a descriptor, with its completion ring's PHASE, goes to the ring's PI; PI moves on, and PHASE is inverted after the last entry
(R239, R240). TIME_US after the first record that no notification has followed, the ring's consumer is notified (R251). Running work of a
DRAINING ring that has not completed within DISABLE_BOUND_US is cancelled (R247). A function reset stops the writes to host memory, masks
every MSI-X entry and clears MGT_POOLWIN.EN (R250, R691). -/
def Obligations.DescriptorsCompleteWithRecords : Prop :=
  ((∀ (s : State) (d : Desc) (j : Job), Ready s d 0 0x90 j → Gives (.nopDesc d) s fun u => Ends u d (endCode j .ok) ∧ u.store = s.store) ∧
   (∀ (s : State) (g : Fin 1048576) (i : Fin 65536) (t : Nat) (j : Job), findJob s g.val i.val = some j →
     (j.st ≠ .finished → exec (.descriptorComplete g i t) s = .next (s.upto t)) ∧
     (j.st = .finished → (s.fab.outReqs.any fun o => o.job = some (j.ring, j.idx)) = false →
       exec (.descriptorComplete g i t) s = .next (completeJob (s.upto t) j))) ∧
   (∀ (s : State) (j : Job), unitSector j.unit = none → completeJob s j = recordJob s j) ∧
   (∀ (s : State) (j : Job), findJob (recordJob s j) j.ring j.idx = none)) ∧
  (∀ (s : State) (g w0 w1 : Nat), (s.ring g).path = 6 → s.mgmt.hostWrites = true → (s.ring g).notify = false →
     let r := s.ring g
     let u := writeRecord s g w0 w1
     u.out = s.out ++ [.hostWrite (r.base + 16 * (r.pi % 2 ^ r.log2))
       (leBytes 8 w0 ++ leBytes 8 (w1 % 2 ^ 63 + (if r.phase then 2 ^ 63 else 0)))] ∧
     (u.ring g).pi = (r.pi + 1) % 65536 ∧
     (u.ring g).phase = (if r.pi % 2 ^ r.log2 = 2 ^ r.log2 - 1 then !r.phase else r.phase) ∧
     ∀ k : Nat, k ≠ g → u.ring k = s.ring k) ∧
  (∀ (s : State) (g : Fin 1048576) (t : Nat),
     let r := s.ring g.val
     (r.notify = true → r.unnotified ≠ 0 → r.firstAt + 1000 * r.timeUs ≤ max s.now t →
       exec (.notifyTimer g t) s = .next (notifyRing (s.upto t) g.val)) ∧
     (r.notify = true → r.unnotified ≠ 0 → max s.now t < r.firstAt + 1000 * r.timeUs → exec (.notifyTimer g t) s = .next (s.upto t)) ∧
     (∀ j : Job, r.st = .draining → r.drainAt + 1000 * s.get F.RING_CTRL_DISABLE_BOUND_US ≤ max s.now t →
       s.rings.jobs = [j] → j.ring = g.val → j.st = .running →
       Gives (.disableBoundExpiry g t) s fun u =>
         ∃ k : Job, findJob u g.val j.idx = some k ∧ k.st = .finished ∧ k.code = if r.drainPort then .portLost else .abortDisable) ∧
     (Gives (.functionReset true t) s fun u =>
       u.mgmt.hostWrites = false ∧ u.mgmt.masked = List.range 2048 ∧ u.flag F.MGT_POOLWIN_EN = false ∧ u.store = s.store) ∧
     (Gives (.functionReset false t) s fun u => u.mgmt.hostWrites = false ∧ u.mgmt.masked = s.mgmt.masked ∧ u.store = s.store) ∧
     (Gives (.perst t) s fun u =>
       u.mgmt.hostWrites = false ∧ u.mgmt.masked = List.range 2048 ∧ u.flag F.MGT_POOLWIN_EN = false ∧ u.store = s.store))

/-- Links leave service and come back as R491 says: LIGHT starts training; a link in service retrains on a lost lane lock, on 10 µs without
a valid flit, or when told to; RETIRE takes it to RETIRED, RETURN from FAILED or RETIRED to LIGHT; training that ends in time gives ACTIVE,
and at its bound ACTIVE at ×2 on two adjacent lanes or else FAILED (R492). `stays`: the port does not go down for want of links (R496).
Laser modules and port states (R473, R474, R491, R494 to R496): an accepted module comes to READY and lights its links; a module whose poll
passes has its power noted and one whose poll fails is FAILED; a port comes UP on an INIT that matches the map, and else keeps the reason;
it goes down on silence and on the conditions of R496; it may leave DOWN once nothing of its work is left (R531, R532). -/
def Obligations.LinksAndPortsChangeState : Prop :=
  (∀ (s : State) (p l : Fin 6) (t : Nat),
     let stays := s.get (F.KZP_STATUS_STATE p) ≠ 3 ∨ s.get (F.KZP_CTRL_MIN_LINKS p) < linkSetSize s p
     let out := fun (v why : Nat) (u : State) =>
       linkSt u p l = v ∧ u.get (F.KZP_L_STATUS_REASON p l) = why ∧ bits (u.get (F.KZP_STATUS_LINK_SET p)) l 1 = 0 ∧ u.store = s.store
     let due := (linkOf s p l).trainAt + trainBound s p l
     (stays → linkSt s p l = 1 → portClocked s p = true →
       Gives (.linkLight p l t) s fun u => linkSt u p l = 2 ∧ (linkOf u p l).trainAt = max s.now t ∧ (linkOf u p l).retrain = false) ∧
     (stays → linkSt s p l = 3 → Gives (.laneLockLoss p l t) s (out 2 8)) ∧
     (stays → linkSt s p l = 3 → (linkOf s p l).flitAt + 10000 ≤ max s.now t → Gives (.flitSilence p l t) s (out 2 4)) ∧
     (linkSt s p l = 3 → max s.now t < (linkOf s p l).flitAt + 10000 → exec (.flitSilence p l t) s = .next (s.upto t)) ∧
     (stays → PortOpen s → linkSt s p l = 3 ∨ linkSt s p l = 4 → Gives (.linkRetrain p l t) s (out 2 1)) ∧
     (stays → PortOpen s → linkSt s p l ≠ 6 →
       Gives (.linkRetire p l t) s fun u => out 6 1 u ∧ u.flag (F.KZP_L_CTRL_RETIRE p l) = true) ∧
     (PortOpen s → linkSt s p l = 5 ∨ linkSt s p l = 6 →
       Gives (.linkReturn p l t) s fun u => linkSt u p l = 1 ∧ u.flag (F.KZP_L_CTRL_RETIRE p l) = false ∧ u.store = s.store) ∧
     (linkSt s p l = 2 → portClocked s p = true → max s.now t ≤ due →
       Gives (.linkTrainingDone p l t) s fun u =>
         linkSt u p l = 3 ∧ bits (u.get (F.KZP_STATUS_LINK_SET p)) l 1 = 1 ∧
         u.get (F.KZP_L_STATUS_LANES_OK p l) = (if s.flag (F.KZP_L_STATUS_WIDTH p l) then s.get (F.KZP_L_STATUS_LANES_OK p l) % 16 else 15)) ∧
     (∀ lanes : Fin 16, linkSt s p l = 2 → due ≤ max s.now t →
       ((lanes.val % 4 = 3 ∨ lanes.val / 4 = 3) →
         Gives (.linkTrainTimeout p l lanes t) s fun u =>
           linkSt u p l = 3 ∧ u.flag (F.KZP_L_STATUS_WIDTH p l) = true ∧ u.get (F.KZP_L_STATUS_LANES_OK p l) = lanes.val ∧
           ∃ r ∈ u.comp.events, r.kind = 0x25) ∧
       (stays → ¬ (lanes.val % 4 = 3 ∨ lanes.val / 4 = 3) → Gives (.linkTrainTimeout p l lanes t) s (out 5 8)))) ∧
  ((∀ (s : State) (m : Fin 12) (t : Nat),
     let p := m.val / 2
     let e := m.val % 2
     let st := s.get (F.KZP_OE_STATUS_LSM_STATE p e)
     (∀ x : Cmis, st ≠ 2 → portClocked s p = true →
       (cmisOk x = true → Gives (.lsmPresent m x t) s fun u => u.get (F.KZP_OE_STATUS_LSM_STATE p e) = 1 ∧ m.val ∈ u.ports.lasers) ∧
       (cmisOk x = false → Gives (.lsmPresent m x t) s fun u =>
         u.get (F.KZP_OE_STATUS_LSM_STATE p e) = 3 ∧ u.get (F.KZP_OE_STATUS_LSM_REASON p e) = 11)) ∧
     (m.val ∈ s.ports.lasers → Gives (.laserModuleReady m t) s fun u =>
       u.get (F.KZP_OE_STATUS_LSM_STATE p e) = 2 ∧ u.out = s.out ++ [.pin "LSM_OUTPUTS" true] ∧
       ∀ l ∈ sixLinks, laserOf p l = m.val → linkSt s p l = 0 → s.flag (F.KZP_CTRL_EN p) = true → portClocked s p = true →
         (s.flag (F.KZP_CTRL_PERSONALITY p) && decide (4 ≤ l)) = false → linkSt u p l = 1) ∧
     (∀ x : LsmReading, st = 1 ∨ st = 2 →
       let s1 := (s.upto t).setFlag (F.KZP_OE_STATUS_LSM_PRESENT p e) x.present
       ((x.present && x.answers && !x.alarm) = true →
         exec (.lsmPoll m x t) s = .next (s1.set (F.KZP_OE_STATUS_LSM_POWER p e) x.power.toNat)) ∧
       ((x.present && x.answers && !x.alarm) = false → exec (.lsmPoll m x t) s = .next (laserFail s1 m)))) ∧
   (∀ (s : State) (p : Fin 6) (t : Nat),
     let st := s.get (F.KZP_STATUS_STATE p)
     (∀ x : InitData, st = 2 →
       (initRefused s p x = none → Gives (.portInit p x t) s fun u =>
         u.get (F.KZP_STATUS_STATE p) = 3 ∧ u.get (F.KZP_PEER_PEER_ID p) = x.peer.toNat ∧
         u.get (F.KZP_STATUS_SESSION p) = (s.get (F.KZP_STATUS_SESSION p) + 1) % 65536 ∧
         (portSt u p).tags = x.tags.val ∧ (portSt u p).msn0 = 0 ∧ (portSt u p).msn1 = 0 ∧ u.store = s.store) ∧
       (∀ r : Nat, initRefused s p x = some r → Gives (.portInit p x t) s fun u =>
         u.get (F.KZP_STATUS_STATE p) = 2 ∧ u.get (F.KZP_STATUS_REASON p) = r ∧ u.store = s.store)) ∧
     (st = 3 → (portSt s p).flitAt + 100000 ≤ max s.now t → exec (.portSilence p t) s = .next (goDown (s.upto t) p 4 true)) ∧
     (∀ r : Nat, st = 3 → downReason s p = some r → exec (.portDown p t) s = .next (goDown (s.upto t) p r true)) ∧
     (downReason s p = none → exec (.portDown p t) s = .next (s.upto t)) ∧
     (∀ a : Nat, (portSt s p).notice = some a → a + 10000 ≤ max s.now t → Gives (.downNoticeEnd p t) s fun u =>
       (portSt u p).notice = none ∧ u.out = s.out ++ [.control p 6 "QUIET" 0] ∧ u.regs = s.regs) ∧
     (s.flag (F.SCH_K_STATUS_FLUSHING p) = true → (s.fab.flights.any fun f => f.req.port.val = p.val) = false →
       exec (.portFlushDone p t) s = .next (tryLinking ((s.upto t).setFlag (F.SCH_K_STATUS_FLUSHING p) false) p)) ∧
     ((s.fab.flights.any fun f => f.req.port.val = p.val) = true → exec (.portFlushDone p t) s = .next (s.upto t)) ∧
     (∀ en : Bool, PortOpen s →
       (s.flag (F.KZP_CTRL_EN p) = en → exec (.portEnable p en t) s = .next (answeredState (s.upto t))) ∧
       (s.flag (F.KZP_CTRL_EN p) = !en → exec (.portEnable p en t) s = .next (enablePort (answeredState (s.upto t)) p en))) ∧
     (st = 0 → s.flag (F.KZP_CTRL_EN p) = true → s.flag (F.SCH_K_STATUS_FLUSHING p) = false → portsMayRun s = true →
       s.comp.retired.contains (.port, p.val) = false → portClocked s p = true → (∃ l ∈ sixLinks, linkSt s p l ≠ 0) →
       linkSetSize s p < s.get (F.KZP_CTRL_MIN_LINKS p) → (tryLinking s p).get (F.KZP_STATUS_STATE p) = 1)))

/-- Flits, CONTROL flits and crypto frames on a link in service: a sound DATA flit with the next FSN is accepted and acknowledged, one that
fails is answered with a NAK (R475 to R478); acknowledgements and credits are taken (R483, R484); a frame that verifies moves the link's
COUNTER on and one with an older COUNTER is dropped (R486, R487, R490); a link whose COUNTER reaches the limit turns to its next key (R490,
R614). -/
def Obligations.FlitsAndFramesReceived : Prop :=  ∀ (s : State) (p l : Fin 6) (t : Nat), linkOn s p l = true →
    let k := linkOf s p l
    (∀ (corr uncorr : Nat) (b : List Byte), bits (flitHead b) 0 2 = 1 →
      (flitFails s p uncorr b = true → Gives (.flitReceive p l corr uncorr b t) s fun u =>
        u.out = s.out ++ [.control p l "NAK" ((k.rxNext + 4095) % 4096)] ∧ linkOf u p l = k) ∧
      (flitFails s p uncorr b = false → bits (flitHead b) 2 12 = k.rxNext → Gives (.flitReceive p l corr uncorr b t) s fun u =>
        (linkOf u p l).rxNext = (k.rxNext + 1) % 4096 ∧ (linkOf u p l).flitAt = max s.now t ∧
        u.out = s.out ++ [.control p l "ACK" (((k.rxNext + 1) % 4096 + 4095) % 4096)])) ∧
    (∀ x : CtlFlit, portKeyed s p = true →
      (x.tagOk = false → exec (.controlFlit p l x t) s = .next (tagFails (s.upto t) p l)) ∧
      (x.tagOk = true → x.nak = false → x.down = false → Gives (.controlFlit p l x t) s fun u =>
        (linkOf u p l).acked = (x.ack.val + 1) % 4096 ∧ (portSt u p).credits = addCredits (portSt s p).credits x.credits.toNat ∧
        u.store = s.store ∧ u.regs = s.regs) ∧
      (x.tagOk = true → x.nak = false → x.down = true → s.get (F.KZP_STATUS_STATE p) = 3 →
        Gives (.controlFlit p l { x with down := false } t) s fun q => exec (.controlFlit p l x t) s = .next (goDown q p 3 true))) ∧
    (∀ x : CtlFlit, portKeyed s p = false → exec (.controlFlit p l x t) s = .next (flitSeen (s.upto t) p l)) ∧
    (∀ x : Frame0, portKeyed s p = true →
      (x.slot = k.rxSlot → x.counter.toNat < k.rxCtr → exec (.cryptoFrame p l x t) s = .next (s.upto t)) ∧
      (x.good = true → (x.slot ≠ k.rxSlot ∨ k.rxCtr ≤ x.counter.toNat) → Gives (.cryptoFrame p l x t) s fun u =>
        (linkOf u p l).rxCtr = x.counter.toNat + 1 ∧ (linkOf u p l).rxSlot = x.slot ∧
        (linkOf u p l).rxGen = (if x.slot = k.rxSlot then k.rxGen else k.rxGen + 1) ∧
        portSt u p = x.msgs.foldl takeMsn (portSt s p)) ∧
      (x.good = false → (x.slot ≠ k.rxSlot ∨ k.rxCtr ≤ x.counter.toNat) →
        exec (.cryptoFrame p l x t) s = .next ((tagFails (s.upto t) p l).emit (.control p l "NAK" ((x.first.val + 4095) % 4096))))) ∧
    (∀ c : BitVec 63, portKeyed s p = true → 2 ^ s.get (F.KZP_CTRL_REKEY_LOG2 p) ≤ c.toNat → Gives (.rekey p l c t) s fun u =>
      (linkOf u p l).txGen = k.txGen + 1 ∧ (linkOf u p l).txSlot = !k.txSlot ∧
      u.get (F.KZP_CRYPTO_REKEYS p) = (s.get (F.KZP_CRYPTO_REKEYS p) + 1) % 65536) ∧
    (∀ c : BitVec 63, c.toNat < 2 ^ s.get (F.KZP_CTRL_REKEY_LOG2 p) → Gives (.rekey p l c t) s fun u =>
      linkOf u p l = k ∧ u.get (F.KZP_L_STATUS_TX_COUNTER_HI p l) = c.toNat / 2 ^ 24) ∧
    (∀ median peers : Nat, linkSt s p l = 3 → k.haze.hazy = false → (s.get (F.KZP_STATUS_STATE p) ≠ 3 ∨ s.get (F.KZP_CTRL_MIN_LINKS p) < linkSetSize s p) →
      s.get F.KZP_HAZE_CFG_RATIO * peers < median * 16 → s.get F.KZP_HAZE_CFG_WINDOW_MS ≤ k.haze.above + 1 →
      Gives (.linkHazeCheck p l median peers t) s fun u =>
        linkSt u p l = 4 ∧ bits (u.get (F.KZP_STATUS_HAZY p)) l 1 = 1 ∧ bits (u.get (F.KZP_STATUS_LINK_SET p)) l 1 = 0) ∧
    (∀ median peers : Nat, linkSt s p l = 4 → k.haze.hazy = true → median * 16 ≤ s.get F.KZP_HAZE_CFG_EXIT_RATIO * peers →
      s.get F.KZP_HAZE_CFG_EXIT_MS ≤ k.haze.below + 1 →
      Gives (.linkHazeCheck p l median peers t) s fun u =>
        linkSt u p l = 3 ∧ bits (u.get (F.KZP_STATUS_HAZY p)) l 1 = 0 ∧ bits (u.get (F.KZP_STATUS_LINK_SET p)) l 1 = 1)

/-- Under the CXL 3.2 personality a CXL.mem message acts as the request that R500 maps it to, an opcode outside the table is counted, and
the mailbox answers its commands (R499, R503). -/
def Obligations.CxlMessagesMap : Prop :=  (∀ (s : State) (x : CxlMsg), cxlPort s x.port = true → portUp s x.port = true →
    let q := (s.upto x.t).setFlag (F.KZP_CXL_STATUS_MEM_EN x.port) true
    (x.op = .memRdAny → Gives (.cxlMemRequest x) s fun u => exec (.rdOwn (cxlReq q x 63 [])) q = .next u) ∧
    (x.op = .memRdShared ∨ x.op = .memRdData → Gives (.cxlMemRequest x) s fun u => exec (.rdShared (cxlReq q x 63 [])) q = .next u) ∧
    (x.op = .memRdInv → Gives (.cxlMemRequest x) s fun u => exec (.rd (cxlReq q x 63 [])) q = .next u) ∧
    (∀ d : List Byte, x.op = .memWr false d →
      Gives (.cxlMemRequest x) s fun u => exec (.wrLine (cxlReq q x 63 (padTo 64 d))) q = .next u) ∧
    (x.op = .memClnEvct → Gives (.cxlMemRequest x) s fun u => exec (.evictClean (cxlMsg0 q x [] false false)) q = .next u) ∧
    (x.op = .other → exec (.cxlMemRequest x) s = .next (q.bumpSat (F.KZP_CXL_STATUS_UNSUPPORTED x.port)))) ∧
  (∀ (s : State) (p : Fin 6), cxlPort s p = true →
    let c := cxlCapacity s
    exec (.biConflict p) s = .next (s.emit (.control p 0 "BIConflictAck" 0)) ∧
    exec (.identifyMemoryDevice p) s = .next (s.emit (.mgmt "IDENTIFY_MEMORY_DEVICE" 0 [p.val, c, c, 0])) ∧
    exec (.getPartitionInfo p) s = .next (s.emit (.mgmt "GET_PARTITION_INFO" 0 [p.val, c, 0, c, 0])) ∧
    (Gives (.getHealthInfo p) s fun u => ∃ v : Nat, u.out = s.out ++ [.mgmt "GET_HEALTH_INFO" 0 [p.val, v]] ∧ u.regs = s.regs) ∧
    (Gives (.getSupportedLogs p) s fun u => ∃ v : Nat, u.out = s.out ++ [.mgmt "GET_SUPPORTED_LOGS" 0 [p.val, v]] ∧ u.regs = s.regs) ∧
    exec (.getEventRecords p) s = .next (s.emit (.mgmt "GET_EVENT_RECORDS" 0
      (p.val :: (portSt s p).cxlEvents.flatMap fun e => [codeNum e.1, e.2]))) ∧
    (Gives (.clearEventRecords p) s fun u => (portSt u p).cxlEvents = [] ∧ u.out = s.out ++ [.mgmt "CLEAR_EVENT_RECORDS" 0 [p.val]]) ∧
    ∀ op : BitVec 16, exec (.cxlMailboxUnsupported p op) s = .next (s.emit (.mgmt "Unsupported" 0x15 [p.val, op.toNat])))

/-- A cold start keeps what fuses and flash hold and nothing else (R543, R555, R573, R579, R585, R590, R670): every other register field
takes its reset value, and the pool lists no byte. A loss of supply leaves the device without it, every ball released (R671). Firmware whose
image verifies runs, and the start commits one block of signatures (R591, R596, R674); once every stack has trained the near tier serves,
and the persisted map is in force (R674). -/
def Obligations.StartsKeepFusesAndFlash : Prop :=
  (∀ s : State,
     let keep := [F.LC_STATE_STATE, F.LC_STATE_STATE_C, F.LC_SVN_SVN, F.LC_SVN_OWNER_COSIGN, F.SEC_XMSS_STATE_BLOCKS,
       F.SEC_XMSS_STATE_BLOCKS_C, F.RAS_FW_ACTIVE_BANK]
     let cold := fun (u : State) (also : List Fld) =>
       (∀ f ∈ keep, u.get f = s.get f % 2 ^ f.wid) ∧
       (∀ f : Fld, f.key ∉ (keep ++ F.SEC_TAMPER_STATUS_COUNT :: also).map Fld.key → u.get f = f.reset) ∧
       (s.flag F.SEC_TAMPER_STATUS_TAMPERED = false → u.get F.SEC_TAMPER_STATUS_COUNT = s.get F.SEC_TAMPER_STATUS_COUNT % 2 ^ F.SEC_TAMPER_STATUS_COUNT.wid) ∧
       u.comp.persisted = s.comp.persisted ∧ u.comp.persistedEpoch = s.comp.persistedEpoch ∧ u.comp.kept = s.comp.kept ∧
       u.comp.banks = s.comp.banks ∧ u.sec.owner = s.sec.owner ∧ u.store.mem = [] ∧ u.store.pages = [] ∧ u.dir = {} ∧ u.pending = s.pending
     (∀ x : Fin 8, Gives (.powerOn x) s fun u => cold u [F.CLK_STATUS_XDLY] ∧ u.get F.CLK_STATUS_XDLY = x.val ∧ u.clk.off = false ∧ u.now = 0) ∧
     (∀ t : Nat, Gives (.supplyLoss t) s fun u =>
       cold u [] ∧ u.clk.off = true ∧ u.now = max s.now t ∧ u.out = s.out ++ [.pin "ALL_BALLS_RELEASED" true])) ∧
  (∀ (s : State) (t : Nat),
     (s.flag F.SYS_STATUS_FW_RUNNING = false → s.clk.off = false →
       (∀ x : Image, imageOk s x = true → Gives (.activeBankVerified x t) s fun u =>
         u.flag F.SYS_STATUS_FW_RUNNING = true ∧ u.get F.RAS_FW_VERSION = x.version.toNat ∧
         u.get F.SYS_BOOT_FW_MS = min (max s.now t / 1000000) 65535 ∧
         (s.sec.blocksBad < 2 → s.get F.SEC_XMSS_STATE_BLOCKS < 2 ^ 30 → u.get F.SEC_XMSS_STATE_BLOCKS = s.get F.SEC_XMSS_STATE_BLOCKS + 1) ∧
         u.store = s.store) ∧
       (∀ x : Image, imageOk s x = false → exec (.activeBankVerified x t) s = .next (s.upto t))) ∧
     (loopLocked s 1 = true → awake s = true → s.flag F.SYS_STATUS_FW_RUNNING = true → (∃ m : Fin 8, s.get (F.HBM_H_STATUS_STATE m) = 2) →
       let u := (List.range 8).foldl (fun s m => if s.get (F.HBM_H_STATUS_STATE m) = 2 then s.set (F.HBM_H_STATUS_STATE m) 3 else s) (s.upto t)
       let q := (setPoolFrames ((u.setFlag F.SYS_STATUS_NEAR_SERVING true).set F.SYS_BOOT_NEAR_MS (nowMs u))).setFlag F.SYS_STATUS_MAP_INSTALLED true
       (s.flag F.SYS_STATUS_NEAR_SERVING = false → (∀ m : Fin 8, 2 ≤ s.get (F.HBM_H_STATUS_STATE m)) →
         exec (.hbmTrained t) s = .next
           ((placeMap (keptFences q) s.comp.persisted s.comp.persistedEpoch false).setFlag F.CMP_STATUS_PERSISTED true)) ∧
       (s.flag F.SYS_STATUS_NEAR_SERVING = true → exec (.hbmTrained t) s = .next (wake u)) ∧
       ∀ m : Fin 8, u.get (F.HBM_H_STATUS_STATE m) = if s.get (F.HBM_H_STATUS_STATE m) = 2 then 3 else s.get (F.HBM_H_STATUS_STATE m)))

/-- XTAL is tested after the strap delay (R630); accepted, it starts PLL-X and sets LPO_TRIMMED (R631); 2,000 times the delay without it
sets XTAL of CLK_SOURCE_LOST, and the test goes on (R632). A started loop that locks is LOCKED at its output frequency (R636, R638), and a
core loop whose work has been idle for its time stops, or with WARM set is gated (R637, R639). A loss of XTAL makes every locked loop coast
at its lower frequency, and sets the source-lost bit (R642); after 10 ms a port loop changes to REFCLK (R643). A loss of REFCLK takes the
management port's link (R644), and its return brings it back; a return of XTAL ends the coasting (R645). -/
def Obligations.ClocksStartCoastReturn : Prop :=
  (∀ (s : State) (t : Nat), s.clk.off = false →
     (chipClock s = false → 1000000 * xtalDelay s ≤ max s.now t →
       exec (.xtalTestStart t) s = .next { s.upto t with clk := { s.clk with testing := true } }) ∧
     (s.clk.testing = true → Gives (.xtalStable t) s fun u =>
       u.flag F.CLK_STATUS_XTAL_OK = true ∧ u.flag F.CLK_STATUS_LPO_TRIMMED = true ∧ u.get F.CLK_PLL_X_STATE = 1 ∧
       u.get F.CLK_STATUS_XTAL_STABLE_MS = min (max s.now t / 1000000) 65535 ∧ u.clk.testing = false ∧ u.store = s.store) ∧
     (s.clk.testing = true → 2000000 * xtalDelay s ≤ max s.now t → s.flag F.CLK_SOURCE_LOST_XTAL = false →
       Gives (.xtalStartTimeout t) s fun u =>
         u.flag F.CLK_SOURCE_LOST_XTAL = true ∧ bits (u.get F.MGT_IRQ_STATUS_SOURCES) 2 1 = 1 ∧ u.clk = s.clk) ∧
     (∀ (k : Fin 3) (ns : Nat), s.get (loopState k) = 1 → awake s = true →
       (s.flag F.CLK_STATUS_XTAL_OK || s.flag F.CLK_STATUS_COASTING) = true →
       Gives (.pllLocked k ns t) s fun u =>
         u.get (loopState k) = 2 ∧ u.get (loopFreq k) = loopMhz s k ∧ u.get (loopLock k) = min ns 65535 ∧
         ∀ f : Fld, f.key ∉ [(loopState k).key, (loopFreq k).key, (loopLock k).key] → u.get f = s.get f) ∧
     (∀ engines : Bool,
       let k := if engines then 2 else 0
       let warm := if engines then s.flag F.CLK_CTRL_WARM_E else s.flag F.CLK_CTRL_WARM_T
       awake s = true → loopLocked s k = true →
       (loopIdle (s.upto t) engines = true → Gives (.pllIdleStop engines t) s fun u =>
         u.get (loopState k) = (if warm then 3 else 0) ∧ u.get (loopFreq k) = 0 ∧
         (s.get (loopState (2 - k)) = 0 → u.get F.PWR_STATUS_STATE = 1)) ∧
       (loopIdle (s.upto t) engines = false → exec (.pllIdleStop engines t) s = .next (s.upto t)))) ∧
  (∀ (s : State) (t : Nat), s.clk.off = false →
     (s.flag F.CLK_STATUS_XTAL_OK = true → s.get F.PWR_STATUS_STATE ≠ 2 → Gives (.xtalLoss t) s fun u =>
       u.flag F.CLK_STATUS_XTAL_OK = false ∧ u.flag F.CLK_STATUS_COASTING = true ∧ u.flag F.CLK_SOURCE_LOST_XTAL = true ∧
       u.clk.coastAt = some (max s.now t) ∧ u.clk.slowMem = true ∧
       ∀ k : Fin 3, s.get (loopState k) = 2 → u.get (loopFreq k) = [300, 500, 400].getD k.val 0) ∧
     (∀ (p : Fin 6) (a : Nat), s.clk.coastAt = some a → tabGet 0 p.val s.clk.portRef ≠ 2 →
       (max s.now t < a + 10000000 → exec (.portLoopHoldover p t) s = .next (s.upto t)) ∧
       (a + 10000000 ≤ max s.now t → s.flag F.CLK_STATUS_REFCLK_OK = true →
         exec (.portLoopHoldover p t) s = .next { s.upto t with clk := { s.clk with portRef := tabPut p.val 1 s.clk.portRef } }) ∧
       (a + 10000000 ≤ max s.now t → s.flag F.CLK_STATUS_REFCLK_OK = false →
         exec (.portLoopHoldover p t) s = .next (unlockPort { s.upto t with clk := { s.clk with portRef := tabPut p.val 2 s.clk.portRef } } p))) ∧
     (s.flag F.CLK_STATUS_REFCLK_OK = true → Gives (.refclkLoss t) s fun u =>
       u.flag F.CLK_STATUS_REFCLK_OK = false ∧ u.flag F.CLK_SOURCE_LOST_REFCLK = true ∧ u.mgmt.linkUp = false ∧ u.store = s.store) ∧
     (s.flag F.CLK_STATUS_REFCLK_OK = false → Gives (.refclkReturn t) s fun u =>
       u.flag F.CLK_STATUS_REFCLK_OK = true ∧ u.mgmt.linkUp = true ∧ (∀ e ∈ u.clk.portRef, e.2 ≠ 2) ∧ u.store = s.store) ∧
     (s.flag F.CLK_STATUS_XTAL_OK = false → s.clk.testing = false → s.get F.CLK_STATUS_XTAL_STABLE_MS ≠ 0 → ∀ a : Nat, s.clk.coastAt = some a →
       Gives (.xtalReturn t) s fun u =>
         u.flag F.CLK_STATUS_XTAL_OK = true ∧ u.flag F.CLK_STATUS_COASTING = false ∧ u.clk.coastAt = none ∧ u.clk.slowMem = false ∧
         u.clk.portRef = [] ∧ ∀ k : Fin 3, s.get (loopState k) = 2 → u.get (loopFreq k) = [1200, 2000, 1600].getD k.val 0) ∧
     (∀ (marks : Bool) (ppm : Int), s.get F.PWR_STATUS_STATE ≠ 2 → trimRef s = (if marks then 2 else 1) →
       Gives (.ioscTrimWindow marks ppm t) s fun u =>
         u.get F.CLK_IOSC_TRIM_CODE = signedBits 8 (trimStep (signedOf 8 (s.get F.CLK_IOSC_TRIM_CODE)) ppm) ∧
         u.get F.CLK_IOSC_TRIM_ERR_PPM = signedBits 16 ppm ∧
         u.get F.CLK_IOSC_TRIM_WINDOWS = (s.get F.CLK_IOSC_TRIM_WINDOWS + 1) % 2 ^ 32))

/-- DEEP_IDLE (R646 to R653): entry is refused with its reason and changes no STATE; where nothing need be recalled, written back or sent,
it is reached at once, with every core loop off and no translation kept; a wake leaves it for IDLE with its cause, and during an entry
abandons it with DENY_REASON 7. An access in DEEP_IDLE that the always-on domain serves is counted or takes its value there. Limits and
throttles (R677 to R683): THROTTLE_N shows in PIN; the thermal limit falls by 80 W at most every 10 ms at or above THROTTLE_C, and rises by
80 W at most every 100 ms at 3 °C below it, between 400 and 1,600 W; a stack at 90 °C throttles until all are at 87 °C; above a limit one
more group is held, below it one less; at a trip all issue stops and THERMTRIP_N is asserted. -/
def Obligations.DeepIdleAndLimits : Prop :=
  (∀ (s : State) (t : Nat),
     (PortOpen s → awake s = true → loopLocked s 1 = true → s.flag F.PWR_STATUS_ENTERING = false →
       (∀ r : Nat, deepDenied s = some r → Gives (.enterDeep t) s fun u =>
         u.get F.PWR_STATUS_RESULT = 8 ∧ u.get F.PWR_STATUS_DENY_REASON = r ∧ u.get F.PWR_STATUS_STATE = s.get F.PWR_STATUS_STATE ∧
         u.store = s.store) ∧
       (deepDenied s = none → s.dir.ents = [] → s.dir.txns = [] → (∀ p : Fin 6, s.get (F.KZP_STATUS_STATE p) = 0) → s.cache.guests = [] →
         s.cache.wbs = [] → s.store.dirty = [] →
         Gives (.enterDeep t) s fun u =>
           u.get F.PWR_STATUS_STATE = 2 ∧ u.get F.PWR_STATUS_RESULT = 0 ∧ (∀ k : Fin 3, u.get (loopState k) = 0) ∧
           u.xlt.tlb = [] ∧ u.xlt.segCache = [] ∧ u.rings.cache = [] ∧ u.clk.deepAt = max s.now t ∧ u.store.mem = s.store.mem)) ∧
     (halted s = false → s.clk.trip = false →
       (s.get F.PWR_STATUS_STATE = 2 → Gives (.wake t) s fun u =>
         u.get F.PWR_STATUS_STATE = 1 ∧ u.get F.PWR_WAKE_CAUSE = 1 ∧ u.get F.CLK_PLL_X_STATE = 2 ∧ u.store = s.store) ∧
       (s.get F.PWR_STATUS_STATE ≠ 2 → s.flag F.PWR_STATUS_ENTERING = true → Gives (.wake t) s fun u =>
         u.flag F.PWR_STATUS_ENTERING = false ∧ u.get F.PWR_STATUS_RESULT = 8 ∧ u.get F.PWR_STATUS_DENY_REASON = 7 ∧
         u.get F.PWR_WAKE_CAUSE = 1)) ∧
     (exec (.deepWakeEvent .access t) s = .next (if s.flag F.PWR_CTRL_WAKE_ON_PCIE then wakeUp (s.upto t) 2 else s.upto t)) ∧
     (exec (.deepWakeEvent .light t) s = .next (if s.flag F.PWR_CTRL_WAKE_ON_LIGHT then wakeUp (s.upto t) 3 else s.upto t)) ∧
     (s.flag F.PWR_CTRL_WAKE_ON_TIMER = true → s.get F.PWR_WAKE_TIMER_MS ≠ 0 → s.get F.PWR_STATUS_STATE = 2 →
       s.clk.deepAt + 1000000 * s.get F.PWR_WAKE_TIMER_MS ≤ max s.now t → exec (.deepWakeEvent .timer t) s = .next (wakeUp (s.upto t) 4)) ∧
     (exec (.deepWakeEvent .memFault t) s = .next (wakeUp (s.upto t) 5)) ∧
     (∀ a : MgmtAccess, s.clk.off = false → deepNoWake s = true → takesWrites s = true → a.bar = 0 → deepServed a.off.toNat = true → a.off.toNat % 8 = 0 →
       (regAt a.off.toNat).isSome = true → a.val = none →
       exec (.deepIdleMgmtAccess a t) s = .next ((mgmtTouch (s.upto t)).emit (.mmio (regRead (s.upto t) a.off.toNat)))) ∧
     (∀ (a : MgmtAccess) (v : Word), s.clk.off = false → deepNoWake s = true → takesWrites s = true → a.bar = 0 → deepServed a.off.toNat = true →
       a.val = some v → exec (.deepIdleMgmtAccess a t) s = .next (writeAt (mgmtTouch (s.upto t)) a.off.toNat v.toNat)) ∧
     (∀ e : Fin 20, s.rings.jobs = [] → s.plane.kcopies = [] → tabGet 0 e.val s.clk.engAt + 50000 ≤ max s.now t →
       Gives (.engineIdleGate e t) s fun u => e.val ∈ u.clk.gated ∧ u.regs = s.regs ∧ u.store = s.store)) ∧
  (∀ (s : State) (t : Nat), s.clk.off = false →
     (∀ low : Bool, Gives (.throttleN low t) s fun u =>
       u.flag F.PWR_THROTTLE_PIN = low ∧ ∀ f : Fld, f.key ∉ [F.PWR_THROTTLE_PIN.key, F.PWR_THROTTLE_THROTTLED_MS.key] → u.get f = s.get f) ∧
     (∀ tj : Fin 256, Gives (.thermalLimitTick tj t) s fun u =>
       let lim := s.get F.PWR_THERMAL_THROTTLE_C
       u.get F.PWR_THERMAL_TJ_MAX_C = tj.val ∧
       u.clk.thermal =
         (if lim ≤ tj.val ∧ s.clk.lowerAt + 10000000 ≤ max s.now t then max 400 (s.clk.thermal - 80)
          else if tj.val + 3 ≤ lim ∧ s.clk.raiseAt + 100000000 ≤ max s.now t then min 1600 (s.clk.thermal + 80) else s.clk.thermal) ∧
       u.flag F.PWR_THROTTLE_THERMAL = decide (u.clk.thermal < 1600)) ∧
     (∀ (m : Fin 8) (temp : Fin 256), Gives (.hbmTempCheck m temp t) s fun u =>
       (90 ≤ temp.val → u.flag F.PWR_THROTTLE_HBM = true ∧ m.val ∈ u.clk.hot) ∧
       (temp.val ≤ 87 → (∀ k ∈ s.clk.hot, k = m.val) → u.flag F.PWR_THROTTLE_HBM = false) ∧
       (87 < temp.val → temp.val < 90 → u.clk.hot = s.clk.hot)) ∧
     (∀ j k e : Fin 256, s.clk.trip = false → (115 ≤ j.val ∨ 105 ≤ k.val ∨ 90 ≤ e.val) → Gives (.thermalTrip j k e t) s fun u =>
       u.clk.trip = true ∧ u.fab.flights = [] ∧ u.rings.jobs = [] ∧ u.plane.kerns = [] ∧ (∀ p : Fin 6, u.get (F.KZP_STATUS_STATE p) = 0) ∧
       u.out = s.out ++ [.pin "THERMTRIP_N" false]) ∧
     (∀ j k e : Fin 256, s.clk.trip = false → j.val < 115 → k.val < 105 → e.val < 90 → Gives (.thermalTrip j k e t) s fun u =>
       u.clk = s.clk ∧ u.get F.PWR_THERMAL_TJ_MAX_C = j.val ∧ u.get F.PWR_THERMAL_HBM_MAX_C = k.val ∧ u.get F.PWR_THERMAL_OE_MAX_C = e.val) ∧
     (∀ c : Fin 256, Gives (.inletSensorRead (some c) t) s fun u =>
       u.flag F.PWR_THERMAL_INLET_PRESENT = true ∧ u.get F.PWR_THERMAL_INLET_C = c.val ∧ u.flag F.PWR_THERMAL_INLET_HOT = decide (40 < c.val)) ∧
     (Gives (.inletSensorRead none t) s fun u => u.flag F.PWR_THERMAL_INLET_PRESENT = false ∧ u.flag F.PWR_THERMAL_INLET_HOT = false) ∧
     (∀ watts amps : Nat, Gives (.powerLimitWindow watts amps t) s fun u =>
       u.get F.PWR_STATUS_POWER_W = min watts 4095 ∧
       u.clk.held = (if limitNow s ≤ watts ∨ s.get F.PWR_LIMIT_CORE_LIMIT_A ≤ amps then min 3 (s.clk.held + 1) else s.clk.held - 1) ∧
       u.flag F.PWR_THROTTLE_CURRENT = decide (s.get F.PWR_LIMIT_CORE_LIMIT_A ≤ amps)))

/-- CMP_STAGE whose entries are paired and well formed makes their map the staging map of its context, or with DISCARD drops it; an entry
that breaks its pairing ends it with CPAIR, one that is malformed with MALFORMED, and another owner's staging map with DENIED (R541). A
staging map left alone for STAGE_TIMEOUT_MS is dropped. CMP_COMMIT ends with the first code of R542 that applies; without one it installs
the staging map as the next epoch, once nothing that it withdraws is left (R543), with the epoch's complement beside it. MAP_PERSIST writes
the map in force to flash. -/
def Obligations.MapsStagedAndCommitted : Prop :=
  ((∀ (s s1 : State) (d : Desc) (j : Job) (bs : List (List Byte)), Ready s d 0x60 zenith j →
     let c := ringCtx j.ring
     let s0 := startState s d zenith
     let j1 := started j zenith
     let es := cutBytes 64 (dbits d.words 32 0 32) (bs.getD 0 [])
     let s2 := if ownsStaging s1 c then { s1 with comp := { s1.comp with stageAt := s1.now } } else s1
     commitRuns s0 = false → fetchRanges s0 j1 zenith (cmpRanges d.words) = (some bs, s1) →
     ((es.any fun b => !pairedOk b) = true → exec (.cmpStage d) s = .next (rowEnd s j (finishJob s2 j1 .cpair))) ∧
     ((es.any fun b => !pairedOk b) = false →
       (applyEntries (s1.comp.staging.getD s1.comp.map) s1.comp.changed es = none →
         exec (.cmpStage d) s = .next (rowEnd s j (finishJob s2 j1 .malformed))) ∧
       (∀ (m : CMap) (named : List (Nat × Nat)), applyEntries (s1.comp.staging.getD s1.comp.map) s1.comp.changed es = some (m, named) →
         ((s1.comp.staging.isSome && !ownsStaging s1 c) = true → exec (.cmpStage d) s = .next (rowEnd s j (finishJob s2 j1 .denied))) ∧
         ((s1.comp.staging.isSome && !ownsStaging s1 c) = false → named.length ≤ 65536 →
           (dbits d.words 16 0 1 = 1 → Gives (.cmpStage d) s fun u => u.comp.staging = none ∧ u.comp.changed = [] ∧ u.comp.map = s1.comp.map) ∧
           (dbits d.words 16 0 1 ≠ 1 → Gives (.cmpStage d) s fun u =>
             u.comp.staging = some m ∧ u.comp.changed = named ∧ u.comp.map = s1.comp.map ∧ u.get F.CMP_STATUS_STAGE_OWNER = c % 65536 ∧
             u.flag F.CMP_STATUS_STAGING = true))))) ∧
   (∀ (s : State) (t : Nat), s.comp.staging.isSome = true → commitRuns s = false →
     (s.comp.stageAt + 1000000 * s.get F.CMP_CTRL_STAGE_TIMEOUT_MS ≤ max s.now t → Gives (.stageTimeout t) s fun u =>
       u.comp.staging = none ∧ u.comp.changed = [] ∧ u.flag F.CMP_STATUS_STAGING = false ∧ u.comp.map = s.comp.map) ∧
     (max s.now t < s.comp.stageAt + 1000000 * s.get F.CMP_CTRL_STAGE_TIMEOUT_MS → exec (.stageTimeout t) s = .next (s.upto t)))) ∧
  ((∀ (s s1 : State) (d : Desc) (j : Job) (bs : List (List Byte)), Ready s d 0x61 zenith j → j.phase = 0 →
     let c := ringCtx j.ring
     let base := dbits d.words 16 0 32
     let s0 := startState s d zenith
     let j1 := started j zenith
     let s2 := if ownsStaging s1 c then { s1 with comp := { s1.comp with stageAt := s1.now } } else s1
     let ends := fun (t : State) (e : Code) (x : Nat) => exec (.cmpCommit d) s = .next (rowEnd s j (finishJob t j1 e x))
     commitRuns s0 = false → fetchRanges s0 j1 zenith (cmpRanges d.words) = (some bs, s1) →
     (dbits d.words 20 0 32 ≠ onesComp 32 base → ends s2 .cpair 0) ∧
     (dbits d.words 20 0 32 = onesComp 32 base →
       (ownsStaging s1 c = false → ends s2 .denied 0) ∧
       (∀ m : CMap, s1.comp.staging = some m → ownsStaging s1 c = true →
         (curEpoch s1 ≠ base → ends (s2.bumpSat F.CMP_STATS_STALE_COMMITS) .staleBase (curEpoch s1)) ∧
         (curEpoch s1 = base → base = 2 ^ 32 - 1 → ends s2 .capacity 0) ∧
         (curEpoch s1 = base → base ≠ 2 ^ 32 - 1 →
           (mapMalformed m = true → ends s2 .malformed 0) ∧
           (mapMalformed m = false → needsQuorum s1 m (cutBytes 3456 (dbits d.words 32 0 8) (bs.getD 0 [])) = true → ends s2 .integrity 0) ∧
           (mapMalformed m = false → needsQuorum s1 m (cutBytes 3456 (dbits d.words 32 0 8) (bs.getD 0 [])) = false → mapDenied s1 m = true →
             ends s2 .denied 0))))) ∧
   (∀ (s : State) (j : Job) (m : CMap), Quiet s → tenantsChanged s.comp.map m = [] → s.flag F.CMP_STATUS_LEASE = false →
     (∀ p : Fin 6, portUp s p = true → tabGet? p.val s.comp.map.ports = tabGet? p.val m.ports) →
     let u := commitGo s j m
     u.comp.map = m ∧ u.comp.prev = some s.comp.map ∧ u.comp.staging = none ∧ u.get F.CMP_EPOCH_EPOCH = (curEpoch s + 1) % 2 ^ 32 ∧
     u.get F.CMP_EPOCH_EPOCH_C = onesComp 32 (curEpoch s + 1) ∧ u.flag F.CMP_STATUS_PERSISTED = false ∧ u.store = s.store) ∧
   (∀ (s : State) (t : Nat), s.flag F.CMP_STATUS_PERSISTED = false → Gives (.mapPersist t) s fun u =>
     u.comp.persisted = s.comp.map ∧ u.comp.persistedEpoch = curEpoch s ∧ u.flag F.CMP_STATUS_PERSISTED = true ∧ u.comp.map = s.comp.map))

/-- Events, leases and fences (R550 to R556, R559): CMP_EVENTS writes the kept records from START on, as many as fit; a manager's CMP_LEASE
is its heartbeat, a partner's renews its lease; without a heartbeat for MGR_MS LEASE mode starts; a fence statement that enough managers
endorse, of this epoch and sequence, acts, and FENCE_SEQ moves on. -/
def Obligations.LeasesAndFencesAct : Prop :=  (∀ (s : State) (d : Desc) (j : Job),
    let s0 := startState s d zenith
    let j1 := started j zenith
    let buf := dbits d.words 48 0 64
    let ev := s.comp.events.filter fun r => decide (dbits d.words 24 0 64 ≤ r.seq)
    let n := min ev.length (dbits d.words 56 0 32 / 64)
    (∀ s1 : State, Ready s d 0x62 zenith j → prepare s0 j1 zenith [⟨buf, 64 * n, .wr⟩] = (true, s1) → s1.comp.lostEvent = none →
      exec (.cmpEvents d) s = .next (rowEnd s j (finishJob (writeVa s1 (ringCtx j.ring) buf ((ev.take n).flatMap faultImage)) j1
        (if n < ev.length then .short else .ok) n))) ∧
    (Ready s d 0x63 zenith j →
      let r := s.ring j.ring
      let k := tqKey r.path r.partner
      (isManager s (ringCtx j.ring) = true → Gives (.cmpLease d) s fun u =>
        u.comp.lastBeat = max s.now d.t ∧ u.flag F.CMP_STATUS_LEASE = false ∧ Ends u d (endCode j .ok)) ∧
      (isManager s (ringCtx j.ring) = false → s.flag F.CMP_STATUS_LEASE = true → r.path < 6 → tabHas k s.comp.leases = true →
        Gives (.cmpLease d) s fun u =>
          tabGet? k u.comp.leases = some (max s.now d.t + 1000000 * s.comp.map.node.leaseMs) ∧ Ends u d (endCode j .ok))) ∧
    (∀ (s1 : State) (bs : List (List Byte)), Ready s d 0x64 zenith j → commitRuns s0 = false →
      fetchRanges s0 j1 zenith (cmpRanges d.words) = (some bs, s1) →
      let b := bs.getD 0 []
      let seq := s1.get F.CMP_FENCE_FENCE_SEQ
      let act := leVal ((b.drop 8).take 1)
      let p := leVal ((b.drop 9).take 1)
      let q := leVal ((b.drop 10).take 1)
      let enough := s1.comp.map.node.quorumK ≤ endorsed s1 b (cutBytes 3456 (dbits d.words 32 0 8) (bs.getD 1 []))
      let now := leVal ((b.drop 12).take 4) = curEpoch s1 ∧ leVal ((b.drop 16).take 8) = seq
      (¬ enough → exec (.cmpFence d) s = .next (rowEnd s j (finishJob s1 j1 .integrity))) ∧
      (enough → ¬ now → exec (.cmpFence d) s = .next (rowEnd s j (finishJob (s1.bumpSat F.CMP_STATS_STALE_COMMITS) j1 .staleBase (curEpoch s1)))) ∧
      (enough → now → fenceMalformed s1 b = true → exec (.cmpFence d) s = .next (rowEnd s j (finishJob s1 j1 .malformed))) ∧
      (enough → now → fenceMalformed s1 b = false →
        let g := fenceGo (s1.set F.CMP_FENCE_FENCE_SEQ (seq + 1)) act p q
        exec (.cmpFence d) s = .next (rowEnd s j (finishJob (postRas
          { g with comp := { g.comp with kept := g.comp.fenced, keptExpel := g.flag F.CMP_STATUS_EXPELLED } }
          0x2C zenith (act + p * 2 ^ 8 + q * 2 ^ 11)) j1 .ok))))) ∧
  (∀ (s : State) (t : Nat),
    (s.flag F.CMP_STATUS_LEASE = false → s.comp.map.managers ≠ [] → s.comp.lastBeat + 1000000 * s.comp.map.node.mgrMs ≤ max s.now t →
      Gives (.managerTimeout t) s fun u =>
        u.flag F.CMP_STATUS_LEASE = true ∧ u.comp.leases = (s.comp.map.partners.filter fun e => e.2).map fun e =>
          (e.1, max s.now t + 1000000 * s.comp.map.node.leaseMs)) ∧
    (max s.now t < s.comp.lastBeat + 1000000 * s.comp.map.node.mgrMs → exec (.managerTimeout t) s = .next (s.upto t)) ∧
    (∀ (p : Fin 6) (q : Fin 256) (e : Nat), tabGet? (tqKey p q) s.comp.leases = some e → s.flag F.CMP_STATUS_LEASE = true →
      (e ≤ max s.now t → exec (.leaseLapse p q t) s = .next (wake (postRas { s.upto t with comp := { s.comp with
        leases := tabDel (tqKey p q) s.comp.leases, lapsed := setAdd (tqKey p q) s.comp.lapsed } } 0x2B zenith (p.val * 256 + q.val)))) ∧
      (max s.now t < e → exec (.leaseLapse p q t) s = .next (s.upto t))))

/-- Faults of the domains (R560 to R566): the first fault of an instance starts its recovery with an event of kind 0x20, a second one
retires it, and one inside a larger domain that recovers joins it; a recovery ends well once its work is done, and else in retirement; a
tile or engine that stays slow becomes Hazy. -/
def Obligations.DomainFaultsRecover : Prop :=  (∀ (s : State) (ty : DomType) (i cause : Nat), (match domAbove ty i with | some x => recovering s x.1 x.2 | none => false) = false →
    s.comp.retired.contains (ty, i) = false →
    (recovering s ty i = false →
      let a := noteFault s ty i cause
      a.1 = .first ∧ recovering a.2 ty i = true ∧ (∃ r ∈ a.2.comp.events, r.kind = 0x20 ∧ r.detail = domDetail ty i cause) ∧ a.2.store = s.store) ∧
    (recovering s ty i = true →
      let a := noteFault s ty i cause
      a.1 = .second ∧ recovering a.2 ty i = false ∧ a.2.comp.retired.contains (ty, i) = true)) ∧
  (∀ (s : State) (ty : DomType) (i : Fin 256) (t : Nat),
    (∀ cause : Fin 16,
      (domExists ty i = true → exec (.domainFault ty i cause t) s = .next (wake (domainFaulted (s.upto t) ty i cause))) ∧
      (domExists ty i = false → exec (.domainFault ty i cause t) s = .next (s.upto t))) ∧
    (∀ r : Recovery, (s.comp.recoveries.find? fun r => r.ty = ty && r.inst = i.val) = some r → ty ≠ .sector →
      (exec (.domainRecovered ty i false t) s = .next (wake (retiredState (retired (s.upto t) ty i false) ty i))) ∧
      (recoveryDone s ty i = false → exec (.domainRecovered ty i true t) s = .next (s.upto t)) ∧
      (recoveryDone s ty i = true → r.cause ≠ 5 →
        exec (.domainRecovered ty i true t) s = .next (wake (backInService (recovered (s.upto t) ty i) ty i false))) ∧
      (recoveryDone s ty i = true → r.cause = 5 →
        exec (.domainRecovered ty i true t) s = .next (wake (backInService (retired (s.upto t) ty i false) ty i true)))) ∧
    (domExists ty i = true → s.get F.RAS_CTRL_HAZE_FAIL_S ≠ 0 → (hazeRun s ty i).hazy = true →
      (hazeRun s ty i).since + 1000000000 * s.get F.RAS_CTRL_HAZE_FAIL_S ≤ max s.now t →
      exec (.hazeFailTimeout ty i t) s = .next (wake (domainFaulted (hazeAnew (s.upto t) ty i) ty i 4)))) ∧
  (∀ (s : State) (d : Desc) (j : Job), Ready s d 0x66 zenith j →
    let i := dbits d.words 17 0 8
    (∀ ty : DomType, domOf (dbits d.words 16 0 4) = some ty →
      exec (.cmpDomain d) s = .next (rowEnd s j (wake (finishJob
        (if dbits d.words 18 0 1 = 1 then returnDomain (startState s d zenith) ty i else domainFaulted (startState s d zenith) ty i 5)
        (started j zenith) .ok)))) ∧
    (domOf (dbits d.words 16 0 4) = none → Gives (.cmpDomain d) s fun u => Ends u d .malformed ∧ u.store = s.store)) ∧
  (∀ (s : State) (u : Fin 64) (median peers t : Nat), s.get F.RAS_HAZE_CFG_RATIO * peers < median * 16 →
    (s.get (F.TP_T_STATUS_STATE u) = 2 → s.flag (F.TP_T_STATUS_FAILED u) = false → (tabGet {} u.val s.comp.haze).hazy = false →
      s.get F.RAS_HAZE_CFG_WINDOW_MS ≤ (tabGet {} u.val s.comp.haze).above + 1 →
      Gives (.unitHazeCheck true u median peers t) s fun v => v.flag (F.TP_T_STATUS_HAZY u) = true ∧ v.store = s.store) ∧
    (∀ f : Fld, engineState u = some f → s.get f ≠ 3 → u.val < 24 → (tabGet {} (72 + u.val) s.comp.haze).hazy = false →
      s.get F.RAS_HAZE_CFG_WINDOW_MS ≤ (tabGet {} (72 + u.val) s.comp.haze).above + 1 →
      Gives (.unitHazeCheck false u median peers t) s fun v => v.get f = 2 ∧ v.store = s.store)) ∧
  (∀ (s : State) (id : Nat) (unit : Fin 256) (t : Nat) (v : Inval), (s.xlt.invals.find? fun v => v.id = id) = some v →
    v.waitOn.contains unit.val = true →
    (1000000 ≤ max s.now t - v.start → exec (.invalTimeout id unit t) s = .next (wake (recoverUnit (invalAcked
      (postFault (s.upto t) { kind := 8, source := unit.val, detail := unit.val }) v unit) unit))) ∧
    (max s.now t - v.start < 1000000 → exec (.invalTimeout id unit t) s = .next (s.upto t)))

/-- A sector's way out and back (R567 to R572): CMP_SECTOR starts its evacuation where R569 does not refuse it, or its return from OFF; an
evacuated sector that holds no work goes OFF; its self-test leads on to RETURNING or back to OFF. A page that moves is laid out in the
target sector. -/
def Obligations.SectorsEvacuateAndReturn : Prop :=  (∀ (s : State) (d : Desc) (j : Job), Ready s d 0x65 zenith j →
    let n := dbits d.words 16 0 2
    let t := dbits d.words 17 0 2
    let s0 := startState s d zenith
    let j1 := started j zenith
    (dbits d.words 16 2 1 = 1 → sectorState s n = 3 → ((List.range 4).any fun m => m ≠ n && sectorState s m ≠ 0) = false →
      Gives (.cmpSector d) s fun u => sectorState u n = 4 ∧ u.store = s.store ∧ Ends u d (endCode j .ok)) ∧
    (dbits d.words 16 2 1 = 1 → sectorState s n ≠ 3 → Gives (.cmpSector d) s fun u => u.regs = s.regs ∧ u.store = s.store ∧ Ends u d .denied) ∧
    (∀ c : Code, c ≠ .ok → dbits d.words 16 2 1 ≠ 1 → evacRefused s0 n t = some c →
      Gives (.cmpSector d) s fun u => u.regs = s.regs ∧ u.store = s.store ∧ Ends u d c) ∧
    (dbits d.words 16 2 1 ≠ 1 → evacRefused s0 n t = none →
      exec (.cmpSector d) s = .next (rowEnd s j (finishJob (evacStart { s0 with comp := { s0.comp with
        recoveries := s0.comp.recoveries ++ [{ ty := .sector, inst := n, cause := 5, since := s0.now }] } } n t) j1 .ok)))) ∧
  (∀ (s : State) (n : Fin 4) (t : Nat),
    (sectorState s n = 2 → sectorBusy s n = false → s.cache.guests = [] → s.cache.wbs = [] →
      Gives (.sectorPowerDown n t) s fun u => sectorState u n = 3 ∧ (∀ g : Fin 64, g.val / 16 = n.val → u.get (F.TP_T_STATUS_STATE g) = 0) ∧
        u.store.mem = s.store.mem) ∧
    (sectorState s n ≠ 2 → exec (.sectorPowerDown n t) s = .next (s.upto t)) ∧
    (sectorState s n = 4 → Gives (.sectorSelfTestDone n false t) s fun u => sectorState u n = 3 ∧ u.store = s.store) ∧
    (sectorState s n = 4 → memorySettled s n = true → indexPages s n ≠ [] →
      Gives (.sectorSelfTestDone n true t) s fun u => sectorState u n = 5 ∧ u.comp.moved = [] ∧ u.store.pages = s.store.pages)) ∧
  (∀ (s : State) (p : Fin 67108864) (t : Nat) (e : Page) (v : State),
    let n := homeIndex p
    let dst := if sectorState s n = 1 then s.get F.RAS_SECTOR_TARGET else n
    sectorState s n = 1 ∨ sectorState s n = 5 → s.page? p = some e → p.val ∉ s.comp.moved → nearLeft s n = false →
    s.dir.ents = [] → s.dir.txns = [] → s.cache.guests = [] → s.cache.wbs = [] →
    relayPage { s.upto t with store := { s.store with huge := s.store.huge.filter fun h => h ≠ p / 512 * 4 + homeOf s p },
                              comp := { s.comp with moved := setAdd p s.comp.moved } } dst p e = some v →
    exec (.evacPageMoved p t) s = .next (evacCheck (wake (showEvac (dropTlb v [p.val]) n)) n))

/-- The firmware update (R709, R710): a request starts it and clears READY; the table of a component that fits the bank asks for the first
chunk; a chunk asks for the next, and the last one, with an image that passes R596, is applied and sets READY; activation rolls the image
out; an agent silent for 120 s ends it. Firmware and device faults (R536, R573 to R577): an activation runs the new image on Z0 first; a
core that passes its health check counts as healthy and hands on to the next, the last one makes the new bank active, and one that fails
stops the activation. The failure of the last core, and a fault of the device, restart it warm. -/
def Obligations.FirmwareUpdatesRoll : Prop :=
  (∀ (s : State) (pcie : Bool) (agent : BitVec 8) (t : Nat),
     let say := fun (what : String) (code : Nat) (data : List Nat) => Out.mgmt what code (pcie.toNat :: data)
     (binding s pcie = true → ownEid s pcie ≠ 0 →
       (∀ n : Nat, s.mgmt.update = none → s.flag F.MGT_CTRL_FWUP_EN = true → lcState s ≠ 5 → s.get F.RAS_FW_STAGE ≠ 1 →
         Gives (.requestUpdate pcie agent n t) s fun u =>
           u.mgmt.update = some { pcie := pcie, agent := agent.toNat, chunk := min n 4096, heard := max s.now t } ∧
           u.flag F.RAS_FW_READY = false ∧ u.out = s.out ++ [say "REQUEST_UPDATE" 0 []]) ∧
       (∀ n : Nat, s.mgmt.update.isSome = true → exec (.requestUpdate pcie agent n t) s = .next ((s.upto t).emit (say "REQUEST_UPDATE" 0x81 []))) ∧
       (∀ x : Update, fromAgent s pcie agent = some x →
         (∀ n : Nat, n ≤ 2 ^ 25 → Gives (.passComponentTable pcie agent n t) s fun u =>
           u.mgmt.update = some { x with size := some n, got := 0, heard := max s.now t } ∧
           u.out = s.out ++ [say "PASS_COMPONENT_TABLE" 0 [], say "REQUEST_FIRMWARE_DATA" 0 [0, min x.chunk n]]) ∧
         (∀ n : Nat, 2 ^ 25 < n → Gives (.passComponentTable pcie agent n t) s fun u =>
           u.mgmt.update = some { x with heard := max s.now t } ∧ u.out = s.out ++ [say "PASS_COMPONENT_TABLE" 1 []]) ∧
         (∀ (n len : Nat) (img : Option Image), x.size = some n →
           let got := x.got + min len (min x.chunk (n - x.got))
           (got ≠ n → Gives (.requestFirmwareData pcie agent len img t) s fun u =>
             u.mgmt.update = some { x with got := got, heard := max s.now t } ∧
             u.out = s.out ++ [say "REQUEST_FIRMWARE_DATA" 0 [got, min x.chunk (n - got)]]) ∧
           (∀ m : Image, got = n → img = some m → imageOk s m = true → Gives (.requestFirmwareData pcie agent len img t) s fun u =>
             u.flag F.RAS_FW_READY = true ∧ u.comp.banks = listSet (listSet s.comp.banks (otherBank s) {}) (otherBank s) (bankOf m) ∧
             say "VERIFY_COMPLETE" 0 [] ∈ u.out ∧ say "APPLY_COMPLETE" 0 [] ∈ u.out) ∧
           (got = n → (∀ m : Image, img = some m → imageOk s m = false) → Gives (.requestFirmwareData pcie agent len img t) s fun u =>
             u.flag F.RAS_FW_READY = s.flag F.RAS_FW_READY ∧ u.out = s.out ++ [say "VERIFY_COMPLETE" 1 []])) ∧
         (mayRoll s = true → Gives (.activateFirmware pcie agent t) s fun u =>
           u.get F.RAS_FW_STAGE = 1 ∧ u.comp.coreBusy = some 0 ∧ u.mgmt.update = none ∧ say "ACTIVATE_FIRMWARE" 0 [1] ∈ u.out) ∧
         (mayRoll s = false → Gives (.activateFirmware pcie agent t) s fun u =>
           u.comp = s.comp ∧ u.out = s.out ++ [say "ACTIVATE_FIRMWARE" 1 []]))) ∧
     (∀ x : Update, s.mgmt.update = some x →
       (x.heard + 120000000000 ≤ max s.now t → Gives (.updateAgentTimeout t) s fun u =>
         u.mgmt.update = none ∧ u.flag F.RAS_FW_READY = false ∧ u.store = s.store) ∧
       (max s.now t < x.heard + 120000000000 → exec (.updateAgentTimeout t) s = .next (s.upto t)))) ∧
  ((∀ (s : State) (d : Desc) (j : Job), Ready s d 0x67 zenith j →
     ((mayRoll s = false ∨ s.mgmt.update.isSome = true) → Gives (.cmpFwActivate d) s fun u => u.comp = s.comp ∧ u.regs = s.regs ∧ Ends u d .denied) ∧
     (mayRoll s = true → s.mgmt.update = none → Gives (.cmpFwActivate d) s fun u =>
       u.get F.RAS_FW_STAGE = 1 ∧ u.comp.coreBusy = some 0 ∧ u.comp.rolling = [1, 2, 3] ∧ Ends u d (endCode j .ok))) ∧
   (∀ (s : State) (c : Fin 4) (t : Nat),
     (s.get F.RAS_FW_STAGE ≠ 1 → Gives (.coreHealthCheck c true t) s fun u =>
       bits (u.get F.RAS_STATUS_CORES_UP) c 1 = 1 ∧ ∀ f : Fld, f.key ≠ F.RAS_STATUS_CORES_UP.key → u.get f = s.get f) ∧
     (s.get F.RAS_FW_STAGE = 1 → s.comp.coreBusy = some c.val →
       (Gives (.coreHealthCheck c false t) s fun u => u.get F.RAS_FW_STAGE = 2 ∧ u.comp.coreBusy = none ∧
         u.get F.RAS_FW_ACTIVE_BANK = s.get F.RAS_FW_ACTIVE_BANK) ∧
       (∀ (x : Nat) (l : List Nat), s.comp.rolling = x :: l → Gives (.coreHealthCheck c true t) s fun u =>
         u.comp.coreBusy = some x ∧ u.comp.rolling = l ∧ bits (u.get F.RAS_FW_ON_NEW) c 1 = 1 ∧ u.get F.RAS_FW_STAGE = 1) ∧
       (s.comp.rolling = [] → Gives (.coreHealthCheck c true t) s fun u =>
         u.get F.RAS_FW_ACTIVE_BANK = otherBank s % 2 ∧ u.get F.RAS_FW_STAGE = 0 ∧ u.flag F.RAS_FW_READY = false ∧
         u.get F.RAS_FW_VERSION = (s.comp.banks.getD (otherBank s) {}).version % 2 ^ 32 ∧ u.comp.coreBusy = none)) ∧
     (awake s = true →
       let up := s.get F.RAS_STATUS_CORES_UP
       let q := (s.upto t).set F.RAS_STATUS_CORES_UP (up - bits up c 1 * 2 ^ c.val)
       (up = 0 ∨ q.get F.RAS_STATUS_CORES_UP ≠ 0 → exec (.zenithCoreFail c t) s = .next q) ∧
       (up ≠ 0 → q.get F.RAS_STATUS_CORES_UP = 0 → exec (.zenithCoreFail c t) s = .next (wake (warmRestart q 2)))) ∧
     (∀ b : Fin 9, b.val ≠ 0 → awake s = true → exec (.deviceFault b t) s = .next (wake (warmRestart (s.upto t) b)))) ∧
   (∀ (s : State) (b : Fin 9), Quiet s → s.comp.kept = [] → (∀ p : Fin 6, s.get (F.KZP_STATUS_STATE p) = 0) →
     s.xlt.queue = [] → s.xlt.service = [] → tenantsChanged s.comp.map s.comp.persisted = [] →
     let u := warmRestart s b
     u.flag F.RAS_STATUS_DEVICE_FAULT = true ∧ u.get F.RAS_STATUS_BLOCK = b.val ∧ u.flag F.SYS_BOOT_COLD = false ∧ u.comp.map = s.comp.persisted ∧
     u.get F.CMP_EPOCH_EPOCH = s.comp.persistedEpoch % 2 ^ 32 ∧ u.sec.portCur = [] ∧ u.sec.ekeys = [] ∧ u.store = s.store ∧
     u.log.gib = s.get F.BLK_LOG_CFG_LOG_GIB))

/-- SEC_DOMAIN_SET creates a domain in a state that permits it, or changes its quota, and closes debug while a confidential domain exists
(R580, R599, R616); a teardown waits for no context or queue of the domain, and then drops its key slots and decapsulation key (R618 to
R620); the domain is gone once its frames have been filled with zeros (R621). -/
def Obligations.TenancyDomainsLiveAndEnd : Prop :=  (∀ (s : State) (d : Desc) (j : Job),
    let n := dbits d.words 16 0 8
    let conf := dbits d.words 17 0 1 == 1
    let old := tabGet? n s.sec.doms
    let kept := ∀ x : Dom, old = some x → x.zeroing = false ∧ (x.conf = conf ∨ domInUse s n = false)
    (Ready s d 0x68 zenith j →
      (kept → (lcState s = 3 ∨ (lcState s = 2 ∧ conf = false)) → (conf = true → confCount s < 64) →
        Gives (.secDomainSet d) s fun u =>
          tabGet? n u.sec.doms = some { conf := conf, quota := dbits d.words 20 0 32 } ∧
          (conf = true → u.flag F.LC_DEBUG_OPEN = false) ∧ Ends u d (endCode j .ok)) ∧
      (lcState s ≠ 2 → lcState s ≠ 3 → (conf = true → confCount s < 64) →
        Gives (.secDomainSet d) s fun u => u.sec = s.sec ∧ Ends u d .denied) ∧
      (conf = true → 64 ≤ confCount s → (old.map (·.conf)) ≠ some true →
        Gives (.secDomainSet d) s fun u => u.sec = s.sec ∧ Ends u d .capacity)) ∧
    (Ready s d 0x69 zenith j → j.phase = 0 →
      let busy := s.xlt.ctxs.any (fun e => e.2.domain = n) || s.sched.tqs.any fun e => e.2.en && e.2.domain == n
      (domLive s n = false ∨ busy = true → Gives (.secDomainTeardown d) s fun u => u.sec = s.sec ∧ u.store = s.store ∧ Ends u d .denied) ∧
      (∀ x : Dom, old = some x → domLive s n = true → busy = false → Quiet s → (s.store.pages.any fun e => e.2.domain = n) = false →
        Gives (.secDomainTeardown d) s fun u =>
          tabGet? n u.sec.doms = some { x with zeroing := true } ∧ (∀ e ∈ u.sec.slots, e.2.domain ≠ n) ∧ tabGet? n u.sec.ekeys = none ∧
          Ends u d (endCode j .ok)))) ∧
  (∀ (s : State) (n : Fin 256) (t : Nat) (x : Dom), tabGet? n.val s.sec.doms = some x →
    (x.zeroing = true → Gives (.zeroFillDone n t) s fun u => tabGet? n.val u.sec.doms = none ∧ u.store = s.store) ∧
    (x.zeroing = false → exec (.zeroFillDone n t) s = .next (s.upto t)))

/-- Reports and keys (R590 to R592, R601 to R606, R612): SEC_ATTEST writes a signed report, whose index is used once; SEC_KEY_IMPORT opens a
sealed key into a free slot and returns its handle; SEC_KEY_DISCARD frees the slot a handle names, and a handle without its complement ends
with CPAIR; SEC_UNSEAL opens its chunks; SEC_PORT_KEY stages or installs a port key that is new. -/
def Obligations.ReportsAndKeysHeld : Prop :=  (∀ (s s1 : State) (d : Desc) (j : Job),
    let s0 := startState s d zenith
    let j1 := started j zenith
    let me := ringCtx j.ring
    let va := dbits d.words 48 0 64
    let nva := dbits d.words 24 0 64
    let h := dbits d.words 16 0 32
    (Ready s d 0x6A zenith j → dbits d.words 56 0 32 < 5184 → Gives (.secAttest d) s fun u => u.sec = s.sec ∧ Ends u d .capacity) ∧
    (Ready s d 0x6A zenith j → 5184 ≤ dbits d.words 56 0 32 →
      prepare s0 j1 zenith [⟨nva, 32, .rd⟩, ⟨va, 5184, .rdwr⟩] = (true, s1) → poisonVa s1 me nva 32 = false →
      let x := readVa s1 me nva 32
      ∀ s3 : State,
        (∀ b : List Byte, makeReport x.2 (dbits d.words 16 0 8) (dbits d.words 17 0 1 == 1) x.1 = (.ok (some b), s3) →
          exec (.secAttest d) s = .next (rowEnd s j (finishJob (writeVa s3 me va b) j1 .ok))) ∧
        (∀ c : Code, makeReport x.2 (dbits d.words 16 0 8) (dbits d.words 17 0 1 == 1) x.1 = (.error c, s3) →
          exec (.secAttest d) s = .next (rowEnd s j (finishJob s3 j1 c)))) ∧
    (∀ bs : List (List Byte), Ready s d 0x6B zenith j → fetchRanges s0 j1 zenith (secRanges d.words) = (some bs, s1) →
      let b := bs.getD 0 []
      let dom := dbits d.words 16 0 8
      let right := leVal ((b.drop 1568).take 1) = 1 ∧ leVal ((b.drop 1569).take 1) = dom
      (¬ right → exec (.secKeyImport d) s = .next (rowEnd s j (finishJob s1 j1 .denied))) ∧
      (right → openSealed s1 dom b = none →
        exec (.secKeyImport d) s = .next (rowEnd s j (finishJob (s1.bumpSat F.SEC_INTEGRITY_UNSEAL_FAILS) j1 .integrity))) ∧
      (∀ (key k : Nat) (s2 : State), right → openSealed s1 dom b = some key → freeSlot s1 = (some k, s2) →
        let g := (tabGet 0 k s2.sec.gens + 1) % 2048
        Gives (.secKeyImport d) s fun u =>
          tabGet? k u.sec.slots = some { domain := dom, gen := g, key := key } ∧ (∀ i : Nat, i ≠ k → tabGet? i u.sec.slots = tabGet? i s2.sec.slots) ∧
          u.store = s2.store)) ∧
    (Ready s d 0x6C zenith j →
      (∀ k : KeySlot, dbits d.words 20 0 32 = onesComp 32 h → s.xlt.corrupt.contains (.keyHandle (handleSlot h)) = false →
        tabGet? (handleSlot h) s.sec.slots = some k → k.gen = handleGen h → k.domain = handleDom h →
        Gives (.secKeyDiscard d) s fun u =>
          tabGet? (handleSlot h) u.sec.slots = none ∧ (∀ i : Nat, i ≠ handleSlot h → tabGet? i u.sec.slots = tabGet? i s.sec.slots) ∧
          Ends u d (endCode j .ok)) ∧
      (dbits d.words 20 0 32 ≠ onesComp 32 h → Gives (.secKeyDiscard d) s fun u => u.sec = s.sec ∧ Ends u d .cpair) ∧
      (dbits d.words 20 0 32 = onesComp 32 h → s.xlt.corrupt.contains (.keyHandle (handleSlot h)) = false →
        tabGet? (handleSlot h) s.sec.slots = none → Gives (.secKeyDiscard d) s fun u => u.sec = s.sec ∧ Ends u d .denied)) ∧
    (∀ (key : Nat) (s2 : State), Ready s d 0x6D zenith j → useHandle s0 me h (dbits d.words 20 0 32) = (.ok key, s1) →
      prepare s1 j1 zenith (secRanges d.words) = (true, s2) →
      let u := unsealFrom me key nva (dbits d.words 32 0 64) (dbits d.words 40 0 64) (2 ^ dbits d.words 52 0 5) (dbits d.words 56 0 32)
        (dbits d.words 48 0 32) 0 s2
      exec (.secUnseal d) s = .next (rowEnd s j (finishJob u.2.2 j1 u.1 u.2.1))) ∧
    (∀ (bs : List (List Byte)) (key : Nat), Ready s d 0x6E zenith j → fetchRanges s0 j1 zenith (secRanges d.words) = (some bs, s1) →
      let b := bs.getD 0 []
      let p := dbits d.words 16 0 3
      leVal ((b.drop 1568).take 1) = 2 → leVal ((b.drop 1569).take 1) = 0 → openSealed s1 0 b = some key →
      (tabGet? p s1.sec.portCur = some key ∨ tabGet? p s1.sec.portNext = some key →
        exec (.secPortKey d) s = .next (rowEnd s j (finishJob s1 j1 .denied))) ∧
      (tabGet? p s1.sec.portCur ≠ some key → tabGet? p s1.sec.portNext ≠ some key →
        (dbits d.words 16 3 1 = 1 → Gives (.secPortKey d) s fun u =>
          tabGet? p u.sec.portNext = some key ∧ u.sec.portCur = s1.sec.portCur ∧ u.store = s1.store) ∧
        (dbits d.words 16 3 1 ≠ 1 → s1.get (F.KZP_STATUS_STATE p) ≤ 1 → Gives (.secPortKey d) s fun u =>
          tabGet? p u.sec.portCur = some key ∧ u.sec.portNext = s1.sec.portNext ∧ u.store = s1.store) ∧
        (dbits d.words 16 3 1 ≠ 1 → 1 < s1.get (F.KZP_STATUS_STATE p) →
          exec (.secPortKey d) s = .next (rowEnd s j (finishJob s1 j1 .denied)))))) ∧
  (∀ s : State, s.sec.blocksBad < 2 → s.get F.SEC_XMSS_USED_NEXT_INDEX / 1024 < s.get F.SEC_XMSS_STATE_BLOCKS →
    (takeIndex s).1 = .index (s.get F.SEC_XMSS_USED_NEXT_INDEX) ∧
    (takeIndex s).2.get F.SEC_XMSS_USED_NEXT_INDEX = (s.get F.SEC_XMSS_USED_NEXT_INDEX + 1) % 2 ^ 40) ∧
  (∀ (s : State) (t : Nat), s.sec.blockDue = true → s.sec.blocksBad < 2 → s.get F.SEC_XMSS_STATE_BLOCKS < 2 ^ 30 → halted s = false →
    s.sec.waiting = [] → Gives (.xmssBlockCommit t) s fun u =>
      u.get F.SEC_XMSS_STATE_BLOCKS = s.get F.SEC_XMSS_STATE_BLOCKS + 1 ∧
      u.get F.SEC_XMSS_STATE_BLOCKS_C = onesComp 32 (s.get F.SEC_XMSS_STATE_BLOCKS + 1) ∧ u.sec.blockDue = false)

/-- The life cycle and tampering (R579 to R586, R596, R666): a listed change by context 1 alone, with no domain left, erases the pool and
the keys; an enabled sensor erases the keys, stops all work and takes every port DOWN with REASON 14; SVN is raised once an image with
RAISE_SVN has run for 60 s on all cores; debug opens on a token the state admits; a test instruction is refused once the management port has
answered. -/
def Obligations.LifeCycleAndTamperErase : Prop :=  (∀ (s s1 : State) (d : Desc) (j : Job) (bs : List (List Byte)), Ready s d 0x6F zenith j → ringCtx j.ring = 1 → s.sec.doms = [] →
    let target := dbits d.words 16 0 8
    lcState s = 2 → target = 5 → fetchRanges (startState s d zenith) (started j zenith) zenith [] = (some bs, s1) →
    exec (.secLc d) s = .next (rowEnd s j (finishJob (changeLc s1 5) (started j zenith) .ok))) ∧
  (∀ (s : State) (d : Desc) (j : Job), Ready s d 0x6F zenith j → dbits d.words 16 0 8 = lcState s →
    Gives (.secLc d) s fun u => u.sec = s.sec ∧ u.store = s.store ∧ Ends u d .denied) ∧
  (∀ (s : State) (v : Nat), Quiet s → v < 2 ^ 32 → (∀ p : Fin 6, s.get (F.KZP_STATUS_STATE p) = 0) →
    let u := changeLc s v
    u.get F.LC_STATE_STATE = v ∧ u.get F.LC_STATE_STATE_C = onesComp 32 v ∧ u.sec.slots = [] ∧ u.sec.ekeys = [] ∧ u.sec.portCur = [] ∧
    u.store.pages = [] ∧ u.store.mem = [] ∧ u.cache.guests = []) ∧
  (∀ (s : State) (k : Fin 5) (t : Nat), sensorOn s k = true → s.clk.off = false →
    (s.flag F.SEC_TAMPER_STATUS_TAMPERED = false → Gives (.tamper k t) s fun u =>
      u.flag F.SEC_TAMPER_STATUS_TAMPERED = true ∧ bits (u.get F.SEC_TAMPER_STATUS_SOURCE) k 1 = 1 ∧ u.sec.slots = [] ∧ u.sec.ekeys = [] ∧
      u.sec.portCur = [] ∧ u.sec.portNext = [] ∧ u.fab.flights = [] ∧ u.rings.jobs = [] ∧ u.plane.kerns = [] ∧ u.store = s.store ∧
      ∀ p : Fin 6, u.get (F.KZP_STATUS_STATE p) = 0 ∧ u.get (F.KZP_STATUS_REASON p) = 14) ∧
    (s.flag F.SEC_TAMPER_STATUS_TAMPERED = true → Gives (.tamper k t) s fun u =>
      bits (u.get F.SEC_TAMPER_STATUS_SOURCE) k 1 = 1 ∧ OnlyFields [F.SEC_TAMPER_STATUS_SOURCE.key] (s.upto t) u)) ∧
  (∀ (s : State) (t : Nat),
    let b := s.comp.banks.getD (s.get F.RAS_FW_ACTIVE_BANK) {}
    (b.raise = true → s.get F.RAS_FW_STAGE ≠ 1 → s.get F.RAS_STATUS_CORES_UP = 15 → s.comp.imageAt + 60000000000 ≤ max s.now t →
      s.get F.LC_SVN_SVN < b.svn → Gives (.svnFuse t) s fun u =>
        u.get F.LC_SVN_SVN = b.svn % 256 ∧ OnlyFields [F.LC_SVN_SVN.key] (s.upto t) u) ∧
    (b.raise = false → exec (.svnFuse t) s = .next (s.upto t)) ∧
    (∀ token : List Byte, halted s = false →
      (debugMay s token = true → Gives (.debugOpen token t) s fun u =>
        u.flag F.LC_DEBUG_OPEN = true ∧ u.get F.LC_DEBUG_OPENS = min (s.get F.LC_DEBUG_OPENS + 1) 65535 ∧ u.sec.nonce = s.sec.nonce + 1) ∧
      (debugMay s token = false → exec (.debugOpen token t) s = .next (s.upto t)))) ∧
  (∀ (s : State) (x : String), s.clk.off = false →
    (s.mgmt.answered = false ∨ x = "BYPASS" ∨ x = "IDCODE" → exec (.tapInstruction x) s = .next (s.emit (.mgmt "TAP_INSTRUCTION" 0 []))) ∧
    (s.mgmt.answered = true → x ≠ "BYPASS" → x ≠ "IDCODE" → exec (.tapInstruction x) s = .next (s.emit (.mgmt "TAP_INSTRUCTION" 1 []))))

/-- The pool window (R694 to R696): an access of up to 256 bytes that crosses no 256-byte boundary, in a page of the window's context that
nothing spoils and that no partner holds, reads or writes the pool there; while the window is off a read gives all ones, a write is dropped,
and either is counted. -/
def Obligations.PoolWindowReadsAndWrites : Prop :=  ∀ (s : State) (off : BitVec 32) (t : Nat),
    let c := s.get F.MGT_POOLWIN_CTX
    let a := s.get F.MGT_POOLWIN_BASE * 2 ^ 32 + off.toNat
    awake s = true → s.clk.off = false →
    (∀ e : Page, Quiet s → s.flag F.MGT_POOLWIN_EN = true → c ≠ 0 → ctxValid s c = true → inWindow a = false → inWindow (a / 65536 * 65536) = false →
      s.page? (a / 2097152) = some e → domConf s e.domain = false → e.domain = ctxDomain s c →
      (∀ n : Fin 4097, 0 < n.val → a % 256 + n.val ≤ 256 → NearAndSound s a n →
        Gives (.poolWindowAccess off (.read n) t) s fun u => u.out = s.out ++ [.mmio (leVal (s.bytes a n))] ∧ u.store.mem = s.store.mem) ∧
      (∀ d : List Byte, d ≠ [] → a % 256 + d.length ≤ 256 → NearAndSound s a d.length →
        Gives (.poolWindowAccess off (.write d) t) s fun u =>
          u.bytes a d.length = d ∧ (∀ b : Nat, (b < a ∨ a + d.length ≤ b) → u.byte b = s.byte b) ∧ u.out = s.out)) ∧
    (s.flag F.MGT_POOLWIN_EN = false → s.fab.flights = [] → s.cache.wbs = [] → s.comp.lapsed = [] → s.comp.fenced = [] →
      (∀ n : Fin 4097, 0 < n.val → a % 256 + n.val ≤ 256 → Gives (.poolWindowAccess off (.read n) t) s fun u =>
        .mmio (2 ^ (8 * n.val) - 1) ∈ u.out ∧
        u.get F.MGT_POOLWIN_ERR_LAST_CODE = 8 ∧ u.get F.MGT_POOLWIN_ERR_COUNT = min (s.get F.MGT_POOLWIN_ERR_COUNT + 1) (2 ^ 32 - 1) ∧
        u.store = s.store) ∧
      (∀ d : List Byte, d ≠ [] → a % 256 + d.length ≤ 256 → Gives (.poolWindowAccess off (.write d) t) s fun u =>
        u.get F.MGT_POOLWIN_ERR_LAST_CODE = 8 ∧ u.store = s.store))

/-- MCTP control (R705, R706): over a binding that works the EID is set and read, and the versions, types and vendor of the device are
answered; over one that does not work nothing is. A packet whose message type the device does not support is dropped and counted; a whole
message for it is received. PLDM base and monitoring (R707, R708): once a binding has its EID, the terminus ID, types, versions, records and
readings are answered, and the sensors are refreshed from the registers; without an EID no PLDM or vendor message is answered (R705). -/
def Obligations.MctpAndPldmAnswer : Prop :=
  ((∀ (s : State) (pcie : Bool), binding s pcie = true →
     let say := fun (u : State) (what : String) (code : Nat) (data : List Nat) => u.emit (.mgmt what code (pcie.toNat :: data))
     let eid := ownEid s pcie
     (∀ e : BitVec 8, e ≠ 0 → e ≠ 0xFF → Gives (.setEndpointId pcie e) s fun u =>
       ownEid u pcie = e.toNat ∧ u.out = s.out ++ [.mgmt "SET_ENDPOINT_ID" 0 [pcie.toNat, e.toNat]] ∧ u.store = s.store) ∧
     (∀ e : BitVec 8, e = 0 ∨ e = 0xFF → exec (.setEndpointId pcie e) s = .next (say s "SET_ENDPOINT_ID" 1 [eid])) ∧
     exec (.getEndpointId pcie) s = .next (say s "GET_ENDPOINT_ID" 0 [eid]) ∧
     (∃ l : List Nat, l.length = 16 ∧ exec (.getEndpointUuid pcie) s = .next (say s "GET_ENDPOINT_UUID" 0 l)) ∧
     exec (.getMessageTypeSupport pcie) s = .next (say s "GET_MESSAGE_TYPE_SUPPORT" 0 [0x00, 0x01, 0x7E]) ∧
     (∀ ty : BitVec 8, ([0x00, 0x01, 0x7E, 0xFF].contains ty.toNat = true →
         ∃ v : Nat, exec (.getMctpVersionSupport pcie ty) s = .next (say s "GET_MCTP_VERSION_SUPPORT" 0 [v])) ∧
       ([0x00, 0x01, 0x7E, 0xFF].contains ty.toNat = false →
         exec (.getMctpVersionSupport pcie ty) s = .next (say s "GET_MCTP_VERSION_SUPPORT" 1 []))) ∧
     exec (.getVendorDefinedMessageSupport pcie 0) s = .next (say s "GET_VENDOR_DEFINED_MESSAGE_SUPPORT" 0 [0x1FA7]) ∧
     (∀ k : BitVec 8, k ≠ 0 → exec (.getVendorDefinedMessageSupport pcie k) s = .next (say s "GET_VENDOR_DEFINED_MESSAGE_SUPPORT" 1 []))) ∧
   (∀ (s : State) (pcie : Bool) (e ty k : BitVec 8), binding s pcie = false →
     ∀ c ∈ [Instr.setEndpointId pcie e, .getEndpointId pcie, .getEndpointUuid pcie, .getMctpVersionSupport pcie ty, .getMessageTypeSupport pcie,
       .getVendorDefinedMessageSupport pcie k], exec c s = .next s) ∧
   (∀ (s : State) (p : MctpPkt) (t : Nat), binding s p.pcie = true → p.som = true → p.eom = true →
     (p.dst.toNat = 0 ∨ (ownEid s p.pcie ≠ 0 ∧ p.dst.toNat = ownEid s p.pcie)) →
     (p.type = 0 ∨ (p.dst.toNat ≠ 0 ∧ (p.type = 1 ∨ p.type = 0x7E)) → p.bytes ≤ 64 → Gives (.mctpMessage p t) s fun u =>
       u.get F.MGT_MCTP_STATS_RECEIVED = (s.get F.MGT_MCTP_STATS_RECEIVED + 1) % 2 ^ 32 ∧ assemblyOf u p = none ∧
       u.get F.MGT_MCTP_STATS_DROPPED = s.get F.MGT_MCTP_STATS_DROPPED) ∧
     (p.dst.toNat ≠ 0 → p.type ≠ 0 → p.type ≠ 1 → p.type ≠ 0x7E → Gives (.mctpMessage p t) s fun u =>
       u.get F.MGT_MCTP_STATS_DROPPED = min (s.get F.MGT_MCTP_STATS_DROPPED + 1) 65535 ∧
       u.get F.MGT_MCTP_STATS_BAD_TYPE = min (s.get F.MGT_MCTP_STATS_BAD_TYPE + 1) 65535))) ∧
  ((∀ (s : State) (pcie : Bool), binding s pcie = true → ownEid s pcie ≠ 0 →
     let say := fun (u : State) (what : String) (code : Nat) (data : List Nat) => u.emit (.mgmt what code (pcie.toNat :: data))
     exec (.getTid pcie) s = .next (say s "GET_TID" 0 [s.mgmt.tid]) ∧
     (∀ i : BitVec 8, i ≠ 0 → i ≠ 0xFF → Gives (.setTid pcie i) s fun u => u.mgmt.tid = i.toNat ∧ u.regs = s.regs ∧ u.store = s.store) ∧
     exec (.getPldmTypes pcie) s = .next (say s "GET_PLDM_TYPES" 0 [0, 2, 5]) ∧
     (∀ ty : BitVec 8, (ty.toNat = 0 ∨ ty.toNat = 2 ∨ ty.toNat = 5 →
         (∃ v : Nat, exec (.getPldmVersion pcie ty) s = .next (say s "GET_PLDM_VERSION" 0 [v])) ∧
         ∃ v : Nat, exec (.getPldmCommands pcie ty) s = .next (say s "GET_PLDM_COMMANDS" 0 [if ty.toNat = 5 then 4 else 5, v])) ∧
       (ty.toNat ≠ 0 → ty.toNat ≠ 2 → ty.toNat ≠ 5 →
         exec (.getPldmVersion pcie ty) s = .next (say s "GET_PLDM_VERSION" 1 []) ∧
         exec (.getPldmCommands pcie ty) s = .next (say s "GET_PLDM_COMMANDS" 1 []))) ∧
     (∃ v : Nat, exec (.getPdrRepositoryInfo pcie) s = .next (say s "GET_PDR_REPOSITORY_INFO" 0 [19, v])) ∧
     (∀ h : BitVec 32, (h.toNat ≤ 19 → ∃ i v : Nat, (numericSensors ++ stateSensors)[h.toNat - 1]? = some i ∧
         exec (.getPdr pcie h) s = .next (say s "GET_PDR" 0 [i, v])) ∧
       (19 < h.toNat → exec (.getPdr pcie h) s = .next (say s "GET_PDR" 1 []))) ∧
     (∀ e : BitVec 8, Gives (.setEventReceiver pcie e) s fun u =>
       u.mgmt.receiver = (if e = 0 then none else some (pcie, e.toNat)) ∧ u.regs = s.regs) ∧
     (∀ i : BitVec 16,
       (∀ v : Nat, tabGet? i.toNat s.mgmt.sensors = some v →
         (numericSensors.contains i.toNat = true → exec (.getSensorReading pcie i) s = .next (say s "GET_SENSOR_READING" 0 [1, v])) ∧
         (stateSensors.contains i.toNat = true → exec (.getStateSensorReadings pcie i) s = .next (say s "GET_STATE_SENSOR_READINGS" 0 [1, v]))) ∧
       (numericSensors.contains i.toNat = false → exec (.getSensorReading pcie i) s = .next (say s "GET_SENSOR_READING" 1 [])) ∧
       (stateSensors.contains i.toNat = false → exec (.getStateSensorReadings pcie i) s = .next (say s "GET_STATE_SENSOR_READINGS" 1 [])))) ∧
   (∀ (s : State) (t : Nat), halted s = false → Gives (.pldmSensorRefresh t) s fun u =>
     (∀ i ∈ numericSensors ++ stateSensors, tabGet? i u.mgmt.sensors = sensorNow s i) ∧ u.regs = s.regs ∧ u.store = s.store) ∧
   (∀ (s : State) (pcie : Bool) (x : BitVec 8), ownEid s pcie = 0 →
     ∀ c ∈ [Instr.getTid pcie, .setTid pcie x, .getPldmVersion pcie x, .getPldmTypes pcie, .getPldmCommands pcie x, .getPdrRepositoryInfo pcie,
       .setEventReceiver pcie x, .getIdentity pcie x, .getXmss pcie x], exec c s = .next s))

/-- The vendor commands (R711 to R713) over a binding with its EID and ATTEST_EN: in DEPLOYED, the identity, a part of the certificate, a
report, or the signature counters answer with OK, a GET_CERT beyond the certificate with MALFORMED, a report for no domain with DENIED; in
SCRAPPED all answer DENIED (R712). -/
def Obligations.VendorMessagesAnswer : Prop :=  ∀ (s : State) (pcie : Bool) (i : BitVec 8), binding s pcie = true → ownEid s pcie ≠ 0 → s.flag F.MGT_CTRL_ATTEST_EN = true →
    (lcState s = 3 →
      exec (.getIdentity pcie i) s = .next (vendorSay s pcie 1 .ok i.toNat (leBytes 8 (deviceId s) ++ leBytes 1 3 ++
        leBytes 1 (s.get F.LC_SVN_SVN) ++ leBytes 6 0 ++ padTo 52 Config.identityKey)) ∧
      exec (.getXmss pcie i) s = .next (vendorSay s pcie 4 .ok i.toNat (leBytes 4 (s.get F.SEC_XMSS_STATE_BLOCKS) ++
        leBytes 8 (s.get F.SEC_XMSS_USED_NEXT_INDEX))) ∧
      (∀ (off : BitVec 32) (len : BitVec 16), 1 ≤ len.toNat → len.toNat ≤ 1024 →
        (off.toNat < Config.certLen → exec (.getCert pcie i off len) s = .next (vendorSay s pcie 2 .ok i.toNat (leBytes 4 Config.certLen ++
          (span off.toNat (min len.toNat (Config.certLen - off.toNat))).map Config.certByte))) ∧
        (Config.certLen ≤ off.toNat → exec (.getCert pcie i off len) s = .next (vendorSay s pcie 2 .malformed i.toNat []))) ∧
      (∀ (off : BitVec 32) (len : BitVec 16), (len.toNat = 0 ∨ 1024 < len.toNat) →
        exec (.getCert pcie i off len) s = .next (vendorSay s pcie 2 .malformed i.toNat [])) ∧
      (∀ (dom : BitVec 8) (nonce : List Byte) (t : Nat), nonce.length = 32 →
        let r : ReportReq := { pcie := pcie, inst := i.toNat, dom := dom.toNat, nonce := nonce }
        (domLive s dom.toNat = false → exec (.getReport pcie i dom nonce t) s = .next (vendorSay (s.upto t) pcie 3 .denied i.toNat [])) ∧
        (domLive s dom.toNat = true → s.sec.waiting = [] → exec (.getReport pcie i dom nonce t) s = .next (reportNow (s.upto t) r)) ∧
        (domLive s dom.toNat = true → s.sec.waiting ≠ [] → s.sec.waiting.length < 4 → Gives (.getReport pcie i dom nonce t) s fun u =>
          u.sec.waiting = s.sec.waiting ++ [r] ∧ u.out = s.out ∧ u.regs = s.regs) ∧
        (domLive s dom.toNat = true → 4 ≤ s.sec.waiting.length →
          exec (.getReport pcie i dom nonce t) s = .next (vendorSay (s.upto t) pcie 3 .capacity i.toNat [])))) ∧
    (lcState s = 5 → exec (.getIdentity pcie i) s = .next (vendorSay s pcie 1 .denied i.toNat []) ∧
      exec (.getXmss pcie i) s = .next (vendorSay s pcie 4 .denied i.toNat []))

/-- Interrupts and sideband buses (R703, R704, R715): a pending ring message leaves once its link, MSI-X Enable and vector admit it, and
otherwise stays pending; a bus that stays unreadable is counted and marked, and the unit behind it fails. -/
def Obligations.InterruptsAndBusesReport : Prop :=  ∀ (s : State) (t : Nat), s.clk.off = false →
    (∀ (v : Fin 2048) (un : List (Fin 2048)), s.mgmt.pendMsix = [(8, v.val)] → s.flag F.CLK_STATUS_REFCLK_OK = true →
      ((s.mgmt.masked.contains v.val = false ∨ v ∈ un) → Gives (.msixPendingSend true true un t) s fun u =>
        u.mgmt.pendMsix = [] ∧ u.out = s.out ++ [.msix v.val] ∧ u.mgmt.linkUp = true ∧ u.mgmt.msixEn = true) ∧
      (s.mgmt.masked.contains v.val = true → v ∉ un → Gives (.msixPendingSend true true un t) s fun u =>
        u.mgmt.pendMsix = [(8, v.val)] ∧ u.out = s.out) ∧
      (∀ up en : Bool, (up && en) = false → Gives (.msixPendingSend up en un t) s fun u =>
        u.mgmt.pendMsix = [(8, v.val)] ∧ u.out = s.out ∧ u.mgmt.linkUp = up ∧ u.mgmt.msixEn = en)) ∧
    (∀ d : Fin 32, Gives (.mgtBusTimeout (.i3c d) t) s fun u =>
      bits (u.get F.MGT_SIDEBAND_I3C_STUCK) (d.val / 8) 1 = 1 ∧
      u.get F.MGT_SIDEBAND_I3C_ERRS = min (s.get F.MGT_SIDEBAND_I3C_ERRS + 1) 65535 ∧
      channelState u d = (if channelState s d = 1 then 7 else channelState s d) ∧
      (channelState s d = 1 → u.get (F.DDR_D_STATUS_REASON d) = 4)) ∧
    (∀ m : Fin 12, let st := s.get (F.KZP_OE_STATUS_LSM_STATE (m.val / 2) (m.val % 2))
      let q := (s.upto t).bumpSat F.MGT_SIDEBAND_LSM_ERRS
      exec (.mgtBusTimeout (.lsm m) t) s = .next (if st = 1 ∨ st = 2 then wake (laserFail q m) else q)) ∧
    (Gives (.mgtBusTimeout .cs t) s fun u =>
      u.flag F.MGT_SIDEBAND_CS_STUCK = true ∧ u.flag F.PWR_THERMAL_INLET_PRESENT = false ∧ u.get F.PWR_THERMAL_INLET_C = 0 ∧
      u.flag F.PWR_THERMAL_INLET_HOT = false) ∧
    (exec (.mgtBusTimeout .mgt t) s = .next ((s.upto t).emit (.pin "MGT_SDA" true)))

/-- A vector sub-slot whose bundle issues takes effect in every tile that it names (R259, R260, R318, R319, R324): each of the 256 lanes of
VD takes the operation's result 4 cycles after issue (12 for a special function, 10 for a reduction, 2 for AMOV and AWR), ADD, SUB, MUL and
FMA rounding the exact value once and setting INVALID when a lane makes a NaN of operands that are none; only tiles named change, and of the
registers only their flags. A conversion whose bundle issues (R270 to R274, R318): CVTI gives lane `i` the FP32 value of element `i`, times
its block's scale; CVTO packs the lanes converted to the format, stochastically where SR asks for it and SR_EN allows it, the generator then
moving on once for each lane. -/
def Obligations.VectorSlotsCompute : Prop :=
  (∀ (s s1 : State) (k : Kern) (x : Slot), Issues s x.iss s1 k → slotF x 41 23 = 0 →
     let cyc := x.iss.cyc
     let vd := vrKey (slotF x 6 5) 0
     let va := fun (t : Tile) (i : Nat) => laneOperand t x 11 i
     let vb := fun (t : Tile) (i : Nat) => laneOperand t x 16 i
     let vc := fun (t : Tile) (i : Nat) => laneOperand t x 21 i
     (∀ r ∈ plainLanes, slotF x 0 6 = r.1 → Gives (r.2.1 x) s (SlotTakes x s1 k [] fun t =>
       (t.plan [⟨cyc + 4, .land vd ((List.range 256).map fun i => r.2.2 (va t i) (vb t i) (vc t i))⟩], {}))) ∧
     (∀ r ∈ [(0x01, Instr.vadd), (0x02, .vsub), (0x03, .vmul), (0x04, .vfma)], slotF x 0 6 = r.1 → Gives (r.2 x) s (SlotTakes x s1 k [] fun t =>
       (t.plan [⟨cyc + 4, .land vd ((List.range 256).map fun i => fmt32.round (laneExact r.1 (va t i) (vb t i) (vc t i)))⟩],
        { invalid := (List.range 256).any fun i => laneInvalid r.1 (va t i) (vb t i) (vc t i) }))) ∧
     (∀ r ∈ [(0x10, Instr.vexp), (0x11, .vexp2), (0x12, .vrcp), (0x13, .vrsq)], slotF x 0 6 = r.1 → UnitsFree x s1 k [(4, 4)] →
       Gives (r.2 x) s (SlotTakes x s1 k [(4, 4)] fun t =>
         (t.plan [⟨cyc + 12, .land vd ((List.range 256).map fun i => (specialLane r.1 (va t i) (Config.special r.1 (va t i))).1)⟩],
          { invalid := r.1 == 0x13 && (List.range 256).any fun i => (fmt32.value (va t i)).sign && !(fmt32.value (va t i)).isZero }))) ∧
     (∀ any : Nat, ∀ op ∈ [0x10, 0x11, 0x12, 0x13],
       (∀ a, fmt32.value a = .nan → specialLane op a any = (0x7FC00000, {})) ∧
       specialLane op 0x7F800000 any = (if op < 0x12 then 0x7F800000 else 0, {}) ∧
       specialLane op 0xFF800000 any = (match op with | 0x12 => (0x80000000, {}) | 0x13 => (0x7FC00000, { invalid := true }) | _ => (0, {})) ∧
       specialLane op 0 any = (if op < 0x12 then 0x3F800000 else 0x7F800000, {}) ∧
       specialLane op 0x80000000 any = (if op < 0x12 then 0x3F800000 else 0xFF800000, {})) ∧
     (∀ r ∈ [(0x22, Instr.rsum, 0x01), (0x23, .rmax, 0x06)], slotF x 0 6 = r.1 → UnitsFree x s1 k [(5, 8)] →
       Gives (r.2.1 x) s (SlotTakes x s1 k [(5, 8)] fun t =>
         let v := reduce (fun a b => vecLane r.2.2 a b 0) 8 (vreg t (slotF x 11 5)) {}
         (t.plan [⟨cyc + 10, .land vd (v.1 :: List.replicate 255 0)⟩], v.2))) ∧
     (let b := 8 + slotF x 32 2
      let g := accKey (slotF x 32 2) (slotF x 34 4 * 256)
      UnitsFree x s1 k [(b, 1)] →
       (slotF x 0 6 = 0x28 → Gives (.amov x) s (SlotTakes x s1 k [(b, 1)] fun t => (t.plan [⟨cyc + 2, .land vd (t.words 0 g 256)⟩], {}))) ∧
       (slotF x 0 6 = 0x29 → Gives (.awr x) s (SlotTakes x s1 k [(b, 1)] fun t =>
         (t.plan [⟨cyc + 2, .land g ((List.range 256).map (va t))⟩], {}))))) ∧
  (∀ (s s1 : State) (k : Kern) (x : Slot), Issues s x.iss s1 k → slotF x 41 23 = 0 → partOk x = true →
     let cyc := x.iss.cyc
     let f := slotF x 26 4
     let w := fmtBits f
     let p := slotF x 38 3
     (slotF x 0 6 = 0x20 → Gives (.cvti x) s (SlotTakes x s1 k [] fun t =>
       let src := wordsVal (((vreg t (slotF x 11 5)).drop (p * 8 * w)).take (8 * w))
       let scs := wordsVal (((vreg t (slotF x 21 5)).drop (p * 2)).take 2)
       let scale := fun i => if fmtMx f then bits scs (i / 32 * 8) 8 else 127
       (t.plan [⟨cyc + 4, .land (vrKey (slotF x 6 5) 0) ((List.range 256).map fun i =>
         fmt32.round ((elemValue f (bits src (i * w) w)).scaleBy (scale i)))⟩],
        { nanScale := fmtMx f && (List.range 8).any fun b => scale (32 * b) == 255 }))) ∧
     (slotF x 0 6 = 0x21 →
       let sr := slotF x 30 1 = 1 ∧ s1.flag F.TP_CTRL_SR_EN = true
       let value := fun a => if slotF x 16 1 = 1 then Fl.ofInt (sgn 32 a) 0 else fmt32.value a
       let mode := fun (t : Tile) (i : Nat) => if sr then Rnd.sr ((draws 256 t.rng).1.getD i 0) else Rnd.rne
       let moved := fun t : Tile => { t with rng := if sr then (draws 256 t.rng).2 else t.rng }
       (fmtMx f = false → ¬ (f = 12 ∧ slotF x 16 1 = 0) → ¬ (f = 13 ∧ slotF x 16 1 = 1) → Gives (.cvto x) s (SlotTakes x s1 k [] fun t =>
         let one := fun i =>
           let a := laneOperand t x 11 i
           let r := convert f (slotF x 31 1 = 1) (mode t i) (value a) (Config.pick s1.free)
           if f = 2 ∧ (value a).isNan then (nanE4m3 a, r.2) else r
         ((moved t).plan [⟨cyc + 4, .land (vrKey (slotF x 6 5) (p * 8 * w))
           (valWords (8 * w) (packBits w ((List.range 256).map fun i => (one i).1)))⟩],
          (List.range 256).foldl (fun g i => g.or (one i).2) {}))) ∧
       ((f = 12 ∧ slotF x 16 1 = 0) ∨ (f = 13 ∧ slotF x 16 1 = 1) → Gives (.cvto x) s (SlotTakes x s1 k [] fun t =>
         ((moved t).plan [⟨cyc + 4, .land (vrKey (slotF x 6 5) 0) (valWords 256 (packBits 32 (vreg t (slotF x 11 5))))⟩], {}))) ∧
       (fmtMx f = true → Gives (.cvto x) s (SlotTakes x s1 k [] fun t =>
         let block := fun b => (span (32 * b) 32).map fun i => value (laneOperand t x 11 i)
         let sc := fun b => mxScale f (block b)
         let one := fun i => mxElem f (sc (i / 32)) (mode t i) (value (laneOperand t x 11 i))
         ((moved t).plan
           [⟨cyc + 4, .land (vrKey (slotF x 6 5) (p * 8 * w)) (valWords (8 * w) (packBits w ((List.range 256).map fun i => (one i).1)))⟩,
            ⟨cyc + 4, .land (vrKey (slotF x 21 5) (p * 2)) (valWords 2 (packBits 8 ((List.range 8).map sc)))⟩],
          { nanScale := (List.range 8).any fun b => sc b == 255, saturated := (List.range 256).any fun i => (one i).2 })))))

/-- Matrix, scale and transfer sub-slots whose bundle issues (R255, R265, R317, R320, R324): each is planned in every tile that it names,
beat by beat, and holds its units for the cycles that the table gives; an address takes its offset register. A matrix operation of `n` steps
lands in its bank `n` + 24 cycles after issue, with the sums of its steps (R267). AUX changes the registers of the tiles named after the
bundle (R321). -/
def Obligations.MatrixSlotsCompute : Prop :=  (∀ (s s1 : State) (k : Kern) (x : Slot), Issues s x.iss s1 k →
    let cyc := x.iss.cyc
    let b := slotF x 4 2
    let at1 := fun t : Tile => tileAddr t (slotF x 15 15) (slotF x 57 3)
    let move := fun (n lands : Nat) (src dst : Nat → Nat) => (List.range n).map fun j => (⟨cyc + j, .move (src j) 32 (dst j) lands⟩ : TileEv)
    (let fa := slotF x 6 4
     let fb := slotF x 10 4
     let n := slotF x 45 12 + 1
     let kk := n * min (fmtStep fa) (fmtStep fb)
     let need := [(0, n), (1, n), (2, n), (8 + b, n + 24)]
     slotF x 0 4 = 1 → fa ≤ 11 → fb ≤ 11 → slotF x 63 1 = 0 → (fmtMx fa = true ∨ fmtMx fb = true → kk % 32 = 0 ∧ kk ≤ 2048) →
     UnitsFree x s1 k need → Gives (.mma x) s (SlotTakes x s1 k need fun t =>
      let old := if slotF x 14 1 = 1 then List.replicate 4096 0 else t.words k.frame.bankMask (accKey b 0) 4096
      let m : Mma := { acc := b, fa := fa, fb := fb, addrA := at1 t, addrB := tileAddr t (slotF x 30 15) (slotF x 60 3), k := 0,
                       steps := n, sums := old }
      (t.plan [⟨cyc, .step m⟩], {}))) ∧
    (slotF x 63 1 = 0 →
      (slotF x 0 4 = 2 → UnitsFree x s1 k [(1, 32)] → Gives (.ldsa x) s (SlotTakes x s1 k [(1, 32)] fun t =>
        (t.plan (move 32 (cyc + 32) (fun j => unitKey (at1 t + j)) (fun j => scaleKey 0 (32 * j))), {}))) ∧
      (slotF x 0 4 = 3 → UnitsFree x s1 k [(2, 32)] → Gives (.ldsb x) s (SlotTakes x s1 k [(2, 32)] fun t =>
        (t.plan (move 32 (cyc + 32) (fun j => unitKey (at1 t + j)) (fun j => scaleKey 1 (32 * j))), {}))) ∧
      (UnitsFree x s1 k [(3, 128), (8 + b, 128)] →
        (slotF x 0 4 = 4 → Gives (.accSt x) s (SlotTakes x s1 k [(3, 128), (8 + b, 128)] fun t =>
          (t.plan (move 128 (cyc + 130) (fun j => accKey b (32 * j)) (fun j => unitKey (at1 t + j))), {}))) ∧
        (slotF x 0 4 = 5 → Gives (.accLd x) s (SlotTakes x s1 k [(3, 128), (8 + b, 128)] fun t =>
          (t.plan (move 128 (cyc + 130) (fun j => unitKey (at1 t + j)) (fun j => accKey b (32 * j))), {}))))) ∧
    (let n := slotF x 25 3 + 1
     let r := slotF x 2 5
     let at2 := fun t : Tile => tileAddr t (slotF x 7 15) (slotF x 22 3)
     slotF x 0 2 = 1 → slotF x 28 36 = 0 →
      (UnitsFree x s1 k [(6, n)] →
        let takes := SlotTakes x s1 k [(6, n)] fun t =>
          (t.plan (move n (cyc + n + 3) (fun j => unitKey (at2 t + j)) (fun j => vrKey r (32 * j))), {})
        Gives (.vld x false) s takes ∧
        Gives (.vld x true) s fun u => ∃ v, takes v ∧ u = (slotTiles k x).foldl (fun s g => s.bumpSat (F.TP_T_ECC_CORRECTED g)) v) ∧
      (UnitsFree x s1 k [(7, n)] → Gives (.vst x) s (SlotTakes x s1 k [(7, n)] fun t =>
        (t.plan (move n (cyc + n + 2) (fun j => vrKey r (32 * j)) (fun j => unitKey (at2 t + j))), {})))) ∧
    (let r := slotF x 20 3
     let change := fun add : Bool => putKern s1 { k with aux := k.aux ++ (slotTiles k x).map fun g =>
      (g, r, add, (sgn 16 (slotF x 23 16) % 32768).toNat) }
     r ≠ 0 → slotF x 39 25 = 0 →
      (slotF x 16 4 = 1 → exec (.auxAdd x) s = .next (change true)) ∧ (slotF x 16 4 = 2 → exec (.auxSet x) s = .next (change false)))) ∧
  (∀ (t : Tile) (mask c : Nat) (m : Mma), t.evs = [⟨c, .step m⟩] → m.k = 0 → 0 < m.steps →
    let u := (t.upto mask (c + m.steps + 24)).1
    u.evs = [] ∧ u.words mask (accKey m.acc 0) 4096 = ((List.range m.steps).foldl (fun m _ => (mmaStep t mask m).1) m).sums) ∧
  (∀ (s : State) (k : Kern) (g r v : Nat) (add : Bool), k.aux = [(g, r, add, v)] →
    let old := tabGet 0 (trKey r) (tile s g).mem
    let u := applyAux s k
    tabGet 0 (trKey r) (tile u g).mem = (if add then (old + v) % 32768 else v % 32768) ∧
    (∀ j, j ≠ trKey r → tabGet 0 j (tile u g).mem = tabGet 0 j (tile s g).mem) ∧ ∀ h, h ≠ g → tile u h = tile s h)

/-- A control slot whose bundle issues (R309 to R313, R329, R353, R357): LOOP opens a loop of its level, TLOAD gives every tile of the
kernel its row of registers, END ends the kernel, YIELD issues as an ordinary bundle unless the kernel is to be switched out, and START
hands a copy to its engine, whose 32 entries full hold the bundle; IDLE cycles follow a control slot. A synchronisation slot whose bundle
issues (R300, R322, R323, R353): WAIT takes COUNT from its counter once it has it, SPFENCE and DRAIN issue once what they wait for is done,
ACQUIRE and FLUSH act on their range in the sectors named and the next bundle waits for them; until then the cycle is counted as held. -/
def Obligations.ControlAndSyncSlotsAct : Prop :=
  ((∀ (s s1 : State) (k : Kern) (i : Issue) (w : Word), Issues s i s1 k →
     let v := w.toNat
     let k1 := { k with idle := bits v 48 16 }
     let s2 := putKern s1 k1
     (let lev := bits v 6 2
      let last := k.bundle + bits v 24 12 + 1
      let l : KLoop := { level := lev, start := k.bundle, len := bits v 24 12 + 1, count := bits v 8 16 + 1, iter := 0 }
      bits v 0 6 = 0x01 → bits v 36 12 = 0 →
       (lev = k.loops.length → (∀ m ∈ k.loops, last ≤ m.start + m.len) → last < k.frame.bundles →
         exec (.loopOpen w i) s = .next (putKern s2 { k1 with loops := l :: k.loops, lc := listSet k.lc lev 0 })) ∧
       (lev ≠ k.loops.length ∨ (∃ m ∈ k.loops, m.start + m.len < last) ∨ k.frame.bundles ≤ last →
         exec (.loopOpen w i) s = .next (planError s2 k1 3 .malformed))) ∧
     (bits v 0 6 = 0x04 → bits v 6 42 = 0 → exec (.bundleEnd w i) s = .next (putKern s2 { k1 with st := .ending })) ∧
     (bits v 0 6 = 0x05 → bits v 12 36 = 0 →
       (∀ row : List Nat, k.frame.tregs[bits v 6 6]? = some row → exec (.tload w i) s = .next (putKern s2 { k1 with
         aux := (k.tiles.flatMap fun p => (span 1 7).map fun r => (p.2, r, false, row.getD (p.1 * 8 + r) 0)) ++ k.aux })) ∧
       (k.frame.tregs.length ≤ bits v 6 6 → exec (.tload w i) s = .next (planError s2 k1 4 .malformed))) ∧
     (let live := bits v 6 12
      let r := s.ring k.ring
      let due := otherWaits s2 k1 = true ∧ k.runFrom + 1000 * s2.get F.TP_SEQ_CTRL_QUANTUM_US ≤ s2.now
      let room := keptKerns s2 < 256
      bits v 0 6 = 0x03 → bits v 18 30 = 0 →
       (live ≠ 0xFFF → k.frame.lsets.length ≤ live → exec (.yieldPoint w i) s = .next (planError s2 k1 4 .malformed)) ∧
       (live = 0xFFF ∨ live < k.frame.lsets.length →
         (r.st = .draining → ∀ j : Job, findJob (dropKern (leaveTiles s2 k1) k1) k.ring k.idx = some j →
           exec (.yieldPoint w i) s = .next (finishJob (dropKern (leaveTiles s2 k1) k1) j (if r.drainPort then .portLost else .abortDisable))) ∧
         (r.st ≠ .draining → copyFaulted s2 k1 = true → room →
           exec (.yieldPoint w i) s = .next (switchOut s2 { k1 with pendWait := none } live true)) ∧
         (r.st ≠ .draining → ¬ room → exec (.yieldPoint w i) s = .next s2) ∧
         (r.st ≠ .draining → copyFaulted s2 k1 = false →
           (room → due ∨ hazyWithSpare s2 k1 = true → exec (.yieldPoint w i) s = .next (switchOut s2 k1 live false)) ∧
           (¬ due → hazyWithSpare s2 k1 = false → exec (.yieldPoint w i) s = .next s2))))) ∧
   (∀ (s : State) (k : Kern) (live : Nat) (fault : Bool), (kernOf s k.ring k.idx).isSome = true →
     let u := switchOut s k live fault
     u.plane.active = none ∧ u.store = s.store ∧ ∃ k2 : Kern, kernOf u k.ring k.idx = some k2 ∧ k2.st = .out fault ∧ k2.live = live ∧
       k2.tiles = [] ∧ k2.loops = k.loops ∧ k2.lc = k.lc ∧ k2.ev = k.ev ∧ k2.bundle = k.bundle ∧ k2.err = k.err) ∧
   (∀ (s s1 : State) (k : Kern) (e : Fin 8) (i : Issue) (w : Word) (ws : List Word), Issues s i s1 k → bits w.toNat 0 4 = 1 → bits w.toNat 27 37 = 0 →
     k.frame.copies[bits w.toNat 4 12]? = some ws →
     let v := w.toNat
     let c := copyOf ws
     let lc := if bits v 16 1 = 1 then k.lc.getD (bits v 17 2) 0 else 0
     let s0 := s.upto (i.cyc * 5 / 6)
     let g := slotEngine s0 e.val
     let x : KCopy := { no := s1.plane.nextCopy, ring := k.ring, idx := k.idx, engine := g, entry := bits v 4 12, lc := lc,
                        event := bits v 19 8, started := i.cyc, slot := e.val }
     let outside := (c.op = 0x11 ∨ c.op = 0x12) ∧ ∃ l ∈ maskTiles (e.val / 2) c.tmask, bits k.frame.tileMask l 1 = 0
     (bits v 16 1 = 1 → c.iter ≤ lc → exec (.startCopy e w i) s = .next (planError s1 k 5 .denied)) ∧
     (bits v 16 1 = 0 ∨ lc < c.iter →
       (outside → exec (.startCopy e w i) s = .next (planError s1 k 8 .denied)) ∧
       (¬ outside →
         (32 ≤ (s0.plane.kcopies.filter fun x => x.engine = g).length →
           exec (.startCopy e w i) s = .next (s0.bump (F.CPY_C_STALLS_SLOT_STALLS g))) ∧
         ((s0.plane.kcopies.filter fun x => x.engine = g).length < 32 → Gives (.startCopy e w i) s fun u =>
           u.plane.nextCopy = s1.plane.nextCopy + 1 ∧ u.plane.kerns = s1.plane.kerns ∧ u.store = s1.store ∧
           u.plane.kcopies = s1.plane.kcopies ++ [x]))))) ∧
  (∀ (s s1 : State) (k0 k : Kern) (i : Issue) (w : Word),
     let s0 := s.upto (i.cyc * 5 / 6)
     let v := w.toNat
     activeKern s0 = some k0 → openBundle s0 k0 i = .go s1 k → i.bundle < k.frame.bundles →
     (let e := bits v 4 8
      let c := bits v 12 16
      let live := bits v 28 12
      let safe := bits v 40 1 = 1
      let draining := (s.ring k.ring).st = .draining
      bits v 0 4 = 1 → c ≠ 0 → bits v 41 23 = 0 → (live = 0xFFF ∨ live < k.frame.lsets.length) →
       (c ≤ tabGet 0 e k.ev → ¬ (safe ∧ draining) →
         exec (.waitEv w i) s = .next (putKern s1 { k with ev := tabPutD 0 e (tabGet 0 e k.ev - c) k.ev })) ∧
       (tabGet 0 e k.ev < c → ¬ (safe ∧ (draining ∨ copyFaulted s1 k = true)) → exec (.waitEv w i) s = .next (holdCycle s0 k0)) ∧
       (tabGet 0 e k.ev < c → safe → ¬ draining → copyFaulted s1 k = true → keptKerns s1 < 256 →
         exec (.waitEv w i) s = .next (switchOut s1 { k with pendWait := some (e, c) } live true))) ∧
     (bits v 4 60 = 0 →
       (bits v 0 4 = 2 →
         (spPending s1 k = false → exec (.spfence w i) s = .next s1) ∧
         (spPending s1 k = true → exec (.spfence w i) s = .next (holdCycle s0 k0))) ∧
       (bits v 0 4 = 5 →
         let left := ∃ c ∈ s1.plane.kcopies, c.ring = k.ring ∧ c.idx = k.idx ∧ c.started < i.cyc
         (¬ left → exec (.drain w i) s = .next s1) ∧ (left → exec (.drain w i) s = .next (holdCycle s0 k0)))) ∧
     (let ns := if bits v 24 4 = 0 then [0, 1, 2, 3] else [0, 1, 2, 3].filter fun n => bits v (24 + n) 1 = 1
      bits v 4 8 = 0 → bits v 28 36 = 0 → ∀ (r : KRange) (pa : Nat), k.frame.ranges[bits v 12 12]? = some r →
       poolOf s1 k.ctx r.va r.len (if r.cls = 2 then .wr else .rd) = some pa →
       (bits v 0 4 = 3 → exec (.acquire w i) s = .next (putKern (acquireRange s1 ns pa r.len) { k with sync := ns })) ∧
       (bits v 0 4 = 4 → exec (.flush w i) s = .next (putKern (flushRange s1 ns pa r.len) { k with sync := ns }))))

/-- Every slot's command, whose opcode is its own: without a kernel on the plane, or for a bundle that is not the next one, nothing happens
but the time; a bundle that may not issue yet is a held cycle, counted in SYNC_HOLD unless the kernel is confidential; past the last bundle
it is the plan error RUNOFF. A sub-slot with a reserved bit is OP_INVALID, one that needs a unit that is held is OCCUPIED (R310, R325). A
plan error stops the kernel, and TP_SEQ_ERR records it (R326). -/
def Obligations.PlanErrorsStopKernels : Prop :=  (∀ (s : State) (c : Instr) (i : Issue), slotIssue c = some i →
    let s0 := s.upto (i.cyc * 5 / 6)
    (activeKern s0 = none → exec c s = .next s0) ∧
    (∀ k0 : Kern, activeKern s0 = some k0 →
      (openBundle s0 k0 i = .no → exec c s = .next s0) ∧
      (openBundle s0 k0 i = .held → exec c s = .next (if kernConf s0 k0 then s0 else s0.bump F.TP_SEQ_FETCH_SYNC_HOLD)) ∧
      (∀ (s1 : State) (k : Kern), openBundle s0 k0 i = .go s1 k → k.frame.bundles ≤ i.bundle → exec c s = .next (planError s1 k 7 .malformed)))) ∧
  (∀ (s s1 : State) (k : Kern) (x : Slot), Issues s x.iss s1 k →
    (∀ r ∈ vectorRows, slotF x 0 6 = r.1 → slotF x 41 23 ≠ 0 → exec (r.2 x) s = .next (planError s1 k 1 .malformed)) ∧
    (∀ r ∈ [(1, Instr.mma), (2, .ldsa), (3, .ldsb), (4, .accSt), (5, .accLd)], slotF x 0 4 = r.1 → slotF x 63 1 = 1 →
      exec (r.2 x) s = .next (planError s1 k 1 .malformed)) ∧
    (slotF x 41 23 = 0 →
      (∀ r ∈ [(0x10, Instr.vexp), (0x11, .vexp2), (0x12, .vrcp), (0x13, .vrsq)], slotF x 0 6 = r.1 → ¬ UnitsFree x s1 k [(4, 4)] →
        exec (r.2 x) s = .next (planError s1 k 2 .malformed)) ∧
      (∀ r ∈ [(0x22, Instr.rsum), (0x23, .rmax)], slotF x 0 6 = r.1 → ¬ UnitsFree x s1 k [(5, 8)] →
        exec (r.2 x) s = .next (planError s1 k 2 .malformed)))) ∧
  (∀ (s : State) (k : Kern) (kind : Nat) (c : Code),
    let u := planError s k kind c
    u.get F.TP_SEQ_ERR_KIND = kind % 16 ∧ u.get F.TP_SEQ_ERR_BUNDLE = k.bundle % 2 ^ F.TP_SEQ_ERR_BUNDLE.wid ∧
    u.get F.TP_SEQ_ERR_CONTEXT = k.ctx % 2 ^ 16 ∧ u.flag F.TP_SEQ_ERR_VALID = true ∧
    OnlyFields ([F.TP_SEQ_ERR_KIND, F.TP_SEQ_ERR_BUNDLE, F.TP_SEQ_ERR_CONTEXT, F.TP_SEQ_ERR_VALID].map Fld.key)
      { s with plane := { s.plane with kerns := u.plane.kerns } } u ∧
    ((kernOf s k.ring k.idx).isSome = true → ∃ k2 : Kern, kernOf u k.ring k.idx = some k2 ∧ k2.err = some (c, k.bundle % 2 ^ 26) ∧
      (k.isOut = false → k2.st = .ending)))

/-- A launch at queue time (R343 to R348): its image's header, its save area, its tables and its arguments are read and checked in order,
the first code that holds ends it, and one that passes is queued to the plane as a kernel of its launch frame; with 4,096 launches queued it
waits, and goes on when there is room. -/
def Obligations.KernelLaunchChecked : Prop :=  (∀ (s : State) (d : Desc) (j : Job), Ready s d 0x20 0x20 j → j.phase ≠ 1 →
    let c := ringCtx j.ring
    let j1 := started j 0x20
    let va := dbits d.words 16 0 64
    let len := dbits d.words 24 0 32
    let ends := fun (t : State) (e : Code) => exec (.kernelLaunch d) s = .next (rowEnd s j (finishJob t j1 e))
    (len < 256 → ends (startState s d 0x20) .malformed) ∧
    (∀ s1 : State, 256 ≤ len → prepare (startState s d 0x20) j1 0x20 [⟨va, 256, .ex⟩] = (true, s1) →
      let hb := (readVa s1 c va 256 .ex).1
      let s2 := (readVa s1 c va 256 .ex).2
      let h := headerOf hb
      let rs := launchRanges h va (dbits d.words 32 0 64)
      (imageHeaderOk hb len = false → ends s2 .malformed) ∧
      (imageHeaderOk hb len = true → saveDenied s2 c d.words h = true → ends s2 .denied) ∧
      (∀ s3 : State, imageHeaderOk hb len = true → saveDenied s2 c d.words h = false → prepare s2 j1 0x20 rs = (true, s3) →
        let poisoned := (∃ r ∈ rs, poisonVa s3 c r.va r.len = true) ∨ poisonVa s3 c va 256 = true
        let bs := (readAll s3 c rs).1
        let s4 := (readAll s3 c rs).2
        let f := frameOf d.words hb bs
        let first := launchCheck s4 c f (tablesOk c h bs) (argsNamed (tableCopies h bs) (tableRanges h bs))
        (poisoned → ends s3 .poison) ∧
        (¬ poisoned → ∀ e : Code, first = some e → ends s4 e) ∧
        (¬ poisoned → first = none →
          (4096 ≤ planeQueued s4 → exec (.kernelLaunch d) s = .next (rowEnd s j (putJob s4 { j1 with st := .queued, phase := 2 }))) ∧
          (planeQueued s4 < 4096 → Gives (.kernelLaunch d) s fun u => u.plane.kerns = s4.plane.kerns ++ [newKern j f] ∧
            u.plane.active = s4.plane.active ∧ u.store = s4.store ∧ u.rings.jobs = (putJob s4 { j1 with
              st := .queued, phase := 1,
              segs := (j1.segs ++ rangeSegs s4 c (f.ranges.map fun r => ⟨r.va, r.len, clsRight r.cls⟩)).eraseDups }).rings.jobs))))) ∧
  (∀ (s : State) (c : Nat) (f : Frame) (ok : Bool) (named : List Nat),
    (launchCheck s c f ok named = none → ok = true ∧ (f.saveBytes = 0 ↔ f.saveVa = 0) ∧ (∀ k ∈ named, k ≠ 0 → f.args.getD (k - 1) 0 ≠ 0) ∧
      (∀ r ∈ f.ranges, ∀ e : Code, translate s c r.va r.len (clsRight r.cls) ≠ .code e) ∧
      (∀ w ∈ f.copies, ∀ x ∈ copyExtents (placeCopy (copyOf w) f.args 0), heldBy f.ranges (if x.right = .wr then 2 else 1) x = true ∧
        ∀ e : Code, translate s c x.va x.len x.right ≠ .code e) ∧
      (mapTiles s f.tileMask).isSome = true) ∧
    (∀ e : Code, launchCheck s c f ok named = some e → e = .malformed ∨ e = .denied ∨ (e = .capacity ∧ mapTiles s f.tileMask = none))) ∧
  (∀ (s : State) (t : Nat),
    let first := s.rings.jobs.find? fun j => descOp j.words = 0x20 && j.phase = 2 && j.st = .queued
    (∀ j : Job, first = some j → planeQueued s < 4096 → exec (.launchQueueRoom t) s = .next (rowEnd s j (launchGo (s.upto t) j))) ∧
    (first = none ∨ 4096 ≤ planeQueued s → exec (.launchQueueRoom t) s = .next (s.upto t)))

/-- Starting a kernel (R351, R352, R327, R355): with the plane free and enabled the next kernel is mapped onto healthy tiles of its sectors,
which come ON with the kernel's banks, its row of registers, its generators and cleared flags; a restartable one is logged first; the first
bundles are then read, and issue begins. A kernel that was switched out goes on with its loops, counters and registers as kept. -/
def Obligations.KernelStartMapsTiles : Prop :=  (∀ (s : State) (t : Nat) (k : Kern) (ts : List (Nat × Nat)),
    let s0 := s.upto t
    s.plane.active = none → nextKern s0 = some k → planeRuns s0 = true → mapTiles s0 k.frame.tileMask = some ts →
    (k.isOut = false → (k.restartable = false ∨ k.restarts ≠ 0) → exec (.kernelStart t) s = .next (startKern s0 k ts)) ∧
    (∀ j : Job, k.isOut = false → k.restartable = true → k.restarts = 0 → findJob s0 k.ring k.idx = some j →
      let a := logWrite s0 1 0x20 k.ctx k.ring k.idx (leBytes 64 (descVal j.words) ++ k.frame.bytes)
      (∀ s1 : State, a = .done s1 → exec (.kernelStart t) s = .next (startKern s1 k ts)) ∧
      (∀ s1 : State, a = .wait s1 → exec (.kernelStart t) s = .next s1) ∧
      (a = .tooLong → exec (.kernelStart t) s = .next (dropKern (finishJob s0 j .capacity) k))) ∧
    (k.isOut = true → k ∈ s.plane.kerns → Gives (.kernelResume t) s fun u => u.plane.active = some (k.ring, k.idx) ∧ u.store = s.store ∧
      (∀ p ∈ ts, u.get (F.TP_T_STATUS_STATE p.2) = 2 ∧ u.flag (F.TP_T_STATUS_BUSY p.2) = true) ∧
      (∃ k2 : Kern, kernOf u k.ring k.idx = some k2 ∧ k2.st = .issuing ∧ k2.tiles = ts ∧ k2.loops = k.loops ∧ k2.lc = k.lc ∧ k2.ev = k.ev ∧
        k2.bundle = k.bundle ∧ k2.frame = k.frame) ∧
      (∀ p ∈ ts, ∀ x : KeptTile, (k.kept.find? fun q => q.logical = p.1) = some x → ∀ r, 1 ≤ r → r ≤ 7 →
        tabGet 0 (trKey r) (tile u p.2).mem = x.tregs.getD r 0))) ∧
  (∀ (s : State) (k : Kern) (ts : List (Nat × Nat)), k ∈ s.plane.kerns → k.isOut = false → mapTiles s k.frame.tileMask = some ts →
    let u := startKern s k ts
    u.plane.active = some (k.ring, k.idx) ∧ u.plane.rr = ctxDomain s k.ctx ∧
    ((∀ n < 4, s.get (F.TP_S_STAMP_STAMP n) ≠ 2 ^ 48 - 1) → u.store = s.store) ∧
    (∃ k2 : Kern, kernOf u k.ring k.idx = some k2 ∧ k2.st = .starting ∧ k2.tiles = ts ∧ k2.lc = [0, 0, 0, 0] ∧ k2.ev = [] ∧ k2.loops = [] ∧
      k2.begun = false ∧ k2.frame = k.frame ∧ k2.restarts = k.restarts) ∧
    (∀ p ∈ ts, u.get (F.TP_T_STATUS_STATE p.2) = 2 ∧ u.flag (F.TP_T_STATUS_BUSY p.2) = true ∧
      u.get (F.TP_T_STATUS_BANKS_ON p.2) = k.frame.bankMask % 2 ^ 16 ∧ (∀ f ∈ tileFlags p.2, u.get f = 0) ∧
      (tile u p.2).rng = Nat.xor k.frame.seed p.2 ∧
      ∀ r, 1 ≤ r → r ≤ 7 → tabGet 0 (trKey r) (tile u p.2).mem = (k.frame.tregs.headD []).getD (p.1 * 8 + r) 0)) ∧
  (∀ (s : State) (mask : Nat) (ts : List (Nat × Nat)), mapTiles s mask = some ts → (ts.map (·.2)).Nodup ∧
    ∀ p ∈ ts, p.1 < 64 ∧ bits mask p.1 1 = 1 ∧ p.1 / 16 = p.2 / 16 ∧ s.flag (F.TP_T_STATUS_FAILED p.2) = false ∧
      s.flag (F.TP_T_STATUS_HAZY p.2) = false) ∧
  (∀ (s s1 : State) (t : Nat) (k : Kern) (j : Job), activeKern s = some k → k.st = .starting → k.readyAt ≤ max s.now t →
    planeRuns (s.upto t) = true → findJob s k.ring k.idx = some j → j.st ≠ .faulted →
    let va := k.frame.imageVa + k.frame.bundleOff
    let n := min (s.get F.TP_SEQ_CTRL_FETCH_LEAD) k.frame.bundles * 192
    prepare (s.upto t) j 0x20 [⟨va, n, .ex⟩] = (true, s1) →
    let s2 := putJob s1 { j with st := .running }
    (poisonVa s2 k.ctx va n = true → exec (.planeStart t) s = .next (putKern s2 { k with hurt := true })) ∧
    (poisonVa s2 k.ctx va n = false →
      let s3 := (readVa s2 k.ctx va n .ex).2
      exec (.planeStart t) s = .next (putKern s3 { k with st := .issuing, cyc := ceilDiv (s3.now * 6) 5, idle := 0, bundle := 0, begun := false })))

/-- The end of a kernel (R282, R302, R349, R350, R357, R360): with no copy left its context's lines are flushed, and once they are, its
launch completes with the code that its errors give; an uncorrectable error restarts a restartable kernel from bundle 0 while it may, and
else ends it as poisoned. A tile without a kernel goes to RETENTION and then OFF as its timers say (R283, R287). -/
def Obligations.KernelEndGivesCode : Prop :=  (∀ (s : State) (t : Nat) (k : Kern), kernOf s k.ring k.idx = some k →
    (s.plane.kerns.find? fun k => decide (k.st = .ending) || (k.isOut && decide (k.err ≠ none))) = some k →
    (∀ c ∈ s.plane.kcopies, ¬ (c.ring = k.ring ∧ c.idx = k.idx)) →
    let s0 := s.upto t
    let s1 := if k.flushed then s0
      else flushContext (putKern (settle (applyAux s0 k) k (k.cyc + 10000)) { k with flushed := true, aux := [] }) [0, 1, 2, 3] k.ctx
    (backsOpen s1 [0, 1, 2, 3] = true → exec (.kernelComplete t) s = .next s1) ∧
    (∀ (k1 : Kern) (j : Job), backsOpen s1 [0, 1, 2, 3] = false → kernOf s1 k.ring k.idx = some k1 →
      let s2 := (dropKern (leaveTiles (countStalls s1 k1) k1) k1).bump F.TP_SEQ_STATS_KERNELS
      findJob s2 k1.ring k1.idx = some j → j.st ≠ .finished →
      exec (.kernelComplete t) s = .next (finishJob s2 j (kernCode s1 k1).1 (kernCode s1 k1).2) ∧ kernOf s2 k.ring k.idx = none ∧
      s2.store = s1.store)) ∧
  (∀ (s : State) (k : Kern),
    let run := min ((s.now - k.startedAt) / 1000) (2 ^ 26 - 1)
    (∀ (c : Code) (b : Nat), k.err = some (c, b) → kernCode s k = (c, k.restarts % 16 + 16 * b)) ∧
    (k.err = none → k.hurt = true → kernCode s k = (.poison, k.restarts % 16)) ∧
    (k.err = none → k.hurt = false → k.bankErr = true → kernCode s k = (.denied, k.restarts % 16)) ∧
    (k.err = none → k.hurt = false → k.bankErr = false →
      kernCode s k = (if k.restarts = 0 then .ok else .restarted, k.restarts % 16 + 16 * run))) ∧
  (∀ (s : State) (tl : Option (Fin 64)) (t : Nat) (k : Kern), activeKern s = some k → k.flushed = false →
    (match tl with | some g => ∃ p ∈ k.tiles, p.2 = g.val | none => k.hurt = true) →
    let again := k.restartable = true ∧ k.restarts < s.get F.TP_SEQ_CTRL_MAX_RESTARTS ∧ k.err = none
    (again → Gives (.kernelRestart tl t) s fun u => ∃ k2 : Kern, kernOf u k.ring k.idx = some k2 ∧ k2.restarts = k.restarts + 1 ∧
      k2.frame = k.frame ∧ (k2.st = .queued ∨ k2.st = .starting) ∧ k2.hurt = false ∧
      (∀ c ∈ u.plane.kcopies, ¬ (c.ring = k.ring ∧ c.idx = k.idx))) ∧
    (¬ again → Gives (.kernelRestart tl t) s fun u => ∃ k2 : Kern, kernOf u k.ring k.idx = some k2 ∧ k2.st = .ending ∧ k2.hurt = true ∧
      k2.restarts = k.restarts ∧ u.store = s.store)) ∧
  (∀ (s : State) (g : Fin 64) (t : Nat), (∀ k : Kern, activeKern s = some k → ∀ p ∈ k.tiles, p.2 ≠ g.val) →
    let x := tile s g
    let held := keptBanks s g
    let idle := max s.now t - x.idleAt
    let fs := [F.TP_T_STATUS_STATE g, F.TP_T_STATUS_BANKS_ON g, F.TP_T_STATUS_BANKS_RET g].map Fld.key
    (s.get (F.TP_T_STATUS_STATE g) = 2 → 1000 * s.get F.TP_POWER_CFG_TILE_RET_US ≤ idle → Gives (.tileIdleTimer g t) s fun u =>
      u.get (F.TP_T_STATUS_STATE g) = 1 ∧ u.get (F.TP_T_STATUS_BANKS_ON g) = 0 ∧ u.get (F.TP_T_STATUS_BANKS_RET g) = bankBits held % 2 ^ 16 ∧
      (∀ f : Fld, f.key ∉ fs → u.get f = s.get f) ∧ u.store = s.store) ∧
    (s.get (F.TP_T_STATUS_STATE g) = 1 → held = [] → 1000000 * s.get F.TP_POWER_CFG_TILE_OFF_MS ≤ idle → Gives (.tileIdleTimer g t) s fun u =>
      u.get (F.TP_T_STATUS_STATE g) = 0 ∧ u.get (F.TP_T_STATUS_BANKS_RET g) = 0 ∧ OnlyFields fs (s.upto t) u) ∧
    (s.get (F.TP_T_STATUS_STATE g) = 0 → exec (.tileIdleTimer g t) s = .next (s.upto t)))

/-- The TP_MAINT commands (R297, R300): one with no sector, or with a range that is not whole lines, is refused with MALFORMED; else it
flushes or acquires its range, or flushes every line, in the sectors named, and BUSY stands; while the last one is under way a write does
nothing. -/
def Obligations.MaintenanceFlushesRanges : Prop :=  ∀ (s : State) (n : Fin 16) (t : Nat), PortOpen (s.upto t) →
    let q := answeredState (s.upto t)
    let ns := maskSectors n
    let base := s.get F.TP_MAINT_BASE_POOL_BASE
    let len := s.get F.TP_MAINT_LEN_LENGTH
    let done := fun (v u : State) => OnlyFields [F.TP_MAINT_CMD_RESULT.key, F.TP_MAINT_CMD_SECTORS.key, F.TP_MAINT_CMD_BUSY.key] v u ∧ u.get F.TP_MAINT_CMD_RESULT = 0 ∧ u.get F.TP_MAINT_CMD_SECTORS = n.val ∧
      u.flag F.TP_MAINT_CMD_BUSY = true
    let refused := fun u : State => u.get F.TP_MAINT_CMD_RESULT = 0x0D ∧ u.flag F.TP_MAINT_CMD_BUSY = false ∧
      OnlyFields [F.TP_MAINT_CMD_RESULT.key, F.TP_MAINT_CMD_BUSY.key] q u
    let whole := base % 64 = 0 ∧ len % 64 = 0 ∧ len ≠ 0
    (maintBusy q = true → exec (.tpMaintFlush n t) s = .next q ∧ exec (.tpMaintAcquire n t) s = .next q ∧ exec (.tpMaintFlushAll n t) s = .next q) ∧
    (maintBusy q = false →
      (n.val ≠ 0 → whole → Gives (.tpMaintFlush n t) s (done (flushRange q ns base len)) ∧
        Gives (.tpMaintAcquire n t) s (done (acquireRange q ns base len))) ∧
      (n.val ≠ 0 → Gives (.tpMaintFlushAll n t) s (done (ns.foldl (fun s m => flushLines s m (guestLines s m)) q))) ∧
      (n.val = 0 ∨ ¬ whole → Gives (.tpMaintFlush n t) s refused ∧ Gives (.tpMaintAcquire n t) s refused) ∧
      (n.val = 0 → Gives (.tpMaintFlushAll n t) s refused))

/-- A copy of a ring (R296, R336, R341, R342): it is queued to whichever copy engine of its source's home sector holds fewer, up to 64; the
first of its engine moves its rows once nothing stands in its way, and waits to complete; CPY_PLACE plans its moves, and is done with OK
when every tensor of its range lies in the tier, with SHORT and the pages moved when some could not. A copy completes with its code, and its
engine's count rises. -/
def Obligations.RingCopiesMoveRows : Prop :=  (∀ (s : State) (j : Job),
    let n := match poolOf s (ringCtx j.ring) (copyOf j.words).src 1 .rd with | some pa => homeOf s (pa / 2097152) | none => 0
    sectorState s n = 0 → s.get (F.CPY_C_STATUS_STATE (2 * n)) = 0 → s.get (F.CPY_C_STATUS_STATE (2 * n + 1)) = 0 →
    let e := if (rqOf s (2 * n)).length ≤ (rqOf s (2 * n + 1)).length then 2 * n else 2 * n + 1
    ((rqOf s e).length < 64 → ∃ s1 : State, assignCopy s j = some (e, s1) ∧ tabGet [] e s1.plane.rq = rqOf s e ++ [(j.ring, j.idx)]) ∧
    (64 ≤ (rqOf s e).length → assignCopy s j = none)) ∧
  (∀ (s s4 : State) (d : Desc) (e : Fin 8) (op : Nat) (row : CopyRef → Instr) (j : Job), (op, row) ∈ [(0x10, Instr.cpyMem), (0x13, .cpyPlace)] →
    Ready s d op (0x08 + e) j → j.phase = 1 → j.unit = 0x08 + e → rqFirst (startState s d (0x08 + e)) e (started j (0x08 + e)) = true →
    let n := e.val / 2
    let c := copyOf d.words
    let rs := copyRanges c 0
    let a := if j.aux = 0 then engineStart (startState s d (0x08 + e)) { started j (0x08 + e) with aux := 1 } n (rs.filter fun r => r.right = .rd)
      else (started j (0x08 + e), startState s d (0x08 + e))
    let s3 := putJob a.2 a.1
    let v := jobView s3 a.1 n
    let k : Copier := { ctx := ringCtx j.ring, view := v, kern := none, prom := !c.noProm }
    (backsOpen s3 [n] = true → ctxFresh s3 (ringCtx j.ring) = true → exec (row (.ring d)) s = .next (rowEnd s j s3)) ∧
    (backsOpen s3 [n] = false ∨ ctxFresh s3 (ringCtx j.ring) = false → prepare s3 a.1 (0x08 + e) rs (some v) = (true, s4) →
      (op = 0x10 →
        let r := runRows k n c s4
        exec (row (.ring d)) s = .next (rowEnd s j (putJob (copyCounts r.1 e c (packedRead s4 k c 0) r.2)
          { a.1 with phase := 2, code := if r.2 then .poison else .ok, st := .waiting }))) ∧
      (op = 0x13 →
        let m := planPlace s4 c.toFar (placeTensors s4 k.ctx c)
        exec (row (.ring d)) s = .next (rowEnd s j (putJob m.2 { a.1 with phase := 3, aux := m.1, st := .waiting }))))) ∧
  (∀ (s : State) (d : Desc) (u : Nat) (j : Job), Going s d 0x13 u j → j.phase = 3 → j.unit = u →
    let s0 := s.upto d.t
    let c := copyOf d.words
    let ts := placeTensors s0 (ringCtx j.ring) c
    (placeState s0 c.toFar ts = .moving → exec (.cpyPlace (.ring d)) s = .next (rowEnd s j s0)) ∧
    (placeState s0 c.toFar ts = .all → exec (.cpyPlace (.ring d)) s = .next (rowEnd s j (putJob s0 { j with phase := 2, st := .waiting }))) ∧
    (placeState s0 c.toFar ts = .short →
      exec (.cpyPlace (.ring d)) s = .next (rowEnd s j (putJob s0 { j with phase := 2, code := .short, detail := j.aux, st := .waiting })))) ∧
  (∀ (s : State) (e : Fin 8) (t : Nat) (j : Job),
    ((rqOf s e).findSome? fun x => match findJob s x.1 x.2 with
      | some j => if j.phase = 2 then some j else none
      | none => none) = some j → j.idx < 65536 → Gives (.copyComplete e true t) s fun u =>
    u.get (F.CPY_C_COPIES_COMPLETED e) = (s.get (F.CPY_C_COPIES_COMPLETED e) + 1) % 2 ^ (F.CPY_C_COPIES_COMPLETED e).wid ∧
    tabGet [] e u.plane.rq = ((rqOf s e).filter fun x => x ≠ (j.ring, j.idx)) ∧ u.store = s.store ∧
    ∃ k : Job, findJob u j.ring j.idx = some k ∧ k.st = .finished ∧ k.code = endCode j j.code ∧ k.detail = j.detail % 2 ^ 30)

/-- A kernel's copy (R312 to R314, R333 to R335, R339, R358): the next one of its engine moves its rows between memory and the scratchpads
of its sector's tiles; poison hurts the kernel, a page fault suspends the copy, a code stops the kernel; when it completes it counts its
event, which past 65,535 is a plan error. A write to a scratchpad is read there again, and one to a bank outside the mask is discarded and
noted (R286). -/
def Obligations.KernelCopiesMoveRows : Prop :=  (∀ (s : State) (e : Fin 8) (t op : Nat) (row : Fin 8 → Nat → Instr) (x : KCopy) (k : Kern) (ws : List Word),
    (op, row) ∈ [(0x10, fun e t => Instr.cpyMem (.kernel e t)), (0x11, .cpyToSp), (0x12, .cpyFromSp), (0x13, fun e t => .cpyPlace (.kernel e t))] →
    (s.plane.kcopies.find? fun x => decide (x.engine = e.val) && (decide (x.st = .queued) || (decide (x.st = .placing) && op == 0x13))) = some x →
    kernOf s x.ring x.idx = some k → k.frame.copies[x.entry]? = some ws → descOp ws = op → s.get (F.CPY_C_STATUS_STATE e) ≠ 3 →
    loopLocked (s.upto t) 2 = true → awake (s.upto t) = true →
    let s0 := s.upto t
    let c := placeCopy (copyOf ws) k.frame.args x.lc
    let s1 := if k.tiles.isEmpty then s0 else settle s0 k (s0.now * 6 / 5)
    let k1 := (kernOf s1 k.ring k.idx).getD k
    let n := x.slot / 2
    let m := (maskTiles n c.tmask).length
    let v := kernView s1 k1 (x.engine / 2)
    let cp : Copier := { ctx := k1.ctx, view := v, kern := some k1, prom := !c.noProm }
    let bar := barRanges s1 (some v) k1.ctx (.job k1.ring k1.idx) (copyRanges c m)
    (x.st = .queued →
      (∀ s2 : State, bar = (.wait, s2) → exec (row e t) s = .next s2) ∧
      (∀ (s2 : State) (z : Code), bar = (.code z, s2) → exec (row e t) s = .next (planError
        { s2 with plane := { s2.plane with kcopies := s2.plane.kcopies.filter fun y => y.no ≠ x.no } } k1 0 z)) ∧
      (∀ s2 : State, bar = (.clear, s2) → op ≠ 0x13 →
        let r := runRows cp n c s2
        Gives (row e t) s fun u => u.store = r.1.store ∧ u.plane.tiles = r.1.plane.tiles ∧
          (∀ y ∈ u.plane.kcopies, y.no = x.no → y = { x with st := .done }) ∧
          u.get (F.CPY_C_BYTES_BYTES e) = (r.1.get (F.CPY_C_BYTES_BYTES e) + c.rows * c.rowBytes) % 2 ^ (F.CPY_C_BYTES_BYTES e).wid ∧
          (r.2 = true → ∀ k2 : Kern, kernOf u k1.ring k1.idx = some k2 → k2.hurt = true)) ∧
      (∀ s2 : State, bar = (.clear, s2) → op = 0x13 →
        exec (row e t) s = .next (putKcopy (planPlace s2 c.toFar (placeTensors s2 k1.ctx c)).2 { x with st := .placing }))) ∧
    (x.st = .placing → op = 0x13 →
      (placeState s0 c.toFar (placeTensors s0 k.ctx c) = .moving → exec (row e t) s = .next s0) ∧
      (placeState s0 c.toFar (placeTensors s0 k.ctx c) ≠ .moving → exec (row e t) s = .next (putKcopy s0 { x with st := .done })))) ∧
  (∀ (s : State) (e : Fin 8) (t : Nat) (x : KCopy) (k : Kern),
    (s.plane.kcopies.find? fun x => decide (x.engine = e.val) && decide (x.st = .done)) = some x → kernOf s x.ring x.idx = some k →
    let n := tabGet 0 x.event k.ev + 1
    let s1 := unitIdle ({ s.upto t with plane := { s.plane with kcopies := s.plane.kcopies.filter fun y => y.no ≠ x.no } }.bump
      (F.CPY_C_COPIES_COMPLETED e)) 0x10 (0x08 + e)
    (n ≤ 65535 → Gives (.copyComplete e false t) s fun u =>
      (∃ k2 : Kern, kernOf u k.ring k.idx = some k2 ∧ tabGet 0 x.event k2.ev = n ∧ k2.err = k.err ∧
        ∀ y, y ≠ x.event → tabGet 0 y k2.ev = tabGet 0 y k.ev) ∧
      (∀ y ∈ u.plane.kcopies, y.no ≠ x.no) ∧ u.store = s.store ∧
      u.get (F.CPY_C_COPIES_COMPLETED e) = (s.get (F.CPY_C_COPIES_COMPLETED e) + 1) % 2 ^ (F.CPY_C_COPIES_COMPLETED e).wid) ∧
    (65535 < n → exec (.copyComplete e false t) s = .next (planError s1 k 6 .malformed))) ∧
  (∀ (s : State) (k : Kern) (l a : Nat) (p : Nat × Nat) (data : List Byte), (k.tiles.find? fun p => decide (p.1 = l)) = some p →
    data.length % 4 = 0 → data.length ≤ 2 ^ 22 →
    let mask := k.frame.bankMask
    let w := a % 2 ^ 22 / 4
    let n := data.length / 4
    let u := spWrite s k l a data
    (∀ i < n, inMask mask (spKey (w + i)) = true → (tile u p.2).word mask (spKey (w + i)) = (byteWords data).getD i 0) ∧
    (∀ q, (∀ i < n, inMask mask (spKey (w + i)) = true → q ≠ spKey (w + i)) → tabGet 0 q (tile u p.2).mem = tabGet 0 q (tile s p.2).mem) ∧
    (∀ g, g ≠ p.2 → tile u g = tile s g) ∧ u.store = s.store ∧
    (spBad mask w n = false → spRead k u l a data.length = data) ∧
    (spBad mask w n = true → ∀ k2 : Kern, kernOf u k.ring k.idx = some k2 → k2.bankErr = true))

/-- EMB_TABLE_SET adds the next version of its table, the one before it retiring, and EMB_TABLE_CLEAR retires the current version; each ends
at once, or when the version it retires is released (R365, R371, R372). A retiring version that no descriptor holds and that has no row
elsewhere is released, and its waiters end. SRCH_INDEX_SET adds the next definition of its index, the one before it retiring, and ends at
once; SRCH_INDEX_CLEAR retires the current one and ends when it is released; 16,384 definitions held give CAPACITY (R407, R408). -/
def Obligations.VersionsAndIndexesSet : Prop :=
  ((∀ (s : State) (d : Desc) (u : Nat) (j : Job), EngineReady s d 0x30 u j embUnit F.EMB_CTRL_EN →
     let c := ringCtx j.ring
     let t := dbits d.words 16 0 12
     let s0 := startState s d u
     let w := embVerOf c d.words 0 false []
     let n := tabGet 0 (c * 4096 + t) s.emb.last + 1
     let v := embVerOf c d.words n (poolOf s0 c w.rowVa (w.rows * w.stride) .rdwr).isSome (rangeSegs s0 c (embTableRanges d.words))
     let old := currentVer s c t
     let waits := dbits d.words 19 0 1 = 1 ∧ old.isSome = true
     (131072 ≤ s.emb.vers.length → exec (.embTableSet d) s = .next (rowEnd s j (embEnd s0 (started j u) .capacity))) ∧
     (s.emb.vers.length < 131072 → Gives (.embTableSet d) s fun q =>
       (∃ l : List EmbVer, q.emb.vers = l ++ [v] ∧ l.length = s.emb.vers.length ∧
         ∀ o : EmbVer, old = some o → (∀ x ∈ l, x.ctx = c → x.table = t → x.ver = o.ver → x.retiring = true)) ∧
       tabGet 0 (c * 4096 + t) q.emb.last = n ∧ q.emb.hooks = s.emb.hooks ∧ q.emb.relocs = s.emb.relocs ∧ q.store = s.store ∧
       (¬ waits → Ends q d (endCode j .ok)) ∧
       (waits → ∃ k : Job, findJob q d.ring.val d.idx.val = some k ∧ k.st = .waiting ∧ k.phase = 1))) ∧
   (∀ (s : State) (d : Desc) (u : Nat) (j : Job), EngineReady s d 0x31 u j embUnit F.EMB_CTRL_EN →
     let s0 := startState s d u
     let cur := currentVer s (ringCtx j.ring) (dbits d.words 16 0 12)
     (cur = none → exec (.embTableClear d) s = .next (rowEnd s j (embEnd s0 (started j u) .denied))) ∧
     (∀ v : EmbVer, cur = some v → exec (.embTableClear d) s = .next (rowEnd s j
       (putJob (retireVer s0 v [(j.ring, j.idx, 0)]) { started j u with st := .waiting, phase := 1 })))) ∧
   (∀ (s : State) (t : Nat) (v : EmbVer), (s.emb.vers.find? fun v => v.retiring && !verHeld s v) = some v →
     (∀ r ∈ s.emb.relocs, ¬ (r.row.ctx = v.ctx ∧ r.row.table = v.table ∧ r.row.ver = v.ver)) → Gives (.versionRelease t) s fun q =>
       (∀ x : EmbVer, x ∈ q.emb.vers ↔ x ∈ s.emb.vers ∧ ¬ (x.ctx = v.ctx ∧ x.table = v.table ∧ x.ver = v.ver)) ∧ q.store = s.store ∧
       q.emb.relocs = s.emb.relocs ∧ q.emb.hooks = s.emb.hooks) ∧
   (∀ (s : State) (t : Nat) (x : SrchDef), (s.emb.vers.find? fun v => v.retiring && !verHeld s v) = none →
     (s.srch.defs.find? fun x => x.retiring && !defHeld s x) = some x → Gives (.versionRelease t) s fun q =>
       (∀ y : SrchDef, y ∈ q.srch.defs ↔ y ∈ s.srch.defs ∧ y ≠ x) ∧ q.emb.vers = s.emb.vers ∧ q.store = s.store)) ∧
  ((∀ (s : State) (d : Desc) (u : Nat) (j : Job), EngineReady s d 0x38 u j srchUnit F.SRCH_CTRL_EN →
     let c := ringCtx j.ring
     let s0 := startState s d u
     let x := srchDefOf c d.words 0 false
     let n := tabGet 0 (c * 1024 + x.index) s.srch.last + 1
     let old := currentDef s c x.index
     (16384 ≤ s.srch.defs.length → exec (.srchIndexSet d) s = .next (rowEnd s j (finishJob s0 (started j u) .capacity))) ∧
     (s.srch.defs.length < 16384 → Gives (.srchIndexSet d) s fun q =>
       (∃ l : List SrchDef, q.srch.defs = l ++ [srchDefOf c d.words n (poolOf s0 c x.va (x.nodes * x.stride) .rdwr).isSome] ∧
         l.length = s.srch.defs.length ∧ ∀ o : SrchDef, old = some o → o ∉ l ∧ { o with retiring := true } ∈ l) ∧
       tabGet 0 (c * 1024 + x.index) q.srch.last = n ∧ q.store = s.store ∧ q.emb = s.emb ∧ Ends q d (endCode j .ok))) ∧
   (∀ (s : State) (d : Desc) (u : Nat) (j : Job), EngineReady s d 0x39 u j srchUnit F.SRCH_CTRL_EN →
     let s0 := startState s d u
     let cur := currentDef s (ringCtx j.ring) (dbits d.words 16 0 10)
     (cur = none → exec (.srchIndexClear d) s = .next (rowEnd s j (finishJob s0 (started j u) .denied))) ∧
     (∀ x : SrchDef, cur = some x → exec (.srchIndexClear d) s = .next (rowEnd s j
       (putJob (retireDef s0 x [(j.ring, j.idx)]) { started j u with st := .waiting, phase := 1 })))))

/-- EMB_GATHER reads its indices, then its rows and default records, and writes its output rows in one go (R378 to R380, R384, R395):
CAPACITY when its rows need more than 64 passes; a row of the output is the row's elements times SCALE in DFMT, or RAW, or the FP32 sum or
mean of a bag; an invalid or missing index gives the default record or zeros, and DETAIL counts both. -/
def Obligations.GatherWritesOutputs : Prop :=  (∀ (s s1 s2 s3 : State) (d : Desc) (u : Nat) (j : Job), EngineReady s d 0x32 u j embUnit F.EMB_CTRL_EN →
    let q := embOf d.words
    let ir : Range := ⟨q.idxVa, q.count * q.idxWidth, .rd⟩
    let a := engineBegun s d u j [ir]
    let w := jobView a.2 a.1 (u % 4)
    let ixs := (readIxs s1 a.1 q w).1
    (acquiring a.2 a.1 (u % 4) = true → exec (.embGather d) s = .next (rowEnd s j a.2)) ∧
    (acquiring a.2 a.1 (u % 4) = false → prepare a.2 a.1 u [ir] (some w) = (true, s1) →
      prepare (readIxs s1 a.1 q w).2 a.1 u (gatherIns (readIxs s1 a.1 q w).2 ixs) = (true, s2) →
      prepare s2 a.1 u (gatherOuts s2 a.1 ixs) (some w) = (true, s3) →
      (partitions q (uniqueRows ixs) = none → exec (.embGather d) s = .next (rowEnd s j (embEnd s3 a.1 .capacity))) ∧
      (∀ p : Nat, partitions q (uniqueRows ixs) = some p → exec (.embGather d) s = .next (rowEnd s j (gatherLand s3 a.1 w ixs p))))) ∧
  (∀ (s : State) (j : Job) (d : EmbD) (e : Nat), e < 2 ^ 64 →
    let k := bits e 32 12
    let bound := if k < d.ntab then (match j.bound.getD k none with | some n => verOf s (ringCtx j.ring) (d.table + k) n | none => none) else none
    (e % 2 ^ 32 = 0xFFFFFFFF → ixOf s j d e = .missing bound) ∧
    (e % 2 ^ 32 ≠ 0xFFFFFFFF →
      (∀ v : EmbVer, bound = some v → e % 2 ^ 32 < v.rows → bits e 44 20 = 0 → ixOf s j d e = .row v (e % 2 ^ 32)) ∧
      (∀ v : EmbVer, bound = some v → v.rows ≤ e % 2 ^ 32 ∨ bits e 44 20 ≠ 0 → ixOf s j d e = .invalid (some v)) ∧
      (bound = none → ixOf s j d e = .invalid none))) ∧
  (∀ (recs : List ((EmbVer × Nat) × List Byte × Bool)) (defs : List (EmbVer × List Byte)) (v : EmbVer),
    gotOf recs defs (.missing (some v)) = .bytes v (defaultOf defs v) ∧ gotOf recs defs (.invalid (some v)) = .bytes v (defaultOf defs v) ∧
    gotOf recs defs (.missing none) = .zeros ∧ gotOf recs defs (.invalid none) = .zeros ∧ gotOf recs defs .lost = .poison ∧
    ((∀ x ∈ defs, x.1 ≠ v) → defaultOf defs v = List.replicate (v.rowBytes + 16) 0)) ∧
  (∀ (v : EmbVer) (b : List Byte) (k : Nat), k < v.dim →
    let sc := scaleFl (leVal ((b.drop v.rowBytes).take 4))
    let w := embWidth v.fmt
    let x := if sc.isZero then .fin false 0 0 else (elemValue (embCode v.fmt) (leVal ((b.drop (k * w)).take w))).mul sc
    ((rowOut 0 v b).drop (4 * k)).take 4 = leBytes 4 (fmt32.round x) ∧ ((rowOut 1 v b).drop (2 * k)).take 2 = leBytes 2 (fmtBf16.round x)) ∧
  (∀ (v : EmbVer) (b : List Byte), v.rowBytes + 4 ≤ b.length → rowOut 2 v b = b.take (v.rowBytes + 4) ++ List.replicate 12 0) ∧
  (∀ ixs : List Ix, ixDetail ixs % 2 ^ 15 = min (ixs.countP fun i => match i with | .invalid _ => true | _ => false) 32767 ∧
    ixDetail ixs / 2 ^ 15 = min (ixs.countP fun i => match i with | .missing _ => true | _ => false) 32767)

/-- EMB_SCATTER, EMB_SCATTER_ADD and EMB_UPDATE read their indices, wait while a hook holds a row, and write every row once all of them are
ready (R381 to R384, R389, R391, R392, R395): a bad optimiser block ends the job with MALFORMED, too many rows with CAPACITY. A scatter
stores the data row of a row's last occurrence, an add adds the sum of its occurrences to each element, an update takes one step of the
table's optimiser; SEQ is the log record's. -/
def Obligations.RowWritesUpdateTables : Prop :=  (∀ (s s1 s2 s3 : State) (d : Desc) (u op : Nat) (row : Desc → Instr) (j : Job),
    (op, row) ∈ [(0x33, Instr.embScatter), (0x34, .embScatterAdd), (0x35, .embUpdate)] → EngineReady s d op u j embUnit F.EMB_CTRL_EN →
    let c := ringCtx j.ring
    let q := embOf d.words
    let ir : Range := ⟨q.idxVa, q.count * q.idxWidth, .rd⟩
    let ins := ir :: (if op = 0x35 then [⟨q.auxVa, 64, .rd⟩] else [])
    let a := engineBegun s d u j ins
    let w := jobView a.2 a.1 (u % 4)
    let ixs := (readIxs s1 a.1 q w).1
    let r1 := (readIxs s1 a.1 q w).2
    let auxBad := decide (op = 0x35) && poisonVa r1 c q.auxVa 64 (some w)
    let o := if op = 0x35 then readVa r1 c q.auxVa 64 .rd (some w) else ([], r1)
    let rs := reduceIxs ixs
    let badBlock := op = 0x35 ∧ auxBad = false ∧ optBlockOk o.1 = false
    let locked := rs.any fun r => rowLocked o.2 r.v r.row
    (acquiring a.2 a.1 (u % 4) = true → exec (row d) s = .next (rowEnd s j a.2)) ∧
    (acquiring a.2 a.1 (u % 4) = false → prepare a.2 a.1 u ins (some w) = (true, s1) →
      (badBlock → exec (row d) s = .next (rowEnd s j (embEnd o.2 a.1 .malformed))) ∧
      (¬ badBlock → locked = true → exec (row d) s = .next (rowEnd s j (putJob o.2 { a.1 with st := .waiting }))) ∧
      (¬ badBlock → locked = false → prepare o.2 a.1 u (recordRanges o.2 rs) = (true, s2) → prepare s2 a.1 u (dataRanges q rs) (some w) = (true, s3) →
        let parts := partitions q (rs.map fun r => (r.v, r.row))
        (parts = none → exec (row d) s = .next (rowEnd s j (embEnd s3 a.1 .capacity))) ∧
        (∀ p : Nat, parts = some p → exec (row d) s = .next (rowEnd s j (writeRowsLand op s3 a.1 w ixs o.1 auxBad p)))))) ∧
  (∀ ixs : List Ix, (reduceIxs ixs).map (fun r => (r.v, r.row)) = uniqueRows ixs ∧
    ∀ r ∈ reduceIxs ixs, ∀ k, k ∈ r.occ ↔ ixs[k]? = some (.row r.v r.row)) ∧
  (∀ (d : EmbD) (o : OptB) (r : Reduced) (old : List Byte) (rows : List (List Byte)) (seq n : Nat),
    let v := r.v
    let acc := leVal ((old.drop (v.rowBytes + 4)).take 4)
    let last := rows.getLast?.getD []
    let l := rows.map (dataF32 d.dfmt v)
    let sum := fun k => fSum ((if l.length ≤ 2 then l else shuffle l.length n l).map fun x => x.getD k 0)
    (d.dfmt = 2 → rowChange 0x33 d o r old rows seq n =
      (buildRecord v old (last.take v.rowBytes) (leVal ((last.drop v.rowBytes).take 4)) acc seq [], false)) ∧
    (d.dfmt ≠ 2 →
      let e := encodeRow v (dataF32 d.dfmt v last) n
      rowChange 0x33 d o r old rows seq n = (buildRecord v old e.1 e.2.1 acc seq [], e.2.2)) ∧
    (let e := encodeRow v ((List.range v.dim).map fun k => fAdd ((elemF32 v old).getD k 0) (sum k)) n
     rowChange 0x34 d o r old rows seq n = (buildRecord v old e.1 e.2.1 acc seq [], e.2.2))) ∧
  (∀ (o : OptB) (v : EmbVer) (old : List Byte) (w g : List Nat) (n k : Nat), k < v.dim →
    let wk := w.getD k 0
    let gk := g.getD k 0
    let step := optStep o v old w g n
    let decayed := fun x => fSub wk (fMul o.lr (fAdd x (fMul o.wd wk)))
    let m1 := fAdd (fMul o.b1 (stateF32 v old k)) gk
    let m2 := fAdd (fMul o.b1 (stateF32 v old k)) (fMul (fSub fOne o.b1) gk)
    let v2 := fAdd (fMul o.b2 (stateF32 v old (v.dim + k))) (fMul (fSub fOne o.b2) (fMul gk gk))
    (v.opt = 0 → step.1[k]? = some (decayed gk)) ∧
    (v.opt = 1 → step.1[k]? = some (decayed (if o.nest then fAdd gk (fMul o.b1 m1) else m1))) ∧
    (v.opt = 2 → step.1[k]? = some (fSub wk (fDiv (fMul o.lr gk) (fAdd (fSqrt step.2.1) o.eps)))) ∧
    (v.opt = 3 → step.1[k]? = some (decayed (fDiv (fMul m2 o.bc1) (fAdd (fSqrt (fMul v2 o.bc2)) o.eps))))) ∧
  (∀ (v : EmbVer) (l : List Nat) (n : Nat), 2 ≤ v.fmt →
    ((∃ x ∈ l, (fmt32.value x).isFin = false) → (encodeRow v l n).2.2 = true ∧
      (encodeRow v l n).1 = List.replicate v.dim (BitVec.ofNat 8 (match v.fmt with | 2 => 0x7F | 3 => 0x7E | _ => 0))) ∧
    ((∀ x ∈ l, (fmt32.value x).isZero = true) → (encodeRow v l n).2 = (fOne, false)))

/-- Hooks (R393 to R397) and pins and balancing (R385, R398 to R400): EMB_HOOK_OPEN ends with CAPACITY without locking when its rows or its
staging area do not fit, and waits while another hook holds a row; EMB_HOOK_COMMIT ends with DENIED for a hook that is not its own, with
TIMEOUT for one that was closed; a hook left open for HOOK_MS closes, a pin ends after PIN_US, and an epoch of balancing ends with its
counts in LAST_EPOCH. -/
def Obligations.HooksPinsBalanceEnd : Prop :=  (∀ (s s1 s2 s3 : State) (d : Desc) (u : Nat) (j : Job), EngineReady s d 0x36 u j embUnit F.EMB_CTRL_EN →
    let q := embOf d.words
    let ir : Range := ⟨q.idxVa, q.count * q.idxWidth, .rd⟩
    let a := engineBegun s d u j [ir]
    let w := jobView a.2 a.1 (u % 4)
    let ixs := (readIxs s1 a.1 q w).1
    let r1 := (readIxs s1 a.1 q w).2
    let rs := reduceIxs ixs
    let eb := match rs.head? with | some r => entryBytes r.v | none => 64
    let small := 65536 < rs.length ∨ q.stage < 64 + rs.length * eb ∨ freeHooks r1 = []
    let locked := rs.any fun r => rowLocked r1 r.v r.row
    (acquiring a.2 a.1 (u % 4) = true → exec (.embHookOpen d) s = .next (rowEnd s j a.2)) ∧
    (acquiring a.2 a.1 (u % 4) = false → prepare a.2 a.1 u [ir] (some w) = (true, s1) →
      (small → exec (.embHookOpen d) s = .next (rowEnd s j (embEnd r1 a.1 .capacity))) ∧
      (¬ small → locked = true → exec (.embHookOpen d) s = .next (rowEnd s j (putJob r1 { a.1 with st := .waiting }))) ∧
      (¬ small → locked = false → prepare r1 a.1 u (recordRanges r1 rs) = (true, s2) →
        prepare s2 a.1 u (dataRanges q rs ++ [⟨q.auxVa, 64 + rs.length * eb, .rdwr⟩]) (some w) = (true, s3) →
        exec (.embHookOpen d) s = .next (rowEnd s j (hookOpenLand s3 a.1 w ixs))))) ∧
  (∀ (s s1 s2 : State) (d : Desc) (u : Nat) (j : Job), EngineReady s d 0x37 u j embUnit F.EMB_CTRL_EN →
    let c := ringCtx j.ring
    let q := embOf d.words
    let id := dbits d.words 20 0 4
    let found := s.emb.hooks.find? fun h => h.id = id && h.ctx = c && h.table = q.table && (j.bound.head?).join == some h.ver
    let s0 := startState s d u
    (found = none → exec (.embHookCommit d) s = .next (rowEnd s j (embEnd s0 (started j u) .denied))) ∧
    (∀ h : Hook, found = some h →
      let rows := h.rows.filterMap fun x => (verOf s c x.1 x.2.1).map fun v => (v, x.2.2)
      let eb := match rows.head? with | some r => entryBytes r.1 | none => 64
      let sr : Range := ⟨q.auxVa, 64 + h.rows.length * eb, .rd⟩
      let a := engineBegun s d u j [sr]
      let w := jobView a.2 a.1 (u % 4)
      (h.live = false → exec (.embHookCommit d) s = .next (rowEnd s j (embEnd s0 (started j u) .timeout))) ∧
      (h.live = true → q.stage < 64 + h.rows.length * eb → exec (.embHookCommit d) s = .next (rowEnd s j (embEnd s0 (started j u) .capacity))) ∧
      (h.live = true → 64 + h.rows.length * eb ≤ q.stage → acquiring a.2 a.1 (u % 4) = false →
        prepare a.2 a.1 u (rows.map fun x => ⟨recordVa a.2 x.1 x.2, x.1.stride, .rdwr⟩) = (true, s1) →
        prepare s1 a.1 u [sr] (some w) = (true, s2) → exec (.embHookCommit d) s = .next (rowEnd s j (hookLand s2 a.1 id rows eb w))))) ∧
  (∀ (s : State) (t : Nat),
    let due := fun h : Hook => h.live && decide (h.since + 1000000 * s.get F.EMB_TIMING_HOOK_MS ≤ max s.now t)
    (∀ h : Hook, s.emb.hooks.find? due = some h → Gives (.hookTimeout t) s fun u =>
      u.emb.hooks = s.emb.hooks.map (fun x => if x = h then { x with live := false } else x) ∧
      { u with emb := { u.emb with hooks := s.emb.hooks } } = s.upto t) ∧
    (s.emb.hooks.find? due = none → exec (.hookTimeout t) s = .next (s.upto t))) ∧
  (∀ (s : State) (t : Nat),
    let due := fun p : RowPin => decide (p.since + 1000 * s.get F.EMB_TIMING_PIN_US ≤ max s.now t)
    (∀ p : RowPin, s.emb.pins.find? due = some p → exec (.rowPinExpiry t) s = .next
      { s.upto t with emb := { s.emb with pins := s.emb.pins.erase p } }) ∧
    (s.emb.pins.find? due = none → exec (.rowPinExpiry t) s = .next (s.upto t))) ∧
  (∀ (s : State) (t : Nat),
    (max s.now t < s.emb.epochAt + 1000000 * s.get F.EMB_CTRL_BAL_EPOCH_MS → exec (.balanceEpoch t) s = .next (s.upto t)) ∧
    (s.emb.epochAt + 1000000 * s.get F.EMB_CTRL_BAL_EPOCH_MS ≤ max s.now t → s.emb.relocs = [] → s.flag F.EMB_CTRL_BAL_EN = false →
      Gives (.balanceEpoch t) s fun u =>
        u.emb = { s.emb with served := [], hot := [], epochAt := max s.now t } ∧ u.store = s.store ∧
        (∀ e : Fin 4, u.get (F.EMB_E_LOAD_LAST_EPOCH e) = min (tabGet 0 e.val s.emb.served) (2 ^ 32 - 1)) ∧
        OnlyFields ((List.range 4).map fun e => (F.EMB_E_LOAD_LAST_EPOCH e).key) { s.upto t with emb := u.emb } u))

/-- A query (R403, R411 to R417, R420 to R422): once its block is read, SRCH_FLAT scans every record of its range and SRCH_GRAPH walks from
the entry node; its results are the best K of the live records that pass the filter and lie within MAX_DIST, in the order of distance and
node; K results give OK, fewer SHORT, and poison that is not skipped POISON. -/
def Obligations.QueriesKeepBestHits : Prop :=  (∀ (s s1 s2 : State) (d : Desc) (u qv : Nat) (j j1 : Job) (x : SrchDef) (ts : List Term) (v : View),
    EngineReady s d 0x3A u j srchUnit F.SRCH_CTRL_EN → boundDef s j = some x →
    let q := srchOf d.words
    let n := scanCount q x
    openQuery (startState s d u) (started j u) x q = (some (j1, qv, ts, v), s1) →
    prepare s1 j1 j1.unit [⟨x.recVa q.first, n * x.stride, .rd⟩] = (true, s2) →
    let r := (span q.first n).foldl (scanRec j1 x q qv ts) ({}, s2)
    exec (.srchFlat d) s = .next (rowEnd s j (endQuery r.2 j1 x q v r.1))) ∧
  (∀ (s s1 s2 : State) (d : Desc) (u qv : Nat) (j j1 : Job) (x : SrchDef) (ts : List Term) (v : View) (r : Option SrchRec),
    EngineReady s d 0x3B u j srchUnit F.SRCH_CTRL_EN → boundDef s j = some x →
    let q := srchOf d.words
    openQuery (startState s d u) (started j u) x q = (some (j1, qv, ts, v), s1) → readRec s1 j1 x x.entry = (true, r, s2) →
    let ends := fun (t : State) (f : Found) => exec (.srchGraph d) s = .next (rowEnd s j (endQuery t j1 x q v f))
    let e := j1.unit % 4
    let w0 : Walk := { s := s2, f := { reads := 1 } }
    let w := match r with
      | none => if q.skip then { w0 with f := { w0.f with skipped := 1 } } else { w0 with f := { w0.f with poison := true } }
      | some y => if y.live then walkLoop j1 x q qv ts 65537 (visitNode x q qv ts x.entry y w0) else w0
    let t := ((countScan w.s j1 e 0 w.f.rejected w.f.skipped).bump (F.SRCH_Q_GRAPH_RECORDS e) w.f.reads).bump (F.SRCH_Q_GRAPH_STALE e) w.f.stale
    (w.stop = true → exec (.srchGraph d) s = .next (rowEnd s j w.s)) ∧
    (w.stop = false → jobConf w.s j1 = true → ends w.s w.f) ∧
    (w.stop = false → jobConf w.s j1 = false → ends (if w.f.budgetHit then t.bumpSat (F.SRCH_Q_FILTER_BUDGET_HITS e) else t) w.f)) ∧
  (∀ (s : State) (j : Job) (x : SrchDef) (d : SrchD) (v : View) (f : Found),
    let c := ringCtx j.ring
    let s1 := s.bump (F.SRCH_Q_STATS_QUERIES (j.unit % 4))
    let s2 := writeVa s1 c d.resultVa (resultBytes x d.k f.hits) (some v)
    (f.poison = true → endQuery s j x d v f = finishJob (spoilVa s1 c d.resultVa (d.k * 16)) j .poison) ∧
    (f.poison = false → d.k ≤ f.hits.length → endQuery s j x d v f = finishJob s2 j .ok (foundDetail f)) ∧
    (f.poison = false → f.hits.length < d.k →
      endQuery s j x d v f = finishJob (s2.bumpSat (F.SRCH_Q_STATS_SHORT (j.unit % 4))) j .short (foundDetail f))) ∧
  (∀ (x : SrchDef) (k : Nat) (hits : List Hit), hits.length ≤ k →
    (resultBytes x k hits).length = 16 * k ∧
    (∀ (i : Nat) (h : Hit), hits[i]? = some h →
      ((resultBytes x k hits).drop (16 * i)).take 16 = leBytes 2 h.dist ++ leBytes 2 x.shard ++ leBytes 4 h.node ++ leBytes 8 h.attr) ∧
    (∀ i, hits.length ≤ i → i < k → ((resultBytes x k hits).drop (16 * i)).take 16 = leBytes 2 0xFFFF ++ List.replicate 14 0)) ∧
  (∀ (x : SrchDef) (d : SrchD) (q : Nat) (ts : List Term) (rs : List (Nat × SrchRec)), (rs.map (·.1)).Nodup →
    let hitOf := fun p : Nat × SrchRec => (⟨srchDist x q p.2, p.1, p.2.attr⟩ : Hit)
    let fits := fun p : Nat × SrchRec => (ts.all fun t => t.holds p.2.attr) && decide (srchDist x q p.2 ≤ d.maxDist)
    let all := (rs.filter fits).map hitOf
    let f := rs.foldl (fun f p => takeRec x d q ts p.1 p.2 f) {}
    f.hits.Pairwise (fun a b => a.before b = true) ∧ f.hits.length = min d.k all.length ∧ (∀ h ∈ f.hits, h ∈ all) ∧
    (∀ h ∈ all, h ∉ f.hits → ∀ g ∈ f.hits, g.before h = true) ∧
    f.rejected = (rs.filter fun p => !(ts.all fun t => t.holds p.2.attr)).length) ∧
  (∀ (t : Term) (attr : Nat),
    let m := bits attr t.lo t.width
    (t.range = false → (t.holds attr = true ↔ (t.neg = true ↔ Nat.land attr t.a ≠ t.b))) ∧
    (t.range = true → (t.holds attr = true ↔ (t.neg = true ↔ ¬ (t.a ≤ m ∧ m ≤ t.b)))))

/-- SRCH_INSERT and SRCH_DELETE (R425 to R429): an insertion reads its source, its targets and the node, is refused for a live node, writes
the record with an edge to each live target and its GEN, and with BACKLINK links them back; a deletion turns a live node into a tombstone
with the next GEN; the entry node goes only when another live node takes its place. -/
def Obligations.IndexInsertAndDelete : Prop :=  (∀ (s s1 s2 s3 : State) (d : Desc) (u : Nat) (j : Job) (x : SrchDef), EngineReady s d 0x3C u j srchUnit F.SRCH_CTRL_EN → boundDef s j = some x →
    let c := ringCtx j.ring
    let n := dbits d.words 18 0 7
    let back := dbits d.words 18 7 1 = 1
    let sva := dbits d.words 32 0 57
    let sr : Range := ⟨sva, 8 + x.codeBytes + 4 * n, .rd⟩
    let a := engineBegun s d u j [sr]
    let v := jobView a.2 a.1 (u % 4)
    let bad := poisonVa s1 c sva sr.len (some v)
    let r := readVa s1 c sva sr.len .rd (some v)
    let known := if bad then [] else (namedNodes x n r.1).filter (· < x.nodes)
    let recs := fun (l : List Nat) (w : Right) => l.map fun n => (⟨x.recVa n, x.stride, w⟩ : Range)
    (acquiring a.2 a.1 (u % 4) = true → exec (.srchInsert d) s = .next (rowEnd s j a.2)) ∧
    (acquiring a.2 a.1 (u % 4) = false → prepare a.2 a.1 u [sr] (some v) = (true, s1) →
      prepare r.2 a.1 u (recs [dbits d.words 24 0 32] .rdwr ++ recs known (if back then .rdwr else .rd)) = (true, s2) →
      prepare s2 a.1 u (recs (if back then fullEdges s2 c x known else []) .rd) = (true, s3) →
      exec (.srchInsert d) s = .next (rowEnd s j (insertLand s3 a.1 x bad r.1 known)))) ∧
  (∀ (s : State) (j : Job) (x : SrchDef) (b : List Byte) (known : List Nat) (r : SrchRec),
    let c := ringCtx j.ring
    let n := dbits j.words 18 0 7
    let node := dbits j.words 24 0 32
    let me := peekRec s c x node
    let heads := known.map fun n => (n, (peekRec me.2 c x n).1)
    let kept := (namedNodes x n b).filterMap fun n => match heads.find? fun h => h.1 = n with
      | some (_, some t) => if t.live then some (n, t.gen) else none
      | _ => none
    let body := leBytes 8 (recHead true false kept.length r.gen) ++ b.take (8 + x.codeBytes) ++ kept.flatMap fun e => edgeBytes e.1 e.2
    me.1 = some r → (∀ h ∈ heads, h.2 ≠ none) →
    (r.live = true → insertLand s j x false b known = finishJob me.2 j .denied) ∧
    (r.live = false → dbits j.words 18 7 1 = 0 →
      let t := writeVa me.2 c (x.recVa node) (padTo x.stride body)
      insertLand s j x false b known = finishJob (t.bump (F.SRCH_Q_UPDATE_INSERTS (srchServing t (vaHome t c (x.recVa node))))) j .ok
        (n - kept.length))) ∧
  (∀ (s : State) (j : Job) (x : SrchDef) (b : List Byte) (known : List Nat),
    insertLand s j x true b known = finishJob (spoilVa (peekRec s (ringCtx j.ring) x (dbits j.words 24 0 32)).2 (ringCtx j.ring)
      (x.recVa (dbits j.words 24 0 32)) x.stride) j .poison) ∧
  (∀ (s s1 : State) (d : Desc) (u : Nat) (j : Job) (x : SrchDef), EngineReady s d 0x3D u j srchUnit F.SRCH_CTRL_EN → boundDef s j = some x →
    let c := ringCtx j.ring
    let node := dbits d.words 24 0 32
    let ne := dbits d.words 28 0 32
    let other := node = x.entry ∧ ne < x.nodes ∧ ne ≠ node
    let a := engineBegun s d u j []
    prepare a.2 a.1 u (⟨x.recVa node, x.stride, .rdwr⟩ :: (if other then [⟨x.recVa ne, x.stride, .rd⟩] else [])) = (true, s1) →
    let me := peekRec s1 c x node
    let alt := if other then peekRec me.2 c x ne else (none, me.2)
    let ends := fun (t : State) (z : Code) (n : Nat) => exec (.srchDelete d) s = .next (rowEnd s j (finishJob t a.1 z n))
    let gone := fun (r : SrchRec) =>
      let t := writeVa alt.2 c (x.recVa node) (leBytes 8 (recHead false true r.deg (r.gen + 1)))
      t.bump (F.SRCH_Q_UPDATE_DELETES (srchServing t (vaHome t c (x.recVa node))))
    (me.1 = none → ends alt.2 .poison 0) ∧
    (∀ r : SrchRec, me.1 = some r →
      (node ≠ x.entry → r.live = false → ends alt.2 .ok 1) ∧
      (node ≠ x.entry → r.live = true → ends (gone r) .ok 0) ∧
      (node = x.entry → ¬ other → ends alt.2 .denied 0) ∧
      (∀ o : SrchRec, other → alt.1 = some o →
        (o.live = false → ends alt.2 .denied 0) ∧
        (o.live = true → r.live = false → ends alt.2 .ok 1) ∧
        (o.live = true → r.live = true →
          let defs := (gone r).srch.defs.map fun y => if y = x then { y with entry := ne } else y
          ends { gone r with srch := { (gone r).srch with defs := defs } } .ok 0))))

/-- Spaces and keys (R436, R437, R440, R443, R444, R447 to R449): a space is defined once, and cleared once nothing bound to it is left;
every descriptor on a key ends with the first code of R443 that applies, waits while its group is being sent, and finds at most an entry in
use with its key among the entries of its probe; a GET, PIN, UNPIN or RELEASE of an absent key ends with SHORT. -/
def Obligations.BlockSpacesAndKeys : Prop :=  (∀ (s : State) (d : Desc) (u : Nat) (j : Job), EngineReady s d 0x50 u j blkUnit F.BLK_CTRL_EN →
    let i := dbits d.words 16 0 8
    ((spaceAt s i).isSome = true → exec (.blkSpaceSet d) s = .next (rowEnd s j (blkEnd (startState s d u) (started j u) .denied))) ∧
    (spaceAt s i = none → Gives (.blkSpaceSet d) s fun q => spaceAt q i = some (spaceOf (ringCtx j.ring) d.words) ∧
      (∀ k, k ≠ i → spaceAt q k = spaceAt s k) ∧ q.blk.ledger = s.blk.ledger ∧ q.store = s.store ∧ Ends q d (endCode j .ok))) ∧
  (∀ (s : State) (d : Desc) (u : Nat) (j : Job), EngineReady s d 0x51 u j blkUnit F.BLK_CTRL_EN →
    let i := dbits d.words 16 0 8
    let s0 := startState s d u
    let ends := fun (t : State) (z : Code) => exec (.blkSpaceClear d) s = .next (rowEnd s j (blkEnd t (started j u) z))
    (spaceAt s i = none → ends s0 .denied) ∧
    (∀ sp : Space, spaceAt s i = some sp →
      (ctxDomain s sp.ctx ≠ ctxDomain s (ringCtx j.ring) → ends s0 .denied) ∧
      (ctxDomain s sp.ctx = ctxDomain s (ringCtx j.ring) →
        (spaceHeld s0 j i = true → exec (.blkSpaceClear d) s = .next (rowEnd s j (putJob s0 { started j u with st := .waiting }))) ∧
        (spaceHeld s0 j i = false → s.dir.ents = [] → s.dir.txns = [] → Gives (.blkSpaceClear d) s fun q =>
          spaceAt q i = none ∧ (∀ k, k ≠ i → spaceAt q k = spaceAt s k) ∧ (∀ l : Ledger, l ∈ q.blk.ledger ↔ l ∈ s.blk.ledger ∧ l.space ≠ i) ∧
          (∀ p ∈ areaPages s0 sp, q.page? p = none))))) ∧
  (∀ (s : State) (d : Desc) (u op : Nat) (row : Desc → Instr) (j : Job),
    (op, row) ∈ [(0x52, Instr.blkGet), (0x53, .blkPut), (0x54, .blkPin), (0x55, .blkUnpin), (0x57, .blkRelease)] →
    EngineReady s d op u j blkUnit F.BLK_CTRL_EN →
    let s0 := startState s d u
    let j1 := started j u
    (∀ (c : Code) (n : Nat), blkOrders s0 j1 = .code c n → exec (row d) s = .next (rowEnd s j (blkEnd s0 j1 c n))) ∧
    (blkOrders s0 j1 = .wait → exec (row d) s = .next (rowEnd s j (putJob s0 { j1 with st := .waiting }))) ∧
    (dbits d.words 17 3 1 = 0 → ∀ (sp : Space) (l : Option Ledger) (t : State),
      (op ≠ 0x53 → KeyFound s d u j sp l none t → exec (row d) s = .next (rowEnd s j (blkEnd t j1 .short))) ∧
      (∀ (k : Nat) (e : BlkEnt), blkOrders s0 j1 = .go sp l →
        pageThere s0 sp (sp.indexVa + bucketOf sp (dbits d.words 24 0 128) * 256) = true →
        prepareAs s0 j1 sp.ctx u (probeRanges sp (dbits d.words 24 0 128)) = (true, t) →
        (∀ r ∈ probeRanges sp (dbits d.words 24 0 128), poisonVa t sp.ctx r.va r.len = false) →
        lookUp t sp (dbits d.words 24 0 128) = some (k, e) → e.group ≠ dbits d.words 40 0 64 →
        exec (row d) s = .next (rowEnd s j (blkEnd t j1 .denied))))) ∧
  (∀ (s : State) (j : Job),
    let i := dbits j.words 16 0 8
    let g := dbits j.words 40 0 64
    let ep := dbits j.words 20 0 30
    let first := descOp j.words = 0x53 ∧ ep = 0
    let holds := descOp j.words = 0x53 ∨ descOp j.words = 0x56 ∨ descOp j.words = 0x57
    (spaceAt s i = none → blkOrders s j = .code .denied 0) ∧
    (∀ sp : Space, spaceAt s i = some sp → blkCheck s (ringCtx j.ring) j.words = none →
      (ledgerOf s i g = none →
        (first → s.blk.ledger.length < 1048576 → blkOrders s j = .go sp none) ∧
        (first → 1048576 ≤ s.blk.ledger.length → blkOrders s j = .code .capacity 0) ∧
        (¬ first → blkOrders s j = .code .notOwner 0)) ∧
      (∀ l : Ledger, ledgerOf s i g = some l →
        (l.st = .owned → l.epoch = ep → blkOrders s j = .go sp (some l)) ∧
        (l.st = .sending → holds → blkOrders s j = .wait) ∧
        (l.st = .sending → ¬ holds → l.epoch = ep → blkOrders s j = .go sp (some l)) ∧
        (l.st = .owned → l.epoch ≠ ep → blkOrders s j = .code .notOwner l.epoch) ∧
        (l.st = .acked ∨ l.st = .gone → blkOrders s j = .code .notOwner l.epoch)))) ∧
  (∀ (s : State) (sp : Space) (key k : Nat) (e : BlkEnt), lookUp s sp key = some (k, e) →
    e = entAt s sp k ∧ e.v = true ∧ e.key = key ∧ k ∈ probeSlots sp key ∧ k / 4 / 8192 = bucketOf sp key / 8192) ∧
  (∀ (sp : Space) (key : Nat), (probeSlots sp key).Nodup ∧ (probeSlots sp key).length = 64)

/-- What a block descriptor does to the entry that it finds (R444, R445, R447 to R449): GET copies the stored bytes, or ends with CAPACITY
when its buffer is smaller, and renews the lease; PUT takes a free entry and a place in the area, displacing blocks whose leases have
lapsed, or ends with CAPACITY; PIN moves the block to a pin page and UNPIN clears PIN; RELEASE frees the entry, or with GROUP_ALL the whole
group and its ledger entry. -/
def Obligations.BlockEntriesChange : Prop :=  (∀ (s t t1 t2 : State) (d : Desc) (u k : Nat) (j : Job) (sp : Space) (l : Option Ledger) (e : BlkEnt),
    EngineReady s d 0x52 u j blkUnit F.BLK_CTRL_EN → KeyFound s d u j sp l (some (k, e)) t →
    let len := dbits d.words 56 0 32
    let buf := dbits d.words 48 0 57
    let a := startJob t (started j u) (u % 4) []
    let bva := areaVaOf a.2 sp e.loc
    let v := jobView a.2 a.1 (u % 4)
    let ends := fun (q : State) (j : Job) (z : Code) (n : Nat) => exec (.blkGet d) s = .next (rowEnd s j (blkEnd q j z n))
    (len < e.len → ends t (started j u) .capacity 0) ∧
    (e.len ≤ len → prepareAs a.2 a.1 sp.ctx u [⟨bva, e.len, .rd⟩] = (true, t1) →
      prepare t1 a.1 u [⟨buf, e.len, .wr⟩] (some v) = (true, t2) →
      let r := copyBytes t2 sp.ctx bva none (ringCtx j.ring) buf (some v) e.len
      let q := putEnt r.1 (dbits d.words 16 0 8) sp k { e with lease := leaseEnd r.1 sp d.words }
      (r.2 = false → ends q a.1 .ok e.len) ∧ (r.2 = true → ends q a.1 .poison 0))) ∧
  (∀ (s t t1 t2 : State) (d : Desc) (u : Nat) (j : Job) (sp : Space) (l : Option Ledger) (hit : Option (Nat × BlkEnt)),
    EngineReady s d 0x53 u j blkUnit F.BLK_CTRL_EN → KeyFound s d u j sp l hit t →
    let key := dbits d.words 24 0 128
    let buf := dbits d.words 48 0 57
    let len := dbits d.words 56 0 32
    let a := startJob t (started j u) (u % 4) [⟨buf, len, .rd⟩]
    let j1 := { a.1 with aux := a.2.free }
    let s1 := putJob { a.2 with free := a.2.free + 1 } j1
    let v := jobView s1 j1 (u % 4)
    let ip := extPa s1 sp (sp.indexVa + bucketOf sp key * 256) / 2097152
    let here := (s1.page? ip).isSome
    let free := if here then (probeSlots sp key).find? fun k => !(entAt s1 sp k).v else (probeSlots sp key).head?
    let refused := fun full : Bool => exec (.blkPut d) s = .next (rowEnd s j (putRefused s1 j1 full))
    let room := makeRoom s1 sp (u % 4) (16384 * 2 ^ dbits d.words 17 0 3) j1.aux (lapsed s1 sp) []
    (acquiring s1 j1 (u % 4) = true → exec (.blkPut d) s = .next (rowEnd s j s1)) ∧
    (acquiring s1 j1 (u % 4) = false →
      (here = false → pageUsable s1 sp ip false = false → refused false) ∧
      (here = true ∨ pageUsable s1 sp ip false = true →
        (hit = none → free = none → refused true) ∧
        (∀ k : Nat, (hit.map (·.1) <|> free) = some k →
          (room = none → refused false) ∧
          (∀ (loc : Nat) (gone : List Nat), room = some (loc, gone) →
            ((s1.page? (loc / 2097152)).isSome = true → prepareAs s1 j1 sp.ctx u [⟨areaVaOf s1 sp loc, len, .wr⟩] = (true, t1)) →
            (s1.page? (loc / 2097152) = none → t1 = s1) → prepare t1 j1 u [⟨buf, len, .rd⟩] (some v) = (true, t2) →
            exec (.blkPut d) s = .next (rowEnd s j (putLand t2 j1 sp l k loc ip gone v))))))) ∧
  (∀ (s t t1 : State) (d : Desc) (u k : Nat) (j : Job) (sp : Space) (l : Option Ledger) (e : BlkEnt),
    let i := dbits d.words 16 0 8
    (EngineReady s d 0x54 u j blkUnit F.BLK_CTRL_EN → KeyFound s d u j sp l (some (k, e)) t →
      let j1 := { started j u with aux := t.free, phase := 1 }
      let s1 := putJob { t with free := t.free + 1 } j1
      (e.pin = true → exec (.blkPin d) s = .next (rowEnd s j (blkEnd (putEnt s1 i sp k { e with lease := leaseEnd s1 sp d.words }) j1 .ok))) ∧
      (e.pin = false → pinPlace s1 sp e.size j1.aux = none →
        exec (.blkPin d) s = .next (rowEnd s j (blkEnd (blkCount s1 j1 (F.BLK_B_LEASE_PIN_FULL (u % 4)) true) j1 .capacity))) ∧
      (∀ (loc : Nat) (new : Option Nat), e.pin = false → pinPlace s1 sp e.size j1.aux = some (loc, new) →
        prepareAs s1 j1 sp.ctx u (⟨areaVaOf s1 sp e.loc, e.len, .rd⟩ ::
          (if (s1.page? (loc / 2097152)).isSome then [⟨areaVaOf s1 sp loc, e.len, .wr⟩] else [])) = (true, t1) →
        let t2 := match new with | some p => markPin t1 i sp p | none => t1
        let r := copyBytes t2 sp.ctx (areaVaOf t2 sp e.loc) none sp.ctx (areaVaOf t2 sp loc) none e.len
        exec (.blkPin d) s = .next (rowEnd s j (blkEnd (putEnt r.1 i sp k { e with pin := true, loc := loc, lease := leaseEnd r.1 sp d.words }) j1
          (if r.2 then .poison else .ok))))) ∧
    (EngineReady s d 0x55 u j blkUnit F.BLK_CTRL_EN → KeyFound s d u j sp l (some (k, e)) t →
      exec (.blkUnpin d) s = .next (rowEnd s j (blkEnd (putEnt t i sp k { e with pin := false }) (started j u) .ok))) ∧
    (EngineReady s d 0x57 u j blkUnit F.BLK_CTRL_EN →
      (dbits d.words 17 3 1 = 0 → KeyFound s d u j sp l (some (k, e)) t →
        exec (.blkRelease d) s = .next (rowEnd s j (blkEnd (freeEnt t i sp k) (started j u) .ok))) ∧
      (dbits d.words 17 3 1 = 1 → blkOrders (startState s d u) (started j u) = .go sp l →
        let g := dbits d.words 40 0 64
        exec (.blkRelease d) s = .next (rowEnd s j (blkEnd (putLedger (freeGroup (startState s d u) i g) i g none) (started j u) .ok))))) ∧
  (∀ (s : State) (sp : Space) (sector n n0 loc : Nat) (l : List (Nat × BlkEnt)) (gone : List Nat), n ∣ 2097152 → 0 < n →
    makeRoom s sp sector n n0 l [] = some (loc, gone) → loc % n = 0 ∧ loc / 2097152 ∈ areaPages s sp ∧ blockIn s sp gone loc n = false ∧
      gone <+: l.map (·.1)) ∧
  (∀ (s : State) (sp : Space), ∀ x ∈ lapsed s sp, x ∈ entsOf s sp ∧ x.2.pin = false ∧ x.2.state = 0 ∧ x.2.lease < s.now)

/-- Handing a group over (R450 to R459, R466): BLK_HANDOFF checks its window, its manifest's room and its route, logs and writes the
manifest, and offers the group at the next epoch; a timer or a refusal reclaims it at the epoch after. An OFFER for a group that is held is
refused; an ACK at the offered epoch ends the handoff and frees the blocks; a CONFIRM makes the receiver the owner; while it waits it
repeats its ACK, and gives up in time. BLK_LOG_READ copies its own context's records, and a job waits no longer once the log has room. -/
def Obligations.GroupsHandedOff : Prop :=  (∀ (s s1 : State) (d : Desc) (u fa mpa : Nat) (j : Job) (sp : Space) (l : Ledger), EngineReady s d 0x56 u j blkUnit F.BLK_CTRL_EN →
    let s0 := startState s d u
    let j1 := started j u
    let es := groupEnts s0 sp (dbits d.words 40 0 64)
    let mva := dbits d.words 48 0 57
    let a := startJob s0 j1 (u % 4) []
    let v := jobView a.2 a.1 (u % 4)
    let ends := fun (z : Code) => exec (.blkHandoff d) s = .next (rowEnd s j (blkEnd s0 j1 z))
    let dest := match translate s0 (ringCtx j.ring) (dbits d.words 24 0 57) 64 .wr with
      | .away fa _ _ => some fa
      | .here pa _ => some (s0.get F.CMP_NODE_NODE_ID * 2 ^ 47 + pa)
      | .code _ => none
    (∀ (c : Code) (n : Nat), blkOrders s0 j1 = .code c n → exec (.blkHandoff d) s = .next (rowEnd s j (blkEnd s0 j1 c n))) ∧
    (blkOrders s0 j1 = .wait → exec (.blkHandoff d) s = .next (rowEnd s j (putJob s0 { j1 with st := .waiting }))) ∧
    (blkOrders s0 j1 = .go sp (some l) →
      (dest = none → ends .denied) ∧
      (dest = some fa → poolOf s0 (ringCtx j.ring) mva (max (es.length * 32) 1) .wr = some mpa →
        (inHandoff fa = false → ends .denied) ∧
        (inHandoff fa = true →
          (dbits d.words 56 0 32 < es.length * 32 ∨ 2 ^ 30 ≤ l.epoch + 1 ∨ 65536 < es.length → ends .capacity) ∧
          (es.length * 32 ≤ dbits d.words 56 0 32 → l.epoch + 1 < 2 ^ 30 → es.length ≤ 65536 →
            (fa / 2 ^ 47 ≠ s0.get F.CMP_NODE_NODE_ID → routeUp s0 (fa / 2 ^ 47) = none → ends .portLost) ∧
            (fa / 2 ^ 47 = s0.get F.CMP_NODE_NODE_ID ∨ (routeUp s0 (fa / 2 ^ 47)).isSome = true →
              prepare a.2 a.1 u [⟨mva, es.length * 32, .wr⟩] (some v) = (true, s1) →
              exec (.blkHandoff d) s = .next (rowEnd s j (handoffLand s1 a.1 l es fa mpa v)))))))) ∧
  (∀ (s : State) (t : Nat) (x : InMsg) (m : HMsg), firstMsg s 1 = some (x, m) →
    let s0 := s.upto t
    let no := fun c : Code => exec (.offer t) s = .next (sendNack (takeMsg s0 x) m c)
    (msgAllowed s x m = false → no .denied) ∧
    (∀ l : Ledger, ledgerOf s m.space m.group = some l → l.st ≠ .gone ∨ m.epoch ≤ l.epoch → no .denied) ∧
    (∀ sp : Space, msgAllowed s x m = true → spaceAt s m.space = some sp →
      (∀ l : Ledger, ledgerOf s m.space m.group = some l → l.st = .gone ∧ l.epoch < m.epoch) →
      (1048576 ≤ s.blk.ledger.length → no .capacity) ∧
      (s.blk.ledger.length < 1048576 → fabricVa s sp.ctx m.manifest (32 * m.blocks) = none → no .denied) ∧
      (∀ (va : Nat) (s1 : State), s.blk.ledger.length < 1048576 → fabricVa s sp.ctx m.manifest (32 * m.blocks) = some va →
        barRanges s0 none sp.ctx .none [⟨va, 32 * m.blocks, .rd⟩] = (.clear, s1) → exec (.offer t) s = .next (offerLand s0 s1 x m sp va)))) ∧
  (∀ (s : State) (t : Nat) (x : InMsg) (m : HMsg), firstMsg s 2 = some (x, m) →
    let s1 := takeMsg (s.upto t) x
    let conf := fun s : State => sendMsg s m.reply { msg := 3, space := m.replySpace, epoch := m.epoch, group := m.group, reply := ownWindow s,
                                                     replySpace := m.space }
    (msgAllowed s x m = false → exec (.ack t) s = .next (sendNack s1 m .denied)) ∧
    (msgAllowed s x m = true →
      (ledgerOf s m.space m.group = none → exec (.ack t) s = .next (sendNack s1 m .notOwner)) ∧
      (∀ l : Ledger, ledgerOf s m.space m.group = some l →
        (l.st = .sending → l.epoch + 1 = m.epoch →
          let s2 := putLedger (freeGroup s1 m.space m.group) m.space m.group (some { l with st := .gone, epoch := m.epoch, since := s1.now, job := none })
          exec (.ack t) s = .next (conf (endHandoff (s2.bump F.BLK_HANDOFF_STATS_COMPLETED) l .ok m.epoch))) ∧
        (l.st = .gone → l.epoch = m.epoch → exec (.ack t) s = .next (conf s1)) ∧
        (l.st = .owned ∨ l.st = .acked → exec (.ack t) s = .next (sendNack s1 m .notOwner))))) ∧
  (∀ (s : State) (t : Nat) (x : InMsg) (m : HMsg), firstMsg s 3 = some (x, m) → msgAllowed s x m = true →
    let s1 := takeMsg (s.upto t) x
    ∀ l : Ledger, ledgerOf s m.space m.group = some l →
      (l.st = .acked → l.epoch = m.epoch → exec (.confirm t) s = .next
        (readyGroup (putLedger s1 m.space m.group (some { l with st := .owned, since := s1.now })) m.space m.group)) ∧
      (l.st ≠ .acked ∨ l.epoch ≠ m.epoch → exec (.confirm t) s = .next s1)) ∧
  (∀ (s : State) (t : Nat) (x : InMsg) (m : HMsg), firstMsg s 4 = some (x, m) → msgAllowed s x m = true →
    ∀ l : Ledger, ledgerOf s m.space m.group = some l →
      (l.st = .sending → exec (.nack t) s = .next (reclaim (takeMsg (s.upto t) x) l (nackCode m.code))) ∧
      (l.st = .acked → exec (.nack t) s = .next (dropStaged (takeMsg (s.upto t) x) l)) ∧
      (l.st = .owned ∨ l.st = .gone → exec (.nack t) s = .next (takeMsg (s.upto t) x))) ∧
  (∀ (s : State) (t : Nat) (l : Ledger),
    let s0 := s.upto t
    (ledgerDue s0 .sending (·.since) (1000000 * s.get F.BLK_TIMING_HANDOFF_MS) = some l → exec (.handoffTimeout t) s = .next (reclaim s0 l .timeout)) ∧
    (ledgerDue s0 .acked (·.sentAt) (1000 * s.get F.BLK_TIMING_ACK_RESEND_US) = some l → exec (.ackResend t) s = .next
      (sendMsg (putLedger s0 l.space l.group (some { l with sentAt := s0.now })) l.reply
        { msg := 2, space := l.peerSpace, epoch := l.epoch, group := l.group, reply := ownWindow s0, replySpace := l.space })) ∧
    (ledgerDue s0 .acked (·.since) (1000000 * s.get F.BLK_TIMING_GIVEUP_MS) = some l → exec (.giveupTimeout t) s = .next (dropStaged s0 l)) ∧
    (ledgerDue s0 .gone (·.since) (1000000 * s.get F.BLK_TIMING_GONE_MS) = some l →
      exec (.goneExpiry t) s = .next (putLedger s0 l.space l.group none)) ∧
    (s.blk.ledger = [] → exec (.handoffTimeout t) s = .next s0 ∧ exec (.ackResend t) s = .next s0 ∧ exec (.giveupTimeout t) s = .next s0 ∧
      exec (.goneExpiry t) s = .next s0)) ∧
  (∀ (s : State) (l : Ledger) (c : Code), ledgerOf (reclaim s l c) l.space l.group = some { l with st := .owned, epoch := l.epoch + 2, since := s.now, job := none } ∧
    (reclaim s l c).store = s.store) ∧
  (∀ (s s1 : State) (d : Desc) (u : Nat) (j : Job), EngineReady s d 0x58 u j blkUnit F.BLK_CTRL_EN →
    let r := logRead (startState s d u) (ringCtx j.ring) (dbits d.words 24 0 64) (dbits d.words 56 0 32)
    let buf := dbits d.words 48 0 57
    let a := startJob (startState s d u) (started j u) (u % 4) []
    let v := jobView a.2 a.1 (u % 4)
    prepare a.2 a.1 u [⟨buf, r.1.length, .wr⟩] (some v) = (true, s1) →
    exec (.blkLogRead d) s = .next (rowEnd s j (blkEnd (writeVa s1 (ringCtx j.ring) buf r.1 (some v)) a.1 (if r.2.2 then .short else .ok) r.2.1))) ∧
  (∀ (s : State) (t : Nat),
    let first := s.log.waits.find? fun w => (logMake (logCap s) w.2.2 s.log.recs (logUsed s)).isSome
    (∀ w : Nat × Nat × Nat, first = some w → exec (.logRoom t) s = .next { s.upto t with log := { s.log with waits := s.log.waits.erase w } }) ∧
    (first = none → exec (.logRoom t) s = .next (s.upto t)))

/-- SCHEDULER_SELECT makes up to two selections (R521 to R525): a ready lane of a queue with reserve credit first, round robin over the
tenants, class 2 before class 3; then the eligible lane of class 2, and then of class 3, with the least tag. A spilled message that has been
read back may be selected. Tenant queues and class stores by the management port (R517, R518, R525, R526, R533, R723): a READ shows a
queue's settings, a WRITE installs them with the credits of R525, or reports DENIED or CAPACITY and leaves the queue; a command while BUSY
does nothing. The class shares take their nearest values, unless they exceed 4,096 KiB together or the block is locked. -/
def Obligations.SchedulerSelectsAndConfigures : Prop :=
  ((∀ (s : State) (p : Fin 6) (t : Nat),
     let s1 := (s.sched.tqs.filter fun e => e.1 / 256 = p.val).foldl (fun s e => refreshTq s p (e.1 % 256)) (s.upto t)
     exec (.schedulerSelect p t) s = .next (wake (selectOne (selectOne (noteLanes s1 p) p) p))) ∧
   (∀ (s : State) (p : Nat) (f : Flight),
     (∀ x : Nat × Nat, pickReserved s p = some x → (laneOf s p x.1 x.2).head? = some f →
       selectOne s p = selectFlight { s with sched := { s.sched with rr := tabPut p x.1 s.sched.rr } } f true) ∧
     (pickReserved s p = none →
       (∀ x : Nat × Nat, pickWeighted s p 2 = some x → (laneOf s p x.1 x.2).head? = some f → selectOne s p = selectFlight s f false) ∧
       (∀ x : Nat × Nat, pickWeighted s p 2 = none → pickWeighted s p 3 = some x → (laneOf s p x.1 x.2).head? = some f →
         selectOne s p = selectFlight s f false) ∧
       (pickWeighted s p 2 = none → pickWeighted s p 3 = none → selectOne s p = s))) ∧
   (∀ (s : State) (p t c : Nat), pickReserved s p = some (t, c) → (c = 2 ∨ c = 3) ∧ hasReserve s p t = true ∧ laneReady s p t c = true ∧
     (c = 3 → laneReady s p t 2 = false)) ∧
   (∀ (s : State) (p c t d : Nat), pickWeighted s p c = some (t, d) → d = c ∧ laneReady s p t c = true ∧ weightedOk s p t = true) ∧
   (∀ (s : State) (p t c : Nat), laneReady s p t c = true → tqInflight s p t < (tenant s p t).inflightMax ∧
     ((tenant s p t).rate = 0 ∨ 0 < (tenant s p t).rateCredit) ∧ ∃ f : Flight, (laneOf s p t c).head? = some f ∧ throttled s f.req.ctx.val = false) ∧
   (∀ (s : State) (p : Fin 6) (g : Fin 8192) (t : Nat) (f : Flight), flightOf s p g = some f →
     (f.stage = .lane true false → exec (.spillReadback p g t) s = .next (noteLanes (putFlight (s.upto t) { f with stage := .lane true true }) p)) ∧
     (f.stage ≠ .lane true false → exec (.spillReadback p g t) s = .next (s.upto t)))) ∧
  ((∀ (s : State) (p : Fin 6) (n : Fin 256), PortOpen s → s.flag F.SCH_TQ_SEL_BUSY = false →
     let q := tenant s p n
     Gives (.tqRead p n) s fun u =>
       u.get F.SCH_TQ_SEL_PORT = p.val ∧ u.get F.SCH_TQ_SEL_TENANT = n.val ∧ u.get F.SCH_TQ_SEL_RESULT = 0 ∧ u.flag F.SCH_TQ_CFG0_EN = q.en ∧
       u.get F.SCH_TQ_CFG0_DOMAIN = q.domain % 2 ^ 8 ∧ u.get F.SCH_TQ_CFG0_WEIGHT = q.weight % 2 ^ 8 ∧ u.get F.SCH_TQ_CFG0_RATE = q.rate % 2 ^ 12 ∧
       u.get F.SCH_TQ_CFG0_RATE_CAP_KIB = q.rateCap % 2 ^ 16 ∧ u.get F.SCH_TQ_CFG1_RESV = q.resv % 2 ^ 12 ∧
       u.get F.SCH_TQ_CFG1_RESV_CAP_KIB = q.resvCap % 2 ^ 16 ∧ u.get F.SCH_TQ_CFG1_INFLIGHT_MAX = q.inflightMax % 2 ^ 14 ∧
       u.get F.SCH_TQ_CFG1_BUF_KIB = q.bufKib % 2 ^ 12 ∧ u.get F.SCH_TQ_STAT_INFLIGHT = tqInflight s p n % 2 ^ 14 ∧
       u.get F.SCH_TQ_STAT_QUEUED = tqQueued s p n % 2 ^ 14 ∧ SameButFields (answeredState s) u) ∧
   (∀ (s : State) (p : Fin 6) (n : Fin 256) (t : Nat), PortOpen (s.upto t) → s.flag F.SCH_TQ_SEL_BUSY = false →
     let s1 := ((answeredState (s.upto t)).set F.SCH_TQ_SEL_PORT p).set F.SCH_TQ_SEL_TENANT n
     let c0 := (tenantWords { en := s.flag F.SCH_TQ_CFG0_EN, domain := s.get F.SCH_TQ_CFG0_DOMAIN, weight := s.get F.SCH_TQ_CFG0_WEIGHT,
                              rate := s.get F.SCH_TQ_CFG0_RATE, rateCap := s.get F.SCH_TQ_CFG0_RATE_CAP_KIB }).1
     let c1 := (tenantWords { resv := s.get F.SCH_TQ_CFG1_RESV, resvCap := s.get F.SCH_TQ_CFG1_RESV_CAP_KIB,
                              inflightMax := s.get F.SCH_TQ_CFG1_INFLIGHT_MAX, bufKib := s.get F.SCH_TQ_CFG1_BUF_KIB }).2
     let r := installTq s1 p n c0 c1
     exec (.tqWrite p n t) s = .next (r.2.set F.SCH_TQ_SEL_RESULT (codeNum r.1))) ∧
   (∀ (s : State) (p : Fin 6) (n : Fin 256) (t : Nat), PortOpen (s.upto t) → PortOpen s → s.flag F.SCH_TQ_SEL_BUSY = true →
     exec (.tqRead p n) s = .next (answeredState s) ∧ exec (.tqWrite p n t) s = .next (answeredState (s.upto t))) ∧
   (∀ (s : State) (p n c0 c1 : Nat),
     let q := tenantOf (tenant (refreshTq s p n) p n) c0 c1
     let r := installTq s p n c0 c1
     (tqRefuses s p n (bits c0 1 8) = true → r = (.denied, s)) ∧
     (tqRefuses s p n (bits c0 1 8) = false →
       (resvSum s p < resvSum (forceTq s p n c0 c1) p → 51296 < resvSum (forceTq s p n c0 c1) p → r = (.capacity, s)) ∧
       (resvSum (forceTq s p n c0 c1) p ≤ resvSum s p ∨ resvSum (forceTq s p n c0 c1) p ≤ 51296 → r.1 = .ok ∧
         (n < 256 →
           let x := tenant r.2 p n
           x.en = q.en ∧ x.domain = q.domain ∧ x.weight = q.weight ∧ x.rate = q.rate ∧ x.rateCap = q.rateCap ∧ x.resv = q.resv ∧
           x.resvCap = q.resvCap ∧ x.inflightMax = q.inflightMax ∧ x.bufKib = q.bufKib ∧
           (q.en = true → (tenant s p n).en = false → x.rateCredit = q.rateCap * 1024 ∧ x.resvCredit = q.resvCap * 1024) ∧
           (x.rateCredit ≤ q.rateCap * 1024 ∧ x.resvCredit ≤ q.resvCap * 1024))))) ∧
   (∀ (q : Tenant) (c0 c1 : Nat),
     let x := tenantOf q c0 c1
     1 ≤ x.rateCap ∧ x.rateCap ≤ 65535 ∧ 1 ≤ x.resvCap ∧ x.resvCap ≤ 65535 ∧ 1 ≤ x.inflightMax ∧ x.inflightMax ≤ 8192 ∧ 16 ≤ x.bufKib ∧
     x.bufKib ≤ 3072) ∧
   (∀ (s : State) (p : Fin 6) (v : Word), PortOpen s →
     let c0 := clampTo 64 1024 (bits v.toNat 0 11)
     let c1 := clampTo 64 1024 (bits v.toNat 11 11)
     let c2 := clampTo 256 3072 (bits v.toNat 22 12)
     let c3 := clampTo 256 3072 (bits v.toNat 34 12)
     let fs := [F.SCH_K_LIMITS_C0_KIB p, F.SCH_K_LIMITS_C1_KIB p, F.SCH_K_LIMITS_C2_KIB p, F.SCH_K_LIMITS_C3_KIB p]
     (s.flag F.SCH_CTRL_LOCK = true ∨ 4096 < c0 + c1 + c2 + c3 → exec (.limitsWrite p v) s = .next (answeredState s)) ∧
     (s.flag F.SCH_CTRL_LOCK = false → c0 + c1 + c2 + c3 ≤ 4096 → Gives (.limitsWrite p v) s fun u =>
       fs.map u.get = [c0, c1, c2, c3] ∧ OnlyFields (fs.map Fld.key) (answeredState s) u)))
end

