-- ==== Sys2Proof/Laws/Maps.lean ====
section
/-! SUPPORT. Laws of the tables keyed by numbers: reading after writing, and the rise of the keys. -/

namespace Sys2Proof.Machine

open Sys2Proof

/-- Keys rise strictly just when they rise pairwise. -/
theorem keysRise_iff {α : Type} (t : Tab α) : keysRise t = true ↔ t.Pairwise fun a b => a.1 < b.1 := by
  induction t with
  | nil => simp [keysRise]
  | cons a t ih =>
    cases t with
    | nil => simp [keysRise]
    | cons b t =>
      obtain ⟨j, x⟩ := a
      obtain ⟨k, y⟩ := b
      simp only [keysRise, Bool.and_eq_true, decide_eq_true_eq, ih, List.pairwise_cons]
      constructor
      · rintro ⟨h, h1, h2⟩
        refine ⟨fun z hz => ?_, h1, h2⟩
        rcases List.mem_cons.1 hz with rfl | hz
        · exact h
        · exact lt_trans h (h1 z hz)
      · rintro ⟨h, h1, h2⟩
        exact ⟨h (k, y) (by simp), h1, h2⟩

/-- An entry of a table after a write is the one written or an old one. -/
theorem mem_tabPut {α : Type} (k : Nat) (v : α) (t : Tab α) (e : Nat × α) (h : e ∈ tabPut k v t) : e = (k, v) ∨ e ∈ t := by
  induction t with
  | nil => simpa [tabPut] using h
  | cons a t ih =>
    obtain ⟨j, w⟩ := a
    unfold tabPut at h
    split at h
    · simpa using h
    · split at h
      · rcases List.mem_cons.1 h with h | h <;> simp [h]
      · rcases List.mem_cons.1 h with h | h
        · simp [h]
        · rcases ih h with h | h <;> simp [h]

/-- A write keeps the keys rising. -/
theorem keysRise_tabPut {α : Type} (k : Nat) (v : α) (t : Tab α) (h : keysRise t = true) : keysRise (tabPut k v t) = true := by
  rw [keysRise_iff] at h ⊢
  induction t with
  | nil => simp [tabPut]
  | cons a t ih =>
    obtain ⟨j, w⟩ := a
    rw [List.pairwise_cons] at h
    unfold tabPut
    split
    · rename_i hlt
      rw [List.pairwise_cons, List.pairwise_cons]
      refine ⟨fun z hz => ?_, h⟩
      rcases List.mem_cons.1 hz with rfl | hz
      · exact hlt
      · exact lt_trans hlt (h.1 z hz)
    · split
      · rename_i heq
        subst heq
        rw [List.pairwise_cons]
        exact h
      · rename_i hlt hne
        rw [List.pairwise_cons]
        refine ⟨fun z hz => ?_, ih h.2⟩
        rcases mem_tabPut _ _ _ _ hz with rfl | hz
        · dsimp only
          omega
        · exact h.1 z hz

/-- Keeping some entries keeps the keys rising. -/
theorem keysRise_filter {α : Type} (p : Nat × α → Bool) (t : Tab α) (h : keysRise t = true) : keysRise (t.filter p) = true := by
  rw [keysRise_iff] at h ⊢
  exact h.filter p

/-- A read of the key just written gives the value written. -/
@[simp] theorem tabGet?_tabPut_same {α : Type} (k : Nat) (v : α) (t : Tab α) : tabGet? k (tabPut k v t) = some v := by
  induction t with
  | nil => simp [tabPut, tabGet?]
  | cons a t ih =>
    obtain ⟨j, w⟩ := a
    unfold tabPut
    split
    · simp [tabGet?]
    · split
      · simp [tabGet?]
      · rename_i hne
        rw [tabGet?, if_neg (fun e => hne e.symm)]
        exact ih

/-- A read of another key than the one written gives what it gave. -/
theorem tabGet?_tabPut_ne {α : Type} {k j : Nat} (v : α) (t : Tab α) (h : j ≠ k) : tabGet? j (tabPut k v t) = tabGet? j t := by
  induction t with
  | nil => simp [tabPut, tabGet?, Ne.symm h]
  | cons a t ih =>
    obtain ⟨i, w⟩ := a
    unfold tabPut
    split
    · simp [tabGet?, Ne.symm h]
    · split
      · rename_i hki
        subst hki
        simp [tabGet?, Ne.symm h]
      · rw [tabGet?, tabGet?, ih]

/-- A removed key reads as absent. -/
@[simp] theorem tabGet?_tabDel_same {α : Type} (k : Nat) (t : Tab α) : tabGet? k (tabDel k t) = none := by
  induction t with
  | nil => rfl
  | cons a t ih =>
    obtain ⟨i, w⟩ := a
    unfold tabDel at ih ⊢
    rw [List.filter_cons]
    split
    · rename_i h
      rw [tabGet?, if_neg (by simpa using h)]
      exact ih
    · exact ih

/-- Removing a key leaves every other one. -/
theorem tabGet?_tabDel_ne {α : Type} {k j : Nat} (t : Tab α) (h : j ≠ k) : tabGet? j (tabDel k t) = tabGet? j t := by
  induction t with
  | nil => rfl
  | cons a t ih =>
    obtain ⟨i, w⟩ := a
    unfold tabDel at ih ⊢
    rw [List.filter_cons]
    split
    · rw [tabGet?, tabGet?, ih]
    · rename_i hi
      have hi' : i = k := by simpa using hi
      rw [tabGet?, if_neg (by omega), ih]

/-- A read of the key just written, in a table whose absent entries read as `d`. -/
@[simp] theorem tabGet_tabPutD_same {α : Type} [DecidableEq α] (d : α) (k : Nat) (v : α) (t : Tab α) :
    tabGet d k (tabPutD d k v t) = v := by
  unfold tabGet tabPutD
  split
  · rename_i h
    simp [h]
  · simp

/-- A read of another key, in a table whose absent entries read as `d`. -/
theorem tabGet_tabPutD_ne {α : Type} [DecidableEq α] {d e : α} {k j : Nat} (v : α) (t : Tab α) (h : j ≠ k) :
    tabGet e j (tabPutD d k v t) = tabGet e j t := by
  unfold tabGet tabPutD
  split
  · rw [tabGet?_tabDel_ne t h]
  · rw [tabGet?_tabPut_ne v t h]

@[simp] theorem tabGet_tabPut_same {α : Type} (d : α) (k : Nat) (v : α) (t : Tab α) : tabGet d k (tabPut k v t) = v := by
  simp [tabGet]

theorem tabGet_tabPut_ne {α : Type} {d : α} {k j : Nat} (v : α) (t : Tab α) (h : j ≠ k) : tabGet d j (tabPut k v t) = tabGet d j t := by
  unfold tabGet
  rw [tabGet?_tabPut_ne v t h]

end Sys2Proof.Machine
end

