-- ==== Sys2Proof/Laws/State.lean ====
section
/-! SUPPORT. One lemma for each field of the state and each named update: what the update leaves alone, and what a register field reads
after it. No later proof need unfold a record update. -/

namespace Sys2Proof.Machine

open Sys2Proof

variable (s : State)

/-! ### `State.set` -/

@[simp] theorem State.set_pending (f : Fld) (v : Nat) : (s.set f v).pending = s.pending := rfl
@[simp] theorem State.set_now (f : Fld) (v : Nat) : (s.set f v).now = s.now := rfl
@[simp] theorem State.set_free (f : Fld) (v : Nat) : (s.set f v).free = s.free := rfl
@[simp] theorem State.set_cpRegs (f : Fld) (v : Nat) : (s.set f v).cpRegs = s.cpRegs := rfl
@[simp] theorem State.set_store (f : Fld) (v : Nat) : (s.set f v).store = s.store := rfl
@[simp] theorem State.set_xlt (f : Fld) (v : Nat) : (s.set f v).xlt = s.xlt := rfl
@[simp] theorem State.set_fab (f : Fld) (v : Nat) : (s.set f v).fab = s.fab := rfl
@[simp] theorem State.set_dir (f : Fld) (v : Nat) : (s.set f v).dir = s.dir := rfl
@[simp] theorem State.set_rings (f : Fld) (v : Nat) : (s.set f v).rings = s.rings := rfl
@[simp] theorem State.set_cache (f : Fld) (v : Nat) : (s.set f v).cache = s.cache := rfl
@[simp] theorem State.set_plane (f : Fld) (v : Nat) : (s.set f v).plane = s.plane := rfl
@[simp] theorem State.set_sched (f : Fld) (v : Nat) : (s.set f v).sched = s.sched := rfl
@[simp] theorem State.set_comp (f : Fld) (v : Nat) : (s.set f v).comp = s.comp := rfl
@[simp] theorem State.set_mgmt (f : Fld) (v : Nat) : (s.set f v).mgmt = s.mgmt := rfl
@[simp] theorem State.set_log (f : Fld) (v : Nat) : (s.set f v).log = s.log := rfl
@[simp] theorem State.set_emb (f : Fld) (v : Nat) : (s.set f v).emb = s.emb := rfl
@[simp] theorem State.set_srch (f : Fld) (v : Nat) : (s.set f v).srch = s.srch := rfl
@[simp] theorem State.set_blk (f : Fld) (v : Nat) : (s.set f v).blk = s.blk := rfl
@[simp] theorem State.set_sec (f : Fld) (v : Nat) : (s.set f v).sec = s.sec := rfl
@[simp] theorem State.set_ports (f : Fld) (v : Nat) : (s.set f v).ports = s.ports := rfl
@[simp] theorem State.set_clk (f : Fld) (v : Nat) : (s.set f v).clk = s.clk := rfl
@[simp] theorem State.set_out (f : Fld) (v : Nat) : (s.set f v).out = s.out := rfl

/-! ### `State.setFlag` -/

@[simp] theorem State.setFlag_pending (f : Fld) (b : Bool) : (s.setFlag f b).pending = s.pending := rfl
@[simp] theorem State.setFlag_now (f : Fld) (b : Bool) : (s.setFlag f b).now = s.now := rfl
@[simp] theorem State.setFlag_free (f : Fld) (b : Bool) : (s.setFlag f b).free = s.free := rfl
@[simp] theorem State.setFlag_cpRegs (f : Fld) (b : Bool) : (s.setFlag f b).cpRegs = s.cpRegs := rfl
@[simp] theorem State.setFlag_store (f : Fld) (b : Bool) : (s.setFlag f b).store = s.store := rfl
@[simp] theorem State.setFlag_xlt (f : Fld) (b : Bool) : (s.setFlag f b).xlt = s.xlt := rfl
@[simp] theorem State.setFlag_fab (f : Fld) (b : Bool) : (s.setFlag f b).fab = s.fab := rfl
@[simp] theorem State.setFlag_dir (f : Fld) (b : Bool) : (s.setFlag f b).dir = s.dir := rfl
@[simp] theorem State.setFlag_rings (f : Fld) (b : Bool) : (s.setFlag f b).rings = s.rings := rfl
@[simp] theorem State.setFlag_cache (f : Fld) (b : Bool) : (s.setFlag f b).cache = s.cache := rfl
@[simp] theorem State.setFlag_plane (f : Fld) (b : Bool) : (s.setFlag f b).plane = s.plane := rfl
@[simp] theorem State.setFlag_sched (f : Fld) (b : Bool) : (s.setFlag f b).sched = s.sched := rfl
@[simp] theorem State.setFlag_comp (f : Fld) (b : Bool) : (s.setFlag f b).comp = s.comp := rfl
@[simp] theorem State.setFlag_mgmt (f : Fld) (b : Bool) : (s.setFlag f b).mgmt = s.mgmt := rfl
@[simp] theorem State.setFlag_log (f : Fld) (b : Bool) : (s.setFlag f b).log = s.log := rfl
@[simp] theorem State.setFlag_emb (f : Fld) (b : Bool) : (s.setFlag f b).emb = s.emb := rfl
@[simp] theorem State.setFlag_srch (f : Fld) (b : Bool) : (s.setFlag f b).srch = s.srch := rfl
@[simp] theorem State.setFlag_blk (f : Fld) (b : Bool) : (s.setFlag f b).blk = s.blk := rfl
@[simp] theorem State.setFlag_sec (f : Fld) (b : Bool) : (s.setFlag f b).sec = s.sec := rfl
@[simp] theorem State.setFlag_ports (f : Fld) (b : Bool) : (s.setFlag f b).ports = s.ports := rfl
@[simp] theorem State.setFlag_clk (f : Fld) (b : Bool) : (s.setFlag f b).clk = s.clk := rfl
@[simp] theorem State.setFlag_out (f : Fld) (b : Bool) : (s.setFlag f b).out = s.out := rfl

/-! ### `State.bump` -/

@[simp] theorem State.bump_pending (f : Fld) (n : Nat) : (s.bump f n).pending = s.pending := rfl
@[simp] theorem State.bump_now (f : Fld) (n : Nat) : (s.bump f n).now = s.now := rfl
@[simp] theorem State.bump_free (f : Fld) (n : Nat) : (s.bump f n).free = s.free := rfl
@[simp] theorem State.bump_cpRegs (f : Fld) (n : Nat) : (s.bump f n).cpRegs = s.cpRegs := rfl
@[simp] theorem State.bump_store (f : Fld) (n : Nat) : (s.bump f n).store = s.store := rfl
@[simp] theorem State.bump_xlt (f : Fld) (n : Nat) : (s.bump f n).xlt = s.xlt := rfl
@[simp] theorem State.bump_fab (f : Fld) (n : Nat) : (s.bump f n).fab = s.fab := rfl
@[simp] theorem State.bump_dir (f : Fld) (n : Nat) : (s.bump f n).dir = s.dir := rfl
@[simp] theorem State.bump_rings (f : Fld) (n : Nat) : (s.bump f n).rings = s.rings := rfl
@[simp] theorem State.bump_cache (f : Fld) (n : Nat) : (s.bump f n).cache = s.cache := rfl
@[simp] theorem State.bump_plane (f : Fld) (n : Nat) : (s.bump f n).plane = s.plane := rfl
@[simp] theorem State.bump_sched (f : Fld) (n : Nat) : (s.bump f n).sched = s.sched := rfl
@[simp] theorem State.bump_comp (f : Fld) (n : Nat) : (s.bump f n).comp = s.comp := rfl
@[simp] theorem State.bump_mgmt (f : Fld) (n : Nat) : (s.bump f n).mgmt = s.mgmt := rfl
@[simp] theorem State.bump_log (f : Fld) (n : Nat) : (s.bump f n).log = s.log := rfl
@[simp] theorem State.bump_emb (f : Fld) (n : Nat) : (s.bump f n).emb = s.emb := rfl
@[simp] theorem State.bump_srch (f : Fld) (n : Nat) : (s.bump f n).srch = s.srch := rfl
@[simp] theorem State.bump_blk (f : Fld) (n : Nat) : (s.bump f n).blk = s.blk := rfl
@[simp] theorem State.bump_sec (f : Fld) (n : Nat) : (s.bump f n).sec = s.sec := rfl
@[simp] theorem State.bump_ports (f : Fld) (n : Nat) : (s.bump f n).ports = s.ports := rfl
@[simp] theorem State.bump_clk (f : Fld) (n : Nat) : (s.bump f n).clk = s.clk := rfl
@[simp] theorem State.bump_out (f : Fld) (n : Nat) : (s.bump f n).out = s.out := rfl

/-! ### `State.bumpSat` -/

@[simp] theorem State.bumpSat_pending (f : Fld) (n : Nat) : (s.bumpSat f n).pending = s.pending := rfl
@[simp] theorem State.bumpSat_now (f : Fld) (n : Nat) : (s.bumpSat f n).now = s.now := rfl
@[simp] theorem State.bumpSat_free (f : Fld) (n : Nat) : (s.bumpSat f n).free = s.free := rfl
@[simp] theorem State.bumpSat_cpRegs (f : Fld) (n : Nat) : (s.bumpSat f n).cpRegs = s.cpRegs := rfl
@[simp] theorem State.bumpSat_store (f : Fld) (n : Nat) : (s.bumpSat f n).store = s.store := rfl
@[simp] theorem State.bumpSat_xlt (f : Fld) (n : Nat) : (s.bumpSat f n).xlt = s.xlt := rfl
@[simp] theorem State.bumpSat_fab (f : Fld) (n : Nat) : (s.bumpSat f n).fab = s.fab := rfl
@[simp] theorem State.bumpSat_dir (f : Fld) (n : Nat) : (s.bumpSat f n).dir = s.dir := rfl
@[simp] theorem State.bumpSat_rings (f : Fld) (n : Nat) : (s.bumpSat f n).rings = s.rings := rfl
@[simp] theorem State.bumpSat_cache (f : Fld) (n : Nat) : (s.bumpSat f n).cache = s.cache := rfl
@[simp] theorem State.bumpSat_plane (f : Fld) (n : Nat) : (s.bumpSat f n).plane = s.plane := rfl
@[simp] theorem State.bumpSat_sched (f : Fld) (n : Nat) : (s.bumpSat f n).sched = s.sched := rfl
@[simp] theorem State.bumpSat_comp (f : Fld) (n : Nat) : (s.bumpSat f n).comp = s.comp := rfl
@[simp] theorem State.bumpSat_mgmt (f : Fld) (n : Nat) : (s.bumpSat f n).mgmt = s.mgmt := rfl
@[simp] theorem State.bumpSat_log (f : Fld) (n : Nat) : (s.bumpSat f n).log = s.log := rfl
@[simp] theorem State.bumpSat_emb (f : Fld) (n : Nat) : (s.bumpSat f n).emb = s.emb := rfl
@[simp] theorem State.bumpSat_srch (f : Fld) (n : Nat) : (s.bumpSat f n).srch = s.srch := rfl
@[simp] theorem State.bumpSat_blk (f : Fld) (n : Nat) : (s.bumpSat f n).blk = s.blk := rfl
@[simp] theorem State.bumpSat_sec (f : Fld) (n : Nat) : (s.bumpSat f n).sec = s.sec := rfl
@[simp] theorem State.bumpSat_ports (f : Fld) (n : Nat) : (s.bumpSat f n).ports = s.ports := rfl
@[simp] theorem State.bumpSat_clk (f : Fld) (n : Nat) : (s.bumpSat f n).clk = s.clk := rfl
@[simp] theorem State.bumpSat_out (f : Fld) (n : Nat) : (s.bumpSat f n).out = s.out := rfl

/-! ### `State.raiseTo` -/

@[simp] theorem State.raiseTo_pending (f : Fld) (v : Nat) : (s.raiseTo f v).pending = s.pending := rfl
@[simp] theorem State.raiseTo_now (f : Fld) (v : Nat) : (s.raiseTo f v).now = s.now := rfl
@[simp] theorem State.raiseTo_free (f : Fld) (v : Nat) : (s.raiseTo f v).free = s.free := rfl
@[simp] theorem State.raiseTo_cpRegs (f : Fld) (v : Nat) : (s.raiseTo f v).cpRegs = s.cpRegs := rfl
@[simp] theorem State.raiseTo_store (f : Fld) (v : Nat) : (s.raiseTo f v).store = s.store := rfl
@[simp] theorem State.raiseTo_xlt (f : Fld) (v : Nat) : (s.raiseTo f v).xlt = s.xlt := rfl
@[simp] theorem State.raiseTo_fab (f : Fld) (v : Nat) : (s.raiseTo f v).fab = s.fab := rfl
@[simp] theorem State.raiseTo_dir (f : Fld) (v : Nat) : (s.raiseTo f v).dir = s.dir := rfl
@[simp] theorem State.raiseTo_rings (f : Fld) (v : Nat) : (s.raiseTo f v).rings = s.rings := rfl
@[simp] theorem State.raiseTo_cache (f : Fld) (v : Nat) : (s.raiseTo f v).cache = s.cache := rfl
@[simp] theorem State.raiseTo_plane (f : Fld) (v : Nat) : (s.raiseTo f v).plane = s.plane := rfl
@[simp] theorem State.raiseTo_sched (f : Fld) (v : Nat) : (s.raiseTo f v).sched = s.sched := rfl
@[simp] theorem State.raiseTo_comp (f : Fld) (v : Nat) : (s.raiseTo f v).comp = s.comp := rfl
@[simp] theorem State.raiseTo_mgmt (f : Fld) (v : Nat) : (s.raiseTo f v).mgmt = s.mgmt := rfl
@[simp] theorem State.raiseTo_log (f : Fld) (v : Nat) : (s.raiseTo f v).log = s.log := rfl
@[simp] theorem State.raiseTo_emb (f : Fld) (v : Nat) : (s.raiseTo f v).emb = s.emb := rfl
@[simp] theorem State.raiseTo_srch (f : Fld) (v : Nat) : (s.raiseTo f v).srch = s.srch := rfl
@[simp] theorem State.raiseTo_blk (f : Fld) (v : Nat) : (s.raiseTo f v).blk = s.blk := rfl
@[simp] theorem State.raiseTo_sec (f : Fld) (v : Nat) : (s.raiseTo f v).sec = s.sec := rfl
@[simp] theorem State.raiseTo_ports (f : Fld) (v : Nat) : (s.raiseTo f v).ports = s.ports := rfl
@[simp] theorem State.raiseTo_clk (f : Fld) (v : Nat) : (s.raiseTo f v).clk = s.clk := rfl
@[simp] theorem State.raiseTo_out (f : Fld) (v : Nat) : (s.raiseTo f v).out = s.out := rfl

/-! ### `State.upto` -/

@[simp] theorem State.upto_pending (t : Nat) : (s.upto t).pending = s.pending := rfl
@[simp] theorem State.upto_free (t : Nat) : (s.upto t).free = s.free := rfl
@[simp] theorem State.upto_regs (t : Nat) : (s.upto t).regs = s.regs := rfl
@[simp] theorem State.upto_cpRegs (t : Nat) : (s.upto t).cpRegs = s.cpRegs := rfl
@[simp] theorem State.upto_store (t : Nat) : (s.upto t).store = s.store := rfl
@[simp] theorem State.upto_xlt (t : Nat) : (s.upto t).xlt = s.xlt := rfl
@[simp] theorem State.upto_fab (t : Nat) : (s.upto t).fab = s.fab := rfl
@[simp] theorem State.upto_dir (t : Nat) : (s.upto t).dir = s.dir := rfl
@[simp] theorem State.upto_rings (t : Nat) : (s.upto t).rings = s.rings := rfl
@[simp] theorem State.upto_cache (t : Nat) : (s.upto t).cache = s.cache := rfl
@[simp] theorem State.upto_plane (t : Nat) : (s.upto t).plane = s.plane := rfl
@[simp] theorem State.upto_sched (t : Nat) : (s.upto t).sched = s.sched := rfl
@[simp] theorem State.upto_comp (t : Nat) : (s.upto t).comp = s.comp := rfl
@[simp] theorem State.upto_mgmt (t : Nat) : (s.upto t).mgmt = s.mgmt := rfl
@[simp] theorem State.upto_log (t : Nat) : (s.upto t).log = s.log := rfl
@[simp] theorem State.upto_emb (t : Nat) : (s.upto t).emb = s.emb := rfl
@[simp] theorem State.upto_srch (t : Nat) : (s.upto t).srch = s.srch := rfl
@[simp] theorem State.upto_blk (t : Nat) : (s.upto t).blk = s.blk := rfl
@[simp] theorem State.upto_sec (t : Nat) : (s.upto t).sec = s.sec := rfl
@[simp] theorem State.upto_ports (t : Nat) : (s.upto t).ports = s.ports := rfl
@[simp] theorem State.upto_clk (t : Nat) : (s.upto t).clk = s.clk := rfl
@[simp] theorem State.upto_out (t : Nat) : (s.upto t).out = s.out := rfl
@[simp] theorem State.upto_get (t : Nat) (r : Fld) : (s.upto t).get r = s.get r := rfl
@[simp] theorem State.upto_flag (t : Nat) (r : Fld) : (s.upto t).flag r = s.flag r := rfl

/-! ### `State.emit` -/

@[simp] theorem State.emit_pending (o : Out) : (s.emit o).pending = s.pending := rfl
@[simp] theorem State.emit_now (o : Out) : (s.emit o).now = s.now := rfl
@[simp] theorem State.emit_free (o : Out) : (s.emit o).free = s.free := rfl
@[simp] theorem State.emit_regs (o : Out) : (s.emit o).regs = s.regs := rfl
@[simp] theorem State.emit_cpRegs (o : Out) : (s.emit o).cpRegs = s.cpRegs := rfl
@[simp] theorem State.emit_store (o : Out) : (s.emit o).store = s.store := rfl
@[simp] theorem State.emit_xlt (o : Out) : (s.emit o).xlt = s.xlt := rfl
@[simp] theorem State.emit_fab (o : Out) : (s.emit o).fab = s.fab := rfl
@[simp] theorem State.emit_dir (o : Out) : (s.emit o).dir = s.dir := rfl
@[simp] theorem State.emit_rings (o : Out) : (s.emit o).rings = s.rings := rfl
@[simp] theorem State.emit_cache (o : Out) : (s.emit o).cache = s.cache := rfl
@[simp] theorem State.emit_plane (o : Out) : (s.emit o).plane = s.plane := rfl
@[simp] theorem State.emit_sched (o : Out) : (s.emit o).sched = s.sched := rfl
@[simp] theorem State.emit_comp (o : Out) : (s.emit o).comp = s.comp := rfl
@[simp] theorem State.emit_mgmt (o : Out) : (s.emit o).mgmt = s.mgmt := rfl
@[simp] theorem State.emit_log (o : Out) : (s.emit o).log = s.log := rfl
@[simp] theorem State.emit_emb (o : Out) : (s.emit o).emb = s.emb := rfl
@[simp] theorem State.emit_srch (o : Out) : (s.emit o).srch = s.srch := rfl
@[simp] theorem State.emit_blk (o : Out) : (s.emit o).blk = s.blk := rfl
@[simp] theorem State.emit_sec (o : Out) : (s.emit o).sec = s.sec := rfl
@[simp] theorem State.emit_ports (o : Out) : (s.emit o).ports = s.ports := rfl
@[simp] theorem State.emit_clk (o : Out) : (s.emit o).clk = s.clk := rfl
@[simp] theorem State.emit_get (o : Out) (r : Fld) : (s.emit o).get r = s.get r := rfl
@[simp] theorem State.emit_flag (o : Out) (r : Fld) : (s.emit o).flag r = s.flag r := rfl

/-! ### `State.putByte` -/

@[simp] theorem State.putByte_pending (a : Nat) (b : Byte) : (s.putByte a b).pending = s.pending := rfl
@[simp] theorem State.putByte_now (a : Nat) (b : Byte) : (s.putByte a b).now = s.now := rfl
@[simp] theorem State.putByte_free (a : Nat) (b : Byte) : (s.putByte a b).free = s.free := rfl
@[simp] theorem State.putByte_regs (a : Nat) (b : Byte) : (s.putByte a b).regs = s.regs := rfl
@[simp] theorem State.putByte_cpRegs (a : Nat) (b : Byte) : (s.putByte a b).cpRegs = s.cpRegs := rfl
@[simp] theorem State.putByte_xlt (a : Nat) (b : Byte) : (s.putByte a b).xlt = s.xlt := rfl
@[simp] theorem State.putByte_fab (a : Nat) (b : Byte) : (s.putByte a b).fab = s.fab := rfl
@[simp] theorem State.putByte_dir (a : Nat) (b : Byte) : (s.putByte a b).dir = s.dir := rfl
@[simp] theorem State.putByte_rings (a : Nat) (b : Byte) : (s.putByte a b).rings = s.rings := rfl
@[simp] theorem State.putByte_cache (a : Nat) (b : Byte) : (s.putByte a b).cache = s.cache := rfl
@[simp] theorem State.putByte_plane (a : Nat) (b : Byte) : (s.putByte a b).plane = s.plane := rfl
@[simp] theorem State.putByte_sched (a : Nat) (b : Byte) : (s.putByte a b).sched = s.sched := rfl
@[simp] theorem State.putByte_comp (a : Nat) (b : Byte) : (s.putByte a b).comp = s.comp := rfl
@[simp] theorem State.putByte_mgmt (a : Nat) (b : Byte) : (s.putByte a b).mgmt = s.mgmt := rfl
@[simp] theorem State.putByte_log (a : Nat) (b : Byte) : (s.putByte a b).log = s.log := rfl
@[simp] theorem State.putByte_emb (a : Nat) (b : Byte) : (s.putByte a b).emb = s.emb := rfl
@[simp] theorem State.putByte_srch (a : Nat) (b : Byte) : (s.putByte a b).srch = s.srch := rfl
@[simp] theorem State.putByte_blk (a : Nat) (b : Byte) : (s.putByte a b).blk = s.blk := rfl
@[simp] theorem State.putByte_sec (a : Nat) (b : Byte) : (s.putByte a b).sec = s.sec := rfl
@[simp] theorem State.putByte_ports (a : Nat) (b : Byte) : (s.putByte a b).ports = s.ports := rfl
@[simp] theorem State.putByte_clk (a : Nat) (b : Byte) : (s.putByte a b).clk = s.clk := rfl
@[simp] theorem State.putByte_out (a : Nat) (b : Byte) : (s.putByte a b).out = s.out := rfl
@[simp] theorem State.putByte_get (a : Nat) (b : Byte) (r : Fld) : (s.putByte a b).get r = s.get r := rfl
@[simp] theorem State.putByte_flag (a : Nat) (b : Byte) (r : Fld) : (s.putByte a b).flag r = s.flag r := rfl

/-! ### `State.zeroPage` -/

@[simp] theorem State.zeroPage_pending (p : Nat) : (s.zeroPage p).pending = s.pending := rfl
@[simp] theorem State.zeroPage_now (p : Nat) : (s.zeroPage p).now = s.now := rfl
@[simp] theorem State.zeroPage_free (p : Nat) : (s.zeroPage p).free = s.free := rfl
@[simp] theorem State.zeroPage_regs (p : Nat) : (s.zeroPage p).regs = s.regs := rfl
@[simp] theorem State.zeroPage_cpRegs (p : Nat) : (s.zeroPage p).cpRegs = s.cpRegs := rfl
@[simp] theorem State.zeroPage_xlt (p : Nat) : (s.zeroPage p).xlt = s.xlt := rfl
@[simp] theorem State.zeroPage_fab (p : Nat) : (s.zeroPage p).fab = s.fab := rfl
@[simp] theorem State.zeroPage_dir (p : Nat) : (s.zeroPage p).dir = s.dir := rfl
@[simp] theorem State.zeroPage_rings (p : Nat) : (s.zeroPage p).rings = s.rings := rfl
@[simp] theorem State.zeroPage_cache (p : Nat) : (s.zeroPage p).cache = s.cache := rfl
@[simp] theorem State.zeroPage_plane (p : Nat) : (s.zeroPage p).plane = s.plane := rfl
@[simp] theorem State.zeroPage_sched (p : Nat) : (s.zeroPage p).sched = s.sched := rfl
@[simp] theorem State.zeroPage_comp (p : Nat) : (s.zeroPage p).comp = s.comp := rfl
@[simp] theorem State.zeroPage_mgmt (p : Nat) : (s.zeroPage p).mgmt = s.mgmt := rfl
@[simp] theorem State.zeroPage_log (p : Nat) : (s.zeroPage p).log = s.log := rfl
@[simp] theorem State.zeroPage_emb (p : Nat) : (s.zeroPage p).emb = s.emb := rfl
@[simp] theorem State.zeroPage_srch (p : Nat) : (s.zeroPage p).srch = s.srch := rfl
@[simp] theorem State.zeroPage_blk (p : Nat) : (s.zeroPage p).blk = s.blk := rfl
@[simp] theorem State.zeroPage_sec (p : Nat) : (s.zeroPage p).sec = s.sec := rfl
@[simp] theorem State.zeroPage_ports (p : Nat) : (s.zeroPage p).ports = s.ports := rfl
@[simp] theorem State.zeroPage_clk (p : Nat) : (s.zeroPage p).clk = s.clk := rfl
@[simp] theorem State.zeroPage_out (p : Nat) : (s.zeroPage p).out = s.out := rfl
@[simp] theorem State.zeroPage_get (p : Nat) (r : Fld) : (s.zeroPage p).get r = s.get r := rfl
@[simp] theorem State.zeroPage_flag (p : Nat) (r : Fld) : (s.zeroPage p).flag r = s.flag r := rfl

/-! ### `State.putRing` -/

@[simp] theorem State.putRing_pending (g : Nat) (r : Ring) : (s.putRing g r).pending = s.pending := rfl
@[simp] theorem State.putRing_now (g : Nat) (r : Ring) : (s.putRing g r).now = s.now := rfl
@[simp] theorem State.putRing_free (g : Nat) (r : Ring) : (s.putRing g r).free = s.free := rfl
@[simp] theorem State.putRing_regs (g : Nat) (r : Ring) : (s.putRing g r).regs = s.regs := rfl
@[simp] theorem State.putRing_cpRegs (g : Nat) (r : Ring) : (s.putRing g r).cpRegs = s.cpRegs := rfl
@[simp] theorem State.putRing_store (g : Nat) (r : Ring) : (s.putRing g r).store = s.store := rfl
@[simp] theorem State.putRing_xlt (g : Nat) (r : Ring) : (s.putRing g r).xlt = s.xlt := rfl
@[simp] theorem State.putRing_fab (g : Nat) (r : Ring) : (s.putRing g r).fab = s.fab := rfl
@[simp] theorem State.putRing_dir (g : Nat) (r : Ring) : (s.putRing g r).dir = s.dir := rfl
@[simp] theorem State.putRing_cache (g : Nat) (r : Ring) : (s.putRing g r).cache = s.cache := rfl
@[simp] theorem State.putRing_plane (g : Nat) (r : Ring) : (s.putRing g r).plane = s.plane := rfl
@[simp] theorem State.putRing_sched (g : Nat) (r : Ring) : (s.putRing g r).sched = s.sched := rfl
@[simp] theorem State.putRing_comp (g : Nat) (r : Ring) : (s.putRing g r).comp = s.comp := rfl
@[simp] theorem State.putRing_mgmt (g : Nat) (r : Ring) : (s.putRing g r).mgmt = s.mgmt := rfl
@[simp] theorem State.putRing_log (g : Nat) (r : Ring) : (s.putRing g r).log = s.log := rfl
@[simp] theorem State.putRing_emb (g : Nat) (r : Ring) : (s.putRing g r).emb = s.emb := rfl
@[simp] theorem State.putRing_srch (g : Nat) (r : Ring) : (s.putRing g r).srch = s.srch := rfl
@[simp] theorem State.putRing_blk (g : Nat) (r : Ring) : (s.putRing g r).blk = s.blk := rfl
@[simp] theorem State.putRing_sec (g : Nat) (r : Ring) : (s.putRing g r).sec = s.sec := rfl
@[simp] theorem State.putRing_ports (g : Nat) (r : Ring) : (s.putRing g r).ports = s.ports := rfl
@[simp] theorem State.putRing_clk (g : Nat) (r : Ring) : (s.putRing g r).clk = s.clk := rfl
@[simp] theorem State.putRing_out (g : Nat) (r : Ring) : (s.putRing g r).out = s.out := rfl
@[simp] theorem State.putRing_get (g : Nat) (r : Ring) (f : Fld) : (s.putRing g r).get f = s.get f := rfl
@[simp] theorem State.putRing_flag (g : Nat) (r : Ring) (f : Fld) : (s.putRing g r).flag f = s.flag f := rfl

/-! ### `putJob` -/

@[simp] theorem putJob_pending (j : Job) : (putJob s j).pending = s.pending := rfl
@[simp] theorem putJob_now (j : Job) : (putJob s j).now = s.now := rfl
@[simp] theorem putJob_free (j : Job) : (putJob s j).free = s.free := rfl
@[simp] theorem putJob_regs (j : Job) : (putJob s j).regs = s.regs := rfl
@[simp] theorem putJob_cpRegs (j : Job) : (putJob s j).cpRegs = s.cpRegs := rfl
@[simp] theorem putJob_store (j : Job) : (putJob s j).store = s.store := rfl
@[simp] theorem putJob_xlt (j : Job) : (putJob s j).xlt = s.xlt := rfl
@[simp] theorem putJob_fab (j : Job) : (putJob s j).fab = s.fab := rfl
@[simp] theorem putJob_dir (j : Job) : (putJob s j).dir = s.dir := rfl
@[simp] theorem putJob_cache (j : Job) : (putJob s j).cache = s.cache := rfl
@[simp] theorem putJob_plane (j : Job) : (putJob s j).plane = s.plane := rfl
@[simp] theorem putJob_sched (j : Job) : (putJob s j).sched = s.sched := rfl
@[simp] theorem putJob_comp (j : Job) : (putJob s j).comp = s.comp := rfl
@[simp] theorem putJob_mgmt (j : Job) : (putJob s j).mgmt = s.mgmt := rfl
@[simp] theorem putJob_log (j : Job) : (putJob s j).log = s.log := rfl
@[simp] theorem putJob_emb (j : Job) : (putJob s j).emb = s.emb := rfl
@[simp] theorem putJob_srch (j : Job) : (putJob s j).srch = s.srch := rfl
@[simp] theorem putJob_blk (j : Job) : (putJob s j).blk = s.blk := rfl
@[simp] theorem putJob_sec (j : Job) : (putJob s j).sec = s.sec := rfl
@[simp] theorem putJob_ports (j : Job) : (putJob s j).ports = s.ports := rfl
@[simp] theorem putJob_clk (j : Job) : (putJob s j).clk = s.clk := rfl
@[simp] theorem putJob_out (j : Job) : (putJob s j).out = s.out := rfl
@[simp] theorem putJob_get (j : Job) (r : Fld) : (putJob s j).get r = s.get r := rfl
@[simp] theorem putJob_flag (j : Job) (r : Fld) : (putJob s j).flag r = s.flag r := rfl

/-! ### `setPort` -/

@[simp] theorem setPort_pending (p : Nat) (g : PortSt → PortSt) : (setPort s p g).pending = s.pending := rfl
@[simp] theorem setPort_now (p : Nat) (g : PortSt → PortSt) : (setPort s p g).now = s.now := rfl
@[simp] theorem setPort_free (p : Nat) (g : PortSt → PortSt) : (setPort s p g).free = s.free := rfl
@[simp] theorem setPort_regs (p : Nat) (g : PortSt → PortSt) : (setPort s p g).regs = s.regs := rfl
@[simp] theorem setPort_cpRegs (p : Nat) (g : PortSt → PortSt) : (setPort s p g).cpRegs = s.cpRegs := rfl
@[simp] theorem setPort_store (p : Nat) (g : PortSt → PortSt) : (setPort s p g).store = s.store := rfl
@[simp] theorem setPort_xlt (p : Nat) (g : PortSt → PortSt) : (setPort s p g).xlt = s.xlt := rfl
@[simp] theorem setPort_fab (p : Nat) (g : PortSt → PortSt) : (setPort s p g).fab = s.fab := rfl
@[simp] theorem setPort_dir (p : Nat) (g : PortSt → PortSt) : (setPort s p g).dir = s.dir := rfl
@[simp] theorem setPort_rings (p : Nat) (g : PortSt → PortSt) : (setPort s p g).rings = s.rings := rfl
@[simp] theorem setPort_cache (p : Nat) (g : PortSt → PortSt) : (setPort s p g).cache = s.cache := rfl
@[simp] theorem setPort_plane (p : Nat) (g : PortSt → PortSt) : (setPort s p g).plane = s.plane := rfl
@[simp] theorem setPort_sched (p : Nat) (g : PortSt → PortSt) : (setPort s p g).sched = s.sched := rfl
@[simp] theorem setPort_comp (p : Nat) (g : PortSt → PortSt) : (setPort s p g).comp = s.comp := rfl
@[simp] theorem setPort_mgmt (p : Nat) (g : PortSt → PortSt) : (setPort s p g).mgmt = s.mgmt := rfl
@[simp] theorem setPort_log (p : Nat) (g : PortSt → PortSt) : (setPort s p g).log = s.log := rfl
@[simp] theorem setPort_emb (p : Nat) (g : PortSt → PortSt) : (setPort s p g).emb = s.emb := rfl
@[simp] theorem setPort_srch (p : Nat) (g : PortSt → PortSt) : (setPort s p g).srch = s.srch := rfl
@[simp] theorem setPort_blk (p : Nat) (g : PortSt → PortSt) : (setPort s p g).blk = s.blk := rfl
@[simp] theorem setPort_sec (p : Nat) (g : PortSt → PortSt) : (setPort s p g).sec = s.sec := rfl
@[simp] theorem setPort_clk (p : Nat) (g : PortSt → PortSt) : (setPort s p g).clk = s.clk := rfl
@[simp] theorem setPort_out (p : Nat) (g : PortSt → PortSt) : (setPort s p g).out = s.out := rfl
@[simp] theorem setPort_get (p : Nat) (g : PortSt → PortSt) (r : Fld) : (setPort s p g).get r = s.get r := rfl
@[simp] theorem setPort_flag (p : Nat) (g : PortSt → PortSt) (r : Fld) : (setPort s p g).flag r = s.flag r := rfl

/-! ### `telem` -/

@[simp] theorem telem_pending (d : Nat) (g : Telem → Telem) : (telem s d g).pending = s.pending := rfl
@[simp] theorem telem_now (d : Nat) (g : Telem → Telem) : (telem s d g).now = s.now := rfl
@[simp] theorem telem_free (d : Nat) (g : Telem → Telem) : (telem s d g).free = s.free := rfl
@[simp] theorem telem_regs (d : Nat) (g : Telem → Telem) : (telem s d g).regs = s.regs := rfl
@[simp] theorem telem_cpRegs (d : Nat) (g : Telem → Telem) : (telem s d g).cpRegs = s.cpRegs := rfl
@[simp] theorem telem_store (d : Nat) (g : Telem → Telem) : (telem s d g).store = s.store := rfl
@[simp] theorem telem_xlt (d : Nat) (g : Telem → Telem) : (telem s d g).xlt = s.xlt := rfl
@[simp] theorem telem_fab (d : Nat) (g : Telem → Telem) : (telem s d g).fab = s.fab := rfl
@[simp] theorem telem_dir (d : Nat) (g : Telem → Telem) : (telem s d g).dir = s.dir := rfl
@[simp] theorem telem_rings (d : Nat) (g : Telem → Telem) : (telem s d g).rings = s.rings := rfl
@[simp] theorem telem_cache (d : Nat) (g : Telem → Telem) : (telem s d g).cache = s.cache := rfl
@[simp] theorem telem_plane (d : Nat) (g : Telem → Telem) : (telem s d g).plane = s.plane := rfl
@[simp] theorem telem_sched (d : Nat) (g : Telem → Telem) : (telem s d g).sched = s.sched := rfl
@[simp] theorem telem_comp (d : Nat) (g : Telem → Telem) : (telem s d g).comp = s.comp := rfl
@[simp] theorem telem_log (d : Nat) (g : Telem → Telem) : (telem s d g).log = s.log := rfl
@[simp] theorem telem_emb (d : Nat) (g : Telem → Telem) : (telem s d g).emb = s.emb := rfl
@[simp] theorem telem_srch (d : Nat) (g : Telem → Telem) : (telem s d g).srch = s.srch := rfl
@[simp] theorem telem_blk (d : Nat) (g : Telem → Telem) : (telem s d g).blk = s.blk := rfl
@[simp] theorem telem_sec (d : Nat) (g : Telem → Telem) : (telem s d g).sec = s.sec := rfl
@[simp] theorem telem_ports (d : Nat) (g : Telem → Telem) : (telem s d g).ports = s.ports := rfl
@[simp] theorem telem_clk (d : Nat) (g : Telem → Telem) : (telem s d g).clk = s.clk := rfl
@[simp] theorem telem_out (d : Nat) (g : Telem → Telem) : (telem s d g).out = s.out := rfl
@[simp] theorem telem_get (d : Nat) (g : Telem → Telem) (r : Fld) : (telem s d g).get r = s.get r := rfl
@[simp] theorem telem_flag (d : Nat) (g : Telem → Telem) (r : Fld) : (telem s d g).flag r = s.flag r := rfl

/-! ### What the updates change -/

@[simp] theorem State.upto_now (t : Nat) : (s.upto t).now = max s.now t := rfl
@[simp] theorem State.emit_out (o : Out) : (s.emit o).out = s.out ++ [o] := rfl
@[simp] theorem State.putByte_mem (a : Nat) (b : Byte) : (s.putByte a b).store.mem = tabPutD 0 a b s.store.mem := rfl
@[simp] theorem State.putByte_pages (a : Nat) (b : Byte) : (s.putByte a b).store.pages = s.store.pages := rfl
@[simp] theorem State.putRing_qcs (g : Nat) (r : Ring) : (s.putRing g r).rings.qcs = tabPut g r s.rings.qcs := rfl
@[simp] theorem State.putRing_jobs (g : Nat) (r : Ring) : (s.putRing g r).rings.jobs = s.rings.jobs := rfl
@[simp] theorem putJob_qcs (j : Job) : (putJob s j).rings.qcs = s.rings.qcs := rfl
@[simp] theorem putJob_ring (j : Job) (g : Nat) : (putJob s j).ring g = s.ring g := rfl

/-- A queue context reads as it was last stored. -/
@[simp] theorem State.ring_putRing_same (g : Nat) (r : Ring) : (s.putRing g r).ring g = r := by
  simp [State.ring, State.putRing]

/-- Storing a queue context leaves every other one. -/
theorem State.ring_putRing_ne {g h : Nat} (r : Ring) (hne : h ≠ g) : (s.putRing g r).ring h = s.ring h := by
  simp only [State.ring, State.putRing]
  exact tabGet_tabPut_ne _ _ hne

/-- A field reads as the value last set, truncated to its width. -/
@[simp] theorem State.get_set_same (f : Fld) (v : Nat) : (s.set f v).get f = v % 2 ^ f.wid := by
  simp [State.get, State.set]

/-- Setting a field leaves every other field of the register map. -/
theorem State.get_set_ne {f g : Fld} (v : Nat) (h : g.key ≠ f.key) : (s.set f v).get g = s.get g := by
  simp only [State.get, State.set]
  exact tabGet_tabPutD_ne _ _ h

theorem State.flag_set_ne {f g : Fld} (v : Nat) (h : g.key ≠ f.key) : (s.set f v).flag g = s.flag g := by
  simp only [State.flag, State.get_set_ne s v h]

/-- A flag reads as it was last set. -/
theorem State.flag_setFlag_same (f : Fld) (b : Bool) (h : 0 < f.wid) : (s.setFlag f b).flag f = b := by
  have h2 : 1 < 2 ^ f.wid := Nat.one_lt_two_pow (by omega)
  unfold State.flag State.setFlag
  rw [State.get_set_same]
  cases b
  · simp
  · simp [Nat.mod_eq_of_lt h2]

theorem State.get_setFlag_ne {f g : Fld} (b : Bool) (h : g.key ≠ f.key) : (s.setFlag f b).get g = s.get g := State.get_set_ne s _ h

theorem State.flag_setFlag_ne {f g : Fld} (b : Bool) (h : g.key ≠ f.key) : (s.setFlag f b).flag g = s.flag g := State.flag_set_ne s _ h

/-- A wrapping counter goes up by what it is raised by, in its width. -/
@[simp] theorem State.get_bump_same (f : Fld) (n : Nat) : (s.bump f n).get f = (s.get f + n) % 2 ^ f.wid := State.get_set_same s _ _

theorem State.get_bump_ne {f g : Fld} (n : Nat) (h : g.key ≠ f.key) : (s.bump f n).get g = s.get g := State.get_set_ne s _ h

/-- A saturating counter goes up by what it is raised by, and stays at its largest value. -/
@[simp] theorem State.get_bumpSat_same (f : Fld) (n : Nat) : (s.bumpSat f n).get f = min (s.get f + n) (2 ^ f.wid - 1) := by
  unfold State.bumpSat
  rw [State.get_set_same]
  have h : 0 < 2 ^ f.wid := Nat.two_pow_pos _
  exact Nat.mod_eq_of_lt (by omega)

theorem State.get_bumpSat_ne {f g : Fld} (n : Nat) (h : g.key ≠ f.key) : (s.bumpSat f n).get g = s.get g := State.get_set_ne s _ h

theorem State.get_raiseTo_ne {f g : Fld} (v : Nat) (h : g.key ≠ f.key) : (s.raiseTo f v).get g = s.get g := State.get_set_ne s _ h

end Sys2Proof.Machine
end

