-- ==== Sys2Proof/Laws/Access.lean ====
section
/-! SUPPORT. Once for all: what a management-port write does while the port is open and while it is not, how a descriptor's row that may start
runs, and which register fields an update changes. -/

namespace Sys2Proof.Machine

open Sys2Proof

/-- While the port is open a write has its effect. -/
theorem mgmtWrite_open {s : State} (h : PortOpen s) (served : Bool) (go : State → State) :
    mgmtWrite served s go = go (answeredState s) := by
  obtain ⟨h1, h2, h3⟩ := h
  have hd : deepNoWake s = false := by simp [deepNoWake, h2]
  have ht : mgmtTouch s = answeredState s := by
    have h2' : ¬ ({ s with mgmt := { s.mgmt with answered := s.mgmt.answered || !s.clk.off } } : State).get F.PWR_STATUS_STATE = 2 := h2
    unfold mgmtTouch
    simp only [h2', false_and, if_false]
    simp [answeredState, h1]
  have hw : takesWrites (answeredState s) = true := h3
  simp [mgmtWrite, mgmtAccess, h1, hd, ht, hw]

theorem PortOpen.upto {s : State} (h : PortOpen s) (t : Nat) : PortOpen (s.upto t) := h

/-- Without its supply the device sees no access. -/
theorem mgmtWrite_off {s : State} (h : s.clk.off = true) (served : Bool) (go : State → State) : mgmtWrite served s go = s := by
  simp [mgmtWrite, mgmtAccess, h]

/-- A register field of the state with a new record elsewhere. -/
@[simp] theorem answeredState_get (s : State) (f : Fld) : (answeredState s).get f = s.get f := rfl
@[simp] theorem answeredState_flag (s : State) (f : Fld) : (answeredState s).flag f = s.flag f := rfl

theorem OnlyFields.refl (ks : List Nat) (s : State) : OnlyFields ks s s := ⟨fun _ _ => rfl, rfl⟩

theorem OnlyFields.set {ks : List Nat} {s t : State} (h : OnlyFields ks s t) (f : Fld) (v : Nat) (hf : f.key ∈ ks) :
    OnlyFields ks s (t.set f v) := by
  refine ⟨fun g hg => ?_, h.2⟩
  rw [State.get_set_ne]
  · exact h.1 g hg
  · rintro e; exact hg (e ▸ hf)

theorem OnlyFields.setFlag {ks : List Nat} {s t : State} (h : OnlyFields ks s t) (f : Fld) (b : Bool) (hf : f.key ∈ ks) :
    OnlyFields ks s (t.setFlag f b) := h.set f _ hf

theorem OnlyFields.bump {ks : List Nat} {s t : State} (h : OnlyFields ks s t) (f : Fld) (n : Nat) (hf : f.key ∈ ks) :
    OnlyFields ks s (t.bump f n) := h.set f _ hf

theorem OnlyFields.bumpSat {ks : List Nat} {s t : State} (h : OnlyFields ks s t) (f : Fld) (n : Nat) (hf : f.key ∈ ks) :
    OnlyFields ks s (t.bumpSat f n) := h.set f _ hf

/-- A descriptor that may start runs its opcode's effect. -/
theorem runDesc_ready {s : State} {d : Desc} {op unit : Nat} {j : Job} (h : Ready s d op unit j) (eff : State → Job → State) :
    runDesc s d op unit eff = rowEnd s j (eff (startState s d unit) (started j unit)) := by
  obtain ⟨hf, hw, ho, hq, hm, hu⟩ := h
  have hf' : findJob (s.upto d.t) d.ring.val d.idx.val = some j := hf
  have hu' : unitReady (s.upto d.t) op unit = true := hu
  unfold runDesc
  have e : ¬ (j.words ≠ d.words ∨ descOp j.words ≠ op) := by rw [hw, ho]; simp
  simp only [hf', e, if_false, hq, hm, hu', Bool.and_self, if_true]
  simp [rowEnd, startState, started]

/-- A descriptor that has begun goes on. -/
theorem runDesc_going {s : State} {d : Desc} {op unit : Nat} {j : Job} (h : Going s d op unit j) (eff : State → Job → State) :
    runDesc s d op unit eff = rowEnd s j (eff (s.upto d.t) j) := by
  obtain ⟨hf, hw, ho, hq, hm, hu⟩ := h
  have hf' : findJob (s.upto d.t) d.ring.val d.idx.val = some j := hf
  have hu' : unitReady (s.upto d.t) op unit = true := hu
  have e : ¬ (j.words ≠ d.words ∨ descOp j.words ≠ op) := by rw [hw, ho]; simp
  unfold runDesc
  rcases hq with hq | hq <;> simp only [hf', e, if_false, hq, hm, hu'] <;> simp [rowEnd]

/-- The same for a descriptor of an engine. -/
theorem engineRow_ready {s : State} {d : Desc} {op unit : Nat} {j : Job} {unitOf : State → Job → Nat} {en : State → Bool}
    (h : Ready s d op unit j) (h0 : j.phase = 0) (hu : unitOf (s.upto d.t) j = unit) (he : en (startState s d unit) = true)
    (go : State → Job → State) :
    engineRow op d unitOf en go s = rowEnd s j (go (startState s d unit) (started j unit)) := by
  have hf' : findJob (s.upto d.t) d.ring.val d.idx.val = some j := h.1
  have e : (s.upto d.t).upto d.t = s.upto d.t := by simp [State.upto]
  have hm : mayStart ((s.upto d.t).upto d.t) j unit = true := by rw [e]; exact h.2.2.2.2.1
  have h' : Ready (s.upto d.t) d op unit j := ⟨hf', h.2.1, h.2.2.1, h.2.2.2.1, hm, h.2.2.2.2.2⟩
  have hs : startState (s.upto d.t) d unit = startState s d unit := by simp only [startState, e]
  have hp : (started j unit).phase = 0 := h0
  unfold engineRow
  simp only [hf', h0, hu, if_true, runDesc_ready h', hs, he, hp, Bool.not_true, and_false, Bool.false_eq_true, if_false]
  rfl

end Sys2Proof.Machine
end

