-- ==== Sys2Proof/Laws/Faults.lean ====
section
/-! SUPPORT. Fault records: what raising an interrupt, queueing a record and posting one leave. -/

namespace Sys2Proof.Machine

open Sys2Proof

/-- Raising an interrupt changes only the interrupt status and the messages. -/
theorem raiseIrq_frame (s : State) (b : Nat) :
    (raiseIrq s b).cpRegs = s.cpRegs ∧ (raiseIrq s b).xlt = s.xlt ∧ (raiseIrq s b).store = s.store ∧
      ∀ f : Fld, f.key ≠ F.MGT_IRQ_STATUS_SOURCES.key → (raiseIrq s b).get f = s.get f := by
  unfold raiseIrq
  dsimp only
  split
  · exact ⟨by simp, by simp, by simp, fun f h => by simp [State.get_set_ne _ _ h]⟩
  · split
    · exact ⟨by simp, by simp, by simp, fun f h => by simp [State.get_set_ne _ _ h]⟩
    · unfold sendMsix
      split
      · exact ⟨by simp, by simp, by simp, fun f h => by simp [State.get_set_ne _ _ h]⟩
      · exact ⟨rfl, rfl, rfl, fun f h => State.get_set_ne _ _ h⟩

/-- A record that is queued stands last in the fault queue (R109). -/
theorem enqueueFault_frame (s : State) (r : FaultRec) :
    (enqueueFault s r).cpRegs = s.cpRegs ∧ (enqueueFault s r).xlt.queue = s.xlt.queue ++ [r] ∧ (enqueueFault s r).xlt.late = s.xlt.late ∧
      (enqueueFault s r).store = s.store ∧
      ∀ f : Fld, f.key ∉ [F.XLT_FQ_PTRS_TAIL.key, F.XLT_FQ_PTRS_TAIL_WRAP.key, F.XLT_FQ_STATUS_SQUALL.key, F.XLT_SQUALL_STATS_ENTRIES.key,
        F.MGT_IRQ_STATUS_SOURCES.key] → (enqueueFault s r).get f = s.get f := by
  unfold enqueueFault
  dsimp only
  refine ⟨?_, ?_, ?_, ?_, ?_⟩
  · split <;> split <;> (try rw [(raiseIrq_frame _ _).1]) <;> simp
  · split <;> split <;> (try rw [(raiseIrq_frame _ _).2.1]) <;> simp
  · split <;> split <;> (try rw [(raiseIrq_frame _ _).2.1]) <;> simp
  · split <;> split <;> (try rw [(raiseIrq_frame _ _).2.2.1]) <;> simp
  · intro f hf
    simp only [List.mem_cons, List.mem_nil_iff, or_false, not_or] at hf
    obtain ⟨h1, h2, h3, h4, h5⟩ := hf
    split <;> split <;> (try rw [(raiseIrq_frame _ _).2.2.2 f h5]) <;>
      simp [State.get_set_ne _ _ h1, State.get_set_ne _ _ h2, State.get_setFlag_ne _ _ h3, State.get_bump_ne _ _ h4] <;> rfl

/-- A record that is posted, stamped with its number and time, stands last in the fault queue, or last among those that met it full (R116). -/
theorem postFault_frame (s : State) (r : FaultRec) :
    (postFault s r).cpRegs = s.cpRegs ∧ (postFault s r).store = s.store ∧
      (∃ x : FaultRec, x.kind = r.kind ∧ x.source = r.source ∧ x.detail = r.detail ∧
        ((postFault s r).xlt.queue = s.xlt.queue ++ [x] ∨ (postFault s r).xlt.late = s.xlt.late ++ [.record x])) ∧
      ∀ f : Fld, f.key ∉ [F.XLT_FQ_PTRS_TAIL.key, F.XLT_FQ_PTRS_TAIL_WRAP.key, F.XLT_FQ_STATUS_SQUALL.key, F.XLT_SQUALL_STATS_ENTRIES.key,
        F.MGT_IRQ_STATUS_SOURCES.key] → (postFault s r).get f = s.get f := by
  unfold postFault stampFault
  dsimp only
  split
  · obtain ⟨h1, h2, h3, h4, h5⟩ := enqueueFault_frame { s with xlt := { s.xlt with seq := (s.xlt.seq + 1) % 2 ^ 32 } }
      { r with seq := s.xlt.seq, time := s.now }
    exact ⟨h1, h4, ⟨{ r with seq := s.xlt.seq, time := s.now }, rfl, rfl, rfl, .inl h2⟩, h5⟩
  · exact ⟨rfl, rfl, ⟨{ r with seq := s.xlt.seq, time := s.now }, rfl, rfl, rfl, .inr rfl⟩, fun _ _ => rfl⟩

end Sys2Proof.Machine
end

