-- ==== Sys2Proof/Laws/Jobs.lean ====
section
/-! SUPPORT. Jobs: what finding, putting and finishing one does, and what the start and the end of a descriptor's row leave. -/

namespace Sys2Proof.Machine

open Sys2Proof

/-- A job that is found has the ring and index asked for. -/
theorem findJob_ring {s : State} {g i : Nat} {j : Job} (h : findJob s g i = some j) : j.ring = g ∧ j.idx = i := by
  have := List.find?_some h; simpa using this

/-- A job put back is found. -/
theorem findJob_putJob {s : State} {g i : Nat} {j k : Job} (h : findJob s g i = some j) (hr : k.ring = g) (hi : k.idx = i) :
    findJob (putJob s k) g i = some k := by
  unfold findJob at h ⊢; unfold putJob; dsimp only
  subst hr hi
  generalize s.rings.jobs = l at h ⊢
  induction l with
  | nil => simp at h
  | cons a t ih =>
    simp only [List.find?_cons] at h
    by_cases c : (decide (a.ring = k.ring) && decide (a.idx = k.idx)) = true
    · have c2 : a.ring = k.ring ∧ a.idx = k.idx := by simpa using c
      simp only [List.map_cons, List.find?_cons, c, if_true, decide_true, Bool.and_self]
    · have c' : (decide (a.ring = k.ring) && decide (a.idx = k.idx)) = false := by simpa using c
      rw [c'] at h
      simp only [List.map_cons, List.find?_cons]
      simp only [c', Bool.false_eq_true, if_false]
      exact ih h

/-- Putting a job leaves every other. -/
theorem findJob_putJob_ne {s : State} {g i : Nat} {k : Job} (hi : ¬ (k.ring = g ∧ k.idx = i)) :
    findJob (putJob s k) g i = findJob s g i := by
  unfold findJob putJob; dsimp only
  generalize s.rings.jobs = l
  induction l with
  | nil => rfl
  | cons a t ih =>
    simp only [List.map_cons, List.find?_cons]
    by_cases c : a.ring = k.ring ∧ a.idx = k.idx
    · have e1 : (decide (k.ring = g) && decide (k.idx = i)) = false := by simpa using hi
      have e2 : (decide (a.ring = g) && decide (a.idx = i)) = false := by rw [c.1, c.2]; exact e1
      simp only [c.1, c.2, decide_true, Bool.and_self, if_true, e1]; exact ih
    · have c' : (decide (a.ring = k.ring) && decide (a.idx = k.idx)) = false := by simpa using c
      simp only [c', Bool.false_eq_true, if_false]; split
      · rfl
      · exact ih

/-- Putting a ring leaves every job. -/
theorem findJob_putRing (s : State) (a : Nat) (r : Ring) (g i) : findJob (s.putRing a r) g i = findJob s g i := rfl

/-- Skipping the rest of a chain leaves a job that is not of it (R236). -/
theorem findJob_skipChain {s : State} {g i a : Nat} {c : Code} {sk : Bool} (n : Nat) (h : ∀ k < n, (a + k) % 65536 ≠ i) (ha : a < 65536) (hi : i < 65536) :
    findJob (skipChain s g c sk n a) g i = findJob s g i := by
  induction n generalizing s a with
  | zero => rfl
  | succ n ih =>
    unfold skipChain
    split
    · rfl
    · rename_i j hj
      split
      · rfl
      · have hne : ¬ (j.ring = g ∧ j.idx = i) := by
          rintro ⟨_, e⟩
          have := (findJob_ring hj).2
          have h0 := h 0 (by omega)
          simp at h0; omega
        have hne' : ∀ k : Job, k.ring = j.ring → k.idx = j.idx → findJob (putJob s k) g i = findJob s g i :=
          fun k h1 h2 => findJob_putJob_ne (by rw [h1, h2]; exact hne)
        dsimp only
        split
        · refine (ih ?_ ?_).trans (hne' _ rfl rfl)
          · intro k hk
            have := h (k+1) (by omega)
            omega
          · omega
        · exact hne' _ rfl rfl

/-- A job that finishes is found with its code and DETAIL (R239). -/
theorem findJob_finishJob {s : State} {g i : Nat} {j k : Job} (h : findJob s g i = some j) (hr : k.ring = g) (hk : k.idx = i) (hi : i < 65536) (c : Code) (d : Nat) :
    findJob (finishJob s k c d) g i = some { k with st := .finished, code := endCode k c, detail := d % 2 ^ 30 } := by
  unfold finishJob
  dsimp only
  have e : (if c = Code.ok ∧ k.replayed = true then Code.restarted else c) = endCode k c := by simp [endCode]
  rw [e]
  split
  · subst hr
    rw [findJob_skipChain 256 _ (by omega) hi]
    · exact findJob_putJob h rfl hk
    · intro m hm; omega
  · exact findJob_putJob h hr hk

/-- A descriptor whose job finishes ends with its code. -/
theorem ends_finish {s : State} {d : Desc} {j k : Job} (h : findJob s d.ring.val d.idx.val = some j) (hr : k.ring = d.ring.val) (hk : k.idx = d.idx.val)
    (c : Code) (m : Nat) : Ends (finishJob s k c m) d (endCode k c) :=
  ⟨_, findJob_finishJob h hr hk d.idx.isLt c m, rfl, rfl⟩

/-- A row's end changes no job. -/
theorem rowEnd_ends {s t : State} {j : Job} {d : Desc} {c : Code} (h : Ends t d c) : Ends (rowEnd s j t) d c := h

/-- What skipping a chain leaves. -/
theorem skipChain_frame (s : State) (g : Nat) (c : Code) (sk : Bool) (n a : Nat) :
   (skipChain s g c sk n a).xlt = s.xlt ∧ (skipChain s g c sk n a).store = s.store ∧ (skipChain s g c sk n a).regs = s.regs  ∧ (skipChain s g c sk n a).out = s.out := by
  induction n generalizing s a with
  | zero => exact ⟨rfl, rfl, rfl, rfl⟩
  | succ n ih =>
    unfold skipChain
    split
    · exact ⟨rfl, rfl, rfl, rfl⟩
    · split
      · exact ⟨rfl, rfl, rfl, rfl⟩
      · dsimp only; split
        · exact ih _ _
        · exact ⟨rfl, rfl, rfl, rfl⟩

/-- What finishing a job leaves. -/
theorem finishJob_frame (s : State) (j : Job) (c : Code) (d : Nat) :
   (finishJob s j c d).xlt = s.xlt ∧ (finishJob s j c d).store = s.store ∧ (finishJob s j c d).regs = s.regs  ∧ (finishJob s j c d).out = s.out := by
  unfold finishJob; dsimp only
  generalize (if c = Code.ok ∧ j.replayed = true then Code.restarted else c) = c
  split
  · refine ⟨(skipChain_frame _ _ _ _ _ _).1, (skipChain_frame _ _ _ _ _ _).2.1, (skipChain_frame _ _ _ _ _ _).2.2.1, (skipChain_frame _ _ _ _ _ _).2.2.2⟩
  · exact ⟨rfl, rfl, rfl, rfl⟩
@[simp] theorem finishJob_xlt (s : State) (j : Job) (c : Code) (d : Nat) : (finishJob s j c d).xlt = s.xlt := (finishJob_frame s j c d).1

@[simp] theorem finishJob_store (s : State) (j : Job) (c : Code) (d : Nat) : (finishJob s j c d).store = s.store := (finishJob_frame s j c d).2.1
@[simp] theorem finishJob_regs (s : State) (j : Job) (c : Code) (d : Nat) : (finishJob s j c d).regs = s.regs := (finishJob_frame s j c d).2.2.1

@[simp] theorem startState_xlt (s : State) (d : Desc) (u : Nat) : (startState s d u).xlt = s.xlt := by unfold startState ungate; split <;> rfl
@[simp] theorem startState_store (s : State) (d : Desc) (u : Nat) : (startState s d u).store = s.store := by unfold startState ungate; split <;> rfl

@[simp] theorem startState_regs (s : State) (d : Desc) (u : Nat) : (startState s d u).regs = s.regs := by unfold startState ungate; split <;> rfl
@[simp] theorem startState_rings (s : State) (d : Desc) (u : Nat) : (startState s d u).rings = s.rings := by unfold startState ungate; split <;> rfl

@[simp] theorem startState_sec (s : State) (d : Desc) (u : Nat) : (startState s d u).sec = s.sec := by unfold startState ungate; split <;> rfl
@[simp] theorem startState_comp (s : State) (d : Desc) (u : Nat) : (startState s d u).comp = s.comp := by unfold startState ungate; split <;> rfl

@[simp] theorem startState_ports (s : State) (d : Desc) (u : Nat) : (startState s d u).ports = s.ports := by unfold startState ungate; split <;> rfl
@[simp] theorem startState_now (s : State) (d : Desc) (u : Nat) : (startState s d u).now = max s.now d.t := by unfold startState ungate; split <;> rfl

@[simp] theorem rowEnd_xlt (s : State) (j : Job) (t : State) : (rowEnd s j t).xlt = t.xlt := rfl
@[simp] theorem rowEnd_store (s : State) (j : Job) (t : State) : (rowEnd s j t).store = t.store := rfl

@[simp] theorem rowEnd_regs (s : State) (j : Job) (t : State) : (rowEnd s j t).regs = t.regs := rfl
end Sys2Proof.Machine
end

