-- ==== Sys2Proof/Laws/Kept.lean ====
section
/-! SUPPORT. What every operation keeps: any property of the queue and the pool's memory that the ways of writing memory keep (`MemClosed`). -/

set_option maxRecDepth 100000
set_option linter.all false

namespace Sys2Proof.Machine

open Sys2Proof

/-- What a command may keep: the queue and the pool's memory. -/
abbrev Kept := List Instr × List Host.Cell

/-- The queue and the pool's memory of a state. -/
def State.kept (s : State) : Kept := (s.pending, s.store.mem)

/-- `P` survives every way in which the model writes the pool's memory: one byte put, bytes dropped, all bytes dropped. -/
structure MemClosed (P : Kept → Prop) : Prop where
  put : ∀ q m a b, P (q, m) → P (q, tabPutD 0 a b m)
  filter : ∀ q m p, P (q, m) → P (q, m.filter p)
  nil : ∀ q m, P (q, m) → P (q, [])

theorem kept_of {P : Kept → Prop} {s t : State} (e : s.kept = t.kept) (h : P t.kept) : P s.kept := e ▸ h

theorem kept_rec0 {P : Kept → Prop} {t : State} {now_ : Nat} {free_ : Nat} {regs_ : Tab Nat} {cpRegs_ : Tab Nat} {xlt_ : Xlt} {fab_ : Fabric} {dir_ : Dir} {rings_ : Rings} {cache_ : Cache} {plane_ : Plane} {sched_ : Sched} {comp_ : Comp} {mgmt_ : Mgmt} {log_ : Log} {emb_ : Emb} {srch_ : Srch} {blk_ : Blk} {sec_ : Sec} {ports_ : Ports} {clk_ : Clk} {out_ : List Out}
    (h : P t.kept) : P (State.kept ⟨t.pending, now_, free_, regs_, cpRegs_, t.store, xlt_, fab_, dir_, rings_, cache_, plane_, sched_, comp_, mgmt_, log_, emb_, srch_, blk_, sec_, ports_, clk_, out_⟩) := h

theorem kept_rec {P : Kept → Prop} {t : State} {now_ : Nat} {free_ : Nat} {regs_ : Tab Nat} {cpRegs_ : Tab Nat} {xlt_ : Xlt} {fab_ : Fabric} {dir_ : Dir} {rings_ : Rings} {cache_ : Cache} {plane_ : Plane} {sched_ : Sched} {comp_ : Comp} {mgmt_ : Mgmt} {log_ : Log} {emb_ : Emb} {srch_ : Srch} {blk_ : Blk} {sec_ : Sec} {ports_ : Ports} {clk_ : Clk} {out_ : List Out} {pages_ : Tab Page} {poison_ : List Nat} {stage_ : Tab (Tab (List Byte))} {dirty_ : List Nat} {huge_ : List Nat} {extra_ : Tab Nat} {moves_ : List Move} {nextXfer_ : Nat} {rowErrs_ : Tab (List Nat)} {spared_ : List Nat} {haze_ : Tab HazeRun} {drizzle_ : Tab Nat}
    (h : P t.kept) : P (State.kept ⟨t.pending, now_, free_, regs_, cpRegs_, ⟨pages_, t.store.mem, poison_, stage_, dirty_, huge_, extra_, moves_, nextXfer_, rowErrs_, spared_, haze_, drizzle_⟩, xlt_, fab_, dir_, rings_, cache_, plane_, sched_, comp_, mgmt_, log_, emb_, srch_, blk_, sec_, ports_, clk_, out_⟩) := h

/-- A next state that an outcome holds has `P`. -/
@[irreducible] def NextKept (P : Kept → Prop) (o : Host.Outcome State Fault Refusal) : Prop := ∀ t, o = .next t → P t.kept

theorem next_kept {P : Kept → Prop} {s : State} (h : P s.kept) : NextKept P (.next s) := by
  unfold NextKept
  intro t e
  injection e with e
  exact e ▸ h

/-- A state that an option holds has `P`. -/
@[irreducible] def SomeKept (P : Kept → Prop) (o : Option State) : Prop := ∀ t, o = some t → P t.kept

theorem some_kept {P : Kept → Prop} {s : State} (h : P s.kept) : SomeKept P (some s) := by
  unfold SomeKept
  intro t e
  injection e with e
  exact e ▸ h

theorem none_kept {P : Kept → Prop} : SomeKept P none := by
  unfold SomeKept
  intro t e
  cases e

theorem of_some_kept {P : Kept → Prop} {o : Option State} {s : State} (h : o = some s) (ho : SomeKept P o) : P s.kept := by
  unfold SomeKept at ho
  exact ho _ h

theorem kept_getD {P : Kept → Prop} {o : Option State} {s : State} (ho : SomeKept P o) (h : P s.kept) : P (o.getD s).kept := by
  cases o with
  | none => exact h
  | some t => unfold SomeKept at ho; exact ho t rfl

/-- The state of a pair that an option holds has `P`. -/
@[irreducible] def PairKept (P : Kept → Prop) {α} (o : Option (α × State)) : Prop := ∀ x, o = some x → P x.2.kept

theorem pair_some {P : Kept → Prop} {α} {a : α} {s : State} (h : P s.kept) : PairKept P (some (a, s)) := by
  unfold PairKept
  intro t e
  injection e with e
  exact e ▸ h

theorem pair_none {P : Kept → Prop} {α} : PairKept P (none : Option (α × State)) := by
  unfold PairKept
  intro t e
  cases e

theorem of_pair {P : Kept → Prop} {α} {o : Option (α × State)} {x : α × State} (h : o = some x) (ho : PairKept P o) : P x.2.kept := by
  unfold PairKept at ho
  exact ho _ h

/-- Both states have `P`, the first where there is one. -/
@[irreducible] def BothKept (P : Kept → Prop) (o : Option State × State) : Prop := SomeKept P o.1 ∧ P o.2.kept

theorem both_mk {P : Kept → Prop} {o : Option State} {s : State} (h : SomeKept P o) (hs : P s.kept) : BothKept P (o, s) := by
  unfold BothKept
  exact ⟨h, hs⟩

theorem of_both_some {P : Kept → Prop} {o : Option State × State} {t s : State} (h : o = (some t, s)) (ho : BothKept P o) : P t.kept := by subst h; unfold BothKept SomeKept at ho; exact ho.1 _ rfl

theorem of_both_snd {P : Kept → Prop} {o : Option State × State} {a : Option State} {s : State} (h : o = (a, s)) (ho : BothKept P o) : P s.kept := by subst h; unfold BothKept at ho; exact ho.2

theorem of_next {P : Kept → Prop} {o : Host.Outcome State Fault Refusal} {s : State} (h : o = .next s) (ho : NextKept P o) : P s.kept := by
  unfold NextKept at ho
  exact ho _ h

theorem kept_step {P : Kept → Prop} {G : Prop} (z : State) (h : P z.kept) (g : ∀ w, w = z → P w.kept → G) : G := g z rfl h

theorem value_step {α : Type} {G : Prop} (z : α) (g : ∀ w, w = z → G) : G := g z rfl

theorem kept_pair2 {P : Kept → Prop} {α : Type} {a : α} {s : State} (h : P s.kept) : P (a, s).2.kept := h

theorem kept_pair1 {P : Kept → Prop} {α : Type} {a : α} {s : State} (h : P s.kept) : P (s, a).1.kept := h

theorem kept_pair3 {P : Kept → Prop} {α β : Type} {a : α} {b : β} {s : State} (h : P s.kept) : P (a, b, s).2.2.kept := h

theorem kept_id {P : Kept → Prop} {s : State} (h : P s.kept) : P (id s).kept := h

theorem kept_ite {P : Kept → Prop} {c : Prop} [Decidable c] {s t : State} (hs : P s.kept) (ht : P t.kept) : P (if c then s else t).kept := by
  split
  · exact hs
  · exact ht

theorem kept_foldl {P : Kept → Prop} {α} {g : State → α → State} {l : List α} {s : State} (hs : P s.kept) (hg : ∀ s x, P s.kept → P (g s x).kept) : P (l.foldl g s).kept := by
  induction l generalizing s with
  | nil => exact hs
  | cons a t ih => exact ih (hg _ _ hs)

theorem kept_foldl_snd {P : Kept → Prop} {α β} {g : β × State → α → β × State} {l : List α} {x : β × State} (hs : P x.2.kept) (hg : ∀ b s a, P s.kept → P (g (b, s) a).2.kept) : P (l.foldl g x).2.kept := by
  induction l generalizing x with
  | nil => exact hs
  | cons a t ih => exact ih (hg _ _ _ hs)

theorem kept_foldl_third {P : Kept → Prop} {α β γ} {g : β × γ × State → α → β × γ × State} {l : List α} {x : β × γ × State} (hs : P x.2.2.kept) (hg : ∀ b c s a, P s.kept → P (g (b, c, s) a).2.2.kept) : P (l.foldl g x).2.2.kept := by
  induction l generalizing x with
  | nil => exact hs
  | cons a t ih => exact ih (hg _ _ _ _ hs)

theorem kept_foldl_fst {P : Kept → Prop} {α β} {g : State × β → α → State × β} {l : List α} {x : State × β} (hs : P x.1.kept) (hg : ∀ s b a, P s.kept → P (g (s, b) a).1.kept) : P (l.foldl g x).1.kept := by
  induction l generalizing x with
  | nil => exact hs
  | cons a t ih => exact ih (hg _ _ _ hs)

theorem kept_snd {P : Kept → Prop} {α} {x : α × State} {a : α} {s : State} (h : x = (a, s)) (hx : P x.2.kept) : P s.kept := by subst h; exact hx

theorem kept_third {P : Kept → Prop} {α β} {x : α × β × State} {a : α} {b : β} {s : State} (h : x = (a, b, s)) (hx : P x.2.2.kept) : P s.kept := by subst h; exact hx

theorem kept_fst {P : Kept → Prop} {α} {x : State × α} {a : α} {s : State} (h : x = (s, a)) (hx : P x.1.kept) : P s.kept := by subst h; exact hx

theorem State_putByte_kept {P : Kept → Prop} (hP : MemClosed P) (s : State) (a : Nat) (b : Byte) (h : P s.kept) : P (s.putByte a b).kept := hP.put _ _ _ _ h

theorem State_putBytes_kept {P : Kept → Prop} (hP : MemClosed P) (s : State) (a : Nat) (l : List Byte) (h : P s.kept) : P (s.putBytes a l).kept := by
  induction l generalizing s a with
  | nil => exact h
  | cons b t ih => exact ih _ _ (State_putByte_kept hP _ _ _ h)

theorem State_zeroPage_kept {P : Kept → Prop} (hP : MemClosed P) (s : State) (p : Nat) (h : P s.kept) : P (s.zeroPage p).kept := hP.filter _ _ _ h

theorem foldl_bind_kept {P : Kept → Prop} {α} {g : State → α → Option State} {l : List α} {o : Option State} (ho : SomeKept P o)
    (hg : ∀ s x, P s.kept → SomeKept P (g s x)) : SomeKept P (l.foldl (fun (a : Option State) x => a.bind fun s => g s x) o) := by
  induction l generalizing o with
  | nil => exact ho
  | cons a t ih =>
    refine ih ?_
    cases o with
    | none => exact none_kept
    | some s => exact hg _ _ (of_some_kept rfl ho)

/-- The state of a bundle that may issue has `P`. -/
def OpenedKept (P : Kept → Prop) : Opened → Prop
  | .go s _ => P s.kept
  | _ => True

theorem opened_go {P : Kept → Prop} {s : State} {k : Kern} (h : P s.kept) : OpenedKept P (.go s k) := h

theorem opened_held {P : Kept → Prop} : OpenedKept P .held := trivial

theorem opened_no {P : Kept → Prop} : OpenedKept P .no := trivial

theorem of_opened {P : Kept → Prop} {o : Opened} {s : State} {k : Kern} (h : o = .go s k) (ho : OpenedKept P o) : P s.kept := by subst h; exact ho

/-- The state that a log write leaves has `P`. -/
def LogKept (P : Kept → Prop) : LogAns → Prop
  | .done s => P s.kept
  | .wait s => P s.kept
  | .tooLong => True

theorem log_done {P : Kept → Prop} {s : State} (h : P s.kept) : LogKept P (.done s) := h

theorem log_wait {P : Kept → Prop} {s : State} (h : P s.kept) : LogKept P (.wait s) := h

theorem log_long {P : Kept → Prop} : LogKept P .tooLong := trivial

theorem of_log_done {P : Kept → Prop} {o : LogAns} {s : State} (h : o = .done s) (ho : LogKept P o) : P s.kept := by subst h; exact ho

theorem of_log_wait {P : Kept → Prop} {o : LogAns} {s : State} (h : o = .wait s) (ho : LogKept P o) : P s.kept := by subst h; exact ho

theorem onLog_kept {P : Kept → Prop} {a : LogAns} {f g : State → State} {l : State} (ha : LogKept P a) (hl : P l.kept) (hf : ∀ s, P s.kept → P (f s).kept)
    (hg : ∀ s, P s.kept → P (g s).kept) : P (onLog a f l g).kept := by
  cases a with
  | wait s => exact hf _ ha
  | tooLong => exact hl
  | done s => exact hg _ ha

/-- The state that a staging leaves has `P`. -/
def StagedKept (P : Kept → Prop) : Staged → Prop
  | .ok s => P s.kept
  | .later s => P s.kept
  | .no _ => True

theorem staged_ok {P : Kept → Prop} {s : State} (h : P s.kept) : StagedKept P (.ok s) := h

theorem staged_later {P : Kept → Prop} {s : State} (h : P s.kept) : StagedKept P (.later s) := h

theorem staged_no {P : Kept → Prop} {c : Code} : StagedKept P (.no c) := trivial

theorem of_staged_ok {P : Kept → Prop} {o : Staged} {s : State} (h : o = .ok s) (ho : StagedKept P o) : P s.kept := by subst h; exact ho

theorem of_staged_later {P : Kept → Prop} {o : Staged} {s : State} (h : o = .later s) (ho : StagedKept P o) : P s.kept := by subst h; exact ho

theorem walk_foldl {P : Kept → Prop} {α} {g : Walk → α → Walk} {l : List α} {w : Walk} (hs : P w.s.kept) (hg : ∀ w x, P w.s.kept → P (g w x).s.kept) : P (l.foldl g w).s.kept := by
  induction l generalizing w with
  | nil => exact hs
  | cons a t ih => exact ih (hg _ _ hs)

end Sys2Proof.Machine
end

