-- ==== Sys2Proof/Laws/KeptOps.lean ====
section
/-! SUPPORT. What the operations of Ops.lean keep of the queue and the memory, one lemma each. -/

set_option maxRecDepth 100000
set_option linter.all false

namespace Sys2Proof.Machine

open Sys2Proof

theorem State_set_kept {P : Kept → Prop} (s : State) (f : Sys2Proof.Fld) (v : ℕ) (h_s : P s.kept) : P (State.set s f v).kept := by
  unfold State.set
  repeat' first
    | with_reducible assumption
    | (fail_if_no_progress (with_reducible refine kept_rec0 ?_))

theorem State_setFlag_kept {P : Kept → Prop} (s : State) (f : Sys2Proof.Fld) (b : Bool) (h_s : P s.kept) : P (State.setFlag s f b).kept := by
  unfold State.setFlag
  repeat' first
    | with_reducible assumption
    | with_reducible apply State_set_kept

theorem State_bump_kept {P : Kept → Prop} (s : State) (f : Sys2Proof.Fld) (n : optParam ℕ 1) (h_s : P s.kept) : P (State.bump s f n).kept := by
  unfold State.bump
  repeat' first
    | with_reducible assumption
    | with_reducible apply State_set_kept

theorem State_bumpSat_kept {P : Kept → Prop} (s : State) (f : Sys2Proof.Fld) (n : optParam ℕ 1) (h_s : P s.kept) : P (State.bumpSat s f n).kept := by
  unfold State.bumpSat
  repeat' first
    | with_reducible assumption
    | with_reducible apply State_set_kept

theorem State_raiseTo_kept {P : Kept → Prop} (s : State) (f : Sys2Proof.Fld) (v : ℕ) (h_s : P s.kept) : P (State.raiseTo s f v).kept := by
  unfold State.raiseTo
  repeat' first
    | with_reducible assumption
    | with_reducible apply State_set_kept

theorem State_upto_kept {P : Kept → Prop} (s : State) (t : ℕ) (h_s : P s.kept) : P (State.upto s t).kept := by
  unfold State.upto
  repeat' first
    | with_reducible assumption
    | (fail_if_no_progress (with_reducible refine kept_rec0 ?_))

theorem idle_kept {P : Kept → Prop} (s : State) (h_s : P s.kept) : P (idle s).kept := by
  unfold idle
  repeat' first
    | with_reducible assumption
    | lift_lets -underBinder
    | with_reducible refine kept_ite ?_ ?_
    | (fail_if_no_progress (with_reducible refine kept_rec0 ?_))

theorem State_emit_kept {P : Kept → Prop} (s : State) (o : Out) (h_s : P s.kept) : P (State.emit s o).kept := by
  unfold State.emit
  repeat' first
    | with_reducible assumption
    | (fail_if_no_progress (with_reducible refine kept_rec0 ?_))

theorem State_takeFree_kept {P : Kept → Prop} (s : State) (h_s : P s.kept) : P (State.takeFree s).2.kept := by
  unfold State.takeFree
  repeat' first
    | with_reducible assumption
    | (fail_if_no_progress (with_reducible refine kept_rec0 ?_))

theorem sendMsix_kept {P : Kept → Prop} (s : State) (src : ℕ) (vec : ℕ) (h_s : P s.kept) : P (sendMsix s src vec).kept := by
  unfold sendMsix
  repeat' first
    | with_reducible assumption
    | with_reducible apply State_emit_kept
    | (intro z; refine value_step z ?_; intro w hw; (try rw [← hw]); clear hw z)
    | lift_lets -underBinder
    | with_reducible refine kept_ite ?_ ?_
    | (fail_if_no_progress (with_reducible refine kept_rec0 ?_))

theorem raiseIrq_kept {P : Kept → Prop} (s : State) (b : ℕ) (h_s : P s.kept) : P (raiseIrq s b).kept := by
  unfold raiseIrq
  repeat' first
    | with_reducible assumption
    | with_reducible apply State_set_kept
    | with_reducible apply sendMsix_kept
    | (intro z; refine kept_step (P := P) z ?_ ?_ <;> [unfold z; first | (intro w hw hz; rw [← hw]; clear hw z) | (intro w hw hz; rw [hw] at hz; clear hw w; clear_value z)])
    | (intro (z : Nat); refine value_step z ?_; intro w hw; (try rw [← hw]); clear hw z)
    | lift_lets -underBinder
    | with_reducible refine kept_ite ?_ ?_

theorem State_putRing_kept {P : Kept → Prop} (s : State) (g : ℕ) (r : Ring) (h_s : P s.kept) : P (State.putRing s g r).kept := by
  unfold State.putRing
  repeat' first
    | with_reducible assumption
    | (intro z; refine value_step z ?_; intro w hw; (try rw [← hw]); clear hw z)
    | lift_lets -underBinder
    | (fail_if_no_progress (with_reducible refine kept_rec0 ?_))

theorem setPort_kept {P : Kept → Prop} (s : State) (p : ℕ) (f : PortSt → PortSt) (h_s : P s.kept) : P (setPort s p f).kept := by
  unfold setPort
  repeat' first
    | with_reducible assumption
    | (intro z; refine value_step z ?_; intro w hw; (try rw [← hw]); clear hw z)
    | lift_lets -underBinder
    | (fail_if_no_progress (with_reducible refine kept_rec0 ?_))

theorem ringWrite_kept {P : Kept → Prop} (s : State) (r : Ring) (addr : ℕ) (data : List Sys2Proof.Byte) (h_s : P s.kept) : P (ringWrite s r addr data).kept := by
  unfold ringWrite
  repeat' first
    | with_reducible assumption
    | with_reducible apply State_emit_kept
    | lift_lets -underBinder
    | with_reducible refine kept_ite ?_ ?_

theorem notifyRing_kept {P : Kept → Prop} (s : State) (g : ℕ) (h_s : P s.kept) : P (notifyRing s g).kept := by
  unfold notifyRing
  repeat' first
    | with_reducible assumption
    | with_reducible apply State_putRing_kept
    | with_reducible apply sendMsix_kept
    | with_reducible apply ringWrite_kept
    | (intro z; refine kept_step (P := P) z ?_ ?_ <;> [unfold z; first | (intro w hw hz; rw [← hw]; clear hw z) | (intro w hw hz; rw [hw] at hz; clear hw w; clear_value z)])
    | (intro z; refine value_step z ?_; intro w hw; (try rw [← hw]); clear hw z)
    | lift_lets -underBinder
    | with_reducible refine kept_ite ?_ ?_

theorem writeRecord_kept {P : Kept → Prop} (s : State) (g : ℕ) (w0 : ℕ) (w1 : ℕ) (h_s : P s.kept) : P (writeRecord s g w0 w1).kept := by
  unfold writeRecord
  repeat' first
    | with_reducible assumption
    | with_reducible apply ringWrite_kept
    | with_reducible apply State_putRing_kept
    | with_reducible apply notifyRing_kept
    | (intro z; refine kept_step (P := P) z ?_ ?_ <;> [unfold z; first | (intro w hw hz; rw [← hw]; clear hw z) | (intro w hw hz; rw [hw] at hz; clear hw w; clear_value z)])
    | (intro (z : List _); refine value_step z ?_; intro w hw; (try rw [← hw]); clear hw z)
    | (intro z; refine value_step z ?_; intro w hw; (try rw [← hw]); clear hw z)
    | (intro z; subst z)
    | lift_lets -underBinder
    | with_reducible refine kept_ite ?_ ?_

theorem enqueueFault_kept {P : Kept → Prop} (s : State) (r : FaultRec) (h_s : P s.kept) : P (enqueueFault s r).kept := by
  unfold enqueueFault
  repeat' first
    | with_reducible assumption
    | with_reducible apply State_set_kept
    | with_reducible apply raiseIrq_kept
    | with_reducible apply State_bump_kept
    | with_reducible apply State_setFlag_kept
    | (intro z; refine kept_step (P := P) z ?_ ?_ <;> [unfold z; first | (intro w hw hz; rw [← hw]; clear hw z) | (intro w hw hz; rw [hw] at hz; clear hw w; clear_value z)])
    | (intro (z : Nat); refine value_step z ?_; intro w hw; (try rw [← hw]); clear hw z)
    | (intro z; refine value_step z ?_; intro w hw; (try rw [← hw]); clear hw z)
    | lift_lets -underBinder
    | with_reducible refine kept_ite ?_ ?_
    | (fail_if_no_progress (with_reducible refine kept_rec0 ?_))

theorem stampFault_kept {P : Kept → Prop} (s : State) (r : FaultRec) (h_s : P s.kept) : P (stampFault s r).2.kept := by
  unfold stampFault
  repeat' first
    | with_reducible assumption
    | (intro z; refine value_step z ?_; intro w hw; (try rw [← hw]); clear hw z)
    | lift_lets -underBinder
    | (fail_if_no_progress (with_reducible refine kept_rec0 ?_))

theorem postFault_kept {P : Kept → Prop} (s : State) (r : FaultRec) (h_s : P s.kept) : P (postFault s r).kept := by
  unfold postFault
  repeat' first
    | with_reducible assumption
    | with_reducible apply stampFault_kept
    | with_reducible apply enqueueFault_kept
    | (intro z; refine value_step z ?_; intro w hw; (try rw [← hw]); clear hw z)
    | lift_lets -underBinder
    | with_reducible refine kept_ite ?_ ?_
    | (fail_if_no_progress (with_reducible refine kept_rec0 ?_))

theorem postCpair_kept {P : Kept → Prop} (s : State) (source : ℕ) (ctx : ℕ) (detail : ℕ) (h_s : P s.kept) : P (postCpair s source ctx detail).kept := by
  unfold postCpair
  repeat' first
    | with_reducible assumption
    | with_reducible apply postFault_kept

theorem startLoop_kept {P : Kept → Prop} (s : State) (k : ℕ) (h_s : P s.kept) : P (startLoop s k).kept := by
  unfold startLoop
  repeat' first
    | with_reducible assumption
    | with_reducible apply State_set_kept
    | with_reducible apply State_bump_kept
    | split

theorem workArrives_kept {P : Kept → Prop} (s : State) (op : ℕ) (h_s : P s.kept) : P (workArrives s op).kept := by
  unfold workArrives
  repeat' first
    | with_reducible assumption
    | with_reducible apply startLoop_kept
    | lift_lets -underBinder
    | with_reducible refine kept_ite ?_ ?_

theorem ungate_kept {P : Kept → Prop} (s : State) (unit : ℕ) (h_s : P s.kept) : P (ungate s unit).kept := by
  unfold ungate
  repeat' first
    | with_reducible assumption
    | (intro z; refine value_step z ?_; intro w hw; (try rw [← hw]); clear hw z)
    | lift_lets -underBinder
    | with_reducible refine kept_ite ?_ ?_
    | (fail_if_no_progress (with_reducible refine kept_rec0 ?_))

theorem unitIdle_kept {P : Kept → Prop} (s : State) (op : ℕ) (unit : ℕ) (h_s : P s.kept) : P (unitIdle s op unit).kept := by
  unfold unitIdle
  repeat' first
    | with_reducible assumption
    | (intro (z : List _); refine value_step z ?_; intro w hw; (try rw [← hw]); clear hw z)
    | (intro z; refine value_step z ?_; intro w hw; (try rw [← hw]); clear hw z)
    | lift_lets -underBinder
    | with_reducible refine kept_ite ?_ ?_
    | (fail_if_no_progress (with_reducible refine kept_rec0 ?_))

theorem postRas_kept {P : Kept → Prop} (s : State) (kind : ℕ) (source : ℕ) (detail : ℕ) (addr : optParam ℕ 0) (h_s : P s.kept) : P (postRas s kind source detail addr).kept := by
  unfold postRas
  repeat' first
    | with_reducible assumption
    | with_reducible apply postFault_kept
    | with_reducible apply raiseIrq_kept
    | with_reducible apply State_emit_kept
    | with_reducible apply writeRecord_kept
    | (intro z; refine kept_step (P := P) z ?_ ?_ <;> [unfold z; first | (intro w hw hz; rw [← hw]; clear hw z) | (intro w hw hz; rw [hw] at hz; clear hw w; clear_value z)])
    | (intro (z : Nat); refine value_step z ?_; intro w hw; (try rw [← hw]); clear hw z)
    | (intro (z : List _); refine value_step z ?_; intro w hw; (try rw [← hw]); clear hw z)
    | (intro (z : Option _); subst z)
    | (intro z; refine value_step z ?_; intro w hw; (try rw [← hw]); clear hw z)
    | lift_lets -underBinder
    | with_reducible refine kept_ite ?_ ?_
    | split
    | (with_reducible apply kept_foldl <;> intros)
    | (fail_if_no_progress (with_reducible refine kept_rec0 ?_))

theorem telem_kept {P : Kept → Prop} (s : State) (dom : ℕ) (f : Telem → Telem) (h_s : P s.kept) : P (telem s dom f).kept := by
  unfold telem
  repeat' first
    | with_reducible assumption
    | (intro z; refine value_step z ?_; intro w hw; (try rw [← hw]); clear hw z)
    | lift_lets -underBinder
    | (fail_if_no_progress (with_reducible refine kept_rec0 ?_))

theorem telemCode_kept {P : Kept → Prop} (s : State) (dom : ℕ) (c : Sys2Proof.Code) (h_s : P s.kept) : P (telemCode s dom c).kept := by
  unfold telemCode
  repeat' first
    | with_reducible assumption
    | with_reducible apply telem_kept
    | split

theorem putJob_kept {P : Kept → Prop} (s : State) (j : Job) (h_s : P s.kept) : P (putJob s j).kept := by
  unfold putJob
  repeat' first
    | with_reducible assumption
    | (intro z; refine value_step z ?_; intro w hw; (try rw [← hw]); clear hw z)
    | lift_lets -underBinder
    | (fail_if_no_progress (with_reducible refine kept_rec0 ?_))

theorem skipChain_kept {P : Kept → Prop} (s : State) (g : ℕ) (c : Sys2Proof.Code) (sk : Bool) (z4 : ℕ) (z5 : ℕ) (h_s : P s.kept) : P (skipChain s g c sk z4 z5).kept := by
  induction z4 generalizing s z5 with
  | zero => unfold skipChain; assumption
  | succ n ih =>
    unfold skipChain
    repeat' first
      | with_reducible assumption
      | with_reducible apply State_putRing_kept
      | with_reducible apply putJob_kept
      | with_reducible apply ih
      | (intro z; refine kept_step (P := P) z ?_ ?_ <;> [unfold z; first | (intro w hw hz; rw [← hw]; clear hw z) | (intro w hw hz; rw [hw] at hz; clear hw w; clear_value z)])
      | (intro z; refine value_step z ?_; intro w hw; (try rw [← hw]); clear hw z)
      | lift_lets -underBinder
      | with_reducible refine kept_ite ?_ ?_
      | split

theorem finishJob_kept {P : Kept → Prop} (s : State) (j : Job) (c : Sys2Proof.Code) (detail : optParam ℕ 0) (h_s : P s.kept) : P (finishJob s j c detail).kept := by
  unfold finishJob
  repeat' first
    | with_reducible assumption
    | with_reducible apply putJob_kept
    | with_reducible apply skipChain_kept
    | (intro z; refine kept_step (P := P) z ?_ ?_ <;> [unfold z; first | (intro w hw hz; rw [← hw]; clear hw z) | (intro w hw hz; rw [hw] at hz; clear hw w; clear_value z)])
    | (intro z; refine value_step z ?_; intro w hw; (try rw [← hw]); clear hw z)
    | lift_lets -underBinder
    | with_reducible refine kept_ite ?_ ?_

end Sys2Proof.Machine
end

