-- ==== Sys2Proof/Laws/KeptPool.lean ====
section
/-! SUPPORT. What the operations of Pool.lean keep of the queue and the memory, one lemma each. -/

set_option maxRecDepth 100000
set_option linter.all false

namespace Sys2Proof.Machine

open Sys2Proof

theorem setSectorState_kept {P : Kept → Prop} (s : State) (n : ℕ) (v : ℕ) (h_s : P s.kept) : P (setSectorState s n v).kept := by
  unfold setSectorState
  repeat' first
    | with_reducible assumption
    | with_reducible apply State_set_kept
    | with_reducible apply postRas_kept

theorem setHomeEntry_kept {P : Kept → Prop} (s : State) (i : ℕ) (v : ℕ) (h_s : P s.kept) : P (setHomeEntry s i v).kept := by
  unfold setHomeEntry
  repeat' first
    | with_reducible assumption
    | with_reducible apply State_set_kept
    | split

theorem State_putPage_kept {P : Kept → Prop} (s : State) (p : ℕ) (e : Page) (h_s : P s.kept) : P (State.putPage s p e).kept := by
  unfold State.putPage
  repeat' first
    | with_reducible assumption
    | (intro (z : Store); subst z)
    | lift_lets -underBinder
    | (fail_if_no_progress (with_reducible refine kept_rec ?_))

theorem setPoolFrames_kept {P : Kept → Prop} (s : State) (h_s : P s.kept) : P (setPoolFrames s).kept := by
  unfold setPoolFrames
  exact kept_foldl h_s fun _ _ h => State_set_kept _ _ _ h

theorem takeFrame_kept {P : Kept → Prop} (s : State) (n : ℕ) (h_s : P s.kept) : P (takeFrame s n).2.kept := by
  unfold takeFrame
  repeat' first
    | with_reducible assumption
    | with_reducible apply State_takeFree_kept
    | (intro (z : Nat); refine value_step z ?_; intro w hw; (try rw [← hw]); clear hw z)
    | lift_lets -underBinder
    | split

theorem placeGranule_kept {P : Kept → Prop} (s : State) (n : ℕ) (p : ℕ) (g : ℕ) (len : ℕ) (h_s : P s.kept) : P (placeGranule s n p g len).2.kept := by
  unfold placeGranule
  repeat' first
    | with_reducible assumption
    | with_reducible apply State_takeFree_kept
    | (intro (z : List _); refine value_step z ?_; intro w hw; (try rw [← hw]); clear hw z)
    | lift_lets -underBinder
    | split

theorem granuleFrames_kept {P : Kept → Prop} (s : State) (e : Page) (h_s : P s.kept) : P (granuleFrames s e).2.kept := by
  unfold granuleFrames
  repeat' first
    | with_reducible assumption
    | (intro (z : Nat); refine value_step z ?_; intro w hw; (try rw [← hw]); clear hw z)
    | lift_lets -underBinder
    | split
    | (fail_if_no_progress (with_reducible refine kept_rec0 ?_))

theorem poisonLine_kept {P : Kept → Prop} (s : State) (line : ℕ) (h_s : P s.kept) : P (poisonLine s line).kept := by
  unfold poisonLine
  repeat' first
    | with_reducible assumption
    | with_reducible apply State_putPage_kept
    | with_reducible apply postFault_kept
    | (intro (z : Store); subst z)
    | (intro z; refine value_step z ?_; intro w hw; (try rw [← hw]); clear hw z)
    | lift_lets -underBinder
    | with_reducible refine kept_ite ?_ ?_
    | split
    | (fail_if_no_progress (with_reducible refine kept_rec ?_))

theorem spoilLine_kept {P : Kept → Prop} (s : State) (line : ℕ) (h_s : P s.kept) : P (spoilLine s line).kept := by
  unfold spoilLine
  repeat' first
    | with_reducible assumption
    | (intro (z : Store); subst z)
    | lift_lets -underBinder
    | (fail_if_no_progress (with_reducible refine kept_rec ?_))

theorem finishStage_kept {P : Kept → Prop} (hP : MemClosed P) (s : State) (gr : ℕ) (h_s : P s.kept) : P (finishStage s gr).kept := by
  unfold finishStage
  repeat' first
    | with_reducible assumption
    | with_reducible apply State_putBytes_kept
    | with_reducible apply placeGranule_kept
    | with_reducible apply State_putPage_kept
    | (intro z; refine kept_step (P := P) z ?_ ?_ <;> [unfold z; first | (intro w hw hz; rw [← hw]; clear hw z) | (intro w hw hz; rw [hw] at hz; clear hw w; clear_value z)])
    | (intro (z : List _); refine value_step z ?_; intro w hw; (try rw [← hw]); clear hw z)
    | (intro (z : Store); subst z)
    | lift_lets -underBinder
    | with_reducible refine kept_ite ?_ ?_
    | split
    | (with_reducible apply kept_foldl <;> intros)
    | (fail_if_no_progress (with_reducible refine kept_rec ?_))

theorem writeLine_kept {P : Kept → Prop} (hP : MemClosed P) (s : State) (line : ℕ) (a : ℕ) (data : List Sys2Proof.Byte) (h_s : P s.kept) : P (writeLine s line a data).kept := by
  unfold writeLine
  repeat' first
    | with_reducible assumption
    | with_reducible apply State_putBytes_kept
    | with_reducible apply finishStage_kept
    | (intro z; refine kept_step (P := P) z ?_ ?_ <;> [unfold z; first | (intro w hw hz; rw [← hw]; clear hw z) | (intro w hw hz; rw [hw] at hz; clear hw w; clear_value z)])
    | (intro (z : Nat); refine value_step z ?_; intro w hw; (try rw [← hw]); clear hw z)
    | (intro (z : List _); refine value_step z ?_; intro w hw; (try rw [← hw]); clear hw z)
    | (intro (z : Store); subst z)
    | (intro z; refine value_step z ?_; intro w hw; (try rw [← hw]); clear hw z)
    | (intro z; subst z)
    | lift_lets -underBinder
    | with_reducible refine kept_ite ?_ ?_
    | split
    | (fail_if_no_progress (with_reducible refine kept_rec ?_))

theorem writeRange_kept {P : Kept → Prop} (hP : MemClosed P) (s : State) (a : ℕ) (data : List Sys2Proof.Byte) (h_s : P s.kept) : P (writeRange s a data).kept := by
  unfold writeRange
  repeat' first
    | with_reducible assumption
    | with_reducible apply writeLine_kept
    | (with_reducible apply kept_foldl <;> intros)

theorem countLines_kept {P : Kept → Prop} (s : State) (ls : List ℕ) (h_s : P s.kept) : P (countLines s ls).kept := by
  unfold countLines
  repeat' first
    | with_reducible assumption
    | (intro (z : Store); subst z)
    | lift_lets -underBinder
    | (with_reducible apply kept_foldl <;> intros)
    | (fail_if_no_progress (with_reducible refine kept_rec ?_))

theorem restoreCtx_kept {P : Kept → Prop} (s : State) (c : ℕ) (source : ℕ) (h_s : P s.kept) : P (restoreCtx s c source).kept := by
  unfold restoreCtx
  repeat' first
    | with_reducible assumption
    | with_reducible apply postCpair_kept
    | (intro z; refine kept_step (P := P) z ?_ ?_ <;> [unfold z; first | (intro w hw hz; rw [← hw]; clear hw z) | (intro w hw hz; rw [hw] at hz; clear hw w; clear_value z)])
    | (intro (z : List _); refine value_step z ?_; intro w hw; (try rw [← hw]); clear hw z)
    | (intro z; refine value_step z ?_; intro w hw; (try rw [← hw]); clear hw z)
    | lift_lets -underBinder
    | (with_reducible apply kept_foldl <;> intros)
    | (fail_if_no_progress (with_reducible refine kept_rec0 ?_))

theorem joinFault_kept {P : Kept → Prop} (s : State) (p : ℕ) (w : Waiter) (h_s : P s.kept) : P (joinFault s p w).kept := by
  unfold joinFault
  repeat' first
    | with_reducible assumption
    | (intro (z : _ → _); subst z)
    | (intro z; refine value_step z ?_; intro w hw; (try rw [← hw]); clear hw z)
    | lift_lets -underBinder
    | (fail_if_no_progress (with_reducible refine kept_rec0 ?_))

theorem pageFault_kept {P : Kept → Prop} (s : State) (p : ℕ) (kind : ℕ) (detail : ℕ) (addr : ℕ) (pool : Bool) (source : ℕ) (w : Waiter) (h_s : P s.kept) : P (pageFault s p kind detail addr pool source w).kept := by
  unfold pageFault
  repeat' first
    | with_reducible assumption
    | with_reducible apply telem_kept
    | with_reducible apply State_bump_kept
    | with_reducible apply joinFault_kept
    | with_reducible apply stampFault_kept
    | with_reducible apply enqueueFault_kept
    | (intro z; refine kept_step (P := P) z ?_ ?_ <;> [unfold z; first | (intro w hw hz; rw [← hw]; clear hw z) | (intro w hw hz; rw [hw] at hz; clear hw w; clear_value z)])
    | (intro (z : _ → _); subst z)
    | (intro z; refine value_step z ?_; intro w hw; (try rw [← hw]); clear hw z)
    | lift_lets -underBinder
    | with_reducible refine kept_ite ?_ ?_
    | (fail_if_no_progress (with_reducible refine kept_rec0 ?_))

theorem tlbMiss_kept {P : Kept → Prop} (s : State) (u : ℕ) (h_s : P s.kept) : P (tlbMiss s u).kept := by
  unfold tlbMiss
  repeat' first
    | with_reducible assumption
    | with_reducible apply State_bump_kept
    | with_reducible refine kept_ite ?_ ?_

theorem segMiss_kept {P : Kept → Prop} (s : State) (u : ℕ) (h_s : P s.kept) : P (segMiss s u).kept := by
  unfold segMiss
  repeat' first
    | with_reducible assumption
    | with_reducible apply State_bump_kept
    | with_reducible refine kept_ite ?_ ?_

theorem evictOne_kept {P : Kept → Prop} {α : Type} (s : State) (l : List α) (n : ℕ) (h_s : P s.kept) : P (evictOne s l n).2.kept := by
  unfold evictOne
  repeat' first
    | with_reducible assumption
    | with_reducible apply State_takeFree_kept
    | split

theorem tlbLook_kept {P : Kept → Prop} (s : State) (u : ℕ) (gr : ℕ) (h_s : P s.kept) : P (tlbLook s u gr).kept := by
  unfold tlbLook
  repeat' first
    | with_reducible assumption
    | with_reducible apply tlbMiss_kept
    | with_reducible apply evictOne_kept
    | (intro z; refine kept_step (P := P) z ?_ ?_ <;> [unfold z; first | (intro w hw hz; rw [← hw]; clear hw z) | (intro w hw hz; rw [hw] at hz; clear hw w; clear_value z)])
    | (intro (z : List _); refine value_step z ?_; intro w hw; (try rw [← hw]); clear hw z)
    | (intro z; refine value_step z ?_; intro w hw; (try rw [← hw]); clear hw z)
    | lift_lets -underBinder
    | with_reducible refine kept_ite ?_ ?_
    | split
    | refine kept_snd (by with_reducible assumption) ?_
    | (fail_if_no_progress (with_reducible refine kept_rec0 ?_))

theorem segLook_kept {P : Kept → Prop} (s : State) (u : ℕ) (c : ℕ) (seg : ℕ) (h_s : P s.kept) : P (segLook s u c seg).kept := by
  unfold segLook
  repeat' first
    | with_reducible assumption
    | with_reducible apply segMiss_kept
    | with_reducible apply evictOne_kept
    | (intro z; refine kept_step (P := P) z ?_ ?_ <;> [unfold z; first | (intro w hw hz; rw [← hw]; clear hw z) | (intro w hw hz; rw [hw] at hz; clear hw w; clear_value z)])
    | (intro (z : List _); refine value_step z ?_; intro w hw; (try rw [← hw]); clear hw z)
    | (intro z; refine value_step z ?_; intro w hw; (try rw [← hw]); clear hw z)
    | lift_lets -underBinder
    | with_reducible refine kept_ite ?_ ?_
    | split
    | refine kept_snd (by with_reducible assumption) ?_
    | (fail_if_no_progress (with_reducible refine kept_rec0 ?_))

theorem dropTlb_kept {P : Kept → Prop} (s : State) (ps : List ℕ) (h_s : P s.kept) : P (dropTlb s ps).kept := by
  unfold dropTlb
  repeat' first
    | with_reducible assumption
    | (intro z; refine value_step z ?_; intro w hw; (try rw [← hw]); clear hw z)
    | lift_lets -underBinder
    | (fail_if_no_progress (with_reducible refine kept_rec0 ?_))

theorem dropSeg_kept {P : Kept → Prop} (s : State) (k : ℕ) (h_s : P s.kept) : P (dropSeg s k).kept := by
  unfold dropSeg
  repeat' first
    | with_reducible assumption
    | (intro z; refine value_step z ?_; intro w hw; (try rw [← hw]); clear hw z)
    | lift_lets -underBinder
    | (fail_if_no_progress (with_reducible refine kept_rec0 ?_))

end Sys2Proof.Machine
end

