-- ==== Sys2Proof/Laws/KeptCoherence.lean ====
section
/-! SUPPORT. What the operations of Coherence.lean keep of the queue and the memory, one lemma each. -/

set_option maxRecDepth 100000
set_option linter.all false

namespace Sys2Proof.Machine

open Sys2Proof

theorem putDir_kept {P : Kept → Prop} (s : State) (line : ℕ) (e : Option DirE) (h_s : P s.kept) : P (putDir s line e).kept := by
  unfold putDir
  repeat' first
    | with_reducible assumption
    | (intro z; refine value_step z ?_; intro w hw; (try rw [← hw]); clear hw z)
    | lift_lets -underBinder
    | split
    | (fail_if_no_progress (with_reducible refine kept_rec0 ?_))

theorem dirLook_kept {P : Kept → Prop} (s : State) (line : ℕ) (h_s : P s.kept) : P (dirLook s line).kept := by
  unfold dirLook
  repeat' first
    | with_reducible assumption
    | with_reducible apply State_bump_kept
    | with_reducible apply evictOne_kept
    | (intro (z : Nat); refine value_step z ?_; intro w hw; (try rw [← hw]); clear hw z)
    | (intro (z : List _); refine value_step z ?_; intro w hw; (try rw [← hw]); clear hw z)
    | (intro z; refine value_step z ?_; intro w hw; (try rw [← hw]); clear hw z)
    | lift_lets -underBinder
    | with_reducible refine kept_ite ?_ ?_
    | split
    | refine kept_snd (by with_reducible assumption) ?_
    | (fail_if_no_progress (with_reducible refine kept_rec0 ?_))

theorem sendSnoops_kept {P : Kept → Prop} (s : State) (t : Txn) (h_s : P s.kept) : P (sendSnoops s t).2.kept := by
  unfold sendSnoops
  repeat' first
    | with_reducible assumption
    | with_reducible apply State_emit_kept
    | with_reducible apply State_bump_kept
    | (intro z; refine kept_step (P := P) z ?_ ?_ <;> [unfold z; first | (intro w hw hz; rw [← hw]; clear hw z) | (intro w hw hz; rw [hw] at hz; clear hw w; clear_value z)])
    | (intro z; refine value_step z ?_; intro w hw; (try rw [← hw]); clear hw z)
    | lift_lets -underBinder
    | with_reducible refine kept_ite ?_ ?_
    | split
    | (with_reducible apply kept_foldl_snd <;> intros)
    | refine kept_snd (by with_reducible assumption) ?_
    | (fail_if_no_progress (with_reducible refine kept_rec0 ?_))

theorem putTxn_kept {P : Kept → Prop} (s : State) (t : Txn) (h_s : P s.kept) : P (putTxn s t).kept := by
  unfold putTxn
  repeat' first
    | with_reducible assumption
    | (intro z; refine value_step z ?_; intro w hw; (try rw [← hw]); clear hw z)
    | lift_lets -underBinder
    | (fail_if_no_progress (with_reducible refine kept_rec0 ?_))

theorem startTxn_kept {P : Kept → Prop} (s : State) (line : ℕ) (whom : List (ℕ × ℕ × ℕ × Bool)) (what : TxnFor) (cap : optParam Bool Bool.false) (part : optParam (Option (List (ℕ × ℕ))) Option.none) (h_s : P s.kept) : P (startTxn s line whom what cap part).kept := by
  unfold startTxn
  repeat' first
    | with_reducible assumption
    | with_reducible apply sendSnoops_kept
    | (intro z; refine value_step z ?_; intro w hw; (try rw [← hw]); clear hw z)
    | lift_lets -underBinder
    | split
    | refine kept_snd (by with_reducible assumption) ?_
    | (fail_if_no_progress (with_reducible refine kept_rec0 ?_))

theorem recallVictim_kept {P : Kept → Prop} (s : State) (v : ℕ × DirE) (what : TxnFor) (h_s : P s.kept) : P (recallVictim s v what).kept := by
  unfold recallVictim
  repeat' first
    | with_reducible assumption
    | with_reducible apply startTxn_kept
    | with_reducible apply State_bump_kept

theorem commitEnt_kept {P : Kept → Prop} (s : State) (t : Txn) (h_s : P s.kept) : P (commitEnt s t).kept := by
  unfold commitEnt
  repeat' first
    | with_reducible assumption
    | with_reducible apply putDir_kept
    | (intro (z : List _); refine value_step z ?_; intro w hw; (try rw [← hw]); clear hw z)
    | lift_lets -underBinder
    | with_reducible refine kept_ite ?_ ?_
    | split

theorem pumpSnoops_kept {P : Kept → Prop} (s : State) (h_s : P s.kept) : P (pumpSnoops s).kept := by
  unfold pumpSnoops
  repeat' first
    | with_reducible assumption
    | with_reducible apply sendSnoops_kept
    | with_reducible apply putTxn_kept
    | lift_lets -underBinder
    | with_reducible refine kept_ite ?_ ?_
    | (with_reducible apply kept_foldl <;> intros)

theorem commitTxn_kept {P : Kept → Prop} (hP : MemClosed P) (s : State) (t : Txn) (h_s : P s.kept) : P (commitTxn s t).kept := by
  unfold commitTxn
  repeat' first
    | with_reducible assumption
    | with_reducible apply putTxn_kept
    | with_reducible apply writeLine_kept
    | with_reducible apply commitEnt_kept
    | with_reducible apply pumpSnoops_kept
    | (intro z; refine kept_step (P := P) z ?_ ?_ <;> [unfold z; first | (intro w hw hz; rw [← hw]; clear hw z) | (intro w hw hz; rw [hw] at hz; clear hw w; clear_value z)])
    | (intro z; refine value_step z ?_; intro w hw; (try rw [← hw]); clear hw z)
    | lift_lets -underBinder
    | with_reducible refine kept_ite ?_ ?_
    | split
    | (fail_if_no_progress (with_reducible refine kept_rec0 ?_))

theorem grantS_kept {P : Kept → Prop} (s : State) (line : ℕ) (x : ℕ × ℕ) (h_s : P s.kept) : P (grantS s line x).kept := by
  unfold grantS
  repeat' first
    | with_reducible assumption
    | with_reducible apply putDir_kept
    | (intro z; refine value_step z ?_; intro w hw; (try rw [← hw]); clear hw z)
    | lift_lets -underBinder
    | (fail_if_no_progress (with_reducible refine kept_rec0 ?_))

theorem grantE_kept {P : Kept → Prop} (s : State) (line : ℕ) (x : ℕ × ℕ) (h_s : P s.kept) : P (grantE s line x).kept := by
  unfold grantE
  repeat' first
    | with_reducible assumption
    | with_reducible apply putDir_kept

theorem stray_kept {P : Kept → Prop} (s : State) (line : ℕ) (h_s : P s.kept) : P (stray s line).kept := by
  unfold stray
  repeat' first
    | with_reducible assumption
    | with_reducible apply State_bumpSat_kept

theorem dropSharer_kept {P : Kept → Prop} (s : State) (line : ℕ) (e : DirE) (x : ℕ × ℕ) (h_s : P s.kept) : P (dropSharer s line e x).kept := by
  unfold dropSharer
  repeat' first
    | with_reducible assumption
    | with_reducible apply putDir_kept

theorem enterLost_kept {P : Kept → Prop} (s : State) (line : ℕ) (h_s : P s.kept) : P (enterLost s line).kept := by
  unfold enterLost
  repeat' first
    | with_reducible assumption
    | with_reducible apply State_setFlag_kept
    | with_reducible apply poisonLine_kept
    | (intro (z : Nat); refine value_step z ?_; intro w hw; (try rw [← hw]); clear hw z)
    | (intro z; refine value_step z ?_; intro w hw; (try rw [← hw]); clear hw z)
    | lift_lets -underBinder
    | with_reducible refine kept_ite ?_ ?_
    | (fail_if_no_progress (with_reducible refine kept_rec0 ?_))

theorem ownerLost_kept {P : Kept → Prop} (s : State) (line : ℕ) (port : ℕ) (partner : ℕ) (h_s : P s.kept) : P (ownerLost s line port partner).kept := by
  unfold ownerLost
  repeat' first
    | with_reducible assumption
    | with_reducible apply putDir_kept
    | with_reducible apply enterLost_kept
    | with_reducible apply State_bumpSat_kept
    | with_reducible apply State_set_kept
    | with_reducible apply State_setFlag_kept
    | with_reducible apply postRas_kept

theorem markUnresp_kept {P : Kept → Prop} (s : State) (n : ℕ) (port : ℕ) (partner : ℕ) (h_s : P s.kept) : P (markUnresp s n port partner).kept := by
  unfold markUnresp
  repeat' first
    | with_reducible assumption
    | (intro z; refine value_step z ?_; intro w hw; (try rw [← hw]); clear hw z)
    | lift_lets -underBinder
    | with_reducible refine kept_ite ?_ ?_
    | (fail_if_no_progress (with_reducible refine kept_rec0 ?_))

theorem clearUnresp_kept {P : Kept → Prop} (s : State) (port : ℕ) (partner : ℕ) (h_s : P s.kept) : P (clearUnresp s port partner).kept := by
  unfold clearUnresp
  repeat' first
    | with_reducible assumption
    | (intro z; refine value_step z ?_; intro w hw; (try rw [← hw]); clear hw z)
    | lift_lets -underBinder
    | (fail_if_no_progress (with_reducible refine kept_rec0 ?_))

theorem cutLine_kept {P : Kept → Prop} (left : ℕ → ℕ → ℕ → Bool × Bool) (s : State) (x : ℕ × DirE) (h_s : P s.kept) : P (cutLine left s x).kept := by
  unfold cutLine
  repeat' first
    | with_reducible assumption
    | with_reducible apply startTxn_kept
    | (intro z; refine kept_step (P := P) z ?_ ?_ <;> [unfold z; first | (intro w hw hz; rw [← hw]; clear hw z) | (intro w hw hz; rw [hw] at hz; clear hw w; clear_value z)])
    | (intro (z : List _); refine value_step z ?_; intro w hw; (try rw [← hw]); clear hw z)
    | (intro z; refine value_step z ?_; intro w hw; (try rw [← hw]); clear hw z)
    | lift_lets -underBinder
    | with_reducible refine kept_ite ?_ ?_
    | (fail_if_no_progress (with_reducible refine kept_rec0 ?_))

theorem cutAll_kept {P : Kept → Prop} (s : State) (left : ℕ → ℕ → ℕ → Bool × Bool) (h_s : P s.kept) : P (cutAll s left).kept := by
  unfold cutAll
  repeat' first
    | with_reducible assumption
    | with_reducible apply cutLine_kept
    | (with_reducible apply kept_foldl <;> intros)

theorem recallLine_kept {P : Kept → Prop} (s : State) (line : ℕ) (write : Bool) (what : TxnFor) (h_s : P s.kept) : P (recallLine s line write what).kept := by
  unfold recallLine
  repeat' first
    | with_reducible assumption
    | with_reducible apply startTxn_kept
    | lift_lets -underBinder
    | with_reducible refine kept_ite ?_ ?_
    | split

theorem recallRange_kept {P : Kept → Prop} (s : State) (a : ℕ) (n : ℕ) (write : Bool) (what : TxnFor) (h_s : P s.kept) : P (recallRange s a n write what).2.kept := by
  unfold recallRange
  repeat' first
    | with_reducible assumption
    | with_reducible apply recallLine_kept
    | (intro z; refine kept_step (P := P) z ?_ ?_ <;> [unfold z; first | (intro w hw hz; rw [← hw]; clear hw z) | (intro w hw hz; rw [hw] at hz; clear hw w; clear_value z)])
    | (intro (z : List _); refine value_step z ?_; intro w hw; (try rw [← hw]); clear hw z)
    | lift_lets -underBinder
    | (with_reducible apply kept_foldl <;> intros)

theorem evictRange_kept {P : Kept → Prop} (s : State) (a : ℕ) (n : ℕ) (what : TxnFor) (h_s : P s.kept) : P (evictRange s a n what).2.kept := by
  unfold evictRange
  repeat' first
    | with_reducible assumption
    | with_reducible apply recallRange_kept

end Sys2Proof.Machine
end

