-- ==== Sys2Proof/Laws/KeptGuest.lean ====
section
/-! SUPPORT. What the operations of Guest.lean keep of the queue and the memory, one lemma each. -/

set_option maxRecDepth 100000
set_option linter.all false

namespace Sys2Proof.Machine

open Sys2Proof

theorem putGuest_kept {P : Kept → Prop} (s : State) (n : ℕ) (line : ℕ) (g : Guest) (h_s : P s.kept) : P (putGuest s n line g).kept := by
  unfold putGuest
  repeat' first
    | with_reducible assumption
    | (intro z; refine value_step z ?_; intro w hw; (try rw [← hw]); clear hw z)
    | lift_lets -underBinder
    | (fail_if_no_progress (with_reducible refine kept_rec0 ?_))

theorem dropGuest_kept {P : Kept → Prop} (s : State) (n : ℕ) (line : ℕ) (h_s : P s.kept) : P (dropGuest s n line).kept := by
  unfold dropGuest
  repeat' first
    | with_reducible assumption
    | (intro z; refine kept_step (P := P) z ?_ ?_ <;> [unfold z; first | (intro w hw hz; rw [← hw]; clear hw z) | (intro w hw hz; rw [hw] at hz; clear hw w; clear_value z)])
    | (intro (z : Nat); refine value_step z ?_; intro w hw; (try rw [← hw]); clear hw z)
    | (intro (z : List _); refine value_step z ?_; intro w hw; (try rw [← hw]); clear hw z)
    | (intro z; refine value_step z ?_; intro w hw; (try rw [← hw]); clear hw z)
    | lift_lets -underBinder
    | with_reducible refine kept_ite ?_ ?_
    | (fail_if_no_progress (with_reducible refine kept_rec0 ?_))

theorem applyBack_kept {P : Kept → Prop} (hP : MemClosed P) (s : State) (n : ℕ) (line : ℕ) (gone : Bool) (h_s : P s.kept) : P (applyBack s n line gone).kept := by
  unfold applyBack
  repeat' first
    | with_reducible assumption
    | with_reducible apply writeLine_kept
    | with_reducible apply State_putBytes_kept
    | with_reducible apply dropGuest_kept
    | with_reducible apply putGuest_kept
    | (intro z; refine kept_step (P := P) z ?_ ?_ <;> [unfold z; first | (intro w hw hz; rw [← hw]; clear hw z) | (intro w hw hz; rw [hw] at hz; clear hw w; clear_value z)])
    | (intro (z : Bool); refine value_step z ?_; intro w hw; (try rw [← hw]); clear hw z)
    | lift_lets -underBinder
    | with_reducible refine kept_ite ?_ ?_
    | split

theorem drainBacks_kept {P : Kept → Prop} (hP : MemClosed P) (s : State) (h_s : P s.kept) : P (drainBacks s).kept := by
  unfold drainBacks
  repeat' first
    | with_reducible assumption
    | with_reducible apply recallLine_kept
    | with_reducible apply applyBack_kept
    | (intro z; refine value_step z ?_; intro w hw; (try rw [← hw]); clear hw z)
    | lift_lets -underBinder
    | with_reducible refine kept_ite ?_ ?_
    | (with_reducible apply kept_foldl <;> intros)
    | (fail_if_no_progress (with_reducible refine kept_rec0 ?_))

theorem writeBacks_kept {P : Kept → Prop} (hP : MemClosed P) (s : State) (n : ℕ) (ls : List ℕ) (gone : Bool) (h_s : P s.kept) : P (writeBacks s n ls gone).kept := by
  unfold writeBacks
  repeat' first
    | with_reducible assumption
    | with_reducible apply dropGuest_kept
    | with_reducible apply drainBacks_kept
    | (intro z; refine value_step z ?_; intro w hw; (try rw [← hw]); clear hw z)
    | lift_lets -underBinder
    | split
    | (with_reducible apply kept_foldl <;> intros)
    | (fail_if_no_progress (with_reducible refine kept_rec0 ?_))

theorem flushLines_kept {P : Kept → Prop} (hP : MemClosed P) (s : State) (n : ℕ) (ls : List ℕ) (h_s : P s.kept) : P (flushLines s n ls).kept := by
  unfold flushLines
  repeat' first
    | with_reducible assumption
    | with_reducible apply writeBacks_kept
    | with_reducible apply State_set_kept
    | with_reducible apply State_bump_kept

theorem flushRange_kept {P : Kept → Prop} (hP : MemClosed P) (s : State) (ns : List ℕ) (base : ℕ) (len : ℕ) (h_s : P s.kept) : P (flushRange s ns base len).kept := by
  unfold flushRange
  repeat' first
    | with_reducible assumption
    | with_reducible apply flushLines_kept
    | (with_reducible apply kept_foldl <;> intros)

theorem acquireRange_kept {P : Kept → Prop} (hP : MemClosed P) (s : State) (ns : List ℕ) (base : ℕ) (len : ℕ) (h_s : P s.kept) : P (acquireRange s ns base len).kept := by
  unfold acquireRange
  repeat' first
    | with_reducible assumption
    | with_reducible apply State_bump_kept
    | with_reducible apply writeBacks_kept
    | (with_reducible apply kept_foldl <;> intros)

theorem flushContext_kept {P : Kept → Prop} (hP : MemClosed P) (s : State) (ns : List ℕ) (c : ℕ) (h_s : P s.kept) : P (flushContext s ns c).kept := by
  unfold flushContext
  repeat' first
    | with_reducible assumption
    | with_reducible apply flushLines_kept
    | (with_reducible apply kept_foldl <;> intros)

theorem nextStamp_kept {P : Kept → Prop} (hP : MemClosed P) (s : State) (n : ℕ) (h_s : P s.kept) : P (nextStamp s n).2.kept := by
  unfold nextStamp
  repeat' first
    | with_reducible assumption
    | with_reducible apply writeBacks_kept
    | with_reducible apply State_bumpSat_kept
    | with_reducible apply State_set_kept
    | (intro z; refine kept_step (P := P) z ?_ ?_ <;> [unfold z; first | (intro w hw hz; rw [← hw]; clear hw z) | (intro w hw hz; rw [hw] at hz; clear hw w; clear_value z)])
    | (intro (z : Nat); refine value_step z ?_; intro w hw; (try rw [← hw]); clear hw z)
    | lift_lets -underBinder
    | split

theorem trackUse_kept {P : Kept → Prop} (hP : MemClosed P) (s : State) (n : ℕ) (line : ℕ) (writer : ℕ) (h_s : P s.kept) : P (trackUse s n line writer).kept := by
  unfold trackUse
  repeat' first
    | with_reducible assumption
    | with_reducible apply State_bumpSat_kept
    | with_reducible apply writeBacks_kept
    | (intro z; refine kept_step (P := P) z ?_ ?_ <;> [unfold z; first | (intro w hw hz; rw [← hw]; clear hw z) | (intro w hw hz; rw [hw] at hz; clear hw w; clear_value z)])
    | (intro (z : Nat); refine value_step z ?_; intro w hw; (try rw [← hw]); clear hw z)
    | (intro (z : List _); refine value_step z ?_; intro w hw; (try rw [← hw]); clear hw z)
    | (intro (z : Prod _ _); subst z)
    | (intro z; refine value_step z ?_; intro w hw; (try rw [← hw]); clear hw z)
    | lift_lets -underBinder
    | split
    | (fail_if_no_progress (with_reducible refine kept_rec0 ?_))

theorem guestRoom_kept {P : Kept → Prop} (hP : MemClosed P) (s : State) (n : ℕ) (line : ℕ) (h_s : P s.kept) : P (guestRoom s n line).kept := by
  unfold guestRoom
  repeat' first
    | with_reducible assumption
    | with_reducible apply State_takeFree_kept
    | with_reducible apply writeBacks_kept
    | (intro (z : List _); refine value_step z ?_; intro w hw; (try rw [← hw]); clear hw z)
    | lift_lets -underBinder
    | with_reducible refine kept_ite ?_ ?_
    | split
    | refine kept_snd (by with_reducible assumption) ?_

theorem readLine_kept {P : Kept → Prop} (hP : MemClosed P) (s : State) (v : Option View) (line : ℕ) (h_s : P s.kept) : P (readLine s v line).2.kept := by
  unfold readLine
  repeat' first
    | with_reducible assumption
    | with_reducible apply State_bump_kept
    | with_reducible apply trackUse_kept
    | with_reducible apply putGuest_kept
    | with_reducible apply guestRoom_kept
    | (intro z; refine kept_step (P := P) z ?_ ?_ <;> [unfold z; first | (intro w hw hz; rw [← hw]; clear hw z) | (intro w hw hz; rw [hw] at hz; clear hw w; clear_value z)])
    | (intro (z : Nat); refine value_step z ?_; intro w hw; (try rw [← hw]); clear hw z)
    | (intro (z : List _); refine value_step z ?_; intro w hw; (try rw [← hw]); clear hw z)
    | lift_lets -underBinder
    | split

theorem writePart_kept {P : Kept → Prop} (hP : MemClosed P) (s : State) (v : Option View) (c : ℕ) (line : ℕ) (a : ℕ) (data : List Sys2Proof.Byte) (h_s : P s.kept) : P (writePart s v c line a data).kept := by
  unfold writePart
  repeat' first
    | with_reducible assumption
    | with_reducible apply writeLine_kept
    | with_reducible apply putGuest_kept
    | with_reducible apply trackUse_kept
    | with_reducible apply guestRoom_kept
    | (intro (z : Nat); refine value_step z ?_; intro w hw; (try rw [← hw]); clear hw z)
    | (intro (z : List _); refine value_step z ?_; intro w hw; (try rw [← hw]); clear hw z)
    | lift_lets -underBinder
    | split

theorem discardGuests_kept {P : Kept → Prop} (s : State) (ps : List ℕ) (h_s : P s.kept) : P (discardGuests s ps).kept := by
  unfold discardGuests
  repeat' first
    | with_reducible assumption
    | with_reducible apply dropGuest_kept
    | lift_lets -underBinder
    | (with_reducible apply kept_foldl <;> intros)

end Sys2Proof.Machine
end

