-- ==== Sys2Proof/Laws/KeptLanes.lean ====
section
/-! SUPPORT. What the operations of Lanes.lean keep of the queue and the memory, one lemma each. -/

set_option maxRecDepth 100000
set_option linter.all false

namespace Sys2Proof.Machine

open Sys2Proof

theorem putFlight_kept {P : Kept → Prop} (s : State) (f : Flight) (h_s : P s.kept) : P (putFlight s f).kept := by
  unfold putFlight
  repeat' first
    | with_reducible assumption
    | (intro z; refine value_step z ?_; intro w hw; (try rw [← hw]); clear hw z)
    | lift_lets -underBinder
    | (fail_if_no_progress (with_reducible refine kept_rec0 ?_))

theorem dropFlight_kept {P : Kept → Prop} (s : State) (f : Flight) (h_s : P s.kept) : P (dropFlight s f).kept := by
  unfold dropFlight
  repeat' first
    | with_reducible assumption
    | (intro z; refine value_step z ?_; intro w hw; (try rw [← hw]); clear hw z)
    | lift_lets -underBinder
    | (fail_if_no_progress (with_reducible refine kept_rec0 ?_))

theorem putTenant_kept {P : Kept → Prop} (s : State) (p : ℕ) (t : ℕ) (q : Tenant) (h_s : P s.kept) : P (putTenant s p t q).kept := by
  unfold putTenant
  repeat' first
    | with_reducible assumption
    | (intro z; refine value_step z ?_; intro w hw; (try rw [← hw]); clear hw z)
    | lift_lets -underBinder
    | (fail_if_no_progress (with_reducible refine kept_rec0 ?_))

theorem refreshTq_kept {P : Kept → Prop} (s : State) (p : ℕ) (t : ℕ) (h_s : P s.kept) : P (refreshTq s p t).kept := by
  unfold refreshTq
  repeat' first
    | with_reducible assumption
    | with_reducible apply putTenant_kept

theorem headTag_kept {P : Kept → Prop} (s : State) (p : ℕ) (t : ℕ) (c : ℕ) (h_s : P s.kept) : P (headTag s p t c).kept := by
  unfold headTag
  repeat' first
    | with_reducible assumption
    | with_reducible apply putTenant_kept

theorem noteLane_kept {P : Kept → Prop} (s : State) (p : ℕ) (t : ℕ) (c : ℕ) (h_s : P s.kept) : P (noteLane s p t c).kept := by
  unfold noteLane
  repeat' first
    | with_reducible assumption
    | with_reducible apply putTenant_kept

theorem noteLanes_kept {P : Kept → Prop} (s : State) (p : ℕ) (h_s : P s.kept) : P (noteLanes s p).kept := by
  unfold noteLanes
  repeat' first
    | with_reducible assumption
    | with_reducible apply noteLane_kept
    | (with_reducible apply kept_foldl <;> intros)

theorem chargeTq_kept {P : Kept → Prop} (s : State) (f : Flight) (step3 : Bool) (h_s : P s.kept) : P (chargeTq s f step3).kept := by
  unfold chargeTq
  repeat' first
    | with_reducible assumption
    | with_reducible apply putTenant_kept
    | with_reducible apply State_set_kept
    | (intro z; refine kept_step (P := P) z ?_ ?_ <;> [unfold z; first | (intro w hw hz; rw [← hw]; clear hw z) | (intro w hw hz; rw [hw] at hz; clear hw w; clear_value z)])
    | (intro (z : Nat); refine value_step z ?_; intro w hw; (try rw [← hw]); clear hw z)
    | (intro z; refine value_step z ?_; intro w hw; (try rw [← hw]); clear hw z)
    | lift_lets -underBinder
    | with_reducible refine kept_ite ?_ ?_

theorem countSpill_kept {P : Kept → Prop} (s : State) (r : Sys2Proof.Req) (h_s : P s.kept) : P (countSpill s r).kept := by
  unfold countSpill
  repeat' first
    | with_reducible assumption
    | with_reducible apply State_set_kept
    | with_reducible apply State_raiseTo_kept
    | (intro z; refine value_step z ?_; intro w hw; (try rw [← hw]); clear hw z)
    | lift_lets -underBinder
    | (fail_if_no_progress (with_reducible refine kept_rec0 ?_))

theorem qcLook_kept {P : Kept → Prop} (s : State) (g : ℕ) (h_s : P s.kept) : P (qcLook s g).kept := by
  unfold qcLook
  repeat' first
    | with_reducible assumption
    | with_reducible apply State_bump_kept
    | with_reducible apply evictOne_kept
    | (intro z; refine value_step z ?_; intro w hw; (try rw [← hw]); clear hw z)
    | lift_lets -underBinder
    | with_reducible refine kept_ite ?_ ?_
    | split
    | refine kept_snd (by with_reducible assumption) ?_
    | (fail_if_no_progress (with_reducible refine kept_rec0 ?_))

theorem ringCpair_kept {P : Kept → Prop} (s : State) (g : ℕ) (h_s : P s.kept) : P (ringCpair s g).kept := by
  unfold ringCpair
  repeat' first
    | with_reducible assumption
    | with_reducible apply State_putRing_kept
    | with_reducible apply finishJob_kept
    | with_reducible apply postCpair_kept
    | (intro z; refine value_step z ?_; intro w hw; (try rw [← hw]); clear hw z)
    | lift_lets -underBinder
    | split
    | (with_reducible apply kept_foldl <;> intros)
    | (fail_if_no_progress (with_reducible refine kept_rec0 ?_))

theorem doorbell_kept {P : Kept → Prop} (s : State) (g : ℕ) (path : ℕ) (partner : ℕ) (ctx : ℕ) (aligned : Bool) (v : ℕ) (h_s : P s.kept) : P (doorbell s g path partner ctx aligned v).2.kept := by
  unfold doorbell
  repeat' first
    | with_reducible assumption
    | with_reducible apply State_bumpSat_kept
    | with_reducible apply qcLook_kept
    | with_reducible apply ringCpair_kept
    | with_reducible apply postCpair_kept
    | with_reducible apply State_putRing_kept
    | (intro z; refine kept_step (P := P) z ?_ ?_ <;> [unfold z; first | (intro w hw hz; rw [← hw]; clear hw z) | (intro w hw hz; rw [hw] at hz; clear hw w; clear_value z)])
    | (intro z; refine value_step z ?_; intro w hw; (try rw [← hw]); clear hw z)
    | lift_lets -underBinder
    | split

theorem doorbellGet_kept {P : Kept → Prop} (s : State) (g : ℕ) (path : ℕ) (partner : ℕ) (ctx : ℕ) (aligned : Bool) (h_s : P s.kept) : P (doorbellGet s g path partner ctx aligned).2.2.kept := by
  unfold doorbellGet
  repeat' first
    | with_reducible assumption
    | with_reducible apply State_bumpSat_kept
    | with_reducible apply qcLook_kept
    | (intro (z : Nat); refine value_step z ?_; intro w hw; (try rw [← hw]); clear hw z)
    | (intro z; refine value_step z ?_; intro w hw; (try rw [← hw]); clear hw z)
    | lift_lets -underBinder
    | split

end Sys2Proof.Machine
end

