-- ==== Sys2Proof/Laws/KeptFabric.lean ====
section
/-! SUPPORT. What the operations of Fabric.lean keep of the queue and the memory, one lemma each. -/

set_option maxRecDepth 100000
set_option linter.all false

namespace Sys2Proof.Machine

open Sys2Proof

theorem cxlNote_kept {P : Kept → Prop} (s : State) (f : Flight) (c : Sys2Proof.Code) (h_s : P s.kept) : P (cxlNote s f c).kept := by
  unfold cxlNote
  repeat' first
    | with_reducible assumption
    | with_reducible apply State_bumpSat_kept
    | with_reducible apply setPort_kept
    | (intro (z : Nat); refine value_step z ?_; intro w hw; (try rw [← hw]); clear hw z)
    | lift_lets -underBinder
    | with_reducible refine kept_ite ?_ ?_

theorem answer_kept {P : Kept → Prop} (s : State) (f : Flight) (c : Sys2Proof.Code) (detail : ℕ) (data : List Sys2Proof.Byte) (h_s : P s.kept) : P (answer s f c detail data).kept := by
  unfold answer
  repeat' first
    | with_reducible assumption
    | with_reducible apply dropFlight_kept
    | with_reducible apply cxlNote_kept
    | with_reducible apply State_emit_kept
    | with_reducible apply telemCode_kept
    | with_reducible apply State_bump_kept
    | (intro z; refine kept_step (P := P) z ?_ ?_ <;> [unfold z; first | (intro w hw hz; rw [← hw]; clear hw z) | (intro w hw hz; rw [hw] at hz; clear hw w; clear_value z)])
    | (intro z; refine value_step z ?_; intro w hw; (try rw [← hw]); clear hw z)
    | lift_lets -underBinder
    | with_reducible refine kept_ite ?_ ?_
    | (fail_if_no_progress (with_reducible refine kept_rec0 ?_))

theorem answerCode_kept {P : Kept → Prop} (s : State) (f : Flight) (c : Sys2Proof.Code) (h_s : P s.kept) : P (answerCode s f c).kept := by
  unfold answerCode
  repeat' first
    | with_reducible assumption
    | with_reducible apply answer_kept

theorem putEntry_kept {P : Kept → Prop} (s : State) (e : Entry) (h_s : P s.kept) : P (putEntry s e).kept := by
  unfold putEntry
  repeat' first
    | with_reducible assumption
    | (intro z; refine value_step z ?_; intro w hw; (try rw [← hw]); clear hw z)
    | lift_lets -underBinder
    | (fail_if_no_progress (with_reducible refine kept_rec0 ?_))

theorem dropEntry_kept {P : Kept → Prop} (s : State) (id : ℕ) (h_s : P s.kept) : P (dropEntry s id).kept := by
  unfold dropEntry
  repeat' first
    | with_reducible assumption
    | (intro z; refine value_step z ?_; intro w hw; (try rw [← hw]); clear hw z)
    | lift_lets -underBinder
    | (fail_if_no_progress (with_reducible refine kept_rec0 ?_))

theorem closeReads_kept {P : Kept → Prop} (s : State) (a : ℕ) (n : ℕ) (h_s : P s.kept) : P (closeReads s a n).kept := by
  unfold closeReads
  repeat' first
    | with_reducible assumption
    | with_reducible apply State_bump_kept
    | (intro z; refine kept_step (P := P) z ?_ ?_ <;> [unfold z; first | (intro w hw hz; rw [← hw]; clear hw z) | (intro w hw hz; rw [hw] at hz; clear hw w; clear_value z)])
    | (intro (z : Nat); refine value_step z ?_; intro w hw; (try rw [← hw]); clear hw z)
    | (intro (z : _ → _); subst z)
    | (intro z; refine value_step z ?_; intro w hw; (try rw [← hw]); clear hw z)
    | lift_lets -underBinder
    | with_reducible refine kept_ite ?_ ?_
    | (fail_if_no_progress (with_reducible refine kept_rec0 ?_))

theorem renewHot_kept {P : Kept → Prop} (s : State) (line : ℕ) (h_s : P s.kept) : P (renewHot s line).kept := by
  unfold renewHot
  repeat' first
    | with_reducible assumption
    | (intro (z : List _); refine value_step z ?_; intro w hw; (try rw [← hw]); clear hw z)
    | (intro z; refine value_step z ?_; intro w hw; (try rw [← hw]); clear hw z)
    | lift_lets -underBinder
    | (fail_if_no_progress (with_reducible refine kept_rec0 ?_))

theorem planMove_kept {P : Kept → Prop} (s : State) (m : Move) (h_s : P s.kept) : P (planMove s m).kept := by
  unfold planMove
  repeat' first
    | with_reducible assumption
    | (intro (z : Store); subst z)
    | lift_lets -underBinder
    | with_reducible refine kept_ite ?_ ?_
    | (fail_if_no_progress (with_reducible refine kept_rec ?_))

theorem beginPromote_kept {P : Kept → Prop} (s : State) (p : ℕ) (e : Page) (got : List ℕ) (h_s : P s.kept) : P (beginPromote s p e got).kept := by
  unfold beginPromote
  repeat' first
    | with_reducible assumption
    | with_reducible apply takeFrame_kept
    | with_reducible apply dropTlb_kept
    | with_reducible apply State_putPage_kept
    | (intro (z : Store); subst z)
    | lift_lets -underBinder
    | split
    | refine kept_snd (by with_reducible assumption) ?_
    | (fail_if_no_progress (with_reducible refine kept_rec ?_))

theorem touch_kept {P : Kept → Prop} (s : State) (gr : ℕ) (h_s : P s.kept) : P (touch s gr).kept := by
  unfold touch
  repeat' first
    | with_reducible assumption
    | with_reducible apply State_takeFree_kept
    | with_reducible apply State_raiseTo_kept
    | with_reducible apply State_bump_kept
    | with_reducible apply beginPromote_kept
    | with_reducible apply planMove_kept
    | (intro z; refine kept_step (P := P) z ?_ ?_ <;> [unfold z; first | (intro w hw hz; rw [← hw]; clear hw z) | (intro w hw hz; rw [hw] at hz; clear hw w; clear_value z)])
    | (intro (z : Nat); refine value_step z ?_; intro w hw; (try rw [← hw]); clear hw z)
    | (intro z; refine value_step z ?_; intro w hw; (try rw [← hw]); clear hw z)
    | lift_lets -underBinder
    | with_reducible refine kept_ite ?_ ?_
    | split

theorem nextOrder_kept {P : Kept → Prop} (s : State) (h_s : P s.kept) : P (nextOrder s).2.kept := by
  unfold nextOrder
  repeat' first
    | with_reducible assumption
    | (intro z; refine value_step z ?_; intro w hw; (try rw [← hw]); clear hw z)
    | lift_lets -underBinder
    | (fail_if_no_progress (with_reducible refine kept_rec0 ?_))

theorem makeRsv_kept {P : Kept → Prop} (s : State) (f : Flight) (line : ℕ) (k : ℕ) (h_s : P s.kept) : P (makeRsv s f line k).kept := by
  unfold makeRsv
  repeat' first
    | with_reducible assumption
    | with_reducible apply nextOrder_kept
    | with_reducible apply State_bump_kept
    | (intro z; refine value_step z ?_; intro w hw; (try rw [← hw]); clear hw z)
    | lift_lets -underBinder
    | (fail_if_no_progress (with_reducible refine kept_rec0 ?_))

theorem waitHome_kept {P : Kept → Prop} (s : State) (f : Flight) (st : Stage) (h_s : P s.kept) : P (waitHome s f st).kept := by
  unfold waitHome
  repeat' first
    | with_reducible assumption
    | with_reducible apply nextOrder_kept
    | with_reducible apply putFlight_kept
    | with_reducible refine kept_ite ?_ ?_

theorem homeBusy_kept {P : Kept → Prop} (s : State) (f : Flight) (line : ℕ) (h_s : P s.kept) : P (homeBusy s f line).kept := by
  unfold homeBusy
  repeat' first
    | with_reducible assumption
    | with_reducible apply waitHome_kept
    | with_reducible apply State_bump_kept
    | with_reducible apply makeRsv_kept
    | with_reducible apply putFlight_kept
    | with_reducible apply putEntry_kept
    | with_reducible apply dropEntry_kept
    | with_reducible apply answer_kept
    | (intro z; refine kept_step (P := P) z ?_ ?_ <;> [unfold z; first | (intro w hw hz; rw [← hw]; clear hw z) | (intro w hw hz; rw [hw] at hz; clear hw w; clear_value z)])
    | (intro (z : Nat); refine value_step z ?_; intro w hw; (try rw [← hw]); clear hw z)
    | (intro (z : Bool); refine value_step z ?_; intro w hw; (try rw [← hw]); clear hw z)
    | lift_lets -underBinder
    | with_reducible refine kept_ite ?_ ?_
    | split

theorem consumeRsv_kept {P : Kept → Prop} (s : State) (f : Flight) (lines : List ℕ) (h_s : P s.kept) : P (consumeRsv s f lines).2.kept := by
  unfold consumeRsv
  repeat' first
    | with_reducible assumption
    | (intro z; refine value_step z ?_; intro w hw; (try rw [← hw]); clear hw z)
    | lift_lets -underBinder
    | split
    | (fail_if_no_progress (with_reducible refine kept_rec0 ?_))

theorem shareOne_kept {P : Kept → Prop} (s : State) (f : Flight) (pa : ℕ) (line : ℕ) (h_s : P s.kept) : P (shareOne s f pa line).2.kept := by
  unfold shareOne
  repeat' first
    | with_reducible assumption
    | with_reducible apply grantE_kept
    | with_reducible apply grantS_kept
    | (intro (z : Prod _ _); subst z)
    | lift_lets -underBinder
    | split

theorem applyPublish_kept {P : Kept → Prop} (hP : MemClosed P) (s : State) (pa : ℕ) (payload : List Sys2Proof.Byte) (h_s : P s.kept) : P (applyPublish s pa payload).2.2.kept := by
  unfold applyPublish
  repeat' first
    | with_reducible assumption
    | with_reducible apply postCpair_kept
    | with_reducible apply State_bump_kept
    | with_reducible apply closeReads_kept
    | with_reducible apply writeRange_kept
    | (intro z; refine kept_step (P := P) z ?_ ?_ <;> [unfold z; first | (intro w hw hz; rw [← hw]; clear hw z) | (intro w hw hz; rw [hw] at hz; clear hw w; clear_value z)])
    | (intro (z : Nat); refine value_step z ?_; intro w hw; (try rw [← hw]); clear hw z)
    | (intro z; subst z)
    | lift_lets -underBinder
    | split

theorem applyAt_kept {P : Kept → Prop} (hP : MemClosed P) (s : State) (f : Flight) (pa : ℕ) (h_s : P s.kept) : P (applyAt s f pa).2.kept := by
  unfold applyAt
  repeat' first
    | with_reducible assumption
    | with_reducible apply telem_kept
    | with_reducible apply touch_kept
    | with_reducible apply countLines_kept
    | with_reducible apply shareOne_kept
    | with_reducible apply grantE_kept
    | with_reducible apply writeRange_kept
    | with_reducible apply closeReads_kept
    | with_reducible apply applyPublish_kept
    | (intro z; refine kept_step (P := P) z ?_ ?_ <;> [unfold z; first | (intro w hw hz; rw [← hw]; clear hw z) | (intro w hw hz; rw [hw] at hz; clear hw w; clear_value z)])
    | (intro (z : Nat); refine value_step z ?_; intro w hw; (try rw [← hw]); clear hw z)
    | (intro (z : Bool); refine value_step z ?_; intro w hw; (try rw [← hw]); clear hw z)
    | (intro (z : List _); refine value_step z ?_; intro w hw; (try rw [← hw]); clear hw z)
    | (intro (z : _ → _); subst z)
    | (intro (z : Prod _ _); subst z)
    | lift_lets -underBinder
    | with_reducible refine kept_ite ?_ ?_
    | split

theorem deliver_kept {P : Kept → Prop} (s : State) (e : Entry) (got : Got) (h_s : P s.kept) : P (deliver s e got).kept := by
  unfold deliver
  repeat' first
    | with_reducible assumption
    | with_reducible apply dropEntry_kept
    | with_reducible apply answerCode_kept
    | with_reducible apply State_bumpSat_kept
    | with_reducible apply answer_kept
    | (intro z; refine kept_step (P := P) z ?_ ?_ <;> [unfold z; first | (intro w hw hz; rw [← hw]; clear hw z) | (intro w hw hz; rw [hw] at hz; clear hw w; clear_value z)])
    | lift_lets -underBinder
    | split
    | (with_reducible apply kept_foldl <;> intros)

theorem applyShared_kept {P : Kept → Prop} (hP : MemClosed P) (s : State) (e : Entry) (pa : ℕ) (h_s : P s.kept) : P (applyShared s e pa).2.kept := by
  unfold applyShared
  repeat' first
    | with_reducible assumption
    | with_reducible apply applyAt_kept
    | with_reducible apply grantS_kept
    | lift_lets -underBinder
    | split
    | (with_reducible apply kept_foldl <;> intros)
    | refine kept_snd (by with_reducible assumption) ?_

theorem applyEntryAtomics_kept {P : Kept → Prop} (hP : MemClosed P) (s : State) (e : Entry) (h_s : P s.kept) : P (applyEntryAtomics s e).kept := by
  unfold applyEntryAtomics
  repeat' first
    | with_reducible assumption
    | with_reducible apply applyAt_kept
    | with_reducible apply answer_kept
    | with_reducible apply dropEntry_kept
    | lift_lets -underBinder
    | split
    | (with_reducible apply kept_foldl <;> intros)

theorem finishHome_kept {P : Kept → Prop} (hP : MemClosed P) (s : State) (f : Flight) (pa : ℕ) (fin : Bool) (h_s : P s.kept) : P (finishHome s f pa fin).kept := by
  unfold finishHome
  repeat' first
    | with_reducible assumption
    | with_reducible apply applyAt_kept
    | with_reducible apply answer_kept
    | with_reducible apply applyEntryAtomics_kept
    | with_reducible apply putFlight_kept
    | with_reducible apply applyShared_kept
    | with_reducible apply deliver_kept
    | lift_lets -underBinder
    | with_reducible refine kept_ite ?_ ?_
    | split

theorem endHome_kept {P : Kept → Prop} (s : State) (f : Flight) (c : Sys2Proof.Code) (h_s : P s.kept) : P (endHome s f c).kept := by
  unfold endHome
  repeat' first
    | with_reducible assumption
    | with_reducible apply answerCode_kept
    | with_reducible apply dropEntry_kept
    | (intro z; refine kept_step (P := P) z ?_ ?_ <;> [unfold z; first | (intro w hw hz; rw [← hw]; clear hw z) | (intro w hw hz; rw [hw] at hz; clear hw w; clear_value z)])
    | lift_lets -underBinder
    | split
    | (with_reducible apply kept_foldl <;> intros)

theorem homeGo_kept {P : Kept → Prop} (hP : MemClosed P) (s : State) (f : Flight) (fin : Bool) (h_s : P s.kept) : P (homeGo s f fin).kept := by
  unfold homeGo
  repeat' first
    | with_reducible assumption
    | with_reducible apply pageFault_kept
    | with_reducible apply putFlight_kept
    | with_reducible apply endHome_kept
    | with_reducible apply State_bumpSat_kept
    | with_reducible apply dirLook_kept
    | with_reducible apply consumeRsv_kept
    | with_reducible apply homeBusy_kept
    | with_reducible apply finishHome_kept
    | with_reducible apply startTxn_kept
    | with_reducible apply recallVictim_kept
    | (intro z; refine kept_step (P := P) z ?_ ?_ <;> [unfold z; first | (intro w hw hz; rw [← hw]; clear hw z) | (intro w hw hz; rw [hw] at hz; clear hw w; clear_value z)])
    | (intro (z : Nat); refine value_step z ?_; intro w hw; (try rw [← hw]); clear hw z)
    | (intro (z : Bool); refine value_step z ?_; intro w hw; (try rw [← hw]); clear hw z)
    | (intro (z : List _); refine value_step z ?_; intro w hw; (try rw [← hw]); clear hw z)
    | (intro z; refine value_step z ?_; intro w hw; (try rw [← hw]); clear hw z)
    | lift_lets -underBinder
    | with_reducible refine kept_ite ?_ ?_
    | split
    | (with_reducible apply kept_foldl <;> intros)
    | refine kept_snd (by with_reducible assumption) ?_

theorem joinEntry_kept {P : Kept → Prop} (s : State) (f : Flight) (e : Entry) (h_s : P s.kept) : P (joinEntry s f e).kept := by
  unfold joinEntry
  repeat' first
    | with_reducible assumption
    | with_reducible apply putEntry_kept
    | with_reducible apply putFlight_kept
    | with_reducible apply State_bump_kept
    | (intro z; refine kept_step (P := P) z ?_ ?_ <;> [unfold z; first | (intro w hw hz; rw [← hw]; clear hw z) | (intro w hw hz; rw [hw] at hz; clear hw w; clear_value z)])
    | lift_lets -underBinder
    | with_reducible refine kept_ite ?_ ?_

theorem openEntry_kept {P : Kept → Prop} (s : State) (f : Flight) (pa : ℕ) (h_s : P s.kept) : P (openEntry s f pa).2.kept := by
  unfold openEntry
  repeat' first
    | with_reducible assumption
    | with_reducible apply putFlight_kept
    | (intro z; refine value_step z ?_; intro w hw; (try rw [← hw]); clear hw z)
    | lift_lets -underBinder
    | (fail_if_no_progress (with_reducible refine kept_rec0 ?_))

theorem anvilRead_kept {P : Kept → Prop} (hP : MemClosed P) (s : State) (f : Flight) (pa : ℕ) (h_s : P s.kept) : P (anvilRead s f pa).kept := by
  unfold anvilRead
  repeat' first
    | with_reducible assumption
    | with_reducible apply joinEntry_kept
    | with_reducible apply openEntry_kept
    | with_reducible apply homeGo_kept
    | with_reducible apply State_bump_kept
    | with_reducible refine kept_ite ?_ ?_
    | split

theorem anvilAtomic_kept {P : Kept → Prop} (hP : MemClosed P) (s : State) (f : Flight) (pa : ℕ) (h_s : P s.kept) : P (anvilAtomic s f pa).kept := by
  unfold anvilAtomic
  repeat' first
    | with_reducible assumption
    | with_reducible apply joinEntry_kept
    | with_reducible apply openEntry_kept
    | with_reducible apply homeGo_kept
    | with_reducible apply State_bump_kept
    | with_reducible apply renewHot_kept
    | with_reducible refine kept_ite ?_ ?_
    | split

theorem flagGo_kept {P : Kept → Prop} (hP : MemClosed P) (s : State) (f : Flight) (h_s : P s.kept) : P (flagGo s f).kept := by
  unfold flagGo
  repeat' first
    | with_reducible assumption
    | with_reducible apply answer_kept
    | with_reducible apply State_bumpSat_kept
    | with_reducible apply homeGo_kept
    | split

theorem proceed_kept {P : Kept → Prop} (hP : MemClosed P) (s : State) (f : Flight) (h_s : P s.kept) : P (proceed s f).kept := by
  unfold proceed
  repeat' first
    | with_reducible assumption
    | with_reducible apply putFlight_kept
    | with_reducible apply flagGo_kept
    | with_reducible apply homeGo_kept
    | with_reducible apply anvilRead_kept
    | with_reducible apply anvilAtomic_kept
    | lift_lets -underBinder
    | with_reducible refine kept_ite ?_ ?_
    | split

theorem windowGo_kept {P : Kept → Prop} (s : State) (f : Flight) (pa : ℕ) (h_s : P s.kept) : P (windowGo s f pa).kept := by
  unfold windowGo
  repeat' first
    | with_reducible assumption
    | with_reducible apply answerCode_kept
    | with_reducible apply doorbell_kept
    | with_reducible apply doorbellGet_kept
    | with_reducible apply answer_kept
    | (intro (z : Nat); refine value_step z ?_; intro w hw; (try rw [← hw]); clear hw z)
    | (intro z; refine value_step z ?_; intro w hw; (try rw [← hw]); clear hw z)
    | (intro z; subst z)
    | lift_lets -underBinder
    | with_reducible refine kept_ite ?_ ?_
    | split
    | (fail_if_no_progress (with_reducible refine kept_rec0 ?_))

theorem forward_kept {P : Kept → Prop} (hP : MemClosed P) (s : State) (f : Flight) (h_s : P s.kept) : P (forward s f).kept := by
  unfold forward
  repeat' first
    | with_reducible assumption
    | with_reducible apply answerCode_kept
    | with_reducible apply State_bumpSat_kept
    | with_reducible apply restoreCtx_kept
    | with_reducible apply segLook_kept
    | with_reducible apply putFlight_kept
    | with_reducible apply windowGo_kept
    | with_reducible apply tlbLook_kept
    | with_reducible apply proceed_kept
    | (intro z; refine kept_step (P := P) z ?_ ?_ <;> [unfold z; first | (intro w hw hz; rw [← hw]; clear hw z) | (intro w hw hz; rw [hw] at hz; clear hw w; clear_value z)])
    | (intro (z : Nat); refine value_step z ?_; intro w hw; (try rw [← hw]); clear hw z)
    | (intro (z : _ → _); subst z)
    | (intro z; refine value_step z ?_; intro w hw; (try rw [← hw]); clear hw z)
    | (intro z; subst z)
    | lift_lets -underBinder
    | with_reducible refine kept_ite ?_ ?_
    | split

theorem selectFlight_kept {P : Kept → Prop} (hP : MemClosed P) (s : State) (f : Flight) (step3 : Bool) (h_s : P s.kept) : P (selectFlight s f step3).kept := by
  unfold selectFlight
  repeat' first
    | with_reducible assumption
    | with_reducible apply chargeTq_kept
    | with_reducible apply putFlight_kept
    | with_reducible apply headTag_kept
    | with_reducible apply noteLanes_kept
    | with_reducible apply forward_kept
    | lift_lets -underBinder
    | with_reducible refine kept_ite ?_ ?_

theorem joinLane_kept {P : Kept → Prop} (hP : MemClosed P) (s : State) (f : Flight) (h_s : P s.kept) : P (joinLane s f).kept := by
  unfold joinLane
  repeat' first
    | with_reducible assumption
    | with_reducible apply refreshTq_kept
    | with_reducible apply countSpill_kept
    | with_reducible apply putFlight_kept
    | with_reducible apply headTag_kept
    | with_reducible apply noteLane_kept
    | with_reducible apply selectFlight_kept
    | (intro z; refine kept_step (P := P) z ?_ ?_ <;> [unfold z; first | (intro w hw hz; rw [← hw]; clear hw z) | (intro w hw hz; rw [hw] at hz; clear hw w; clear_value z)])
    | (intro (z : Nat); refine value_step z ?_; intro w hw; (try rw [← hw]); clear hw z)
    | (intro (z : Bool); refine value_step z ?_; intro w hw; (try rw [← hw]); clear hw z)
    | (intro z; refine value_step z ?_; intro w hw; (try rw [← hw]); clear hw z)
    | lift_lets -underBinder
    | with_reducible refine kept_ite ?_ ?_

theorem again_kept {P : Kept → Prop} (s : State) (f : Flight) (go : State → Flight → State) (h_s : P s.kept) (h_go : ∀ x0 x1, P x0.kept → P (go x0 x1).kept) : P (again s f go).kept := by
  unfold again
  repeat' first
    | with_reducible assumption
    | apply h_go
    | with_reducible refine kept_ite ?_ ?_
    | split

theorem chaseBarred_kept {P : Kept → Prop} (s : State) (h_s : P s.kept) : P (chaseBarred s).kept := by
  unfold chaseBarred
  repeat' first
    | with_reducible assumption
    | with_reducible apply cutAll_kept
    | (intro (z : _ → _); subst z)
    | lift_lets -underBinder
    | with_reducible refine kept_ite ?_ ?_

theorem wake_kept {P : Kept → Prop} (hP : MemClosed P) (s : State) (h_s : P s.kept) : P (wake s).kept := by
  unfold wake
  repeat' first
    | with_reducible assumption
    | with_reducible apply drainBacks_kept
    | with_reducible apply chaseBarred_kept
    | with_reducible apply again_kept
    | with_reducible apply homeGo_kept
    | with_reducible apply proceed_kept
    | (intro z; refine kept_step (P := P) z ?_ ?_ <;> [unfold z; first | (intro w hw hz; rw [← hw]; clear hw z) | (intro w hw hz; rw [hw] at hz; clear hw w; clear_value z)])
    | (intro (z : List _); refine value_step z ?_; intro w hw; (try rw [← hw]); clear hw z)
    | (intro z; refine value_step z ?_; intro w hw; (try rw [← hw]); clear hw z)
    | lift_lets -underBinder
    | (with_reducible apply kept_foldl <;> intros)

theorem resumeFlight_kept {P : Kept → Prop} (hP : MemClosed P) (s : State) (p : ℕ) (t : ℕ) (h_s : P s.kept) : P (resumeFlight s p t).kept := by
  unfold resumeFlight
  repeat' first
    | with_reducible assumption
    | with_reducible apply homeGo_kept
    | lift_lets -underBinder
    | with_reducible refine kept_ite ?_ ?_
    | split

theorem arrive_kept {P : Kept → Prop} (hP : MemClosed P) (op : ROp) (r : Sys2Proof.Req) (s : State) (h_s : P s.kept) : P (arrive op r s).kept := by
  unfold arrive
  repeat' first
    | with_reducible assumption
    | with_reducible apply State_upto_kept
    | with_reducible apply wake_kept
    | with_reducible apply proceed_kept
    | with_reducible apply State_bumpSat_kept
    | with_reducible apply State_raiseTo_kept
    | with_reducible apply answerCode_kept
    | with_reducible apply forward_kept
    | with_reducible apply joinLane_kept
    | (intro z; refine kept_step (P := P) z ?_ ?_ <;> [unfold z; first | (intro w hw hz; rw [← hw]; clear hw z) | (intro w hw hz; rw [hw] at hz; clear hw w; clear_value z)])
    | (intro (z : Nat); refine value_step z ?_; intro w hw; (try rw [← hw]); clear hw z)
    | (intro z; refine value_step z ?_; intro w hw; (try rw [← hw]); clear hw z)
    | lift_lets -underBinder
    | with_reducible refine kept_ite ?_ ?_
    | split
    | (fail_if_no_progress (with_reducible refine kept_rec0 ?_))

end Sys2Proof.Machine
end

