-- ==== Sys2Proof/Laws/KeptFabricRows.lean ====
section
/-! SUPPORT. What the operations of FabricRows.lean keep of the queue and the memory, one lemma each. -/

set_option maxRecDepth 100000
set_option linter.all false

namespace Sys2Proof.Machine

open Sys2Proof

theorem execRd_kept {P : Kept → Prop} (hP : MemClosed P) (r : Sys2Proof.Req) (s : State) (h_s : P s.kept) : NextKept P (execRd r s) := by
  unfold execRd
  repeat' first
    | with_reducible assumption
    | with_reducible refine next_kept ?_
    | with_reducible apply arrive_kept

theorem execRdShared_kept {P : Kept → Prop} (hP : MemClosed P) (r : Sys2Proof.Req) (s : State) (h_s : P s.kept) : NextKept P (execRdShared r s) := by
  unfold execRdShared
  repeat' first
    | with_reducible assumption
    | with_reducible refine next_kept ?_
    | with_reducible apply arrive_kept

theorem execRdOwn_kept {P : Kept → Prop} (hP : MemClosed P) (r : Sys2Proof.Req) (s : State) (h_s : P s.kept) : NextKept P (execRdOwn r s) := by
  unfold execRdOwn
  repeat' first
    | with_reducible assumption
    | with_reducible refine next_kept ?_
    | with_reducible apply arrive_kept

theorem execWr_kept {P : Kept → Prop} (hP : MemClosed P) (r : Sys2Proof.Req) (s : State) (h_s : P s.kept) : NextKept P (execWr r s) := by
  unfold execWr
  repeat' first
    | with_reducible assumption
    | with_reducible refine next_kept ?_
    | with_reducible apply arrive_kept

theorem execWrLine_kept {P : Kept → Prop} (hP : MemClosed P) (r : Sys2Proof.Req) (s : State) (h_s : P s.kept) : NextKept P (execWrLine r s) := by
  unfold execWrLine
  repeat' first
    | with_reducible assumption
    | with_reducible refine next_kept ?_
    | with_reducible apply arrive_kept

theorem execWrFlag_kept {P : Kept → Prop} (hP : MemClosed P) (r : Sys2Proof.Req) (s : State) (h_s : P s.kept) : NextKept P (execWrFlag r s) := by
  unfold execWrFlag
  repeat' first
    | with_reducible assumption
    | with_reducible refine next_kept ?_
    | with_reducible apply arrive_kept

theorem execAtomAdd_kept {P : Kept → Prop} (hP : MemClosed P) (r : Sys2Proof.Req) (s : State) (h_s : P s.kept) : NextKept P (execAtomAdd r s) := by
  unfold execAtomAdd
  repeat' first
    | with_reducible assumption
    | with_reducible refine next_kept ?_
    | with_reducible apply arrive_kept

theorem execAtomAnd_kept {P : Kept → Prop} (hP : MemClosed P) (r : Sys2Proof.Req) (s : State) (h_s : P s.kept) : NextKept P (execAtomAnd r s) := by
  unfold execAtomAnd
  repeat' first
    | with_reducible assumption
    | with_reducible refine next_kept ?_
    | with_reducible apply arrive_kept

theorem execAtomOr_kept {P : Kept → Prop} (hP : MemClosed P) (r : Sys2Proof.Req) (s : State) (h_s : P s.kept) : NextKept P (execAtomOr r s) := by
  unfold execAtomOr
  repeat' first
    | with_reducible assumption
    | with_reducible refine next_kept ?_
    | with_reducible apply arrive_kept

theorem execAtomXor_kept {P : Kept → Prop} (hP : MemClosed P) (r : Sys2Proof.Req) (s : State) (h_s : P s.kept) : NextKept P (execAtomXor r s) := by
  unfold execAtomXor
  repeat' first
    | with_reducible assumption
    | with_reducible refine next_kept ?_
    | with_reducible apply arrive_kept

theorem execAtomSwap_kept {P : Kept → Prop} (hP : MemClosed P) (r : Sys2Proof.Req) (s : State) (h_s : P s.kept) : NextKept P (execAtomSwap r s) := by
  unfold execAtomSwap
  repeat' first
    | with_reducible assumption
    | with_reducible refine next_kept ?_
    | with_reducible apply arrive_kept

theorem execAtomCas_kept {P : Kept → Prop} (hP : MemClosed P) (r : Sys2Proof.Req) (s : State) (h_s : P s.kept) : NextKept P (execAtomCas r s) := by
  unfold execAtomCas
  repeat' first
    | with_reducible assumption
    | with_reducible refine next_kept ?_
    | with_reducible apply arrive_kept

theorem execAtomMinS_kept {P : Kept → Prop} (hP : MemClosed P) (r : Sys2Proof.Req) (s : State) (h_s : P s.kept) : NextKept P (execAtomMinS r s) := by
  unfold execAtomMinS
  repeat' first
    | with_reducible assumption
    | with_reducible refine next_kept ?_
    | with_reducible apply arrive_kept

theorem execAtomMaxS_kept {P : Kept → Prop} (hP : MemClosed P) (r : Sys2Proof.Req) (s : State) (h_s : P s.kept) : NextKept P (execAtomMaxS r s) := by
  unfold execAtomMaxS
  repeat' first
    | with_reducible assumption
    | with_reducible refine next_kept ?_
    | with_reducible apply arrive_kept

theorem execAtomMinU_kept {P : Kept → Prop} (hP : MemClosed P) (r : Sys2Proof.Req) (s : State) (h_s : P s.kept) : NextKept P (execAtomMinU r s) := by
  unfold execAtomMinU
  repeat' first
    | with_reducible assumption
    | with_reducible refine next_kept ?_
    | with_reducible apply arrive_kept

theorem execAtomMaxU_kept {P : Kept → Prop} (hP : MemClosed P) (r : Sys2Proof.Req) (s : State) (h_s : P s.kept) : NextKept P (execAtomMaxU r s) := by
  unfold execAtomMaxU
  repeat' first
    | with_reducible assumption
    | with_reducible refine next_kept ?_
    | with_reducible apply arrive_kept

theorem execAtomAddF_kept {P : Kept → Prop} (hP : MemClosed P) (r : Sys2Proof.Req) (s : State) (h_s : P s.kept) : NextKept P (execAtomAddF r s) := by
  unfold execAtomAddF
  repeat' first
    | with_reducible assumption
    | with_reducible refine next_kept ?_
    | with_reducible apply arrive_kept

theorem execAtomMinF_kept {P : Kept → Prop} (hP : MemClosed P) (r : Sys2Proof.Req) (s : State) (h_s : P s.kept) : NextKept P (execAtomMinF r s) := by
  unfold execAtomMinF
  repeat' first
    | with_reducible assumption
    | with_reducible refine next_kept ?_
    | with_reducible apply arrive_kept

theorem execAtomMaxF_kept {P : Kept → Prop} (hP : MemClosed P) (r : Sys2Proof.Req) (s : State) (h_s : P s.kept) : NextKept P (execAtomMaxF r s) := by
  unfold execAtomMaxF
  repeat' first
    | with_reducible assumption
    | with_reducible refine next_kept ?_
    | with_reducible apply arrive_kept

theorem execUpgrade_kept {P : Kept → Prop} (hP : MemClosed P) (r : Sys2Proof.Req) (s : State) (h_s : P s.kept) : NextKept P (execUpgrade r s) := by
  unfold execUpgrade
  repeat' first
    | with_reducible assumption
    | with_reducible refine next_kept ?_
    | with_reducible apply arrive_kept

theorem execPublish_kept {P : Kept → Prop} (hP : MemClosed P) (r : Sys2Proof.Req) (s : State) (h_s : P s.kept) : NextKept P (execPublish r s) := by
  unfold execPublish
  repeat' first
    | with_reducible assumption
    | with_reducible refine next_kept ?_
    | with_reducible apply arrive_kept

theorem evictReply_kept {P : Kept → Prop} (s : State) (r : Sys2Proof.Req) (c : Sys2Proof.Code) (h_s : P s.kept) : P (evictReply s r c).kept := by
  unfold evictReply
  repeat' first
    | with_reducible assumption
    | with_reducible apply State_emit_kept

theorem evictGo_kept {P : Kept → Prop} (hP : MemClosed P) (s : State) (r : Sys2Proof.Req) (dirty : Bool) (h_s : P s.kept) : P (evictGo s r dirty).kept := by
  unfold evictGo
  repeat' first
    | with_reducible assumption
    | with_reducible apply stray_kept
    | with_reducible apply putTxn_kept
    | with_reducible apply putDir_kept
    | with_reducible apply writeLine_kept
    | with_reducible apply dropSharer_kept
    | (intro (z : Nat); refine value_step z ?_; intro w hw; (try rw [← hw]); clear hw z)
    | (intro (z : List _); refine value_step z ?_; intro w hw; (try rw [← hw]); clear hw z)
    | (intro (z : Prod _ _); subst z)
    | lift_lets -underBinder
    | with_reducible refine kept_ite ?_ ?_
    | split

theorem evict_kept {P : Kept → Prop} (hP : MemClosed P) (dirty : Bool) (r : Sys2Proof.Req) (s : State) (h_s : P s.kept) : P (evict dirty r s).kept := by
  unfold evict
  repeat' first
    | with_reducible assumption
    | with_reducible apply State_upto_kept
    | with_reducible apply clearUnresp_kept
    | with_reducible apply evictReply_kept
    | with_reducible apply stray_kept
    | with_reducible apply wake_kept
    | with_reducible apply evictGo_kept
    | (intro z; refine kept_step (P := P) z ?_ ?_ <;> [unfold z; first | (intro w hw hz; rw [← hw]; clear hw z) | (intro w hw hz; rw [hw] at hz; clear hw w; clear_value z)])
    | lift_lets -underBinder
    | with_reducible refine kept_ite ?_ ?_

theorem execEvictClean_kept {P : Kept → Prop} (hP : MemClosed P) (r : Sys2Proof.Req) (s : State) (h_s : P s.kept) : NextKept P (execEvictClean r s) := by
  unfold execEvictClean
  repeat' first
    | with_reducible assumption
    | with_reducible refine next_kept ?_
    | with_reducible apply evict_kept

theorem execEvictDirty_kept {P : Kept → Prop} (hP : MemClosed P) (r : Sys2Proof.Req) (s : State) (h_s : P s.kept) : NextKept P (execEvictDirty r s) := by
  unfold execEvictDirty
  repeat' first
    | with_reducible assumption
    | with_reducible refine next_kept ?_
    | with_reducible apply evict_kept

theorem resumeWhat_kept {P : Kept → Prop} (hP : MemClosed P) (s : State) (t : Txn) (h_s : P s.kept) : P (resumeWhat s t).kept := by
  unfold resumeWhat
  repeat' first
    | with_reducible assumption
    | with_reducible apply wake_kept
    | with_reducible apply resumeFlight_kept
    | lift_lets -underBinder
    | with_reducible refine kept_ite ?_ ?_
    | split

theorem answered_kept {P : Kept → Prop} (hP : MemClosed P) (s : State) (t : Txn) (x : Snoop) (data : Option (List Sys2Proof.Byte)) (kept : Bool) (h_s : P s.kept) : P (answered s t x data kept).kept := by
  unfold answered
  repeat' first
    | with_reducible assumption
    | with_reducible apply resumeWhat_kept
    | with_reducible apply commitTxn_kept

theorem snoopAnswer_kept {P : Kept → Prop} (hP : MemClosed P) (fwd : Bool) (r : Sys2Proof.Req) (s : State) (h_s : P s.kept) : P (snoopAnswer fwd r s).kept := by
  unfold snoopAnswer
  repeat' first
    | with_reducible assumption
    | with_reducible apply State_upto_kept
    | with_reducible apply clearUnresp_kept
    | with_reducible apply stray_kept
    | with_reducible apply answered_kept
    | (intro z; refine kept_step (P := P) z ?_ ?_ <;> [unfold z; first | (intro w hw hz; rw [← hw]; clear hw z) | (intro w hw hz; rw [hw] at hz; clear hw w; clear_value z)])
    | lift_lets -underBinder
    | with_reducible refine kept_ite ?_ ?_
    | split

theorem execSnpAck_kept {P : Kept → Prop} (hP : MemClosed P) (r : Sys2Proof.Req) (s : State) (h_s : P s.kept) : NextKept P (execSnpAck r s) := by
  unfold execSnpAck
  repeat' first
    | with_reducible assumption
    | with_reducible refine next_kept ?_
    | with_reducible apply snoopAnswer_kept

theorem execSnpFwd_kept {P : Kept → Prop} (hP : MemClosed P) (r : Sys2Proof.Req) (s : State) (h_s : P s.kept) : NextKept P (execSnpFwd r s) := by
  unfold execSnpFwd
  repeat' first
    | with_reducible assumption
    | with_reducible refine next_kept ?_
    | with_reducible apply snoopAnswer_kept

theorem detachTxns_kept {P : Kept → Prop} (s : State) (p : ℕ) (g : ℕ) (h_s : P s.kept) : P (detachTxns s p g).kept := by
  unfold detachTxns
  repeat' first
    | with_reducible assumption
    | (intro (z : _ → _); subst z)
    | (intro z; refine value_step z ?_; intro w hw; (try rw [← hw]); clear hw z)
    | lift_lets -underBinder
    | (fail_if_no_progress (with_reducible refine kept_rec0 ?_))

theorem unanswered_kept {P : Kept → Prop} (hP : MemClosed P) (s : State) (t : Txn) (x : Snoop) (h_s : P s.kept) : P (unanswered s t x).kept := by
  unfold unanswered
  repeat' first
    | with_reducible assumption
    | with_reducible apply answered_kept
    | with_reducible apply State_bumpSat_kept
    | with_reducible apply markUnresp_kept
    | with_reducible apply ownerLost_kept
    | with_reducible apply endHome_kept
    | with_reducible apply detachTxns_kept
    | with_reducible apply finishJob_kept
    | with_reducible apply wake_kept
    | with_reducible apply pumpSnoops_kept
    | (intro z; refine kept_step (P := P) z ?_ ?_ <;> [unfold z; first | (intro w hw hz; rw [← hw]; clear hw z) | (intro w hw hz; rw [hw] at hz; clear hw w; clear_value z)])
    | (intro (z : Nat); refine value_step z ?_; intro w hw; (try rw [← hw]); clear hw z)
    | (intro z; refine value_step z ?_; intro w hw; (try rw [← hw]); clear hw z)
    | lift_lets -underBinder
    | with_reducible refine kept_ite ?_ ?_
    | split
    | (fail_if_no_progress (with_reducible refine kept_rec0 ?_))

theorem execSnoopTimeout_kept {P : Kept → Prop} (hP : MemClosed P) (p : Fin 6) (g : Fin 2048) (t : ℕ) (s : State) (h_s : P s.kept) : NextKept P (execSnoopTimeout p g t s) := by
  unfold execSnoopTimeout
  repeat' first
    | with_reducible assumption
    | with_reducible refine next_kept ?_
    | with_reducible apply State_upto_kept
    | with_reducible apply putTxn_kept
    | with_reducible apply State_bumpSat_kept
    | with_reducible apply State_emit_kept
    | with_reducible apply unanswered_kept
    | (intro z; refine kept_step (P := P) z ?_ ?_ <;> [unfold z; first | (intro w hw hz; rw [← hw]; clear hw z) | (intro w hw hz; rw [hw] at hz; clear hw w; clear_value z)])
    | (intro (z : Nat); refine value_step z ?_; intro w hw; (try rw [← hw]); clear hw z)
    | (intro z; refine value_step z ?_; intro w hw; (try rw [← hw]); clear hw z)
    | lift_lets -underBinder
    | with_reducible refine kept_ite ?_ ?_
    | split

theorem execReadEntryDataReturn_kept {P : Kept → Prop} (hP : MemClosed P) (id : ℕ) (t : ℕ) (s : State) (h_s : P s.kept) : NextKept P (execReadEntryDataReturn id t s) := by
  unfold execReadEntryDataReturn
  repeat' first
    | with_reducible assumption
    | with_reducible refine next_kept ?_
    | with_reducible apply State_upto_kept
    | with_reducible apply wake_kept
    | with_reducible apply homeGo_kept
    | lift_lets -underBinder
    | with_reducible refine kept_ite ?_ ?_
    | split

theorem execAtomicWindowExpiry_kept {P : Kept → Prop} (hP : MemClosed P) (id : ℕ) (t : ℕ) (s : State) (h_s : P s.kept) : NextKept P (execAtomicWindowExpiry id t s) := by
  unfold execAtomicWindowExpiry
  repeat' first
    | with_reducible assumption
    | with_reducible refine next_kept ?_
    | with_reducible apply State_upto_kept
    | with_reducible apply wake_kept
    | with_reducible apply dropEntry_kept
    | with_reducible apply putEntry_kept
    | with_reducible apply homeGo_kept
    | with_reducible apply State_bump_kept
    | with_reducible apply renewHot_kept
    | lift_lets -underBinder
    | with_reducible refine kept_ite ?_ ?_
    | split

theorem execAnvilRsvReissue_kept {P : Kept → Prop} (hP : MemClosed P) (id : ℕ) (t : ℕ) (s : State) (h_s : P s.kept) : NextKept P (execAnvilRsvReissue id t s) := by
  unfold execAnvilRsvReissue
  repeat' first
    | with_reducible assumption
    | with_reducible refine next_kept ?_
    | with_reducible apply State_upto_kept
    | with_reducible apply wake_kept
    | with_reducible apply dropEntry_kept
    | with_reducible apply homeGo_kept
    | with_reducible apply putEntry_kept
    | lift_lets -underBinder
    | with_reducible refine kept_ite ?_ ?_
    | split

theorem execFlagRelease_kept {P : Kept → Prop} (hP : MemClosed P) (p : Fin 6) (g : Fin 8192) (t : ℕ) (s : State) (h_s : P s.kept) : NextKept P (execFlagRelease p g t s) := by
  unfold execFlagRelease
  repeat' first
    | with_reducible assumption
    | with_reducible refine next_kept ?_
    | with_reducible apply State_upto_kept
    | with_reducible apply wake_kept
    | with_reducible apply flagGo_kept
    | with_reducible apply State_raiseTo_kept
    | lift_lets -underBinder
    | with_reducible refine kept_ite ?_ ?_
    | split

theorem execTailStatus_kept {P : Kept → Prop} (hP : MemClosed P) (p : Fin 6) (g : Fin 8192) (k : Sys2Proof.Tail) (t : ℕ) (s : State) (h_s : P s.kept) : NextKept P (execTailStatus p g k t s) := by
  unfold execTailStatus
  repeat' first
    | with_reducible assumption
    | with_reducible refine next_kept ?_
    | with_reducible apply State_upto_kept
    | with_reducible apply putFlight_kept
    | with_reducible apply wake_kept
    | with_reducible apply windowGo_kept
    | with_reducible apply proceed_kept
    | with_reducible apply answerCode_kept
    | with_reducible apply State_bumpSat_kept
    | (intro z; refine value_step z ?_; intro w hw; (try rw [← hw]); clear hw z)
    | lift_lets -underBinder
    | with_reducible refine kept_ite ?_ ?_
    | split

theorem execHoldExpiry_kept {P : Kept → Prop} (hP : MemClosed P) (line : Fin (2 ^ 41)) (t : ℕ) (s : State) (h_s : P s.kept) : NextKept P (execHoldExpiry line t s) := by
  unfold execHoldExpiry
  repeat' first
    | with_reducible assumption
    | with_reducible refine next_kept ?_
    | with_reducible apply State_upto_kept
    | with_reducible apply wake_kept
    | lift_lets -underBinder
    | with_reducible refine kept_ite ?_ ?_
    | split

theorem execDirHoldSweep_kept {P : Kept → Prop} (hP : MemClosed P) (n : Fin 4) (t : ℕ) (s : State) (h_s : P s.kept) : NextKept P (execDirHoldSweep n t s) := by
  unfold execDirHoldSweep
  repeat' first
    | with_reducible assumption
    | with_reducible refine next_kept ?_
    | with_reducible apply State_upto_kept
    | with_reducible apply wake_kept
    | (intro z; refine value_step z ?_; intro w hw; (try rw [← hw]); clear hw z)
    | lift_lets -underBinder
    | (fail_if_no_progress (with_reducible refine kept_rec0 ?_))

theorem execReservationExpiry_kept {P : Kept → Prop} (hP : MemClosed P) (p : Fin 6) (latency : Bool) (k : Fin 64) (t : ℕ) (s : State) (h_s : P s.kept) : NextKept P (execReservationExpiry p latency k t s) := by
  unfold execReservationExpiry
  repeat' first
    | with_reducible assumption
    | with_reducible refine next_kept ?_
    | with_reducible apply State_upto_kept
    | with_reducible apply wake_kept
    | with_reducible apply State_bumpSat_kept
    | (intro (z : Nat); refine value_step z ?_; intro w hw; (try rw [← hw]); clear hw z)
    | (intro z; refine value_step z ?_; intro w hw; (try rw [← hw]); clear hw z)
    | lift_lets -underBinder
    | with_reducible refine kept_ite ?_ ?_
    | split
    | (fail_if_no_progress (with_reducible refine kept_rec0 ?_))

theorem execPendingBufferRetry_kept {P : Kept → Prop} (hP : MemClosed P) (n : Fin 4) (t : ℕ) (s : State) (h_s : P s.kept) : NextKept P (execPendingBufferRetry n t s) := by
  unfold execPendingBufferRetry
  repeat' first
    | with_reducible assumption
    | with_reducible refine next_kept ?_
    | with_reducible apply State_upto_kept
    | with_reducible apply wake_kept
    | with_reducible apply putFlight_kept
    | lift_lets -underBinder
    | with_reducible refine kept_ite ?_ ?_
    | (with_reducible apply kept_foldl <;> intros)

theorem dropWaiter_kept {P : Kept → Prop} (s : State) (k : Task) (h_s : P s.kept) : P (dropWaiter s k).kept := by
  unfold dropWaiter
  repeat' first
    | with_reducible assumption
    | (intro (z : _ → _); subst z)
    | (intro z; refine value_step z ?_; intro w hw; (try rw [← hw]); clear hw z)
    | lift_lets -underBinder
    | (fail_if_no_progress (with_reducible refine kept_rec0 ?_))

theorem execFaultHeldTimeout_kept {P : Kept → Prop} (hP : MemClosed P) (p : Fin 6) (g : Fin 8192) (t : ℕ) (s : State) (h_s : P s.kept) : NextKept P (execFaultHeldTimeout p g t s) := by
  unfold execFaultHeldTimeout
  repeat' first
    | with_reducible assumption
    | with_reducible refine next_kept ?_
    | with_reducible apply State_upto_kept
    | with_reducible apply wake_kept
    | with_reducible apply endHome_kept
    | with_reducible apply dropWaiter_kept
    | lift_lets -underBinder
    | with_reducible refine kept_ite ?_ ?_
    | split

theorem execMigratingWaitTimeout_kept {P : Kept → Prop} (p : Fin 6) (g : Fin 8192) (t : ℕ) (s : State) (h_s : P s.kept) : NextKept P (execMigratingWaitTimeout p g t s) := by
  unfold execMigratingWaitTimeout
  repeat' first
    | with_reducible assumption
    | with_reducible refine next_kept ?_
    | with_reducible apply State_upto_kept
    | with_reducible apply pageFault_kept
    | with_reducible apply putFlight_kept
    | (intro (z : Nat); refine value_step z ?_; intro w hw; (try rw [← hw]); clear hw z)
    | (intro z; refine value_step z ?_; intro w hw; (try rw [← hw]); clear hw z)
    | lift_lets -underBinder
    | with_reducible refine kept_ite ?_ ?_
    | split

theorem anvFlagClear_kept {P : Kept → Prop} (s : State) (p : ℕ) (h_s : P s.kept) : P (anvFlagClear s p).kept := by
  unfold anvFlagClear
  repeat' first
    | with_reducible assumption
    | with_reducible apply State_set_kept

end Sys2Proof.Machine
end

