-- ==== Sys2Proof/Laws/KeptJobs.lean ====
section
/-! SUPPORT. What the operations of Jobs.lean keep of the queue and the memory, one lemma each. -/

set_option maxRecDepth 100000
set_option linter.all false

namespace Sys2Proof.Machine

open Sys2Proof

theorem sendOut_kept {P : Kept → Prop} (s : State) (p : ℕ) (o : OutReq) (h_s : P s.kept) : P (sendOut s p o).kept := by
  unfold sendOut
  repeat' first
    | with_reducible assumption
    | with_reducible apply State_emit_kept
    | (intro z; refine value_step z ?_; intro w hw; (try rw [← hw]); clear hw z)
    | lift_lets -underBinder
    | split
    | (fail_if_no_progress (with_reducible refine kept_rec0 ?_))

theorem barRange_kept {P : Kept → Prop} (s : State) (v : Option View) (c : ℕ) (what : TxnFor) (r : Range) (h_s : P s.kept) : P (barRange s v c what r).2.kept := by
  unfold barRange
  repeat' first
    | with_reducible assumption
    | with_reducible apply segLook_kept
    | with_reducible apply State_bumpSat_kept
    | with_reducible apply tlbLook_kept
    | with_reducible apply recallLine_kept
    | (intro z; refine kept_step (P := P) z ?_ ?_ <;> [unfold z; first | (intro w hw hz; rw [← hw]; clear hw z) | (intro w hw hz; rw [hw] at hz; clear hw w; clear_value z)])
    | (intro (z : Bool); refine value_step z ?_; intro w hw; (try rw [← hw]); clear hw z)
    | (intro (z : List _); refine value_step z ?_; intro w hw; (try rw [← hw]); clear hw z)
    | (intro (z : _ → _); subst z)
    | lift_lets -underBinder
    | split
    | (with_reducible apply kept_foldl <;> intros)

theorem barRanges_kept {P : Kept → Prop} (s : State) (v : Option View) (c : ℕ) (what : TxnFor) (z4 : List Range) (h_s : P s.kept) : P (barRanges s v c what z4).2.kept := by
  induction z4 generalizing s with
  | nil => unfold barRanges; assumption
  | cons a t ih =>
    unfold barRanges
    repeat' first
      | with_reducible assumption
      | with_reducible apply barRange_kept
      | with_reducible apply ih
      | lift_lets -underBinder
      | split
      | refine kept_snd (by with_reducible assumption) ?_

theorem prepareAs_kept {P : Kept → Prop} (s : State) (j : Job) (c : ℕ) (unit : ℕ) (rs : List Range) (v : optParam (Option View) Option.none) (h_s : P s.kept) : P (prepareAs s j c unit rs v).2.kept := by
  unfold prepareAs
  repeat' first
    | with_reducible assumption
    | with_reducible apply barRanges_kept
    | with_reducible apply finishJob_kept
    | with_reducible apply putJob_kept
    | with_reducible apply pageFault_kept
    | lift_lets -underBinder
    | split
    | refine kept_snd (by with_reducible assumption) ?_

theorem prepare_kept {P : Kept → Prop} (s : State) (j : Job) (unit : ℕ) (rs : List Range) (v : optParam (Option View) Option.none) (h_s : P s.kept) : P (prepare s j unit rs v).2.kept := by
  unfold prepare
  repeat' first
    | with_reducible assumption
    | with_reducible apply prepareAs_kept

theorem readVa_kept {P : Kept → Prop} (hP : MemClosed P) (s : State) (c : ℕ) (va : ℕ) (len : ℕ) (r : optParam Right Right.rd) (v : optParam (Option View) Option.none) (prom : optParam Bool Bool.true) (h_s : P s.kept) : P (readVa s c va len r v prom).2.kept := by
  unfold readVa
  repeat' first
    | with_reducible assumption
    | with_reducible apply touch_kept
    | with_reducible apply telem_kept
    | with_reducible apply countLines_kept
    | with_reducible apply readLine_kept
    | with_reducible apply sendOut_kept
    | (intro z; refine kept_step (P := P) z ?_ ?_ <;> [unfold z; first | (intro w hw hz; rw [← hw]; clear hw z) | (intro w hw hz; rw [hw] at hz; clear hw w; clear_value z)])
    | lift_lets -underBinder
    | with_reducible refine kept_ite ?_ ?_
    | split
    | (with_reducible apply kept_foldl <;> intros)
    | (with_reducible apply kept_foldl_snd <;> intros)
    | refine kept_snd (by with_reducible assumption) ?_
    | (fail_if_no_progress (with_reducible refine kept_rec0 ?_))

theorem writeVa_kept {P : Kept → Prop} (hP : MemClosed P) (s : State) (c : ℕ) (va : ℕ) (data : List Sys2Proof.Byte) (v : optParam (Option View) Option.none) (h_s : P s.kept) : P (writeVa s c va data v).kept := by
  unfold writeVa
  repeat' first
    | with_reducible assumption
    | with_reducible apply touch_kept
    | with_reducible apply telem_kept
    | with_reducible apply countLines_kept
    | with_reducible apply closeReads_kept
    | with_reducible apply writePart_kept
    | with_reducible apply sendOut_kept
    | (intro z; refine kept_step (P := P) z ?_ ?_ <;> [unfold z; first | (intro w hw hz; rw [← hw]; clear hw z) | (intro w hw hz; rw [hw] at hz; clear hw w; clear_value z)])
    | lift_lets -underBinder
    | with_reducible refine kept_ite ?_ ?_
    | split
    | (with_reducible apply kept_foldl <;> intros)

theorem spoilVa_kept {P : Kept → Prop} (s : State) (c : ℕ) (va : ℕ) (len : ℕ) (h_s : P s.kept) : P (spoilVa s c va len).kept := by
  unfold spoilVa
  repeat' first
    | with_reducible assumption
    | with_reducible apply spoilLine_kept
    | lift_lets -underBinder
    | with_reducible refine kept_ite ?_ ?_
    | split
    | (with_reducible apply kept_foldl <;> intros)

theorem engineStart_kept {P : Kept → Prop} (hP : MemClosed P) (s : State) (j : Job) (n : ℕ) (ins : List Range) (h_s : P s.kept) : P (engineStart s j n ins).2.kept := by
  unfold engineStart
  repeat' first
    | with_reducible assumption
    | with_reducible apply acquireRange_kept
    | with_reducible apply nextStamp_kept
    | (intro (z : Nat); refine value_step z ?_; intro w hw; (try rw [← hw]); clear hw z)
    | lift_lets -underBinder
    | split
    | (with_reducible apply kept_foldl <;> intros)

theorem ownReqs_kept {P : Kept → Prop} (s : State) (k : ℕ) (j : Job) (h_s : P s.kept) : P (ownReqs s k j).kept := by
  unfold ownReqs
  repeat' first
    | with_reducible assumption
    | (intro (z : _ → _); subst z)
    | (intro z; refine value_step z ?_; intro w hw; (try rw [← hw]); clear hw z)
    | lift_lets -underBinder
    | (fail_if_no_progress (with_reducible refine kept_rec0 ?_))

theorem runDesc_kept {P : Kept → Prop} (s : State) (d : Sys2Proof.Desc) (op : ℕ) (unit : ℕ) (eff : State → Job → State) (h_s : P s.kept) (h_eff : ∀ x0 x1, P x0.kept → P (eff x0 x1).kept) : P (runDesc s d op unit eff).kept := by
  unfold runDesc
  repeat' first
    | with_reducible assumption
    | with_reducible apply State_upto_kept
    | with_reducible apply ownReqs_kept
    | with_reducible apply ungate_kept
    | apply h_eff
    | (intro z; refine kept_step (P := P) z ?_ ?_ <;> [unfold z; first | (intro w hw hz; rw [← hw]; clear hw z) | (intro w hw hz; rw [hw] at hz; clear hw w; clear_value z)])
    | (intro (z : Nat); refine value_step z ?_; intro w hw; (try rw [← hw]); clear hw z)
    | lift_lets -underBinder
    | with_reducible refine kept_ite ?_ ?_
    | split

end Sys2Proof.Machine
end

