-- ==== Sys2Proof/Laws/KeptDomains.lean ====
section
/-! SUPPORT. What the operations of Domains.lean keep of the queue and the memory, one lemma each. -/

set_option maxRecDepth 100000
set_option linter.all false

namespace Sys2Proof.Machine

open Sys2Proof

theorem dropRecovery_kept {P : Kept → Prop} (s : State) (ty : Sys2Proof.DomType) (inst : ℕ) (h_s : P s.kept) : P (dropRecovery s ty inst).kept := by
  unfold dropRecovery
  repeat' first
    | with_reducible assumption
    | (intro z; refine value_step z ?_; intro w hw; (try rw [← hw]); clear hw z)
    | lift_lets -underBinder
    | (fail_if_no_progress (with_reducible refine kept_rec0 ?_))

theorem recovered_kept {P : Kept → Prop} (s : State) (ty : Sys2Proof.DomType) (inst : ℕ) (h_s : P s.kept) : P (recovered s ty inst).kept := by
  unfold recovered
  repeat' first
    | with_reducible assumption
    | with_reducible apply State_bumpSat_kept
    | with_reducible apply postRas_kept
    | with_reducible apply dropRecovery_kept

theorem retired_kept {P : Kept → Prop} (s : State) (ty : Sys2Proof.DomType) (inst : ℕ) (second : Bool) (h_s : P s.kept) : P (retired s ty inst second).kept := by
  unfold retired
  repeat' first
    | with_reducible assumption
    | with_reducible apply dropRecovery_kept
    | with_reducible apply State_bumpSat_kept
    | with_reducible apply postRas_kept
    | (intro z; refine kept_step (P := P) z ?_ ?_ <;> [unfold z; first | (intro w hw hz; rw [← hw]; clear hw z) | (intro w hw hz; rw [hw] at hz; clear hw w; clear_value z)])
    | (intro (z : Nat); refine value_step z ?_; intro w hw; (try rw [← hw]); clear hw z)
    | (intro z; refine value_step z ?_; intro w hw; (try rw [← hw]); clear hw z)
    | lift_lets -underBinder
    | with_reducible refine kept_ite ?_ ?_
    | (fail_if_no_progress (with_reducible refine kept_rec0 ?_))

theorem noteFault_kept {P : Kept → Prop} (s : State) (ty : Sys2Proof.DomType) (inst : ℕ) (cause : ℕ) (h_s : P s.kept) : P (noteFault s ty inst cause).2.kept := by
  unfold noteFault
  repeat' first
    | with_reducible assumption
    | with_reducible apply retired_kept
    | with_reducible apply State_bumpSat_kept
    | with_reducible apply postRas_kept
    | (intro z; refine kept_step (P := P) z ?_ ?_ <;> [unfold z; first | (intro w hw hz; rw [← hw]; clear hw z) | (intro w hw hz; rw [hw] at hz; clear hw w; clear_value z)])
    | (intro (z : Bool); refine value_step z ?_; intro w hw; (try rw [← hw]); clear hw z)
    | (intro (z : _ → _); subst z)
    | (intro z; refine value_step z ?_; intro w hw; (try rw [← hw]); clear hw z)
    | lift_lets -underBinder
    | split
    | (fail_if_no_progress (with_reducible refine kept_rec0 ?_))

end Sys2Proof.Machine
end

