-- ==== Sys2Proof/Laws/KeptStore.lean ====
section
/-! SUPPORT. What the operations of Store.lean keep of the queue and the memory, one lemma each. -/

set_option maxRecDepth 100000
set_option linter.all false

namespace Sys2Proof.Machine

open Sys2Proof

theorem farCheck_kept {P : Kept → Prop} (s : State) (n : ℕ) (h_s : P s.kept) : P (farCheck s n).kept := by
  unfold farCheck
  repeat' first
    | with_reducible assumption
    | with_reducible apply State_setFlag_kept
    | with_reducible apply raiseIrq_kept
    | with_reducible apply postFault_kept
    | (intro z; refine kept_step (P := P) z ?_ ?_ <;> [unfold z; first | (intro w hw hz; rw [← hw]; clear hw z) | (intro w hw hz; rw [hw] at hz; clear hw w; clear_value z)])
    | (intro (z : Bool); refine value_step z ?_; intro w hw; (try rw [← hw]); clear hw z)
    | lift_lets -underBinder
    | with_reducible refine kept_ite ?_ ?_

theorem allocPage_kept {P : Kept → Prop} (hP : MemClosed P) (s : State) (p : ℕ) (e : Page) (h_s : P s.kept) : P (allocPage s p e).kept := by
  unfold allocPage
  repeat' first
    | with_reducible assumption
    | with_reducible apply State_zeroPage_kept
    | with_reducible apply takeFrame_kept
    | with_reducible apply State_putPage_kept
    | (intro z; refine kept_step (P := P) z ?_ ?_ <;> [unfold z; first | (intro w hw hz; rw [← hw]; clear hw z) | (intro w hw hz; rw [hw] at hz; clear hw w; clear_value z)])
    | (intro z; refine value_step z ?_; intro w hw; (try rw [← hw]); clear hw z)
    | lift_lets -underBinder
    | with_reducible refine kept_ite ?_ ?_
    | split
    | refine kept_snd (by with_reducible assumption) ?_

theorem layHuge_kept {P : Kept → Prop} (s : State) (r : ℕ) (n : ℕ) (h_s : P s.kept) : P (layHuge s r n).kept := by
  unfold layHuge
  repeat' first
    | with_reducible assumption
    | (intro z; refine kept_step (P := P) z ?_ ?_ <;> [unfold z; first | (intro w hw hz; rw [← hw]; clear hw z) | (intro w hw hz; rw [hw] at hz; clear hw w; clear_value z)])
    | (intro (z : List _); refine value_step z ?_; intro w hw; (try rw [← hw]); clear hw z)
    | (intro (z : Store); subst z)
    | lift_lets -underBinder
    | split
    | (with_reducible apply kept_foldl <;> intros)
    | (fail_if_no_progress (with_reducible refine kept_rec ?_))

theorem freePages_kept {P : Kept → Prop} (hP : MemClosed P) (s : State) (ps : List ℕ) (h_s : P s.kept) : P (freePages s ps).kept := by
  unfold freePages
  repeat' first
    | with_reducible assumption
    | with_reducible apply State_zeroPage_kept
    | with_reducible apply discardGuests_kept
    | (intro z; refine kept_step (P := P) z ?_ ?_ <;> [unfold z; first | (intro w hw hz; rw [← hw]; clear hw z) | (intro w hw hz; rw [hw] at hz; clear hw w; clear_value z)])
    | (intro (z : _ → _); subst z)
    | (intro (z : Store); subst z)
    | (intro z; refine value_step z ?_; intro w hw; (try rw [← hw]); clear hw z)
    | lift_lets -underBinder
    | (with_reducible apply kept_foldl <;> intros)
    | (fail_if_no_progress (with_reducible refine kept_rec ?_))

theorem allocGo_kept {P : Kept → Prop} (hP : MemClosed P) (s : State) (dom : ℕ) (b : TierBody) (ps : List ℕ) (h_s : P s.kept) : P (allocGo s dom b ps).kept := by
  unfold allocGo
  repeat' first
    | with_reducible assumption
    | with_reducible apply allocPage_kept
    | with_reducible apply layHuge_kept
    | (intro z; refine kept_step (P := P) z ?_ ?_ <;> [unfold z; first | (intro w hw hz; rw [← hw]; clear hw z) | (intro w hw hz; rw [hw] at hz; clear hw w; clear_value z)])
    | (intro (z : Nat); refine value_step z ?_; intro w hw; (try rw [← hw]); clear hw z)
    | lift_lets -underBinder
    | with_reducible refine kept_ite ?_ ?_
    | split
    | (with_reducible apply kept_foldl <;> intros)

theorem tierRun_kept {P : Kept → Prop} (op : ℕ) (d : Sys2Proof.Desc) (s : State) (eff : State → Job → ℕ → TierBody → List ℕ → State) (h_s : P s.kept) (h_eff : ∀ x0 x1 x2 x3 x4, P x0.kept → P (eff x0 x1 x2 x3 x4).kept) : P (tierRun op d s eff).kept := by
  unfold tierRun
  repeat' first
    | with_reducible assumption
    | with_reducible apply runDesc_kept
    | with_reducible apply finishJob_kept
    | apply h_eff
    | (intro (z : Nat); refine value_step z ?_; intro w hw; (try rw [← hw]); clear hw z)
    | (intro (z : List _); refine value_step z ?_; intro w hw; (try rw [← hw]); clear hw z)
    | (intro z; refine value_step z ?_; intro w hw; (try rw [← hw]); clear hw z)
    | intro _
    | lift_lets -underBinder
    | with_reducible refine kept_ite ?_ ?_
    | split

theorem execTierAlloc_kept {P : Kept → Prop} (hP : MemClosed P) (d : Sys2Proof.Desc) (s : State) (h_s : P s.kept) : NextKept P (execTierAlloc d s) := by
  unfold execTierAlloc
  repeat' first
    | with_reducible assumption
    | with_reducible refine next_kept ?_
    | with_reducible apply tierRun_kept
    | with_reducible apply finishJob_kept
    | with_reducible apply allocGo_kept
    | (intro (z : Nat); refine value_step z ?_; intro w hw; (try rw [← hw]); clear hw z)
    | (intro (z : List _); refine value_step z ?_; intro w hw; (try rw [← hw]); clear hw z)
    | (intro z; refine value_step z ?_; intro w hw; (try rw [← hw]); clear hw z)
    | intro _

theorem startInval_kept {P : Kept → Prop} (s : State) (what : InvalFor) (j : Job) (counted : Bool) (pool : Bool) (c : ℕ) (base : ℕ) (len : ℕ) (h_s : P s.kept) : P (startInval s what j counted pool c base len).2.kept := by
  unfold startInval
  repeat' first
    | with_reducible assumption
    | with_reducible apply dropTlb_kept
    | with_reducible apply dropSeg_kept
    | (intro z; refine kept_step (P := P) z ?_ ?_ <;> [unfold z; first | (intro w hw hz; rw [← hw]; clear hw z) | (intro w hw hz; rw [hw] at hz; clear hw w; clear_value z)])
    | (intro (z : Nat); refine value_step z ?_; intro w hw; (try rw [← hw]); clear hw z)
    | (intro z; refine value_step z ?_; intro w hw; (try rw [← hw]); clear hw z)
    | lift_lets -underBinder
    | with_reducible refine kept_ite ?_ ?_
    | split
    | (with_reducible apply kept_foldl <;> intros)
    | (fail_if_no_progress (with_reducible refine kept_rec0 ?_))

theorem execTierFree_kept {P : Kept → Prop} (hP : MemClosed P) (d : Sys2Proof.Desc) (s : State) (h_s : P s.kept) : NextKept P (execTierFree d s) := by
  unfold execTierFree
  repeat' first
    | with_reducible assumption
    | with_reducible refine next_kept ?_
    | with_reducible apply tierRun_kept
    | with_reducible apply startInval_kept
    | with_reducible apply putJob_kept
    | with_reducible apply evictRange_kept
    | with_reducible apply finishJob_kept
    | with_reducible apply freePages_kept
    | (intro (z : Nat); refine value_step z ?_; intro w hw; (try rw [← hw]); clear hw z)
    | (intro (z : List _); refine value_step z ?_; intro w hw; (try rw [← hw]); clear hw z)
    | (intro z; refine value_step z ?_; intro w hw; (try rw [← hw]); clear hw z)
    | intro _
    | lift_lets -underBinder
    | with_reducible refine kept_ite ?_ ?_

theorem execTierHint_kept {P : Kept → Prop} (d : Sys2Proof.Desc) (s : State) (h_s : P s.kept) : NextKept P (execTierHint d s) := by
  unfold execTierHint
  repeat' first
    | with_reducible assumption
    | with_reducible refine next_kept ?_
    | with_reducible apply tierRun_kept
    | with_reducible apply planMove_kept
    | with_reducible apply finishJob_kept
    | (intro (z : Nat); refine value_step z ?_; intro w hw; (try rw [← hw]); clear hw z)
    | (intro (z : List _); refine value_step z ?_; intro w hw; (try rw [← hw]); clear hw z)
    | (intro (z : Store); subst z)
    | (intro z; refine value_step z ?_; intro w hw; (try rw [← hw]); clear hw z)
    | intro _
    | lift_lets -underBinder
    | split
    | (with_reducible apply kept_foldl <;> intros)
    | (fail_if_no_progress (with_reducible refine kept_rec ?_))

theorem execTierSplit_kept {P : Kept → Prop} (d : Sys2Proof.Desc) (s : State) (h_s : P s.kept) : NextKept P (execTierSplit d s) := by
  unfold execTierSplit
  repeat' first
    | with_reducible assumption
    | with_reducible refine next_kept ?_
    | with_reducible apply tierRun_kept
    | with_reducible apply putJob_kept
    | with_reducible apply State_putPage_kept
    | with_reducible apply finishJob_kept
    | with_reducible apply dropTlb_kept
    | (intro z; refine kept_step (P := P) z ?_ ?_ <;> [unfold z; first | (intro w hw hz; rw [← hw]; clear hw z) | (intro w hw hz; rw [hw] at hz; clear hw w; clear_value z)])
    | (intro (z : Nat); refine value_step z ?_; intro w hw; (try rw [← hw]); clear hw z)
    | (intro (z : List _); refine value_step z ?_; intro w hw; (try rw [← hw]); clear hw z)
    | (intro (z : Store); subst z)
    | (intro z; refine value_step z ?_; intro w hw; (try rw [← hw]); clear hw z)
    | intro _
    | lift_lets -underBinder
    | with_reducible refine kept_ite ?_ ?_
    | split
    | (with_reducible apply kept_foldl <;> intros)
    | (fail_if_no_progress (with_reducible refine kept_rec ?_))

theorem execDecayEpoch_kept {P : Kept → Prop} (n : Fin 4) (t : ℕ) (s : State) (h_s : P s.kept) : NextKept P (execDecayEpoch n t s) := by
  unfold execDecayEpoch
  repeat' first
    | with_reducible assumption
    | with_reducible refine next_kept ?_
    | with_reducible apply State_upto_kept
    | with_reducible apply State_setFlag_kept
    | with_reducible apply planMove_kept
    | with_reducible apply State_bump_kept
    | (intro (z : Store); subst z)
    | lift_lets -underBinder
    | with_reducible refine kept_ite ?_ ?_
    | split
    | (with_reducible apply kept_foldl <;> intros)
    | (fail_if_no_progress (with_reducible refine kept_rec ?_))

theorem execNearLowDemotion_kept {P : Kept → Prop} (n : Fin 4) (t : ℕ) (s : State) (h_s : P s.kept) : NextKept P (execNearLowDemotion n t s) := by
  unfold execNearLowDemotion
  repeat' first
    | with_reducible assumption
    | with_reducible refine next_kept ?_
    | with_reducible apply State_upto_kept
    | with_reducible apply planMove_kept
    | (intro (z : List _); refine value_step z ?_; intro w hw; (try rw [← hw]); clear hw z)
    | (intro (z : _ → _); subst z)
    | lift_lets -underBinder
    | with_reducible refine kept_ite ?_ ?_
    | split
    | (with_reducible apply kept_foldl_snd <;> intros)

theorem writeBack_kept {P : Kept → Prop} (s : State) (p : ℕ) (h_s : P s.kept) : P (writeBack s p).kept := by
  unfold writeBack
  repeat' first
    | with_reducible assumption
    | (intro (z : Store); subst z)
    | lift_lets -underBinder
    | (fail_if_no_progress (with_reducible refine kept_rec ?_))

theorem beginDemote_kept {P : Kept → Prop} (s : State) (p : ℕ) (e : Page) (h_s : P s.kept) : P (beginDemote s p e).kept := by
  unfold beginDemote
  repeat' first
    | with_reducible assumption
    | with_reducible apply dropTlb_kept
    | with_reducible apply State_putPage_kept
    | with_reducible apply writeBack_kept
    | (intro (z : Store); subst z)
    | lift_lets -underBinder
    | split
    | (fail_if_no_progress (with_reducible refine kept_rec ?_))

theorem spreadPoison_kept {P : Kept → Prop} (s : State) (p : ℕ) (g : ℕ) (x : Granule) (h_s : P s.kept) : P (spreadPoison s p g x).kept := by
  unfold spreadPoison
  repeat' first
    | with_reducible assumption
    | with_reducible apply spoilLine_kept
    | lift_lets -underBinder
    | with_reducible refine kept_ite ?_ ?_
    | (with_reducible apply kept_foldl <;> intros)

theorem endMove_kept {P : Kept → Prop} (s : State) (p : ℕ) (e : Page) (x : Xfer) (h_s : P s.kept) : P (endMove s p e x).kept := by
  unfold endMove
  repeat' first
    | with_reducible assumption
    | with_reducible apply State_bump_kept
    | with_reducible apply State_putPage_kept
    | with_reducible apply dropTlb_kept
    | with_reducible apply farCheck_kept
    | lift_lets -underBinder
    | split

theorem granuleArrives_kept {P : Kept → Prop} (s : State) (p : ℕ) (e : Page) (x : Xfer) (h_s : P s.kept) : P (granuleArrives s p e x).kept := by
  unfold granuleArrives
  repeat' first
    | with_reducible assumption
    | with_reducible apply endMove_kept
    | with_reducible apply granuleFrames_kept
    | with_reducible apply placeGranule_kept
    | with_reducible apply spreadPoison_kept
    | with_reducible apply State_putPage_kept
    | (intro z; refine kept_step (P := P) z ?_ ?_ <;> [unfold z; first | (intro w hw hz; rw [← hw]; clear hw z) | (intro w hw hz; rw [hw] at hz; clear hw w; clear_value z)])
    | (intro (z : List _); refine value_step z ?_; intro w hw; (try rw [← hw]); clear hw z)
    | (intro (z : Prod _ _); subst z)
    | (intro z; refine value_step z ?_; intro w hw; (try rw [← hw]); clear hw z)
    | lift_lets -underBinder
    | with_reducible refine kept_ite ?_ ?_
    | split
    | refine kept_snd (by with_reducible assumption) ?_

theorem moveSmall_kept {P : Kept → Prop} (s : State) (p : ℕ) (e : Page) (v : List Small) (toNear : Bool) (h_s : P s.kept) : P (moveSmall s p e v toNear).kept := by
  unfold moveSmall
  repeat' first
    | with_reducible assumption
    | with_reducible apply takeFrame_kept
    | with_reducible apply dropTlb_kept
    | with_reducible apply State_putPage_kept
    | with_reducible apply spreadPoison_kept
    | with_reducible apply granuleFrames_kept
    | with_reducible apply placeGranule_kept
    | with_reducible apply farCheck_kept
    | (intro (z : Nat); refine value_step z ?_; intro w hw; (try rw [← hw]); clear hw z)
    | lift_lets -underBinder
    | with_reducible refine kept_ite ?_ ?_
    | split
    | refine kept_snd (by with_reducible assumption) ?_

theorem drainGranule_kept {P : Kept → Prop} (s : State) (p : ℕ) (e : Page) (h_s : P s.kept) : P (drainGranule s p e).kept := by
  unfold drainGranule
  repeat' first
    | with_reducible assumption
    | with_reducible apply placeGranule_kept
    | with_reducible apply farCheck_kept
    | with_reducible apply State_putPage_kept
    | (intro (z : Nat); refine value_step z ?_; intro w hw; (try rw [← hw]); clear hw z)
    | (intro (z : _ → _); subst z)
    | (intro z; refine value_step z ?_; intro w hw; (try rw [← hw]); clear hw z)
    | lift_lets -underBinder
    | split
    | refine kept_snd (by with_reducible assumption) ?_

theorem leaveStack_kept {P : Kept → Prop} (s : State) (p : ℕ) (e : Page) (h_s : P s.kept) : P (leaveStack s p e).kept := by
  unfold leaveStack
  repeat' first
    | with_reducible assumption
    | with_reducible apply takeFrame_kept
    | with_reducible apply dropTlb_kept
    | with_reducible apply State_putPage_kept
    | lift_lets -underBinder
    | with_reducible refine kept_ite ?_ ?_
    | split
    | refine kept_snd (by with_reducible assumption) ?_

theorem sweepMoves_kept {P : Kept → Prop} (s : State) (h_s : P s.kept) : P (sweepMoves s).kept := by
  unfold sweepMoves
  repeat' first
    | with_reducible assumption
    | (intro (z : List _); refine value_step z ?_; intro w hw; (try rw [← hw]); clear hw z)
    | (intro (z : _ → _); subst z)
    | (intro (z : Store); subst z)
    | lift_lets -underBinder
    | (fail_if_no_progress (with_reducible refine kept_rec ?_))

theorem wakeMigrating_kept {P : Kept → Prop} (hP : MemClosed P) (s : State) (p : ℕ) (h_s : P s.kept) : P (wakeMigrating s p).kept := by
  unfold wakeMigrating
  repeat' first
    | with_reducible assumption
    | with_reducible apply wake_kept
    | with_reducible apply again_kept
    | with_reducible apply homeGo_kept
    | (intro z; refine value_step z ?_; intro w hw; (try rw [← hw]); clear hw z)
    | lift_lets -underBinder
    | (with_reducible apply kept_foldl <;> intros)

theorem execGranuleCopyDone_kept {P : Kept → Prop} (hP : MemClosed P) (p : Fin 67108864) (t : ℕ) (s : State) (h_s : P s.kept) : NextKept P (execGranuleCopyDone p t s) := by
  unfold execGranuleCopyDone
  repeat' first
    | with_reducible assumption
    | with_reducible refine next_kept ?_
    | with_reducible apply State_upto_kept
    | with_reducible apply wakeMigrating_kept
    | with_reducible apply sweepMoves_kept
    | with_reducible apply granuleArrives_kept
    | with_reducible apply moveSmall_kept
    | with_reducible apply beginPromote_kept
    | with_reducible apply writeBack_kept
    | with_reducible apply drainGranule_kept
    | with_reducible apply leaveStack_kept
    | with_reducible apply beginDemote_kept
    | lift_lets -underBinder
    | with_reducible refine kept_ite ?_ ?_
    | split

theorem execDirtyLineEviction_kept {P : Kept → Prop} (line : Fin (2 ^ 41)) (t : ℕ) (s : State) (h_s : P s.kept) : NextKept P (execDirtyLineEviction line t s) := by
  unfold execDirtyLineEviction
  repeat' first
    | with_reducible assumption
    | with_reducible refine next_kept ?_
    | with_reducible apply State_upto_kept
    | with_reducible apply granuleFrames_kept
    | with_reducible apply placeGranule_kept
    | with_reducible apply farCheck_kept
    | with_reducible apply State_putPage_kept
    | lift_lets -underBinder
    | with_reducible refine kept_ite ?_ ?_
    | split
    | refine kept_snd (by with_reducible assumption) ?_
    | (fail_if_no_progress (with_reducible refine kept_rec ?_))

theorem errAddr_kept {P : Kept → Prop} (s : State) (far : Bool) (u : ℕ) (a : ℕ) (h_s : P s.kept) : P (errAddr s far u a).kept := by
  unfold errAddr
  repeat' first
    | with_reducible assumption
    | with_reducible apply State_setFlag_kept
    | with_reducible apply State_set_kept
    | with_reducible refine kept_ite ?_ ?_

theorem spareRow_kept {P : Kept → Prop} (s : State) (m : ℕ) (row : ℕ) (h_s : P s.kept) : P (spareRow s m row).kept := by
  unfold spareRow
  repeat' first
    | with_reducible assumption
    | with_reducible apply State_bump_kept
    | (intro (z : Nat); refine value_step z ?_; intro w hw; (try rw [← hw]); clear hw z)
    | (intro (z : Store); subst z)
    | lift_lets -underBinder
    | with_reducible refine kept_ite ?_ ?_
    | (fail_if_no_progress (with_reducible refine kept_rec ?_))

theorem rowError_kept {P : Kept → Prop} (s : State) (m : ℕ) (row : ℕ) (h_s : P s.kept) : P (rowError s m row).kept := by
  unfold rowError
  repeat' first
    | with_reducible assumption
    | with_reducible apply spareRow_kept
    | (intro z; refine kept_step (P := P) z ?_ ?_ <;> [unfold z; first | (intro w hw hz; rw [← hw]; clear hw z) | (intro w hw hz; rw [hw] at hz; clear hw w; clear_value z)])
    | (intro (z : Nat); refine value_step z ?_; intro w hw; (try rw [← hw]); clear hw z)
    | (intro (z : List _); refine value_step z ?_; intro w hw; (try rw [← hw]); clear hw z)
    | (intro (z : Store); subst z)
    | lift_lets -underBinder
    | with_reducible refine kept_ite ?_ ?_
    | (fail_if_no_progress (with_reducible refine kept_rec ?_))

theorem autoRetire_kept {P : Kept → Prop} (s : State) (d : ℕ) (dev : ℕ) (h_s : P s.kept) : P (autoRetire s d dev).kept := by
  unfold autoRetire
  repeat' first
    | with_reducible assumption
    | with_reducible apply State_setFlag_kept
    | with_reducible apply State_set_kept
    | (intro (z : Nat); refine value_step z ?_; intro w hw; (try rw [← hw]); clear hw z)
    | lift_lets -underBinder
    | with_reducible refine kept_ite ?_ ?_

theorem drizzleStep_kept {P : Kept → Prop} (s : State) (n : ℕ) (far : Bool) (h_s : P s.kept) : P (drizzleStep s n far).kept := by
  unfold drizzleStep
  repeat' first
    | with_reducible assumption
    | with_reducible apply State_bump_kept
    | (intro z; refine kept_step (P := P) z ?_ ?_ <;> [unfold z; first | (intro w hw hz; rw [← hw]; clear hw z) | (intro w hw hz; rw [hw] at hz; clear hw w; clear_value z)])
    | (intro (z : Nat); refine value_step z ?_; intro w hw; (try rw [← hw]); clear hw z)
    | (intro (z : Store); subst z)
    | lift_lets -underBinder
    | with_reducible refine kept_ite ?_ ?_
    | (fail_if_no_progress (with_reducible refine kept_rec ?_))

theorem execDrizzleRead_kept {P : Kept → Prop} (n : Fin 4) (far : Bool) (place : ℕ) (ev : Sys2Proof.EccEvent) (t : ℕ) (s : State) (h_s : P s.kept) : NextKept P (execDrizzleRead n far place ev t s) := by
  unfold execDrizzleRead
  repeat' first
    | with_reducible assumption
    | with_reducible refine next_kept ?_
    | with_reducible apply State_upto_kept
    | with_reducible apply drizzleStep_kept
    | with_reducible apply State_bumpSat_kept
    | with_reducible apply autoRetire_kept
    | with_reducible apply rowError_kept
    | with_reducible apply State_set_kept
    | with_reducible apply errAddr_kept
    | with_reducible apply poisonLine_kept
    | with_reducible apply spareRow_kept
    | (intro z; refine kept_step (P := P) z ?_ ?_ <;> [unfold z; first | (intro w hw hz; rw [← hw]; clear hw z) | (intro w hw hz; rw [hw] at hz; clear hw w; clear_value z)])
    | lift_lets -underBinder
    | with_reducible refine kept_ite ?_ ?_
    | split

theorem execStackIdent_kept {P : Kept → Prop} (m : Fin 8) (id : Sys2Proof.StackId) (s : State) (h_s : P s.kept) : NextKept P (execStackIdent m id s) := by
  unfold execStackIdent
  repeat' first
    | with_reducible assumption
    | with_reducible refine next_kept ?_
    | with_reducible apply State_set_kept
    | with_reducible apply State_setFlag_kept
    | (intro z; refine kept_step (P := P) z ?_ ?_ <;> [unfold z; first | (intro w hw hz; rw [← hw]; clear hw z) | (intro w hw hz; rw [hw] at hz; clear hw w; clear_value z)])
    | (intro (z : _ → _); subst z)
    | lift_lets -underBinder
    | with_reducible refine kept_ite ?_ ?_

theorem slotUp_kept {P : Kept → Prop} (s : State) (d : ℕ) (h_s : P s.kept) : P (slotUp s d).kept := by
  unfold slotUp
  repeat' first
    | with_reducible assumption
    | with_reducible apply State_setFlag_kept
    | with_reducible apply State_set_kept
    | (intro z; refine kept_step (P := P) z ?_ ?_ <;> [unfold z; first | (intro w hw hz; rw [← hw]; clear hw z) | (intro w hw hz; rw [hw] at hz; clear hw w; clear_value z)])
    | (intro (z : Nat); refine value_step z ?_; intro w hw; (try rw [← hw]); clear hw z)
    | (intro (z : Bool); refine value_step z ?_; intro w hw; (try rw [← hw]); clear hw z)
    | lift_lets -underBinder
    | with_reducible refine kept_ite ?_ ?_

theorem execDimmInsert_kept {P : Kept → Prop} (d : Fin 32) (s : State) (h_s : P s.kept) : NextKept P (execDimmInsert d s) := by
  unfold execDimmInsert
  repeat' first
    | with_reducible assumption
    | with_reducible refine next_kept ?_
    | with_reducible apply slotUp_kept
    | with_reducible apply State_setFlag_kept
    | lift_lets -underBinder
    | with_reducible refine kept_ite ?_ ?_

theorem execSpdReadComplete_kept {P : Kept → Prop} (d : Fin 32) (x : Sys2Proof.Spd) (s : State) (h_s : P s.kept) : NextKept P (execSpdReadComplete d x s) := by
  unfold execSpdReadComplete
  repeat' first
    | with_reducible assumption
    | with_reducible refine next_kept ?_
    | with_reducible apply State_set_kept
    | (intro z; refine kept_step (P := P) z ?_ ?_ <;> [unfold z; first | (intro w hw hz; rw [← hw]; clear hw z) | (intro w hw hz; rw [hw] at hz; clear hw w; clear_value z)])
    | (intro (z : _ → _); subst z)
    | lift_lets -underBinder
    | with_reducible refine kept_ite ?_ ?_

theorem execChannelTrainingDone_kept {P : Kept → Prop} (d : Fin 32) (passed : Bool) (ms : Fin 65536) (s : State) (h_s : P s.kept) : NextKept P (execChannelTrainingDone d passed ms s) := by
  unfold execChannelTrainingDone
  repeat' first
    | with_reducible assumption
    | with_reducible refine next_kept ?_
    | with_reducible apply State_set_kept
    | with_reducible apply farCheck_kept
    | (intro z; refine kept_step (P := P) z ?_ ?_ <;> [unfold z; first | (intro w hw hz; rw [← hw]; clear hw z) | (intro w hw hz; rw [hw] at hz; clear hw w; clear_value z)])
    | (intro (z : Nat); refine value_step z ?_; intro w hw; (try rw [← hw]); clear hw z)
    | lift_lets -underBinder
    | with_reducible refine kept_ite ?_ ?_

theorem execChannelDrained_kept {P : Kept → Prop} (d : Fin 32) (s : State) (h_s : P s.kept) : NextKept P (execChannelDrained d s) := by
  unfold execChannelDrained
  repeat' first
    | with_reducible assumption
    | with_reducible refine next_kept ?_
    | with_reducible apply State_set_kept
    | lift_lets -underBinder
    | with_reducible refine kept_ite ?_ ?_

theorem poisonChannel_kept {P : Kept → Prop} (s : State) (d : ℕ) (h_s : P s.kept) : P (poisonChannel s d).kept := by
  unfold poisonChannel
  repeat' first
    | with_reducible assumption
    | with_reducible apply poisonLine_kept
    | (intro z; refine value_step z ?_; intro w hw; (try rw [← hw]); clear hw z)
    | lift_lets -underBinder
    | with_reducible refine kept_ite ?_ ?_
    | (with_reducible apply kept_foldl <;> intros)

theorem failChannel_kept {P : Kept → Prop} (s : State) (d : ℕ) (reason : ℕ) (h_s : P s.kept) : P (failChannel s d reason).kept := by
  unfold failChannel
  repeat' first
    | with_reducible assumption
    | with_reducible apply State_set_kept
    | with_reducible apply farCheck_kept
    | with_reducible apply poisonChannel_kept

theorem deadChannel_kept {P : Kept → Prop} (s : State) (d : ℕ) (reason : ℕ) (cause : ℕ) (h_s : P s.kept) : P (deadChannel s d reason cause).kept := by
  unfold deadChannel
  repeat' first
    | with_reducible assumption
    | with_reducible apply noteFault_kept
    | with_reducible apply retired_kept
    | with_reducible apply failChannel_kept
    | lift_lets -underBinder
    | split
    | refine kept_snd (by with_reducible assumption) ?_

theorem execChannelFail_kept {P : Kept → Prop} (d : Fin 32) (beyond : Bool) (t : ℕ) (s : State) (h_s : P s.kept) : NextKept P (execChannelFail d beyond t s) := by
  unfold execChannelFail
  repeat' first
    | with_reducible assumption
    | with_reducible refine next_kept ?_
    | with_reducible apply State_upto_kept
    | with_reducible apply deadChannel_kept
    | lift_lets -underBinder
    | with_reducible refine kept_ite ?_ ?_

theorem execDimmRemove_kept {P : Kept → Prop} (d : Fin 32) (s : State) (h_s : P s.kept) : NextKept P (execDimmRemove d s) := by
  unfold execDimmRemove
  repeat' first
    | with_reducible assumption
    | with_reducible refine next_kept ?_
    | with_reducible apply slotUp_kept
    | with_reducible apply State_setFlag_kept

theorem ddrRetire_kept {P : Kept → Prop} (s : State) (d : ℕ) (h_s : P s.kept) : P (ddrRetire s d).kept := by
  unfold ddrRetire
  repeat' first
    | with_reducible assumption
    | with_reducible apply State_setFlag_kept
    | with_reducible apply farCheck_kept
    | with_reducible apply State_set_kept
    | (intro z; refine kept_step (P := P) z ?_ ?_ <;> [unfold z; first | (intro w hw hz; rw [← hw]; clear hw z) | (intro w hw hz; rw [hw] at hz; clear hw w; clear_value z)])
    | (intro (z : Nat); refine value_step z ?_; intro w hw; (try rw [← hw]); clear hw z)
    | lift_lets -underBinder
    | with_reducible refine kept_ite ?_ ?_

theorem ddrReturn_kept {P : Kept → Prop} (s : State) (d : ℕ) (h_s : P s.kept) : P (ddrReturn s d).kept := by
  unfold ddrReturn
  repeat' first
    | with_reducible assumption
    | with_reducible apply State_set_kept
    | with_reducible apply State_setFlag_kept
    | (intro (z : Nat); refine value_step z ?_; intro w hw; (try rw [← hw]); clear hw z)
    | lift_lets -underBinder
    | with_reducible refine kept_ite ?_ ?_

theorem ddrClr_kept {P : Kept → Prop} (s : State) (d : ℕ) (h_s : P s.kept) : P (ddrClr s d).kept := by
  unfold ddrClr
  repeat' first
    | with_reducible assumption
    | with_reducible apply State_set_kept

theorem hbmClr_kept {P : Kept → Prop} (s : State) (m : ℕ) (h_s : P s.kept) : P (hbmClr s m).kept := by
  unfold hbmClr
  repeat' first
    | with_reducible assumption
    | with_reducible apply State_set_kept

theorem touchMaxClear_kept {P : Kept → Prop} (s : State) (n : ℕ) (h_s : P s.kept) : P (touchMaxClear s n).kept := by
  unfold touchMaxClear
  repeat' first
    | with_reducible assumption
    | with_reducible apply State_set_kept

theorem hazeEvent_kept {P : Kept → Prop} (s : State) (enter : Bool) (ty : ℕ) (inst : ℕ) (h_s : P s.kept) : P (hazeEvent s enter ty inst).kept := by
  unfold hazeEvent
  repeat' first
    | with_reducible assumption
    | with_reducible apply postRas_kept

theorem execStoreHazeCheck_kept {P : Kept → Prop} (stack : Bool) (u : Fin 32) (median : ℕ) (peers : ℕ) (t : ℕ) (s : State) (h_s : P s.kept) : NextKept P (execStoreHazeCheck stack u median peers t s) := by
  unfold execStoreHazeCheck
  repeat' first
    | with_reducible assumption
    | with_reducible refine next_kept ?_
    | with_reducible apply State_upto_kept
    | with_reducible apply hazeEvent_kept
    | with_reducible apply State_set_kept
    | (intro z; refine kept_step (P := P) z ?_ ?_ <;> [unfold z; first | (intro w hw hz; rw [← hw]; clear hw z) | (intro w hw hz; rw [hw] at hz; clear hw w; clear_value z)])
    | (intro (z : Store); subst z)
    | lift_lets -underBinder
    | with_reducible refine kept_ite ?_ ?_
    | split
    | (fail_if_no_progress (with_reducible refine kept_rec ?_))

end Sys2Proof.Machine
end

