-- ==== Sys2Proof/Laws/KeptLog.lean ====
section
/-! SUPPORT. What the operations of Log.lean keep of the queue and the memory, one lemma each. -/

set_option maxRecDepth 100000
set_option linter.all false

namespace Sys2Proof.Machine

open Sys2Proof

theorem logWrite_kept {P : Kept → Prop} (s : State) (type : ℕ) (source : ℕ) (ctx : ℕ) (ring : ℕ) (idx : ℕ) (payload : List Sys2Proof.Byte) (h_s : P s.kept) : LogKept P (logWrite s type source ctx ring idx payload) := by
  unfold logWrite
  repeat' first
    | with_reducible assumption
    | with_reducible refine log_done ?_
    | with_reducible refine log_wait ?_
    | with_reducible refine log_long
    | with_reducible apply State_bump_kept
    | (intro (z : Nat); refine value_step z ?_; intro w hw; (try rw [← hw]); clear hw z)
    | (intro z; refine value_step z ?_; intro w hw; (try rw [← hw]); clear hw z)
    | lift_lets -underBinder
    | split
    | (fail_if_no_progress (with_reducible refine kept_rec0 ?_))

theorem logClose_kept {P : Kept → Prop} (s : State) (ring : ℕ) (idx : ℕ) (h_s : P s.kept) : P (logClose s ring idx).kept := by
  unfold logClose
  repeat' first
    | with_reducible assumption
    | (intro (z : _ → _); subst z)
    | (intro z; refine value_step z ?_; intro w hw; (try rw [← hw]); clear hw z)
    | lift_lets -underBinder
    | (fail_if_no_progress (with_reducible refine kept_rec0 ?_))

end Sys2Proof.Machine
end

