-- ==== Sys2Proof/Laws/KeptTiles.lean ====
section
/-! SUPPORT. What the operations of Tiles.lean keep of the queue and the memory, one lemma each. -/

set_option maxRecDepth 100000
set_option linter.all false

namespace Sys2Proof.Machine

open Sys2Proof

theorem putTile_kept {P : Kept → Prop} (s : State) (g : ℕ) (t : Tile) (h_s : P s.kept) : P (putTile s g t).kept := by
  unfold putTile
  repeat' first
    | with_reducible assumption
    | (intro z; refine value_step z ?_; intro w hw; (try rw [← hw]); clear hw z)
    | lift_lets -underBinder
    | (fail_if_no_progress (with_reducible refine kept_rec0 ?_))

theorem putKern_kept {P : Kept → Prop} (s : State) (k : Kern) (h_s : P s.kept) : P (putKern s k).kept := by
  unfold putKern
  repeat' first
    | with_reducible assumption
    | (intro z; refine value_step z ?_; intro w hw; (try rw [← hw]); clear hw z)
    | lift_lets -underBinder
    | (fail_if_no_progress (with_reducible refine kept_rec0 ?_))

theorem setTFlags_kept {P : Kept → Prop} (s : State) (k : Kern) (g : ℕ) (f : TFlags) (h_s : P s.kept) : P (setTFlags s k g f).kept := by
  unfold setTFlags
  repeat' first
    | with_reducible assumption
    | with_reducible apply State_setFlag_kept
    | (intro z; refine kept_step (P := P) z ?_ ?_ <;> [unfold z; first | (intro w hw hz; rw [← hw]; clear hw z) | (intro w hw hz; rw [hw] at hz; clear hw w; clear_value z)])
    | (intro (z : _ → _); subst z)
    | lift_lets -underBinder
    | with_reducible refine kept_ite ?_ ?_

theorem noteBank_kept {P : Kept → Prop} (s : State) (k : Kern) (b : Bool) (h_s : P s.kept) : P (noteBank s k b).kept := by
  unfold noteBank
  repeat' first
    | with_reducible assumption
    | with_reducible apply putKern_kept
    | lift_lets -underBinder
    | with_reducible refine kept_ite ?_ ?_
    | split

theorem settle_kept {P : Kept → Prop} (s : State) (k : Kern) (cyc : ℕ) (h_s : P s.kept) : P (settle s k cyc).kept := by
  unfold settle
  repeat' first
    | with_reducible assumption
    | with_reducible apply noteBank_kept
    | with_reducible apply setTFlags_kept
    | with_reducible apply putTile_kept
    | (with_reducible apply kept_foldl <;> intros)

theorem planError_kept {P : Kept → Prop} (s : State) (k : Kern) (kind : ℕ) (c : Sys2Proof.Code) (h_s : P s.kept) : P (planError s k kind c).kept := by
  unfold planError
  repeat' first
    | with_reducible assumption
    | with_reducible apply State_set_kept
    | with_reducible apply State_setFlag_kept
    | with_reducible apply putKern_kept

theorem applyAux_kept {P : Kept → Prop} (s : State) (k : Kern) (h_s : P s.kept) : P (applyAux s k).kept := by
  unfold applyAux
  repeat' first
    | with_reducible assumption
    | with_reducible apply putTile_kept
    | (with_reducible apply kept_foldl <;> intros)

theorem openBundle_kept {P : Kept → Prop} (s : State) (k : Kern) (i : Sys2Proof.Issue) (h_s : P s.kept) : OpenedKept P (openBundle s k i) := by
  unfold openBundle
  repeat' first
    | with_reducible assumption
    | with_reducible refine opened_go ?_
    | with_reducible refine opened_held
    | with_reducible refine opened_no
    | with_reducible apply settle_kept
    | with_reducible apply applyAux_kept
    | with_reducible apply putKern_kept
    | split

theorem holdCycle_kept {P : Kept → Prop} (s : State) (k : Kern) (h_s : P s.kept) : P (holdCycle s k).kept := by
  unfold holdCycle
  repeat' first
    | with_reducible assumption
    | with_reducible apply State_bump_kept
    | with_reducible refine kept_ite ?_ ?_

theorem slotRow_kept {P : Kept → Prop} (s : State) (i : Sys2Proof.Issue) (f : State → Kern → State) (h_s : P s.kept) (h_f : ∀ x0 x1, P x0.kept → P (f x0 x1).kept) : P (slotRow s i f).kept := by
  unfold slotRow
  repeat' first
    | with_reducible assumption
    | with_reducible apply State_upto_kept
    | with_reducible apply openBundle_kept
    | with_reducible apply holdCycle_kept
    | with_reducible apply planError_kept
    | apply h_f
    | (intro z; refine kept_step (P := P) z ?_ ?_ <;> [unfold z; first | (intro w hw hz; rw [← hw]; clear hw z) | (intro w hw hz; rw [hw] at hz; clear hw w; clear_value z)])
    | lift_lets -underBinder
    | with_reducible refine kept_ite ?_ ?_
    | split
    | refine of_opened (by with_reducible assumption) ?_

theorem tileRow_kept {P : Kept → Prop} (x : Sys2Proof.Slot) (op : Bool) (ok : Bool) (need : Needs) (eff : State →   Kern → Tile → ℕ → Tile × TFlags) (s : State) (h_s : P s.kept) : P (tileRow x op ok need eff s).kept := by
  unfold tileRow
  repeat' first
    | with_reducible assumption
    | with_reducible apply slotRow_kept
    | with_reducible apply planError_kept
    | with_reducible apply setTFlags_kept
    | with_reducible apply putTile_kept
    | (intro (z : List _); refine value_step z ?_; intro w hw; (try rw [← hw]); clear hw z)
    | (intro z; refine value_step z ?_; intro w hw; (try rw [← hw]); clear hw z)
    | intro _
    | lift_lets -underBinder
    | with_reducible refine kept_ite ?_ ?_
    | (with_reducible apply kept_foldl <;> intros)

theorem mmaRow_kept {P : Kept → Prop} (x : Sys2Proof.Slot) (s : State) (h_s : P s.kept) : P (mmaRow x s).kept := by
  unfold mmaRow
  repeat' first
    | with_reducible assumption
    | with_reducible apply tileRow_kept

theorem scaleRow_kept {P : Kept → Prop} (op : ℕ) (p : ℕ) (x : Sys2Proof.Slot) (s : State) (h_s : P s.kept) : P (scaleRow op p x s).kept := by
  unfold scaleRow
  repeat' first
    | with_reducible assumption
    | with_reducible apply tileRow_kept

theorem accRow_kept {P : Kept → Prop} (st : Bool) (x : Sys2Proof.Slot) (s : State) (h_s : P s.kept) : P (accRow st x s).kept := by
  unfold accRow
  repeat' first
    | with_reducible assumption
    | with_reducible apply tileRow_kept

theorem vecRow_kept {P : Kept → Prop} (op : ℕ) (x : Sys2Proof.Slot) (s : State) (h_s : P s.kept) : P (vecRow op x s).kept := by
  unfold vecRow
  repeat' first
    | with_reducible assumption
    | with_reducible apply tileRow_kept

theorem specialRow_kept {P : Kept → Prop} (op : ℕ) (x : Sys2Proof.Slot) (s : State) (h_s : P s.kept) : P (specialRow op x s).kept := by
  unfold specialRow
  repeat' first
    | with_reducible assumption
    | with_reducible apply tileRow_kept

theorem reduceRow_kept {P : Kept → Prop} (op : ℕ) (x : Sys2Proof.Slot) (s : State) (h_s : P s.kept) : P (reduceRow op x s).kept := by
  unfold reduceRow
  repeat' first
    | with_reducible assumption
    | with_reducible apply tileRow_kept

theorem cvtiRow_kept {P : Kept → Prop} (x : Sys2Proof.Slot) (s : State) (h_s : P s.kept) : P (cvtiRow x s).kept := by
  unfold cvtiRow
  repeat' first
    | with_reducible assumption
    | with_reducible apply tileRow_kept

theorem cvtoRow_kept {P : Kept → Prop} (x : Sys2Proof.Slot) (s : State) (h_s : P s.kept) : P (cvtoRow x s).kept := by
  unfold cvtoRow
  repeat' first
    | with_reducible assumption
    | with_reducible apply tileRow_kept

theorem amovRow_kept {P : Kept → Prop} (write : Bool) (x : Sys2Proof.Slot) (s : State) (h_s : P s.kept) : P (amovRow write x s).kept := by
  unfold amovRow
  repeat' first
    | with_reducible assumption
    | with_reducible apply tileRow_kept

theorem portRow_kept {P : Kept → Prop} (store : Bool) (x : Sys2Proof.Slot) (s : State) (h_s : P s.kept) : P (portRow store x s).kept := by
  unfold portRow
  repeat' first
    | with_reducible assumption
    | with_reducible apply tileRow_kept

theorem auxRow_kept {P : Kept → Prop} (add : Bool) (x : Sys2Proof.Slot) (s : State) (h_s : P s.kept) : P (auxRow add x s).kept := by
  unfold auxRow
  repeat' first
    | with_reducible assumption
    | with_reducible apply slotRow_kept
    | with_reducible apply planError_kept
    | with_reducible apply putKern_kept
    | (intro (z : Nat); refine value_step z ?_; intro w hw; (try rw [← hw]); clear hw z)
    | (intro z; refine value_step z ?_; intro w hw; (try rw [← hw]); clear hw z)
    | intro _
    | lift_lets -underBinder
    | with_reducible refine kept_ite ?_ ?_

theorem controlRow_kept {P : Kept → Prop} (op : ℕ) (top : ℕ) (w : Sys2Proof.Word) (i : Sys2Proof.Issue) (f : State → Kern → State) (s : State) (h_f : ∀ x0 x1, P x0.kept → P (f x0 x1).kept) (h_s : P s.kept) : P (controlRow op top w i f s).kept := by
  unfold controlRow
  repeat' first
    | with_reducible assumption
    | with_reducible apply slotRow_kept
    | with_reducible apply putKern_kept
    | with_reducible apply planError_kept
    | apply h_f
    | (intro z; refine kept_step (P := P) z ?_ ?_ <;> [unfold z; first | (intro w hw hz; rw [← hw]; clear hw z) | (intro w hw hz; rw [hw] at hz; clear hw w; clear_value z)])
    | (intro (z : Nat); refine value_step z ?_; intro w hw; (try rw [← hw]); clear hw z)
    | (intro z; refine value_step z ?_; intro w hw; (try rw [← hw]); clear hw z)
    | intro _
    | lift_lets -underBinder
    | with_reducible refine kept_ite ?_ ?_

theorem loopRow_kept {P : Kept → Prop} (w : Sys2Proof.Word) (i : Sys2Proof.Issue) (s : State) (h_s : P s.kept) : P (loopRow w i s).kept := by
  unfold loopRow
  repeat' first
    | with_reducible assumption
    | with_reducible apply controlRow_kept
    | with_reducible apply planError_kept
    | with_reducible apply putKern_kept
    | (intro (z : Nat); refine value_step z ?_; intro w hw; (try rw [← hw]); clear hw z)
    | (intro z; refine value_step z ?_; intro w hw; (try rw [← hw]); clear hw z)
    | intro _
    | lift_lets -underBinder
    | with_reducible refine kept_ite ?_ ?_

theorem endRow_kept {P : Kept → Prop} (w : Sys2Proof.Word) (i : Sys2Proof.Issue) (s : State) (h_s : P s.kept) : P (endRow w i s).kept := by
  unfold endRow
  repeat' first
    | with_reducible assumption
    | with_reducible apply controlRow_kept
    | with_reducible apply putKern_kept
    | (intro z; refine value_step z ?_; intro w hw; (try rw [← hw]); clear hw z)

theorem tloadRow_kept {P : Kept → Prop} (w : Sys2Proof.Word) (i : Sys2Proof.Issue) (s : State) (h_s : P s.kept) : P (tloadRow w i s).kept := by
  unfold tloadRow
  repeat' first
    | with_reducible assumption
    | with_reducible apply controlRow_kept
    | with_reducible apply planError_kept
    | with_reducible apply putKern_kept
    | (intro z; refine value_step z ?_; intro w hw; (try rw [← hw]); clear hw z)
    | intro _
    | split

theorem leaveTiles_kept {P : Kept → Prop} (s : State) (k : Kern) (h_s : P s.kept) : P (leaveTiles s k).kept := by
  unfold leaveTiles
  repeat' first
    | with_reducible assumption
    | with_reducible apply State_setFlag_kept
    | with_reducible apply putTile_kept
    | with_reducible apply State_set_kept
    | (intro z; refine kept_step (P := P) z ?_ ?_ <;> [unfold z; first | (intro w hw hz; rw [← hw]; clear hw z) | (intro w hw hz; rw [hw] at hz; clear hw w; clear_value z)])
    | (intro (z : Nat); refine value_step z ?_; intro w hw; (try rw [← hw]); clear hw z)
    | (intro (z : Bool); refine value_step z ?_; intro w hw; (try rw [← hw]); clear hw z)
    | (intro (z : List _); refine value_step z ?_; intro w hw; (try rw [← hw]); clear hw z)
    | (intro z; refine value_step z ?_; intro w hw; (try rw [← hw]); clear hw z)
    | lift_lets -underBinder
    | split
    | (with_reducible apply kept_foldl <;> intros)

theorem dropKern_kept {P : Kept → Prop} (s : State) (k : Kern) (h_s : P s.kept) : P (dropKern s k).kept := by
  unfold dropKern
  repeat' first
    | with_reducible assumption
    | (intro z; refine value_step z ?_; intro w hw; (try rw [← hw]); clear hw z)
    | lift_lets -underBinder
    | split
    | (fail_if_no_progress (with_reducible refine kept_rec0 ?_))

theorem reapKerns_kept {P : Kept → Prop} (s : State) (h_s : P s.kept) : P (reapKerns s).kept := by
  unfold reapKerns
  repeat' first
    | with_reducible assumption
    | with_reducible apply dropKern_kept
    | with_reducible apply leaveTiles_kept
    | (with_reducible apply kept_foldl <;> intros)

theorem switchOut_kept {P : Kept → Prop} (s : State) (k : Kern) (live : ℕ) (fault : Bool) (h_s : P s.kept) : P (switchOut s k live fault).kept := by
  unfold switchOut
  repeat' first
    | with_reducible assumption
    | with_reducible apply settle_kept
    | with_reducible apply applyAux_kept
    | with_reducible apply leaveTiles_kept
    | with_reducible apply putKern_kept
    | with_reducible apply State_bumpSat_kept
    | with_reducible apply putJob_kept
    | (intro z; refine kept_step (P := P) z ?_ ?_ <;> [unfold z; first | (intro w hw hz; rw [← hw]; clear hw z) | (intro w hw hz; rw [hw] at hz; clear hw w; clear_value z)])
    | (intro (z : List _); refine value_step z ?_; intro w hw; (try rw [← hw]); clear hw z)
    | (intro z; refine value_step z ?_; intro w hw; (try rw [← hw]); clear hw z)
    | lift_lets -underBinder
    | split
    | (fail_if_no_progress (with_reducible refine kept_rec0 ?_))

theorem yieldAt_kept {P : Kept → Prop} (s : State) (k : Kern) (live : ℕ) (isYield : Bool) (met : Bool) (w : Option (ℕ × ℕ)) (h_s : P s.kept) : SomeKept P (yieldAt s k live isYield met w) := by
  unfold yieldAt
  repeat' first
    | with_reducible assumption
    | with_reducible refine none_kept
    | with_reducible refine some_kept ?_
    | with_reducible apply dropKern_kept
    | with_reducible apply leaveTiles_kept
    | with_reducible apply finishJob_kept
    | with_reducible apply switchOut_kept
    | (intro z; refine kept_step (P := P) z ?_ ?_ <;> [unfold z; first | (intro w hw hz; rw [← hw]; clear hw z) | (intro w hw hz; rw [hw] at hz; clear hw w; clear_value z)])
    | (intro z; refine value_step z ?_; intro w hw; (try rw [← hw]); clear hw z)
    | lift_lets -underBinder
    | split

theorem yieldRow_kept {P : Kept → Prop} (w : Sys2Proof.Word) (i : Sys2Proof.Issue) (s : State) (h_s : P s.kept) : P (yieldRow w i s).kept := by
  unfold yieldRow
  repeat' first
    | with_reducible assumption
    | with_reducible refine kept_getD ?_ ?_
    | with_reducible apply controlRow_kept
    | with_reducible apply planError_kept
    | with_reducible apply yieldAt_kept
    | (intro (z : Nat); refine value_step z ?_; intro w hw; (try rw [← hw]); clear hw z)
    | (intro z; refine value_step z ?_; intro w hw; (try rw [← hw]); clear hw z)
    | intro _
    | lift_lets -underBinder
    | with_reducible refine kept_ite ?_ ?_

theorem syncRow_kept {P : Kept → Prop} (op : ℕ) (w : Sys2Proof.Word) (i : Sys2Proof.Issue) (ok : ℕ → Kern → Option ℕ) (hold : State → Kern → Bool) (f : State → Kern → State) (s : State) (h_f : ∀ x0 x1, P x0.kept → P (f x0 x1).kept) (h_s : P s.kept) : P (syncRow op w i ok hold f s).kept := by
  unfold syncRow
  repeat' first
    | with_reducible assumption
    | with_reducible apply State_upto_kept
    | with_reducible apply openBundle_kept
    | with_reducible apply holdCycle_kept
    | with_reducible apply planError_kept
    | apply h_f
    | (intro z; refine kept_step (P := P) z ?_ ?_ <;> [unfold z; first | (intro w hw hz; rw [← hw]; clear hw z) | (intro w hw hz; rw [hw] at hz; clear hw w; clear_value z)])
    | (intro (z : Nat); refine value_step z ?_; intro w hw; (try rw [← hw]); clear hw z)
    | lift_lets -underBinder
    | with_reducible refine kept_ite ?_ ?_
    | split
    | refine of_opened (by with_reducible assumption) ?_

theorem waitRow_kept {P : Kept → Prop} (w : Sys2Proof.Word) (i : Sys2Proof.Issue) (s : State) (h_s : P s.kept) : P (waitRow w i s).kept := by
  unfold waitRow
  repeat' first
    | with_reducible assumption
    | with_reducible refine none_kept
    | with_reducible apply yieldAt_kept
    | with_reducible apply syncRow_kept
    | with_reducible apply putKern_kept
    | (intro z; refine value_step z ?_; intro w hw; (try rw [← hw]); clear hw z)
    | intro _
    | lift_lets -underBinder
    | split
    | refine of_some_kept (by with_reducible assumption) ?_

theorem spfenceRow_kept {P : Kept → Prop} (w : Sys2Proof.Word) (i : Sys2Proof.Issue) (s : State) (h_s : P s.kept) : P (spfenceRow w i s).kept := by
  unfold spfenceRow
  repeat' first
    | with_reducible assumption
    | with_reducible apply syncRow_kept
    | (intro z; refine value_step z ?_; intro w hw; (try rw [← hw]); clear hw z)
    | intro _

theorem drainRow_kept {P : Kept → Prop} (w : Sys2Proof.Word) (i : Sys2Proof.Issue) (s : State) (h_s : P s.kept) : P (drainRow w i s).kept := by
  unfold drainRow
  repeat' first
    | with_reducible assumption
    | with_reducible apply syncRow_kept
    | (intro z; refine value_step z ?_; intro w hw; (try rw [← hw]); clear hw z)
    | intro _

theorem rangeRow_kept {P : Kept → Prop} (hP : MemClosed P) (acq : Bool) (w : Sys2Proof.Word) (i : Sys2Proof.Issue) (s : State) (h_s : P s.kept) : P (rangeRow acq w i s).kept := by
  unfold rangeRow
  repeat' first
    | with_reducible assumption
    | with_reducible apply syncRow_kept
    | with_reducible apply acquireRange_kept
    | with_reducible apply flushRange_kept
    | with_reducible apply putKern_kept
    | (intro z; refine value_step z ?_; intro w hw; (try rw [← hw]); clear hw z)
    | intro _
    | lift_lets -underBinder
    | with_reducible refine kept_ite ?_ ?_
    | split

end Sys2Proof.Machine
end

