-- ==== Sys2Proof/Laws/KeptTranslation.lean ====
section
/-! SUPPORT. What the operations of Translation.lean keep of the queue and the memory, one lemma each. -/

set_option maxRecDepth 100000
set_option linter.all false

namespace Sys2Proof.Machine

open Sys2Proof

theorem retireThrough_kept {P : Kept → Prop} (s : State) (k : ℕ) (h_s : P s.kept) : P (retireThrough s k).kept := by
  unfold retireThrough
  repeat' first
    | with_reducible assumption
    | (intro (z : _ → _); subst z)
    | (intro z; refine value_step z ?_; intro w hw; (try rw [← hw]); clear hw z)
    | lift_lets -underBinder
    | (fail_if_no_progress (with_reducible refine kept_rec0 ?_))

theorem xltRun_kept {P : Kept → Prop} (op : ℕ) (d : Sys2Proof.Desc) (s : State) (eff : State → Job → State) (h_s : P s.kept) (h_eff : ∀ x0 x1, P x0.kept → P (eff x0 x1).kept) : NextKept P (xltRun op d s eff) := by
  unfold xltRun
  repeat' first
    | with_reducible assumption
    | with_reducible refine next_kept ?_
    | with_reducible apply runDesc_kept

theorem installSeg_kept {P : Kept → Prop} (s : State) (k : ℕ) (g : Option Seg) (h_s : P s.kept) : P (installSeg s k g).kept := by
  unfold installSeg
  repeat' first
    | with_reducible assumption
    | with_reducible apply dropSeg_kept
    | (intro z; refine kept_step (P := P) z ?_ ?_ <;> [unfold z; first | (intro w hw hz; rw [← hw]; clear hw z) | (intro w hw hz; rw [hw] at hz; clear hw w; clear_value z)])
    | (intro z; refine value_step z ?_; intro w hw; (try rw [← hw]); clear hw z)
    | lift_lets -underBinder
    | split
    | (fail_if_no_progress (with_reducible refine kept_rec0 ?_))

theorem cancelJob_kept {P : Kept → Prop} (s : State) (j : Job) (c : Sys2Proof.Code) (h_s : P s.kept) : P (cancelJob s j c).kept := by
  unfold cancelJob
  repeat' first
    | with_reducible assumption
    | with_reducible apply finishJob_kept
    | with_reducible apply dropWaiter_kept

theorem narrow_kept {P : Kept → Prop} (s : State) (k : ℕ) (h_s : P s.kept) : P (narrow s k).kept := by
  unfold narrow
  repeat' first
    | with_reducible assumption
    | with_reducible apply cancelJob_kept
    | with_reducible apply retireThrough_kept
    | lift_lets -underBinder
    | (with_reducible apply kept_foldl <;> intros)

theorem execXltCtxSet_kept {P : Kept → Prop} (d : Sys2Proof.Desc) (s : State) (h_s : P s.kept) : NextKept P (execXltCtxSet d s) := by
  unfold execXltCtxSet
  repeat' first
    | with_reducible assumption
    | with_reducible apply xltRun_kept
    | with_reducible apply finishJob_kept
    | (intro (z : Nat); refine value_step z ?_; intro w hw; (try rw [← hw]); clear hw z)
    | (intro z; refine value_step z ?_; intro w hw; (try rw [← hw]); clear hw z)
    | intro _
    | lift_lets -underBinder
    | with_reducible refine kept_ite ?_ ?_
    | (fail_if_no_progress (with_reducible refine kept_rec0 ?_))

theorem clearSeg_kept {P : Kept → Prop} (s : State) (j : Job) (k : ℕ) (h_s : P s.kept) : P (clearSeg s j k).kept := by
  unfold clearSeg
  repeat' first
    | with_reducible assumption
    | with_reducible apply startInval_kept
    | with_reducible apply narrow_kept
    | with_reducible apply installSeg_kept
    | split

theorem execXltCtxClear_kept {P : Kept → Prop} (d : Sys2Proof.Desc) (s : State) (h_s : P s.kept) : NextKept P (execXltCtxClear d s) := by
  unfold execXltCtxClear
  repeat' first
    | with_reducible assumption
    | with_reducible apply xltRun_kept
    | with_reducible apply finishJob_kept
    | with_reducible apply clearSeg_kept
    | with_reducible apply putJob_kept
    | (intro z; refine kept_step (P := P) z ?_ ?_ <;> [unfold z; first | (intro w hw hz; rw [← hw]; clear hw z) | (intro w hw hz; rw [hw] at hz; clear hw w; clear_value z)])
    | (intro (z : Nat); refine value_step z ?_; intro w hw; (try rw [← hw]); clear hw z)
    | (intro (z : List _); refine value_step z ?_; intro w hw; (try rw [← hw]); clear hw z)
    | (intro z; refine value_step z ?_; intro w hw; (try rw [← hw]); clear hw z)
    | intro _
    | lift_lets -underBinder
    | with_reducible refine kept_ite ?_ ?_
    | (with_reducible apply kept_foldl <;> intros)
    | (fail_if_no_progress (with_reducible refine kept_rec0 ?_))

theorem execXltSegSet_kept {P : Kept → Prop} (hP : MemClosed P) (d : Sys2Proof.Desc) (s : State) (h_s : P s.kept) : NextKept P (execXltSegSet d s) := by
  unfold execXltSegSet
  repeat' first
    | with_reducible assumption
    | with_reducible apply xltRun_kept
    | with_reducible apply putJob_kept
    | with_reducible apply finishJob_kept
    | with_reducible apply prepare_kept
    | with_reducible apply readVa_kept
    | with_reducible apply installSeg_kept
    | with_reducible apply startInval_kept
    | with_reducible apply narrow_kept
    | (intro (z : Nat); refine value_step z ?_; intro w hw; (try rw [← hw]); clear hw z)
    | (intro z; refine value_step z ?_; intro w hw; (try rw [← hw]); clear hw z)
    | intro _
    | lift_lets -underBinder
    | with_reducible refine kept_ite ?_ ?_
    | split
    | refine kept_snd (by with_reducible assumption) ?_

theorem execXltSegClear_kept {P : Kept → Prop} (d : Sys2Proof.Desc) (s : State) (h_s : P s.kept) : NextKept P (execXltSegClear d s) := by
  unfold execXltSegClear
  repeat' first
    | with_reducible assumption
    | with_reducible apply xltRun_kept
    | with_reducible apply finishJob_kept
    | with_reducible apply putJob_kept
    | with_reducible apply clearSeg_kept
    | (intro (z : Nat); refine value_step z ?_; intro w hw; (try rw [← hw]); clear hw z)
    | (intro z; refine value_step z ?_; intro w hw; (try rw [← hw]); clear hw z)
    | intro _
    | lift_lets -underBinder
    | with_reducible refine kept_ite ?_ ?_

theorem execXltInval_kept {P : Kept → Prop} (d : Sys2Proof.Desc) (s : State) (h_s : P s.kept) : NextKept P (execXltInval d s) := by
  unfold execXltInval
  repeat' first
    | with_reducible assumption
    | with_reducible apply xltRun_kept
    | with_reducible apply finishJob_kept
    | with_reducible apply startInval_kept
    | with_reducible apply putJob_kept
    | (intro z; refine kept_step (P := P) z ?_ ?_ <;> [unfold z; first | (intro w hw hz; rw [← hw]; clear hw z) | (intro w hw hz; rw [hw] at hz; clear hw w; clear_value z)])
    | (intro (z : Nat); refine value_step z ?_; intro w hw; (try rw [← hw]); clear hw z)
    | (intro (z : Bool); refine value_step z ?_; intro w hw; (try rw [← hw]); clear hw z)
    | (intro z; refine value_step z ?_; intro w hw; (try rw [← hw]); clear hw z)
    | intro _
    | lift_lets -underBinder
    | with_reducible refine kept_ite ?_ ?_

theorem invalAcked_kept {P : Kept → Prop} (s : State) (v : Inval) (unit : ℕ) (h_s : P s.kept) : P (invalAcked s v unit).kept := by
  unfold invalAcked
  repeat' first
    | with_reducible assumption
    | with_reducible apply State_set_kept
    | with_reducible apply State_bump_kept
    | (intro z; refine kept_step (P := P) z ?_ ?_ <;> [unfold z; first | (intro w hw hz; rw [← hw]; clear hw z) | (intro w hw hz; rw [hw] at hz; clear hw w; clear_value z)])
    | (intro (z : List _); refine value_step z ?_; intro w hw; (try rw [← hw]); clear hw z)
    | (intro z; refine value_step z ?_; intro w hw; (try rw [← hw]); clear hw z)
    | lift_lets -underBinder
    | with_reducible refine kept_ite ?_ ?_
    | (fail_if_no_progress (with_reducible refine kept_rec0 ?_))

theorem execInvalAck_kept {P : Kept → Prop} (id : ℕ) (unit : Fin 256) (t : ℕ) (s : State) (h_s : P s.kept) : NextKept P (execInvalAck id unit t s) := by
  unfold execInvalAck
  repeat' first
    | with_reducible assumption
    | with_reducible refine next_kept ?_
    | with_reducible apply State_upto_kept
    | with_reducible apply invalAcked_kept
    | lift_lets -underBinder
    | with_reducible refine kept_ite ?_ ?_
    | split

theorem swapOutPage_kept {P : Kept → Prop} (s : State) (p : ℕ) (h_s : P s.kept) : P (swapOutPage s p).kept := by
  unfold swapOutPage
  repeat' first
    | with_reducible assumption
    | with_reducible apply dropTlb_kept
    | with_reducible apply State_putPage_kept
    | with_reducible apply writeBack_kept
    | with_reducible apply sendOut_kept
    | (intro z; refine kept_step (P := P) z ?_ ?_ <;> [unfold z; first | (intro w hw hz; rw [← hw]; clear hw z) | (intro w hw hz; rw [hw] at hz; clear hw w; clear_value z)])
    | (intro (z : List _); refine value_step z ?_; intro w hw; (try rw [← hw]); clear hw z)
    | (intro (z : Store); subst z)
    | lift_lets -underBinder
    | split
    | (fail_if_no_progress (with_reducible refine kept_rec ?_))

theorem execXltSwapOut_kept {P : Kept → Prop} (hP : MemClosed P) (d : Sys2Proof.Desc) (s : State) (h_s : P s.kept) : NextKept P (execXltSwapOut d s) := by
  unfold execXltSwapOut
  repeat' first
    | with_reducible assumption
    | with_reducible apply xltRun_kept
    | with_reducible apply finishJob_kept
    | with_reducible apply evictRange_kept
    | with_reducible apply putJob_kept
    | with_reducible apply writeBacks_kept
    | with_reducible apply swapOutPage_kept
    | (intro (z : Nat); refine value_step z ?_; intro w hw; (try rw [← hw]); clear hw z)
    | (intro (z : List _); refine value_step z ?_; intro w hw; (try rw [← hw]); clear hw z)
    | (intro z; refine value_step z ?_; intro w hw; (try rw [← hw]); clear hw z)
    | intro _
    | lift_lets -underBinder
    | with_reducible refine kept_ite ?_ ?_
    | (with_reducible apply kept_foldl <;> intros)

theorem placeFar_kept {P : Kept → Prop} (s : State) (p : ℕ) (e : Page) (z3 : ℕ) (z4 : List Granule) (h_s : P s.kept) : P (placeFar s p e z3 z4).2.kept := by
  induction z3 generalizing s z4 with
  | zero => unfold placeFar; assumption
  | succ n ih =>
    unfold placeFar
    repeat' first
      | with_reducible assumption
      | with_reducible apply State_putPage_kept
      | with_reducible apply granuleFrames_kept
      | with_reducible apply placeGranule_kept
      | with_reducible apply ih
      | lift_lets -underBinder
      | split
      | refine kept_snd (by with_reducible assumption) ?_

theorem swapInPage_kept {P : Kept → Prop} (s : State) (p : ℕ) (e : Page) (k : ℕ) (h_s : P s.kept) : SomeKept P (swapInPage s p e k) := by
  unfold swapInPage
  repeat' first
    | with_reducible assumption
    | with_reducible refine none_kept
    | with_reducible refine some_kept ?_
    | with_reducible apply sendOut_kept
    | with_reducible apply dropTlb_kept
    | with_reducible apply State_bump_kept
    | with_reducible apply State_putPage_kept
    | with_reducible apply takeFrame_kept
    | with_reducible apply placeFar_kept
    | with_reducible apply farCheck_kept
    | (intro z; refine kept_step (P := P) z ?_ ?_ <;> [unfold z; first | (intro w hw hz; rw [← hw]; clear hw z) | (intro w hw hz; rw [hw] at hz; clear hw w; clear_value z)])
    | (intro (z : Bool); refine value_step z ?_; intro w hw; (try rw [← hw]); clear hw z)
    | (intro (z : _ → _); subst z)
    | lift_lets -underBinder
    | split
    | refine kept_snd (by with_reducible assumption) ?_

theorem execXltSwapIn_kept {P : Kept → Prop} (d : Sys2Proof.Desc) (s : State) (h_s : P s.kept) : NextKept P (execXltSwapIn d s) := by
  unfold execXltSwapIn
  repeat' first
    | with_reducible assumption
    | with_reducible refine some_kept ?_
    | with_reducible apply xltRun_kept
    | with_reducible apply finishJob_kept
    | with_reducible apply swapInPage_kept
    | (intro (z : Nat); refine value_step z ?_; intro w hw; (try rw [← hw]); clear hw z)
    | (intro (z : List _); refine value_step z ?_; intro w hw; (try rw [← hw]); clear hw z)
    | (intro (z : Option _); subst z)
    | (intro z; refine value_step z ?_; intro w hw; (try rw [← hw]); clear hw z)
    | intro _
    | lift_lets -underBinder
    | with_reducible refine kept_ite ?_ ?_
    | split
    | with_reducible refine foldl_bind_kept ?_ ?_
    | refine of_some_kept (by with_reducible assumption) ?_

theorem endTask_kept {P : Kept → Prop} (s : State) (k : Task) (c : Sys2Proof.Code) (h_s : P s.kept) : P (endTask s k c).kept := by
  unfold endTask
  repeat' first
    | with_reducible assumption
    | with_reducible apply endHome_kept
    | with_reducible apply finishJob_kept
    | with_reducible apply planError_kept
    | (intro z; refine kept_step (P := P) z ?_ ?_ <;> [unfold z; first | (intro w hw hz; rw [← hw]; clear hw z) | (intro w hw hz; rw [hw] at hz; clear hw w; clear_value z)])
    | (intro z; refine value_step z ?_; intro w hw; (try rw [← hw]); clear hw z)
    | lift_lets -underBinder
    | with_reducible refine kept_ite ?_ ?_
    | split
    | (fail_if_no_progress (with_reducible refine kept_rec0 ?_))

theorem resumeTask_kept {P : Kept → Prop} (hP : MemClosed P) (s : State) (k : Task) (h_s : P s.kept) : P (resumeTask s k).kept := by
  unfold resumeTask
  repeat' first
    | with_reducible assumption
    | with_reducible apply homeGo_kept
    | with_reducible apply putJob_kept
    | (intro (z : _ → _); subst z)
    | (intro z; refine value_step z ?_; intro w hw; (try rw [← hw]); clear hw z)
    | lift_lets -underBinder
    | with_reducible refine kept_ite ?_ ?_
    | split
    | (fail_if_no_progress (with_reducible refine kept_rec0 ?_))

theorem endWaiters_kept {P : Kept → Prop} (s : State) (r : FaultRec) (c : Sys2Proof.Code) (h_s : P s.kept) : P (endWaiters s r c).kept := by
  unfold endWaiters
  repeat' first
    | with_reducible assumption
    | with_reducible apply endTask_kept
    | (with_reducible apply kept_foldl <;> intros)

theorem resumeWaiters_kept {P : Kept → Prop} (hP : MemClosed P) (s : State) (r : FaultRec) (h_s : P s.kept) : P (resumeWaiters s r).kept := by
  unfold resumeWaiters
  repeat' first
    | with_reducible assumption
    | with_reducible apply resumeTask_kept
    | (with_reducible apply kept_foldl <;> intros)

theorem execFaultQueueConsume_kept {P : Kept → Prop} (hP : MemClosed P) (t : ℕ) (s : State) (h_s : P s.kept) : NextKept P (execFaultQueueConsume t s) := by
  unfold execFaultQueueConsume
  repeat' first
    | with_reducible assumption
    | with_reducible refine next_kept ?_
    | with_reducible apply State_upto_kept
    | with_reducible apply State_set_kept
    | with_reducible apply State_setFlag_kept
    | with_reducible apply wake_kept
    | with_reducible apply resumeWaiters_kept
    | with_reducible apply postCpair_kept
    | (intro z; refine kept_step (P := P) z ?_ ?_ <;> [unfold z; first | (intro w hw hz; rw [← hw]; clear hw z) | (intro w hw hz; rw [hw] at hz; clear hw w; clear_value z)])
    | (intro (z : Nat); refine value_step z ?_; intro w hw; (try rw [← hw]); clear hw z)
    | (intro (z : Bool); refine value_step z ?_; intro w hw; (try rw [← hw]); clear hw z)
    | (intro z; refine value_step z ?_; intro w hw; (try rw [← hw]); clear hw z)
    | lift_lets -underBinder
    | with_reducible refine kept_ite ?_ ?_
    | split
    | (fail_if_no_progress (with_reducible refine kept_rec0 ?_))

theorem execStalledRecordPost_kept {P : Kept → Prop} (hP : MemClosed P) (t : ℕ) (s : State) (h_s : P s.kept) : NextKept P (execStalledRecordPost t s) := by
  unfold execStalledRecordPost
  repeat' first
    | with_reducible assumption
    | with_reducible refine next_kept ?_
    | with_reducible apply State_upto_kept
    | with_reducible apply wake_kept
    | with_reducible apply enqueueFault_kept
    | with_reducible apply State_bump_kept
    | with_reducible apply joinFault_kept
    | with_reducible apply stampFault_kept
    | (intro z; refine kept_step (P := P) z ?_ ?_ <;> [unfold z; first | (intro w hw hz; rw [← hw]; clear hw z) | (intro w hw hz; rw [hw] at hz; clear hw w; clear_value z)])
    | (intro (z : _ → _); subst z)
    | lift_lets -underBinder
    | with_reducible refine kept_ite ?_ ?_
    | split
    | (fail_if_no_progress (with_reducible refine kept_rec0 ?_))

theorem execWaiterRoom_kept {P : Kept → Prop} (hP : MemClosed P) (t : ℕ) (s : State) (h_s : P s.kept) : NextKept P (execWaiterRoom t s) := by
  unfold execWaiterRoom
  repeat' first
    | with_reducible assumption
    | with_reducible refine next_kept ?_
    | with_reducible apply State_upto_kept
    | with_reducible apply wake_kept
    | with_reducible apply State_bump_kept
    | with_reducible apply joinFault_kept
    | with_reducible apply stampFault_kept
    | with_reducible apply enqueueFault_kept
    | (intro (z : List _); refine value_step z ?_; intro w hw; (try rw [← hw]); clear hw z)
    | (intro z; refine value_step z ?_; intro w hw; (try rw [← hw]); clear hw z)
    | lift_lets -underBinder
    | with_reducible refine kept_ite ?_ ?_
    | split
    | (fail_if_no_progress (with_reducible refine kept_rec0 ?_))

theorem resolveUnallocated_kept {P : Kept → Prop} (hP : MemClosed P) (s : State) (r : FaultRec) (p : ℕ) (h_s : P s.kept) : P (resolveUnallocated s r p).kept := by
  unfold resolveUnallocated
  repeat' first
    | with_reducible assumption
    | with_reducible apply resumeWaiters_kept
    | with_reducible apply endWaiters_kept
    | with_reducible apply allocPage_kept
    | (intro (z : Nat); refine value_step z ?_; intro w hw; (try rw [← hw]); clear hw z)
    | (intro z; refine value_step z ?_; intro w hw; (try rw [← hw]); clear hw z)
    | lift_lets -underBinder
    | with_reducible refine kept_ite ?_ ?_
    | split

theorem resolvePage_kept {P : Kept → Prop} (hP : MemClosed P) (s : State) (r : FaultRec) (p : ℕ) (freed : Bool) (h_s : P s.kept) : SomeKept P (resolvePage s r p freed) := by
  unfold resolvePage
  repeat' first
    | with_reducible assumption
    | with_reducible refine none_kept
    | with_reducible refine some_kept ?_
    | with_reducible apply resolveUnallocated_kept
    | with_reducible apply resumeWaiters_kept
    | with_reducible apply swapInPage_kept
    | with_reducible apply endWaiters_kept
    | lift_lets -underBinder
    | with_reducible refine kept_ite ?_ ?_
    | split
    | refine of_some_kept (by with_reducible assumption) ?_

theorem execFaultResolve_kept {P : Kept → Prop} (hP : MemClosed P) (seq : BitVec 32) (freed : Bool) (t : ℕ) (s : State) (h_s : P s.kept) : NextKept P (execFaultResolve seq freed t s) := by
  unfold execFaultResolve
  repeat' first
    | with_reducible assumption
    | with_reducible refine next_kept ?_
    | with_reducible apply State_upto_kept
    | with_reducible apply resolvePage_kept
    | with_reducible apply wake_kept
    | (intro z; refine kept_step (P := P) z ?_ ?_ <;> [unfold z; first | (intro w hw hz; rw [← hw]; clear hw z) | (intro w hw hz; rw [hw] at hz; clear hw w; clear_value z)])
    | (intro z; refine value_step z ?_; intro w hw; (try rw [← hw]); clear hw z)
    | lift_lets -underBinder
    | split
    | refine of_some_kept (by with_reducible assumption) ?_
    | (fail_if_no_progress (with_reducible refine kept_rec0 ?_))

end Sys2Proof.Machine
end

