-- ==== Sys2Proof/Laws/KeptRings.lean ====
section
/-! SUPPORT. What the operations of Rings.lean keep of the queue and the memory, one lemma each. -/

set_option maxRecDepth 100000
set_option linter.all false

namespace Sys2Proof.Machine

open Sys2Proof

theorem addReading_kept {P : Kept → Prop} (s : State) (g : ℕ) (i : ℕ) (h_s : P s.kept) : P (addReading s g i).kept := by
  unfold addReading
  repeat' first
    | with_reducible assumption
    | (intro z; refine value_step z ?_; intro w hw; (try rw [← hw]); clear hw z)
    | lift_lets -underBinder
    | (fail_if_no_progress (with_reducible refine kept_rec0 ?_))

theorem fetchOne_kept {P : Kept → Prop} (s : State) (g : ℕ) (h_s : P s.kept) : P (fetchOne s g).kept := by
  unfold fetchOne
  repeat' first
    | with_reducible assumption
    | with_reducible refine none_kept
    | with_reducible refine some_kept ?_
    | with_reducible apply State_emit_kept
    | with_reducible apply sendOut_kept
    | with_reducible apply State_putRing_kept
    | with_reducible apply addReading_kept
    | (intro (z : Nat); refine value_step z ?_; intro w hw; (try rw [← hw]); clear hw z)
    | (intro (z : _ → _); subst z)
    | (intro (z : Option _); subst z)
    | (intro z; refine value_step z ?_; intro w hw; (try rw [← hw]); clear hw z)
    | lift_lets -underBinder
    | with_reducible refine kept_ite ?_ ?_
    | split
    | refine of_some_kept (by with_reducible assumption) ?_
    | (fail_if_no_progress (with_reducible refine kept_rec0 ?_))

theorem fetchTurn_kept {P : Kept → Prop} (s : State) (g : ℕ) (z2 : ℕ) (h_s : P s.kept) : P (fetchTurn s g z2).kept := by
  induction z2 generalizing s with
  | zero => unfold fetchTurn; assumption
  | succ n ih =>
    unfold fetchTurn
    repeat' first
      | with_reducible assumption
      | with_reducible apply fetchOne_kept
      | with_reducible apply ih
      | (intro z; refine value_step z ?_; intro w hw; (try rw [← hw]); clear hw z)
      | lift_lets -underBinder
      | with_reducible refine kept_ite ?_ ?_

theorem execDescriptorFetch_kept {P : Kept → Prop} (g : Fin 1048576) (t : ℕ) (s : State) (h_s : P s.kept) : NextKept P (execDescriptorFetch g t s) := by
  unfold execDescriptorFetch
  repeat' first
    | with_reducible assumption
    | with_reducible refine next_kept ?_
    | with_reducible apply State_upto_kept
    | with_reducible apply ringCpair_kept
    | with_reducible apply fetchTurn_kept
    | with_reducible apply qcLook_kept
    | (intro z; refine value_step z ?_; intro w hw; (try rw [← hw]); clear hw z)
    | lift_lets -underBinder
    | with_reducible refine kept_ite ?_ ?_

theorem execNopDesc_kept {P : Kept → Prop} (d : Sys2Proof.Desc) (s : State) (h_s : P s.kept) : NextKept P (execNopDesc d s) := by
  unfold execNopDesc
  repeat' first
    | with_reducible assumption
    | with_reducible refine next_kept ?_
    | with_reducible apply runDesc_kept
    | with_reducible apply finishJob_kept
    | (intro z; refine value_step z ?_; intro w hw; (try rw [← hw]); clear hw z)

theorem ringDisabled_kept {P : Kept → Prop} (s : State) (g : ℕ) (h_s : P s.kept) : P (ringDisabled s g).kept := by
  unfold ringDisabled
  repeat' first
    | with_reducible assumption
    | with_reducible apply finishJob_kept
    | with_reducible apply State_set_kept
    | with_reducible apply State_setFlag_kept
    | (intro z; refine kept_step (P := P) z ?_ ?_ <;> [unfold z; first | (intro w hw hz; rw [← hw]; clear hw z) | (intro w hw hz; rw [hw] at hz; clear hw w; clear_value z)])
    | (intro (z : Nat); refine value_step z ?_; intro w hw; (try rw [← hw]); clear hw z)
    | (intro (z : _ → _); subst z)
    | (intro z; refine value_step z ?_; intro w hw; (try rw [← hw]); clear hw z)
    | lift_lets -underBinder
    | with_reducible refine kept_ite ?_ ?_
    | (with_reducible apply kept_foldl <;> intros)
    | (fail_if_no_progress (with_reducible refine kept_rec0 ?_))

theorem checkDrained_kept {P : Kept → Prop} (s : State) (g : ℕ) (h_s : P s.kept) : P (checkDrained s g).kept := by
  unfold checkDrained
  repeat' first
    | with_reducible assumption
    | with_reducible apply ringDisabled_kept
    | with_reducible apply State_putRing_kept
    | (intro z; refine value_step z ?_; intro w hw; (try rw [← hw]); clear hw z)
    | lift_lets -underBinder
    | with_reducible refine kept_ite ?_ ?_

theorem enterDraining_kept {P : Kept → Prop} (s : State) (g : ℕ) (port : Bool) (h_s : P s.kept) : P (enterDraining s g port).kept := by
  unfold enterDraining
  repeat' first
    | with_reducible assumption
    | with_reducible apply State_putRing_kept
    | with_reducible apply cancelJob_kept
    | with_reducible apply checkDrained_kept
    | (intro z; refine kept_step (P := P) z ?_ ?_ <;> [unfold z; first | (intro w hw hz; rw [← hw]; clear hw z) | (intro w hw hz; rw [hw] at hz; clear hw w; clear_value z)])
    | (intro z; refine value_step z ?_; intro w hw; (try rw [← hw]); clear hw z)
    | lift_lets -underBinder
    | with_reducible refine kept_ite ?_ ?_
    | (with_reducible apply kept_foldl <;> intros)

theorem telemJob_kept {P : Kept → Prop} (s : State) (j : Job) (h_s : P s.kept) : P (telemJob s j).kept := by
  unfold telemJob
  repeat' first
    | with_reducible assumption
    | with_reducible apply telemCode_kept
    | with_reducible apply telem_kept
    | (intro z; refine kept_step (P := P) z ?_ ?_ <;> [unfold z; first | (intro w hw hz; rw [← hw]; clear hw z) | (intro w hw hz; rw [hw] at hz; clear hw w; clear_value z)])
    | (intro (z : Nat); refine value_step z ?_; intro w hw; (try rw [← hw]); clear hw z)
    | lift_lets -underBinder
    | with_reducible refine kept_ite ?_ ?_

theorem recordJob_kept {P : Kept → Prop} (s : State) (j : Job) (h_s : P s.kept) : P (recordJob s j).kept := by
  unfold recordJob
  repeat' first
    | with_reducible assumption
    | with_reducible apply telemJob_kept
    | with_reducible apply logClose_kept
    | with_reducible apply reapKerns_kept
    | with_reducible apply unitIdle_kept
    | with_reducible apply State_putRing_kept
    | with_reducible apply writeRecord_kept
    | with_reducible apply checkDrained_kept
    | (intro z; refine value_step z ?_; intro w hw; (try rw [← hw]); clear hw z)
    | lift_lets -underBinder
    | split
    | (fail_if_no_progress (with_reducible refine kept_rec0 ?_))

theorem completeJob_kept {P : Kept → Prop} (hP : MemClosed P) (s : State) (j : Job) (h_s : P s.kept) : P (completeJob s j).kept := by
  unfold completeJob
  repeat' first
    | with_reducible assumption
    | with_reducible apply recordJob_kept
    | with_reducible apply flushContext_kept
    | with_reducible apply putJob_kept
    | (intro z; refine kept_step (P := P) z ?_ ?_ <;> [unfold z; first | (intro w hw hz; rw [← hw]; clear hw z) | (intro w hw hz; rw [hw] at hz; clear hw w; clear_value z)])
    | lift_lets -underBinder
    | with_reducible refine kept_ite ?_ ?_
    | split

theorem execDescriptorComplete_kept {P : Kept → Prop} (hP : MemClosed P) (g : Fin 1048576) (i : Fin 65536) (t : ℕ) (s : State) (h_s : P s.kept) : NextKept P (execDescriptorComplete g i t s) := by
  unfold execDescriptorComplete
  repeat' first
    | with_reducible assumption
    | with_reducible refine next_kept ?_
    | with_reducible apply State_upto_kept
    | with_reducible apply completeJob_kept
    | lift_lets -underBinder
    | with_reducible refine kept_ite ?_ ?_
    | split

theorem execNotifyTimer_kept {P : Kept → Prop} (g : Fin 1048576) (t : ℕ) (s : State) (h_s : P s.kept) : NextKept P (execNotifyTimer g t s) := by
  unfold execNotifyTimer
  repeat' first
    | with_reducible assumption
    | with_reducible refine next_kept ?_
    | with_reducible apply State_upto_kept
    | with_reducible apply notifyRing_kept
    | lift_lets -underBinder
    | with_reducible refine kept_ite ?_ ?_

theorem execDisableBoundExpiry_kept {P : Kept → Prop} (g : Fin 1048576) (t : ℕ) (s : State) (h_s : P s.kept) : NextKept P (execDisableBoundExpiry g t s) := by
  unfold execDisableBoundExpiry
  repeat' first
    | with_reducible assumption
    | with_reducible refine next_kept ?_
    | with_reducible apply State_upto_kept
    | with_reducible apply checkDrained_kept
    | with_reducible apply cancelJob_kept
    | (intro (z : _ → _); subst z)
    | lift_lets -underBinder
    | with_reducible refine kept_ite ?_ ?_
    | split
    | (with_reducible apply kept_foldl <;> intros)

theorem installRing_kept {P : Kept → Prop} (s : State) (g : ℕ) (paired : Bool) (w : ℕ → ℕ) (h_s : P s.kept) : P (installRing s g paired w).2.kept := by
  unfold installRing
  repeat' first
    | with_reducible assumption
    | with_reducible apply State_putRing_kept
    | (intro z; refine kept_step (P := P) z ?_ ?_ <;> [unfold z; first | (intro w hw hz; rw [← hw]; clear hw z) | (intro w hw hz; rw [hw] at hz; clear hw w; clear_value z)])
    | (intro (z : Nat); refine value_step z ?_; intro w hw; (try rw [← hw]); clear hw z)
    | (intro z; refine value_step z ?_; intro w hw; (try rw [← hw]); clear hw z)
    | lift_lets -underBinder
    | split
    | (fail_if_no_progress (with_reducible refine kept_rec0 ?_))

theorem execRingSet_kept {P : Kept → Prop} (hP : MemClosed P) (d : Sys2Proof.Desc) (s : State) (h_s : P s.kept) : NextKept P (execRingSet d s) := by
  unfold execRingSet
  repeat' first
    | with_reducible assumption
    | with_reducible refine next_kept ?_
    | with_reducible apply runDesc_kept
    | with_reducible apply finishJob_kept
    | with_reducible apply prepare_kept
    | with_reducible apply readVa_kept
    | with_reducible apply installRing_kept
    | (intro (z : Nat); refine value_step z ?_; intro w hw; (try rw [← hw]); clear hw z)
    | (intro z; refine value_step z ?_; intro w hw; (try rw [← hw]); clear hw z)
    | intro _
    | lift_lets -underBinder
    | with_reducible refine kept_ite ?_ ?_
    | split
    | refine kept_snd (by with_reducible assumption) ?_

theorem disableRing_kept {P : Kept → Prop} (s : State) (g : ℕ) (h_s : P s.kept) : P (disableRing s g).2.kept := by
  unfold disableRing
  repeat' first
    | with_reducible assumption
    | with_reducible apply enterDraining_kept
    | (intro z; refine kept_step (P := P) z ?_ ?_ <;> [unfold z; first | (intro w hw hz; rw [← hw]; clear hw z) | (intro w hw hz; rw [hw] at hz; clear hw w; clear_value z)])
    | (intro z; refine value_step z ?_; intro w hw; (try rw [← hw]); clear hw z)
    | lift_lets -underBinder
    | split

theorem execRingDisable_kept {P : Kept → Prop} (d : Sys2Proof.Desc) (s : State) (h_s : P s.kept) : NextKept P (execRingDisable d s) := by
  unfold execRingDisable
  repeat' first
    | with_reducible assumption
    | with_reducible refine next_kept ?_
    | with_reducible apply runDesc_kept
    | with_reducible apply finishJob_kept
    | with_reducible apply disableRing_kept
    | with_reducible apply putJob_kept
    | (intro (z : Nat); refine value_step z ?_; intro w hw; (try rw [← hw]); clear hw z)
    | (intro z; refine value_step z ?_; intro w hw; (try rw [← hw]); clear hw z)
    | intro _
    | lift_lets -underBinder
    | with_reducible refine kept_ite ?_ ?_
    | split
    | refine kept_snd (by with_reducible assumption) ?_

theorem qcRead_kept {P : Kept → Prop} (s : State) (g : ℕ) (h_s : P s.kept) : P (qcRead s g).kept := by
  unfold qcRead
  repeat' first
    | with_reducible assumption
    | with_reducible apply State_set_kept
    | (intro z; refine kept_step (P := P) z ?_ ?_ <;> [unfold z; first | (intro w hw hz; rw [← hw]; clear hw z) | (intro w hw hz; rw [hw] at hz; clear hw w; clear_value z)])
    | (intro (z : List _); refine value_step z ?_; intro w hw; (try rw [← hw]); clear hw z)
    | lift_lets -underBinder
    | with_reducible refine kept_ite ?_ ?_
    | (with_reducible apply kept_foldl <;> intros)

theorem qcWrite_kept {P : Kept → Prop} (s : State) (g : ℕ) (h_s : P s.kept) : P (qcWrite s g).kept := by
  unfold qcWrite
  repeat' first
    | with_reducible assumption
    | with_reducible apply State_set_kept
    | with_reducible apply installRing_kept
    | (intro z; refine kept_step (P := P) z ?_ ?_ <;> [unfold z; first | (intro w hw hz; rw [← hw]; clear hw z) | (intro w hw hz; rw [hw] at hz; clear hw w; clear_value z)])
    | (intro (z : Bool); refine value_step z ?_; intro w hw; (try rw [← hw]); clear hw z)
    | (intro z; refine value_step z ?_; intro w hw; (try rw [← hw]); clear hw z)
    | lift_lets -underBinder
    | with_reducible refine kept_ite ?_ ?_
    | (fail_if_no_progress (with_reducible refine kept_rec0 ?_))

theorem qcDisable_kept {P : Kept → Prop} (s : State) (g : ℕ) (h_s : P s.kept) : P (qcDisable s g).kept := by
  unfold qcDisable
  repeat' first
    | with_reducible assumption
    | with_reducible apply State_set_kept
    | with_reducible apply disableRing_kept
    | with_reducible apply State_setFlag_kept
    | (intro z; refine kept_step (P := P) z ?_ ?_ <;> [unfold z; first | (intro w hw hz; rw [← hw]; clear hw z) | (intro w hw hz; rw [hw] at hz; clear hw w; clear_value z)])
    | (intro z; refine value_step z ?_; intro w hw; (try rw [← hw]); clear hw z)
    | lift_lets -underBinder
    | with_reducible refine kept_ite ?_ ?_
    | split
    | refine kept_snd (by with_reducible assumption) ?_
    | (fail_if_no_progress (with_reducible refine kept_rec0 ?_))

theorem drainHost_kept {P : Kept → Prop} (s : State) (h_s : P s.kept) : P (drainHost s).kept := by
  unfold drainHost
  repeat' first
    | with_reducible assumption
    | with_reducible apply enterDraining_kept
    | (intro z; refine kept_step (P := P) z ?_ ?_ <;> [unfold z; first | (intro w hw hz; rw [← hw]; clear hw z) | (intro w hw hz; rw [hw] at hz; clear hw w; clear_value z)])
    | (intro z; refine value_step z ?_; intro w hw; (try rw [← hw]); clear hw z)
    | lift_lets -underBinder
    | (with_reducible apply kept_foldl <;> intros)
    | (fail_if_no_progress (with_reducible refine kept_rec0 ?_))

theorem fnReset_kept {P : Kept → Prop} (s : State) (h_s : P s.kept) : P (fnReset s).kept := by
  unfold fnReset
  repeat' first
    | with_reducible assumption
    | with_reducible apply drainHost_kept
    | with_reducible apply State_setFlag_kept
    | (intro z; refine kept_step (P := P) z ?_ ?_ <;> [unfold z; first | (intro w hw hz; rw [← hw]; clear hw z) | (intro w hw hz; rw [hw] at hz; clear hw w; clear_value z)])
    | (intro z; refine value_step z ?_; intro w hw; (try rw [← hw]); clear hw z)
    | lift_lets -underBinder
    | (fail_if_no_progress (with_reducible refine kept_rec0 ?_))

theorem execFunctionReset_kept {P : Kept → Prop} (full : Bool) (t : ℕ) (s : State) (h_s : P s.kept) : NextKept P (execFunctionReset full t s) := by
  unfold execFunctionReset
  repeat' first
    | with_reducible assumption
    | with_reducible refine next_kept ?_
    | with_reducible apply State_upto_kept
    | with_reducible apply fnReset_kept
    | with_reducible apply drainHost_kept
    | lift_lets -underBinder
    | with_reducible refine kept_ite ?_ ?_

theorem execPerst_kept {P : Kept → Prop} (t : ℕ) (s : State) (h_s : P s.kept) : NextKept P (execPerst t s) := by
  unfold execPerst
  repeat' first
    | with_reducible assumption
    | with_reducible refine next_kept ?_
    | with_reducible apply fnReset_kept
    | with_reducible apply State_upto_kept

end Sys2Proof.Machine
end

