-- ==== Sys2Proof/Laws/KeptCopies.lean ====
section
/-! SUPPORT. What the operations of Copies.lean keep of the queue and the memory, one lemma each. -/

set_option maxRecDepth 100000
set_option linter.all false

namespace Sys2Proof.Machine

open Sys2Proof

theorem spWrite_kept {P : Kept → Prop} (s : State) (k : Kern) (l : ℕ) (a : ℕ) (data : List Sys2Proof.Byte) (h_s : P s.kept) : P (spWrite s k l a data).kept := by
  unfold spWrite
  repeat' first
    | with_reducible assumption
    | with_reducible apply putTile_kept
    | with_reducible apply noteBank_kept
    | with_reducible apply setTFlags_kept
    | with_reducible apply putKern_kept
    | (intro (z : Nat); refine value_step z ?_; intro w hw; (try rw [← hw]); clear hw z)
    | (intro (z : List _); refine value_step z ?_; intro w hw; (try rw [← hw]); clear hw z)
    | lift_lets -underBinder
    | split

theorem rowMem_kept {P : Kept → Prop} (hP : MemClosed P) (k : Copier) (c : CopyD) (s : State) (r : ℕ) (h_s : P s.kept) : P (rowMem k c s r).1.kept := by
  unfold rowMem
  repeat' first
    | with_reducible assumption
    | with_reducible apply spoilVa_kept
    | with_reducible apply readVa_kept
    | with_reducible apply writeVa_kept
    | (intro z; refine kept_step (P := P) z ?_ ?_ <;> [unfold z; first | (intro w hw hz; rw [← hw]; clear hw z) | (intro w hw hz; rw [hw] at hz; clear hw w; clear_value z)])
    | lift_lets -underBinder
    | split
    | (with_reducible apply kept_foldl_fst <;> intros)

theorem rowToSp_kept {P : Kept → Prop} (hP : MemClosed P) (k : Copier) (kr : Kern) (ts : List ℕ) (c : CopyD) (s : State) (r : ℕ) (h_s : P s.kept) : P (rowToSp k kr ts c s r).1.kept := by
  unfold rowToSp
  repeat' first
    | with_reducible assumption
    | with_reducible apply readVa_kept
    | with_reducible apply spWrite_kept
    | (intro (z : List _); refine value_step z ?_; intro w hw; (try rw [← hw]); clear hw z)
    | lift_lets -underBinder
    | split
    | (with_reducible apply kept_foldl <;> intros)
    | refine kept_snd (by with_reducible assumption) ?_

theorem rowFromSp_kept {P : Kept → Prop} (hP : MemClosed P) (k : Copier) (kr : Kern) (ts : List ℕ) (c : CopyD) (s : State) (r : ℕ) (h_s : P s.kept) : P (rowFromSp k kr ts c s r).1.kept := by
  unfold rowFromSp
  repeat' first
    | with_reducible assumption
    | with_reducible apply State_takeFree_kept
    | with_reducible apply noteBank_kept
    | with_reducible apply setTFlags_kept
    | with_reducible apply writeVa_kept
    | lift_lets -underBinder
    | split
    | refine kept_snd (by with_reducible assumption) ?_

theorem runRows_kept {P : Kept → Prop} (hP : MemClosed P) (k : Copier) (n : ℕ) (c : CopyD) (s : State) (h_s : P s.kept) : P (runRows k n c s).1.kept := by
  unfold runRows
  repeat' first
    | with_reducible assumption
    | with_reducible apply rowToSp_kept
    | with_reducible apply rowFromSp_kept
    | with_reducible apply rowMem_kept
    | (intro (z : List _); refine value_step z ?_; intro w hw; (try rw [← hw]); clear hw z)
    | (intro (z : _ → _); subst z)
    | lift_lets -underBinder
    | split
    | (with_reducible apply kept_foldl_fst <;> intros)

theorem copyCounts_kept {P : Kept → Prop} (s : State) (e : ℕ) (c : CopyD) (packed : ℕ) (poison : Bool) (h_s : P s.kept) : P (copyCounts s e c packed poison).kept := by
  unfold copyCounts
  repeat' first
    | with_reducible assumption
    | with_reducible apply State_bump_kept
    | with_reducible apply State_bumpSat_kept
    | (intro z; refine kept_step (P := P) z ?_ ?_ <;> [unfold z; first | (intro w hw hz; rw [← hw]; clear hw z) | (intro w hw hz; rw [hw] at hz; clear hw w; clear_value z)])
    | lift_lets -underBinder
    | with_reducible refine kept_ite ?_ ?_

theorem planPlace_kept {P : Kept → Prop} (s : State) (far : Bool) (ts : List (ℕ × List (ℕ × Page))) (h_s : P s.kept) : P (planPlace s far ts).2.kept := by
  unfold planPlace
  repeat' first
    | with_reducible assumption
    | with_reducible apply planMove_kept
    | with_reducible apply State_bump_kept
    | (intro (z : Bool); refine value_step z ?_; intro w hw; (try rw [← hw]); clear hw z)
    | (intro (z : List _); refine value_step z ?_; intro w hw; (try rw [← hw]); clear hw z)
    | (intro (z : Prod _ _); subst z)
    | lift_lets -underBinder
    | split
    | (with_reducible apply kept_foldl <;> intros)
    | (with_reducible apply kept_foldl_third <;> intros)

theorem assignCopy_kept {P : Kept → Prop} (s : State) (j : Job) (h_s : P s.kept) : PairKept P (assignCopy s j) := by
  unfold assignCopy
  repeat' first
    | with_reducible assumption
    | with_reducible refine pair_none
    | with_reducible refine pair_some ?_
    | with_reducible apply putJob_kept
    | (intro z; refine kept_step (P := P) z ?_ ?_ <;> [unfold z; first | (intro w hw hz; rw [← hw]; clear hw z) | (intro w hw hz; rw [hw] at hz; clear hw w; clear_value z)])
    | (intro (z : Nat); refine value_step z ?_; intro w hw; (try rw [← hw]); clear hw z)
    | (intro (z : _ → _); subst z)
    | (intro z; refine value_step z ?_; intro w hw; (try rw [← hw]); clear hw z)
    | lift_lets -underBinder
    | split
    | (fail_if_no_progress (with_reducible refine kept_rec0 ?_))

theorem ringCopyGo_kept {P : Kept → Prop} (hP : MemClosed P) (s : State) (j : Job) (h_s : P s.kept) : P (ringCopyGo s j).kept := by
  unfold ringCopyGo
  repeat' first
    | with_reducible assumption
    | with_reducible apply engineStart_kept
    | with_reducible apply putJob_kept
    | with_reducible apply prepare_kept
    | with_reducible apply State_bumpSat_kept
    | with_reducible apply planPlace_kept
    | with_reducible apply runRows_kept
    | with_reducible apply copyCounts_kept
    | (intro (z : Nat); refine value_step z ?_; intro w hw; (try rw [← hw]); clear hw z)
    | (intro (z : List _); refine value_step z ?_; intro w hw; (try rw [← hw]); clear hw z)
    | (intro z; refine value_step z ?_; intro w hw; (try rw [← hw]); clear hw z)
    | lift_lets -underBinder
    | with_reducible refine kept_ite ?_ ?_
    | split
    | refine kept_snd (by with_reducible assumption) ?_

theorem ringCopyRow_kept {P : Kept → Prop} (hP : MemClosed P) (op : ℕ) (d : Sys2Proof.Desc) (s : State) (h_s : P s.kept) : P (ringCopyRow op d s).kept := by
  unfold ringCopyRow
  repeat' first
    | with_reducible assumption
    | with_reducible apply State_upto_kept
    | with_reducible apply assignCopy_kept
    | with_reducible apply runDesc_kept
    | with_reducible apply putJob_kept
    | with_reducible apply ringCopyGo_kept
    | (intro z; refine kept_step (P := P) z ?_ ?_ <;> [unfold z; first | (intro w hw hz; rw [← hw]; clear hw z) | (intro w hw hz; rw [hw] at hz; clear hw w; clear_value z)])
    | (intro (z : List _); refine value_step z ?_; intro w hw; (try rw [← hw]); clear hw z)
    | (intro z; refine value_step z ?_; intro w hw; (try rw [← hw]); clear hw z)
    | intro _
    | lift_lets -underBinder
    | with_reducible refine kept_ite ?_ ?_
    | split
    | refine of_pair (by with_reducible assumption) ?_

theorem putKcopy_kept {P : Kept → Prop} (s : State) (c : KCopy) (h_s : P s.kept) : P (putKcopy s c).kept := by
  unfold putKcopy
  repeat' first
    | with_reducible assumption
    | (intro z; refine value_step z ?_; intro w hw; (try rw [← hw]); clear hw z)
    | lift_lets -underBinder
    | (fail_if_no_progress (with_reducible refine kept_rec0 ?_))

theorem kernCopyGo_kept {P : Kept → Prop} (hP : MemClosed P) (s : State) (k : Kern) (x : KCopy) (c : CopyD) (h_s : P s.kept) : P (kernCopyGo s k x c).kept := by
  unfold kernCopyGo
  repeat' first
    | with_reducible assumption
    | with_reducible apply barRanges_kept
    | with_reducible apply planError_kept
    | with_reducible apply pageFault_kept
    | with_reducible apply State_bumpSat_kept
    | with_reducible apply putKcopy_kept
    | with_reducible apply planPlace_kept
    | with_reducible apply runRows_kept
    | with_reducible apply copyCounts_kept
    | with_reducible apply putKern_kept
    | (intro (z : Nat); refine value_step z ?_; intro w hw; (try rw [← hw]); clear hw z)
    | (intro z; refine value_step z ?_; intro w hw; (try rw [← hw]); clear hw z)
    | lift_lets -underBinder
    | with_reducible refine kept_ite ?_ ?_
    | split
    | refine kept_snd (by with_reducible assumption) ?_
    | (fail_if_no_progress (with_reducible refine kept_rec0 ?_))

theorem kernCopyRow_kept {P : Kept → Prop} (hP : MemClosed P) (op : ℕ) (e : ℕ) (t : ℕ) (s : State) (h_s : P s.kept) : P (kernCopyRow op e t s).kept := by
  unfold kernCopyRow
  repeat' first
    | with_reducible assumption
    | with_reducible apply State_upto_kept
    | with_reducible apply putKcopy_kept
    | with_reducible apply settle_kept
    | with_reducible apply kernCopyGo_kept
    | (intro z; refine kept_step (P := P) z ?_ ?_ <;> [unfold z; first | (intro w hw hz; rw [← hw]; clear hw z) | (intro w hw hz; rw [hw] at hz; clear hw w; clear_value z)])
    | (intro z; refine value_step z ?_; intro w hw; (try rw [← hw]); clear hw z)
    | lift_lets -underBinder
    | with_reducible refine kept_ite ?_ ?_
    | split

theorem copyOpRow_kept {P : Kept → Prop} (hP : MemClosed P) (op : ℕ) (r : Sys2Proof.CopyRef) (s : State) (h_s : P s.kept) : P (copyOpRow op r s).kept := by
  unfold copyOpRow
  repeat' first
    | with_reducible assumption
    | with_reducible apply ringCopyRow_kept
    | with_reducible apply kernCopyRow_kept
    | split

theorem execCpyMem_kept {P : Kept → Prop} (hP : MemClosed P) (r : Sys2Proof.CopyRef) (s : State) (h_s : P s.kept) : NextKept P (execCpyMem r s) := by
  unfold execCpyMem
  repeat' first
    | with_reducible assumption
    | with_reducible refine next_kept ?_
    | with_reducible apply copyOpRow_kept

theorem execCpyToSp_kept {P : Kept → Prop} (hP : MemClosed P) (e : Fin 8) (t : ℕ) (s : State) (h_s : P s.kept) : NextKept P (execCpyToSp e t s) := by
  unfold execCpyToSp
  repeat' first
    | with_reducible assumption
    | with_reducible refine next_kept ?_
    | with_reducible apply kernCopyRow_kept

theorem execCpyFromSp_kept {P : Kept → Prop} (hP : MemClosed P) (e : Fin 8) (t : ℕ) (s : State) (h_s : P s.kept) : NextKept P (execCpyFromSp e t s) := by
  unfold execCpyFromSp
  repeat' first
    | with_reducible assumption
    | with_reducible refine next_kept ?_
    | with_reducible apply kernCopyRow_kept

theorem execCpyPlace_kept {P : Kept → Prop} (hP : MemClosed P) (r : Sys2Proof.CopyRef) (s : State) (h_s : P s.kept) : NextKept P (execCpyPlace r s) := by
  unfold execCpyPlace
  repeat' first
    | with_reducible assumption
    | with_reducible refine next_kept ?_
    | with_reducible apply copyOpRow_kept

theorem execCopyComplete_kept {P : Kept → Prop} (e : Fin 8) (onRing : Bool) (t : ℕ) (s : State) (h_s : P s.kept) : NextKept P (execCopyComplete e onRing t s) := by
  unfold execCopyComplete
  repeat' first
    | with_reducible assumption
    | with_reducible refine next_kept ?_
    | with_reducible apply State_upto_kept
    | with_reducible apply finishJob_kept
    | with_reducible apply State_bump_kept
    | with_reducible apply unitIdle_kept
    | with_reducible apply planError_kept
    | with_reducible apply putKern_kept
    | (intro z; refine kept_step (P := P) z ?_ ?_ <;> [unfold z; first | (intro w hw hz; rw [← hw]; clear hw z) | (intro w hw hz; rw [hw] at hz; clear hw w; clear_value z)])
    | (intro (z : Nat); refine value_step z ?_; intro w hw; (try rw [← hw]); clear hw z)
    | (intro z; refine value_step z ?_; intro w hw; (try rw [← hw]); clear hw z)
    | lift_lets -underBinder
    | with_reducible refine kept_ite ?_ ?_
    | split
    | (fail_if_no_progress (with_reducible refine kept_rec0 ?_))

theorem execStartCopy_kept {P : Kept → Prop} (e : Fin 8) (w : Sys2Proof.Word) (i : Sys2Proof.Issue) (s : State) (h_s : P s.kept) : NextKept P (execStartCopy e w i s) := by
  unfold execStartCopy
  repeat' first
    | with_reducible assumption
    | with_reducible refine next_kept ?_
    | with_reducible apply State_upto_kept
    | with_reducible apply openBundle_kept
    | with_reducible apply holdCycle_kept
    | with_reducible apply planError_kept
    | with_reducible apply State_bump_kept
    | with_reducible apply ungate_kept
    | with_reducible apply startLoop_kept
    | (intro z; refine kept_step (P := P) z ?_ ?_ <;> [unfold z; first | (intro w hw hz; rw [← hw]; clear hw z) | (intro w hw hz; rw [hw] at hz; clear hw w; clear_value z)])
    | (intro (z : Nat); refine value_step z ?_; intro w hw; (try rw [← hw]); clear hw z)
    | (intro z; refine value_step z ?_; intro w hw; (try rw [← hw]); clear hw z)
    | lift_lets -underBinder
    | with_reducible refine kept_ite ?_ ?_
    | split
    | refine of_opened (by with_reducible assumption) ?_
    | (fail_if_no_progress (with_reducible refine kept_rec0 ?_))

end Sys2Proof.Machine
end

