-- ==== Sys2Proof/Laws/KeptPlane.lean ====
section
/-! SUPPORT. What the operations of Plane.lean keep of the queue and the memory, one lemma each. -/

set_option maxRecDepth 100000
set_option linter.all false

namespace Sys2Proof.Machine

open Sys2Proof

theorem execLoopOpen_kept {P : Kept → Prop} (w : Sys2Proof.Word) (i : Sys2Proof.Issue) (s : State) (h_s : P s.kept) : NextKept P (execLoopOpen w i s) := by
  unfold execLoopOpen
  repeat' first
    | with_reducible assumption
    | with_reducible refine next_kept ?_
    | with_reducible apply loopRow_kept

theorem execYieldPoint_kept {P : Kept → Prop} (w : Sys2Proof.Word) (i : Sys2Proof.Issue) (s : State) (h_s : P s.kept) : NextKept P (execYieldPoint w i s) := by
  unfold execYieldPoint
  repeat' first
    | with_reducible assumption
    | with_reducible refine next_kept ?_
    | with_reducible apply yieldRow_kept

theorem execBundleEnd_kept {P : Kept → Prop} (w : Sys2Proof.Word) (i : Sys2Proof.Issue) (s : State) (h_s : P s.kept) : NextKept P (execBundleEnd w i s) := by
  unfold execBundleEnd
  repeat' first
    | with_reducible assumption
    | with_reducible refine next_kept ?_
    | with_reducible apply endRow_kept

theorem execTload_kept {P : Kept → Prop} (w : Sys2Proof.Word) (i : Sys2Proof.Issue) (s : State) (h_s : P s.kept) : NextKept P (execTload w i s) := by
  unfold execTload
  repeat' first
    | with_reducible assumption
    | with_reducible refine next_kept ?_
    | with_reducible apply tloadRow_kept

theorem execMma_kept {P : Kept → Prop} (x : Sys2Proof.Slot) (s : State) (h_s : P s.kept) : NextKept P (execMma x s) := by
  unfold execMma
  repeat' first
    | with_reducible assumption
    | with_reducible refine next_kept ?_
    | with_reducible apply mmaRow_kept

theorem execLdsa_kept {P : Kept → Prop} (x : Sys2Proof.Slot) (s : State) (h_s : P s.kept) : NextKept P (execLdsa x s) := by
  unfold execLdsa
  repeat' first
    | with_reducible assumption
    | with_reducible refine next_kept ?_
    | with_reducible apply scaleRow_kept

theorem execLdsb_kept {P : Kept → Prop} (x : Sys2Proof.Slot) (s : State) (h_s : P s.kept) : NextKept P (execLdsb x s) := by
  unfold execLdsb
  repeat' first
    | with_reducible assumption
    | with_reducible refine next_kept ?_
    | with_reducible apply scaleRow_kept

theorem execAccSt_kept {P : Kept → Prop} (x : Sys2Proof.Slot) (s : State) (h_s : P s.kept) : NextKept P (execAccSt x s) := by
  unfold execAccSt
  repeat' first
    | with_reducible assumption
    | with_reducible refine next_kept ?_
    | with_reducible apply accRow_kept

theorem execAccLd_kept {P : Kept → Prop} (x : Sys2Proof.Slot) (s : State) (h_s : P s.kept) : NextKept P (execAccLd x s) := by
  unfold execAccLd
  repeat' first
    | with_reducible assumption
    | with_reducible refine next_kept ?_
    | with_reducible apply accRow_kept

theorem execVadd_kept {P : Kept → Prop} (x : Sys2Proof.Slot) (s : State) (h_s : P s.kept) : NextKept P (execVadd x s) := by
  unfold execVadd
  repeat' first
    | with_reducible assumption
    | with_reducible refine next_kept ?_
    | with_reducible apply vecRow_kept

theorem execVsub_kept {P : Kept → Prop} (x : Sys2Proof.Slot) (s : State) (h_s : P s.kept) : NextKept P (execVsub x s) := by
  unfold execVsub
  repeat' first
    | with_reducible assumption
    | with_reducible refine next_kept ?_
    | with_reducible apply vecRow_kept

theorem execVmul_kept {P : Kept → Prop} (x : Sys2Proof.Slot) (s : State) (h_s : P s.kept) : NextKept P (execVmul x s) := by
  unfold execVmul
  repeat' first
    | with_reducible assumption
    | with_reducible refine next_kept ?_
    | with_reducible apply vecRow_kept

theorem execVfma_kept {P : Kept → Prop} (x : Sys2Proof.Slot) (s : State) (h_s : P s.kept) : NextKept P (execVfma x s) := by
  unfold execVfma
  repeat' first
    | with_reducible assumption
    | with_reducible refine next_kept ?_
    | with_reducible apply vecRow_kept

theorem execVmin_kept {P : Kept → Prop} (x : Sys2Proof.Slot) (s : State) (h_s : P s.kept) : NextKept P (execVmin x s) := by
  unfold execVmin
  repeat' first
    | with_reducible assumption
    | with_reducible refine next_kept ?_
    | with_reducible apply vecRow_kept

theorem execVmax_kept {P : Kept → Prop} (x : Sys2Proof.Slot) (s : State) (h_s : P s.kept) : NextKept P (execVmax x s) := by
  unfold execVmax
  repeat' first
    | with_reducible assumption
    | with_reducible refine next_kept ?_
    | with_reducible apply vecRow_kept

theorem execVselLt_kept {P : Kept → Prop} (x : Sys2Proof.Slot) (s : State) (h_s : P s.kept) : NextKept P (execVselLt x s) := by
  unfold execVselLt
  repeat' first
    | with_reducible assumption
    | with_reducible refine next_kept ?_
    | with_reducible apply vecRow_kept

theorem execVselEq_kept {P : Kept → Prop} (x : Sys2Proof.Slot) (s : State) (h_s : P s.kept) : NextKept P (execVselEq x s) := by
  unfold execVselEq
  repeat' first
    | with_reducible assumption
    | with_reducible refine next_kept ?_
    | with_reducible apply vecRow_kept

theorem execVexp_kept {P : Kept → Prop} (x : Sys2Proof.Slot) (s : State) (h_s : P s.kept) : NextKept P (execVexp x s) := by
  unfold execVexp
  repeat' first
    | with_reducible assumption
    | with_reducible refine next_kept ?_
    | with_reducible apply specialRow_kept

theorem execVexp2_kept {P : Kept → Prop} (x : Sys2Proof.Slot) (s : State) (h_s : P s.kept) : NextKept P (execVexp2 x s) := by
  unfold execVexp2
  repeat' first
    | with_reducible assumption
    | with_reducible refine next_kept ?_
    | with_reducible apply specialRow_kept

theorem execVrcp_kept {P : Kept → Prop} (x : Sys2Proof.Slot) (s : State) (h_s : P s.kept) : NextKept P (execVrcp x s) := by
  unfold execVrcp
  repeat' first
    | with_reducible assumption
    | with_reducible refine next_kept ?_
    | with_reducible apply specialRow_kept

theorem execVrsq_kept {P : Kept → Prop} (x : Sys2Proof.Slot) (s : State) (h_s : P s.kept) : NextKept P (execVrsq x s) := by
  unfold execVrsq
  repeat' first
    | with_reducible assumption
    | with_reducible refine next_kept ?_
    | with_reducible apply specialRow_kept

theorem execVpopc_kept {P : Kept → Prop} (x : Sys2Proof.Slot) (s : State) (h_s : P s.kept) : NextKept P (execVpopc x s) := by
  unfold execVpopc
  repeat' first
    | with_reducible assumption
    | with_reducible refine next_kept ?_
    | with_reducible apply vecRow_kept

theorem execVxor_kept {P : Kept → Prop} (x : Sys2Proof.Slot) (s : State) (h_s : P s.kept) : NextKept P (execVxor x s) := by
  unfold execVxor
  repeat' first
    | with_reducible assumption
    | with_reducible refine next_kept ?_
    | with_reducible apply vecRow_kept

theorem execVand_kept {P : Kept → Prop} (x : Sys2Proof.Slot) (s : State) (h_s : P s.kept) : NextKept P (execVand x s) := by
  unfold execVand
  repeat' first
    | with_reducible assumption
    | with_reducible refine next_kept ?_
    | with_reducible apply vecRow_kept

theorem execVor_kept {P : Kept → Prop} (x : Sys2Proof.Slot) (s : State) (h_s : P s.kept) : NextKept P (execVor x s) := by
  unfold execVor
  repeat' first
    | with_reducible assumption
    | with_reducible refine next_kept ?_
    | with_reducible apply vecRow_kept

theorem execVshl_kept {P : Kept → Prop} (x : Sys2Proof.Slot) (s : State) (h_s : P s.kept) : NextKept P (execVshl x s) := by
  unfold execVshl
  repeat' first
    | with_reducible assumption
    | with_reducible refine next_kept ?_
    | with_reducible apply vecRow_kept

theorem execVshr_kept {P : Kept → Prop} (x : Sys2Proof.Slot) (s : State) (h_s : P s.kept) : NextKept P (execVshr x s) := by
  unfold execVshr
  repeat' first
    | with_reducible assumption
    | with_reducible refine next_kept ?_
    | with_reducible apply vecRow_kept

theorem execViadd_kept {P : Kept → Prop} (x : Sys2Proof.Slot) (s : State) (h_s : P s.kept) : NextKept P (execViadd x s) := by
  unfold execViadd
  repeat' first
    | with_reducible assumption
    | with_reducible refine next_kept ?_
    | with_reducible apply vecRow_kept

theorem execVisub_kept {P : Kept → Prop} (x : Sys2Proof.Slot) (s : State) (h_s : P s.kept) : NextKept P (execVisub x s) := by
  unfold execVisub
  repeat' first
    | with_reducible assumption
    | with_reducible refine next_kept ?_
    | with_reducible apply vecRow_kept

theorem execCvti_kept {P : Kept → Prop} (x : Sys2Proof.Slot) (s : State) (h_s : P s.kept) : NextKept P (execCvti x s) := by
  unfold execCvti
  repeat' first
    | with_reducible assumption
    | with_reducible refine next_kept ?_
    | with_reducible apply cvtiRow_kept

theorem execCvto_kept {P : Kept → Prop} (x : Sys2Proof.Slot) (s : State) (h_s : P s.kept) : NextKept P (execCvto x s) := by
  unfold execCvto
  repeat' first
    | with_reducible assumption
    | with_reducible refine next_kept ?_
    | with_reducible apply cvtoRow_kept

theorem execRsum_kept {P : Kept → Prop} (x : Sys2Proof.Slot) (s : State) (h_s : P s.kept) : NextKept P (execRsum x s) := by
  unfold execRsum
  repeat' first
    | with_reducible assumption
    | with_reducible refine next_kept ?_
    | with_reducible apply reduceRow_kept

theorem execRmax_kept {P : Kept → Prop} (x : Sys2Proof.Slot) (s : State) (h_s : P s.kept) : NextKept P (execRmax x s) := by
  unfold execRmax
  repeat' first
    | with_reducible assumption
    | with_reducible refine next_kept ?_
    | with_reducible apply reduceRow_kept

theorem execAmov_kept {P : Kept → Prop} (x : Sys2Proof.Slot) (s : State) (h_s : P s.kept) : NextKept P (execAmov x s) := by
  unfold execAmov
  repeat' first
    | with_reducible assumption
    | with_reducible refine next_kept ?_
    | with_reducible apply amovRow_kept

theorem execAwr_kept {P : Kept → Prop} (x : Sys2Proof.Slot) (s : State) (h_s : P s.kept) : NextKept P (execAwr x s) := by
  unfold execAwr
  repeat' first
    | with_reducible assumption
    | with_reducible refine next_kept ?_
    | with_reducible apply amovRow_kept

theorem countCorrected_kept {P : Kept → Prop} (x : Sys2Proof.Slot) (s : State) (s2 : State) (h_s : P s.kept) (h_s2 : P s2.kept) : P (countCorrected x s s2).kept := by
  unfold countCorrected
  repeat' first
    | with_reducible assumption
    | with_reducible apply State_bumpSat_kept
    | lift_lets -underBinder
    | with_reducible refine kept_ite ?_ ?_
    | split
    | (with_reducible apply kept_foldl <;> intros)

theorem execVld_kept {P : Kept → Prop} (x : Sys2Proof.Slot) (corrected : Bool) (s : State) (h_s : P s.kept) : NextKept P (execVld x corrected s) := by
  unfold execVld
  repeat' first
    | with_reducible assumption
    | with_reducible refine next_kept ?_
    | with_reducible apply portRow_kept
    | with_reducible apply countCorrected_kept
    | lift_lets -underBinder
    | with_reducible refine kept_ite ?_ ?_

theorem execVst_kept {P : Kept → Prop} (x : Sys2Proof.Slot) (s : State) (h_s : P s.kept) : NextKept P (execVst x s) := by
  unfold execVst
  repeat' first
    | with_reducible assumption
    | with_reducible refine next_kept ?_
    | with_reducible apply portRow_kept

theorem execAuxAdd_kept {P : Kept → Prop} (x : Sys2Proof.Slot) (s : State) (h_s : P s.kept) : NextKept P (execAuxAdd x s) := by
  unfold execAuxAdd
  repeat' first
    | with_reducible assumption
    | with_reducible refine next_kept ?_
    | with_reducible apply auxRow_kept

theorem execAuxSet_kept {P : Kept → Prop} (x : Sys2Proof.Slot) (s : State) (h_s : P s.kept) : NextKept P (execAuxSet x s) := by
  unfold execAuxSet
  repeat' first
    | with_reducible assumption
    | with_reducible refine next_kept ?_
    | with_reducible apply auxRow_kept

theorem execWaitEv_kept {P : Kept → Prop} (w : Sys2Proof.Word) (i : Sys2Proof.Issue) (s : State) (h_s : P s.kept) : NextKept P (execWaitEv w i s) := by
  unfold execWaitEv
  repeat' first
    | with_reducible assumption
    | with_reducible refine next_kept ?_
    | with_reducible apply waitRow_kept

theorem execSpfence_kept {P : Kept → Prop} (w : Sys2Proof.Word) (i : Sys2Proof.Issue) (s : State) (h_s : P s.kept) : NextKept P (execSpfence w i s) := by
  unfold execSpfence
  repeat' first
    | with_reducible assumption
    | with_reducible refine next_kept ?_
    | with_reducible apply spfenceRow_kept

theorem execAcquire_kept {P : Kept → Prop} (hP : MemClosed P) (w : Sys2Proof.Word) (i : Sys2Proof.Issue) (s : State) (h_s : P s.kept) : NextKept P (execAcquire w i s) := by
  unfold execAcquire
  repeat' first
    | with_reducible assumption
    | with_reducible refine next_kept ?_
    | with_reducible apply rangeRow_kept

theorem execFlush_kept {P : Kept → Prop} (hP : MemClosed P) (w : Sys2Proof.Word) (i : Sys2Proof.Issue) (s : State) (h_s : P s.kept) : NextKept P (execFlush w i s) := by
  unfold execFlush
  repeat' first
    | with_reducible assumption
    | with_reducible refine next_kept ?_
    | with_reducible apply rangeRow_kept

theorem execDrain_kept {P : Kept → Prop} (w : Sys2Proof.Word) (i : Sys2Proof.Issue) (s : State) (h_s : P s.kept) : NextKept P (execDrain w i s) := by
  unfold execDrain
  repeat' first
    | with_reducible assumption
    | with_reducible refine next_kept ?_
    | with_reducible apply drainRow_kept

theorem readAll_kept {P : Kept → Prop} (hP : MemClosed P) (s : State) (c : ℕ) (rs : List Range) (h_s : P s.kept) : P (readAll s c rs).2.kept := by
  unfold readAll
  repeat' first
    | with_reducible assumption
    | with_reducible apply readVa_kept
    | (with_reducible apply kept_foldl_snd <;> intros)

theorem launchQueue_kept {P : Kept → Prop} (s : State) (j : Job) (hb : List Sys2Proof.Byte) (bs : List (List Sys2Proof.Byte)) (h_s : P s.kept) : P (launchQueue s j hb bs).kept := by
  unfold launchQueue
  repeat' first
    | with_reducible assumption
    | with_reducible apply finishJob_kept
    | with_reducible apply putJob_kept
    | with_reducible apply State_raiseTo_kept
    | (intro z; refine kept_step (P := P) z ?_ ?_ <;> [unfold z; first | (intro w hw hz; rw [← hw]; clear hw z) | (intro w hw hz; rw [hw] at hz; clear hw w; clear_value z)])
    | (intro (z : Nat); refine value_step z ?_; intro w hw; (try rw [← hw]); clear hw z)
    | (intro (z : List _); refine value_step z ?_; intro w hw; (try rw [← hw]); clear hw z)
    | (intro z; refine value_step z ?_; intro w hw; (try rw [← hw]); clear hw z)
    | lift_lets -underBinder
    | with_reducible refine kept_ite ?_ ?_
    | split
    | (fail_if_no_progress (with_reducible refine kept_rec0 ?_))

theorem launchGo_kept {P : Kept → Prop} (hP : MemClosed P) (s : State) (j : Job) (h_s : P s.kept) : P (launchGo s j).kept := by
  unfold launchGo
  repeat' first
    | with_reducible assumption
    | with_reducible apply finishJob_kept
    | with_reducible apply prepare_kept
    | with_reducible apply readVa_kept
    | with_reducible apply readAll_kept
    | with_reducible apply launchQueue_kept
    | (intro (z : Nat); refine value_step z ?_; intro w hw; (try rw [← hw]); clear hw z)
    | (intro (z : List _); refine value_step z ?_; intro w hw; (try rw [← hw]); clear hw z)
    | lift_lets -underBinder
    | with_reducible refine kept_ite ?_ ?_
    | split
    | refine kept_snd (by with_reducible assumption) ?_

theorem execKernelLaunch_kept {P : Kept → Prop} (hP : MemClosed P) (d : Sys2Proof.Desc) (s : State) (h_s : P s.kept) : NextKept P (execKernelLaunch d s) := by
  unfold execKernelLaunch
  repeat' first
    | with_reducible assumption
    | with_reducible refine next_kept ?_
    | with_reducible apply runDesc_kept
    | with_reducible apply launchGo_kept

theorem execLaunchQueueRoom_kept {P : Kept → Prop} (hP : MemClosed P) (t : ℕ) (s : State) (h_s : P s.kept) : NextKept P (execLaunchQueueRoom t s) := by
  unfold execLaunchQueueRoom
  repeat' first
    | with_reducible assumption
    | with_reducible refine next_kept ?_
    | with_reducible apply State_upto_kept
    | with_reducible apply ownReqs_kept
    | with_reducible apply launchGo_kept
    | lift_lets -underBinder
    | with_reducible refine kept_ite ?_ ?_
    | split

theorem giveUpBanks_kept {P : Kept → Prop} (s : State) (g : ℕ) (mask : ℕ) (h_s : P s.kept) : P (giveUpBanks s g mask).kept := by
  unfold giveUpBanks
  repeat' first
    | with_reducible assumption
    | (intro (z : _ → _); subst z)
    | (intro z; refine value_step z ?_; intro w hw; (try rw [← hw]); clear hw z)
    | lift_lets -underBinder
    | (fail_if_no_progress (with_reducible refine kept_rec0 ?_))

theorem wakeTile_kept {P : Kept → Prop} (s : State) (k : Kern) (l : ℕ) (g : ℕ) (kept : Option KeptTile) (h_s : P s.kept) : P (wakeTile s k l g kept).2.kept := by
  unfold wakeTile
  repeat' first
    | with_reducible assumption
    | with_reducible apply putTile_kept
    | with_reducible apply State_set_kept
    | with_reducible apply giveUpBanks_kept
    | with_reducible apply State_setFlag_kept
    | lift_lets -underBinder
    | (fail_if_no_progress (with_reducible refine kept_rec0 ?_))

theorem wakeTiles_kept {P : Kept → Prop} (s : State) (k : Kern) (ts : List (ℕ × ℕ)) (h_s : P s.kept) : P (wakeTiles s k ts).2.kept := by
  unfold wakeTiles
  repeat' first
    | with_reducible assumption
    | with_reducible apply wakeTile_kept
    | split
    | (with_reducible apply kept_foldl_snd <;> intros)

theorem kernStamps_kept {P : Kept → Prop} (hP : MemClosed P) (s : State) (c : ℕ) (h_s : P s.kept) : P (kernStamps s c).2.kept := by
  unfold kernStamps
  repeat' first
    | with_reducible assumption
    | with_reducible apply nextStamp_kept
    | split
    | (with_reducible apply kept_foldl_snd <;> intros)

theorem startKern_kept {P : Kept → Prop} (hP : MemClosed P) (s : State) (k : Kern) (ts : List (ℕ × ℕ)) (h_s : P s.kept) : P (startKern s k ts).kept := by
  unfold startKern
  repeat' first
    | with_reducible assumption
    | with_reducible apply wakeTiles_kept
    | with_reducible apply State_set_kept
    | with_reducible apply kernStamps_kept
    | with_reducible apply putKern_kept
    | with_reducible apply putJob_kept
    | (intro z; refine kept_step (P := P) z ?_ ?_ <;> [unfold z; first | (intro w hw hz; rw [← hw]; clear hw z) | (intro w hw hz; rw [hw] at hz; clear hw w; clear_value z)])
    | (intro (z : _ → _); subst z)
    | (intro z; refine value_step z ?_; intro w hw; (try rw [← hw]); clear hw z)
    | lift_lets -underBinder
    | split
    | (with_reducible apply kept_foldl <;> intros)
    | refine kept_snd (by with_reducible assumption) ?_
    | (fail_if_no_progress (with_reducible refine kept_rec0 ?_))

theorem execKernelStart_kept {P : Kept → Prop} (hP : MemClosed P) (t : ℕ) (s : State) (h_s : P s.kept) : NextKept P (execKernelStart t s) := by
  unfold execKernelStart
  repeat' first
    | with_reducible assumption
    | with_reducible refine next_kept ?_
    | with_reducible apply State_upto_kept
    | with_reducible apply logWrite_kept
    | with_reducible apply dropKern_kept
    | with_reducible apply finishJob_kept
    | with_reducible apply startKern_kept
    | with_reducible refine onLog_kept ?_ ?_ ?_ ?_
    | (intro (z : List _); refine value_step z ?_; intro w hw; (try rw [← hw]); clear hw z)
    | (intro z; refine value_step z ?_; intro w hw; (try rw [← hw]); clear hw z)
    | intro _
    | lift_lets -underBinder
    | with_reducible refine kept_ite ?_ ?_
    | split
    | (fail_if_no_progress (with_reducible refine kept_id ?_))

theorem execPlaneStart_kept {P : Kept → Prop} (hP : MemClosed P) (t : ℕ) (s : State) (h_s : P s.kept) : NextKept P (execPlaneStart t s) := by
  unfold execPlaneStart
  repeat' first
    | with_reducible assumption
    | with_reducible refine next_kept ?_
    | with_reducible apply State_upto_kept
    | with_reducible apply prepare_kept
    | with_reducible apply putJob_kept
    | with_reducible apply putKern_kept
    | with_reducible apply readVa_kept
    | (intro z; refine kept_step (P := P) z ?_ ?_ <;> [unfold z; first | (intro w hw hz; rw [← hw]; clear hw z) | (intro w hw hz; rw [hw] at hz; clear hw w; clear_value z)])
    | (intro (z : Nat); refine value_step z ?_; intro w hw; (try rw [← hw]); clear hw z)
    | (intro z; refine value_step z ?_; intro w hw; (try rw [← hw]); clear hw z)
    | lift_lets -underBinder
    | with_reducible refine kept_ite ?_ ?_
    | split
    | refine kept_snd (by with_reducible assumption) ?_

theorem execKernelResume_kept {P : Kept → Prop} (t : ℕ) (s : State) (h_s : P s.kept) : NextKept P (execKernelResume t s) := by
  unfold execKernelResume
  repeat' first
    | with_reducible assumption
    | with_reducible refine next_kept ?_
    | with_reducible apply State_upto_kept
    | with_reducible apply wakeTiles_kept
    | with_reducible apply putKern_kept
    | with_reducible apply putJob_kept
    | (intro z; refine kept_step (P := P) z ?_ ?_ <;> [unfold z; first | (intro w hw hz; rw [← hw]; clear hw z) | (intro w hw hz; rw [hw] at hz; clear hw w; clear_value z)])
    | (intro z; refine value_step z ?_; intro w hw; (try rw [← hw]); clear hw z)
    | lift_lets -underBinder
    | with_reducible refine kept_ite ?_ ?_
    | split
    | refine kept_snd (by with_reducible assumption) ?_
    | (fail_if_no_progress (with_reducible refine kept_rec0 ?_))

theorem countStalls_kept {P : Kept → Prop} (s : State) (k : Kern) (h_s : P s.kept) : P (countStalls s k).kept := by
  unfold countStalls
  repeat' first
    | with_reducible assumption
    | with_reducible apply State_takeFree_kept
    | with_reducible apply State_bumpSat_kept
    | with_reducible apply State_bump_kept
    | (intro z; refine kept_step (P := P) z ?_ ?_ <;> [unfold z; first | (intro w hw hz; rw [← hw]; clear hw z) | (intro w hw hz; rw [hw] at hz; clear hw w; clear_value z)])
    | (intro (z : _ → _); subst z)
    | lift_lets -underBinder
    | with_reducible refine kept_ite ?_ ?_
    | (with_reducible apply kept_foldl <;> intros)

theorem execKernelComplete_kept {P : Kept → Prop} (hP : MemClosed P) (t : ℕ) (s : State) (h_s : P s.kept) : NextKept P (execKernelComplete t s) := by
  unfold execKernelComplete
  repeat' first
    | with_reducible assumption
    | with_reducible refine next_kept ?_
    | with_reducible apply State_upto_kept
    | with_reducible apply flushContext_kept
    | with_reducible apply putKern_kept
    | with_reducible apply settle_kept
    | with_reducible apply applyAux_kept
    | with_reducible apply dropKern_kept
    | with_reducible apply leaveTiles_kept
    | with_reducible apply countStalls_kept
    | with_reducible apply State_bump_kept
    | with_reducible apply finishJob_kept
    | (intro z; refine kept_step (P := P) z ?_ ?_ <;> [unfold z; first | (intro w hw hz; rw [← hw]; clear hw z) | (intro w hw hz; rw [hw] at hz; clear hw w; clear_value z)])
    | (intro z; refine value_step z ?_; intro w hw; (try rw [← hw]); clear hw z)
    | lift_lets -underBinder
    | with_reducible refine kept_ite ?_ ?_
    | split

theorem execKernelRestart_kept {P : Kept → Prop} (hP : MemClosed P) (tl : Option (Fin 64)) (t : ℕ) (s : State) (h_s : P s.kept) : NextKept P (execKernelRestart tl t s) := by
  unfold execKernelRestart
  repeat' first
    | with_reducible assumption
    | with_reducible refine next_kept ?_
    | with_reducible apply State_upto_kept
    | with_reducible apply State_bumpSat_kept
    | with_reducible apply putTile_kept
    | with_reducible apply State_set_kept
    | with_reducible apply leaveTiles_kept
    | with_reducible apply putKern_kept
    | with_reducible apply startKern_kept
    | with_reducible apply putJob_kept
    | (intro z; refine kept_step (P := P) z ?_ ?_ <;> [unfold z; first | (intro w hw hz; rw [← hw]; clear hw z) | (intro w hw hz; rw [hw] at hz; clear hw w; clear_value z)])
    | (intro (z : Bool); refine value_step z ?_; intro w hw; (try rw [← hw]); clear hw z)
    | (intro (z : _ → _); subst z)
    | (intro z; refine value_step z ?_; intro w hw; (try rw [← hw]); clear hw z)
    | lift_lets -underBinder
    | with_reducible refine kept_ite ?_ ?_
    | split
    | (with_reducible apply kept_foldl <;> intros)
    | (fail_if_no_progress (with_reducible refine kept_rec0 ?_))

theorem execTileIdleTimer_kept {P : Kept → Prop} (g : Fin 64) (t : ℕ) (s : State) (h_s : P s.kept) : NextKept P (execTileIdleTimer g t s) := by
  unfold execTileIdleTimer
  repeat' first
    | with_reducible assumption
    | with_reducible refine next_kept ?_
    | with_reducible apply State_upto_kept
    | with_reducible apply putTile_kept
    | with_reducible apply State_set_kept
    | (intro z; refine kept_step (P := P) z ?_ ?_ <;> [unfold z; first | (intro w hw hz; rw [← hw]; clear hw z) | (intro w hw hz; rw [hw] at hz; clear hw w; clear_value z)])
    | (intro (z : List _); refine value_step z ?_; intro w hw; (try rw [← hw]); clear hw z)
    | (intro z; refine value_step z ?_; intro w hw; (try rw [← hw]); clear hw z)
    | lift_lets -underBinder
    | with_reducible refine kept_ite ?_ ?_
    | (fail_if_no_progress (with_reducible refine kept_rec0 ?_))

theorem maintRow_kept {P : Kept → Prop} (sectors : ℕ) (ranged : Bool) (f : State → List ℕ → State) (s : State) (h_f : ∀ x0 x1, P x0.kept → P (f x0 x1).kept) (h_s : P s.kept) : P (maintRow sectors ranged f s).kept := by
  unfold maintRow
  repeat' first
    | with_reducible assumption
    | with_reducible apply State_setFlag_kept
    | with_reducible apply State_set_kept
    | apply h_f
    | (intro z; refine kept_step (P := P) z ?_ ?_ <;> [unfold z; first | (intro w hw hz; rw [← hw]; clear hw z) | (intro w hw hz; rw [hw] at hz; clear hw w; clear_value z)])
    | (intro (z : Nat); refine value_step z ?_; intro w hw; (try rw [← hw]); clear hw z)
    | (intro (z : Bool); refine value_step z ?_; intro w hw; (try rw [← hw]); clear hw z)
    | lift_lets -underBinder
    | with_reducible refine kept_ite ?_ ?_

theorem maintFlush_kept {P : Kept → Prop} (hP : MemClosed P) (s : State) (n : ℕ) (h_s : P s.kept) : P (maintFlush s n).kept := by
  unfold maintFlush
  repeat' first
    | with_reducible assumption
    | with_reducible apply maintRow_kept
    | with_reducible apply flushRange_kept
    | (intro (z : List _); refine value_step z ?_; intro w hw; (try rw [← hw]); clear hw z)
    | (intro z; refine value_step z ?_; intro w hw; (try rw [← hw]); clear hw z)

theorem maintAcquire_kept {P : Kept → Prop} (hP : MemClosed P) (s : State) (n : ℕ) (h_s : P s.kept) : P (maintAcquire s n).kept := by
  unfold maintAcquire
  repeat' first
    | with_reducible assumption
    | with_reducible apply maintRow_kept
    | with_reducible apply acquireRange_kept
    | (intro (z : List _); refine value_step z ?_; intro w hw; (try rw [← hw]); clear hw z)
    | (intro z; refine value_step z ?_; intro w hw; (try rw [← hw]); clear hw z)

theorem maintFlushAll_kept {P : Kept → Prop} (hP : MemClosed P) (s : State) (n : ℕ) (h_s : P s.kept) : P (maintFlushAll s n).kept := by
  unfold maintFlushAll
  repeat' first
    | with_reducible assumption
    | with_reducible apply maintRow_kept
    | with_reducible apply flushLines_kept
    | (intro (z : List _); refine value_step z ?_; intro w hw; (try rw [← hw]); clear hw z)
    | (intro z; refine value_step z ?_; intro w hw; (try rw [← hw]); clear hw z)
    | intro _
    | (with_reducible apply kept_foldl <;> intros)

theorem conflictClear_kept {P : Kept → Prop} (s : State) (g : ℕ) (h_s : P s.kept) : P (conflictClear s g).kept := by
  unfold conflictClear
  repeat' first
    | with_reducible assumption
    | with_reducible apply State_set_kept
    | (with_reducible apply kept_foldl <;> intros)

end Sys2Proof.Machine
end

