-- ==== Sys2Proof/Laws/KeptEngines.lean ====
section
/-! SUPPORT. What the operations of Engines.lean keep of the queue and the memory, one lemma each. -/

set_option maxRecDepth 100000
set_option linter.all false

namespace Sys2Proof.Machine

open Sys2Proof

theorem engineRow_kept {P : Kept → Prop} (op : ℕ) (d : Sys2Proof.Desc) (unitOf : State → Job → ℕ) (en : State → Bool) (go : State → Job → State) (s : State) (h_go : ∀ x0 x1, P x0.kept → P (go x0 x1).kept) (h_s : P s.kept) : P (engineRow op d unitOf en go s).kept := by
  unfold engineRow
  repeat' first
    | with_reducible assumption
    | with_reducible apply State_upto_kept
    | with_reducible apply runDesc_kept
    | apply h_go
    | (intro z; refine kept_step (P := P) z ?_ ?_ <;> [unfold z; first | (intro w hw hz; rw [← hw]; clear hw z) | (intro w hw hz; rw [hw] at hz; clear hw w; clear_value z)])
    | (intro z; refine value_step z ?_; intro w hw; (try rw [← hw]); clear hw z)
    | intro _
    | lift_lets -underBinder
    | with_reducible refine kept_ite ?_ ?_
    | split

theorem startJob_kept {P : Kept → Prop} (hP : MemClosed P) (s : State) (j : Job) (n : ℕ) (ins : List Range) (h_s : P s.kept) : P (startJob s j n ins).2.kept := by
  unfold startJob
  repeat' first
    | with_reducible assumption
    | with_reducible apply engineStart_kept
    | with_reducible apply putJob_kept
    | split

theorem takeMany_kept {P : Kept → Prop} (s : State) (k : ℕ) (h_s : P s.kept) : P (takeMany s k).2.kept := by
  unfold takeMany
  repeat' first
    | with_reducible assumption
    | (fail_if_no_progress (with_reducible refine kept_rec0 ?_))

end Sys2Proof.Machine
end

