-- ==== Sys2Proof/Laws/KeptEmbedding.lean ====
section
/-! SUPPORT. What the operations of Embedding.lean keep of the queue and the memory, one lemma each. -/

set_option maxRecDepth 100000
set_option linter.all false

namespace Sys2Proof.Machine

open Sys2Proof

theorem embRow_kept {P : Kept → Prop} (op : ℕ) (d : Sys2Proof.Desc) (go : State → Job → State) (s : State) (h_go : ∀ x0 x1, P x0.kept → P (go x0 x1).kept) (h_s : P s.kept) : NextKept P (embRow op d go s) := by
  unfold embRow
  repeat' first
    | with_reducible assumption
    | with_reducible refine next_kept ?_
    | with_reducible apply engineRow_kept

theorem embEnd_kept {P : Kept → Prop} (s : State) (j : Job) (c : Sys2Proof.Code) (detail : optParam ℕ 0) (h_s : P s.kept) : P (embEnd s j c detail).kept := by
  unfold embEnd
  repeat' first
    | with_reducible assumption
    | with_reducible apply finishJob_kept
    | with_reducible apply State_bump_kept

theorem retireVer_kept {P : Kept → Prop} (s : State) (v : EmbVer) (w : List (ℕ × ℕ × ℕ)) (h_s : P s.kept) : P (retireVer s v w).kept := by
  unfold retireVer
  repeat' first
    | with_reducible assumption
    | (intro (z : _ → _); subst z)
    | (intro z; refine value_step z ?_; intro w hw; (try rw [← hw]); clear hw z)
    | lift_lets -underBinder
    | (fail_if_no_progress (with_reducible refine kept_rec0 ?_))

theorem execEmbTableSet_kept {P : Kept → Prop} (d : Sys2Proof.Desc) (s : State) (h_s : P s.kept) : NextKept P (execEmbTableSet d s) := by
  unfold execEmbTableSet
  repeat' first
    | with_reducible assumption
    | with_reducible apply embRow_kept
    | with_reducible apply embEnd_kept
    | with_reducible apply retireVer_kept
    | with_reducible apply putJob_kept
    | (intro z; refine kept_step (P := P) z ?_ ?_ <;> [unfold z; first | (intro w hw hz; rw [← hw]; clear hw z) | (intro w hw hz; rw [hw] at hz; clear hw w; clear_value z)])
    | (intro (z : Nat); refine value_step z ?_; intro w hw; (try rw [← hw]); clear hw z)
    | (intro (z : Bool); refine value_step z ?_; intro w hw; (try rw [← hw]); clear hw z)
    | (intro (z : Option _); subst z)
    | (intro z; refine value_step z ?_; intro w hw; (try rw [← hw]); clear hw z)
    | (intro z; subst z)
    | intro _
    | lift_lets -underBinder
    | with_reducible refine kept_ite ?_ ?_
    | split
    | (fail_if_no_progress (with_reducible refine kept_rec0 ?_))

theorem execEmbTableClear_kept {P : Kept → Prop} (d : Sys2Proof.Desc) (s : State) (h_s : P s.kept) : NextKept P (execEmbTableClear d s) := by
  unfold execEmbTableClear
  repeat' first
    | with_reducible assumption
    | with_reducible apply embRow_kept
    | with_reducible apply embEnd_kept
    | with_reducible apply putJob_kept
    | with_reducible apply retireVer_kept
    | (intro z; refine value_step z ?_; intro w hw; (try rw [← hw]); clear hw z)
    | intro _
    | lift_lets -underBinder
    | with_reducible refine kept_ite ?_ ?_
    | split

theorem readIxs_kept {P : Kept → Prop} (hP : MemClosed P) (s : State) (j : Job) (d : EmbD) (w : View) (h_s : P s.kept) : P (readIxs s j d w).2.kept := by
  unfold readIxs
  repeat' first
    | with_reducible assumption
    | with_reducible apply readVa_kept

theorem countServed_kept {P : Kept → Prop} (s : State) (j : Job) (rows : List (EmbVer × ℕ)) (h_s : P s.kept) : P (countServed s j rows).kept := by
  unfold countServed
  repeat' first
    | with_reducible assumption
    | (intro (z : Nat); refine value_step z ?_; intro w hw; (try rw [← hw]); clear hw z)
    | (intro z; refine value_step z ?_; intro w hw; (try rw [← hw]); clear hw z)
    | lift_lets -underBinder
    | with_reducible refine kept_ite ?_ ?_
    | (with_reducible apply kept_foldl <;> intros)
    | (fail_if_no_progress (with_reducible refine kept_rec0 ?_))

theorem countIxs_kept {P : Kept → Prop} (s : State) (j : Job) (ixs : List Ix) (u : ℕ) (p : ℕ) (h_s : P s.kept) : P (countIxs s j ixs u p).kept := by
  unfold countIxs
  repeat' first
    | with_reducible assumption
    | with_reducible apply State_bump_kept
    | with_reducible apply State_bumpSat_kept
    | (intro (z : Nat); refine value_step z ?_; intro w hw; (try rw [← hw]); clear hw z)
    | lift_lets -underBinder
    | with_reducible refine kept_ite ?_ ?_

theorem gatherLand_kept {P : Kept → Prop} (hP : MemClosed P) (s : State) (j : Job) (w : View) (ixs : List Ix) (p : ℕ) (h_s : P s.kept) : P (gatherLand s j w ixs p).kept := by
  unfold gatherLand
  repeat' first
    | with_reducible assumption
    | with_reducible apply readVa_kept
    | with_reducible apply takeMany_kept
    | with_reducible apply spoilVa_kept
    | with_reducible apply writeVa_kept
    | with_reducible apply countIxs_kept
    | with_reducible apply countServed_kept
    | with_reducible apply embEnd_kept
    | (intro (z : Nat); refine value_step z ?_; intro w hw; (try rw [← hw]); clear hw z)
    | (intro (z : List _); refine value_step z ?_; intro w hw; (try rw [← hw]); clear hw z)
    | (intro (z : _ → _); subst z)
    | (intro z; refine value_step z ?_; intro w hw; (try rw [← hw]); clear hw z)
    | lift_lets -underBinder
    | with_reducible refine kept_ite ?_ ?_
    | split
    | (with_reducible apply kept_foldl <;> intros)
    | (with_reducible apply kept_foldl_snd <;> intros)

theorem gatherGo_kept {P : Kept → Prop} (hP : MemClosed P) (s : State) (j : Job) (h_s : P s.kept) : P (gatherGo s j).kept := by
  unfold gatherGo
  repeat' first
    | with_reducible assumption
    | with_reducible apply startJob_kept
    | with_reducible apply prepare_kept
    | with_reducible apply readIxs_kept
    | with_reducible apply embEnd_kept
    | with_reducible apply gatherLand_kept
    | (intro (z : Nat); refine value_step z ?_; intro w hw; (try rw [← hw]); clear hw z)
    | (intro z; refine value_step z ?_; intro w hw; (try rw [← hw]); clear hw z)
    | lift_lets -underBinder
    | with_reducible refine kept_ite ?_ ?_
    | split
    | refine kept_snd (by with_reducible assumption) ?_

theorem execEmbGather_kept {P : Kept → Prop} (hP : MemClosed P) (d : Sys2Proof.Desc) (s : State) (h_s : P s.kept) : NextKept P (execEmbGather d s) := by
  unfold execEmbGather
  repeat' first
    | with_reducible assumption
    | with_reducible apply embRow_kept
    | with_reducible apply gatherGo_kept

theorem pinRow_kept {P : Kept → Prop} (s : State) (r : Reduced) (h_s : P s.kept) : P (pinRow s r).kept := by
  unfold pinRow
  repeat' first
    | with_reducible assumption
    | (intro (z : Nat); refine value_step z ?_; intro w hw; (try rw [← hw]); clear hw z)
    | (intro (z : List _); refine value_step z ?_; intro w hw; (try rw [← hw]); clear hw z)
    | (intro z; refine value_step z ?_; intro w hw; (try rw [← hw]); clear hw z)
    | lift_lets -underBinder
    | with_reducible refine kept_ite ?_ ?_
    | (fail_if_no_progress (with_reducible refine kept_rec0 ?_))

theorem putRecord_kept {P : Kept → Prop} (hP : MemClosed P) (s : State) (j : Job) (r : Reduced) (b : List Sys2Proof.Byte) (nonfinite : Bool) (h_s : P s.kept) : P (putRecord s j r b nonfinite).kept := by
  unfold putRecord
  repeat' first
    | with_reducible assumption
    | with_reducible apply writeVa_kept
    | with_reducible apply State_bump_kept
    | with_reducible apply State_bumpSat_kept
    | with_reducible apply pinRow_kept
    | lift_lets -underBinder
    | with_reducible refine kept_ite ?_ ?_

theorem readData_kept {P : Kept → Prop} (hP : MemClosed P) (s : State) (j : Job) (d : EmbD) (w : View) (rs : List Reduced) (h_s : P s.kept) : P (readData s j d w rs).2.kept := by
  unfold readData
  repeat' first
    | with_reducible assumption
    | with_reducible apply readVa_kept
    | lift_lets -underBinder
    | (with_reducible apply kept_foldl_snd <;> intros)

theorem writeRowsLand_kept {P : Kept → Prop} (hP : MemClosed P) (op : ℕ) (s : State) (j : Job) (w : View) (ixs : List Ix) (ob : List Sys2Proof.Byte) (auxBad : Bool) (p : ℕ) (h_s : P s.kept) : P (writeRowsLand op s j w ixs ob auxBad p).kept := by
  unfold writeRowsLand
  repeat' first
    | with_reducible assumption
    | with_reducible apply readData_kept
    | with_reducible apply takeMany_kept
    | with_reducible apply logWrite_kept
    | with_reducible apply putJob_kept
    | with_reducible apply embEnd_kept
    | with_reducible apply spoilVa_kept
    | with_reducible apply readVa_kept
    | with_reducible apply putRecord_kept
    | with_reducible apply countIxs_kept
    | with_reducible apply countServed_kept
    | with_reducible refine onLog_kept ?_ ?_ ?_ ?_
    | (intro (z : Nat); refine value_step z ?_; intro w hw; (try rw [← hw]); clear hw z)
    | (intro z; refine value_step z ?_; intro w hw; (try rw [← hw]); clear hw z)
    | intro _
    | lift_lets -underBinder
    | with_reducible refine kept_ite ?_ ?_
    | split
    | (with_reducible apply kept_foldl_fst <;> intros)

theorem writeRowsGo_kept {P : Kept → Prop} (hP : MemClosed P) (op : ℕ) (s : State) (j : Job) (h_s : P s.kept) : P (writeRowsGo op s j).kept := by
  unfold writeRowsGo
  repeat' first
    | with_reducible assumption
    | with_reducible apply startJob_kept
    | with_reducible apply prepare_kept
    | with_reducible apply readIxs_kept
    | with_reducible apply readVa_kept
    | with_reducible apply embEnd_kept
    | with_reducible apply putJob_kept
    | with_reducible apply writeRowsLand_kept
    | (intro (z : Nat); refine value_step z ?_; intro w hw; (try rw [← hw]); clear hw z)
    | (intro (z : List _); refine value_step z ?_; intro w hw; (try rw [← hw]); clear hw z)
    | (intro z; refine value_step z ?_; intro w hw; (try rw [← hw]); clear hw z)
    | lift_lets -underBinder
    | with_reducible refine kept_ite ?_ ?_
    | split
    | refine kept_snd (by with_reducible assumption) ?_

theorem execEmbScatter_kept {P : Kept → Prop} (hP : MemClosed P) (d : Sys2Proof.Desc) (s : State) (h_s : P s.kept) : NextKept P (execEmbScatter d s) := by
  unfold execEmbScatter
  repeat' first
    | with_reducible assumption
    | with_reducible apply embRow_kept
    | with_reducible apply writeRowsGo_kept

theorem execEmbScatterAdd_kept {P : Kept → Prop} (hP : MemClosed P) (d : Sys2Proof.Desc) (s : State) (h_s : P s.kept) : NextKept P (execEmbScatterAdd d s) := by
  unfold execEmbScatterAdd
  repeat' first
    | with_reducible assumption
    | with_reducible apply embRow_kept
    | with_reducible apply writeRowsGo_kept

theorem execEmbUpdate_kept {P : Kept → Prop} (hP : MemClosed P) (d : Sys2Proof.Desc) (s : State) (h_s : P s.kept) : NextKept P (execEmbUpdate d s) := by
  unfold execEmbUpdate
  repeat' first
    | with_reducible assumption
    | with_reducible apply embRow_kept
    | with_reducible apply writeRowsGo_kept

theorem hookOpenLand_kept {P : Kept → Prop} (hP : MemClosed P) (s : State) (j : Job) (w : View) (ixs : List Ix) (h_s : P s.kept) : P (hookOpenLand s j w ixs).kept := by
  unfold hookOpenLand
  repeat' first
    | with_reducible assumption
    | with_reducible apply readData_kept
    | with_reducible apply takeMany_kept
    | with_reducible apply State_takeFree_kept
    | with_reducible apply writeVa_kept
    | with_reducible apply spoilVa_kept
    | with_reducible apply readVa_kept
    | with_reducible apply countIxs_kept
    | with_reducible apply countServed_kept
    | with_reducible apply embEnd_kept
    | (intro (z : Nat); refine value_step z ?_; intro w hw; (try rw [← hw]); clear hw z)
    | (intro (z : List _); refine value_step z ?_; intro w hw; (try rw [← hw]); clear hw z)
    | (intro z; refine value_step z ?_; intro w hw; (try rw [← hw]); clear hw z)
    | lift_lets -underBinder
    | with_reducible refine kept_ite ?_ ?_
    | split
    | (with_reducible apply kept_foldl_fst <;> intros)
    | (fail_if_no_progress (with_reducible refine kept_rec0 ?_))

theorem hookOpenGo_kept {P : Kept → Prop} (hP : MemClosed P) (s : State) (j : Job) (h_s : P s.kept) : P (hookOpenGo s j).kept := by
  unfold hookOpenGo
  repeat' first
    | with_reducible assumption
    | with_reducible apply startJob_kept
    | with_reducible apply prepare_kept
    | with_reducible apply readIxs_kept
    | with_reducible apply embEnd_kept
    | with_reducible apply putJob_kept
    | with_reducible apply hookOpenLand_kept
    | (intro (z : Nat); refine value_step z ?_; intro w hw; (try rw [← hw]); clear hw z)
    | (intro z; refine value_step z ?_; intro w hw; (try rw [← hw]); clear hw z)
    | lift_lets -underBinder
    | with_reducible refine kept_ite ?_ ?_
    | split
    | refine kept_snd (by with_reducible assumption) ?_

theorem execEmbHookOpen_kept {P : Kept → Prop} (hP : MemClosed P) (d : Sys2Proof.Desc) (s : State) (h_s : P s.kept) : NextKept P (execEmbHookOpen d s) := by
  unfold execEmbHookOpen
  repeat' first
    | with_reducible assumption
    | with_reducible apply embRow_kept
    | with_reducible apply hookOpenGo_kept

theorem hookLand_kept {P : Kept → Prop} (hP : MemClosed P) (s : State) (j : Job) (id : ℕ) (rows : List (EmbVer × ℕ)) (eb : ℕ) (w : View) (h_s : P s.kept) : P (hookLand s j id rows eb w).kept := by
  unfold hookLand
  repeat' first
    | with_reducible assumption
    | with_reducible apply readVa_kept
    | with_reducible apply logWrite_kept
    | with_reducible apply putJob_kept
    | with_reducible apply embEnd_kept
    | with_reducible apply spoilVa_kept
    | with_reducible apply putRecord_kept
    | with_reducible apply countServed_kept
    | with_reducible refine onLog_kept ?_ ?_ ?_ ?_
    | (intro z; refine value_step z ?_; intro w hw; (try rw [← hw]); clear hw z)
    | intro _
    | lift_lets -underBinder
    | split
    | (with_reducible apply kept_foldl_snd <;> intros)
    | (with_reducible apply kept_foldl_fst <;> intros)
    | (fail_if_no_progress (with_reducible refine kept_rec0 ?_))

theorem hookCommitGo_kept {P : Kept → Prop} (hP : MemClosed P) (s : State) (j : Job) (h_s : P s.kept) : P (hookCommitGo s j).kept := by
  unfold hookCommitGo
  repeat' first
    | with_reducible assumption
    | with_reducible apply embEnd_kept
    | with_reducible apply startJob_kept
    | with_reducible apply prepare_kept
    | with_reducible apply hookLand_kept
    | (intro (z : Nat); refine value_step z ?_; intro w hw; (try rw [← hw]); clear hw z)
    | (intro (z : List _); refine value_step z ?_; intro w hw; (try rw [← hw]); clear hw z)
    | (intro (z : Option _); subst z)
    | (intro z; refine value_step z ?_; intro w hw; (try rw [← hw]); clear hw z)
    | lift_lets -underBinder
    | with_reducible refine kept_ite ?_ ?_
    | split
    | refine kept_snd (by with_reducible assumption) ?_

theorem execEmbHookCommit_kept {P : Kept → Prop} (hP : MemClosed P) (d : Sys2Proof.Desc) (s : State) (h_s : P s.kept) : NextKept P (execEmbHookCommit d s) := by
  unfold execEmbHookCommit
  repeat' first
    | with_reducible assumption
    | with_reducible apply embRow_kept
    | with_reducible apply hookCommitGo_kept

theorem execHookTimeout_kept {P : Kept → Prop} (t : ℕ) (s : State) (h_s : P s.kept) : NextKept P (execHookTimeout t s) := by
  unfold execHookTimeout
  repeat' first
    | with_reducible assumption
    | with_reducible refine next_kept ?_
    | with_reducible apply State_upto_kept
    | (intro (z : _ → _); subst z)
    | (intro z; refine value_step z ?_; intro w hw; (try rw [← hw]); clear hw z)
    | lift_lets -underBinder
    | split
    | (fail_if_no_progress (with_reducible refine kept_rec0 ?_))

theorem execRowPinExpiry_kept {P : Kept → Prop} (t : ℕ) (s : State) (h_s : P s.kept) : NextKept P (execRowPinExpiry t s) := by
  unfold execRowPinExpiry
  repeat' first
    | with_reducible assumption
    | with_reducible refine next_kept ?_
    | with_reducible apply State_upto_kept
    | (intro z; refine value_step z ?_; intro w hw; (try rw [← hw]); clear hw z)
    | lift_lets -underBinder
    | split
    | (fail_if_no_progress (with_reducible refine kept_rec0 ?_))

theorem copyRecord_kept {P : Kept → Prop} (hP : MemClosed P) (s : State) (c : ℕ) (src : ℕ) (dst : ℕ) (n : ℕ) (h_s : P s.kept) : BothKept P (copyRecord s c src dst n) := by
  unfold copyRecord
  repeat' first
    | with_reducible assumption
    | with_reducible refine both_mk ?_ ?_
    | with_reducible refine none_kept
    | with_reducible refine some_kept ?_
    | with_reducible apply barRanges_kept
    | with_reducible apply readVa_kept
    | with_reducible apply writeVa_kept
    | lift_lets -underBinder
    | split
    | refine kept_snd (by with_reducible assumption) ?_

theorem returnRow_kept {P : Kept → Prop} (hP : MemClosed P) (s : State) (r : Reloc) (h_s : P s.kept) : P (returnRow s r).kept := by
  unfold returnRow
  repeat' first
    | with_reducible assumption
    | with_reducible apply copyRecord_kept
    | (intro z; refine value_step z ?_; intro w hw; (try rw [← hw]); clear hw z)
    | lift_lets -underBinder
    | with_reducible refine kept_ite ?_ ?_
    | split
    | refine of_both_some (by with_reducible assumption) ?_
    | refine of_both_snd (by with_reducible assumption) ?_
    | (fail_if_no_progress (with_reducible refine kept_rec0 ?_))

theorem execVersionRelease_kept {P : Kept → Prop} (hP : MemClosed P) (t : ℕ) (s : State) (h_s : P s.kept) : NextKept P (execVersionRelease t s) := by
  unfold execVersionRelease
  repeat' first
    | with_reducible assumption
    | with_reducible refine next_kept ?_
    | with_reducible apply State_upto_kept
    | with_reducible apply returnRow_kept
    | with_reducible apply embEnd_kept
    | with_reducible apply finishJob_kept
    | (intro z; refine kept_step (P := P) z ?_ ?_ <;> [unfold z; first | (intro w hw hz; rw [← hw]; clear hw z) | (intro w hw hz; rw [hw] at hz; clear hw w; clear_value z)])
    | (intro (z : _ → _); subst z)
    | (intro z; refine value_step z ?_; intro w hw; (try rw [← hw]); clear hw z)
    | lift_lets -underBinder
    | with_reducible refine kept_ite ?_ ?_
    | split
    | (with_reducible apply kept_foldl <;> intros)
    | (fail_if_no_progress (with_reducible refine kept_rec0 ?_))

theorem relocate_kept {P : Kept → Prop} (hP : MemClosed P) (s : State) (r : RowId) (n : ℕ) (h_s : P s.kept) : P (relocate s r n).kept := by
  unfold relocate
  repeat' first
    | with_reducible assumption
    | with_reducible apply State_takeFree_kept
    | with_reducible apply copyRecord_kept
    | (intro (z : List _); refine value_step z ?_; intro w hw; (try rw [← hw]); clear hw z)
    | (intro z; refine value_step z ?_; intro w hw; (try rw [← hw]); clear hw z)
    | lift_lets -underBinder
    | with_reducible refine kept_ite ?_ ?_
    | split
    | refine of_both_some (by with_reducible assumption) ?_
    | refine of_both_snd (by with_reducible assumption) ?_
    | refine kept_snd (by with_reducible assumption) ?_
    | (fail_if_no_progress (with_reducible refine kept_rec0 ?_))

theorem execBalanceEpoch_kept {P : Kept → Prop} (hP : MemClosed P) (t : ℕ) (s : State) (h_s : P s.kept) : NextKept P (execBalanceEpoch t s) := by
  unfold execBalanceEpoch
  repeat' first
    | with_reducible assumption
    | with_reducible refine next_kept ?_
    | with_reducible apply State_upto_kept
    | with_reducible apply State_set_kept
    | with_reducible apply returnRow_kept
    | with_reducible apply relocate_kept
    | (intro z; refine kept_step (P := P) z ?_ ?_ <;> [unfold z; first | (intro w hw hz; rw [← hw]; clear hw z) | (intro w hw hz; rw [hw] at hz; clear hw w; clear_value z)])
    | (intro (z : List _); refine value_step z ?_; intro w hw; (try rw [← hw]); clear hw z)
    | (intro (z : _ → _); subst z)
    | (intro (z : Option _); subst z)
    | (intro z; refine value_step z ?_; intro w hw; (try rw [← hw]); clear hw z)
    | lift_lets -underBinder
    | with_reducible refine kept_ite ?_ ?_
    | split
    | (with_reducible apply kept_foldl <;> intros)
    | (fail_if_no_progress (with_reducible refine kept_rec0 ?_))

end Sys2Proof.Machine
end

