-- ==== Sys2Proof/Laws/KeptSearch.lean ====
section
/-! SUPPORT. What the operations of Search.lean keep of the queue and the memory, one lemma each. -/

set_option maxRecDepth 100000
set_option linter.all false

namespace Sys2Proof.Machine

open Sys2Proof

theorem srchRow_kept {P : Kept → Prop} (op : ℕ) (d : Sys2Proof.Desc) (go : State → Job → State) (s : State) (h_go : ∀ x0 x1, P x0.kept → P (go x0 x1).kept) (h_s : P s.kept) : NextKept P (srchRow op d go s) := by
  unfold srchRow
  repeat' first
    | with_reducible assumption
    | with_reducible refine next_kept ?_
    | with_reducible apply engineRow_kept

theorem retireDef_kept {P : Kept → Prop} (s : State) (x : SrchDef) (w : List (ℕ × ℕ)) (h_s : P s.kept) : P (retireDef s x w).kept := by
  unfold retireDef
  repeat' first
    | with_reducible assumption
    | (intro (z : _ → _); subst z)
    | (intro z; refine value_step z ?_; intro w hw; (try rw [← hw]); clear hw z)
    | lift_lets -underBinder
    | (fail_if_no_progress (with_reducible refine kept_rec0 ?_))

theorem execSrchIndexSet_kept {P : Kept → Prop} (d : Sys2Proof.Desc) (s : State) (h_s : P s.kept) : NextKept P (execSrchIndexSet d s) := by
  unfold execSrchIndexSet
  repeat' first
    | with_reducible assumption
    | with_reducible apply srchRow_kept
    | with_reducible apply finishJob_kept
    | with_reducible apply retireDef_kept
    | (intro z; refine kept_step (P := P) z ?_ ?_ <;> [unfold z; first | (intro w hw hz; rw [← hw]; clear hw z) | (intro w hw hz; rw [hw] at hz; clear hw w; clear_value z)])
    | (intro (z : Nat); refine value_step z ?_; intro w hw; (try rw [← hw]); clear hw z)
    | (intro (z : Bool); refine value_step z ?_; intro w hw; (try rw [← hw]); clear hw z)
    | (intro z; refine value_step z ?_; intro w hw; (try rw [← hw]); clear hw z)
    | intro _
    | lift_lets -underBinder
    | with_reducible refine kept_ite ?_ ?_
    | split
    | (fail_if_no_progress (with_reducible refine kept_rec0 ?_))

theorem execSrchIndexClear_kept {P : Kept → Prop} (d : Sys2Proof.Desc) (s : State) (h_s : P s.kept) : NextKept P (execSrchIndexClear d s) := by
  unfold execSrchIndexClear
  repeat' first
    | with_reducible assumption
    | with_reducible apply srchRow_kept
    | with_reducible apply finishJob_kept
    | with_reducible apply putJob_kept
    | with_reducible apply retireDef_kept
    | (intro z; refine value_step z ?_; intro w hw; (try rw [← hw]); clear hw z)
    | intro _
    | lift_lets -underBinder
    | with_reducible refine kept_ite ?_ ?_
    | split

theorem endQuery_kept {P : Kept → Prop} (hP : MemClosed P) (s : State) (j : Job) (x : SrchDef) (d : SrchD) (v : View) (f : Found) (h_s : P s.kept) : P (endQuery s j x d v f).kept := by
  unfold endQuery
  repeat' first
    | with_reducible assumption
    | with_reducible apply State_bump_kept
    | with_reducible apply finishJob_kept
    | with_reducible apply spoilVa_kept
    | with_reducible apply writeVa_kept
    | with_reducible apply State_bumpSat_kept
    | (intro z; refine kept_step (P := P) z ?_ ?_ <;> [unfold z; first | (intro w hw hz; rw [← hw]; clear hw z) | (intro w hw hz; rw [hw] at hz; clear hw w; clear_value z)])
    | (intro (z : Nat); refine value_step z ?_; intro w hw; (try rw [← hw]); clear hw z)
    | (intro (z : Bool); refine value_step z ?_; intro w hw; (try rw [← hw]); clear hw z)
    | lift_lets -underBinder
    | with_reducible refine kept_ite ?_ ?_

theorem openQuery_kept {P : Kept → Prop} (hP : MemClosed P) (s : State) (j : Job) (x : SrchDef) (d : SrchD) (h_s : P s.kept) : P (openQuery s j x d).2.kept := by
  unfold openQuery
  repeat' first
    | with_reducible assumption
    | with_reducible apply startJob_kept
    | with_reducible apply prepare_kept
    | with_reducible apply endQuery_kept
    | with_reducible apply readVa_kept
    | with_reducible apply finishJob_kept
    | (intro (z : Nat); refine value_step z ?_; intro w hw; (try rw [← hw]); clear hw z)
    | (intro z; refine value_step z ?_; intro w hw; (try rw [← hw]); clear hw z)
    | lift_lets -underBinder
    | split
    | refine kept_snd (by with_reducible assumption) ?_

theorem countScan_kept {P : Kept → Prop} (s : State) (j : Job) (e : ℕ) (bytes : ℕ) (rejected : ℕ) (skipped : ℕ) (h_s : P s.kept) : P (countScan s j e bytes rejected skipped).kept := by
  unfold countScan
  repeat' first
    | with_reducible assumption
    | with_reducible apply State_bumpSat_kept
    | with_reducible apply State_bump_kept
    | with_reducible refine kept_ite ?_ ?_

theorem scanRec_kept {P : Kept → Prop} (hP : MemClosed P) (j : Job) (x : SrchDef) (d : SrchD) (q : ℕ) (ts : List Term) (a : Found × State) (i : ℕ) (h_a : P a.2.kept) : P (scanRec j x d q ts a i).2.kept := by
  unfold scanRec
  repeat' first
    | with_reducible assumption
    | with_reducible apply readVa_kept
    | with_reducible apply countScan_kept

theorem flatGo_kept {P : Kept → Prop} (hP : MemClosed P) (s : State) (j : Job) (h_s : P s.kept) : P (flatGo s j).kept := by
  unfold flatGo
  repeat' first
    | with_reducible assumption
    | with_reducible apply finishJob_kept
    | with_reducible apply openQuery_kept
    | with_reducible apply prepare_kept
    | with_reducible apply scanRec_kept
    | with_reducible apply endQuery_kept
    | (intro (z : Nat); refine value_step z ?_; intro w hw; (try rw [← hw]); clear hw z)
    | (intro z; refine value_step z ?_; intro w hw; (try rw [← hw]); clear hw z)
    | lift_lets -underBinder
    | split
    | (with_reducible apply kept_foldl_snd <;> intros)
    | refine kept_snd (by with_reducible assumption) ?_

theorem execSrchFlat_kept {P : Kept → Prop} (hP : MemClosed P) (d : Sys2Proof.Desc) (s : State) (h_s : P s.kept) : NextKept P (execSrchFlat d s) := by
  unfold execSrchFlat
  repeat' first
    | with_reducible assumption
    | with_reducible apply srchRow_kept
    | with_reducible apply flatGo_kept

theorem readRec_kept {P : Kept → Prop} (hP : MemClosed P) (s : State) (j : Job) (x : SrchDef) (n : ℕ) (h_s : P s.kept) : P (readRec s j x n).2.2.kept := by
  unfold readRec
  repeat' first
    | with_reducible assumption
    | with_reducible apply prepare_kept
    | with_reducible apply readVa_kept
    | (intro (z : Nat); refine value_step z ?_; intro w hw; (try rw [← hw]); clear hw z)
    | lift_lets -underBinder
    | split
    | refine kept_snd (by with_reducible assumption) ?_

theorem visitNode_kept {P : Kept → Prop} (x : SrchDef) (d : SrchD) (q : ℕ) (ts : List Term) (n : ℕ) (r : SrchRec) (w : Walk) (h_w : P w.s.kept) : P (visitNode x d q ts n r w).s.kept := by
  unfold visitNode
  repeat' first
    | with_reducible assumption

theorem walkEdge_kept {P : Kept → Prop} (hP : MemClosed P) (j : Job) (x : SrchDef) (d : SrchD) (q : ℕ) (ts : List Term) (w : Walk) (e : ℕ × ℕ) (h_w : P w.s.kept) : P (walkEdge j x d q ts w e).s.kept := by
  unfold walkEdge
  repeat' first
    | with_reducible assumption
    | with_reducible apply readRec_kept
    | with_reducible apply visitNode_kept
    | (intro (z : Walk); subst z)
    | (intro z; refine value_step z ?_; intro w hw; (try rw [← hw]); clear hw z)
    | lift_lets -underBinder
    | split
    | refine kept_third (by with_reducible assumption) ?_

theorem walkLoop_kept {P : Kept → Prop} (hP : MemClosed P) (j : Job) (x : SrchDef) (d : SrchD) (q : ℕ) (ts : List Term) (z5 : ℕ) (z6 : Walk) (h_z6 : P z6.s.kept) : P (walkLoop j x d q ts z5 z6).s.kept := by
  induction z5 generalizing z6 with
  | zero => unfold walkLoop; assumption
  | succ n ih =>
    unfold walkLoop
    repeat' first
      | with_reducible assumption
      | with_reducible apply walkEdge_kept
      | with_reducible apply ih
      | lift_lets -underBinder
      | split
      | (with_reducible apply walk_foldl <;> intros)

theorem graphGo_kept {P : Kept → Prop} (hP : MemClosed P) (s : State) (j : Job) (h_s : P s.kept) : P (graphGo s j).kept := by
  unfold graphGo
  repeat' first
    | with_reducible assumption
    | with_reducible apply finishJob_kept
    | with_reducible apply openQuery_kept
    | with_reducible apply readRec_kept
    | with_reducible apply walkLoop_kept
    | with_reducible apply visitNode_kept
    | with_reducible apply countScan_kept
    | with_reducible apply State_bump_kept
    | with_reducible apply State_bumpSat_kept
    | with_reducible apply endQuery_kept
    | (intro z; refine kept_step (P := P) z ?_ ?_ <;> [unfold z; first | (intro w hw hz; rw [← hw]; clear hw z) | (intro w hw hz; rw [hw] at hz; clear hw w; clear_value z)])
    | (intro (z : Nat); refine value_step z ?_; intro w hw; (try rw [← hw]); clear hw z)
    | (intro (z : Walk); subst z)
    | (intro z; refine value_step z ?_; intro w hw; (try rw [← hw]); clear hw z)
    | lift_lets -underBinder
    | with_reducible refine kept_ite ?_ ?_
    | split
    | refine kept_third (by with_reducible assumption) ?_
    | refine kept_snd (by with_reducible assumption) ?_

theorem execSrchGraph_kept {P : Kept → Prop} (hP : MemClosed P) (d : Sys2Proof.Desc) (s : State) (h_s : P s.kept) : NextKept P (execSrchGraph d s) := by
  unfold execSrchGraph
  repeat' first
    | with_reducible assumption
    | with_reducible apply srchRow_kept
    | with_reducible apply graphGo_kept

theorem peekRec_kept {P : Kept → Prop} (hP : MemClosed P) (s : State) (c : ℕ) (x : SrchDef) (n : ℕ) (h_s : P s.kept) : P (peekRec s c x n).2.kept := by
  unfold peekRec
  repeat' first
    | with_reducible assumption
    | with_reducible apply readVa_kept

theorem backLink_kept {P : Kept → Prop} (hP : MemClosed P) (s : State) (c : ℕ) (x : SrchDef) (t : ℕ) (node : ℕ) (gen : ℕ) (h_s : P s.kept) : P (backLink s c x t node gen).2.kept := by
  unfold backLink
  repeat' first
    | with_reducible assumption
    | with_reducible apply peekRec_kept
    | with_reducible apply writeVa_kept
    | (intro (z : _ → _); subst z)
    | lift_lets -underBinder
    | split
    | refine kept_snd (by with_reducible assumption) ?_

theorem insertLand_kept {P : Kept → Prop} (hP : MemClosed P) (s : State) (j : Job) (x : SrchDef) (srcBad : Bool) (b : List Sys2Proof.Byte) (known : List ℕ) (h_s : P s.kept) : P (insertLand s j x srcBad b known).kept := by
  unfold insertLand
  repeat' first
    | with_reducible assumption
    | with_reducible apply peekRec_kept
    | with_reducible apply finishJob_kept
    | with_reducible apply spoilVa_kept
    | with_reducible apply writeVa_kept
    | with_reducible apply State_bump_kept
    | with_reducible apply backLink_kept
    | (intro z; refine kept_step (P := P) z ?_ ?_ <;> [unfold z; first | (intro w hw hz; rw [← hw]; clear hw z) | (intro w hw hz; rw [hw] at hz; clear hw w; clear_value z)])
    | (intro (z : Nat); refine value_step z ?_; intro w hw; (try rw [← hw]); clear hw z)
    | (intro (z : List _); refine value_step z ?_; intro w hw; (try rw [← hw]); clear hw z)
    | (intro z; subst z)
    | lift_lets -underBinder
    | with_reducible refine kept_ite ?_ ?_
    | split
    | (with_reducible apply kept_foldl_snd <;> intros)

theorem insertGo_kept {P : Kept → Prop} (hP : MemClosed P) (s : State) (j : Job) (h_s : P s.kept) : P (insertGo s j).kept := by
  unfold insertGo
  repeat' first
    | with_reducible assumption
    | with_reducible apply finishJob_kept
    | with_reducible apply startJob_kept
    | with_reducible apply prepare_kept
    | with_reducible apply readVa_kept
    | with_reducible apply insertLand_kept
    | (intro (z : Nat); refine value_step z ?_; intro w hw; (try rw [← hw]); clear hw z)
    | (intro (z : Bool); refine value_step z ?_; intro w hw; (try rw [← hw]); clear hw z)
    | (intro (z : List _); refine value_step z ?_; intro w hw; (try rw [← hw]); clear hw z)
    | (intro (z : _ → _); subst z)
    | (intro z; refine value_step z ?_; intro w hw; (try rw [← hw]); clear hw z)
    | (intro z; subst z)
    | lift_lets -underBinder
    | with_reducible refine kept_ite ?_ ?_
    | split
    | refine kept_snd (by with_reducible assumption) ?_

theorem execSrchInsert_kept {P : Kept → Prop} (hP : MemClosed P) (d : Sys2Proof.Desc) (s : State) (h_s : P s.kept) : NextKept P (execSrchInsert d s) := by
  unfold execSrchInsert
  repeat' first
    | with_reducible assumption
    | with_reducible apply srchRow_kept
    | with_reducible apply insertGo_kept

theorem deleteGo_kept {P : Kept → Prop} (hP : MemClosed P) (s : State) (j : Job) (h_s : P s.kept) : P (deleteGo s j).kept := by
  unfold deleteGo
  repeat' first
    | with_reducible assumption
    | with_reducible apply finishJob_kept
    | with_reducible apply startJob_kept
    | with_reducible apply prepare_kept
    | with_reducible apply peekRec_kept
    | with_reducible apply writeVa_kept
    | with_reducible apply State_bump_kept
    | (intro z; refine kept_step (P := P) z ?_ ?_ <;> [unfold z; first | (intro w hw hz; rw [← hw]; clear hw z) | (intro w hw hz; rw [hw] at hz; clear hw w; clear_value z)])
    | (intro (z : Nat); refine value_step z ?_; intro w hw; (try rw [← hw]); clear hw z)
    | (intro (z : List _); refine value_step z ?_; intro w hw; (try rw [← hw]); clear hw z)
    | (intro (z : _ → _); subst z)
    | (intro z; refine value_step z ?_; intro w hw; (try rw [← hw]); clear hw z)
    | (intro z; subst z)
    | lift_lets -underBinder
    | with_reducible refine kept_ite ?_ ?_
    | split
    | refine kept_snd (by with_reducible assumption) ?_
    | (fail_if_no_progress (with_reducible refine kept_rec0 ?_))

theorem execSrchDelete_kept {P : Kept → Prop} (hP : MemClosed P) (d : Sys2Proof.Desc) (s : State) (h_s : P s.kept) : NextKept P (execSrchDelete d s) := by
  unfold execSrchDelete
  repeat' first
    | with_reducible assumption
    | with_reducible apply srchRow_kept
    | with_reducible apply deleteGo_kept

end Sys2Proof.Machine
end

