-- ==== Sys2Proof/Laws/KeptBlocks.lean ====
section
/-! SUPPORT. What the operations of Blocks.lean keep of the queue and the memory, one lemma each. -/

set_option maxRecDepth 100000
set_option linter.all false

namespace Sys2Proof.Machine

open Sys2Proof

theorem putSpace_kept {P : Kept → Prop} (s : State) (i : ℕ) (sp : Space) (h_s : P s.kept) : P (putSpace s i sp).kept := by
  unfold putSpace
  repeat' first
    | with_reducible assumption
    | (intro z; refine value_step z ?_; intro w hw; (try rw [← hw]); clear hw z)
    | lift_lets -underBinder
    | (fail_if_no_progress (with_reducible refine kept_rec0 ?_))

theorem putEnt_kept {P : Kept → Prop} (hP : MemClosed P) (s : State) (i : ℕ) (sp : Space) (k : ℕ) (e : BlkEnt) (h_s : P s.kept) : P (putEnt s i sp k e).kept := by
  unfold putEnt
  repeat' first
    | with_reducible assumption
    | with_reducible apply writeVa_kept
    | with_reducible apply putSpace_kept
    | (intro z; refine kept_step (P := P) z ?_ ?_ <;> [unfold z; first | (intro w hw hz; rw [← hw]; clear hw z) | (intro w hw hz; rw [hw] at hz; clear hw w; clear_value z)])
    | lift_lets -underBinder
    | split

theorem freeEnt_kept {P : Kept → Prop} (hP : MemClosed P) (s : State) (i : ℕ) (sp : Space) (k : ℕ) (h_s : P s.kept) : P (freeEnt s i sp k).kept := by
  unfold freeEnt
  repeat' first
    | with_reducible assumption
    | with_reducible apply putEnt_kept

theorem freeGroup_kept {P : Kept → Prop} (hP : MemClosed P) (s : State) (i : ℕ) (g : ℕ) (h_s : P s.kept) : P (freeGroup s i g).kept := by
  unfold freeGroup
  repeat' first
    | with_reducible assumption
    | with_reducible apply freeEnt_kept
    | split
    | (with_reducible apply kept_foldl <;> intros)

theorem needPage_kept {P : Kept → Prop} (hP : MemClosed P) (s : State) (sp : Space) (p : ℕ) (pin : Bool) (h_s : P s.kept) : P (needPage s sp p pin).kept := by
  unfold needPage
  repeat' first
    | with_reducible assumption
    | with_reducible apply allocPage_kept
    | with_reducible refine kept_ite ?_ ?_

theorem sendMsg_kept {P : Kept → Prop} (s : State) (addr : ℕ) (m : HMsg) (h_s : P s.kept) : P (sendMsg s addr m).kept := by
  unfold sendMsg
  repeat' first
    | with_reducible assumption
    | with_reducible apply sendOut_kept
    | (intro (z : Nat); refine value_step z ?_; intro w hw; (try rw [← hw]); clear hw z)
    | (intro z; refine value_step z ?_; intro w hw; (try rw [← hw]); clear hw z)
    | lift_lets -underBinder
    | with_reducible refine kept_ite ?_ ?_
    | split
    | (fail_if_no_progress (with_reducible refine kept_rec0 ?_))

theorem putLedger_kept {P : Kept → Prop} (s : State) (i : ℕ) (g : ℕ) (x : Option Ledger) (h_s : P s.kept) : P (putLedger s i g x).kept := by
  unfold putLedger
  repeat' first
    | with_reducible assumption
    | (intro z; refine value_step z ?_; intro w hw; (try rw [← hw]); clear hw z)
    | lift_lets -underBinder
    | (fail_if_no_progress (with_reducible refine kept_rec0 ?_))

theorem blkRow_kept {P : Kept → Prop} (op : ℕ) (d : Sys2Proof.Desc) (go : State → Job → State) (s : State) (h_go : ∀ x0 x1, P x0.kept → P (go x0 x1).kept) (h_s : P s.kept) : NextKept P (blkRow op d go s) := by
  unfold blkRow
  repeat' first
    | with_reducible assumption
    | with_reducible refine next_kept ?_
    | with_reducible apply engineRow_kept

theorem blkCount_kept {P : Kept → Prop} (s : State) (j : Job) (f : Sys2Proof.Fld) (sat : Bool) (n : optParam ℕ 1) (h_s : P s.kept) : P (blkCount s j f sat n).kept := by
  unfold blkCount
  repeat' first
    | with_reducible assumption
    | with_reducible apply State_bumpSat_kept
    | with_reducible apply State_bump_kept
    | lift_lets -underBinder
    | with_reducible refine kept_ite ?_ ?_

theorem blkEnd_kept {P : Kept → Prop} (s : State) (j : Job) (c : Sys2Proof.Code) (detail : optParam ℕ 0) (h_s : P s.kept) : P (blkEnd s j c detail).kept := by
  unfold blkEnd
  repeat' first
    | with_reducible assumption
    | with_reducible apply blkCount_kept
    | with_reducible apply finishJob_kept
    | lift_lets -underBinder
    | with_reducible refine kept_ite ?_ ?_

theorem keyJob_kept {P : Kept → Prop} (s : State) (j : Job) (f : State →   Job →     Space →       Option Ledger → Option (ℕ × BlkEnt) → State) (h_s : P s.kept) (h_f : ∀ x0 x1 x2 x3 x4, P x0.kept → P (f x0 x1 x2 x3 x4).kept) : P (keyJob s j f).kept := by
  unfold keyJob
  repeat' first
    | with_reducible assumption
    | with_reducible apply blkEnd_kept
    | with_reducible apply putJob_kept
    | with_reducible apply prepareAs_kept
    | apply h_f
    | (intro (z : Nat); refine value_step z ?_; intro w hw; (try rw [← hw]); clear hw z)
    | (intro (z : List _); refine value_step z ?_; intro w hw; (try rw [← hw]); clear hw z)
    | lift_lets -underBinder
    | with_reducible refine kept_ite ?_ ?_
    | split
    | refine kept_snd (by with_reducible assumption) ?_

theorem copyBytes_kept {P : Kept → Prop} (hP : MemClosed P) (s : State) (c1 : ℕ) (va1 : ℕ) (v1 : Option View) (c2 : ℕ) (va2 : ℕ) (v2 : Option View) (n : ℕ) (h_s : P s.kept) : P (copyBytes s c1 va1 v1 c2 va2 v2 n).1.kept := by
  unfold copyBytes
  repeat' first
    | with_reducible assumption
    | with_reducible apply spoilVa_kept
    | with_reducible apply readVa_kept
    | with_reducible apply writeVa_kept
    | (intro z; refine kept_step (P := P) z ?_ ?_ <;> [unfold z; first | (intro w hw hz; rw [← hw]; clear hw z) | (intro w hw hz; rw [hw] at hz; clear hw w; clear_value z)])
    | lift_lets -underBinder
    | split
    | (with_reducible apply kept_foldl_fst <;> intros)

theorem execBlkSpaceSet_kept {P : Kept → Prop} (d : Sys2Proof.Desc) (s : State) (h_s : P s.kept) : NextKept P (execBlkSpaceSet d s) := by
  unfold execBlkSpaceSet
  repeat' first
    | with_reducible assumption
    | with_reducible apply blkRow_kept
    | with_reducible apply blkEnd_kept
    | with_reducible apply putSpace_kept
    | (intro (z : Nat); refine value_step z ?_; intro w hw; (try rw [← hw]); clear hw z)
    | (intro z; refine value_step z ?_; intro w hw; (try rw [← hw]); clear hw z)
    | intro _
    | lift_lets -underBinder
    | with_reducible refine kept_ite ?_ ?_

theorem execBlkSpaceClear_kept {P : Kept → Prop} (hP : MemClosed P) (d : Sys2Proof.Desc) (s : State) (h_s : P s.kept) : NextKept P (execBlkSpaceClear d s) := by
  unfold execBlkSpaceClear
  repeat' first
    | with_reducible assumption
    | with_reducible apply blkRow_kept
    | with_reducible apply blkEnd_kept
    | with_reducible apply putJob_kept
    | with_reducible apply recallLine_kept
    | with_reducible apply freePages_kept
    | (intro z; refine kept_step (P := P) z ?_ ?_ <;> [unfold z; first | (intro w hw hz; rw [← hw]; clear hw z) | (intro w hw hz; rw [hw] at hz; clear hw w; clear_value z)])
    | (intro (z : Nat); refine value_step z ?_; intro w hw; (try rw [← hw]); clear hw z)
    | (intro (z : List _); refine value_step z ?_; intro w hw; (try rw [← hw]); clear hw z)
    | (intro z; refine value_step z ?_; intro w hw; (try rw [← hw]); clear hw z)
    | intro _
    | lift_lets -underBinder
    | with_reducible refine kept_ite ?_ ?_
    | split
    | (with_reducible apply kept_foldl <;> intros)
    | (fail_if_no_progress (with_reducible refine kept_rec0 ?_))

theorem execBlkGet_kept {P : Kept → Prop} (hP : MemClosed P) (d : Sys2Proof.Desc) (s : State) (h_s : P s.kept) : NextKept P (execBlkGet d s) := by
  unfold execBlkGet
  repeat' first
    | with_reducible assumption
    | with_reducible apply blkRow_kept
    | with_reducible apply keyJob_kept
    | with_reducible apply blkEnd_kept
    | with_reducible apply startJob_kept
    | with_reducible apply prepareAs_kept
    | with_reducible apply prepare_kept
    | with_reducible apply copyBytes_kept
    | with_reducible apply putEnt_kept
    | (intro (z : Nat); refine value_step z ?_; intro w hw; (try rw [← hw]); clear hw z)
    | (intro z; refine value_step z ?_; intro w hw; (try rw [← hw]); clear hw z)
    | intro _
    | lift_lets -underBinder
    | with_reducible refine kept_ite ?_ ?_
    | split
    | refine kept_snd (by with_reducible assumption) ?_

theorem putRefused_kept {P : Kept → Prop} (s : State) (j : Job) (full : Bool) (h_s : P s.kept) : P (putRefused s j full).kept := by
  unfold putRefused
  repeat' first
    | with_reducible assumption
    | with_reducible apply blkCount_kept
    | with_reducible apply blkEnd_kept
    | lift_lets -underBinder
    | with_reducible refine kept_ite ?_ ?_

theorem putLand_kept {P : Kept → Prop} (hP : MemClosed P) (s : State) (j : Job) (sp : Space) (led : Option Ledger) (k : ℕ) (loc : ℕ) (ip : ℕ) (gone : List ℕ) (v : View) (h_s : P s.kept) : P (putLand s j sp led k loc ip gone v).kept := by
  unfold putLand
  repeat' first
    | with_reducible assumption
    | with_reducible apply readVa_kept
    | with_reducible apply logWrite_kept
    | with_reducible apply putJob_kept
    | with_reducible apply putRefused_kept
    | with_reducible apply freeEnt_kept
    | with_reducible apply blkCount_kept
    | with_reducible apply needPage_kept
    | with_reducible apply copyBytes_kept
    | with_reducible apply putEnt_kept
    | with_reducible apply putLedger_kept
    | with_reducible apply blkEnd_kept
    | with_reducible refine onLog_kept ?_ ?_ ?_ ?_
    | (intro z; refine value_step z ?_; intro w hw; (try rw [← hw]); clear hw z)
    | intro _
    | lift_lets -underBinder
    | with_reducible refine kept_ite ?_ ?_
    | split
    | (with_reducible apply kept_foldl <;> intros)

theorem execBlkPut_kept {P : Kept → Prop} (hP : MemClosed P) (d : Sys2Proof.Desc) (s : State) (h_s : P s.kept) : NextKept P (execBlkPut d s) := by
  unfold execBlkPut
  repeat' first
    | with_reducible assumption
    | with_reducible apply blkRow_kept
    | with_reducible apply keyJob_kept
    | with_reducible apply startJob_kept
    | with_reducible apply putJob_kept
    | with_reducible apply putRefused_kept
    | with_reducible apply prepareAs_kept
    | with_reducible apply prepare_kept
    | with_reducible apply putLand_kept
    | (intro (z : Nat); refine value_step z ?_; intro w hw; (try rw [← hw]); clear hw z)
    | (intro (z : Prod _ _); subst z)
    | (intro (z : Option _); subst z)
    | (intro z; refine value_step z ?_; intro w hw; (try rw [← hw]); clear hw z)
    | intro _
    | lift_lets -underBinder
    | split
    | refine kept_snd (by with_reducible assumption) ?_
    | (fail_if_no_progress (with_reducible refine kept_rec0 ?_))

theorem markPin_kept {P : Kept → Prop} (hP : MemClosed P) (s : State) (i : ℕ) (sp : Space) (p : ℕ) (h_s : P s.kept) : P (markPin s i sp p).kept := by
  unfold markPin
  repeat' first
    | with_reducible assumption
    | with_reducible apply needPage_kept
    | with_reducible apply planMove_kept
    | with_reducible apply State_putPage_kept
    | with_reducible apply putSpace_kept
    | (intro z; refine kept_step (P := P) z ?_ ?_ <;> [unfold z; first | (intro w hw hz; rw [← hw]; clear hw z) | (intro w hw hz; rw [hw] at hz; clear hw w; clear_value z)])
    | lift_lets -underBinder
    | split

theorem execBlkPin_kept {P : Kept → Prop} (hP : MemClosed P) (d : Sys2Proof.Desc) (s : State) (h_s : P s.kept) : NextKept P (execBlkPin d s) := by
  unfold execBlkPin
  repeat' first
    | with_reducible assumption
    | with_reducible apply blkRow_kept
    | with_reducible apply keyJob_kept
    | with_reducible apply blkEnd_kept
    | with_reducible apply putJob_kept
    | with_reducible apply putEnt_kept
    | with_reducible apply blkCount_kept
    | with_reducible apply prepareAs_kept
    | with_reducible apply markPin_kept
    | with_reducible apply copyBytes_kept
    | (intro (z : List _); refine value_step z ?_; intro w hw; (try rw [← hw]); clear hw z)
    | (intro z; refine value_step z ?_; intro w hw; (try rw [← hw]); clear hw z)
    | intro _
    | lift_lets -underBinder
    | with_reducible refine kept_ite ?_ ?_
    | split
    | refine kept_snd (by with_reducible assumption) ?_
    | (fail_if_no_progress (with_reducible refine kept_rec0 ?_))

theorem execBlkUnpin_kept {P : Kept → Prop} (hP : MemClosed P) (d : Sys2Proof.Desc) (s : State) (h_s : P s.kept) : NextKept P (execBlkUnpin d s) := by
  unfold execBlkUnpin
  repeat' first
    | with_reducible assumption
    | with_reducible apply blkRow_kept
    | with_reducible apply keyJob_kept
    | with_reducible apply blkEnd_kept
    | with_reducible apply putEnt_kept
    | (intro z; refine value_step z ?_; intro w hw; (try rw [← hw]); clear hw z)
    | intro _
    | split

theorem execBlkRelease_kept {P : Kept → Prop} (hP : MemClosed P) (d : Sys2Proof.Desc) (s : State) (h_s : P s.kept) : NextKept P (execBlkRelease d s) := by
  unfold execBlkRelease
  repeat' first
    | with_reducible assumption
    | with_reducible apply blkRow_kept
    | with_reducible apply blkEnd_kept
    | with_reducible apply putJob_kept
    | with_reducible apply putLedger_kept
    | with_reducible apply freeGroup_kept
    | with_reducible apply keyJob_kept
    | with_reducible apply freeEnt_kept
    | (intro (z : Nat); refine value_step z ?_; intro w hw; (try rw [← hw]); clear hw z)
    | (intro (z : List _); refine value_step z ?_; intro w hw; (try rw [← hw]); clear hw z)
    | (intro z; refine value_step z ?_; intro w hw; (try rw [← hw]); clear hw z)
    | intro _
    | lift_lets -underBinder
    | with_reducible refine kept_ite ?_ ?_
    | split

theorem handoffLand_kept {P : Kept → Prop} (hP : MemClosed P) (s : State) (j : Job) (l : Ledger) (es : List (ℕ × BlkEnt)) (fa : ℕ) (mpa : ℕ) (v : View) (h_s : P s.kept) : P (handoffLand s j l es fa mpa v).kept := by
  unfold handoffLand
  repeat' first
    | with_reducible assumption
    | with_reducible apply takeMany_kept
    | with_reducible apply logWrite_kept
    | with_reducible apply putJob_kept
    | with_reducible apply blkEnd_kept
    | with_reducible apply writeVa_kept
    | with_reducible apply flushRange_kept
    | with_reducible apply putLedger_kept
    | with_reducible apply sendMsg_kept
    | with_reducible refine onLog_kept ?_ ?_ ?_ ?_
    | (intro z; refine value_step z ?_; intro w hw; (try rw [← hw]); clear hw z)
    | intro _

theorem execBlkHandoff_kept {P : Kept → Prop} (hP : MemClosed P) (d : Sys2Proof.Desc) (s : State) (h_s : P s.kept) : NextKept P (execBlkHandoff d s) := by
  unfold execBlkHandoff
  repeat' first
    | with_reducible assumption
    | with_reducible apply blkRow_kept
    | with_reducible apply blkEnd_kept
    | with_reducible apply putJob_kept
    | with_reducible apply startJob_kept
    | with_reducible apply prepare_kept
    | with_reducible apply handoffLand_kept
    | (intro (z : Nat); refine value_step z ?_; intro w hw; (try rw [← hw]); clear hw z)
    | (intro (z : List _); refine value_step z ?_; intro w hw; (try rw [← hw]); clear hw z)
    | (intro (z : Option _); subst z)
    | (intro z; refine value_step z ?_; intro w hw; (try rw [← hw]); clear hw z)
    | intro _
    | lift_lets -underBinder
    | with_reducible refine kept_ite ?_ ?_
    | split
    | refine kept_snd (by with_reducible assumption) ?_

theorem execBlkLogRead_kept {P : Kept → Prop} (hP : MemClosed P) (d : Sys2Proof.Desc) (s : State) (h_s : P s.kept) : NextKept P (execBlkLogRead d s) := by
  unfold execBlkLogRead
  repeat' first
    | with_reducible assumption
    | with_reducible apply blkRow_kept
    | with_reducible apply startJob_kept
    | with_reducible apply prepare_kept
    | with_reducible apply blkEnd_kept
    | with_reducible apply writeVa_kept
    | (intro (z : Nat); refine value_step z ?_; intro w hw; (try rw [← hw]); clear hw z)
    | (intro (z : List _); refine value_step z ?_; intro w hw; (try rw [← hw]); clear hw z)
    | (intro z; refine value_step z ?_; intro w hw; (try rw [← hw]); clear hw z)
    | intro _
    | lift_lets -underBinder
    | split
    | refine kept_snd (by with_reducible assumption) ?_

theorem takeMsg_kept {P : Kept → Prop} (s : State) (m : InMsg) (h_s : P s.kept) : P (takeMsg s m).kept := by
  unfold takeMsg
  repeat' first
    | with_reducible assumption
    | (intro z; refine value_step z ?_; intro w hw; (try rw [← hw]); clear hw z)
    | lift_lets -underBinder
    | (fail_if_no_progress (with_reducible refine kept_rec0 ?_))

theorem sendNack_kept {P : Kept → Prop} (s : State) (m : HMsg) (c : Sys2Proof.Code) (h_s : P s.kept) : P (sendNack s m c).kept := by
  unfold sendNack
  repeat' first
    | with_reducible assumption
    | with_reducible apply State_bumpSat_kept
    | with_reducible apply sendMsg_kept
    | lift_lets -underBinder
    | with_reducible refine kept_ite ?_ ?_

theorem stageBlock_kept {P : Kept → Prop} (hP : MemClosed P) (s : State) (i : ℕ) (sp : Space) (group : ℕ) (seq : ℕ) (b : List Sys2Proof.Byte) (h_s : P s.kept) : StagedKept P (stageBlock s i sp group seq b) := by
  unfold stageBlock
  repeat' first
    | with_reducible assumption
    | with_reducible refine staged_ok ?_
    | with_reducible refine staged_later ?_
    | with_reducible refine staged_no
    | with_reducible apply barRanges_kept
    | with_reducible apply freeEnt_kept
    | with_reducible apply State_bump_kept
    | with_reducible apply needPage_kept
    | with_reducible apply copyBytes_kept
    | with_reducible apply putEnt_kept
    | (intro (z : Nat); refine value_step z ?_; intro w hw; (try rw [← hw]); clear hw z)
    | (intro (z : Bool); refine value_step z ?_; intro w hw; (try rw [← hw]); clear hw z)
    | (intro (z : List _); refine value_step z ?_; intro w hw; (try rw [← hw]); clear hw z)
    | (intro (z : Option _); subst z)
    | lift_lets -underBinder
    | with_reducible refine kept_ite ?_ ?_
    | split
    | (with_reducible apply kept_foldl <;> intros)
    | refine kept_snd (by with_reducible assumption) ?_
    | (fail_if_no_progress (with_reducible refine kept_rec0 ?_))

theorem stageAll_kept {P : Kept → Prop} (hP : MemClosed P) (s : State) (i : ℕ) (group : ℕ) (seq : ℕ) (z4 : List (List Sys2Proof.Byte)) (h_s : P s.kept) : StagedKept P (stageAll s i group seq z4) := by
  induction z4 generalizing s with
  | nil => unfold stageAll; exact staged_ok (by assumption)
  | cons a t ih =>
    unfold stageAll
    repeat' first
      | with_reducible assumption
      | with_reducible refine staged_no
      | with_reducible apply stageBlock_kept
      | with_reducible apply ih
      | lift_lets -underBinder
      | split
      | refine of_staged_ok (by with_reducible assumption) ?_

theorem offerLand_kept {P : Kept → Prop} (hP : MemClosed P) (s0 : State) (s : State) (x : InMsg) (m : HMsg) (sp : Space) (va : ℕ) (h_s0 : P s0.kept) (h_s : P s.kept) : P (offerLand s0 s x m sp va).kept := by
  unfold offerLand
  repeat' first
    | with_reducible assumption
    | with_reducible apply readVa_kept
    | with_reducible apply logWrite_kept
    | with_reducible apply sendNack_kept
    | with_reducible apply takeMsg_kept
    | with_reducible apply stageAll_kept
    | with_reducible apply putLedger_kept
    | with_reducible apply sendMsg_kept
    | with_reducible refine onLog_kept ?_ ?_ ?_ ?_
    | (intro z; refine value_step z ?_; intro w hw; (try rw [← hw]); clear hw z)
    | intro _
    | lift_lets -underBinder
    | split
    | refine of_staged_ok (by with_reducible assumption) ?_
    | refine of_staged_later (by with_reducible assumption) ?_
    | (fail_if_no_progress (with_reducible refine kept_rec0 ?_))

theorem execOffer_kept {P : Kept → Prop} (hP : MemClosed P) (t : ℕ) (s : State) (h_s : P s.kept) : NextKept P (execOffer t s) := by
  unfold execOffer
  repeat' first
    | with_reducible assumption
    | with_reducible refine next_kept ?_
    | with_reducible apply State_upto_kept
    | with_reducible apply sendNack_kept
    | with_reducible apply takeMsg_kept
    | with_reducible apply barRanges_kept
    | with_reducible apply offerLand_kept
    | (intro z; refine kept_step (P := P) z ?_ ?_ <;> [unfold z; first | (intro w hw hz; rw [← hw]; clear hw z) | (intro w hw hz; rw [hw] at hz; clear hw w; clear_value z)])
    | (intro (z : Bool); refine value_step z ?_; intro w hw; (try rw [← hw]); clear hw z)
    | (intro (z : _ → _); subst z)
    | lift_lets -underBinder
    | with_reducible refine kept_ite ?_ ?_
    | split
    | refine kept_snd (by with_reducible assumption) ?_

theorem endHandoff_kept {P : Kept → Prop} (s : State) (l : Ledger) (c : Sys2Proof.Code) (detail : ℕ) (h_s : P s.kept) : P (endHandoff s l c detail).kept := by
  unfold endHandoff
  repeat' first
    | with_reducible assumption
    | with_reducible apply blkEnd_kept
    | with_reducible refine kept_ite ?_ ?_
    | split

theorem execAck_kept {P : Kept → Prop} (hP : MemClosed P) (t : ℕ) (s : State) (h_s : P s.kept) : NextKept P (execAck t s) := by
  unfold execAck
  repeat' first
    | with_reducible assumption
    | with_reducible refine next_kept ?_
    | with_reducible apply State_upto_kept
    | with_reducible apply takeMsg_kept
    | with_reducible apply sendMsg_kept
    | with_reducible apply sendNack_kept
    | with_reducible apply putLedger_kept
    | with_reducible apply freeGroup_kept
    | with_reducible apply endHandoff_kept
    | with_reducible apply State_bump_kept
    | (intro z; refine kept_step (P := P) z ?_ ?_ <;> [unfold z; first | (intro w hw hz; rw [← hw]; clear hw z) | (intro w hw hz; rw [hw] at hz; clear hw w; clear_value z)])
    | (intro (z : _ → _); subst z)
    | lift_lets -underBinder
    | with_reducible refine kept_ite ?_ ?_
    | split

theorem readyGroup_kept {P : Kept → Prop} (hP : MemClosed P) (s : State) (i : ℕ) (g : ℕ) (h_s : P s.kept) : P (readyGroup s i g).kept := by
  unfold readyGroup
  repeat' first
    | with_reducible assumption
    | with_reducible apply putEnt_kept
    | split
    | (with_reducible apply kept_foldl <;> intros)

theorem execConfirm_kept {P : Kept → Prop} (hP : MemClosed P) (t : ℕ) (s : State) (h_s : P s.kept) : NextKept P (execConfirm t s) := by
  unfold execConfirm
  repeat' first
    | with_reducible assumption
    | with_reducible refine next_kept ?_
    | with_reducible apply State_upto_kept
    | with_reducible apply takeMsg_kept
    | with_reducible apply sendNack_kept
    | with_reducible apply readyGroup_kept
    | with_reducible apply putLedger_kept
    | (intro z; refine kept_step (P := P) z ?_ ?_ <;> [unfold z; first | (intro w hw hz; rw [← hw]; clear hw z) | (intro w hw hz; rw [hw] at hz; clear hw w; clear_value z)])
    | lift_lets -underBinder
    | with_reducible refine kept_ite ?_ ?_
    | split

theorem reclaim_kept {P : Kept → Prop} (s : State) (l : Ledger) (c : Sys2Proof.Code) (h_s : P s.kept) : P (reclaim s l c).kept := by
  unfold reclaim
  repeat' first
    | with_reducible assumption
    | with_reducible apply putLedger_kept
    | with_reducible apply endHandoff_kept
    | with_reducible apply State_bumpSat_kept

theorem dropStaged_kept {P : Kept → Prop} (hP : MemClosed P) (s : State) (l : Ledger) (h_s : P s.kept) : P (dropStaged s l).kept := by
  unfold dropStaged
  repeat' first
    | with_reducible assumption
    | with_reducible apply putLedger_kept
    | with_reducible apply freeGroup_kept

theorem execNack_kept {P : Kept → Prop} (hP : MemClosed P) (t : ℕ) (s : State) (h_s : P s.kept) : NextKept P (execNack t s) := by
  unfold execNack
  repeat' first
    | with_reducible assumption
    | with_reducible refine next_kept ?_
    | with_reducible apply State_upto_kept
    | with_reducible apply takeMsg_kept
    | with_reducible apply reclaim_kept
    | with_reducible apply dropStaged_kept
    | (intro z; refine kept_step (P := P) z ?_ ?_ <;> [unfold z; first | (intro w hw hz; rw [← hw]; clear hw z) | (intro w hw hz; rw [hw] at hz; clear hw w; clear_value z)])
    | lift_lets -underBinder
    | with_reducible refine kept_ite ?_ ?_
    | split

theorem execHandoffTimeout_kept {P : Kept → Prop} (t : ℕ) (s : State) (h_s : P s.kept) : NextKept P (execHandoffTimeout t s) := by
  unfold execHandoffTimeout
  repeat' first
    | with_reducible assumption
    | with_reducible refine next_kept ?_
    | with_reducible apply State_upto_kept
    | with_reducible apply reclaim_kept
    | lift_lets -underBinder
    | split

theorem execAckResend_kept {P : Kept → Prop} (t : ℕ) (s : State) (h_s : P s.kept) : NextKept P (execAckResend t s) := by
  unfold execAckResend
  repeat' first
    | with_reducible assumption
    | with_reducible refine next_kept ?_
    | with_reducible apply State_upto_kept
    | with_reducible apply sendMsg_kept
    | with_reducible apply putLedger_kept
    | lift_lets -underBinder
    | split

theorem execGiveupTimeout_kept {P : Kept → Prop} (hP : MemClosed P) (t : ℕ) (s : State) (h_s : P s.kept) : NextKept P (execGiveupTimeout t s) := by
  unfold execGiveupTimeout
  repeat' first
    | with_reducible assumption
    | with_reducible refine next_kept ?_
    | with_reducible apply State_upto_kept
    | with_reducible apply dropStaged_kept
    | lift_lets -underBinder
    | split

theorem execGoneExpiry_kept {P : Kept → Prop} (t : ℕ) (s : State) (h_s : P s.kept) : NextKept P (execGoneExpiry t s) := by
  unfold execGoneExpiry
  repeat' first
    | with_reducible assumption
    | with_reducible refine next_kept ?_
    | with_reducible apply State_upto_kept
    | with_reducible apply putLedger_kept
    | lift_lets -underBinder
    | split

theorem execLogRoom_kept {P : Kept → Prop} (t : ℕ) (s : State) (h_s : P s.kept) : NextKept P (execLogRoom t s) := by
  unfold execLogRoom
  repeat' first
    | with_reducible assumption
    | with_reducible refine next_kept ?_
    | with_reducible apply State_upto_kept
    | (intro z; refine value_step z ?_; intro w hw; (try rw [← hw]); clear hw z)
    | lift_lets -underBinder
    | split
    | (fail_if_no_progress (with_reducible refine kept_rec0 ?_))

end Sys2Proof.Machine
end

