-- ==== Sys2Proof/Laws/KeptPorts.lean ====
section
/-! SUPPORT. What the operations of Ports.lean keep of the queue and the memory, one lemma each. -/

set_option maxRecDepth 100000
set_option linter.all false

namespace Sys2Proof.Machine

open Sys2Proof

theorem setLink_kept {P : Kept → Prop} (s : State) (p : ℕ) (l : ℕ) (f : Link → Link) (h_s : P s.kept) : P (setLink s p l f).kept := by
  unfold setLink
  repeat' first
    | with_reducible assumption
    | (intro z; refine value_step z ?_; intro w hw; (try rw [← hw]); clear hw z)
    | lift_lets -underBinder
    | (fail_if_no_progress (with_reducible refine kept_rec0 ?_))

theorem takeLimits_kept {P : Kept → Prop} (s : State) (p : ℕ) (h_s : P s.kept) : P (takeLimits s p).kept := by
  unfold takeLimits
  repeat' first
    | with_reducible assumption
    | (intro (z : List _); refine value_step z ?_; intro w hw; (try rw [← hw]); clear hw z)
    | (intro (z : _ → _); subst z)
    | (intro z; refine value_step z ?_; intro w hw; (try rw [← hw]); clear hw z)
    | lift_lets -underBinder
    | (fail_if_no_progress (with_reducible refine kept_rec0 ?_))

theorem tryInit_kept {P : Kept → Prop} (s : State) (p : ℕ) (h_s : P s.kept) : P (tryInit s p).kept := by
  unfold tryInit
  repeat' first
    | with_reducible assumption
    | with_reducible apply State_set_kept
    | lift_lets -underBinder
    | with_reducible refine kept_ite ?_ ?_

theorem tryLinking_kept {P : Kept → Prop} (s : State) (p : ℕ) (h_s : P s.kept) : P (tryLinking s p).kept := by
  unfold tryLinking
  repeat' first
    | with_reducible assumption
    | with_reducible apply setPort_kept
    | with_reducible apply takeLimits_kept
    | with_reducible apply tryInit_kept
    | with_reducible apply State_set_kept
    | (intro z; refine kept_step (P := P) z ?_ ?_ <;> [unfold z; first | (intro w hw hz; rw [← hw]; clear hw z) | (intro w hw hz; rw [hw] at hz; clear hw w; clear_value z)])
    | lift_lets -underBinder
    | with_reducible refine kept_ite ?_ ?_

theorem lightLink_kept {P : Kept → Prop} (s : State) (p : ℕ) (l : ℕ) (h_s : P s.kept) : P (lightLink s p l).kept := by
  unfold lightLink
  repeat' first
    | with_reducible assumption
    | with_reducible apply State_set_kept
    | with_reducible refine kept_ite ?_ ?_

theorem lightPort_kept {P : Kept → Prop} (s : State) (p : ℕ) (h_s : P s.kept) : P (lightPort s p).kept := by
  unfold lightPort
  repeat' first
    | with_reducible assumption
    | with_reducible apply tryLinking_kept
    | with_reducible apply lightLink_kept
    | lift_lets -underBinder
    | (with_reducible apply kept_foldl <;> intros)

theorem pruneEntry_kept {P : Kept → Prop} (p : ℕ) (s : State) (e : Entry) (h_s : P s.kept) : P (pruneEntry p s e).kept := by
  unfold pruneEntry
  repeat' first
    | with_reducible assumption
    | with_reducible apply putEntry_kept
    | with_reducible apply dropEntry_kept
    | with_reducible apply putFlight_kept
    | (intro z; refine kept_step (P := P) z ?_ ?_ <;> [unfold z; first | (intro w hw hz; rw [← hw]; clear hw z) | (intro w hw hz; rw [hw] at hz; clear hw w; clear_value z)])
    | (intro (z : List _); refine value_step z ?_; intro w hw; (try rw [← hw]); clear hw z)
    | (intro (z : _ → _); subst z)
    | lift_lets -underBinder
    | with_reducible refine kept_ite ?_ ?_
    | split

theorem outLost_kept {P : Kept → Prop} (s : State) (o : OutReq) (h_s : P s.kept) : P (outLost s o).kept := by
  unfold outLost
  repeat' first
    | with_reducible assumption
    | with_reducible apply putJob_kept
    | with_reducible apply finishJob_kept
    | lift_lets -underBinder
    | with_reducible refine kept_ite ?_ ?_
    | split

theorem dropPortSharers_kept {P : Kept → Prop} (s : State) (p : ℕ) (h_s : P s.kept) : P (dropPortSharers s p).kept := by
  unfold dropPortSharers
  repeat' first
    | with_reducible assumption
    | (intro (z : _ → _); subst z)
    | (intro z; refine value_step z ?_; intro w hw; (try rw [← hw]); clear hw z)
    | lift_lets -underBinder
    | (fail_if_no_progress (with_reducible refine kept_rec0 ?_))

theorem settlePort_kept {P : Kept → Prop} (hP : MemClosed P) (s : State) (p : ℕ) (h_s : P s.kept) : P (settlePort s p).kept := by
  unfold settlePort
  repeat' first
    | with_reducible assumption
    | with_reducible apply dropFlight_kept
    | with_reducible apply dropWaiter_kept
    | with_reducible apply pruneEntry_kept
    | with_reducible apply dropPortSharers_kept
    | with_reducible apply outLost_kept
    | with_reducible apply enterDraining_kept
    | with_reducible apply wake_kept
    | (intro z; refine value_step z ?_; intro w hw; (try rw [← hw]); clear hw z)
    | lift_lets -underBinder
    | (with_reducible apply kept_foldl <;> intros)
    | (fail_if_no_progress (with_reducible refine kept_rec0 ?_))

theorem turnKeys_kept {P : Kept → Prop} (s : State) (p : ℕ) (h_s : P s.kept) : P (turnKeys s p).kept := by
  unfold turnKeys
  repeat' first
    | with_reducible assumption
    | with_reducible apply State_set_kept
    | with_reducible apply setLink_kept
    | (intro z; refine value_step z ?_; intro w hw; (try rw [← hw]); clear hw z)
    | lift_lets -underBinder
    | split
    | (with_reducible apply kept_foldl <;> intros)
    | (fail_if_no_progress (with_reducible refine kept_rec0 ?_))

theorem goDown_kept {P : Kept → Prop} (hP : MemClosed P) (s : State) (p : ℕ) (reason : ℕ) (send : Bool) (h_s : P s.kept) : P (goDown s p reason send).kept := by
  unfold goDown
  repeat' first
    | with_reducible assumption
    | with_reducible apply State_set_kept
    | with_reducible apply setPort_kept
    | with_reducible apply State_emit_kept
    | with_reducible apply State_setFlag_kept
    | with_reducible apply settlePort_kept
    | with_reducible apply turnKeys_kept
    | (intro z; refine kept_step (P := P) z ?_ ?_ <;> [unfold z; first | (intro w hw hz; rw [← hw]; clear hw z) | (intro w hw hz; rw [hw] at hz; clear hw w; clear_value z)])
    | lift_lets -underBinder
    | with_reducible refine kept_ite ?_ ?_

theorem leaveSet_kept {P : Kept → Prop} (hP : MemClosed P) (s : State) (p : ℕ) (l : ℕ) (h_s : P s.kept) : P (leaveSet s p l).kept := by
  unfold leaveSet
  repeat' first
    | with_reducible assumption
    | with_reducible apply State_emit_kept
    | with_reducible apply State_set_kept
    | with_reducible apply goDown_kept
    | (intro z; refine kept_step (P := P) z ?_ ?_ <;> [unfold z; first | (intro w hw hz; rw [← hw]; clear hw z) | (intro w hw hz; rw [hw] at hz; clear hw w; clear_value z)])
    | (intro z; refine value_step z ?_; intro w hw; (try rw [← hw]); clear hw z)
    | lift_lets -underBinder
    | with_reducible refine kept_ite ?_ ?_

theorem joinSet_kept {P : Kept → Prop} (s : State) (p : ℕ) (l : ℕ) (h_s : P s.kept) : P (joinSet s p l).kept := by
  unfold joinSet
  repeat' first
    | with_reducible assumption
    | with_reducible apply State_set_kept
    | with_reducible apply State_setFlag_kept
    | with_reducible apply tryInit_kept
    | lift_lets -underBinder
    | with_reducible refine kept_ite ?_ ?_

theorem setLinkSt_kept {P : Kept → Prop} (s : State) (p : ℕ) (l : ℕ) (v : ℕ) (h_s : P s.kept) : P (setLinkSt s p l v).kept := by
  unfold setLinkSt
  repeat' first
    | with_reducible assumption
    | with_reducible apply State_set_kept

theorem linkOut_kept {P : Kept → Prop} (hP : MemClosed P) (s : State) (p : ℕ) (l : ℕ) (v : ℕ) (reason : ℕ) (h_s : P s.kept) : P (linkOut s p l v reason).kept := by
  unfold linkOut
  repeat' first
    | with_reducible assumption
    | with_reducible apply leaveSet_kept
    | with_reducible apply State_set_kept
    | with_reducible apply setLinkSt_kept

theorem linkTrain_kept {P : Kept → Prop} (hP : MemClosed P) (s : State) (p : ℕ) (l : ℕ) (reason : ℕ) (retrain : Bool) (h_s : P s.kept) : P (linkTrain s p l reason retrain).kept := by
  unfold linkTrain
  repeat' first
    | with_reducible assumption
    | with_reducible apply setLink_kept
    | with_reducible apply linkOut_kept

theorem linkFault_kept {P : Kept → Prop} (hP : MemClosed P) (s : State) (p : ℕ) (l : ℕ) (cause : ℕ) (h_s : P s.kept) : P (linkFault s p l cause).kept := by
  unfold linkFault
  repeat' first
    | with_reducible assumption
    | with_reducible apply noteFault_kept
    | with_reducible apply linkTrain_kept
    | with_reducible apply linkOut_kept
    | lift_lets -underBinder
    | with_reducible refine kept_ite ?_ ?_
    | split
    | refine kept_snd (by with_reducible assumption) ?_

theorem laserFail_kept {P : Kept → Prop} (hP : MemClosed P) (s : State) (m : ℕ) (h_s : P s.kept) : P (laserFail s m).kept := by
  unfold laserFail
  repeat' first
    | with_reducible assumption
    | with_reducible apply State_set_kept
    | with_reducible apply State_emit_kept
    | with_reducible apply linkFault_kept
    | with_reducible apply linkOut_kept
    | (intro z; refine kept_step (P := P) z ?_ ?_ <;> [unfold z; first | (intro w hw hz; rw [← hw]; clear hw z) | (intro w hw hz; rw [hw] at hz; clear hw w; clear_value z)])
    | (intro (z : Nat); refine value_step z ?_; intro w hw; (try rw [← hw]); clear hw z)
    | (intro z; refine value_step z ?_; intro w hw; (try rw [← hw]); clear hw z)
    | lift_lets -underBinder
    | (with_reducible apply kept_foldl <;> intros)
    | (fail_if_no_progress (with_reducible refine kept_rec0 ?_))

theorem enablePort_kept {P : Kept → Prop} (hP : MemClosed P) (s : State) (p : ℕ) (en : Bool) (h_s : P s.kept) : P (enablePort s p en).kept := by
  unfold enablePort
  repeat' first
    | with_reducible assumption
    | with_reducible apply State_setFlag_kept
    | with_reducible apply lightPort_kept
    | with_reducible apply goDown_kept
    | with_reducible apply linkOut_kept
    | (intro z; refine kept_step (P := P) z ?_ ?_ <;> [unfold z; first | (intro w hw hz; rw [← hw]; clear hw z) | (intro w hw hz; rw [hw] at hz; clear hw w; clear_value z)])
    | (intro z; refine value_step z ?_; intro w hw; (try rw [← hw]); clear hw z)
    | lift_lets -underBinder
    | with_reducible refine kept_ite ?_ ?_
    | (with_reducible apply kept_foldl <;> intros)
    | (fail_if_no_progress (with_reducible refine kept_rec0 ?_))

theorem retireLink_kept {P : Kept → Prop} (hP : MemClosed P) (s : State) (p : ℕ) (l : ℕ) (h_s : P s.kept) : P (retireLink s p l).kept := by
  unfold retireLink
  repeat' first
    | with_reducible assumption
    | with_reducible apply State_setFlag_kept
    | with_reducible apply linkOut_kept
    | (intro z; refine kept_step (P := P) z ?_ ?_ <;> [unfold z; first | (intro w hw hz; rw [← hw]; clear hw z) | (intro w hw hz; rw [hw] at hz; clear hw w; clear_value z)])
    | lift_lets -underBinder
    | with_reducible refine kept_ite ?_ ?_

theorem returnLink_kept {P : Kept → Prop} (s : State) (p : ℕ) (l : ℕ) (h_s : P s.kept) : P (returnLink s p l).kept := by
  unfold returnLink
  repeat' first
    | with_reducible assumption
    | with_reducible apply tryLinking_kept
    | with_reducible apply State_set_kept
    | with_reducible apply State_setFlag_kept
    | (intro z; refine kept_step (P := P) z ?_ ?_ <;> [unfold z; first | (intro w hw hz; rw [← hw]; clear hw z) | (intro w hw hz; rw [hw] at hz; clear hw w; clear_value z)])
    | (intro z; refine value_step z ?_; intro w hw; (try rw [← hw]); clear hw z)
    | lift_lets -underBinder
    | with_reducible refine kept_ite ?_ ?_
    | (fail_if_no_progress (with_reducible refine kept_rec0 ?_))

theorem retrainLink_kept {P : Kept → Prop} (hP : MemClosed P) (s : State) (p : ℕ) (l : ℕ) (h_s : P s.kept) : P (retrainLink s p l).kept := by
  unfold retrainLink
  repeat' first
    | with_reducible assumption
    | with_reducible apply linkTrain_kept
    | with_reducible apply State_set_kept
    | with_reducible refine kept_ite ?_ ?_

end Sys2Proof.Machine
end

