-- ==== Sys2Proof/Laws/KeptLinks.lean ====
section
/-! SUPPORT. What the operations of Links.lean keep of the queue and the memory, one lemma each. -/

set_option maxRecDepth 100000
set_option linter.all false

namespace Sys2Proof.Machine

open Sys2Proof

theorem execLsmPresent_kept {P : Kept → Prop} (m : Fin 12) (x : Sys2Proof.Cmis) (t : ℕ) (s : State) (h_s : P s.kept) : NextKept P (execLsmPresent m x t s) := by
  unfold execLsmPresent
  repeat' first
    | with_reducible assumption
    | with_reducible refine next_kept ?_
    | with_reducible apply State_upto_kept
    | with_reducible apply State_setFlag_kept
    | with_reducible apply State_set_kept
    | (intro z; refine kept_step (P := P) z ?_ ?_ <;> [unfold z; first | (intro w hw hz; rw [← hw]; clear hw z) | (intro w hw hz; rw [hw] at hz; clear hw w; clear_value z)])
    | (intro z; refine value_step z ?_; intro w hw; (try rw [← hw]); clear hw z)
    | lift_lets -underBinder
    | with_reducible refine kept_ite ?_ ?_
    | (fail_if_no_progress (with_reducible refine kept_rec0 ?_))

theorem execLaserModuleReady_kept {P : Kept → Prop} (m : Fin 12) (t : ℕ) (s : State) (h_s : P s.kept) : NextKept P (execLaserModuleReady m t s) := by
  unfold execLaserModuleReady
  repeat' first
    | with_reducible assumption
    | with_reducible refine next_kept ?_
    | with_reducible apply State_upto_kept
    | with_reducible apply State_emit_kept
    | with_reducible apply State_set_kept
    | with_reducible apply lightPort_kept
    | (intro z; refine kept_step (P := P) z ?_ ?_ <;> [unfold z; first | (intro w hw hz; rw [← hw]; clear hw z) | (intro w hw hz; rw [hw] at hz; clear hw w; clear_value z)])
    | (intro z; refine value_step z ?_; intro w hw; (try rw [← hw]); clear hw z)
    | lift_lets -underBinder
    | with_reducible refine kept_ite ?_ ?_
    | (fail_if_no_progress (with_reducible refine kept_rec0 ?_))

theorem execLsmPoll_kept {P : Kept → Prop} (hP : MemClosed P) (m : Fin 12) (x : Sys2Proof.LsmReading) (t : ℕ) (s : State) (h_s : P s.kept) : NextKept P (execLsmPoll m x t s) := by
  unfold execLsmPoll
  repeat' first
    | with_reducible assumption
    | with_reducible refine next_kept ?_
    | with_reducible apply State_upto_kept
    | with_reducible apply State_setFlag_kept
    | with_reducible apply State_set_kept
    | with_reducible apply laserFail_kept
    | (intro z; refine kept_step (P := P) z ?_ ?_ <;> [unfold z; first | (intro w hw hz; rw [← hw]; clear hw z) | (intro w hw hz; rw [hw] at hz; clear hw w; clear_value z)])
    | (intro (z : Nat); refine value_step z ?_; intro w hw; (try rw [← hw]); clear hw z)
    | lift_lets -underBinder
    | with_reducible refine kept_ite ?_ ?_

theorem flitSeen_kept {P : Kept → Prop} (s : State) (p : ℕ) (l : ℕ) (h_s : P s.kept) : P (flitSeen s p l).kept := by
  unfold flitSeen
  repeat' first
    | with_reducible assumption
    | with_reducible apply setPort_kept
    | with_reducible apply setLink_kept

theorem execFlitReceive_kept {P : Kept → Prop} (p : Fin 6) (l : Fin 6) (corr : ℕ) (uncorr : ℕ) (b : List Sys2Proof.Byte) (t : ℕ) (s : State) (h_s : P s.kept) : NextKept P (execFlitReceive p l corr uncorr b t s) := by
  unfold execFlitReceive
  repeat' first
    | with_reducible assumption
    | with_reducible refine next_kept ?_
    | with_reducible apply State_upto_kept
    | with_reducible apply State_bumpSat_kept
    | with_reducible apply State_bump_kept
    | with_reducible apply State_emit_kept
    | with_reducible apply flitSeen_kept
    | with_reducible apply setLink_kept
    | (intro z; refine kept_step (P := P) z ?_ ?_ <;> [unfold z; first | (intro w hw hz; rw [← hw]; clear hw z) | (intro w hw hz; rw [hw] at hz; clear hw w; clear_value z)])
    | (intro (z : Nat); refine value_step z ?_; intro w hw; (try rw [← hw]); clear hw z)
    | (intro z; refine value_step z ?_; intro w hw; (try rw [← hw]); clear hw z)
    | lift_lets -underBinder
    | with_reducible refine kept_ite ?_ ?_

theorem tagFails_kept {P : Kept → Prop} (hP : MemClosed P) (s : State) (p : ℕ) (l : ℕ) (h_s : P s.kept) : P (tagFails s p l).kept := by
  unfold tagFails
  repeat' first
    | with_reducible assumption
    | with_reducible apply setLink_kept
    | with_reducible apply State_bumpSat_kept
    | with_reducible apply linkOut_kept
    | with_reducible apply postRas_kept
    | (intro z; refine kept_step (P := P) z ?_ ?_ <;> [unfold z; first | (intro w hw hz; rw [← hw]; clear hw z) | (intro w hw hz; rw [hw] at hz; clear hw w; clear_value z)])
    | (intro (z : List _); refine value_step z ?_; intro w hw; (try rw [← hw]); clear hw z)
    | lift_lets -underBinder
    | with_reducible refine kept_ite ?_ ?_

theorem replay_kept {P : Kept → Prop} (hP : MemClosed P) (s : State) (p : ℕ) (l : ℕ) (h_s : P s.kept) : P (replay s p l).kept := by
  unfold replay
  repeat' first
    | with_reducible assumption
    | with_reducible apply State_emit_kept
    | with_reducible apply State_bumpSat_kept
    | with_reducible apply setLink_kept
    | with_reducible apply linkTrain_kept
    | (intro z; refine kept_step (P := P) z ?_ ?_ <;> [unfold z; first | (intro w hw hz; rw [← hw]; clear hw z) | (intro w hw hz; rw [hw] at hz; clear hw w; clear_value z)])
    | (intro z; refine value_step z ?_; intro w hw; (try rw [← hw]); clear hw z)
    | lift_lets -underBinder
    | with_reducible refine kept_ite ?_ ?_

theorem execControlFlit_kept {P : Kept → Prop} (hP : MemClosed P) (p : Fin 6) (l : Fin 6) (x : Sys2Proof.CtlFlit) (t : ℕ) (s : State) (h_s : P s.kept) : NextKept P (execControlFlit p l x t s) := by
  unfold execControlFlit
  repeat' first
    | with_reducible assumption
    | with_reducible refine next_kept ?_
    | with_reducible apply State_upto_kept
    | with_reducible apply flitSeen_kept
    | with_reducible apply tagFails_kept
    | with_reducible apply setLink_kept
    | with_reducible apply setPort_kept
    | with_reducible apply replay_kept
    | with_reducible apply goDown_kept
    | (intro z; refine kept_step (P := P) z ?_ ?_ <;> [unfold z; first | (intro w hw hz; rw [← hw]; clear hw z) | (intro w hw hz; rw [hw] at hz; clear hw w; clear_value z)])
    | (intro (z : Nat); refine value_step z ?_; intro w hw; (try rw [← hw]); clear hw z)
    | lift_lets -underBinder
    | with_reducible refine kept_ite ?_ ?_

theorem execCryptoFrame_kept {P : Kept → Prop} (hP : MemClosed P) (p : Fin 6) (l : Fin 6) (x : Sys2Proof.Frame0) (t : ℕ) (s : State) (h_s : P s.kept) : NextKept P (execCryptoFrame p l x t s) := by
  unfold execCryptoFrame
  repeat' first
    | with_reducible assumption
    | with_reducible refine next_kept ?_
    | with_reducible apply State_upto_kept
    | with_reducible apply State_emit_kept
    | with_reducible apply tagFails_kept
    | with_reducible apply setLink_kept
    | with_reducible apply State_bump_kept
    | with_reducible apply setPort_kept
    | (intro z; refine kept_step (P := P) z ?_ ?_ <;> [unfold z; first | (intro w hw hz; rw [← hw]; clear hw z) | (intro w hw hz; rw [hw] at hz; clear hw w; clear_value z)])
    | lift_lets -underBinder
    | with_reducible refine kept_ite ?_ ?_

theorem execRekey_kept {P : Kept → Prop} (hP : MemClosed P) (p : Fin 6) (l : Fin 6) (counter : BitVec 63) (t : ℕ) (s : State) (h_s : P s.kept) : NextKept P (execRekey p l counter t s) := by
  unfold execRekey
  repeat' first
    | with_reducible assumption
    | with_reducible refine next_kept ?_
    | with_reducible apply State_upto_kept
    | with_reducible apply State_set_kept
    | with_reducible apply setLink_kept
    | with_reducible apply State_bump_kept
    | with_reducible apply leaveSet_kept
    | (intro z; refine kept_step (P := P) z ?_ ?_ <;> [unfold z; first | (intro w hw hz; rw [← hw]; clear hw z) | (intro w hw hz; rw [hw] at hz; clear hw w; clear_value z)])
    | (intro z; refine value_step z ?_; intro w hw; (try rw [← hw]); clear hw z)
    | lift_lets -underBinder
    | with_reducible refine kept_ite ?_ ?_

theorem execLinkLight_kept {P : Kept → Prop} (hP : MemClosed P) (p : Fin 6) (l : Fin 6) (t : ℕ) (s : State) (h_s : P s.kept) : NextKept P (execLinkLight p l t s) := by
  unfold execLinkLight
  repeat' first
    | with_reducible assumption
    | with_reducible refine next_kept ?_
    | with_reducible apply State_upto_kept
    | with_reducible apply linkTrain_kept
    | lift_lets -underBinder
    | with_reducible refine kept_ite ?_ ?_

theorem linkActive_kept {P : Kept → Prop} (s : State) (p : ℕ) (l : ℕ) (lanes : ℕ) (half : Bool) (h_s : P s.kept) : P (linkActive s p l lanes half).kept := by
  unfold linkActive
  repeat' first
    | with_reducible assumption
    | with_reducible apply setLinkSt_kept
    | with_reducible apply State_set_kept
    | with_reducible apply State_setFlag_kept
    | with_reducible apply joinSet_kept
    | with_reducible apply flitSeen_kept

theorem execLinkTrainingDone_kept {P : Kept → Prop} (p : Fin 6) (l : Fin 6) (t : ℕ) (s : State) (h_s : P s.kept) : NextKept P (execLinkTrainingDone p l t s) := by
  unfold execLinkTrainingDone
  repeat' first
    | with_reducible assumption
    | with_reducible refine next_kept ?_
    | with_reducible apply State_upto_kept
    | with_reducible apply linkActive_kept
    | (intro (z : Bool); refine value_step z ?_; intro w hw; (try rw [← hw]); clear hw z)
    | lift_lets -underBinder
    | with_reducible refine kept_ite ?_ ?_

theorem execLinkTrainTimeout_kept {P : Kept → Prop} (hP : MemClosed P) (p : Fin 6) (l : Fin 6) (lanes : Fin 16) (t : ℕ) (s : State) (h_s : P s.kept) : NextKept P (execLinkTrainTimeout p l lanes t s) := by
  unfold execLinkTrainTimeout
  repeat' first
    | with_reducible assumption
    | with_reducible refine next_kept ?_
    | with_reducible apply State_upto_kept
    | with_reducible apply linkActive_kept
    | with_reducible apply postRas_kept
    | with_reducible apply linkOut_kept
    | (intro z; refine kept_step (P := P) z ?_ ?_ <;> [unfold z; first | (intro w hw hz; rw [← hw]; clear hw z) | (intro w hw hz; rw [hw] at hz; clear hw w; clear_value z)])
    | lift_lets -underBinder
    | with_reducible refine kept_ite ?_ ?_

theorem execLaneLockLoss_kept {P : Kept → Prop} (hP : MemClosed P) (p : Fin 6) (l : Fin 6) (t : ℕ) (s : State) (h_s : P s.kept) : NextKept P (execLaneLockLoss p l t s) := by
  unfold execLaneLockLoss
  repeat' first
    | with_reducible assumption
    | with_reducible refine next_kept ?_
    | with_reducible apply State_upto_kept
    | with_reducible apply linkTrain_kept
    | lift_lets -underBinder
    | with_reducible refine kept_ite ?_ ?_

theorem execFlitSilence_kept {P : Kept → Prop} (hP : MemClosed P) (p : Fin 6) (l : Fin 6) (t : ℕ) (s : State) (h_s : P s.kept) : NextKept P (execFlitSilence p l t s) := by
  unfold execFlitSilence
  repeat' first
    | with_reducible assumption
    | with_reducible refine next_kept ?_
    | with_reducible apply State_upto_kept
    | with_reducible apply linkTrain_kept
    | lift_lets -underBinder
    | with_reducible refine kept_ite ?_ ?_

theorem execLinkHazeCheck_kept {P : Kept → Prop} (hP : MemClosed P) (p : Fin 6) (l : Fin 6) (median : ℕ) (peers : ℕ) (t : ℕ) (s : State) (h_s : P s.kept) : NextKept P (execLinkHazeCheck p l median peers t s) := by
  unfold execLinkHazeCheck
  repeat' first
    | with_reducible assumption
    | with_reducible refine next_kept ?_
    | with_reducible apply State_upto_kept
    | with_reducible apply setLink_kept
    | with_reducible apply hazeEvent_kept
    | with_reducible apply leaveSet_kept
    | with_reducible apply setLinkSt_kept
    | with_reducible apply joinSet_kept
    | (intro z; refine kept_step (P := P) z ?_ ?_ <;> [unfold z; first | (intro w hw hz; rw [← hw]; clear hw z) | (intro w hw hz; rw [hw] at hz; clear hw w; clear_value z)])
    | lift_lets -underBinder
    | with_reducible refine kept_ite ?_ ?_
    | split

theorem execPortInit_kept {P : Kept → Prop} (p : Fin 6) (x : Sys2Proof.InitData) (t : ℕ) (s : State) (h_s : P s.kept) : NextKept P (execPortInit p x t s) := by
  unfold execPortInit
  repeat' first
    | with_reducible assumption
    | with_reducible refine next_kept ?_
    | with_reducible apply State_upto_kept
    | with_reducible apply State_set_kept
    | with_reducible apply State_bump_kept
    | with_reducible apply setPort_kept
    | with_reducible apply State_emit_kept
    | (intro z; refine kept_step (P := P) z ?_ ?_ <;> [unfold z; first | (intro w hw hz; rw [← hw]; clear hw z) | (intro w hw hz; rw [hw] at hz; clear hw w; clear_value z)])
    | lift_lets -underBinder
    | with_reducible refine kept_ite ?_ ?_
    | split

theorem execPortSilence_kept {P : Kept → Prop} (hP : MemClosed P) (p : Fin 6) (t : ℕ) (s : State) (h_s : P s.kept) : NextKept P (execPortSilence p t s) := by
  unfold execPortSilence
  repeat' first
    | with_reducible assumption
    | with_reducible refine next_kept ?_
    | with_reducible apply State_upto_kept
    | with_reducible apply goDown_kept
    | lift_lets -underBinder
    | with_reducible refine kept_ite ?_ ?_

theorem execPortDown_kept {P : Kept → Prop} (hP : MemClosed P) (p : Fin 6) (t : ℕ) (s : State) (h_s : P s.kept) : NextKept P (execPortDown p t s) := by
  unfold execPortDown
  repeat' first
    | with_reducible assumption
    | with_reducible refine next_kept ?_
    | with_reducible apply State_upto_kept
    | with_reducible apply goDown_kept
    | lift_lets -underBinder
    | with_reducible refine kept_ite ?_ ?_
    | split

theorem execDownNoticeEnd_kept {P : Kept → Prop} (p : Fin 6) (t : ℕ) (s : State) (h_s : P s.kept) : NextKept P (execDownNoticeEnd p t s) := by
  unfold execDownNoticeEnd
  repeat' first
    | with_reducible assumption
    | with_reducible refine next_kept ?_
    | with_reducible apply State_upto_kept
    | with_reducible apply State_emit_kept
    | with_reducible apply setPort_kept
    | lift_lets -underBinder
    | with_reducible refine kept_ite ?_ ?_
    | split

theorem execPortFlushDone_kept {P : Kept → Prop} (p : Fin 6) (t : ℕ) (s : State) (h_s : P s.kept) : NextKept P (execPortFlushDone p t s) := by
  unfold execPortFlushDone
  repeat' first
    | with_reducible assumption
    | with_reducible refine next_kept ?_
    | with_reducible apply State_upto_kept
    | with_reducible apply tryLinking_kept
    | with_reducible apply State_setFlag_kept
    | lift_lets -underBinder
    | with_reducible refine kept_ite ?_ ?_

theorem execCxlMemRequest_kept {P : Kept → Prop} (hP : MemClosed P) (x : Sys2Proof.CxlMsg) (s : State) (h_s : P s.kept) : NextKept P (execCxlMemRequest x s) := by
  unfold execCxlMemRequest
  repeat' first
    | with_reducible assumption
    | with_reducible refine next_kept ?_
    | with_reducible apply State_upto_kept
    | with_reducible apply State_setFlag_kept
    | with_reducible apply arrive_kept
    | with_reducible apply evict_kept
    | with_reducible apply snoopAnswer_kept
    | with_reducible apply State_bumpSat_kept
    | (intro z; refine kept_step (P := P) z ?_ ?_ <;> [unfold z; first | (intro w hw hz; rw [← hw]; clear hw z) | (intro w hw hz; rw [hw] at hz; clear hw w; clear_value z)])
    | lift_lets -underBinder
    | with_reducible refine kept_ite ?_ ?_
    | split

theorem execBiConflict_kept {P : Kept → Prop} (p : Fin 6) (s : State) (h_s : P s.kept) : NextKept P (execBiConflict p s) := by
  unfold execBiConflict
  repeat' first
    | with_reducible assumption
    | with_reducible refine next_kept ?_
    | with_reducible apply State_emit_kept
    | lift_lets -underBinder
    | with_reducible refine kept_ite ?_ ?_

theorem mailbox_kept {P : Kept → Prop} (p : ℕ) (what : String) (code : ℕ) (data : List ℕ) (s : State) (h_s : P s.kept) : P (mailbox p what code data s).kept := by
  unfold mailbox
  repeat' first
    | with_reducible assumption
    | with_reducible apply State_emit_kept
    | with_reducible refine kept_ite ?_ ?_

theorem execIdentifyMemoryDevice_kept {P : Kept → Prop} (p : Fin 6) (s : State) (h_s : P s.kept) : NextKept P (execIdentifyMemoryDevice p s) := by
  unfold execIdentifyMemoryDevice
  repeat' first
    | with_reducible assumption
    | with_reducible refine next_kept ?_
    | with_reducible apply mailbox_kept

theorem execGetPartitionInfo_kept {P : Kept → Prop} (p : Fin 6) (s : State) (h_s : P s.kept) : NextKept P (execGetPartitionInfo p s) := by
  unfold execGetPartitionInfo
  repeat' first
    | with_reducible assumption
    | with_reducible refine next_kept ?_
    | with_reducible apply mailbox_kept

theorem freeField_kept {P : Kept → Prop} (s : State) (k : ℕ) (h_s : P s.kept) : P (freeField s k).2.kept := by
  unfold freeField
  repeat' first
    | with_reducible assumption
    | (fail_if_no_progress (with_reducible refine kept_rec0 ?_))

theorem execGetHealthInfo_kept {P : Kept → Prop} (p : Fin 6) (s : State) (h_s : P s.kept) : NextKept P (execGetHealthInfo p s) := by
  unfold execGetHealthInfo
  repeat' first
    | with_reducible assumption
    | with_reducible refine next_kept ?_
    | with_reducible apply freeField_kept
    | with_reducible apply mailbox_kept

theorem execGetSupportedLogs_kept {P : Kept → Prop} (p : Fin 6) (s : State) (h_s : P s.kept) : NextKept P (execGetSupportedLogs p s) := by
  unfold execGetSupportedLogs
  repeat' first
    | with_reducible assumption
    | with_reducible refine next_kept ?_
    | with_reducible apply freeField_kept
    | with_reducible apply mailbox_kept

theorem execGetEventRecords_kept {P : Kept → Prop} (p : Fin 6) (s : State) (h_s : P s.kept) : NextKept P (execGetEventRecords p s) := by
  unfold execGetEventRecords
  repeat' first
    | with_reducible assumption
    | with_reducible refine next_kept ?_
    | with_reducible apply mailbox_kept

theorem execClearEventRecords_kept {P : Kept → Prop} (p : Fin 6) (s : State) (h_s : P s.kept) : NextKept P (execClearEventRecords p s) := by
  unfold execClearEventRecords
  repeat' first
    | with_reducible assumption
    | with_reducible refine next_kept ?_
    | with_reducible apply mailbox_kept
    | with_reducible apply setPort_kept
    | lift_lets -underBinder
    | with_reducible refine kept_ite ?_ ?_

theorem execCxlMailboxUnsupported_kept {P : Kept → Prop} (p : Fin 6) (op : BitVec 16) (s : State) (h_s : P s.kept) : NextKept P (execCxlMailboxUnsupported p op s) := by
  unfold execCxlMailboxUnsupported
  repeat' first
    | with_reducible assumption
    | with_reducible refine next_kept ?_
    | with_reducible apply mailbox_kept

end Sys2Proof.Machine
end

