-- ==== Sys2Proof/Laws/KeptScheduler.lean ====
section
/-! SUPPORT. What the operations of Scheduler.lean keep of the queue and the memory, one lemma each. -/

set_option maxRecDepth 100000
set_option linter.all false

namespace Sys2Proof.Machine

open Sys2Proof

theorem selectOne_kept {P : Kept → Prop} (hP : MemClosed P) (s : State) (p : ℕ) (h_s : P s.kept) : P (selectOne s p).kept := by
  unfold selectOne
  repeat' first
    | with_reducible assumption
    | with_reducible apply selectFlight_kept
    | (intro (z : _ → _); subst z)
    | (intro z; refine value_step z ?_; intro w hw; (try rw [← hw]); clear hw z)
    | lift_lets -underBinder
    | split
    | (fail_if_no_progress (with_reducible refine kept_rec0 ?_))
    | (dsimp -zeta only [id])

theorem execSchedulerSelect_kept {P : Kept → Prop} (hP : MemClosed P) (p : Fin 6) (t : ℕ) (s : State) (h_s : P s.kept) : NextKept P (execSchedulerSelect p t s) := by
  unfold execSchedulerSelect
  repeat' first
    | with_reducible assumption
    | with_reducible refine next_kept ?_
    | with_reducible apply State_upto_kept
    | with_reducible apply refreshTq_kept
    | with_reducible apply wake_kept
    | with_reducible apply selectOne_kept
    | with_reducible apply noteLanes_kept
    | lift_lets -underBinder
    | (with_reducible apply kept_foldl <;> intros)

theorem execSpillReadback_kept {P : Kept → Prop} (p : Fin 6) (g : Fin 8192) (t : ℕ) (s : State) (h_s : P s.kept) : NextKept P (execSpillReadback p g t s) := by
  unfold execSpillReadback
  repeat' first
    | with_reducible assumption
    | with_reducible refine next_kept ?_
    | with_reducible apply State_upto_kept
    | with_reducible apply noteLanes_kept
    | with_reducible apply putFlight_kept
    | lift_lets -underBinder
    | split

theorem forceTq_kept {P : Kept → Prop} (s : State) (p : ℕ) (t : ℕ) (c0 : ℕ) (c1 : ℕ) (h_s : P s.kept) : P (forceTq s p t c0 c1).kept := by
  unfold forceTq
  repeat' first
    | with_reducible assumption
    | with_reducible apply refreshTq_kept
    | with_reducible apply noteLanes_kept
    | with_reducible apply putTenant_kept

theorem installTq_kept {P : Kept → Prop} (s : State) (p : ℕ) (t : ℕ) (c0 : ℕ) (c1 : ℕ) (h_s : P s.kept) : P (installTq s p t c0 c1).2.kept := by
  unfold installTq
  repeat' first
    | with_reducible assumption
    | with_reducible apply forceTq_kept
    | (intro z; refine kept_step (P := P) z ?_ ?_ <;> [unfold z; first | (intro w hw hz; rw [← hw]; clear hw z) | (intro w hw hz; rw [hw] at hz; clear hw w; clear_value z)])
    | lift_lets -underBinder
    | split

theorem tqRead_kept {P : Kept → Prop} (s : State) (p : ℕ) (t : ℕ) (h_s : P s.kept) : P (tqRead s p t).kept := by
  unfold tqRead
  repeat' first
    | with_reducible assumption
    | with_reducible apply State_set_kept
    | with_reducible apply State_setFlag_kept
    | (intro z; refine kept_step (P := P) z ?_ ?_ <;> [unfold z; first | (intro w hw hz; rw [← hw]; clear hw z) | (intro w hw hz; rw [hw] at hz; clear hw w; clear_value z)])
    | (intro (z : List _); refine value_step z ?_; intro w hw; (try rw [← hw]); clear hw z)
    | (intro z; refine value_step z ?_; intro w hw; (try rw [← hw]); clear hw z)
    | lift_lets -underBinder
    | with_reducible refine kept_ite ?_ ?_

theorem tqWrite_kept {P : Kept → Prop} (s : State) (p : ℕ) (t : ℕ) (h_s : P s.kept) : P (tqWrite s p t).kept := by
  unfold tqWrite
  repeat' first
    | with_reducible assumption
    | with_reducible apply State_set_kept
    | with_reducible apply installTq_kept
    | (intro z; refine kept_step (P := P) z ?_ ?_ <;> [unfold z; first | (intro w hw hz; rw [← hw]; clear hw z) | (intro w hw hz; rw [hw] at hz; clear hw w; clear_value z)])
    | (intro (z : Nat); refine value_step z ?_; intro w hw; (try rw [← hw]); clear hw z)
    | lift_lets -underBinder
    | with_reducible refine kept_ite ?_ ?_

theorem limitsWrite_kept {P : Kept → Prop} (s : State) (p : ℕ) (v : ℕ) (h_s : P s.kept) : P (limitsWrite s p v).kept := by
  unfold limitsWrite
  repeat' first
    | with_reducible assumption
    | with_reducible apply State_set_kept
    | (intro (z : Nat); refine value_step z ?_; intro w hw; (try rw [← hw]); clear hw z)
    | lift_lets -underBinder
    | with_reducible refine kept_ite ?_ ?_

end Sys2Proof.Machine
end

