-- ==== Sys2Proof/Laws/KeptCompose.lean ====
section
/-! SUPPORT. What the operations of Compose.lean keep of the queue and the memory, one lemma each. -/

set_option maxRecDepth 100000
set_option linter.all false

namespace Sys2Proof.Machine

open Sys2Proof

theorem fetchRanges_kept {P : Kept → Prop} (hP : MemClosed P) (s : State) (j : Job) (unit : ℕ) (rs : List Range) (h_s : P s.kept) : P (fetchRanges s j unit rs).2.kept := by
  unfold fetchRanges
  repeat' first
    | with_reducible assumption
    | with_reducible apply prepare_kept
    | with_reducible apply finishJob_kept
    | with_reducible apply readVa_kept
    | lift_lets -underBinder
    | split
    | (with_reducible apply kept_foldl_snd <;> intros)
    | refine kept_snd (by with_reducible assumption) ?_

theorem showStaging_kept {P : Kept → Prop} (s : State) (owner : ℕ) (h_s : P s.kept) : P (showStaging s owner).kept := by
  unfold showStaging
  repeat' first
    | with_reducible assumption
    | with_reducible apply State_set_kept
    | with_reducible apply State_setFlag_kept

theorem dropStaging_kept {P : Kept → Prop} (s : State) (h_s : P s.kept) : P (dropStaging s).kept := by
  unfold dropStaging
  repeat' first
    | with_reducible assumption
    | with_reducible apply showStaging_kept
    | (intro z; refine value_step z ?_; intro w hw; (try rw [← hw]); clear hw z)
    | lift_lets -underBinder
    | (fail_if_no_progress (with_reducible refine kept_rec0 ?_))

theorem execCmpStage_kept {P : Kept → Prop} (hP : MemClosed P) (d : Sys2Proof.Desc) (s : State) (h_s : P s.kept) : NextKept P (execCmpStage d s) := by
  unfold execCmpStage
  repeat' first
    | with_reducible assumption
    | with_reducible refine next_kept ?_
    | with_reducible apply runDesc_kept
    | with_reducible apply putJob_kept
    | with_reducible apply fetchRanges_kept
    | with_reducible apply finishJob_kept
    | with_reducible apply dropStaging_kept
    | with_reducible apply showStaging_kept
    | (intro z; refine kept_step (P := P) z ?_ ?_ <;> [unfold z; first | (intro w hw hz; rw [← hw]; clear hw z) | (intro w hw hz; rw [hw] at hz; clear hw w; clear_value z)])
    | (intro (z : Nat); refine value_step z ?_; intro w hw; (try rw [← hw]); clear hw z)
    | (intro (z : List _); refine value_step z ?_; intro w hw; (try rw [← hw]); clear hw z)
    | (intro z; refine value_step z ?_; intro w hw; (try rw [← hw]); clear hw z)
    | intro _
    | lift_lets -underBinder
    | with_reducible refine kept_ite ?_ ?_
    | split
    | refine kept_snd (by with_reducible assumption) ?_
    | (fail_if_no_progress (with_reducible refine kept_rec0 ?_))

theorem execStageTimeout_kept {P : Kept → Prop} (t : ℕ) (s : State) (h_s : P s.kept) : NextKept P (execStageTimeout t s) := by
  unfold execStageTimeout
  repeat' first
    | with_reducible assumption
    | with_reducible refine next_kept ?_
    | with_reducible apply State_upto_kept
    | with_reducible apply dropStaging_kept
    | lift_lets -underBinder
    | with_reducible refine kept_ite ?_ ?_

theorem endLease_kept {P : Kept → Prop} (s : State) (h_s : P s.kept) : P (endLease s).kept := by
  unfold endLease
  repeat' first
    | with_reducible assumption
    | with_reducible apply postRas_kept
    | with_reducible apply State_setFlag_kept
    | (intro z; refine value_step z ?_; intro w hw; (try rw [← hw]); clear hw z)
    | lift_lets -underBinder
    | with_reducible refine kept_ite ?_ ?_
    | (fail_if_no_progress (with_reducible refine kept_rec0 ?_))

theorem heartbeat_kept {P : Kept → Prop} (s : State) (h_s : P s.kept) : P (heartbeat s).kept := by
  unfold heartbeat
  repeat' first
    | with_reducible assumption
    | with_reducible apply endLease_kept
    | (intro z; refine value_step z ?_; intro w hw; (try rw [← hw]); clear hw z)
    | lift_lets -underBinder
    | (fail_if_no_progress (with_reducible refine kept_rec0 ?_))

theorem showNode_kept {P : Kept → Prop} (s : State) (h_s : P s.kept) : P (showNode s).kept := by
  unfold showNode
  repeat' first
    | with_reducible assumption
    | with_reducible apply State_set_kept

theorem placeMap_kept {P : Kept → Prop} (hP : MemClosed P) (s : State) (m : CMap) (e : ℕ) (tell : Bool) (h_s : P s.kept) : P (placeMap s m e tell).kept := by
  unfold placeMap
  repeat' first
    | with_reducible assumption
    | with_reducible apply State_setFlag_kept
    | with_reducible apply State_set_kept
    | with_reducible apply showNode_kept
    | with_reducible apply forceTq_kept
    | with_reducible apply heartbeat_kept
    | with_reducible apply postRas_kept
    | with_reducible apply wake_kept
    | with_reducible apply goDown_kept
    | (intro z; refine value_step z ?_; intro w hw; (try rw [← hw]); clear hw z)
    | lift_lets -underBinder
    | split
    | (with_reducible apply kept_foldl <;> intros)
    | (fail_if_no_progress (with_reducible refine kept_rec0 ?_))

theorem installMap_kept {P : Kept → Prop} (hP : MemClosed P) (s : State) (m : CMap) (h_s : P s.kept) : P (installMap s m).kept := by
  unfold installMap
  repeat' first
    | with_reducible assumption
    | with_reducible apply placeMap_kept

theorem commitGo_kept {P : Kept → Prop} (hP : MemClosed P) (s : State) (j : Job) (m : CMap) (h_s : P s.kept) : P (commitGo s j m).kept := by
  unfold commitGo
  repeat' first
    | with_reducible assumption
    | with_reducible apply cutAll_kept
    | with_reducible apply putJob_kept
    | with_reducible apply dropStaging_kept
    | with_reducible apply installMap_kept
    | with_reducible apply finishJob_kept
    | (intro z; refine kept_step (P := P) z ?_ ?_ <;> [unfold z; first | (intro w hw hz; rw [← hw]; clear hw z) | (intro w hw hz; rw [hw] at hz; clear hw w; clear_value z)])
    | lift_lets -underBinder
    | with_reducible refine kept_ite ?_ ?_

theorem execCmpCommit_kept {P : Kept → Prop} (hP : MemClosed P) (d : Sys2Proof.Desc) (s : State) (h_s : P s.kept) : NextKept P (execCmpCommit d s) := by
  unfold execCmpCommit
  repeat' first
    | with_reducible assumption
    | with_reducible refine next_kept ?_
    | with_reducible apply runDesc_kept
    | with_reducible apply commitGo_kept
    | with_reducible apply finishJob_kept
    | with_reducible apply State_bumpSat_kept
    | with_reducible apply putJob_kept
    | with_reducible apply fetchRanges_kept
    | (intro z; refine kept_step (P := P) z ?_ ?_ <;> [unfold z; first | (intro w hw hz; rw [← hw]; clear hw z) | (intro w hw hz; rw [hw] at hz; clear hw w; clear_value z)])
    | (intro (z : Nat); refine value_step z ?_; intro w hw; (try rw [← hw]); clear hw z)
    | (intro (z : List _); refine value_step z ?_; intro w hw; (try rw [← hw]); clear hw z)
    | (intro z; refine value_step z ?_; intro w hw; (try rw [← hw]); clear hw z)
    | intro _
    | lift_lets -underBinder
    | with_reducible refine kept_ite ?_ ?_
    | split
    | refine kept_snd (by with_reducible assumption) ?_
    | (fail_if_no_progress (with_reducible refine kept_rec0 ?_))

theorem execMapPersist_kept {P : Kept → Prop} (t : ℕ) (s : State) (h_s : P s.kept) : NextKept P (execMapPersist t s) := by
  unfold execMapPersist
  repeat' first
    | with_reducible assumption
    | with_reducible refine next_kept ?_
    | with_reducible apply State_upto_kept
    | with_reducible apply State_setFlag_kept
    | (intro z; refine value_step z ?_; intro w hw; (try rw [← hw]); clear hw z)
    | lift_lets -underBinder
    | with_reducible refine kept_ite ?_ ?_
    | (fail_if_no_progress (with_reducible refine kept_rec0 ?_))

theorem execCmpEvents_kept {P : Kept → Prop} (hP : MemClosed P) (d : Sys2Proof.Desc) (s : State) (h_s : P s.kept) : NextKept P (execCmpEvents d s) := by
  unfold execCmpEvents
  repeat' first
    | with_reducible assumption
    | with_reducible refine next_kept ?_
    | with_reducible apply runDesc_kept
    | with_reducible apply prepare_kept
    | with_reducible apply finishJob_kept
    | with_reducible apply writeVa_kept
    | (intro (z : Nat); refine value_step z ?_; intro w hw; (try rw [← hw]); clear hw z)
    | (intro (z : List _); refine value_step z ?_; intro w hw; (try rw [← hw]); clear hw z)
    | (intro z; refine value_step z ?_; intro w hw; (try rw [← hw]); clear hw z)
    | intro _
    | lift_lets -underBinder
    | split
    | refine kept_snd (by with_reducible assumption) ?_

theorem execCmpLease_kept {P : Kept → Prop} (d : Sys2Proof.Desc) (s : State) (h_s : P s.kept) : NextKept P (execCmpLease d s) := by
  unfold execCmpLease
  repeat' first
    | with_reducible assumption
    | with_reducible refine next_kept ?_
    | with_reducible apply runDesc_kept
    | with_reducible apply finishJob_kept
    | with_reducible apply heartbeat_kept
    | (intro (z : Nat); refine value_step z ?_; intro w hw; (try rw [← hw]); clear hw z)
    | (intro (z : List _); refine value_step z ?_; intro w hw; (try rw [← hw]); clear hw z)
    | (intro z; refine value_step z ?_; intro w hw; (try rw [← hw]); clear hw z)
    | intro _
    | lift_lets -underBinder
    | with_reducible refine kept_ite ?_ ?_
    | (fail_if_no_progress (with_reducible refine kept_rec0 ?_))

theorem execManagerTimeout_kept {P : Kept → Prop} (t : ℕ) (s : State) (h_s : P s.kept) : NextKept P (execManagerTimeout t s) := by
  unfold execManagerTimeout
  repeat' first
    | with_reducible assumption
    | with_reducible refine next_kept ?_
    | with_reducible apply State_upto_kept
    | with_reducible apply postRas_kept
    | with_reducible apply State_setFlag_kept
    | (intro (z : Nat); refine value_step z ?_; intro w hw; (try rw [← hw]); clear hw z)
    | (intro (z : List _); refine value_step z ?_; intro w hw; (try rw [← hw]); clear hw z)
    | (intro z; refine value_step z ?_; intro w hw; (try rw [← hw]); clear hw z)
    | lift_lets -underBinder
    | with_reducible refine kept_ite ?_ ?_
    | (fail_if_no_progress (with_reducible refine kept_rec0 ?_))

theorem execLeaseLapse_kept {P : Kept → Prop} (hP : MemClosed P) (p : Fin 6) (q : Fin 256) (t : ℕ) (s : State) (h_s : P s.kept) : NextKept P (execLeaseLapse p q t s) := by
  unfold execLeaseLapse
  repeat' first
    | with_reducible assumption
    | with_reducible refine next_kept ?_
    | with_reducible apply State_upto_kept
    | with_reducible apply wake_kept
    | with_reducible apply postRas_kept
    | (intro z; refine kept_step (P := P) z ?_ ?_ <;> [unfold z; first | (intro w hw hz; rw [← hw]; clear hw z) | (intro w hw hz; rw [hw] at hz; clear hw w; clear_value z)])
    | (intro z; refine value_step z ?_; intro w hw; (try rw [← hw]); clear hw z)
    | lift_lets -underBinder
    | with_reducible refine kept_ite ?_ ?_
    | split
    | (fail_if_no_progress (with_reducible refine kept_rec0 ?_))

theorem settlePartner_kept {P : Kept → Prop} (hP : MemClosed P) (s : State) (p : ℕ) (q : ℕ) (h_s : P s.kept) : P (settlePartner s p q).kept := by
  unfold settlePartner
  repeat' first
    | with_reducible assumption
    | with_reducible apply dropFlight_kept
    | with_reducible apply dropWaiter_kept
    | with_reducible apply pruneEntry_kept
    | with_reducible apply wake_kept
    | with_reducible apply enterDraining_kept
    | lift_lets -underBinder
    | (with_reducible apply kept_foldl <;> intros)

theorem fenceGo_kept {P : Kept → Prop} (hP : MemClosed P) (s : State) (action : ℕ) (p : ℕ) (q : ℕ) (h_s : P s.kept) : P (fenceGo s action p q).kept := by
  unfold fenceGo
  repeat' first
    | with_reducible assumption
    | with_reducible apply settlePartner_kept
    | with_reducible apply goDown_kept
    | with_reducible apply State_setFlag_kept
    | with_reducible apply tryLinking_kept
    | (intro (z : Nat); refine value_step z ?_; intro w hw; (try rw [← hw]); clear hw z)
    | (intro z; refine value_step z ?_; intro w hw; (try rw [← hw]); clear hw z)
    | lift_lets -underBinder
    | split
    | (with_reducible apply kept_foldl <;> intros)
    | (fail_if_no_progress (with_reducible refine kept_rec0 ?_))

theorem execCmpFence_kept {P : Kept → Prop} (hP : MemClosed P) (d : Sys2Proof.Desc) (s : State) (h_s : P s.kept) : NextKept P (execCmpFence d s) := by
  unfold execCmpFence
  repeat' first
    | with_reducible assumption
    | with_reducible refine next_kept ?_
    | with_reducible apply runDesc_kept
    | with_reducible apply putJob_kept
    | with_reducible apply fetchRanges_kept
    | with_reducible apply finishJob_kept
    | with_reducible apply State_bumpSat_kept
    | with_reducible apply fenceGo_kept
    | with_reducible apply State_set_kept
    | with_reducible apply postRas_kept
    | (intro z; refine kept_step (P := P) z ?_ ?_ <;> [unfold z; first | (intro w hw hz; rw [← hw]; clear hw z) | (intro w hw hz; rw [hw] at hz; clear hw w; clear_value z)])
    | (intro (z : Nat); refine value_step z ?_; intro w hw; (try rw [← hw]); clear hw z)
    | (intro (z : List _); refine value_step z ?_; intro w hw; (try rw [← hw]); clear hw z)
    | (intro z; refine value_step z ?_; intro w hw; (try rw [← hw]); clear hw z)
    | intro _
    | lift_lets -underBinder
    | with_reducible refine kept_ite ?_ ?_
    | split
    | refine kept_snd (by with_reducible assumption) ?_
    | (fail_if_no_progress (with_reducible refine kept_rec0 ?_))

end Sys2Proof.Machine
end

