-- ==== Sys2Proof/Laws/KeptRepair.lean ====
section
/-! SUPPORT. What the operations of Repair.lean keep of the queue and the memory, one lemma each. -/

set_option maxRecDepth 100000
set_option linter.all false

namespace Sys2Proof.Machine

open Sys2Proof

theorem setEngine_kept {P : Kept → Prop} (s : State) (e : ℕ) (v : ℕ) (h_s : P s.kept) : P (setEngine s e v).kept := by
  unfold setEngine
  repeat' first
    | with_reducible assumption
    | with_reducible apply State_set_kept
    | split

theorem moveWork_kept {P : Kept → Prop} (s : State) (e : ℕ) (h_s : P s.kept) : P (moveWork s e).kept := by
  unfold moveWork
  repeat' first
    | with_reducible assumption
    | with_reducible apply State_bumpSat_kept
    | (intro z; refine kept_step (P := P) z ?_ ?_ <;> [unfold z; first | (intro w hw hz; rw [← hw]; clear hw z) | (intro w hw hz; rw [hw] at hz; clear hw w; clear_value z)])
    | (intro (z : Nat); refine value_step z ?_; intro w hw; (try rw [← hw]); clear hw z)
    | (intro (z : List _); refine value_step z ?_; intro w hw; (try rw [← hw]); clear hw z)
    | (intro (z : _ → _); subst z)
    | (intro z; refine value_step z ?_; intro w hw; (try rw [← hw]); clear hw z)
    | lift_lets -underBinder
    | with_reducible refine kept_ite ?_ ?_
    | (fail_if_no_progress (with_reducible refine kept_rec0 ?_))

theorem hurtTile_kept {P : Kept → Prop} (s : State) (g : ℕ) (h_s : P s.kept) : P (hurtTile s g).kept := by
  unfold hurtTile
  repeat' first
    | with_reducible assumption
    | (intro (z : _ → _); subst z)
    | (intro z; refine value_step z ?_; intro w hw; (try rw [← hw]); clear hw z)
    | lift_lets -underBinder
    | (fail_if_no_progress (with_reducible refine kept_rec0 ?_))

theorem resetTile_kept {P : Kept → Prop} (s : State) (g : ℕ) (h_s : P s.kept) : P (resetTile s g).kept := by
  unfold resetTile
  repeat' first
    | with_reducible assumption
    | with_reducible apply putTile_kept
    | lift_lets -underBinder
    | (fail_if_no_progress (with_reducible refine kept_rec0 ?_))

theorem failStack_kept {P : Kept → Prop} (s : State) (m : ℕ) (h_s : P s.kept) : P (failStack s m).kept := by
  unfold failStack
  repeat' first
    | with_reducible assumption
    | with_reducible apply State_set_kept
    | with_reducible apply postFault_kept
    | (intro z; refine kept_step (P := P) z ?_ ?_ <;> [unfold z; first | (intro w hw hz; rw [← hw]; clear hw z) | (intro w hw hz; rw [hw] at hz; clear hw w; clear_value z)])
    | (intro (z : Store); subst z)
    | lift_lets -underBinder
    | (with_reducible apply kept_foldl <;> intros)
    | (fail_if_no_progress (with_reducible refine kept_rec ?_))

theorem addExtra_kept {P : Kept → Prop} (s : State) (n : ℕ) (d : ℤ) (h_s : P s.kept) : P (addExtra s n d).kept := by
  unfold addExtra
  repeat' first
    | with_reducible assumption
    | (intro (z : Nat); refine value_step z ?_; intro w hw; (try rw [← hw]); clear hw z)
    | (intro (z : Store); subst z)
    | lift_lets -underBinder
    | (fail_if_no_progress (with_reducible refine kept_rec ?_))

theorem evacCheck_kept {P : Kept → Prop} (s : State) (n : ℕ) (h_s : P s.kept) : P (evacCheck s n).kept := by
  unfold evacCheck
  repeat' first
    | with_reducible assumption
    | with_reducible apply setSectorState_kept
    | with_reducible apply addExtra_kept
    | with_reducible apply setHomeEntry_kept
    | with_reducible apply recovered_kept
    | (intro z; refine kept_step (P := P) z ?_ ?_ <;> [unfold z; first | (intro w hw hz; rw [← hw]; clear hw z) | (intro w hw hz; rw [hw] at hz; clear hw w; clear_value z)])
    | (intro (z : Nat); refine value_step z ?_; intro w hw; (try rw [← hw]); clear hw z)
    | (intro z; refine value_step z ?_; intro w hw; (try rw [← hw]); clear hw z)
    | lift_lets -underBinder
    | with_reducible refine kept_ite ?_ ?_
    | (fail_if_no_progress (with_reducible refine kept_rec0 ?_))

theorem showEvac_kept {P : Kept → Prop} (s : State) (n : ℕ) (h_s : P s.kept) : P (showEvac s n).kept := by
  unfold showEvac
  repeat' first
    | with_reducible assumption
    | with_reducible apply State_set_kept

theorem evacStart_kept {P : Kept → Prop} (s : State) (n : ℕ) (t : ℕ) (h_s : P s.kept) : P (evacStart s n t).kept := by
  unfold evacStart
  repeat' first
    | with_reducible assumption
    | with_reducible apply setSectorState_kept
    | with_reducible apply State_set_kept
    | with_reducible apply addExtra_kept
    | with_reducible apply evacCheck_kept
    | with_reducible apply showEvac_kept
    | (intro z; refine value_step z ?_; intro w hw; (try rw [← hw]); clear hw z)
    | lift_lets -underBinder
    | (fail_if_no_progress (with_reducible refine kept_rec0 ?_))

theorem stopSector_kept {P : Kept → Prop} (s : State) (n : ℕ) (h_s : P s.kept) : P (stopSector s n).kept := by
  unfold stopSector
  repeat' first
    | with_reducible assumption
    | with_reducible apply hurtTile_kept
    | with_reducible apply setEngine_kept
    | with_reducible apply moveWork_kept
    | (intro z; refine kept_step (P := P) z ?_ ?_ <;> [unfold z; first | (intro w hw hz; rw [← hw]; clear hw z) | (intro w hw hz; rw [hw] at hz; clear hw w; clear_value z)])
    | lift_lets -underBinder
    | (with_reducible apply kept_foldl <;> intros)

theorem dropLines_kept {P : Kept → Prop} (hP : MemClosed P) (s : State) (out : ℕ → Bool) (h_s : P s.kept) : P (dropLines s out).kept := by
  unfold dropLines
  repeat' first
    | with_reducible assumption
    | with_reducible apply resumeFlight_kept
    | (intro z; refine kept_step (P := P) z ?_ ?_ <;> [unfold z; first | (intro w hw hz; rw [← hw]; clear hw z) | (intro w hw hz; rw [hw] at hz; clear hw w; clear_value z)])
    | (intro (z : List _); refine value_step z ?_; intro w hw; (try rw [← hw]); clear hw z)
    | (intro z; refine value_step z ?_; intro w hw; (try rw [← hw]); clear hw z)
    | lift_lets -underBinder
    | split
    | (with_reducible apply kept_foldl <;> intros)
    | (fail_if_no_progress (with_reducible refine kept_rec0 ?_))

theorem retireSector_kept {P : Kept → Prop} (hP : MemClosed P) (s : State) (n : ℕ) (h_s : P s.kept) : P (retireSector s n).kept := by
  unfold retireSector
  repeat' first
    | with_reducible assumption
    | with_reducible apply setSectorState_kept
    | with_reducible apply setHomeEntry_kept
    | with_reducible apply dropTlb_kept
    | with_reducible apply stopSector_kept
    | with_reducible apply installMap_kept
    | with_reducible apply wake_kept
    | with_reducible apply dropLines_kept
    | (intro z; refine value_step z ?_; intro w hw; (try rw [← hw]); clear hw z)
    | lift_lets -underBinder
    | exact hP.filter _ _ _ (by assumption)

theorem sectorFault_kept {P : Kept → Prop} (hP : MemClosed P) (s : State) (n : ℕ) (cause : ℕ) (h_s : P s.kept) : P (sectorFault s n cause).kept := by
  unfold sectorFault
  repeat' first
    | with_reducible assumption
    | with_reducible apply noteFault_kept
    | with_reducible apply stopSector_kept
    | with_reducible apply evacStart_kept
    | with_reducible apply dropRecovery_kept
    | with_reducible apply retireSector_kept
    | with_reducible apply evacCheck_kept
    | with_reducible apply showEvac_kept
    | with_reducible apply setSectorState_kept
    | (intro z; refine kept_step (P := P) z ?_ ?_ <;> [unfold z; first | (intro w hw hz; rw [← hw]; clear hw z) | (intro w hw hz; rw [hw] at hz; clear hw w; clear_value z)])
    | (intro (z : Nat); refine value_step z ?_; intro w hw; (try rw [← hw]); clear hw z)
    | (intro z; refine value_step z ?_; intro w hw; (try rw [← hw]); clear hw z)
    | lift_lets -underBinder
    | with_reducible refine kept_ite ?_ ?_
    | split
    | refine kept_snd (by with_reducible assumption) ?_
    | (fail_if_no_progress (with_reducible refine kept_rec0 ?_))

theorem relaySmalls_kept {P : Kept → Prop} (n : ℕ) (p : ℕ) (z2 : List Small) (z3 : List (ℕ × ℕ)) (z4 : State) (h_z4 : P z4.kept) : SomeKept P (relaySmalls n p z2 z3 z4) := by
  induction z2 generalizing z3 z4 with
  | nil => unfold relaySmalls; first | exact some_kept (by assumption)
  | cons a t ih =>
    unfold relaySmalls
    repeat' first
      | with_reducible assumption
      | with_reducible refine none_kept
      | with_reducible apply State_putPage_kept
      | with_reducible apply placeGranule_kept
      | with_reducible apply takeFrame_kept
      | with_reducible apply ih
      | (intro (z : _ → _); subst z)
      | lift_lets -underBinder
      | split
      | refine kept_snd (by with_reducible assumption) ?_
      | (dsimp -zeta only [id])

theorem relayFar_kept {P : Kept → Prop} (n : ℕ) (p : ℕ) (z2 : List Granule) (z3 : State) (h_z3 : P z3.kept) : SomeKept P (relayFar n p z2 z3) := by
  induction z2 generalizing z3 with
  | nil => unfold relayFar; first | exact some_kept (by assumption)
  | cons a t ih =>
    unfold relayFar
    repeat' first
      | with_reducible assumption
      | with_reducible refine none_kept
      | with_reducible apply State_putPage_kept
      | with_reducible apply placeGranule_kept
      | with_reducible apply ih
      | (intro (z : _ → _); subst z)
      | lift_lets -underBinder
      | split
      | refine kept_snd (by with_reducible assumption) ?_
      | (dsimp -zeta only [id])

theorem relayPage_kept {P : Kept → Prop} (s : State) (n : ℕ) (p : ℕ) (e : Page) (h_s : P s.kept) : SomeKept P (relayPage s n p e) := by
  unfold relayPage
  repeat' first
    | with_reducible assumption
    | with_reducible refine none_kept
    | with_reducible refine some_kept ?_
    | with_reducible apply relaySmalls_kept
    | with_reducible apply State_putPage_kept
    | with_reducible apply takeFrame_kept
    | with_reducible apply relayFar_kept
    | lift_lets -underBinder
    | split
    | refine kept_snd (by with_reducible assumption) ?_

theorem execEvacPageMoved_kept {P : Kept → Prop} (hP : MemClosed P) (p : Fin 67108864) (t : ℕ) (s : State) (h_s : P s.kept) : NextKept P (execEvacPageMoved p t s) := by
  unfold execEvacPageMoved
  repeat' first
    | with_reducible assumption
    | with_reducible refine next_kept ?_
    | with_reducible apply State_upto_kept
    | with_reducible apply evacCheck_kept
    | with_reducible apply evictRange_kept
    | with_reducible apply writeBacks_kept
    | with_reducible apply relayPage_kept
    | with_reducible apply wake_kept
    | with_reducible apply showEvac_kept
    | with_reducible apply dropTlb_kept
    | (intro z; refine kept_step (P := P) z ?_ ?_ <;> [unfold z; first | (intro w hw hz; rw [← hw]; clear hw z) | (intro w hw hz; rw [hw] at hz; clear hw w; clear_value z)])
    | (intro (z : Nat); refine value_step z ?_; intro w hw; (try rw [← hw]); clear hw z)
    | (intro (z : List _); refine value_step z ?_; intro w hw; (try rw [← hw]); clear hw z)
    | (intro (z : Store); subst z)
    | (intro z; refine value_step z ?_; intro w hw; (try rw [← hw]); clear hw z)
    | lift_lets -underBinder
    | split
    | (with_reducible apply kept_foldl <;> intros)
    | refine kept_snd (by with_reducible assumption) ?_
    | refine of_some_kept (by with_reducible assumption) ?_
    | (fail_if_no_progress (with_reducible refine kept_rec ?_))

theorem execCmpSector_kept {P : Kept → Prop} (d : Sys2Proof.Desc) (s : State) (h_s : P s.kept) : NextKept P (execCmpSector d s) := by
  unfold execCmpSector
  repeat' first
    | with_reducible assumption
    | with_reducible refine next_kept ?_
    | with_reducible apply runDesc_kept
    | with_reducible apply finishJob_kept
    | with_reducible apply setSectorState_kept
    | with_reducible apply evacStart_kept
    | (intro (z : Nat); refine value_step z ?_; intro w hw; (try rw [← hw]); clear hw z)
    | (intro z; refine value_step z ?_; intro w hw; (try rw [← hw]); clear hw z)
    | intro _
    | lift_lets -underBinder
    | with_reducible refine kept_ite ?_ ?_
    | split
    | (fail_if_no_progress (with_reducible refine kept_rec0 ?_))

theorem execSectorPowerDown_kept {P : Kept → Prop} (hP : MemClosed P) (n : Fin 4) (t : ℕ) (s : State) (h_s : P s.kept) : NextKept P (execSectorPowerDown n t s) := by
  unfold execSectorPowerDown
  repeat' first
    | with_reducible assumption
    | with_reducible refine next_kept ?_
    | with_reducible apply State_upto_kept
    | with_reducible apply writeBacks_kept
    | with_reducible apply State_set_kept
    | with_reducible apply resetTile_kept
    | with_reducible apply setSectorState_kept
    | (intro z; refine kept_step (P := P) z ?_ ?_ <;> [unfold z; first | (intro w hw hz; rw [← hw]; clear hw z) | (intro w hw hz; rw [hw] at hz; clear hw w; clear_value z)])
    | (intro (z : _ → _); subst z)
    | lift_lets -underBinder
    | with_reducible refine kept_ite ?_ ?_
    | (with_reducible apply kept_foldl <;> intros)

theorem execSectorSelfTestDone_kept {P : Kept → Prop} (n : Fin 4) (passed : Bool) (t : ℕ) (s : State) (h_s : P s.kept) : NextKept P (execSectorSelfTestDone n passed t s) := by
  unfold execSectorSelfTestDone
  repeat' first
    | with_reducible assumption
    | with_reducible refine next_kept ?_
    | with_reducible apply State_upto_kept
    | with_reducible apply setSectorState_kept
    | with_reducible apply setEngine_kept
    | with_reducible apply addExtra_kept
    | with_reducible apply evacCheck_kept
    | with_reducible apply showEvac_kept
    | (intro z; refine kept_step (P := P) z ?_ ?_ <;> [unfold z; first | (intro w hw hz; rw [← hw]; clear hw z) | (intro w hw hz; rw [hw] at hz; clear hw w; clear_value z)])
    | (intro (z : List _); refine value_step z ?_; intro w hw; (try rw [← hw]); clear hw z)
    | (intro z; refine value_step z ?_; intro w hw; (try rw [← hw]); clear hw z)
    | lift_lets -underBinder
    | with_reducible refine kept_ite ?_ ?_
    | (with_reducible apply kept_foldl <;> intros)
    | (fail_if_no_progress (with_reducible refine kept_rec0 ?_))

theorem channelFault_kept {P : Kept → Prop} (s : State) (d : ℕ) (cause : ℕ) (h_s : P s.kept) : P (channelFault s d cause).kept := by
  unfold channelFault
  repeat' first
    | with_reducible assumption
    | with_reducible apply deadChannel_kept
    | with_reducible apply noteFault_kept
    | with_reducible apply farCheck_kept
    | with_reducible apply State_set_kept
    | with_reducible apply failChannel_kept
    | lift_lets -underBinder
    | with_reducible refine kept_ite ?_ ?_
    | split
    | refine kept_snd (by with_reducible assumption) ?_

theorem stackFault_kept {P : Kept → Prop} (s : State) (m : ℕ) (cause : ℕ) (h_s : P s.kept) : P (stackFault s m cause).kept := by
  unfold stackFault
  repeat' first
    | with_reducible assumption
    | with_reducible apply noteFault_kept
    | with_reducible apply failStack_kept
    | (intro (z : Nat); refine value_step z ?_; intro w hw; (try rw [← hw]); clear hw z)
    | lift_lets -underBinder
    | with_reducible refine kept_ite ?_ ?_
    | split
    | refine kept_snd (by with_reducible assumption) ?_

theorem portFault_kept {P : Kept → Prop} (hP : MemClosed P) (s : State) (p : ℕ) (cause : ℕ) (h_s : P s.kept) : P (portFault s p cause).kept := by
  unfold portFault
  repeat' first
    | with_reducible assumption
    | with_reducible apply goDown_kept
    | with_reducible apply noteFault_kept

theorem tileFault_kept {P : Kept → Prop} (s : State) (g : ℕ) (cause : ℕ) (h_s : P s.kept) : P (tileFault s g cause).kept := by
  unfold tileFault
  repeat' first
    | with_reducible assumption
    | with_reducible apply noteFault_kept
    | with_reducible apply hurtTile_kept
    | with_reducible apply State_setFlag_kept
    | lift_lets -underBinder
    | split
    | refine kept_snd (by with_reducible assumption) ?_

theorem engineFault_kept {P : Kept → Prop} (s : State) (e : ℕ) (cause : ℕ) (h_s : P s.kept) : P (engineFault s e cause).kept := by
  unfold engineFault
  repeat' first
    | with_reducible assumption
    | with_reducible apply moveWork_kept
    | with_reducible apply setEngine_kept
    | with_reducible apply noteFault_kept

theorem domainFaulted_kept {P : Kept → Prop} (hP : MemClosed P) (s : State) (ty : Sys2Proof.DomType) (inst : ℕ) (cause : ℕ) (h_s : P s.kept) : P (domainFaulted s ty inst cause).kept := by
  unfold domainFaulted
  repeat' first
    | with_reducible assumption
    | with_reducible apply channelFault_kept
    | with_reducible apply stackFault_kept
    | with_reducible apply linkFault_kept
    | with_reducible apply portFault_kept
    | with_reducible apply tileFault_kept
    | with_reducible apply engineFault_kept
    | with_reducible apply sectorFault_kept
    | split

theorem execDomainFault_kept {P : Kept → Prop} (hP : MemClosed P) (ty : Sys2Proof.DomType) (inst : Fin 256) (cause : Fin 16) (t : ℕ) (s : State) (h_s : P s.kept) : NextKept P (execDomainFault ty inst cause t s) := by
  unfold execDomainFault
  repeat' first
    | with_reducible assumption
    | with_reducible refine next_kept ?_
    | with_reducible apply State_upto_kept
    | with_reducible apply wake_kept
    | with_reducible apply domainFaulted_kept
    | lift_lets -underBinder
    | with_reducible refine kept_ite ?_ ?_

theorem backInService_kept {P : Kept → Prop} (hP : MemClosed P) (s : State) (ty : Sys2Proof.DomType) (i : ℕ) (soft : Bool) (h_s : P s.kept) : P (backInService s ty i soft).kept := by
  unfold backInService
  repeat' first
    | with_reducible assumption
    | with_reducible apply State_set_kept
    | with_reducible apply linkOut_kept
    | with_reducible apply goDown_kept
    | with_reducible apply State_setFlag_kept
    | with_reducible apply resetTile_kept
    | with_reducible apply setEngine_kept
    | with_reducible refine kept_ite ?_ ?_
    | split

theorem retiredState_kept {P : Kept → Prop} (hP : MemClosed P) (s : State) (ty : Sys2Proof.DomType) (i : ℕ) (h_s : P s.kept) : P (retiredState s ty i).kept := by
  unfold retiredState
  repeat' first
    | with_reducible assumption
    | with_reducible apply failChannel_kept
    | with_reducible apply failStack_kept
    | with_reducible apply linkOut_kept
    | with_reducible apply goDown_kept
    | with_reducible apply State_setFlag_kept
    | with_reducible apply setEngine_kept
    | with_reducible refine kept_ite ?_ ?_
    | split

theorem execDomainRecovered_kept {P : Kept → Prop} (hP : MemClosed P) (ty : Sys2Proof.DomType) (inst : Fin 256) (ok : Bool) (t : ℕ) (s : State) (h_s : P s.kept) : NextKept P (execDomainRecovered ty inst ok t s) := by
  unfold execDomainRecovered
  repeat' first
    | with_reducible assumption
    | with_reducible refine next_kept ?_
    | with_reducible apply State_upto_kept
    | with_reducible apply wake_kept
    | with_reducible apply retiredState_kept
    | with_reducible apply retired_kept
    | with_reducible apply backInService_kept
    | with_reducible apply recovered_kept
    | lift_lets -underBinder
    | with_reducible refine kept_ite ?_ ?_
    | split

theorem returnDomain_kept {P : Kept → Prop} (s : State) (ty : Sys2Proof.DomType) (i : ℕ) (h_s : P s.kept) : P (returnDomain s ty i).kept := by
  unfold returnDomain
  repeat' first
    | with_reducible assumption
    | with_reducible apply ddrReturn_kept
    | with_reducible apply State_set_kept
    | with_reducible apply returnLink_kept
    | with_reducible apply lightPort_kept
    | with_reducible apply State_setFlag_kept
    | with_reducible apply resetTile_kept
    | with_reducible apply setEngine_kept
    | (intro z; refine kept_step (P := P) z ?_ ?_ <;> [unfold z; first | (intro w hw hz; rw [← hw]; clear hw z) | (intro w hw hz; rw [hw] at hz; clear hw w; clear_value z)])
    | (intro (z : Bool); refine value_step z ?_; intro w hw; (try rw [← hw]); clear hw z)
    | (intro z; refine value_step z ?_; intro w hw; (try rw [← hw]); clear hw z)
    | lift_lets -underBinder
    | with_reducible refine kept_ite ?_ ?_
    | split
    | (fail_if_no_progress (with_reducible refine kept_rec0 ?_))

theorem execCmpDomain_kept {P : Kept → Prop} (hP : MemClosed P) (d : Sys2Proof.Desc) (s : State) (h_s : P s.kept) : NextKept P (execCmpDomain d s) := by
  unfold execCmpDomain
  repeat' first
    | with_reducible assumption
    | with_reducible refine next_kept ?_
    | with_reducible apply runDesc_kept
    | with_reducible apply finishJob_kept
    | with_reducible apply wake_kept
    | with_reducible apply returnDomain_kept
    | with_reducible apply domainFaulted_kept
    | (intro (z : Nat); refine value_step z ?_; intro w hw; (try rw [← hw]); clear hw z)
    | (intro z; refine value_step z ?_; intro w hw; (try rw [← hw]); clear hw z)
    | intro _
    | lift_lets -underBinder
    | with_reducible refine kept_ite ?_ ?_
    | split

theorem execUnitHazeCheck_kept {P : Kept → Prop} (isTile : Bool) (u : Fin 64) (median : ℕ) (peers : ℕ) (t : ℕ) (s : State) (h_s : P s.kept) : NextKept P (execUnitHazeCheck isTile u median peers t s) := by
  unfold execUnitHazeCheck
  repeat' first
    | with_reducible assumption
    | with_reducible refine next_kept ?_
    | with_reducible apply State_upto_kept
    | with_reducible apply hazeEvent_kept
    | with_reducible apply State_setFlag_kept
    | with_reducible apply setEngine_kept
    | (intro z; refine kept_step (P := P) z ?_ ?_ <;> [unfold z; first | (intro w hw hz; rw [← hw]; clear hw z) | (intro w hw hz; rw [hw] at hz; clear hw w; clear_value z)])
    | (intro z; refine value_step z ?_; intro w hw; (try rw [← hw]); clear hw z)
    | lift_lets -underBinder
    | with_reducible refine kept_ite ?_ ?_
    | split
    | (fail_if_no_progress (with_reducible refine kept_rec0 ?_))

theorem hazeAnew_kept {P : Kept → Prop} (s : State) (ty : Sys2Proof.DomType) (i : ℕ) (h_s : P s.kept) : P (hazeAnew s ty i).kept := by
  unfold hazeAnew
  repeat' first
    | with_reducible assumption
    | with_reducible apply setLink_kept
    | (intro (z : Store); subst z)
    | (intro z; refine value_step z ?_; intro w hw; (try rw [← hw]); clear hw z)
    | lift_lets -underBinder
    | split
    | (fail_if_no_progress (with_reducible refine kept_rec0 ?_))
    | (fail_if_no_progress (with_reducible refine kept_rec ?_))

theorem execHazeFailTimeout_kept {P : Kept → Prop} (hP : MemClosed P) (ty : Sys2Proof.DomType) (inst : Fin 256) (t : ℕ) (s : State) (h_s : P s.kept) : NextKept P (execHazeFailTimeout ty inst t s) := by
  unfold execHazeFailTimeout
  repeat' first
    | with_reducible assumption
    | with_reducible refine next_kept ?_
    | with_reducible apply State_upto_kept
    | with_reducible apply wake_kept
    | with_reducible apply domainFaulted_kept
    | with_reducible apply hazeAnew_kept
    | lift_lets -underBinder
    | with_reducible refine kept_ite ?_ ?_

theorem fwEvent_kept {P : Kept → Prop} (s : State) (bank : ℕ) (what : ℕ) (h_s : P s.kept) : P (fwEvent s bank what).kept := by
  unfold fwEvent
  repeat' first
    | with_reducible assumption
    | with_reducible apply postRas_kept

theorem setStage_kept {P : Kept → Prop} (s : State) (v : ℕ) (h_s : P s.kept) : P (setStage s v).kept := by
  unfold setStage
  repeat' first
    | with_reducible assumption
    | with_reducible apply raiseIrq_kept
    | with_reducible apply State_set_kept

theorem rollStart_kept {P : Kept → Prop} (s : State) (h_s : P s.kept) : P (rollStart s).kept := by
  unfold rollStart
  repeat' first
    | with_reducible assumption
    | with_reducible apply fwEvent_kept
    | with_reducible apply State_set_kept
    | with_reducible apply setStage_kept
    | (intro z; refine value_step z ?_; intro w hw; (try rw [← hw]); clear hw z)
    | lift_lets -underBinder
    | (fail_if_no_progress (with_reducible refine kept_rec0 ?_))

theorem execCmpFwActivate_kept {P : Kept → Prop} (d : Sys2Proof.Desc) (s : State) (h_s : P s.kept) : NextKept P (execCmpFwActivate d s) := by
  unfold execCmpFwActivate
  repeat' first
    | with_reducible assumption
    | with_reducible refine next_kept ?_
    | with_reducible apply runDesc_kept
    | with_reducible apply finishJob_kept
    | with_reducible apply rollStart_kept
    | (intro z; refine value_step z ?_; intro w hw; (try rw [← hw]); clear hw z)
    | intro _
    | with_reducible refine kept_ite ?_ ?_

theorem fwDone_kept {P : Kept → Prop} (s : State) (h_s : P s.kept) : P (fwDone s).kept := by
  unfold fwDone
  repeat' first
    | with_reducible assumption
    | with_reducible apply State_setFlag_kept
    | with_reducible apply State_set_kept
    | with_reducible apply setStage_kept
    | with_reducible apply fwEvent_kept
    | (intro z; refine value_step z ?_; intro w hw; (try rw [← hw]); clear hw z)
    | lift_lets -underBinder
    | (fail_if_no_progress (with_reducible refine kept_rec0 ?_))

theorem execCoreHealthCheck_kept {P : Kept → Prop} (core : Fin 4) (passed : Bool) (t : ℕ) (s : State) (h_s : P s.kept) : NextKept P (execCoreHealthCheck core passed t s) := by
  unfold execCoreHealthCheck
  repeat' first
    | with_reducible assumption
    | with_reducible refine next_kept ?_
    | with_reducible apply State_upto_kept
    | with_reducible apply fwEvent_kept
    | with_reducible apply State_set_kept
    | with_reducible apply setStage_kept
    | with_reducible apply fwDone_kept
    | (intro z; refine kept_step (P := P) z ?_ ?_ <;> [unfold z; first | (intro w hw hz; rw [← hw]; clear hw z) | (intro w hw hz; rw [hw] at hz; clear hw w; clear_value z)])
    | (intro z; refine value_step z ?_; intro w hw; (try rw [← hw]); clear hw z)
    | lift_lets -underBinder
    | with_reducible refine kept_ite ?_ ?_
    | split
    | (fail_if_no_progress (with_reducible refine kept_rec0 ?_))

end Sys2Proof.Machine
end

