-- ==== Sys2Proof/Laws/KeptSecurity.lean ====
section
/-! SUPPORT. What the operations of Security.lean keep of the queue and the memory, one lemma each. -/

set_option maxRecDepth 100000
set_option linter.all false

namespace Sys2Proof.Machine

open Sys2Proof

theorem secCpair_kept {P : Kept → Prop} (s : State) (c : ℕ) (h_s : P s.kept) : P (secCpair s c).kept := by
  unfold secCpair
  repeat' first
    | with_reducible assumption
    | with_reducible apply postCpair_kept

theorem useHandle_kept {P : Kept → Prop} (s : State) (c : ℕ) (h : ℕ) (hc : ℕ) (h_s : P s.kept) : P (useHandle s c h hc).2.kept := by
  unfold useHandle
  repeat' first
    | with_reducible assumption
    | with_reducible apply secCpair_kept
    | (intro z; refine kept_step (P := P) z ?_ ?_ <;> [unfold z; first | (intro w hw hz; rw [← hw]; clear hw z) | (intro w hw hz; rw [hw] at hz; clear hw w; clear_value z)])
    | (intro (z : Nat); refine value_step z ?_; intro w hw; (try rw [← hw]); clear hw z)
    | (intro z; refine value_step z ?_; intro w hw; (try rw [← hw]); clear hw z)
    | lift_lets -underBinder
    | split
    | (fail_if_no_progress (with_reducible refine kept_rec0 ?_))

theorem confCloses_kept {P : Kept → Prop} (s : State) (h_s : P s.kept) : P (confCloses s).kept := by
  unfold confCloses
  repeat' first
    | with_reducible assumption
    | with_reducible apply State_setFlag_kept
    | with_reducible refine kept_ite ?_ ?_

theorem execSecDomainSet_kept {P : Kept → Prop} (d : Sys2Proof.Desc) (s : State) (h_s : P s.kept) : NextKept P (execSecDomainSet d s) := by
  unfold execSecDomainSet
  repeat' first
    | with_reducible assumption
    | with_reducible refine next_kept ?_
    | with_reducible apply runDesc_kept
    | with_reducible apply finishJob_kept
    | with_reducible apply confCloses_kept
    | (intro z; refine kept_step (P := P) z ?_ ?_ <;> [unfold z; first | (intro w hw hz; rw [← hw]; clear hw z) | (intro w hw hz; rw [hw] at hz; clear hw w; clear_value z)])
    | (intro (z : Nat); refine value_step z ?_; intro w hw; (try rw [← hw]); clear hw z)
    | (intro (z : Bool); refine value_step z ?_; intro w hw; (try rw [← hw]); clear hw z)
    | (intro (z : Option _); subst z)
    | (intro z; refine value_step z ?_; intro w hw; (try rw [← hw]); clear hw z)
    | intro _
    | lift_lets -underBinder
    | with_reducible refine kept_ite ?_ ?_
    | split
    | (fail_if_no_progress (with_reducible refine kept_rec0 ?_))

theorem scrubTile_kept {P : Kept → Prop} (dom : ℕ) (s : State) (g : ℕ) (h_s : P s.kept) : P (scrubTile dom s g).kept := by
  unfold scrubTile
  repeat' first
    | with_reducible assumption
    | with_reducible apply putTile_kept
    | (intro (z : List _); refine value_step z ?_; intro w hw; (try rw [← hw]); clear hw z)
    | (intro z; refine value_step z ?_; intro w hw; (try rw [← hw]); clear hw z)
    | lift_lets -underBinder
    | with_reducible refine kept_ite ?_ ?_

theorem scrubDomain_kept {P : Kept → Prop} (hP : MemClosed P) (s : State) (dom : ℕ) (h_s : P s.kept) : P (scrubDomain s dom).kept := by
  unfold scrubDomain
  repeat' first
    | with_reducible assumption
    | with_reducible apply dropTlb_kept
    | with_reducible apply scrubTile_kept
    | with_reducible apply freePages_kept
    | with_reducible apply dropFlight_kept
    | (intro z; refine kept_step (P := P) z ?_ ?_ <;> [unfold z; first | (intro w hw hz; rw [← hw]; clear hw z) | (intro w hw hz; rw [hw] at hz; clear hw w; clear_value z)])
    | (intro (z : List _); refine value_step z ?_; intro w hw; (try rw [← hw]); clear hw z)
    | (intro (z : _ → _); subst z)
    | (intro z; refine value_step z ?_; intro w hw; (try rw [← hw]); clear hw z)
    | lift_lets -underBinder
    | (with_reducible apply kept_foldl <;> intros)
    | (fail_if_no_progress (with_reducible refine kept_rec0 ?_))

theorem execSecDomainTeardown_kept {P : Kept → Prop} (hP : MemClosed P) (d : Sys2Proof.Desc) (s : State) (h_s : P s.kept) : NextKept P (execSecDomainTeardown d s) := by
  unfold execSecDomainTeardown
  repeat' first
    | with_reducible assumption
    | with_reducible refine next_kept ?_
    | with_reducible apply runDesc_kept
    | with_reducible apply finishJob_kept
    | with_reducible apply evictRange_kept
    | with_reducible apply putJob_kept
    | with_reducible apply scrubDomain_kept
    | with_reducible apply wake_kept
    | (intro (z : Nat); refine value_step z ?_; intro w hw; (try rw [← hw]); clear hw z)
    | (intro (z : Bool); refine value_step z ?_; intro w hw; (try rw [← hw]); clear hw z)
    | (intro (z : List _); refine value_step z ?_; intro w hw; (try rw [← hw]); clear hw z)
    | (intro (z : _ → _); subst z)
    | (intro z; refine value_step z ?_; intro w hw; (try rw [← hw]); clear hw z)
    | intro _
    | lift_lets -underBinder
    | with_reducible refine kept_ite ?_ ?_
    | (with_reducible apply kept_foldl_snd <;> intros)
    | (fail_if_no_progress (with_reducible refine kept_rec0 ?_))

theorem execZeroFillDone_kept {P : Kept → Prop} (n : Fin 256) (t : ℕ) (s : State) (h_s : P s.kept) : NextKept P (execZeroFillDone n t s) := by
  unfold execZeroFillDone
  repeat' first
    | with_reducible assumption
    | with_reducible refine next_kept ?_
    | with_reducible apply State_upto_kept
    | (intro z; refine value_step z ?_; intro w hw; (try rw [← hw]); clear hw z)
    | lift_lets -underBinder
    | with_reducible refine kept_ite ?_ ?_
    | split
    | (fail_if_no_progress (with_reducible refine kept_rec0 ?_))

theorem takeIndex_kept {P : Kept → Prop} (s : State) (h_s : P s.kept) : P (takeIndex s).2.kept := by
  unfold takeIndex
  repeat' first
    | with_reducible assumption
    | with_reducible apply State_set_kept
    | (intro z; refine kept_step (P := P) z ?_ ?_ <;> [unfold z; first | (intro w hw hz; rw [← hw]; clear hw z) | (intro w hw hz; rw [hw] at hz; clear hw w; clear_value z)])
    | (intro (z : Nat); refine value_step z ?_; intro w hw; (try rw [← hw]); clear hw z)
    | (intro z; refine value_step z ?_; intro w hw; (try rw [← hw]); clear hw z)
    | lift_lets -underBinder
    | with_reducible refine kept_ite ?_ ?_
    | split
    | (fail_if_no_progress (with_reducible refine kept_rec0 ?_))

theorem domKey_kept {P : Kept → Prop} (s : State) (dom : ℕ) (regen : Bool) (h_s : P s.kept) : P (domKey s dom regen).2.kept := by
  unfold domKey
  repeat' first
    | with_reducible assumption
    | (intro z; refine value_step z ?_; intro w hw; (try rw [← hw]); clear hw z)
    | lift_lets -underBinder
    | split
    | (fail_if_no_progress (with_reducible refine kept_rec0 ?_))

theorem makeReport_kept {P : Kept → Prop} (s : State) (dom : ℕ) (regen : Bool) (nonce : List Sys2Proof.Byte) (h_s : P s.kept) : P (makeReport s dom regen nonce).2.kept := by
  unfold makeReport
  repeat' first
    | with_reducible assumption
    | with_reducible apply takeIndex_kept
    | with_reducible apply domKey_kept
    | (intro z; refine kept_step (P := P) z ?_ ?_ <;> [unfold z; first | (intro w hw hz; rw [← hw]; clear hw z) | (intro w hw hz; rw [hw] at hz; clear hw w; clear_value z)])
    | (intro (z : List _); refine value_step z ?_; intro w hw; (try rw [← hw]); clear hw z)
    | (intro z; refine value_step z ?_; intro w hw; (try rw [← hw]); clear hw z)
    | lift_lets -underBinder
    | split
    | refine kept_snd (by with_reducible assumption) ?_
    | (fail_if_no_progress (with_reducible refine kept_rec0 ?_))

theorem execSecAttest_kept {P : Kept → Prop} (hP : MemClosed P) (d : Sys2Proof.Desc) (s : State) (h_s : P s.kept) : NextKept P (execSecAttest d s) := by
  unfold execSecAttest
  repeat' first
    | with_reducible assumption
    | with_reducible refine next_kept ?_
    | with_reducible apply runDesc_kept
    | with_reducible apply finishJob_kept
    | with_reducible apply prepare_kept
    | with_reducible apply spoilVa_kept
    | with_reducible apply readVa_kept
    | with_reducible apply makeReport_kept
    | with_reducible apply putJob_kept
    | with_reducible apply writeVa_kept
    | (intro (z : Nat); refine value_step z ?_; intro w hw; (try rw [← hw]); clear hw z)
    | (intro (z : List _); refine value_step z ?_; intro w hw; (try rw [← hw]); clear hw z)
    | (intro z; refine value_step z ?_; intro w hw; (try rw [← hw]); clear hw z)
    | intro _
    | lift_lets -underBinder
    | with_reducible refine kept_ite ?_ ?_
    | split
    | refine kept_snd (by with_reducible assumption) ?_

theorem freeSlot_kept {P : Kept → Prop} (s : State) (h_s : P s.kept) : P (freeSlot s).2.kept := by
  unfold freeSlot
  repeat' first
    | with_reducible assumption
    | with_reducible apply State_takeFree_kept
    | (intro (z : List _); refine value_step z ?_; intro w hw; (try rw [← hw]); clear hw z)
    | lift_lets -underBinder
    | split

theorem execSecKeyImport_kept {P : Kept → Prop} (hP : MemClosed P) (d : Sys2Proof.Desc) (s : State) (h_s : P s.kept) : NextKept P (execSecKeyImport d s) := by
  unfold execSecKeyImport
  repeat' first
    | with_reducible assumption
    | with_reducible refine next_kept ?_
    | with_reducible apply runDesc_kept
    | with_reducible apply fetchRanges_kept
    | with_reducible apply finishJob_kept
    | with_reducible apply State_bumpSat_kept
    | with_reducible apply freeSlot_kept
    | (intro (z : Nat); refine value_step z ?_; intro w hw; (try rw [← hw]); clear hw z)
    | (intro (z : List _); refine value_step z ?_; intro w hw; (try rw [← hw]); clear hw z)
    | (intro z; refine value_step z ?_; intro w hw; (try rw [← hw]); clear hw z)
    | intro _
    | lift_lets -underBinder
    | with_reducible refine kept_ite ?_ ?_
    | split
    | refine kept_snd (by with_reducible assumption) ?_
    | (fail_if_no_progress (with_reducible refine kept_rec0 ?_))

theorem execSecKeyDiscard_kept {P : Kept → Prop} (d : Sys2Proof.Desc) (s : State) (h_s : P s.kept) : NextKept P (execSecKeyDiscard d s) := by
  unfold execSecKeyDiscard
  repeat' first
    | with_reducible assumption
    | with_reducible refine next_kept ?_
    | with_reducible apply runDesc_kept
    | with_reducible apply useHandle_kept
    | with_reducible apply finishJob_kept
    | (intro (z : Nat); refine value_step z ?_; intro w hw; (try rw [← hw]); clear hw z)
    | (intro z; refine value_step z ?_; intro w hw; (try rw [← hw]); clear hw z)
    | intro _
    | lift_lets -underBinder
    | split
    | refine kept_snd (by with_reducible assumption) ?_
    | (fail_if_no_progress (with_reducible refine kept_rec0 ?_))

theorem unsealFrom_kept {P : Kept → Prop} (hP : MemClosed P) (c : ℕ) (key : ℕ) (src : ℕ) (tags : ℕ) (dst : ℕ) (sz : ℕ) (iv : ℕ) (z7 : ℕ) (z8 : ℕ) (z9 : State) (h_z9 : P z9.kept) : P (unsealFrom c key src tags dst sz iv z7 z8 z9).2.2.kept := by
  induction z7 generalizing z8 z9 with
  | zero => unfold unsealFrom; assumption
  | succ n ih =>
    unfold unsealFrom
    repeat' first
      | with_reducible assumption
      | with_reducible apply State_bumpSat_kept
      | with_reducible apply readVa_kept
      | with_reducible apply spoilVa_kept
      | with_reducible apply writeVa_kept
      | with_reducible apply ih
      | lift_lets -underBinder
      | split
      | refine kept_snd (by with_reducible assumption) ?_

theorem execSecUnseal_kept {P : Kept → Prop} (hP : MemClosed P) (d : Sys2Proof.Desc) (s : State) (h_s : P s.kept) : NextKept P (execSecUnseal d s) := by
  unfold execSecUnseal
  repeat' first
    | with_reducible assumption
    | with_reducible refine next_kept ?_
    | with_reducible apply runDesc_kept
    | with_reducible apply useHandle_kept
    | with_reducible apply finishJob_kept
    | with_reducible apply prepare_kept
    | with_reducible apply unsealFrom_kept
    | (intro (z : Nat); refine value_step z ?_; intro w hw; (try rw [← hw]); clear hw z)
    | (intro (z : List _); refine value_step z ?_; intro w hw; (try rw [← hw]); clear hw z)
    | (intro z; refine value_step z ?_; intro w hw; (try rw [← hw]); clear hw z)
    | intro _
    | lift_lets -underBinder
    | split
    | refine kept_snd (by with_reducible assumption) ?_

theorem execSecPortKey_kept {P : Kept → Prop} (hP : MemClosed P) (d : Sys2Proof.Desc) (s : State) (h_s : P s.kept) : NextKept P (execSecPortKey d s) := by
  unfold execSecPortKey
  repeat' first
    | with_reducible assumption
    | with_reducible refine next_kept ?_
    | with_reducible apply runDesc_kept
    | with_reducible apply fetchRanges_kept
    | with_reducible apply finishJob_kept
    | with_reducible apply State_bumpSat_kept
    | with_reducible apply tryInit_kept
    | (intro (z : Nat); refine value_step z ?_; intro w hw; (try rw [← hw]); clear hw z)
    | (intro (z : Bool); refine value_step z ?_; intro w hw; (try rw [← hw]); clear hw z)
    | (intro (z : List _); refine value_step z ?_; intro w hw; (try rw [← hw]); clear hw z)
    | (intro z; refine value_step z ?_; intro w hw; (try rw [← hw]); clear hw z)
    | intro _
    | lift_lets -underBinder
    | with_reducible refine kept_ite ?_ ?_
    | split
    | refine kept_snd (by with_reducible assumption) ?_
    | (fail_if_no_progress (with_reducible refine kept_rec0 ?_))

theorem wipeSram_kept {P : Kept → Prop} (s : State) (h_s : P s.kept) : P (wipeSram s).kept := by
  unfold wipeSram
  repeat' first
    | with_reducible assumption
    | (intro z; refine value_step z ?_; intro w hw; (try rw [← hw]); clear hw z)
    | lift_lets -underBinder
    | (fail_if_no_progress (with_reducible refine kept_rec0 ?_))

theorem dropPool_kept {P : Kept → Prop} (hP : MemClosed P) (s : State) (h_s : P s.kept) : P (dropPool s).kept := by
  unfold dropPool
  repeat' first
    | with_reducible assumption
    | with_reducible apply dropLines_kept
    | (intro (z : Store); subst z)
    | (intro z; refine value_step z ?_; intro w hw; (try rw [← hw]); clear hw z)
    | lift_lets -underBinder
    | exact hP.nil _ _ (by assumption)

theorem changeLc_kept {P : Kept → Prop} (hP : MemClosed P) (s : State) (to_ : ℕ) (h_s : P s.kept) : P (changeLc s to_).kept := by
  unfold changeLc
  apply wake_kept hP
  apply dropPool_kept hP
  refine kept_rec0 ?_
  apply State_set_kept
  apply State_set_kept
  apply wipeSram_kept
  exact kept_foldl h_s fun s p h => goDown_kept hP s p 13 true h

theorem execSecLc_kept {P : Kept → Prop} (hP : MemClosed P) (d : Sys2Proof.Desc) (s : State) (h_s : P s.kept) : NextKept P (execSecLc d s) := by
  unfold execSecLc
  repeat' first
    | with_reducible assumption
    | with_reducible refine next_kept ?_
    | with_reducible apply runDesc_kept
    | with_reducible apply finishJob_kept
    | with_reducible apply fetchRanges_kept
    | with_reducible apply State_setFlag_kept
    | with_reducible apply changeLc_kept
    | (intro (z : Nat); refine value_step z ?_; intro w hw; (try rw [← hw]); clear hw z)
    | (intro (z : Bool); refine value_step z ?_; intro w hw; (try rw [← hw]); clear hw z)
    | (intro (z : List _); refine value_step z ?_; intro w hw; (try rw [← hw]); clear hw z)
    | (intro (z : Option _); subst z)
    | (intro z; refine value_step z ?_; intro w hw; (try rw [← hw]); clear hw z)
    | intro _
    | lift_lets -underBinder
    | with_reducible refine kept_ite ?_ ?_
    | split
    | refine kept_snd (by with_reducible assumption) ?_
    | (fail_if_no_progress (with_reducible refine kept_rec0 ?_))

theorem stopAll_kept {P : Kept → Prop} (s : State) (h_s : P s.kept) : P (stopAll s).kept := by
  unfold stopAll
  repeat' first
    | with_reducible assumption
    | (intro z; refine kept_step (P := P) z ?_ ?_ <;> [unfold z; first | (intro w hw hz; rw [← hw]; clear hw z) | (intro w hw hz; rw [hw] at hz; clear hw w; clear_value z)])
    | (intro (z : _ → _); subst z)
    | (intro z; refine value_step z ?_; intro w hw; (try rw [← hw]); clear hw z)
    | lift_lets -underBinder
    | (fail_if_no_progress (with_reducible refine kept_rec0 ?_))

theorem cutPort_kept {P : Kept → Prop} (s : State) (p : ℕ) (reason : ℕ) (h_s : P s.kept) : P (cutPort s p reason).kept := by
  unfold cutPort
  repeat' first
    | with_reducible assumption
    | with_reducible apply State_set_kept
    | with_reducible apply State_setFlag_kept
    | with_reducible apply turnKeys_kept
    | with_reducible apply setPort_kept

theorem execTamper_kept {P : Kept → Prop} (k : Fin 5) (t : ℕ) (s : State) (h_s : P s.kept) : NextKept P (execTamper k t s) := by
  unfold execTamper
  repeat' first
    | with_reducible assumption
    | with_reducible refine next_kept ?_
    | with_reducible apply State_upto_kept
    | with_reducible apply State_set_kept
    | with_reducible apply State_setFlag_kept
    | with_reducible apply wipeSram_kept
    | with_reducible apply cutPort_kept
    | with_reducible apply stopAll_kept
    | (intro z; refine kept_step (P := P) z ?_ ?_ <;> [unfold z; first | (intro w hw hz; rw [← hw]; clear hw z) | (intro w hw hz; rw [hw] at hz; clear hw w; clear_value z)])
    | (intro z; refine value_step z ?_; intro w hw; (try rw [← hw]); clear hw z)
    | lift_lets -underBinder
    | with_reducible refine kept_ite ?_ ?_
    | (with_reducible apply kept_foldl <;> intros)

theorem execSvnFuse_kept {P : Kept → Prop} (t : ℕ) (s : State) (h_s : P s.kept) : NextKept P (execSvnFuse t s) := by
  unfold execSvnFuse
  repeat' first
    | with_reducible assumption
    | with_reducible refine next_kept ?_
    | with_reducible apply State_upto_kept
    | with_reducible apply State_set_kept
    | lift_lets -underBinder
    | with_reducible refine kept_ite ?_ ?_

end Sys2Proof.Machine
end

