-- ==== Sys2Proof/Laws/KeptPower.lean ====
section
/-! SUPPORT. What the operations of Power.lean keep of the queue and the memory, one lemma each. -/

set_option maxRecDepth 100000
set_option linter.all false

namespace Sys2Proof.Machine

open Sys2Proof

theorem keptFences_kept {P : Kept → Prop} (s : State) (h_s : P s.kept) : P (keptFences s).kept := by
  unfold keptFences
  repeat' first
    | with_reducible assumption
    | with_reducible apply State_setFlag_kept
    | (intro z; refine value_step z ?_; intro w hw; (try rw [← hw]); clear hw z)
    | lift_lets -underBinder
    | (fail_if_no_progress (with_reducible refine kept_rec0 ?_))

theorem coldState_kept {P : Kept → Prop} (hP : MemClosed P) (s : State) (h_s : P s.kept) : P (coldState s).kept := by
  unfold coldState
  split
  · apply State_bumpSat_kept
    exact kept_foldl (hP.nil _ _ h_s) fun _ _ h => State_set_kept _ _ _ h
  · exact kept_foldl (hP.nil _ _ h_s) fun _ _ h => State_set_kept _ _ _ h

theorem execPowerOn_kept {P : Kept → Prop} (hP : MemClosed P) (xdly : Fin 8) (s : State) (h_s : P s.kept) : NextKept P (execPowerOn xdly s) := by
  unfold execPowerOn
  repeat' first
    | with_reducible assumption
    | with_reducible refine next_kept ?_
    | with_reducible apply State_set_kept
    | with_reducible apply coldState_kept

theorem execSupplyLoss_kept {P : Kept → Prop} (hP : MemClosed P) (t : ℕ) (s : State) (h_s : P s.kept) : NextKept P (execSupplyLoss t s) := by
  unfold execSupplyLoss
  repeat' first
    | with_reducible assumption
    | with_reducible refine next_kept ?_
    | with_reducible apply State_upto_kept
    | with_reducible apply coldState_kept
    | with_reducible apply State_emit_kept
    | (intro z; refine value_step z ?_; intro w hw; (try rw [← hw]); clear hw z)
    | lift_lets -underBinder
    | (fail_if_no_progress (with_reducible refine kept_rec0 ?_))

theorem execXtalTestStart_kept {P : Kept → Prop} (t : ℕ) (s : State) (h_s : P s.kept) : NextKept P (execXtalTestStart t s) := by
  unfold execXtalTestStart
  repeat' first
    | with_reducible assumption
    | with_reducible refine next_kept ?_
    | with_reducible apply State_upto_kept
    | (intro z; refine value_step z ?_; intro w hw; (try rw [← hw]); clear hw z)
    | lift_lets -underBinder
    | with_reducible refine kept_ite ?_ ?_
    | (fail_if_no_progress (with_reducible refine kept_rec0 ?_))

theorem execXtalStable_kept {P : Kept → Prop} (t : ℕ) (s : State) (h_s : P s.kept) : NextKept P (execXtalStable t s) := by
  unfold execXtalStable
  repeat' first
    | with_reducible assumption
    | with_reducible refine next_kept ?_
    | with_reducible apply State_upto_kept
    | with_reducible apply State_set_kept
    | with_reducible apply State_setFlag_kept
    | with_reducible apply State_bump_kept
    | (intro z; refine kept_step (P := P) z ?_ ?_ <;> [unfold z; first | (intro w hw hz; rw [← hw]; clear hw z) | (intro w hw hz; rw [hw] at hz; clear hw w; clear_value z)])
    | (intro z; refine value_step z ?_; intro w hw; (try rw [← hw]); clear hw z)
    | lift_lets -underBinder
    | with_reducible refine kept_ite ?_ ?_
    | (fail_if_no_progress (with_reducible refine kept_rec0 ?_))

theorem sourceLost_kept {P : Kept → Prop} (s : State) (f : Sys2Proof.Fld) (h_s : P s.kept) : P (sourceLost s f).kept := by
  unfold sourceLost
  repeat' first
    | with_reducible assumption
    | with_reducible apply raiseIrq_kept
    | with_reducible apply State_setFlag_kept

theorem execXtalStartTimeout_kept {P : Kept → Prop} (t : ℕ) (s : State) (h_s : P s.kept) : NextKept P (execXtalStartTimeout t s) := by
  unfold execXtalStartTimeout
  repeat' first
    | with_reducible assumption
    | with_reducible refine next_kept ?_
    | with_reducible apply State_upto_kept
    | with_reducible apply sourceLost_kept
    | (intro z; refine kept_step (P := P) z ?_ ?_ <;> [unfold z; first | (intro w hw hz; rw [← hw]; clear hw z) | (intro w hw hz; rw [hw] at hz; clear hw w; clear_value z)])
    | (intro z; refine value_step z ?_; intro w hw; (try rw [← hw]); clear hw z)
    | lift_lets -underBinder
    | with_reducible refine kept_ite ?_ ?_
    | (fail_if_no_progress (with_reducible refine kept_rec0 ?_))

theorem startBlock_kept {P : Kept → Prop} (s : State) (h_s : P s.kept) : P (startBlock s).kept := by
  unfold startBlock
  repeat' first
    | with_reducible assumption
    | with_reducible apply State_set_kept
    | (intro z; refine kept_step (P := P) z ?_ ?_ <;> [unfold z; first | (intro w hw hz; rw [← hw]; clear hw z) | (intro w hw hz; rw [hw] at hz; clear hw w; clear_value z)])
    | (intro (z : Nat); refine value_step z ?_; intro w hw; (try rw [← hw]); clear hw z)
    | (intro z; refine value_step z ?_; intro w hw; (try rw [← hw]); clear hw z)
    | lift_lets -underBinder
    | with_reducible refine kept_ite ?_ ?_
    | (fail_if_no_progress (with_reducible refine kept_rec0 ?_))

theorem putBank_kept {P : Kept → Prop} (s : State) (b : ℕ) (x : Sys2Proof.Image) (h_s : P s.kept) : P (putBank s b x).kept := by
  unfold putBank
  repeat' first
    | with_reducible assumption
    | (intro z; refine value_step z ?_; intro w hw; (try rw [← hw]); clear hw z)
    | lift_lets -underBinder
    | (fail_if_no_progress (with_reducible refine kept_rec0 ?_))

theorem execActiveBankVerified_kept {P : Kept → Prop} (x : Sys2Proof.Image) (t : ℕ) (s : State) (h_s : P s.kept) : NextKept P (execActiveBankVerified x t s) := by
  unfold execActiveBankVerified
  repeat' first
    | with_reducible assumption
    | with_reducible refine next_kept ?_
    | with_reducible apply State_upto_kept
    | with_reducible apply putBank_kept
    | with_reducible apply startBlock_kept
    | with_reducible apply State_set_kept
    | with_reducible apply State_setFlag_kept
    | (intro z; refine kept_step (P := P) z ?_ ?_ <;> [unfold z; first | (intro w hw hz; rw [← hw]; clear hw z) | (intro w hw hz; rw [hw] at hz; clear hw w; clear_value z)])
    | (intro z; refine value_step z ?_; intro w hw; (try rw [← hw]); clear hw z)
    | lift_lets -underBinder
    | with_reducible refine kept_ite ?_ ?_
    | (fail_if_no_progress (with_reducible refine kept_rec0 ?_))

theorem execHbmTrained_kept {P : Kept → Prop} (hP : MemClosed P) (t : ℕ) (s : State) (h_s : P s.kept) : NextKept P (execHbmTrained t s) := by
  unfold execHbmTrained
  repeat' first
    | with_reducible assumption
    | with_reducible refine next_kept ?_
    | with_reducible apply State_upto_kept
    | with_reducible apply State_set_kept
    | with_reducible apply State_setFlag_kept
    | with_reducible apply setPoolFrames_kept
    | with_reducible apply placeMap_kept
    | with_reducible apply keptFences_kept
    | with_reducible apply wake_kept
    | (intro z; refine kept_step (P := P) z ?_ ?_ <;> [unfold z; first | (intro w hw hz; rw [← hw]; clear hw z) | (intro w hw hz; rw [hw] at hz; clear hw w; clear_value z)])
    | (intro (z : _ → _); subst z)
    | lift_lets -underBinder
    | with_reducible refine kept_ite ?_ ?_
    | (with_reducible apply kept_foldl <;> intros)

theorem execPllIdleStop_kept {P : Kept → Prop} (engines : Bool) (t : ℕ) (s : State) (h_s : P s.kept) : NextKept P (execPllIdleStop engines t s) := by
  unfold execPllIdleStop
  repeat' first
    | with_reducible assumption
    | with_reducible refine next_kept ?_
    | with_reducible apply State_upto_kept
    | with_reducible apply State_set_kept
    | (intro z; refine kept_step (P := P) z ?_ ?_ <;> [unfold z; first | (intro w hw hz; rw [← hw]; clear hw z) | (intro w hw hz; rw [hw] at hz; clear hw w; clear_value z)])
    | (intro (z : Nat); refine value_step z ?_; intro w hw; (try rw [← hw]); clear hw z)
    | lift_lets -underBinder
    | with_reducible refine kept_ite ?_ ?_

theorem execPllLocked_kept {P : Kept → Prop} (k : Fin 3) (ns : ℕ) (t : ℕ) (s : State) (h_s : P s.kept) : NextKept P (execPllLocked k ns t s) := by
  unfold execPllLocked
  repeat' first
    | with_reducible assumption
    | with_reducible refine next_kept ?_
    | with_reducible apply State_upto_kept
    | with_reducible apply State_set_kept
    | (intro z; refine kept_step (P := P) z ?_ ?_ <;> [unfold z; first | (intro w hw hz; rw [← hw]; clear hw z) | (intro w hw hz; rw [hw] at hz; clear hw w; clear_value z)])
    | (intro z; refine value_step z ?_; intro w hw; (try rw [← hw]); clear hw z)
    | lift_lets -underBinder
    | with_reducible refine kept_ite ?_ ?_
    | split
    | (fail_if_no_progress (with_reducible refine kept_rec0 ?_))

theorem retune_kept {P : Kept → Prop} (s : State) (h_s : P s.kept) : P (retune s).kept := by
  unfold retune
  repeat' first
    | with_reducible assumption
    | with_reducible apply State_set_kept
    | lift_lets -underBinder
    | with_reducible refine kept_ite ?_ ?_
    | (with_reducible apply kept_foldl <;> intros)

theorem execXtalLoss_kept {P : Kept → Prop} (t : ℕ) (s : State) (h_s : P s.kept) : NextKept P (execXtalLoss t s) := by
  unfold execXtalLoss
  repeat' first
    | with_reducible assumption
    | with_reducible refine next_kept ?_
    | with_reducible apply State_upto_kept
    | with_reducible apply State_bumpSat_kept
    | with_reducible apply sourceLost_kept
    | with_reducible apply State_setFlag_kept
    | with_reducible apply retune_kept
    | (intro z; refine kept_step (P := P) z ?_ ?_ <;> [unfold z; first | (intro w hw hz; rw [← hw]; clear hw z) | (intro w hw hz; rw [hw] at hz; clear hw w; clear_value z)])
    | (intro z; refine value_step z ?_; intro w hw; (try rw [← hw]); clear hw z)
    | lift_lets -underBinder
    | with_reducible refine kept_ite ?_ ?_
    | (fail_if_no_progress (with_reducible refine kept_rec0 ?_))

theorem unlockPort_kept {P : Kept → Prop} (hP : MemClosed P) (s : State) (p : ℕ) (h_s : P s.kept) : P (unlockPort s p).kept := by
  unfold unlockPort
  repeat' first
    | with_reducible assumption
    | with_reducible apply linkOut_kept
    | lift_lets -underBinder
    | with_reducible refine kept_ite ?_ ?_
    | (with_reducible apply kept_foldl <;> intros)

theorem execPortLoopHoldover_kept {P : Kept → Prop} (hP : MemClosed P) (p : Fin 6) (t : ℕ) (s : State) (h_s : P s.kept) : NextKept P (execPortLoopHoldover p t s) := by
  unfold execPortLoopHoldover
  repeat' first
    | with_reducible assumption
    | with_reducible refine next_kept ?_
    | with_reducible apply State_upto_kept
    | with_reducible apply unlockPort_kept
    | (intro z; refine value_step z ?_; intro w hw; (try rw [← hw]); clear hw z)
    | lift_lets -underBinder
    | with_reducible refine kept_ite ?_ ?_
    | split
    | (fail_if_no_progress (with_reducible refine kept_rec0 ?_))

theorem execRefclkLoss_kept {P : Kept → Prop} (t : ℕ) (s : State) (h_s : P s.kept) : NextKept P (execRefclkLoss t s) := by
  unfold execRefclkLoss
  repeat' first
    | with_reducible assumption
    | with_reducible refine next_kept ?_
    | with_reducible apply State_upto_kept
    | with_reducible apply State_bumpSat_kept
    | with_reducible apply sourceLost_kept
    | with_reducible apply State_setFlag_kept
    | (intro z; refine kept_step (P := P) z ?_ ?_ <;> [unfold z; first | (intro w hw hz; rw [← hw]; clear hw z) | (intro w hw hz; rw [hw] at hz; clear hw w; clear_value z)])
    | (intro z; refine value_step z ?_; intro w hw; (try rw [← hw]); clear hw z)
    | lift_lets -underBinder
    | with_reducible refine kept_ite ?_ ?_
    | (fail_if_no_progress (with_reducible refine kept_rec0 ?_))

theorem portsLink_kept {P : Kept → Prop} (s : State) (h_s : P s.kept) : P (portsLink s).kept := by
  unfold portsLink
  repeat' first
    | with_reducible assumption
    | with_reducible apply lightPort_kept
    | (with_reducible apply kept_foldl <;> intros)

theorem execRefclkReturn_kept {P : Kept → Prop} (t : ℕ) (s : State) (h_s : P s.kept) : NextKept P (execRefclkReturn t s) := by
  unfold execRefclkReturn
  repeat' first
    | with_reducible assumption
    | with_reducible refine next_kept ?_
    | with_reducible apply State_upto_kept
    | with_reducible apply portsLink_kept
    | with_reducible apply State_setFlag_kept
    | (intro z; refine kept_step (P := P) z ?_ ?_ <;> [unfold z; first | (intro w hw hz; rw [← hw]; clear hw z) | (intro w hw hz; rw [hw] at hz; clear hw w; clear_value z)])
    | (intro (z : List _); refine value_step z ?_; intro w hw; (try rw [← hw]); clear hw z)
    | (intro z; refine value_step z ?_; intro w hw; (try rw [← hw]); clear hw z)
    | lift_lets -underBinder
    | with_reducible refine kept_ite ?_ ?_
    | (fail_if_no_progress (with_reducible refine kept_rec0 ?_))

theorem execXtalReturn_kept {P : Kept → Prop} (t : ℕ) (s : State) (h_s : P s.kept) : NextKept P (execXtalReturn t s) := by
  unfold execXtalReturn
  repeat' first
    | with_reducible assumption
    | with_reducible refine next_kept ?_
    | with_reducible apply State_upto_kept
    | with_reducible apply State_set_kept
    | with_reducible apply State_setFlag_kept
    | with_reducible apply State_raiseTo_kept
    | with_reducible apply State_takeFree_kept
    | with_reducible apply portsLink_kept
    | with_reducible apply retune_kept
    | (intro z; refine kept_step (P := P) z ?_ ?_ <;> [unfold z; first | (intro w hw hz; rw [← hw]; clear hw z) | (intro w hw hz; rw [hw] at hz; clear hw w; clear_value z)])
    | (intro z; refine value_step z ?_; intro w hw; (try rw [← hw]); clear hw z)
    | lift_lets -underBinder
    | with_reducible refine kept_ite ?_ ?_
    | split
    | (with_reducible apply kept_foldl <;> intros)
    | (fail_if_no_progress (with_reducible refine kept_rec0 ?_))

theorem execIoscTrimWindow_kept {P : Kept → Prop} (marks : Bool) (ppm : ℤ) (t : ℕ) (s : State) (h_s : P s.kept) : NextKept P (execIoscTrimWindow marks ppm t s) := by
  unfold execIoscTrimWindow
  repeat' first
    | with_reducible assumption
    | with_reducible refine next_kept ?_
    | with_reducible apply State_upto_kept
    | with_reducible apply State_set_kept
    | with_reducible apply State_bump_kept
    | (intro z; refine value_step z ?_; intro w hw; (try rw [← hw]); clear hw z)
    | lift_lets -underBinder
    | with_reducible refine kept_ite ?_ ?_

theorem deepResult_kept {P : Kept → Prop} (s : State) (c : Sys2Proof.Code) (why : ℕ) (h_s : P s.kept) : P (deepResult s c why).kept := by
  unfold deepResult
  repeat' first
    | with_reducible assumption
    | with_reducible apply raiseIrq_kept
    | with_reducible apply State_set_kept
    | with_reducible apply State_setFlag_kept

theorem tileOff_kept {P : Kept → Prop} (s : State) (g : ℕ) (h_s : P s.kept) : P (tileOff s g).kept := by
  unfold tileOff
  repeat' first
    | with_reducible assumption
    | with_reducible apply State_set_kept
    | with_reducible apply resetTile_kept

theorem storeDirty_kept {P : Kept → Prop} (s : State) (h_s : P s.kept) : P (storeDirty s).kept := by
  unfold storeDirty
  repeat' first
    | with_reducible assumption
    | with_reducible apply writeBack_kept
    | (with_reducible apply kept_foldl <;> intros)

theorem arraysOff_kept {P : Kept → Prop} (s : State) (h_s : P s.kept) : P (arraysOff s).kept := by
  unfold arraysOff
  repeat' first
    | with_reducible assumption
    | with_reducible apply storeDirty_kept
    | (intro z; refine kept_step (P := P) z ?_ ?_ <;> [unfold z; first | (intro w hw hz; rw [← hw]; clear hw z) | (intro w hw hz; rw [hw] at hz; clear hw w; clear_value z)])
    | (intro z; refine value_step z ?_; intro w hw; (try rw [← hw]); clear hw z)
    | lift_lets -underBinder
    | (fail_if_no_progress (with_reducible refine kept_rec0 ?_))

theorem deepGo_kept {P : Kept → Prop} (hP : MemClosed P) (s : State) (h_s : P s.kept) : P (deepGo s).kept := by
  unfold deepGo
  repeat' first
    | with_reducible assumption
    | with_reducible apply evictRange_kept
    | with_reducible apply goDown_kept
    | with_reducible apply writeBacks_kept
    | with_reducible apply tileOff_kept
    | with_reducible apply arraysOff_kept
    | with_reducible apply linkOut_kept
    | with_reducible apply State_emit_kept
    | with_reducible apply State_set_kept
    | with_reducible apply deepResult_kept
    | with_reducible apply State_bumpSat_kept
    | (intro z; refine kept_step (P := P) z ?_ ?_ <;> [unfold z; first | (intro w hw hz; rw [← hw]; clear hw z) | (intro w hw hz; rw [hw] at hz; clear hw w; clear_value z)])
    | (intro (z : _ → _); subst z)
    | (intro z; refine value_step z ?_; intro w hw; (try rw [← hw]); clear hw z)
    | lift_lets -underBinder
    | with_reducible refine kept_ite ?_ ?_
    | (with_reducible apply kept_foldl <;> intros)
    | (fail_if_no_progress (with_reducible refine kept_rec0 ?_))

theorem enterDeep_kept {P : Kept → Prop} (hP : MemClosed P) (s : State) (h_s : P s.kept) : P (enterDeep s).kept := by
  unfold enterDeep
  repeat' first
    | with_reducible assumption
    | with_reducible apply deepGo_kept
    | with_reducible apply deepResult_kept
    | with_reducible apply State_setFlag_kept
    | lift_lets -underBinder
    | with_reducible refine kept_ite ?_ ?_
    | split

theorem wakeUp_kept {P : Kept → Prop} (s : State) (cause : ℕ) (h_s : P s.kept) : P (wakeUp s cause).kept := by
  unfold wakeUp
  repeat' first
    | with_reducible assumption
    | with_reducible apply State_set_kept
    | with_reducible apply State_bump_kept
    | with_reducible apply State_takeFree_kept
    | with_reducible apply State_setFlag_kept
    | with_reducible apply State_emit_kept
    | with_reducible apply portsLink_kept
    | with_reducible apply raiseIrq_kept
    | with_reducible apply State_bumpSat_kept
    | with_reducible apply deepResult_kept
    | (intro z; refine kept_step (P := P) z ?_ ?_ <;> [unfold z; first | (intro w hw hz; rw [← hw]; clear hw z) | (intro w hw hz; rw [hw] at hz; clear hw w; clear_value z)])
    | (intro z; refine value_step z ?_; intro w hw; (try rw [← hw]); clear hw z)
    | lift_lets -underBinder
    | with_reducible refine kept_ite ?_ ?_
    | split
    | (fail_if_no_progress (with_reducible refine kept_rec0 ?_))

theorem execWake_kept {P : Kept → Prop} (t : ℕ) (s : State) (h_s : P s.kept) : NextKept P (execWake t s) := by
  unfold execWake
  repeat' first
    | with_reducible assumption
    | with_reducible refine next_kept ?_
    | with_reducible apply wakeUp_kept
    | with_reducible apply State_upto_kept

theorem execDeepWakeEvent_kept {P : Kept → Prop} (w : Sys2Proof.WakeBy) (t : ℕ) (s : State) (h_s : P s.kept) : NextKept P (execDeepWakeEvent w t s) := by
  unfold execDeepWakeEvent
  repeat' first
    | with_reducible assumption
    | with_reducible refine next_kept ?_
    | with_reducible apply State_upto_kept
    | with_reducible apply wakeUp_kept
    | (intro (z : Nat); refine value_step z ?_; intro w hw; (try rw [← hw]); clear hw z)
    | lift_lets -underBinder
    | with_reducible refine kept_ite ?_ ?_
    | split

theorem execEngineIdleGate_kept {P : Kept → Prop} (e : Fin 20) (t : ℕ) (s : State) (h_s : P s.kept) : NextKept P (execEngineIdleGate e t s) := by
  unfold execEngineIdleGate
  repeat' first
    | with_reducible assumption
    | with_reducible refine next_kept ?_
    | with_reducible apply State_upto_kept
    | (intro z; refine value_step z ?_; intro w hw; (try rw [← hw]); clear hw z)
    | lift_lets -underBinder
    | with_reducible refine kept_ite ?_ ?_
    | (fail_if_no_progress (with_reducible refine kept_rec0 ?_))

theorem noteThrottle_kept {P : Kept → Prop} (s : State) (h_s : P s.kept) : P (noteThrottle s).kept := by
  unfold noteThrottle
  repeat' first
    | with_reducible assumption
    | with_reducible apply State_bump_kept
    | (intro z; refine value_step z ?_; intro w hw; (try rw [← hw]); clear hw z)
    | lift_lets -underBinder
    | with_reducible refine kept_ite ?_ ?_
    | split
    | (fail_if_no_progress (with_reducible refine kept_rec0 ?_))

theorem execThrottleN_kept {P : Kept → Prop} (low : Bool) (t : ℕ) (s : State) (h_s : P s.kept) : NextKept P (execThrottleN low t s) := by
  unfold execThrottleN
  repeat' first
    | with_reducible assumption
    | with_reducible refine next_kept ?_
    | with_reducible apply State_upto_kept
    | with_reducible apply noteThrottle_kept
    | with_reducible apply State_setFlag_kept
    | lift_lets -underBinder
    | with_reducible refine kept_ite ?_ ?_

theorem execThermalLimitTick_kept {P : Kept → Prop} (tj : Fin 256) (t : ℕ) (s : State) (h_s : P s.kept) : NextKept P (execThermalLimitTick tj t s) := by
  unfold execThermalLimitTick
  repeat' first
    | with_reducible assumption
    | with_reducible refine next_kept ?_
    | with_reducible apply State_upto_kept
    | with_reducible apply State_set_kept
    | with_reducible apply noteThrottle_kept
    | with_reducible apply State_setFlag_kept
    | with_reducible apply raiseIrq_kept
    | (intro z; refine kept_step (P := P) z ?_ ?_ <;> [unfold z; first | (intro w hw hz; rw [← hw]; clear hw z) | (intro w hw hz; rw [hw] at hz; clear hw w; clear_value z)])
    | (intro (z : Nat); refine value_step z ?_; intro w hw; (try rw [← hw]); clear hw z)
    | (intro (z : Bool); refine value_step z ?_; intro w hw; (try rw [← hw]); clear hw z)
    | (intro z; refine value_step z ?_; intro w hw; (try rw [← hw]); clear hw z)
    | lift_lets -underBinder
    | with_reducible refine kept_ite ?_ ?_
    | (fail_if_no_progress (with_reducible refine kept_rec0 ?_))

theorem execHbmTempCheck_kept {P : Kept → Prop} (m : Fin 8) (temp : Fin 256) (t : ℕ) (s : State) (h_s : P s.kept) : NextKept P (execHbmTempCheck m temp t s) := by
  unfold execHbmTempCheck
  repeat' first
    | with_reducible assumption
    | with_reducible refine next_kept ?_
    | with_reducible apply State_upto_kept
    | with_reducible apply noteThrottle_kept
    | with_reducible apply State_setFlag_kept
    | with_reducible apply State_set_kept
    | (intro z; refine kept_step (P := P) z ?_ ?_ <;> [unfold z; first | (intro w hw hz; rw [← hw]; clear hw z) | (intro w hw hz; rw [hw] at hz; clear hw w; clear_value z)])
    | (intro (z : List _); refine value_step z ?_; intro w hw; (try rw [← hw]); clear hw z)
    | (intro z; refine value_step z ?_; intro w hw; (try rw [← hw]); clear hw z)
    | lift_lets -underBinder
    | with_reducible refine kept_ite ?_ ?_
    | (fail_if_no_progress (with_reducible refine kept_rec0 ?_))

theorem execThermalTrip_kept {P : Kept → Prop} (junction : Fin 256) (stack : Fin 256) (engine : Fin 256) (t : ℕ) (s : State) (h_s : P s.kept) : NextKept P (execThermalTrip junction stack engine t s) := by
  unfold execThermalTrip
  repeat' first
    | with_reducible assumption
    | with_reducible refine next_kept ?_
    | with_reducible apply State_upto_kept
    | with_reducible apply State_set_kept
    | with_reducible apply cutPort_kept
    | with_reducible apply stopAll_kept
    | with_reducible apply State_emit_kept
    | (intro z; refine kept_step (P := P) z ?_ ?_ <;> [unfold z; first | (intro w hw hz; rw [← hw]; clear hw z) | (intro w hw hz; rw [hw] at hz; clear hw w; clear_value z)])
    | (intro z; refine value_step z ?_; intro w hw; (try rw [← hw]); clear hw z)
    | lift_lets -underBinder
    | with_reducible refine kept_ite ?_ ?_
    | (with_reducible apply kept_foldl <;> intros)
    | (fail_if_no_progress (with_reducible refine kept_rec0 ?_))

theorem execInletSensorRead_kept {P : Kept → Prop} (temp : Option (Fin 256)) (t : ℕ) (s : State) (h_s : P s.kept) : NextKept P (execInletSensorRead temp t s) := by
  unfold execInletSensorRead
  repeat' first
    | with_reducible assumption
    | with_reducible refine next_kept ?_
    | with_reducible apply State_upto_kept
    | with_reducible apply State_setFlag_kept
    | with_reducible apply State_set_kept
    | with_reducible apply raiseIrq_kept
    | (intro z; refine kept_step (P := P) z ?_ ?_ <;> [unfold z; first | (intro w hw hz; rw [← hw]; clear hw z) | (intro w hw hz; rw [hw] at hz; clear hw w; clear_value z)])
    | (intro (z : Bool); refine value_step z ?_; intro w hw; (try rw [← hw]); clear hw z)
    | lift_lets -underBinder
    | with_reducible refine kept_ite ?_ ?_
    | split

theorem execPowerLimitWindow_kept {P : Kept → Prop} (watts : ℕ) (amps : ℕ) (t : ℕ) (s : State) (h_s : P s.kept) : NextKept P (execPowerLimitWindow watts amps t s) := by
  unfold execPowerLimitWindow
  repeat' first
    | with_reducible assumption
    | with_reducible refine next_kept ?_
    | with_reducible apply State_upto_kept
    | with_reducible apply State_set_kept
    | with_reducible apply noteThrottle_kept
    | with_reducible apply State_setFlag_kept
    | (intro z; refine kept_step (P := P) z ?_ ?_ <;> [unfold z; first | (intro w hw hz; rw [← hw]; clear hw z) | (intro w hw hz; rw [hw] at hz; clear hw w; clear_value z)])
    | (intro (z : Nat); refine value_step z ?_; intro w hw; (try rw [← hw]); clear hw z)
    | (intro (z : Bool); refine value_step z ?_; intro w hw; (try rw [← hw]); clear hw z)
    | (intro z; refine value_step z ?_; intro w hw; (try rw [← hw]); clear hw z)
    | lift_lets -underBinder
    | with_reducible refine kept_ite ?_ ?_
    | split
    | (fail_if_no_progress (with_reducible refine kept_rec0 ?_))

theorem logInForce_kept {P : Kept → Prop} (gib : ℕ) (s : State) (h_s : P s.kept) : P (logInForce gib s).kept := by
  unfold logInForce
  have h : P (State.kept { s.set F.BLK_LOG_CFG_LOG_GIB gib with log := { s.log with gib := gib } }) :=
    kept_rec0 (State_set_kept _ _ _ h_s)
  exact kept_ite (setPoolFrames_kept _ h) h

theorem warmRestart_kept {P : Kept → Prop} (hP : MemClosed P) (s : State) (block : ℕ) (h_s : P s.kept) : P (warmRestart s block).kept := by
  unfold warmRestart
  dsimp only
  refine State_setFlag_kept _ _ _ (placeMap_kept hP _ _ _ _ (keptFences_kept _ ?_))
  refine State_set_kept _ _ _ (State_setFlag_kept _ _ _ (startBlock_kept _ ?_))
  refine State_setFlag_kept _ _ _ (State_bumpSat_kept _ _ _ ?_)
  refine State_set_kept _ _ _ (State_set_kept _ _ _ (State_setFlag_kept _ _ _ ?_))
  refine kept_foldl ?_ (fun _ _ h => resumeWaiters_kept hP _ _ h)
  refine logInForce_kept _ _ (kept_rec0 (kept_foldl (kept_ite h_s (postRas_kept _ _ _ _ _ h_s)) ?_))
  exact fun _ _ h => goDown_kept hP _ _ _ _ h

theorem execDeviceFault_kept {P : Kept → Prop} (hP : MemClosed P) (block : Fin 9) (t : ℕ) (s : State) (h_s : P s.kept) : NextKept P (execDeviceFault block t s) := by
  unfold execDeviceFault
  repeat' first
    | with_reducible assumption
    | with_reducible refine next_kept ?_
    | with_reducible apply State_upto_kept
    | with_reducible apply wake_kept
    | with_reducible apply warmRestart_kept
    | lift_lets -underBinder
    | with_reducible refine kept_ite ?_ ?_

theorem execZenithCoreFail_kept {P : Kept → Prop} (hP : MemClosed P) (core : Fin 4) (t : ℕ) (s : State) (h_s : P s.kept) : NextKept P (execZenithCoreFail core t s) := by
  unfold execZenithCoreFail
  repeat' first
    | with_reducible assumption
    | with_reducible refine next_kept ?_
    | with_reducible apply State_upto_kept
    | with_reducible apply State_set_kept
    | with_reducible apply wake_kept
    | with_reducible apply warmRestart_kept
    | (intro z; refine kept_step (P := P) z ?_ ?_ <;> [unfold z; first | (intro w hw hz; rw [← hw]; clear hw z) | (intro w hw hz; rw [hw] at hz; clear hw w; clear_value z)])
    | lift_lets -underBinder
    | with_reducible refine kept_ite ?_ ?_

theorem recoverUnit_kept {P : Kept → Prop} (hP : MemClosed P) (s : State) (u : ℕ) (h_s : P s.kept) : P (recoverUnit s u).kept := by
  unfold recoverUnit
  repeat' first
    | with_reducible assumption
    | with_reducible apply domainFaulted_kept
    | with_reducible apply warmRestart_kept
    | lift_lets -underBinder
    | with_reducible refine kept_ite ?_ ?_

theorem execInvalTimeout_kept {P : Kept → Prop} (hP : MemClosed P) (id : ℕ) (unit : Fin 256) (t : ℕ) (s : State) (h_s : P s.kept) : NextKept P (execInvalTimeout id unit t s) := by
  unfold execInvalTimeout
  repeat' first
    | with_reducible assumption
    | with_reducible refine next_kept ?_
    | with_reducible apply State_upto_kept
    | with_reducible apply postFault_kept
    | with_reducible apply wake_kept
    | with_reducible apply recoverUnit_kept
    | with_reducible apply invalAcked_kept
    | (intro z; refine kept_step (P := P) z ?_ ?_ <;> [unfold z; first | (intro w hw hz; rw [← hw]; clear hw z) | (intro w hw hz; rw [hw] at hz; clear hw w; clear_value z)])
    | lift_lets -underBinder
    | with_reducible refine kept_ite ?_ ?_
    | split

end Sys2Proof.Machine
end

