-- ==== Sys2Proof/Laws/KeptManagement.lean ====
section
/-! SUPPORT. What the operations of Management.lean keep of the queue and the memory, one lemma each. -/

set_option maxRecDepth 100000
set_option linter.all false

namespace Sys2Proof.Machine

open Sys2Proof

theorem mgmtTouch_kept {P : Kept → Prop} (s : State) (h_s : P s.kept) : P (mgmtTouch s).kept := by
  unfold mgmtTouch
  dsimp only
  split
  · exact wakeUp_kept _ _ (kept_rec0 h_s)
  · exact kept_rec0 h_s

theorem countPiece_kept {P : Kept → Prop} (s : State) (a : ℕ) (c : Sys2Proof.Code) (h_s : P s.kept) : P (countPiece s a c).kept := by
  unfold countPiece
  repeat' first
    | with_reducible assumption
    | with_reducible apply State_bumpSat_kept
    | with_reducible apply State_set_kept
    | with_reducible apply State_setFlag_kept
    | with_reducible apply raiseIrq_kept
    | (intro z; refine kept_step (P := P) z ?_ ?_ <;> [unfold z; first | (intro w hw hz; rw [← hw]; clear hw z) | (intro w hw hz; rw [hw] at hz; clear hw w; clear_value z)])
    | (intro (z : Bool); refine value_step z ?_; intro w hw; (try rw [← hw]); clear hw z)
    | lift_lets -underBinder
    | with_reducible refine kept_ite ?_ ?_

theorem readPiece_kept {P : Kept → Prop} (s : State) (late : Bool) (p : ℕ × ℕ) (h_s : P s.kept) : P (readPiece s late p).2.kept := by
  unfold readPiece
  repeat' first
    | with_reducible assumption
    | with_reducible apply touch_kept
    | with_reducible apply telem_kept
    | with_reducible apply countLines_kept
    | with_reducible apply countPiece_kept
    | split

theorem writePiece_kept {P : Kept → Prop} (hP : MemClosed P) (s : State) (late : Bool) (a : ℕ) (data : List Sys2Proof.Byte) (h_s : P s.kept) : P (writePiece s late a data).kept := by
  unfold writePiece
  repeat' first
    | with_reducible assumption
    | with_reducible apply touch_kept
    | with_reducible apply telem_kept
    | with_reducible apply countLines_kept
    | with_reducible apply writeRange_kept
    | with_reducible apply closeReads_kept
    | with_reducible apply countPiece_kept
    | split

theorem windowWaits_kept {P : Kept → Prop} (s : State) (write : Bool) (late : Bool) (ps : List (ℕ × ℕ)) (h_s : P s.kept) : P (windowWaits s write late ps).2.kept := by
  unfold windowWaits
  repeat' first
    | with_reducible assumption
    | with_reducible apply recallRange_kept
    | (intro (z : Bool); refine value_step z ?_; intro w hw; (try rw [← hw]); clear hw z)
    | (intro (z : List _); refine value_step z ?_; intro w hw; (try rw [← hw]); clear hw z)
    | (intro (z : _ → _); subst z)
    | (intro z; refine value_step z ?_; intro w hw; (try rw [← hw]); clear hw z)
    | lift_lets -underBinder
    | split
    | (with_reducible apply kept_foldl_snd <;> intros)
    | refine kept_snd (by with_reducible assumption) ?_
    | (fail_if_no_progress (with_reducible refine kept_rec0 ?_))

theorem execPoolWindowAccess_kept {P : Kept → Prop} (hP : MemClosed P) (off : BitVec 32) (op : Sys2Proof.WinOp) (t : ℕ) (s : State) (h_s : P s.kept) : NextKept P (execPoolWindowAccess off op t s) := by
  unfold execPoolWindowAccess
  repeat' first
    | with_reducible assumption
    | with_reducible refine next_kept ?_
    | with_reducible apply mgmtTouch_kept
    | with_reducible apply State_upto_kept
    | with_reducible apply State_emit_kept
    | with_reducible apply windowWaits_kept
    | with_reducible apply readPiece_kept
    | with_reducible apply wake_kept
    | with_reducible apply writePiece_kept
    | (intro z; refine kept_step (P := P) z ?_ ?_ <;> [unfold z; first | (intro w hw hz; rw [← hw]; clear hw z) | (intro w hw hz; rw [hw] at hz; clear hw w; clear_value z)])
    | (intro (z : _ → _); subst z)
    | (intro z; refine value_step z ?_; intro w hw; (try rw [← hw]); clear hw z)
    | lift_lets -underBinder
    | with_reducible refine kept_ite ?_ ?_
    | split
    | (with_reducible apply kept_foldl <;> intros)
    | (with_reducible apply kept_foldl_snd <;> intros)
    | refine kept_snd (by with_reducible assumption) ?_
    | (fail_if_no_progress (with_reducible refine kept_rec0 ?_))

theorem sendPending_kept {P : Kept → Prop} (s : State) (h_s : P s.kept) : P (sendPending s).kept := by
  unfold sendPending
  repeat' first
    | with_reducible assumption
    | with_reducible apply State_emit_kept
    | (intro z; refine kept_step (P := P) z ?_ ?_ <;> [unfold z; first | (intro w hw hz; rw [← hw]; clear hw z) | (intro w hw hz; rw [hw] at hz; clear hw w; clear_value z)])
    | (intro (z : List _); refine value_step z ?_; intro w hw; (try rw [← hw]); clear hw z)
    | (intro (z : _ → _); subst z)
    | (intro z; refine value_step z ?_; intro w hw; (try rw [← hw]); clear hw z)
    | lift_lets -underBinder
    | with_reducible refine kept_ite ?_ ?_
    | (with_reducible apply kept_foldl <;> intros)
    | (fail_if_no_progress (with_reducible refine kept_rec0 ?_))

theorem execMsixPendingSend_kept {P : Kept → Prop} (linkUp : Bool) (enabled : Bool) (unmask : List (Fin 2048)) (t : ℕ) (s : State) (h_s : P s.kept) : NextKept P (execMsixPendingSend linkUp enabled unmask t s) := by
  unfold execMsixPendingSend
  repeat' first
    | with_reducible assumption
    | with_reducible refine next_kept ?_
    | with_reducible apply State_upto_kept
    | with_reducible apply sendPending_kept
    | (intro z; refine value_step z ?_; intro w hw; (try rw [← hw]); clear hw z)
    | lift_lets -underBinder
    | (fail_if_no_progress (with_reducible refine kept_rec0 ?_))

theorem respond_kept {P : Kept → Prop} (s : State) (pcie : Bool) (what : String) (code : ℕ) (data : List ℕ) (h_s : P s.kept) : P (respond s pcie what code data).kept := by
  unfold respond
  repeat' first
    | with_reducible assumption
    | with_reducible apply State_emit_kept

theorem control_kept {P : Kept → Prop} (s : State) (pcie : Bool) (go : State → State) (h_s : P s.kept) (h_go : ∀ x0, P x0.kept → P (go x0).kept) : P (control s pcie go).kept := by
  unfold control
  repeat' first
    | with_reducible assumption
    | apply h_go
    | with_reducible refine kept_ite ?_ ?_

theorem withEid_kept {P : Kept → Prop} (s : State) (pcie : Bool) (go : State → State) (h_s : P s.kept) (h_go : ∀ x0, P x0.kept → P (go x0).kept) : P (withEid s pcie go).kept := by
  unfold withEid
  repeat' first
    | with_reducible assumption
    | apply h_go
    | with_reducible refine kept_ite ?_ ?_

theorem dropMsg_kept {P : Kept → Prop} (s : State) (badType : Bool) (h_s : P s.kept) : P (dropMsg s badType).kept := by
  unfold dropMsg
  repeat' first
    | with_reducible assumption
    | with_reducible apply State_bumpSat_kept
    | (intro z; refine kept_step (P := P) z ?_ ?_ <;> [unfold z; first | (intro w hw hz; rw [← hw]; clear hw z) | (intro w hw hz; rw [hw] at hz; clear hw w; clear_value z)])
    | lift_lets -underBinder
    | with_reducible refine kept_ite ?_ ?_

theorem putAssembly_kept {P : Kept → Prop} (s : State) (p : Sys2Proof.MctpPkt) (a : Option Assembly) (h_s : P s.kept) : P (putAssembly s p a).kept := by
  unfold putAssembly
  repeat' first
    | with_reducible assumption
    | (intro (z : List _); refine value_step z ?_; intro w hw; (try rw [← hw]); clear hw z)
    | (intro z; refine value_step z ?_; intro w hw; (try rw [← hw]); clear hw z)
    | lift_lets -underBinder
    | (fail_if_no_progress (with_reducible refine kept_rec0 ?_))

theorem assemble_kept {P : Kept → Prop} (s : State) (p : Sys2Proof.MctpPkt) (a : Assembly) (h_s : P s.kept) : P (assemble s p a).kept := by
  unfold assemble
  repeat' first
    | with_reducible assumption
    | with_reducible apply dropMsg_kept
    | with_reducible apply putAssembly_kept
    | with_reducible apply State_bump_kept
    | (intro z; subst z)
    | lift_lets -underBinder
    | with_reducible refine kept_ite ?_ ?_

theorem execMctpMessage_kept {P : Kept → Prop} (p : Sys2Proof.MctpPkt) (t : ℕ) (s : State) (h_s : P s.kept) : NextKept P (execMctpMessage p t s) := by
  unfold execMctpMessage
  repeat' first
    | with_reducible assumption
    | with_reducible refine next_kept ?_
    | with_reducible apply State_upto_kept
    | with_reducible apply putAssembly_kept
    | with_reducible apply dropMsg_kept
    | with_reducible apply assemble_kept
    | (intro z; refine kept_step (P := P) z ?_ ?_ <;> [unfold z; first | (intro w hw hz; rw [← hw]; clear hw z) | (intro w hw hz; rw [hw] at hz; clear hw w; clear_value z)])
    | lift_lets -underBinder
    | with_reducible refine kept_ite ?_ ?_
    | split

theorem execSetEndpointId_kept {P : Kept → Prop} (pcie : Bool) (eid : BitVec 8) (s : State) (h_s : P s.kept) : NextKept P (execSetEndpointId pcie eid s) := by
  unfold execSetEndpointId
  repeat' first
    | with_reducible assumption
    | with_reducible refine next_kept ?_
    | with_reducible apply control_kept
    | with_reducible apply respond_kept
    | with_reducible apply State_set_kept
    | (intro z; refine value_step z ?_; intro w hw; (try rw [← hw]); clear hw z)
    | intro _
    | with_reducible refine kept_ite ?_ ?_

theorem execGetEndpointId_kept {P : Kept → Prop} (pcie : Bool) (s : State) (h_s : P s.kept) : NextKept P (execGetEndpointId pcie s) := by
  unfold execGetEndpointId
  repeat' first
    | with_reducible assumption
    | with_reducible refine next_kept ?_
    | with_reducible apply control_kept
    | with_reducible apply respond_kept
    | (intro z; refine value_step z ?_; intro w hw; (try rw [← hw]); clear hw z)

theorem execGetEndpointUuid_kept {P : Kept → Prop} (pcie : Bool) (s : State) (h_s : P s.kept) : NextKept P (execGetEndpointUuid pcie s) := by
  unfold execGetEndpointUuid
  repeat' first
    | with_reducible assumption
    | with_reducible refine next_kept ?_
    | with_reducible apply control_kept
    | with_reducible apply respond_kept
    | (intro z; refine value_step z ?_; intro w hw; (try rw [← hw]); clear hw z)

theorem execGetMctpVersionSupport_kept {P : Kept → Prop} (pcie : Bool) (type : BitVec 8) (s : State) (h_s : P s.kept) : NextKept P (execGetMctpVersionSupport pcie type s) := by
  unfold execGetMctpVersionSupport
  repeat' first
    | with_reducible assumption
    | with_reducible refine next_kept ?_
    | with_reducible apply control_kept
    | with_reducible apply respond_kept
    | (intro z; refine value_step z ?_; intro w hw; (try rw [← hw]); clear hw z)
    | intro _
    | with_reducible refine kept_ite ?_ ?_

theorem execGetMessageTypeSupport_kept {P : Kept → Prop} (pcie : Bool) (s : State) (h_s : P s.kept) : NextKept P (execGetMessageTypeSupport pcie s) := by
  unfold execGetMessageTypeSupport
  repeat' first
    | with_reducible assumption
    | with_reducible refine next_kept ?_
    | with_reducible apply control_kept
    | with_reducible apply respond_kept
    | (intro z; refine value_step z ?_; intro w hw; (try rw [← hw]); clear hw z)

theorem execGetVendorDefinedMessageSupport_kept {P : Kept → Prop} (pcie : Bool) (sel : BitVec 8) (s : State) (h_s : P s.kept) : NextKept P (execGetVendorDefinedMessageSupport pcie sel s) := by
  unfold execGetVendorDefinedMessageSupport
  repeat' first
    | with_reducible assumption
    | with_reducible refine next_kept ?_
    | with_reducible apply control_kept
    | with_reducible apply respond_kept
    | (intro z; refine value_step z ?_; intro w hw; (try rw [← hw]); clear hw z)
    | intro _
    | with_reducible refine kept_ite ?_ ?_

theorem execGetTid_kept {P : Kept → Prop} (pcie : Bool) (s : State) (h_s : P s.kept) : NextKept P (execGetTid pcie s) := by
  unfold execGetTid
  repeat' first
    | with_reducible assumption
    | with_reducible refine next_kept ?_
    | with_reducible apply withEid_kept
    | with_reducible apply respond_kept
    | (intro z; refine value_step z ?_; intro w hw; (try rw [← hw]); clear hw z)

theorem execSetTid_kept {P : Kept → Prop} (pcie : Bool) (tid : BitVec 8) (s : State) (h_s : P s.kept) : NextKept P (execSetTid pcie tid s) := by
  unfold execSetTid
  repeat' first
    | with_reducible assumption
    | with_reducible refine next_kept ?_
    | with_reducible apply withEid_kept
    | with_reducible apply respond_kept
    | (intro z; refine value_step z ?_; intro w hw; (try rw [← hw]); clear hw z)
    | intro _
    | lift_lets -underBinder
    | with_reducible refine kept_ite ?_ ?_
    | (fail_if_no_progress (with_reducible refine kept_rec0 ?_))

theorem execGetPldmVersion_kept {P : Kept → Prop} (pcie : Bool) (type : BitVec 8) (s : State) (h_s : P s.kept) : NextKept P (execGetPldmVersion pcie type s) := by
  unfold execGetPldmVersion
  repeat' first
    | with_reducible assumption
    | with_reducible refine next_kept ?_
    | with_reducible apply withEid_kept
    | with_reducible apply respond_kept
    | (intro z; refine value_step z ?_; intro w hw; (try rw [← hw]); clear hw z)
    | intro _
    | with_reducible refine kept_ite ?_ ?_

theorem execGetPldmTypes_kept {P : Kept → Prop} (pcie : Bool) (s : State) (h_s : P s.kept) : NextKept P (execGetPldmTypes pcie s) := by
  unfold execGetPldmTypes
  repeat' first
    | with_reducible assumption
    | with_reducible refine next_kept ?_
    | with_reducible apply withEid_kept
    | with_reducible apply respond_kept
    | (intro z; refine value_step z ?_; intro w hw; (try rw [← hw]); clear hw z)

theorem execGetPldmCommands_kept {P : Kept → Prop} (pcie : Bool) (type : BitVec 8) (s : State) (h_s : P s.kept) : NextKept P (execGetPldmCommands pcie type s) := by
  unfold execGetPldmCommands
  repeat' first
    | with_reducible assumption
    | with_reducible refine next_kept ?_
    | with_reducible apply withEid_kept
    | with_reducible apply respond_kept
    | (intro z; refine value_step z ?_; intro w hw; (try rw [← hw]); clear hw z)
    | intro _
    | split

theorem execGetPdrRepositoryInfo_kept {P : Kept → Prop} (pcie : Bool) (s : State) (h_s : P s.kept) : NextKept P (execGetPdrRepositoryInfo pcie s) := by
  unfold execGetPdrRepositoryInfo
  repeat' first
    | with_reducible assumption
    | with_reducible refine next_kept ?_
    | with_reducible apply withEid_kept
    | with_reducible apply respond_kept
    | (intro z; refine value_step z ?_; intro w hw; (try rw [← hw]); clear hw z)

theorem execGetPdr_kept {P : Kept → Prop} (pcie : Bool) (handle : BitVec 32) (s : State) (h_s : P s.kept) : NextKept P (execGetPdr pcie handle s) := by
  unfold execGetPdr
  repeat' first
    | with_reducible assumption
    | with_reducible refine next_kept ?_
    | with_reducible apply withEid_kept
    | with_reducible apply respond_kept
    | (intro z; refine value_step z ?_; intro w hw; (try rw [← hw]); clear hw z)
    | intro _
    | split

theorem execSetEventReceiver_kept {P : Kept → Prop} (pcie : Bool) (eid : BitVec 8) (s : State) (h_s : P s.kept) : NextKept P (execSetEventReceiver pcie eid s) := by
  unfold execSetEventReceiver
  repeat' first
    | with_reducible assumption
    | with_reducible refine next_kept ?_
    | with_reducible apply withEid_kept
    | with_reducible apply respond_kept
    | (intro z; refine value_step z ?_; intro w hw; (try rw [← hw]); clear hw z)
    | intro _
    | lift_lets -underBinder
    | split
    | (fail_if_no_progress (with_reducible refine kept_rec0 ?_))

theorem sensorAnswer_kept {P : Kept → Prop} (s : State) (pcie : Bool) (what : String) (among : List ℕ) (i : ℕ) (h_s : P s.kept) : P (sensorAnswer s pcie what among i).kept := by
  unfold sensorAnswer
  repeat' first
    | with_reducible assumption
    | with_reducible apply respond_kept
    | lift_lets -underBinder
    | with_reducible refine kept_ite ?_ ?_
    | split

theorem execGetSensorReading_kept {P : Kept → Prop} (pcie : Bool) (id : BitVec 16) (s : State) (h_s : P s.kept) : NextKept P (execGetSensorReading pcie id s) := by
  unfold execGetSensorReading
  repeat' first
    | with_reducible assumption
    | with_reducible refine next_kept ?_
    | with_reducible apply withEid_kept
    | with_reducible apply sensorAnswer_kept
    | (intro z; refine value_step z ?_; intro w hw; (try rw [← hw]); clear hw z)

theorem execGetStateSensorReadings_kept {P : Kept → Prop} (pcie : Bool) (id : BitVec 16) (s : State) (h_s : P s.kept) : NextKept P (execGetStateSensorReadings pcie id s) := by
  unfold execGetStateSensorReadings
  repeat' first
    | with_reducible assumption
    | with_reducible refine next_kept ?_
    | with_reducible apply withEid_kept
    | with_reducible apply sensorAnswer_kept
    | (intro z; refine value_step z ?_; intro w hw; (try rw [← hw]); clear hw z)

theorem refreshOne_kept {P : Kept → Prop} (s : State) (i : ℕ) (h_s : P s.kept) : P (refreshOne s i).kept := by
  unfold refreshOne
  repeat' first
    | with_reducible assumption
    | with_reducible apply State_emit_kept
    | (intro z; refine kept_step (P := P) z ?_ ?_ <;> [unfold z; first | (intro w hw hz; rw [← hw]; clear hw z) | (intro w hw hz; rw [hw] at hz; clear hw w; clear_value z)])
    | (intro (z : Bool); refine value_step z ?_; intro w hw; (try rw [← hw]); clear hw z)
    | (intro (z : List _); refine value_step z ?_; intro w hw; (try rw [← hw]); clear hw z)
    | (intro (z : Option _); subst z)
    | (intro z; refine value_step z ?_; intro w hw; (try rw [← hw]); clear hw z)
    | lift_lets -underBinder
    | with_reducible refine kept_ite ?_ ?_
    | (fail_if_no_progress (with_reducible refine kept_rec0 ?_))

theorem execPldmSensorRefresh_kept {P : Kept → Prop} (t : ℕ) (s : State) (h_s : P s.kept) : NextKept P (execPldmSensorRefresh t s) := by
  unfold execPldmSensorRefresh
  repeat' first
    | with_reducible assumption
    | with_reducible refine next_kept ?_
    | with_reducible apply State_upto_kept
    | with_reducible apply refreshOne_kept
    | lift_lets -underBinder
    | with_reducible refine kept_ite ?_ ?_
    | (with_reducible apply kept_foldl <;> intros)

theorem putUpdate_kept {P : Kept → Prop} (s : State) (u : Update) (h_s : P s.kept) : P (putUpdate s u).kept := by
  unfold putUpdate
  repeat' first
    | with_reducible assumption
    | (intro z; refine value_step z ?_; intro w hw; (try rw [← hw]); clear hw z)
    | lift_lets -underBinder
    | (fail_if_no_progress (with_reducible refine kept_rec0 ?_))

theorem execRequestUpdate_kept {P : Kept → Prop} (pcie : Bool) (agent : BitVec 8) (maxTransfer : ℕ) (t : ℕ) (s : State) (h_s : P s.kept) : NextKept P (execRequestUpdate pcie agent maxTransfer t s) := by
  unfold execRequestUpdate
  repeat' first
    | with_reducible assumption
    | with_reducible refine next_kept ?_
    | with_reducible apply State_upto_kept
    | with_reducible apply withEid_kept
    | with_reducible apply respond_kept
    | with_reducible apply State_setFlag_kept
    | with_reducible apply putUpdate_kept
    | (intro z; refine value_step z ?_; intro w hw; (try rw [← hw]); clear hw z)
    | intro _
    | lift_lets -underBinder
    | with_reducible refine kept_ite ?_ ?_

theorem execPassComponentTable_kept {P : Kept → Prop} (pcie : Bool) (agent : BitVec 8) (size : ℕ) (t : ℕ) (s : State) (h_s : P s.kept) : NextKept P (execPassComponentTable pcie agent size t s) := by
  unfold execPassComponentTable
  repeat' first
    | with_reducible assumption
    | with_reducible refine next_kept ?_
    | with_reducible apply State_upto_kept
    | with_reducible apply withEid_kept
    | with_reducible apply respond_kept
    | with_reducible apply putUpdate_kept
    | with_reducible apply State_emit_kept
    | (intro z; refine kept_step (P := P) z ?_ ?_ <;> [unfold z; first | (intro w hw hz; rw [← hw]; clear hw z) | (intro w hw hz; rw [hw] at hz; clear hw w; clear_value z)])
    | (intro z; refine value_step z ?_; intro w hw; (try rw [← hw]); clear hw z)
    | intro _
    | lift_lets -underBinder
    | with_reducible refine kept_ite ?_ ?_
    | split

theorem verifyImage_kept {P : Kept → Prop} (s : State) (pcie : Bool) (u : Update) (image : Option Sys2Proof.Image) (h_s : P s.kept) : P (verifyImage s pcie u image).kept := by
  unfold verifyImage
  repeat' first
    | with_reducible assumption
    | with_reducible apply putUpdate_kept
    | with_reducible apply raiseIrq_kept
    | with_reducible apply State_setFlag_kept
    | with_reducible apply putBank_kept
    | with_reducible apply State_emit_kept
    | (intro z; refine kept_step (P := P) z ?_ ?_ <;> [unfold z; first | (intro w hw hz; rw [← hw]; clear hw z) | (intro w hw hz; rw [hw] at hz; clear hw w; clear_value z)])
    | lift_lets -underBinder
    | with_reducible refine kept_ite ?_ ?_
    | split

theorem execRequestFirmwareData_kept {P : Kept → Prop} (pcie : Bool) (agent : BitVec 8) (len : ℕ) (image : Option Sys2Proof.Image) (t : ℕ) (s : State) (h_s : P s.kept) : NextKept P (execRequestFirmwareData pcie agent len image t s) := by
  unfold execRequestFirmwareData
  repeat' first
    | with_reducible assumption
    | with_reducible refine next_kept ?_
    | with_reducible apply State_upto_kept
    | with_reducible apply withEid_kept
    | with_reducible apply putUpdate_kept
    | with_reducible apply verifyImage_kept
    | with_reducible apply State_emit_kept
    | (intro z; refine kept_step (P := P) z ?_ ?_ <;> [unfold z; first | (intro w hw hz; rw [← hw]; clear hw z) | (intro w hw hz; rw [hw] at hz; clear hw w; clear_value z)])
    | (intro z; refine value_step z ?_; intro w hw; (try rw [← hw]); clear hw z)
    | intro _
    | lift_lets -underBinder
    | with_reducible refine kept_ite ?_ ?_
    | split
    | (fail_if_no_progress (with_reducible refine kept_rec0 ?_))

theorem execActivateFirmware_kept {P : Kept → Prop} (pcie : Bool) (agent : BitVec 8) (t : ℕ) (s : State) (h_s : P s.kept) : NextKept P (execActivateFirmware pcie agent t s) := by
  unfold execActivateFirmware
  repeat' first
    | with_reducible assumption
    | with_reducible refine next_kept ?_
    | with_reducible apply State_upto_kept
    | with_reducible apply withEid_kept
    | with_reducible apply respond_kept
    | with_reducible apply putUpdate_kept
    | with_reducible apply rollStart_kept
    | (intro z; refine value_step z ?_; intro w hw; (try rw [← hw]); clear hw z)
    | intro _
    | lift_lets -underBinder
    | with_reducible refine kept_ite ?_ ?_
    | split
    | (fail_if_no_progress (with_reducible refine kept_rec0 ?_))

theorem execUpdateAgentTimeout_kept {P : Kept → Prop} (t : ℕ) (s : State) (h_s : P s.kept) : NextKept P (execUpdateAgentTimeout t s) := by
  unfold execUpdateAgentTimeout
  repeat' first
    | with_reducible assumption
    | with_reducible refine next_kept ?_
    | with_reducible apply State_upto_kept
    | with_reducible apply State_setFlag_kept
    | (intro z; refine value_step z ?_; intro w hw; (try rw [← hw]); clear hw z)
    | lift_lets -underBinder
    | with_reducible refine kept_ite ?_ ?_
    | split
    | (fail_if_no_progress (with_reducible refine kept_rec0 ?_))

theorem vendorSay_kept {P : Kept → Prop} (s : State) (pcie : Bool) (cmd : ℕ) (c : Sys2Proof.Code) (inst : ℕ) (b : List Sys2Proof.Byte) (h_s : P s.kept) : P (vendorSay s pcie cmd c inst b).kept := by
  unfold vendorSay
  repeat' first
    | with_reducible assumption
    | with_reducible apply respond_kept

theorem vendor_kept {P : Kept → Prop} (s : State) (pcie : Bool) (cmd : ℕ) (inst : ℕ) (lenOk : Bool) (go : State → State) (h_s : P s.kept) (h_go : ∀ x0, P x0.kept → P (go x0).kept) : P (vendor s pcie cmd inst lenOk go).kept := by
  unfold vendor
  repeat' first
    | with_reducible assumption
    | with_reducible apply withEid_kept
    | with_reducible apply vendorSay_kept
    | apply h_go
    | (intro z; refine value_step z ?_; intro w hw; (try rw [← hw]); clear hw z)
    | intro _
    | lift_lets -underBinder
    | with_reducible refine kept_ite ?_ ?_

theorem execGetIdentity_kept {P : Kept → Prop} (pcie : Bool) (inst : BitVec 8) (s : State) (h_s : P s.kept) : NextKept P (execGetIdentity pcie inst s) := by
  unfold execGetIdentity
  repeat' first
    | with_reducible assumption
    | with_reducible refine next_kept ?_
    | with_reducible apply vendor_kept
    | with_reducible apply vendorSay_kept
    | (intro z; refine value_step z ?_; intro w hw; (try rw [← hw]); clear hw z)

theorem execGetCert_kept {P : Kept → Prop} (pcie : Bool) (inst : BitVec 8) (off : BitVec 32) (len : BitVec 16) (s : State) (h_s : P s.kept) : NextKept P (execGetCert pcie inst off len s) := by
  unfold execGetCert
  repeat' first
    | with_reducible assumption
    | with_reducible refine next_kept ?_
    | with_reducible apply vendor_kept
    | with_reducible apply vendorSay_kept
    | (intro z; refine value_step z ?_; intro w hw; (try rw [← hw]); clear hw z)
    | intro _
    | with_reducible refine kept_ite ?_ ?_

theorem reportNow_kept {P : Kept → Prop} (s : State) (r : ReportReq) (h_s : P s.kept) : P (reportNow s r).kept := by
  unfold reportNow
  repeat' first
    | with_reducible assumption
    | with_reducible apply makeReport_kept
    | with_reducible apply vendorSay_kept
    | (intro z; refine value_step z ?_; intro w hw; (try rw [← hw]); clear hw z)
    | lift_lets -underBinder
    | split
    | refine kept_snd (by with_reducible assumption) ?_
    | (fail_if_no_progress (with_reducible refine kept_rec0 ?_))

theorem execGetReport_kept {P : Kept → Prop} (pcie : Bool) (inst : BitVec 8) (dom : BitVec 8) (nonce : List Sys2Proof.Byte) (t : ℕ) (s : State) (h_s : P s.kept) : NextKept P (execGetReport pcie inst dom nonce t s) := by
  unfold execGetReport
  repeat' first
    | with_reducible assumption
    | with_reducible refine next_kept ?_
    | with_reducible apply State_upto_kept
    | with_reducible apply vendor_kept
    | with_reducible apply vendorSay_kept
    | with_reducible apply reportNow_kept
    | (intro z; refine value_step z ?_; intro w hw; (try rw [← hw]); clear hw z)
    | intro _
    | lift_lets -underBinder
    | with_reducible refine kept_ite ?_ ?_
    | (fail_if_no_progress (with_reducible refine kept_rec0 ?_))

theorem execGetXmss_kept {P : Kept → Prop} (pcie : Bool) (inst : BitVec 8) (s : State) (h_s : P s.kept) : NextKept P (execGetXmss pcie inst s) := by
  unfold execGetXmss
  repeat' first
    | with_reducible assumption
    | with_reducible refine next_kept ?_
    | with_reducible apply vendor_kept
    | with_reducible apply vendorSay_kept
    | (intro z; refine value_step z ?_; intro w hw; (try rw [← hw]); clear hw z)

theorem execXmssBlockCommit_kept {P : Kept → Prop} (t : ℕ) (s : State) (h_s : P s.kept) : NextKept P (execXmssBlockCommit t s) := by
  unfold execXmssBlockCommit
  repeat' first
    | with_reducible assumption
    | with_reducible refine next_kept ?_
    | with_reducible apply State_upto_kept
    | with_reducible apply State_set_kept
    | with_reducible apply reportNow_kept
    | (intro z; refine kept_step (P := P) z ?_ ?_ <;> [unfold z; first | (intro w hw hz; rw [← hw]; clear hw z) | (intro w hw hz; rw [hw] at hz; clear hw w; clear_value z)])
    | (intro (z : List _); refine value_step z ?_; intro w hw; (try rw [← hw]); clear hw z)
    | (intro z; refine value_step z ?_; intro w hw; (try rw [← hw]); clear hw z)
    | lift_lets -underBinder
    | with_reducible refine kept_ite ?_ ?_
    | (with_reducible apply kept_foldl <;> intros)
    | (fail_if_no_progress (with_reducible refine kept_rec0 ?_))

theorem execMgtBusTimeout_kept {P : Kept → Prop} (hP : MemClosed P) (bus : Sys2Proof.SideBus) (t : ℕ) (s : State) (h_s : P s.kept) : NextKept P (execMgtBusTimeout bus t s) := by
  unfold execMgtBusTimeout
  repeat' first
    | with_reducible assumption
    | with_reducible refine next_kept ?_
    | with_reducible apply State_upto_kept
    | with_reducible apply State_set_kept
    | with_reducible apply State_bumpSat_kept
    | with_reducible apply wake_kept
    | with_reducible apply laserFail_kept
    | with_reducible apply State_setFlag_kept
    | with_reducible apply State_emit_kept
    | (intro z; refine kept_step (P := P) z ?_ ?_ <;> [unfold z; first | (intro w hw hz; rw [← hw]; clear hw z) | (intro w hw hz; rw [hw] at hz; clear hw w; clear_value z)])
    | (intro (z : Nat); refine value_step z ?_; intro w hw; (try rw [← hw]); clear hw z)
    | lift_lets -underBinder
    | with_reducible refine kept_ite ?_ ?_
    | split

theorem telemSnap_kept {P : Kept → Prop} (s : State) (h_s : P s.kept) : P (telemSnap s).kept := by
  unfold telemSnap
  repeat' first
    | with_reducible assumption
    | with_reducible apply State_set_kept
    | (intro z; refine value_step z ?_; intro w hw; (try rw [← hw]); clear hw z)
    | lift_lets -underBinder
    | (fail_if_no_progress (with_reducible refine kept_rec0 ?_))

theorem execDebugOpen_kept {P : Kept → Prop} (token : List Sys2Proof.Byte) (t : ℕ) (s : State) (h_s : P s.kept) : NextKept P (execDebugOpen token t s) := by
  unfold execDebugOpen
  repeat' first
    | with_reducible assumption
    | with_reducible refine next_kept ?_
    | with_reducible apply State_upto_kept
    | with_reducible apply State_bumpSat_kept
    | with_reducible apply State_setFlag_kept
    | (intro z; refine value_step z ?_; intro w hw; (try rw [← hw]); clear hw z)
    | lift_lets -underBinder
    | with_reducible refine kept_ite ?_ ?_
    | (fail_if_no_progress (with_reducible refine kept_rec0 ?_))

theorem execTapInstruction_kept {P : Kept → Prop} (instr : String) (s : State) (h_s : P s.kept) : NextKept P (execTapInstruction instr s) := by
  unfold execTapInstruction
  repeat' first
    | with_reducible assumption
    | with_reducible refine next_kept ?_
    | with_reducible apply State_emit_kept

end Sys2Proof.Machine
end

