-- ==== Sys2Proof/Laws/KeptDescriptors.lean ====
section
/-! SUPPORT. What the operations of Descriptors.lean keep of the queue and the memory, one lemma each. -/

set_option maxRecDepth 100000
set_option linter.all false

namespace Sys2Proof.Machine

open Sys2Proof

theorem queueDesc_kept {P : Kept → Prop} (s : State) (j : Job) (h_s : P s.kept) : P (queueDesc s j).kept := by
  unfold queueDesc
  repeat' first
    | with_reducible assumption
    | with_reducible apply restoreCtx_kept
    | with_reducible apply finishJob_kept
    | with_reducible apply State_bumpSat_kept
    | with_reducible apply segLook_kept
    | with_reducible apply workArrives_kept
    | with_reducible apply putJob_kept
    | (intro (z : Nat); refine value_step z ?_; intro w hw; (try rw [← hw]); clear hw z)
    | (intro (z : _ → _); subst z)
    | lift_lets -underBinder
    | with_reducible refine kept_ite ?_ ?_
    | split
    | (with_reducible apply kept_foldl <;> intros)

theorem chainTooLong_kept {P : Kept → Prop} (s : State) (g : ℕ) (i : ℕ) (h_s : P s.kept) : P (chainTooLong s g i).kept := by
  unfold chainTooLong
  repeat' first
    | with_reducible assumption
    | with_reducible apply putJob_kept
    | with_reducible apply skipChain_kept
    | (intro z; refine kept_step (P := P) z ?_ ?_ <;> [unfold z; first | (intro w hw hz; rw [← hw]; clear hw z) | (intro w hw hz; rw [hw] at hz; clear hw w; clear_value z)])
    | (intro (z : List _); refine value_step z ?_; intro w hw; (try rw [← hw]); clear hw z)
    | lift_lets -underBinder
    | with_reducible refine kept_ite ?_ ?_
    | split
    | (with_reducible apply kept_foldl <;> intros)

theorem freeFetch_kept {P : Kept → Prop} (s : State) (g : ℕ) (i : ℕ) (h_s : P s.kept) : P (freeFetch s g i).kept := by
  unfold freeFetch
  repeat' first
    | with_reducible assumption
    | (intro (z : _ → _); subst z)
    | (intro z; refine value_step z ?_; intro w hw; (try rw [← hw]); clear hw z)
    | lift_lets -underBinder
    | (fail_if_no_progress (with_reducible refine kept_rec0 ?_))

theorem moveCi_kept {P : Kept → Prop} (s : State) (g : ℕ) (h_s : P s.kept) : P (moveCi s g).kept := by
  unfold moveCi
  repeat' first
    | with_reducible assumption
    | with_reducible apply State_putRing_kept

theorem readFails_kept {P : Kept → Prop} (s : State) (g : ℕ) (i : ℕ) (h_s : P s.kept) : P (readFails s g i).kept := by
  unfold readFails
  repeat' first
    | with_reducible assumption
    | with_reducible apply State_putRing_kept
    | with_reducible apply freeFetch_kept
    | with_reducible apply postRas_kept
    | with_reducible apply checkDrained_kept
    | (intro z; refine kept_step (P := P) z ?_ ?_ <;> [unfold z; first | (intro w hw hz; rw [← hw]; clear hw z) | (intro w hw hz; rw [hw] at hz; clear hw w; clear_value z)])
    | (intro (z : Nat); refine value_step z ?_; intro w hw; (try rw [← hw]); clear hw z)
    | (intro z; refine value_step z ?_; intro w hw; (try rw [← hw]); clear hw z)
    | lift_lets -underBinder
    | with_reducible refine kept_ite ?_ ?_
    | (fail_if_no_progress (with_reducible refine kept_rec0 ?_))

theorem readArrives_kept {P : Kept → Prop} (s : State) (j : Job) (ws : List Sys2Proof.Word) (h_s : P s.kept) : P (readArrives s j ws).kept := by
  unfold readArrives
  repeat' first
    | with_reducible assumption
    | with_reducible apply moveCi_kept
    | with_reducible apply freeFetch_kept
    | with_reducible apply putJob_kept
    | with_reducible apply State_putRing_kept
    | with_reducible apply skipChain_kept
    | with_reducible apply finishJob_kept
    | with_reducible apply chainTooLong_kept
    | with_reducible apply queueDesc_kept
    | (intro z; refine kept_step (P := P) z ?_ ?_ <;> [unfold z; first | (intro w hw hz; rw [← hw]; clear hw z) | (intro w hw hz; rw [hw] at hz; clear hw w; clear_value z)])
    | (intro (z : Nat); refine value_step z ?_; intro w hw; (try rw [← hw]); clear hw z)
    | (intro z; refine value_step z ?_; intro w hw; (try rw [← hw]); clear hw z)
    | lift_lets -underBinder
    | with_reducible refine kept_ite ?_ ?_
    | split

theorem execDescriptorReadComplete_kept {P : Kept → Prop} (g : Fin 1048576) (i : Fin 65536) (words : Option (List Sys2Proof.Word)) (t : ℕ) (s : State) (h_s : P s.kept) : NextKept P (execDescriptorReadComplete g i words t s) := by
  unfold execDescriptorReadComplete
  repeat' first
    | with_reducible assumption
    | with_reducible refine next_kept ?_
    | with_reducible apply State_upto_kept
    | with_reducible apply readArrives_kept
    | with_reducible apply readFails_kept
    | lift_lets -underBinder
    | with_reducible refine kept_ite ?_ ?_
    | split

theorem execCompletionTimeout_kept {P : Kept → Prop} (g : Fin 1048576) (i : Fin 65536) (t : ℕ) (s : State) (h_s : P s.kept) : NextKept P (execCompletionTimeout g i t s) := by
  unfold execCompletionTimeout
  repeat' first
    | with_reducible assumption
    | with_reducible refine next_kept ?_
    | with_reducible apply State_upto_kept
    | with_reducible apply readFails_kept
    | lift_lets -underBinder
    | with_reducible refine kept_ite ?_ ?_
    | split

theorem outFails_kept {P : Kept → Prop} (s : State) (o : OutReq) (c : Sys2Proof.Code) (h_s : P s.kept) : P (outFails s o c).kept := by
  unfold outFails
  repeat' first
    | with_reducible assumption
    | with_reducible apply readFails_kept
    | with_reducible apply putJob_kept
    | with_reducible apply finishJob_kept
    | lift_lets -underBinder
    | with_reducible refine kept_ite ?_ ?_
    | split
    | (with_reducible apply kept_foldl <;> intros)

theorem execReply_kept {P : Kept → Prop} (hP : MemClosed P) (p : Fin 6) (tag : Fin 8192) (code : Sys2Proof.Code) (detail : BitVec 32) (t : ℕ) (s : State) (h_s : P s.kept) : NextKept P (execReply p tag code detail t s) := by
  unfold execReply
  repeat' first
    | with_reducible assumption
    | with_reducible refine next_kept ?_
    | with_reducible apply State_upto_kept
    | with_reducible apply wake_kept
    | with_reducible apply outFails_kept
    | with_reducible apply sendOut_kept
    | (intro z; refine kept_step (P := P) z ?_ ?_ <;> [unfold z; first | (intro w hw hz; rw [← hw]; clear hw z) | (intro w hw hz; rw [hw] at hz; clear hw w; clear_value z)])
    | (intro (z : _ → _); subst z)
    | (intro z; refine value_step z ?_; intro w hw; (try rw [← hw]); clear hw z)
    | lift_lets -underBinder
    | with_reducible refine kept_ite ?_ ?_
    | split
    | (fail_if_no_progress (with_reducible refine kept_rec0 ?_))

end Sys2Proof.Machine
end

