-- ==== Sys2Proof/Laws/KeptRegWrite.lean ====
section
/-! SUPPORT. What the operations of RegWrite.lean keep of the queue and the memory, one lemma each. -/

set_option maxRecDepth 100000
set_option linter.all false

namespace Sys2Proof.Machine

open Sys2Proof

theorem writeField_kept {P : Kept → Prop} (r : Sys2Proof.RegSpec) (off : ℕ) (locked : Bool) (w : ℕ) (s : State) (x : Sys2Proof.FSpec) (h_s : P s.kept) : P (writeField r off locked w s x).kept := by
  unfold writeField
  repeat' first
    | with_reducible assumption
    | with_reducible apply State_set_kept
    | (intro (z : Nat); refine value_step z ?_; intro w hw; (try rw [← hw]); clear hw z)
    | (intro z; refine value_step z ?_; intro w hw; (try rw [← hw]); clear hw z)
    | lift_lets -underBinder
    | with_reducible refine kept_ite ?_ ?_
    | split

theorem regCommand_kept {P : Kept → Prop} (hP : MemClosed P) (s : State) (r : Sys2Proof.RegSpec) (off : ℕ) (w : ℕ) (h_s : P s.kept) : P (regCommand s r off w).kept := by
  unfold regCommand
  repeat' first
    | with_reducible assumption
    | with_reducible apply State_setFlag_kept
    | with_reducible apply touchMaxClear_kept
    | with_reducible apply hbmClr_kept
    | with_reducible apply slotUp_kept
    | with_reducible apply ddrRetire_kept
    | with_reducible apply ddrReturn_kept
    | with_reducible apply ddrClr_kept
    | with_reducible apply anvFlagClear_kept
    | with_reducible apply maintFlush_kept
    | with_reducible apply maintAcquire_kept
    | with_reducible apply maintFlushAll_kept
    | with_reducible apply conflictClear_kept
    | with_reducible apply retireLink_kept
    | with_reducible apply returnLink_kept
    | with_reducible apply retrainLink_kept
    | with_reducible apply enterDeep_kept
    | with_reducible apply wakeUp_kept
    | with_reducible apply telemSnap_kept
    | (intro z; refine kept_step (P := P) z ?_ ?_ <;> [unfold z; first | (intro w hw hz; rw [← hw]; clear hw z) | (intro w hw hz; rw [hw] at hz; clear hw w; clear_value z)])
    | (intro (z : Nat); refine value_step z ?_; intro w hw; (try rw [← hw]); clear hw z)
    | (intro (z : _ → _); subst z)
    | lift_lets -underBinder
    | with_reducible refine kept_ite ?_ ?_
    | split

theorem plainWrite_kept {P : Kept → Prop} (hP : MemClosed P) (s : State) (r : Sys2Proof.RegSpec) (off : ℕ) (w : ℕ) (h_s : P s.kept) : P (plainWrite s r off w).kept := by
  unfold plainWrite
  repeat' first
    | with_reducible assumption
    | with_reducible apply regCommand_kept
    | with_reducible apply writeField_kept
    | lift_lets -underBinder
    | (with_reducible apply kept_foldl <;> intros)

theorem writeEn_kept {P : Kept → Prop} (hP : MemClosed P) (s : State) (p : ℕ) (en : Bool) (h_s : P s.kept) : P (writeEn s p en).kept := by
  unfold writeEn
  repeat' first
    | with_reducible assumption
    | with_reducible apply enablePort_kept
    | with_reducible refine kept_ite ?_ ?_

theorem regWrite_kept {P : Kept → Prop} (hP : MemClosed P) (s : State) (r : Sys2Proof.RegSpec) (off : ℕ) (w : ℕ) (h_s : P s.kept) : P (regWrite s r off w).kept := by
  unfold regWrite
  repeat' first
    | with_reducible assumption
    | with_reducible apply limitsWrite_kept
    | with_reducible apply plainWrite_kept
    | with_reducible apply qcRead_kept
    | with_reducible apply qcWrite_kept
    | with_reducible apply qcDisable_kept
    | with_reducible apply tqRead_kept
    | with_reducible apply tqWrite_kept
    | with_reducible apply writeEn_kept
    | with_reducible apply State_setFlag_kept
    | (intro z; refine kept_step (P := P) z ?_ ?_ <;> [unfold z; first | (intro w hw hz; rw [← hw]; clear hw z) | (intro w hw hz; rw [hw] at hz; clear hw w; clear_value z)])
    | (intro (z : Nat); refine value_step z ?_; intro w hw; (try rw [← hw]); clear hw z)
    | (intro (z : Bool); refine value_step z ?_; intro w hw; (try rw [← hw]); clear hw z)
    | lift_lets -underBinder
    | with_reducible refine kept_ite ?_ ?_
    | split

theorem mgmtAccess_kept {P : Kept → Prop} (served : Bool) (s : State) (refused : State → State) (go : State → State) (h_s : P s.kept) (h_refused : ∀ x0, P x0.kept → P (refused x0).kept) (h_go : ∀ x0, P x0.kept → P (go x0).kept) : P (mgmtAccess served s refused go).kept := by
  unfold mgmtAccess
  repeat' first
    | with_reducible assumption
    | with_reducible apply mgmtTouch_kept
    | apply h_refused
    | apply h_go
    | lift_lets -underBinder
    | with_reducible refine kept_ite ?_ ?_

theorem mgmtWrite_kept {P : Kept → Prop} (served : Bool) (s : State) (go : State → State) (h_s : P s.kept) (h_go : ∀ x0, P x0.kept → P (go x0).kept) : P (mgmtWrite served s go).kept := by
  unfold mgmtWrite
  repeat' first
    | with_reducible assumption
    | with_reducible apply mgmtAccess_kept
    | apply h_go
    | (intro z; refine value_step z ?_; intro w hw; (try rw [← hw]); clear hw z)
    | intro _
    | with_reducible refine kept_ite ?_ ?_
    | (fail_if_no_progress (with_reducible refine kept_id ?_))

theorem mgmtRead_kept {P : Kept → Prop} (served : Bool) (s : State) (v : ℕ) (go : State → State) (h_s : P s.kept) (h_go : ∀ x0, P x0.kept → P (go x0).kept) : P (mgmtRead served s v go).kept := by
  unfold mgmtRead
  repeat' first
    | with_reducible assumption
    | with_reducible apply mgmtAccess_kept
    | with_reducible apply State_emit_kept
    | apply h_go
    | (intro z; refine value_step z ?_; intro w hw; (try rw [← hw]); clear hw z)

theorem writeAt_kept {P : Kept → Prop} (hP : MemClosed P) (s : State) (off : ℕ) (w : ℕ) (h_s : P s.kept) : P (writeAt s off w).kept := by
  unfold writeAt
  repeat' first
    | with_reducible assumption
    | with_reducible apply State_bump_kept
    | with_reducible apply regWrite_kept
    | lift_lets -underBinder
    | with_reducible refine kept_ite ?_ ?_
    | split

theorem execRegisterWrite_kept {P : Kept → Prop} (hP : MemClosed P) (off : Fin 524288) (val : Sys2Proof.Word) (t : ℕ) (s : State) (h_s : P s.kept) : NextKept P (execRegisterWrite off val t s) := by
  unfold execRegisterWrite
  repeat' first
    | with_reducible assumption
    | with_reducible refine next_kept ?_
    | with_reducible apply mgmtWrite_kept
    | with_reducible apply State_upto_kept
    | with_reducible apply writeAt_kept
    | (intro z; refine value_step z ?_; intro w hw; (try rw [← hw]); clear hw z)

theorem execPartialRegisterAccess_kept {P : Kept → Prop} (off : Fin 524288) (write : Bool) (s : State) (h_s : P s.kept) : NextKept P (execPartialRegisterAccess off write s) := by
  unfold execPartialRegisterAccess
  repeat' first
    | with_reducible assumption
    | with_reducible refine next_kept ?_
    | with_reducible apply State_bump_kept
    | with_reducible apply mgmtWrite_kept
    | with_reducible apply mgmtRead_kept
    | (intro z; refine value_step z ?_; intro w hw; (try rw [← hw]); clear hw z)
    | lift_lets -underBinder
    | with_reducible refine kept_ite ?_ ?_

theorem execUnmappedAccess_kept {P : Kept → Prop} (off : Fin 524288) (write : Bool) (s : State) (h_s : P s.kept) : NextKept P (execUnmappedAccess off write s) := by
  unfold execUnmappedAccess
  repeat' first
    | with_reducible assumption
    | with_reducible refine next_kept ?_
    | with_reducible apply State_bump_kept
    | with_reducible apply mgmtWrite_kept
    | with_reducible apply mgmtRead_kept
    | (intro z; refine value_step z ?_; intro w hw; (try rw [← hw]); clear hw z)
    | lift_lets -underBinder
    | with_reducible refine kept_ite ?_ ?_

theorem cpWrite_kept {P : Kept → Prop} (s : State) (off : ℕ) (w : ℕ) (h_s : P s.kept) : P (cpWrite s off w).kept := by
  unfold cpWrite
  repeat' first
    | with_reducible assumption
    | with_reducible apply postCpair_kept
    | with_reducible apply State_bump_kept
    | (intro (z : Nat); refine value_step z ?_; intro w hw; (try rw [← hw]); clear hw z)
    | lift_lets -underBinder
    | with_reducible refine kept_ite ?_ ?_
    | (fail_if_no_progress (with_reducible refine kept_rec0 ?_))

theorem execCpRegisterWrite_kept {P : Kept → Prop} (i : Fin 65536) (val : Sys2Proof.Word) (t : ℕ) (s : State) (h_s : P s.kept) : NextKept P (execCpRegisterWrite i val t s) := by
  unfold execCpRegisterWrite
  repeat' first
    | with_reducible assumption
    | with_reducible refine next_kept ?_
    | with_reducible apply mgmtWrite_kept
    | with_reducible apply State_upto_kept
    | with_reducible apply cpWrite_kept
    | (intro z; refine value_step z ?_; intro w hw; (try rw [← hw]); clear hw z)

theorem execDeepIdleMgmtAccess_kept {P : Kept → Prop} (hP : MemClosed P) (a : Sys2Proof.MgmtAccess) (t : ℕ) (s : State) (h_s : P s.kept) : NextKept P (execDeepIdleMgmtAccess a t s) := by
  unfold execDeepIdleMgmtAccess
  repeat' first
    | with_reducible assumption
    | with_reducible refine next_kept ?_
    | with_reducible apply State_upto_kept
    | with_reducible apply mgmtWrite_kept
    | with_reducible apply writeAt_kept
    | with_reducible apply mgmtRead_kept
    | with_reducible apply State_bump_kept
    | (intro z; refine value_step z ?_; intro w hw; (try rw [← hw]); clear hw z)
    | intro _
    | lift_lets -underBinder
    | with_reducible refine kept_ite ?_ ?_
    | split

theorem execDdrRetire_kept {P : Kept → Prop} (d : Fin 32) (s : State) (h_s : P s.kept) : NextKept P (execDdrRetire d s) := by
  unfold execDdrRetire
  repeat' first
    | with_reducible assumption
    | with_reducible refine next_kept ?_
    | with_reducible apply mgmtWrite_kept
    | with_reducible apply ddrRetire_kept
    | (intro z; refine value_step z ?_; intro w hw; (try rw [← hw]); clear hw z)

theorem execDdrReturn_kept {P : Kept → Prop} (d : Fin 32) (s : State) (h_s : P s.kept) : NextKept P (execDdrReturn d s) := by
  unfold execDdrReturn
  repeat' first
    | with_reducible assumption
    | with_reducible refine next_kept ?_
    | with_reducible apply mgmtWrite_kept
    | with_reducible apply ddrReturn_kept
    | (intro z; refine value_step z ?_; intro w hw; (try rw [← hw]); clear hw z)

theorem execDdrClrCounts_kept {P : Kept → Prop} (d : Fin 32) (s : State) (h_s : P s.kept) : NextKept P (execDdrClrCounts d s) := by
  unfold execDdrClrCounts
  repeat' first
    | with_reducible assumption
    | with_reducible refine next_kept ?_
    | with_reducible apply mgmtWrite_kept
    | with_reducible apply ddrClr_kept
    | (intro z; refine value_step z ?_; intro w hw; (try rw [← hw]); clear hw z)

theorem execHbmClrCounts_kept {P : Kept → Prop} (m : Fin 8) (s : State) (h_s : P s.kept) : NextKept P (execHbmClrCounts m s) := by
  unfold execHbmClrCounts
  repeat' first
    | with_reducible assumption
    | with_reducible refine next_kept ?_
    | with_reducible apply mgmtWrite_kept
    | with_reducible apply hbmClr_kept
    | (intro z; refine value_step z ?_; intro w hw; (try rw [← hw]); clear hw z)

theorem execTouchMaxClear_kept {P : Kept → Prop} (n : Fin 4) (s : State) (h_s : P s.kept) : NextKept P (execTouchMaxClear n s) := by
  unfold execTouchMaxClear
  repeat' first
    | with_reducible assumption
    | with_reducible refine next_kept ?_
    | with_reducible apply mgmtWrite_kept
    | with_reducible apply touchMaxClear_kept
    | (intro z; refine value_step z ?_; intro w hw; (try rw [← hw]); clear hw z)

theorem execAnvFlagClear_kept {P : Kept → Prop} (p : Fin 6) (s : State) (h_s : P s.kept) : NextKept P (execAnvFlagClear p s) := by
  unfold execAnvFlagClear
  repeat' first
    | with_reducible assumption
    | with_reducible refine next_kept ?_
    | with_reducible apply mgmtWrite_kept
    | with_reducible apply anvFlagClear_kept
    | (intro z; refine value_step z ?_; intro w hw; (try rw [← hw]); clear hw z)

theorem execRingQcRead_kept {P : Kept → Prop} (g : Fin 1048576) (s : State) (h_s : P s.kept) : NextKept P (execRingQcRead g s) := by
  unfold execRingQcRead
  repeat' first
    | with_reducible assumption
    | with_reducible refine next_kept ?_
    | with_reducible apply mgmtWrite_kept
    | with_reducible apply qcRead_kept
    | (intro z; refine value_step z ?_; intro w hw; (try rw [← hw]); clear hw z)

theorem execRingQcWrite_kept {P : Kept → Prop} (g : Fin 1048576) (t : ℕ) (s : State) (h_s : P s.kept) : NextKept P (execRingQcWrite g t s) := by
  unfold execRingQcWrite
  repeat' first
    | with_reducible assumption
    | with_reducible refine next_kept ?_
    | with_reducible apply mgmtWrite_kept
    | with_reducible apply State_upto_kept
    | with_reducible apply qcWrite_kept
    | (intro z; refine value_step z ?_; intro w hw; (try rw [← hw]); clear hw z)

theorem execRingQcDisable_kept {P : Kept → Prop} (g : Fin 1048576) (t : ℕ) (s : State) (h_s : P s.kept) : NextKept P (execRingQcDisable g t s) := by
  unfold execRingQcDisable
  repeat' first
    | with_reducible assumption
    | with_reducible refine next_kept ?_
    | with_reducible apply mgmtWrite_kept
    | with_reducible apply State_upto_kept
    | with_reducible apply qcDisable_kept
    | (intro z; refine value_step z ?_; intro w hw; (try rw [← hw]); clear hw z)

theorem execTpMaintFlush_kept {P : Kept → Prop} (hP : MemClosed P) (n : Fin 16) (t : ℕ) (s : State) (h_s : P s.kept) : NextKept P (execTpMaintFlush n t s) := by
  unfold execTpMaintFlush
  repeat' first
    | with_reducible assumption
    | with_reducible refine next_kept ?_
    | with_reducible apply mgmtWrite_kept
    | with_reducible apply State_upto_kept
    | with_reducible apply maintFlush_kept
    | (intro z; refine value_step z ?_; intro w hw; (try rw [← hw]); clear hw z)

theorem execTpMaintAcquire_kept {P : Kept → Prop} (hP : MemClosed P) (n : Fin 16) (t : ℕ) (s : State) (h_s : P s.kept) : NextKept P (execTpMaintAcquire n t s) := by
  unfold execTpMaintAcquire
  repeat' first
    | with_reducible assumption
    | with_reducible refine next_kept ?_
    | with_reducible apply mgmtWrite_kept
    | with_reducible apply State_upto_kept
    | with_reducible apply maintAcquire_kept
    | (intro z; refine value_step z ?_; intro w hw; (try rw [← hw]); clear hw z)

theorem execTpMaintFlushAll_kept {P : Kept → Prop} (hP : MemClosed P) (n : Fin 16) (t : ℕ) (s : State) (h_s : P s.kept) : NextKept P (execTpMaintFlushAll n t s) := by
  unfold execTpMaintFlushAll
  repeat' first
    | with_reducible assumption
    | with_reducible refine next_kept ?_
    | with_reducible apply mgmtWrite_kept
    | with_reducible apply State_upto_kept
    | with_reducible apply maintFlushAll_kept
    | (intro z; refine value_step z ?_; intro w hw; (try rw [← hw]); clear hw z)

theorem execTileConflictClear_kept {P : Kept → Prop} (g : Fin 64) (s : State) (h_s : P s.kept) : NextKept P (execTileConflictClear g s) := by
  unfold execTileConflictClear
  repeat' first
    | with_reducible assumption
    | with_reducible refine next_kept ?_
    | with_reducible apply mgmtWrite_kept
    | with_reducible apply conflictClear_kept
    | (intro z; refine value_step z ?_; intro w hw; (try rw [← hw]); clear hw z)

theorem execLinkRetire_kept {P : Kept → Prop} (hP : MemClosed P) (p : Fin 6) (l : Fin 6) (t : ℕ) (s : State) (h_s : P s.kept) : NextKept P (execLinkRetire p l t s) := by
  unfold execLinkRetire
  repeat' first
    | with_reducible assumption
    | with_reducible refine next_kept ?_
    | with_reducible apply mgmtWrite_kept
    | with_reducible apply State_upto_kept
    | with_reducible apply retireLink_kept
    | (intro z; refine value_step z ?_; intro w hw; (try rw [← hw]); clear hw z)

theorem execLinkReturn_kept {P : Kept → Prop} (p : Fin 6) (l : Fin 6) (t : ℕ) (s : State) (h_s : P s.kept) : NextKept P (execLinkReturn p l t s) := by
  unfold execLinkReturn
  repeat' first
    | with_reducible assumption
    | with_reducible refine next_kept ?_
    | with_reducible apply mgmtWrite_kept
    | with_reducible apply State_upto_kept
    | with_reducible apply returnLink_kept
    | (intro z; refine value_step z ?_; intro w hw; (try rw [← hw]); clear hw z)

theorem execLinkRetrain_kept {P : Kept → Prop} (hP : MemClosed P) (p : Fin 6) (l : Fin 6) (t : ℕ) (s : State) (h_s : P s.kept) : NextKept P (execLinkRetrain p l t s) := by
  unfold execLinkRetrain
  repeat' first
    | with_reducible assumption
    | with_reducible refine next_kept ?_
    | with_reducible apply mgmtWrite_kept
    | with_reducible apply State_upto_kept
    | with_reducible apply retrainLink_kept
    | (intro z; refine value_step z ?_; intro w hw; (try rw [← hw]); clear hw z)

theorem execPortEnable_kept {P : Kept → Prop} (hP : MemClosed P) (p : Fin 6) (en : Bool) (t : ℕ) (s : State) (h_s : P s.kept) : NextKept P (execPortEnable p en t s) := by
  unfold execPortEnable
  repeat' first
    | with_reducible assumption
    | with_reducible refine next_kept ?_
    | with_reducible apply mgmtWrite_kept
    | with_reducible apply State_upto_kept
    | with_reducible apply writeEn_kept
    | (intro z; refine value_step z ?_; intro w hw; (try rw [← hw]); clear hw z)

theorem execTqRead_kept {P : Kept → Prop} (p : Fin 6) (t : Fin 256) (s : State) (h_s : P s.kept) : NextKept P (execTqRead p t s) := by
  unfold execTqRead
  repeat' first
    | with_reducible assumption
    | with_reducible refine next_kept ?_
    | with_reducible apply mgmtWrite_kept
    | with_reducible apply tqRead_kept
    | (intro z; refine value_step z ?_; intro w hw; (try rw [← hw]); clear hw z)

theorem execTqWrite_kept {P : Kept → Prop} (p : Fin 6) (t : Fin 256) (time : ℕ) (s : State) (h_s : P s.kept) : NextKept P (execTqWrite p t time s) := by
  unfold execTqWrite
  repeat' first
    | with_reducible assumption
    | with_reducible refine next_kept ?_
    | with_reducible apply mgmtWrite_kept
    | with_reducible apply State_upto_kept
    | with_reducible apply tqWrite_kept
    | (intro z; refine value_step z ?_; intro w hw; (try rw [← hw]); clear hw z)

theorem execLimitsWrite_kept {P : Kept → Prop} (p : Fin 6) (v : Sys2Proof.Word) (s : State) (h_s : P s.kept) : NextKept P (execLimitsWrite p v s) := by
  unfold execLimitsWrite
  repeat' first
    | with_reducible assumption
    | with_reducible refine next_kept ?_
    | with_reducible apply mgmtWrite_kept
    | with_reducible apply limitsWrite_kept
    | (intro z; refine value_step z ?_; intro w hw; (try rw [← hw]); clear hw z)

theorem execEnterDeep_kept {P : Kept → Prop} (hP : MemClosed P) (t : ℕ) (s : State) (h_s : P s.kept) : NextKept P (execEnterDeep t s) := by
  unfold execEnterDeep
  repeat' first
    | with_reducible assumption
    | with_reducible refine next_kept ?_
    | with_reducible apply mgmtWrite_kept
    | with_reducible apply State_upto_kept
    | with_reducible apply enterDeep_kept

theorem execTelemSnap_kept {P : Kept → Prop} (t : ℕ) (s : State) (h_s : P s.kept) : NextKept P (execTelemSnap t s) := by
  unfold execTelemSnap
  repeat' first
    | with_reducible assumption
    | with_reducible refine next_kept ?_
    | with_reducible apply mgmtWrite_kept
    | with_reducible apply State_upto_kept
    | with_reducible apply telemSnap_kept

theorem portAccess_kept {P : Kept → Prop} (path : ℕ) (s : State) (go : State → State) (h_s : P s.kept) (h_go : ∀ x0, P x0.kept → P (go x0).kept) : P (portAccess path s go).kept := by
  unfold portAccess
  repeat' first
    | with_reducible assumption
    | with_reducible apply mgmtWrite_kept
    | apply h_go
    | lift_lets -underBinder
    | with_reducible refine kept_ite ?_ ?_

theorem execDoorbellWrite_kept {P : Kept → Prop} (g : Fin 1048576) (path : Fin 7) (partner : Fin 256) (ctx : Fin 65536) (tag : Fin 8192) (al : Bool) (v : Sys2Proof.Word) (t : ℕ) (s : State) (h_s : P s.kept) : NextKept P (execDoorbellWrite g path partner ctx tag al v t s) := by
  unfold execDoorbellWrite
  repeat' first
    | with_reducible assumption
    | with_reducible refine next_kept ?_
    | with_reducible apply portAccess_kept
    | with_reducible apply State_upto_kept
    | with_reducible apply doorbell_kept
    | with_reducible apply State_emit_kept
    | (intro z; refine value_step z ?_; intro w hw; (try rw [← hw]); clear hw z)
    | intro _
    | with_reducible refine kept_ite ?_ ?_

theorem execDoorbellRead_kept {P : Kept → Prop} (g : Fin 1048576) (path : Fin 7) (partner : Fin 256) (ctx : Fin 65536) (tag : Fin 8192) (al : Bool) (s : State) (h_s : P s.kept) : NextKept P (execDoorbellRead g path partner ctx tag al s) := by
  unfold execDoorbellRead
  repeat' first
    | with_reducible assumption
    | with_reducible refine next_kept ?_
    | with_reducible apply doorbellGet_kept
    | with_reducible apply mgmtAccess_kept
    | with_reducible apply State_emit_kept
    | (intro z; refine value_step z ?_; intro w hw; (try rw [← hw]); clear hw z)
    | intro _
    | lift_lets -underBinder
    | with_reducible refine kept_ite ?_ ?_

end Sys2Proof.Machine
end

