-- ==== Sys2Proof/Laws/KeptSafety.lean ====
section
/-! SUPPORT. What the operations of Safety.lean keep of the queue and the memory, one lemma each. -/

set_option maxRecDepth 100000
set_option linter.all false

namespace Sys2Proof.Machine

open Sys2Proof

theorem answeredState_kept {P : Kept → Prop} (s : State) (h_s : P s.kept) : P (answeredState s).kept := by
  unfold answeredState
  repeat' first
    | with_reducible assumption
    | (intro z; refine value_step z ?_; intro w hw; (try rw [← hw]); clear hw z)
    | lift_lets -underBinder
    | (fail_if_no_progress (with_reducible refine kept_rec0 ?_))

theorem startState_kept {P : Kept → Prop} (s : State) (d : Sys2Proof.Desc) (unit : ℕ) (h_s : P s.kept) : P (startState s d unit).kept := by
  unfold startState
  repeat' first
    | with_reducible assumption
    | with_reducible apply ungate_kept
    | with_reducible apply State_upto_kept

theorem rowEnd_kept {P : Kept → Prop} (s : State) (j : Job) (t : State) (h_s : P s.kept) (h_t : P t.kept) : P (rowEnd s j t).kept := by
  unfold rowEnd
  repeat' first
    | with_reducible assumption
    | with_reducible apply ownReqs_kept

theorem engineBegun_kept {P : Kept → Prop} (hP : MemClosed P) (s : State) (d : Sys2Proof.Desc) (unit : ℕ) (j : Job) (ins : List Range) (h_s : P s.kept) : P (engineBegun s d unit j ins).2.kept := by
  unfold engineBegun
  repeat' first
    | with_reducible assumption
    | with_reducible apply startJob_kept
    | with_reducible apply startState_kept

theorem arrival_kept {P : Kept → Prop} (op : ROp) (r : Sys2Proof.Req) (s : State) (h_s : P s.kept) : P (arrival op r s).2.kept := by
  unfold arrival
  repeat' first
    | with_reducible assumption
    | with_reducible apply State_upto_kept
    | with_reducible apply State_raiseTo_kept
    | (intro z; refine value_step z ?_; intro w hw; (try rw [← hw]); clear hw z)
    | lift_lets -underBinder
    | (fail_if_no_progress (with_reducible refine kept_rec0 ?_))

theorem laneJoined_kept {P : Kept → Prop} (s : State) (f : Flight) (h_s : P s.kept) : P (laneJoined s f).kept := by
  unfold laneJoined
  repeat' first
    | with_reducible assumption
    | with_reducible apply noteLane_kept
    | with_reducible apply headTag_kept
    | with_reducible apply putFlight_kept
    | with_reducible apply refreshTq_kept

theorem picked_kept {P : Kept → Prop} (s : State) (f : Flight) (h_s : P s.kept) : P (picked s f).2.kept := by
  unfold picked
  repeat' first
    | with_reducible assumption
    | with_reducible apply laneJoined_kept
    | with_reducible apply putFlight_kept
    | with_reducible apply chargeTq_kept
    | with_reducible apply headTag_kept
    | (intro z; refine kept_step (P := P) z ?_ ?_ <;> [unfold z; first | (intro w hw hz; rw [← hw]; clear hw z) | (intro w hw hz; rw [hw] at hz; clear hw w; clear_value z)])
    | (intro (z : Nat); refine value_step z ?_; intro w hw; (try rw [← hw]); clear hw z)
    | (intro (z : Bool); refine value_step z ?_; intro w hw; (try rw [← hw]); clear hw z)
    | (intro z; refine value_step z ?_; intro w hw; (try rw [← hw]); clear hw z)
    | lift_lets -underBinder
    | with_reducible refine kept_ite ?_ ?_

theorem translated_kept {P : Kept → Prop} (s : State) (f : Flight) (pa : ℕ) (k : ℕ) (h_s : P s.kept) : P (translated s f pa k).kept := by
  unfold translated
  repeat' first
    | with_reducible assumption
    | with_reducible apply putFlight_kept
    | with_reducible apply tlbLook_kept
    | with_reducible apply segLook_kept

theorem homeward_kept {P : Kept → Prop} (s : State) (f : Flight) (pa : ℕ) (h_s : P s.kept) : P (homeward s f pa).kept := by
  unfold homeward
  repeat' first
    | with_reducible assumption
    | with_reducible apply State_bump_kept
    | with_reducible apply renewHot_kept
    | with_reducible refine kept_ite ?_ ?_

theorem homeState_kept {P : Kept → Prop} (s : State) (f : Flight) (pa : ℕ) (h_s : P s.kept) : P (homeState s f pa).kept := by
  unfold homeState
  repeat' first
    | with_reducible assumption
    | with_reducible apply dirLook_kept
    | with_reducible apply homeward_kept
    | (with_reducible apply kept_foldl <;> intros)

end Sys2Proof.Machine
end

