-- ==== Sys2Proof/Laws/KeptExec.lean ====
section
/-! SUPPORT. What every command keeps of the queue and the memory. -/

set_option maxRecDepth 100000
set_option linter.all false

namespace Sys2Proof.Machine

open Sys2Proof

/-- Every command keeps what `MemClosed` allows. -/
theorem exec_kept {P : Kept → Prop} (hP : MemClosed P) (i : Instr) (s : State) (h : P s.kept) : NextKept P (exec i s) := by
  cases i with
  | registerWrite off val t => exact execRegisterWrite_kept hP off val t s h
  | partialRegisterAccess off write => exact execPartialRegisterAccess_kept off write s h
  | cpRegisterWrite idx val t => exact execCpRegisterWrite_kept idx val t s h
  | unmappedAccess off write => exact execUnmappedAccess_kept off write s h
  | decayEpoch sector t => exact execDecayEpoch_kept sector t s h
  | nearLowDemotion sector t => exact execNearLowDemotion_kept sector t s h
  | granuleCopyDone page t => exact execGranuleCopyDone_kept hP page t s h
  | migratingWaitTimeout port tag t => exact execMigratingWaitTimeout_kept port tag t s h
  | dirtyLineEviction line t => exact execDirtyLineEviction_kept line t s h
  | drizzleRead sector far place ev t => exact execDrizzleRead_kept sector far place ev t s h
  | stackIdent stack id => exact execStackIdent_kept stack id s h
  | dimmInsert channel => exact execDimmInsert_kept channel s h
  | spdReadComplete channel spd => exact execSpdReadComplete_kept channel spd s h
  | channelTrainingDone channel passed ms => exact execChannelTrainingDone_kept channel passed ms s h
  | channelDrained channel => exact execChannelDrained_kept channel s h
  | channelFail channel beyondEcc t => exact execChannelFail_kept channel beyondEcc t s h
  | dimmRemove channel => exact execDimmRemove_kept channel s h
  | ddrRetire channel => exact execDdrRetire_kept channel s h
  | ddrReturn channel => exact execDdrReturn_kept channel s h
  | ddrClrCounts channel => exact execDdrClrCounts_kept channel s h
  | hbmClrCounts stack => exact execHbmClrCounts_kept stack s h
  | touchMaxClear sector => exact execTouchMaxClear_kept sector s h
  | anvFlagClear port => exact execAnvFlagClear_kept port s h
  | storeHazeCheck stack unit median peers t => exact execStoreHazeCheck_kept stack unit median peers t s h
  | tierAlloc d => exact execTierAlloc_kept hP d s h
  | tierFree d => exact execTierFree_kept hP d s h
  | tierHint d => exact execTierHint_kept d s h
  | tierSplit d => exact execTierSplit_kept d s h
  | xltCtxSet d => exact execXltCtxSet_kept d s h
  | xltCtxClear d => exact execXltCtxClear_kept d s h
  | xltSegSet d => exact execXltSegSet_kept hP d s h
  | xltSegClear d => exact execXltSegClear_kept d s h
  | xltInval d => exact execXltInval_kept d s h
  | xltSwapOut d => exact execXltSwapOut_kept hP d s h
  | xltSwapIn d => exact execXltSwapIn_kept d s h
  | invalAck inval unit t => exact execInvalAck_kept inval unit t s h
  | invalTimeout inval unit t => exact execInvalTimeout_kept hP inval unit t s h
  | faultQueueConsume t => exact execFaultQueueConsume_kept hP t s h
  | stalledRecordPost t => exact execStalledRecordPost_kept hP t s h
  | waiterRoom t => exact execWaiterRoom_kept hP t s h
  | faultResolve seq framesFreed t => exact execFaultResolve_kept hP seq framesFreed t s h
  | faultHeldTimeout port tag t => exact execFaultHeldTimeout_kept hP port tag t s h
  | rd r => exact execRd_kept hP r s h
  | rdShared r => exact execRdShared_kept hP r s h
  | rdOwn r => exact execRdOwn_kept hP r s h
  | wr r => exact execWr_kept hP r s h
  | wrLine r => exact execWrLine_kept hP r s h
  | wrFlag r => exact execWrFlag_kept hP r s h
  | atomAdd r => exact execAtomAdd_kept hP r s h
  | atomAnd r => exact execAtomAnd_kept hP r s h
  | atomOr r => exact execAtomOr_kept hP r s h
  | atomXor r => exact execAtomXor_kept hP r s h
  | atomSwap r => exact execAtomSwap_kept hP r s h
  | atomCas r => exact execAtomCas_kept hP r s h
  | atomMinS r => exact execAtomMinS_kept hP r s h
  | atomMaxS r => exact execAtomMaxS_kept hP r s h
  | atomMinU r => exact execAtomMinU_kept hP r s h
  | atomMaxU r => exact execAtomMaxU_kept hP r s h
  | atomAddF r => exact execAtomAddF_kept hP r s h
  | atomMinF r => exact execAtomMinF_kept hP r s h
  | atomMaxF r => exact execAtomMaxF_kept hP r s h
  | upgrade r => exact execUpgrade_kept hP r s h
  | evictClean r => exact execEvictClean_kept hP r s h
  | evictDirty r => exact execEvictDirty_kept hP r s h
  | publish r => exact execPublish_kept hP r s h
  | snpAck r => exact execSnpAck_kept hP r s h
  | snpFwd r => exact execSnpFwd_kept hP r s h
  | readEntryDataReturn entry t => exact execReadEntryDataReturn_kept hP entry t s h
  | atomicWindowExpiry entry t => exact execAtomicWindowExpiry_kept hP entry t s h
  | anvilRsvReissue entry t => exact execAnvilRsvReissue_kept hP entry t s h
  | flagRelease port tag t => exact execFlagRelease_kept hP port tag t s h
  | tailStatus port tag tail t => exact execTailStatus_kept hP port tag tail t s h
  | holdExpiry line t => exact execHoldExpiry_kept hP line t s h
  | dirHoldSweep sector t => exact execDirHoldSweep_kept hP sector t s h
  | reservationExpiry port latency credit t => exact execReservationExpiry_kept hP port latency credit t s h
  | pendingBufferRetry sector t => exact execPendingBufferRetry_kept hP sector t s h
  | snoopTimeout port stag t => exact execSnoopTimeout_kept hP port stag t s h
  | doorbellWrite ring path partner ctx tag aligned8 val t => exact execDoorbellWrite_kept ring path partner ctx tag aligned8 val t s h
  | doorbellRead ring path partner ctx tag aligned8 => exact execDoorbellRead_kept ring path partner ctx tag aligned8 s h
  | descriptorFetch ring t => exact execDescriptorFetch_kept ring t s h
  | descriptorReadComplete ring idx words t => exact execDescriptorReadComplete_kept ring idx words t s h
  | nopDesc d => exact execNopDesc_kept d s h
  | descriptorComplete ring idx t => exact execDescriptorComplete_kept hP ring idx t s h
  | notifyTimer ring t => exact execNotifyTimer_kept ring t s h
  | disableBoundExpiry ring t => exact execDisableBoundExpiry_kept ring t s h
  | ringSet d => exact execRingSet_kept hP d s h
  | ringDisable d => exact execRingDisable_kept d s h
  | ringQcRead ring => exact execRingQcRead_kept ring s h
  | ringQcWrite ring t => exact execRingQcWrite_kept ring t s h
  | ringQcDisable ring t => exact execRingQcDisable_kept ring t s h
  | functionReset full t => exact execFunctionReset_kept full t s h
  | perst t => exact execPerst_kept t s h
  | tileIdleTimer tile t => exact execTileIdleTimer_kept tile t s h
  | tpMaintFlush sectors t => exact execTpMaintFlush_kept hP sectors t s h
  | tpMaintAcquire sectors t => exact execTpMaintAcquire_kept hP sectors t s h
  | tpMaintFlushAll sectors t => exact execTpMaintFlushAll_kept hP sectors t s h
  | tileConflictClear tile => exact execTileConflictClear_kept tile s h
  | loopOpen w i => exact execLoopOpen_kept w i s h
  | yieldPoint w i => exact execYieldPoint_kept w i s h
  | bundleEnd w i => exact execBundleEnd_kept w i s h
  | tload w i => exact execTload_kept w i s h
  | startCopy engine w i => exact execStartCopy_kept engine w i s h
  | mma x => exact execMma_kept x s h
  | ldsa x => exact execLdsa_kept x s h
  | ldsb x => exact execLdsb_kept x s h
  | accSt x => exact execAccSt_kept x s h
  | accLd x => exact execAccLd_kept x s h
  | vadd x => exact execVadd_kept x s h
  | vsub x => exact execVsub_kept x s h
  | vmul x => exact execVmul_kept x s h
  | vfma x => exact execVfma_kept x s h
  | vmin x => exact execVmin_kept x s h
  | vmax x => exact execVmax_kept x s h
  | vselLt x => exact execVselLt_kept x s h
  | vselEq x => exact execVselEq_kept x s h
  | vexp x => exact execVexp_kept x s h
  | vexp2 x => exact execVexp2_kept x s h
  | vrcp x => exact execVrcp_kept x s h
  | vrsq x => exact execVrsq_kept x s h
  | vpopc x => exact execVpopc_kept x s h
  | vxor x => exact execVxor_kept x s h
  | vand x => exact execVand_kept x s h
  | vor x => exact execVor_kept x s h
  | vshl x => exact execVshl_kept x s h
  | vshr x => exact execVshr_kept x s h
  | viadd x => exact execViadd_kept x s h
  | visub x => exact execVisub_kept x s h
  | cvti x => exact execCvti_kept x s h
  | cvto x => exact execCvto_kept x s h
  | rsum x => exact execRsum_kept x s h
  | rmax x => exact execRmax_kept x s h
  | amov x => exact execAmov_kept x s h
  | awr x => exact execAwr_kept x s h
  | vld x corrected => exact execVld_kept x corrected s h
  | vst x => exact execVst_kept x s h
  | auxAdd x => exact execAuxAdd_kept x s h
  | auxSet x => exact execAuxSet_kept x s h
  | waitEv w i => exact execWaitEv_kept w i s h
  | spfence w i => exact execSpfence_kept w i s h
  | acquire w i => exact execAcquire_kept hP w i s h
  | flush w i => exact execFlush_kept hP w i s h
  | drain w i => exact execDrain_kept w i s h
  | copyComplete engine ring t => exact execCopyComplete_kept engine ring t s h
  | cpyMem c => exact execCpyMem_kept hP c s h
  | cpyToSp engine t => exact execCpyToSp_kept hP engine t s h
  | cpyFromSp engine t => exact execCpyFromSp_kept hP engine t s h
  | cpyPlace c => exact execCpyPlace_kept hP c s h
  | kernelLaunch d => exact execKernelLaunch_kept hP d s h
  | launchQueueRoom t => exact execLaunchQueueRoom_kept hP t s h
  | kernelStart t => exact execKernelStart_kept hP t s h
  | planeStart t => exact execPlaneStart_kept hP t s h
  | kernelResume t => exact execKernelResume_kept t s h
  | kernelComplete t => exact execKernelComplete_kept hP t s h
  | kernelRestart tile t => exact execKernelRestart_kept hP tile t s h
  | embTableSet d => exact execEmbTableSet_kept d s h
  | embTableClear d => exact execEmbTableClear_kept d s h
  | embGather d => exact execEmbGather_kept hP d s h
  | embScatter d => exact execEmbScatter_kept hP d s h
  | embScatterAdd d => exact execEmbScatterAdd_kept hP d s h
  | embUpdate d => exact execEmbUpdate_kept hP d s h
  | embHookOpen d => exact execEmbHookOpen_kept hP d s h
  | embHookCommit d => exact execEmbHookCommit_kept hP d s h
  | versionRelease t => exact execVersionRelease_kept hP t s h
  | rowPinExpiry t => exact execRowPinExpiry_kept t s h
  | hookTimeout t => exact execHookTimeout_kept t s h
  | balanceEpoch t => exact execBalanceEpoch_kept hP t s h
  | srchIndexSet d => exact execSrchIndexSet_kept d s h
  | srchIndexClear d => exact execSrchIndexClear_kept d s h
  | srchFlat d => exact execSrchFlat_kept hP d s h
  | srchGraph d => exact execSrchGraph_kept hP d s h
  | srchInsert d => exact execSrchInsert_kept hP d s h
  | srchDelete d => exact execSrchDelete_kept hP d s h
  | blkSpaceSet d => exact execBlkSpaceSet_kept d s h
  | blkSpaceClear d => exact execBlkSpaceClear_kept hP d s h
  | blkGet d => exact execBlkGet_kept hP d s h
  | blkPut d => exact execBlkPut_kept hP d s h
  | blkPin d => exact execBlkPin_kept hP d s h
  | blkUnpin d => exact execBlkUnpin_kept hP d s h
  | blkHandoff d => exact execBlkHandoff_kept hP d s h
  | blkRelease d => exact execBlkRelease_kept hP d s h
  | blkLogRead d => exact execBlkLogRead_kept hP d s h
  | offer t => exact execOffer_kept hP t s h
  | ack t => exact execAck_kept hP t s h
  | confirm t => exact execConfirm_kept hP t s h
  | nack t => exact execNack_kept hP t s h
  | handoffTimeout t => exact execHandoffTimeout_kept t s h
  | ackResend t => exact execAckResend_kept t s h
  | giveupTimeout t => exact execGiveupTimeout_kept hP t s h
  | goneExpiry t => exact execGoneExpiry_kept t s h
  | logRoom t => exact execLogRoom_kept t s h
  | lsmPresent m x t => exact execLsmPresent_kept m x t s h
  | lsmPoll m x t => exact execLsmPoll_kept hP m x t s h
  | flitReceive port link corr uncorr flit t => exact execFlitReceive_kept port link corr uncorr flit t s h
  | controlFlit port link x t => exact execControlFlit_kept hP port link x t s h
  | cryptoFrame port link x t => exact execCryptoFrame_kept hP port link x t s h
  | rekey port link counter t => exact execRekey_kept hP port link counter t s h
  | linkLight port link t => exact execLinkLight_kept hP port link t s h
  | linkTrainingDone port link t => exact execLinkTrainingDone_kept port link t s h
  | linkTrainTimeout port link lanes t => exact execLinkTrainTimeout_kept hP port link lanes t s h
  | laneLockLoss port link t => exact execLaneLockLoss_kept hP port link t s h
  | flitSilence port link t => exact execFlitSilence_kept hP port link t s h
  | linkHazeCheck port link median peers t => exact execLinkHazeCheck_kept hP port link median peers t s h
  | linkRetire port link t => exact execLinkRetire_kept hP port link t s h
  | linkReturn port link t => exact execLinkReturn_kept port link t s h
  | linkRetrain port link t => exact execLinkRetrain_kept hP port link t s h
  | portEnable port en t => exact execPortEnable_kept hP port en t s h
  | portInit port x t => exact execPortInit_kept port x t s h
  | portSilence port t => exact execPortSilence_kept hP port t s h
  | portDown port t => exact execPortDown_kept hP port t s h
  | downNoticeEnd port t => exact execDownNoticeEnd_kept port t s h
  | portFlushDone port t => exact execPortFlushDone_kept port t s h
  | cxlMemRequest x => exact execCxlMemRequest_kept hP x s h
  | biConflict port => exact execBiConflict_kept port s h
  | identifyMemoryDevice port => exact execIdentifyMemoryDevice_kept port s h
  | getPartitionInfo port => exact execGetPartitionInfo_kept port s h
  | getHealthInfo port => exact execGetHealthInfo_kept port s h
  | getSupportedLogs port => exact execGetSupportedLogs_kept port s h
  | getEventRecords port => exact execGetEventRecords_kept port s h
  | clearEventRecords port => exact execClearEventRecords_kept port s h
  | cxlMailboxUnsupported port op => exact execCxlMailboxUnsupported_kept port op s h
  | schedulerSelect port t => exact execSchedulerSelect_kept hP port t s h
  | spillReadback port tag t => exact execSpillReadback_kept port tag t s h
  | tqRead port tenant => exact execTqRead_kept port tenant s h
  | tqWrite port tenant t => exact execTqWrite_kept port tenant t s h
  | limitsWrite port val => exact execLimitsWrite_kept port val s h
  | cmpStage d => exact execCmpStage_kept hP d s h
  | cmpCommit d => exact execCmpCommit_kept hP d s h
  | cmpEvents d => exact execCmpEvents_kept hP d s h
  | cmpLease d => exact execCmpLease_kept d s h
  | cmpFence d => exact execCmpFence_kept hP d s h
  | cmpSector d => exact execCmpSector_kept d s h
  | cmpDomain d => exact execCmpDomain_kept hP d s h
  | cmpFwActivate d => exact execCmpFwActivate_kept d s h
  | stageTimeout t => exact execStageTimeout_kept t s h
  | mapPersist t => exact execMapPersist_kept t s h
  | managerTimeout t => exact execManagerTimeout_kept t s h
  | leaseLapse port partner t => exact execLeaseLapse_kept hP port partner t s h
  | domainFault ty inst cause t => exact execDomainFault_kept hP ty inst cause t s h
  | domainRecovered ty inst ok t => exact execDomainRecovered_kept hP ty inst ok t s h
  | unitHazeCheck tile unit median peers t => exact execUnitHazeCheck_kept tile unit median peers t s h
  | hazeFailTimeout ty inst t => exact execHazeFailTimeout_kept hP ty inst t s h
  | evacPageMoved page t => exact execEvacPageMoved_kept hP page t s h
  | sectorPowerDown sector t => exact execSectorPowerDown_kept hP sector t s h
  | sectorSelfTestDone sector passed t => exact execSectorSelfTestDone_kept sector passed t s h
  | coreHealthCheck core passed t => exact execCoreHealthCheck_kept core passed t s h
  | zenithCoreFail core t => exact execZenithCoreFail_kept hP core t s h
  | deviceFault block t => exact execDeviceFault_kept hP block t s h
  | secDomainSet d => exact execSecDomainSet_kept d s h
  | secDomainTeardown d => exact execSecDomainTeardown_kept hP d s h
  | secAttest d => exact execSecAttest_kept hP d s h
  | secKeyImport d => exact execSecKeyImport_kept hP d s h
  | secKeyDiscard d => exact execSecKeyDiscard_kept d s h
  | secUnseal d => exact execSecUnseal_kept hP d s h
  | secPortKey d => exact execSecPortKey_kept hP d s h
  | secLc d => exact execSecLc_kept hP d s h
  | tamper sensor t => exact execTamper_kept sensor t s h
  | xmssBlockCommit t => exact execXmssBlockCommit_kept t s h
  | zeroFillDone dom t => exact execZeroFillDone_kept dom t s h
  | svnFuse t => exact execSvnFuse_kept t s h
  | powerOn xdly => exact execPowerOn_kept hP xdly s h
  | supplyLoss t => exact execSupplyLoss_kept hP t s h
  | xtalTestStart t => exact execXtalTestStart_kept t s h
  | xtalStable t => exact execXtalStable_kept t s h
  | xtalStartTimeout t => exact execXtalStartTimeout_kept t s h
  | ioscTrimWindow marks ppm t => exact execIoscTrimWindow_kept marks ppm t s h
  | pllIdleStop engines t => exact execPllIdleStop_kept engines t s h
  | pllLocked loop ns t => exact execPllLocked_kept loop ns t s h
  | xtalLoss t => exact execXtalLoss_kept t s h
  | portLoopHoldover port t => exact execPortLoopHoldover_kept hP port t s h
  | refclkLoss t => exact execRefclkLoss_kept t s h
  | xtalReturn t => exact execXtalReturn_kept t s h
  | enterDeep t => exact execEnterDeep_kept hP t s h
  | wake t => exact execWake_kept t s h
  | deepWakeEvent by_ t => exact execDeepWakeEvent_kept by_ t s h
  | deepIdleMgmtAccess a t => exact execDeepIdleMgmtAccess_kept hP a t s h
  | engineIdleGate engine t => exact execEngineIdleGate_kept engine t s h
  | throttleN low t => exact execThrottleN_kept low t s h
  | thermalLimitTick tj t => exact execThermalLimitTick_kept tj t s h
  | hbmTempCheck stack temp t => exact execHbmTempCheck_kept stack temp t s h
  | thermalTrip junction stack engine t => exact execThermalTrip_kept junction stack engine t s h
  | inletSensorRead temp t => exact execInletSensorRead_kept temp t s h
  | poolWindowAccess off op t => exact execPoolWindowAccess_kept hP off op t s h
  | msixPendingSend linkUp enabled unmask t => exact execMsixPendingSend_kept linkUp enabled unmask t s h
  | mctpMessage p t => exact execMctpMessage_kept p t s h
  | setEndpointId pcie eid => exact execSetEndpointId_kept pcie eid s h
  | getEndpointId pcie => exact execGetEndpointId_kept pcie s h
  | getEndpointUuid pcie => exact execGetEndpointUuid_kept pcie s h
  | getMctpVersionSupport pcie type => exact execGetMctpVersionSupport_kept pcie type s h
  | getMessageTypeSupport pcie => exact execGetMessageTypeSupport_kept pcie s h
  | getVendorDefinedMessageSupport pcie sel => exact execGetVendorDefinedMessageSupport_kept pcie sel s h
  | getTid pcie => exact execGetTid_kept pcie s h
  | setTid pcie tid => exact execSetTid_kept pcie tid s h
  | getPldmVersion pcie type => exact execGetPldmVersion_kept pcie type s h
  | getPldmTypes pcie => exact execGetPldmTypes_kept pcie s h
  | getPldmCommands pcie type => exact execGetPldmCommands_kept pcie type s h
  | getPdrRepositoryInfo pcie => exact execGetPdrRepositoryInfo_kept pcie s h
  | getPdr pcie handle => exact execGetPdr_kept pcie handle s h
  | setEventReceiver pcie eid => exact execSetEventReceiver_kept pcie eid s h
  | getSensorReading pcie id => exact execGetSensorReading_kept pcie id s h
  | getStateSensorReadings pcie id => exact execGetStateSensorReadings_kept pcie id s h
  | pldmSensorRefresh t => exact execPldmSensorRefresh_kept t s h
  | requestUpdate pcie agent maxTransfer t => exact execRequestUpdate_kept pcie agent maxTransfer t s h
  | passComponentTable pcie agent size t => exact execPassComponentTable_kept pcie agent size t s h
  | requestFirmwareData pcie agent len image t => exact execRequestFirmwareData_kept pcie agent len image t s h
  | activateFirmware pcie agent t => exact execActivateFirmware_kept pcie agent t s h
  | updateAgentTimeout t => exact execUpdateAgentTimeout_kept t s h
  | getIdentity pcie inst => exact execGetIdentity_kept pcie inst s h
  | getCert pcie inst off len => exact execGetCert_kept pcie inst off len s h
  | getReport pcie inst dom nonce t => exact execGetReport_kept pcie inst dom nonce t s h
  | getXmss pcie inst => exact execGetXmss_kept pcie inst s h
  | mgtBusTimeout bus t => exact execMgtBusTimeout_kept hP bus t s h
  | telemSnap t => exact execTelemSnap_kept t s h
  | reply port tag code detail t => exact execReply_kept hP port tag code detail t s h
  | laserModuleReady m t => exact execLaserModuleReady_kept m t s h
  | refclkReturn t => exact execRefclkReturn_kept t s h
  | completionTimeout ring idx t => exact execCompletionTimeout_kept ring idx t s h
  | hbmTrained t => exact execHbmTrained_kept hP t s h
  | activeBankVerified image t => exact execActiveBankVerified_kept image t s h
  | debugOpen token t => exact execDebugOpen_kept token t s h
  | tapInstruction instr => exact execTapInstruction_kept instr s h
  | powerLimitWindow watts amps t => exact execPowerLimitWindow_kept watts amps t s h

/-- A command that stores nothing keeps any property of the queue and the memory. -/
theorem exec_keeps_all {P : Kept → Prop} (i : Instr) (s : State) (hc : storesPool i = false) (h : P s.kept) : NextKept P (exec i s) := by
  cases i with
  | registerWrite off val t => cases hc
  | partialRegisterAccess off write => exact execPartialRegisterAccess_kept off write s h
  | cpRegisterWrite idx val t => exact execCpRegisterWrite_kept idx val t s h
  | unmappedAccess off write => exact execUnmappedAccess_kept off write s h
  | decayEpoch sector t => exact execDecayEpoch_kept sector t s h
  | nearLowDemotion sector t => exact execNearLowDemotion_kept sector t s h
  | granuleCopyDone page t => cases hc
  | migratingWaitTimeout port tag t => exact execMigratingWaitTimeout_kept port tag t s h
  | dirtyLineEviction line t => exact execDirtyLineEviction_kept line t s h
  | drizzleRead sector far place ev t => exact execDrizzleRead_kept sector far place ev t s h
  | stackIdent stack id => exact execStackIdent_kept stack id s h
  | dimmInsert channel => exact execDimmInsert_kept channel s h
  | spdReadComplete channel spd => exact execSpdReadComplete_kept channel spd s h
  | channelTrainingDone channel passed ms => exact execChannelTrainingDone_kept channel passed ms s h
  | channelDrained channel => exact execChannelDrained_kept channel s h
  | channelFail channel beyondEcc t => exact execChannelFail_kept channel beyondEcc t s h
  | dimmRemove channel => exact execDimmRemove_kept channel s h
  | ddrRetire channel => exact execDdrRetire_kept channel s h
  | ddrReturn channel => exact execDdrReturn_kept channel s h
  | ddrClrCounts channel => exact execDdrClrCounts_kept channel s h
  | hbmClrCounts stack => exact execHbmClrCounts_kept stack s h
  | touchMaxClear sector => exact execTouchMaxClear_kept sector s h
  | anvFlagClear port => exact execAnvFlagClear_kept port s h
  | storeHazeCheck stack unit median peers t => exact execStoreHazeCheck_kept stack unit median peers t s h
  | tierAlloc d => cases hc
  | tierFree d => cases hc
  | tierHint d => exact execTierHint_kept d s h
  | tierSplit d => exact execTierSplit_kept d s h
  | xltCtxSet d => exact execXltCtxSet_kept d s h
  | xltCtxClear d => exact execXltCtxClear_kept d s h
  | xltSegSet d => cases hc
  | xltSegClear d => exact execXltSegClear_kept d s h
  | xltInval d => exact execXltInval_kept d s h
  | xltSwapOut d => cases hc
  | xltSwapIn d => exact execXltSwapIn_kept d s h
  | invalAck inval unit t => exact execInvalAck_kept inval unit t s h
  | invalTimeout inval unit t => cases hc
  | faultQueueConsume t => cases hc
  | stalledRecordPost t => cases hc
  | waiterRoom t => cases hc
  | faultResolve seq framesFreed t => cases hc
  | faultHeldTimeout port tag t => cases hc
  | rd r => cases hc
  | rdShared r => cases hc
  | rdOwn r => cases hc
  | wr r => cases hc
  | wrLine r => cases hc
  | wrFlag r => cases hc
  | atomAdd r => cases hc
  | atomAnd r => cases hc
  | atomOr r => cases hc
  | atomXor r => cases hc
  | atomSwap r => cases hc
  | atomCas r => cases hc
  | atomMinS r => cases hc
  | atomMaxS r => cases hc
  | atomMinU r => cases hc
  | atomMaxU r => cases hc
  | atomAddF r => cases hc
  | atomMinF r => cases hc
  | atomMaxF r => cases hc
  | upgrade r => cases hc
  | evictClean r => cases hc
  | evictDirty r => cases hc
  | publish r => cases hc
  | snpAck r => cases hc
  | snpFwd r => cases hc
  | readEntryDataReturn entry t => cases hc
  | atomicWindowExpiry entry t => cases hc
  | anvilRsvReissue entry t => cases hc
  | flagRelease port tag t => cases hc
  | tailStatus port tag tail t => cases hc
  | holdExpiry line t => cases hc
  | dirHoldSweep sector t => cases hc
  | reservationExpiry port latency credit t => cases hc
  | pendingBufferRetry sector t => cases hc
  | snoopTimeout port stag t => cases hc
  | doorbellWrite ring path partner ctx tag aligned8 val t => exact execDoorbellWrite_kept ring path partner ctx tag aligned8 val t s h
  | doorbellRead ring path partner ctx tag aligned8 => exact execDoorbellRead_kept ring path partner ctx tag aligned8 s h
  | descriptorFetch ring t => exact execDescriptorFetch_kept ring t s h
  | descriptorReadComplete ring idx words t => exact execDescriptorReadComplete_kept ring idx words t s h
  | nopDesc d => exact execNopDesc_kept d s h
  | descriptorComplete ring idx t => cases hc
  | notifyTimer ring t => exact execNotifyTimer_kept ring t s h
  | disableBoundExpiry ring t => exact execDisableBoundExpiry_kept ring t s h
  | ringSet d => cases hc
  | ringDisable d => exact execRingDisable_kept d s h
  | ringQcRead ring => exact execRingQcRead_kept ring s h
  | ringQcWrite ring t => exact execRingQcWrite_kept ring t s h
  | ringQcDisable ring t => exact execRingQcDisable_kept ring t s h
  | functionReset full t => exact execFunctionReset_kept full t s h
  | perst t => exact execPerst_kept t s h
  | tileIdleTimer tile t => exact execTileIdleTimer_kept tile t s h
  | tpMaintFlush sectors t => cases hc
  | tpMaintAcquire sectors t => cases hc
  | tpMaintFlushAll sectors t => cases hc
  | tileConflictClear tile => exact execTileConflictClear_kept tile s h
  | loopOpen w i => exact execLoopOpen_kept w i s h
  | yieldPoint w i => exact execYieldPoint_kept w i s h
  | bundleEnd w i => exact execBundleEnd_kept w i s h
  | tload w i => exact execTload_kept w i s h
  | startCopy engine w i => exact execStartCopy_kept engine w i s h
  | mma x => exact execMma_kept x s h
  | ldsa x => exact execLdsa_kept x s h
  | ldsb x => exact execLdsb_kept x s h
  | accSt x => exact execAccSt_kept x s h
  | accLd x => exact execAccLd_kept x s h
  | vadd x => exact execVadd_kept x s h
  | vsub x => exact execVsub_kept x s h
  | vmul x => exact execVmul_kept x s h
  | vfma x => exact execVfma_kept x s h
  | vmin x => exact execVmin_kept x s h
  | vmax x => exact execVmax_kept x s h
  | vselLt x => exact execVselLt_kept x s h
  | vselEq x => exact execVselEq_kept x s h
  | vexp x => exact execVexp_kept x s h
  | vexp2 x => exact execVexp2_kept x s h
  | vrcp x => exact execVrcp_kept x s h
  | vrsq x => exact execVrsq_kept x s h
  | vpopc x => exact execVpopc_kept x s h
  | vxor x => exact execVxor_kept x s h
  | vand x => exact execVand_kept x s h
  | vor x => exact execVor_kept x s h
  | vshl x => exact execVshl_kept x s h
  | vshr x => exact execVshr_kept x s h
  | viadd x => exact execViadd_kept x s h
  | visub x => exact execVisub_kept x s h
  | cvti x => exact execCvti_kept x s h
  | cvto x => exact execCvto_kept x s h
  | rsum x => exact execRsum_kept x s h
  | rmax x => exact execRmax_kept x s h
  | amov x => exact execAmov_kept x s h
  | awr x => exact execAwr_kept x s h
  | vld x corrected => exact execVld_kept x corrected s h
  | vst x => exact execVst_kept x s h
  | auxAdd x => exact execAuxAdd_kept x s h
  | auxSet x => exact execAuxSet_kept x s h
  | waitEv w i => exact execWaitEv_kept w i s h
  | spfence w i => exact execSpfence_kept w i s h
  | acquire w i => cases hc
  | flush w i => cases hc
  | drain w i => exact execDrain_kept w i s h
  | copyComplete engine ring t => exact execCopyComplete_kept engine ring t s h
  | cpyMem c => cases hc
  | cpyToSp engine t => cases hc
  | cpyFromSp engine t => cases hc
  | cpyPlace c => cases hc
  | kernelLaunch d => cases hc
  | launchQueueRoom t => cases hc
  | kernelStart t => cases hc
  | planeStart t => cases hc
  | kernelResume t => exact execKernelResume_kept t s h
  | kernelComplete t => cases hc
  | kernelRestart tile t => cases hc
  | embTableSet d => exact execEmbTableSet_kept d s h
  | embTableClear d => exact execEmbTableClear_kept d s h
  | embGather d => cases hc
  | embScatter d => cases hc
  | embScatterAdd d => cases hc
  | embUpdate d => cases hc
  | embHookOpen d => cases hc
  | embHookCommit d => cases hc
  | versionRelease t => cases hc
  | rowPinExpiry t => exact execRowPinExpiry_kept t s h
  | hookTimeout t => exact execHookTimeout_kept t s h
  | balanceEpoch t => cases hc
  | srchIndexSet d => exact execSrchIndexSet_kept d s h
  | srchIndexClear d => exact execSrchIndexClear_kept d s h
  | srchFlat d => cases hc
  | srchGraph d => cases hc
  | srchInsert d => cases hc
  | srchDelete d => cases hc
  | blkSpaceSet d => exact execBlkSpaceSet_kept d s h
  | blkSpaceClear d => cases hc
  | blkGet d => cases hc
  | blkPut d => cases hc
  | blkPin d => cases hc
  | blkUnpin d => cases hc
  | blkHandoff d => cases hc
  | blkRelease d => cases hc
  | blkLogRead d => cases hc
  | offer t => cases hc
  | ack t => cases hc
  | confirm t => cases hc
  | nack t => cases hc
  | handoffTimeout t => exact execHandoffTimeout_kept t s h
  | ackResend t => exact execAckResend_kept t s h
  | giveupTimeout t => cases hc
  | goneExpiry t => exact execGoneExpiry_kept t s h
  | logRoom t => exact execLogRoom_kept t s h
  | lsmPresent m x t => exact execLsmPresent_kept m x t s h
  | lsmPoll m x t => cases hc
  | flitReceive port link corr uncorr flit t => exact execFlitReceive_kept port link corr uncorr flit t s h
  | controlFlit port link x t => cases hc
  | cryptoFrame port link x t => cases hc
  | rekey port link counter t => cases hc
  | linkLight port link t => cases hc
  | linkTrainingDone port link t => exact execLinkTrainingDone_kept port link t s h
  | linkTrainTimeout port link lanes t => cases hc
  | laneLockLoss port link t => cases hc
  | flitSilence port link t => cases hc
  | linkHazeCheck port link median peers t => cases hc
  | linkRetire port link t => cases hc
  | linkReturn port link t => exact execLinkReturn_kept port link t s h
  | linkRetrain port link t => cases hc
  | portEnable port en t => cases hc
  | portInit port x t => exact execPortInit_kept port x t s h
  | portSilence port t => cases hc
  | portDown port t => cases hc
  | downNoticeEnd port t => exact execDownNoticeEnd_kept port t s h
  | portFlushDone port t => exact execPortFlushDone_kept port t s h
  | cxlMemRequest x => cases hc
  | biConflict port => exact execBiConflict_kept port s h
  | identifyMemoryDevice port => exact execIdentifyMemoryDevice_kept port s h
  | getPartitionInfo port => exact execGetPartitionInfo_kept port s h
  | getHealthInfo port => exact execGetHealthInfo_kept port s h
  | getSupportedLogs port => exact execGetSupportedLogs_kept port s h
  | getEventRecords port => exact execGetEventRecords_kept port s h
  | clearEventRecords port => exact execClearEventRecords_kept port s h
  | cxlMailboxUnsupported port op => exact execCxlMailboxUnsupported_kept port op s h
  | schedulerSelect port t => cases hc
  | spillReadback port tag t => exact execSpillReadback_kept port tag t s h
  | tqRead port tenant => exact execTqRead_kept port tenant s h
  | tqWrite port tenant t => exact execTqWrite_kept port tenant t s h
  | limitsWrite port val => exact execLimitsWrite_kept port val s h
  | cmpStage d => cases hc
  | cmpCommit d => cases hc
  | cmpEvents d => cases hc
  | cmpLease d => exact execCmpLease_kept d s h
  | cmpFence d => cases hc
  | cmpSector d => exact execCmpSector_kept d s h
  | cmpDomain d => cases hc
  | cmpFwActivate d => exact execCmpFwActivate_kept d s h
  | stageTimeout t => exact execStageTimeout_kept t s h
  | mapPersist t => exact execMapPersist_kept t s h
  | managerTimeout t => exact execManagerTimeout_kept t s h
  | leaseLapse port partner t => cases hc
  | domainFault ty inst cause t => cases hc
  | domainRecovered ty inst ok t => cases hc
  | unitHazeCheck tile unit median peers t => exact execUnitHazeCheck_kept tile unit median peers t s h
  | hazeFailTimeout ty inst t => cases hc
  | evacPageMoved page t => cases hc
  | sectorPowerDown sector t => cases hc
  | sectorSelfTestDone sector passed t => exact execSectorSelfTestDone_kept sector passed t s h
  | coreHealthCheck core passed t => exact execCoreHealthCheck_kept core passed t s h
  | zenithCoreFail core t => cases hc
  | deviceFault block t => cases hc
  | secDomainSet d => exact execSecDomainSet_kept d s h
  | secDomainTeardown d => cases hc
  | secAttest d => cases hc
  | secKeyImport d => cases hc
  | secKeyDiscard d => exact execSecKeyDiscard_kept d s h
  | secUnseal d => cases hc
  | secPortKey d => cases hc
  | secLc d => cases hc
  | tamper sensor t => exact execTamper_kept sensor t s h
  | xmssBlockCommit t => exact execXmssBlockCommit_kept t s h
  | zeroFillDone dom t => exact execZeroFillDone_kept dom t s h
  | svnFuse t => exact execSvnFuse_kept t s h
  | powerOn xdly => cases hc
  | supplyLoss t => cases hc
  | xtalTestStart t => exact execXtalTestStart_kept t s h
  | xtalStable t => exact execXtalStable_kept t s h
  | xtalStartTimeout t => exact execXtalStartTimeout_kept t s h
  | ioscTrimWindow marks ppm t => exact execIoscTrimWindow_kept marks ppm t s h
  | pllIdleStop engines t => exact execPllIdleStop_kept engines t s h
  | pllLocked loop ns t => exact execPllLocked_kept loop ns t s h
  | xtalLoss t => exact execXtalLoss_kept t s h
  | portLoopHoldover port t => cases hc
  | refclkLoss t => exact execRefclkLoss_kept t s h
  | xtalReturn t => exact execXtalReturn_kept t s h
  | enterDeep t => cases hc
  | wake t => exact execWake_kept t s h
  | deepWakeEvent by_ t => exact execDeepWakeEvent_kept by_ t s h
  | deepIdleMgmtAccess a t => cases hc
  | engineIdleGate engine t => exact execEngineIdleGate_kept engine t s h
  | throttleN low t => exact execThrottleN_kept low t s h
  | thermalLimitTick tj t => exact execThermalLimitTick_kept tj t s h
  | hbmTempCheck stack temp t => exact execHbmTempCheck_kept stack temp t s h
  | thermalTrip junction stack engine t => exact execThermalTrip_kept junction stack engine t s h
  | inletSensorRead temp t => exact execInletSensorRead_kept temp t s h
  | poolWindowAccess off op t => cases hc
  | msixPendingSend linkUp enabled unmask t => exact execMsixPendingSend_kept linkUp enabled unmask t s h
  | mctpMessage p t => exact execMctpMessage_kept p t s h
  | setEndpointId pcie eid => exact execSetEndpointId_kept pcie eid s h
  | getEndpointId pcie => exact execGetEndpointId_kept pcie s h
  | getEndpointUuid pcie => exact execGetEndpointUuid_kept pcie s h
  | getMctpVersionSupport pcie type => exact execGetMctpVersionSupport_kept pcie type s h
  | getMessageTypeSupport pcie => exact execGetMessageTypeSupport_kept pcie s h
  | getVendorDefinedMessageSupport pcie sel => exact execGetVendorDefinedMessageSupport_kept pcie sel s h
  | getTid pcie => exact execGetTid_kept pcie s h
  | setTid pcie tid => exact execSetTid_kept pcie tid s h
  | getPldmVersion pcie type => exact execGetPldmVersion_kept pcie type s h
  | getPldmTypes pcie => exact execGetPldmTypes_kept pcie s h
  | getPldmCommands pcie type => exact execGetPldmCommands_kept pcie type s h
  | getPdrRepositoryInfo pcie => exact execGetPdrRepositoryInfo_kept pcie s h
  | getPdr pcie handle => exact execGetPdr_kept pcie handle s h
  | setEventReceiver pcie eid => exact execSetEventReceiver_kept pcie eid s h
  | getSensorReading pcie id => exact execGetSensorReading_kept pcie id s h
  | getStateSensorReadings pcie id => exact execGetStateSensorReadings_kept pcie id s h
  | pldmSensorRefresh t => exact execPldmSensorRefresh_kept t s h
  | requestUpdate pcie agent maxTransfer t => exact execRequestUpdate_kept pcie agent maxTransfer t s h
  | passComponentTable pcie agent size t => exact execPassComponentTable_kept pcie agent size t s h
  | requestFirmwareData pcie agent len image t => exact execRequestFirmwareData_kept pcie agent len image t s h
  | activateFirmware pcie agent t => exact execActivateFirmware_kept pcie agent t s h
  | updateAgentTimeout t => exact execUpdateAgentTimeout_kept t s h
  | getIdentity pcie inst => exact execGetIdentity_kept pcie inst s h
  | getCert pcie inst off len => exact execGetCert_kept pcie inst off len s h
  | getReport pcie inst dom nonce t => exact execGetReport_kept pcie inst dom nonce t s h
  | getXmss pcie inst => exact execGetXmss_kept pcie inst s h
  | mgtBusTimeout bus t => cases hc
  | telemSnap t => exact execTelemSnap_kept t s h
  | reply port tag code detail t => cases hc
  | laserModuleReady m t => exact execLaserModuleReady_kept m t s h
  | refclkReturn t => exact execRefclkReturn_kept t s h
  | completionTimeout ring idx t => exact execCompletionTimeout_kept ring idx t s h
  | hbmTrained t => cases hc
  | activeBankVerified image t => exact execActiveBankVerified_kept image t s h
  | debugOpen token t => exact execDebugOpen_kept token t s h
  | tapInstruction instr => exact execTapInstruction_kept instr s h
  | powerLimitWindow watts amps t => exact execPowerLimitWindow_kept watts amps t s h

end Sys2Proof.Machine
end

