-- ==== Sys2Proof/Laws/Memory.lean ====
section
/-! SUPPORT. The pool's memory: every operation on it keeps the canonical form, a read after a write gives the value written, and a write
leaves every other byte alone. -/

namespace Sys2Proof.Machine

open Sys2Proof

/-- No byte listed is canonical. -/
theorem Memory.wf_nil : Memory.wf [] = true := by decide

/-- Dropping entries keeps the canonical form (a page made zero, a pool scrubbed). -/
theorem Memory.wf_filter (m : List Host.Cell) (p : Host.Cell → Bool) (h : Memory.wf m = true) : Memory.wf (m.filter p) = true := by
  simp only [Memory.wf, Bool.and_eq_true, List.all_eq_true] at h ⊢
  exact ⟨keysRise_filter p m h.1, fun x hx => h.2 x (List.mem_of_mem_filter hx)⟩

/-- Writing one byte keeps the canonical form. -/
theorem Memory.wf_put (m : List Host.Cell) (a : Nat) (b : Byte) (h : Memory.wf m = true) : Memory.wf (tabPutD 0 a b m) = true := by
  unfold tabPutD
  split
  · exact Memory.wf_filter _ _ h
  · rename_i hb
    simp only [Memory.wf, Bool.and_eq_true, List.all_eq_true] at h ⊢
    refine ⟨keysRise_tabPut _ _ _ h.1, fun x hx => ?_⟩
    rcases mem_tabPut _ _ _ _ hx with rfl | hx
    · simpa using hb
    · exact h.2 x hx

theorem State.putByte_memOk (s : State) (a : Nat) (b : Byte) (h : MemOk s) : MemOk (s.putByte a b) := Memory.wf_put _ _ _ h

theorem State.putBytes_memOk (s : State) (a : Nat) (l : List Byte) (h : MemOk s) : MemOk (s.putBytes a l) := by
  induction l generalizing s a with
  | nil => exact h
  | cons b t ih => exact ih _ _ (State.putByte_memOk _ _ _ h)

theorem State.zeroPage_memOk (s : State) (p : Nat) (h : MemOk s) : MemOk (s.zeroPage p) := Memory.wf_filter _ _ h

/-- The machine after reset lists no byte. -/
theorem State.reset_memOk : MemOk State.reset := by
  unfold MemOk State.reset
  decide

/-- A byte reads as the value last written to it. -/
@[simp] theorem State.byte_putByte_same (s : State) (a : Nat) (b : Byte) : (s.putByte a b).byte a = b := by
  simp [State.byte, State.putByte]

/-- A write leaves every other byte alone. -/
theorem State.byte_putByte_ne (s : State) {a c : Nat} (b : Byte) (h : c ≠ a) : (s.putByte a b).byte c = s.byte c := by
  simp only [State.byte, State.putByte]
  exact tabGet_tabPutD_ne _ _ h

/-- A write of several bytes leaves every byte outside them alone. -/
theorem State.byte_putBytes_out (s : State) (a : Nat) (l : List Byte) (c : Nat) (h : c < a ∨ a + l.length ≤ c) :
    (s.putBytes a l).byte c = s.byte c := by
  induction l generalizing s a with
  | nil => rfl
  | cons b t ih =>
    simp only [List.length_cons] at h
    rw [State.putBytes, ih _ _ (by omega), State.byte_putByte_ne _ _ (by omega)]

/-- A write of several bytes puts the i-th of them i bytes after its address. -/
theorem State.byte_putBytes_in (s : State) (a : Nat) (l : List Byte) (i : Nat) (h : i < l.length) :
    (s.putBytes a l).byte (a + i) = l[i] := by
  induction l generalizing s a i with
  | nil => simp at h
  | cons b t ih =>
    rw [State.putBytes]
    cases i with
    | zero => rw [State.byte_putBytes_out _ _ _ _ (by omega)]; simp
    | succ i =>
      have e : a + (i + 1) = a + 1 + i := by omega
      rw [e, ih _ _ _ (by simpa using h)]
      simp

/-- Bytes read back as they were written. -/
theorem State.bytes_putBytes (s : State) (a : Nat) (l : List Byte) : (s.putBytes a l).bytes a l.length = l := by
  induction l generalizing s a with
  | nil => rfl
  | cons b t ih =>
    rw [State.putBytes, List.length_cons, State.bytes, ih, State.byte_putBytes_out _ _ _ _ (by omega)]
    simp

/-- A page made zero reads zero, and every other page as before. -/
theorem State.byte_zeroPage (s : State) (p a : Nat) : (s.zeroPage p).byte a = if a / 2097152 = p then 0 else s.byte a := by
  unfold State.byte State.zeroPage tabGet
  dsimp only
  induction s.store.mem with
  | nil => simp [tabGet?]
  | cons c t ih =>
    obtain ⟨j, b⟩ := c
    rw [List.filter_cons]
    by_cases hj : j / 2097152 = p
    · simp only [hj, ne_eq, not_true_eq_false, decide_false, Bool.false_eq_true, if_false]
      rw [ih]
      split
      · rfl
      · rename_i ha
        rw [tabGet?, if_neg (by rintro rfl; exact ha hj)]
    · simp only [ne_eq, hj, not_false_eq_true, decide_true, if_true, tabGet?]
      split
      · rename_i e
        subst e
        simp [hj]
      · exact ih

end Sys2Proof.Machine
end

