-- ==== Sys2Proof/Laws/Requests.lean ====
section
/-! SUPPORT. Requests: a quiet machine has nothing to wake, and a request alone and eligible in its lane is selected at once. -/

namespace Sys2Proof.Machine

open Sys2Proof

/-- Nothing wakes where nothing waits. -/
theorem wake_quiet {s : State} (h : Quiet s) : wake s = s := by
  obtain ⟨h1, h2, h3, h4, h5, h6⟩ := h
  have hc : chaseBarred s = s := by simp [chaseBarred, h3, h4]
  have hd : drainBacks s = s := by simp [drainBacks, h2]
  simp only [wake, hc, hd, h1, List.filter_nil, sortBy, List.foldr_nil, List.foldl_nil]

/-- A message that is alone and eligible in its lane is selected in the row that brings it (R507, R508, R521). -/
theorem joinLane_atOnce (s : State) (f : Flight) (h : atOnce s f = true) :
    joinLane s f = noteLanes (forward (picked s f).2 (picked s f).1) f.req.port.val := by
  unfold atOnce at h
  simp only [Bool.and_eq_true, Bool.not_eq_true', Bool.or_eq_true] at h
  obtain ⟨⟨⟨h1, h2⟩, h3⟩, h4⟩ := h
  unfold joinLane
  simp only [h1, h2, if_false, if_true, Bool.false_eq_true]
  have h5 := h3
  unfold laneJoined at h5
  simp only [h5, Bool.and_self, Bool.true_and]
  rw [if_pos]
  · rfl
  · unfold laneJoined at h4
    simpa using h4

end Sys2Proof.Machine
end

