-- ==== Sys2Proof/Laws/Slots.lean ====
section
/-! SUPPORT. Slots: what the row of a slot does where its bundle issues, and what a sector sub-slot changes. -/

namespace Sys2Proof.Machine

open Sys2Proof

/-- A slot whose bundle issues acts on the state and the kernel that the bundle gives it. -/
theorem slotRow_issues {s s1 : State} {i : Issue} {k : Kern} (h : Issues s i s1 k) (f : State → Kern → State) : slotRow s i f = f s1 k := by
  obtain ⟨⟨k0, h1, h2⟩, h3⟩ := h
  have : ¬ i.bundle ≥ k.frame.bundles := by omega
  simp [slotRow, h1, h2, this]

/-- A sector sub-slot whose bundle issues, which breaks no range and whose units are free, acts on each tile that it names in turn. -/
theorem tileRow_issues {s s1 : State} {x : Slot} {k : Kern} {need : Needs} (h : Issues s x.iss s1 k) (hu : UnitsFree x s1 k need)
    (eff : State → Kern → Tile → Nat → Tile × TFlags) :
    tileRow x true true need eff s = (slotTiles k x).foldl (fun s g =>
      setTFlags (putTile s g ((eff s k (tile s g) g).1.hold x.iss.cyc need)) k g (eff s k (tile s g) g).2) s1 := by
  have hn : ((slotTiles k x).any fun g => occupied (tile s1 g) x.iss.cyc need) = false := by
    rw [List.any_eq_false]
    intro g hg
    simp [hu g hg]
  unfold tileRow
  simp only [Bool.not_true, Bool.false_eq_true, if_false, slotRow_issues h, hn]

/-- A sub-slot that breaks a range is the plan error OP_INVALID (R310). -/
theorem tileRow_invalid {s s1 : State} {x : Slot} {k : Kern} {need : Needs} (h : Issues s x.iss s1 k)
    (eff : State → Kern → Tile → Nat → Tile × TFlags) : tileRow x true false need eff s = planError s1 k 1 .malformed := by
  unfold tileRow
  simp [slotRow_issues h]

end Sys2Proof.Machine
end

