-- ==== Sys2Proof/Tests/Slice0.lean ====
section
/-! SUPPORT. Tests: ill-formed commands, states that meet what the statements assume, and single steps held against the spec. -/

set_option maxRecDepth 100000

namespace Sys2Proof.Tests

open Sys2Proof Sys2Proof.Machine

/-! ### States to start from -/

/-- A state with some register fields set. -/
def withRegs (s : State) (l : List (Fld × Nat)) : State := l.foldl (fun s e => s.set e.1 e.2) s

/-- A device that runs: its loops are locked, its firmware runs on four cores, and its near tier serves. -/
def up : State := withRegs State.reset
  [(F.CLK_STATUS_XTAL_OK, 1), (F.CLK_STATUS_REFCLK_OK, 1), (F.CLK_PLL_X_STATE, 2), (F.CLK_PLL_T_STATE, 2), (F.CLK_PLL_E_STATE, 2),
   (F.SYS_STATUS_FW_RUNNING, 1), (F.SYS_STATUS_NEAR_SERVING, 1), (F.RAS_STATUS_CORES_UP, 15)]

/-- The same without its supply. -/
def dark : State := { up with clk := { up.clk with off := true } }

/-- The same in DEEP_IDLE, with its wake by the management port off. -/
def deep : State := withRegs up [(F.PWR_STATUS_STATE, 2), (F.PWR_CTRL_WAKE_ON_PCIE, 0)]

/-- The same after a tamper response. -/
def tampered : State := up.setFlag F.SEC_TAMPER_STATUS_TAMPERED true

/-- A word of fields: low bit and value of each. -/
def fields (l : List (Nat × Nat)) : Word := BitVec.ofNat 64 (l.map fun e => e.2 * 2 ^ e.1).sum

/-! ### What each statement assumes holds somewhere -/

theorem test_meets_StepRunsFrontOrTicks : State.reset.pending = [] ∧ State.reset.clk.off = false ∧ dark.pending = [] ∧ dark.clk.off = true := by
  decide

theorem test_meets_CommandsAnswerAndKeepQueue : storesPool (.getTid true) = false ∧ storesPool (.wr
    { port := 0, partner := 0, cls := 3, tag := 0, len := 63, ret := false, b30 := false, rsvd := false, ctx := 1, tenant := 0, addr := 0,
      epoch := 0, epochC := 0, payload := [], cut := false, t := 0 }) = true := by
  decide

theorem test_meets_StepKeepsMemory : MemOk up ∧ GoesOn up := by
  refine ⟨?_, _, rfl⟩
  unfold MemOk
  decide

theorem test_meets_RegisterWritesSetFields :
    PortOpen up ∧ F.CMP_CTRL % 8 = 0 ∧ (regAt F.CMP_CTRL).any (fun r => !commandRegs.contains r.base) = true ∧ F.XLT_FQ_PTRS < 0x80000 ∧
    (0xFFFFFFFA00000005 : Word).toNat / 2 ^ 32 = onesComp 32 ((0xFFFFFFFA00000005 : Word).toNat % 2 ^ 32) ∧
    (5 : Word).toNat / 2 ^ 32 ≠ onesComp 32 ((5 : Word).toNat % 2 ^ 32) := by
  unfold PortOpen
  decide

theorem test_meets_AccessesTurnedAway :
    PortOpen up ∧ 1 % 8 ≠ 0 ∧ 0x7FFF8 % 8 = 0 ∧ regAt 0x7FFF8 = none ∧ portWrite (.limitsWrite 0 0) = true ∧ dark.clk.off = true ∧
    (tampered.clk.off = false ∧ tampered.get F.PWR_STATUS_STATE ≠ 2 ∧ takesWrites tampered = false) ∧
    (deep.clk.off = false ∧ deepNoWake deep = true ∧ deepServed F.XLT_FQ_PTRS = false) := by
  unfold PortOpen
  decide

theorem test_meets_CounterClearsAndSnapshot : PortOpen State.reset := by
  unfold PortOpen
  decide

/-! ### A device with memory in use, and descriptors -/

/-- The words of a descriptor of opcode `op` of context `c`, with fields (bit, value). -/
def words (op c : Nat) (l : List (Nat × Nat)) : List Word :=
  let v := op + c * 256 + (l.map fun e => e.2 * 2 ^ e.1).sum
  (List.range 8).map fun i => BitVec.ofNat 64 (v / 2 ^ (64 * i))

/-- A descriptor of ring 16, which is a ring of context 1, at index 3. -/
def desc (op : Nat) (l : List (Nat × Nat)) : Desc := { ring := 16, idx := 3, words := words op 1 l, t := 100 }

/-- Its job. -/
def job (d : Desc) : Job := { ring := d.ring, idx := d.idx, words := d.words, st := .queued }

/-- A state in which a job stands in the table. -/
def withJob (s : State) (j : Job) : State := { s with rings := { s.rings with jobs := s.rings.jobs ++ [j] } }

/-- A segment that maps a context's first GiB of addresses to the pool, with every right. -/
def wide : Seg := { vaBase := 0, rd := true, wr := true, atm := true, ex := true, len := 16384, fabric := 0 }

/-- The stacks serve, ports 0 and 1 are UP, port 1 leads to node 3; channel 0 serves 512 GiB; contexts 1 and 2 are valid and context 1 reaches the first GiB of
the pool, of which domain 0 has the region; page 1 lies near, page 2 far, page 4 near, page 5 is a far page with a granule on the channel. -/
def world : State :=
  let s := withRegs up [(F.DDR_D_STATUS_STATE 0, 3), (F.DDR_D_STATUS_CAPACITY_GIB 0, 512), (F.DDR_D_STATUS_STATE 8, 3),
    (F.DDR_D_STATUS_CAPACITY_GIB 8, 512), (F.KZP_STATUS_STATE 0, 3), (F.KZP_STATUS_STATE 1, 3),
    (F.TIER_S_NEAR_STATUS_POOL_FRAMES 0, 49152), (F.TIER_S_NEAR_STATUS_POOL_FRAMES 1, 49152), (F.TIER_S_NEAR_STATUS_POOL_FRAMES 2, 49152),
    (F.TIER_S_NEAR_STATUS_POOL_FRAMES 3, 49152)]
  { withRegs s ((List.range 8).map fun m => (F.HBM_H_STATUS_STATE m, 3)) with
    xlt := { s.xlt with ctxs := [(0, {}), (1, { priv := true }), (2, {})], segs := [(17, wide)] }
    comp := { s.comp with map := { s.comp.map with regions := [(0, { domain := 0, basePage := 0, pages := 512 })], routes := [(3, 1)] } }
    store := { s.store with pages := [(1, { loc := .near 7, tensorBase := 1 }), (2, { loc := .far zeroFar, tensorBase := 2 }),
      (4, { loc := .near 8, tensorBase := 4 }),
      (5, { loc := .far (listSet zeroFar 3 { frames := 4, channel := 0, frame := 0 }), tensorBase := 5, neverCompress := true })] } }

/-! ### The store -/

/-- The world with a state of channel 1, a module present in it and its slot powered or not. -/
def chan (v present power attempts : Nat) : State :=
  withRegs world [(F.DDR_D_STATUS_STATE 1, v), (F.DDR_D_STATUS_PRESENT 1, present), (F.DDR_D_CTRL_PSW_PRESENT 1, 1),
    (F.DDR_D_CTRL_SLOT_PWR 1, power), (F.DDR_D_TRAIN_ATTEMPTS 1, attempts)]

theorem test_meets_ChannelsAndStacksServe :
    (PortOpen world ∧ channelState world 0 = 3) ∧ (PortOpen world ∧ channelState world 1 ≠ 3 ∧ channelState world 1 ≠ 4) ∧
    (PortOpen (chan 6 1 1 0) ∧ channelState (chan 6 1 1 0) 1 = 6 ∧ (chan 6 1 1 0).flag (F.DDR_D_STATUS_PRESENT 1) = true) ∧
    (PortOpen (chan 2 1 1 0) ∧ channelState (chan 2 1 1 0) 1 < 3) ∧
    (PortOpen (chan 6 0 1 0) ∧ 3 ≤ channelState (chan 6 0 1 0) 1 ∧ (chan 6 0 1 0).flag (F.DDR_D_STATUS_PRESENT 1) = false) ∧
    (channelState (chan 0 0 1 0) 1 = 0 ∧ slotPowered (chan 0 0 1 0) 1 = true) ∧ channelState (chan 1 1 1 0) 1 ≠ 0 ∧
    (channelState (chan 7 1 0 0) 1 = 7 ∧ slotPowered (chan 7 1 0 0) 1 = false) ∧
    (channelState (chan 1 1 1 0) 1 = 1 ∧ chipClock (chan 1 1 1 0) = true) ∧
    (channelState (chan 2 1 1 2) 1 = 2 ∧ chipClock (chan 2 1 1 2) = true ∧ (chan 2 1 1 2).flag F.CLK_STATUS_COASTING = false ∧
      (chan 2 1 1 2).get (F.DDR_D_TRAIN_ATTEMPTS 1) = 2 ∧ (chan 2 1 1 1).get (F.DDR_D_TRAIN_ATTEMPTS 1) < 2) ∧
    (channelState (chan 5 1 1 0) 1 = 5 ∧ channelGranules (chan 5 1 1 0) 1 = []) ∧
    (up.get (F.HBM_H_STATUS_STATE 0) ≤ 1 ∧ chipClock up = true) := by
  unfold PortOpen
  decide

/-- The world with the states of stack 0 and channel 0, their Haze runs, and migration and Drizzle on in sectors 0 and 1. -/
def hazed (v : Nat) (r : HazeRun) : State :=
  { withRegs world [(F.HBM_H_STATUS_STATE 0, v), (F.DDR_D_STATUS_STATE 0, v), (F.TIER_S_CTRL_MIG_EN 1, 1), (F.TIER_S_NEAR_WATER_LOW 1, 49152),
      (F.TIER_S_CTRL_DRIZZLE_EN 1, 1)] with store := { world.store with haze := [(0, r), (8, r)] } }

theorem test_meets_TierPolicyTimers :
    (let s := hazed 3 { above := 9999 }
     s.get (F.DDR_D_STATUS_STATE 0) = 3 ∧ (tabGet {} 8 s.store.haze).hazy = false ∧ s.get (F.TIER_S_HAZE_CFG_RATIO 0) * 1 < 33000 * 16 ∧
     s.get (F.TIER_S_HAZE_CFG_WINDOW_MS 0) ≤ (tabGet {} 8 s.store.haze).above + 1 ∧
     0 * 16 ≤ s.get (F.TIER_S_HAZE_CFG_RATIO 0) * 1 ∧ 0 < s.get (F.TIER_S_HAZE_CFG_WINDOW_MS 0)) ∧
    (let s := hazed 4 { below := 99999, hazy := true }
     s.get (F.HBM_H_STATUS_STATE 0) = 4 ∧ (tabGet {} 0 s.store.haze).hazy = true ∧ 1 * 16 ≤ s.get (F.TIER_S_HAZE_CFG_EXIT_RATIO 0) * 16 ∧
     s.get (F.TIER_S_HAZE_CFG_EXIT_MS 0) ≤ (tabGet {} 0 s.store.haze).below + 1) ∧
    (let s := hazed 3 {}
     migRests s 1 = false ∧ freeNear s 1 < s.get (F.TIER_S_NEAR_WATER_LOW 1) ∧ s.flag (F.TIER_S_CTRL_DRIZZLE_EN 1) = true) := by
  decide

/-- A promotion of page 2 of which two granules have arrived. -/
def promotion : Xfer := { index := 0, kind := .promote, frame := some 9, granules := zeroFar, arrived := [0, 1], copying := some 2 }

/-- A request for 64 bytes of context 1. -/
def request (port tag : Nat) (addr : Nat) (payload : List Byte) : Req :=
  { port := Fin.ofNat 6 port, partner := 1, cls := 3, tag := Fin.ofNat 8192 tag, len := 63, ret := false, b30 := false, rsvd := false, ctx := 1,
    tenant := 0, addr := BitVec.ofNat 57 addr, epoch := 0, epochC := BitVec.ofNat 32 (2 ^ 32 - 1), payload := payload, cut := false, t := 0 }

/-- Page 2 being promoted, with a request that waits for its first granule. -/
def promoting : State :=
  { world with
    store := { world.store with pages := [(2, { loc := .migrating promotion, tensorBase := 2 })], moves := [⟨2, true, true⟩] }
    fab := { world.fab with flights := [{ op := .rd, req := request 0 5 0x400000 [], num := 0, pool := some 0x400000, stage := .migrating }] } }

/-- The line of granule 3 of page 5 that is dirty in the sector cache. -/
def dirtied : State := { world with store := { world.store with dirty := [5 * 32768 + 3 * 1024 + 7] } }

theorem test_meets_GranulesMove :
    (∃ e : Page, promoting.page? 2 = some e ∧ e.split = none ∧ e.loc = .migrating promotion ∧ promotion.kind = .promote ∧
      promotion.copying = some 2 ∧ 2 ∉ promotion.arrived ∧ promotion.arrived.length < 31) ∧
    (∃ f : Flight, flightOf promoting 0 5 = some f ∧ f.pool = some 0x400000 ∧ f.stage = .migrating ∧
      f.since + 2000 < max promoting.now 2001 ∧ (promoting.page? (0x400000 / 2097152)).map Page.loc = some (.migrating promotion)) ∧
    world.store.dirty.contains 0 = false ∧
    (∃ e : Page, dirtied.store.dirty.contains (5 * 32768 + 3 * 1024 + 7) = true ∧ dirtied.page? 5 = some e ∧ granuleNear e 3 = false ∧
      (granuleOf e 3).frames < 16 ∧ (placeGranule (granuleFrames (dirtied.upto 0) e).2 (homeOf dirtied 5) 5 3
        (granuleFrames (dirtied.upto 0) e).1).1.isSome = true) := by
  refine ⟨⟨_, rfl, rfl, rfl, ?_⟩, ⟨_, rfl, ?_⟩, ?_, ⟨_, ?_, rfl, ?_⟩⟩ <;> decide

/-- A device on which descriptor `d` is the one job, queued. -/
def ready (d : Desc) : State := withJob world (job d)

theorem test_meets_TierDescriptorsRun :
    (let d := desc 0x40 [(128, 0), (192, 1)]
     Ready (ready d) d 0x40 (tierUnit (ready d) d.words) (job d) ∧ (job d).phase = 0 ∧ (tierBody d.words).count = 1 ∧
     (tierBody d.words).pinNear = false ∧ tierCheck (startState (ready d) d (tierUnit (ready d) d.words)) 0x40
       (ctxDomain (ready d) (ringCtx d.ring.val)) (tierBody d.words) (tierPages (tierBody d.words)) = none) ∧
    (∀ op ∈ [0x41, 0x42, 0x43], let d := desc op [(128, 0x400000), (192, 1)]
     Ready (ready d) d op (tierUnit (ready d) d.words) (job d) ∧ (job d).phase = 0 ∧ (tierBody d.words).count = 1 ∧
     tierCheck (startState (ready d) d (tierUnit (ready d) d.words)) op (ctxDomain (ready d) (ringCtx d.ring.val)) (tierBody d.words)
       (tierPages (tierBody d.words)) = none ∧ ((ready d).page? 2).map Page.loc = some (.far zeroFar)) ∧
    (let d := desc 0x41 [(128, 0x600000), (192, 1)]
     Ready (ready d) d 0x41 (tierUnit (ready d) d.words) (job d) ∧
     tierCheck (startState (ready d) d (tierUnit (ready d) d.words)) 0x41 (ctxDomain (ready d) (ringCtx d.ring.val)) (tierBody d.words)
       (tierPages (tierBody d.words)) = some .denied) := by
  unfold Ready
  decide

/-! ### Translation -/

/-- The bytes of a segment entry, with their complement: the 256 KiB from virtual address 0x80000000, at pool address 0x20000, readable. -/
def segBytes : List Byte :=
  let l := [0x80000000 + 2 ^ 57 + 2 ^ 58, 4, 0x20000, 0]
  (l ++ l.map (onesComp 64)).flatMap (leBytes 8)

/-- The world with page 0 near, and the segment entry at pool address 0x400. -/
def segStored : State := writeLine { world with store := { world.store with pages := (0, { loc := .near 3 }) :: world.store.pages } } 16 0x400 segBytes

/-- XLT_SEG_SET of segment `n` of context 1 from the entry stored. -/
def segSet (n : Nat) : Desc := desc 0x4A [(128, 1), (144, n), (192, 0x400)]

theorem test_meets_ContextsAndSegmentsSet_ctx :
    (let d := desc 0x48 [(128, 2), (144, 0), (152, 1)]
     Ready (ready d) d 0x48 xltUnit (job d) ∧ dbits d.words 16 0 16 ≠ 0 ∧ ctxDomain (ready d) 2 = dbits d.words 18 0 8 ∧ domLive (ready d) 0 = true) ∧
    (let d := desc 0x48 [(128, 0)]
     Ready (ready d) d 0x48 xltUnit (job d) ∧ dbits d.words 16 0 16 = 0) ∧
    (let d := desc 0x48 [(128, 2), (144, 5)]
     Ready (ready d) d 0x48 xltUnit (job d) ∧ ctxValid (ready d) 2 = true ∧ ctxDomain (ready d) 2 ≠ dbits d.words 18 0 8) ∧
    (let d := desc 0x49 [(128, 2)]
     Ready (ready d) d 0x49 xltUnit (job d) ∧ ctxRingsBusy (ready d) 2 = false ∧ ctxValid (ready d) 2 = true ∧
     (∀ k ∈ span (2 * 16) 16, tabGet? k (ready d).xlt.segs = none) ∧ jobInval (ready d) (job d) = false ∧
     (∀ k ∈ span (2 * 16) 16, segInUse (startState (ready d) d xltUnit) k (started (job d) xltUnit) = false)) ∧
    (let d := desc 0x49 [(128, 9)]
     Ready (ready d) d 0x49 xltUnit (job d) ∧ ctxValid (ready d) (dbits d.words 16 0 16) = false) := by
  unfold Ready
  decide

theorem test_meets_ContextsAndSegmentsSet_seg : ∀ n ∈ [1, 3],
    let d := segSet n
    let s := withJob segStored (job d)
    let a := prepare (startState s d xltUnit) (started (job d) xltUnit) xltUnit [⟨0x400, 64, .rd⟩]
    let b := (readVa a.2 1 0x400 64).1
    let s2 := (readVa a.2 1 0x400 64).2
    Ready s d 0x4A xltUnit (job d) ∧ ctxValid s 1 = true ∧ a.1 = true ∧ poisonVa a.2 1 0x400 64 = false ∧ pairedOk b = true ∧
    segValueOk (word b) = true ∧ overlapSeg s2 1 n (segOf (word b)) = none ∧
    tabGet? (16 + n) s2.xlt.segs = if n = 1 then some wide else none := by
  unfold Ready
  decide

/-- A range invalidation that waits for two units. -/
def inval : Inval := { id := 7, what := .xltInval, ring := 16, idx := 3, waitOn := [0, 8], start := 0, counted := true }

/-- An XLT_INVAL that has started, with invalidations under way. -/
def invalidating (l : List Inval) : State :=
  let s := withJob world { job (desc 0x4C [(144, 1), (256, 0x10000)]) with st := .running, phase := 1 }
  { s with xlt := { s.xlt with invals := l } }

theorem test_meets_ContextsAndSegmentsSet_inval :
    (∀ n ∈ [1, 3], let d := desc 0x4B [(128, 1), (144, n)]
     Ready (ready d) d 0x4B xltUnit (job d) ∧ ctxValid (ready d) 1 = true ∧
     tabGet? (16 + n) (ready d).xlt.segs = if n = 1 then some wide else none) ∧
    (let d := desc 0x4B [(128, 0)]
     Ready (ready d) d 0x4B xltUnit (job d) ∧ dbits d.words 16 0 16 = 0) ∧
    (let d := desc 0x4C [(144, 1), (256, 0x10000)]
     let j := { job d with st := .running, phase := 1 }
     Ready (ready d) d 0x4C xltUnit (job d) ∧ dbits d.words 18 0 1 = 1 ∧ (Going (invalidating []) d 0x4C xltUnit j ∧ jobInval (invalidating []) j = false) ∧
     (Going (invalidating [inval]) d 0x4C xltUnit j ∧ jobInval (invalidating [inval]) j = true)) ∧
    ((invalidating [inval]).xlt.invals.find? (fun x => x.id = 7) = some inval ∧ inval.waitOn.contains 8 = true ∧
      unhomed (invalidating [inval]) inval 8 = false ∧ inval.waitOn.filter (· ≠ 8) ≠ [] ∧ inval.waitOn.contains 9 = false ∧
      [8].filter (· ≠ 8) = []) := by
  unfold Ready Going
  decide

/-- The world with swapping on, 100 slots in the swap area of node 3, page 5 in slot 6, and one near frame in its sector. -/
def swapping : State :=
  { withRegs world [(F.XLT_SWAP_CFG_EN, 1), (F.XLT_SWAP_CFG_SLOTS, 100), (F.XLT_SWAP_BASE_FABRIC_BASE, 3 * 2 ^ 47),
      (F.TIER_S_NEAR_STATUS_POOL_FRAMES 0, 1), (F.TIER_S_NEAR_WATER_LOW 0, 0)] with
    store := { world.store with pages := world.store.pages.take 2 ++ [(5, { loc := .swapped 6, tensorBase := 5 })] } }

/-- XLT_SWAP_IN of page 5, and the state in which it starts. -/
def swapIn : Desc := desc 0x4E [(192, 0xA00000), (256, 1)]

def swapStart : State := startState (withJob swapping (job swapIn)) swapIn xltUnit

theorem test_meets_SwapDescriptorsMovePages :
    (let d := desc 0x4D [(192, 0x400000), (256, 1)]
     Ready (ready d) d 0x4D xltUnit (job d) ∧ (ready d).flag F.XLT_SWAP_CFG_EN = false) ∧
    (let d := desc 0x4D [(192, 0x400000), (256, 1)]
     let s := withJob swapping (job d)
     let a := evictRange (startState s d xltUnit) 0x400000 2097152 (.job 16 3)
     Ready s d 0x4D xltUnit (job d) ∧ s.flag F.XLT_SWAP_CFG_EN = true ∧
     ((span 2 1).filter fun p => (s.page? p).isSome) = [2] ∧ (s.page? 2).map Page.loc = some (.far zeroFar) ∧
     1 ≤ s.get F.XLT_SWAP_CFG_SLOTS - (slotsUsed s).length ∧ (swapPort s).isSome = true ∧ a.1 = true ∧ a.2.store.pages = s.store.pages) ∧
    (let d := desc 0x4E [(192, 0x400000), (256, 1)]
     Ready (withJob swapping (job d)) d 0x4E xltUnit (job d) ∧
       ((withJob swapping (job d)).page? 2).map Page.loc = some (.far zeroFar)) ∧
    (let s := withJob swapping (job swapIn)
     Ready s swapIn 0x4E xltUnit (job swapIn) ∧ (swapPort s).isSome = true ∧ (s.page? 5).map Page.loc = some (.swapped 6)) := by
  unfold Ready
  decide

/-- The same once SWAP_IN has been sent. -/
def swapSent : State :=
  (sendOut swapStart 1 { port := 1, tag := 0, what := "SWAP_IN", addr := slotAddr swapStart 6, node := slotAddr swapStart 6 / 2 ^ 47 })

theorem test_meets_SwapDescriptorsMovePages_in : (swapInPage swapStart 5 { loc := .swapped 6, tensorBase := 5 } 6).isSome = true := by
  have h : (takeFrame swapSent 0).1 = some 49151 := by
    unfold takeFrame
    rw [if_neg (by decide)]
    dsimp only [State.takeFree]
    rw [show max (swapSent.get (F.TIER_S_NEAR_STATUS_POOL_FRAMES 0)) 1 = 1 by decide, Nat.mod_one]
    decide
  have g : ∀ x : Option Nat × State, x.1 = some 49151 → (match x with
      | (some f, s) => some ((dropTlb ((s.putPage 5 (placed s { loc := .swapped 6, tensorBase := 5 } (.near f))).bump F.XLT_SWAP_STATUS_SWAP_INS) [5]))
      | (none, s) => match placeFar s 5 { loc := .swapped 6, tensorBase := 5 } 32 [] with
        | (some gs, s) => some (farCheck (dropTlb ((s.putPage 5 (placed s { loc := .swapped 6, tensorBase := 5 } (.far gs))).bump
            F.XLT_SWAP_STATUS_SWAP_INS) [5]) (homeOf s 5))
        | (none, _) => none).isSome = true := by
    rintro ⟨a, s⟩ e
    cases e
    rfl
  exact g _ h

/-- A fault record, and a waiter on one. -/
def fault (seq kind : Nat) (page : Option Nat) (ws : List Waiter) : FaultRec :=
  { kind := kind, source := 0x40, ctx := 1, seq := seq, page := page, waiters := ws }

def waiter : Waiter := { task := .job 16 3, ctx := 1, seg := 1, unit := 0x20, since := 0 }

/-- The world with records in the queue, in service and late, and a request that waits on a page fault. -/
def faulted (seg : Seg) : State :=
  { world with
    xlt := { world.xlt with
      segs := [(17, seg)], queue := [fault 0 5 none []], service := [fault 1 1 (some 0) [waiter], fault 2 2 (some 2) [waiter]],
      late := [.noRoom 0 (fault 3 1 (some 0) []) { waiter with task := .job 17 4 }], seq := 4 }
    fab := { world.fab with flights := [{ op := .rd, req := request 0 5 0 [], num := 0, pool := some 0, stage := .fault }] } }

theorem test_meets_FaultQueueServed :
    (let s := faulted wide
     (s.xlt.queue = [fault 0 5 none []] ∧ s.flag F.XLT_FQ_STATUS_SQUALL = false ∧ s.get F.XLT_FQ_PTRS_HEAD < 16383 ∧
       s.xlt.corrupt.contains (.faultRec 0) = false) ∧
     (waiterCount s < Config.waiterMax ∧ s.xlt.queue.length < Config.fqEntries ∧ hasFault s 0 = true ∧ s.xlt.late.length = 1) ∧
     (s.xlt.service.find? (fun x => x.seq = 1) = some (fault 1 1 (some 0) [waiter]) ∧ s.page? 0 = none ∧
       demandWaiter s (fault 1 1 (some 0) [waiter]) = none) ∧
     (s.xlt.service.find? (fun x => x.seq = 2) = some (fault 2 2 (some 2) [waiter]) ∧ (s.page? 2).map Page.loc = some (.far zeroFar)) ∧
     ((flightOf s 0 5).map Flight.stage = some .fault ∧
       0 + 1000000 * s.get F.XLT_CTRL_FAULT_TIMEOUT_MS ≤ max s.now 100000000000)) ∧
    (let s := faulted { wide with demand := true }
     demandWaiter s (fault 1 1 (some 0) [waiter]) = some (waiter, { wide with demand := true }) ∧
     inRegion s.comp.map (ctxDomain s 1) 0 = true ∧ inWindow (0 * 2097152) = false ∧
     overCapacity { s.upto 5 with xlt := { s.xlt with service := s.xlt.service.erase (fault 1 1 (some 0) [waiter]) } } 0 [0] false = false) ∧
    ({ faulted wide with xlt := { (faulted wide).xlt with late := [.record (fault 3 5 none [])] } }).xlt.late = [.record (fault 3 5 none [])] := by
  decide

theorem test_meets_FaultQueueServed_full : Config.fqEntries ≤ (List.replicate 16384 (fault 0 5 none [])).length ∧
    Config.waiterMax ≤ (List.replicate 65536 waiter).length := by
  rw [List.length_replicate, List.length_replicate]
  decide

/-! ### Requests -/

/-- The payload of a request of an operation: 64 bytes for a write, operands of 8 bytes for an atomic, BASE and body for a PUBLISH. -/
def payloadOf : ROp → List Byte
  | .rd | .rdShared | .rdOwn | .upgrade => []
  | .cas => leBytes 8 7 ++ leBytes 8 0xBBAA
  | .publish => leBytes 4 0 ++ leBytes 4 (2 ^ 32 - 1) ++ leBytes 8 9
  | .wr | .wrLine => (List.range 64).map (BitVec.ofNat 8)
  | _ => leBytes 8 0x8000000000000003

/-- A request of an operation on the bytes at 0x200000, in page 1. -/
def requestOf (op : ROp) : Req :=
  { request 0 5 0x200000 (payloadOf op) with
    len := if op.write && !(op == .wr || op == .wrLine) then (if op == .publish then 15 else 7) else 63
    ret := op.atomic && op != .publish }

/-- The world in which partner 1 of port 0 holds a grant and a lease, its tenant has a queue, and reads are not combined. -/
def served : State :=
  { world.set F.ANV_CTRL_RD_EN 0 with
    comp := { world.comp with map := { world.comp.map with grants := [(0, ⟨0, 0, 1, true, true⟩)], ports := [(0, 1)], partners := [(1, true)] } }
    sched := { world.sched with tqs := [(0, { en := true })] } }

theorem unheld {q : State} {f : Flight} {ls : List Nat} (h : ∀ l ∈ ls, dirEnt q l = none ∧ needsWay q f l = false) :
    ∀ l ∈ ls, match dirEnt q l with
      | some e => needSnoops q f l e = []
      | none => needsWay q f l = false := by
  intro l hl
  rw [(h l hl).1]
  exact (h l hl).2

theorem test_meets_PartnerRequestsServed : ∀ x ∈ requestRows, ∃ f q, Unhindered served x.1 (requestOf x.1) 0x200000 f q := by
  intro x hx
  refine ⟨_, _, 1, ?_, ?_, ?_, ?_, ?_, ?_, ?_, ?_, ?_, ?_, ⟨?_, ?_, ?_, ?_, ?_, ?_⟩, rfl, rfl⟩
  all_goals first
    | (revert x; decide)
    | (generalize hq : homeState _ _ _ = q
       refine unheld ?_
       rw [← hq]
       clear hq
       revert x
       decide)

theorem test_meets_PartnerRequestsServed_turnedAway :
    portUp up 0 = false ∧ portUp world 0 = true ∧ flightOf world 0 5 = none ∧
    headCheck (arrival .rd { requestOf .rd with ret := true } served).2 .rd { requestOf .rd with ret := true } = some .malformed := by
  decide

/-- Page 1 with a word of 7 at 0x200000, and a published version 5 with its complement at 0x200040. -/
def stored : State :=
  writeLine (writeLine world 0x8000 0x200000 (leBytes 8 7)) 0x8001 0x200040 (leBytes 4 5 ++ leBytes 4 (onesComp 32 5) ++ leBytes 8 9)

/-- A flight of a request of each operation at its home. -/
def flightFor (op : ROp) : Flight := { op := op, req := requestOf op, num := 0, stage := .home }

theorem test_meets_MemoryOperationsApply :
    (∀ op ∈ [ROp.rd, .rdShared, .rdOwn, .wr, .wrLine, .wrFlag, .fadd, .cas, .faddF], NearAndSound stored 0x200000 (reqSize (flightFor op).req)) ∧
    ((ROp.fadd).atomic = true ∧ ROp.fadd ≠ .publish) ∧ (0 < 8 ∧ 2 ^ (8 * 8) - 1 < 2 ^ (8 * 8)) := by
  refine ⟨?_, by decide, by decide⟩
  intro op h
  refine ⟨⟨{ loc := .near 7, tensorBase := 1 }, rfl, rfl, 7, rfl⟩, ?_, ?_, ?_⟩ <;> revert op <;> decide

theorem test_meets_MemoryOperationsApply_publish :
    (let payload := leBytes 4 5 ++ leBytes 4 (onesComp 32 5)
     NearAndSound stored 0x200040 16 ∧ 0x200040 % 16 = 0 ∧ leVal ((payload.drop 4).take 4) = onesComp 32 (leVal (payload.take 4)) ∧
     leVal (stored.bytes (0x200040 + 4) 4) = onesComp 32 (leVal (stored.bytes 0x200040 4)) ∧
     leVal (stored.bytes 0x200040 4) = leVal (payload.take 4)) ∧
    leVal (stored.bytes 0x200040 4) ≠ leVal ((leBytes 4 6 ++ leBytes 4 (onesComp 32 6)).take 4) := by
  refine ⟨⟨⟨⟨{ loc := .near 7, tensorBase := 1 }, rfl, rfl, 7, rfl⟩, ?_, ?_, ?_⟩, ?_, ?_, ?_, ?_⟩, ?_⟩ <;> decide

/-- A snoop of line 0x8000 under tag 5 that partner 1 of port 0 has not answered, and its transaction. -/
def snoop (owner : Bool) (op sends : Nat) : Snoop := { port := 0, stag := 5, partner := 1, op := op, sent := 0, owner := owner, sends := sends }

/-- The world in which line 0x8000 has an entry, and a snoop may be under way. -/
def held (st : DirSt) (l : List Snoop) : State :=
  { world with dir := { world.dir with
      ents := [(0x8000, { st := st, shr := [(0, 1)], held := true })]
      txns := l.map fun x => { line := 0x8000, snoops := [x], what := .none }
      rsvs := [{ port := 0, cls := 2, credit := 5, ctx := 1, line := 0x8000, order := 0, made := 0 }] } }

/-- A message of class 0 of a partner. -/
def message (partner : Nat) : Req := { request 0 5 0x200000 [] with cls := 0, partner := Fin.ofNat 256 partner }

theorem test_meets_DirectoryAnswers :
    (∀ st ∈ [DirSt.owned, .shared], portUp (held st []) 0 = true ∧ msgOk ((held st []).upto 0) (message 1) = true ∧
      dirEnt (held st []) (msgLine (message 1)) = some { st := st, shr := [(0, 1)], held := true } ∧ inTxn (held st []) (msgLine (message 1)) = false ∧
      [(0, 1)].contains ((message 2).port.val, (message 2).partner.val) = false ∧ msgOk ((held st []).upto 0) (message 2) = true) ∧
    (let s := held .owned [snoop true 0x39 1]
     snoopOf s 0 5 1 = some ({ line := 0x8000, snoops := [snoop true 0x39 1], what := .none }, snoop true 0x39 1) ∧
     msgOk (clearUnresp (s.upto 0) 0 1) (message 1) = true ∧ msgLine (message 1) = 0x8000 ∧ snoopOf s 0 6 1 = none) ∧
    (let s := held .owned [snoop true 0x39 1]
     (s.dir.txns.findSome? fun u => (u.snoops.find? fun x => x.port = 0 && x.stag = 5).map fun x => (u, x)) =
       some ({ line := 0x8000, snoops := [snoop true 0x39 1], what := .none }, snoop true 0x39 1) ∧
     max s.now 0 < 0 + 1000 * s.get (F.DIR_S_RECALL_CFG_TIMEOUT_US (lineHome s 0x8000)) ∧
     0 + 1000 * s.get (F.DIR_S_RECALL_CFG_TIMEOUT_US (lineHome s 0x8000)) ≤ max s.now 10000000000 ∧
     1 ≤ s.get (F.DIR_S_RECALL_CFG_RETRIES (lineHome s 0x8000)) ∧ s.dir.unresp.contains (lineHome s 0x8000, 0, 1) = false ∧
     s.get (F.DIR_S_RECALL_CFG_RETRIES (lineHome s 0x8000)) < 9) := by
  decide

/-- A combining entry on the bytes at 0x200000. -/
def entry (atomic closed resv : Bool) : Entry :=
  { id := 4, atomic := atomic, op := if atomic then .fadd else .rd, ctx := 1, addr := 0x200000, len := 8, epoch := 0, domain := 0, pool := 0x200000,
    start := 0, joiners := [(0, 5)], resv := resv, closed := closed }

/-- The world with combining entries, and requests in flight. -/
def flying (es : List Entry) (fs : List Flight) (bad : List Failed) : State :=
  { world with fab := { world.fab with entries := es, flights := fs, nextEntry := 5, nextNum := 9, failed := bad } }

/-- A flight on the bytes at 0x200000 that waits at a stage. -/
def waits (op : ROp) (num tag : Nat) (st : Stage) : Flight :=
  { op := op, req := { requestOf op with tag := Fin.ofNat 8192 tag }, num := num, pool := some 0x200000, stage := st,
    entry := if st = .anvil 4 then some 4 else none }

theorem test_meets_RequestsWaitAndGoOn :
    (let s := flying [entry true false false] [waits .fadd 3 5 (.anvil 4)] []
     entryOf s 4 = some (entry true false false) ∧ s.get F.ANV_CTRL_AT_WINDOW ≤ 2 * (max s.now 1000 - 0) ∧
     s.fab.flights.find? (fun x => x.entry = some 4) = some (waits .fadd 3 5 (.anvil 4))) ∧
    (let s := flying [entry false false false] [waits .rd 3 5 (.anvil 4)] []
     entryOf s 4 = some (entry false false false) ∧
     s.fab.flights.find? (fun x => x.entry = some 4 && x.stage = .anvil 4) = some (waits .rd 3 5 (.anvil 4))) ∧
    (entryOf (flying [entry true true true] [waits .fadd 3 5 (.anvil 4)] []) 4 = some (entry true true true) ∧ (entry true true true).resv = true) ∧
    (let s := flying [] [waits .wr 1 6 .order, waits .wrFlag 3 5 .held] []
     flightOf s 0 5 = some (waits .wrFlag 3 5 .held) ∧ flagBlocked s (waits .wrFlag 3 5 .held) = true) ∧
    (let s := flying [] [waits .wrFlag 3 5 .held] []
     flagBlocked s (waits .wrFlag 3 5 .held) = false ∧ flagBar s (waits .wrFlag 3 5 .held) = none) ∧
    (let x : Failed := { port := 0, ctx := 1, num := 1, code := .poison, tag := 77 }
     flagBlocked (flying [] [waits .wrFlag 3 5 .held] [x]) (waits .wrFlag 3 5 .held) = false ∧
     flagBar (flying [] [waits .wrFlag 3 5 .held] [x]) (waits .wrFlag 3 5 .held) = some x) ∧
    (flightOf (flying [] [waits .wr 3 5 .tail] []) 0 5 = some (waits .wr 3 5 .tail) ∧ inWindow 0x200000 = false) ∧
    (let s := held .owned []
     dirEnt s 0x8000 = some { st := .owned, shr := [(0, 1)], held := true } ∧
     holdRuns (s.upto 0) 0x8000 { st := .owned, shr := [(0, 1)], held := true } = true ∧
     holdRuns (s.upto 100000) 0x8000 { st := .owned, shr := [(0, 1)], held := true } = false ∧
     (s.dir.rsvs.find? (fun r => r.port = 0 && r.cls = 2 && r.credit = 5)).isSome = true ∧
     max s.now 0 < 0 + 1000 * s.get (F.DIR_S_RECALL_CFG_RSV_TIMEOUT_US (lineHome s 0x8000)) ∧
     0 + 1000 * s.get (F.DIR_S_RECALL_CFG_RSV_TIMEOUT_US (lineHome s 0x8000)) ≤ max s.now 10000000000) ∧
    (let s := flying [] [waits .rd 3 5 .atPort] []
     (s.fab.flights.filter fun f => f.stage = .atPort && match f.pool with | some a => lineHome s (a / 64) = 1 | none => false) =
       [waits .rd 3 5 .atPort] ∧ pendingOf s 1 < 1024) := by
  decide

/-! ### Rings -/

/-- A submission ring of three descriptors, one of them fetched, and its completion ring. -/
def subRing : Ring := { st := .enabled, log2 := 4, cq := 1, base := 0x1000, pi := 3, ci := 0, fetch := 1 }

def complRing : Ring := { st := .enabled, completion := true, log2 := 4, base := 0x2000, pi := 15, ci := 14 }

/-- The world with queue contexts. -/
def ringed (l : List (Nat × Ring)) : State := { world.set F.RING_CTRL_FETCH_BURST 1 with rings := { world.rings with qcs := l } }

/-- Rings 16 and 17 in use, ring 34 in ERROR with a descriptor at work or not, and the image of a completion ring at pool address 0x400. -/
def ringsUp (busy : Bool) : State :=
  let l := ringWords { complRing with pi := 0, ci := 0 }
  let s := ringed [(16, subRing), (17, complRing), (34, { subRing with st := .error })]
  let s := writeLine s 16 0x400 ((l ++ l.map (onesComp 64)).flatMap (leBytes 8))
  let s := { s with store := { s.store with pages := (0, { loc := .near 3 }) :: s.store.pages } }
  if busy then withJob s { job (desc 0 []) with ring := 34, idx := 4 } else s

/-- RING_SET and RING_DISABLE. -/
def ringDesc (op g : Nat) : Desc := desc op [(128, g), (192, 0x400)]

theorem test_meets_RingsSetUpAndDisabled :
    (let s := ringsUp false
     let w := fun i => (ringWords { complRing with pi := 0, ci := 0 }).getD i 0
     let v := fun i => (ringWords { subRing with pi := 0, fetch := 0 }).getD i 0
     20 / 16 ≠ 0 ∧ ctxValid s (20 / 16) = true ∧ ringImageOk (fun _ => 2 ^ 64 - 1) = false ∧ ringImageOk w = true ∧ (s.ring 16).st ≠ .disabled ∧
     (s.ring 20).st = .disabled ∧ (ringOf w).path = 6 ∧ (ringOf w).completion = true ∧ ringImageOk v = true ∧ (ringOf v).completion = false ∧
     (s.ring (20 / 16 * 16 + (ringOf v).cq)).completion = true ∧ (s.ring (20 / 16 * 16 + (ringOf v).cq)).st = .enabled ∧
     (s.ring (32 / 16 * 16 + (ringOf v).cq)).completion = false) ∧
    (let s := ringsUp false
     PortOpen s ∧ s.flag F.RING_QC_SEL_BUSY = false ∧ ((s.ring 17).completion = true ∧ boundBusy s 17 = true ∧ (s.ring 17).st ≠ .disabled) ∧
     ((s.ring 34).st = .error ∧ ((s.ring 34).completion && boundBusy s 34) = false ∧ (s.rings.jobs.any fun j => j.ring = 34) = false) ∧
     ((ringsUp true).rings.jobs.any fun j => j.ring = 34) = true) := by
  unfold PortOpen
  decide

theorem test_meets_RingsSetUpAndDisabled_desc :
    (let d := ringDesc 0x70 20
     let s := withJob (ringsUp false) (job d)
     let a := prepare (startState s d 0x90) (started (job d) 0x90) 0x90 [⟨0x400, 64, .rd⟩]
     Ready s d 0x70 0x90 (job d) ∧ ctxValid s (20 / 16) = true ∧ a.1 = true ∧ poisonVa a.2 1 0x400 64 = false) ∧
    (∀ op ∈ [0x70, 0x71], let d := ringDesc op 5
     Ready (withJob (ringsUp false) (job d)) d op 0x90 (job d) ∧ dbits d.words 16 0 20 / 16 = 0 ∧ (job d).phase ≠ 1) ∧
    (∀ g ∈ [16, 17, 20, 34], let d := ringDesc 0x71 g
     let s := withJob (ringsUp (g == 17)) (job d)
     Ready s d 0x71 0x90 (job d) ∧ dbits d.words 16 0 20 = g ∧
     ((s.ring g).st = .disabled ↔ g = 20) ∧ ((s.ring g).completion = true ↔ g = 17) ∧ boundBusy s 17 = true ∧
     (g = 34 → (s.rings.jobs.any fun k => k.ring = 34) = false)) ∧
    (∀ g ∈ [20, 34], let d := ringDesc 0x71 g
     Going (withJob (ringsUp true) { job d with st := .running, phase := 1 }) d 0x71 0x90 { job d with st := .running, phase := 1 }) := by
  unfold Ready Going
  decide

theorem test_meets_DoorbellsMoveIndices :
    (let s := ringsUp false
     (PortOpen s ∧ awake s = true) ∧ doorbellPath s 16 6 0 0 = true ∧ s.xlt.corrupt.contains (.queueCtx 16) = false ∧
     (s.ring 16).st = .enabled ∧ doorbellWindow (s.ring 16) 15 = true ∧ doorbellWindow (s.ring 16) 16 = false ∧
     (s.ring 34).st ≠ .enabled ∧ doorbellPath s 34 6 0 0 = true) ∧
    (let s := ringed [(17, { complRing with path := 1, partner := 4 })]
     doorbellPath s 17 1 4 1 = true ∧ doorbellWindow (s.ring 17) 15 = true ∧ doorbellWindow (s.ring 17) 13 = false) := by
  unfold PortOpen
  decide

/-- A request of the device's own through port 1. -/
def outgoing (what : String) (resent : Bool) : OutReq := { port := 1, tag := 7, what := what, ring := 16, idx := 3, node := 3, resent := resent }

theorem test_meets_DescriptorsFetched :
    (let s := ringsUp false
     s.xlt.corrupt.contains (.queueCtx 16) = false ∧ ((s.ring 16).st = .enabled ∧ (s.ring 16).completion = false ∧ (s.ring 16).path = 6 ∧
       awake s = true ∧ s.flag F.PWR_STATUS_ENTERING = false) ∧ (s.ring 16).fetch ≠ (s.ring 16).pi ∧
     ringRoom (s.ring (16 / 16 * 16 + (s.ring 16).cq)) ≠ 0 ∧ s.get F.RING_CTRL_FETCH_BURST = 1 ∧ findJob s 16 (s.ring 16).fetch = none ∧
     (s.ring 34).st ≠ .enabled) ∧
    (let j : Job := { job (desc 0 []) with st := .reading }
     let s := withJob (ringsUp false) j
     findJob s 16 3 = some j ∧ halted s = false ∧ (desc 0 []).words.length = 8 ∧ (s.ring 16).path = 6 ∧ (s.ring 16).st = .enabled) ∧
    (∀ o ∈ [outgoing "RD" false, outgoing "RD" true, outgoing "FETCH" false],
      ({ ringsUp false with fab := { (ringsUp false).fab with outReqs := [o] } }.fab.outReqs.find? fun o => o.port = 1 && o.tag = 7) = some o) := by
  decide

theorem test_meets_DescriptorsCompleteWithRecords :
    (let d := desc 0 []
     Ready (withJob (ringsUp false) (job d)) d 0 0x90 (job d)) ∧
    (let j : Job := { job (desc 0 []) with st := .finished }
     findJob (withJob (ringsUp false) j) 16 3 = some j ∧
     ((withJob (ringsUp false) j).fab.outReqs.any fun o => o.job = some (16, 3)) = false ∧ unitSector j.unit = none) ∧
    ((((ringsUp false).ring 17).path = 6 ∧ (ringsUp false).mgmt.hostWrites = true ∧ ((ringsUp false).ring 17).notify = false) ∧
     complRing.pi % 2 ^ complRing.log2 = 2 ^ complRing.log2 - 1) ∧
    (let r := { complRing with notify := true, unnotified := 2, firstAt := 1000, timeUs := 5 }
     (ringed [(17, r)]).ring 17 = r ∧ r.firstAt + 1000 * r.timeUs ≤ max (ringed [(17, r)]).now 6000 ∧
     max (ringed [(17, r)]).now 5999 < r.firstAt + 1000 * r.timeUs) ∧
    (let j : Job := { job (desc 0 []) with st := .running }
     let s := withJob (ringed [(16, { subRing with st := .draining })]) j
     (s.ring 16).st = .draining ∧ (s.ring 16).drainAt + 1000 * s.get F.RING_CTRL_DISABLE_BOUND_US ≤ max s.now 100000000000 ∧ s.rings.jobs = [j]) := by
  unfold Ready
  decide


/-! ### What well-formedness refuses -/

/-- A descriptor cut to seven words. -/
def shortDesc : Desc := { desc 0x40 [] with words := List.replicate 7 0 }

/-- A request with 257 bytes of payload. -/
def longReq : Req := { request 0 0 0 [] with payload := List.replicate 257 0 }

theorem test_wf_refuses_descriptor : (Instr.tierAlloc shortDesc).wf = false ∧ (Instr.tierAlloc (desc 0x40 [])).wf = true := by decide

theorem test_wf_refuses_request : (Instr.wr longReq).wf = false ∧ (Instr.wr (request 0 0 0 [])).wf = true := by decide

theorem test_wf_refuses_copy : (Instr.cpyMem (.ring shortDesc)).wf = false ∧ (Instr.cpyPlace (.ring shortDesc)).wf = false ∧
    (Instr.cpyMem (.kernel 0 0)).wf = true := by decide

theorem test_wf_refuses_fetched_words : (Instr.descriptorReadComplete 16 0 (some (List.replicate 9 0)) 0).wf = false ∧
    (Instr.descriptorReadComplete 16 0 none 0).wf = true := by decide

theorem test_wf_refuses_cxl_data : (Instr.cxlMemRequest ⟨0, 0, 0, .memWr false [], 0⟩).wf = false ∧
    (Instr.cxlMemRequest ⟨0, 0, 0, .memWrPtl 0 [], 0⟩).wf = false ∧ (Instr.cxlMemRequest ⟨0, 0, 0, .biRsp false (some [0]), 0⟩).wf = false ∧
    (Instr.cxlMemRequest ⟨0, 0, 0, .memRdAny, 0⟩).wf = true := by decide

/-- The world's image, with `n` bytes of header. -/
def image (n : Nat) : Image :=
  { header := List.replicate n 0, version := 7, svn := 3, raise := true, herquinOk := true, ownerOk := true, digestOk := true }

theorem test_wf_refuses_image_header : (Instr.activeBankVerified (image 63) 0).wf = false ∧ (Instr.activeBankVerified (image 64) 0).wf = true ∧
    (Instr.requestFirmwareData false 0 0 (some (image 63)) 0).wf = false ∧ (Instr.requestFirmwareData false 0 0 none 0).wf = true := by decide

theorem test_wf_refuses_window_write : (Instr.poolWindowAccess 0 (.write (List.replicate 4097 0)) 0).wf = false ∧
    (Instr.poolWindowAccess 0 (.write [1]) 0).wf = true := by decide

theorem test_wf_refuses_nonce : (Instr.getReport false 0 0 (List.replicate 31 0) 0).wf = false ∧
    (Instr.getReport false 0 0 (List.replicate 32 0) 0).wf = true := by decide


/-! ### Ports, links and starts -/

/-- The world with a state of link 0 of port 0, the port's links in service, what the link holds, and some fields. -/
def link (v set : Nat) (k : Link) (l : List (Fld × Nat)) : State :=
  { withRegs world ([(F.KZP_L_STATUS_STATE 0 0, v), (F.KZP_STATUS_LINK_SET 0, set), (F.KZP_CTRL_EN 0, 1)] ++ l) with
    ports := { world.ports with links := [(linkKey 0 0, k)] } }

/-- The identity of a module that is accepted. -/
def goodCmis : Cmis := ⟨true, true, 12, 100, 1, 2, 3⟩

/-- A port in INIT, and the initialization data of its peer, which the map names. -/
def initing : State :=
  { link 3 1 {} [(F.KZP_STATUS_STATE 0, 2)] with comp := { world.comp with map := { world.comp.map with ports := [(0, 77)] } } }
def peerData : InitData := ⟨77, 1, 0, true, 5, 8192⟩

/-- Port 0 without its PLLs' links: it has fewer links than it needs, and is flushing or not. -/
def fewLinks (flushing : Nat) : State := link 3 0 {} [(F.KZP_STATUS_STATE 0, 0), (F.SCH_K_STATUS_FLUSHING 0, flushing), (F.KZP_CTRL_MIN_LINKS 0, 2)]

theorem test_meets_LinksAndPortsChangeState_links :
    (∀ v : Fin 7, let s := link v.val 3 {} [(F.KZP_CTRL_MIN_LINKS 0, 1)]
      (s.get (F.KZP_STATUS_STATE 0) ≠ 3 ∨ s.get (F.KZP_CTRL_MIN_LINKS 0) < linkSetSize s 0) ∧ PortOpen s ∧ linkSt s 0 0 = v.val ∧
      portClocked s 0 = true ∧ (linkOf s 0 0).flitAt + 10000 ≤ max s.now 10000 ∧ max s.now 9999 < (linkOf s 0 0).flitAt + 10000 ∧
      max s.now 0 ≤ (linkOf s 0 0).trainAt + trainBound s 0 0 ∧ (linkOf s 0 0).trainAt + trainBound s 0 0 ≤ max s.now 900000000000) ∧
    ((3 : Fin 16).val % 4 = 3 ∨ (3 : Fin 16).val / 4 = 3) ∧ ¬ ((5 : Fin 16).val % 4 = 3 ∨ (5 : Fin 16).val / 4 = 3) := by
  unfold PortOpen
  decide

theorem test_meets_LinksAndPortsChangeState_ports :
    (let s := { link 0 0 {} [(F.KZP_OE_STATUS_LSM_STATE 0 0, 1)] with ports := { lasers := [0] } }
     s.get (F.KZP_OE_STATUS_LSM_STATE 0 0) ≠ 2 ∧ portClocked s 0 = true ∧ cmisOk goodCmis = true ∧ cmisOk { goodCmis with outputs := 11 } = false ∧
     (0 : Fin 12).val ∈ s.ports.lasers ∧ laserOf 0 0 = 0 ∧ linkSt s 0 0 = 0 ∧ s.flag (F.KZP_CTRL_EN 0) = true ∧
     (s.flag (F.KZP_CTRL_PERSONALITY 0) && decide (4 ≤ 0)) = false) ∧
    (initing.get (F.KZP_STATUS_STATE 0) = 2 ∧ initRefused initing 0 peerData = none ∧ (initRefused initing 0 { peerData with version := 2 }).isSome = true) ∧
    (world.get (F.KZP_STATUS_STATE 0) = 3 ∧ (portSt world 0).flitAt + 100000 ≤ max world.now 100000 ∧ (downReason (link 3 0 {} []) 0).isSome = true ∧
      downReason (initing.set (F.KZP_CTRL_MIN_LINKS 0) 1) 0 = none) ∧
    ((fewLinks 1).flag (F.SCH_K_STATUS_FLUSHING 0) = true ∧ ((fewLinks 1).fab.flights.any fun f => f.req.port.val = 0) = false) ∧
    (promoting.fab.flights.any fun f => f.req.port.val = 0) = true ∧ PortOpen world ∧
    (let s := fewLinks 0
     s.get (F.KZP_STATUS_STATE 0) = 0 ∧ s.flag (F.KZP_CTRL_EN 0) = true ∧ s.flag (F.SCH_K_STATUS_FLUSHING 0) = false ∧ portsMayRun s = true ∧
     s.comp.retired.contains (.port, 0) = false ∧ portClocked s 0 = true ∧ (∃ l ∈ sixLinks, linkSt s 0 l ≠ 0) ∧
     linkSetSize s 0 < s.get (F.KZP_CTRL_MIN_LINKS 0)) := by
  unfold PortOpen
  decide

/-- A DATA flit of FSN `n` with nothing in it, with its CRC. -/
def flit (n : Nat) : List Byte := let b := leBytes 8 (1 + n * 4) ++ List.replicate 240 0; b ++ leBytes 8 (crc64 b)

/-- The world with link 0 of port 0 in service, under a port key. -/
def keyed (v : Nat) (k : Link) (l : List (Fld × Nat)) : State := let s := link v 3 k l; { s with sec := { s.sec with portCur := [(0, 9)] } }

/-- A CONTROL flit and a crypto frame. -/
def ctl (tagOk nak down : Bool) : CtlFlit := ⟨5, nak, false, down, 0, 7, tagOk⟩
def frame (ctr : Nat) (good : Bool) : Frame0 := ⟨BitVec.ofNat 63 ctr, false, 5, good, [(false, 0)]⟩

theorem test_meets_FlitsAndFramesReceived :
    (let s := keyed 3 { rxNext := 5, rxCtr := 7 } [(F.KZP_CTRL_REKEY_LOG2 0, 20)]
     linkOn s 0 0 = true ∧ bits (flitHead (flit 5)) 0 2 = 1 ∧ flitFails s 0 0 (flit 5) = false ∧ flitFails s 0 1 (flit 5) = true ∧
     bits (flitHead (flit 5)) 2 12 = (linkOf s 0 0).rxNext ∧ portKeyed s 0 = true ∧ s.get (F.KZP_STATUS_STATE 0) = 3 ∧
     (frame 6 true).slot = (linkOf s 0 0).rxSlot ∧ (frame 6 true).counter.toNat < (linkOf s 0 0).rxCtr ∧
     (linkOf s 0 0).rxCtr ≤ (frame 7 true).counter.toNat ∧ (frame 7 true).good = true ∧ (frame 7 false).good = false ∧
     2 ^ s.get (F.KZP_CTRL_REKEY_LOG2 0) ≤ (1048576 : BitVec 63).toNat ∧ (1048575 : BitVec 63).toNat < 2 ^ s.get (F.KZP_CTRL_REKEY_LOG2 0)) ∧
    ((ctl false false false).tagOk = false ∧ (ctl true false true).nak = false ∧ (ctl true false true).down = true) ∧
    (linkOn (link 3 3 {} []) 0 0 = true ∧ portKeyed (link 3 3 {} []) 0 = false) ∧
    (let s := link 3 3 { haze := { above := 99999 } } [(F.KZP_STATUS_STATE 0, 2)]
     linkOn s 0 0 = true ∧ linkSt s 0 0 = 3 ∧ (linkOf s 0 0).haze.hazy = false ∧ s.get (F.KZP_STATUS_STATE 0) ≠ 3 ∧
     s.get F.KZP_HAZE_CFG_RATIO * 1 < 33000 * 16 ∧ s.get F.KZP_HAZE_CFG_WINDOW_MS ≤ (linkOf s 0 0).haze.above + 1) ∧
    (let s := link 4 3 { haze := { below := 99999, hazy := true } } []
     linkOn s 0 0 = true ∧ linkSt s 0 0 = 4 ∧ (linkOf s 0 0).haze.hazy = true ∧ 0 * 16 ≤ s.get F.KZP_HAZE_CFG_EXIT_RATIO * 1 ∧
     s.get F.KZP_HAZE_CFG_EXIT_MS ≤ (linkOf s 0 0).haze.below + 1) := by
  decide

/-- Port 0 under the CXL 3.2 personality, with a BIConflict outstanding's place. -/
def cxl : State := { world.set (F.KZP_CXL_CFG_CXL_CTX 0) 1 with ports := { world.ports with ports := [(0, { cxl := true, cxlEvents := [(.poison, 5)] })] } }

theorem test_meets_CxlMessagesMap : cxlPort cxl 0 = true ∧ portUp cxl 0 = true := by decide

/-- The hbmAt all at one state. -/
def hbmAt (v : Nat) (l : List (Fld × Nat)) : State := withRegs up (((List.range 8).map fun m => (F.HBM_H_STATUS_STATE m, v)) ++ l)

theorem test_meets_StartsKeepFusesAndFlash :
    up.flag F.SEC_TAMPER_STATUS_TAMPERED = false ∧
    (State.reset.flag F.SYS_STATUS_FW_RUNNING = false ∧ State.reset.clk.off = false ∧ imageOk State.reset (image 64) = true ∧
      imageOk State.reset { image 64 with digestOk := false } = false ∧ State.reset.sec.blocksBad < 2 ∧
      State.reset.get F.SEC_XMSS_STATE_BLOCKS < 2 ^ 30) ∧
    (∀ v ∈ [0, 1], let s := hbmAt 2 [(F.SYS_STATUS_NEAR_SERVING, v)]
      loopLocked s 1 = true ∧ awake s = true ∧ s.flag F.SYS_STATUS_FW_RUNNING = true ∧ s.get (F.HBM_H_STATUS_STATE 0) = 2 ∧
      s.flag F.SYS_STATUS_NEAR_SERVING = (v == 1) ∧ ∀ m : Fin 8, 2 ≤ s.get (F.HBM_H_STATUS_STATE m)) := by
  decide

/-- A device that starts, one whose XTAL is being tested, and one that coasts with two port loops off XTAL. -/
def starting : State := withRegs State.reset [(F.CLK_STATUS_REFCLK_OK, 1)]
def testing : State := { starting with clk := { starting.clk with testing := true } }
def coasting : State :=
  { withRegs up [(F.CLK_STATUS_XTAL_OK, 0), (F.CLK_STATUS_COASTING, 1), (F.CLK_STATUS_XTAL_STABLE_MS, 30)] with
    clk := { up.clk with coastAt := some 1000, slowMem := true, portRef := [(1, 1), (2, 2)] } }

theorem test_meets_ClocksStartCoastReturn :
    (starting.clk.off = false ∧ chipClock starting = false ∧ 1000000 * xtalDelay starting ≤ max starting.now 40000000 ∧
      2000000 * xtalDelay starting ≤ max starting.now 90000000000) ∧
    (testing.clk.off = false ∧ testing.clk.testing = true ∧ testing.flag F.CLK_SOURCE_LOST_XTAL = false) ∧
    (∀ k : Fin 3, let s := up.set (loopState k) 1
      s.clk.off = false ∧ s.get (loopState k) = 1 ∧ awake s = true ∧ (s.flag F.CLK_STATUS_XTAL_OK || s.flag F.CLK_STATUS_COASTING) = true) ∧
    (∀ e : Bool, loopLocked up (if e then 2 else 0) = true ∧ loopIdle (up.upto 900000000) e = true ∧ loopIdle (up.upto 0) e = false) ∧
    (up.clk.off = false ∧ up.flag F.CLK_STATUS_XTAL_OK = true ∧ up.get F.PWR_STATUS_STATE ≠ 2 ∧ up.flag F.CLK_STATUS_REFCLK_OK = true ∧
      trimRef up = 1 ∧ trimRef (withRegs up [(F.CLK_CTRL_TRIM_SRC, 2), (F.CLK_STATUS_REFCLK_OK, 0), (F.KZP_STATUS_STATE 0, 3),
        (F.KZP_STATUS_LINK_SET 0, 1)]) = 2) ∧
    (coasting.clk.off = false ∧ coasting.clk.coastAt = some 1000 ∧ tabGet 0 0 coasting.clk.portRef ≠ 2 ∧ max coasting.now 10000999 < 1000 + 10000000 ∧
      1000 + 10000000 ≤ max coasting.now 10001000 ∧ coasting.flag F.CLK_STATUS_REFCLK_OK = true ∧
      (coasting.set F.CLK_STATUS_REFCLK_OK 0).flag F.CLK_STATUS_REFCLK_OK = false ∧ coasting.flag F.CLK_STATUS_XTAL_OK = false ∧
      coasting.clk.testing = false ∧ coasting.get F.CLK_STATUS_XTAL_STABLE_MS ≠ 0) := by
  decide

/-- The device with every port DISABLED. -/
def quiet (l : List (Fld × Nat)) : State := withRegs up (((List.range 6).map fun p => (F.KZP_STATUS_STATE p, 0)) ++ l)

/-- A read of a register that the always-on domain serves. -/
def peek : MgmtAccess := ⟨0, BitVec.ofNat 32 F.PWR_CTRL, none⟩

theorem test_meets_DeepIdleAndLimits_deep :
    (let s := quiet []
     PortOpen s ∧ awake s = true ∧ loopLocked s 1 = true ∧ s.flag F.PWR_STATUS_ENTERING = false ∧ deepDenied s = none ∧ s.dir.ents = [] ∧
     s.dir.txns = [] ∧ (∀ p : Fin 6, s.get (F.KZP_STATUS_STATE p) = 0) ∧ s.cache.guests = [] ∧ s.cache.wbs = [] ∧ s.store.dirty = []) ∧
    (let s := quiet [(F.DDR_D_STATUS_STATE 3, 2)]
     PortOpen s ∧ awake s = true ∧ loopLocked s 1 = true ∧ s.flag F.PWR_STATUS_ENTERING = false ∧ (deepDenied s).isSome = true) ∧
    (halted deep = false ∧ deep.clk.trip = false ∧ deep.get F.PWR_STATUS_STATE = 2) ∧
    (let s := quiet [(F.PWR_STATUS_ENTERING, 1)]
     halted s = false ∧ s.clk.trip = false ∧ s.get F.PWR_STATUS_STATE ≠ 2 ∧ s.flag F.PWR_STATUS_ENTERING = true) ∧
    (let s := withRegs deep [(F.PWR_CTRL_WAKE_ON_TIMER, 1), (F.PWR_WAKE_TIMER_MS, 3)]
     s.flag F.PWR_CTRL_WAKE_ON_TIMER = true ∧ s.get F.PWR_WAKE_TIMER_MS ≠ 0 ∧ s.get F.PWR_STATUS_STATE = 2 ∧
     s.clk.deepAt + 1000000 * s.get F.PWR_WAKE_TIMER_MS ≤ max s.now 3000000) ∧
    (deep.clk.off = false ∧ deepNoWake deep = true ∧ takesWrites deep = true ∧ peek.bar = 0 ∧ deepServed peek.off.toNat = true ∧
      peek.off.toNat % 8 = 0 ∧ (regAt peek.off.toNat).isSome = true) ∧
    (up.rings.jobs = [] ∧ up.plane.kcopies = [] ∧ tabGet 0 19 up.clk.engAt + 50000 ≤ max up.now 50000) := by
  unfold PortOpen
  decide

theorem test_meets_DeepIdleAndLimits_limits :
    up.clk.off = false ∧ up.clk.trip = false ∧ (115 : Fin 256).val ≤ 115 ∧ ((114 : Fin 256).val < 115 ∧ (104 : Fin 256).val < 105 ∧ (89 : Fin 256).val < 90) ∧
    (let s := { up with clk := { up.clk with hot := [1] } }; s.clk.off = false ∧ ∀ k ∈ s.clk.hot, k = (1 : Fin 8).val) := by
  decide


/-! ### The pod map, domains, sectors and firmware -/

/-- The bytes of a map entry of words `l`, with their complement. -/
def mapEntry (l : List Nat) : List Byte := (l ++ l.map (onesComp 64)).flatMap (leBytes 8)

/-- The entry of region 5 of domain 7's 1,000 pages; one whose pairing is broken; one of no kind. -/
def regionEntry : List Byte := mapEntry [4 + 2 ^ 8 + 5 * 2 ^ 16, 1000 + 7 * 2 ^ 26, 0, 0]
def brokenEntry : List Byte := regionEntry.take 63 ++ [0xAA]
def oddEntry : List Byte := mapEntry [9, 0, 0, 0]

/-- The world with page 0 near and the three entries in it. -/
def mapStored : State :=
  let s := { world.set F.CMP_CTRL_STAGE_TIMEOUT_MS 5 with store := { world.store with pages := (0, { loc := .near 3 }) :: world.store.pages } }
  writeLine (writeLine (writeLine s 16 0x400 regionEntry) 32 0x800 brokenEntry) 48 0xC00 oddEntry

/-- The same with the staging map `m` of context `own`. -/
def staged (own : Nat) (m : CMap) : State :=
  { mapStored.set F.CMP_STATUS_STAGE_OWNER own with comp := { mapStored.comp with staging := some m, changed := [(4, 5)] } }

/-- The map in force with the region of the entry, with two regions that overlap, and with another node's number. -/
def mapNext : CMap := { world.comp.map with regions := world.comp.map.regions ++ [(5, ⟨0, 1000, 7⟩)] }
def mapClash : CMap := { world.comp.map with regions := [(0, ⟨0, 0, 4⟩), (1, ⟨0, 2, 4⟩)] }
def mapOther : CMap := { mapNext with node := { mapNext.node with nodeId := 7 } }

/-- What a descriptor of the map's sequencer reads, and the state after it. -/
def fetched (s : State) (d : Desc) : Option (List (List Byte)) × State :=
  fetchRanges (startState (withJob s (job d)) d zenith) (started (job d) zenith) zenith (cmpRanges d.words)

/-- CMP_STAGE of the entry at address `a`, and CMP_COMMIT on epoch `base`. -/
def stageAt (a discard : Nat) : Desc := desc 0x60 [(128, discard), (192, a), (256, 1)]
def commitOn (base comp : Nat) : Desc := desc 0x61 [(128, base), (160, comp), (192, 0x400)]

theorem test_meets_MapsStagedAndCommitted_stage :
    (∀ x ∈ [(0x400, 0), (0x400, 1), (0x800, 0), (0xC00, 0)], let d := stageAt x.1 x.2; let s := withJob mapStored (job d)
     Ready s d 0x60 zenith (job d) ∧ commitRuns (startState s d zenith) = false ∧ (fetched mapStored d).1.isSome = true) ∧
    ((cutBytes 64 1 ((fetched mapStored (stageAt 0x800 0)).1.getD [] |>.getD 0 [])).any fun b => !pairedOk b) = true ∧
    (let es := cutBytes 64 1 ((fetched mapStored (stageAt 0x400 0)).1.getD [] |>.getD 0 [])
     (es.any fun b => !pairedOk b) = false ∧ (applyEntries mapStored.comp.map [] es).isSome = true) ∧
    (let es := cutBytes 64 1 ((fetched mapStored (stageAt 0xC00 0)).1.getD [] |>.getD 0 [])
     (es.any fun b => !pairedOk b) = false ∧ applyEntries mapStored.comp.map [] es = none) ∧
    (mapStored.comp.staging.isSome && !ownsStaging mapStored 1) = false ∧
    ((staged 2 mapNext).comp.staging.isSome && !ownsStaging (staged 2 mapNext) 1) = true ∧
    (staged 1 mapNext).comp.staging.isSome = true ∧ commitRuns (staged 1 mapNext) = false ∧
    (staged 1 mapNext).comp.stageAt + 1000000 * (staged 1 mapNext).get F.CMP_CTRL_STAGE_TIMEOUT_MS ≤ 5000000 := by
  unfold Ready
  decide +kernel

theorem test_meets_MapsStagedAndCommitted_commit :
    (∀ x ∈ [(0, 2 ^ 32 - 1), (0, 5), (1, 2 ^ 32 - 2), (2 ^ 32 - 1, 0)], let d := commitOn x.1 x.2; let s := withJob (staged 1 mapNext) (job d)
     Ready s d 0x61 zenith (job d) ∧ (job d).phase = 0 ∧ commitRuns (startState s d zenith) = false ∧ (fetched (staged 1 mapNext) d).1.isSome = true) ∧
    dbits (commitOn 0 5).words 20 0 32 ≠ onesComp 32 (dbits (commitOn 0 5).words 16 0 32) ∧
    dbits (commitOn 0 (2 ^ 32 - 1)).words 20 0 32 = onesComp 32 (dbits (commitOn 0 (2 ^ 32 - 1)).words 16 0 32) ∧
    ownsStaging (staged 2 mapNext) 1 = false ∧ ownsStaging (staged 1 mapNext) 1 = true ∧ curEpoch (staged 1 mapNext) = 0 ∧
    curEpoch ((staged 1 mapNext).set F.CMP_EPOCH_EPOCH (2 ^ 32 - 1)) = 2 ^ 32 - 1 ∧ mapMalformed mapClash = true ∧ mapMalformed mapNext = false ∧
    needsQuorum (staged 1 mapNext) mapNext [] = false ∧
    (let s := staged 1 mapNext
     needsQuorum { s with comp := { s.comp with map := { s.comp.map with managers := [(0, ⟨1, 0, 5⟩)] } } } mapNext [] = true) ∧
    mapDenied (staged 1 mapOther) mapOther = true ∧
    (Quiet State.reset ∧ tenantsChanged State.reset.comp.map State.reset.comp.map = [] ∧ State.reset.flag F.CMP_STATUS_LEASE = false) ∧
    State.reset.flag F.CMP_STATUS_PERSISTED = false := by
  unfold Ready Quiet
  decide +kernel

/-- A fence statement of action `act` for the sequence number `seq`. -/
def fenceBytes (act seq : Nat) : List Byte :=
  leBytes 8 0 ++ [BitVec.ofNat 8 act, 0, 3, 0] ++ leBytes 4 0 ++ leBytes 8 seq ++ List.replicate 40 0

/-- The world with page 0 near, three fence statements, three events, partner 1 of port 0 named, and a quorum of `q` of one manager. -/
def fencing (q mgr : Nat) : State :=
  let s := { world with store := { world.store with pages := (0, { loc := .near 3 }) :: world.store.pages } }
  let s := writeLine (writeLine (writeLine s 16 0x400 (fenceBytes 1 0)) 32 0x800 (fenceBytes 1 9)) 48 0xC00 (fenceBytes 5 0)
  let m := world.comp.map
  { s with comp := { s.comp with events := [{ kind := 0x20, source := 0xA0, seq := 3 }, { kind := 0x20, source := 0xA0, seq := 4 }],
                                 map := { m with node := { m.node with quorumK := q }, managers := [(0, ⟨mgr, 0, 5⟩)], partners := [(1, true)] } } }

/-- The same in LEASE mode, with ring 16 a ring of partner 1 of port 0, whose lease runs. -/
def leased : State :=
  let s := (fencing 0 2).set F.CMP_STATUS_LEASE 1
  { s with comp := { s.comp with leases := [(tqKey 0 1, 500)] },
           rings := { s.rings with qcs := [(16, { (s.ring 16) with path := 0, partner := 1 })] } }

def fenceOf (a : Nat) : Desc := desc 0x64 [(192, a)]
def eventsOf (from_ len : Nat) : Desc := desc 0x62 [(192, from_), (384, 0x1000), (448, len)]

theorem test_meets_LeasesAndFencesAct_descs :
    (let d := eventsOf 4 64; let s := withJob (fencing 1 1) (job d)
     Ready s d 0x62 zenith (job d) ∧ (prepare (startState s d zenith) (started (job d) zenith) zenith [⟨0x1000, 64, .wr⟩]).1 = true ∧
     (prepare (startState s d zenith) (started (job d) zenith) zenith [⟨0x1000, 64, .wr⟩]).2.comp.lostEvent = none) ∧
    (let d := desc 0x63 []
     (Ready (withJob (fencing 1 1) (job d)) d 0x63 zenith (job d) ∧ isManager (fencing 1 1) 1 = true) ∧
     (let s := withJob leased (job d)
      Ready s d 0x63 zenith (job d) ∧ isManager s 1 = false ∧ s.flag F.CMP_STATUS_LEASE = true ∧ (s.ring 16).path < 6 ∧
      tabHas (tqKey (s.ring 16).path (s.ring 16).partner) s.comp.leases = true)) := by
  unfold Ready
  decide +kernel

theorem test_meets_LeasesAndFencesAct_fence :
    (∀ a ∈ [0x400, 0x800, 0xC00], ∀ q ∈ [0, 1], let d := fenceOf a; let s := withJob (fencing q 1) (job d)
     Ready s d 0x64 zenith (job d) ∧ commitRuns (startState s d zenith) = false ∧ (fetched (fencing q 1) d).1.isSome = true) ∧
    (let b := fun a => (fetched (fencing 0 1) (fenceOf a)).1.getD [] |>.getD 0 []
     endorsed (fencing 1 1) (b 0x400) [] < 1 ∧ leVal (((b 0x400).drop 16).take 8) = 0 ∧ leVal (((b 0x800).drop 16).take 8) ≠ 0 ∧
     leVal (((b 0x400).drop 12).take 4) = curEpoch (fencing 0 1) ∧ leVal (((b 0x400).drop 8).take 1) = 1 ∧
     leVal (((b 0x400).drop 9).take 1) = 0 ∧ leVal (((b 0x400).drop 11).take 1) = 0 ∧ leVal ((b 0x400).drop 24) = 0 ∧
     leVal (((b 0xC00).drop 8).take 1) = 5) ∧
    ((fencing 0 1).flag F.CMP_STATUS_LEASE = false ∧ (fencing 0 1).comp.map.managers ≠ [] ∧
      (fencing 0 1).comp.lastBeat + 1000000 * (fencing 0 1).comp.map.node.mgrMs ≤ max (fencing 0 1).now 2000000000 ∧
      max (fencing 0 1).now 0 < (fencing 0 1).comp.lastBeat + 1000000 * (fencing 0 1).comp.map.node.mgrMs) ∧
    tabGet? (tqKey 0 1) leased.comp.leases = some 500 ∧ leased.flag F.CMP_STATUS_LEASE = true ∧ 500 ≤ max leased.now 500 ∧ max leased.now 499 < 500 := by
  unfold Ready
  decide +kernel

/-- A recovery of an instance, and a state in which it runs. -/
def recovery (ty : DomType) (i c : Nat) : Recovery := { ty := ty, inst := i, cause := c, since := 0 }
def recovering1 (ty : DomType) (c : Nat) : State := { world with comp := { world.comp with recoveries := [recovery ty 1 c] } }

/-- CMP_DOMAIN of a type and instance 1, for the way out or back. -/
def domainOf (ty back : Nat) : Desc := desc 0x66 [(128, ty), (136, 1), (144, back)]

/-- An invalidation that waits for unit 8. -/
def inval8 : Inval := { id := 7, what := .xltInval, ring := 16, idx := 3, waitOn := [0, 8], start := 0, counted := true }

theorem test_meets_DomainFaultsRecover :
    (∀ ty ∈ [DomType.channel, .stack, .link, .port, .tile, .engine],
      (match domAbove ty 1 with | some x => recovering world x.1 x.2 | none => false) = false ∧ world.comp.retired.contains (ty, 1) = false ∧
      recovering world ty 1 = false ∧ recovering (recovering1 ty 2) ty 1 = true ∧ (recovering1 ty 2).comp.retired.contains (ty, 1) = false ∧
      (match domAbove ty 1 with | some x => recovering (recovering1 ty 2) x.1 x.2 | none => false) = false ∧ domExists ty 1 = true ∧
      ((recovering1 ty 2).comp.recoveries.find? fun r => r.ty = ty && r.inst = 1) = some (recovery ty 1 2)) ∧
    (recoveryDone (recovering1 .engine 2) .engine 1 = true ∧ recoveryDone (recovering1 .engine 5) .engine 1 = true) ∧
    (let s := { world.set F.RAS_CTRL_HAZE_FAIL_S 1 with comp := { world.comp with haze := (List.range 96).map fun i => (i, { hazy := true }) } }
     domExists .tile 1 = true ∧ s.get F.RAS_CTRL_HAZE_FAIL_S ≠ 0 ∧ (hazeRun s .tile 1).hazy = true ∧
     (hazeRun s .tile 1).since + 1000000000 * s.get F.RAS_CTRL_HAZE_FAIL_S ≤ max s.now 1000000000) ∧
    (∀ v ∈ [0, 1], let d := domainOf 5 v; Ready (withJob world (job d)) d 0x66 zenith (job d) ∧ (domOf (dbits d.words 16 0 4)).isSome = true) ∧
    (let d := domainOf 15 0; Ready (withJob world (job d)) d 0x66 zenith (job d) ∧ domOf (dbits d.words 16 0 4) = none) ∧
    (let s := { withRegs world [(F.TP_T_STATUS_STATE 1, 2)] with comp := { world.comp with haze := (List.range 96).map fun i => (i, { above := 999999 }) } }
     s.get F.RAS_HAZE_CFG_RATIO * 1 < 33000 * 16 ∧ s.get (F.TP_T_STATUS_STATE 1) = 2 ∧ s.flag (F.TP_T_STATUS_FAILED 1) = false ∧
     (tabGet ({} : HazeRun) 1 s.comp.haze).hazy = false ∧ s.get F.RAS_HAZE_CFG_WINDOW_MS ≤ (tabGet ({} : HazeRun) 1 s.comp.haze).above + 1 ∧
     (engineState 1).any (fun f => s.get f != 3) = true ∧ (tabGet ({} : HazeRun) (72 + 1) s.comp.haze).hazy = false ∧
     s.get F.RAS_HAZE_CFG_WINDOW_MS ≤ (tabGet ({} : HazeRun) (72 + 1) s.comp.haze).above + 1) ∧
    (let s := { world with xlt := { world.xlt with invals := [inval8] } }
     (s.xlt.invals.find? fun v => v.id = 7) = some inval8 ∧ inval8.waitOn.contains 8 = true ∧ 1000000 ≤ max s.now 1000000 - inval8.start ∧
     max s.now 0 - inval8.start < 1000000) := by
  unfold Ready
  decide +kernel

/-- A state with the sectors' states `v`, four bits for each, evacuating to sector 2. -/
def sector (v : Nat) (s : State) : State := withRegs s [(F.RAS_SECTOR_STATE, v), (F.RAS_SECTOR_TARGET, 2)]

/-- CMP_SECTOR of sector 1: to sector `t`, or its return. -/
def sectorOf (n t : Nat) : Desc := desc 0x65 [(128, n), (136, t)]

/-- The world with channels 8 to 23 retired. -/
def settled : State := withRegs world ((List.range 16).map fun k => (F.DDR_D_STATUS_STATE (8 + k), 6))

/-- The world with page 1 a far page, which sector 1 is the home of. -/
def farAway : State := { world with store := { world.store with pages := [(1, { loc := .far zeroFar, tensorBase := 1 })] } }

theorem test_meets_SectorsEvacuateAndReturn_descs :
    (let d := sectorOf 5 2; let s := withJob (sector 0x30 world) (job d)
     Ready s d 0x65 zenith (job d) ∧ dbits d.words 16 2 1 = 1 ∧ sectorState s 1 = 3 ∧
     ((List.range 4).any fun m => m ≠ 1 && sectorState s m ≠ 0) = false) ∧
    (let d := sectorOf 5 2; let s := withJob world (job d); Ready s d 0x65 zenith (job d) ∧ dbits d.words 16 2 1 = 1 ∧ sectorState s 1 ≠ 3) ∧
    (let d := sectorOf 1 2; let s := withJob world (job d)
     Ready s d 0x65 zenith (job d) ∧ dbits d.words 16 2 1 ≠ 1 ∧ evacRefused (startState s d zenith) 1 2 = none) ∧
    (let d := sectorOf 1 1; let s := withJob world (job d)
     Ready s d 0x65 zenith (job d) ∧ dbits d.words 16 2 1 ≠ 1 ∧ evacRefused (startState s d zenith) 1 1 = some .denied) := by
  unfold Ready
  decide +kernel

theorem test_meets_SectorsEvacuateAndReturn_moves :
    (let s := sector 0x20 settled
     sectorState s 1 = 2 ∧ sectorBusy s 1 = false ∧ s.cache.guests = [] ∧ s.cache.wbs = [] ∧ sectorState s 0 ≠ 2) ∧
    (let s := sector 0x40 settled; sectorState s 1 = 4 ∧ memorySettled s 1 = true ∧ indexPages s 1 ≠ []) ∧
    (∀ v ∈ [0x10, 0x50], let s := sector v farAway
     let n := homeIndex 1
     (sectorState s n = 1 ∨ sectorState s n = 5) ∧ (s.page? 1).isSome = true ∧ 1 ∉ s.comp.moved ∧ nearLeft s n = false ∧ s.dir.ents = [] ∧
     s.dir.txns = [] ∧ s.cache.guests = [] ∧ s.cache.wbs = [] ∧
     (relayPage { s.upto 5 with store := { s.store with huge := s.store.huge.filter fun h => h ≠ 1 / 512 * 4 + homeOf s 1 },
                                comp := { s.comp with moved := setAdd 1 s.comp.moved } }
       (if sectorState s n = 1 then s.get F.RAS_SECTOR_TARGET else n) 1 { loc := .far zeroFar, tensorBase := 1 }).isSome = true) := by
  decide +kernel

/-- The world DEPLOYED, with an EID on each binding. -/
def bound (lc : Nat) (s : State) : State := withRegs s [(F.MGT_STATUS_EID_SMBUS, 9), (F.MGT_STATUS_EID_PCIE, 8), (F.LC_STATE_STATE, lc)]

/-- An update of `size` bytes of which `got` have come, and a state in which it runs. -/
def update (size : Option Nat) (got : Nat) : Update := { pcie := false, agent := 5, size := size, got := got, chunk := 4096, heard := 10 }
def updating (x : Update) : State := let s := bound 3 world; { s with mgmt := { s.mgmt with update := some x } }

/-- The world rolling an image out: core 1 has it, the cores of `l` follow. -/
def rolling (l : List Nat) : State :=
  { world.set F.RAS_FW_STAGE 1 with comp := { world.comp with coreBusy := some 1, rolling := l, banks := [{}, bankOf (image 64)] } }

theorem test_meets_FirmwareUpdatesRoll_pldm :
    (let s := bound 3 world
     binding s false = true ∧ ownEid s false ≠ 0 ∧ s.mgmt.update = none ∧ s.flag F.MGT_CTRL_FWUP_EN = true ∧ lcState s ≠ 5 ∧ s.get F.RAS_FW_STAGE ≠ 1) ∧
    (∀ x ∈ [update none 0, update (some 5000) 0, update (some 5000) 4096], let s := updating x
     binding s false = true ∧ ownEid s false ≠ 0 ∧ s.mgmt.update = some x ∧ fromAgent s false 5 = some x ∧ mayRoll s = false ∧
     x.heard + 120000000000 ≤ max s.now 120000000010 ∧ max s.now 120000000009 < x.heard + 120000000000) ∧
    (update (some 5000) 0).got + min 4096 (min 4096 (5000 - 0)) ≠ 5000 ∧ 4096 + min 904 (min 4096 (5000 - 4096)) = 5000 ∧
    imageOk (updating (update (some 5000) 4096)) (image 64) = true ∧ imageOk (updating (update (some 5000) 4096)) { image 64 with digestOk := false } = false ∧
    (let s := (updating (update (some 5000) 5000)).set F.RAS_FW_READY 1; fromAgent s false 5 = some (update (some 5000) 5000) ∧ mayRoll s = true) := by
  decide +kernel

theorem test_meets_FirmwareUpdatesRoll_cores :
    (let d := desc 0x67 []
     (Ready (withJob world (job d)) d 0x67 zenith (job d) ∧ mayRoll (withJob world (job d)) = false) ∧
     (let s := withJob (world.set F.RAS_FW_READY 1) (job d); Ready s d 0x67 zenith (job d) ∧ mayRoll s = true ∧ s.mgmt.update = none)) ∧
    world.get F.RAS_FW_STAGE ≠ 1 ∧ (∀ l ∈ [[2, 3], []], (rolling l).get F.RAS_FW_STAGE = 1 ∧ (rolling l).comp.coreBusy = some 1 ∧ (rolling l).comp.rolling = l) ∧
    (awake world = true ∧ world.get F.RAS_STATUS_CORES_UP ≠ 0) ∧
    (let s := world.set F.RAS_STATUS_CORES_UP 2
     awake s = true ∧ (s.set F.RAS_STATUS_CORES_UP (2 - bits 2 1 1 * 2 ^ 1)).get F.RAS_STATUS_CORES_UP = 0) ∧
    (Quiet up ∧ up.comp.kept = [] ∧ (∀ p : Fin 6, up.get (F.KZP_STATUS_STATE p) = 0) ∧ up.xlt.queue = [] ∧ up.xlt.service = [] ∧
      tenantsChanged up.comp.map up.comp.persisted = []) := by
  unfold Ready Quiet
  decide +kernel

/-! ### Confidential computing -/

/-- The world in life cycle state `lc` with domains `l`. -/
def domained (l : List (Nat × Dom)) (lc : Nat) : State := { world.set F.LC_STATE_STATE lc with sec := { world.sec with doms := l } }

/-- Sixty-four confidential domains. -/
def fullOfDomains : List (Nat × Dom) := (List.range 64).map fun k => (k + 10, { conf := true })

def domainSet (conf : Nat) : Desc := desc 0x68 [(128, 7), (136, conf), (160, 100)]
def teardown : Desc := desc 0x69 [(128, 7)]

theorem test_meets_TenancyDomainsLiveAndEnd :
    (∀ x ∈ [(2, 0), (3, 0), (3, 1)], let d := domainSet x.2; let s := withJob (domained [] x.1) (job d)
     Ready s d 0x68 zenith (job d) ∧ tabGet? 7 s.sec.doms = none ∧ lcState s = x.1 ∧ confCount s < 64) ∧
    (let d := domainSet 0; let s := withJob (domained [] 4) (job d); Ready s d 0x68 zenith (job d) ∧ lcState s = 4 ∧ confCount s < 64) ∧
    (let d := domainSet 1; let s := withJob (domained fullOfDomains 3) (job d)
     Ready s d 0x68 zenith (job d) ∧ 64 ≤ confCount s ∧ ((tabGet? 7 s.sec.doms).map (·.conf)) ≠ some true) ∧
    (let d := teardown; let s := withJob (domained [] 3) (job d); Ready s d 0x69 zenith (job d) ∧ (job d).phase = 0 ∧ domLive s 7 = false) ∧
    (let d := teardown; let s := withJob { domained [(7, {})] 3 with store := State.reset.store, fab := State.reset.fab, cache := State.reset.cache } (job d)
     Ready s d 0x69 zenith (job d) ∧ tabGet? 7 s.sec.doms = some {} ∧ domLive s 7 = true ∧
     (s.xlt.ctxs.any (fun e => e.2.domain = 7) || s.sched.tqs.any fun e => e.2.en && e.2.domain == 7) = false ∧ Quiet s ∧
     (s.store.pages.any fun e => e.2.domain = 7) = false) ∧
    (tabGet? 7 (domained [(7, { zeroing := true })] 3).sec.doms = some { zeroing := true } ∧ tabGet? 7 (domained [(7, {})] 3).sec.doms = some {}) := by
  unfold Ready Quiet
  decide +kernel

/-- A sealed blob of a type for a domain, but for the key material. -/
def sealed (ty dom : Nat) : List Byte := List.replicate 1568 0 ++ [BitVec.ofNat 8 ty, BitVec.ofNat 8 dom] ++ List.replicate 94 0

/-- A key handle of a slot, a domain and a generation. -/
def handle (slot dom gen : Nat) : Nat := slot + dom * 2 ^ 11 + gen * 2 ^ 19

/-- The world DEPLOYED with a sealed key at 0x4000, a sealed port key at 0x8000, domain 7, a key in slot 3, and a signature block due. -/
def keeping : State :=
  let s := withRegs { world with store := { world.store with pages := (0, { loc := .near 3 }) :: world.store.pages } }
    [(F.LC_STATE_STATE, 3), (F.SEC_XMSS_STATE_BLOCKS, 4)]
  { (s.putBytes 0x4000 (sealed 1 7)).putBytes 0x8000 (sealed 2 0) with
    sec := { s.sec with doms := [(7, {})], slots := [(3, ⟨0, 1, 55⟩)], ekeys := [(7, { no := 1 }), (0, { no := 2 })], blockDue := true } }

def attest (len : Nat) : Desc := desc 0x6A [(128, 7), (192, 0x10), (384, 0x10000), (448, len)]
def keyImport (dom : Nat) : Desc := desc 0x6B [(128, dom), (192, 0x4000)]
def keyDiscard (h hc : Nat) : Desc := desc 0x6C [(128, h), (160, hc)]
def unsealOf : Desc :=
  desc 0x6D [(128, handle 3 0 1), (160, onesComp 32 (handle 3 0 1)), (192, 0x20000), (256, 0x30000), (320, 0x40000), (384, 2), (416, 12), (448, 9)]
def portKeyOf (next : Nat) : Desc := desc 0x6E [(128, 2 + 8 * next), (192, 0x8000)]

/-- What a security descriptor reads, and the state after it. -/
def secFetched (s : State) (d : Desc) : Option (List (List Byte)) × State :=
  fetchRanges (startState (withJob s (job d)) d zenith) (started (job d) zenith) zenith (secRanges d.words)

theorem test_meets_ReportsAndKeysHeld_attest :
    (let d := attest 5183; Ready (withJob keeping (job d)) d 0x6A zenith (job d) ∧ dbits d.words 56 0 32 < 5184) ∧
    (let d := attest 5184; let s := withJob keeping (job d)
     let r := prepare (startState s d zenith) (started (job d) zenith) zenith [⟨0x10, 32, .rd⟩, ⟨0x10000, 5184, .rdwr⟩]
     Ready s d 0x6A zenith (job d) ∧ 5184 ≤ dbits d.words 56 0 32 ∧ dbits d.words 24 0 64 = 0x10 ∧ dbits d.words 48 0 64 = 0x10000 ∧ r.1 = true ∧
     poisonVa r.2 1 0x10 32 = false) ∧
    (keeping.sec.blocksBad < 2 ∧ keeping.get F.SEC_XMSS_USED_NEXT_INDEX / 1024 < keeping.get F.SEC_XMSS_STATE_BLOCKS ∧ keeping.sec.blockDue = true ∧
      keeping.get F.SEC_XMSS_STATE_BLOCKS < 2 ^ 30 ∧ halted keeping = false ∧ keeping.sec.waiting = []) := by
  unfold Ready
  decide +kernel

theorem test_meets_ReportsAndKeysHeld_keys :
    (∀ n ∈ [7, 8], let d := keyImport n; let b := (secFetched keeping d).1.getD [] |>.getD 0 []
     Ready (withJob keeping (job d)) d 0x6B zenith (job d) ∧ (secFetched keeping d).1.isSome = true ∧ leVal ((b.drop 1568).take 1) = 1 ∧
     leVal ((b.drop 1569).take 1) = 7 ∧ ((List.range 2048).filter fun k => !tabHas k (secFetched keeping d).2.sec.slots).isEmpty = false) ∧
    (let h := handle 3 0 1; let d := keyDiscard h (onesComp 32 h); let s := withJob keeping (job d)
     Ready s d 0x6C zenith (job d) ∧ dbits d.words 16 0 32 = h ∧ dbits d.words 20 0 32 = onesComp 32 h ∧
     s.xlt.corrupt.contains (.keyHandle (handleSlot h)) = false ∧ tabGet? (handleSlot h) s.sec.slots = some ⟨0, 1, 55⟩ ∧ handleGen h = 1 ∧ handleDom h = 0) ∧
    (let h := handle 3 0 1; let d := keyDiscard h 5; Ready (withJob keeping (job d)) d 0x6C zenith (job d) ∧ dbits d.words 20 0 32 ≠ onesComp 32 h) ∧
    (let h := handle 4 0 1; let d := keyDiscard h (onesComp 32 h); let s := withJob keeping (job d)
     Ready s d 0x6C zenith (job d) ∧ dbits d.words 20 0 32 = onesComp 32 h ∧ s.xlt.corrupt.contains (.keyHandle (handleSlot h)) = false ∧
     tabGet? (handleSlot h) s.sec.slots = none) := by
  unfold Ready
  decide +kernel

theorem test_meets_ReportsAndKeysHeld_chunks :
    (let d := unsealOf; let s := withJob keeping (job d); let r := useHandle (startState s d zenith) 1 (dbits d.words 16 0 32) (dbits d.words 20 0 32)
     Ready s d 0x6D zenith (job d) ∧ (match r.1 with | .ok k => k == 55 | .error _ => false) = true ∧ (prepare r.2 (started (job d) zenith) zenith (secRanges d.words)).1 = true) ∧
    (∀ n ∈ [0, 1], let d := portKeyOf n; let b := (secFetched keeping d).1.getD [] |>.getD 0 []
     Ready (withJob keeping (job d)) d 0x6E zenith (job d) ∧ (secFetched keeping d).1.isSome = true ∧ leVal ((b.drop 1568).take 1) = 2 ∧
     leVal ((b.drop 1569).take 1) = 0 ∧ dbits d.words 16 3 1 = n ∧ dbits d.words 16 0 3 = 2 ∧ (secFetched keeping d).2.sec.portCur = [] ∧
     (secFetched keeping d).2.get (F.KZP_STATUS_STATE 2) ≤ 1 ∧ 1 < (secFetched keeping d).2.get (F.KZP_STATUS_STATE 1)) := by
  unfold Ready
  decide +kernel

def lifeCycle (v : Nat) : Desc := desc 0x6F [(128, v)]

theorem test_meets_LifeCycleAndTamperErase :
    (let d := lifeCycle 5; let s := withJob (world.set F.LC_STATE_STATE 2) (job d)
     Ready s d 0x6F zenith (job d) ∧ ringCtx (job d).ring = 1 ∧ s.sec.doms = [] ∧ lcState s = 2 ∧ dbits d.words 16 0 8 = 5 ∧
     (fetchRanges (startState s d zenith) (started (job d) zenith) zenith []).1.isSome = true) ∧
    (let d := lifeCycle 3; let s := withJob (world.set F.LC_STATE_STATE 3) (job d); Ready s d 0x6F zenith (job d) ∧ dbits d.words 16 0 8 = lcState s) ∧
    (Quiet State.reset ∧ ∀ p : Fin 6, State.reset.get (F.KZP_STATUS_STATE p) = 0) ∧
    (∀ v ∈ [0, 1], let s := withRegs up [(F.SEC_TAMPER_CFG_PIN_EN, 1), (F.SEC_TAMPER_CFG_COLD_EN, 1), (F.SEC_TAMPER_STATUS_TAMPERED, v)]
     (sixLinks.any fun k => sensorOn s k) = true ∧ s.clk.off = false ∧ s.flag F.SEC_TAMPER_STATUS_TAMPERED = (v == 1)) ∧
    (let s := { up with comp := { up.comp with banks := [{ raise := true, svn := 9 }, {}], imageAt := 5 } }
     (s.comp.banks.getD (s.get F.RAS_FW_ACTIVE_BANK) {}).raise = true ∧ s.get F.RAS_FW_STAGE ≠ 1 ∧ s.get F.RAS_STATUS_CORES_UP = 15 ∧
     s.comp.imageAt + 60000000000 ≤ max s.now 60000000005 ∧ s.get F.LC_SVN_SVN < 9) ∧
    (up.comp.banks.getD (up.get F.RAS_FW_ACTIVE_BANK) {}).raise = false ∧ halted up = false ∧ debugMay (up.set F.LC_STATE_STATE 1) [] = true ∧
    debugMay (up.set F.LC_STATE_STATE 5) [] = false ∧ up.mgmt.answered = false ∧
    ({ up with mgmt := { up.mgmt with answered := true } } : State).mgmt.answered = true := by
  unfold Ready Quiet
  decide +kernel

/-! ### The management port -/

/-- The window on the first 4 GiB of the pool with context 1, over a pool page that lies near, with nothing in progress. -/
def windowed (en : Nat) : State :=
  withRegs { up with xlt := { up.xlt with ctxs := [(0, {}), (1, {})] }, store := { up.store with pages := [(1, { loc := .near 7, tensorBase := 1 })] } }
    (((List.range 8).map fun m => (F.HBM_H_STATUS_STATE m, 3)) ++ [(F.MGT_POOLWIN_EN, en), (F.MGT_POOLWIN_CTX, 1), (F.MGT_POOLWIN_BASE, 0)])

theorem test_meets_PoolWindowReadsAndWrites :
    (let s := windowed 1
     awake s = true ∧ s.clk.off = false ∧ Quiet s ∧ s.flag F.MGT_POOLWIN_EN = true ∧ s.get F.MGT_POOLWIN_CTX = 1 ∧ ctxValid s 1 = true ∧
     s.get F.MGT_POOLWIN_BASE * 2 ^ 32 + (0x200040 : BitVec 32).toNat = 0x200040 ∧ inWindow 0x200040 = false ∧ inWindow 0x200000 = false ∧
     s.page? 1 = some { loc := .near 7, tensorBase := 1 } ∧ domConf s 0 = false ∧ ctxDomain s 1 = 0 ∧ 0x200040 % 256 + 8 ≤ 256) ∧
    (let s := windowed 0
     awake s = true ∧ s.clk.off = false ∧ s.flag F.MGT_POOLWIN_EN = false ∧ s.fab.flights = [] ∧ s.cache.wbs = [] ∧ s.comp.lapsed = [] ∧ s.comp.fenced = []) := by
  unfold Quiet
  decide +kernel

theorem test_meets_PoolWindowReadsAndWrites_near : NearAndSound (windowed 1) 0x200040 8 :=
  ⟨⟨_, rfl, rfl, _, rfl⟩, by decide, by decide, by decide⟩

theorem test_meets_MctpAndPldmAnswer :
    (let s := bound 3 { world with mgmt := { world.mgmt with linkUp := true, sensors := [(1, 50), (20, 3)] } }
     (∀ p : Bool, binding s p = true ∧ ownEid s p ≠ 0) ∧ tabGet? 1 s.mgmt.sensors = some 50 ∧ numericSensors.contains 1 = true ∧
     tabGet? 20 s.mgmt.sensors = some 3 ∧ stateSensors.contains 20 = true ∧ numericSensors.contains 20 = false ∧ stateSensors.contains 1 = false) ∧
    binding dark true = false ∧ ownEid world false = 0 ∧ halted world = false ∧
    (1 : BitVec 8) ≠ 0 ∧ (1 : BitVec 8) ≠ 0xFF ∧ [0x00, 0x01, 0x7E, 0xFF].contains (0x7E : BitVec 8).toNat = true ∧
    [0x00, 0x01, 0x7E, 0xFF].contains (5 : BitVec 8).toNat = false := by
  decide +kernel

/-- A request for a report, and `n` of them that wait. -/
def reportsWait (n : Nat) : State :=
  let s := bound 3 world
  { s with sec := { s.sec with waiting := List.replicate n { pcie := true, inst := 1, dom := 0, nonce := [] } } }

theorem test_meets_VendorMessagesAnswer :
    (∀ lc ∈ [3, 5], let s := bound lc world
     binding s false = true ∧ ownEid s false ≠ 0 ∧ s.flag F.MGT_CTRL_ATTEST_EN = true ∧ lcState s = lc) ∧
    (∀ n ∈ [0, 1, 3, 4], let s := reportsWait n
     binding s false = true ∧ ownEid s false ≠ 0 ∧ s.flag F.MGT_CTRL_ATTEST_EN = true ∧ lcState s = 3 ∧ domLive s 0 = true ∧ domLive s 9 = false ∧
     s.sec.waiting.length = n) ∧
    1 ≤ (1 : BitVec 16).toNat ∧ (1024 : BitVec 16).toNat ≤ 1024 ∧ 1024 < (1025 : BitVec 16).toNat := by
  decide +kernel

/-- The world with a message of vector 3 pending, and the vectors of `l` masked. -/
def msixWaits (l : List Nat) : State := { world with mgmt := { world.mgmt with pendMsix := [(8, 3)], masked := l } }

theorem test_meets_InterruptsAndBusesReport :
    (∀ l ∈ [[], [3]], (msixWaits l).clk.off = false ∧ (msixWaits l).mgmt.pendMsix = [(8, (3 : Fin 2048).val)] ∧
      (msixWaits l).flag F.CLK_STATUS_REFCLK_OK = true ∧ (msixWaits l).mgmt.masked = l) ∧
    channelState (world.set (F.DDR_D_STATUS_STATE 0) 1) 0 = 1 := by
  decide +kernel


/-! ### The tensor plane -/

/-- A kernel copy of 4 rows of 64 bytes of the pool at 0x200000 into the scratchpads' address 0x80 of logical tile 0. -/
def toSp : List Word :=
  words 0x11 0 [(128, 0x200000), (192, 0x80), (256, 64), (288, 4), (320, 64), (352, 64), (448, 1), (480, 4)]

/-- A launch frame of four bundles on logical tiles 0 and 16, with a copy, a range, a row of registers and a live set. -/
def frame0 : Frame :=
  { imageVa := 0x400000, bundles := 4, bundleOff := 0, copies := [toSp], ranges := [⟨0x200000, 0x1000, 1⟩],
    tregs := [List.replicate 512 5], lsets := [(0, 1)], lranges := [], tileMask := 0x10001, bankMask := 0xFFFF, saveBytes := 0,
    saveVa := 0, args := [], seed := 77, bytes := [] }

/-- A kernel of context 1 that issues on tiles 0 and 16. -/
def kern0 : Kern :=
  { ring := 16, idx := 3, ctx := 1, frame := frame0, st := .issuing, restartable := false, tiles := [(0, 0), (16, 16)], cyc := 100,
    stamps := [1, 1, 1, 1] }

/-- The world with that kernel on the plane. -/
def onPlane (k : Kern) : State :=
  let s := withRegs world [(F.TP_T_STATUS_STATE 0, 2), (F.TP_T_STATUS_STATE 16, 2)]
  { s with plane := { s.plane with active := some (16, 3), kerns := [k], tiles := [(0, { mem := [], rng := 5 })] } }

/-- A sub-slot of sector 0's first tile, of bundle 0 in cycle 200, with these fields (bit, value). -/
def sub (l : List (Nat × Nat)) : Slot := { sector := 0, tmask := 1, bits := fields l, iss := ⟨0, 200⟩ }

/-- The state and the kernel that a bundle's slots find, when it issues and lies in the stream. -/
def issued (s : State) (i : Issue) : Option (State × Kern) :=
  match activeKern (s.upto (i.cyc * 5 / 6)) with
  | some k0 => match openBundle (s.upto (i.cyc * 5 / 6)) k0 i with
    | .go t k => if i.bundle < k.frame.bundles then some (t, k) else none
    | _ => none
  | none => none

/-- What `issued` finds is what a statement about an issuing bundle assumes. -/
theorem issued_issues {s t : State} {k : Kern} {i : Issue} (h : issued s i = some (t, k)) : Issues s i t k := by
  unfold issued at h
  split at h
  · next k0 h0 =>
    split at h
    · next t1 k1 h1 =>
      split at h
      · next hb => cases h; exact ⟨⟨k0, h0, h1⟩, hb⟩
      · cases h
    · cases h
  · cases h

/-- The first bundle of the kernel in cycle 200: its state and its kernel. -/
def first : State × Kern := (issued (onPlane kern0) ⟨0, 200⟩).getD (onPlane kern0, kern0)

theorem first_issues : Issues (onPlane kern0) ⟨0, 200⟩ first.1 first.2 := issued_issues (by unfold first; rfl)

/-- A unit is free in every tile that a sub-slot names. -/
def free (x : Slot) (need : Needs) : Bool := (slotTiles first.2 x).all fun g => !occupied (tile first.1 g) x.iss.cyc need

theorem test_meets_VectorSlotsCompute : Issues (onPlane kern0) (sub []).iss first.1 first.2 ∧
    (∀ o ∈ [0x01, 0x05, 0x10, 0x13, 0x20, 0x21, 0x22, 0x28, 0x29], let x := sub [(0, o), (6, 4), (16, 1), (21, 2)]
      x.iss = ⟨0, 200⟩ ∧ slotF x 0 6 = o ∧ slotF x 41 23 = 0 ∧ partOk x = true ∧ free x [(4, 4)] = true ∧ free x [(5, 8)] = true ∧
      free x [(8, 1)] = true) := by
  refine ⟨first_issues, ?_⟩
  decide +kernel

theorem test_meets_MatrixSlotsCompute : Issues (onPlane kern0) (sub []).iss first.1 first.2 ∧
    (∀ f ∈ [0, 8], let x := sub [(0, 1), (4, 1), (6, f), (10, f), (45, 31)]
      slotF x 0 4 = 1 ∧ slotF x 6 4 = f ∧ slotF x 10 4 = f ∧ slotF x 63 1 = 0 ∧ (32 * min (fmtStep f) (fmtStep f)) % 32 = 0 ∧
      32 * min (fmtStep f) (fmtStep f) ≤ 2048 ∧ free x [(0, 32), (1, 32), (2, 32), (9, 56)] = true) ∧
    (∀ o ∈ [2, 3, 4, 5], let x := sub [(0, o), (4, 1)]
      slotF x 0 4 = o ∧ slotF x 63 1 = 0 ∧ free x [(1, 32)] = true ∧ free x [(2, 32)] = true ∧ free x [(3, 128), (9, 128)] = true) ∧
    (let x := sub [(0, 1), (2, 3), (25, 7)]; slotF x 0 2 = 1 ∧ slotF x 28 36 = 0 ∧ free x [(6, 8)] = true ∧ free x [(7, 8)] = true) ∧
    (∀ o ∈ [1, 2], let x := sub [(16, o), (20, 7)]; slotF x 20 3 ≠ 0 ∧ slotF x 39 25 = 0 ∧ slotF x 16 4 = o) ∧
    (let m : Mma := { acc := 0, fa := 0, fb := 0, addrA := 0, addrB := 0, k := 0, steps := 1, sums := [] }
     let t : Tile := { ({} : Tile) with evs := [⟨5, .step m⟩] }
     t.evs = [⟨5, .step m⟩] ∧ m.k = 0 ∧ 0 < m.steps) ∧
    ({ kern0 with aux := [(0, 3, true, 5)] } : Kern).aux = [(0, 3, true, 5)] := by
  refine ⟨first_issues, ?_⟩
  decide +kernel

end Sys2Proof.Tests
end

section
/-! SUPPORT. Accesses over the management port (spec/00): when the port serves, turns away or refuses an access, and what a write of a register
leaves in its fields (R5 to R12, R652, R699, R723). -/

namespace Sys2Proof.Machine

open Sys2Proof

/-! ### When the port serves an access -/

/-- Outside DEEP_IDLE an access wakes nothing: it leaves only the note that the device has answered. -/
theorem mgmtTouch_of_not_deep {s : State} (hoff : s.clk.off = false) (hst : s.get F.PWR_STATUS_STATE ≠ 2) :
    mgmtTouch s = answeredState s := by
  have ha : ({ s with mgmt := { s.mgmt with answered := s.mgmt.answered || !s.clk.off } } : State) = answeredState s := by
    simp [answeredState, hoff]
  have hst' : (answeredState s).get F.PWR_STATUS_STATE ≠ 2 := hst
  simp only [mgmtTouch, ha, hst', false_and, if_false]

theorem deepNoWake_of_not_deep {s : State} (hst : s.get F.PWR_STATUS_STATE ≠ 2) : deepNoWake s = false := by
  simp [deepNoWake, hst]

/-- Outside DEEP_IDLE an access, read or write, reaches its register. -/
theorem mgmtAccess_of_not_deep {s : State} (hoff : s.clk.off = false) (hst : s.get F.PWR_STATUS_STATE ≠ 2) (served : Bool)
    (refused go : State → State) : mgmtAccess served s refused go = go (answeredState s) := by
  simp [mgmtAccess, hoff, deepNoWake_of_not_deep hst, mgmtTouch_of_not_deep hoff hst]

/-- In DEEP_IDLE with WAKE_ON_PCIE 0 an access that the always-on domain does not serve has the effect of a refusal (R652). -/
theorem mgmtAccess_of_deepNoWake {s : State} (hoff : s.clk.off = false) (hdeep : deepNoWake s = true) (refused go : State → State) :
    mgmtAccess false s refused go = refused s := by
  simp [mgmtAccess, hoff, hdeep]

/-- After a tamper response and in SCRAPPED a write has no effect (R584). -/
theorem mgmtWrite_of_not_takesWrites {s : State} (hoff : s.clk.off = false) (hst : s.get F.PWR_STATUS_STATE ≠ 2)
    (htakes : takesWrites s = false) (served : Bool) (go : State → State) : mgmtWrite served s go = answeredState s := by
  have htakes' : takesWrites (answeredState s) = false := htakes
  simp [mgmtWrite, mgmtAccess_of_not_deep hoff hst, htakes']

theorem mgmtWrite_of_deepNoWake {s : State} (hoff : s.clk.off = false) (hdeep : deepNoWake s = true) (go : State → State) :
    mgmtWrite false s go = s := mgmtAccess_of_deepNoWake hoff hdeep _ _

theorem mgmtRead_of_deepNoWake {s : State} (hoff : s.clk.off = false) (hdeep : deepNoWake s = true) (v : Nat) (go : State → State) :
    mgmtRead false s v go = s.emit (.mmio (2 ^ 64 - 1)) := mgmtAccess_of_deepNoWake hoff hdeep _ _

/-- While the port is open a read has its effect and gives its value. -/
theorem mgmtRead_open {s : State} (h : PortOpen s) (served : Bool) (v : Nat) (go : State → State) :
    mgmtRead served s v go = (go (answeredState s)).emit (.mmio v) := by
  obtain ⟨hoff, hst, -⟩ := h
  exact mgmtAccess_of_not_deep hoff hst _ _ _

/-! ### The commands that stand for a write over the management port -/

/-- Is the write that a command stands for one that the always-on domain serves (R652)? -/
def portServed : Instr → Bool
  | .registerWrite off _ _ | .partialRegisterAccess off _ | .unmappedAccess off _ => deepServed off.val
  | .cpRegisterWrite i _ _ => deepServed (8 * i.val)
  | .enterDeep _ | .telemSnap _ => true
  | _ => false

/-- Every command that stands for a write over the management port is one, in the state it meets once its time has come. -/
theorem exec_portWrite {c : Instr} (h : portWrite c = true) (s : State) :
    ∃ (t : Nat) (go : State → State), exec c s = .next (mgmtWrite (portServed c) { s with now := t } go) := by
  unfold portWrite at h
  split at h
  case h_27 => exact absurd h Bool.false_ne_true
  all_goals exact ⟨_, _, rfl⟩

section
variable {s : State} {c : Instr} (hc : portWrite c = true)
include hc

/-- With no supply a write changes nothing but SYS_TIME. -/
theorem portWrite_of_off (hoff : s.clk.off = true) : Gives c s (OnlyTime s) := by
  obtain ⟨t, go, he⟩ := exec_portWrite hc s
  exact ⟨_, he, by rw [mgmtWrite_off (s := { s with now := t }) hoff]; rfl⟩

/-- After a tamper response and in SCRAPPED a write leaves only the note that the device has answered (R580, R584). -/
theorem portWrite_of_not_takesWrites (hoff : s.clk.off = false) (hst : s.get F.PWR_STATUS_STATE ≠ 2) (htakes : takesWrites s = false) :
    Gives c s (OnlyTime (answeredState s)) := by
  obtain ⟨t, go, he⟩ := exec_portWrite hc s
  exact ⟨_, he, by rw [mgmtWrite_of_not_takesWrites (s := { s with now := t }) hoff hst htakes]; rfl⟩

/-- In DEEP_IDLE with WAKE_ON_PCIE 0 a write that the always-on domain does not serve changes nothing but SYS_TIME (R652). -/
theorem portWrite_of_deepNoWake (hoff : s.clk.off = false) (hdeep : deepNoWake s = true) (hserved : portServed c = false) :
    Gives c s (OnlyTime s) := by
  obtain ⟨t, go, he⟩ := exec_portWrite hc s
  exact ⟨_, he, by rw [hserved, mgmtWrite_of_deepNoWake (s := { s with now := t }) hoff hdeep]; rfl⟩

end

/-! ### Accesses that are counted (R6, R699) -/

theorem writeAt_unaligned {off : Nat} (h : off % 8 ≠ 0) (s : State) (w : Nat) :
    writeAt s off w = s.bump F.MGT_PARTIAL_ACCESS_COUNT := if_pos h

theorem writeAt_unmapped {off : Nat} (h : off % 8 = 0) (hr : regAt off = none) (s : State) (w : Nat) :
    writeAt s off w = s.bump F.MGT_PARTIAL_ACCESS_UNMAPPED := by
  simp [writeAt, h, hr]

theorem writeAt_mapped {off : Nat} {r : RegSpec} (h : off % 8 = 0) (hr : regAt off = some r) (s : State) (w : Nat) :
    writeAt s off w = regWrite s r off w := by
  simp [writeAt, h, hr]

section
variable {s : State} (h : PortOpen s) (off : Fin 0x80000)
include h

theorem exec_registerWrite_open (val : Word) (t : Nat) :
    exec (.registerWrite off val t) s = .next (writeAt (answeredState (s.upto t)) off.val val.toNat) :=
  congrArg Host.Outcome.next (mgmtWrite_open (h.upto t) _ _)

theorem exec_partialWrite_open :
    exec (.partialRegisterAccess off true) s = .next ((answeredState s).bump F.MGT_PARTIAL_ACCESS_COUNT) :=
  congrArg Host.Outcome.next (mgmtWrite_open h _ _)

theorem exec_partialRead_open :
    exec (.partialRegisterAccess off false) s = .next (((answeredState s).bump F.MGT_PARTIAL_ACCESS_COUNT).emit (.mmio 0)) :=
  congrArg Host.Outcome.next (mgmtRead_open h _ _ _)

theorem exec_unmappedWrite_open :
    exec (.unmappedAccess off true) s = .next ((answeredState s).bump F.MGT_PARTIAL_ACCESS_UNMAPPED) :=
  congrArg Host.Outcome.next (mgmtWrite_open h _ _)

theorem exec_unmappedRead_open :
    exec (.unmappedAccess off false) s = .next (((answeredState s).bump F.MGT_PARTIAL_ACCESS_UNMAPPED).emit (.mmio 0)) :=
  congrArg Host.Outcome.next (mgmtRead_open h _ _ _)

end

/-! ### Accesses in DEEP_IDLE with WAKE_ON_PCIE 0 (R652) -/

section
variable {s : State} {a : MgmtAccess} (t : Nat) (hoff : s.clk.off = false) (hdeep : deepNoWake s = true)
  (hserved : (a.bar == 0 && deepServed a.off.toNat) = false)
include hoff hdeep hserved

theorem exec_deepIdleWrite_refused {v : Word} (hv : a.val = some v) : exec (.deepIdleMgmtAccess a t) s = .next (s.upto t) := by
  have hdeep' : deepNoWake (s.upto t) = true := hdeep
  change execDeepIdleMgmtAccess a t s = _
  simp [execDeepIdleMgmtAccess, hdeep', hv, hserved, mgmtWrite_of_deepNoWake (s := s.upto t) hoff hdeep]

theorem exec_deepIdleRead_refused (hv : a.val = none) :
    exec (.deepIdleMgmtAccess a t) s = .next ((s.upto t).emit (.mmio (2 ^ 64 - 1))) := by
  have hdeep' : deepNoWake (s.upto t) = true := hdeep
  change execDeepIdleMgmtAccess a t s = _
  simp [execDeepIdleMgmtAccess, hdeep', hv, hserved, mgmtRead_of_deepNoWake (s := s.upto t) hoff hdeep]

end

/-! ### The fields of a register (R7, R723) -/

/-- A bound that is a field of the register is a field below bit `k`. -/
def boundBelow (k : Nat) : Bound → Bool
  | .field lo => decide (lo < k)
  | _ => true

/-- A register's fields stand in it from its low bits upward, each in its own bits of the word, and after the fields that bound it. -/
def fieldsRise (r : RegSpec) : Bool :=
  decide (r.fields.Pairwise fun x y => x.fld.lo < y.fld.lo) &&
    r.fields.all fun x => decide (x.fld.lo < 64) && boundBelow x.fld.lo x.mn && boundBelow x.fld.lo x.mx

theorem regTable_fieldsRise : ∀ r ∈ regTable, fieldsRise r = true := by decide +kernel

theorem regAt_fieldsRise {off : Nat} {r : RegSpec} (h : regAt off = some r) : fieldsRise r = true :=
  regTable_fieldsRise r (List.mem_of_find?_eq_some h)

theorem fieldsRise_iff {r : RegSpec} : fieldsRise r = true ↔ (r.fields.Pairwise fun x y => x.fld.lo < y.fld.lo) ∧
    ∀ x ∈ r.fields, x.fld.lo < 64 ∧ boundBelow x.fld.lo x.mn = true ∧ boundBelow x.fld.lo x.mx = true := by
  simp [fieldsRise, and_assoc]

@[simp] theorem key_on (f : Fld) (off : Nat) : (f.on off).key = off * 64 + f.lo := rfl

/-- The keys of the fields of the register at an offset. -/
def fieldKeys (off : Nat) (xs : List FSpec) : List Nat := xs.map fun x => (x.fld.on off).key

theorem mem_fieldKeys {off k : Nat} {xs : List FSpec} : k ∈ fieldKeys off xs ↔ ∃ x ∈ xs, off * 64 + x.fld.lo = k := by
  simp [fieldKeys]

section
variable {s u : State} {r : RegSpec} {off : Nat}

theorem boundVal_eq {k d : Nat} {b : Bound} (hb : boundBelow k b = true)
    (h : ∀ y ∈ r.fields, y.fld.lo < k → s.get (y.fld.on off) = u.get (y.fld.on off)) : boundVal s r off d b = boundVal u r off d b := by
  cases b with
  | none => rfl
  | const n => rfl
  | field lo =>
    simp only [boundVal]
    split
    · next y hy =>
      have hlo : y.fld.lo = lo := by simpa using List.find?_some hy
      have hk : lo < k := of_decide_eq_true hb
      exact h y (List.mem_of_find?_eq_some hy) (hlo ▸ hk)
    · rfl

/-- The range of a field is the same in two states that agree on the fields below it. -/
theorem inRange_eq {x : FSpec} (hr : fieldsRise r = true) (hx : x ∈ r.fields) (v : Nat)
    (h : ∀ y ∈ r.fields, y.fld.lo < x.fld.lo → s.get (y.fld.on off) = u.get (y.fld.on off)) : inRange s r off x v = inRange u r off x v := by
  obtain ⟨-, hmn, hmx⟩ := (fieldsRise_iff.1 hr).2 x hx
  simp only [inRange, boundVal_eq hmn h, boundVal_eq hmx h]

/-! ### A write of a register (R7, R723) -/

/-- A write of a field changes no other field and nothing beside the registers. -/
theorem OnlyFields.writeField {ks : List Nat} (h : OnlyFields ks s u) (x : FSpec) (hx : (x.fld.on off).key ∈ ks) (locked : Bool) (w : Nat) :
    OnlyFields ks s (writeField r off locked w u x) := by
  unfold Machine.writeField
  cases x.acc with
  | rw | w1c | w1s => exact h.set _ _ hx
  | rwl =>
    cases locked with
    | true => exact h
    | false => exact h.set _ _ hx
  | ro | wo => exact h

/-- A write of some fields changes those fields alone. -/
theorem OnlyFields.writeFields (xs : List FSpec) (locked : Bool) (w : Nat) :
    OnlyFields (fieldKeys off xs) s (xs.foldl (Machine.writeField r off locked w) s) :=
  List.foldlRecOn xs _ (OnlyFields.refl _ s) fun _ h x hx => h.writeField x (mem_fieldKeys.2 ⟨x, hx, rfl⟩) locked w

/-- A write of a field leaves in it what its access type allows, where the field and its bounds stand as they do before and after the
write of the whole register. -/
theorem get_writeField_same {q : State} {x : FSpec} {val : Word} (hold : q.get (x.fld.on off) = s.get (x.fld.on off))
    (hrange : ∀ v, inRange q r off x v = inRange u r off x v) :
    (writeField r off (lockedAt s r off) val.toNat q x).get (x.fld.on off) = writtenField s u r off val x := by
  unfold writeField writtenField
  cases x.acc with
  | rw | w1c | w1s => simp [hrange, hold]
  | rwl => cases lockedAt s r off <;> simp [hrange, hold]
  | ro | wo => exact hold

/-- A write of some fields leaves a field that is none of them. -/
theorem get_writeFields_ne {f : Fld} {xs : List FSpec} (h : ∀ y ∈ xs, off * 64 + y.fld.lo ≠ f.key) (locked : Bool) (w : Nat) :
    (xs.foldl (writeField r off locked w) s).get f = s.get f := by
  refine (OnlyFields.writeFields xs locked w).1 f fun hmem => ?_
  obtain ⟨y, hy, he⟩ := mem_fieldKeys.1 hmem
  exact h y hy he

/-- A write of a register's fields leaves in each what its access type allows, with the bounds after the write: the fields that bound it
are written before it. -/
theorem get_writeFields (hr : fieldsRise r = true) (val : Word) {x : FSpec} (hx : x ∈ r.fields)
    (hu : u = r.fields.foldl (writeField r off (lockedAt s r off) val.toNat) s) :
    u.get (x.fld.on off) = writtenField s u r off val x := by
  obtain ⟨xs, ys, hsplit⟩ := List.append_of_mem hx
  obtain ⟨-, hrise, hbelow⟩ := List.pairwise_append.1 (hsplit ▸ (fieldsRise_iff.1 hr).1)
  have habove : ∀ y ∈ ys, x.fld.lo < y.fld.lo := (List.pairwise_cons.1 hrise).1
  rw [hsplit, List.foldl_append, List.foldl_cons] at hu
  obtain ⟨q, hq⟩ : ∃ q, q = xs.foldl (writeField r off (lockedAt s r off) val.toNat) s := ⟨_, rfl⟩
  rw [← hq] at hu
  have hlast : ∀ f : Fld, f.lo ≤ x.fld.lo →
      u.get (f.on off) = (writeField r off (lockedAt s r off) val.toNat q x).get (f.on off) := by
    intro f hf
    rw [hu]
    refine get_writeFields_ne (fun y hy => ?_) _ _
    have := habove y hy
    rw [key_on]
    omega
  have hold : q.get (x.fld.on off) = s.get (x.fld.on off) := by
    rw [hq]
    refine get_writeFields_ne (fun y hy => ?_) _ _
    have := hbelow y hy x List.mem_cons_self
    rw [key_on]
    omega
  have hbounds : ∀ y ∈ r.fields, y.fld.lo < x.fld.lo → q.get (y.fld.on off) = u.get (y.fld.on off) := by
    intro y _ hlo
    rw [hlast _ hlo.le]
    refine (get_writeFields_ne (xs := [x]) (fun z hz => ?_) _ _).symm
    rw [List.mem_singleton.1 hz, key_on]
    omega
  rw [hlast _ le_rfl]
  exact get_writeField_same hold fun v => inRange_eq hr hx v hbounds

/-- A register that gives no command takes a write of its fields, and no more. -/
theorem regWrite_of_not_commandRegs (h : r.base ∉ commandRegs) (w : Nat) :
    regWrite s r off w = r.fields.foldl (writeField r off (lockedAt s r off) w) s := by
  simp only [commandRegs, List.mem_cons, List.not_mem_nil, or_false, not_or] at h
  simp only [regWrite, plainWrite, regCommand, h, if_false]

/-- A write of a register that gives no command sets its fields, and changes nothing else. -/
theorem regWrite_sets_fields (hreg : regAt off = some r) (hcmd : r.base ∉ commandRegs) (val : Word)
    (hu : u = regWrite s r off val.toNat) :
    (∀ x ∈ r.fields, u.get (x.fld.on off) = writtenField s u r off val x) ∧
      (∀ f : Fld, f.key / 64 ≠ off → u.get f = s.get f) ∧ SameButFields s u := by
  rw [regWrite_of_not_commandRegs hcmd] at hu
  have hr : fieldsRise r = true := regAt_fieldsRise hreg
  have honly : OnlyFields (fieldKeys off r.fields) s u := hu ▸ OnlyFields.writeFields _ _ _
  refine ⟨fun x hx => get_writeFields hr val hx hu, fun f hf => honly.1 f fun hmem => ?_, honly.2⟩
  obtain ⟨x, hx, he⟩ := mem_fieldKeys.1 hmem
  have := ((fieldsRise_iff.1 hr).2 x hx).1
  omega

end

/-- XLT_FQ_PTRS takes no write (R700). -/
theorem writeAt_xltFqPtrs (s : State) (w : Nat) : writeAt s F.XLT_FQ_PTRS w = s := by
  have hbase : (regAt F.XLT_FQ_PTRS).map RegSpec.base = some F.XLT_FQ_PTRS := by decide +kernel
  obtain ⟨r, hreg, hr⟩ := Option.map_eq_some_iff.1 hbase
  rw [writeAt_mapped (by decide) hreg, regWrite, if_pos hr]

/-! ### A write of a CP register (R10 to R12) -/

theorem exec_cpRegisterWrite_open {s : State} (h : PortOpen s) (i : Fin 65536) (val : Word) (t : Nat) :
    exec (.cpRegisterWrite i val t) s = .next (cpWrite (answeredState (s.upto t)) (8 * i.val) val.toNat) :=
  congrArg Host.Outcome.next (mgmtWrite_open (h.upto t) _ _)

/-- A complement pair is taken. -/
theorem cpWrite_pair {w : Nat} (h : w / 2 ^ 32 = onesComp 32 (w % 2 ^ 32)) (s : State) (off : Nat) :
    cpWrite s off w = { s with cpRegs := tabPutD 0 off (w % 2 ^ 32) s.cpRegs } := if_pos h

/-- A word that is no complement pair is counted and posts a record of kind 0x07, and the CP registers stay (R12, R13). -/
theorem cpWrite_mismatch {w : Nat} (h : w / 2 ^ 32 ≠ onesComp 32 (w % 2 ^ 32)) (s : State) (off : Nat) :
    (cpWrite s off w).cpRegs = s.cpRegs ∧
      (cpWrite s off w).get F.SEC_CPAIR_ERRORS_COUNT =
        (s.get F.SEC_CPAIR_ERRORS_COUNT + 1) % 2 ^ F.SEC_CPAIR_ERRORS_COUNT.wid ∧
      ∃ x : FaultRec, x.kind = 7 ∧ x.source = 0x90 ∧
        ((cpWrite s off w).xlt.queue = s.xlt.queue ++ [x] ∨ (cpWrite s off w).xlt.late = s.xlt.late ++ [.record x]) := by
  have he : cpWrite s off w = postCpair (s.bump F.SEC_CPAIR_ERRORS_COUNT) 0x90 0 off := if_neg h
  rw [he]
  obtain ⟨hcp, -, ⟨x, hkind, hsource, -, hx⟩, hget⟩ := postFault_frame (s.bump F.SEC_CPAIR_ERRORS_COUNT)
    { kind := 7, source := 0x90, ctx := 0, domain := ctxDomain (s.bump F.SEC_CPAIR_ERRORS_COUNT) 0, detail := off }
  refine ⟨hcp, ?_, x, hkind, hsource, hx⟩
  rw [← State.get_bump_same]
  exact hget F.SEC_CPAIR_ERRORS_COUNT (by decide)

/-- Settles O5: the fields of a register are written from its low bits upward, a bounding field before the field it bounds; a CP register
takes complement pairs alone. -/
theorem registerWritesSetFields : Obligations.RegisterWritesSetFields := by
  refine ⟨fun s off val t r h hal hreg hcmd => ?_, fun s off val t h hoff => ?_, fun s i val t h => ⟨fun hpair => ?_, fun hpair => ?_⟩⟩
  · refine ⟨_, exec_registerWrite_open h off val t, ?_⟩
    rw [writeAt_mapped hal hreg]
    exact regWrite_sets_fields (s := answeredState (s.upto t)) hreg hcmd val rfl
  · rw [exec_registerWrite_open h, hoff, writeAt_xltFqPtrs]
  · refine ⟨_, exec_cpRegisterWrite_open h i val t, ?_⟩
    rw [cpWrite_pair hpair]
    exact ⟨tabGet_tabPutD_same _ _ _ _, fun k hk => tabGet_tabPutD_ne _ _ hk, rfl⟩
  · exact ⟨_, exec_cpRegisterWrite_open h i val t, cpWrite_mismatch hpair _ _⟩

/-- Settles O6: an access that is counted runs as a write or a read of an open port, and every other one is turned away before it has
its effect. -/
theorem accessesTurnedAway : Obligations.AccessesTurnedAway := by
  refine ⟨fun s off val t h => ?_, fun s c hc => ?_, fun s a t hoff hdeep hserved => ?_⟩
  · refine ⟨exec_partialWrite_open h off, exec_partialRead_open h off, exec_unmappedWrite_open h off, exec_unmappedRead_open h off,
      fun hal => ?_, fun hal hr => ?_⟩
    · rw [exec_registerWrite_open h, writeAt_unaligned hal]
    · rw [exec_registerWrite_open h, writeAt_unmapped hal hr]
  · exact ⟨portWrite_of_off hc, portWrite_of_not_takesWrites hc, portWrite_of_deepNoWake hc⟩
  · exact ⟨fun _ => exec_deepIdleWrite_refused t hoff hdeep hserved, exec_deepIdleRead_refused t hoff hdeep hserved⟩

end Sys2Proof.Machine
end

section
/-! SUPPORT. What every step keeps: the canonical form of the pool's memory, and the queue of waiting commands (R37, R41, R82). -/

namespace Sys2Proof.Machine

open Sys2Proof

/-- Every way of writing memory keeps the canonical form. -/
theorem memClosed_wf : MemClosed fun k => Memory.wf k.2 = true where
  put _ _ _ _ h := Memory.wf_put _ _ _ h
  filter _ _ _ h := Memory.wf_filter _ _ h
  nil _ _ _ := Memory.wf_nil

/-- No way of writing memory touches the queue. -/
theorem memClosed_queue (q : List Instr) : MemClosed fun k => k.1 = q where
  put _ _ _ _ h := h
  filter _ _ _ h := h
  nil _ _ h := h

/-- Every command answers a next state. -/
theorem exec_next (c : Instr) (s : State) : ∃ t, exec c s = .next t := by
  cases c <;> exact ⟨_, rfl⟩

theorem exec_memOk {c : Instr} {s t : State} (h : MemOk s) (he : exec c s = .next t) : MemOk t :=
  of_next he (exec_kept memClosed_wf c s h)

theorem exec_pending {c : Instr} {s t : State} (he : exec c s = .next t) : t.pending = s.pending :=
  of_next he (exec_kept (memClosed_queue s.pending) c s rfl)

/-- A command that stores nothing leaves the pool's memory as it was. -/
theorem exec_mem_of_not_storesPool {c : Instr} {s t : State} (hc : storesPool c = false) (he : exec c s = .next t) :
    t.store.mem = s.store.mem :=
  of_next he (exec_keeps_all (P := fun k => k.2 = s.store.mem) c s hc rfl)

theorem idle_mem (s : State) : (idle s).store.mem = s.store.mem := by
  unfold idle
  split <;> rfl

/-- Settles O4: a waiting command keeps the canonical form as every command does, and an idle step stores nothing. -/
theorem stepKeepsMemory : Obligations.StepKeepsMemory := by
  intro s t h hstep
  unfold step at hstep
  split at hstep
  · injection hstep with hidle
    subst hidle
    exact (congrArg (Memory.wf · = true) (idle_mem s)).mpr h
  · next c rest _ => exact exec_memOk (s := { s with pending := rest }) h hstep

/-- Settles O2: what every command keeps holds of the queue as it stands, and of the memory as it stands where nothing is stored. -/
theorem commandsAnswerAndKeepQueue : Obligations.CommandsAnswerAndKeepQueue := by
  intro c s
  obtain ⟨t, he⟩ := exec_next c s
  refine ⟨t, he, exec_pending he, fun hc a => ?_⟩
  simp only [State.byte, exec_mem_of_not_storesPool hc he]

/-- Settles O3: the reset state stores no register field and no page, and lists contexts 0 and 1. -/
theorem resetState : Obligations.ResetState := by
  refine ⟨fun f => rfl, fun p => rfl, fun c => ?_, rfl, rfl, rfl, rfl, rfl, State.reset_memOk⟩
  match c with
  | 0 | 1 => rfl
  | n + 2 => simp [ctxValid, tabHas, State.reset, tabGet?]

end Sys2Proof.Machine
end

section
/-! SUPPORT. The store's registers, and what posting a fault, watching FAR_PRESSURE, recording a domain's fault and poisoning a line leave of them
(R63, R68, R106, R557). -/

namespace Sys2Proof.Machine

open Sys2Proof

/-! ### Keys of the registers of channels and stacks -/

/-- The key of a field of a register that stands once in every 4 KiB from `b` on. -/
theorem Fld.key_of_block {f : Fld} {b k n : Nat} (ho : f.off = b + 0x1000 * n) (hk : b * 64 + f.lo = k) : f.key = 0x40000 * n + k := by
  rw [Fld.key, ho]
  omega

section
variable (d : Nat)

@[simp] theorem F.DDR_D_CTRL_SLOT_PWR_key : (F.DDR_D_CTRL_SLOT_PWR d).key = 0x40000 * d + 0x1000000 := Fld.key_of_block rfl rfl
@[simp] theorem F.DDR_D_CTRL_RETIRE_key : (F.DDR_D_CTRL_RETIRE d).key = 0x40000 * d + 0x1000001 := Fld.key_of_block rfl rfl
@[simp] theorem F.DDR_D_CTRL_PSW_PRESENT_key : (F.DDR_D_CTRL_PSW_PRESENT d).key = 0x40000 * d + 0x1000004 := Fld.key_of_block rfl rfl
@[simp] theorem F.DDR_D_STATUS_STATE_key : (F.DDR_D_STATUS_STATE d).key = 0x40000 * d + 0x1000200 := Fld.key_of_block rfl rfl
@[simp] theorem F.DDR_D_STATUS_REASON_key : (F.DDR_D_STATUS_REASON d).key = 0x40000 * d + 0x1000204 := Fld.key_of_block rfl rfl
@[simp] theorem F.DDR_D_STATUS_SPEED_key : (F.DDR_D_STATUS_SPEED d).key = 0x40000 * d + 0x1000208 := Fld.key_of_block rfl rfl
@[simp] theorem F.DDR_D_STATUS_CAPACITY_GIB_key : (F.DDR_D_STATUS_CAPACITY_GIB d).key = 0x40000 * d + 0x1000210 := Fld.key_of_block rfl rfl
@[simp] theorem F.DDR_D_STATUS_PRESENT_key : (F.DDR_D_STATUS_PRESENT d).key = 0x40000 * d + 0x100021C := Fld.key_of_block rfl rfl
@[simp] theorem F.DDR_D_STATUS_PWR_GOOD_key : (F.DDR_D_STATUS_PWR_GOOD d).key = 0x40000 * d + 0x100021D := Fld.key_of_block rfl rfl
@[simp] theorem F.DDR_D_SPD_MFR_ID_key : (F.DDR_D_SPD_MFR_ID d).key = 0x40000 * d + 0x1000400 := Fld.key_of_block rfl rfl
@[simp] theorem F.DDR_D_SPD_SERIAL_key : (F.DDR_D_SPD_SERIAL d).key = 0x40000 * d + 0x1000410 := Fld.key_of_block rfl rfl
@[simp] theorem F.DDR_D_SPD_SPD_REV_key : (F.DDR_D_SPD_SPD_REV d).key = 0x40000 * d + 0x1000430 := Fld.key_of_block rfl rfl
@[simp] theorem F.DDR_D_ECC_CORRECTED_key : (F.DDR_D_ECC_CORRECTED d).key = 0x40000 * d + 0x1000600 := Fld.key_of_block rfl rfl
@[simp] theorem F.DDR_D_TRAIN_LAST_MS_key : (F.DDR_D_TRAIN_LAST_MS d).key = 0x40000 * d + 0x1000A00 := Fld.key_of_block rfl rfl
@[simp] theorem F.DDR_D_TRAIN_ATTEMPTS_key : (F.DDR_D_TRAIN_ATTEMPTS d).key = 0x40000 * d + 0x1000A10 := Fld.key_of_block rfl rfl
@[simp] theorem F.HBM_H_STATUS_STATE_key : (F.HBM_H_STATUS_STATE d).key = 0x40000 * d + 0x880000 := Fld.key_of_block rfl rfl
@[simp] theorem F.HBM_H_STATUS_IDENT_OK_key : (F.HBM_H_STATUS_IDENT_OK d).key = 0x40000 * d + 0x880003 := Fld.key_of_block rfl rfl
@[simp] theorem F.HBM_H_STATUS_REASON_key : (F.HBM_H_STATUS_REASON d).key = 0x40000 * d + 0x880004 := Fld.key_of_block rfl rfl
@[simp] theorem F.HBM_H_IDENT_VENDOR_key : (F.HBM_H_IDENT_VENDOR d).key = 0x40000 * d + 0x880200 := Fld.key_of_block rfl rfl
@[simp] theorem F.HBM_H_IDENT_HEIGHT_key : (F.HBM_H_IDENT_HEIGHT d).key = 0x40000 * d + 0x880210 := Fld.key_of_block rfl rfl
@[simp] theorem F.HBM_H_IDENT_CAPACITY_GIB_key : (F.HBM_H_IDENT_CAPACITY_GIB d).key = 0x40000 * d + 0x880215 := Fld.key_of_block rfl rfl
@[simp] theorem F.HBM_H_IDENT_SERIAL_key : (F.HBM_H_IDENT_SERIAL d).key = 0x40000 * d + 0x88021C := Fld.key_of_block rfl rfl
@[simp] theorem F.HBM_H_ECC_CORRECTED_key : (F.HBM_H_ECC_CORRECTED d).key = 0x40000 * d + 0x880400 := Fld.key_of_block rfl rfl
@[simp] theorem F.HBM_H_ECC_UNCORRECTED_key : (F.HBM_H_ECC_UNCORRECTED d).key = 0x40000 * d + 0x880420 := Fld.key_of_block rfl rfl
@[simp] theorem F.HBM_H_SPARE_USED_key : (F.HBM_H_SPARE_USED d).key = 0x40000 * d + 0x880600 := Fld.key_of_block rfl rfl
@[simp] theorem F.HBM_H_ERR_ADDR_POOL_ADDR_key : (F.HBM_H_ERR_ADDR_POOL_ADDR d).key = 0x40000 * d + 0x880800 := Fld.key_of_block rfl rfl
@[simp] theorem F.HBM_H_ERR_ADDR_VALID_key : (F.HBM_H_ERR_ADDR_VALID d).key = 0x40000 * d + 0x88082F := Fld.key_of_block rfl rfl

end

/-! ### Faults and the store's registers

The fields that posting a record, raising an interrupt and counting a domain's fault change all lie below the store's registers, which begin
at offset 0x1D000 (R698). -/

/-- The key that the fields of the store's registers begin at. -/
def storeKeys : Nat := F.TIER_POOL_STATUS * 64

theorem get_of_frame {s t : State} {f : Fld} {ks : List Nat} (hframe : f.key ∉ ks → t.get f = s.get f) (hks : ∀ k ∈ ks, k < storeKeys)
    (hf : storeKeys ≤ f.key) : t.get f = s.get f :=
  hframe fun hmem => absurd (hks _ hmem) (Nat.not_lt.2 hf)

/-- A field that no step of a fold changes. -/
theorem foldl_get {α : Type} {f : Fld} {g : State → α → State} (h : ∀ (s : State) (x : α), (g s x).get f = s.get f) (l : List α) (s : State) :
    (l.foldl g s).get f = s.get f :=
  List.foldlRecOn (motive := fun u : State => u.get f = s.get f) l g rfl fun _ hu _ _ => (h _ _).trans hu

section
variable {f : Fld} (hf : storeKeys ≤ f.key)
include hf

theorem get_set_of_below (s : State) {g : Fld} (v : Nat) (hg : g.key < storeKeys) : (s.set g v).get f = s.get f :=
  State.get_set_ne s v (by omega)

theorem raiseIrq_get (s : State) (b : Nat) : (raiseIrq s b).get f = s.get f :=
  get_of_frame (ks := [F.MGT_IRQ_STATUS_SOURCES.key]) (fun h => (raiseIrq_frame s b).2.2.2 f (List.ne_of_not_mem_cons h)) (by decide) hf

theorem postFault_get (s : State) (r : FaultRec) : (postFault s r).get f = s.get f :=
  get_of_frame ((postFault_frame s r).2.2.2 f) (by decide) hf

theorem poisonLine_get (s : State) (line : Nat) : (poisonLine s line).get f = s.get f := by
  unfold poisonLine
  refine (postFault_get hf _ _).trans ?_
  split
  · rfl
  · split <;> rfl

theorem poisonChannel_get (s : State) (d : Nat) : (poisonChannel s d).get f = s.get f := by
  unfold poisonChannel
  refine foldl_get (fun u e => foldl_get (fun v g => ?_) _ _) _ _
  dsimp only
  split
  · exact poisonLine_get hf _ _
  · rfl

end

/-! ### Completion records and RAS events (R240, R557) -/

theorem sendMsix_regs (s : State) (src vec : Nat) : (sendMsix s src vec).regs = s.regs := by
  unfold sendMsix
  split <;> rfl

theorem ringWrite_regs (s : State) (r : Ring) (a : Nat) (data : List Byte) : (ringWrite s r a data).regs = s.regs := by
  unfold ringWrite
  split <;> split <;> rfl

theorem notifyRing_regs (s : State) (g : Nat) : (notifyRing s g).regs = s.regs := by
  unfold notifyRing
  dsimp only
  split
  · exact sendMsix_regs _ _ _
  · exact ringWrite_regs _ _ _ _

theorem writeRecord_regs (s : State) (g w0 w1 : Nat) : (writeRecord s g w0 w1).regs = s.regs := by
  unfold writeRecord
  dsimp only
  split
  · exact (notifyRing_regs _ _).trans (ringWrite_regs _ _ _ _)
  · exact ringWrite_regs _ _ _ _

theorem State.get_of_regs {s t : State} (h : t.regs = s.regs) (f : Fld) : t.get f = s.get f := by
  unfold State.get
  rw [h]

section
variable {f : Fld} (hf : storeKeys ≤ f.key)
include hf

theorem postRas_get (s : State) (kind source detail addr : Nat) : (postRas s kind source detail addr).get f = s.get f := by
  unfold postRas
  extract_lets r posted ev gone comp noted raised sent
  have hnoted : noted.regs = posted.regs := by simp only [noted]
  have hsent : sent.get f = raised.get f := by
    simp only [sent]
    split <;> rfl
  refine (foldl_get (fun u m => ?_) _ _).trans (hsent.trans ((raiseIrq_get hf noted 1).trans ((State.get_of_regs hnoted f).trans (postFault_get hf s r))))
  dsimp only
  split
  · exact State.get_of_regs (writeRecord_regs _ _ _ _) f
  · rfl

theorem retired_get (s : State) (ty : DomType) (inst : Nat) (second : Bool) : (retired s ty inst second).get f = s.get f := by
  have hretired : F.RAS_COUNTS_RETIRED.key < storeKeys := by decide
  have hsecond : F.RAS_COUNTS_SECOND.key < storeKeys := by decide
  unfold retired
  dsimp only
  split
  · exact (get_set_of_below hf _ _ hsecond).trans ((get_set_of_below hf _ _ hretired).trans (postRas_get hf _ _ _ _ _))
  · exact (get_set_of_below hf _ _ hretired).trans (postRas_get hf _ _ _ _ _)

end

/-! ### FAR_PRESSURE (R63) -/

theorem farCheck_store (s : State) (n : Nat) : (farCheck s n).store = s.store := by
  unfold farCheck
  dsimp only
  split
  · obtain ⟨-, -, hirq, -⟩ := raiseIrq_frame (postFault (s.setFlag (F.TIER_S_FAR_STATUS_FAR_PRESSURE n) true)
      { kind := 5, source := 0x1C + n, detail := min (freeFar (s.setFlag (F.TIER_S_FAR_STATUS_FAR_PRESSURE n) true) n) (2 ^ 32 - 1) }) 5
    exact hirq.trans (postFault_frame _ _).2.1
  · split <;> rfl

/-- A field of the registers of a stack or a channel: each has a block of 4 KiB from 0x22000 on, and uses less than its first 0x38 bytes (R698). -/
def UnitFld (f : Fld) : Prop := 0x22000 ≤ f.off ∧ f.off % 0x1000 < 0x38 ∧ f.lo < 64

theorem UnitFld.of_block {f : Fld} {b n : Nat} (ho : f.off = b + 0x1000 * n) (hl : f.lo.blt 64 = true)
    (h : 0x22000 ≤ b ∧ b % 0x1000 < 0x38) : UnitFld f := by
  rw [Nat.blt_eq] at hl
  unfold UnitFld
  omega

theorem UnitFld.storeKeys_le {f : Fld} (hf : UnitFld f) : storeKeys ≤ f.key := by
  have hbase : storeKeys = 0x1D000 * 64 := rfl
  obtain ⟨hoff, -, -⟩ := hf
  rw [hbase, Fld.key]
  omega

/-- No such field is one of the tier's registers of a sector that lie at 0x38 of their block or above. -/
theorem UnitFld.key_ne {f g : Fld} (hf : UnitFld f) {b n : Nat} (ho : g.off = b + 0x1000 * n) (hl : g.lo.blt 64 = true)
    (h : 0x38 ≤ b % 0x1000) : f.key ≠ g.key := by
  rw [Nat.blt_eq] at hl
  obtain ⟨-, hmod, hlo⟩ := hf
  rw [Fld.key, Fld.key]
  omega

theorem farCheck_get {f : Fld} (hf : UnitFld f) (s : State) (n : Nat) : (farCheck s n).get f = s.get f := by
  have hn : f.key ≠ (F.TIER_S_FAR_STATUS_FAR_PRESSURE n).key := hf.key_ne rfl rfl (by decide)
  unfold farCheck
  dsimp only
  split
  · exact (raiseIrq_get hf.storeKeys_le _ _).trans ((postFault_get hf.storeKeys_le _ _).trans (State.get_setFlag_ne _ _ hn))
  · split
    · rfl
    · exact State.get_setFlag_ne _ _ hn

section
variable (d : Nat)

theorem unitFld_channelState : UnitFld (F.DDR_D_STATUS_STATE d) := .of_block rfl rfl (by decide)
theorem unitFld_channelReason : UnitFld (F.DDR_D_STATUS_REASON d) := .of_block rfl rfl (by decide)
theorem unitFld_channelRetire : UnitFld (F.DDR_D_CTRL_RETIRE d) := .of_block rfl rfl (by decide)
theorem unitFld_channelCorrected : UnitFld (F.DDR_D_ECC_CORRECTED d) := .of_block rfl rfl (by decide)
theorem unitFld_stackState : UnitFld (F.HBM_H_STATUS_STATE d) := .of_block rfl rfl (by decide)
theorem unitFld_stackCorrected : UnitFld (F.HBM_H_ECC_CORRECTED d) := .of_block rfl rfl (by decide)
theorem unitFld_stackUncorrected : UnitFld (F.HBM_H_ECC_UNCORRECTED d) := .of_block rfl rfl (by decide)

end

end Sys2Proof.Machine
end

section
/-! SUPPORT. Channels and stacks (spec/02, R70 to R75): what each command of the transition table does in the states it acts in. -/

namespace Sys2Proof.Machine

open Sys2Proof

/-! ### RETIRE and RETURN (R72, R73) -/

section
variable {s : State} (h : PortOpen s) (d : Fin 32)
include h

theorem exec_ddrRetire_open : exec (.ddrRetire d) s = .next (ddrRetire (answeredState s) d) :=
  congrArg Host.Outcome.next (mgmtWrite_open h _ _)

theorem exec_ddrReturn_open : exec (.ddrReturn d) s = .next (ddrReturn (answeredState s) d) :=
  congrArg Host.Outcome.next (mgmtWrite_open h _ _)

end

section
variable {s : State} {d : Nat}

/-- RETIRE of a channel in service drains it. -/
theorem ddrRetire_serving (hst : channelState s d = 3 ∨ channelState s d = 4) :
    channelState (ddrRetire s d) d = 5 ∧ (ddrRetire s d).flag (F.DDR_D_CTRL_RETIRE d) = true ∧ (ddrRetire s d).store = s.store := by
  have he : ddrRetire s d = farCheck ((s.setFlag (F.DDR_D_CTRL_RETIRE d) true).set (F.DDR_D_STATUS_STATE d) 5) (d / 8) := if_pos hst
  rw [he, State.flag, channelState, farCheck_get (unitFld_channelState d), farCheck_get (unitFld_channelRetire d), farCheck_store]
  refine ⟨State.get_set_same _ _ _, ?_, rfl⟩
  rw [State.get_set_ne _ _ (by simp)]
  exact State.flag_setFlag_same s _ true Nat.one_pos

theorem ddrRetire_not_serving (h3 : channelState s d ≠ 3) (h4 : channelState s d ≠ 4) :
    ddrRetire s d = s.setFlag (F.DDR_D_CTRL_RETIRE d) true := if_neg (by omega)

theorem ddrReturn_retired (hst : channelState s d = 6) (hpresent : s.flag (F.DDR_D_STATUS_PRESENT d) = true) :
    ddrReturn s d = (s.setFlag (F.DDR_D_CTRL_RETIRE d) false).set (F.DDR_D_STATUS_STATE d) 1 := if_pos ⟨hst, hpresent⟩

theorem ddrReturn_before_service (hst : channelState s d < 3) : ddrReturn s d = s.setFlag (F.DDR_D_CTRL_RETIRE d) false := by
  have h6 : channelState s d ≠ 6 := by omega
  simp [ddrReturn, h6, hst]

theorem ddrReturn_other (hst : 3 ≤ channelState s d) (h : channelState s d ≠ 6 ∨ s.flag (F.DDR_D_STATUS_PRESENT d) = false) :
    ddrReturn s d = s := by
  have h6 : ¬ (channelState s d = 6 ∧ s.flag (F.DDR_D_STATUS_PRESENT d) = true) := by
    rintro ⟨hsix, hp⟩
    simp [hsix, hp] at h
  simp [ddrReturn, h6, Nat.not_lt.2 hst]

/-! ### Modules (R71, R72) -/

/-- A module in a powered empty slot is to be identified. -/
theorem slotUp_filled (hst : channelState s d = 0) (hpower : slotPowered s d = true) (hpresent : s.flag (F.DDR_D_STATUS_PRESENT d) = true) :
    slotUp s d = (s.setFlag (F.DDR_D_STATUS_PWR_GOOD d) true).set (F.DDR_D_STATUS_STATE d) 1 := by
  simp [slotUp, hst, hpower, hpresent]

/-- A retired or failed channel without module and power is ABSENT. -/
theorem slotUp_emptied (hst : channelState s d = 6 ∨ channelState s d = 7) (hpower : slotPowered s d = false)
    (hpresent : s.flag (F.DDR_D_STATUS_PRESENT d) = false) :
    slotUp s d = ((s.setFlag (F.DDR_D_STATUS_PWR_GOOD d) false).set (F.DDR_D_STATUS_STATE d) 0).set (F.DDR_D_STATUS_CAPACITY_GIB d) 0 := by
  simp [slotUp, hst, hpower, hpresent]

/-- PRESENT has no part in the channel's state or its slot's power. -/
theorem setPresent_frame (s : State) (d : Nat) (b : Bool) :
    channelState (s.setFlag (F.DDR_D_STATUS_PRESENT d) b) d = channelState s d ∧
      slotPowered (s.setFlag (F.DDR_D_STATUS_PRESENT d) b) d = slotPowered s d ∧
      (s.setFlag (F.DDR_D_STATUS_PRESENT d) b).flag (F.DDR_D_STATUS_PRESENT d) = b := by
  refine ⟨State.get_setFlag_ne _ _ (by simp), ?_, State.flag_setFlag_same _ _ _ Nat.one_pos⟩
  simp [slotPowered, State.flag_setFlag_ne]

theorem dimmInsert_identifies (hst : channelState s d = 0) (hpower : slotPowered s d = true) :
    let u := slotUp (s.setFlag (F.DDR_D_STATUS_PRESENT d) true) d
    channelState u d = 1 ∧ u.flag (F.DDR_D_STATUS_PRESENT d) = true ∧
      OnlyFields [(F.DDR_D_STATUS_STATE d).key, (F.DDR_D_STATUS_PRESENT d).key, (F.DDR_D_STATUS_PWR_GOOD d).key] s u := by
  obtain ⟨hstate, hslot, hpresent⟩ := setPresent_frame s d true
  rw [slotUp_filled (hstate.trans hst) (hslot.trans hpower) hpresent]
  refine ⟨State.get_set_same _ _ _, ?_, ?_⟩
  · rw [State.flag_set_ne _ _ (by simp), State.flag_setFlag_ne _ _ (by simp), hpresent]
  · exact (((OnlyFields.refl _ s).setFlag _ _ (by simp)).setFlag _ _ (by simp)).set _ _ (by simp)

theorem dimmRemove_empties (hst : channelState s d = 6 ∨ channelState s d = 7) (hpower : slotPowered s d = false) :
    let u := slotUp (s.setFlag (F.DDR_D_STATUS_PRESENT d) false) d
    channelState u d = 0 ∧ u.flag (F.DDR_D_STATUS_PRESENT d) = false ∧ u.store = s.store := by
  obtain ⟨hstate, hslot, hpresent⟩ := setPresent_frame s d false
  rw [slotUp_emptied (hstate ▸ hst) (hslot.trans hpower) hpresent]
  refine ⟨?_, ?_, rfl⟩
  · exact (State.get_set_ne _ _ (by simp)).trans (State.get_set_same _ _ _)
  · rw [State.flag_set_ne _ _ (by simp), State.flag_set_ne _ _ (by simp), State.flag_setFlag_ne _ _ (by simp), hpresent]


end

/-- A module whose SPD is accepted is trained at the lower of its rating and 8,800 MT/s. -/
theorem spd_accepted {s : State} {d : Fin 32} {x : Spd} (hst : channelState s d = 1) (hclk : chipClock s = true) (hread : x.readable = true)
    (hmr : x.mrdimm = true) (hgib : x.gib = 256 ∨ x.gib = 512) (hmts : 6400 ≤ x.mts) :
    Gives (.spdReadComplete d x) s fun u =>
      channelState u d = 2 ∧ u.get (F.DDR_D_STATUS_SPEED d) = min x.mts 8800 / 100 ∧
      u.get (F.DDR_D_STATUS_CAPACITY_GIB d) = x.gib ∧ u.get (F.DDR_D_TRAIN_ATTEMPTS d) = 0 ∧
      u.get (F.DDR_D_SPD_MFR_ID d) = x.mfr.toNat ∧ u.get (F.DDR_D_SPD_SERIAL d) = x.serial.toNat ∧ u.store = s.store := by
  have hmts' : ¬ x.mts < 6400 := by omega
  have hgib' : ¬ (x.gib ≠ 256 ∧ x.gib ≠ 512) := by omega
  have hstate : 2 % 2 ^ (F.DDR_D_STATUS_STATE d).wid = 2 := rfl
  have hspeed : min x.mts 8800 / 100 % 2 ^ (F.DDR_D_STATUS_SPEED d).wid = min x.mts 8800 / 100 :=
    Nat.mod_eq_of_lt (show _ < 256 by omega)
  have hcap : x.gib % 2 ^ (F.DDR_D_STATUS_CAPACITY_GIB d).wid = x.gib := Nat.mod_eq_of_lt (show _ < 4096 by omega)
  have hmfr : x.mfr.toNat % 2 ^ (F.DDR_D_SPD_MFR_ID d).wid = x.mfr.toNat := Nat.mod_eq_of_lt x.mfr.isLt
  have hserial : x.serial.toNat % 2 ^ (F.DDR_D_SPD_SERIAL d).wid = x.serial.toNat := Nat.mod_eq_of_lt x.serial.isLt
  rw [channelState] at hst
  refine ⟨_, rfl, ?_⟩
  simp [channelState, State.get_set_ne, hst, hclk, hread, hmr, hgib', hmts', hstate, hspeed, hcap, hmfr, hserial]

/-- One that is not accepted makes the channel FAILED. -/
theorem spd_refused {s : State} {d : Fin 32} {x : Spd} (hst : channelState s d = 1) (hclk : chipClock s = true)
    (hbad : x.readable = false ∨ x.mrdimm = false ∨ (x.gib ≠ 256 ∧ x.gib ≠ 512) ∨ x.mts < 6400) :
    Gives (.spdReadComplete d x) s fun u => channelState u d = 7 ∧ u.store = s.store := by
  have hfail : ∀ (u : State) (r : Nat), channelState ((u.set (F.DDR_D_STATUS_STATE d) 7).set (F.DDR_D_STATUS_REASON d) r) d = 7 := fun u r =>
    (State.get_set_ne _ _ (by simp)).trans (State.get_set_same _ _ _)
  refine ⟨_, rfl, ?_⟩
  simp only [hst, hclk, ne_eq, not_true_eq_false, Bool.not_true, Bool.false_eq_true, or_self, if_false]
  split_ifs with hread hmr hgib hmts
  case neg => simp_all
  all_goals exact ⟨hfail _ _, rfl⟩

/-! ### Training (R72) -/

section
variable {s : State} {d : Fin 32} (hst : channelState s d = 2) (hclk : chipClock s = true) (hcoast : s.flag F.CLK_STATUS_COASTING = false)
include hst hclk hcoast

theorem training_passes {ms : Fin 65536} (hms : ms.val ≤ 900) :
    Gives (.channelTrainingDone d true ms) s fun u => channelState u d = 3 := by
  refine ⟨_, rfl, ?_⟩
  simp only [hst, hclk, hcoast, hms]
  refine (farCheck_get (unitFld_channelState d) _ _).trans ?_
  exact (State.get_set_ne _ _ (by simp)).trans (State.get_set_same _ _ _)

theorem training_fails_last (ms : Fin 65536) (h2 : 2 ≤ s.get (F.DDR_D_TRAIN_ATTEMPTS d)) :
    Gives (.channelTrainingDone d false ms) s fun u => channelState u d = 7 ∧ u.get (F.DDR_D_STATUS_REASON d) = 5 := by
  have hlast : 3 ≤ s.get (F.DDR_D_TRAIN_ATTEMPTS d) + 1 := by omega
  refine ⟨_, rfl, ?_⟩
  simp only [hst, hclk, hcoast, hlast]
  exact ⟨(State.get_set_ne _ _ (by simp)).trans (State.get_set_same _ _ _), State.get_set_same _ _ _⟩

theorem training_fails_early (ms : Fin 65536) (h2 : s.get (F.DDR_D_TRAIN_ATTEMPTS d) < 2) :
    Gives (.channelTrainingDone d false ms) s fun u =>
      channelState u d = 2 ∧ u.get (F.DDR_D_TRAIN_ATTEMPTS d) = s.get (F.DDR_D_TRAIN_ATTEMPTS d) + 1 := by
  have hlast : ¬ 3 ≤ s.get (F.DDR_D_TRAIN_ATTEMPTS d) + 1 := by omega
  refine ⟨_, rfl, ?_⟩
  simp only [hst, hclk, hcoast, hlast]
  refine ⟨(State.get_set_ne _ _ (by simp)).trans ((State.get_set_ne _ _ (by simp)).trans hst), ?_⟩
  refine (State.get_set_ne _ _ (by simp)).trans ((State.get_set_same _ _ _).trans (Nat.mod_eq_of_lt ?_))
  show _ < 4
  omega

end

theorem channelDrained_retires {s : State} {d : Fin 32} (hst : channelState s d = 5) (hempty : channelGranules s d = []) :
    exec (.channelDrained d) s = .next (s.set (F.DDR_D_STATUS_STATE d) 6) :=
  congrArg Host.Outcome.next (if_pos ⟨hst, by rw [hempty]; rfl⟩)

/-! ### Failure in service (R72, R74) -/

theorem failChannel_state (s : State) (d reason : Nat) (hr : reason < 16) :
    channelState (failChannel s d reason) d = 7 ∧ (failChannel s d reason).get (F.DDR_D_STATUS_REASON d) = reason := by
  have hstate := unitFld_channelState d
  have hreason := unitFld_channelReason d
  unfold failChannel channelState
  rw [farCheck_get hstate, farCheck_get hreason, poisonChannel_get hstate.storeKeys_le, poisonChannel_get hreason.storeKeys_le]
  exact ⟨(State.get_set_ne _ _ (by simp)).trans (State.get_set_same _ _ _), (State.get_set_same _ _ _).trans (Nat.mod_eq_of_lt hr)⟩

/-- However its fault counts, a channel that nothing can be drained from is FAILED. -/
theorem deadChannel_state (s : State) (d reason cause : Nat) (hr : reason < 16) :
    channelState (deadChannel s d reason cause) d = 7 ∧ (deadChannel s d reason cause).get (F.DDR_D_STATUS_REASON d) = reason := by
  unfold deadChannel
  split
  · unfold channelState
    rw [retired_get (unitFld_channelState d).storeKeys_le, retired_get (unitFld_channelReason d).storeKeys_le]
    exact failChannel_state _ d reason hr
  · exact failChannel_state _ d reason hr

theorem channelFail_fails {s : State} {d : Fin 32} (hon : channelState s d = 3 ∨ channelState s d = 4 ∨ channelState s d = 5)
    (beyond : Bool) (t : Nat) :
    Gives (.channelFail d beyond t) s fun u =>
      channelState u d = 7 ∧ u.get (F.DDR_D_STATUS_REASON d) = if beyond then 6 else 7 := by
  have hon' : channelOn (s.upto t) d = true := by
    have hupto : channelState (s.upto t) d = channelState s d := rfl
    simpa [channelOn, hupto, or_assoc] using hon
  refine ⟨_, congrArg Host.Outcome.next (if_pos hon'), deadChannel_state _ _ _ _ ?_⟩
  cases beyond <;> decide

/-! ### Stacks (R70) -/

section
variable {s : State} {m : Fin 8} {id : StackId} (hst : s.get (F.HBM_H_STATUS_STATE m) ≤ 1) (hclk : chipClock s = true)
include hst hclk

theorem stackIdent_accepted (hread : id.readable = true) (hheight : id.height = 16) (hgib : id.gib = 48) :
    Gives (.stackIdent m id) s fun u =>
      u.get (F.HBM_H_STATUS_STATE m) = 2 ∧ u.flag (F.HBM_H_STATUS_IDENT_OK m) = true ∧
      u.get (F.HBM_H_IDENT_VENDOR m) = id.vendor.toNat ∧ u.get (F.HBM_H_IDENT_SERIAL m) = id.serial.toNat ∧ u.store = s.store := by
  have hstate : 2 % 2 ^ (F.HBM_H_STATUS_STATE m).wid = 2 := rfl
  have hok : ∀ u : State, (u.setFlag (F.HBM_H_STATUS_IDENT_OK m) true).flag (F.HBM_H_STATUS_IDENT_OK m) = true := fun u =>
    State.flag_setFlag_same _ _ _ Nat.one_pos
  have hvendor : id.vendor.toNat % 2 ^ (F.HBM_H_IDENT_VENDOR m).wid = id.vendor.toNat := Nat.mod_eq_of_lt id.vendor.isLt
  have hserial : id.serial.toNat % 2 ^ (F.HBM_H_IDENT_SERIAL m).wid = id.serial.toNat := Nat.mod_eq_of_lt id.serial.isLt
  refine ⟨_, rfl, ?_⟩
  simp [Nat.not_lt.2 hst, hclk, hread, hheight, hgib, State.get_set_ne, State.get_setFlag_ne, hstate, hok, hvendor, hserial]

theorem stackIdent_refused (hbad : id.readable = false ∨ id.height ≠ 16 ∨ id.gib ≠ 48) :
    Gives (.stackIdent m id) s fun u =>
      u.get (F.HBM_H_STATUS_STATE m) = 5 ∧
      u.get (F.HBM_H_STATUS_REASON m) = (if id.readable then (if id.height ≠ 16 then 1 else 2) else 4) ∧ u.store = s.store := by
  have hfail : ∀ (u : State) (r : Nat), r < 16 →
      ((u.set (F.HBM_H_STATUS_STATE m) 5).set (F.HBM_H_STATUS_REASON m) r).get (F.HBM_H_STATUS_STATE m) = 5 ∧
      ((u.set (F.HBM_H_STATUS_STATE m) 5).set (F.HBM_H_STATUS_REASON m) r).get (F.HBM_H_STATUS_REASON m) = r := fun u r hr =>
    ⟨(State.get_set_ne _ _ (by simp)).trans (State.get_set_same _ _ _), (State.get_set_same _ _ _).trans (Nat.mod_eq_of_lt hr)⟩
  refine ⟨_, rfl, ?_⟩
  simp only [Nat.not_lt.2 hst, hclk]
  by_cases hread : id.readable = true
  · by_cases hheight : id.height = 16
    · have hgib : id.gib ≠ 48 := by simpa [hread, hheight] using hbad
      simp [hread, hheight, hgib, hfail]
    · simp [hread, hheight, hfail]
  · simp [hread, hfail]

end

/-- Settles O8: RETIRE, RETURN and the events of modules, training, drainage and failure, each in the states of R72 that it acts in. -/
theorem channelsAndStacksServe : Obligations.ChannelsAndStacksServe := by
  refine ⟨fun s d h => ⟨fun hst => ?_, fun h3 h4 => ?_, fun hst hp => ?_, fun hst => ?_, fun hst hp => ?_⟩,
    fun s d => ⟨fun hst hpower => ?_, fun hst => ?_, fun hst hpower => ?_, fun x hst hclk hread hmr hgib hmts => ?_,
      fun x hst hclk hbad => ?_, fun ms hst hclk hcoast => ⟨?_, fun h2 _ => ?_, fun h2 => ?_⟩, fun hst hempty => ?_⟩,
    fun s d beyond t hon => channelFail_fails hon beyond t, fun s m id hst hclk => ⟨?_, ?_⟩⟩
  · exact ⟨_, exec_ddrRetire_open h d, ddrRetire_serving (s := answeredState s) hst⟩
  · refine ⟨_, exec_ddrRetire_open h d, ?_⟩
    rw [ddrRetire_not_serving (s := answeredState s) h3 h4]
    exact ⟨State.flag_setFlag_same _ _ _ Nat.one_pos, (OnlyFields.refl _ _).setFlag _ _ (by simp)⟩
  · refine ⟨_, exec_ddrReturn_open h d, ?_⟩
    rw [ddrReturn_retired (s := answeredState s) hst hp]
    refine ⟨State.get_set_same _ _ _, ?_, ((OnlyFields.refl _ _).setFlag _ _ (by simp)).set _ _ (by simp)⟩
    rw [State.flag_set_ne _ _ (by simp)]
    exact State.flag_setFlag_same _ _ _ Nat.one_pos
  · refine ⟨_, exec_ddrReturn_open h d, ?_⟩
    rw [ddrReturn_before_service (s := answeredState s) hst]
    exact ⟨State.flag_setFlag_same _ _ _ Nat.one_pos, (OnlyFields.refl _ _).setFlag _ _ (by simp)⟩
  · rw [exec_ddrReturn_open h, ddrReturn_other (s := answeredState s) hst hp]
  · exact ⟨_, congrArg Host.Outcome.next (if_pos hst), dimmInsert_identifies hst hpower⟩
  · exact congrArg Host.Outcome.next (if_neg hst)
  · exact ⟨_, rfl, dimmRemove_empties hst hpower⟩
  · exact spd_accepted hst hclk hread hmr hgib hmts
  · exact spd_refused hst hclk hbad
  · exact training_passes hst hclk hcoast
  · exact training_fails_last hst hclk hcoast ms h2
  · exact training_fails_early hst hclk hcoast ms h2
  · exact ⟨_, channelDrained_retires hst hempty, State.get_set_same _ _ _, (OnlyFields.refl _ s).set _ _ (by simp)⟩
  · exact stackIdent_accepted hst hclk
  · exact stackIdent_refused hst hclk

end Sys2Proof.Machine
end

section
/-! SUPPORT. The timers of the store's policy (spec/02, R52, R54, R66 to R69, R76): Haze, decay, demotion and Drizzle. -/

namespace Sys2Proof.Machine

open Sys2Proof

/-! ### Haze (R76) -/

section
variable {s : State} {h : HazeRun} {ratio window exitMs exitRatio median peers : Nat}

/-- The last millisecond of the window above the ratio makes a unit Hazy. -/
theorem hazeStep_enters (hh : h.hazy = false) (hm : ratio * peers < median * 16) (hw : window ≤ h.above + 1) :
    (hazeStep s h ratio window exitMs exitRatio median peers).2 = some true := by
  simp [hazeStep, hh, hm, hw]

/-- The last millisecond of EXIT_MS at or below the exit ratio ends Haze. -/
theorem hazeStep_leaves (hh : h.hazy = true) (hm : median * 16 ≤ exitRatio * peers) (hw : exitMs ≤ h.below + 1) :
    (hazeStep s h ratio window exitMs exitRatio median peers).2 = some false := by
  simp [hazeStep, hh, hm, hw]

/-- A millisecond at or below the ratio begins the window anew. -/
theorem hazeStep_restarts (hh : h.hazy = false) (hm : median * 16 ≤ ratio * peers) (hw : 0 < window) :
    (hazeStep s h ratio window exitMs exitRatio median peers).2 = none ∧
      (hazeStep s h ratio window exitMs exitRatio median peers).1.above = 0 := by
  simp [hazeStep, hh, Nat.not_lt.2 hm, Nat.ne_of_gt hw]

end

/-- The unit that a Haze check of the store names: a stack or a channel. -/
def hazeUnit (stack : Bool) (d : Fin 32) : Nat := if stack then d.val % 8 else d.val

/-- Its STATE field. -/
def hazeFld (stack : Bool) (d : Fin 32) : Fld :=
  if stack then F.HBM_H_STATUS_STATE (hazeUnit stack d) else F.DDR_D_STATUS_STATE (hazeUnit stack d)

/-- Its sector. -/
def hazeSector (stack : Bool) (d : Fin 32) : Nat := if stack then hazeUnit stack d / 2 else hazeUnit stack d / 8

/-- The key of its run of Haze windows. -/
def hazeKey (stack : Bool) (d : Fin 32) : Nat := if stack then hazeUnit stack d else 8 + hazeUnit stack d

/-- The test of its millisecond (R76). -/
def hazeTest (s : State) (stack : Bool) (d : Fin 32) (median peers : Nat) : HazeRun × Option Bool :=
  hazeStep s (tabGet {} (hazeKey stack d) s.store.haze) (s.get (F.TIER_S_HAZE_CFG_RATIO (hazeSector stack d)))
    (s.get (F.TIER_S_HAZE_CFG_WINDOW_MS (hazeSector stack d))) (s.get (F.TIER_S_HAZE_CFG_EXIT_MS (hazeSector stack d)))
    (s.get (F.TIER_S_HAZE_CFG_EXIT_RATIO (hazeSector stack d))) median peers

/-- The state with the outcome of a test noted. -/
def hazeNoted (s : State) (stack : Bool) (d : Fin 32) (x : HazeRun × Option Bool) : State :=
  let s := { s with store := { s.store with haze := tabPut (hazeKey stack d) x.1 s.store.haze } }
  match x.2 with
  | none => s
  | some b => hazeEvent (s.set (hazeFld stack d) (if b then 4 else 3)) b (if stack then 1 else 0) (hazeUnit stack d)

section
variable (stack : Bool) (d : Fin 32)

theorem unitFld_hazeFld : UnitFld (hazeFld stack d) := by
  cases stack
  · exact unitFld_channelState _
  · exact unitFld_stackState _

theorem two_lt_wid_hazeFld : 2 < (hazeFld stack d).wid := by
  cases stack <;> exact Nat.le_of_ble_eq_true rfl

/-- A Haze check of a unit that serves, Hazy or not, notes the outcome of its test. -/
theorem exec_storeHazeCheck_serving {s : State} (hst : s.get (hazeFld stack d) = 3 ∨ s.get (hazeFld stack d) = 4) (median peers t : Nat) :
    exec (.storeHazeCheck stack d median peers t) s =
      .next (hazeNoted (s.upto t) stack d (hazeTest (s.upto t) stack d median peers)) := by
  have hserves : ¬ ((s.upto t).get (hazeFld stack d) ≠ 3 ∧ (s.upto t).get (hazeFld stack d) ≠ 4) := by
    change ¬ (s.get (hazeFld stack d) ≠ 3 ∧ s.get (hazeFld stack d) ≠ 4)
    omega
  exact congrArg Host.Outcome.next (if_neg hserves)

/-- A unit that enters Haze is HAZY, and one that leaves it SERVING. -/
theorem hazeNoted_get {s : State} {x : HazeRun × Option Bool} {b : Bool} (hx : x.2 = some b) :
    (hazeNoted s stack d x).get (hazeFld stack d) = if b then 4 else 3 := by
  have hwid := two_lt_wid_hazeFld stack d
  have h8 : 2 ^ 3 ≤ 2 ^ (hazeFld stack d).wid := Nat.pow_le_pow_right (by decide) hwid
  simp only [hazeNoted, hx]
  refine (postRas_get (unitFld_hazeFld stack d).storeKeys_le _ _ _ _ _).trans ((State.get_set_same _ _ _).trans (Nat.mod_eq_of_lt ?_))
  cases b <;> simp <;> omega

theorem hazeNoted_none {s : State} {x : HazeRun × Option Bool} (hx : x.2 = none) :
    (hazeNoted s stack d x).get (hazeFld stack d) = s.get (hazeFld stack d) ∧
      tabGet {} (hazeKey stack d) (hazeNoted s stack d x).store.haze = x.1 := by
  simp only [hazeNoted, hx]
  exact ⟨rfl, tabGet_tabPut_same _ _ _ _⟩

end

/-! ### Planned moves (R52 to R55) -/

/-- The fields that say which sector is the home of a page (R24, R25, R570). -/
def homeFlds : List Fld :=
  [F.RAS_SECTOR_STATE, F.RAS_SECTOR_TARGET, F.XB_HOME_MAP_ENTRY0, F.XB_HOME_MAP_ENTRY1, F.XB_HOME_MAP_ENTRY2, F.XB_HOME_MAP_ENTRY3]

/-- The home of a page follows from these fields and the pages that have moved. -/
theorem homeOf_congr {s t : State} (hregs : ∀ f ∈ homeFlds, t.get f = s.get f) (hcomp : t.comp = s.comp) (p : Nat) : homeOf t p = homeOf s p := by
  have hsector : ∀ i, sectorState t i = sectorState s i := fun i => by
    rw [sectorState, sectorState, hregs F.RAS_SECTOR_STATE (by decide)]
  have hentry : ∀ i, homeEntry t i = homeEntry s i := fun i => by
    unfold homeEntry
    split <;> exact hregs _ (by decide)
  rw [homeOf, homeOf, hsector, hentry, hcomp, hregs F.RAS_SECTOR_TARGET (by decide)]

/-- From `s` to `t` moves have been planned, and fields set that no page's home depends on. -/
structure PlansMoves (s t : State) : Prop where
  pages : t.store.pages = s.store.pages
  comp : t.comp = s.comp
  dir : t.dir = s.dir
  fab : t.fab = s.fab
  home : ∀ f ∈ homeFlds, t.get f = s.get f

namespace PlansMoves

theorem refl (s : State) : PlansMoves s s := ⟨rfl, rfl, rfl, rfl, fun _ _ => rfl⟩

theorem planMove {s t : State} (h : PlansMoves s t) (m : Move) : PlansMoves s (planMove t m) := by
  unfold Machine.planMove
  split
  · exact h
  · exact ⟨h.pages, h.comp, h.dir, h.fab, h.home⟩

theorem set {s t : State} (h : PlansMoves s t) {g : Fld} (hg : storeKeys ≤ g.key) (v : Nat) : PlansMoves s (t.set g v) := by
  have hbelow : ∀ f ∈ homeFlds, f.key < storeKeys := by decide
  refine ⟨h.pages, h.comp, h.dir, h.fab, fun f hf => ?_⟩
  have hne : f.key ≠ g.key := Nat.ne_of_lt (lt_of_lt_of_le (hbelow f hf) hg)
  rw [State.get_set_ne _ _ hne, h.home f hf]

end PlansMoves


theorem storeKeys_le_of_block {f : Fld} {b n : Nat} (ho : f.off = b + 0x1000 * n) (hb : 0x1D000 ≤ b) : storeKeys ≤ f.key := by
  have hbase : storeKeys = 0x1D000 * 64 := rfl
  rw [hbase, Fld.key]
  omega

/-- A fold each step of which plans moves. -/
theorem PlansMoves.foldl {α : Type} {s : State} {g : State → α → State} (hg : ∀ (t : State) (x : α), PlansMoves s t → PlansMoves s (g t x))
    {t : State} (ht : PlansMoves s t) (l : List α) : PlansMoves s (l.foldl g t) :=
  List.foldlRecOn l g ht fun t h x _ => hg t x h

/-- A decay epoch plans moves, and then halves the counters of its sector (R52). -/
theorem decayEpoch_plans_halves (n : Fin 4) (t : Nat) (s : State) :
    ∃ u, PlansMoves (s.upto t) u ∧ exec (.decayEpoch n t) s = .next { u with store := { u.store with
      pages := u.store.pages.map fun e => if homeOf u e.1 = n then (e.1, { e.2 with count := e.2.count / 2 }) else e } } := by
  refine ⟨_, ?_, rfl⟩
  have herr : storeKeys ≤ (F.TIER_S_NEAR_STATUS_THRESH_ERR n).key := storeKeys_le_of_block rfl (by decide)
  have hdenied : storeKeys ≤ (F.TIER_S_PROMOTE_DENIED_COUNT n).key := storeKeys_le_of_block rfl (by decide)
  have h := (PlansMoves.refl (s.upto t)).set herr
  split
  · exact h _
  · refine PlansMoves.foldl (fun u x hu => ?_) (h _) _
    split
    · exact hu.planMove _
    · exact hu.set hdenied _

/-! ### Demotion (R54) -/

theorem mem_insertHot {x y : Nat × List (Nat × Page)} {l : List (Nat × List (Nat × Page))} (h : y ∈ insertHot x l) : y = x ∨ y ∈ l := by
  induction l with
  | nil => simpa [insertHot] using h
  | cons z l ih =>
    unfold insertHot at h
    split at h
    · simpa using h
    · rcases List.mem_cons.1 h with rfl | h
      · exact .inr List.mem_cons_self
      · exact (ih h).imp id (List.mem_cons_of_mem _)

theorem mem_foldr_insertHot {y : Nat × List (Nat × Page)} {l : List (Nat × List (Nat × Page))} (h : y ∈ l.foldr insertHot []) : y ∈ l := by
  induction l with
  | nil => exact h
  | cons x l ih =>
    rcases mem_insertHot h with rfl | h
    · exact List.mem_cons_self
    · exact List.mem_cons_of_mem _ (ih h)

/-- A move that demotes a tensor of heat at most COLD with no pinned page. -/
def DemotesCold (s : State) (n : Nat) (m : Move) : Prop :=
  m.toNear = false ∧ heat (tensorOf s m.first) ≤ s.get (F.TIER_S_THRESHOLDS_COLD n) ∧ ∀ e ∈ tensorOf s m.first, e.2.pinNear = false

/-- From `s` to `t` only demotions of cold tensors have been planned. -/
def PlansCold (s : State) (n : Nat) (t : State) : Prop :=
  (∀ m ∈ t.store.moves, m ∈ s.store.moves ∨ DemotesCold s n m) ∧ t.store.pages = s.store.pages ∧ t.regs = s.regs

theorem PlansCold.planMove {s t : State} {n : Nat} (h : PlansCold s n t) {m : Move} (hm : DemotesCold s n m) : PlansCold s n (planMove t m) := by
  obtain ⟨hmoves, hpages, hregs⟩ := h
  unfold Machine.planMove
  split
  · exact ⟨hmoves, hpages, hregs⟩
  · refine ⟨fun k hk => ?_, hpages, hregs⟩
    rcases List.mem_append.1 hk with hk | hk
    · exact hmoves k hk
    · exact .inr (List.mem_singleton.1 hk ▸ hm)

theorem nearLowDemotion_plansCold {s : State} {n : Fin 4} (t : Nat) (hrest : migRests s n = false)
    (hlow : freeNear s n < s.get (F.TIER_S_NEAR_WATER_LOW n)) : Gives (.nearLowDemotion n t) s (PlansCold s n) := by
  have hgo : ¬ (migRests (s.upto t) n || decide ((s.upto t).get (F.TIER_S_NEAR_WATER_LOW n) ≤ freeNear (s.upto t) n)) = true := by
    change ¬ (migRests s n || decide (s.get (F.TIER_S_NEAR_WATER_LOW n) ≤ freeNear s n)) = true
    simpa [hrest] using hlow
  refine ⟨_, congrArg Host.Outcome.next (if_neg hgo), ?_⟩
  refine List.foldlRecOn (motive := fun a : Nat × State => PlansCold s n a.2) _ _ ⟨fun m hm => .inl hm, rfl, rfl⟩ fun a ha x hx => ?_
  have hcold := mem_foldr_insertHot (List.mem_reverse.1 hx)
  dsimp only
  split
  · exact ha
  · refine ha.planMove ⟨rfl, ?_⟩
    simp only [List.mem_filter, List.mem_map, Bool.and_eq_true, decide_eq_true_eq, List.all_eq_true, Bool.not_eq_true'] at hcold
    obtain ⟨⟨e, -, rfl⟩, ⟨-, hheat⟩, hpin⟩ := hcold
    exact ⟨hheat, hpin⟩

/-! ### Drizzle (R66 to R69) -/

section
variable {f : Fld} (hf : UnitFld f)
include hf

theorem drizzleStep_get (s : State) (n : Nat) (far : Bool) : (drizzleStep s n far).get f = s.get f := by
  have hnear : f.key ≠ (F.TIER_S_DRIZZLE_STATUS_NEAR_PASSES n).key := hf.key_ne rfl rfl (by decide)
  have hfar : f.key ≠ (F.TIER_S_DRIZZLE_STATUS_FAR_PASSES n).key := hf.key_ne rfl rfl (by decide)
  unfold drizzleStep
  extract_lets k total pos t
  split_ifs
  · exact State.get_bump_ne _ _ hfar
  · exact State.get_bump_ne _ _ hnear
  · rfl

/-- An error that Drizzle meets counts for its sector, beside the counters of stacks and channels. -/
theorem drizzleCorrected_get (s : State) (n : Nat) (far : Bool) :
    ((drizzleStep s n far).bumpSat (F.TIER_S_DRIZZLE_STATUS_CORRECTED n)).get f = s.get f :=
  (State.get_bumpSat_ne _ _ (hf.key_ne rfl rfl (by decide))).trans (drizzleStep_get hf _ _ _)

theorem drizzleUncorrected_get (s : State) (n : Nat) (far : Bool) :
    ((drizzleStep s n far).bumpSat (F.TIER_S_DRIZZLE_STATUS_UNCORRECTED n)).get f = s.get f :=
  (State.get_bumpSat_ne _ _ (hf.key_ne rfl rfl (by decide))).trans (drizzleStep_get hf _ _ _)

end

section
variable {f : Fld} {m : Nat}

theorem spareRow_get (hf : f.key ≠ (F.HBM_H_SPARE_USED m).key) (s : State) (row : Nat) : (spareRow s m row).get f = s.get f := by
  unfold spareRow
  dsimp only
  split
  · rfl
  · exact State.get_bump_ne _ _ hf

theorem rowError_get (hf : f.key ≠ (F.HBM_H_SPARE_USED m).key) (s : State) (row : Nat) : (rowError s m row).get f = s.get f := by
  unfold rowError
  dsimp only
  split
  · exact spareRow_get hf _ _
  · rfl

theorem autoRetire_get {d : Nat} (hstate : f.key ≠ (F.DDR_D_STATUS_STATE d).key) (hretire : f.key ≠ (F.DDR_D_CTRL_RETIRE d).key)
    (s : State) (dev : Nat) : (autoRetire s d dev).get f = s.get f := by
  unfold autoRetire
  dsimp only
  split
  · exact (State.get_setFlag_ne _ _ hretire).trans (State.get_set_ne _ _ hstate)
  · rfl

theorem errAddr_near_get (haddr : f.key ≠ (F.HBM_H_ERR_ADDR_POOL_ADDR m).key) (hvalid : f.key ≠ (F.HBM_H_ERR_ADDR_VALID m).key)
    (s : State) (a : Nat) : (errAddr s false m a).get f = s.get f :=
  (State.get_setFlag_ne _ _ hvalid).trans (State.get_set_ne _ _ haddr)

end

/-- The stack that a near place of a sector lies on. -/
def drizzleStack (n : Fin 4) (place : Nat) : Nat := 2 * n.val + place / 32768 % 2

/-- The channel that a far place of a sector lies on. -/
def drizzleChannel (n : Fin 4) (place : Nat) : Nat := 8 * n.val + place / 2 ^ 27 % 8

section
variable {s : State} {n : Fin 4} (hen : s.flag (F.TIER_S_CTRL_DRIZZLE_EN n) = true) (place t : Nat)
include hen

theorem drizzle_clean (far : Bool) : exec (.drizzleRead n far place .clean t) s = .next (drizzleStep (s.upto t) n far) :=
  congrArg Host.Outcome.next (if_neg (by simp [hen]))

theorem drizzle_corrected_near (row : Nat) :
    exec (.drizzleRead n false place (.corrected row) t) s = .next
      (rowError (((drizzleStep (s.upto t) n false).bumpSat (F.TIER_S_DRIZZLE_STATUS_CORRECTED n)).bumpSat
        (F.HBM_H_ECC_CORRECTED (drizzleStack n place))) (drizzleStack n place) row) := by
  have hen' : (s.upto t).flag (F.TIER_S_CTRL_DRIZZLE_EN n) = true := hen
  simp only [exec, execDrizzleRead, hen', drizzleStack, Bool.not_true, Bool.false_eq_true, if_false]

theorem drizzle_corrected_far (dev : Nat) :
    exec (.drizzleRead n true place (.corrected dev) t) s = .next
      (autoRetire (((drizzleStep (s.upto t) n true).bumpSat (F.TIER_S_DRIZZLE_STATUS_CORRECTED n)).bumpSat
        (F.DDR_D_ECC_CORRECTED (drizzleChannel n place))) (drizzleChannel n place) dev) := by
  have hen' : (s.upto t).flag (F.TIER_S_CTRL_DRIZZLE_EN n) = true := hen
  simp only [exec, execDrizzleRead, hen', drizzleChannel, Bool.not_true, Bool.false_eq_true, if_false, if_true]

/-- An uncorrectable error of a near frame counts, and poisons the line there, if an allocated page has one. -/
theorem drizzle_uncorrectable_near (row : Nat) :
    ∃ u, u = spareRow (((drizzleStep (s.upto t) n false).bumpSat (F.TIER_S_DRIZZLE_STATUS_UNCORRECTED n)).bumpSat
        (F.HBM_H_ECC_UNCORRECTED (drizzleStack n place))) (drizzleStack n place) row ∧
      (exec (.drizzleRead n false place (.uncorrectable row) t) s = .next u ∨
        ∃ line, exec (.drizzleRead n false place (.uncorrectable row) t) s =
          .next (errAddr (poisonLine u line) false (drizzleStack n place) (line * 64))) := by
  have hen' : (s.upto t).flag (F.TIER_S_CTRL_DRIZZLE_EN n) = true := hen
  refine ⟨_, rfl, ?_⟩
  simp only [exec, execDrizzleRead, hen', drizzleStack, Bool.not_true, Bool.false_eq_true, if_false]
  split
  · exact .inl rfl
  · exact .inr ⟨_, rfl⟩

theorem drizzle_counts_corrected_near (row : Nat) :
    Gives (.drizzleRead n false place (.corrected row) t) s fun u =>
      u.get (F.HBM_H_ECC_CORRECTED (drizzleStack n place)) =
        min (s.get (F.HBM_H_ECC_CORRECTED (drizzleStack n place)) + 1) (2 ^ (F.HBM_H_ECC_CORRECTED (drizzleStack n place)).wid - 1) := by
  refine ⟨_, drizzle_corrected_near hen place t row, ?_⟩
  dsimp only
  rw [rowError_get (by simp), State.get_bumpSat_same, drizzleCorrected_get (unitFld_stackCorrected _), State.upto_get]

theorem drizzle_counts_corrected_far (dev : Nat) :
    Gives (.drizzleRead n true place (.corrected dev) t) s fun u =>
      u.get (F.DDR_D_ECC_CORRECTED (drizzleChannel n place)) =
        min (s.get (F.DDR_D_ECC_CORRECTED (drizzleChannel n place)) + 1) (2 ^ (F.DDR_D_ECC_CORRECTED (drizzleChannel n place)).wid - 1) := by
  refine ⟨_, drizzle_corrected_far hen place t dev, ?_⟩
  dsimp only
  rw [autoRetire_get (by simp) (by simp), State.get_bumpSat_same, drizzleCorrected_get (unitFld_channelCorrected _), State.upto_get]

theorem drizzle_counts_uncorrectable_near (row : Nat) :
    Gives (.drizzleRead n false place (.uncorrectable row) t) s fun u =>
      u.get (F.HBM_H_ECC_UNCORRECTED (drizzleStack n place)) =
        min (s.get (F.HBM_H_ECC_UNCORRECTED (drizzleStack n place)) + 1) (2 ^ (F.HBM_H_ECC_UNCORRECTED (drizzleStack n place)).wid - 1) := by
  have hf := unitFld_stackUncorrected (drizzleStack n place)
  obtain ⟨u, hu, he⟩ := drizzle_uncorrectable_near hen place t row
  have hcount : u.get (F.HBM_H_ECC_UNCORRECTED (drizzleStack n place)) =
      min (s.get (F.HBM_H_ECC_UNCORRECTED (drizzleStack n place)) + 1) (2 ^ (F.HBM_H_ECC_UNCORRECTED (drizzleStack n place)).wid - 1) := by
    rw [hu, spareRow_get (by simp), State.get_bumpSat_same, drizzleUncorrected_get hf, State.upto_get]
  rcases he with he | ⟨line, he⟩
  · exact ⟨_, he, hcount⟩
  · exact ⟨_, he, (errAddr_near_get (by simp) (by simp) _ _).trans ((poisonLine_get hf.storeKeys_le _ _).trans hcount)⟩

end

/-- Settles O9: the last millisecond of a Haze window, a decay epoch, a demotion of cold tensors and a frame read by Drizzle. -/
theorem tierPolicyTimers : Obligations.TierPolicyTimers := by
  refine ⟨fun s stack d median peers t => ⟨fun hst hh hm hw => ?_, fun hst hh hm hw => ?_, fun hst hh hm hw => ?_⟩, fun s n t => ?_,
    fun s n t => nearLowDemotion_plansCold t, fun s n place t hen => ⟨drizzle_clean hen place t, fun row => ?_, fun dev => ?_,
      drizzle_counts_uncorrectable_near hen place t⟩⟩
  · exact ⟨_, exec_storeHazeCheck_serving stack d (.inl hst) median peers t,
      hazeNoted_get stack d (hazeStep_enters (s := s.upto t) hh hm hw)⟩
  · exact ⟨_, exec_storeHazeCheck_serving stack d (.inr hst) median peers t,
      hazeNoted_get stack d (hazeStep_leaves (s := s.upto t) hh hm hw)⟩
  · obtain ⟨hnone, habove⟩ := hazeStep_restarts (s := s.upto t) hh hm hw
    obtain ⟨hget, hrun⟩ := hazeNoted_none stack d (s := s.upto t) hnone
    exact ⟨_, exec_storeHazeCheck_serving stack d (.inl hst) median peers t, hget.trans hst, (congrArg HazeRun.above hrun).trans habove⟩
  · obtain ⟨u, hu, he⟩ := decayEpoch_plans_halves n t s
    refine ⟨_, he, ?_, exec_mem_of_not_storesPool rfl he, hu.dir, hu.fab⟩
    simp only [homeOf_congr hu.home hu.comp, hu.pages]
    rfl
  · obtain ⟨u, he, hcount⟩ := drizzle_counts_corrected_near hen place t row
    exact ⟨u, he, hcount, exec_mem_of_not_storesPool rfl he⟩
  · obtain ⟨u, he, hcount⟩ := drizzle_counts_corrected_far hen place t dev
    exact ⟨u, he, hcount, exec_mem_of_not_storesPool rfl he⟩

end Sys2Proof.Machine
end

section
/-! SUPPORT. Moves of granules (spec/02, R58, R59, R62): arrival, the end of a wait for one, and the eviction of a dirty line. -/

namespace Sys2Proof.Machine

open Sys2Proof

theorem length_setAdd_le (k : Nat) (l : List Nat) : (setAdd k l).length ≤ l.length + 1 := by
  induction l with
  | nil => simp [setAdd]
  | cons j l ih =>
    unfold setAdd
    split_ifs <;> simp only [List.length_cons] <;> omega

/-! ### Arrival of a granule of a promotion (R58) -/

/-- The record of a promotion after granule `g` has arrived. -/
def Xfer.arrive (x : Xfer) (g : Nat) : Xfer :=
  { x with granules := listSet x.granules g (x.granules.getD g {}), arrived := setAdd g x.arrived,
           copying := nextGranule (setAdd g x.arrived) }

/-- Short of the last granule, an arrival leaves the page MIGRATING. -/
theorem granuleArrives_promote {s : State} {p g : Nat} {e : Page} {x : Xfer} (hkind : x.kind = .promote) (hcopy : x.copying = some g)
    (hlast : x.arrived.length < 31) :
    granuleArrives s p e x = (spreadPoison s p g (x.granules.getD g {})).putPage p { e with loc := .migrating (x.arrive g) } := by
  have hlen : (setAdd g x.arrived).length ≠ 32 := by
    have := length_setAdd_le g x.arrived
    omega
  simp [granuleArrives, hcopy, hkind, hlen, Xfer.arrive]

theorem granuleCopyDone_promote {s : State} {p : Fin 67108864} {e : Page} {x : Xfer} {g : Nat} (t : Nat) (hpage : s.page? p = some e)
    (hsplit : e.split = none) (hloc : e.loc = .migrating x) (hkind : x.kind = .promote) (hcopy : x.copying = some g)
    (hlast : x.arrived.length < 31) :
    exec (.granuleCopyDone p t) s = .next (wakeMigrating (sweepMoves
      ((spreadPoison (s.upto t) p g (x.granules.getD g {})).putPage p { e with loc := .migrating (x.arrive g) })) p) := by
  have hpage' : (s.upto t).page? p = some e := hpage
  simp only [exec, execGranuleCopyDone, hpage', hsplit, hloc, granuleArrives_promote hkind hcopy hlast]

/-! ### A wait that has been too long (R59) -/

theorem migratingWaitTimeout_faults {s : State} {p : Fin 6} {g : Fin 8192} {t pa : Nat} {f : Flight} {e : Page} {x : Xfer}
    (hf : flightOf s p g = some f) (hpool : f.pool = some pa) (hstage : f.stage = .migrating) (hlate : f.since + 2000 < max s.now t)
    (hpage : s.page? (pa / 2097152) = some e) (hloc : e.loc = .migrating x) :
    exec (.migratingWaitTimeout p g t) s = .next
      (pageFault (putFlight (s.upto t) { f with stage := .fault, since := max s.now t }) (pa / 2097152) 2 x.index pa true
        (0x1C + homeOf s (pa / 2097152))
        { task := .flight p g, ctx := f.req.ctx, seg := 16, unit := p, since := max s.now t }) := by
  have hf' : flightOf (s.upto t) p g = some f := hf
  have hpage' : (s.upto t).page? (pa / 2097152) = some e := hpage
  have hhome : homeOf (s.upto t) (pa / 2097152) = homeOf s (pa / 2097152) := rfl
  simp only [exec, execMigratingWaitTimeout, hf', hpool, hstage, State.upto_now, Nat.not_le.2 hlate, hpage', hloc, hhome, ne_eq,
    not_true_eq_false, or_self, if_false]

/-! ### Eviction of a dirty line (R62) -/

theorem dirtyLineEviction_clean {s : State} {line : Fin (2 ^ 41)} (t : Nat) (h : s.store.dirty.contains line.val = false) :
    exec (.dirtyLineEviction line t) s = .next (s.upto t) :=
  congrArg Host.Outcome.next (if_pos (by simpa using h))

theorem granuleFrames_frame (s : State) (e : Page) :
    (granuleFrames s e).2.store = s.store ∧ ∀ p, homeOf (granuleFrames s e).2 p = homeOf s p := by
  unfold granuleFrames
  split <;> exact ⟨rfl, fun _ => rfl⟩

theorem placeGranule_store (s : State) (n p g len : Nat) : (placeGranule s n p g len).2.store = s.store := by
  unfold placeGranule
  dsimp only
  split <;> rfl

/-- Where the granule of a dirty line finds a run of frames, the line is dirty no more. -/
theorem dirtyLineEviction_rewrites {s : State} {line : Fin (2 ^ 41)} {t : Nat} {e : Page} (hdirty : s.store.dirty.contains line.val = true)
    (hpage : s.page? (line.val / 32768) = some e) (hfar : granuleNear e (line.val / 1024 % 32) = false)
    (hsmall : (granuleOf e (line.val / 1024 % 32)).frames < 16)
    (hroom : (placeGranule (granuleFrames (s.upto t) e).2 (homeOf s (line.val / 32768)) (line.val / 32768) (line.val / 1024 % 32)
      (granuleFrames (s.upto t) e).1).1.isSome = true) :
    Gives (.dirtyLineEviction line t) s fun u => u.store.dirty = setDel line.val s.store.dirty := by
  obtain ⟨hframes, hhome⟩ := granuleFrames_frame (s.upto t) e
  obtain ⟨x, hx⟩ := Option.isSome_iff_exists.1 hroom
  obtain ⟨v, hplaced, hv⟩ : ∃ v, placeGranule (granuleFrames (s.upto t) e).2 (homeOf s (line.val / 32768)) (line.val / 32768)
      (line.val / 1024 % 32) (granuleFrames (s.upto t) e).1 = (some x, v) ∧ v.store = s.store :=
    ⟨_, Prod.ext hx rfl, (placeGranule_store _ _ _ _ _).trans hframes⟩
  have hpage' : (s.upto t).page? (line.val / 32768) = some e := hpage
  have hdirty' : (s.upto t).store.dirty.contains line.val = true := hdirty
  have hhome' : homeOf (granuleFrames (s.upto t) e).2 (line.val / 32768) = homeOf s (line.val / 32768) := hhome _
  refine ⟨_, rfl, ?_⟩
  simp only [hdirty', hpage', hfar, Nat.not_le.2 hsmall, hhome', hplaced, Bool.not_true, Bool.false_eq_true, decide_false, Bool.or_self,
    if_false]
  rw [farCheck_store]
  change setDel line.val v.store.dirty = _
  rw [hv]

/-- Settles O10: a granule of a promotion arrives and the page stays MIGRATING, a wait that is too long faults, and a dirty line's granule is
rewritten where it finds frames. -/
theorem granulesMove : Obligations.GranulesMove := by
  refine ⟨fun s p t e x g hpage hsplit hloc hkind hcopy _ hlast => granuleCopyDone_promote t hpage hsplit hloc hkind hcopy hlast,
    fun s p g t f pa e x hf hpool hstage hlate hpage hloc => migratingWaitTimeout_faults hf hpool hstage hlate hpage hloc,
    fun s line t => ⟨dirtyLineEviction_clean t, fun e hdirty hpage hfar hsmall hroom => ?_⟩⟩
  obtain ⟨u, he, hu⟩ := dirtyLineEviction_rewrites hdirty hpage hfar hsmall hroom
  exact ⟨u, he, hu, exec_mem_of_not_storesPool rfl he⟩

end Sys2Proof.Machine
end

section
/-! SUPPORT. Tier descriptors (spec/02, R40 to R43, R49): the checks of R40, and what each descriptor does where they pass. -/

namespace Sys2Proof.Machine

open Sys2Proof

theorem startState_ctxDomain (s : State) (d : Desc) (u c : Nat) : ctxDomain (startState s d u) c = ctxDomain s c := by
  unfold ctxDomain
  rw [startState_xlt]

/-! ### The checks (R40) -/

/-- The state in which a tier descriptor starts its work on the migration unit of its first page. -/
abbrev tierStart (s : State) (d : Desc) : State := startState s d (tierUnit s d.words)

/-- Its job there. -/
abbrev tierJob (s : State) (d : Desc) (j : Job) : Job := started j (tierUnit s d.words)

/-- The domain it runs for. -/
abbrev tierDom (s : State) (d : Desc) : Nat := ctxDomain s (ringCtx d.ring.val)

/-- What the checks of R40 find. -/
abbrev tierFound (s : State) (d : Desc) (op : Nat) : Option Code :=
  tierCheck (tierStart s d) op (tierDom s d) (tierBody d.words) (tierPages (tierBody d.words))

section
variable {s : State} {d : Desc} {op : Nat} {j : Job} (h : Ready s d op (tierUnit s d.words) j) (hphase : j.phase = 0)
include h

/-- A job that a tier descriptor's row finishes ends with its code. -/
theorem tierJob_ends {t : State} (ht : t.rings = s.rings) (c : Code) : Ends (rowEnd s j (finishJob t (tierJob s d j) c)) d (endCode j c) := by
  obtain ⟨hring, hidx⟩ := findJob_ring h.1
  have hfind : findJob t d.ring.val d.idx.val = some j := by
    unfold findJob
    rw [ht]
    exact h.1
  exact rowEnd_ends (ends_finish (k := tierJob s d j) hfind hring hidx c 0)

include hphase

theorem tierRun_start {o : Option Code} (ho : tierFound s d op = o) (eff : State → Job → Nat → TierBody → List Nat → State) :
    tierRun op d s eff = rowEnd s j (o.elim
      (eff (tierStart s d) (tierJob s d j) (tierDom s d) (tierBody d.words) (tierPages (tierBody d.words)))
      (finishJob (tierStart s d) (tierJob s d j) ·)) := by
  have hring : (tierJob s d j).ring = d.ring.val := (findJob_ring h.1).1
  have hwords : (tierJob s d j).words = d.words := h.2.1
  have hphase' : (tierJob s d j).phase = 0 := hphase
  rw [tierRun, runDesc_ready h]
  simp only [hring, hwords, hphase', startState_ctxDomain, if_true, ho]
  cases o <;> rfl

/-- A descriptor that fails a check ends with that check's code. -/
theorem tierRun_refused {c : Code} (hc : tierFound s d op = some c) (eff : State → Job → Nat → TierBody → List Nat → State) :
    tierRun op d s eff = rowEnd s j (finishJob (tierStart s d) (tierJob s d j) c) :=
  tierRun_start h hphase hc eff

/-- A descriptor that passes them has its effect. -/
theorem tierRun_passed (hc : tierFound s d op = none) (eff : State → Job → Nat → TierBody → List Nat → State) :
    tierRun op d s eff = rowEnd s j
      (eff (tierStart s d) (tierJob s d j) (tierDom s d) (tierBody d.words) (tierPages (tierBody d.words))) :=
  tierRun_start h hphase hc eff

end

theorem tierPages_one {b : TierBody} (h : b.count = 1) : tierPages b = [b.base / 2097152] := by
  simp [tierPages, h, span]

/-! ### TIER_ALLOC (R41) -/

theorem page?_putPage_same (s : State) (p : Nat) (e : Page) : (s.putPage p e).page? p = some e := tabGet?_tabPut_same _ _ _

theorem allocPage_far {s : State} {p : Nat} {e : Page} (hpin : e.pinNear = false) :
    allocPage s p e = (s.zeroPage p).putPage p { e with loc := .far zeroFar, movedAt := s.now } := by
  simp [allocPage, hpin]

/-- A page that is not pinned is allocated far with content zero, and every byte of another page is as before. -/
theorem allocGo_one {s : State} {dom : Nat} {b : TierBody} (hpin : b.pinNear = false) (p : Nat) :
    (∃ e : Page, (allocGo s dom b [p]).page? p = some e ∧ e.domain = dom ∧ e.loc = .far zeroFar) ∧
      (∀ a, (allocGo s dom b [p]).byte a = if a / 2097152 = p then 0 else s.byte a) ∧ (allocGo s dom b [p]).rings = s.rings := by
  simp only [allocGo, hpin, List.foldl_cons, List.foldl_nil, Bool.and_false, Bool.false_eq_true, if_false]
  rw [allocPage_far rfl]
  exact ⟨⟨_, page?_putPage_same _ _ _, rfl, rfl⟩, State.byte_zeroPage s p, rfl⟩

theorem tierAlloc_one {s : State} {d : Desc} {j : Job} (h : Ready s d 0x40 (tierUnit s d.words) j) (hphase : j.phase = 0)
    (hcount : (tierBody d.words).count = 1) (hpin : (tierBody d.words).pinNear = false) (hc : tierFound s d 0x40 = none) :
    Gives (.tierAlloc d) s fun u =>
      (∃ e : Page, u.page? ((tierBody d.words).base / 2097152) = some e ∧ e.domain = tierDom s d ∧ e.loc = .far zeroFar) ∧
      (∀ a, a / 2097152 = (tierBody d.words).base / 2097152 → u.byte a = 0) ∧
      (∀ a, a / 2097152 ≠ (tierBody d.words).base / 2097152 → u.byte a = s.byte a) ∧ Ends u d (endCode j .ok) := by
  refine ⟨_, congrArg Host.Outcome.next (tierRun_passed h hphase hc _), ?_⟩
  rw [tierPages_one hcount]
  obtain ⟨hpage, hbyte, hrings⟩ := allocGo_one (s := tierStart s d) (dom := tierDom s d) hpin ((tierBody d.words).base / 2097152)
  refine ⟨?_, fun a ha => ?_, fun a ha => ?_, tierJob_ends h (hrings.trans (startState_rings _ _ _)) .ok⟩
  · simpa [State.page?] using hpage
  · simpa [State.byte, ha] using hbyte a
  · simpa [State.byte, ha] using hbyte a

/-! ### TIER_FREE (R43) -/

/-- The start of a range invalidation stands last in the list of those under way, and leaves the store. -/
theorem startInval_frame (s : State) (what : InvalFor) (j : Job) (counted : Bool) (c base len : Nat) :
    (∃ v ∈ (startInval s what j counted true c base len).2.xlt.invals,
      v.id = s.xlt.nextInval ∧ v.what = what ∧ v.base = base ∧ v.len = len) ∧
      (startInval s what j counted true c base len).2.store = s.store :=
  ⟨⟨_, List.mem_append_right _ List.mem_cons_self, rfl, rfl, rfl, rfl⟩, rfl⟩

theorem tierFree_invalidates {s : State} {d : Desc} {j : Job} (h : Ready s d 0x41 (tierUnit s d.words) j) (hphase : j.phase = 0)
    (hc : tierFound s d 0x41 = none) :
    Gives (.tierFree d) s fun u =>
      (∃ v ∈ u.xlt.invals, v.id = s.xlt.nextInval ∧ v.what = .tierFree ∧ v.base = (tierBody d.words).base ∧
        v.len = (tierBody d.words).count * 2097152) ∧ u.store = s.store := by
  have hphase' : (tierJob s d j).phase = 0 := hphase
  refine ⟨_, congrArg Host.Outcome.next (tierRun_passed h hphase hc _), ?_⟩
  obtain ⟨⟨v, hv, hid, hrest⟩, hstore⟩ := startInval_frame (tierStart s d) .tierFree (tierJob s d j) false 0 (tierBody d.words).base
    ((tierBody d.words).count * 2097152)
  simp only [hphase', if_true]
  exact ⟨⟨v, hv, hid.trans (congrArg Xlt.nextInval (startState_xlt _ _ _)), hrest⟩, hstore.trans (startState_store _ _ _)⟩

/-! ### TIER_HINT (R40) -/

theorem tabGet?_tabMod_same {α : Type} {k : Nat} {v : α} {t : Tab α} (f : α → α) (h : tabGet? k t = some v) :
    tabGet? k (tabMod k f t) = some (f v) := by
  induction t with
  | nil => simp [tabGet?] at h
  | cons e t ih =>
    obtain ⟨i, w⟩ := e
    by_cases hi : i = k
    · have hw : w = v := by simpa [tabGet?, hi] using h
      simp [tabMod, tabGet?, hi, hw]
    · simp only [tabGet?, hi, if_false] at h
      simpa [tabMod, tabGet?, hi] using ih h

/-- A page with the hints of a descriptor. -/
def Page.withHints (e : Page) (b : TierBody) : Page :=
  { e with pinNear := b.pinNear, preferFar := b.preferFar, neverCompress := b.neverCompress }

theorem tierHint_one {s : State} {d : Desc} {j : Job} (h : Ready s d 0x42 (tierUnit s d.words) j) (hphase : j.phase = 0)
    (hc : tierFound s d 0x42 = none) (hcount : (tierBody d.words).count = 1) {e : Page}
    (he : s.page? ((tierBody d.words).base / 2097152) = some e) :
    Gives (.tierHint d) s fun u => u.page? ((tierBody d.words).base / 2097152) = some (e.withHints (tierBody d.words)) := by
  refine ⟨_, congrArg Host.Outcome.next (tierRun_passed h hphase hc _), ?_⟩
  have he' : tabGet? ((tierBody d.words).base / 2097152) (tierStart s d).store.pages = some e := by
    rw [startState_store]
    exact he
  simp only [tierPages_one hcount, List.foldl_cons, List.foldl_nil, State.page?, rowEnd_store, finishJob_store]
  refine (congrArg (tabGet? _) (PlansMoves.foldl (fun u f hu => ?_) (PlansMoves.refl _) _).pages).trans
    (tabGet?_tabMod_same (·.withHints (tierBody d.words)) he')
  split_ifs
  · exact hu.planMove _
  · exact hu.planMove _
  · exact hu

/-! ### TIER_SPLIT (R49, R50) -/

/-- Joining a page looks at the state for the next transfer record alone. -/
theorem joinPage_congr {s t : State} (h : t.store.nextXfer = s.store.nextXfer) (e : Page) : joinPage t e = joinPage s e := by
  unfold joinPage
  rw [h]

theorem tierSplit_one {s : State} {d : Desc} {j : Job} (h : Ready s d 0x43 (tierUnit s d.words) j) (hphase : j.phase = 0)
    (hc : tierFound s d 0x43 = none) (hcount : (tierBody d.words).count = 1) {e : Page}
    (he : s.page? ((tierBody d.words).base / 2097152) = some e) (hstays : ∀ x : Xfer, e.loc ≠ .migrating x) :
    Gives (.tierSplit d) s fun u =>
      u.page? ((tierBody d.words).base / 2097152) = some (if (tierBody d.words).join then joinPage s e else splitPage e) := by
  refine ⟨_, congrArg Host.Outcome.next (tierRun_passed h hphase hc _), ?_⟩
  have he' : tabGet? ((tierBody d.words).base / 2097152) (tierStart s d).store.pages = some e := by
    rw [startState_store]
    exact he
  have hjoin : ∀ t : State, t.store.nextXfer = (tierStart s d).store.nextXfer → joinPage t e = joinPage s e := fun t ht =>
    joinPage_congr (ht.trans (by rw [startState_store])) e
  -- The row waits only for a page on the move, which `hstays` excludes.
  simp only [State.page?, tierPages_one hcount, List.any_cons, List.any_nil, he', Bool.or_false, Bool.false_eq_true, if_false,
    List.foldl_cons, List.foldl_nil, rowEnd_store, finishJob_store]
  refine (tabGet?_tabPut_same _ _ _).trans ?_
  split_ifs
  · exact congrArg some (hjoin _ rfl)
  · rfl

/-- Settles O11: the checks of R40, then each descriptor's effect on a range of one page, or the invalidation that TIER_FREE begins with. -/
theorem tierDescriptorsRun : Obligations.TierDescriptorsRun := by
  refine ⟨fun s d j h hphase hcount hpin hc => tierAlloc_one h hphase hcount hpin hc,
    fun s d j => ⟨fun c op i hi h hphase hc => ?_, fun h hphase hc => tierFree_invalidates h hphase hc,
      fun h hphase hc hcount e he => tierHint_one h hphase hc hcount he,
      fun h hphase hc hcount e he hstays => tierSplit_one h hphase hc hcount he hstays⟩⟩
  simp only [List.mem_cons, Prod.mk.injEq, List.not_mem_nil, or_false] at hi
  obtain ⟨rfl, rfl⟩ | ⟨rfl, rfl⟩ | ⟨rfl, rfl⟩ | ⟨rfl, rfl⟩ := hi <;>
    exact congrArg Host.Outcome.next (tierRun_refused h hphase hc _)

end Sys2Proof.Machine
end

section
/-! SUPPORT. The fault queue (spec/03, R109 to R116, R624): what firmware takes, what room lets in, how a page fault is resolved, and the end of a
partner's wait. -/

namespace Sys2Proof.Machine

open Sys2Proof

/-! ### Taking a record (R109, R113) -/

/-- Outside Squall the earliest sound record of the queue goes to the service list, and HEAD moves on by one. -/
theorem faultQueueConsume_serves {s : State} (t : Nat) {r : FaultRec} {l : List FaultRec} (hqueue : s.xlt.queue = r :: l)
    (hsquall : s.flag F.XLT_FQ_STATUS_SQUALL = false) (hhead : s.get F.XLT_FQ_PTRS_HEAD < 16383)
    (hsound : s.xlt.corrupt.contains (.faultRec r.seq) = false) :
    exec (.faultQueueConsume t) s = .next (wake
      { (s.upto t).set F.XLT_FQ_PTRS_HEAD (s.get F.XLT_FQ_PTRS_HEAD + 1) with
        xlt := { s.xlt with queue := l, service := s.xlt.service ++ [r],
                            corrupt := s.xlt.corrupt.filter fun x => x != .faultRec r.seq } }) := by
  have hget : (s.upto t).get F.XLT_FQ_PTRS_HEAD = s.get F.XLT_FQ_PTRS_HEAD := rfl
  have hflag : ∀ x : Xlt, State.flag { (s.upto t).set F.XLT_FQ_PTRS_HEAD (s.get F.XLT_FQ_PTRS_HEAD + 1) with xlt := x }
      F.XLT_FQ_STATUS_SQUALL = false := fun _ => (State.flag_set_ne _ _ (by decide)).trans hsquall
  simp only [exec, execFaultQueueConsume, State.upto_xlt, hqueue, hget, Nat.ne_of_lt hhead, State.set_xlt, hsound, hflag,
    Bool.false_and, Bool.false_eq_true, if_false]

/-! ### Room (R110, R116) -/

section
variable {s : State} (t : Nat)

theorem stalledRecordPost_full (hfull : Config.fqEntries ≤ s.xlt.queue.length) : exec (.stalledRecordPost t) s = .next (s.upto t) :=
  congrArg Host.Outcome.next (if_pos hfull)

/-- The queue takes the record that met it full earliest. -/
theorem stalledRecordPost_record {r : FaultRec} {l : List Late} (hroom : s.xlt.queue.length < Config.fqEntries)
    (hlate : s.xlt.late = .record r :: l) :
    exec (.stalledRecordPost t) s = .next (wake (enqueueFault { s.upto t with xlt := { s.xlt with late := l } } r)) := by
  simp only [exec, execStalledRecordPost, State.upto_xlt, ge_iff_le, Nat.not_le.2 hroom, if_false, hlate, List.find?_cons_of_pos,
    List.erase_cons_head]

theorem waiterRoom_full (hfull : Config.waiterMax ≤ waiterCount s) : exec (.waiterRoom t) s = .next (s.upto t) :=
  congrArg Host.Outcome.next (if_pos hfull)

/-- The task that has been stalled longest joins the list of its page's record. -/
theorem waiterRoom_joins {p : Nat} {r : FaultRec} {w : Waiter} {l : List Late} (hroom : waiterCount s < Config.waiterMax)
    (hlate : s.xlt.late = .noRoom p r w :: l) (hfault : hasFault s p = true) :
    exec (.waiterRoom t) s = .next
      (wake ((joinFault { s.upto t with xlt := { s.xlt with late := l } } p w).bump F.XLT_FQ_COALESCED_COUNT)) := by
  have hcount : waiterCount (s.upto t) = waiterCount s := rfl
  have hfault' : hasFault (s.upto t) p = true := hfault
  simp only [exec, execWaiterRoom, State.upto_xlt, ge_iff_le, hcount, Nat.not_le.2 hroom, if_false, hlate, List.find?_cons_of_pos,
    List.erase_cons_head, hfault', if_true]

end

/-! ### Resolving a page fault (R111) -/

/-- The state after a record has left the service list. -/
def unserved (s : State) (r : FaultRec) (t : Nat) : State :=
  { s.upto t with xlt := { s.xlt with service := s.xlt.service.erase r } }

section
variable {s : State} {seq : BitVec 32} {freed : Bool} {t p : Nat} {r : FaultRec}

/-- A page fault that can be resolved leaves the service list, and what it kept goes on. -/
theorem faultResolve_resolves {u : State} (hr : s.xlt.service.find? (fun x => x.seq = seq.toNat) = some r) (hpage : r.page = some p)
    (hu : resolvePage (unserved s r t) r p freed = some u) : exec (.faultResolve seq freed t) s = .next (wake u) := by
  unfold unserved at hu
  simp only [exec, execFaultResolve, State.upto_xlt, hr, hpage, hu]

theorem resolvePage_unallocated (hkind : r.kind = 1) (s : State) (p : Nat) (freed : Bool) :
    resolvePage s r p freed = some (resolveUnallocated s r p) := by
  simp only [resolvePage, hkind]

theorem resolveUnallocated_denied (hnone : s.page? p = none) (hw : demandWaiter s r = none) :
    resolveUnallocated s r p = endWaiters s r .denied := by
  simp [resolveUnallocated, hnone, hw]

/-- The page that a fault through a segment allocates (R111). -/
def demandPage (dom p : Nat) (g : Seg) : Page :=
  { domain := dom, tensorBase := p, pinNear := g.pinNear, preferFar := g.preferFar, neverCompress := g.neverCompress }

theorem resolveUnallocated_allocates {w : Waiter} {g : Seg} (hnone : s.page? p = none) (hw : demandWaiter s r = some (w, g))
    (hregion : inRegion s.comp.map (ctxDomain s w.ctx) p = true) (hwindow : inWindow (p * 2097152) = false)
    (hroom : overCapacity s (ctxDomain s w.ctx) [p] g.pinNear = false) :
    resolveUnallocated s r p = resumeWaiters (allocPage s p (demandPage (ctxDomain s w.ctx) p g)) r := by
  simp [resolveUnallocated, hnone, hw, hregion, hwindow, hroom, demandPage]

/-- A page that is no longer MIGRATING keeps nothing waiting. -/
theorem resolvePage_migrated {e : Page} (hkind : r.kind = 2) (hpage : s.page? p = some e) (hstays : ∀ x : Xfer, e.loc ≠ .migrating x) :
    resolvePage s r p freed = some (resumeWaiters s r) := by
  -- Of the branches on the page's location only the MIGRATING one keeps the record, and `hstays` excludes it.
  simp only [resolvePage, hkind, hpage]

end

/-! ### A wait that has lasted FAULT_TIMEOUT_MS (R112) -/

theorem faultHeldTimeout_ends {s : State} {p : Fin 6} {g : Fin 8192} {t : Nat} {f : Flight} (hf : flightOf s p g = some f)
    (hstage : f.stage = .fault) (hlate : f.since + 1000000 * s.get F.XLT_CTRL_FAULT_TIMEOUT_MS ≤ max s.now t) :
    exec (.faultHeldTimeout p g t) s = .next (wake (endHome (dropWaiter (s.upto t) (.flight p g)) f .faultHeld)) := by
  have hf' : flightOf (s.upto t) p g = some f := hf
  have hget : (s.upto t).get F.XLT_CTRL_FAULT_TIMEOUT_MS = s.get F.XLT_CTRL_FAULT_TIMEOUT_MS := rfl
  simp only [exec, execFaultHeldTimeout, hf', hstage, State.upto_now, hget, Nat.not_lt.2 hlate, ne_eq, not_true_eq_false, or_self,
    if_false]

/-- Settles O14: each row of the fault queue, in the case that the statement names. -/
theorem faultQueueServed : Obligations.FaultQueueServed := by
  refine ⟨fun s t r l hqueue hsquall hhead hsound => faultQueueConsume_serves t hqueue hsquall hhead hsound,
    fun s t => ⟨stalledRecordPost_full t, fun r l hroom hlate => stalledRecordPost_record t hroom hlate, waiterRoom_full t,
      fun p r w l hroom hlate hfault => waiterRoom_joins t hroom hlate hfault⟩,
    fun s seq freed t r p hr hpage => ⟨fun hkind hnone hw => ?_, fun w g hkind hnone hw hregion hwindow hroom => ?_,
      fun e hkind he hstays => ?_⟩,
    fun s p g t f hf hstage hlate => faultHeldTimeout_ends hf hstage hlate⟩
  · refine faultResolve_resolves hr hpage ((resolvePage_unallocated hkind _ _ _).trans (congrArg some ?_))
    exact resolveUnallocated_denied (s := unserved s r t) hnone hw
  · refine faultResolve_resolves hr hpage ((resolvePage_unallocated hkind _ _ _).trans (congrArg some ?_))
    exact resolveUnallocated_allocates (s := unserved s r t) hnone hw hregion hwindow hroom
  · exact faultResolve_resolves hr hpage (resolvePage_migrated (s := unserved s r t) hkind he hstays)

end Sys2Proof.Machine
end

section
/-! SUPPORT. Partner requests (spec/03 and spec/04, R89, R127, R531, R726): a request that meets nothing in its way, and one that is turned away at
its port. -/

namespace Sys2Proof.Machine

open Sys2Proof

/-! ### Arrival (R139, R141, R531, R726) -/

/-- Each request of a partner arrives at its port as the operation that it makes. -/
theorem exec_request {x : ROp × (Req → Instr)} (hx : x ∈ requestRows) (r : Req) (s : State) : exec (x.2 r) s = .next (arrive x.1 r s) := by
  unfold requestRows at hx
  fin_cases hx <;> rfl

section
variable {s : State} {op : ROp} {r : Req}

theorem arrive_down (hport : portUp s r.port.val = false) : arrive op r s = s.upto r.t := by
  have hport' : portUp (s.upto r.t) r.port.val = false := hport
  simp [arrive, hport']

section
variable (hport : portUp s r.port.val = true) (htag : flightOf (s.upto r.t) r.port.val r.tag.val = none)
include hport htag

/-- A request whose header fails a check with another code than DENIED is answered with that code. -/
theorem arrive_refused {c : Code} (hcode : c ≠ .denied) (hhead : headCheck (arrival op r s).2 op r = some c) :
    arrive op r s = wake (answerCode (arrival op r s).2 (arrival op r s).1 c) := by
  have hport' : portUp (s.upto r.t) r.port.val = true := hport
  unfold arrival at hhead ⊢
  simp only [arrive, hport', htag, hhead, hcode, false_and, Bool.not_true, Bool.false_eq_true, if_false]

/-- A request of class 2 or 3 whose header passes joins its lane. -/
theorem arrive_accepted (hcls : 2 ≤ r.cls.val) (hhead : headCheck (arrival op r s).2 op r = none) :
    arrive op r s = wake (joinLane (arrival op r s).2 (arrival op r s).1) := by
  have hport' : portUp (s.upto r.t) r.port.val = true := hport
  have hcls' : r.cls.val ≠ 1 := by omega
  unfold arrival at hhead ⊢
  simp only [arrive, hport', htag, hhead, hcls', Bool.not_true, Bool.false_eq_true, if_false]

end
end

/-! ### Translation (R84, R89, R545) -/

/-- A selected request that its segment translates, outside the windows and admitted by a grant, goes on to its source's order. -/
theorem forward_translated {s : State} {f : Flight} {pa k : Nat} (hctx : f.req.ctx.val ≠ 0) (hcls : 2 ≤ f.req.cls.val)
    (htr : translate s f.req.ctx.val f.req.addr.toNat (reqSize f.req) (opRight f.op) = .here pa k) (hwindow : inWindow pa = false)
    (hgrant : grantCheck (segLook s f.req.port.val f.req.ctx.val k) { f with pool := some pa } (pa / 2097152) = none) :
    forward s f = proceed (translated s { f with pool := some pa } pa k) { f with pool := some pa } := by
  have hcls' : f.req.cls.val ≠ 1 := by omega
  simp only [forward, hctx, htr, hwindow, hcls', hgrant, Bool.false_eq_true, if_false]
  rfl

/-! ### Order and the Anvil (R133, R135, R137, R145, R150, R515) -/

/-- A flag store of whose source nothing earlier is open or failed goes to its home. -/
theorem flagGo_unbarred {s : State} {f : Flight} (hbar : (flagBar s f).isNone = true) : flagGo s f = homeGo s f true := by
  simp only [flagGo, Option.isNone_iff_eq_none.1 hbar]

/-- An atomic that joins no entry and opens none is dispatched by itself (R150). -/
theorem anvilAtomic_alone {s : State} {f : Flight} {pa : Nat} (hjoin : (s.fab.entries.find? (mayJoin s f pa)).isNone = true)
    (hopen : (isHot s (pa / 64) && decide (s.fab.entries.length < 4096)) = false) :
    anvilAtomic s f pa = homeGo ((renewHot s (pa / 64)).bump (F.ANV_K_AT_COMB_DISPATCHED f.req.port.val)) f true := by
  simp only [anvilAtomic, Option.isNone_iff_eq_none.1 hjoin, hopen, Bool.false_eq_true, if_false]

/-- A translated request that goes alone reaches its home slice. -/
theorem proceed_alone {s : State} {f : Flight} {pa : Nat} (hpool : f.pool = some pa) (halone : goesAlone s f pa = true) :
    proceed s f = homeGo (homeward s f pa) f true := by
  simp only [goesAlone, Bool.and_eq_true, Bool.or_eq_true, Bool.not_eq_true'] at halone
  obtain ⟨⟨⟨hcut, horder⟩, hflag⟩, hanvil⟩ := halone
  simp only [proceed, hpool, hcut, horder, Bool.false_eq_true, if_false]
  cases hf : f.op.flag with
  | true =>
    obtain ⟨hblocked, hbar⟩ := hflag.resolve_left (by simp [hf])
    simp [homeward, hf, hblocked, flagGo_unbarred hbar]
  | false =>
    cases hcxl : cxlPort s f.req.port.val with
    | true => simp [homeward, hcxl]
    | false =>
      obtain ⟨hread, hatomic⟩ := hanvil.resolve_left (by simp [hf, hcxl])
      have hread' : ¬((f.op = .rd ∨ f.op = .rdShared) ∧ s.flag F.ANV_CTRL_RD_EN = true) := by
        simpa [or_iff_not_imp_left] using hread
      simp only [hread', homeward, hf, hcxl, Bool.not_false, Bool.and_true, Bool.false_eq_true, if_false]
      cases hat : f.op.atomic && s.flag F.ANV_CTRL_AT_EN with
      | false => rfl
      | true =>
        obtain ⟨hop, hen⟩ := Bool.and_eq_true_iff.1 hat
        obtain ⟨hjoin, hhot⟩ := hatomic.resolve_left (by simp [hop, hen])
        exact anvilAtomic_alone hjoin hhot

/-! ### The home (R88, R90, R175, R187) -/

/-- Does the partner of an UPGRADE share the line already, so that its reply carries no data? -/
def upgradesShared (s : State) (f : Flight) (pa : Nat) : Bool :=
  f.op = .upgrade && match dirEnt s (pa / 64) with
    | some e => e.st = .shared && e.shr.contains (f.req.port.val, f.req.partner.val)
    | none => false

/-- The flight as it is applied at its home. -/
def appliedFlight (s : State) (f : Flight) (pa : Nat) : Flight :=
  { f with pool := some pa, noData := upgradesShared (homeState s f pa) f pa }

section
variable (s : State) (f : Flight) (pool : Option Nat) (noData : Bool) (line : Nat)

/-- What the directory needs for a request does not depend on where its page lies or on what its reply will carry. -/
theorem needsWay_applied : needsWay s { f with pool := pool, noData := noData } line = needsWay s f line := rfl

theorem needSnoops_applied (e : DirE) : needSnoops s { f with pool := pool, noData := noData } line e = needSnoops s f line e := rfl

end

/-- A request in whose way nothing stands at its home is applied there and answered. -/
theorem homeGo_open {s : State} {f : Flight} {pa : Nat} (hpool : f.pool = some pa) (hdata : f.noData = false) (hopen : homeOpen s f pa) :
    homeGo (homeward s f pa) f true =
      finishHome (putFlight (homeState s f pa) (appliedFlight s f pa)) (appliedFlight s f pa) pa true := by
  obtain ⟨hloc, hdom, hrun, hrsv, hbusy, hsnoop⟩ := hopen
  unfold homeState at hrsv hbusy hsnoop
  simp only [homeGo, hpool, hloc, hdom, hrun, hrsv, hbusy, hdata, Bool.not_true, Bool.false_eq_true, if_false, Bool.false_or]
  refine (if_pos (List.isEmpty_iff.2 (List.filter_eq_nil_iff.2 fun l hl => ?_))).trans rfl
  have hl' := hsnoop l hl
  cases he : dirEnt ((linesOf pa (reqSize f.req)).foldl dirLook (homeward s f pa)) l with
  | none =>
    simp only [he] at hl'
    simp only [needsWay_applied, hl', Bool.false_eq_true, not_false_eq_true]
  | some e =>
    simp only [he] at hl'
    simp only [needSnoops_applied, hl', List.isEmpty_nil, Bool.not_true, Bool.false_eq_true, not_false_eq_true]

theorem finishHome_lone {s : State} {f : Flight} (hentry : f.entry = none) (pa : Nat) (fin : Bool) :
    finishHome s f pa fin = answer (applyAt s f pa).2 f (applyAt s f pa).1.code (applyAt s f pa).1.detail (applyAt s f pa).1.data := by
  simp only [finishHome, hentry, Option.bind_none]

/-! ### From arrival to reply -/

/-- An unhindered request is applied at its home in the row that brings it, and its reply carries what applying it gives. -/
theorem arrive_unhindered {s : State} {op : ROp} {r : Req} {pa : Nat} {f : Flight} {q : State} (h : Unhindered s op r pa f q) :
    arrive op r s = wake (noteLanes (answer (applyAt q f pa).2 f (applyAt q f pa).1.code (applyAt q f pa).1.detail (applyAt q f pa).1.data)
      r.port.val) := by
  obtain ⟨k, hport, htag, hhead, hcls, honce, hctx, htr, hwindow, hgrant, halone, hopen, rfl, rfl⟩ := h
  let b := picked (arrival op r s).2 (arrival op r s).1
  let g : Flight := { b.1 with pool := some pa }
  let u := translated b.2 g pa k
  have hlane := joinLane_atOnce _ _ honce
  have hforward : forward b.2 b.1 = proceed u g := forward_translated (f := b.1) hctx hcls htr hwindow hgrant
  have hproceed : proceed u g = homeGo (homeward u g pa) g true := proceed_alone rfl halone
  have hhome := homeGo_open (s := u) (f := g) rfl rfl hopen
  have hfinish := finishHome_lone (s := putFlight (homeState u g pa) (appliedFlight u g pa)) (f := appliedFlight u g pa) rfl pa true
  have hreply := hforward.trans (hproceed.trans (hhome.trans hfinish))
  exact (arrive_accepted hport htag hcls hhead).trans (congrArg wake (hlane.trans (congrArg (noteLanes · r.port.val) hreply)))

/-- Settles O15: an unhindered request goes from its arrival to its reply in one row, one at a port that is down leaves nothing, and one whose
header fails a check is answered with the check's code. -/
theorem partnerRequestsServed : Obligations.PartnerRequestsServed := by
  refine ⟨fun s r pa f q x hx h => ?_, fun s r x hx => ⟨fun hport => ?_, fun c hport htag hcode hhead => ?_⟩⟩
  · exact (exec_request hx r s).trans (congrArg Host.Outcome.next (arrive_unhindered h))
  · exact (exec_request hx r s).trans (congrArg Host.Outcome.next (arrive_down hport))
  · exact (exec_request hx r s).trans (congrArg Host.Outcome.next (arrive_refused hport htag hcode hhead))

end Sys2Proof.Machine
end

section
/-! SUPPORT. Contexts, segments and range invalidation (spec/03, R83 to R86, R93, R94, R99 to R103). -/

namespace Sys2Proof.Machine

open Sys2Proof

/-! ### Descriptors of the translation family -/

/-- The state in which a descriptor of the translation family starts its work. -/
abbrev xltStart (s : State) (d : Desc) : State := startState s d xltUnit

/-- Its job there. -/
abbrev xltJob (j : Job) : Job := started j xltUnit

theorem xltJob_ring (j : Job) : (xltJob j).ring = j.ring := rfl
theorem xltJob_phase (j : Job) : (xltJob j).phase = j.phase := rfl

section
variable {s : State} {d : Desc} {op : Nat} {j : Job}

theorem xltJob_words (h : Ready s d op xltUnit j) : (xltJob j).words = d.words := by
  obtain ⟨-, hwords, -⟩ := h
  exact hwords

theorem xltRun_ready (h : Ready s d op xltUnit j) (eff : State → Job → State) :
    xltRun op d s eff = .next (rowEnd s j (eff (xltStart s d) (xltJob j))) :=
  congrArg Host.Outcome.next (runDesc_ready h eff)

/-- A job that a row finishes, started in it or before, ends with its code. -/
theorem ends_rowEnd {t : State} {k : Job} (hfind : findJob s d.ring.val d.idx.val = some j) (ht : t.rings = s.rings) (hring : k.ring = j.ring)
    (hidx : k.idx = j.idx) (c : Code) : Ends (rowEnd s j (finishJob t k c)) d (endCode k c) := by
  obtain ⟨hjring, hjidx⟩ := findJob_ring hfind
  have hfind' : findJob t d.ring.val d.idx.val = some j := by
    unfold findJob
    rw [ht]
    exact hfind
  exact rowEnd_ends (ends_finish hfind' (hring.trans hjring) (hidx.trans hjidx) c 0)

theorem ends_xltJob (h : Ready s d op xltUnit j) {t : State} (ht : t.rings = s.rings) (c : Code) :
    Ends (rowEnd s j (finishJob t (xltJob j) c)) d (endCode j c) :=
  ends_rowEnd (k := xltJob j) h.1 ht rfl rfl c

/-- A row that only ends its descriptor leaves contexts, segments and invalidations. -/
theorem gives_ended (h : Ready s d op xltUnit j) {i : Instr} {c : Code}
    (he : exec i s = .next (rowEnd s j (finishJob (xltStart s d) (xltJob j) c))) :
    Gives i s fun u => u.xlt = s.xlt ∧ Ends u d (endCode j c) :=
  ⟨_, he, by simp, ends_xltJob h (startState_rings _ _ _) c⟩

end

theorem startState_ctxValid (s : State) (d : Desc) (u c : Nat) : ctxValid (startState s d u) c = ctxValid s c := by
  rw [ctxValid, startState_xlt, ctxValid]

theorem startState_domLive (s : State) (d : Desc) (u c : Nat) : domLive (startState s d u) c = domLive s c := by
  rw [domLive, startState_sec, domLive]

theorem startState_ctxRingsBusy (s : State) (d : Desc) (u c : Nat) : ctxRingsBusy (startState s d u) c = ctxRingsBusy s c := by
  simp only [ctxRingsBusy, State.ring, startState_rings]

theorem startState_jobInval (s : State) (d : Desc) (u : Nat) (j : Job) : jobInval (startState s d u) (started j u) = jobInval s j := by
  rw [jobInval, startState_xlt, jobInval, started]

/-! ### XLT_CTX_SET (R99, R101) -/

/-- The context that XLT_CTX_SET gives. -/
def ctxGiven (d : Desc) : Ctx :=
  { domain := dbits d.words 18 0 8, priv := dbits d.words 19 0 1 == 1, fresh := dbits d.words 19 1 1 == 1 }

/-- The state with a context made valid. -/
def withCtx (s : State) (c : Nat) (e : Ctx) : State :=
  { s with xlt := { s.xlt with ctxs := tabPut c e s.xlt.ctxs, corrupt := s.xlt.corrupt.filter fun x => x != .ctx c } }

@[simp] theorem withCtx_rings (s : State) (c : Nat) (e : Ctx) : (withCtx s c e).rings = s.rings := rfl
@[simp] theorem withCtx_store (s : State) (c : Nat) (e : Ctx) : (withCtx s c e).store = s.store := rfl
@[simp] theorem withCtx_ctxs (s : State) (c : Nat) (e : Ctx) : (withCtx s c e).xlt.ctxs = tabPut c e s.xlt.ctxs := rfl

section
variable {s : State} {d : Desc} {j : Job} (h : Ready s d 0x48 xltUnit j)
include h

theorem exec_xltCtxSet_zero (hc : dbits d.words 16 0 16 = 0) :
    exec (.xltCtxSet d) s = .next (rowEnd s j (finishJob (xltStart s d) (xltJob j) .denied)) := by
  simp only [exec, execXltCtxSet, xltRun_ready h, xltJob_words h, hc, if_true]

theorem exec_xltCtxSet_otherDomain (hc : dbits d.words 16 0 16 ≠ 0) (hvalid : ctxValid s (dbits d.words 16 0 16) = true)
    (hdom : ctxDomain s (dbits d.words 16 0 16) ≠ dbits d.words 18 0 8) :
    exec (.xltCtxSet d) s = .next (rowEnd s j (finishJob (xltStart s d) (xltJob j) .malformed)) := by
  simp only [exec, execXltCtxSet, xltRun_ready h, xltJob_words h, hc, startState_ctxValid, startState_ctxDomain, hvalid, hdom, ne_eq,
    not_false_eq_true, and_self, if_false, if_true]

section
variable (hc : dbits d.words 16 0 16 ≠ 0)
  (hdom : ctxValid s (dbits d.words 16 0 16) = false ∨ ctxDomain s (dbits d.words 16 0 16) = dbits d.words 18 0 8)
  (hlive : domLive s (dbits d.words 18 0 8) = true)
include hc hdom hlive

theorem exec_xltCtxSet_sets :
    exec (.xltCtxSet d) s = .next (rowEnd s j
      (finishJob (withCtx (xltStart s d) (dbits d.words 16 0 16) (ctxGiven d)) (xltJob j) .ok)) := by
  have hsame : ¬(ctxValid s (dbits d.words 16 0 16) = true ∧ ctxDomain s (dbits d.words 16 0 16) ≠ dbits d.words 18 0 8) := by
    rcases hdom with hf | he
    · simp [hf]
    · simp [he]
  simp only [exec, execXltCtxSet, xltRun_ready h, xltJob_words h, hc, startState_ctxValid, startState_ctxDomain, hsame, startState_domLive, hlive,
    Bool.not_true, Bool.false_eq_true, if_false, withCtx, ctxGiven]

theorem xltCtxSet_sets :
    Gives (.xltCtxSet d) s fun u =>
      tabGet? (dbits d.words 16 0 16) u.xlt.ctxs = some (ctxGiven d) ∧
      (∀ k : Nat, k ≠ dbits d.words 16 0 16 → tabGet? k u.xlt.ctxs = tabGet? k s.xlt.ctxs) ∧ u.store = s.store ∧
      Ends u d (endCode j .ok) := by
  refine ⟨_, exec_xltCtxSet_sets h hc hdom hlive, ?_, fun k hk => ?_, ?_,
    ends_xltJob h ((withCtx_rings _ _ _).trans (startState_rings _ _ _)) .ok⟩
  · simp
  · simp [tabGet?_tabPut_ne _ _ hk]
  · simp

end

end

/-! ### What a change of a segment leaves -/

/-- From `s` to `t` contexts, segments, their GENs and the range invalidations under way stay. -/
def SegsStay (s t : State) : Prop :=
  t.xlt.ctxs = s.xlt.ctxs ∧ t.xlt.segs = s.xlt.segs ∧ t.xlt.gens = s.xlt.gens ∧ t.xlt.invals = s.xlt.invals

namespace SegsStay

theorem of_xlt {s t : State} (h : t.xlt = s.xlt) : SegsStay s t := by simp [SegsStay, h]

theorem refl (s : State) : SegsStay s s := of_xlt rfl

theorem trans {s t u : State} (h : SegsStay s t) (h' : SegsStay t u) : SegsStay s u := by
  obtain ⟨hctxs, hsegs, hgens, hinvals⟩ := h
  obtain ⟨hctxs', hsegs', hgens', hinvals'⟩ := h'
  exact ⟨hctxs'.trans hctxs, hsegs'.trans hsegs, hgens'.trans hgens, hinvals'.trans hinvals⟩

theorem foldl {α : Type} {g : State → α → State} (hg : ∀ (t : State) (x : α), SegsStay t (g t x)) (l : List α) (s : State) :
    SegsStay s (l.foldl g s) :=
  List.foldlRecOn l g (refl s) fun _ ht _ _ => ht.trans (hg _ _)

theorem dropSeg (s : State) (k : Nat) : SegsStay s (dropSeg s k) := ⟨rfl, rfl, rfl, rfl⟩

theorem dropTlb (s : State) (ps : List Nat) : SegsStay s (dropTlb s ps) := ⟨rfl, rfl, rfl, rfl⟩

/-- A job that is cancelled leaves its waiter list and ends. -/
theorem cancelJob (s : State) (j : Job) (c : Code) : SegsStay s (cancelJob s j c) :=
  trans (t := dropWaiter s (.job j.ring j.idx)) ⟨rfl, rfl, rfl, rfl⟩ (of_xlt (finishJob_xlt _ _ _ _))

theorem narrow (s : State) (k : Nat) : SegsStay s (narrow s k) :=
  (foldl (fun t x => cancelJob t x .denied) _ s).trans ⟨rfl, rfl, rfl, rfl⟩

end SegsStay

/-- The range invalidation that a job starts (R102). -/
def newInval (s : State) (what : InvalFor) (j : Job) (counted pool : Bool) (c base len : Nat) : Inval :=
  { id := s.xlt.nextInval, what := what, ring := j.ring, idx := j.idx, waitOn := invalUnits s, start := s.now, counted := counted,
    pool := pool, ctx := c, base := base, len := len }

/-- Starting a range invalidation adds it to those under way, and leaves contexts, segments and GENs. -/
theorem startInval_xlt (s : State) (what : InvalFor) (j : Job) (counted pool : Bool) (c base len : Nat) :
    let u := (startInval s what j counted pool c base len).2
    u.xlt.ctxs = s.xlt.ctxs ∧ u.xlt.segs = s.xlt.segs ∧ u.xlt.gens = s.xlt.gens ∧
      u.xlt.invals = s.xlt.invals ++ [newInval s what j counted pool c base len] := by
  unfold startInval
  extract_lets id v dropped u
  have hdropped : SegsStay s dropped := by
    simp only [dropped]
    split
    · exact SegsStay.dropTlb _ _
    · refine SegsStay.foldl (fun t k => ?_) _ _
      split
      · split
        · exact SegsStay.dropSeg _ _
        · exact SegsStay.refl _
      · exact SegsStay.dropSeg _ _
  obtain ⟨hctxs, hsegs, hgens, hinvals⟩ := hdropped
  exact ⟨hctxs, hsegs, hgens, congrArg (· ++ [v]) hinvals⟩

theorem newInval_mem_startInval (s : State) (what : InvalFor) (j : Job) (counted pool : Bool) (c base len : Nat) :
    newInval s what j counted pool c base len ∈ (startInval s what j counted pool c base len).2.xlt.invals := by
  obtain ⟨-, -, -, hinvals⟩ := startInval_xlt s what j counted pool c base len
  rw [hinvals]
  exact List.mem_append_right _ List.mem_cons_self

section
variable (s : State) (k : Nat)

@[simp] theorem installSeg_invals (g : Option Seg) : (installSeg s k g).xlt.invals = s.xlt.invals := rfl
@[simp] theorem installSeg_segs_none : (installSeg s k none).xlt.segs = tabDel k s.xlt.segs := rfl
@[simp] theorem installSeg_segs_some (g : Seg) : (installSeg s k (some g)).xlt.segs = tabPut k g s.xlt.segs := rfl
@[simp] theorem installSeg_gens_some (g : Seg) :
    (installSeg s k (some g)).xlt.gens = tabPut k ((tabGet 0 k s.xlt.gens + 1) % 65536) s.xlt.gens := rfl

end

theorem clearSeg_of_none {s : State} {k : Nat} (j : Job) (h : tabGet? k s.xlt.segs = none) : clearSeg s j k = s := by
  simp only [clearSeg, h]

/-- Clearing a valid segment removes it and starts the invalidation of its range (R93, R94). -/
theorem clearSeg_valid {s : State} {k : Nat} {o : Seg} (j : Job) (h : tabGet? k s.xlt.segs = some o) :
    tabGet? k (clearSeg s j k).xlt.segs = none ∧
      newInval s .segment j true false (k / 16) o.vaBase (o.len * 65536) ∈ (clearSeg s j k).xlt.invals := by
  have hmem := newInval_mem_startInval s .segment j true false (k / 16) o.vaBase (o.len * 65536)
  obtain ⟨-, hsegs, -, hkept⟩ := SegsStay.narrow
    (installSeg (startInval s .segment j true false (k / 16) o.vaBase (o.len * 65536)).2 k none) k
  simp only [clearSeg, h, hsegs, hkept, hmem, installSeg_segs_none, installSeg_invals, tabGet?_tabDel_same, and_self]

/-! ### XLT_CTX_CLEAR (R99, R100) -/

/-- The state with a context cleared. -/
def withoutCtx (s : State) (c : Nat) : State := { s with xlt := { s.xlt with ctxs := tabDel c s.xlt.ctxs } }

@[simp] theorem withoutCtx_rings (s : State) (c : Nat) : (withoutCtx s c).rings = s.rings := rfl
@[simp] theorem withoutCtx_ctxs (s : State) (c : Nat) : (withoutCtx s c).xlt.ctxs = tabDel c s.xlt.ctxs := rfl

theorem foldl_clearSeg_of_none {s : State} (j : Job) {ks : List Nat} (h : ∀ k ∈ ks, tabGet? k s.xlt.segs = none) :
    ks.foldl (fun u k => clearSeg u j k) s = s :=
  List.foldlRecOn (motive := fun u => u = s) ks _ rfl fun _ hu k hk => by rw [hu, clearSeg_of_none j (h k hk)]

section
variable {s : State} {d : Desc} {j : Job} (h : Ready s d 0x49 xltUnit j) (hphase : j.phase = 0)
include h hphase

theorem exec_xltCtxClear_denied (hbad : dbits d.words 16 0 16 = 0 ∨ ctxRingsBusy s (dbits d.words 16 0 16) = true ∨
      ctxValid s (dbits d.words 16 0 16) = false) :
    exec (.xltCtxClear d) s = .next (rowEnd s j (finishJob (xltStart s d) (xltJob j) .denied)) := by
  simp only [exec, execXltCtxClear, xltRun_ready h, xltJob_words h, xltJob_phase, hphase, startState_ctxRingsBusy, startState_ctxValid,
    Bool.not_eq_true', hbad, if_true]

section
variable (hc : dbits d.words 16 0 16 ≠ 0) (hrings : ctxRingsBusy s (dbits d.words 16 0 16) = false)
  (hvalid : ctxValid s (dbits d.words 16 0 16) = true)
  (hsegs : ∀ k ∈ span (dbits d.words 16 0 16 * 16) 16, tabGet? k s.xlt.segs = none) (hinval : jobInval s j = false)
  (huse : ∀ k ∈ span (dbits d.words 16 0 16 * 16) 16, segInUse (xltStart s d) k (xltJob j) = false)
include hc hrings hvalid hsegs hinval huse

/-- A context with no segment, no ring in use and no work under way is cleared at once. -/
theorem exec_xltCtxClear_clears :
    exec (.xltCtxClear d) s = .next (rowEnd s j (finishJob (withoutCtx (xltStart s d) (dbits d.words 16 0 16)) (xltJob j) .ok)) := by
  have hsegs' : ∀ k ∈ span (dbits d.words 16 0 16 * 16) 16, tabGet? k (xltStart s d).xlt.segs = none := by simpa using hsegs
  have hidle : ((span (dbits d.words 16 0 16 * 16) 16).any fun k => segInUse (xltStart s d) k (xltJob j)) = false :=
    List.any_eq_false.2 fun k hk => by simp [huse k hk]
  simp only [exec, execXltCtxClear, xltRun_ready h, xltJob_words h, xltJob_phase, hphase, hc, startState_ctxRingsBusy, hrings,
    startState_ctxValid, hvalid, foldl_clearSeg_of_none _ hsegs', startState_jobInval, hinval, hidle,
    Bool.not_true, Bool.false_eq_true, or_self, if_false, if_true, withoutCtx]

theorem xltCtxClear_clears :
    Gives (.xltCtxClear d) s fun u =>
      ctxValid u (dbits d.words 16 0 16) = false ∧ (∀ k : Nat, k ≠ dbits d.words 16 0 16 → ctxValid u k = ctxValid s k) ∧
      Ends u d (endCode j .ok) := by
  refine ⟨_, exec_xltCtxClear_clears h hphase hc hrings hvalid hsegs hinval huse, ?_, fun k hk => ?_,
    ends_xltJob h ((withoutCtx_rings _ _).trans (startState_rings _ _ _)) .ok⟩
  · simp [ctxValid, tabHas]
  · simp [ctxValid, tabHas, tabGet?_tabDel_ne _ hk]

end

end

/-! ### XLT_SEG_SET (R86, R92 to R94, R101) -/

/-- What a change of segment `k` of context `c` to `g` leaves, where the segment was `o`: `g` with GEN one higher, and the range invalidation of
the old range. -/
theorem replaced_xlt (s : State) (j : Job) (c k : Nat) (o g : Seg) {u : State}
    (hu : SegsStay (installSeg (startInval s .segment j true false c o.vaBase (o.len * 65536)).2 k (some g)) u) :
    tabGet? k u.xlt.segs = some g ∧ tabGet 0 k u.xlt.gens = (tabGet 0 k s.xlt.gens + 1) % 65536 ∧
      newInval s .segment j true false c o.vaBase (o.len * 65536) ∈ u.xlt.invals := by
  obtain ⟨-, -, hgens, -⟩ := startInval_xlt s .segment j true false c o.vaBase (o.len * 65536)
  have hmem := newInval_mem_startInval s .segment j true false c o.vaBase (o.len * 65536)
  obtain ⟨-, husegs, hugens, hkept⟩ := hu
  simp only [husegs, hugens, hkept, hgens, hmem, installSeg_segs_some, installSeg_gens_some, installSeg_invals, tabGet?_tabPut_same,
    tabGet_tabPut_same, and_self]

/-- The segment that a descriptor names, as context × 16 + segment. -/
abbrev segKey (d : Desc) : Nat := dbits d.words 16 0 16 * 16 + dbits d.words 18 0 4

/-- The bytes of the segment entry that XLT_SEG_SET reads, and the state after the read. -/
abbrev entryRead (s1 : State) (d : Desc) (j : Job) : List Byte × State := readVa s1 (ringCtx j.ring) (dbits d.words 24 0 64) 64

/-- The segment that the entry holds. -/
abbrev entrySeg (s1 : State) (d : Desc) (j : Job) : Seg := segOf (word (entryRead s1 d j).1)

/-- An XLT_SEG_SET passes every check of R101, its entry being read in the state `s1`. -/
structure SegSetPasses (s s1 : State) (d : Desc) (j : Job) : Prop where
  ctx : dbits d.words 16 0 16 ≠ 0
  valid : ctxValid s (dbits d.words 16 0 16) = true
  ready : prepare (xltStart s d) (xltJob j) xltUnit [⟨dbits d.words 24 0 64, 64, .rd⟩] = (true, s1)
  clean : poisonVa s1 (ringCtx j.ring) (dbits d.words 24 0 64) 64 = false
  paired : pairedOk (entryRead s1 d j).1 = true
  value : segValueOk (word (entryRead s1 d j).1) = true
  apart : overlapSeg (entryRead s1 d j).2 (dbits d.words 16 0 16) (dbits d.words 18 0 4) (entrySeg s1 d j) = none

section
variable {s s1 : State} {d : Desc} {j : Job} (h : Ready s d 0x4A xltUnit j) (hphase : j.phase = 0) (hp : SegSetPasses s s1 d j)
include h hphase hp

/-- A segment that was not valid is set at once. -/
theorem exec_xltSegSet_new (hk : tabGet? (segKey d) (entryRead s1 d j).2.xlt.segs = none) :
    exec (.xltSegSet d) s =
      .next (rowEnd s j (finishJob (installSeg (entryRead s1 d j).2 (segKey d) (some (entrySeg s1 d j))) (xltJob j) .ok)) := by
  obtain ⟨hc, hvalid, hready, hclean, hpaired, hvalue, hapart⟩ := hp
  simp only [exec, execXltSegSet, xltRun_ready h, xltJob_words h, xltJob_phase, hphase, xltJob_ring, hc, startState_ctxValid, hvalid, hready,
    hclean, hpaired, hvalue, hapart, hk, zero_ne_one, Bool.not_true, Bool.false_eq_true, or_self, if_false]

/-- One that replaces a valid segment leaves the descriptor waiting for the range invalidation of the old range. -/
theorem exec_xltSegSet_replaces {o : Seg} (hk : tabGet? (segKey d) (entryRead s1 d j).2.xlt.segs = some o) :
    ∃ (u : State) (k : Job), exec (.xltSegSet d) s = .next (rowEnd s j (putJob u k)) ∧
      SegsStay (installSeg (startInval (entryRead s1 d j).2 .segment (xltJob j) true false (dbits d.words 16 0 16) o.vaBase (o.len * 65536)).2
        (segKey d) (some (entrySeg s1 d j))) u := by
  obtain ⟨hc, hvalid, hready, hclean, hpaired, hvalue, hapart⟩ := hp
  simp only [exec, execXltSegSet, xltRun_ready h, xltJob_words h, xltJob_phase, hphase, xltJob_ring, hc, startState_ctxValid, hvalid, hready,
    hclean, hpaired, hvalue, hapart, hk, zero_ne_one, Bool.not_true, Bool.false_eq_true, or_self, if_false]
  refine ⟨_, _, rfl, ?_⟩
  split
  · exact SegsStay.refl _
  · exact SegsStay.narrow _ _

theorem xltSegSet_new (hk : tabGet? (segKey d) (entryRead s1 d j).2.xlt.segs = none) :
    Gives (.xltSegSet d) s fun u =>
      tabGet? (segKey d) u.xlt.segs = some (entrySeg s1 d j) ∧
      tabGet 0 (segKey d) u.xlt.gens = (tabGet 0 (segKey d) (entryRead s1 d j).2.xlt.gens + 1) % 65536 := by
  refine ⟨_, exec_xltSegSet_new h hphase hp hk, ?_⟩
  simp only [rowEnd_xlt, finishJob_xlt, installSeg_segs_some, installSeg_gens_some, tabGet?_tabPut_same, tabGet_tabPut_same, and_self]

theorem xltSegSet_replaces {o : Seg} (hk : tabGet? (segKey d) (entryRead s1 d j).2.xlt.segs = some o) :
    Gives (.xltSegSet d) s fun u =>
      tabGet? (segKey d) u.xlt.segs = some (entrySeg s1 d j) ∧
      tabGet 0 (segKey d) u.xlt.gens = (tabGet 0 (segKey d) (entryRead s1 d j).2.xlt.gens + 1) % 65536 ∧
      ∃ v ∈ u.xlt.invals, v.what = .segment ∧ v.ctx = dbits d.words 16 0 16 ∧ v.base = o.vaBase ∧ v.len = o.len * 65536 := by
  obtain ⟨u, k, he, hu⟩ := exec_xltSegSet_replaces h hphase hp hk
  obtain ⟨hseg, hgen, hinval⟩ := replaced_xlt _ _ _ _ _ _ hu
  exact ⟨_, he, hseg, hgen, _, hinval, rfl, rfl, rfl, rfl⟩

end

/-! ### XLT_SEG_CLEAR (R93, R94, R101) -/

section
variable {s : State} {d : Desc} {j : Job} (h : Ready s d 0x4B xltUnit j) (hphase : j.phase = 0)
include h hphase

theorem exec_xltSegClear_denied (hbad : dbits d.words 16 0 16 = 0 ∨ ctxValid s (dbits d.words 16 0 16) = false) :
    exec (.xltSegClear d) s = .next (rowEnd s j (finishJob (xltStart s d) (xltJob j) .denied)) := by
  simp only [exec, execXltSegClear, xltRun_ready h, xltJob_words h, xltJob_phase, hphase, startState_ctxValid, Bool.not_eq_true', hbad, if_true]

section
variable (hc : dbits d.words 16 0 16 ≠ 0) (hvalid : ctxValid s (dbits d.words 16 0 16) = true)
include hc hvalid

theorem exec_xltSegClear_absent (hk : tabGet? (segKey d) s.xlt.segs = none) :
    exec (.xltSegClear d) s = .next (rowEnd s j (finishJob (xltStart s d) (xltJob j) .ok)) := by
  simp only [exec, execXltSegClear, xltRun_ready h, xltJob_words h, xltJob_phase, hphase, hc, startState_ctxValid, hvalid, startState_xlt, tabHas, hk,
    Option.isSome_none, Bool.not_true, Bool.not_false, Bool.false_eq_true, or_self, if_false, if_true]

theorem exec_xltSegClear_clears {o : Seg} (hk : tabGet? (segKey d) s.xlt.segs = some o) :
    exec (.xltSegClear d) s = .next (rowEnd s j
      (putJob (clearSeg (xltStart s d) (xltJob j) (segKey d)) { xltJob j with st := .waiting, phase := 1 })) := by
  simp only [exec, execXltSegClear, xltRun_ready h, xltJob_words h, xltJob_phase, hphase, hc, startState_ctxValid, hvalid, startState_xlt, tabHas, hk,
    Option.isSome_some, Bool.not_true, Bool.false_eq_true, or_self, if_false, if_true]

theorem xltSegClear_clears {o : Seg} (hk : tabGet? (segKey d) s.xlt.segs = some o) :
    Gives (.xltSegClear d) s fun u =>
      tabGet? (segKey d) u.xlt.segs = none ∧
      ∃ v ∈ u.xlt.invals, v.what = .segment ∧ v.ctx = segKey d / 16 ∧ v.base = o.vaBase ∧ v.len = o.len * 65536 := by
  have hk' : tabGet? (segKey d) (xltStart s d).xlt.segs = some o := by rwa [startState_xlt]
  obtain ⟨hseg, hinval⟩ := clearSeg_valid (xltJob j) hk'
  exact ⟨_, exec_xltSegClear_clears h hphase hc hvalid hk, hseg, _, hinval, rfl, rfl, rfl, rfl⟩

end

end

/-! ### XLT_INVAL (R102) -/

theorem startState_invalUnits (s : State) (d : Desc) (u : Nat) : invalUnits (startState s d u) = invalUnits s := by
  simp only [invalUnits, State.get_of_regs (startState_regs s d u)]

section
variable {s : State} {d : Desc} {j : Job}

theorem exec_xltInval_starts (h : Ready s d 0x4C xltUnit j) (hphase : j.phase = 0)
    (hrange : dbits d.words 18 0 1 = 1 ∨ (dbits d.words 16 0 16 ≠ 0 ∧ ctxValid s (dbits d.words 16 0 16) = true)) :
    exec (.xltInval d) s = .next (rowEnd s j (putJob (startInval (xltStart s d) .xltInval (xltJob j) true (dbits d.words 18 0 1 == 1)
      (dbits d.words 16 0 16) (dbits d.words 24 0 64) (dbits d.words 32 0 64)).2 { xltJob j with st := .waiting, phase := 1 })) := by
  have hgo : (!(dbits d.words 18 0 1 == 1) && (dbits d.words 16 0 16 == 0 || !ctxValid s (dbits d.words 16 0 16))) = false := by
    rcases hrange with hpool | ⟨hc, hvalid⟩
    · simp [hpool]
    · simp [hc, hvalid]
  simp only [exec, execXltInval, xltRun_ready h, xltJob_words h, xltJob_phase, hphase, startState_ctxValid, hgo, Bool.false_eq_true, if_false,
    if_true]

theorem xltInval_starts (h : Ready s d 0x4C xltUnit j) (hphase : j.phase = 0)
    (hrange : dbits d.words 18 0 1 = 1 ∨ (dbits d.words 16 0 16 ≠ 0 ∧ ctxValid s (dbits d.words 16 0 16) = true)) :
    Gives (.xltInval d) s fun u =>
      ∃ v ∈ u.xlt.invals, v.what = .xltInval ∧ v.counted = true ∧ v.waitOn = invalUnits s ∧ v.base = dbits d.words 24 0 64 ∧
        v.len = dbits d.words 32 0 64 := by
  have hmem := newInval_mem_startInval (xltStart s d) .xltInval (xltJob j) true (dbits d.words 18 0 1 == 1) (dbits d.words 16 0 16)
    (dbits d.words 24 0 64) (dbits d.words 32 0 64)
  exact ⟨_, exec_xltInval_starts h hphase hrange, _, hmem, rfl, rfl, startState_invalUnits s d xltUnit, rfl, rfl⟩

section
variable (h : Going s d 0x4C xltUnit j) (hphase : j.phase = 1)
include h hphase

theorem xltInval_ends (hdone : jobInval s j = false) : Gives (.xltInval d) s fun u => Ends u d (endCode j .ok) := by
  have hdone' : jobInval (s.upto d.t) j = false := hdone
  have he : exec (.xltInval d) s = .next (rowEnd s j (finishJob (s.upto d.t) j .ok)) := by
    simp only [exec, execXltInval, xltRun, runDesc_going h, hphase, one_ne_zero, hdone', Bool.false_eq_true, if_false]
  exact ⟨_, he, ends_rowEnd (t := s.upto d.t) h.1 rfl rfl rfl .ok⟩

theorem xltInval_waits (hopen : jobInval s j = true) : Gives (.xltInval d) s fun u => u.xlt = s.xlt := by
  have hopen' : jobInval (s.upto d.t) j = true := hopen
  have he : exec (.xltInval d) s = .next (rowEnd s j (putJob (s.upto d.t) { j with st := .waiting })) := by
    simp only [exec, execXltInval, xltRun, runDesc_going h, hphase, one_ne_zero, hopen', if_false, if_true]
  exact ⟨_, he, rfl⟩

end

end

/-! ### INVAL_ACK (R102, R103) -/

section
variable {s : State} {id : Nat} {unit : Fin 256} {t : Nat} {v : Inval} (hv : s.xlt.invals.find? (fun x => x.id = id) = some v)
include hv

theorem exec_invalAck_taken (hwait : v.waitOn.contains unit.val = true) (hhome : unhomed s v unit.val = false) :
    exec (.invalAck id unit t) s = .next (invalAcked (s.upto t) v unit.val) := by
  have hhome' : unhomed (s.upto t) v unit.val = false := hhome
  simp only [exec, execInvalAck, State.upto_xlt, hv, hwait, hhome', Bool.not_false, Bool.and_self, if_true]

theorem exec_invalAck_ignored (hbad : v.waitOn.contains unit.val = false ∨ unhomed s v unit.val = true) :
    exec (.invalAck id unit t) s = .next (s.upto t) := by
  have hbad' : (v.waitOn.contains unit.val && !unhomed (s.upto t) v unit.val) = false := by
    rcases hbad with hwait | hhome
    · rw [hwait, Bool.false_and]
    · rw [show unhomed (s.upto t) v unit.val = true from hhome, Bool.not_true, Bool.and_false]
  simp only [exec, execInvalAck, State.upto_xlt, hv, hbad', Bool.false_eq_true, if_false]

end

/-- While other units are still to acknowledge, the unit leaves the list. -/
theorem invalAcked_more {s : State} {v : Inval} {unit : Nat} (hleft : v.waitOn.filter (· ≠ unit) ≠ []) :
    (invalAcked s v unit).xlt.invals =
        s.xlt.invals.map (fun x => if x.id = v.id then { v with waitOn := v.waitOn.filter (· ≠ unit) } else x) ∧
      (invalAcked s v unit).regs = s.regs := by
  simp only [invalAcked, List.isEmpty_iff, hleft, if_false, and_self]

/-- The last acknowledgement ends the invalidation, and counts it if it counts. -/
theorem invalAcked_last {s : State} {v : Inval} {unit : Nat} (hleft : v.waitOn.filter (· ≠ unit) = []) :
    (invalAcked s v unit).xlt.invals = s.xlt.invals.filter (fun x => x.id ≠ v.id) ∧
      (invalAcked s v unit).get F.XLT_INVAL_STATUS_COUNT =
        if v.counted then (s.get F.XLT_INVAL_STATUS_COUNT + 1) % 2 ^ F.XLT_INVAL_STATUS_COUNT.wid else s.get F.XLT_INVAL_STATUS_COUNT := by
  simp only [invalAcked, hleft, List.isEmpty_nil, if_true]
  cases v.counted with
  | false => exact ⟨rfl, rfl⟩
  | true => exact ⟨rfl, (State.get_set_ne _ _ (by decide)).trans (State.get_bump_same _ _ _)⟩

/-- Settles O12: each descriptor of contexts, segments and range invalidation, and each acknowledgement, in the cases that the statement names. -/
theorem contextsAndSegmentsSet : Obligations.ContextsAndSegmentsSet := by
  refine ⟨fun s d j h => ⟨xltCtxSet_sets h, fun hc => gives_ended h (exec_xltCtxSet_zero h hc),
      fun hc hvalid hdom => gives_ended h (exec_xltCtxSet_otherDomain h hc hvalid hdom)⟩,
    fun s d j h hphase => ⟨xltCtxClear_clears h hphase, fun hbad => gives_ended h (exec_xltCtxClear_denied h hphase hbad)⟩,
    fun s s1 d j h hphase hc hvalid hready hclean hpaired hvalue hapart => ?_,
    fun s d j => ⟨fun h hphase => ⟨fun hc hvalid o hk => xltSegClear_clears h hphase hc hvalid hk,
        fun hc hvalid hk => gives_ended h (exec_xltSegClear_absent h hphase hc hvalid hk),
        fun hbad => gives_ended h (exec_xltSegClear_denied h hphase hbad)⟩,
      xltInval_starts, fun h hphase => ⟨xltInval_ends h hphase, xltInval_waits h hphase⟩⟩,
    fun s id unit t v hv => ?_⟩
  · have hp : SegSetPasses s s1 d j := ⟨hc, hvalid, hready, hclean, hpaired, hvalue, hapart⟩
    exact ⟨xltSegSet_new h hphase hp, fun o hk => xltSegSet_replaces h hphase hp hk⟩
  · obtain rfl : v.id = id := by simpa using List.find?_some hv
    exact ⟨fun hwait hhome hleft => ⟨_, exec_invalAck_taken hv hwait hhome, invalAcked_more hleft⟩,
      fun hwait hhome hleft => ⟨_, exec_invalAck_taken hv hwait hhome, invalAcked_last hleft⟩, exec_invalAck_ignored hv⟩

end Sys2Proof.Machine
end

section
/-! SUPPORT. Requests that wait (spec/04 and spec/05, R135, R137, R147, R150, R152, R168, R184, R188, R189, R515, R516): what each event of the
Anvil, the ordering slice, a message's tail and the directory lets go on. Each event looks at the state at its own time, `s.upto t`, in which
only SYS_TIME has moved on; the lemmas speak of that state. -/

namespace Sys2Proof.Machine

open Sys2Proof

section
variable {s : State} {t : Nat}

/-! ### Combining entries (R147, R150, R152) -/

section
variable {id : Nat} {e : Entry} {f : Flight} (hentry : entryOf (s.upto t) id = some e)
include hentry

/-- An open atomic entry whose window has ended closes and is dispatched to the home. -/
theorem atomicWindowExpiry_dispatches (hatomic : e.atomic = true) (hopen : e.closed = false)
    (hdue : (s.upto t).get F.ANV_CTRL_AT_WINDOW ≤ 2 * ((s.upto t).now - e.start))
    (hflight : (s.upto t).fab.flights.find? (fun x => x.entry = some id) = some f) :
    exec (.atomicWindowExpiry id t) s = .next (wake (homeGo ((renewHot (putEntry (s.upto t) { e with closed := true }) (e.pool / 64)).bump
      (F.ANV_K_AT_COMB_DISPATCHED f.req.port.val)) f true)) := by
  have hgo : (!e.atomic || e.closed || decide (2 * ((s.upto t).now - e.start) < (s.upto t).get F.ANV_CTRL_AT_WINDOW)) = false := by
    rw [hatomic, hopen, decide_eq_false (Nat.not_lt.2 hdue)]
    rfl
  simp only [exec, execAtomicWindowExpiry, hentry, hgo, hflight, Bool.false_eq_true, if_false]

/-- The data of a read entry that waits for no reservation serves its opener's access at the home. -/
theorem readEntryDataReturn_serves (hread : e.atomic = false) (hrsv : e.resv = false)
    (hflight : (s.upto t).fab.flights.find? (fun x => x.entry = some id && x.stage = .anvil id) = some f) :
    exec (.readEntryDataReturn id t) s = .next (wake (homeGo (s.upto t) f true)) := by
  simp only [exec, execReadEntryDataReturn, hflight, hentry, hread, hrsv, Bool.or_self, Bool.false_eq_true, if_false]

/-- An entry that was answered RETRY_RSV closes, and its access goes to the home again. -/
theorem anvilRsvReissue_reissues (hrsv : e.resv = true) (hflight : (s.upto t).fab.flights.find? (fun x => x.entry = some id) = some f) :
    exec (.anvilRsvReissue id t) s = .next (wake (homeGo (putEntry (s.upto t) { e with resv := false, closed := true }) f true)) := by
  simp only [exec, execAnvilRsvReissue, hentry, hrsv, hflight, Bool.not_true, Bool.false_eq_true, if_false]

end

/-! ### Held flag stores (R135, R137) -/

/-- A flag store that a failed write of its source bars is answered with that write's code and TAG. -/
theorem flagGo_barred {f : Flight} {x : Failed} (hbar : flagBar s f = some x) :
    flagGo s f = answer (s.bumpSat (F.ANV_K_FLAG_FAILED f.req.port.val)) f x.code x.tag [] := by
  rw [flagGo, hbar]

section
variable {p : Fin 6} {g : Fin 8192} {f : Flight} (hf : flightOf (s.upto t) p.val g.val = some f)
include hf

/-- A held flag store stays held while an earlier write is open; after that it goes on, and its wait counts for MAX_NS. -/
theorem flagRelease_held (hheld : f.stage = .held) :
    exec (.flagRelease p g t) s = .next (if flagBlocked (s.upto t) f = true then s.upto t
      else wake (flagGo ((s.upto t).raiseTo (F.ANV_K_FLAG_MAX_NS p.val) ((s.upto t).now - f.since)) f)) := by
  simp only [exec, execFlagRelease, hf, hheld, ne_eq, not_true_eq_false, false_or]

/-! ### The tail of a message that was cut through (R515, R516) -/

/-- The flight goes on as one whose message has come whole. -/
theorem tailStatus_good (htail : f.stage = .tail) {pa : Nat} (hpool : f.pool = some pa) (hwindow : inWindow pa = false) :
    exec (.tailStatus p g .good t) s =
      .next (wake (proceed (putFlight (s.upto t) { f with req := { f.req with cut := false } })
        { f with req := { f.req with cut := false } })) := by
  simp only [exec, execTailStatus, hf, htail, hpool, hwindow, ne_eq, not_true_eq_false, Bool.false_eq_true, if_false]

theorem tailStatus_poisoned (htail : f.stage = .tail) : exec (.tailStatus p g .poisoned t) s =
    .next (wake (answerCode ((s.upto t).bumpSat (F.SCH_K_STATUS_TAIL_POISONED p.val)) f .poison)) := by
  simp only [exec, execTailStatus, hf, htail, ne_eq, not_true_eq_false, if_false]

theorem tailStatus_replayed (htail : f.stage = .tail) : exec (.tailStatus p g .replayed t) s =
    .next (putFlight ((s.upto t).bumpSat (F.SCH_K_STATUS_TAIL_REPLAYED p.val)) { f with stage := .replay }) := by
  simp only [exec, execTailStatus, hf, htail, ne_eq, not_true_eq_false, if_false]

end

/-! ### Holds of owners and reservations (R184, R189) -/

/-- What waits for a line goes on once the hold of its owner has run out. -/
theorem holdExpiry_entry {line : Fin (2 ^ 41)} {e : DirE} (he : dirEnt (s.upto t) line.val = some e) :
    exec (.holdExpiry line t) s = .next (if holdRuns (s.upto t) line.val e = true then s.upto t else wake (s.upto t)) := by
  simp only [exec, execHoldExpiry, he]

/-- A reservation that has stood for RSV_TIMEOUT_US is dropped and counted in EXPIRED; a younger one stays. -/
theorem reservationExpiry_found {p : Fin 6} {latency : Bool} {k : Fin 64} {r : Rsv}
    (hr : (s.upto t).dir.rsvs.find? (fun r => r.port = p.val && r.cls = (if latency then 2 else 3) && r.credit = k.val) = some r) :
    exec (.reservationExpiry p latency k t) s = .next
      (if (s.upto t).now < r.made + 1000 * (s.upto t).get (F.DIR_S_RECALL_CFG_RSV_TIMEOUT_US (lineHome (s.upto t) r.line)) then s.upto t
       else wake ({ s.upto t with dir := { (s.upto t).dir with rsvs := (s.upto t).dir.rsvs.filter fun x => x != r } }.bumpSat
         (F.DIR_S_RETRY_EXPIRED (lineHome (s.upto t) r.line)))) := by
  simp only [exec, execReservationExpiry, hr]

/-! ### Pending buffers (R188) -/

/-- The requests that wait at their ports for a slice's pending buffer. -/
noncomputable def waitingAtPort (s : State) (n : Nat) : List Flight :=
  s.fab.flights.filter fun f => f.stage = .atPort && match f.pool with | some a => lineHome s (a / 64) = n | none => false

/-- The requests enter the pending buffer in reservation order while it has room. -/
theorem pendingBufferRetry_eq (n : Fin 4) :
    exec (.pendingBufferRetry n t) s = .next (wake ((sortBy (·.order) (waitingAtPort (s.upto t) n.val)).foldl
      (fun s f => if pendingOf s n.val < 1024 then putFlight s { f with stage := .pending } else s) (s.upto t))) := rfl

theorem sortBy_singleton (k : Flight → Nat) (f : Flight) : sortBy k [f] = [f] := rfl

/-- The only request that waits enters the buffer. -/
theorem pendingBufferRetry_one {n : Fin 4} {f : Flight} (hone : waitingAtPort (s.upto t) n.val = [f])
    (hroom : pendingOf (s.upto t) n.val < 1024) :
    exec (.pendingBufferRetry n t) s = .next (wake (putFlight (s.upto t) { f with stage := .pending })) := by
  rw [pendingBufferRetry_eq, hone, sortBy_singleton, List.foldl_cons, List.foldl_nil, if_pos hroom]

end

/-- Settles O18: each event that ends a wait, in the case that the statement names. The sweep of R168 is the statement's own map of the
directory's entries. -/
theorem requestsWaitAndGoOn : Obligations.RequestsWaitAndGoOn := by
  refine ⟨fun s id t e f hentry => ⟨atomicWindowExpiry_dispatches hentry, readEntryDataReturn_serves hentry,
      anvilRsvReissue_reissues hentry⟩,
    fun s p g t f hf hheld => ⟨fun hblocked => ?_, fun hfree hbar => ?_, fun x hfree hbar => ?_⟩,
    fun s p g t pa f hf htail => ⟨tailStatus_good hf htail, tailStatus_poisoned hf htail, tailStatus_replayed hf htail⟩,
    fun s t => ⟨fun line e he hover => ?_, fun line e he hruns => ?_, fun n => rfl⟩,
    fun s t => ⟨fun p latency k r hr => ⟨fun hyoung => ?_, fun hdue => ?_⟩, fun n f => pendingBufferRetry_one⟩⟩
  · exact (flagRelease_held hf hheld).trans (congrArg Host.Outcome.next (if_pos hblocked))
  · exact (flagRelease_held hf hheld).trans (congrArg Host.Outcome.next ((if_neg (Bool.eq_false_iff.1 hfree)).trans
      (congrArg wake (flagGo_unbarred (Option.isNone_iff_eq_none.2 hbar)))))
  · exact (flagRelease_held hf hheld).trans (congrArg Host.Outcome.next ((if_neg (Bool.eq_false_iff.1 hfree)).trans
      (congrArg wake (flagGo_barred hbar))))
  · exact (holdExpiry_entry he).trans (congrArg Host.Outcome.next (if_neg (Bool.eq_false_iff.1 hover)))
  · exact (holdExpiry_entry he).trans (congrArg Host.Outcome.next (if_pos hruns))
  · exact (reservationExpiry_found hr).trans (congrArg Host.Outcome.next (if_pos hyoung))
  · exact (reservationExpiry_found hr).trans (congrArg Host.Outcome.next (if_neg (Nat.not_lt.2 hdue)))

end Sys2Proof.Machine
end

section
/-! SUPPORT. Tiles and their flags (spec/07, R275): what storing a tile and setting its flags leave, and what a sector sub-slot that takes
effect does to each tile (R324). -/

namespace Sys2Proof.Machine

open Sys2Proof

/-! ### States that differ in their fields alone -/

/-- Two states that differ in their fields alone agree in whatever no field is part of. -/
theorem SameButFields.map {α : Type} {s t : State} (h : SameButFields s t) (P : State → α) (hP : ∀ u : State, P { u with regs := [] } = P u) :
    P t = P s := (hP t).symm.trans ((congrArg P h).trans (hP s))

theorem OnlyFields.trans {ks : List Nat} {s t u : State} (h : OnlyFields ks s t) (h' : OnlyFields ks t u) : OnlyFields ks s u :=
  ⟨fun f hf => (h'.1 f hf).trans (h.1 f hf), h'.2.trans h.2⟩

theorem OnlyFields.mono {ks ls : List Nat} {s t : State} (h : OnlyFields ks s t) (hsub : ∀ k ∈ ks, k ∈ ls) : OnlyFields ls s t :=
  ⟨fun f hf => h.1 f fun hk => hf (hsub _ hk), h.2⟩

/-- What a field reads after a write of some field depends on what it read before alone. -/
theorem State.get_set_congr {s t : State} {y : Fld} (h : s.get y = t.get y) (f : Fld) (v : Nat) : (s.set f v).get y = (t.set f v).get y := by
  by_cases hk : y.key = f.key
  · simp only [State.get, State.set, hk, tabGet, tabPutD]
    split <;> simp
  · rw [State.get_set_ne _ _ hk, State.get_set_ne _ _ hk, h]

/-! ### Storing a tile -/

section
variable (s : State) (g : Nat) (t : Tile)

@[simp] theorem tile_putTile_same : tile (putTile s g t) g = t := tabGet_tabPut_same _ _ _ _
theorem tile_putTile_ne {h : Nat} (hne : h ≠ g) : tile (putTile s g t) h = tile s h := tabGet_tabPut_ne _ _ hne
@[simp] theorem putTile_get (f : Fld) : (putTile s g t).get f = s.get f := rfl
@[simp] theorem putTile_store : (putTile s g t).store = s.store := rfl
@[simp] theorem putTile_rings : (putTile s g t).rings = s.rings := rfl
@[simp] theorem putTile_kerns : (putTile s g t).plane.kerns = s.plane.kerns := rfl
@[simp] theorem putTile_kcopies : (putTile s g t).plane.kcopies = s.plane.kcopies := rfl
@[simp] theorem putTile_active : (putTile s g t).plane.active = s.plane.active := rfl

end

/-! ### Setting the flags of a tile -/

theorem Fld.key_div {f : Fld} (h : f.lo.blt 64 = true) : f.key / 64 = f.off := by
  have : f.lo < 64 := by simpa using h
  simp only [Fld.key]
  omega

/-- The flags of a tile lie in its own TP_T_FLAGS. -/
theorem key_of_mem_tileFlags {f : Fld} {g : Nat} (h : f ∈ tileFlags g) : f.key / 64 = 0x31008 + 0x40 * g := by
  simp only [tileFlags, List.mem_cons, List.not_mem_nil, or_false] at h
  rcases h with rfl | rfl | rfl | rfl | rfl | rfl
  all_goals exact Fld.key_div rfl

theorem tile_eq_of_key_mem {f : Fld} {g h : Nat} (hf : f ∈ tileFlags g) (hk : f.key ∈ (tileFlags h).map Fld.key) : g = h := by
  obtain ⟨x, hx, he⟩ := List.mem_map.1 hk
  have := key_of_mem_tileFlags hf
  have := key_of_mem_tileFlags hx
  omega

section
variable (s : State) (k : Kern) (g : Nat) (f : TFlags)

theorem setTFlags_onlyFields : OnlyFields ((tileFlags g).map Fld.key) s (setTFlags s k g f) := by
  have hup : ∀ (u : State) (b : Bool) (x : Fld), x ∈ tileFlags g → OnlyFields ((tileFlags g).map Fld.key) s u →
      OnlyFields ((tileFlags g).map Fld.key) s (if b then u.setFlag x true else u) := by
    intro u b x hx hu
    split
    · exact hu.setFlag _ _ (List.mem_map_of_mem hx)
    · exact hu
  unfold setTFlags
  split
  · exact OnlyFields.refl _ _
  · exact hup _ _ _ (by simp [tileFlags]) <| hup _ _ _ (by simp [tileFlags]) <| hup _ _ _ (by simp [tileFlags]) <|
      hup _ _ _ (by simp [tileFlags]) <| hup _ _ _ (by simp [tileFlags]) <| hup _ _ _ (by simp [tileFlags]) (OnlyFields.refl _ _)

@[simp] theorem setTFlags_plane : (setTFlags s k g f).plane = s.plane := (setTFlags_onlyFields s k g f).2.map State.plane fun _ => rfl
@[simp] theorem setTFlags_store : (setTFlags s k g f).store = s.store := (setTFlags_onlyFields s k g f).2.map State.store fun _ => rfl
@[simp] theorem setTFlags_rings : (setTFlags s k g f).rings = s.rings := (setTFlags_onlyFields s k g f).2.map State.rings fun _ => rfl
@[simp] theorem tile_setTFlags (h : Nat) : tile (setTFlags s k g f) h = tile s h := by simp [tile]

end

/-- The flags of a tile after they have been set depend on what they read before, and on whether the kernel is confidential (R307). -/
theorem setTFlags_get_congr {s t : State} {k : Kern} (hconf : kernConf s k = kernConf t k) {y : Fld} (h : s.get y = t.get y) (g : Nat)
    (f : TFlags) : (setTFlags s k g f).get y = (setTFlags t k g f).get y := by
  have hup : ∀ (u v : State) (b : Bool) (x : Fld), u.get y = v.get y →
      (if b then u.setFlag x true else u).get y = (if b then v.setFlag x true else v).get y := by
    intro u v b x hu
    split
    · exact State.get_set_congr hu _ _
    · exact hu
  unfold setTFlags
  rw [hconf]
  split
  · exact h
  · exact hup _ _ _ _ <| hup _ _ _ _ <| hup _ _ _ _ <| hup _ _ _ _ <| hup _ _ _ _ <| hup _ _ _ _ h

/-! ### A sector sub-slot that takes effect -/

/-- Two folds agree when their steps do in every state that the second one reaches. -/
theorem foldl_congr_inv {α β : Type} {f g : β → α → β} {P : β → Prop} {l : List α} {b : β} (h : P b)
    (hinv : ∀ b, ∀ a ∈ l, P b → P (g b a)) (heq : ∀ b a, P b → f b a = g b a) : l.foldl f b = l.foldl g b := by
  induction l generalizing b with
  | nil => rfl
  | cons a l ih =>
    obtain ⟨ha, hl⟩ := List.forall_mem_cons.1 fun c hc b => hinv b c hc
    rw [List.foldl_cons, List.foldl_cons, heq b a h, ih (ha b h) fun b c hc => hl c hc b]

/-- Nothing has changed since `s` but the tiles, and the flags of the tiles `gs`. -/
def TilesAndFlags (gs : List Nat) (s u : State) : Prop :=
  OnlyFields (gs.flatMap fun g => (tileFlags g).map Fld.key) { s with plane := { s.plane with tiles := u.plane.tiles } } u

namespace TilesAndFlags
variable {gs : List Nat} {s u : State}

theorem refl (gs : List Nat) (s : State) : TilesAndFlags gs s s := OnlyFields.refl _ _

theorem free_eq (h : TilesAndFlags gs s u) : u.free = s.free := h.2.map State.free fun _ => rfl

theorem kernConf_eq (h : TilesAndFlags gs s u) (k : Kern) : kernConf u k = kernConf s k := h.2.map (kernConf · k) fun _ => rfl

theorem kerns_eq (h : TilesAndFlags gs s u) : u.plane.kerns = s.plane.kerns := h.2.map (fun s => s.plane.kerns) fun _ => rfl

theorem active_eq (h : TilesAndFlags gs s u) : u.plane.active = s.plane.active := h.2.map (fun s => s.plane.active) fun _ => rfl

/-- A field below the registers of the tiles reads as it did. -/
theorem get_eq (h : TilesAndFlags gs s u) {f : Fld} (hf : f.key / 64 < 0x31008) : u.get f = s.get f := by
  refine h.1 f fun hk => ?_
  obtain ⟨g, -, hg⟩ := List.mem_flatMap.1 hk
  obtain ⟨x, hx, he⟩ := List.mem_map.1 hg
  have := key_of_mem_tileFlags hx
  omega

end TilesAndFlags

/-- A tile takes its part of a sub-slot. -/
def takeSlot (x : Slot) (k : Kern) (need : Needs) (e : Tile → Tile × TFlags) (s : State) (g : Nat) : State :=
  setTFlags (putTile s g ((e (tile s g)).1.hold x.iss.cyc need)) k g (e (tile s g)).2

section
variable {x : Slot} {k : Kern} {need : Needs} {e : Tile → Tile × TFlags} {s u : State} {g h : Nat}

theorem tile_takeSlot_same : tile (takeSlot x k need e s g) g = (e (tile s g)).1.hold x.iss.cyc need := by
  rw [takeSlot, tile_setTFlags, tile_putTile_same]

theorem tile_takeSlot_ne (hne : h ≠ g) : tile (takeSlot x k need e s g) h = tile s h := by
  rw [takeSlot, tile_setTFlags, tile_putTile_ne _ _ _ hne]

theorem get_takeSlot_ne {f : Fld} (hf : f ∈ tileFlags h) (hne : h ≠ g) : (takeSlot x k need e s g).get f = s.get f :=
  (setTFlags_onlyFields _ _ _ _).1 f fun hk => hne (tile_eq_of_key_mem hf hk)

/-- The flags that a tile's part of a sub-slot sets. -/
theorem get_takeSlot_same (f : Fld) : (takeSlot x k need e s g).get f = (setTFlags s k g (e (tile s g)).2).get f :=
  setTFlags_get_congr (by rfl) (by rfl) _ _

theorem kernConf_takeSlot : kernConf (takeSlot x k need e s g) k = kernConf s k :=
  (setTFlags_onlyFields (putTile s g _) k g _).2.map (kernConf · k) fun _ => rfl

/-- A tile that is not among those of a sub-slot keeps its state and its flags. -/
theorem foldl_takeSlot_out {l : List Nat} (hg : g ∉ l) : tile (l.foldl (takeSlot x k need e) s) g = tile s g ∧
    ∀ f ∈ tileFlags g, (l.foldl (takeSlot x k need e) s).get f = s.get f := by
  induction l generalizing s with
  | nil => exact ⟨rfl, fun _ _ => rfl⟩
  | cons a l ih =>
    obtain ⟨hne, hl⟩ := not_or.1 (mt List.mem_cons.2 hg)
    obtain ⟨htile, hget⟩ := ih (s := takeSlot x k need e s a) hl
    exact ⟨htile.trans (tile_takeSlot_ne hne), fun f hf => (hget f hf).trans (get_takeSlot_ne hf hne)⟩

/-- A tile that is named once takes its part of a sub-slot. -/
theorem foldl_takeSlot_once {l : List Nat} (hg : l.count g = 1) :
    tile (l.foldl (takeSlot x k need e) s) g = (e (tile s g)).1.hold x.iss.cyc need ∧
      ∀ f ∈ tileFlags g, (l.foldl (takeSlot x k need e) s).get f = (setTFlags s k g (e (tile s g)).2).get f := by
  induction l generalizing s with
  | nil => simp at hg
  | cons a l ih =>
    by_cases ha : a = g
    · subst ha
      have hl : a ∉ l := by simpa [List.count_eq_zero] using hg
      obtain ⟨htile, hget⟩ := foldl_takeSlot_out (x := x) (k := k) (need := need) (e := e) (s := takeSlot x k need e s a) hl
      exact ⟨htile.trans tile_takeSlot_same, fun f hf => (hget f hf).trans (get_takeSlot_same f)⟩
    · have hl : l.count g = 1 := by simpa [List.count_cons, ha] using hg
      have hsame : tile (takeSlot x k need e s a) g = tile s g := tile_takeSlot_ne (Ne.symm ha)
      obtain ⟨htile, hget⟩ := ih (s := takeSlot x k need e s a) hl
      rw [hsame] at htile hget
      exact ⟨htile, fun f hf => (hget f hf).trans (setTFlags_get_congr kernConf_takeSlot (get_takeSlot_ne hf (Ne.symm ha)) _ _)⟩

theorem TilesAndFlags.takeSlot {gs : List Nat} (hu : TilesAndFlags gs s u) (hg : g ∈ gs) :
    TilesAndFlags gs s (takeSlot x k need e u g) := by
  have hput : ∀ t : Tile, TilesAndFlags gs s (putTile u g t) := fun t => ⟨hu.1, congrArg (putTile · g t) hu.2⟩
  have hset := setTFlags_onlyFields (putTile u g ((e (tile u g)).1.hold x.iss.cyc need)) k g (e (tile u g)).2
  rw [TilesAndFlags, show (Machine.takeSlot x k need e u g).plane = _ from setTFlags_plane _ _ _ _]
  exact (hput _).trans (hset.mono fun y hy => List.mem_flatMap.2 ⟨g, hg, hy⟩)

theorem TilesAndFlags.foldl_takeSlot {gs l : List Nat} (hsub : ∀ g ∈ l, g ∈ gs) (hu : TilesAndFlags gs s u) :
    TilesAndFlags gs s (l.foldl (Machine.takeSlot x k need e) u) := by
  induction l generalizing u with
  | nil => exact hu
  | cons a l ih =>
    obtain ⟨ha, hl⟩ := List.forall_mem_cons.1 hsub
    exact ih hl (hu.takeSlot ha)

end

/-- A tile that is named holds the units that the operation needs. -/
theorem foldl_takeSlot_mem {x : Slot} {k : Kern} {need : Needs} {e : Tile → Tile × TFlags} {s : State} {g : Nat} {l : List Nat}
    (hg : g ∈ l) : ∃ t : Tile, tile (l.foldl (takeSlot x k need e) s) g = (e t).1.hold x.iss.cyc need := by
  induction l generalizing s with
  | nil => exact absurd hg List.not_mem_nil
  | cons a l ih =>
    by_cases hl : g ∈ l
    · exact ih hl
    · obtain rfl : g = a := (List.mem_cons.1 hg).resolve_right hl
      exact ⟨_, (foldl_takeSlot_out hl).1.trans tile_takeSlot_same⟩

section
variable {x : Slot} {op ok : Bool} {need : Needs} {eff : State → Kern → Tile → Nat → Tile × TFlags} {e : Tile → Tile × TFlags}
  {s s1 : State} {k : Kern} (h : Issues s x.iss s1 k) (hop : op = true) (hok : ok = true) (hu : UnitsFree x s1 k need)
  (heff : ∀ u, TilesAndFlags (slotTiles k x) s1 u → ∀ t g, eff u k t g = e t)
include h hop hok hu heff

/-- A sector sub-slot that breaks no range, and whose units are free, has each of its tiles take its part where its bundle issues. The effect
may look at the state, but only at what the sub-slot's other tiles leave. -/
theorem tileRow_eq_foldl : tileRow x op ok need eff s = (slotTiles k x).foldl (takeSlot x k need e) s1 := by
  subst hop hok
  rw [tileRow_issues h hu]
  exact foldl_congr_inv (TilesAndFlags.refl (slotTiles k x) s1) (fun u g hg hu => hu.takeSlot hg)
    (fun u g hu => by simp only [heff u hu, takeSlot])

/-- Such a sub-slot takes effect (R324). -/
theorem tileRow_takes : SlotTakes x s1 k need e (tileRow x op ok need eff s) := by
  rw [tileRow_eq_foldl h hop hok hu heff]
  exact ⟨fun g hg => foldl_takeSlot_once hg, fun g hg => (foldl_takeSlot_out hg).1,
    TilesAndFlags.foldl_takeSlot (fun _ h => h) (TilesAndFlags.refl _ _)⟩

end

end Sys2Proof.Machine
end

section
/-! SUPPORT. Kernels on the plane (spec/08): finding and storing one, what the operations on its tiles leave of the kernels and of the rest of
the device, and what the issue of a bundle finds. -/

namespace Sys2Proof.Machine

open Sys2Proof

/-! ### Finding and storing a kernel -/

theorem kernOf_ring {s : State} {r i : Nat} {k : Kern} (h : kernOf s r i = some k) : k.ring = r ∧ k.idx = i := by
  simpa using List.find?_some h

theorem kernOf_congr {s u : State} (h : u.plane.kerns = s.plane.kerns) (r i : Nat) : kernOf u r i = kernOf s r i := by
  rw [kernOf, kernOf, h]

/-- A change of the kernels that keeps each one's ring and index finds the changed kernel. -/
theorem find?_map_kerns {f : Kern → Kern} (hf : ∀ k, (f k).ring = k.ring ∧ (f k).idx = k.idx) (l : List Kern) (r i : Nat) :
    (l.map f).find? (fun k => k.ring = r && k.idx = i) = (l.find? fun k => k.ring = r && k.idx = i).map f := by
  rw [List.find?_map]
  congr 2
  funext k
  simp [(hf k).1, (hf k).2]

theorem kernOf_putKern (s : State) (k : Kern) (r i : Nat) :
    kernOf (putKern s k) r i = (kernOf s r i).map fun x => if x.ring = k.ring && x.idx = k.idx then k else x := by
  refine find?_map_kerns (fun x => ?_) _ r i
  split
  · rename_i h
    simp only [Bool.and_eq_true, decide_eq_true_eq] at h
    exact ⟨h.1.symm, h.2.symm⟩
  · exact ⟨rfl, rfl⟩

/-- A kernel that is stored in the place of an old one is found. -/
theorem kernOf_putKern_same {s : State} {k : Kern} {r i : Nat} (hr : k.ring = r) (hi : k.idx = i) (h : (kernOf s r i).isSome = true) :
    kernOf (putKern s k) r i = some k := by
  obtain ⟨x, hx⟩ := Option.isSome_iff_exists.1 h
  obtain ⟨hxr, hxi⟩ := kernOf_ring hx
  simp [kernOf_putKern, hx, hxr, hxi, hr, hi]

theorem kernOf_putKern_isSome (s : State) (k : Kern) (r i : Nat) : (kernOf (putKern s k) r i).isSome = (kernOf s r i).isSome := by
  rw [kernOf_putKern, Option.isSome_map]

theorem activeKern_congr {s u : State} (hactive : u.plane.active = s.plane.active) (hkerns : u.plane.kerns = s.plane.kerns) :
    activeKern u = activeKern s := by
  simp only [activeKern, hactive, kernOf_congr hkerns]

theorem activeKern_iff {s : State} {k : Kern} :
    activeKern s = some k ↔ s.plane.active = some (k.ring, k.idx) ∧ kernOf s k.ring k.idx = some k := by
  simp only [activeKern, Option.bind_eq_some_iff]
  constructor
  · rintro ⟨⟨r, i⟩, hactive, hk⟩
    obtain ⟨rfl, rfl⟩ := kernOf_ring hk
    exact ⟨hactive, hk⟩
  · rintro ⟨hactive, hk⟩
    exact ⟨_, hactive, hk⟩

/-! ### What work on tiles leaves -/

/-- From `s` to `u` the pool and the rings are the same, the same kernel is on the plane, the same copies are under way, and the same kernels
stand, whatever has become of them. -/
structure TilesWork (s u : State) : Prop where
  store : u.store = s.store
  rings : u.rings = s.rings
  active : u.plane.active = s.plane.active
  kcopies : u.plane.kcopies = s.plane.kcopies
  kerns : ∀ r i : Nat, (kernOf u r i).isSome = (kernOf s r i).isSome

namespace TilesWork
variable {s u v : State}

theorem refl (s : State) : TilesWork s s := ⟨rfl, rfl, rfl, rfl, fun _ _ => rfl⟩

theorem trans (h : TilesWork s u) (h' : TilesWork u v) : TilesWork s v :=
  ⟨h'.store.trans h.store, h'.rings.trans h.rings, h'.active.trans h.active, h'.kcopies.trans h.kcopies,
    fun r i => (h'.kerns r i).trans (h.kerns r i)⟩

theorem of_plane (hstore : u.store = s.store) (hrings : u.rings = s.rings) (hplane : u.plane = s.plane) : TilesWork s u :=
  ⟨hstore, hrings, by rw [hplane], by rw [hplane], fun r i => congrArg Option.isSome (kernOf_congr (by rw [hplane]) r i)⟩

theorem set (s : State) (f : Fld) (n : Nat) : TilesWork s (s.set f n) := of_plane rfl rfl rfl
theorem setFlag (s : State) (f : Fld) (b : Bool) : TilesWork s (s.setFlag f b) := of_plane rfl rfl rfl
theorem bump (s : State) (f : Fld) (n : Nat) : TilesWork s (s.bump f n) := of_plane rfl rfl rfl
theorem bumpSat (s : State) (f : Fld) (n : Nat) : TilesWork s (s.bumpSat f n) := of_plane rfl rfl rfl
theorem upto (s : State) (t : Nat) : TilesWork s (s.upto t) := of_plane rfl rfl rfl

theorem foldl {α : Type} {f : State → α → State} (hf : ∀ s a, TilesWork s (f s a)) (l : List α) (s : State) : TilesWork s (l.foldl f s) := by
  induction l generalizing s with
  | nil => exact refl s
  | cons a l ih => exact (hf s a).trans (ih _)

theorem putTile (s : State) (g : Nat) (t : Tile) : TilesWork s (putTile s g t) := ⟨rfl, rfl, rfl, rfl, fun _ _ => rfl⟩

theorem setTFlags (s : State) (k : Kern) (g : Nat) (f : TFlags) : TilesWork s (setTFlags s k g f) :=
  of_plane (setTFlags_store _ _ _ _) (setTFlags_rings _ _ _ _) (setTFlags_plane _ _ _ _)

theorem putKern (s : State) (k : Kern) : TilesWork s (putKern s k) := ⟨rfl, rfl, rfl, rfl, kernOf_putKern_isSome s k⟩

theorem noteBank (s : State) (k : Kern) (b : Bool) : TilesWork s (noteBank s k b) := by
  unfold Machine.noteBank
  split
  · split
    · exact putKern _ _
    · exact refl _
  · exact refl _

theorem settle (s : State) (k : Kern) (cyc : Nat) : TilesWork s (settle s k cyc) :=
  foldl (fun _ _ => ((putTile _ _ _).trans (setTFlags _ _ _ _)).trans (noteBank _ _ _)) _ _

theorem applyAux (s : State) (k : Kern) : TilesWork s (applyAux s k) := foldl (fun _ _ => putTile _ _ _) _ _

theorem leaveTiles (s : State) (k : Kern) : TilesWork s (leaveTiles s k) := by
  unfold Machine.leaveTiles
  refine foldl (fun u p => ?_) _ _
  dsimp only
  split
  · exact ((putTile _ _ _).trans (setFlag _ _ _)).trans (foldl (fun _ _ => set _ _ _) _ _)
  · exact (putTile _ _ _).trans (setFlag _ _ _)

end TilesWork

/-! ### The issue of a bundle -/

theorem nextBundle_keeps (k : Kern) :
    (nextBundle k).ring = k.ring ∧ (nextBundle k).idx = k.idx ∧ (nextBundle k).err = k.err ∧ (nextBundle k).begun = true := by
  unfold nextBundle
  split
  · exact ⟨rfl, rfl, rfl, rfl⟩
  · rename_i h
    exact ⟨rfl, rfl, rfl, by simpa using h⟩

/-- Stepping to a bundle keeps the kernel's launch and its error, and ends at that bundle, begun. -/
theorem seekBundle_some {b n : Nat} {k k2 : Kern} (h : seekBundle b n k = some k2) :
    k2.ring = k.ring ∧ k2.idx = k.idx ∧ k2.err = k.err ∧ k2.begun = true ∧ k2.bundle = b := by
  induction n generalizing k with
  | zero => cases h
  | succ n ih =>
    obtain ⟨hring, hidx, herr, hbegun⟩ := nextBundle_keeps k
    simp only [seekBundle] at h
    split at h
    · rename_i hb
      obtain rfl := Option.some.inj h
      exact ⟨hring, hidx, herr, hbegun, hb⟩
    · split at h
      · cases h
      · obtain ⟨hr, hi, he, hrest⟩ := ih h
        exact ⟨hr.trans hring, hi.trans hidx, he.trans herr, hrest⟩

/-- A choice that gives what its first branch does not has taken its second one. -/
theorem of_ite_eq {α : Type} {c : Prop} [Decidable c] {a b x : α} (h : (if c then a else b) = x) (ha : a ≠ x) : ¬ c ∧ b = x := by
  by_cases hc : c
  · exact absurd ((if_pos hc).symm.trans h) ha
  · exact ⟨hc, (if_neg hc).symm.trans h⟩

/-- Where a bundle issues, its kernel has met no error. It is the one that issues already, in a state that nothing has changed; or it has been
stepped to the bundle, once what it had under way has been brought to the cycle. -/
theorem openBundle_go {s s1 : State} {k0 k : Kern} {i : Issue} (h : openBundle s k0 i = .go s1 k) :
    k.ring = k0.ring ∧ k.idx = k0.idx ∧ k.err = none ∧
      (s1 = s ∧ k = k0 ∨ s1 = putKern (settle (applyAux s k0) k0 i.cyc) k ∧ k ≠ k0) := by
  obtain ⟨hruns, h⟩ := of_ite_eq h (by simp)
  have herr : k0.err = none := by
    simp only [not_or, not_not] at hruns
    exact hruns.2.2.1
  by_cases hjoin : k0.begun = true ∧ i.bundle = k0.bundle ∧ i.cyc = k0.cyc
  · rw [if_pos hjoin] at h
    cases h
    exact ⟨rfl, rfl, herr, .inl ⟨rfl, rfl⟩⟩
  rw [if_neg hjoin] at h
  obtain ⟨-, h⟩ := of_ite_eq h (by simp)
  obtain ⟨-, h⟩ := of_ite_eq h (by simp)
  obtain ⟨-, h⟩ := of_ite_eq h (by simp)
  rcases hseek : seekBundle i.bundle (i.cyc + 1 - k0.cyc - k0.idle) k0 with _ | k2
  · rw [hseek] at h
    cases h
  · rw [hseek] at h
    obtain ⟨hring, hidx, he, hbegun, hbundle⟩ := seekBundle_some hseek
    cases h
    refine ⟨hring, hidx, he.trans herr, .inr ⟨rfl, fun heq => hjoin ?_⟩⟩
    rw [← heq]
    exact ⟨hbegun, hbundle.symm, rfl⟩

/-- The issue of a bundle leaves the pool, the rings and the copies. -/
theorem openBundle_tilesWork {s s1 : State} {k0 k : Kern} {i : Issue} (h : openBundle s k0 i = .go s1 k) : TilesWork s s1 := by
  obtain ⟨-, -, -, ⟨rfl, -⟩ | ⟨rfl, -⟩⟩ := openBundle_go h
  · exact .refl _
  · exact ((TilesWork.applyAux _ _).trans (.settle _ _ _)).trans (.putKern _ _)

section
variable {s s1 : State} {i : Issue} {k : Kern} (h : Issues s i s1 k)
include h

theorem Issues.tilesWork : TilesWork s s1 := by
  obtain ⟨⟨k0, -, hopen⟩, -⟩ := h
  exact (TilesWork.upto s _).trans (openBundle_tilesWork hopen)

/-- The slots of a bundle find its kernel on the plane, without an error. -/
theorem Issues.activeKern_eq : activeKern s1 = some k ∧ k.err = none := by
  have hwork := h.tilesWork
  obtain ⟨⟨k0, hactive, hopen⟩, -⟩ := h
  obtain ⟨hring, hidx, herr, hcases⟩ := openBundle_go hopen
  refine ⟨?_, herr⟩
  obtain ⟨rfl, rfl⟩ | ⟨rfl, -⟩ := hcases
  · exact hactive
  · obtain ⟨hat, hk0⟩ := activeKern_iff.1 hactive
    have hsome : (kernOf (settle (applyAux (s.upto (i.cyc * 5 / 6)) k0) k0 i.cyc) k.ring k.idx).isSome = true := by
      rw [((TilesWork.applyAux _ _).trans (.settle _ _ _)).kerns, hring, hidx, hk0, Option.isSome_some]
    exact activeKern_iff.2 ⟨by rw [hwork.active, hring, hidx]; exact hat, kernOf_putKern_same rfl rfl hsome⟩

/-- The issue of a bundle has changed nothing but the time, or the kernel on the plane. -/
theorem Issues.upto_or_stepped : s1 = s.upto (i.cyc * 5 / 6) ∨ activeKern s ≠ some k := by
  obtain ⟨⟨k0, hactive, hopen⟩, -⟩ := h
  obtain ⟨-, -, -, ⟨hs, -⟩ | ⟨-, hne⟩⟩ := openBundle_go hopen
  · exact .inl hs
  · refine .inr fun hk => hne ?_
    exact Option.some.inj (hk.symm.trans hactive)

end

end Sys2Proof.Machine
end

section
/-! SUPPORT. Vector slots and conversions (spec/07, R259, R260, R270 to R274, R318, R319): the results of the 256 lanes, and the flags that
they set together. -/

namespace Sys2Proof.Machine

open Sys2Proof

/-! ### Lists over the lanes -/

@[simp] theorem vreg_length (t : Tile) (r : Nat) : (vreg t r).length = 256 := by simp [vreg, Tile.words, span]

/-- A vector register as its lanes. -/
theorem vreg_eq_lanes (t : Tile) (x : Slot) (lo : Nat) : vreg t (slotF x lo 5) = (List.range 256).map (laneOperand t x lo) := by
  refine List.ext_getElem (by simp) fun i hi _ => ?_
  simp [laneOperand, List.getD_eq_getElem?_getD, List.getElem?_eq_getElem hi]

/-- The flags of lanes that may set INVALID alone. -/
theorem foldl_or_invalid {α : Type} (p : α → Bool) (l : List α) :
    l.foldl (fun (g : TFlags) i => g.or { invalid := p i }) {} = { invalid := l.any p } := by
  have hacc : ∀ b : Bool, l.foldl (fun (g : TFlags) i => g.or { invalid := p i }) { invalid := b } = { invalid := b || l.any p } := by
    induction l with
    | nil => simp
    | cons a l ih =>
      intro b
      rw [List.foldl_cons, show TFlags.or { invalid := b } { invalid := p a } = { invalid := b || p a } from rfl, ih, List.any_cons,
        Bool.or_assoc]
  exact hacc false

/-- An operation whose needs are none finds its units free. -/
theorem unitsFree_nil (x : Slot) (s : State) (k : Kern) : UnitsFree x s k [] := fun _ _ => rfl

/-! ### The lanes of the vector operations -/

theorem plainLanes_lane : ∀ r ∈ plainLanes, ∀ a b c : Nat, vecLane r.1 a b c = (r.2.2 a b c, {}) := by
  have hsel : ∀ a b c : Nat, vecLane 0x08 a b c = (if (fmt32.value a).isNan ∨ (fmt32.value b).isNan ∨ (fmt32.value a).lt (fmt32.value b) ∨
      (fmt32.value b).lt (fmt32.value a) then a else c, {}) := by
    intro a b c
    simp only [vecLane]
    split <;> split <;> simp_all
  simp only [plainLanes, List.forall_mem_cons, List.not_mem_nil, false_imp_iff, implies_true, and_true]
  exact ⟨fun _ _ _ => rfl, fun _ _ _ => rfl, fun _ _ _ => rfl, hsel, fun _ _ _ => rfl, fun _ _ _ => rfl, fun _ _ _ => rfl,
    fun _ _ _ => rfl, fun _ _ _ => rfl, fun _ _ _ => rfl, fun _ _ _ => rfl, fun _ _ _ => rfl⟩

theorem plainLanes_exec : ∀ r ∈ plainLanes, ∀ (x : Slot) (s : State), exec (r.2.1 x) s = .next (vecRow r.1 x s) := by
  simp only [plainLanes, List.forall_mem_cons, List.not_mem_nil, false_imp_iff, implies_true, and_true]
  exact ⟨fun _ _ => rfl, fun _ _ => rfl, fun _ _ => rfl, fun _ _ => rfl, fun _ _ => rfl, fun _ _ => rfl, fun _ _ => rfl,
    fun _ _ => rfl, fun _ _ => rfl, fun _ _ => rfl, fun _ _ => rfl, fun _ _ => rfl⟩

/-- ADD, SUB, MUL and FMA, with their opcodes. -/
def floatOps : List (Nat × (Slot → Instr)) := [(0x01, .vadd), (0x02, .vsub), (0x03, .vmul), (0x04, .vfma)]

/-- The exact value of a lane of ADD, SUB, MUL or FMA is rounded once, and a NaN of operands that are none sets INVALID. -/
theorem floatOps_lane : ∀ r ∈ floatOps, ∀ a b c : Nat,
    vecLane r.1 a b c = (fmt32.round (laneExact r.1 a b c), { invalid := laneInvalid r.1 a b c }) := by
  simp only [floatOps, List.forall_mem_cons, List.not_mem_nil, false_imp_iff, implies_true, and_true]
  refine ⟨fun a b c => ?_, fun a b c => ?_, fun a b c => ?_, fun a b c => ?_⟩
  all_goals simp [vecLane, vres, laneExact, laneInvalid, Bool.and_assoc]

theorem floatOps_exec : ∀ r ∈ floatOps, ∀ (x : Slot) (s : State), exec (r.2 x) s = .next (vecRow r.1 x s) := by
  simp only [floatOps, List.forall_mem_cons, List.not_mem_nil, false_imp_iff, implies_true, and_true]
  exact ⟨fun _ _ => rfl, fun _ _ => rfl, fun _ _ => rfl, fun _ _ => rfl⟩

/-- The special functions, with their opcodes. -/
def specialOps : List (Nat × (Slot → Instr)) := [(0x10, .vexp), (0x11, .vexp2), (0x12, .vrcp), (0x13, .vrsq)]

theorem specialOps_exec : ∀ r ∈ specialOps, ∀ (x : Slot) (s : State), exec (r.2 x) s = .next (specialRow r.1 x s) := by
  simp only [specialOps, List.forall_mem_cons, List.not_mem_nil, false_imp_iff, implies_true, and_true]
  exact ⟨fun _ _ => rfl, fun _ _ => rfl, fun _ _ => rfl, fun _ _ => rfl⟩

/-- Of the special functions RSQ alone sets INVALID, for a negative operand other than zero (R260). -/
theorem specialOps_flags : ∀ r ∈ specialOps, ∀ a any : Nat,
    (specialLane r.1 a any).2 = { invalid := r.1 == 0x13 && ((fmt32.value a).sign && !(fmt32.value a).isZero) } := by
  simp only [specialOps, List.forall_mem_cons, List.not_mem_nil, false_imp_iff, implies_true, and_true]
  refine ⟨fun a any => ?_, fun a any => ?_, fun a any => ?_, fun a any => ?_⟩
  all_goals
    unfold specialLane
    rcases fmt32.value a with _ | neg | ⟨neg, m, e⟩
  case refine_1.inf | refine_2.inf | refine_4.inf => cases neg <;> rfl
  case refine_4.fin => by_cases hm : m = 0 <;> cases neg <;> simp [hm, Fl.sign, Fl.isZero]
  all_goals simp [Fl.sign, Fl.isZero]

/-! ### Vector operations, special functions and reductions -/

section
variable {s s1 : State} {k : Kern} {x : Slot} (h : Issues s x.iss s1 k) (hres : slotF x 41 23 = 0)
include h hres

/-- A lane-wise operation lands its 256 results 4 cycles after issue (R259, R324). -/
theorem vecRow_takes {op : Nat} {f : Nat → Nat → Nat → Nat} {p : Nat → Nat → Nat → Bool} (hop : slotF x 0 6 = op)
    (hlane : ∀ a b c : Nat, vecLane op a b c = (f a b c, { invalid := p a b c })) :
    SlotTakes x s1 k [] (fun t =>
      (t.plan [⟨x.iss.cyc + 4, .land (vrKey (slotF x 6 5) 0) ((List.range 256).map fun i =>
        f (laneOperand t x 11 i) (laneOperand t x 16 i) (laneOperand t x 21 i))⟩],
       { invalid := (List.range 256).any fun i => p (laneOperand t x 11 i) (laneOperand t x 16 i) (laneOperand t x 21 i) }))
      (vecRow op x s) := by
  refine tileRow_takes h (by simp [hop]) (by simp [vecOk, hres]) (unitsFree_nil _ _ _) fun u _ t g => ?_
  simp only [hlane, List.map_map, List.foldl_map, foldl_or_invalid]
  rfl

/-- A special function lands its 256 results 12 cycles after issue (R260, R324). -/
theorem specialRow_takes {r : Nat × (Slot → Instr)} (hr : r ∈ specialOps) (hop : slotF x 0 6 = r.1) (hu : UnitsFree x s1 k [(4, 4)]) :
    SlotTakes x s1 k [(4, 4)] (fun t =>
      (t.plan [⟨x.iss.cyc + 12, .land (vrKey (slotF x 6 5) 0) ((List.range 256).map fun i =>
        (specialLane r.1 (laneOperand t x 11 i) (Config.special r.1 (laneOperand t x 11 i))).1)⟩],
       { invalid := r.1 == 0x13 && (List.range 256).any fun i =>
           (fmt32.value (laneOperand t x 11 i)).sign && !(fmt32.value (laneOperand t x 11 i)).isZero }))
      (specialRow r.1 x s) := by
  refine tileRow_takes h (by simp [hop]) (by simp [vecOk, hres]) hu fun u _ t g => ?_
  simp only [vreg_eq_lanes, List.map_map, List.foldl_map, Function.comp_apply, specialOps_flags r hr, foldl_or_invalid, List.and_any_distrib_left]
  rfl

/-- A reduction lands its result in lane 0, and 0 in the others, 10 cycles after issue (R259, R324). -/
theorem reduceRow_takes {op : Nat} (hop : slotF x 0 6 = op) (hu : UnitsFree x s1 k [(5, 8)]) :
    SlotTakes x s1 k [(5, 8)] (fun t =>
      let v := reduce (fun a b => vecLane (if op = 0x22 then 0x01 else 0x06) a b 0) 8 (vreg t (slotF x 11 5)) {}
      (t.plan [⟨x.iss.cyc + 10, .land (vrKey (slotF x 6 5) 0) (v.1 :: List.replicate 255 0)⟩], v.2)) (reduceRow op x s) :=
  tileRow_takes h (by simp [hop]) (by simp [vecOk, hres]) hu fun _ _ _ _ => rfl

/-- AMOV lands 256 elements of a bank 2 cycles after issue (R258, R319). -/
theorem amov_takes (hop : slotF x 0 6 = 0x28) (hu : UnitsFree x s1 k [(8 + slotF x 32 2, 1)]) :
    SlotTakes x s1 k [(8 + slotF x 32 2, 1)] (fun t =>
      (t.plan [⟨x.iss.cyc + 2, .land (vrKey (slotF x 6 5) 0) (t.words 0 (accKey (slotF x 32 2) (slotF x 34 4 * 256)) 256)⟩], {}))
      (amovRow false x s) := by
  unfold amovRow
  exact tileRow_takes h (by simp [hop]) (by simp [vecOk, hres]) hu fun _ _ _ _ => rfl

/-- AWR lands 256 lanes in a bank 2 cycles after issue (R258, R319). -/
theorem awr_takes (hop : slotF x 0 6 = 0x29) (hu : UnitsFree x s1 k [(8 + slotF x 32 2, 1)]) :
    SlotTakes x s1 k [(8 + slotF x 32 2, 1)] (fun t =>
      (t.plan [⟨x.iss.cyc + 2, .land (accKey (slotF x 32 2) (slotF x 34 4 * 256)) ((List.range 256).map (laneOperand t x 11))⟩], {}))
      (amovRow true x s) := by
  unfold amovRow
  exact tileRow_takes h (by simp [hop]) (by simp [vecOk, hres]) hu fun _ _ t _ => by rw [← vreg_eq_lanes]; rfl

end

/-! ### The stated values of the special functions (R260) -/

theorem specialLane_nan {a : Nat} (h : fmt32.value a = .nan) (op any : Nat) : specialLane op a any = (0x7FC00000, {}) := by
  unfold specialLane
  rw [h]
  rfl

/-- What the special functions give for the infinities and the zeros, whatever the free value. -/
theorem specialLane_ends (any : Nat) : ∀ op ∈ [0x10, 0x11, 0x12, 0x13],
    specialLane op 0x7F800000 any = (if op < 0x12 then 0x7F800000 else 0, {}) ∧
    specialLane op 0xFF800000 any =
      (match op with | 0x12 => (0x80000000, {}) | 0x13 => (0x7FC00000, { invalid := true }) | _ => (0, {})) ∧
    specialLane op 0 any = (if op < 0x12 then 0x3F800000 else 0x7F800000, {}) ∧
    specialLane op 0x80000000 any = (if op < 0x12 then 0x3F800000 else 0xFF800000, {}) := by
  simp only [List.forall_mem_cons, List.not_mem_nil, false_imp_iff, implies_true, and_true]
  exact ⟨⟨rfl, rfl, rfl, rfl⟩, ⟨rfl, rfl, rfl, rfl⟩, ⟨rfl, rfl, rfl, rfl⟩, ⟨rfl, rfl, rfl, rfl⟩⟩

/-! ### Conversions (R270 to R274, R318) -/

/-- Lanes that meet their numbers, taken together. -/
theorem zip_range_map {α β γ : Type} (n : Nat) (f : Nat → α) (v : α → β) (F : β × Nat → γ) :
    ((((List.range n).map f).map v).zip (List.range n)).map F = (List.range n).map fun i => F (v (f i), i) := by
  rw [List.map_map, ← List.map_prod_right_eq_zip, List.map_map]
  rfl

/-- The lanes of a vector register that meet their numbers, taken together. -/
theorem zip_lanes_map {β γ : Type} (t : Tile) (x : Slot) (lo : Nat) (v : Nat → β) (F : β × Nat → γ) :
    (((vreg t (slotF x lo 5)).map v).zip (List.range 256)).map F = (List.range 256).map fun i => F (v (laneOperand t x lo i), i) := by
  rw [vreg_eq_lanes, zip_range_map]

/-- 256 lanes are 8 blocks of 32. -/
theorem flatMap_blocks {α : Type} (F : Nat → α) :
    (List.range 8).flatMap (fun b => (List.range 32).map fun j => F (32 * b + j)) = (List.range 256).map F := by
  have hblocks : List.range 256 = (List.range 8).flatMap fun b => (List.range 32).map (32 * b + ·) := by decide +kernel
  rw [hblocks, List.map_flatMap]
  simp only [List.map_map, Function.comp_def]

/-- Block `b` of the lanes. -/
theorem take_drop_lanes {α : Type} (f : Nat → α) {b : Nat} (hb : b < 8) :
    (((List.range 256).map f).drop (32 * b)).take 32 = (span (32 * b) 32).map f := by
  refine List.ext_getElem (by simp [span]; omega) fun i hi _ => ?_
  simp [span]

/-- The number of a lane that CVTO converts. -/
def cvtoValue (x : Slot) (a : Nat) : Fl := if slotF x 16 1 = 1 then Fl.ofInt (sgn 32 a) 0 else fmt32.value a

/-- How CVTO rounds lane `i` of a tile: by its draw where SR asks for it and SR_EN allows it (R271). -/
def cvtoMode (s : State) (x : Slot) (t : Tile) (i : Nat) : Rnd :=
  if slotF x 30 1 = 1 ∧ s.flag F.TP_CTRL_SR_EN = true then .sr ((draws 256 t.rng).1.getD i 0) else .rne

/-- A tile once CVTO has drawn from its generator (R272). -/
def cvtoMoved (s : State) (x : Slot) (t : Tile) : Tile :=
  { t with rng := if slotF x 30 1 = 1 ∧ s.flag F.TP_CTRL_SR_EN = true then (draws 256 t.rng).2 else t.rng }

/-- The scale of block `b` of the lanes whose numbers are `v`. -/
def mxLaneScale (f : Nat) (v : Nat → Fl) (b : Nat) : Nat := mxScale f ((span (32 * b) 32).map v)

/-- Lane `i` under the scale of its block. -/
def mxLane (f : Nat) (v : Nat → Fl) (md : Nat → Rnd) (i : Nat) : Nat × Bool := mxElem f (mxLaneScale f v (i / 32)) (md i) (v i)

/-- The blocks of an MX conversion as their lanes. -/
theorem mxBlocks_eq_lanes (f : Nat) (v : Nat → Fl) (md : Nat → Rnd) :
    ((List.range 8).map fun b =>
      (mxScale f ((((List.range 256).map v).drop (32 * b)).take 32),
        (((((List.range 256).map v).drop (32 * b)).take 32).zip (List.range 32)).map fun y =>
          mxElem f (mxScale f ((((List.range 256).map v).drop (32 * b)).take 32)) (md (32 * b + y.2)) y.1)) =
    (List.range 8).map fun b => (mxLaneScale f v b, (List.range 32).map fun j => mxLane f v md (32 * b + j)) := by
  refine List.map_congr_left fun b hb => ?_
  rw [take_drop_lanes v (List.mem_range.1 hb), span, zip_range_map]
  refine Prod.ext rfl ?_
  dsimp only
  refine List.map_congr_left fun j hj => ?_
  have hblock : (32 * b + j) / 32 = b := by
    have := List.mem_range.1 hj
    omega
  rw [mxLane, hblock]
  rfl

/-- What the blocks of an MX conversion hold: the elements of the 256 lanes, the 8 scales, and the flags. -/
theorem mxBlocks_parts (f : Nat) (v : Nat → Fl) (md : Nat → Rnd) :
    let bs := (List.range 8).map fun b => (mxLaneScale f v b, (List.range 32).map fun j => mxLane f v md (32 * b + j))
    (bs.flatMap fun b => b.2.map (·.1)) = (List.range 256).map (fun i => (mxLane f v md i).1) ∧
    bs.map (·.1) = (List.range 8).map (mxLaneScale f v) ∧
    (bs.any fun b => b.1 == 255) = (List.range 8).any (fun b => mxLaneScale f v b == 255) ∧
    (bs.any fun b => b.2.any (·.2)) = (List.range 256).any fun i => (mxLane f v md i).2 := by
  have hany : ((List.range 8).any fun b => ((List.range 32).map fun j => (mxLane f v md (32 * b + j)).2).any id) =
      (List.range 256).any fun i => (mxLane f v md i).2 := by
    rw [← List.any_flatMap, flatMap_blocks (fun i => (mxLane f v md i).2), List.any_map]
    rfl
  refine ⟨?_, ?_, ?_, ?_⟩
  · simp only [List.flatMap_map, List.map_map, Function.comp_def]
    exact flatMap_blocks fun i => (mxLane f v md i).1
  · simp only [List.map_map, Function.comp_def]
  · simp only [List.any_map, Function.comp_def]
  · simpa only [List.any_map, Function.comp_def, id] using hany

section
variable {s s1 : State} {k : Kern} {x : Slot} (h : Issues s x.iss s1 k) (hres : slotF x 41 23 = 0) (hpart : partOk x = true)
include h hres hpart

/-- CVTI lands the values of its elements, times the scales of their blocks, 4 cycles after issue. -/
theorem cvtiRow_takes (hop : slotF x 0 6 = 0x20) :
    let f := slotF x 26 4
    let w := fmtBits f
    let p := slotF x 38 3
    SlotTakes x s1 k [] (fun t =>
      let src := wordsVal (((vreg t (slotF x 11 5)).drop (p * 8 * w)).take (8 * w))
      let scs := wordsVal (((vreg t (slotF x 21 5)).drop (p * 2)).take 2)
      let scale := fun i => if fmtMx f then bits scs (i / 32 * 8) 8 else 127
      (t.plan [⟨x.iss.cyc + 4, .land (vrKey (slotF x 6 5) 0) ((List.range 256).map fun i =>
        fmt32.round ((elemValue f (bits src (i * w) w)).scaleBy (scale i)))⟩],
       { nanScale := fmtMx f && (List.range 8).any fun b => scale (32 * b) == 255 })) (cvtiRow x s) := by
  unfold cvtiRow
  exact tileRow_takes h (by simp [hop]) (by simp [vecOk, hres, hpart]) (unitsFree_nil _ _ _) fun _ _ _ _ => rfl

/-- CVTO to an MX format lands the elements of the lanes, and the scales of their blocks, 4 cycles after issue (R274). -/
theorem cvtoRow_takes_mx (hop : slotF x 0 6 = 0x21) (hmx : fmtMx (slotF x 26 4) = true) :
    let f := slotF x 26 4
    let w := fmtBits f
    let p := slotF x 38 3
    SlotTakes x s1 k [] (fun t =>
      let v := fun i => cvtoValue x (laneOperand t x 11 i)
      ((cvtoMoved s1 x t).plan
        [⟨x.iss.cyc + 4, .land (vrKey (slotF x 6 5) (p * 8 * w))
           (valWords (8 * w) (packBits w ((List.range 256).map fun i => (mxLane f v (cvtoMode s1 x t) i).1)))⟩,
         ⟨x.iss.cyc + 4, .land (vrKey (slotF x 21 5) (p * 2)) (valWords 2 (packBits 8 ((List.range 8).map (mxLaneScale f v))))⟩],
       { nanScale := (List.range 8).any fun b => mxLaneScale f v b == 255,
         saturated := (List.range 256).any fun i => (mxLane f v (cvtoMode s1 x t) i).2 })) (cvtoRow x s) := by
  unfold cvtoRow
  refine tileRow_takes h (by simp [hop]) (by simp [vecOk, hres, hpart]) (unitsFree_nil _ _ _) fun u hu t g => ?_
  have hflag : u.flag F.TP_CTRL_SR_EN = s1.flag F.TP_CTRL_SR_EN := by rw [State.flag, State.flag, hu.get_eq (by decide)]
  obtain ⟨helems, hscales, hnan, hsat⟩ := mxBlocks_parts (slotF x 26 4) (fun i => cvtoValue x (laneOperand t x 11 i)) (cvtoMode s1 x t)
  rw [← mxBlocks_eq_lanes] at helems hscales hnan hsat
  simp only [hflag, hmx, if_true, vreg_eq_lanes, List.map_map]
  rw [← helems, ← hscales, ← hnan, ← hsat]
  rcases hd : draws 256 t.rng with ⟨ds, r⟩
  by_cases hsr : slotF x 30 1 = 1 ∧ s1.flag F.TP_CTRL_SR_EN = true
  all_goals
    simp only [hsr, cvtoMoved, cvtoMode, hd]
    rfl

/-- A conversion to or from 32 bits of the same kind moves the lanes as they are (R273). -/
theorem cvtoRow_takes_same (hop : slotF x 0 6 = 0x21) (hsame : slotF x 26 4 = 12 ∧ slotF x 16 1 = 0 ∨ slotF x 26 4 = 13 ∧ slotF x 16 1 = 1) :
    SlotTakes x s1 k [] (fun t =>
      ((cvtoMoved s1 x t).plan [⟨x.iss.cyc + 4, .land (vrKey (slotF x 6 5) 0) (valWords 256 (packBits 32 (vreg t (slotF x 11 5))))⟩], {}))
      (cvtoRow x s) := by
  have hf : slotF x 26 4 = 12 ∨ slotF x 26 4 = 13 := hsame.imp And.left And.left
  have hmx : fmtMx (slotF x 26 4) = false := by rcases hf with hf | hf <;> rw [hf] <;> rfl
  have hw : fmtBits (slotF x 26 4) = 32 := by rcases hf with hf | hf <;> rw [hf] <;> rfl
  have hp : slotF x 38 3 = 0 := by
    rcases hf with hf | hf <;> simpa [partOk, hf, fmtBits] using hpart
  have hmove : (slotF x 26 4 = 12 ∧ ¬ slotF x 16 1 = 1 ∨ slotF x 26 4 = 13 ∧ slotF x 16 1 = 1) := hsame.imp_left fun h => ⟨h.1, by omega⟩
  unfold cvtoRow
  refine tileRow_takes h (by simp [hop]) (by simp [vecOk, hres, hpart]) (unitsFree_nil _ _ _) fun u hu t g => ?_
  have hflag : u.flag F.TP_CTRL_SR_EN = s1.flag F.TP_CTRL_SR_EN := by rw [State.flag, State.flag, hu.get_eq (by decide)]
  simp only [hflag, hmx, hw, hp]
  rcases hd : draws 256 t.rng with ⟨ds, r⟩
  by_cases hsr : slotF x 30 1 = 1 ∧ s1.flag F.TP_CTRL_SR_EN = true
  all_goals
    simp only [hsr, cvtoMoved, hd]
    simp [hmove]

/-- CVTO to another format lands the lanes converted and packed 4 cycles after issue (R273). -/
theorem cvtoRow_takes_converted (hop : slotF x 0 6 = 0x21) (hmx : fmtMx (slotF x 26 4) = false)
    (hfp : ¬ (slotF x 26 4 = 12 ∧ slotF x 16 1 = 0)) (hint : ¬ (slotF x 26 4 = 13 ∧ slotF x 16 1 = 1)) :
    let f := slotF x 26 4
    let w := fmtBits f
    let p := slotF x 38 3
    SlotTakes x s1 k [] (fun t =>
      let one := fun i =>
        let a := laneOperand t x 11 i
        let r := convert f (slotF x 31 1 = 1) (cvtoMode s1 x t i) (cvtoValue x a) (Config.pick s1.free)
        if f = 2 ∧ (cvtoValue x a).isNan then (nanE4m3 a, r.2) else r
      ((cvtoMoved s1 x t).plan [⟨x.iss.cyc + 4, .land (vrKey (slotF x 6 5) (p * 8 * w))
        (valWords (8 * w) (packBits w ((List.range 256).map fun i => (one i).1)))⟩],
       (List.range 256).foldl (fun g i => g.or (one i).2) {})) (cvtoRow x s) := by
  have hbit : slotF x 16 1 < 2 := Nat.mod_lt _ (by decide)
  have hmove : ¬ (slotF x 26 4 = 12 ∧ ¬ slotF x 16 1 = 1 ∨ slotF x 26 4 = 13 ∧ slotF x 16 1 = 1) := by omega
  unfold cvtoRow
  refine tileRow_takes h (by simp [hop]) (by simp [vecOk, hres, hpart]) (unitsFree_nil _ _ _) fun u hu t g => ?_
  have hflag : u.flag F.TP_CTRL_SR_EN = s1.flag F.TP_CTRL_SR_EN := by rw [State.flag, State.flag, hu.get_eq (by decide)]
  simp only [hflag, hmx, hu.free_eq]
  rcases hd : draws 256 t.rng with ⟨ds, r⟩
  by_cases hsr : slotF x 30 1 = 1 ∧ s1.flag F.TP_CTRL_SR_EN = true
  all_goals
    simp only [hsr, cvtoMoved, cvtoMode, hd, hmove, Bool.false_eq_true, if_false, Bool.not_eq_true', decide_eq_false_iff_not,
      zip_lanes_map, List.map_map, List.foldl_map]
    rfl

end

/-- Settles O41: each vector sub-slot and each conversion is a row whose effect on a tile is the one stated. -/
theorem vectorSlotsCompute : Obligations.VectorSlotsCompute := by
  refine ⟨fun s s1 k x h hres => ⟨fun r hr hop => ?_, fun r hr hop => ?_, fun r hr hop hu => ?_, fun any op hop => ?_, ?_,
    fun hu => ⟨fun hop => ?_, fun hop => ?_⟩⟩,
    fun s s1 k x h hres hpart => ⟨fun hop => ?_, fun hop => ⟨fun hmx hfp hint => ?_, fun hsame => ?_, fun hmx => ?_⟩⟩⟩
  · refine ⟨_, plainLanes_exec r hr x s, ?_⟩
    have hnone : ∀ l : List Nat, (l.any fun _ => false) = false := fun l => by simp
    have htakes := vecRow_takes (p := fun _ _ _ => false) h hres hop (plainLanes_lane r hr)
    simp only [hnone] at htakes
    exact htakes
  · exact ⟨_, floatOps_exec r hr x s, vecRow_takes h hres hop (floatOps_lane r hr)⟩
  · exact ⟨_, specialOps_exec r hr x s, specialRow_takes h hres hr hop hu⟩
  · exact ⟨fun a ha => specialLane_nan ha op any, specialLane_ends any op hop⟩
  · simp only [List.forall_mem_cons, List.not_mem_nil, false_imp_iff, implies_true, and_true]
    exact ⟨fun hop hu => ⟨_, rfl, reduceRow_takes h hres hop hu⟩, fun hop hu => ⟨_, rfl, reduceRow_takes h hres hop hu⟩⟩
  · exact ⟨_, rfl, amov_takes h hres hop hu⟩
  · exact ⟨_, rfl, awr_takes h hres hop hu⟩
  · exact ⟨_, rfl, cvtiRow_takes h hres hpart hop⟩
  · exact ⟨_, rfl, cvtoRow_takes_converted h hres hpart hop hmx hfp hint⟩
  · exact ⟨_, rfl, cvtoRow_takes_same h hres hpart hop hsame⟩
  · exact ⟨_, rfl, cvtoRow_takes_mx h hres hpart hop hmx⟩

end Sys2Proof.Machine
end

section
/-! SUPPORT. Matrix, scale, transfer and AUX slots (spec/07, R255, R265, R267, R317, R320, R321, R324): what is planned in a tile, how a matrix
operation runs to its end, and how the changes of tile registers are applied. -/

namespace Sys2Proof.Machine

open Sys2Proof

/-! ### Sub-slots of the matrix unit and of the ports -/

/-- `n` beats that begin in a cycle and land together. -/
def movePlan (cyc n lands : Nat) (src dst : Nat → Nat) : List TileEv :=
  (List.range n).map fun j => ⟨cyc + j, .move (src j) 32 (dst j) lands⟩

section
variable {s s1 : State} {k : Kern} {x : Slot} (h : Issues s x.iss s1 k)
include h

/-- The operation that an MMA sub-slot begins in a tile. -/
def mmaBegun (x : Slot) (k : Kern) (t : Tile) : Mma :=
  { acc := slotF x 4 2, fa := slotF x 6 4, fb := slotF x 10 4, addrA := tileAddr t (slotF x 15 15) (slotF x 57 3),
    addrB := tileAddr t (slotF x 30 15) (slotF x 60 3), k := 0, steps := slotF x 45 12 + 1,
    sums := if slotF x 14 1 = 1 then List.replicate 4096 0 else t.words k.frame.bankMask (accKey (slotF x 4 2) 0) 4096 }

/-- The units of an MMA sub-slot, and the cycles that it holds them (R325). -/
def mmaNeeds (x : Slot) : Needs :=
  let n := slotF x 45 12 + 1
  [(0, n), (1, n), (2, n), (8 + slotF x 4 2, n + 24)]

theorem mmaRow_takes (hop : slotF x 0 4 = 1) (hfa : slotF x 6 4 ≤ 11) (hfb : slotF x 10 4 ≤ 11) (hres : slotF x 63 1 = 0)
    (hmx : fmtMx (slotF x 6 4) = true ∨ fmtMx (slotF x 10 4) = true →
      (slotF x 45 12 + 1) * min (fmtStep (slotF x 6 4)) (fmtStep (slotF x 10 4)) % 32 = 0 ∧
      (slotF x 45 12 + 1) * min (fmtStep (slotF x 6 4)) (fmtStep (slotF x 10 4)) ≤ 2048)
    (hu : UnitsFree x s1 k (mmaNeeds x)) :
    SlotTakes x s1 k (mmaNeeds x) (fun t => (t.plan [⟨x.iss.cyc, .step (mmaBegun x k t)⟩], {})) (mmaRow x s) := by
  have hok : (decide (slotF x 6 4 ≤ 11) && decide (slotF x 10 4 ≤ 11) && slotF x 63 1 == 0 &&
      (!(fmtMx (slotF x 6 4) || fmtMx (slotF x 10 4)) ||
        ((slotF x 45 12 + 1) * min (fmtStep (slotF x 6 4)) (fmtStep (slotF x 10 4)) % 32 == 0 &&
          decide ((slotF x 45 12 + 1) * min (fmtStep (slotF x 6 4)) (fmtStep (slotF x 10 4)) ≤ 2048)))) = true := by
    by_cases hm : fmtMx (slotF x 6 4) = true ∨ fmtMx (slotF x 10 4) = true
    · simp [hfa, hfb, hres, hmx hm]
    · rw [← Bool.or_eq_true, Bool.not_eq_true] at hm
      simp [hfa, hfb, hres, hm]
  unfold mmaRow
  exact tileRow_takes h (by simp [hop]) hok hu fun _ _ _ _ => rfl

/-- LDSA and LDSB (R265). -/
theorem scaleRow_takes {op p : Nat} (hop : slotF x 0 4 = op) (hres : slotF x 63 1 = 0) (hu : UnitsFree x s1 k [(1 + p, 32)]) :
    SlotTakes x s1 k [(1 + p, 32)] (fun t => (t.plan (movePlan x.iss.cyc 32 (x.iss.cyc + 32)
      (fun j => unitKey (tileAddr t (slotF x 15 15) (slotF x 57 3) + j)) (fun j => scaleKey p (32 * j))), {})) (scaleRow op p x s) := by
  unfold scaleRow
  exact tileRow_takes h (by simp [hop]) (by simp [hres]) hu fun _ _ _ _ => rfl

/-- ACC_ST (R317). -/
theorem accSt_takes (hop : slotF x 0 4 = 4) (hres : slotF x 63 1 = 0) (hu : UnitsFree x s1 k [(3, 128), (8 + slotF x 4 2, 128)]) :
    SlotTakes x s1 k [(3, 128), (8 + slotF x 4 2, 128)] (fun t => (t.plan (movePlan x.iss.cyc 128 (x.iss.cyc + 130)
      (fun j => accKey (slotF x 4 2) (32 * j)) (fun j => unitKey (tileAddr t (slotF x 15 15) (slotF x 57 3) + j))), {}))
      (accRow true x s) := by
  unfold accRow
  exact tileRow_takes h (by simp [hop]) (by simp [hres]) hu fun _ _ _ _ => rfl

/-- ACC_LD (R317). -/
theorem accLd_takes (hop : slotF x 0 4 = 5) (hres : slotF x 63 1 = 0) (hu : UnitsFree x s1 k [(3, 128), (8 + slotF x 4 2, 128)]) :
    SlotTakes x s1 k [(3, 128), (8 + slotF x 4 2, 128)] (fun t => (t.plan (movePlan x.iss.cyc 128 (x.iss.cyc + 130)
      (fun j => unitKey (tileAddr t (slotF x 15 15) (slotF x 57 3) + j)) (fun j => accKey (slotF x 4 2) (32 * j))), {}))
      (accRow false x s) := by
  unfold accRow
  exact tileRow_takes h (by simp [hop]) (by simp [hres]) hu fun _ _ _ _ => rfl

/-- VST (R320). -/
theorem vst_takes (hop : slotF x 0 2 = 1) (hres : slotF x 28 36 = 0) (hu : UnitsFree x s1 k [(7, slotF x 25 3 + 1)]) :
    SlotTakes x s1 k [(7, slotF x 25 3 + 1)] (fun t => (t.plan (movePlan x.iss.cyc (slotF x 25 3 + 1) (x.iss.cyc + (slotF x 25 3 + 1) + 2)
      (fun j => vrKey (slotF x 2 5) (32 * j)) (fun j => unitKey (tileAddr t (slotF x 7 15) (slotF x 22 3) + j))), {}))
      (portRow true x s) := by
  unfold portRow
  exact tileRow_takes h (by simp [hop]) (by simp [hres]) hu fun _ _ _ _ => rfl

section
variable (hop : slotF x 0 2 = 1) (hres : slotF x 28 36 = 0) (hu : UnitsFree x s1 k [(6, slotF x 25 3 + 1)])
include hop hres hu

/-- VLD (R320). -/
theorem vld_takes :
    SlotTakes x s1 k [(6, slotF x 25 3 + 1)] (fun t => (t.plan (movePlan x.iss.cyc (slotF x 25 3 + 1) (x.iss.cyc + (slotF x 25 3 + 1) + 3)
      (fun j => unitKey (tileAddr t (slotF x 7 15) (slotF x 22 3) + j)) (fun j => vrKey (slotF x 2 5) (32 * j))), {}))
      (portRow false x s) := by
  unfold portRow
  exact tileRow_takes h (by simp [hop]) (by simp [hres]) hu fun _ _ _ _ => rfl

/-- Each tile that VLD names holds its load port from the cycle of issue. -/
theorem vld_held {g : Nat} (hg : g ∈ slotTiles k x) :
    tabGet 0 6 (tile (portRow false x s) g).held = x.iss.cyc + (slotF x 25 3 + 1) := by
  have hfold : portRow false x s = (slotTiles k x).foldl (takeSlot x k [(6, slotF x 25 3 + 1)] fun t => (t.plan
      (movePlan x.iss.cyc (slotF x 25 3 + 1) (x.iss.cyc + (slotF x 25 3 + 1) + 3)
        (fun j => unitKey (tileAddr t (slotF x 7 15) (slotF x 22 3) + j)) (fun j => vrKey (slotF x 2 5) (32 * j))), {})) s1 := by
    unfold portRow
    exact tileRow_eq_foldl h (by simp [hop]) (by simp [hres]) hu fun _ _ _ _ => rfl
  rw [hfold]
  obtain ⟨t, ht⟩ := foldl_takeSlot_mem hg
  rw [ht]
  exact tabGet_tabPut_same _ _ _ _

/-- A VLD that takes effect somewhere changes the plane: it holds a load port that was free, or its bundle has stepped the kernel. -/
theorem vld_plane_ne (hsome : slotTiles k x ≠ []) : (portRow false x s).plane ≠ s.plane := by
  intro heq
  obtain ⟨g, hg⟩ := List.exists_mem_of_ne_nil _ hsome
  have htakes : TilesAndFlags (slotTiles k x) s1 (portRow false x s) := (vld_takes h hop hres hu).2.2
  rcases h.upto_or_stepped with hs | hne
  · have hfree := hu g hg
    have hheld := vld_held h hop hres hu hg
    rw [tile, heq] at hheld
    rw [hs] at hfree
    simp only [occupied, List.any_cons, List.any_nil, Bool.or_false, decide_eq_false_iff_not, not_lt] at hfree
    have : tabGet 0 6 (tile s g).held ≤ x.iss.cyc := hfree
    rw [tile] at this
    omega
  · have hsame : activeKern (portRow false x s) = activeKern s := activeKern_congr (by rw [heq]) (by rw [heq])
    exact hne (hsame.symm.trans ((activeKern_congr htakes.active_eq htakes.kerns_eq).trans h.activeKern_eq.1))

/-- VLD of data that ECC corrected counts in every tile that it names (R282). -/
theorem countCorrected_vld : countCorrected x s (portRow false x s) =
    (slotTiles k x).foldl (fun s g => s.bumpSat (F.TP_T_ECC_CORRECTED g)) (portRow false x s) := by
  have htakes : TilesAndFlags (slotTiles k x) s1 (portRow false x s) := (vld_takes h hop hres hu).2.2
  have hactive : activeKern (portRow false x s) = some k :=
    (activeKern_congr htakes.active_eq htakes.kerns_eq).trans h.activeKern_eq.1
  unfold countCorrected
  by_cases hplane : (portRow false x s).plane = s.plane
  · have hnil : slotTiles k x = [] := by
      by_contra hsome
      exact vld_plane_ne h hop hres hu hsome hplane
    rw [if_pos hplane, hnil]
    rfl
  · simp [if_neg hplane, hactive, h.activeKern_eq.2]

end

/-- AUX_ADD and AUX_SET leave their change for after the bundle (R321). -/
theorem auxRow_issues {add : Bool} (hop : slotF x 16 4 = if add then 1 else 2) (hreg : slotF x 20 3 ≠ 0) (hres : slotF x 39 25 = 0) :
    auxRow add x s = putKern s1 { k with aux := k.aux ++ (slotTiles k x).map fun g =>
      (g, slotF x 20 3, add, (sgn 16 (slotF x 23 16) % 32768).toNat) } := by
  rw [auxRow, if_neg (not_not.2 hop), slotRow_issues h, if_neg (by simp [hreg, hres])]

end

/-! ### The words of a tile -/

section
variable {t : Tile} {mask k : Nat}

/-- A word that may be reached reads as it was last stored. -/
theorem word_putWord_same (hk : inMask mask k = true) (v : Nat) : ({ t with mem := t.putWord k v } : Tile).word mask k = v := by
  rw [Tile.word, if_pos hk, Tile.putWord, Tile.unlisted]
  split
  · exact tabGet_tabPutD_same _ _ _ _
  · exact tabGet_tabPut_same _ _ _ _

/-- Storing a word leaves every other. -/
theorem word_putWord_ne {j : Nat} (hj : j ≠ k) (v : Nat) : ({ t with mem := t.putWord k v } : Tile).word mask j = t.word mask j := by
  have hmem : ∀ d : Nat, tabGet d j (t.putWord k v) = tabGet d j t.mem := by
    intro d
    rw [Tile.putWord]
    split
    · exact tabGet_tabPutD_ne _ _ hj
    · exact tabGet_tabPut_ne _ _ hj
  simp only [Tile.word, hmem]
  rfl

/-- Words are stored one after another. -/
theorem put_append_one (t : Tile) (mask k : Nat) (d : List Nat) (v : Nat) : t.put mask k (d ++ [v]) =
    if inMask mask (k + d.length) then { t.put mask k d with mem := (t.put mask k d).putWord (k + d.length) v } else t.put mask k d := by
  simp only [Tile.put, List.length_append, List.length_singleton, List.range_succ]
  rw [List.zip_append (by simp), List.foldl_append]
  rfl

theorem put_evs (t : Tile) (mask k : Nat) (d : List Nat) : (t.put mask k d).evs = t.evs := by
  induction d using List.reverseRecOn with
  | nil => rfl
  | append_singleton d v ih =>
    rw [put_append_one]
    split
    · exact ih
    · exact ih

/-- Words outside the scratchpad read as they were stored. -/
theorem word_put (hk : 2 ^ 20 ≤ k) (d : List Nat) {i : Nat} (hi : i < d.length) : (t.put mask k d).word mask (k + i) = d[i] := by
  have hin : ∀ j, inMask mask (k + j) = true := fun j => by
    rw [inMask, decide_eq_true (hk.trans (Nat.le_add_right _ _)), Bool.true_or]
  induction d using List.reverseRecOn with
  | nil => exact absurd hi (Nat.not_lt_zero _)
  | append_singleton d v ih =>
    rw [put_append_one, if_pos (hin _)]
    by_cases hlast : i = d.length
    · subst hlast
      rw [word_putWord_same (hin _), List.getElem_concat_length rfl]
    · have hi' : i < d.length := by
        rw [List.length_append, List.length_singleton] at hi
        omega
      rw [word_putWord_ne (by omega), ih hi', List.getElem_append_left hi']

theorem words_put (hk : 2 ^ 20 ≤ k) (d : List Nat) : (t.put mask k d).words mask k d.length = d := by
  refine List.ext_getElem (by simp [Tile.words, span]) fun i _ hi => ?_
  simp [Tile.words, span, word_put hk d hi]

end

/-! ### A matrix operation runs to its end (R255, R267) -/

/-- The operation after a step in the tile `t`; what the tile has to do is no part of it. -/
def mmaNext (t : Tile) (mask : Nat) (m : Mma) : Mma := (mmaStep t mask m).1

section
variable (t : Tile) (mask : Nat) (m : Mma)

@[simp] theorem mmaNext_k : (mmaNext t mask m).k = m.k + 1 := rfl
@[simp] theorem mmaNext_steps : (mmaNext t mask m).steps = m.steps := rfl
@[simp] theorem mmaNext_acc : (mmaNext t mask m).acc = m.acc := rfl
theorem mmaNext_sums_length : (mmaNext t mask m).sums.length = 4096 := by simp [mmaNext, mmaStep]

end

/-- A tile with nothing to do stays. -/
theorem runEvs_of_nil {t : Tile} (h : t.evs = []) (mask cyc n : Nat) (g : TFlags) : runEvs mask cyc n t g = (t, g) := by
  cases n with
  | zero => rfl
  | succ n => rw [runEvs, h]; rfl

/-- A tile with one thing to do that is due does it. -/
theorem runEvs_of_one {t : Tile} {e : TileEv} (h : t.evs = [e]) {cyc : Nat} (hdue : e.due ≤ cyc) (mask n : Nat) (g : TFlags) :
    runEvs mask cyc (n + 1) t g =
      runEvs mask cyc n (doEv { t with evs := [] } mask e).1 (g.or (doEv { t with evs := [] } mask e).2) := by
  have hnext : nextEv t.evs cyc = some (0, e) := by
    rw [h]
    exact if_neg (Nat.not_lt.2 hdue)
  rw [runEvs, hnext, h]
  rfl

theorem doEv_land (t : Tile) (mask due k : Nat) (d : List Nat) : (doEv t mask ⟨due, .land k d⟩).1 = t.put mask k d := by
  simp only [doEv]

/-- A matrix operation with `d + 1` steps left takes them, a cycle each, and lands 24 cycles after the last. -/
theorem runEvs_mma {mask cyc d n : Nat} {t : Tile} {m : Mma} {c : Nat} (hevs : t.evs = [⟨c, .step m⟩]) (hleft : m.k + (d + 1) = m.steps)
    (hdue : c + (d + 1) + 24 ≤ cyc) (hfuel : d + 2 ≤ n) (g : TFlags) :
    (runEvs mask cyc n t g).1 =
      ({ t with evs := [] } : Tile).put mask (accKey m.acc 0) ((mmaNext t mask)^[d + 1] m).sums := by
  induction d generalizing t m c n g with
  | zero =>
    obtain ⟨n, rfl⟩ : ∃ k, n = k + 2 := ⟨n - 2, by omega⟩
    have hlast : (mmaNext t mask m).k = (mmaNext t mask m).steps := hleft
    have hdo : (doEv { t with evs := [] } mask ⟨c, .step m⟩).1 =
        { t with evs := [⟨c + 25, .land (accKey m.acc 0) (mmaNext t mask m).sums⟩] } := by
      simp only [doEv]
      exact congrArg (fun e : TileEv => ({ t with evs := [e] } : Tile)) (if_pos hlast)
    have hthen := runEvs_of_one (t := { t with evs := [⟨c + 25, .land (accKey m.acc 0) (mmaNext t mask m).sums⟩] }) rfl
      (show c + 25 ≤ cyc by omega)
    rw [runEvs_of_one hevs (by dsimp only; omega), hdo, hthen, doEv_land, runEvs_of_nil (put_evs _ _ _ _), Function.iterate_one]
  | succ d ih =>
    obtain ⟨n, rfl⟩ : ∃ k, n = k + 1 := ⟨n - 1, by omega⟩
    have hmore : (mmaNext t mask m).k ≠ (mmaNext t mask m).steps := by
      rw [mmaNext_k, mmaNext_steps]
      omega
    have hdo : (doEv { t with evs := [] } mask ⟨c, .step m⟩).1 = { t with evs := [⟨c + 1, .step (mmaNext t mask m)⟩] } := by
      simp only [doEv]
      exact congrArg (fun e : TileEv => ({ t with evs := [e] } : Tile)) (if_neg hmore)
    rw [runEvs_of_one hevs (by dsimp only; omega), hdo,
      ih rfl (by rw [mmaNext_k, mmaNext_steps]; omega) (by omega) (by omega), Function.iterate_succ_apply]
    rfl

/-- A matrix operation of `n` steps lands the sums of its steps in its bank `n` + 24 cycles after it begins. -/
theorem upto_mma {t : Tile} {mask c : Nat} {m : Mma} (hevs : t.evs = [⟨c, .step m⟩]) (hk : m.k = 0) (hsteps : 0 < m.steps) :
    let u := (t.upto mask (c + m.steps + 24)).1
    u.evs = [] ∧ u.words mask (accKey m.acc 0) 4096 = ((mmaNext t mask)^[m.steps] m).sums := by
  obtain ⟨d, hd⟩ : ∃ d, m.steps = d + 1 := ⟨m.steps - 1, by omega⟩
  have hrun : (t.upto mask (c + m.steps + 24)).1 =
      ({ t with evs := [] } : Tile).put mask (accKey m.acc 0) ((mmaNext t mask)^[m.steps] m).sums := by
    rw [hd, Tile.upto]
    refine runEvs_mma hevs (by omega) le_rfl ?_ _
    simp only [hevs, evSteps, List.map_cons, List.map_nil, List.sum_cons, List.sum_nil]
    omega
  have hlength : ((mmaNext t mask)^[m.steps] m).sums.length = 4096 := by
    rw [hd, Function.iterate_succ_apply']
    exact mmaNext_sums_length _ _ _
  have hacc : 2 ^ 20 ≤ accKey m.acc 0 := by
    simp only [accKey]
    omega
  dsimp only
  rw [hrun]
  refine ⟨put_evs _ _ _ _, ?_⟩
  conv_lhs => rw [← hlength]
  exact words_put hacc _

/-! ### The changes of tile registers (R321) -/

/-- What a change leaves in a tile register that held `old`. -/
def auxChanged (add : Bool) (old v : Nat) : Nat := (if add then old + v else v) % 32768

/-- One change of a register is applied to its tile alone. -/
theorem applyAux_one {s : State} {k : Kern} {g r v : Nat} {add : Bool} (h : k.aux = [(g, r, add, v)]) :
    applyAux s k = putTile s g
      { tile s g with mem := tabPutD 0 (trKey r) (auxChanged add (tabGet 0 (trKey r) (tile s g).mem) v) (tile s g).mem } := by
  rw [applyAux, h]
  rfl

/-- Settles O42: each sub-slot is a row whose plan in a tile is the one stated; a matrix operation runs by its steps; a register change is one
store in one tile. -/
theorem matrixSlotsCompute : Obligations.MatrixSlotsCompute := by
  refine ⟨fun s s1 k x h => ⟨fun hop hfa hfb hres hmx hu => ?_,
      fun hres => ⟨fun hop hu => ?_, fun hop hu => ?_, fun hu => ⟨fun hop => ?_, fun hop => ?_⟩⟩,
      fun hop hres => ⟨fun hu => ⟨?_, ?_⟩, fun hu => ?_⟩, fun hreg hres => ⟨fun hop => ?_, fun hop => ?_⟩⟩,
    fun t mask c m hevs hk hsteps => ?_, fun s k g r v add haux => ⟨?_, fun j hj => ?_, fun h hne => ?_⟩⟩
  · exact ⟨_, rfl, mmaRow_takes h hop hfa hfb hres hmx hu⟩
  · exact ⟨_, rfl, scaleRow_takes h hop hres hu⟩
  · exact ⟨_, rfl, scaleRow_takes h hop hres hu⟩
  · exact ⟨_, rfl, accSt_takes h hop hres hu⟩
  · exact ⟨_, rfl, accLd_takes h hop hres hu⟩
  · exact ⟨_, rfl, vld_takes h hop hres hu⟩
  · exact ⟨_, rfl, _, vld_takes h hop hres hu, countCorrected_vld h hop hres hu⟩
  · exact ⟨_, rfl, vst_takes h hop hres hu⟩
  · exact congrArg Host.Outcome.next (auxRow_issues h hop hreg hres)
  · exact congrArg Host.Outcome.next (auxRow_issues h hop hreg hres)
  · have hrun := upto_mma (mask := mask) hevs hk hsteps
    rwa [← show (List.range m.steps).length = m.steps from List.length_range, ← List.foldl_const, List.length_range] at hrun
  · rw [applyAux_one haux, tile_putTile_same]
    refine (tabGet_tabPutD_same _ _ _ _).trans ?_
    cases add <;> rfl
  · rw [applyAux_one haux, tile_putTile_same]
    exact tabGet_tabPutD_ne _ _ hj
  · rw [applyAux_one haux, tile_putTile_ne _ _ _ hne]

end Sys2Proof.Machine
end

section
/-! SUPPORT. Control and synchronisation slots (spec/08, R300, R309 to R313, R322, R323, R329, R353, R354, R357): loops, ends, yield points,
starts of copies, waits, fences and range operations. -/

namespace Sys2Proof.Machine

open Sys2Proof

theorem ring_congr {s u : State} (h : u.rings = s.rings) (g : Nat) : u.ring g = s.ring g := by rw [State.ring, State.ring, h]

/-! ### Control slots (R309 to R311, R329, R357) -/

/-- The kernel after a control slot: IDLE cycles follow (R311). -/
def idleSet (k : Kern) (w : Word) : Kern := { k with idle := bits w.toNat 48 16 }

section
variable {s s1 : State} {k : Kern} {i : Issue} {w : Word} (h : Issues s i s1 k)
include h

/-- A control slot without reserved bits acts on the kernel with its IDLE. -/
theorem controlRow_issues {op top : Nat} (hop : bits w.toNat 0 6 = op) (hres : bits w.toNat top (48 - top) = 0) (f : State → Kern → State) :
    controlRow op top w i f s = f (putKern s1 (idleSet k w)) (idleSet k w) := by
  rw [controlRow, if_neg (not_not.2 hop), slotRow_issues h]
  exact if_neg (not_not.2 hres)

/-- LOOP opens a loop of the next level whose body ends within the open ones and within the stream (R329, R330). -/
theorem loopRow_opens (hop : bits w.toNat 0 6 = 0x01) (hres : bits w.toNat 36 12 = 0) (hlev : bits w.toNat 6 2 = k.loops.length)
    (hin : ∀ m ∈ k.loops, k.bundle + bits w.toNat 24 12 + 1 ≤ m.start + m.len)
    (hlast : k.bundle + bits w.toNat 24 12 + 1 < k.frame.bundles) :
    loopRow w i s = putKern (putKern s1 (idleSet k w)) { idleSet k w with
      loops := { level := bits w.toNat 6 2, start := k.bundle, len := bits w.toNat 24 12 + 1, count := bits w.toNat 8 16 + 1, iter := 0 } ::
        k.loops
      lc := listSet k.lc (bits w.toNat 6 2) 0 } := by
  rw [loopRow, controlRow_issues h hop hres]
  refine if_neg ?_
  rintro (hne | hany | hover)
  · exact hne hlev
  · obtain ⟨m, hm, hlt⟩ := List.any_eq_true.1 hany
    exact absurd (hin m hm) (Nat.not_le.2 (of_decide_eq_true hlt))
  · exact absurd hlast (Nat.not_lt.2 hover)

theorem loopRow_breaks (hop : bits w.toNat 0 6 = 0x01) (hres : bits w.toNat 36 12 = 0)
    (hbad : bits w.toNat 6 2 ≠ k.loops.length ∨ (∃ m ∈ k.loops, m.start + m.len < k.bundle + bits w.toNat 24 12 + 1) ∨
      k.frame.bundles ≤ k.bundle + bits w.toNat 24 12 + 1) :
    loopRow w i s = planError (putKern s1 (idleSet k w)) (idleSet k w) 3 .malformed := by
  rw [loopRow, controlRow_issues h hop hres]
  refine if_pos (hbad.imp_right (Or.imp_left ?_))
  rintro ⟨m, hm, hlt⟩
  exact List.any_eq_true.2 ⟨m, hm, decide_eq_true hlt⟩

theorem tloadRow_loads (hop : bits w.toNat 0 6 = 0x05) (hres : bits w.toNat 12 36 = 0) {row : List Nat}
    (hrow : k.frame.tregs[bits w.toNat 6 6]? = some row) :
    tloadRow w i s = putKern (putKern s1 (idleSet k w)) { idleSet k w with
      aux := (k.tiles.flatMap fun p => (span 1 7).map fun r => (p.2, r, false, row.getD (p.1 * 8 + r) 0)) ++ k.aux } := by
  have hrow' : (idleSet k w).frame.tregs[bits w.toNat 6 6]? = some row := hrow
  rw [tloadRow, controlRow_issues h hop hres, hrow']
  rfl

theorem tloadRow_breaks (hop : bits w.toNat 0 6 = 0x05) (hres : bits w.toNat 12 36 = 0) (hrow : k.frame.tregs.length ≤ bits w.toNat 6 6) :
    tloadRow w i s = planError (putKern s1 (idleSet k w)) (idleSet k w) 4 .malformed := by
  have hrow' : (idleSet k w).frame.tregs[bits w.toNat 6 6]? = none := List.getElem?_eq_none hrow
  rw [tloadRow, controlRow_issues h hop hres, hrow']

end

/-! ### Yield points (R353) -/

section
variable {s : State} {k : Kern} {live : Nat} {isYield met : Bool} {w : Option (Nat × Nat)}

/-- A yield point of a ring that drains ends the kernel and its launch (R247). -/
theorem yieldAt_draining (hst : (s.ring k.ring).st = .draining) {j : Job} (hj : findJob (dropKern (leaveTiles s k) k) k.ring k.idx = some j) :
    yieldAt s k live isYield met w =
      some (finishJob (dropKern (leaveTiles s k) k) j (if (s.ring k.ring).drainPort then .portLost else .abortDisable)) := by
  simp only [yieldAt, if_pos hst, hj]

section
variable (hst : (s.ring k.ring).st ≠ .draining)
include hst

/-- A kernel whose copy has faulted leaves at a yield point while there is room (R353). -/
theorem yieldAt_faulted (hfault : copyFaulted s k = true) (hmet : met = false) (hroom : keptKerns s < 256) :
    yieldAt s k live isYield met w = some (switchOut s { k with pendWait := w } live true) := by
  rw [yieldAt, if_neg hst, if_pos (by simp [hfault, hmet]), if_pos hroom]

theorem yieldAt_no_room (hroom : ¬ keptKerns s < 256) : yieldAt s k live isYield met w = none := by
  simp [yieldAt, hst, hroom]

/-- A WAIT that has its count, or whose kernel has no faulted copy, is no yield point. -/
theorem yieldAt_wait (hok : copyFaulted s k = false ∨ met = true) : yieldAt s k live false met w = none := by
  have hgo : (copyFaulted s k && !met) = false := by rcases hok with h | h <;> simp [h]
  rw [yieldAt, if_neg hst, if_neg (by simp [hgo]), if_neg (by simp)]

section
variable (hok : copyFaulted s k = false)
include hok

theorem yieldAt_due (hroom : keptKerns s < 256) (hdue : (otherWaits s k = true ∧ k.runFrom + 1000 * s.get F.TP_SEQ_CTRL_QUANTUM_US ≤ s.now) ∨
    hazyWithSpare s k = true) : yieldAt s k live true met w = some (switchOut s k live false) := by
  rw [yieldAt, if_neg hst, if_neg (by simp [hok]), if_pos (by simpa [hroom] using hdue)]

theorem yieldAt_not_due (hdue : ¬ (otherWaits s k = true ∧ k.runFrom + 1000 * s.get F.TP_SEQ_CTRL_QUANTUM_US ≤ s.now))
    (hspare : hazyWithSpare s k = false) : yieldAt s k live true met w = none := by
  rw [yieldAt, if_neg hst, if_neg (by simp [hok]), if_neg ?_]
  simp only [hspare, Bool.or_false, Bool.and_eq_true, decide_eq_true_eq]
  exact fun h => hdue h.2

end

end

end

theorem liveOk_iff {k : Kern} {l : Nat} : liveOk k l = true ↔ l = 0xFFF ∨ l < k.frame.lsets.length := by simp [liveOk]

section
variable {s s1 : State} {k : Kern} {i : Issue} {w : Word} (h : Issues s i s1 k) (hop : bits w.toNat 0 6 = 0x03)
  (hres : bits w.toNat 18 30 = 0)
include h hop hres

theorem yieldRow_breaks (hall : bits w.toNat 6 12 ≠ 0xFFF) (hlive : k.frame.lsets.length ≤ bits w.toNat 6 12) :
    yieldRow w i s = planError (putKern s1 (idleSet k w)) (idleSet k w) 4 .malformed := by
  rw [yieldRow, controlRow_issues h hop hres]
  refine if_pos ?_
  rw [Bool.not_eq_true', ← Bool.not_eq_true, liveOk_iff]
  exact not_or.2 ⟨hall, Nat.not_lt.2 hlive⟩

section
variable (hlive : bits w.toNat 6 12 = 0xFFF ∨ bits w.toNat 6 12 < k.frame.lsets.length)
include hlive

theorem yieldRow_issues : yieldRow w i s =
    (yieldAt (putKern s1 (idleSet k w)) (idleSet k w) (bits w.toNat 6 12) true false none).getD (putKern s1 (idleSet k w)) := by
  have hok : liveOk (idleSet k w) (bits w.toNat 6 12) = true := liveOk_iff.2 hlive
  rw [yieldRow, controlRow_issues h hop hres]
  exact if_neg (by simp [hok])

/-- YIELD does what its yield point does. -/
theorem yieldRow_of_some {u : State}
    (hat : yieldAt (putKern s1 (idleSet k w)) (idleSet k w) (bits w.toNat 6 12) true false none = some u) : yieldRow w i s = u := by
  rw [yieldRow_issues h hop hres hlive, hat, Option.getD_some]

/-- YIELD issues as an ordinary bundle where it is no yield point. -/
theorem yieldRow_of_none (hat : yieldAt (putKern s1 (idleSet k w)) (idleSet k w) (bits w.toNat 6 12) true false none = none) :
    yieldRow w i s = putKern s1 (idleSet k w) := by
  rw [yieldRow_issues h hop hres hlive, hat, Option.getD_none]

end

end

/-! ### Switching out (R354) -/

/-- A kernel that is switched out is kept without its tiles, and the plane is free; the pool is as it was. -/
theorem switchOut_keeps {s : State} {k : Kern} (hk : (kernOf s k.ring k.idx).isSome = true) (live : Nat) (fault : Bool) :
    (switchOut s k live fault).plane.active = none ∧ (switchOut s k live fault).store = s.store ∧
      ∃ k2 : Kern, kernOf (switchOut s k live fault) k.ring k.idx = some k2 ∧ k2.st = .out fault ∧ k2.live = live ∧ k2.tiles = [] ∧
        k2.loops = k.loops ∧ k2.lc = k.lc ∧ k2.ev = k.ev ∧ k2.bundle = k.bundle ∧ k2.err = k.err := by
  have hwork : TilesWork s (leaveTiles (settle (applyAux s k) k (k.cyc + 10000)) k) :=
    ((TilesWork.applyAux _ _).trans (.settle _ _ _)).trans (.leaveTiles _ _)
  have hput : ∀ k2 : Kern, k2.ring = k.ring → k2.idx = k.idx →
      kernOf (putKern (leaveTiles (settle (applyAux s k) k (k.cyc + 10000)) k) k2) k.ring k.idx = some k2 :=
    fun k2 hring hidx => kernOf_putKern_same hring hidx ((hwork.kerns _ _).trans hk)
  unfold switchOut
  dsimp only
  split
  all_goals exact ⟨rfl, hwork.store, _, hput _ rfl rfl, rfl, rfl, rfl, rfl, rfl, rfl, rfl, rfl⟩

/-! ### START (R312, R313, R326) -/

theorem startLoop_plane (s : State) (n : Nat) : (startLoop s n).plane = s.plane := by unfold startLoop; split <;> rfl
theorem startLoop_store (s : State) (n : Nat) : (startLoop s n).store = s.store := by unfold startLoop; split <;> rfl
theorem ungate_plane (s : State) (u : Nat) : (ungate s u).plane = s.plane := by unfold ungate; split <;> rfl
theorem ungate_store (s : State) (u : Nat) : (ungate s u).store = s.store := by unfold ungate; split <;> rfl

/-- Does a copy into or out of the scratchpads name a tile that the kernel does not have (R326)? -/
def copyOutside (e : Fin 8) (k : Kern) (c : CopyD) : Prop :=
  (c.op = 0x11 ∨ c.op = 0x12) ∧ ∃ l ∈ maskTiles (e.val / 2) c.tmask, bits k.frame.tileMask l 1 = 0

/-- The loop count that a START passes to its copy. -/
def startLc (k : Kern) (w : Word) : Nat := if bits w.toNat 16 1 = 1 then k.lc.getD (bits w.toNat 17 2) 0 else 0

theorem copyOutside_iff {e : Fin 8} {k : Kern} {c : CopyD} : copyOutside e k c ↔ (c.op = 0x11 ∨ c.op = 0x12) ∧
    (maskTiles (e.val / 2) c.tmask).any (fun l => bits k.frame.tileMask l 1 = 0) = true := by
  simp [copyOutside]

/-- The engine that a START in a slot drives (R313). -/
def startEngine (s : State) (e : Fin 8) (i : Issue) : Nat := slotEngine (s.upto (i.cyc * 5 / 6)) e.val

/-- The copy that a START begins. -/
def kernCopy (s s1 : State) (k : Kern) (e : Fin 8) (i : Issue) (w : Word) : KCopy :=
  { no := s1.plane.nextCopy, ring := k.ring, idx := k.idx, engine := startEngine s e i, entry := bits w.toNat 4 12, lc := startLc k w,
    event := bits w.toNat 19 8, started := i.cyc, slot := e.val }

/-- A copy is added to those under way. -/
def copyStarted (s : State) (x : KCopy) : State :=
  { s with plane := { s.plane with kcopies := s.plane.kcopies ++ [x], nextCopy := s.plane.nextCopy + 1 } }

theorem not_startCopy_beyond {k : Kern} {w : Word} {n : Nat} (hlc : bits w.toNat 16 1 = 0 ∨ startLc k w < n) :
    ¬ (bits w.toNat 16 1 = 1 ∧ startLc k w ≥ n) := by omega

section
variable {s s1 : State} {k : Kern} {e : Fin 8} {i : Issue} {w : Word} {ws : List Word} (h : Issues s i s1 k)
  (hop : bits w.toNat 0 4 = 1) (hres : bits w.toNat 27 37 = 0) (hws : k.frame.copies[bits w.toNat 4 12]? = some ws)
include h hop hres hws

/-- What START does with the entry of the copy table that it names. -/
theorem exec_startCopy_issues : exec (.startCopy e w i) s = .next
    (if bits w.toNat 16 1 = 1 ∧ startLc k w ≥ (copyOf ws).iter then planError s1 k 5 .denied
     else if ((copyOf ws).op = 0x11 ∨ (copyOf ws).op = 0x12) ∧
         (maskTiles (e.val / 2) (copyOf ws).tmask).any (fun l => bits k.frame.tileMask l 1 = 0) then planError s1 k 8 .denied
     else if (s.plane.kcopies.filter fun x => x.engine = startEngine s e i).length ≥ 32 then
       (s.upto (i.cyc * 5 / 6)).bump (F.CPY_C_STALLS_SLOT_STALLS (startEngine s e i))
     else copyStarted (ungate (startLoop s1 2) (0x08 + startEngine s e i)) (kernCopy s s1 k e i w)) := by
  obtain ⟨⟨k0, hactive, hopen⟩, hlt⟩ := h
  simp only [exec, execStartCopy, ne_eq, hop, hres, hws, hactive, hopen, ge_iff_le, Nat.not_le.2 hlt, not_true_eq_false, if_false]
  rfl

/-- A START by a loop count at or beyond ITER_MAX is denied. -/
theorem startCopy_beyond (hlc : bits w.toNat 16 1 = 1) (hiter : (copyOf ws).iter ≤ startLc k w) :
    exec (.startCopy e w i) s = .next (planError s1 k 5 .denied) :=
  (exec_startCopy_issues h hop hres hws).trans (congrArg Host.Outcome.next (if_pos ⟨hlc, hiter⟩))

section
variable (hlc : bits w.toNat 16 1 = 0 ∨ startLc k w < (copyOf ws).iter)
include hlc

theorem startCopy_outside (hout : copyOutside e k (copyOf ws)) : exec (.startCopy e w i) s = .next (planError s1 k 8 .denied) :=
  (exec_startCopy_issues h hop hres hws).trans (congrArg Host.Outcome.next
    ((if_neg (not_startCopy_beyond hlc)).trans (if_pos (copyOutside_iff.1 hout))))

/-- An engine that holds 32 copies holds the bundle, which counts as a stall of its slot (R313). -/
theorem startCopy_stalls (hin : ¬ copyOutside e k (copyOf ws))
    (hfull : 32 ≤ (s.plane.kcopies.filter fun x => x.engine = startEngine s e i).length) :
    exec (.startCopy e w i) s = .next ((s.upto (i.cyc * 5 / 6)).bump (F.CPY_C_STALLS_SLOT_STALLS (startEngine s e i))) :=
  (exec_startCopy_issues h hop hres hws).trans (congrArg Host.Outcome.next
    ((if_neg (not_startCopy_beyond hlc)).trans ((if_neg (mt copyOutside_iff.2 hin)).trans (if_pos hfull))))

/-- A START hands its copy to its engine. -/
theorem startCopy_hands (hin : ¬ copyOutside e k (copyOf ws))
    (hroom : (s.plane.kcopies.filter fun x => x.engine = startEngine s e i).length < 32) :
    exec (.startCopy e w i) s = .next (copyStarted (ungate (startLoop s1 2) (0x08 + startEngine s e i)) (kernCopy s s1 k e i w)) :=
  (exec_startCopy_issues h hop hres hws).trans (congrArg Host.Outcome.next
    ((if_neg (not_startCopy_beyond hlc)).trans ((if_neg (mt copyOutside_iff.2 hin)).trans (if_neg (Nat.not_le.2 hroom)))))

end

end

/-- What a START that hands its copy over leaves: the copy is the last of those under way, and the kernels and the pool are as they were. -/
theorem copyStarted_keeps (s : State) (n : Nat) (x : KCopy) :
    let u := copyStarted (ungate (startLoop s 2) n) x
    u.plane.nextCopy = s.plane.nextCopy + 1 ∧ u.plane.kerns = s.plane.kerns ∧ u.store = s.store ∧
      u.plane.kcopies = s.plane.kcopies ++ [x] := by
  have hplane : (ungate (startLoop s 2) n).plane = s.plane := (ungate_plane _ _).trans (startLoop_plane _ _)
  have hkerns : (copyStarted (ungate (startLoop s 2) n) x).plane.kerns = (ungate (startLoop s 2) n).plane.kerns := rfl
  exact ⟨congrArg (fun p : Plane => p.nextCopy + 1) hplane, by rw [hkerns, hplane],
    (ungate_store _ _).trans (startLoop_store _ _), congrArg (fun p : Plane => p.kcopies ++ [x]) hplane⟩

/-! ### Synchronisation slots (R322, R323) -/

/-- Does the counter of a WAIT have its COUNT? -/
def waitMet (k : Kern) (w : Word) : Bool := decide (bits w.toNat 12 16 ≤ tabGet 0 (bits w.toNat 4 8) k.ev)

/-- What a WAIT does as a yield point, if it is one (R353). -/
def waitLeaves (s : State) (k : Kern) (w : Word) : Option State :=
  if bits w.toNat 40 1 = 1 then
    yieldAt s k (bits w.toNat 28 12) false (waitMet k w) (some (bits w.toNat 4 8, bits w.toNat 12 16))
  else none

/-- The sectors that a range operation names: all where it names none (R323). -/
def rangeSectors (w : Word) : List Nat :=
  if bits w.toNat 24 4 = 0 then List.range 4 else (List.range 4).filter fun n => bits w.toNat (24 + n) 1 = 1

theorem waitOk {k : Kern} {w : Word} (hcount : bits w.toNat 12 16 ≠ 0) (hres : bits w.toNat 41 23 = 0)
    (hlive : bits w.toNat 28 12 = 0xFFF ∨ bits w.toNat 28 12 < k.frame.lsets.length) :
    (if bits w.toNat 12 16 = 0 ∨ bits w.toNat 41 23 ≠ 0 then some 1 else if liveOk k (bits w.toNat 28 12) then none else some 4) =
      (none : Option Nat) := by
  rw [if_neg (not_or.2 ⟨hcount, not_not.2 hres⟩), if_pos (liveOk_iff.2 hlive)]

section
variable {s : State} {k : Kern} {w : Word}

/-- A WAIT leaves the kernel where it is unless it is a yield point whose ring drains, or whose copy has faulted before COUNT is there. -/
theorem waitLeaves_none (h : bits w.toNat 40 1 = 1 →
    (s.ring k.ring).st ≠ .draining ∧ (copyFaulted s k = false ∨ waitMet k w = true)) : waitLeaves s k w = none := by
  rw [waitLeaves]
  split
  · rename_i hsafe
    exact yieldAt_wait (h hsafe).1 (h hsafe).2
  · rfl

/-- A WAIT whose kernel's copy has faulted switches it out, and the counter is looked at again when it resumes. -/
theorem waitLeaves_faulted (hsafe : bits w.toNat 40 1 = 1) (hst : (s.ring k.ring).st ≠ .draining) (hfault : copyFaulted s k = true)
    (hmet : tabGet 0 (bits w.toNat 4 8) k.ev < bits w.toNat 12 16) (hroom : keptKerns s < 256) :
    waitLeaves s k w = some (switchOut s { k with pendWait := some (bits w.toNat 4 8, bits w.toNat 12 16) } (bits w.toNat 28 12) true) :=
  (if_pos hsafe).trans (yieldAt_faulted hst hfault (decide_eq_false (Nat.not_le.2 hmet)) hroom)

end

section
variable {s s1 : State} {k0 k : Kern} {i : Issue} {w : Word} (hactive : activeKern (s.upto (i.cyc * 5 / 6)) = some k0)
  (hopen : openBundle (s.upto (i.cyc * 5 / 6)) k0 i = .go s1 k) (hlt : i.bundle < k.frame.bundles)
include hactive hopen hlt

/-- A synchronisation slot that breaks no range holds its bundle's cycle, or acts. -/
theorem syncRow_issues {op : Nat} (hop : bits w.toNat 0 4 = op) {ok : Nat → Kern → Option Nat} (hok : ok w.toNat k = none)
    (hold : State → Kern → Bool) (f : State → Kern → State) :
    syncRow op w i ok hold f s = if hold s1 k then holdCycle (s.upto (i.cyc * 5 / 6)) k0 else f s1 k := by
  simp only [syncRow, ne_eq, hop, not_true_eq_false, if_false, hactive, hopen, ge_iff_le, Nat.not_le.2 hlt, hok]

section
variable (hop : bits w.toNat 0 4 = 1) (hcount : bits w.toNat 12 16 ≠ 0) (hres : bits w.toNat 41 23 = 0)
  (hlive : bits w.toNat 28 12 = 0xFFF ∨ bits w.toNat 28 12 < k.frame.lsets.length)
include hop hcount hres hlive

/-- A WAIT that is a yield point at which its kernel leaves, leaves. -/
theorem waitRow_leaves {u : State} (hleaves : waitLeaves s1 k w = some u) : waitRow w i s = u := by
  rw [waitRow, syncRow_issues hactive hopen hlt hop (waitOk hcount hres hlive)]
  change (if !waitMet k w && (waitLeaves s1 k w).isNone then _ else match waitLeaves s1 k w with | some s => s | none => _) = u
  rw [hleaves]
  simp

/-- A WAIT whose counter has COUNT takes it. -/
theorem waitRow_takes (hleaves : waitLeaves s1 k w = none) (hmet : bits w.toNat 12 16 ≤ tabGet 0 (bits w.toNat 4 8) k.ev) :
    waitRow w i s =
      putKern s1 { k with ev := tabPutD 0 (bits w.toNat 4 8) (tabGet 0 (bits w.toNat 4 8) k.ev - bits w.toNat 12 16) k.ev } := by
  rw [waitRow, syncRow_issues hactive hopen hlt hop (waitOk hcount hres hlive)]
  change (if !waitMet k w && (waitLeaves s1 k w).isNone then _ else match waitLeaves s1 k w with | some s => s | none => _) = _
  rw [hleaves, waitMet, decide_eq_true hmet]
  rfl

/-- A WAIT whose counter has not COUNT yet is held. -/
theorem waitRow_held (hleaves : waitLeaves s1 k w = none) (hmet : tabGet 0 (bits w.toNat 4 8) k.ev < bits w.toNat 12 16) :
    waitRow w i s = holdCycle (s.upto (i.cyc * 5 / 6)) k0 := by
  rw [waitRow, syncRow_issues hactive hopen hlt hop (waitOk hcount hres hlive)]
  change (if !waitMet k w && (waitLeaves s1 k w).isNone then _ else match waitLeaves s1 k w with | some s => s | none => _) = _
  rw [hleaves, waitMet, decide_eq_false (Nat.not_le.2 hmet)]
  rfl

end

section
variable (hres : bits w.toNat 4 60 = 0)
include hres

theorem spfenceRow_issues (hop : bits w.toNat 0 4 = 2) :
    spfenceRow w i s = if spPending s1 k then holdCycle (s.upto (i.cyc * 5 / 6)) k0 else s1 :=
  syncRow_issues hactive hopen hlt hop (if_neg (not_not.2 hres)) _ _

theorem drainRow_issues (hop : bits w.toNat 0 4 = 5) : drainRow w i s =
    if s1.plane.kcopies.any fun c => c.ring = k.ring && c.idx = k.idx && decide (c.started < i.cyc) then
      holdCycle (s.upto (i.cyc * 5 / 6)) k0 else s1 :=
  syncRow_issues hactive hopen hlt hop (if_neg (not_not.2 hres)) _ _

end

/-- ACQUIRE and FLUSH act on the pool range behind their entry, and the next bundle waits for the sectors named (R323). -/
theorem rangeRow_issues {acq : Bool} (hop : bits w.toNat 0 4 = if acq then 3 else 4) (hzero : bits w.toNat 4 8 = 0)
    (hres : bits w.toNat 28 36 = 0) {r : KRange} (hr : k.frame.ranges[bits w.toNat 12 12]? = some r) {pa : Nat}
    (hpa : poolOf s1 k.ctx r.va r.len (if r.cls = 2 then .wr else .rd) = some pa) :
    rangeRow acq w i s =
      putKern (if acq then acquireRange s1 (rangeSectors w) pa r.len else flushRange s1 (rangeSectors w) pa r.len)
        { k with sync := rangeSectors w } := by
  have hentry : bits w.toNat 12 12 < k.frame.ranges.length := (List.getElem?_eq_some_iff.1 hr).1
  rw [rangeRow, syncRow_issues hactive hopen hlt hop (by simp [hzero, hres, hentry])]
  simp only [hr, hpa]
  rfl

end

/-- Settles O43: each control and synchronisation slot, in the case that the statement names. -/
theorem controlAndSyncSlotsAct : Obligations.ControlAndSyncSlotsAct := by
  refine ⟨⟨fun s s1 k i w h => ⟨fun hop hres => ⟨fun hlev hin hlast => ?_, fun hbad => ?_⟩, fun hop hres => ?_,
        fun hop hres => ⟨fun row hrow => ?_, fun hrow => ?_⟩,
        fun hop hres => ⟨fun hall hlive => ?_, fun hlive => ?_⟩⟩,
      fun s k live fault hk => switchOut_keeps hk live fault,
      fun s s1 k e i w ws h hop hres hws => ⟨fun hlc hiter => ?_, fun hlc => ⟨fun hout => ?_, fun hin => ⟨fun hfull => ?_, fun hroom => ?_⟩⟩⟩⟩,
    fun s s1 k0 k i w hactive hopen hlt => ?_⟩
  · exact congrArg Host.Outcome.next (loopRow_opens h hop hres hlev hin hlast)
  · exact congrArg Host.Outcome.next (loopRow_breaks h hop hres hbad)
  · exact congrArg Host.Outcome.next (controlRow_issues h hop hres _)
  · exact congrArg Host.Outcome.next (tloadRow_loads h hop hres hrow)
  · exact congrArg Host.Outcome.next (tloadRow_breaks h hop hres hrow)
  · exact congrArg Host.Outcome.next (yieldRow_breaks h hop hres hall hlive)
  · have hring : (putKern s1 (idleSet k w)).ring k.ring = s.ring k.ring := ring_congr h.tilesWork.rings _
    rw [← hring]
    refine ⟨fun hst j hj => ?_, fun hst hfault hroom => ?_, fun hst hroom => ?_, fun hst hok => ⟨fun hroom hdue => ?_, fun hdue hspare => ?_⟩⟩
    · exact congrArg Host.Outcome.next (yieldRow_of_some h hop hres hlive (yieldAt_draining (k := idleSet k w) hst hj))
    · exact congrArg Host.Outcome.next (yieldRow_of_some h hop hres hlive (yieldAt_faulted (k := idleSet k w) hst hfault rfl hroom))
    · exact congrArg Host.Outcome.next (yieldRow_of_none h hop hres hlive (yieldAt_no_room (k := idleSet k w) hst hroom))
    · exact congrArg Host.Outcome.next (yieldRow_of_some h hop hres hlive (yieldAt_due (k := idleSet k w) hst hok hroom hdue))
    · exact congrArg Host.Outcome.next (yieldRow_of_none h hop hres hlive (yieldAt_not_due (k := idleSet k w) hst hok hdue hspare))
  · exact startCopy_beyond h hop hres hws hlc hiter
  · exact startCopy_outside h hop hres hws hlc hout
  · exact startCopy_stalls h hop hres hws hlc hin hfull
  · exact ⟨_, startCopy_hands h hop hres hws hlc hin hroom, copyStarted_keeps s1 _ (kernCopy s s1 k e i w)⟩
  · have hring : s1.ring k.ring = s.ring k.ring := ring_congr (Issues.tilesWork ⟨⟨k0, hactive, hopen⟩, hlt⟩).rings _
    rw [← hring]
    refine ⟨fun hop hcount hres hlive => ⟨fun hmet hstay => ?_, fun hless hstay => ?_, fun hless hsafe hst hfault hroom => ?_⟩,
      fun hres => ⟨fun hop => ⟨fun hdone => ?_, fun hpending => ?_⟩, fun hop => ⟨fun hdone => ?_, fun hleft => ?_⟩⟩,
      fun hzero hres r pa hr hpa => ⟨fun hop => ?_, fun hop => ?_⟩⟩
    · refine congrArg Host.Outcome.next (waitRow_takes hactive hopen hlt hop hcount hres hlive (waitLeaves_none fun hsafe => ?_) hmet)
      exact ⟨fun hst => hstay ⟨hsafe, hst⟩, .inr (decide_eq_true hmet)⟩
    · refine congrArg Host.Outcome.next (waitRow_held hactive hopen hlt hop hcount hres hlive (waitLeaves_none fun hsafe => ?_) hless)
      exact ⟨fun hst => hstay ⟨hsafe, .inl hst⟩, .inl (Bool.eq_false_iff.2 fun hfault => hstay ⟨hsafe, .inr hfault⟩)⟩
    · exact congrArg Host.Outcome.next (waitRow_leaves hactive hopen hlt hop hcount hres hlive
        (waitLeaves_faulted hsafe hst hfault hless hroom))
    · exact congrArg Host.Outcome.next ((spfenceRow_issues hactive hopen hlt hres hop).trans (if_neg (Bool.eq_false_iff.1 hdone)))
    · exact congrArg Host.Outcome.next ((spfenceRow_issues hactive hopen hlt hres hop).trans (if_pos hpending))
    · refine congrArg Host.Outcome.next ((drainRow_issues hactive hopen hlt hres hop).trans (if_neg fun hany => hdone ?_))
      simpa [and_assoc] using hany
    · refine congrArg Host.Outcome.next ((drainRow_issues hactive hopen hlt hres hop).trans (if_pos ?_))
      simpa [and_assoc] using hleft
    · exact congrArg Host.Outcome.next (rangeRow_issues (acq := true) hactive hopen hlt hop hzero hres hr hpa)
    · exact congrArg Host.Outcome.next (rangeRow_issues (acq := false) hactive hopen hlt hop hzero hres hr hpa)

end Sys2Proof.Machine
end

section
/-! SUPPORT. The stamps of a kernel that starts (spec/07, R302, R303; spec/08, R351): whatever the write-back caches do when a stamp wraps, the
plane stays as it was. -/

namespace Sys2Proof.Machine

open Sys2Proof

/-! ### Folds that leave the plane -/

theorem foldl_plane {α : Type} {f : State → α → State} (hf : ∀ s a, (f s a).plane = s.plane) (l : List α) (s : State) :
    (l.foldl f s).plane = s.plane :=
  List.foldlRecOn l f (motive := fun u => u.plane = s.plane) rfl fun u hu a _ => (hf u a).trans hu

theorem foldl_snd_plane {α β : Type} {f : β × State → α → β × State} (hf : ∀ x a, (f x a).2.plane = x.2.plane) (l : List α)
    (x : β × State) : (l.foldl f x).2.plane = x.2.plane :=
  List.foldlRecOn l f (motive := fun y => y.2.plane = x.2.plane) rfl fun y hy a _ => (hf y a).trans hy

/-! ### The pool -/

theorem putBytes_plane (s : State) (a : Nat) (l : List Byte) : (s.putBytes a l).plane = s.plane := by
  induction l generalizing s a with
  | nil => rfl
  | cons b l ih => exact ih (s.putByte a b) (a + 1)

theorem placeGranule_plane (s : State) (n p g len : Nat) : (placeGranule s n p g len).2.plane = s.plane := by
  unfold placeGranule
  dsimp only
  split <;> rfl

theorem finishStage_plane (s : State) (gr : Nat) : (finishStage s gr).plane = s.plane := by
  have hbytes : ∀ st : Tab (List Byte), (st.foldl (fun s e => s.putBytes (e.1 * 64) e.2) s).plane = s.plane :=
    fun st => foldl_plane (fun u _ => putBytes_plane u _ _) st s
  unfold finishStage
  dsimp only
  split
  · rfl
  · split
    · exact hbytes _
    · split
      · exact (placeGranule_plane _ _ _ _ _).trans (hbytes _)
      · exact hbytes _

theorem writeLine_plane (s : State) (line a : Nat) (data : List Byte) : (writeLine s line a data).plane = s.plane := by
  unfold writeLine
  dsimp only
  split
  · exact putBytes_plane _ _ _
  · split
    · exact finishStage_plane _ _
    · split <;> split <;> exact putBytes_plane _ _ _

/-! ### The directory -/

theorem sendSnoops_plane (s : State) (t : Txn) : (sendSnoops s t).2.plane = s.plane := by
  unfold sendSnoops
  refine foldl_snd_plane (fun x a => ?_) _ _
  dsimp only
  split
  · rfl
  · split <;> rfl

theorem startTxn_plane (s : State) (line : Nat) (whom : List (Nat × Nat × Nat × Bool)) (what : TxnFor) :
    (startTxn s line whom what).plane = s.plane := by
  unfold startTxn
  exact sendSnoops_plane s _

theorem recallLine_plane (s : State) (line : Nat) (write : Bool) (what : TxnFor) : (recallLine s line write what).plane = s.plane := by
  unfold recallLine
  split
  · rfl
  · split
    · rfl
    · split
      · split
        · rfl
        · exact startTxn_plane _ _ _ _
      · split
        · exact startTxn_plane _ _ _ _
        · rfl

/-! ### Write-backs and stamps -/

theorem dropGuest_plane (s : State) (n line : Nat) : (dropGuest s n line).plane = s.plane := by
  unfold dropGuest
  dsimp only
  split <;> rfl

theorem putGuest_plane (s : State) (n line : Nat) (g : Guest) : (putGuest s n line g).plane = s.plane := rfl

theorem applyBack_plane (s : State) (n line : Nat) (gone : Bool) : (applyBack s n line gone).plane = s.plane := by
  unfold applyBack
  split
  · rfl
  · dsimp only
    rw [apply_ite State.plane, dropGuest_plane, putGuest_plane, ite_self]
    split
    · rfl
    · split
      · exact writeLine_plane _ _ _ _
      · exact putBytes_plane _ _ _

theorem drainBacks_plane (s : State) : (drainBacks s).plane = s.plane := by
  unfold drainBacks
  refine foldl_plane (fun u w => ?_) _ _
  split
  · exact recallLine_plane _ _ _ _
  · exact applyBack_plane _ _ _ _

theorem writeBacks_plane (s : State) (n : Nat) (ls : List Nat) (gone : Bool) : (writeBacks s n ls gone).plane = s.plane := by
  unfold writeBacks
  refine (drainBacks_plane _).trans ?_
  dsimp only
  split
  · exact foldl_plane (fun u _ => dropGuest_plane u _ _) _ _
  · rfl

theorem nextStamp_plane (s : State) (n : Nat) : (nextStamp s n).2.plane = s.plane := by
  simp only [nextStamp, apply_ite (fun x : Nat × State => x.2.plane), State.bumpSat_plane, State.set_plane, writeBacks_plane, ite_self]

theorem kernStamps_plane (s : State) (c : Nat) : (kernStamps s c).2.plane = s.plane := by
  unfold kernStamps
  split
  · rfl
  · refine foldl_snd_plane (fun x n => ?_) _ _
    dsimp only
    exact nextStamp_plane x.2 n

end Sys2Proof.Machine
end

section
/-! SUPPORT. The end of a kernel (spec/08, R282, R302, R349, R350, R357, R360): its flush, its code and its restart, and the idle tiles (spec/07,
R283, R287). -/

namespace Sys2Proof.Machine

open Sys2Proof

/-! ### The end of a kernel (R302, R357) -/

/-- A kernel that is to end: it is ending, or a fault has ended it while it was switched out. -/
def kernEnded (k : Kern) : Bool := decide (k.st = .ending) || (k.isOut && decide (k.err ≠ none))

/-- The kernel's context has been flushed, once what the kernel had under way has landed. -/
def endFlushed (s : State) (k : Kern) : State :=
  if k.flushed then s
  else flushContext (putKern (settle (applyAux s k) k (k.cyc + 10000)) { k with flushed := true, aux := [] }) [0, 1, 2, 3] k.ctx

/-- The kernel has left its tiles and the plane, and is counted. -/
def kernLeft (s : State) (k : Kern) : State := (dropKern (leaveTiles (countStalls s k) k) k).bump F.TP_SEQ_STATS_KERNELS

/-- The kernel has left, and its launch completes with the kernel's code. -/
def kernDone (s : State) (k : Kern) : State :=
  match findJob (kernLeft s k) k.ring k.idx with
  | some j => if j.st = .finished then kernLeft s k else finishJob (kernLeft s k) j (kernCode s k).1 (kernCode s k).2
  | none => kernLeft s k

theorem kernDone_finishes {s : State} {k : Kern} {j : Job} (hj : findJob (kernLeft s k) k.ring k.idx = some j) (hst : j.st ≠ .finished) :
    kernDone s k = finishJob (kernLeft s k) j (kernCode s k).1 (kernCode s k).2 := by
  rw [kernDone, hj]
  exact if_neg hst

/-- KERNEL_COMPLETE of a kernel without copies flushes its context, and waits for the write-backs before the kernel is done. -/
theorem exec_kernelComplete {s : State} {t : Nat} {k : Kern} (hfind : s.plane.kerns.find? kernEnded = some k)
    (hcopies : ∀ c ∈ s.plane.kcopies, ¬ (c.ring = k.ring ∧ c.idx = k.idx)) :
    exec (.kernelComplete t) s = .next (if backsOpen (endFlushed (s.upto t) k) [0, 1, 2, 3] then endFlushed (s.upto t) k
      else kernDone (endFlushed (s.upto t) k) ((kernOf (endFlushed (s.upto t) k) k.ring k.idx).getD k)) := by
  have hended : (fun k : Kern => k.st = .ending || (k.isOut && k.err != none)) = kernEnded := by
    have herr : ∀ e : Option (Code × Nat), (e != none) = decide (e ≠ none) := fun e => by cases e <;> rfl
    funext x
    rw [kernEnded, herr]
  have hfind' : (s.upto t).plane.kerns.find? (fun k : Kern => k.st = .ending || (k.isOut && k.err != none)) = some k := hended ▸ hfind
  have hnone : ¬ (s.upto t).plane.kcopies.any (fun c => c.ring = k.ring && c.idx = k.idx) = true := by simpa using hcopies
  simp only [exec, execKernelComplete, hfind', if_neg hnone]
  rfl

theorem kernOf_dropKern (s : State) (k : Kern) : kernOf (dropKern s k) k.ring k.idx = none := by
  simp only [kernOf, dropKern, List.find?_eq_none, List.mem_filter]
  rintro x ⟨-, hx⟩ hk
  simp [hk] at hx

theorem countStalls_store (s : State) (k : Kern) : (countStalls s k).store = s.store := by
  have hstep : ∀ (l : List Fld) (u : State), (l.foldl (fun u f => u.takeFree.2.bumpSat f u.takeFree.1) u).store = u.store :=
    fun l u => List.foldlRecOn l _ (motive := fun v : State => v.store = u.store) rfl fun _ hv _ _ => hv
  unfold countStalls
  split
  · rfl
  · dsimp only
    split
    · exact List.foldlRecOn k.tiles _ (motive := fun v : State => v.store = s.store) rfl fun v hv p _ => (hstep _ v).trans hv
    · rfl

theorem kernLeft_store (s : State) (k : Kern) : (kernLeft s k).store = s.store :=
  (TilesWork.leaveTiles _ _).store.trans (countStalls_store s k)

theorem kernOf_kernLeft (s : State) (k : Kern) : kernOf (kernLeft s k) k.ring k.idx = none := kernOf_dropKern _ k

/-! ### A restart (R282, R360) -/

/-- A kernel gives up the banks of a tile that it has kept (R354). -/
def kernGivesUp (g mask : Nat) (k : Kern) : Kern :=
  { k with kept := k.kept.map fun x => if x.phys = g then { x with banks := x.banks.filter fun b => bits mask b 1 = 0 } else x }

theorem TilesWork.giveUpBanks (s : State) (g mask : Nat) : TilesWork s (giveUpBanks s g mask) := by
  refine ⟨rfl, rfl, rfl, rfl, fun r i => ?_⟩
  change ((s.plane.kerns.map (kernGivesUp g mask)).find? _).isSome = _
  rw [find?_map_kerns (f := kernGivesUp g mask) (fun _ => ⟨rfl, rfl⟩), Option.isSome_map, kernOf]

theorem TilesWork.wakeTile (s : State) (k : Kern) (l g : Nat) (kept : Option KeptTile) : TilesWork s (wakeTile s k l g kept).2 := by
  have hfree : ∀ n : Nat, TilesWork s { s with free := n } := fun n => of_plane rfl rfl rfl
  unfold Machine.wakeTile
  exact (hfree _).trans <| (putTile _ _ _).trans <| (giveUpBanks _ _ _).trans <| (set _ _ _).trans <| (set _ _ _).trans <| (set _ _ _).trans <|
    setFlag _ _ _

theorem TilesWork.wakeTiles (s : State) (k : Kern) (ts : List (Nat × Nat)) : TilesWork s (wakeTiles s k ts).2 :=
  List.foldlRecOn ts _ (motive := fun x : Nat × State => TilesWork s x.2) (TilesWork.refl s)
    fun _ hx _ _ => hx.trans (TilesWork.wakeTile _ _ _ _ _)

/-- A kernel that starts is on the plane with its count of restarts, and the copies under way are as they were. -/
theorem startKern_starts {s : State} {k : Kern} (ts : List (Nat × Nat)) (hk : (kernOf s k.ring k.idx).isSome = true) :
    (startKern s k ts).plane.kcopies = s.plane.kcopies ∧
      ∃ k2 : Kern, kernOf (startKern s k ts) k.ring k.idx = some k2 ∧ k2.st = .starting ∧ k2.restarts = k.restarts ∧ k2.frame = k.frame ∧
        k2.hurt = k.hurt := by
  have hwake : TilesWork s (wakeTiles s k ts).2 := .wakeTiles _ _ _
  have hclear : ∀ u : State, TilesWork u (ts.foldl (fun u p => (tileFlags p.2).foldl (fun u f => u.set f 0) u) u) :=
    TilesWork.foldl (fun _ _ => .foldl (fun _ _ => .set _ _ _) _ _) ts
  have hwork := hwake.trans (hclear _)
  have hstamps := kernStamps_plane (ts.foldl (fun u p => (tileFlags p.2).foldl (fun u f => u.set f 0) u) (wakeTiles s k ts).2) k.ctx
  have hsome : (kernOf (kernStamps (ts.foldl (fun u p => (tileFlags p.2).foldl (fun u f => u.set f 0) u) (wakeTiles s k ts).2) k.ctx).2
      k.ring k.idx).isSome = true := by
    rw [kernOf_congr (congrArg Plane.kerns hstamps), hwork.kerns, hk]
  have hcopies := (congrArg Plane.kcopies hstamps).trans hwork.kcopies
  unfold startKern
  dsimp only
  split
  all_goals exact ⟨hcopies, _, kernOf_putKern_same rfl rfl hsome, rfl, rfl, rfl, rfl⟩

/-- What stops a kernel for a restart: an error in a scratchpad of one of its tiles, or one that has hurt it already. -/
def restartHit (tl : Option (Fin 64)) (k : Kern) : Prop :=
  match tl with
  | some g => ∃ p ∈ k.tiles, p.2 = g.val
  | none => k.hurt = true

/-- The error of a scratchpad is counted in its tile. -/
def eccNoted (s : State) (tl : Option (Fin 64)) : State :=
  match tl with
  | some g => s.bumpSat (F.TP_T_ECC_UNCORRECTED g.val)
  | none => s

/-- May a kernel begin again (R360)? -/
def mayRestart (s : State) (k : Kern) : Prop :=
  k.restartable = true ∧ k.restarts < s.get F.TP_SEQ_CTRL_MAX_RESTARTS ∧ k.err = none

/-- The kernel that begins again from bundle 0. -/
def kernAgain (k : Kern) : Kern :=
  { ring := k.ring, idx := k.idx, ctx := k.ctx, frame := k.frame, st := .queued, restartable := true, restarts := k.restarts + 1,
    startedAt := k.startedAt }

/-- The kernel's copies are dropped, and no kernel is on the plane. -/
def copiesDropped (s : State) (k : Kern) : State :=
  { s with plane := { s.plane with
      kcopies := s.plane.kcopies.filter fun c => !(c.ring = k.ring && c.idx = k.idx), active := none } }

/-- The banks of a tile lose what the kernel has stored there. -/
def banksWiped (k : Kern) (s : State) (p : Nat × Nat) : State :=
  (putTile s p.2 { tile s p.2 with
    mem := (tile s p.2).mem.filter fun e => !(decide (e.1 < 2 ^ 20) && inMask k.frame.bankMask e.1) }).set (F.TP_T_STATUS_BANKS_ON p.2) 0

/-- The kernel is queued again, and its restart is counted. -/
def kernRequeued (s : State) (k : Kern) : State :=
  (putKern (k.tiles.foldl (banksWiped k) (leaveTiles (copiesDropped s k) k)) (kernAgain k)).bumpSat F.TP_SEQ_STATS_RESTARTS

/-- The kernel that is queued again starts at once where its tiles are to be had. -/
def kernRestarted (s : State) (k : Kern) : State :=
  match mapTiles (kernRequeued s k) k.frame.tileMask with
  | some ts => startKern (kernRequeued s k) (kernAgain k) ts
  | none => match findJob (kernRequeued s k) k.ring k.idx with
    | some j => putJob (kernRequeued s k) { j with st := .queued }
    | none => kernRequeued s k

theorem TilesWork.eccNoted (s : State) (tl : Option (Fin 64)) : TilesWork s (eccNoted s tl) := by
  cases tl with
  | none => exact refl s
  | some g => exact bumpSat _ _ _

/-- Counting an error leaves the sequencer's registers. -/
theorem eccNoted_get (s : State) (tl : Option (Fin 64)) {f : Fld} (hf : 0x33000 ≤ f.key / 64) : (eccNoted s tl).get f = s.get f := by
  cases tl with
  | none => rfl
  | some g =>
    refine State.get_bumpSat_ne _ _ fun hk => ?_
    have hoff : (F.TP_T_ECC_UNCORRECTED g.val).key / 64 = 0x31020 + 0x40 * g.val := Fld.key_div rfl
    have := g.isLt
    omega

section
variable {s : State} {tl : Option (Fin 64)} {t : Nat} {k : Kern} (hactive : activeKern s = some k) (hflushed : k.flushed = false)
  (hhit : restartHit tl k)
include hactive hflushed hhit

/-- KERNEL_RESTART of a kernel that is hit has it begin again, or end. -/
theorem exec_kernelRestart_hit : exec (.kernelRestart tl t) s = .next
    (if k.restartable = true ∧ k.restarts < (eccNoted (s.upto t) tl).get F.TP_SEQ_CTRL_MAX_RESTARTS ∧ k.err = none then
      kernRestarted (eccNoted (s.upto t) tl) k
    else putKern (eccNoted (s.upto t) tl) { k with hurt := true, st := .ending }) := by
  have hactive' : activeKern (s.upto t) = some k := hactive
  cases tl with
  | none =>
    have hhurt : k.hurt = true := hhit
    simp only [exec, execKernelRestart, hactive', hflushed, hhurt]
    rfl
  | some g =>
    have hany : (k.tiles.any fun p => p.2 = g.val) = true := by simpa [restartHit] using hhit
    simp only [exec, execKernelRestart, hactive', hflushed, hany]
    rfl

theorem exec_kernelRestart_again (hagain : mayRestart s k) :
    exec (.kernelRestart tl t) s = .next (kernRestarted (eccNoted (s.upto t) tl) k) := by
  rw [exec_kernelRestart_hit hactive hflushed hhit, if_pos]
  rw [eccNoted_get _ _ (by decide)]
  exact hagain

theorem exec_kernelRestart_ends (hnot : ¬ mayRestart s k) :
    exec (.kernelRestart tl t) s = .next (putKern (eccNoted (s.upto t) tl) { k with hurt := true, st := .ending }) := by
  rw [exec_kernelRestart_hit hactive hflushed hhit, if_neg]
  rw [eccNoted_get _ _ (by decide)]
  exact hnot

end

section
variable {s : State} {k : Kern}

/-- Leaving its tiles and wiping their banks touches no kernel and no copy. -/
theorem tilesWork_wiped : TilesWork (copiesDropped s k) (k.tiles.foldl (banksWiped k) (leaveTiles (copiesDropped s k) k)) :=
  (TilesWork.leaveTiles _ _).trans (.foldl (fun _ _ => (TilesWork.putTile _ _ _).trans (.set _ _ _)) _ _)

theorem kernRequeued_kcopies : ∀ c ∈ (kernRequeued s k).plane.kcopies, ¬ (c.ring = k.ring ∧ c.idx = k.idx) := by
  intro c hc
  have hmem : c ∈ (copiesDropped s k).plane.kcopies := tilesWork_wiped.kcopies ▸ hc
  rintro ⟨hring, hidx⟩
  simpa [hring, hidx] using (List.mem_filter.1 hmem).2

theorem kernOf_kernRequeued (hk : (kernOf s k.ring k.idx).isSome = true) :
    kernOf (kernRequeued s k) k.ring k.idx = some (kernAgain k) := by
  exact kernOf_putKern_same rfl rfl ((tilesWork_wiped.kerns _ _).trans hk)

/-- A kernel that begins again is queued or starts, with one restart more and none of its copies. -/
theorem kernRestarted_keeps (hk : (kernOf s k.ring k.idx).isSome = true) :
    ∃ k2 : Kern, kernOf (kernRestarted s k) k.ring k.idx = some k2 ∧ k2.restarts = k.restarts + 1 ∧ k2.frame = k.frame ∧
      (k2.st = .queued ∨ k2.st = .starting) ∧ k2.hurt = false ∧
      (∀ c ∈ (kernRestarted s k).plane.kcopies, ¬ (c.ring = k.ring ∧ c.idx = k.idx)) := by
  have hagain := kernOf_kernRequeued hk
  have hqueued : ∀ u : State, u.plane = (kernRequeued s k).plane → ∃ k2 : Kern, kernOf u k.ring k.idx = some k2 ∧
      k2.restarts = k.restarts + 1 ∧ k2.frame = k.frame ∧ (k2.st = .queued ∨ k2.st = .starting) ∧ k2.hurt = false ∧
      (∀ c ∈ u.plane.kcopies, ¬ (c.ring = k.ring ∧ c.idx = k.idx)) := fun u hu =>
    ⟨_, (kernOf_congr (congrArg Plane.kerns hu) _ _).trans hagain, rfl, rfl, .inl rfl, rfl, by rw [hu]; exact kernRequeued_kcopies⟩
  unfold kernRestarted
  split
  · rename_i ts _
    have hsome : (kernOf (kernRequeued s k) (kernAgain k).ring (kernAgain k).idx).isSome = true := Option.isSome_iff_exists.2 ⟨_, hagain⟩
    obtain ⟨hcopies, k2, hk2, hst, hrestarts, hframe, hhurt⟩ := startKern_starts ts hsome
    exact ⟨k2, hk2, hrestarts, hframe, .inr hst, hhurt, by rw [hcopies]; exact kernRequeued_kcopies⟩
  · split
    · exact hqueued _ rfl
    · exact hqueued _ rfl

end

/-! ### The code of a kernel (R349, R350) -/

section
variable (s : State) {k : Kern}

theorem kernCode_of_err {c : Code} {b : Nat} (h : k.err = some (c, b)) : kernCode s k = (c, k.restarts % 16 + 16 * b) := by
  simp [kernCode, h]

section
variable (herr : k.err = none)
include herr

theorem kernCode_of_hurt (hhurt : k.hurt = true) : kernCode s k = (.poison, k.restarts % 16) := by
  simp [kernCode, herr, hhurt]

theorem kernCode_of_bankErr (hhurt : k.hurt = false) (hbank : k.bankErr = true) : kernCode s k = (.denied, k.restarts % 16) := by
  simp [kernCode, herr, hhurt, hbank]

/-- A kernel without an error is OK, or RESTARTED, and tells how long it ran. -/
theorem kernCode_of_ok (hhurt : k.hurt = false) (hbank : k.bankErr = false) : kernCode s k =
    (if k.restarts = 0 then .ok else .restarted, k.restarts % 16 + 16 * min ((s.now - k.startedAt) / 1000) (2 ^ 26 - 1)) := by
  by_cases hr : k.restarts = 0
  · simp [kernCode, herr, hhurt, hbank, hr]
  · simp [kernCode, herr, hhurt, hbank, hr]

end

end

/-! ### Idle tiles (R283, R287) -/

/-- The fields that the idle timers of a tile set. -/
def idleKeys (g : Nat) : List Nat := [F.TP_T_STATUS_STATE g, F.TP_T_STATUS_BANKS_ON g, F.TP_T_STATUS_BANKS_RET g].map Fld.key

/-- A tile goes to RETENTION: it loses its registers, and its banks that keep nothing. -/
def idleLost (s : State) (g : Nat) : State :=
  let u := putTile { s with free := s.free + 1 } g { tile s g with
    mem := (tile s g).mem.filter fun e => decide (e.1 < 2 ^ 20) && (keptBanks s g).contains (e.1 / 65536), lost := s.free + 1 }
  { u with clk := { u.clk with idleT := s.now } }

def idleRetained (s : State) (g : Nat) : State :=
  (((idleLost s g).set (F.TP_T_STATUS_STATE g) 1).set (F.TP_T_STATUS_BANKS_ON g) 0).set (F.TP_T_STATUS_BANKS_RET g) (bankBits (keptBanks s g))

/-- A tile goes to OFF. -/
def idleOff (s : State) (g : Nat) : State := (s.set (F.TP_T_STATUS_STATE g) 0).set (F.TP_T_STATUS_BANKS_RET g) 0

/-- TILE_IDLE_TIMER of a tile without a kernel. -/
theorem exec_tileIdleTimer_idle {s : State} {g : Fin 64} (t : Nat) (hidle : ∀ k : Kern, activeKern s = some k → ∀ p ∈ k.tiles, p.2 ≠ g.val) :
    exec (.tileIdleTimer g t) s = .next
      (if s.get (F.TP_T_STATUS_STATE g) = 2 ∧ 1000 * s.get F.TP_POWER_CFG_TILE_RET_US ≤ max s.now t - (tile s g).idleAt then
        idleRetained (s.upto t) g
      else if s.get (F.TP_T_STATUS_STATE g) = 1 ∧ 1000000 * s.get F.TP_POWER_CFG_TILE_OFF_MS ≤ max s.now t - (tile s g).idleAt ∧
          keptBanks s g = [] then idleOff (s.upto t) g
      else s.upto t) := by
  have hbusy : (match activeKern (s.upto t) with | some k => k.tiles.any fun p => p.2 = g.val | none => false) = false := by
    change (match activeKern s with | some k => k.tiles.any fun p => p.2 = g.val | none => false) = false
    cases hk : activeKern s with
    | none => rfl
    | some k => simpa using hidle k hk
  simp only [exec, execTileIdleTimer]
  refine congrArg Host.Outcome.next ((if_neg ?_).trans rfl)
  exact Bool.eq_false_iff.1 hbusy

theorem tileStatus_state_ne_on (g : Nat) : (F.TP_T_STATUS_STATE g).key ≠ (F.TP_T_STATUS_BANKS_ON g).key := by
  simp [Fld.key, F.TP_T_STATUS_STATE, F.TP_T_STATUS_BANKS_ON]

theorem tileStatus_state_ne_ret (g : Nat) : (F.TP_T_STATUS_STATE g).key ≠ (F.TP_T_STATUS_BANKS_RET g).key := by
  simp [Fld.key, F.TP_T_STATUS_STATE, F.TP_T_STATUS_BANKS_RET]

theorem tileStatus_on_ne_ret (g : Nat) : (F.TP_T_STATUS_BANKS_ON g).key ≠ (F.TP_T_STATUS_BANKS_RET g).key := by
  simp [Fld.key, F.TP_T_STATUS_BANKS_ON, F.TP_T_STATUS_BANKS_RET]

theorem idleRetained_fields (s : State) (g : Nat) :
    (idleRetained s g).get (F.TP_T_STATUS_STATE g) = 1 ∧ (idleRetained s g).get (F.TP_T_STATUS_BANKS_ON g) = 0 ∧
      (idleRetained s g).get (F.TP_T_STATUS_BANKS_RET g) = bankBits (keptBanks s g) % 2 ^ 16 ∧
      (∀ f : Fld, f.key ∉ idleKeys g → (idleRetained s g).get f = s.get f) ∧ (idleRetained s g).store = s.store := by
  have honly : OnlyFields (idleKeys g) (idleLost s g) (idleRetained s g) :=
    (((OnlyFields.refl _ _).set _ _ (by simp [idleKeys])).set _ _ (by simp [idleKeys])).set _ _ (by simp [idleKeys])
  refine ⟨?_, ?_, State.get_set_same _ _ _, fun f hf => honly.1 f hf, rfl⟩
  · exact (State.get_set_ne _ _ (tileStatus_state_ne_ret g)).trans
      ((State.get_set_ne _ _ (tileStatus_state_ne_on g)).trans (State.get_set_same _ _ _))
  · exact (State.get_set_ne _ _ (tileStatus_on_ne_ret g)).trans (State.get_set_same _ _ _)

theorem idleOff_fields (s : State) (g : Nat) :
    (idleOff s g).get (F.TP_T_STATUS_STATE g) = 0 ∧ (idleOff s g).get (F.TP_T_STATUS_BANKS_RET g) = 0 ∧
      OnlyFields (idleKeys g) s (idleOff s g) :=
  ⟨(State.get_set_ne _ _ (tileStatus_state_ne_ret g)).trans (State.get_set_same _ _ _), State.get_set_same _ _ _,
    ((OnlyFields.refl _ _).set _ _ (by simp [idleKeys])).set _ _ (by simp [idleKeys])⟩

section
variable {s : State} {g : Fin 64} {t : Nat} (hidle : ∀ k : Kern, activeKern s = some k → ∀ p ∈ k.tiles, p.2 ≠ g.val)
include hidle

theorem exec_tileIdleTimer_retains (hon : s.get (F.TP_T_STATUS_STATE g) = 2)
    (hlong : 1000 * s.get F.TP_POWER_CFG_TILE_RET_US ≤ max s.now t - (tile s g).idleAt) :
    exec (.tileIdleTimer g t) s = .next (idleRetained (s.upto t) g) := by
  rw [exec_tileIdleTimer_idle t hidle, if_pos ⟨hon, hlong⟩]

theorem exec_tileIdleTimer_off (hret : s.get (F.TP_T_STATUS_STATE g) = 1) (hnone : keptBanks s g = [])
    (hlong : 1000000 * s.get F.TP_POWER_CFG_TILE_OFF_MS ≤ max s.now t - (tile s g).idleAt) :
    exec (.tileIdleTimer g t) s = .next (idleOff (s.upto t) g) := by
  rw [exec_tileIdleTimer_idle t hidle, if_neg (by simp [hret]), if_pos ⟨hret, hlong, hnone⟩]

theorem exec_tileIdleTimer_stays (hoff : s.get (F.TP_T_STATUS_STATE g) = 0) : exec (.tileIdleTimer g t) s = .next (s.upto t) := by
  rw [exec_tileIdleTimer_idle t hidle, if_neg (by simp [hoff]), if_neg (by simp [hoff])]

end

/-- Settles O47: the end of a kernel, its code, its restart and the timers of idle tiles, each in the case that the statement names. -/
theorem kernelEndGivesCode : Obligations.KernelEndGivesCode := by
  refine ⟨fun s t k hk hfind hcopies => ?_, fun s k => ?_, fun s tl t k hactive hflushed hhit => ?_, fun s g t hidle => ?_⟩
  · have hexec := exec_kernelComplete (t := t) hfind hcopies
    refine ⟨fun hopen => hexec.trans (congrArg Host.Outcome.next (if_pos hopen)), fun k1 j hclosed hk1 hj hunfinished => ?_⟩
    obtain ⟨hring, hidx⟩ := kernOf_ring hk1
    refine ⟨hexec.trans (congrArg Host.Outcome.next ((if_neg (Bool.eq_false_iff.1 hclosed)).trans ?_)), ?_, kernLeft_store _ k1⟩
    · exact (congrArg (fun x : Option Kern => kernDone _ (x.getD k)) hk1).trans (kernDone_finishes hj hunfinished)
    · rw [← hring, ← hidx]
      exact kernOf_kernLeft _ k1
  · exact ⟨fun c b h => kernCode_of_err s h, kernCode_of_hurt s, kernCode_of_bankErr s, kernCode_of_ok s⟩
  · obtain ⟨-, hk⟩ := activeKern_iff.1 hactive
    have hsome : (kernOf (eccNoted (s.upto t) tl) k.ring k.idx).isSome = true := by
      rw [(TilesWork.eccNoted _ _).kerns]
      exact Option.isSome_iff_exists.2 ⟨k, hk⟩
    refine ⟨fun hagain => ⟨_, exec_kernelRestart_again hactive hflushed hhit hagain, kernRestarted_keeps hsome⟩,
      fun hnot => ⟨_, exec_kernelRestart_ends hactive hflushed hhit hnot, ?_⟩⟩
    exact ⟨_, kernOf_putKern_same rfl rfl hsome, rfl, rfl, rfl, (TilesWork.eccNoted (s.upto t) tl).store⟩
  · exact ⟨fun hon hlong => ⟨_, exec_tileIdleTimer_retains hidle hon hlong, idleRetained_fields _ _⟩,
      fun hret hnone hlong => ⟨_, exec_tileIdleTimer_off hidle hret hnone hlong, idleOff_fields _ _⟩,
      exec_tileIdleTimer_stays hidle⟩

end Sys2Proof.Machine
end

section
/-! SUPPORT. Maintenance of the sector caches by command (spec/07, R297, R300): what a TP_MAINT command does with its sectors and its range. -/

namespace Sys2Proof.Machine

open Sys2Proof

/-- The range of TP_MAINT_BASE and TP_MAINT_LEN is whole lines, at least one (R297, R300). -/
def MaintWhole (s : State) : Prop :=
  s.get F.TP_MAINT_BASE_POOL_BASE % 64 = 0 ∧ s.get F.TP_MAINT_LEN_LENGTH % 64 = 0 ∧ s.get F.TP_MAINT_LEN_LENGTH ≠ 0

/-- TP_MAINT_CMD after a refusal. -/
def maintRefused (s : State) : State := (s.set F.TP_MAINT_CMD_RESULT 0x0D).setFlag F.TP_MAINT_CMD_BUSY false

/-- TP_MAINT_CMD after an operation in the sectors of mask `n` has been started. -/
def maintStarted (s : State) (n : Nat) : State :=
  ((s.set F.TP_MAINT_CMD_RESULT 0).set F.TP_MAINT_CMD_SECTORS n).setFlag F.TP_MAINT_CMD_BUSY true

section
variable {s : State} {n : Nat} {ranged : Bool}

theorem maintRow_busy (h : maintBusy s = true) (f : State → List Nat → State) : maintRow n ranged f s = s := if_pos h

theorem maintRow_refused (hidle : maintBusy s = false) (hbad : n = 0 ∨ ranged = true ∧ ¬ MaintWhole s) (f : State → List Nat → State) :
    maintRow n ranged f s = maintRefused s := by
  have hcheck : (n == 0 || (ranged && (s.get F.TP_MAINT_BASE_POOL_BASE % 64 != 0 || s.get F.TP_MAINT_LEN_LENGTH % 64 != 0 ||
      s.get F.TP_MAINT_LEN_LENGTH == 0))) = true := by
    obtain hn | ⟨hr, hw⟩ := hbad
    · simp [hn]
    · simp only [MaintWhole] at hw
      simp only [hr, Bool.true_and, Bool.or_eq_true, bne_iff_ne, beq_iff_eq]
      tauto
  rw [maintRow, if_neg (by simp [hidle])]
  exact if_pos hcheck

theorem maintRow_started (hidle : maintBusy s = false) (hn : n ≠ 0) (hwhole : ranged = true → MaintWhole s) (f : State → List Nat → State) :
    maintRow n ranged f s = maintStarted (f s (maskSectors n)) n := by
  have hcheck : (n == 0 || (ranged && (s.get F.TP_MAINT_BASE_POOL_BASE % 64 != 0 || s.get F.TP_MAINT_LEN_LENGTH % 64 != 0 ||
      s.get F.TP_MAINT_LEN_LENGTH == 0))) = false := by
    cases ranged with
    | false => simp [hn]
    | true =>
      obtain ⟨hbase, hlen, hsome⟩ := hwhole rfl
      simp [hn, hbase, hlen, hsome]
  rw [maintRow, if_neg (by simp [hidle])]
  exact if_neg (by simp [hcheck])

end

/-- A refusal says MALFORMED, and nothing is under way. -/
theorem maintRefused_fields (s : State) :
    (maintRefused s).get F.TP_MAINT_CMD_RESULT = 0x0D ∧ (maintRefused s).flag F.TP_MAINT_CMD_BUSY = false ∧
      OnlyFields [F.TP_MAINT_CMD_RESULT.key, F.TP_MAINT_CMD_BUSY.key] s (maintRefused s) :=
  ⟨(State.get_setFlag_ne _ _ (by decide)).trans (State.get_set_same _ _ _), State.flag_setFlag_same _ _ _ (by decide),
    ((OnlyFields.refl _ s).set _ _ (by simp)).setFlag _ _ (by simp)⟩

/-- An operation that has been started says OK and its sectors, and is under way. -/
theorem maintStarted_fields (s : State) (n : Fin 16) :
    OnlyFields [F.TP_MAINT_CMD_RESULT.key, F.TP_MAINT_CMD_SECTORS.key, F.TP_MAINT_CMD_BUSY.key] s (maintStarted s n) ∧
      (maintStarted s n).get F.TP_MAINT_CMD_RESULT = 0 ∧ (maintStarted s n).get F.TP_MAINT_CMD_SECTORS = n.val ∧
      (maintStarted s n).flag F.TP_MAINT_CMD_BUSY = true := by
  refine ⟨(((OnlyFields.refl _ s).set _ _ (by simp)).set _ _ (by simp)).setFlag _ _ (by simp), ?_, ?_,
    State.flag_setFlag_same _ _ _ (by decide)⟩
  · exact (State.get_setFlag_ne _ _ (by decide)).trans ((State.get_set_ne _ _ (by decide)).trans (State.get_set_same _ _ _))
  · exact (State.get_setFlag_ne _ _ (by decide)).trans ((State.get_set_same _ _ _).trans (Nat.mod_eq_of_lt n.isLt))

section
variable {s : State} {t : Nat} (h : PortOpen (s.upto t)) (n : Fin 16)
include h

theorem exec_tpMaintFlush_open : exec (.tpMaintFlush n t) s = .next (maintFlush (answeredState (s.upto t)) n) :=
  congrArg Host.Outcome.next (mgmtWrite_open h _ _)

theorem exec_tpMaintAcquire_open : exec (.tpMaintAcquire n t) s = .next (maintAcquire (answeredState (s.upto t)) n) :=
  congrArg Host.Outcome.next (mgmtWrite_open h _ _)

theorem exec_tpMaintFlushAll_open : exec (.tpMaintFlushAll n t) s = .next (maintFlushAll (answeredState (s.upto t)) n) :=
  congrArg Host.Outcome.next (mgmtWrite_open h _ _)

end

/-- Settles O48: each of the three commands is a maintenance row, which is busy, refused or started. -/
theorem maintenanceFlushesRanges : Obligations.MaintenanceFlushesRanges := by
  intro s n t hopen
  have hflush := exec_tpMaintFlush_open hopen n
  have hacquire := exec_tpMaintAcquire_open hopen n
  have hall := exec_tpMaintFlushAll_open hopen n
  refine ⟨fun hbusy => ⟨hflush.trans ?_, hacquire.trans ?_, hall.trans ?_⟩, fun hidle => ⟨fun hn hwhole => ⟨?_, ?_⟩, fun hn => ?_,
    fun hbad => ⟨?_, ?_⟩, fun hn => ?_⟩⟩
  · exact congrArg Host.Outcome.next (maintRow_busy hbusy _)
  · exact congrArg Host.Outcome.next (maintRow_busy hbusy _)
  · exact congrArg Host.Outcome.next (maintRow_busy hbusy _)
  · exact ⟨_, hflush.trans (congrArg Host.Outcome.next (maintRow_started hidle hn (fun _ => hwhole) _)), maintStarted_fields _ n⟩
  · exact ⟨_, hacquire.trans (congrArg Host.Outcome.next (maintRow_started hidle hn (fun _ => hwhole) _)), maintStarted_fields _ n⟩
  · exact ⟨_, hall.trans (congrArg Host.Outcome.next (maintRow_started hidle hn (fun h => absurd h Bool.false_ne_true) _)),
      maintStarted_fields _ n⟩
  · exact ⟨_, hflush.trans (congrArg Host.Outcome.next (maintRow_refused hidle (hbad.imp_right fun h => ⟨rfl, h⟩) _)), maintRefused_fields _⟩
  · exact ⟨_, hacquire.trans (congrArg Host.Outcome.next (maintRow_refused hidle (hbad.imp_right fun h => ⟨rfl, h⟩) _)), maintRefused_fields _⟩
  · exact ⟨_, hall.trans (congrArg Host.Outcome.next (maintRow_refused hidle (.inl hn) _)), maintRefused_fields _⟩

end Sys2Proof.Machine
end

section
/-! SUPPORT. Plan errors (spec/08, R310, R325, R326, R327, R328): what every slot's row does where its bundle does not issue, the sub-slots that may
not issue, and what a plan error leaves. -/

namespace Sys2Proof.Machine

open Sys2Proof

/-! ### A plan error (R326) -/

/-- A kernel that a plan error has stopped. -/
def kernStopped (k : Kern) (c : Code) : Kern :=
  { k with err := some (c, k.bundle % 2 ^ 26), st := match k.st with | .out _ => k.st | _ => .ending }

/-- TP_SEQ_ERR as a plan error of a kernel sets it. -/
def errRecorded (s : State) (k : Kern) (kind : Nat) : State :=
  (((s.set F.TP_SEQ_ERR_KIND kind).set F.TP_SEQ_ERR_BUNDLE k.bundle).set F.TP_SEQ_ERR_CONTEXT k.ctx).setFlag F.TP_SEQ_ERR_VALID true

theorem errRecorded_fields (s : State) (k : Kern) (kind : Nat) : (errRecorded s k kind).get F.TP_SEQ_ERR_KIND = kind % 16 ∧
    (errRecorded s k kind).get F.TP_SEQ_ERR_BUNDLE = k.bundle % 2 ^ F.TP_SEQ_ERR_BUNDLE.wid ∧
    (errRecorded s k kind).get F.TP_SEQ_ERR_CONTEXT = k.ctx % 2 ^ 16 ∧ (errRecorded s k kind).flag F.TP_SEQ_ERR_VALID = true := by
  simp only [errRecorded]
  refine ⟨?_, ?_, ?_, State.flag_setFlag_same _ _ _ (by decide)⟩
  · rw [State.get_setFlag_ne _ _ (by decide), State.get_set_ne _ _ (by decide), State.get_set_ne _ _ (by decide), State.get_set_same]
    rfl
  · rw [State.get_setFlag_ne _ _ (by decide), State.get_set_ne _ _ (by decide), State.get_set_same]
  · rw [State.get_setFlag_ne _ _ (by decide), State.get_set_same]
    rfl

section
variable (s : State) (k : Kern) (kind : Nat) (c : Code)

theorem planError_eq : planError s k kind c = putKern (errRecorded s k kind) (kernStopped k c) := rfl

/-- A plan error changes TP_SEQ_ERR and the kernels, and nothing else. -/
theorem planError_onlyFields :
    OnlyFields ([F.TP_SEQ_ERR_KIND, F.TP_SEQ_ERR_BUNDLE, F.TP_SEQ_ERR_CONTEXT, F.TP_SEQ_ERR_VALID].map Fld.key)
      { s with plane := { s.plane with kerns := (planError s k kind c).plane.kerns } } (planError s k kind c) :=
  ((((OnlyFields.refl _ _).set F.TP_SEQ_ERR_KIND kind (by simp)).set F.TP_SEQ_ERR_BUNDLE k.bundle (by simp)).set F.TP_SEQ_ERR_CONTEXT k.ctx
    (by simp)).setFlag F.TP_SEQ_ERR_VALID true (by simp)

variable {s k}

/-- A plan error stops its kernel. -/
theorem kernOf_planError (hk : (kernOf s k.ring k.idx).isSome = true) :
    kernOf (planError s k kind c) k.ring k.idx = some (kernStopped k c) := by
  rw [planError_eq]
  exact kernOf_putKern_same rfl rfl hk

end

theorem kernStopped_st {k : Kern} (hin : k.isOut = false) (c : Code) : (kernStopped k c).st = .ending := by
  cases hst : k.st <;> simp_all [kernStopped, Kern.isOut]

/-! ### A slot whose bundle does not issue (R327, R328) -/

/-- `u` is what the row of any slot issued as `i` leaves of `s` where the bundle does not issue: nothing but the time without a kernel, or for a
bundle that is not the next one; a held cycle; and RUNOFF past the last bundle. -/
structure SlotGated (s : State) (i : Issue) (u : State) : Prop where
  idle : activeKern (s.upto (i.cyc * 5 / 6)) = none → u = s.upto (i.cyc * 5 / 6)
  other : ∀ k0 : Kern, activeKern (s.upto (i.cyc * 5 / 6)) = some k0 → openBundle (s.upto (i.cyc * 5 / 6)) k0 i = .no → u = s.upto (i.cyc * 5 / 6)
  held : ∀ k0 : Kern, activeKern (s.upto (i.cyc * 5 / 6)) = some k0 → openBundle (s.upto (i.cyc * 5 / 6)) k0 i = .held →
    u = holdCycle (s.upto (i.cyc * 5 / 6)) k0
  runoff : ∀ (k0 : Kern) (s1 : State) (k : Kern), activeKern (s.upto (i.cyc * 5 / 6)) = some k0 →
    openBundle (s.upto (i.cyc * 5 / 6)) k0 i = .go s1 k → k.frame.bundles ≤ i.bundle → u = planError s1 k 7 .malformed

section
variable (s : State) (i : Issue)

theorem slotRow_gated (f : State → Kern → State) : SlotGated s i (slotRow s i f) where
  idle hnone := by simp [slotRow, hnone]
  other k0 hactive hopen := by simp [slotRow, hactive, hopen]
  held k0 hactive hopen := by simp [slotRow, hactive, hopen]
  runoff k0 s1 k hactive hopen hpast := by simp [slotRow, hactive, hopen, hpast]

theorem auxRow_gated {x : Slot} {add : Bool} (hop : slotF x 16 4 = if add then 1 else 2) : SlotGated s x.iss (auxRow add x s) := by
  rw [auxRow, if_neg (not_not.2 hop)]
  exact slotRow_gated s x.iss _

variable {w : Word}

theorem controlRow_gated {op : Nat} (hop : bits w.toNat 0 6 = op) (top : Nat) (f : State → Kern → State) :
    SlotGated s i (controlRow op top w i f s) := by
  rw [controlRow, if_neg (not_not.2 hop)]
  exact slotRow_gated s i _

theorem syncRow_gated {op : Nat} (hop : bits w.toNat 0 4 = op) (ok : Nat → Kern → Option Nat) (hold : State → Kern → Bool)
    (f : State → Kern → State) : SlotGated s i (syncRow op w i ok hold f s) := by
  rw [syncRow, if_neg (not_not.2 hop)]
  exact {
    idle hnone := by simp only [hnone]
    other k0 hactive hopen := by simp only [hactive, hopen]
    held k0 hactive hopen := by simp only [hactive, hopen]
    runoff k0 s1 k hactive hopen hpast := by simp only [hactive, hopen, ge_iff_le, if_pos hpast] }

theorem waitRow_gated (hop : bits w.toNat 0 4 = 1) : SlotGated s i (waitRow w i s) := by
  unfold waitRow
  exact syncRow_gated s i hop _ _ _

theorem rangeRow_gated {acq : Bool} (hop : bits w.toNat 0 4 = if acq then 3 else 4) : SlotGated s i (rangeRow acq w i s) := by
  unfold rangeRow
  exact syncRow_gated s i hop _ _ _

theorem startCopy_gated (hop : bits w.toNat 0 4 = 1) (e : Fin 8) : ∃ u, exec (.startCopy e w i) s = .next u ∧ SlotGated s i u := by
  refine ⟨_, rfl, ?_⟩
  rw [if_neg (not_not.2 hop)]
  exact {
    idle hnone := by simp only [hnone]
    other k0 hactive hopen := by simp only [hactive, hopen]
    held k0 hactive hopen := by simp only [hactive, hopen]
    runoff k0 s1 k hactive hopen hpast := by simp only [hactive, hopen, ge_iff_le, if_pos hpast] }

end

/-- A bundle past the last one leaves its kernel on the plane, stopped. -/
theorem activeKern_runoff {s s1 : State} {k0 k : Kern} {i : Issue} (hactive : activeKern s = some k0) (hopen : openBundle s k0 i = .go s1 k)
    (kind : Nat) (c : Code) : activeKern (planError s1 k kind c) = some (kernStopped k c) := by
  obtain ⟨hat, hk0⟩ := activeKern_iff.1 hactive
  obtain ⟨hring, hidx, -, -⟩ := openBundle_go hopen
  have hwork := openBundle_tilesWork hopen
  refine activeKern_iff.2 ⟨?_, kernOf_planError kind c ?_⟩
  · exact hwork.active.trans (by rw [hat, ← hring, ← hidx]; rfl)
  · rw [hwork.kerns, hring, hidx, hk0, Option.isSome_some]

/-- Errors that ECC corrects are not counted where the bundle does not issue (R282). -/
theorem SlotGated.countCorrected {s u : State} {x : Slot} (h : SlotGated s x.iss u) : SlotGated s x.iss (countCorrected x s u) := by
  have hsame : u.plane = s.plane → Machine.countCorrected x s u = u := fun hplane => if_pos hplane
  have hhold : ∀ (t : State) (k : Kern), (holdCycle t k).plane = t.plane := fun t k => by unfold holdCycle; split <;> rfl
  refine ⟨fun hnone => ?_, fun k0 hactive hopen => ?_, fun k0 hactive hopen => ?_, fun k0 s1 k hactive hopen hpast => ?_⟩
  · have hu := h.idle hnone
    exact (hsame (by rw [hu]; rfl)).trans hu
  · have hu := h.other k0 hactive hopen
    exact (hsame (by rw [hu]; rfl)).trans hu
  · have hu := h.held k0 hactive hopen
    exact (hsame (by rw [hu, hhold]; rfl)).trans hu
  · have hu := h.runoff k0 s1 k hactive hopen hpast
    rw [hu, Machine.countCorrected, activeKern_runoff hactive hopen]
    simp [kernStopped]

/-! ### Sector sub-slots (R310, R324, R325) -/

/-- `u` is what the row of a sector sub-slot leaves of `s`: `op` says that the sub-slot's opcode is the row's, `ok` that it breaks no range, and
`need` are the units that the operation needs. -/
inductive TileRow (x : Slot) (op ok : Bool) (need : Needs) (s : State) : State → Prop
  | row (eff : State → Kern → Tile → Nat → Tile × TFlags) : TileRow x op ok need s (tileRow x op ok need eff s)

namespace TileRow
variable {x : Slot} {op ok : Bool} {need : Needs} {s u : State} (hr : TileRow x op ok need s u) (hop : op = true)
include hr hop

theorem gated : SlotGated s x.iss u := by
  obtain ⟨eff⟩ := hr
  subst hop
  exact slotRow_gated s x.iss _

variable {s1 : State} {k : Kern} (h : Issues s x.iss s1 k)
include h

/-- A sub-slot that breaks a range is OP_INVALID. -/
theorem breaks (hok : ok = false) : u = planError s1 k 1 .malformed := by
  obtain ⟨eff⟩ := hr
  subst hop hok
  exact tileRow_invalid h eff

/-- A sub-slot that needs a unit that is held is OCCUPIED. -/
theorem occupied (hok : ok = true) (hu : ¬ UnitsFree x s1 k need) : u = planError s1 k 2 .malformed := by
  obtain ⟨eff⟩ := hr
  have hany : ((slotTiles k x).any fun g => Machine.occupied (tile s1 g) x.iss.cyc need) = true := by
    simpa [UnitsFree, List.any_eq_true] using hu
  subst hop hok
  rw [tileRow, if_neg (by simp), slotRow_issues h]
  simp only [hany, Bool.not_true, Bool.false_eq_true, if_false, if_true]

end TileRow

section
variable (x : Slot) (s : State)

theorem mmaRow_tileRow : ∃ ok need, (slotF x 63 1 = 1 → ok = false) ∧ TileRow x (slotF x 0 4 == 1) ok need s (mmaRow x s) := by
  unfold mmaRow
  exact ⟨_, _, fun hres => by simp [hres], .row _⟩

theorem scaleRow_tileRow (op p : Nat) : TileRow x (slotF x 0 4 == op) (slotF x 63 1 == 0) [(1 + p, 32)] s (scaleRow op p x s) := by
  unfold scaleRow
  exact .row _

theorem accRow_tileRow (st : Bool) :
    TileRow x (slotF x 0 4 == if st then 4 else 5) (slotF x 63 1 == 0) [(3, 128), (8 + slotF x 4 2, 128)] s (accRow st x s) := by
  unfold accRow
  exact .row _

theorem vecRow_tileRow (op : Nat) : TileRow x (slotF x 0 6 == op) (vecOk x) [] s (vecRow op x s) := .row _

theorem specialRow_tileRow (op : Nat) : TileRow x (slotF x 0 6 == op) (vecOk x) [(4, 4)] s (specialRow op x s) := .row _

theorem reduceRow_tileRow (op : Nat) : TileRow x (slotF x 0 6 == op) (vecOk x) [(5, 8)] s (reduceRow op x s) := .row _

theorem cvtiRow_tileRow : TileRow x (slotF x 0 6 == 0x20) (vecOk x && partOk x) [] s (cvtiRow x s) := by
  unfold cvtiRow
  exact .row _

theorem cvtoRow_tileRow : TileRow x (slotF x 0 6 == 0x21) (vecOk x && partOk x) [] s (cvtoRow x s) := by
  unfold cvtoRow
  exact .row _

theorem amovRow_tileRow (write : Bool) :
    TileRow x (slotF x 0 6 == if write then 0x29 else 0x28) (vecOk x) [(8 + slotF x 32 2, 1)] s (amovRow write x s) := by
  unfold amovRow
  exact .row _

theorem portRow_tileRow (store : Bool) :
    TileRow x (slotF x 0 2 == 1) (slotF x 28 36 == 0) [(if store then 7 else 6, slotF x 25 3 + 1)] s (portRow store x s) := by
  unfold portRow
  exact .row _

end

theorem vld_gated {x : Slot} (hop : slotF x 0 2 = 1) (corrected : Bool) (s : State) :
    ∃ u, exec (.vld x corrected) s = .next u ∧ SlotGated s x.iss u := by
  have hrow : SlotGated s x.iss (portRow false x s) := (portRow_tileRow x s false).gated (beq_iff_eq.2 hop)
  cases corrected
  · exact ⟨_, rfl, hrow⟩
  · exact ⟨_, rfl, hrow.countCorrected⟩

theorem mma_gated {x : Slot} (hop : slotF x 0 4 = 1) (s : State) : SlotGated s x.iss (mmaRow x s) := by
  obtain ⟨ok, need, -, hrow⟩ := mmaRow_tileRow x s
  exact hrow.gated (beq_iff_eq.2 hop)

/-! ### Every slot -/

theorem issue_of_ite {p : Prop} [Decidable p] {i j : Issue} (h : (if p then some j else none) = some i) : p ∧ j = i := by
  simpa using h

/-- The command of every slot waits for its bundle alike. -/
theorem slotIssue_gated {c : Instr} {i : Issue} (h : slotIssue c = some i) (s : State) : ∃ u, exec c s = .next u ∧ SlotGated s i u := by
  cases c
  case loopOpen w j | yieldPoint w j | bundleEnd w j | tload w j =>
    obtain ⟨hop, rfl⟩ := issue_of_ite h
    exact ⟨_, rfl, controlRow_gated s _ hop _ _⟩
  case spfence w j | drain w j =>
    obtain ⟨hop, rfl⟩ := issue_of_ite h
    exact ⟨_, rfl, syncRow_gated s _ hop _ _ _⟩
  case waitEv w j =>
    obtain ⟨hop, rfl⟩ := issue_of_ite h
    exact ⟨_, rfl, waitRow_gated s _ hop⟩
  case acquire w j | flush w j =>
    obtain ⟨hop, rfl⟩ := issue_of_ite h
    exact ⟨_, rfl, rangeRow_gated s _ hop⟩
  case startCopy e w j =>
    obtain ⟨hop, rfl⟩ := issue_of_ite h
    exact startCopy_gated s _ hop e
  case mma x =>
    obtain ⟨hop, rfl⟩ := issue_of_ite h
    exact ⟨_, rfl, mma_gated hop s⟩
  case ldsa x | ldsb x =>
    obtain ⟨hop, rfl⟩ := issue_of_ite h
    exact ⟨_, rfl, (scaleRow_tileRow x s _ _).gated (beq_iff_eq.2 hop)⟩
  case accSt x =>
    obtain ⟨hop, rfl⟩ := issue_of_ite h
    exact ⟨_, rfl, (accRow_tileRow x s true).gated (beq_iff_eq.2 hop)⟩
  case accLd x =>
    obtain ⟨hop, rfl⟩ := issue_of_ite h
    exact ⟨_, rfl, (accRow_tileRow x s false).gated (beq_iff_eq.2 hop)⟩
  case vadd x | vsub x | vmul x | vfma x | vmin x | vmax x | vselLt x | vselEq x | vpopc x | vxor x | vand x | vor x | vshl x | vshr x | viadd x
      | visub x =>
    obtain ⟨hop, rfl⟩ := issue_of_ite h
    exact ⟨_, rfl, (vecRow_tileRow x s _).gated (beq_iff_eq.2 hop)⟩
  case vexp x | vexp2 x | vrcp x | vrsq x =>
    obtain ⟨hop, rfl⟩ := issue_of_ite h
    exact ⟨_, rfl, (specialRow_tileRow x s _).gated (beq_iff_eq.2 hop)⟩
  case cvti x =>
    obtain ⟨hop, rfl⟩ := issue_of_ite h
    exact ⟨_, rfl, (cvtiRow_tileRow x s).gated (beq_iff_eq.2 hop)⟩
  case cvto x =>
    obtain ⟨hop, rfl⟩ := issue_of_ite h
    exact ⟨_, rfl, (cvtoRow_tileRow x s).gated (beq_iff_eq.2 hop)⟩
  case rsum x | rmax x =>
    obtain ⟨hop, rfl⟩ := issue_of_ite h
    exact ⟨_, rfl, (reduceRow_tileRow x s _).gated (beq_iff_eq.2 hop)⟩
  case amov x =>
    obtain ⟨hop, rfl⟩ := issue_of_ite h
    exact ⟨_, rfl, (amovRow_tileRow x s false).gated (beq_iff_eq.2 hop)⟩
  case awr x =>
    obtain ⟨hop, rfl⟩ := issue_of_ite h
    exact ⟨_, rfl, (amovRow_tileRow x s true).gated (beq_iff_eq.2 hop)⟩
  case vld x b =>
    obtain ⟨hop, rfl⟩ := issue_of_ite h
    exact vld_gated hop b s
  case vst x =>
    obtain ⟨hop, rfl⟩ := issue_of_ite h
    exact ⟨_, rfl, (portRow_tileRow x s true).gated (beq_iff_eq.2 hop)⟩
  case auxAdd x | auxSet x =>
    obtain ⟨hop, rfl⟩ := issue_of_ite h
    exact ⟨_, rfl, auxRow_gated s hop⟩
  all_goals cases h

/-! ### Sub-slots that may not issue (R310, R325) -/

/-- A command is the row of a VEC sub-slot with an opcode, which a reserved bit breaks (R318). -/
def VecCommand (op : Nat) (c : Slot → Instr) : Prop :=
  ∀ (x : Slot) (s : State), ∃ ok need u, (slotF x 41 23 ≠ 0 → ok = false) ∧ TileRow x (slotF x 0 6 == op) ok need s u ∧ exec (c x) s = .next u

theorem vecOk_of_reserved {x : Slot} (hres : slotF x 41 23 ≠ 0) : vecOk x = false := by simp [vecOk, hres]

theorem vecOk_partOk_of_reserved {x : Slot} (hres : slotF x 41 23 ≠ 0) : (vecOk x && partOk x) = false := by simp [vecOk, hres]

namespace VecCommand
variable {op : Nat} {c : Slot → Instr}

theorem vec (h : ∀ x s, exec (c x) s = .next (vecRow op x s)) : VecCommand op c :=
  fun x s => ⟨_, _, _, vecOk_of_reserved, vecRow_tileRow x s op, h x s⟩

theorem special (h : ∀ x s, exec (c x) s = .next (specialRow op x s)) : VecCommand op c :=
  fun x s => ⟨_, _, _, vecOk_of_reserved, specialRow_tileRow x s op, h x s⟩

theorem reduce (h : ∀ x s, exec (c x) s = .next (reduceRow op x s)) : VecCommand op c :=
  fun x s => ⟨_, _, _, vecOk_of_reserved, reduceRow_tileRow x s op, h x s⟩

end VecCommand

theorem vectorRows_vecCommand : ∀ r ∈ vectorRows, VecCommand r.1 r.2 := by
  simp only [vectorRows, List.forall_mem_cons, List.not_mem_nil, false_imp_iff, implies_true, and_true]
  exact ⟨.vec fun _ _ => rfl, .vec fun _ _ => rfl, .vec fun _ _ => rfl, .vec fun _ _ => rfl, .vec fun _ _ => rfl, .vec fun _ _ => rfl,
    .vec fun _ _ => rfl, .vec fun _ _ => rfl, .special fun _ _ => rfl, .special fun _ _ => rfl, .special fun _ _ => rfl,
    .special fun _ _ => rfl, .vec fun _ _ => rfl, .vec fun _ _ => rfl, .vec fun _ _ => rfl, .vec fun _ _ => rfl, .vec fun _ _ => rfl,
    .vec fun _ _ => rfl, .vec fun _ _ => rfl, .vec fun _ _ => rfl,
    fun x s => ⟨_, _, _, vecOk_partOk_of_reserved, cvtiRow_tileRow x s, rfl⟩,
    fun x s => ⟨_, _, _, vecOk_partOk_of_reserved, cvtoRow_tileRow x s, rfl⟩,
    .reduce fun _ _ => rfl, .reduce fun _ _ => rfl,
    fun x s => ⟨_, _, _, vecOk_of_reserved, amovRow_tileRow x s false, rfl⟩,
    fun x s => ⟨_, _, _, vecOk_of_reserved, amovRow_tileRow x s true, rfl⟩⟩

section
variable {s s1 : State} {k : Kern} {x : Slot} (h : Issues s x.iss s1 k)
include h

theorem vecCommand_breaks {op : Nat} {c : Slot → Instr} (hc : VecCommand op c) (hop : slotF x 0 6 = op) (hres : slotF x 41 23 ≠ 0) :
    exec (c x) s = .next (planError s1 k 1 .malformed) := by
  obtain ⟨ok, need, u, hok, hrow, hexec⟩ := hc x s
  rw [hexec, hrow.breaks (beq_iff_eq.2 hop) h (hok hres)]

/-- Bit 63 of a sub-slot of the matrix unit is reserved (R317). -/
theorem matrixRows_break : ∀ r ∈ [(1, Instr.mma), (2, .ldsa), (3, .ldsb), (4, .accSt), (5, .accLd)], slotF x 0 4 = r.1 → slotF x 63 1 = 1 →
    exec (r.2 x) s = .next (planError s1 k 1 .malformed) := by
  simp only [List.forall_mem_cons, List.not_mem_nil, false_imp_iff, implies_true, and_true]
  obtain ⟨ok, need, hok, hmma⟩ := mmaRow_tileRow x s
  have hbad : slotF x 63 1 = 1 → (slotF x 63 1 == 0) = false := fun hres => by simp [hres]
  exact ⟨fun hop hres => congrArg Host.Outcome.next (hmma.breaks (beq_iff_eq.2 hop) h (hok hres)),
    fun hop hres => congrArg Host.Outcome.next ((scaleRow_tileRow x s 2 0).breaks (beq_iff_eq.2 hop) h (hbad hres)),
    fun hop hres => congrArg Host.Outcome.next ((scaleRow_tileRow x s 3 1).breaks (beq_iff_eq.2 hop) h (hbad hres)),
    fun hop hres => congrArg Host.Outcome.next ((accRow_tileRow x s true).breaks (beq_iff_eq.2 hop) h (hbad hres)),
    fun hop hres => congrArg Host.Outcome.next ((accRow_tileRow x s false).breaks (beq_iff_eq.2 hop) h (hbad hres))⟩

variable (hres : slotF x 41 23 = 0)
include hres

theorem special_occupied {r : Nat × (Slot → Instr)} (hr : r ∈ specialOps) (hop : slotF x 0 6 = r.1) (hu : ¬ UnitsFree x s1 k [(4, 4)]) :
    exec (r.2 x) s = .next (planError s1 k 2 .malformed) := by
  rw [specialOps_exec r hr, (specialRow_tileRow x s r.1).occupied (beq_iff_eq.2 hop) h (by simp [vecOk, hres]) hu]

theorem reduceRow_occupied {op : Nat} (hop : slotF x 0 6 = op) (hu : ¬ UnitsFree x s1 k [(5, 8)]) :
    reduceRow op x s = planError s1 k 2 .malformed :=
  (reduceRow_tileRow x s op).occupied (beq_iff_eq.2 hop) h (by simp [vecOk, hres]) hu

end

/-- Settles O44: every slot's command waits for its bundle as `SlotGated` says; the sub-slots are rows of tiles that a reserved bit breaks and a held
unit keeps from issuing; a plan error sets four fields and stops its kernel. -/
theorem planErrorsStopKernels : Obligations.PlanErrorsStopKernels := by
  refine ⟨fun s c i hi => ?_, fun s s1 k x h => ⟨fun r hr => vecCommand_breaks h (vectorRows_vecCommand r hr), matrixRows_break h,
    fun hres => ⟨fun r hr => special_occupied h hres hr, ?_⟩⟩, fun s k kind c => ?_⟩
  · obtain ⟨u, hu, hgated⟩ := slotIssue_gated hi s
    rw [hu]
    exact ⟨fun hnone => congrArg _ (hgated.idle hnone), fun k0 hactive => ⟨fun hopen => congrArg _ (hgated.other k0 hactive hopen),
      fun hopen => congrArg _ (hgated.held k0 hactive hopen), fun s1 k hopen hpast => congrArg _ (hgated.runoff k0 s1 k hactive hopen hpast)⟩⟩
  · simp only [List.forall_mem_cons, List.not_mem_nil, false_imp_iff, implies_true, and_true]
    exact ⟨fun hop hu => congrArg Host.Outcome.next (reduceRow_occupied h hres hop hu),
      fun hop hu => congrArg Host.Outcome.next (reduceRow_occupied h hres hop hu)⟩
  · obtain ⟨hkind, hbundle, hctx, hvalid⟩ := errRecorded_fields s k kind
    exact ⟨hkind, hbundle, hctx, hvalid, planError_onlyFields s k kind c,
      fun hk => ⟨_, kernOf_planError kind c hk, rfl, fun hin => kernStopped_st hin c⟩⟩

end Sys2Proof.Machine
end

section
/-! SUPPORT. A launch at queue time (spec/08, R343 to R348): the steps that read and check its image, the checks of its frame, and the queue of the
plane. -/

namespace Sys2Proof.Machine

open Sys2Proof

/-! ### The steps of a launch (R343 to R347) -/

/-- The address of a launch's image. -/
def imageAt (j : Job) : Nat := dbits j.words 16 0 64

/-- A launch whose header keeps R343 reads its tables and its argument table, which poison ends, and comes to the checks of its frame. -/
def launchTables (s : State) (j : Job) (hb : List Byte) : State :=
  let rs := launchRanges (headerOf hb) (imageAt j) (dbits j.words 32 0 64)
  match prepare s j 0x20 rs with
  | (false, s) => s
  | (true, s) =>
    if rs.any (fun r => poisonVa s (ringCtx j.ring) r.va r.len) ∨ poisonVa s (ringCtx j.ring) (imageAt j) 256 then finishJob s j .poison
    else launchQueue (readAll s (ringCtx j.ring) rs).2 j hb (readAll s (ringCtx j.ring) rs).1

/-- A launch whose header may be read: the header and the save area are checked, and then the tables are read. -/
def launchHeader (s : State) (j : Job) : State :=
  let hb := (readVa s (ringCtx j.ring) (imageAt j) 256 .ex).1
  let s := (readVa s (ringCtx j.ring) (imageAt j) 256 .ex).2
  if !imageHeaderOk hb (dbits j.words 24 0 32) then finishJob s j .malformed
  else if saveDenied s (ringCtx j.ring) j.words (headerOf hb) then finishJob s j .denied
  else launchTables s j hb

section
variable {s : State} {j : Job} (hphase : j.phase ≠ 1)
include hphase

theorem launchGo_short (hlen : dbits j.words 24 0 32 < 256) : launchGo s j = finishJob s j .malformed := by
  rw [launchGo, if_neg hphase, if_pos hlen]

theorem launchGo_long (hlen : 256 ≤ dbits j.words 24 0 32) {s1 : State} (hprep : prepare s j 0x20 [⟨imageAt j, 256, .ex⟩] = (true, s1)) :
    launchGo s j = launchHeader s1 j := by
  have hprep' : prepare s j 0x20 [⟨dbits j.words 16 0 64, 256, .ex⟩] = (true, s1) := hprep
  rw [launchGo, if_neg hphase, if_neg (Nat.not_lt.2 hlen)]
  simp only [hprep']
  rfl

end

section
variable {s s1 : State} {j : Job}

theorem launchHeader_malformed (hbad : imageHeaderOk (readVa s (ringCtx j.ring) (imageAt j) 256 .ex).1 (dbits j.words 24 0 32) = false) :
    launchHeader s j = finishJob (readVa s (ringCtx j.ring) (imageAt j) 256 .ex).2 j .malformed :=
  if_pos (by rw [hbad]; rfl)

variable (hok : imageHeaderOk (readVa s (ringCtx j.ring) (imageAt j) 256 .ex).1 (dbits j.words 24 0 32) = true)
include hok

theorem launchHeader_denied (hdenied : saveDenied (readVa s (ringCtx j.ring) (imageAt j) 256 .ex).2 (ringCtx j.ring) j.words
      (headerOf (readVa s (ringCtx j.ring) (imageAt j) 256 .ex).1) = true) :
    launchHeader s j = finishJob (readVa s (ringCtx j.ring) (imageAt j) 256 .ex).2 j .denied :=
  (if_neg (by rw [hok]; simp)).trans (if_pos hdenied)

theorem launchHeader_ok (hsave : saveDenied (readVa s (ringCtx j.ring) (imageAt j) 256 .ex).2 (ringCtx j.ring) j.words
      (headerOf (readVa s (ringCtx j.ring) (imageAt j) 256 .ex).1) = false) :
    launchHeader s j = launchTables (readVa s (ringCtx j.ring) (imageAt j) 256 .ex).2 j (readVa s (ringCtx j.ring) (imageAt j) 256 .ex).1 :=
  (if_neg (by rw [hok]; simp)).trans (if_neg (by rw [hsave]; simp))

end

section
variable {s s1 : State} {j : Job} {hb : List Byte}
  (hprep : prepare s j 0x20 (launchRanges (headerOf hb) (imageAt j) (dbits j.words 32 0 64)) = (true, s1))
include hprep

theorem launchTables_poisoned
    (hbad : (∃ r ∈ launchRanges (headerOf hb) (imageAt j) (dbits j.words 32 0 64), poisonVa s1 (ringCtx j.ring) r.va r.len = true) ∨
      poisonVa s1 (ringCtx j.ring) (imageAt j) 256 = true) : launchTables s j hb = finishJob s1 j .poison := by
  simp only [launchTables, hprep]
  exact if_pos (hbad.imp_left List.any_eq_true.2)

theorem launchTables_sound
    (hok : ¬ ((∃ r ∈ launchRanges (headerOf hb) (imageAt j) (dbits j.words 32 0 64), poisonVa s1 (ringCtx j.ring) r.va r.len = true) ∨
      poisonVa s1 (ringCtx j.ring) (imageAt j) 256 = true)) :
    launchTables s j hb = launchQueue (readAll s1 (ringCtx j.ring) (launchRanges (headerOf hb) (imageAt j) (dbits j.words 32 0 64))).2 j hb
      (readAll s1 (ringCtx j.ring) (launchRanges (headerOf hb) (imageAt j) (dbits j.words 32 0 64))).1 := by
  simp only [launchTables, hprep]
  exact if_neg (mt (Or.imp_left List.any_eq_true.1) hok)

end

/-! ### The plane's queue (R347, R348) -/

/-- The checks of R346 on the frame of a launch whose header and tables have been read. -/
def launchCode (s : State) (j : Job) (hb : List Byte) (bs : List (List Byte)) : Option Code :=
  launchCheck s (ringCtx j.ring) (frameOf j.words hb bs) (tablesOk (ringCtx j.ring) (headerOf hb) bs)
    (argsNamed (tableCopies (headerOf hb) bs) (tableRanges (headerOf hb) bs))

/-- The job of a launch that is queued to the plane: it holds the segments of its ranges. -/
def launchedJob (s : State) (j : Job) (f : Frame) : Job :=
  { j with st := .queued, phase := 1, unit := 0x20,
           segs := (j.segs ++ rangeSegs s (ringCtx j.ring) (f.ranges.map fun r => ⟨r.va, r.len, clsRight r.cls⟩)).eraseDups }

/-- A launch has been queued to the plane. -/
def kernQueued (s : State) (j : Job) (f : Frame) : State :=
  let s := putJob s (launchedJob s j f)
  { s with plane := { s.plane with kerns := s.plane.kerns ++ [newKern j f] } }

section
variable {s : State} {j : Job} {hb : List Byte} {bs : List (List Byte)}

theorem launchQueue_ends {e : Code} (he : launchCode s j hb bs = some e) : launchQueue s j hb bs = finishJob s j e := by
  rw [launchCode] at he
  simp only [launchQueue, he]

theorem launchQueue_full (hnone : launchCode s j hb bs = none) (hfull : 4096 ≤ planeQueued s) :
    launchQueue s j hb bs = putJob s { j with st := .queued, phase := 2 } := by
  rw [launchCode] at hnone
  simp only [launchQueue, hnone]
  exact if_pos hfull

theorem launchQueue_queues (hnone : launchCode s j hb bs = none) (hroom : planeQueued s < 4096) :
    launchQueue s j hb bs = (kernQueued s j (frameOf j.words hb bs)).raiseTo F.TP_SEQ_QUEUE_PEAK
      (planeQueued (kernQueued s j (frameOf j.words hb bs))) := by
  rw [launchCode] at hnone
  simp only [launchQueue, hnone]
  exact if_neg (Nat.not_le.2 hroom)

/-- What a launch that is queued changes: the plane's queue takes its kernel, and its job is the plane's. -/
theorem launchQueue_keeps (hnone : launchCode s j hb bs = none) (hroom : planeQueued s < 4096) :
    (launchQueue s j hb bs).plane.kerns = s.plane.kerns ++ [newKern j (frameOf j.words hb bs)] ∧
    (launchQueue s j hb bs).plane.active = s.plane.active ∧ (launchQueue s j hb bs).store = s.store ∧
    (launchQueue s j hb bs).rings.jobs = (putJob s (launchedJob s j (frameOf j.words hb bs))).rings.jobs := by
  rw [launchQueue_queues hnone hroom, State.raiseTo_plane, State.raiseTo_store, State.raiseTo_rings]
  exact ⟨rfl, rfl, rfl, rfl⟩

end

/-! ### The checks of a frame (R346) -/

section
variable {s : State} {c : Nat} {f : Frame} {ok : Bool} {named : List Nat}

theorem launchCheck_none (h : launchCheck s c f ok named = none) : ok = true ∧ (f.saveBytes = 0 ↔ f.saveVa = 0) ∧
    (∀ k ∈ named, k ≠ 0 → f.args.getD (k - 1) 0 ≠ 0) ∧
    (∀ r ∈ f.ranges, ∀ e : Code, translate s c r.va r.len (clsRight r.cls) ≠ .code e) ∧
    (∀ w ∈ f.copies, ∀ x ∈ copyExtents (placeCopy (copyOf w) f.args 0), heldBy f.ranges (if x.right = .wr then 2 else 1) x = true ∧
      ∀ e : Code, translate s c x.va x.len x.right ≠ .code e) ∧
    (mapTiles s f.tileMask).isSome = true := by
  obtain ⟨htab, h⟩ := of_ite_eq h (by simp)
  obtain ⟨hsave, h⟩ := of_ite_eq h (by simp)
  obtain ⟨hdenied, h⟩ := of_ite_eq h (by simp)
  obtain ⟨hheld, h⟩ := of_ite_eq h (by simp)
  obtain ⟨hmap, -⟩ := of_ite_eq h (by simp)
  simp only [not_or] at hsave
  obtain ⟨hneed, hspare, hnamed⟩ := hsave
  have hextent : ∀ w ∈ f.copies, ∀ x ∈ copyExtents (placeCopy (copyOf w) f.args 0), (placeCopy (copyOf w) f.args 0, x) ∈
      (f.copies.map fun w => placeCopy (copyOf w) f.args 0).flatMap fun d => (copyExtents d).map fun r => (d, r) :=
    fun w hw x hx => List.mem_flatMap.2 ⟨_, List.mem_map_of_mem hw, List.mem_map_of_mem hx⟩
  refine ⟨by simpa using htab, ⟨fun h0 => ?_, fun h0 => ?_⟩, fun k hk hk0 h0 => hnamed ?_, fun r hr e he => ?_,
    fun w hw x hx => ⟨?_, fun e he => ?_⟩, by simpa [Option.isSome_iff_ne_none] using hmap⟩
  · by_contra hva
    exact hspare ⟨h0, hva⟩
  · by_contra hbytes
    exact hneed ⟨hbytes, h0⟩
  · exact List.any_eq_true.2 ⟨k, hk, by simpa [hk0] using h0⟩
  · exact hdenied (.inr (List.any_eq_true.2 ⟨r, hr, by simp [he]⟩))
  · by_contra hout
    exact hheld (List.any_eq_true.2 ⟨_, hextent w hw x hx, by simpa using hout⟩)
  · exact hdenied (.inl (List.any_eq_true.2 ⟨_, hextent w hw x hx, by simp [he]⟩))

/-- Every code of the checks is MALFORMED or DENIED, or CAPACITY where the sectors hold too few tiles. -/
theorem launchCheck_some {e : Code} (h : launchCheck s c f ok named = some e) :
    e = .malformed ∨ e = .denied ∨ (e = .capacity ∧ mapTiles s f.tileMask = none) := by
  unfold launchCheck at h
  dsimp only at h
  split at h
  · exact .inl (Option.some.inj h).symm
  split at h
  · exact .inl (Option.some.inj h).symm
  split at h
  · exact .inr (.inl (Option.some.inj h).symm)
  split at h
  · exact .inl (Option.some.inj h).symm
  split at h
  · rename_i hmap
    exact .inr (.inr ⟨(Option.some.inj h).symm, by simpa using hmap⟩)
  · cases h

end

/-! ### Room in the plane's queue (R348) -/

/-- The earliest launch that waits for room. -/
def launchWaiting (s : State) : Option Job := s.rings.jobs.find? fun j => descOp j.words = 0x20 && j.phase = 2 && j.st = .queued

section
variable {s : State} {t : Nat}

theorem launchQueueRoom_none (hnone : launchWaiting s = none) : exec (.launchQueueRoom t) s = .next (s.upto t) := by
  have hnone' : launchWaiting (s.upto t) = none := hnone
  rw [launchWaiting] at hnone'
  simp only [exec, execLaunchQueueRoom, hnone']

theorem launchQueueRoom_some {j : Job} (hj : launchWaiting s = some j) : exec (.launchQueueRoom t) s =
    .next (if planeQueued s < 4096 then rowEnd s j (launchGo (s.upto t) j) else s.upto t) := by
  have hj' : launchWaiting (s.upto t) = some j := hj
  rw [launchWaiting] at hj'
  simp only [exec, execLaunchQueueRoom, hj']
  rfl

end

/-- Settles O45: a launch takes its steps one after another, each of which ends it or goes on; the checks of its frame are a chain of choices; a
launch that waits for room goes on as any launch. -/
theorem kernelLaunchChecked : Obligations.KernelLaunchChecked := by
  refine ⟨fun s d j hready hphase => ?_, fun s c f ok named => ⟨launchCheck_none, fun e => launchCheck_some⟩,
    fun s t => ⟨fun j hj hroom => (launchQueueRoom_some hj).trans (congrArg Host.Outcome.next (if_pos hroom)), fun h => ?_⟩⟩
  · have hw : j.words = d.words := hready.2.1
    have hrow : ∀ u, launchGo (startState s d 0x20) (started j 0x20) = u → exec (.kernelLaunch d) s = .next (rowEnd s j u) :=
      fun u hu => congrArg Host.Outcome.next ((runDesc_ready hready launchGo).trans (by rw [hu]))
    have hphase' : (started j 0x20).phase ≠ 1 := hphase
    rw [← hw]
    refine ⟨fun hlen => hrow _ (launchGo_short hphase' hlen), fun s1 hlen hprep => ?_⟩
    have hgo := launchGo_long hphase' hlen hprep
    refine ⟨fun hbad => hrow _ (hgo.trans (launchHeader_malformed hbad)), fun hok hdenied => hrow _ (hgo.trans (launchHeader_denied hok hdenied)),
      fun s3 hok hsave htabs => ?_⟩
    replace hgo := hgo.trans (launchHeader_ok hok hsave)
    refine ⟨fun hbad => hrow _ (hgo.trans (launchTables_poisoned htabs hbad)), fun hsound e he => ?_, fun hsound hnone => ?_⟩
    · exact hrow _ ((hgo.trans (launchTables_sound htabs hsound)).trans (launchQueue_ends he))
    · replace hgo := hgo.trans (launchTables_sound htabs hsound)
      exact ⟨fun hfull => hrow _ (hgo.trans (launchQueue_full hnone hfull)),
        fun hroom => ⟨_, hrow _ hgo, launchQueue_keeps hnone hroom⟩⟩
  · obtain hnone | hfull := h
    · exact launchQueueRoom_none hnone
    · rcases hj : launchWaiting s with _ | j
      · exact launchQueueRoom_none hj
      · exact (launchQueueRoom_some hj).trans (congrArg Host.Outcome.next (if_neg (Nat.not_lt.2 hfull)))

end Sys2Proof.Machine
end

section
/-! SUPPORT. What the stamps of a kernel that starts leave (spec/07, R302, R303; spec/08, R351): every part of the state that write-backs do not
touch, so the translation's tables, the status and the flags of the tiles; and, where no stamp wraps, the pool. -/

namespace Sys2Proof.Machine

open Sys2Proof

/-! ### Write-backs (R292) -/

/-- A view of the state that sees nothing of what write-backs change: the pool, the directory and its counts of recalls, the caches, the free
values, and what the device has sent. -/
structure BackBlind {α : Type} (V : State → α) : Prop where
  rest : ∀ (s : State) (st : Store) (d : Dir) (c : Cache) (n : Nat) (o : List Out),
    V { s with store := st, dir := d, cache := c, free := n, out := o } = V s
  recalls : ∀ (s : State) (n v : Nat), V (s.set (F.DIR_S_RECALLS_TOTAL n) v) = V s

/-- A fold whose steps a view does not see. -/
theorem foldl_view {α β : Type} {V : State → α} {f : State → β → State} (hf : ∀ s a, V (f s a) = V s) (l : List β) (s : State) :
    V (l.foldl f s) = V s :=
  List.foldlRecOn l f (motive := fun u => V u = V s) rfl fun u hu a _ => (hf u a).trans hu

namespace BackBlind
variable {α : Type} {V : State → α} (h : BackBlind V)
include h

theorem putBytes (s : State) (a : Nat) (l : List Byte) : V (s.putBytes a l) = V s := by
  induction l generalizing s a with
  | nil => rfl
  | cons b l ih => exact (ih (s.putByte a b) (a + 1)).trans (h.rest _ _ _ _ _ _)

theorem placeGranule (s : State) (n p g len : Nat) : V (placeGranule s n p g len).2 = V s := by
  unfold Machine.placeGranule
  dsimp only
  split
  · rfl
  · exact h.rest _ _ _ _ _ _

theorem putPage (s : State) (p : Nat) (e : Page) : V (s.putPage p e) = V s := h.rest _ _ _ _ _ _

theorem finishStage (s : State) (gr : Nat) : V (finishStage s gr) = V s := by
  have hbytes : ∀ st : Tab (List Byte), V (st.foldl (fun s e => s.putBytes (e.1 * 64) e.2) s) = V s :=
    fun st => foldl_view (fun u _ => h.putBytes u _ _) st s
  unfold Machine.finishStage
  dsimp only
  split
  · rfl
  · split
    · exact (h.rest _ _ _ _ _ _).trans (hbytes _)
    · refine (h.putPage _ _ _).trans ?_
      split
      · exact (h.placeGranule _ _ _ _ _).trans ((h.rest _ _ _ _ _ _).trans (hbytes _))
      · exact (h.rest _ _ _ _ _ _).trans (hbytes _)

theorem writeLine (s : State) (line a : Nat) (data : List Byte) : V (writeLine s line a data) = V s := by
  have hwhole : ∀ (whole : Prop) [Decidable whole] (u : State), V (if whole then
      { u with store := { u.store with poison := setDel line u.store.poison }, dir := { u.dir with lost := setDel line u.dir.lost } }
      else u) = V u := by
    intro whole _ u
    split
    · exact h.rest _ _ _ _ _ _
    · rfl
  unfold Machine.writeLine
  dsimp only
  split
  · exact h.putBytes _ _ _
  · split
    · exact (h.finishStage _ _).trans (h.rest _ _ _ _ _ _)
    · split
      · exact (h.rest _ _ _ _ _ _).trans ((hwhole _ _).trans (h.putBytes _ _ _))
      · exact (hwhole _ _).trans (h.putBytes _ _ _)

theorem sendSnoops (s : State) (t : Txn) : V (sendSnoops s t).2 = V s := by
  unfold Machine.sendSnoops
  refine List.foldlRecOn t.toSend _ (motive := fun x : Txn × State => V x.2 = V s) rfl fun x hx a _ => ?_
  dsimp only
  split
  · exact hx
  · split
    · exact (h.rest _ _ _ _ _ _).trans hx
    · exact (h.recalls _ _ _).trans ((h.rest _ _ _ _ _ _).trans hx)

theorem startTxn (s : State) (line : Nat) (whom : List (Nat × Nat × Nat × Bool)) (what : TxnFor) : V (startTxn s line whom what) = V s :=
  (h.rest _ _ _ _ _ _).trans (h.sendSnoops s _)

theorem recallLine (s : State) (line : Nat) (write : Bool) (what : TxnFor) : V (recallLine s line write what) = V s := by
  unfold Machine.recallLine
  split
  · rfl
  · split
    · rfl
    · split
      · split
        · rfl
        · exact h.startTxn _ _ _ _
      · split
        · exact h.startTxn _ _ _ _
        · rfl

theorem dropGuest (s : State) (n line : Nat) : V (dropGuest s n line) = V s := by
  unfold Machine.dropGuest
  dsimp only
  split <;> exact h.rest _ _ _ _ _ _

theorem putGuest (s : State) (n line : Nat) (g : Guest) : V (putGuest s n line g) = V s := h.rest _ _ _ _ _ _

theorem applyBack (s : State) (n line : Nat) (gone : Bool) : V (applyBack s n line gone) = V s := by
  unfold Machine.applyBack
  split
  · rfl
  · dsimp only
    rw [apply_ite V, h.dropGuest, h.putGuest, ite_self]
    split
    · rfl
    · split
      · exact h.writeLine _ _ _ _
      · exact h.putBytes _ _ _

theorem drainBacks (s : State) : V (drainBacks s) = V s := by
  unfold Machine.drainBacks
  refine foldl_view (fun u w => ?_) _ _
  split
  · exact h.recallLine _ _ _ _
  · exact (h.applyBack _ _ _ _).trans (h.rest _ _ _ _ _ _)

theorem writeBacks (s : State) (n : Nat) (ls : List Nat) (gone : Bool) : V (writeBacks s n ls gone) = V s := by
  unfold Machine.writeBacks
  refine (h.drainBacks _).trans ((h.rest _ _ _ _ _ _).trans ?_)
  dsimp only
  split
  · exact foldl_view (fun u _ => h.dropGuest u _ _) _ _
  · rfl

/-! ### Stamps (R303) -/

variable (hstamp : ∀ (s : State) (n v : Nat), V (s.set (F.TP_S_STAMP_STAMP n) v) = V s)
  (hwraps : ∀ (s : State) (n v : Nat), V (s.set (F.TP_S_STAMP_WRAPS n) v) = V s)
include hstamp hwraps

theorem nextStamp (s : State) (n : Nat) : V (nextStamp s n).2 = V s := by
  unfold Machine.nextStamp
  dsimp only
  split
  · exact (hwraps _ _ _).trans ((hstamp _ _ _).trans (h.writeBacks _ _ _ _))
  · exact hstamp _ _ _

/-- The stamps of a kernel leave what neither the write-backs nor the stamps themselves change. -/
theorem kernStamps (s : State) (c : Nat) : V (kernStamps s c).2 = V s := by
  unfold Machine.kernStamps
  split
  · rfl
  · exact List.foldlRecOn _ _ (motive := fun x : List Nat × State => V x.2 = V s) rfl
      fun x hx n _ => (h.nextStamp hstamp hwraps x.2 n).trans hx

end BackBlind

theorem kernStamps_xlt (s : State) (c : Nat) : (kernStamps s c).2.xlt = s.xlt :=
  BackBlind.kernStamps (V := State.xlt) ⟨fun _ _ _ _ _ _ => rfl, fun _ _ _ => rfl⟩ (fun _ _ _ => rfl) (fun _ _ _ => rfl) s c

theorem key_div_stamp (n : Nat) : (F.TP_S_STAMP_STAMP n).key / 64 = 0x32028 + 0x100 * n := Fld.key_div rfl

/-- A field in one of the first two registers of a block of 64 bytes, where a tile has TP_T_STATUS and TP_T_FLAGS: the counts of recalls and the
stamps lie further up in theirs. -/
theorem kernStamps_get (s : State) (c : Nat) {f : Fld} (hf : f.key / 64 % 0x40 < 0x10) : (kernStamps s c).2.get f = s.get f := by
  have hne : ∀ (g : Fld), g.key / 64 % 0x40 = 0x28 → f.key ≠ g.key := fun g hg hk => by rw [hk] at hf; omega
  refine BackBlind.kernStamps (V := fun u => u.get f) ⟨fun _ _ _ _ _ _ => rfl, fun u n v => State.get_set_ne _ _ (hne _ ?_)⟩
    (fun u n v => State.get_set_ne _ _ (hne _ ?_)) (fun u n v => State.get_set_ne _ _ (hne _ ?_)) s c
  · have hoff : (F.DIR_S_RECALLS_TOTAL n).key / 64 = 0x19028 + 0x1000 * n := Fld.key_div rfl
    omega
  · have hoff := key_div_stamp n
    omega
  · have hoff : (F.TP_S_STAMP_WRAPS n).key / 64 = 0x32028 + 0x100 * n := Fld.key_div rfl
    omega

/-- A stamp that does not wrap rises by 1. -/
theorem nextStamp_of_ne {s : State} {n : Nat} (h : s.get (F.TP_S_STAMP_STAMP n) ≠ 2 ^ 48 - 1) :
    (nextStamp s n).2 = s.set (F.TP_S_STAMP_STAMP n) (s.get (F.TP_S_STAMP_STAMP n) + 1) := congrArg Prod.snd (if_neg h)

theorem stampKey_ne {m n : Nat} (h : m ≠ n) : (F.TP_S_STAMP_STAMP m).key ≠ (F.TP_S_STAMP_STAMP n).key := by
  have hm := key_div_stamp m
  have hn := key_div_stamp n
  omega

/-- One stamp more is taken. -/
def stampTaken (x : List Nat × State) (n : Nat) : List Nat × State := (x.1 ++ [(nextStamp x.2 n).1], (nextStamp x.2 n).2)

theorem foldl_stampTaken_store {l : List Nat} (hl : l.Nodup) {x : List Nat × State}
    (h : ∀ n ∈ l, x.2.get (F.TP_S_STAMP_STAMP n) ≠ 2 ^ 48 - 1) : (l.foldl stampTaken x).2.store = x.2.store := by
  induction l generalizing x with
  | nil => rfl
  | cons n l ih =>
    obtain ⟨hn, hrest⟩ := List.forall_mem_cons.1 h
    obtain ⟨hnot, hl⟩ := List.nodup_cons.1 hl
    have hstate : (stampTaken x n).2 = x.2.set (F.TP_S_STAMP_STAMP n) (x.2.get (F.TP_S_STAMP_STAMP n) + 1) := nextStamp_of_ne hn
    refine (ih (x := stampTaken x n) hl fun m hm => ?_).trans (by rw [hstate, State.set_store])
    have hmn : m ≠ n := fun hmn => hnot (hmn ▸ hm)
    rw [hstate, State.get_set_ne _ _ (stampKey_ne hmn)]
    exact hrest m hm

/-- Stamps that do not wrap leave the pool. -/
theorem kernStamps_store {s : State} (c : Nat) (h : ∀ n < 4, s.get (F.TP_S_STAMP_STAMP n) ≠ 2 ^ 48 - 1) :
    (kernStamps s c).2.store = s.store := by
  unfold kernStamps
  split
  · rfl
  · exact foldl_stampTaken_store (x := ([], s)) List.nodup_range fun n hn => h n (List.mem_range.1 hn)

end Sys2Proof.Machine
end

section
/-! SUPPORT. Starting and resuming a kernel (spec/07, R283 to R287; spec/08, R327, R351, R352, R355): its tiles, how they come ON with its banks and
registers, and how it goes on the plane. -/

namespace Sys2Proof.Machine

open Sys2Proof

/-! ### The tiles of a kernel (R352) -/

theorem mem_span {a n x : Nat} : x ∈ span a n ↔ a ≤ x ∧ x < a + n := by
  simp only [span, List.mem_map, List.mem_range]
  constructor
  · rintro ⟨i, hi, rfl⟩
    omega
  · intro hx
    exact ⟨x - a, by omega, by omega⟩

theorem span_nodup (a n : Nat) : (span a n).Nodup := List.nodup_range.map fun _ _ h => Nat.add_left_cancel h

theorem map_snd_zip_sublist {α β : Type} : ∀ (l : List α) (m : List β), ((l.zip m).map Prod.snd).Sublist m
  | [], m => by simp
  | _ :: _, [] => by simp
  | _ :: l, _ :: m => (map_snd_zip_sublist l m).cons_cons _

section
variable {s : State} {mask n : Nat}

theorem mem_wantTiles {l : Nat} : l ∈ wantTiles mask n ↔ (16 * n ≤ l ∧ l < 16 * n + 16) ∧ bits mask l 1 = 1 := by
  simp [wantTiles, mem_span]

theorem goodTiles_healthy {g : Nat} (hg : g ∈ goodTiles s n) : (16 * n ≤ g ∧ g < 16 * n + 16) ∧ s.flag (F.TP_T_STATUS_FAILED g) = false ∧
    s.flag (F.TP_T_STATUS_HAZY g) = false := by
  obtain ⟨hspan, hgood⟩ := List.mem_filter.1 hg
  simp only [Bool.and_eq_true, Bool.not_eq_true'] at hgood
  obtain ⟨⟨⟨hfailed, hhazy⟩, -⟩, -⟩ := hgood
  exact ⟨mem_span.1 hspan, hfailed, hhazy⟩

variable {ts : List (Nat × Nat)} (h : mapTiles s mask = some ts)
include h

theorem mapTiles_eq : ts = (List.range 4).flatMap fun n => (wantTiles mask n).zip (goodTiles s n) := by
  unfold mapTiles at h
  split at h
  · exact (Option.some.inj h).symm
  · cases h

theorem mapTiles_mem {p : Nat × Nat} (hp : p ∈ ts) : ∃ n < 4, p.1 ∈ wantTiles mask n ∧ p.2 ∈ goodTiles s n := by
  rw [mapTiles_eq h] at hp
  obtain ⟨n, hn, hp⟩ := List.mem_flatMap.1 hp
  exact ⟨n, List.mem_range.1 hn, List.of_mem_zip hp⟩

/-- No two logical tiles share a physical one. -/
theorem mapTiles_nodup : (ts.map (·.2)).Nodup := by
  rw [mapTiles_eq h, List.map_flatMap]
  refine List.nodup_flatMap.2 ⟨fun n _ => ?_, List.nodup_range.imp fun {m n} hmn => ?_⟩
  · exact ((span_nodup _ _).filter _).sublist (map_snd_zip_sublist _ _)
  · intro g hm hn
    obtain ⟨p, hp, rfl⟩ := List.mem_map.1 hm
    obtain ⟨q, hq, hqp⟩ := List.mem_map.1 hn
    have hm' := (goodTiles_healthy (List.of_mem_zip hp).2).1
    have hn' := (goodTiles_healthy (List.of_mem_zip hq).2).1
    omega

theorem mapTiles_healthy {p : Nat × Nat} (hp : p ∈ ts) : p.1 < 64 ∧ bits mask p.1 1 = 1 ∧ p.1 / 16 = p.2 / 16 ∧
    s.flag (F.TP_T_STATUS_FAILED p.2) = false ∧ s.flag (F.TP_T_STATUS_HAZY p.2) = false := by
  obtain ⟨n, hn, hwant, hgood⟩ := mapTiles_mem h hp
  obtain ⟨hl, hbit⟩ := mem_wantTiles.1 hwant
  obtain ⟨hg, hfailed, hhazy⟩ := goodTiles_healthy hgood
  exact ⟨by omega, hbit, by omega, hfailed, hhazy⟩

end

/-! ### One step for each tile -/

/-- A fold over tiles, each of which gets its own property from its step and keeps it in the steps of the others. -/
theorem foldl_each {α β : Type} {f : β → α → β} {key : α → Nat} {P : α → β → Prop} (hdo : ∀ b a, P a (f b a))
    (hkeep : ∀ b a c, key a ≠ key c → P a b → P a (f b c)) {l : List α} (hl : (l.map key).Nodup) (b : β) : ∀ a ∈ l, P a (l.foldl f b) := by
  have hstays : ∀ (a : α) (l : List α) (b : β), (∀ c ∈ l, key a ≠ key c) → P a b → P a (l.foldl f b) := fun a l b hne hb =>
    List.foldlRecOn l f (motive := P a) hb fun b hb c hc => hkeep b a c (hne c hc) hb
  induction l generalizing b with
  | nil => exact fun a ha => absurd ha List.not_mem_nil
  | cons c l ih =>
    obtain ⟨hc, hl⟩ := List.nodup_cons.1 hl
    refine List.forall_mem_cons.2 ⟨?_, ih hl (f b c)⟩
    exact hstays c l _ (fun a ha hkey => hc (hkey ▸ List.mem_map_of_mem ha)) (hdo b c)

/-! ### Waking a tile (R283 to R287) -/

/-- What a resumed kernel finds again of a tile. -/
def tileKept (k : Kern) (p : Nat × Nat) : Option KeptTile :=
  if k.isOut then some ((k.kept.find? fun q => q.logical = p.1).getD ⟨p.1, p.2, [], [], []⟩) else none

/-- The tile registers that a kernel finds in a logical tile: those kept, or those of its first row. -/
def tregsFound (k : Kern) (l : Nat) (kept : Option KeptTile) : List Nat :=
  match kept with
  | some x => x.tregs
  | none => match k.frame.tregs with
    | [] => []
    | row :: _ => (span (l * 8) 8).map fun i => row.getD i 0

theorem tregsFound_none {k : Kern} {l r : Nat} (hr : r < 8) : (tregsFound k l none).getD r 0 = (k.frame.tregs.headD []).getD (l * 8 + r) 0 := by
  unfold tregsFound
  cases k.frame.tregs with
  | nil => simp
  | cons row rest => simp [span, hr]

/-- Registers stored one after another are found. -/
theorem tabGet_foldl_trKey (v : Nat → Nat) (l : List Nat) (m : Tab Nat) {r : Nat} (hr : r ∈ l) :
    tabGet 0 (trKey r) (l.foldl (fun m r => tabPutD 0 (trKey r) (v r) m) m) = v r := by
  induction l using List.reverseRecOn with
  | nil => exact absurd hr List.not_mem_nil
  | append_singleton l a ih =>
    rw [List.foldl_append, List.foldl_cons, List.foldl_nil]
    by_cases ha : r = a
    · rw [ha, tabGet_tabPutD_same]
    · rw [tabGet_tabPutD_ne _ _ (by simpa [trKey] using ha)]
      exact ih (by simpa [ha] using hr)

/-- A tile is ON for a kernel, with the kernel's banks and what the kernel finds in its registers. -/
structure TileOn (k : Kern) (p : Nat × Nat) (s : State) : Prop where
  state : s.get (F.TP_T_STATUS_STATE p.2) = 2
  banks : s.get (F.TP_T_STATUS_BANKS_ON p.2) = k.frame.bankMask % 2 ^ 16
  busy : s.flag (F.TP_T_STATUS_BUSY p.2) = true
  rng : k.isOut = false → (tile s p.2).rng = Nat.xor k.frame.seed p.2
  tregs : ∀ r, 1 ≤ r → r ≤ 7 → tabGet 0 (trKey r) (tile s p.2).mem = (tregsFound k p.1 (tileKept k p)).getD r 0

theorem TileOn.congr {k : Kern} {p : Nat × Nat} {s u : State} (h : TileOn k p s) (htile : tile u p.2 = tile s p.2)
    (hget : ∀ f : Fld, f.key / 64 = 0x31000 + 0x40 * p.2 → u.get f = s.get f) : TileOn k p u where
  state := (hget _ (Fld.key_div rfl)).trans h.state
  banks := (hget _ (Fld.key_div rfl)).trans h.banks
  busy := by rw [State.flag, hget _ (Fld.key_div rfl)]; exact h.busy
  rng := by rw [htile]; exact h.rng
  tregs := by rw [htile]; exact h.tregs

/-- TP_T_STATUS of a tile that comes ON with the banks of a mask, others keeping their data. -/
def statusOn (s : State) (g mask ret : Nat) : State :=
  (((s.set (F.TP_T_STATUS_STATE g) 2).set (F.TP_T_STATUS_BANKS_ON g) mask).set (F.TP_T_STATUS_BANKS_RET g) ret).setFlag (F.TP_T_STATUS_BUSY g) true

theorem tileStatus_state_ne_busy (g : Nat) : (F.TP_T_STATUS_STATE g).key ≠ (F.TP_T_STATUS_BUSY g).key := by
  simp [Fld.key, F.TP_T_STATUS_STATE, F.TP_T_STATUS_BUSY]

theorem tileStatus_on_ne_busy (g : Nat) : (F.TP_T_STATUS_BANKS_ON g).key ≠ (F.TP_T_STATUS_BUSY g).key := by
  simp [Fld.key, F.TP_T_STATUS_BANKS_ON, F.TP_T_STATUS_BUSY]

section
variable (s : State) (g mask ret : Nat)

theorem statusOn_fields : (statusOn s g mask ret).get (F.TP_T_STATUS_STATE g) = 2 ∧
    (statusOn s g mask ret).get (F.TP_T_STATUS_BANKS_ON g) = mask % 2 ^ 16 ∧ (statusOn s g mask ret).flag (F.TP_T_STATUS_BUSY g) = true := by
  refine ⟨?_, ?_, State.flag_setFlag_same _ _ _ Nat.one_pos⟩
  · rw [statusOn, State.get_setFlag_ne _ _ (tileStatus_state_ne_busy g),
      State.get_set_ne _ _ (tileStatus_state_ne_ret g), State.get_set_ne _ _ (tileStatus_state_ne_on g), State.get_set_same]
    rfl
  · rw [statusOn, State.get_setFlag_ne _ _ (tileStatus_on_ne_busy g),
      State.get_set_ne _ _ (tileStatus_on_ne_ret g), State.get_set_same]
    rfl

theorem statusOn_get_ne {f : Fld} (hf : f.key / 64 ≠ 0x31000 + 0x40 * g) : (statusOn s g mask ret).get f = s.get f := by
  have hne : ∀ x : Fld, x.key / 64 = 0x31000 + 0x40 * g → f.key ≠ x.key := fun x hx hk => hf (by rw [hk, hx])
  exact (State.get_setFlag_ne _ _ (hne _ (Fld.key_div rfl))).trans <| (State.get_set_ne _ _ (hne _ (Fld.key_div rfl))).trans <|
    (State.get_set_ne _ _ (hne _ (Fld.key_div rfl))).trans (State.get_set_ne _ _ (hne _ (Fld.key_div rfl)))

end

section
variable (s : State) (k : Kern) (l g : Nat) (kept : Option KeptTile)

/-- What waking a tile does: the tile is stored with the registers that the kernel finds, and its status is set. -/
theorem wakeTile_eq : ∃ (u : State) (t : Tile) (ret : Nat), (wakeTile s k l g kept).2 = statusOn u g k.frame.bankMask ret ∧
    u.regs = s.regs ∧ u.xlt = s.xlt ∧ u.plane.tiles = tabPut g t s.plane.tiles ∧ (kept = none → t.rng = Nat.xor k.frame.seed g) ∧
    ∀ r ∈ span 1 7, tabGet 0 (trKey r) t.mem = (tregsFound k l kept).getD r 0 := by
  unfold wakeTile
  refine ⟨_, _, _, rfl, rfl, rfl, rfl, ?_, fun r hr => tabGet_foldl_trKey (fun r => (tregsFound k l kept).getD r 0) _ _ hr⟩
  rintro rfl
  rfl

theorem wakeTile_xlt : (wakeTile s k l g kept).2.xlt = s.xlt := by
  obtain ⟨u, t, ret, hwake, -, hxlt, -⟩ := wakeTile_eq s k l g kept
  rw [hwake]
  exact hxlt

theorem wakeTile_tile_ne {h : Nat} (hne : h ≠ g) : tile (wakeTile s k l g kept).2 h = tile s h := by
  obtain ⟨u, t, ret, hwake, -, -, htiles, -⟩ := wakeTile_eq s k l g kept
  rw [hwake]
  exact (congrArg (tabGet {} h) htiles).trans (tabGet_tabPut_ne _ _ hne)

/-- Waking a tile changes the fields of its TP_T_STATUS alone. -/
theorem wakeTile_get_ne {f : Fld} (hf : f.key / 64 ≠ 0x31000 + 0x40 * g) : (wakeTile s k l g kept).2.get f = s.get f := by
  obtain ⟨u, t, ret, hwake, hregs, -⟩ := wakeTile_eq s k l g kept
  rw [hwake, statusOn_get_ne _ _ _ _ hf]
  exact State.get_of_regs hregs f

end

theorem wakeTile_on (s : State) (k : Kern) (p : Nat × Nat) : TileOn k p (wakeTile s k p.1 p.2 (tileKept k p)).2 := by
  obtain ⟨u, t, ret, hwake, -, -, htiles, hrng, htregs⟩ := wakeTile_eq s k p.1 p.2 (tileKept k p)
  have htile : tile (wakeTile s k p.1 p.2 (tileKept k p)).2 p.2 = t := by
    rw [hwake]
    exact (congrArg (tabGet {} p.2) htiles).trans (tabGet_tabPut_same _ _ _ _)
  obtain ⟨hstate, hbanks, hbusy⟩ := statusOn_fields u p.2 k.frame.bankMask ret
  rw [← hwake] at hstate hbanks hbusy
  refine ⟨hstate, hbanks, hbusy, fun hin => ?_, fun r hlo hhi => ?_⟩
  · rw [htile]
    exact hrng (by simp [tileKept, hin])
  · rw [htile]
    exact htregs r (mem_span.2 ⟨hlo, by omega⟩)

/-- One tile more of a kernel is woken. -/
def tileWoken (k : Kern) (x : Nat × State) (p : Nat × Nat) : Nat × State :=
  (max x.1 (wakeTile x.2 k p.1 p.2 (tileKept k p)).1, (wakeTile x.2 k p.1 p.2 (tileKept k p)).2)

theorem wakeTiles_eq (s : State) (k : Kern) (ts : List (Nat × Nat)) : wakeTiles s k ts = ts.foldl (tileWoken k) (0, s) := rfl

/-- Every tile of a kernel comes ON, where no two of them are the same. -/
theorem wakeTiles_on (s : State) (k : Kern) {ts : List (Nat × Nat)} (hts : (ts.map (·.2)).Nodup) :
    ∀ p ∈ ts, TileOn k p (wakeTiles s k ts).2 := by
  rw [wakeTiles_eq]
  exact foldl_each (f := tileWoken k) (P := fun p x => TileOn k p x.2) (fun x p => wakeTile_on x.2 k p)
    (fun x p q hne hp => hp.congr (wakeTile_tile_ne _ _ _ _ _ hne) fun f hf => wakeTile_get_ne _ _ _ _ _ (by omega)) hts (0, s)

section
variable (s : State) (k : Kern) (ts : List (Nat × Nat))

theorem wakeTiles_xlt : (wakeTiles s k ts).2.xlt = s.xlt :=
  List.foldlRecOn ts (tileWoken k) (motive := fun x => x.2.xlt = s.xlt) rfl fun _ hx _ _ => (wakeTile_xlt _ _ _ _ _).trans hx

theorem wakeTiles_stamp (n : Nat) : (wakeTiles s k ts).2.get (F.TP_S_STAMP_STAMP n) = s.get (F.TP_S_STAMP_STAMP n) := by
  have hoff := key_div_stamp n
  exact List.foldlRecOn ts (tileWoken k) (b := (0, s)) (motive := fun x => x.2.get (F.TP_S_STAMP_STAMP n) = s.get (F.TP_S_STAMP_STAMP n)) rfl
    fun _ hx _ _ => (wakeTile_get_ne _ _ _ _ _ (by omega)).trans hx

end

/-! ### The flags of the tiles are cleared (R275, R352) -/

/-- Every flag of a tile is clear. -/
def flagsCleared (s : State) (p : Nat × Nat) : State := (tileFlags p.2).foldl (fun s f => s.set f 0) s

theorem tileFlags_keys_nodup (g : Nat) : ((tileFlags g).map Fld.key).Nodup := by
  simp [tileFlags, Fld.key, F.TP_T_FLAGS_INVALID, F.TP_T_FLAGS_OVERFLOW, F.TP_T_FLAGS_SATURATED, F.TP_T_FLAGS_INT_WRAP, F.TP_T_FLAGS_NAN_SCALE,
    F.TP_T_FLAGS_BANK_ERR]

section
variable (s : State) (p : Nat × Nat)

theorem flagsCleared_get : ∀ f ∈ tileFlags p.2, (flagsCleared s p).get f = 0 :=
  foldl_each (P := fun f u => State.get u f = 0) (fun u f => (State.get_set_same u f 0).trans (Nat.zero_mod _))
    (fun u _ _ hne hf => (State.get_set_ne u 0 hne).trans hf) (tileFlags_keys_nodup p.2) s

theorem flagsCleared_get_ne {f : Fld} (hf : f.key / 64 ≠ 0x31008 + 0x40 * p.2) : (flagsCleared s p).get f = s.get f :=
  List.foldlRecOn (tileFlags p.2) (fun s f => s.set f 0) (motive := fun u : State => u.get f = s.get f) rfl fun u hu _ hx =>
    (State.get_set_ne (g := f) u 0 fun hk => hf (by rw [hk]; exact key_of_mem_tileFlags hx)).trans hu

/-- Clearing the flags of a tile leaves what no field is part of. -/
theorem flagsCleared_view {α : Type} {V : State → α} (hV : ∀ (u : State) (f : Fld), V (u.set f 0) = V u) : V (flagsCleared s p) = V s := by
  unfold flagsCleared
  exact foldl_view hV (tileFlags p.2) s

end

/-- The flags of all tiles of a kernel are cleared. -/
def tilesCleared (s : State) (ts : List (Nat × Nat)) : State := ts.foldl flagsCleared s

section
variable {s : State} {ts : List (Nat × Nat)}

theorem tilesCleared_get (hts : (ts.map (·.2)).Nodup) : ∀ p ∈ ts, ∀ f ∈ tileFlags p.2, (tilesCleared s ts).get f = 0 :=
  foldl_each (P := fun (p : Nat × Nat) u => ∀ f ∈ tileFlags p.2, State.get u f = 0) (fun u p => flagsCleared_get u p)
    (fun u _ q hne hp f hf => (flagsCleared_get_ne u q (by rw [key_of_mem_tileFlags hf]; omega)).trans (hp f hf)) hts s

theorem tilesCleared_get_ne {f : Fld} (hf : f.key / 64 % 0x40 ≠ 8) : (tilesCleared s ts).get f = s.get f :=
  foldl_view (V := fun u => u.get f) (fun u p => flagsCleared_get_ne u p (by omega)) ts s

theorem tilesCleared_view {α : Type} {V : State → α} (hV : ∀ (u : State) (f : Fld), V (u.set f 0) = V u) : V (tilesCleared s ts) = V s := by
  unfold tilesCleared
  exact foldl_view (fun u p => flagsCleared_view u p hV) ts s

theorem tilesCleared_plane : (tilesCleared s ts).plane = s.plane := tilesCleared_view fun _ _ => rfl

end

/-! ### The kernel goes on the plane (R351) -/

/-- A kernel goes on the plane: its domain has had its turn, and its launch runs. -/
def kernTakes (s : State) (k : Kern) : State :=
  let s := putKern s k
  let s := { s with plane := { s.plane with active := some (k.ring, k.idx), rr := ctxDomain s k.ctx } }
  match findJob s k.ring k.idx with
  | some j => putJob s { j with st := .running }
  | none => s

theorem kernTakes_keeps (s : State) (k : Kern) :
    ((kernTakes s k).plane = { (putKern s k).plane with active := some (k.ring, k.idx), rr := ctxDomain s k.ctx }) ∧
    (kernTakes s k).store = s.store ∧ (kernTakes s k).regs = s.regs := by
  unfold kernTakes
  dsimp only
  split <;> exact ⟨rfl, rfl, rfl⟩

section
variable {s : State} {k : Kern}

theorem kernTakes_tile (g : Nat) : tile (kernTakes s k) g = tile s g := by rw [tile, (kernTakes_keeps s k).1]; rfl

theorem kernTakes_get (f : Fld) : (kernTakes s k).get f = s.get f := State.get_of_regs (kernTakes_keeps s k).2.2 f

theorem kernOf_kernTakes (hk : (kernOf s k.ring k.idx).isSome = true) : kernOf (kernTakes s k) k.ring k.idx = some k :=
  (kernOf_congr (u := kernTakes s k) (s := putKern s k) (by rw [(kernTakes_keeps s k).1]) _ _).trans (kernOf_putKern_same rfl rfl hk)

theorem TileOn.kernTakes {k2 : Kern} {p : Nat × Nat} (h : TileOn k2 p s) : TileOn k2 p (kernTakes s k) :=
  h.congr (kernTakes_tile _) fun f _ => kernTakes_get f

theorem kernOf_isSome_of_mem (hk : k ∈ s.plane.kerns) : (kernOf s k.ring k.idx).isSome = true :=
  List.find?_isSome.2 ⟨k, hk, by simp⟩

end

/-! ### A start (R351, R352) -/

/-- The tiles of a kernel that starts are ON, with clear flags, and its stamps are taken. -/
def tilesReady (s : State) (k : Kern) (ts : List (Nat × Nat)) : List Nat × State := kernStamps (tilesCleared (wakeTiles s k ts).2 ts) k.ctx

/-- The kernel that starts on its tiles. -/
def kernStarting (s : State) (k : Kern) (ts : List (Nat × Nat)) : Kern :=
  let now := (tilesReady s k ts).2.now
  { k with st := .starting, tiles := ts, lc := [0, 0, 0, 0], ev := [], loops := [], begun := false, stamps := (tilesReady s k ts).1,
           startedAt := if k.restarts = 0 then now else k.startedAt, runFrom := now, readyAt := now + (wakeTiles s k ts).1 }

theorem startKern_eq (s : State) (k : Kern) (ts : List (Nat × Nat)) :
    startKern s k ts = kernTakes (tilesReady s k ts).2 (kernStarting s k ts) := rfl

section
variable (s : State) (k : Kern) (ts : List (Nat × Nat))

theorem tilesReady_kernOf (r i : Nat) : (kernOf (tilesReady s k ts).2 r i).isSome = (kernOf s r i).isSome := by
  have hplane : (tilesReady s k ts).2.plane = (wakeTiles s k ts).2.plane := (kernStamps_plane _ _).trans tilesCleared_plane
  rw [kernOf_congr (congrArg Plane.kerns hplane), (TilesWork.wakeTiles s k ts).kerns]

theorem tilesReady_xlt : (tilesReady s k ts).2.xlt = s.xlt :=
  (kernStamps_xlt _ _).trans ((tilesCleared_view (V := State.xlt) fun _ _ => rfl).trans (wakeTiles_xlt s k ts))

variable {s k ts}

/-- A start in which no stamp wraps leaves the pool. -/
theorem tilesReady_store (h : ∀ n < 4, s.get (F.TP_S_STAMP_STAMP n) ≠ 2 ^ 48 - 1) : (tilesReady s k ts).2.store = s.store := by
  have hcleared : (tilesCleared (wakeTiles s k ts).2 ts).store = s.store :=
    (tilesCleared_view (V := State.store) fun _ _ => rfl).trans (TilesWork.wakeTiles s k ts).store
  refine (kernStamps_store k.ctx fun n hn => ?_).trans hcleared
  have hoff := key_div_stamp n
  rw [tilesCleared_get_ne (by omega), wakeTiles_stamp]
  exact h n hn

variable (hts : (ts.map (·.2)).Nodup) {p : Nat × Nat} (hp : p ∈ ts)
include hts hp

theorem tilesReady_on : TileOn k p (tilesReady s k ts).2 := by
  refine (wakeTiles_on s k hts p hp).congr ?_ fun f hf => ?_
  · exact congrArg (fun x : Plane => tabGet {} p.2 x.tiles) ((kernStamps_plane _ _).trans tilesCleared_plane)
  · exact (kernStamps_get _ _ (by omega)).trans (tilesCleared_get_ne (by omega))

theorem tilesReady_flags : ∀ f ∈ tileFlags p.2, (tilesReady s k ts).2.get f = 0 := fun f hf =>
  (kernStamps_get _ _ (by rw [key_of_mem_tileFlags hf]; omega)).trans (tilesCleared_get hts p hp f hf)

end

/-! ### The rows (R351, R352, R355) -/

section
variable {s : State} {t : Nat} {k : Kern} {ts : List (Nat × Nat)} (hactive : s.plane.active = none) (hnext : nextKern (s.upto t) = some k)
  (hruns : planeRuns (s.upto t) = true) (hmap : mapTiles (s.upto t) k.frame.tileMask = some ts)
include hactive hnext hruns hmap

/-- The record of a restartable launch that starts for the first time (R359). -/
def startLogged (s : State) (k : Kern) : LogAns :=
  let ws := match findJob s k.ring k.idx with | some j => j.words | none => []
  logWrite s 1 0x20 k.ctx k.ring k.idx (leBytes 64 (descVal ws) ++ k.frame.bytes)

theorem exec_kernelStart (hin : k.isOut = false) : exec (.kernelStart t) s = .next
    (if k.restartable = true ∧ k.restarts = 0 then
      onLog (startLogged (s.upto t) k) id
        (match findJob (s.upto t) k.ring k.idx with | some j => dropKern (finishJob (s.upto t) j .capacity) k | none => s.upto t)
        fun u => startKern u k ts
    else startKern (s.upto t) k ts) := by
  have hactive' : (s.upto t).plane.active = none := hactive
  simp only [exec, execKernelStart, hactive', hnext, hin, hruns, hmap]
  rfl

theorem exec_kernelStart_unlogged (hin : k.isOut = false) (hlog : k.restartable = false ∨ k.restarts ≠ 0) :
    exec (.kernelStart t) s = .next (startKern (s.upto t) k ts) := by
  rw [exec_kernelStart hactive hnext hruns hmap hin, if_neg]
  rintro ⟨hrestart, hzero⟩
  exact hlog.elim (fun h => by rw [hrestart] at h; cases h) (fun h => h hzero)

theorem exec_kernelStart_logged (hin : k.isOut = false) (hrestart : k.restartable = true) (hzero : k.restarts = 0) {j : Job}
    (hj : findJob (s.upto t) k.ring k.idx = some j) : exec (.kernelStart t) s = .next
      (onLog (logWrite (s.upto t) 1 0x20 k.ctx k.ring k.idx (leBytes 64 (descVal j.words) ++ k.frame.bytes)) id
        (dropKern (finishJob (s.upto t) j .capacity) k) fun u => startKern u k ts) := by
  rw [exec_kernelStart hactive hnext hruns hmap hin, if_pos ⟨hrestart, hzero⟩]
  simp only [startLogged, hj]

/-- A kernel that goes on issues once its tiles are ON. -/
def kernResumed (s : State) (k : Kern) (ts : List (Nat × Nat)) : Kern :=
  { k with st := .issuing, tiles := ts, kept := [], cyc := ceilDiv (((wakeTiles s k ts).2.now + (wakeTiles s k ts).1) * 6) 5, idle := 0,
           runFrom := (wakeTiles s k ts).2.now }

theorem exec_kernelResume (hout : k.isOut = true) :
    exec (.kernelResume t) s = .next (kernTakes (wakeTiles (s.upto t) k ts).2 (kernResumed (s.upto t) k ts)) := by
  have hactive' : (s.upto t).plane.active = none := hactive
  simp only [exec, execKernelResume, hactive', hnext, hout, hruns, hmap]
  rfl

end

/-! ### The first bundles (R327) -/

/-- The bytes of the first bundles of a kernel, as many as the stream buffer takes. -/
def firstBundles (s : State) (k : Kern) : Range :=
  ⟨k.frame.imageVa + k.frame.bundleOff, min (s.get F.TP_SEQ_CTRL_FETCH_LEAD) k.frame.bundles * 192, .ex⟩

/-- The first bundles have been read, and the kernel issues; or they are poisoned. -/
def bundlesRead (s : State) (k : Kern) (r : Range) : State :=
  if poisonVa s k.ctx r.va r.len then putKern s { k with hurt := true }
  else
    let s := (readVa s k.ctx r.va r.len .ex).2
    putKern s { k with st := .issuing, cyc := ceilDiv (s.now * 6) 5, idle := 0, bundle := 0, begun := false }

theorem exec_planeStart {s s1 : State} {t : Nat} {k : Kern} {j : Job} (hactive : activeKern s = some k) (hst : k.st = .starting)
    (hready : k.readyAt ≤ max s.now t) (hruns : planeRuns (s.upto t) = true) (hj : findJob s k.ring k.idx = some j) (hfault : j.st ≠ .faulted)
    (hprep : prepare (s.upto t) j 0x20 [firstBundles s k] = (true, s1)) :
    exec (.planeStart t) s = .next (bundlesRead (putJob s1 { j with st := .running }) k (firstBundles s k)) := by
  have hactive' : activeKern (s.upto t) = some k := hactive
  have hj' : findJob (s.upto t) k.ring k.idx = some j := hj
  have hgo : ¬ (k.st ≠ .starting ∨ (s.upto t).now < k.readyAt ∨ !planeRuns (s.upto t)) := by
    rintro (hne | hlt | hstops)
    · exact hne hst
    · exact absurd hready (Nat.not_le.2 hlt)
    · simp [hruns] at hstops
  simp only [firstBundles] at hprep
  simp only [exec, execPlaneStart, hactive', if_neg hgo, hj', if_neg hfault, State.upto_get, hprep]
  rfl

/-! ### The statement -/

/-- What a start does, whatever the state it meets (R351, R352). -/
theorem startKern_maps {s : State} {k : Kern} {ts : List (Nat × Nat)} (hk : k ∈ s.plane.kerns)
    (hmap : mapTiles s k.frame.tileMask = some ts) :
    (startKern s k ts).plane.active = some (k.ring, k.idx) ∧ (startKern s k ts).plane.rr = ctxDomain s k.ctx ∧
    ((∀ n < 4, s.get (F.TP_S_STAMP_STAMP n) ≠ 2 ^ 48 - 1) → (startKern s k ts).store = s.store) ∧
    kernOf (startKern s k ts) k.ring k.idx = some (kernStarting s k ts) ∧
    ∀ p ∈ ts, TileOn k p (startKern s k ts) ∧ ∀ f ∈ tileFlags p.2, (startKern s k ts).get f = 0 := by
  have hts := mapTiles_nodup hmap
  obtain ⟨hplane, hstore, -⟩ := kernTakes_keeps (tilesReady s k ts).2 (kernStarting s k ts)
  have hsome : (kernOf (tilesReady s k ts).2 (kernStarting s k ts).ring (kernStarting s k ts).idx).isSome = true :=
    (tilesReady_kernOf s k ts _ _).trans (kernOf_isSome_of_mem (k := k) hk)
  rw [startKern_eq]
  refine ⟨by rw [hplane]; rfl, ?_, fun hstamps => hstore.trans (tilesReady_store hstamps), kernOf_kernTakes hsome,
    fun p hp => ⟨?_, fun f hf => ?_⟩⟩
  · rw [hplane]
    exact congrArg (fun x : Xlt => (tabGet {} k.ctx x.ctxs).domain) (tilesReady_xlt s k ts)
  · exact (tilesReady_on hts hp).kernTakes
  · exact (kernTakes_get f).trans (tilesReady_flags hts hp f hf)

/-- What going on does (R355). -/
theorem kernResumed_takes {s : State} {k : Kern} {ts : List (Nat × Nat)} (hk : k ∈ s.plane.kerns) (hmap : mapTiles s k.frame.tileMask = some ts) :
    (kernTakes (wakeTiles s k ts).2 (kernResumed s k ts)).plane.active = some (k.ring, k.idx) ∧
    (kernTakes (wakeTiles s k ts).2 (kernResumed s k ts)).store = s.store ∧
    kernOf (kernTakes (wakeTiles s k ts).2 (kernResumed s k ts)) k.ring k.idx = some (kernResumed s k ts) ∧
    ∀ p ∈ ts, TileOn k p (kernTakes (wakeTiles s k ts).2 (kernResumed s k ts)) := by
  have hwork := TilesWork.wakeTiles s k ts
  obtain ⟨hplane, hstore, -⟩ := kernTakes_keeps (wakeTiles s k ts).2 (kernResumed s k ts)
  have hsome : (kernOf (wakeTiles s k ts).2 (kernResumed s k ts).ring (kernResumed s k ts).idx).isSome = true :=
    (hwork.kerns _ _).trans (kernOf_isSome_of_mem (k := k) hk)
  exact ⟨by rw [hplane]; rfl, hstore.trans hwork.store, kernOf_kernTakes hsome,
    fun p hp => (wakeTiles_on s k (mapTiles_nodup hmap) p hp).kernTakes⟩

/-- Settles O46: a start and a going on each wake the tiles of the mapping one by one and put the kernel on the plane; the mapping pairs the wanted
tiles of each sector with its healthy ones. -/
theorem kernelStartMapsTiles : Obligations.KernelStartMapsTiles := by
  refine ⟨fun s t k ts hactive hnext hruns hmap => ⟨?_, fun j hin hrestart hzero hj => ⟨?_, ?_, ?_⟩, fun hout hk => ?_⟩,
    fun s k ts hk hin hmap => ?_,
    fun s mask ts hmap => ⟨mapTiles_nodup hmap, fun p hp => mapTiles_healthy hmap hp⟩,
    fun s s1 t k j hactive hst hready hruns hj hfault hprep => ⟨fun hbad => ?_, fun hgood => ?_⟩⟩
  · exact exec_kernelStart_unlogged hactive hnext hruns hmap
  · intro s1 ha
    rw [exec_kernelStart_logged hactive hnext hruns hmap hin hrestart hzero hj, ha]
    rfl
  · intro s1 ha
    rw [exec_kernelStart_logged hactive hnext hruns hmap hin hrestart hzero hj, ha]
    rfl
  · intro ha
    rw [exec_kernelStart_logged hactive hnext hruns hmap hin hrestart hzero hj, ha]
    rfl
  · obtain ⟨hon, hstore, hkern, htiles⟩ := kernResumed_takes (s := s.upto t) hk hmap
    refine ⟨_, exec_kernelResume hactive hnext hruns hmap hout, hon, hstore, fun p hp => ⟨(htiles p hp).state, (htiles p hp).busy⟩,
      ⟨_, hkern, rfl, rfl, rfl, rfl, rfl, rfl, rfl⟩, fun p hp x hx r hlo hhi => ?_⟩
    rw [(htiles p hp).tregs r hlo hhi, tileKept, if_pos hout, hx]
    rfl
  · obtain ⟨hon, hturn, hstore, hkern, htiles⟩ := startKern_maps hk hmap
    refine ⟨hon, hturn, hstore, ⟨_, hkern, rfl, rfl, rfl, rfl, rfl, rfl, rfl, rfl⟩, fun p hp => ?_⟩
    obtain ⟨htile, hflags⟩ := htiles p hp
    refine ⟨htile.state, htile.busy, htile.banks, hflags, htile.rng hin, fun r hlo hhi => ?_⟩
    rw [htile.tregs r hlo hhi, tileKept, hin]
    exact tregsFound_none (by omega)
  · exact (exec_planeStart hactive hst hready hruns hj hfault hprep).trans (congrArg Host.Outcome.next (if_pos hbad))
  · exact (exec_planeStart hactive hst hready hruns hj hfault hprep).trans
      (congrArg Host.Outcome.next (if_neg (Bool.eq_false_iff.1 hgood)))

end Sys2Proof.Machine
end

section
/-! SUPPORT. Insertion into an index and deletion from it (spec/10, R424 to R430): the row of a search descriptor, the steps of an insertion and
what it writes, and what a deletion answers once its records are read. -/

namespace Sys2Proof.Machine

open Sys2Proof

/-! ### The row of a search descriptor (R405, R408) -/

@[simp] theorem startState_srch (s : State) (d : Desc) (u : Nat) : (startState s d u).srch = s.srch := by
  unfold startState ungate
  split <;> rfl

/-- The start of a row leaves the definition that its job has bound. -/
theorem boundDef_started (s : State) (d : Desc) (u : Nat) (j : Job) : boundDef (startState s d u) (started j u) = boundDef s j := by
  simp only [boundDef, startState_srch]
  rfl

theorem EngineReady.words {s : State} {d : Desc} {op u : Nat} {j : Job} {unitOf : State → Job → Nat} {en : Fld}
    (h : EngineReady s d op u j unitOf en) : j.words = d.words := by
  obtain ⟨⟨-, hwords, -⟩, -⟩ := h
  exact hwords

/-- A search descriptor that may start, on the engine of its definition and with the family enabled, runs its opcode's work. -/
theorem srchRow_ready {s : State} {d : Desc} {op u : Nat} {j : Job} (h : EngineReady s d op u j srchUnit F.SRCH_CTRL_EN)
    (go : State → Job → State) : srchRow op d go s = .next (rowEnd s j (go (startState s d u) (started j u))) := by
  obtain ⟨hready, hphase, hunit, hen⟩ := h
  have henabled : (startState s d u).flag F.SRCH_CTRL_EN = true := by
    rw [← hen]
    simp only [State.flag, State.get, startState_regs]
  exact congrArg Host.Outcome.next (engineRow_ready hready hphase hunit henabled go)

/-- The start of an engine job leaves its unit (R296). -/
theorem engineStart_unit (s : State) (j : Job) (n : Nat) (ins : List Range) : (engineStart s j n ins).1.unit = j.unit := by
  simp only [engineStart]
  split <;> rfl

theorem startJob_unit (s : State) (j : Job) (n : Nat) (ins : List Range) : (startJob s j n ins).1.unit = j.unit := by
  unfold startJob
  split
  · exact engineStart_unit s { j with phase := 1 } n ins
  · rfl

/-! ### The steps of an insertion (R425, R426) -/

/-- The source of an insertion: ATTR, the code and the neighbour list (R425). -/
def insertSource (x : SrchDef) (w : List Word) : Range := ⟨dbits w 32 0 57, 8 + x.codeBytes + 4 * dbits w 18 0 7, .rd⟩

/-- Is the source of an insertion poisoned? -/
def sourceBad (s : State) (j : Job) (x : SrchDef) (v : View) : Bool :=
  poisonVa s (ringCtx j.ring) (insertSource x j.words).va (insertSource x j.words).len (some v)

/-- The source of an insertion as it is read, and the state. -/
def sourceRead (s : State) (j : Job) (x : SrchDef) (v : View) : List Byte × State :=
  readVa s (ringCtx j.ring) (insertSource x j.words).va (insertSource x j.words).len .rd (some v)

/-- The targets that lie in the index; a poisoned source names none. -/
def insertTargets (s : State) (j : Job) (x : SrchDef) (v : View) : List Nat :=
  if sourceBad s j x v then [] else (namedNodes x (dbits j.words 18 0 7) (sourceRead s j x v).1).filter (· < x.nodes)

/-- The records of nodes, for a right. -/
def recRanges (x : SrchDef) (l : List Nat) (w : Right) : List Range := l.map fun n => ⟨x.recVa n, x.stride, w⟩

/-- The records that an insertion reads and writes: its node, and the targets that the source names. -/
def insertRanges (j : Job) (x : SrchDef) (known : List Nat) : List Range :=
  recRanges x [dbits j.words 24 0 32] .rdwr ++ recRanges x known (if dbits j.words 18 7 1 = 1 then .rdwr else .rd)

/-- The records that BACKLINK reads to find a stale edge of a full target (R426). -/
def backRanges (s : State) (j : Job) (x : SrchDef) (known : List Nat) : List Range :=
  recRanges x (if dbits j.words 18 7 1 = 1 then fullEdges s (ringCtx j.ring) x known else []) .rd

section
variable {s s0 s1 s2 s3 : State} {j j1 : Job} {x : SrchDef} (hbound : boundDef s j = some x)
  (hstart : startJob s j (j.unit % 4) [insertSource x j.words] = (j1, s0))
include hbound hstart

/-- An insertion waits for the acquires of its start (R296). -/
theorem insertGo_acquiring (hacq : acquiring s0 j1 (j.unit % 4) = true) : insertGo s j = s0 := by
  rw [insertSource] at hstart
  simp only [insertGo, hbound, hstart, hacq, if_true]

/-- An insertion reads its source, and writes once its node, its targets and, with BACKLINK, the nodes of its full targets are ready. -/
theorem insertGo_lands {v : View} {known : List Nat} (hacq : acquiring s0 j1 (j.unit % 4) = false) (hv : jobView s0 j1 (j.unit % 4) = v)
    (hsource : prepare s0 j1 j.unit [insertSource x j.words] (some v) = (true, s1)) (hknown : insertTargets s1 j x v = known)
    (hrecs : prepare (sourceRead s1 j x v).2 j1 j.unit (insertRanges j x known) = (true, s2))
    (hback : prepare s2 j1 j.unit (backRanges s2 j x known) = (true, s3)) :
    insertGo s j = insertLand s3 j1 x (sourceBad s1 j x v) (sourceRead s1 j x v).1 known := by
  rw [insertSource] at hstart hsource
  simp only [insertGo, hbound, hstart, hacq, Bool.false_eq_true, if_false, hv, hsource]
  change (match prepare (sourceRead s1 j x v).2 j1 j.unit (insertRanges j x (insertTargets s1 j x v)) with
    | (false, s) => s
    | (true, s) => match prepare s j1 j.unit (backRanges s j x (insertTargets s1 j x v)) with
      | (false, s) => s
      | (true, s) => insertLand s j1 x (sourceBad s1 j x v) (sourceRead s1 j x v).1 (insertTargets s1 j x v)) = _
  rw [hknown]
  simp only [hrecs, hback]

end

/-! ### What an insertion writes (R425 to R427) -/

/-- The record of an insertion's node is read: what it holds, and the state. -/
def nodeRead (s : State) (j : Job) (x : SrchDef) : Option SrchRec × State := peekRec s (ringCtx j.ring) x (dbits j.words 24 0 32)

/-- The records of an insertion's targets. -/
def targetHeads (s : State) (j : Job) (x : SrchDef) (known : List Nat) : List (Nat × Option SrchRec) :=
  known.map fun n => (n, (peekRec (nodeRead s j x).2 (ringCtx j.ring) x n).1)

/-- The targets that are live, with the GEN that their edges carry (R425). -/
def keptTargets (s : State) (j : Job) (x : SrchDef) (b : List Byte) (known : List Nat) : List (Nat × Nat) :=
  (namedNodes x (dbits j.words 18 0 7) b).filterMap fun n => match (targetHeads s j x known).find? fun h => h.1 = n with
    | some (_, some t) => if t.live then some (n, t.gen) else none
    | _ => none

/-- The record of a new node, in place of one that held `r`: its GEN stays, and its edges lead to the live targets (R425). -/
def newRecord (x : SrchDef) (r : SrchRec) (b : List Byte) (kept : List (Nat × Nat)) : List Byte :=
  padTo x.stride (leBytes 8 (recHead true false kept.length r.gen) ++ b.take (8 + x.codeBytes) ++ kept.flatMap fun e => edgeBytes e.1 e.2)

/-- An insertion has written its record. -/
def inserted (s : State) (j : Job) (x : SrchDef) (r : SrchRec) (b : List Byte) (known : List Nat) : State :=
  let va := x.recVa (dbits j.words 24 0 32)
  let t := writeVa (nodeRead s j x).2 (ringCtx j.ring) va (newRecord x r b (keptTargets s j x b known))
  t.bump (F.SRCH_Q_UPDATE_INSERTS (srchServing t (vaHome t (ringCtx j.ring) va)))

section
variable {s : State} {j : Job} {x : SrchDef} {b : List Byte} {known : List Nat} {r : SrchRec}

/-- A poisoned source ends the insertion, with its record poisoned (R161). -/
theorem insertLand_poisoned : insertLand s j x true b known =
    finishJob (spoilVa (nodeRead s j x).2 (ringCtx j.ring) (x.recVa (dbits j.words 24 0 32)) x.stride) j .poison := rfl

variable (hnode : (nodeRead s j x).1 = some r) (hheads : ∀ h ∈ targetHeads s j x known, h.2 ≠ none)
include hnode hheads

/-- The guard of an insertion for poison does not hold where the node and every target can be read. -/
theorem insertion_sound : ¬ ((false || (nodeRead s j x).1.isNone || (targetHeads s j x known).any fun h => h.2.isNone) = true) := by
  simp only [hnode, Option.isNone_some, Bool.or_false, Bool.false_or, List.any_eq_true, Option.isNone_iff_eq_none]
  exact fun ⟨h, hmem, hnone⟩ => hheads h hmem hnone

theorem insertLand_live (hlive : r.live = true) : insertLand s j x false b known = finishJob (nodeRead s j x).2 j .denied := by
  refine (if_neg (insertion_sound hnode hheads)).trans ?_
  change (match (nodeRead s j x).1 with | none => _ | some r => _) = _
  rw [hnode]
  exact if_pos hlive

theorem insertLand_unlinked (hlive : r.live = false) (hback : dbits j.words 18 7 1 = 0) : insertLand s j x false b known =
    finishJob (inserted s j x r b known) j .ok (dbits j.words 18 0 7 - (keptTargets s j x b known).length) := by
  have hunlinked : ¬ dbits j.words 18 7 1 = 1 := by omega
  refine (if_neg (insertion_sound hnode hheads)).trans ?_
  change (match (nodeRead s j x).1 with | none => _ | some r => _) = _
  rw [hnode]
  refine (if_neg (Bool.eq_false_iff.1 hlive)).trans ?_
  change (match (if dbits j.words 18 7 1 = 1 then _ else (0, inserted s j x r b known)) with
    | (made, s) => finishJob s j .ok (_ + made * 128)) = _
  rw [if_neg hunlinked]
  rfl

end

/-! ### A deletion (R428, R429) -/

/-- Does the ENTRY of the index pass from a deleted node to another one (R429)? -/
abbrev EntryPasses (x : SrchDef) (node ne : Nat) : Prop := node = x.entry ∧ ne < x.nodes ∧ ne ≠ node

/-- The records that a deletion needs: its node's, and that of the next entry. -/
def deleteRanges (x : SrchDef) (node ne : Nat) : List Range :=
  ⟨x.recVa node, x.stride, .rdwr⟩ :: (if EntryPasses x node ne then [⟨x.recVa ne, x.stride, .rd⟩] else [])

/-- The record of the next entry, where there is one, and the state. -/
def nextEntryRead (s : State) (c : Nat) (x : SrchDef) (node ne : Nat) : Option SrchRec × State :=
  if EntryPasses x node ne then peekRec s c x ne else (none, s)

/-- A node whose record held `r` has become a tombstone with the next GEN (R428). -/
def tombstoned (s : State) (c : Nat) (x : SrchDef) (node : Nat) (r : SrchRec) : State :=
  let t := writeVa s c (x.recVa node) (leBytes 8 (recHead false true r.deg (r.gen + 1)))
  t.bump (F.SRCH_Q_UPDATE_DELETES (srchServing t (vaHome t c (x.recVa node))))

/-- The node may go: it is not the ENTRY, or another live node takes its place (R429). -/
def MayGo (x : SrchDef) (node ne : Nat) (alt : Option SrchRec) : Prop :=
  node = x.entry → EntryPasses x node ne ∧ ∃ o : SrchRec, alt = some o ∧ o.live = true

/-- Is the next entry there and live? -/
def liveNext : Option SrchRec → Bool
  | some a => a.live
  | none => false

/-- The definition has a new ENTRY where the deleted node was it (R429). -/
def entryMoved (s : State) (x : SrchDef) (node ne : Nat) : State :=
  { s with srch := { s.srch with defs := s.srch.defs.map fun y => if y = x ∧ node = x.entry then { y with entry := ne } else y } }

/-- What a deletion does once its records are read: its node's is `me`, and the next entry's `alt`. -/
def deleteLand (s : State) (j : Job) (c : Nat) (x : SrchDef) (node ne : Nat) (me alt : Option SrchRec) : State :=
  match me with
  | none => finishJob s j .poison
  | some r =>
    if node = x.entry ∧ !(decide (EntryPasses x node ne) && liveNext alt) then
      finishJob s j (if decide (EntryPasses x node ne) && alt.isNone then .poison else .denied)
    else if !r.live then finishJob s j .ok 1
    else finishJob (entryMoved (tombstoned s c x node r) x node ne) j .ok

/-- A deletion whose records are ready reads its node's and then the next entry's. -/
theorem deleteGo_lands {s s0 s1 : State} {j j1 : Job} {x : SrchDef} {node ne : Nat} (hbound : boundDef s j = some x)
    (hstart : startJob s j (j.unit % 4) [] = (j1, s0)) (hnode : dbits j.words 24 0 32 = node) (hne : dbits j.words 28 0 32 = ne)
    (hprep : prepare s0 j1 j.unit (deleteRanges x node ne) = (true, s1)) :
    let me := peekRec s1 (ringCtx j.ring) x node
    let alt := nextEntryRead me.2 (ringCtx j.ring) x node ne
    deleteGo s j = deleteLand alt.2 j1 (ringCtx j.ring) x node ne me.1 alt.1 := by
  have hunit : j1.unit = j.unit := by
    rw [← startJob_unit s j (j.unit % 4) [], hstart]
  rw [← hunit, deleteRanges] at hprep
  simp only [deleteGo, hbound, hstart, hnode, hne, hprep]
  rfl

/-- A deletion of another node than the ENTRY leaves the definitions. -/
theorem entryMoved_of_ne {s : State} {x : SrchDef} {node ne : Nat} (hne : node ≠ x.entry) : entryMoved s x node ne = s := by
  have hsame : (fun y : SrchDef => if y = x ∧ node = x.entry then { y with entry := ne } else y) = id :=
    funext fun y => if_neg fun hy => hne hy.2
  rw [entryMoved, hsame, List.map_id]

/-- A deletion of the ENTRY gives its definition the next one. -/
theorem entryMoved_entry {s : State} {x : SrchDef} {node ne : Nat} (hentry : node = x.entry) : entryMoved s x node ne =
    { s with srch := { s.srch with defs := s.srch.defs.map fun y => if y = x then { y with entry := ne } else y } } := by
  have hmoved : (fun y : SrchDef => if y = x ∧ node = x.entry then { y with entry := ne } else y) =
      fun y => if y = x then { y with entry := ne } else y :=
    funext fun y => if_congr (and_iff_left hentry) rfl rfl
  rw [entryMoved, hmoved]

section
variable {s : State} {j : Job} {c : Nat} {x : SrchDef} {node ne : Nat} {r : SrchRec} {alt : Option SrchRec}

theorem deleteLand_noNext (hentry : node = x.entry) (hstays : ¬ EntryPasses x node ne) :
    deleteLand s j c x node ne (some r) alt = finishJob s j .denied := by
  have hguard : (!(decide (EntryPasses x node ne) && liveNext alt)) = true := by rw [decide_eq_false hstays]; rfl
  have hsound : ¬ (decide (EntryPasses x node ne) && alt.isNone) = true := by rw [decide_eq_false hstays, Bool.false_and]; decide
  exact (if_pos ⟨hentry, hguard⟩).trans (congrArg (finishJob s j · 0) (if_neg hsound))

theorem deleteLand_deadNext {o : SrchRec} (hpasses : EntryPasses x node ne) (hdead : o.live = false) :
    deleteLand s j c x node ne (some r) (some o) = finishJob s j .denied := by
  have hguard : (!(decide (EntryPasses x node ne) && liveNext (some o))) = true := by rw [liveNext, hdead, Bool.and_false]; rfl
  have hsound : ¬ (decide (EntryPasses x node ne) && (some o).isNone) = true := by rw [Option.isNone_some, Bool.and_false]; decide
  exact (if_pos ⟨hpasses.1, hguard⟩).trans (congrArg (finishJob s j · 0) (if_neg hsound))

variable (hmay : MayGo x node ne alt)
include hmay

/-- The guard of a deletion for the ENTRY does not hold of a node that may go. -/
theorem entry_passes : ¬ (node = x.entry ∧ (!(decide (EntryPasses x node ne) && liveNext alt)) = true) := by
  rintro ⟨hentry, hguard⟩
  obtain ⟨hpasses, o, rfl, hlive⟩ := hmay hentry
  rw [decide_eq_true hpasses, liveNext, hlive] at hguard
  exact absurd hguard (by decide)

theorem deleteLand_dead (hdead : r.live = false) : deleteLand s j c x node ne (some r) alt = finishJob s j .ok 1 :=
  (if_neg (entry_passes hmay)).trans (if_pos (by rw [hdead]; rfl))

theorem deleteLand_live (hlive : r.live = true) :
    deleteLand s j c x node ne (some r) alt = finishJob (entryMoved (tombstoned s c x node r) x node ne) j .ok :=
  (if_neg (entry_passes hmay)).trans (if_neg (by rw [hlive]; decide))

end

/-! ### The rows of the two descriptors -/

section
variable {s : State} {d : Desc} {j : Job} {u : Nat}

theorem exec_srchInsert {t : State} (h : EngineReady s d 0x3C u j srchUnit F.SRCH_CTRL_EN)
    (hgo : insertGo (startState s d u) (started j u) = t) : exec (.srchInsert d) s = .next (rowEnd s j t) :=
  hgo ▸ srchRow_ready h insertGo

theorem exec_srchDelete {t : State} (h : EngineReady s d 0x3D u j srchUnit F.SRCH_CTRL_EN)
    (hgo : deleteGo (startState s d u) (started j u) = t) : exec (.srchDelete d) s = .next (rowEnd s j t) :=
  hgo ▸ srchRow_ready h deleteGo

end

/-- Settles O56: an insertion waits, or lands once its source, its records and those of its back-links are ready, and writes as its node and its
targets were found; a deletion reads its node and the next entry, and what it does follows from the two records. -/
theorem indexInsertAndDelete : Obligations.IndexInsertAndDelete := by
  refine ⟨fun s s1 s2 s3 d u j x hready hbound => ?_,
    fun s j x b known r hnode hheads => ⟨insertLand_live hnode hheads, insertLand_unlinked hnode hheads⟩,
    fun s j x b known => insertLand_poisoned,
    fun s s1 d u j x hready hbound => ?_⟩
  · have hstarted := (boundDef_started s d u j).trans hbound
    rw [← hready.words]
    exact ⟨fun hacq => exec_srchInsert hready (insertGo_acquiring hstarted rfl hacq), fun hacq hsource hrecs hback =>
      exec_srchInsert hready (insertGo_lands hstarted rfl hacq rfl hsource rfl hrecs hback)⟩
  · have hstarted := (boundDef_started s d u j).trans hbound
    rw [← hready.words]
    intro c node ne other a hprep me alt ends gone
    have hgo := deleteGo_lands hstarted rfl rfl rfl hprep
    have hends : ∀ {t : State}, deleteLand alt.2 a.1 c x node ne me.1 alt.1 = t → exec (.srchDelete d) s = .next (rowEnd s j t) :=
      fun ht => exec_srchDelete hready (hgo.trans ht)
    refine ⟨fun hme => ?_, fun r hme => ?_⟩
    · rw [hme] at hends
      exact hends rfl
    · rw [hme] at hends
      have hmay (hne : node ≠ x.entry) : MayGo x node ne alt.1 := fun hentry => absurd hentry hne
      refine ⟨fun hne hdead => ?_, fun hne hlive => ?_, fun hentry hstays => hends (deleteLand_noNext hentry hstays), fun o hpasses ho => ?_⟩
      · exact hends (deleteLand_dead (hmay hne) hdead)
      · exact hends ((deleteLand_live (hmay hne) hlive).trans (congrArg (finishJob · a.1 .ok) (entryMoved_of_ne hne)))
      · rw [ho] at hends
        have hmay (holive : o.live = true) : MayGo x node ne (some o) := fun _ => ⟨hpasses, o, rfl, holive⟩
        refine ⟨fun hdead => hends (deleteLand_deadNext hpasses hdead), fun holive hdead => ?_, fun holive hlive => ?_⟩
        · exact hends (deleteLand_dead (hmay holive) hdead)
        · exact hends ((deleteLand_live (hmay holive) hlive).trans (congrArg (finishJob · a.1 .ok) (entryMoved_entry hpasses.1)))

end Sys2Proof.Machine
end

section
/-! SUPPORT. Block spaces and keys (spec/11, R436, R437, R440, R443, R444, R447 to R449): the row of a block descriptor, the orders that a descriptor on
a key passes, its look-up, and the commands that set and clear a space. -/

namespace Sys2Proof.Machine

open Sys2Proof

/-! ### The row of a block descriptor (R440, R467) -/

section
variable {s : State} {d : Desc} {op u : Nat} {j : Job}

/-- A block descriptor that may start, on the engine of its operands and with the family enabled, runs its opcode's work. -/
theorem blkRow_ready (h : EngineReady s d op u j blkUnit F.BLK_CTRL_EN) (go : State → Job → State) :
    blkRow op d go s = .next (rowEnd s j (go (startState s d u) (started j u))) := by
  obtain ⟨hready, hphase, hunit, hen⟩ := h
  have henabled : (startState s d u).flag F.BLK_CTRL_EN = true := by
    rw [← hen]
    simp only [State.flag, State.get, startState_regs]
  exact congrArg Host.Outcome.next (engineRow_ready hready hphase hunit henabled go)

theorem blkRow_does (h : EngineReady s d op u j blkUnit F.BLK_CTRL_EN) {go : State → Job → State} {q : State}
    (hdoes : go (startState s d u) (started j u) = q) : blkRow op d go s = .next (rowEnd s j q) :=
  hdoes ▸ blkRow_ready h go

theorem started_words (h : EngineReady s d op u j blkUnit F.BLK_CTRL_EN) : (started j u).words = d.words := h.words

theorem started_phase (h : EngineReady s d op u j blkUnit F.BLK_CTRL_EN) : (started j u).phase = 0 := by
  obtain ⟨-, hphase, -⟩ := h
  exact hphase

@[simp] theorem started_unit (j : Job) (u : Nat) : (started j u).unit = u := rfl

@[simp] theorem started_ring (j : Job) (u : Nat) : (started j u).ring = j.ring := rfl

@[simp] theorem startState_blk (s : State) (d : Desc) (u : Nat) : (startState s d u).blk = s.blk := by
  unfold startState ungate
  split <;> rfl

@[simp] theorem startState_dir (s : State) (d : Desc) (u : Nat) : (startState s d u).dir = s.dir := by
  unfold startState ungate
  split <;> rfl

theorem startState_spaceAt (s : State) (d : Desc) (u i : Nat) : spaceAt (startState s d u) i = spaceAt s i := by
  rw [spaceAt, startState_blk, spaceAt]

end

/-! ### The end of a block job (R467, R468) -/

theorem skipChain_blk (s : State) (g : Nat) (c : Code) (sk : Bool) (n a : Nat) : (skipChain s g c sk n a).blk = s.blk := by
  induction n generalizing s a with
  | zero => rfl
  | succ n ih =>
    unfold skipChain
    split
    · rfl
    · split
      · rfl
      · dsimp only
        split
        · exact ih _ _
        · rfl

@[simp] theorem finishJob_blk (s : State) (j : Job) (c : Code) (n : Nat) : (finishJob s j c n).blk = s.blk := by
  simp only [finishJob]
  generalize (if c = .ok ∧ j.replayed = true then Code.restarted else c) = c
  split
  · exact skipChain_blk _ _ _ _ _ _
  · rfl

/-- The end of a block job is the end of any job, after the counts of its engine, which change registers alone. -/
theorem blkEnd_eq (s : State) (j : Job) (c : Code) (n : Nat) : ∃ r, blkEnd s j c n = finishJob { s with regs := r } j c n := by
  have hcount : ∀ f, ∃ r, blkCount s j f false = { s with regs := r } := fun f => by
    unfold blkCount
    split
    · exact ⟨s.regs, rfl⟩
    · exact ⟨(s.bump f).regs, rfl⟩
  unfold blkEnd
  dsimp only
  split
  · obtain ⟨r, hr⟩ := hcount (F.BLK_B_OPS_GETS (j.unit % 4))
    exact ⟨r, by rw [hr]⟩
  · split
    · obtain ⟨r, hr⟩ := hcount (F.BLK_B_OPS_PUTS (j.unit % 4))
      exact ⟨r, by rw [hr]⟩
    · exact ⟨s.regs, rfl⟩

@[simp] theorem blkEnd_blk (s : State) (j : Job) (c : Code) (n : Nat) : (blkEnd s j c n).blk = s.blk := by
  obtain ⟨r, hr⟩ := blkEnd_eq s j c n
  rw [hr, finishJob_blk]

@[simp] theorem blkEnd_store (s : State) (j : Job) (c : Code) (n : Nat) : (blkEnd s j c n).store = s.store := by
  obtain ⟨r, hr⟩ := blkEnd_eq s j c n
  rw [hr, finishJob_store]

theorem blkEnd_spaceAt (s : State) (j : Job) (c : Code) (n i : Nat) : spaceAt (blkEnd s j c n) i = spaceAt s i := by
  rw [spaceAt, blkEnd_blk, spaceAt]

/-- A block descriptor whose job ends is found with its code. -/
theorem ends_blkEnd {s t : State} {d : Desc} {op u : Nat} {j : Job} (h : EngineReady s d op u j blkUnit F.BLK_CTRL_EN)
    (ht : t.rings = s.rings) (c : Code) : Ends (rowEnd s j (blkEnd t (started j u) c)) d (endCode j c) := by
  obtain ⟨⟨hfind, -⟩, -⟩ := h
  obtain ⟨r, hr⟩ := blkEnd_eq t (started j u) c 0
  rw [hr]
  exact ends_rowEnd (t := { t with regs := r }) (k := started j u) hfind ht rfl rfl c

/-! ### BLK_SPACE_SET (R436, R437) -/

section
variable {s : State} {d : Desc} {u : Nat} {j : Job} (h : EngineReady s d 0x50 u j blkUnit F.BLK_CTRL_EN)
include h

theorem exec_blkSpaceSet_defined (hdef : (spaceAt s (dbits d.words 16 0 8)).isSome = true) :
    exec (.blkSpaceSet d) s = .next (rowEnd s j (blkEnd (startState s d u) (started j u) .denied)) := by
  refine blkRow_does h (if_pos ?_)
  rw [started_words h, startState_spaceAt, hdef]

theorem exec_blkSpaceSet_new (hnew : spaceAt s (dbits d.words 16 0 8) = none) : exec (.blkSpaceSet d) s =
    .next (rowEnd s j (blkEnd (putSpace (startState s d u) (dbits d.words 16 0 8) (spaceOf (ringCtx j.ring) d.words)) (started j u) .ok)) := by
  refine blkRow_does h ((if_neg ?_).trans ?_)
  · rw [started_words h, startState_spaceAt, hnew]
    decide
  · rw [started_words h, started_ring]

theorem blkSpaceSet_sets (hnew : spaceAt s (dbits d.words 16 0 8) = none) : Gives (.blkSpaceSet d) s fun q =>
    spaceAt q (dbits d.words 16 0 8) = some (spaceOf (ringCtx j.ring) d.words) ∧
      (∀ k, k ≠ dbits d.words 16 0 8 → spaceAt q k = spaceAt s k) ∧ q.blk.ledger = s.blk.ledger ∧ q.store = s.store ∧
        Ends q d (endCode j .ok) := by
  refine ⟨_, exec_blkSpaceSet_new h hnew, ?_, fun k hk => ?_, ?_, ?_, ends_blkEnd h (t := putSpace _ _ _) (startState_rings s d u) .ok⟩
  · exact (blkEnd_spaceAt _ _ _ _ _).trans (tabGet?_tabPut_same _ _ _)
  · exact (blkEnd_spaceAt _ _ _ _ _).trans ((tabGet?_tabPut_ne _ _ hk).trans (startState_spaceAt s d u k))
  · exact congrArg Blk.ledger (blkEnd_blk _ _ _ _) |>.trans (congrArg Blk.ledger (startState_blk s d u) :)
  · exact (blkEnd_store _ _ _ _).trans (startState_store s d u)

end

/-! ### BLK_SPACE_CLEAR (R437) -/

theorem dropGuest_eq (s : State) (n line : Nat) : ∃ c, dropGuest s n line = { s with cache := c } := by
  unfold dropGuest
  dsimp only
  split <;> exact ⟨_, rfl⟩

/-- A fold each of whose steps changes the caches alone does so. -/
theorem foldl_cache {α : Type} {f : State → α → State} (hf : ∀ s a, ∃ c, f s a = { s with cache := c }) (l : List α) (s : State) :
    ∃ c, l.foldl f s = { s with cache := c } :=
  List.foldlRecOn l f (motive := fun t => ∃ c, t = { s with cache := c }) ⟨s.cache, rfl⟩ fun t ⟨_, ht⟩ a _ => by
    obtain ⟨c, hc⟩ := hf t a
    exact ⟨c, by rw [hc, ht]⟩

theorem discardGuests_eq (s : State) (ps : List Nat) : ∃ c, discardGuests s ps = { s with cache := c } :=
  foldl_cache (fun t n => foldl_cache (fun v l => dropGuest_eq v n l) _ t) _ s

theorem foldl_zeroPage_eq (ps : List Nat) (s : State) :
    ∃ m, ps.foldl (fun s p => s.zeroPage p) s = { s with store := { s.store with mem := m } } :=
  List.foldlRecOn ps _ (motive := fun t : State => ∃ m, t = { s with store := { s.store with mem := m } }) ⟨s.store.mem, rfl⟩
    fun t ⟨_, ht⟩ p _ => ⟨(t.zeroPage p).store.mem, by rw [ht]; rfl⟩

@[simp] theorem freePages_blk (s : State) (ps : List Nat) : (freePages s ps).blk = s.blk := by
  obtain ⟨c, hc⟩ := discardGuests_eq s ps
  obtain ⟨m, hm⟩ := foldl_zeroPage_eq ps { s with cache := c }
  simp only [freePages, hc, hm]

theorem freePages_pages (s : State) (ps : List Nat) : (freePages s ps).store.pages = s.store.pages.filter fun e => !ps.contains e.1 := by
  obtain ⟨c, hc⟩ := discardGuests_eq s ps
  obtain ⟨m, hm⟩ := foldl_zeroPage_eq ps { s with cache := c }
  simp only [freePages, hc, hm]

/-- A key that a filter refuses is gone, and one that was not there stays away. -/
theorem tabGet?_filter_none {α : Type} {k : Nat} {p : Nat → Bool} {t : Tab α} (h : tabGet? k t = none ∨ p k = false) :
    tabGet? k (t.filter fun e => p e.1) = none := by
  induction t with
  | nil => rfl
  | cons a t ih =>
    obtain ⟨i, v⟩ := a
    by_cases hik : i = k
    · subst hik
      have hp : p i = false := h.resolve_left (by simp [tabGet?])
      simpa [hp] using ih (.inr hp)
    · have ht : tabGet? k (t.filter fun e => p e.1) = none := ih (h.imp_left fun hnone => by simpa [tabGet?, hik] using hnone)
      rw [List.filter_cons]
      split
      · simpa [tabGet?, hik] using ht
      · exact ht

/-- The existing ones among some pages are freed, so none of those pages is there. -/
theorem freePages_page? {s : State} {l : List Nat} {p : Nat} (hp : p ∈ l) :
    (freePages s (l.filter fun p => (s.page? p).isSome)).page? p = none := by
  rw [State.page?, freePages_pages]
  refine tabGet?_filter_none (p := fun i => !(l.filter fun p => (s.page? p).isSome).contains i) ?_
  cases hpage : s.page? p with
  | none => exact .inl hpage
  | some e =>
    exact .inr (by simp [hp, hpage])

/-- No line is known to a directory that holds none. -/
theorem flatMap_knownLines {s : State} (hents : s.dir.ents = []) (htxns : s.dir.txns = []) (ps : List Nat) :
    (ps.flatMap fun p => knownLines s (p * 2097152) 2097152) = [] := by
  simp only [knownLines, hents, htxns, List.map_nil, List.append_nil, List.eraseDups_nil, List.filter_nil, List.flatMap_eq_nil_iff,
    implies_true]

/-- The pages of a space that exist. -/
def spacePages (s : State) (sp : Space) : List Nat :=
  (span (extPa s sp sp.indexVa / 2097152) (2 ^ sp.log2 / 8192) ++ areaPages s sp).filter fun p => (s.page? p).isSome

/-- A space is cleared: its pages are freed, and its definition and its ledger entries go (R437). -/
def spaceCleared (s : State) (sp : Space) (i : Nat) : State :=
  let s := freePages s (spacePages s sp)
  { s with blk := { s.blk with spaces := tabDel i s.blk.spaces, ledger := s.blk.ledger.filter fun x => x.space ≠ i } }

theorem spaceCleared_blk (s : State) (sp : Space) (i : Nat) : (spaceCleared s sp i).blk =
    { s.blk with spaces := tabDel i s.blk.spaces, ledger := s.blk.ledger.filter fun x => x.space ≠ i } := by
  simp only [spaceCleared, freePages_blk]

section
variable {s : State} {d : Desc} {u : Nat} {j : Job} (h : EngineReady s d 0x51 u j blkUnit F.BLK_CTRL_EN)
include h

theorem exec_blkSpaceClear_absent (hnone : spaceAt s (dbits d.words 16 0 8) = none) :
    exec (.blkSpaceClear d) s = .next (rowEnd s j (blkEnd (startState s d u) (started j u) .denied)) := by
  refine blkRow_does h ?_
  simp only [started_words h, startState_spaceAt, hnone]

variable {sp : Space} (hsp : spaceAt s (dbits d.words 16 0 8) = some sp)
include hsp

theorem exec_blkSpaceClear_otherDomain (hdom : ctxDomain s sp.ctx ≠ ctxDomain s (ringCtx j.ring)) :
    exec (.blkSpaceClear d) s = .next (rowEnd s j (blkEnd (startState s d u) (started j u) .denied)) := by
  refine blkRow_does h ?_
  rw [started_words h]
  dsimp only
  rw [startState_spaceAt, hsp]
  exact if_pos (by rwa [startState_ctxDomain, startState_ctxDomain])

variable (hdom : ctxDomain s sp.ctx = ctxDomain s (ringCtx j.ring))
include hdom

theorem exec_blkSpaceClear_held (hheld : spaceHeld (startState s d u) j (dbits d.words 16 0 8) = true) :
    exec (.blkSpaceClear d) s = .next (rowEnd s j (putJob (startState s d u) { started j u with st := .waiting })) := by
  have hheld' : spaceHeld (startState s d u) (started j u) (dbits d.words 16 0 8) = true := hheld
  refine blkRow_does h ?_
  rw [started_words h]
  dsimp only
  rw [startState_spaceAt, hsp]
  refine (if_neg (by rw [startState_ctxDomain, startState_ctxDomain]; exact not_not_intro hdom)).trans ((if_pos hheld').trans ?_)
  simp only [started_words h]

variable (hfree : spaceHeld (startState s d u) j (dbits d.words 16 0 8) = false) (hents : s.dir.ents = []) (htxns : s.dir.txns = [])
include hfree hents htxns

theorem exec_blkSpaceClear_free : exec (.blkSpaceClear d) s =
    .next (rowEnd s j (blkEnd (spaceCleared (startState s d u) sp (dbits d.words 16 0 8)) (started j u) .ok)) := by
  have hfree' : spaceHeld (startState s d u) (started j u) (dbits d.words 16 0 8) = false := hfree
  have hlines := flatMap_knownLines (s := startState s d u) ((congrArg Dir.ents (startState_dir s d u)).trans hents)
    ((congrArg Dir.txns (startState_dir s d u)).trans htxns)
  refine blkRow_does h ?_
  rw [started_words h]
  dsimp only
  rw [startState_spaceAt, hsp]
  refine (if_neg (by rw [startState_ctxDomain, startState_ctxDomain]; exact not_not_intro hdom)).trans
    ((if_neg (Bool.eq_false_iff.1 hfree')).trans ?_)
  rw [hlines]
  rfl

theorem blkSpaceClear_clears : Gives (.blkSpaceClear d) s fun q => spaceAt q (dbits d.words 16 0 8) = none ∧
    (∀ k, k ≠ dbits d.words 16 0 8 → spaceAt q k = spaceAt s k) ∧
    (∀ l : Ledger, l ∈ q.blk.ledger ↔ l ∈ s.blk.ledger ∧ l.space ≠ dbits d.words 16 0 8) ∧
    (∀ p ∈ areaPages (startState s d u) sp, q.page? p = none) := by
  let q := spaceCleared (startState s d u) sp (dbits d.words 16 0 8)
  have hblk : (rowEnd s j (blkEnd q (started j u) .ok)).blk = { s.blk with
      spaces := tabDel (dbits d.words 16 0 8) s.blk.spaces, ledger := s.blk.ledger.filter fun x => x.space ≠ dbits d.words 16 0 8 } := by
    refine (blkEnd_blk _ _ _ _).trans ((spaceCleared_blk _ _ _).trans ?_)
    rw [startState_blk]
  refine ⟨_, exec_blkSpaceClear_free h hsp hdom hfree hents htxns, ?_, fun k hk => ?_, fun l => ?_, fun p hp => ?_⟩
  · rw [spaceAt, hblk]
    exact tabGet?_tabDel_same _ _
  · rw [spaceAt, hblk]
    exact tabGet?_tabDel_ne _ hk
  · rw [hblk]
    simp only [List.mem_filter, decide_eq_true_eq, ne_eq]
  · have hstore : (rowEnd s j (blkEnd q (started j u) .ok)).store = q.store := blkEnd_store _ _ _ _
    rw [State.page?, hstore]
    exact freePages_page? (List.mem_append_right _ hp)

end

/-! ### The orders of a descriptor on a key (R443, R454) -/

section
variable {s : State} {j : Job}

theorem blkOrders_noSpace (hnone : spaceAt s (dbits j.words 16 0 8) = none) : blkOrders s j = .code .denied 0 := by
  simp only [blkOrders, blkCheck, hnone]

variable {sp : Space} (hsp : spaceAt s (dbits j.words 16 0 8) = some sp) (hcheck : blkCheck s (ringCtx j.ring) j.words = none)
include hsp hcheck

/-- With no ledger entry, the first PUT of a group at epoch 0 goes on while the ledger has room. -/
theorem blkOrders_noEntry (hl : ledgerOf s (dbits j.words 16 0 8) (dbits j.words 40 0 64) = none) : blkOrders s j =
    if descOp j.words = 0x53 ∧ dbits j.words 20 0 30 = 0 then
      (if 1048576 ≤ s.blk.ledger.length then .code .capacity 0 else .go sp none)
    else .code .notOwner 0 := by
  simp only [blkOrders, hcheck, hsp, hl]

/-- With a ledger entry, a descriptor that changes the group waits while the group is being sent; others go on at its epoch. -/
theorem blkOrders_entry {l : Ledger} (hl : ledgerOf s (dbits j.words 16 0 8) (dbits j.words 40 0 64) = some l) : blkOrders s j =
    if l.st = .sending ∧ (descOp j.words = 0x53 ∨ descOp j.words = 0x57 ∨ descOp j.words = 0x56) then .wait
    else if (l.st = .owned ∨ l.st = .sending) ∧ l.epoch = dbits j.words 20 0 30 then .go sp (some l)
    else .code .notOwner l.epoch := by
  simp only [blkOrders, hcheck, hsp, hl]

end

/-! ### A descriptor on one key (R440, R443, R444) -/

section
variable {s : State} {d : Desc} {u op : Nat} {j : Job} {f : State → Job → Space → Option Ledger → Option (Nat × BlkEnt) → State}

theorem keyJob_code {c : Code} {n : Nat} (ho : blkOrders s j = .code c n) : keyJob s j f = blkEnd s j c n := by
  simp only [keyJob, ho]

theorem keyJob_wait (ho : blkOrders s j = .wait) : keyJob s j f = putJob s { j with st := .waiting } := by
  simp only [keyJob, ho]

variable {sp : Space} {l : Option Ledger} {t : State} (h : EngineReady s d op u j blkUnit F.BLK_CTRL_EN)
include h

/-- A descriptor whose key has been looked for does its own work on what the look-up found. -/
theorem keyJob_found {hit : Option (Nat × BlkEnt)} (hfound : KeyFound s d u j sp l hit t) :
    keyJob (startState s d u) (started j u) f = f t (started j u) sp l hit := by
  obtain ⟨ho, ⟨hpage, rfl, rfl⟩ | ⟨hpage, hprep, hclean, hlook, hgroup⟩⟩ := hfound
  · simp only [keyJob, ho, started_words h, hpage, Bool.not_false, if_true]
  · have hsound : ((probeRanges sp (dbits d.words 24 0 128)).any fun r => poisonVa t sp.ctx r.va r.len) = false :=
      List.any_eq_false.2 fun r hr => by rw [hclean r hr]; decide
    simp only [keyJob, ho, started_words h, hpage, Bool.not_true, Bool.false_eq_true, if_false, started_unit, hprep, hsound, hlook]
    cases hit with
    | none => rfl
    | some x => exact if_neg (not_not_intro (hgroup x rfl))

/-- An entry of another group refuses the descriptor (order 6 of R443). -/
theorem keyJob_otherGroup {k : Nat} {e : BlkEnt} (ho : blkOrders (startState s d u) (started j u) = .go sp l)
    (hpage : pageThere (startState s d u) sp (sp.indexVa + bucketOf sp (dbits d.words 24 0 128) * 256) = true)
    (hprep : prepareAs (startState s d u) (started j u) sp.ctx u (probeRanges sp (dbits d.words 24 0 128)) = (true, t))
    (hclean : ∀ r ∈ probeRanges sp (dbits d.words 24 0 128), poisonVa t sp.ctx r.va r.len = false)
    (hlook : lookUp t sp (dbits d.words 24 0 128) = some (k, e)) (hgroup : e.group ≠ dbits d.words 40 0 64) :
    keyJob (startState s d u) (started j u) f = blkEnd t (started j u) .denied := by
  have hsound : ((probeRanges sp (dbits d.words 24 0 128)).any fun r => poisonVa t sp.ctx r.va r.len) = false :=
    List.any_eq_false.2 fun r hr => by rw [hclean r hr]; decide
  simp only [keyJob, ho, started_words h, hpage, Bool.not_true, Bool.false_eq_true, if_false, started_unit, hprep, hsound, hlook, ne_eq,
    hgroup, not_false_eq_true, if_true]

end

/-- The row of a descriptor on one key whose look-up has been made ends with what the descriptor does then. -/
theorem blkRow_found {s t q : State} {d : Desc} {u op : Nat} {j : Job} {sp : Space} {l : Option Ledger} {hit : Option (Nat × BlkEnt)}
    {f : Job → State → Job → Space → Option Ledger → Option (Nat × BlkEnt) → State} (h : EngineReady s d op u j blkUnit F.BLK_CTRL_EN)
    (hfound : KeyFound s d u j sp l hit t) (hdoes : f (started j u) t (started j u) sp l hit = q) :
    blkRow op d (fun s j => keyJob s j (f j)) s = .next (rowEnd s j q) := by
  rw [blkRow_ready h, keyJob_found h hfound, hdoes]

/-- The descriptors on one key, by opcode. -/
abbrev keyRows : List (Nat × (Desc → Instr)) :=
  [(0x52, Instr.blkGet), (0x53, .blkPut), (0x54, .blkPin), (0x55, .blkUnpin), (0x57, .blkRelease)]

/-- The opcode of RELEASE is that of no other descriptor on a key. -/
theorem keyRow_release {row : Desc → Instr} (hrow : (0x57, row) ∈ keyRows) : row = .blkRelease := by
  simpa using hrow

section
variable {s : State} {d : Desc} {u : Nat} {j : Job} (h : EngineReady s d 0x57 u j blkUnit F.BLK_CTRL_EN) (hall : dbits d.words 17 3 1 = 1)
include h hall

theorem exec_blkRelease_all_code {c : Code} {n : Nat} (ho : blkOrders (startState s d u) (started j u) = .code c n) :
    exec (.blkRelease d) s = .next (rowEnd s j (blkEnd (startState s d u) (started j u) c n)) := by
  refine blkRow_does h ((if_pos ?_).trans ?_)
  · rw [started_words h, hall]
  · rw [ho]

theorem exec_blkRelease_all_wait (ho : blkOrders (startState s d u) (started j u) = .wait) :
    exec (.blkRelease d) s = .next (rowEnd s j (putJob (startState s d u) { started j u with st := .waiting })) := by
  refine blkRow_does h ((if_pos ?_).trans ?_)
  · rw [started_words h, hall]
  · rw [ho]

theorem exec_blkRelease_all_go {sp : Space} {l : Option Ledger} (ho : blkOrders (startState s d u) (started j u) = .go sp l) :
    exec (.blkRelease d) s = .next (rowEnd s j (blkEnd (putLedger (freeGroup (startState s d u) (dbits d.words 16 0 8) (dbits d.words 40 0 64))
      (dbits d.words 16 0 8) (dbits d.words 40 0 64) none) (started j u) .ok)) := by
  refine blkRow_does h ((if_pos ?_).trans ?_)
  · rw [started_words h, hall]
  · rw [ho, started_words h]

end

section
variable {s : State} {d : Desc} {u op : Nat} {row : Desc → Instr} {j : Job} (hrow : (op, row) ∈ keyRows)
  (h : EngineReady s d op u j blkUnit F.BLK_CTRL_EN)
include hrow h

/-- Each descriptor on a key, but for RELEASE with GROUP_ALL, runs `keyJob` with work of its own, which but for PUT ends with SHORT when the key is
absent (R444, R447 to R449). -/
theorem exec_keyRow (hone : op = 0x57 → dbits d.words 17 3 1 ≠ 1) :
    ∃ f : State → Job → Space → Option Ledger → Option (Nat × BlkEnt) → State,
      exec (row d) s = .next (rowEnd s j (keyJob (startState s d u) (started j u) f)) ∧
        (op ≠ 0x53 → ∀ t k sp l, f t k sp l none = blkEnd t k .short) := by
  simp only [List.mem_cons, Prod.mk.injEq, List.not_mem_nil, or_false] at hrow
  rcases hrow with ⟨rfl, rfl⟩ | ⟨rfl, rfl⟩ | ⟨rfl, rfl⟩ | ⟨rfl, rfl⟩ | ⟨rfl, rfl⟩
  · exact ⟨_, blkRow_ready h _, fun _ _ _ _ _ => rfl⟩
  · exact ⟨_, blkRow_ready h _, fun hput => absurd rfl hput⟩
  · exact ⟨_, blkRow_ready h _, fun _ _ _ _ _ => rfl⟩
  · exact ⟨_, blkRow_ready h _, fun _ _ _ _ _ => rfl⟩
  · have hkey : ¬ dbits (started j u).words 17 3 1 = 1 := by
      rw [started_words h]
      exact hone rfl
    exact ⟨_, (blkRow_ready h _).trans (congrArg (fun x => Host.Outcome.next (rowEnd s j x)) (if_neg hkey)), fun _ _ _ _ _ => rfl⟩

theorem exec_keyRow_code {c : Code} {n : Nat} (ho : blkOrders (startState s d u) (started j u) = .code c n) :
    exec (row d) s = .next (rowEnd s j (blkEnd (startState s d u) (started j u) c n)) := by
  by_cases hall : op = 0x57 ∧ dbits d.words 17 3 1 = 1
  · obtain ⟨rfl, hall⟩ := hall
    obtain rfl := keyRow_release hrow
    exact exec_blkRelease_all_code h hall ho
  · obtain ⟨f, hexec, -⟩ := exec_keyRow hrow h (not_and.1 hall)
    rw [hexec, keyJob_code ho]

theorem exec_keyRow_wait (ho : blkOrders (startState s d u) (started j u) = .wait) :
    exec (row d) s = .next (rowEnd s j (putJob (startState s d u) { started j u with st := .waiting })) := by
  by_cases hall : op = 0x57 ∧ dbits d.words 17 3 1 = 1
  · obtain ⟨rfl, hall⟩ := hall
    obtain rfl := keyRow_release hrow
    exact exec_blkRelease_all_wait h hall ho
  · obtain ⟨f, hexec, -⟩ := exec_keyRow hrow h (not_and.1 hall)
    rw [hexec, keyJob_wait ho]

end

/-! ### The look-up of a key (R438, R440) -/

/-- The four entries of a bucket. -/
theorem mem_bucketSlots {b k : Nat} : k ∈ span (b * 4) 4 ↔ k / 4 = b := by
  rw [mem_span]
  omega

theorem mem_probeSlots {sp : Space} {key k : Nat} : k ∈ probeSlots sp key ↔ k / 4 ∈ probes (bucketOf sp key) := by
  simp only [probeSlots, List.mem_flatMap, mem_bucketSlots, exists_eq_right']

/-- A probe stays among the 8,192 buckets around its first. -/
theorem probes_region {b i : Nat} (hi : i ∈ probes b) : i / 8192 = b / 8192 := by
  simp only [probes, List.mem_map, List.mem_range] at hi
  obtain ⟨k, -, rfl⟩ := hi
  omega

theorem probes_nodup (b : Nat) : (probes b).Nodup :=
  List.nodup_range.map_on fun i hi k hk heq => by
    rw [List.mem_range] at hi hk
    omega

theorem probeSlots_nodup (sp : Space) (key : Nat) : (probeSlots sp key).Nodup := by
  refine List.nodup_flatMap.2 ⟨fun b _ => List.nodup_range.map fun i k hik => Nat.add_left_cancel hik, ?_⟩
  refine (probes_nodup _).imp fun hne => List.disjoint_left.2 fun k hk hk' => hne ?_
  exact (mem_bucketSlots.1 hk).symm.trans (mem_bucketSlots.1 hk')

theorem probeSlots_length (sp : Space) (key : Nat) : (probeSlots sp key).length = 64 := by
  simp [probeSlots, probes, span, List.length_flatMap, Function.comp_def]

/-- A look-up finds an entry in use with its key, in one of the places that it probes. -/
theorem lookUp_some {s : State} {sp : Space} {key k : Nat} {e : BlkEnt} (hlook : lookUp s sp key = some (k, e)) :
    e = entAt s sp k ∧ e.v = true ∧ e.key = key ∧ k ∈ probeSlots sp key := by
  obtain ⟨i, hi, hite⟩ := List.exists_of_findSome?_eq_some hlook
  obtain ⟨⟨hv, hkey⟩, heq⟩ := Option.ite_none_right_eq_some.1 hite
  obtain ⟨rfl, rfl⟩ := Prod.mk.inj (Option.some.inj heq)
  exact ⟨rfl, hv, hkey, hi⟩

/-- Settles O57: a space is set and cleared in the cases that the statement names; every descriptor on a key follows its orders, and a look-up
probes 64 entries of its own. -/
theorem blockSpacesAndKeys : Obligations.BlockSpacesAndKeys := by
  refine ⟨fun s d u j h => ⟨exec_blkSpaceSet_defined h, blkSpaceSet_sets h⟩,
    fun s d u j h => ⟨exec_blkSpaceClear_absent h, fun sp hsp => ⟨exec_blkSpaceClear_otherDomain h hsp, fun hdom =>
      ⟨exec_blkSpaceClear_held h hsp hdom, blkSpaceClear_clears h hsp hdom⟩⟩⟩,
    fun s d u op row j hrow h => ⟨fun c n => exec_keyRow_code hrow h, exec_keyRow_wait hrow h, fun hone sp l t => ?_⟩,
    fun s j => ⟨blkOrders_noSpace, fun sp hsp hcheck => ⟨fun hl => ?_, fun l hl => ?_⟩⟩,
    fun s sp key k e hlook => ?_, fun sp key => ⟨probeSlots_nodup sp key, probeSlots_length sp key⟩⟩
  · obtain ⟨f, hexec, hshort⟩ := exec_keyRow hrow h (fun _ => by omega)
    refine ⟨fun hput hfound => ?_, fun k e ho hpage hprep hclean hlook hgroup => ?_⟩
    · rw [hexec, keyJob_found h hfound, hshort hput]
    · rw [hexec, keyJob_otherGroup h ho hpage hprep hclean hlook hgroup]
  · have ho := blkOrders_noEntry hsp hcheck hl
    exact ⟨fun hfirst hroom => by rw [ho, if_pos hfirst, if_neg (Nat.not_le.2 hroom)],
      fun hfirst hfull => by rw [ho, if_pos hfirst, if_pos hfull], fun hlater => by rw [ho, if_neg hlater]⟩
  · have ho := blkOrders_entry hsp hcheck hl
    refine ⟨fun hst hep => ?_, fun hst hholds => ?_, fun hst hholds hep => ?_, fun hst hep => ?_, fun hst => ?_⟩
    · simp [ho, hst, hep]
    · rw [ho, if_pos ⟨hst, by tauto⟩]
    · rw [ho, if_neg (by tauto), if_pos ⟨.inr hst, hep⟩]
    · simp [ho, hst, hep]
    · rcases hst with hst | hst <;> simp [ho, hst]
  · obtain ⟨he, hv, hkey, hk⟩ := lookUp_some hlook
    exact ⟨he, hv, hkey, hk, probes_region (mem_probeSlots.1 hk)⟩

end Sys2Proof.Machine
end

section
/-! SUPPORT. What GET, PUT, PIN, UNPIN and RELEASE do to the entry of their key (spec/11, R441, R444, R445, R447 to R449), and the room that a PUT
makes. -/

namespace Sys2Proof.Machine

open Sys2Proof

theorem unit_of_startJob {s s0 : State} {j j0 : Job} {n : Nat} {ins : List Range} (hstart : startJob s j n ins = (j0, s0)) : j0.unit = j.unit := by
  rw [← startJob_unit s j n ins, hstart]

/-- The start of an engine job leaves the descriptor whose job it is (R296). -/
theorem key_of_startJob {s s0 : State} {j j0 : Job} {n : Nat} {ins : List Range} (hstart : startJob s j n ins = (j0, s0)) :
    j0.ring = j.ring ∧ j0.idx = j.idx := by
  have hengine : ∀ k, (engineStart s k n ins).1.ring = k.ring ∧ (engineStart s k n ins).1.idx = k.idx := fun k => by
    simp only [engineStart]
    split <;> exact ⟨rfl, rfl⟩
  rw [← show (startJob s j n ins).1 = j0 by rw [hstart]]
  unfold startJob
  split
  · exact hengine { j with phase := 1 }
  · exact ⟨rfl, rfl⟩

theorem rowEnd_of_startJob {s t s0 : State} {j j0 : Job} {u n : Nat} {ins : List Range} (hstart : startJob t (started j u) n ins = (j0, s0))
    (q : State) : rowEnd s j0 q = rowEnd s j q := by
  obtain ⟨hring, hidx⟩ := key_of_startJob hstart
  simp only [rowEnd, ownReqs, hring, hidx]
  rfl

/-! ### GET (R444, R447) -/

section
variable {s t : State} {d : Desc} {u k : Nat} {j : Job} {sp : Space} {l : Option Ledger} {e : BlkEnt}
  (h : EngineReady s d 0x52 u j blkUnit F.BLK_CTRL_EN) (hfound : KeyFound s d u j sp l (some (k, e)) t)
include h hfound

theorem exec_blkGet_capacity (hlen : dbits d.words 56 0 32 < e.len) :
    exec (.blkGet d) s = .next (rowEnd s j (blkEnd t (started j u) .capacity)) := by
  refine blkRow_found h hfound (if_pos ?_)
  rw [started_words h]
  exact hlen

/-- GET copies the block once its bytes and its buffer are ready, and gives the entry a new lease; poison ends it with POISON. -/
theorem exec_blkGet_copies {s0 t1 t2 q : State} {j1 : Job} {v : View} {bad : Bool} (hlen : e.len ≤ dbits d.words 56 0 32)
    (hstart : startJob t (started j u) (u % 4) [] = (j1, s0)) (hv : jobView s0 j1 (u % 4) = v)
    (hblock : prepareAs s0 j1 sp.ctx u [⟨areaVaOf s0 sp e.loc, e.len, .rd⟩] = (true, t1))
    (hbuf : prepare t1 j1 u [⟨dbits d.words 48 0 57, e.len, .wr⟩] (some v) = (true, t2))
    (hcopy : copyBytes t2 sp.ctx (areaVaOf s0 sp e.loc) none (ringCtx j.ring) (dbits d.words 48 0 57) (some v) e.len = (q, bad)) :
    let q1 := putEnt q (dbits d.words 16 0 8) sp k { e with lease := leaseEnd q sp d.words }
    (bad = false → exec (.blkGet d) s = .next (rowEnd s j1 (blkEnd q1 j1 .ok e.len))) ∧
      (bad = true → exec (.blkGet d) s = .next (rowEnd s j1 (blkEnd q1 j1 .poison))) := by
  have hunit : j1.unit = u := unit_of_startJob hstart
  have hrow : exec (.blkGet d) s = .next (rowEnd s j (if bad then blkEnd (putEnt q (dbits d.words 16 0 8) sp k
      { e with lease := leaseEnd q sp d.words }) j1 .poison else blkEnd (putEnt q (dbits d.words 16 0 8) sp k
      { e with lease := leaseEnd q sp d.words }) j1 .ok e.len)) := by
    refine blkRow_found h hfound ?_
    rw [started_words h]
    refine (if_neg (Nat.not_lt.2 hlen)).trans ?_
    simp only [started_unit, hstart, hunit, hv, hblock, hbuf, started_ring, hcopy]
  simp only [hrow, rowEnd_of_startJob hstart]
  exact ⟨fun hok => by rw [hok]; rfl, fun hbad => by rw [hbad]; rfl⟩

end

/-! ### PUT (R440, R441, R445, R447) -/

/-- The first entry not in use of a key's probe; an index page that is not there holds none in use. -/
def freeEntry (s : State) (sp : Space) (key ip : Nat) : Option Nat :=
  if (s.page? ip).isSome then (probeSlots sp key).find? fun k => !(entAt s sp k).v else (probeSlots sp key).head?

theorem freeEntry_eq (s : State) (sp : Space) (key ip : Nat) :
    (if (s.page? ip).isNone then (probeSlots sp key).head? else (probeSlots sp key).find? fun k => !(entAt s sp k).v) =
      freeEntry s sp key ip := by
  unfold freeEntry
  cases s.page? ip <;> rfl

/-- The guard of a PUT for its index page does not hold of a page that is there, or that can be allocated. -/
theorem index_open {s : State} {sp : Space} {ip : Nat} (hopen : (s.page? ip).isSome = true ∨ pageUsable s sp ip false = true) :
    ¬ ((!pageUsable s sp ip false) = true ∧ (s.page? ip).isNone = true) := by
  rintro ⟨hno, hnone⟩
  rcases hopen with hthere | husable
  · rw [Option.isNone_iff_eq_none.1 hnone] at hthere
    cases hthere
  · rw [husable] at hno
    cases hno

/-- A PUT that has its entry `k` and its place `loc`, and the entries `gone` that it displaces (R441, R445). -/
def putInto (s : State) (j : Job) (w : List Word) (u : Nat) (sp : Space) (l : Option Ledger) (k ip loc : Nat) (gone : List Nat) : State :=
  let place := if (s.page? (loc / 2097152)).isNone then (true, s)
    else prepareAs s j sp.ctx u [⟨areaVaOf s sp loc, dbits w 56 0 32, .wr⟩]
  match place with
  | (false, s) => s
  | (true, t) =>
    match prepare t j u [⟨dbits w 48 0 57, dbits w 56 0 32, .rd⟩] (some (jobView s j (u % 4))) with
    | (false, s) => s
    | (true, t) => putLand t j sp l k loc ip gone (jobView s j (u % 4))

/-- A PUT whose inputs have been named looks for an entry and for a place (R440, R441, R447); its index page is `ip`. -/
def putAt (s : State) (j : Job) (w : List Word) (u : Nat) (sp : Space) (l : Option Ledger) (hit : Option (Nat × BlkEnt)) (ip : Nat) : State :=
  if acquiring s j (u % 4) then s
  else if !pageUsable s sp ip false ∧ (s.page? ip).isNone then putRefused s j false
  else
    match hit.map (·.1) <|> freeEntry s sp (dbits w 24 0 128) ip with
    | none => putRefused s j true
    | some k =>
      match makeRoom s sp (u % 4) (16384 * 2 ^ dbits w 17 0 3) j.aux (lapsed s sp) [] with
      | none => putRefused s j false
      | some (loc, gone) => putInto s j w u sp l k ip loc gone

/-- The index page of a key. -/
def indexPage (s : State) (sp : Space) (key : Nat) : Nat := extPa s sp (sp.indexVa + bucketOf sp key * 256) / 2097152

/-- A BLK_PUT that starts names its inputs and takes a free value for its place. -/
theorem exec_blkPut_begun {s t s0 s1 : State} {d : Desc} {u : Nat} {j j0 j1 : Job} {sp : Space} {l : Option Ledger}
    {hit : Option (Nat × BlkEnt)} (h : EngineReady s d 0x53 u j blkUnit F.BLK_CTRL_EN) (hfound : KeyFound s d u j sp l hit t)
    (hstart : startJob t (started j u) (u % 4) [⟨dbits d.words 48 0 57, dbits d.words 56 0 32, .rd⟩] = (j0, s0))
    (hj1 : { j0 with aux := s0.free } = j1) (hs1 : putJob { s0 with free := s0.free + 1 } j1 = s1) :
    exec (.blkPut d) s = .next (rowEnd s j (putAt s1 j1 d.words u sp l hit (indexPage s1 sp (dbits d.words 24 0 128)))) := by
  have hunit : j1.unit = u := by
    rw [← hj1]
    exact unit_of_startJob hstart
  refine blkRow_found h hfound ?_
  simp only [started_words h, started_phase h, if_true, started_unit, hstart, hj1, hs1, hunit, freeEntry_eq]
  rfl

section
variable {s t1 t2 : State} {j : Job} {w : List Word} {u k ip loc : Nat} {sp : Space} {l : Option Ledger} {hit : Option (Nat × BlkEnt)}
  {gone : List Nat}

/-- A PUT lands once its place, where the page is there, and its source are ready. -/
theorem putInto_lands
    (hplace : (s.page? (loc / 2097152)).isSome = true → prepareAs s j sp.ctx u [⟨areaVaOf s sp loc, dbits w 56 0 32, .wr⟩] = (true, t1))
    (hnew : s.page? (loc / 2097152) = none → t1 = s)
    (hsource : prepare t1 j u [⟨dbits w 48 0 57, dbits w 56 0 32, .rd⟩] (some (jobView s j (u % 4))) = (true, t2)) :
    putInto s j w u sp l k ip loc gone = putLand t2 j sp l k loc ip gone (jobView s j (u % 4)) := by
  have hready : (if (s.page? (loc / 2097152)).isNone then (true, s)
      else prepareAs s j sp.ctx u [⟨areaVaOf s sp loc, dbits w 56 0 32, .wr⟩]) = (true, t1) := by
    cases hpage : s.page? (loc / 2097152) with
    | none => rw [hnew hpage]; rfl
    | some e => exact hplace (by rw [hpage]; rfl)
  simp only [putInto, hready, hsource]

/-- A PUT waits for the acquires of its start (R296). -/
theorem putAt_acquiring (hacq : acquiring s j (u % 4) = true) : putAt s j w u sp l hit ip = s := if_pos hacq

variable (hacq : acquiring s j (u % 4) = false)
include hacq

/-- A PUT whose index page is not there and cannot be allocated ends with CAPACITY. -/
theorem putAt_noIndex (habsent : (s.page? ip).isSome = false) (hno : pageUsable s sp ip false = false) :
    putAt s j w u sp l hit ip = putRefused s j false := by
  have hnone : (s.page? ip).isNone = true := by simpa using habsent
  exact (if_neg (Bool.eq_false_iff.1 hacq)).trans (if_pos ⟨by rw [hno]; rfl, hnone⟩)

variable (hopen : (s.page? ip).isSome = true ∨ pageUsable s sp ip false = true)
include hopen

theorem putAt_looks : putAt s j w u sp l hit ip =
    match hit.map (·.1) <|> freeEntry s sp (dbits w 24 0 128) ip with
    | none => putRefused s j true
    | some k =>
      match makeRoom s sp (u % 4) (16384 * 2 ^ dbits w 17 0 3) j.aux (lapsed s sp) [] with
      | none => putRefused s j false
      | some (loc, gone) => putInto s j w u sp l k ip loc gone :=
  (if_neg (Bool.eq_false_iff.1 hacq)).trans (if_neg (index_open hopen))

/-- A PUT of a new key that finds no free entry ends with CAPACITY, and is counted (R440). -/
theorem putAt_probeFull (hnew : hit = none) (hfree : freeEntry s sp (dbits w 24 0 128) ip = none) :
    putAt s j w u sp l hit ip = putRefused s j true := by
  subst hnew
  rw [putAt_looks hacq hopen, hfree]
  rfl

variable (hentry : (hit.map (·.1) <|> freeEntry s sp (dbits w 24 0 128) ip) = some k)
include hentry

theorem putAt_noRoom (hroom : makeRoom s sp (u % 4) (16384 * 2 ^ dbits w 17 0 3) j.aux (lapsed s sp) [] = none) :
    putAt s j w u sp l hit ip = putRefused s j false := by
  rw [putAt_looks hacq hopen, hentry]
  dsimp only
  rw [hroom]

theorem putAt_into (hroom : makeRoom s sp (u % 4) (16384 * 2 ^ dbits w 17 0 3) j.aux (lapsed s sp) [] = some (loc, gone)) :
    putAt s j w u sp l hit ip = putInto s j w u sp l k ip loc gone := by
  rw [putAt_looks hacq hopen, hentry]
  dsimp only
  rw [hroom]

end

/-! ### PIN, UNPIN and RELEASE (R447 to R449) -/

/-- The area page that becomes a pin page for a block, where one does, is marked (R448). -/
def pinMarked (s : State) (i : Nat) (sp : Space) (new : Option Nat) : State :=
  match new with
  | some p => markPin s i sp p
  | none => s

section
variable {s t s1 : State} {d : Desc} {u k : Nat} {j j1 : Job} {sp : Space} {l : Option Ledger} {e : BlkEnt}
  (h : EngineReady s d 0x54 u j blkUnit F.BLK_CTRL_EN) (hfound : KeyFound s d u j sp l (some (k, e)) t)
  (hj1 : { started j u with aux := t.free, phase := 1 } = j1) (hs1 : putJob { t with free := t.free + 1 } j1 = s1)
include h hfound hj1 hs1

theorem exec_blkPin_pinned (hpin : e.pin = true) : exec (.blkPin d) s =
    .next (rowEnd s j (blkEnd (putEnt s1 (dbits d.words 16 0 8) sp k { e with lease := leaseEnd s1 sp d.words }) j1 .ok)) := by
  simp only [started_words h] at hj1
  refine blkRow_found h hfound ?_
  simp only [started_words h, started_phase h, if_true, hj1, hs1, hpin]

variable (hpin : e.pin = false)
include hpin

theorem exec_blkPin_full (hplace : pinPlace s1 sp e.size j1.aux = none) : exec (.blkPin d) s =
    .next (rowEnd s j (blkEnd (blkCount s1 j1 (F.BLK_B_LEASE_PIN_FULL (u % 4)) true) j1 .capacity)) := by
  have hunit : j1.unit = u := by rw [← hj1]; rfl
  simp only [started_words h] at hj1
  refine blkRow_found h hfound ?_
  simp only [started_words h, started_phase h, if_true, hj1, hs1, hpin, Bool.false_eq_true, if_false, hplace, hunit]

/-- PIN moves the block to its place in a pin page once both are ready. -/
theorem exec_blkPin_moves {t1 : State} {loc : Nat} {new : Option Nat} (hplace : pinPlace s1 sp e.size j1.aux = some (loc, new))
    (hready : prepareAs s1 j1 sp.ctx u (⟨areaVaOf s1 sp e.loc, e.len, .rd⟩ ::
      (if (s1.page? (loc / 2097152)).isSome then [⟨areaVaOf s1 sp loc, e.len, .wr⟩] else [])) = (true, t1)) :
    let t2 := pinMarked t1 (dbits d.words 16 0 8) sp new
    let r := copyBytes t2 sp.ctx (areaVaOf t2 sp e.loc) none sp.ctx (areaVaOf t2 sp loc) none e.len
    exec (.blkPin d) s = .next (rowEnd s j (blkEnd (putEnt r.1 (dbits d.words 16 0 8) sp k
      { e with pin := true, loc := loc, lease := leaseEnd r.1 sp d.words }) j1 (if r.2 then .poison else .ok))) := by
  have hunit : j1.unit = u := by rw [← hj1]; rfl
  simp only [started_words h] at hj1
  refine blkRow_found h hfound ?_
  simp only [started_words h, started_phase h, if_true, hj1, hs1, hpin, Bool.false_eq_true, if_false, hplace, hunit, hready]
  rfl

end

section
variable {s t : State} {d : Desc} {u k : Nat} {j : Job} {sp : Space} {l : Option Ledger} {e : BlkEnt}

theorem exec_blkUnpin_found (h : EngineReady s d 0x55 u j blkUnit F.BLK_CTRL_EN) (hfound : KeyFound s d u j sp l (some (k, e)) t) :
    exec (.blkUnpin d) s =
      .next (rowEnd s j (blkEnd (putEnt t (dbits d.words 16 0 8) sp k { e with pin := false }) (started j u) .ok)) := by
  refine blkRow_found h hfound ?_
  rw [started_words h]

theorem exec_blkRelease_found (h : EngineReady s d 0x57 u j blkUnit F.BLK_CTRL_EN) (hone : dbits d.words 17 3 1 = 0)
    (hfound : KeyFound s d u j sp l (some (k, e)) t) :
    exec (.blkRelease d) s = .next (rowEnd s j (blkEnd (freeEnt t (dbits d.words 16 0 8) sp k) (started j u) .ok)) := by
  refine blkRow_does h ((if_neg ?_).trans ?_)
  · rw [started_words h, hone]
    decide
  · rw [keyJob_found h hfound, started_words h]

end

/-! ### Room for a block (R437, R441, R447) -/

/-- A free place for a block lies at a multiple of its size in one of the pages looked at. -/
theorem mem_roomIn {s : State} {sp : Space} {gone pages : List Nat} {n a : Nat} (hn : n ∣ 2097152) (hpos : 0 < n)
    (ha : a ∈ roomIn s sp gone pages n) : a % n = 0 ∧ a / 2097152 ∈ pages ∧ blockIn s sp gone a n = false := by
  simp only [roomIn, List.mem_flatMap, List.mem_filter, List.mem_map, List.mem_range, Bool.not_eq_eq_eq_not, Bool.not_true] at ha
  obtain ⟨p, hp, ⟨k, hk, rfl⟩, hclear⟩ := ha
  have hinside : k * n < 2097152 := (Nat.mul_lt_mul_of_pos_right hk hpos).trans_le (Nat.div_mul_le_self _ _)
  have hpage : (p * 2097152 + k * n) / 2097152 = p := by omega
  exact ⟨Nat.mod_eq_zero_of_dvd ((hn.mul_left p).add (Nat.dvd_mul_left n k)), hpage.symm ▸ hp, hclear⟩

theorem placeBlock_some {s : State} {sp : Space} {gone : List Nat} {sector n n0 a : Nat} (hn : n ∣ 2097152) (hpos : 0 < n)
    (ha : placeBlock s sp gone sector n n0 = some a) : a % n = 0 ∧ a / 2097152 ∈ areaPages s sp ∧ blockIn s sp gone a n = false := by
  have hmem := List.mem_of_getElem? ha
  split at hmem
  · obtain ⟨hmod, hpage, hclear⟩ := mem_roomIn hn hpos hmem
    exact ⟨hmod, List.mem_of_mem_filter hpage, hclear⟩
  · obtain ⟨hmod, hpage, hclear⟩ := mem_roomIn hn hpos hmem
    exact ⟨hmod, List.mem_of_mem_filter (List.mem_of_mem_filter hpage), hclear⟩

/-- Making room takes entries from the front of the list, and ends with a place that the entries left over leave free. -/
theorem makeRoom_some {s : State} {sp : Space} {sector n n0 loc : Nat} {l : List (Nat × BlkEnt)} {gone0 gone : List Nat}
    (hroom : makeRoom s sp sector n n0 l gone0 = some (loc, gone)) :
    placeBlock s sp gone sector n n0 = some loc ∧ gone <+: gone0 ++ l.map (·.1) := by
  induction l generalizing gone0 with
  | nil =>
    unfold makeRoom at hroom
    split at hroom
    next a ha =>
      obtain ⟨rfl, rfl⟩ := Prod.mk.inj (Option.some.inj hroom)
      exact ⟨ha, List.prefix_append _ _⟩
    next => exact absurd hroom (by simp)
  | cons x l ih =>
    unfold makeRoom at hroom
    split at hroom
    next a ha =>
      obtain ⟨rfl, rfl⟩ := Prod.mk.inj (Option.some.inj hroom)
      exact ⟨ha, List.prefix_append _ _⟩
    next =>
      obtain ⟨hplace, hpre⟩ := ih hroom
      exact ⟨hplace, by simpa using hpre⟩

/-- The earlier of two entries by LEASE_END, the first one of equals (R447). -/
def earlier (b : Option (Nat × BlkEnt)) (x : Nat × BlkEnt) : Option (Nat × BlkEnt) :=
  match b with
  | none => some x
  | some y => if x.2.lease < y.2.lease then some x else some y

theorem foldl_earlier_mem {l : List (Nat × BlkEnt)} {x : Nat × BlkEnt} (hx : l.foldl earlier none = some x) : x ∈ l := by
  refine List.foldlRecOn l earlier (motive := fun b => ∀ x, b = some x → x ∈ l) (fun x hnone => absurd hnone (by simp)) ?_ x hx
  intro b hb a ha x hx
  unfold earlier at hx
  split at hx
  · exact Option.some.inj hx ▸ ha
  · split at hx
    · exact Option.some.inj hx ▸ ha
    · exact hb x hx

/-- Sorting entries by LEASE_END brings in no other entry. -/
theorem mem_lapsed_sort {n : Nat} {l : List (Nat × BlkEnt)} {x : Nat × BlkEnt} (hx : x ∈ lapsed.sort n l) : x ∈ l := by
  induction n generalizing l with
  | zero => exact absurd hx (List.not_mem_nil)
  | succ n ih =>
    unfold lapsed.sort at hx
    split at hx
    next => exact absurd hx (List.not_mem_nil)
    next y hy =>
      rcases List.mem_cons.1 hx with rfl | hx
      · exact foldl_earlier_mem hy
      · exact List.mem_of_mem_erase (ih hx)

theorem mem_lapsed {s : State} {sp : Space} {x : Nat × BlkEnt} (hx : x ∈ lapsed s sp) :
    x ∈ entsOf s sp ∧ x.2.pin = false ∧ x.2.state = 0 ∧ x.2.lease < s.now := by
  have hmem := mem_lapsed_sort hx
  simp only [List.mem_filter, Bool.and_eq_true, Bool.not_eq_eq_eq_not, Bool.not_true, beq_iff_eq, decide_eq_true_eq] at hmem
  obtain ⟨hent, ⟨hpin, hstate⟩, hlease⟩ := hmem
  exact ⟨hent, hpin, hstate, hlease⟩

/-- Settles O58: what each descriptor does to the entry that its look-up found, and what the room for a PUT's block is. -/
theorem blockEntriesChange : Obligations.BlockEntriesChange := by
  refine ⟨fun s t t1 t2 d u k j sp l e h hfound => ⟨fun hlen => exec_blkGet_capacity (j := j) h hfound hlen, fun hlen hblock hbuf =>
      exec_blkGet_copies h hfound hlen rfl rfl hblock hbuf rfl⟩,
    fun s t t1 t2 d u j sp l hit h hfound => ?_,
    fun s t t1 d u k j sp l e => ⟨fun h hfound => ⟨exec_blkPin_pinned h hfound rfl rfl, exec_blkPin_full h hfound rfl rfl,
      fun loc new hpin hplace hready => exec_blkPin_moves h hfound rfl rfl hpin hplace hready⟩,
      exec_blkUnpin_found, fun h => ⟨exec_blkRelease_found h, fun hall ho => exec_blkRelease_all_go h hall ho⟩⟩,
    fun s sp sector n n0 loc l gone hn hpos hroom => ?_, fun s sp x hx => mem_lapsed hx⟩
  · have hput : ∀ {q}, putAt _ _ _ u sp l hit _ = q → exec (.blkPut d) s = .next (rowEnd s j q) := fun hq =>
      hq ▸ exec_blkPut_begun h hfound rfl rfl rfl
    exact ⟨fun hacq => hput (putAt_acquiring hacq), fun hacq => ⟨fun habsent hno => hput (putAt_noIndex hacq habsent hno), fun hopen =>
      ⟨fun hnew hfree => hput (putAt_probeFull hacq hopen hnew hfree), fun k hentry => ⟨fun hroom => hput (putAt_noRoom hacq hopen hentry hroom),
        fun loc gone hroom hplace hnew hsource =>
          hput ((putAt_into hacq hopen hentry hroom).trans (putInto_lands hplace hnew hsource))⟩⟩⟩⟩
  · obtain ⟨hplace, hpre⟩ := makeRoom_some hroom
    obtain ⟨hmod, hpage, hclear⟩ := placeBlock_some hn hpos hplace
    exact ⟨hmod, hpage, hclear, hpre⟩

end Sys2Proof.Machine
end

section
/-! SUPPORT. Handing a group over (spec/11, R450 to R459): BLK_HANDOFF, the messages between the two devices, the timers of the ledger, and the
Contrail log's commands (R464, R466). -/

namespace Sys2Proof.Machine

open Sys2Proof

/-! ### BLK_HANDOFF (R450 to R453) -/

section
variable {s : State} {d : Desc} {u : Nat} {j : Job} (h : EngineReady s d 0x56 u j blkUnit F.BLK_CTRL_EN)
include h

/-- A BLK_HANDOFF that starts has sent no OFFER yet. -/
theorem started_unsent : ¬ (started j u).phase = 2 := by
  rw [started_phase h]
  decide

theorem exec_blkHandoff_code {c : Code} {n : Nat} (ho : blkOrders (startState s d u) (started j u) = .code c n) :
    exec (.blkHandoff d) s = .next (rowEnd s j (blkEnd (startState s d u) (started j u) c n)) := by
  refine blkRow_does h ((if_neg (started_unsent h)).trans ?_)
  rw [ho]

theorem exec_blkHandoff_wait (ho : blkOrders (startState s d u) (started j u) = .wait) :
    exec (.blkHandoff d) s = .next (rowEnd s j (putJob (startState s d u) { started j u with st := .waiting })) := by
  refine blkRow_does h ((if_neg (started_unsent h)).trans ?_)
  rw [ho]

end

/-- Where an OFFER goes: the fabric address of the peer's window, over a port or on this device (R451). -/
def offerDest (s : State) (c : Nat) (w : List Word) : Option Nat :=
  match translate s c (dbits w 24 0 57) 64 .wr with
  | .away fa _ _ => some fa
  | .here pa _ => some (s.get F.CMP_NODE_NODE_ID * 2 ^ 47 + pa)
  | .code _ => none

/-- The checks of a BLK_HANDOFF whose window is at `fa` and whose manifest is at `mpa`, and what follows them (R450 to R453). -/
def handoffTo (s : State) (j : Job) (w : List Word) (l : Ledger) (es : List (Nat × BlkEnt)) (fa mpa : Nat) : State :=
  if !inHandoff fa then blkEnd s j .denied
  else if dbits w 56 0 32 < es.length * 32 ∨ l.epoch + 1 ≥ 2 ^ 30 ∨ es.length > 65536 then blkEnd s j .capacity
  else if fa / 2 ^ 47 ≠ s.get F.CMP_NODE_NODE_ID ∧ (routeUp s (fa / 2 ^ 47)).isNone then blkEnd s j .portLost
  else
    let a := startJob s j (j.unit % 4) []
    let v := jobView a.2 a.1 (a.1.unit % 4)
    match prepare a.2 a.1 a.1.unit [⟨dbits w 48 0 57, es.length * 32, .wr⟩] (some v) with
    | (false, s) => s
    | (true, s) => handoffLand s a.1 l es fa mpa v

section
variable {s : State} {d : Desc} {u : Nat} {j : Job} {sp : Space} {l : Ledger} (h : EngineReady s d 0x56 u j blkUnit F.BLK_CTRL_EN)
  (ho : blkOrders (startState s d u) (started j u) = .go sp (some l))
include h ho

theorem exec_blkHandoff_noDest (hdest : offerDest (startState s d u) (ringCtx j.ring) d.words = none) :
    exec (.blkHandoff d) s = .next (rowEnd s j (blkEnd (startState s d u) (started j u) .denied)) := by
  refine blkRow_does h ((if_neg (started_unsent h)).trans ?_)
  rw [ho, started_words h]
  dsimp only
  split
  next fa mpa hfa hmpa => exact absurd (hfa.symm.trans hdest) (by simp)
  next => rfl

theorem exec_blkHandoff_go {fa mpa : Nat} (hdest : offerDest (startState s d u) (ringCtx j.ring) d.words = some fa)
    (hpool : poolOf (startState s d u) (ringCtx j.ring) (dbits d.words 48 0 57)
      (max ((groupEnts (startState s d u) sp (dbits d.words 40 0 64)).length * 32) 1) .wr = some mpa) :
    exec (.blkHandoff d) s = .next (rowEnd s j
      (handoffTo (startState s d u) (started j u) d.words l (groupEnts (startState s d u) sp (dbits d.words 40 0 64)) fa mpa)) := by
  refine blkRow_does h ((if_neg (started_unsent h)).trans ?_)
  rw [ho, started_words h]
  dsimp only
  split
  next fa' mpa' hfa hmpa =>
    obtain rfl : fa' = fa := Option.some.inj (hfa.symm.trans hdest)
    obtain rfl : mpa' = mpa := Option.some.inj (hmpa.symm.trans hpool)
    rfl
  next hno => exact (hno fa mpa hdest hpool).elim

end

section
variable {s : State} {j : Job} {w : List Word} {l : Ledger} {es : List (Nat × BlkEnt)} {fa mpa : Nat}

theorem handoffTo_outside (hout : inHandoff fa = false) : handoffTo s j w l es fa mpa = blkEnd s j .denied :=
  if_pos (by rw [hout]; rfl)

variable (hin : inHandoff fa = true)
include hin

theorem handoffTo_full (hfull : dbits w 56 0 32 < es.length * 32 ∨ 2 ^ 30 ≤ l.epoch + 1 ∨ 65536 < es.length) :
    handoffTo s j w l es fa mpa = blkEnd s j .capacity :=
  (if_neg (by rw [hin]; decide)).trans (if_pos hfull)

variable (hlen : es.length * 32 ≤ dbits w 56 0 32) (hepoch : l.epoch + 1 < 2 ^ 30) (hblocks : es.length ≤ 65536)
include hlen hepoch hblocks

theorem handoffTo_fits : handoffTo s j w l es fa mpa =
    if fa / 2 ^ 47 ≠ s.get F.CMP_NODE_NODE_ID ∧ (routeUp s (fa / 2 ^ 47)).isNone then blkEnd s j .portLost
    else
      let a := startJob s j (j.unit % 4) []
      let v := jobView a.2 a.1 (a.1.unit % 4)
      match prepare a.2 a.1 a.1.unit [⟨dbits w 48 0 57, es.length * 32, .wr⟩] (some v) with
      | (false, s) => s
      | (true, s) => handoffLand s a.1 l es fa mpa v :=
  (if_neg (by rw [hin]; decide)).trans (if_neg (by omega))

theorem handoffTo_noRoute (haway : fa / 2 ^ 47 ≠ s.get F.CMP_NODE_NODE_ID) (hroute : routeUp s (fa / 2 ^ 47) = none) :
    handoffTo s j w l es fa mpa = blkEnd s j .portLost :=
  (handoffTo_fits hin hlen hepoch hblocks).trans (if_pos ⟨haway, by rw [hroute]; rfl⟩)

theorem handoffTo_lands {s0 s1 : State} {j0 : Job} (hroute : fa / 2 ^ 47 = s.get F.CMP_NODE_NODE_ID ∨ (routeUp s (fa / 2 ^ 47)).isSome = true)
    (hstart : startJob s j (j.unit % 4) [] = (j0, s0))
    (hprep : prepare s0 j0 j.unit [⟨dbits w 48 0 57, es.length * 32, .wr⟩] (some (jobView s0 j0 (j.unit % 4))) = (true, s1)) :
    handoffTo s j w l es fa mpa = handoffLand s1 j0 l es fa mpa (jobView s0 j0 (j.unit % 4)) := by
  have hmay : ¬ (fa / 2 ^ 47 ≠ s.get F.CMP_NODE_NODE_ID ∧ (routeUp s (fa / 2 ^ 47)).isNone = true) := by
    rintro ⟨haway, hnone⟩
    rw [Option.isNone_iff_eq_none.1 hnone] at hroute
    exact hroute.elim haway (by decide)
  refine (handoffTo_fits hin hlen hepoch hblocks).trans ((if_neg hmay).trans ?_)
  simp only [hstart, unit_of_startJob hstart, hprep]

end

/-! ### The ledger -/

theorem ledgerOf_putLedger_same (s : State) (l : Ledger) : ledgerOf (putLedger s l.space l.group (some l)) l.space l.group = some l := by
  have hgone : (s.blk.ledger.filter fun y => !(y.space = l.space && y.group = l.group)).find? (fun x => x.space = l.space && x.group = l.group) =
      none := List.find?_eq_none.2 fun x hx => by
    simpa only [Bool.not_eq_eq_eq_not, Bool.not_true, Bool.not_eq_true] using (List.mem_filter.1 hx).2
  simp only [ledgerOf, putLedger, List.find?_append, hgone]
  simp

/-! ### The messages (R455 to R458) -/

theorem endHandoff_frame (s : State) (l : Ledger) (c : Code) (n : Nat) :
    (endHandoff s l c n).blk = s.blk ∧ (endHandoff s l c n).store = s.store := by
  unfold endHandoff
  split
  · split
    · exact ⟨blkEnd_blk _ _ _ _, blkEnd_store _ _ _ _⟩
    · exact ⟨rfl, rfl⟩
  · exact ⟨rfl, rfl⟩

/-- A group that is reclaimed is owned again, at the epoch after the one that was offered (R458). -/
theorem ledgerOf_reclaim (s : State) (l : Ledger) (c : Code) : ledgerOf (reclaim s l c) l.space l.group =
    some { l with st := .owned, epoch := l.epoch + 2, since := s.now, job := none } := by
  have hblk := (endHandoff_frame ((putLedger s l.space l.group
    (some { l with st := .owned, epoch := l.epoch + 2, since := s.now, job := none })).bumpSat F.BLK_HANDOFF_STATS_RECLAIMED) l c (l.epoch + 2)).1
  rw [reclaim, ledgerOf, hblk]
  exact ledgerOf_putLedger_same s { l with st := .owned, epoch := l.epoch + 2, since := s.now, job := none }

theorem reclaim_store (s : State) (l : Ledger) (c : Code) : (reclaim s l c).store = s.store :=
  (endHandoff_frame _ l c (l.epoch + 2)).2

/-- Is an OFFER refused at once: its context is not of the space's domain, or its group is held here at its epoch or a later one (R451, R455)? -/
def offerBarred (s : State) (x : InMsg) (m : HMsg) : Bool :=
  !msgAllowed s x m || match ledgerOf s m.space m.group with
    | some l => l.st != .gone || decide (m.epoch ≤ l.epoch)
    | none => false

theorem offerBarred_iff {s : State} {x : InMsg} {m : HMsg} : offerBarred s x m = true ↔
    msgAllowed s x m = false ∨ ∃ l, ledgerOf s m.space m.group = some l ∧ (l.st ≠ .gone ∨ m.epoch ≤ l.epoch) := by
  unfold offerBarred
  cases ledgerOf s m.space m.group <;> simp

section
variable {s : State} {t : Nat} {x : InMsg} {m : HMsg} (hmsg : firstMsg s 1 = some (x, m))
include hmsg

theorem exec_offer_barred (hbarred : offerBarred s x m = true) :
    exec (.offer t) s = .next (sendNack (takeMsg (s.upto t) x) m .denied) := by
  have hmsg' : firstMsg (s.upto t) 1 = some (x, m) := hmsg
  change execOffer t s = _
  simp only [execOffer, hmsg']
  exact congrArg Host.Outcome.next (if_pos (c := offerBarred s x m = true) hbarred)

variable {sp : Space} (hpass : ¬ offerBarred s x m = true) (hsp : spaceAt s m.space = some sp)
include hpass hsp

theorem exec_offer_full (hfull : 1048576 ≤ s.blk.ledger.length) :
    exec (.offer t) s = .next (sendNack (takeMsg (s.upto t) x) m .capacity) := by
  have hmsg' : firstMsg (s.upto t) 1 = some (x, m) := hmsg
  have hsp' : spaceAt (s.upto t) m.space = some sp := hsp
  change execOffer t s = _
  simp only [execOffer, hmsg']
  refine congrArg Host.Outcome.next ((if_neg (c := offerBarred s x m = true) hpass).trans ?_)
  simp only [hsp', State.upto_blk, ge_iff_le, hfull, if_true]

variable (hroom : s.blk.ledger.length < 1048576)
include hroom

theorem exec_offer_noManifest (hva : fabricVa s sp.ctx m.manifest (32 * m.blocks) = none) :
    exec (.offer t) s = .next (sendNack (takeMsg (s.upto t) x) m .denied) := by
  have hmsg' : firstMsg (s.upto t) 1 = some (x, m) := hmsg
  have hsp' : spaceAt (s.upto t) m.space = some sp := hsp
  have hva' : fabricVa (s.upto t) sp.ctx m.manifest (32 * m.blocks) = none := hva
  change execOffer t s = _
  simp only [execOffer, hmsg']
  refine congrArg Host.Outcome.next ((if_neg (c := offerBarred s x m = true) hpass).trans ?_)
  simp only [hsp', State.upto_blk, ge_iff_le, Nat.not_le.2 hroom, if_false, hva']

/-- An OFFER whose manifest can be read is staged (R455). -/
theorem exec_offer_lands {va : Nat} {s1 : State} (hva : fabricVa s sp.ctx m.manifest (32 * m.blocks) = some va)
    (hclear : barRanges (s.upto t) none sp.ctx .none [⟨va, 32 * m.blocks, .rd⟩] = (.clear, s1)) :
    exec (.offer t) s = .next (offerLand (s.upto t) s1 x m sp va) := by
  have hmsg' : firstMsg (s.upto t) 1 = some (x, m) := hmsg
  have hsp' : spaceAt (s.upto t) m.space = some sp := hsp
  have hva' : fabricVa (s.upto t) sp.ctx m.manifest (32 * m.blocks) = some va := hva
  change execOffer t s = _
  simp only [execOffer, hmsg']
  refine congrArg Host.Outcome.next ((if_neg (c := offerBarred s x m = true) hpass).trans ?_)
  simp only [hsp', State.upto_blk, ge_iff_le, Nat.not_le.2 hroom, if_false, hva', hclear]

end

/-- The CONFIRM of an ACK (R456). -/
def sendConfirm (s : State) (m : HMsg) : State :=
  sendMsg s m.reply { msg := 3, space := m.replySpace, epoch := m.epoch, group := m.group, reply := ownWindow s, replySpace := m.space }

/-- A group that an ACK takes over goes from here: its blocks are freed, its ledger entry stays as GONE, and its BLK_HANDOFF ends (R456). -/
def handedOver (s : State) (l : Ledger) (m : HMsg) : State :=
  let s2 := putLedger (freeGroup s m.space m.group) m.space m.group
    (some { l with st := .gone, epoch := m.epoch, since := s.now, job := none })
  sendConfirm (endHandoff (s2.bump F.BLK_HANDOFF_STATS_COMPLETED) l .ok m.epoch) m

section
variable {s : State} {t : Nat} {x : InMsg} {m : HMsg} (hmsg : firstMsg s 2 = some (x, m))
include hmsg

theorem exec_ack_notAllowed (hno : msgAllowed s x m = false) :
    exec (.ack t) s = .next (sendNack (takeMsg (s.upto t) x) m .denied) := by
  have hmsg' : firstMsg (s.upto t) 2 = some (x, m) := hmsg
  have hno' : msgAllowed (takeMsg (s.upto t) x) x m = false := hno
  change execAck t s = _
  simp only [execAck, hmsg', hno', Bool.not_false, if_true]

variable (hallowed : msgAllowed s x m = true)
include hallowed

theorem exec_ack_unknown (hl : ledgerOf s m.space m.group = none) :
    exec (.ack t) s = .next (sendNack (takeMsg (s.upto t) x) m .notOwner) := by
  have hmsg' : firstMsg (s.upto t) 2 = some (x, m) := hmsg
  have hallowed' : msgAllowed (takeMsg (s.upto t) x) x m = true := hallowed
  have hl' : ledgerOf (takeMsg (s.upto t) x) m.space m.group = none := hl
  change execAck t s = _
  simp only [execAck, hmsg', hallowed', Bool.not_true, Bool.false_eq_true, if_false, hl']

theorem exec_ack_entry {l : Ledger} (hl : ledgerOf s m.space m.group = some l) : exec (.ack t) s = .next
    (if l.st = .sending ∧ l.epoch + 1 = m.epoch then handedOver (takeMsg (s.upto t) x) l m
    else if l.st = .gone ∧ l.epoch = m.epoch then sendConfirm (takeMsg (s.upto t) x) m
    else sendNack (takeMsg (s.upto t) x) m .notOwner) := by
  have hmsg' : firstMsg (s.upto t) 2 = some (x, m) := hmsg
  have hallowed' : msgAllowed (takeMsg (s.upto t) x) x m = true := hallowed
  have hl' : ledgerOf (takeMsg (s.upto t) x) m.space m.group = some l := hl
  change execAck t s = _
  simp only [execAck, hmsg', hallowed', Bool.not_true, Bool.false_eq_true, if_false, hl']
  rfl

end

section
variable {s : State} {t : Nat} {x : InMsg} {m : HMsg} {l : Ledger} (hallowed : msgAllowed s x m = true)
  (hl : ledgerOf s m.space m.group = some l)
include hallowed hl

theorem exec_confirm_entry (hmsg : firstMsg s 3 = some (x, m)) : exec (.confirm t) s = .next
    (if l.st = .acked ∧ l.epoch = m.epoch then
      readyGroup (putLedger (takeMsg (s.upto t) x) m.space m.group (some { l with st := .owned, since := (takeMsg (s.upto t) x).now }))
        m.space m.group
    else takeMsg (s.upto t) x) := by
  have hmsg' : firstMsg (s.upto t) 3 = some (x, m) := hmsg
  have hallowed' : msgAllowed (takeMsg (s.upto t) x) x m = true := hallowed
  have hl' : ledgerOf (takeMsg (s.upto t) x) m.space m.group = some l := hl
  change execConfirm t s = _
  simp only [execConfirm, hmsg', hallowed', Bool.not_true, Bool.false_eq_true, if_false, hl']

/-- What a NACK does to a group, by the state of its ledger entry (R457, R458). -/
def nacked (s : State) (l : Ledger) (m : HMsg) : State :=
  match l.st with
  | .sending => reclaim s l (nackCode m.code)
  | .acked => dropStaged s l
  | .owned | .gone => s

theorem exec_nack_entry (hmsg : firstMsg s 4 = some (x, m)) : exec (.nack t) s = .next (nacked (takeMsg (s.upto t) x) l m) := by
  have hmsg' : firstMsg (s.upto t) 4 = some (x, m) := hmsg
  have hallowed' : msgAllowed (takeMsg (s.upto t) x) x m = true := hallowed
  have hl' : ledgerOf (takeMsg (s.upto t) x) m.space m.group = some l := hl
  change execNack t s = _
  simp only [execNack, hmsg', hallowed', Bool.not_true, Bool.false_eq_true, if_false, hl', nacked]
  cases l.st <;> rfl

end

/-! ### The timers of the ledger (R450, R457, R458) -/

section
variable {s : State} {t : Nat} {l : Ledger}

theorem exec_handoffTimeout_due
    (hdue : ledgerDue (s.upto t) .sending (·.since) (1000000 * s.get F.BLK_TIMING_HANDOFF_MS) = some l) :
    exec (.handoffTimeout t) s = .next (reclaim (s.upto t) l .timeout) := by
  change execHandoffTimeout t s = _
  simp only [execHandoffTimeout, State.upto_get, hdue]

theorem exec_ackResend_due
    (hdue : ledgerDue (s.upto t) .acked (·.sentAt) (1000 * s.get F.BLK_TIMING_ACK_RESEND_US) = some l) :
    exec (.ackResend t) s = .next (sendMsg (putLedger (s.upto t) l.space l.group (some { l with sentAt := (s.upto t).now })) l.reply
      { msg := 2, space := l.peerSpace, epoch := l.epoch, group := l.group, reply := ownWindow (s.upto t), replySpace := l.space }) := by
  change execAckResend t s = _
  simp only [execAckResend, State.upto_get, hdue]

theorem exec_giveupTimeout_due
    (hdue : ledgerDue (s.upto t) .acked (·.since) (1000000 * s.get F.BLK_TIMING_GIVEUP_MS) = some l) :
    exec (.giveupTimeout t) s = .next (dropStaged (s.upto t) l) := by
  change execGiveupTimeout t s = _
  simp only [execGiveupTimeout, State.upto_get, hdue]

theorem exec_goneExpiry_due
    (hdue : ledgerDue (s.upto t) .gone (·.since) (1000000 * s.get F.BLK_TIMING_GONE_MS) = some l) :
    exec (.goneExpiry t) s = .next (putLedger (s.upto t) l.space l.group none) := by
  change execGoneExpiry t s = _
  simp only [execGoneExpiry, State.upto_get, hdue]

/-- No timer runs for an empty ledger. -/
theorem exec_ledgerTimers_empty (hempty : s.blk.ledger = []) :
    exec (.handoffTimeout t) s = .next (s.upto t) ∧ exec (.ackResend t) s = .next (s.upto t) ∧
      exec (.giveupTimeout t) s = .next (s.upto t) ∧ exec (.goneExpiry t) s = .next (s.upto t) := by
  have hnone : ∀ st since ns, ledgerDue (s.upto t) st since ns = none := fun st since ns => by
    rw [ledgerDue, State.upto_blk, hempty]
    rfl
  change execHandoffTimeout t s = _ ∧ execAckResend t s = _ ∧ execGiveupTimeout t s = _ ∧ execGoneExpiry t s = _
  simp only [execHandoffTimeout, execAckResend, execGiveupTimeout, execGoneExpiry, hnone, and_self]

end

/-! ### The Contrail log (R464, R466) -/

/-- BLK_LOG_READ copies records once its buffer is ready (R466). -/
theorem exec_blkLogRead_reads {s s0 s1 : State} {d : Desc} {u : Nat} {j j0 : Job} {r : List Byte × Nat × Bool}
    (h : EngineReady s d 0x58 u j blkUnit F.BLK_CTRL_EN)
    (hread : logRead (startState s d u) (ringCtx j.ring) (dbits d.words 24 0 64) (dbits d.words 56 0 32) = r)
    (hstart : startJob (startState s d u) (started j u) (u % 4) [] = (j0, s0))
    (hprep : prepare s0 j0 u [⟨dbits d.words 48 0 57, r.1.length, .wr⟩] (some (jobView s0 j0 (u % 4))) = (true, s1)) :
    exec (.blkLogRead d) s = .next (rowEnd s j
      (blkEnd (writeVa s1 (ringCtx j.ring) (dbits d.words 48 0 57) r.1 (some (jobView s0 j0 (u % 4)))) j0
        (if r.2.2 then .short else .ok) r.2.1)) := by
  have hunit : j0.unit = u := unit_of_startJob hstart
  refine blkRow_does h ?_
  simp only [started_words h, started_ring, started_unit, hread, hstart, hunit, hprep]

/-- The first job that waits for room in the log and has it now. -/
def firstRoomy (s : State) : Option (Nat × Nat × Nat) :=
  s.log.waits.find? fun w => (logMake (logCap s) w.2.2 s.log.recs (logUsed s)).isSome

theorem exec_logRoom_some {s : State} {t : Nat} {w : Nat × Nat × Nat} (hfirst : firstRoomy s = some w) :
    exec (.logRoom t) s = .next { s.upto t with log := { s.log with waits := s.log.waits.erase w } } := by
  have hfirst' : firstRoomy (s.upto t) = some w := hfirst
  rw [firstRoomy] at hfirst'
  change execLogRoom t s = _
  simp only [execLogRoom, hfirst']
  rfl

theorem exec_logRoom_none {s : State} {t : Nat} (hfirst : firstRoomy s = none) : exec (.logRoom t) s = .next (s.upto t) := by
  have hfirst' : firstRoomy (s.upto t) = none := hfirst
  rw [firstRoomy] at hfirst'
  change execLogRoom t s = _
  simp only [execLogRoom, hfirst']

/-- Settles O59: BLK_HANDOFF, the four messages, the timers of the ledger and the log's commands, in the cases that the statement names. -/
theorem groupsHandedOff : Obligations.GroupsHandedOff := by
  refine ⟨fun s s1 d u fa mpa j sp l h => ?_, fun s t x m hmsg => ?_, fun s t x m hmsg => ?_, fun s t x m hmsg hallowed l hl => ?_,
    fun s t x m hmsg hallowed l hl => ?_, fun s t l => ⟨exec_handoffTimeout_due, exec_ackResend_due, exec_giveupTimeout_due,
      exec_goneExpiry_due, exec_ledgerTimers_empty⟩, fun s l c => ⟨ledgerOf_reclaim s l c, reclaim_store s l c⟩,
    fun s s1 d u j h hprep => exec_blkLogRead_reads h rfl rfl hprep,
    fun s t => ⟨fun w => exec_logRoom_some, exec_logRoom_none⟩⟩
  · refine ⟨fun c n => exec_blkHandoff_code h, exec_blkHandoff_wait h, fun ho => ⟨exec_blkHandoff_noDest h ho, fun hdest hpool => ?_⟩⟩
    have hgo := exec_blkHandoff_go h ho hdest hpool
    exact ⟨fun hout => hgo.trans (by rw [handoffTo_outside hout]), fun hin => ⟨fun hfull => hgo.trans (by rw [handoffTo_full hin hfull]),
      fun hlen hepoch hblocks => ⟨fun haway hroute => hgo.trans (by rw [handoffTo_noRoute hin hlen hepoch hblocks haway hroute]),
        fun hroute hprep => hgo.trans (by rw [handoffTo_lands hin hlen hepoch hblocks hroute rfl hprep]; rfl)⟩⟩⟩
  · refine ⟨fun hno => exec_offer_barred hmsg (offerBarred_iff.2 (.inl hno)), fun l hl hheld =>
      exec_offer_barred hmsg (offerBarred_iff.2 (.inr ⟨l, hl, hheld⟩)), fun sp hallowed hsp hfree => ?_⟩
    have hpass : ¬ offerBarred s x m = true := by
      rw [offerBarred_iff]
      rintro (hno | ⟨l, hl, hheld⟩)
      · exact absurd (hallowed.symm.trans hno) (by decide)
      · obtain ⟨hgone, hepoch⟩ := hfree l hl
        exact hheld.elim (fun hst => hst hgone) (Nat.not_le.2 hepoch)
    exact ⟨exec_offer_full hmsg hpass hsp, exec_offer_noManifest hmsg hpass hsp, fun va s1 hroom =>
      exec_offer_lands hmsg hpass hsp hroom⟩
  · refine ⟨exec_ack_notAllowed hmsg, fun hallowed => ⟨exec_ack_unknown hmsg hallowed, fun l hl => ?_⟩⟩
    have hexec := exec_ack_entry (t := t) hmsg hallowed hl
    refine ⟨fun hst hepoch => ?_, fun hst hepoch => ?_, fun hst => ?_⟩
    · exact hexec.trans (congrArg Host.Outcome.next (if_pos ⟨hst, hepoch⟩))
    · have hnot : ¬ (l.st = .sending ∧ l.epoch + 1 = m.epoch) := by simp [hst]
      exact hexec.trans (congrArg Host.Outcome.next ((if_neg hnot).trans (if_pos ⟨hst, hepoch⟩)))
    · rcases hst with hst | hst <;> simp [hexec, hst]
  · have hexec := exec_confirm_entry (t := t) hallowed hl hmsg
    exact ⟨fun hst hepoch => hexec.trans (congrArg _ (if_pos ⟨hst, hepoch⟩)), fun hno => hexec.trans (congrArg _ (if_neg (by tauto)))⟩
  · have hexec := exec_nack_entry (t := t) hallowed hl hmsg
    refine ⟨fun hst => ?_, fun hst => ?_, fun hst => ?_⟩
    · rw [hexec, nacked, hst]
    · rw [hexec, nacked, hst]
    · rcases hst with hst | hst <;> rw [hexec, nacked, hst]

end Sys2Proof.Machine
end

section
/-! SUPPORT. The registers and the state of the Kwazia ports (spec/12): the keys of their fields, single bits of a field, what posting a RAS event leaves
of them, and what reading a link and a port gives after each update. -/

namespace Sys2Proof.Machine

open Sys2Proof

/-! ### Keys of the registers of ports, links and laser modules -/

/-- The key of a field of a register that stands once in every port's block of 4 KiB. -/
theorem Fld.key_of_portBlock {f : Fld} {b k n : Nat} (ho : f.off = b + 0x1000 * n) (hk : b * 64 + f.lo = k) : f.key = k + 0x40000 * n :=
  (Fld.key_of_block ho hk).trans (Nat.add_comm _ _)

/-- The key of a field of a register that stands once in every 32 bytes of a port's block. -/
theorem Fld.key_of_linkBlock {f : Fld} {b k n m : Nat} (ho : f.off = b + 0x1000 * n + 0x20 * m) (hk : b * 64 + f.lo = k) :
    f.key = k + 0x40000 * n + 0x800 * m := by
  rw [Fld.key, ho]
  omega

section
variable (p l : Nat)

@[simp] theorem F.KZP_CTRL_EN_key : (F.KZP_CTRL_EN p).key = 0x480000 + 0x40000 * p := Fld.key_of_portBlock rfl rfl
@[simp] theorem F.KZP_CTRL_PERSONALITY_key : (F.KZP_CTRL_PERSONALITY p).key = 0x480001 + 0x40000 * p := Fld.key_of_portBlock rfl rfl
@[simp] theorem F.KZP_CTRL_MIN_LINKS_key : (F.KZP_CTRL_MIN_LINKS p).key = 0x480002 + 0x40000 * p := Fld.key_of_portBlock rfl rfl
@[simp] theorem F.KZP_CTRL_REKEY_LOG2_key : (F.KZP_CTRL_REKEY_LOG2 p).key = 0x480008 + 0x40000 * p := Fld.key_of_portBlock rfl rfl
@[simp] theorem F.KZP_STATUS_STATE_key : (F.KZP_STATUS_STATE p).key = 0x480200 + 0x40000 * p := Fld.key_of_portBlock rfl rfl
@[simp] theorem F.KZP_STATUS_LINK_SET_key : (F.KZP_STATUS_LINK_SET p).key = 0x480202 + 0x40000 * p := Fld.key_of_portBlock rfl rfl
@[simp] theorem F.KZP_STATUS_HAZY_key : (F.KZP_STATUS_HAZY p).key = 0x480208 + 0x40000 * p := Fld.key_of_portBlock rfl rfl
@[simp] theorem F.KZP_STATUS_SESSION_key : (F.KZP_STATUS_SESSION p).key = 0x480210 + 0x40000 * p := Fld.key_of_portBlock rfl rfl
@[simp] theorem F.KZP_STATUS_REASON_key : (F.KZP_STATUS_REASON p).key = 0x480220 + 0x40000 * p := Fld.key_of_portBlock rfl rfl
@[simp] theorem F.KZP_PEER_PEER_ID_key : (F.KZP_PEER_PEER_ID p).key = 0x480400 + 0x40000 * p := Fld.key_of_portBlock rfl rfl
@[simp] theorem F.KZP_CRYPTO_REKEYS_key : (F.KZP_CRYPTO_REKEYS p).key = 0x480610 + 0x40000 * p := Fld.key_of_portBlock rfl rfl
@[simp] theorem F.KZP_CXL_STATUS_LINK_UP_key : (F.KZP_CXL_STATUS_LINK_UP p).key = 0x480C00 + 0x40000 * p := Fld.key_of_portBlock rfl rfl
@[simp] theorem F.KZP_L_STATUS_STATE_key : (F.KZP_L_STATUS_STATE p l).key = 0x484000 + 0x40000 * p + 0x800 * l := Fld.key_of_linkBlock rfl rfl
@[simp] theorem F.KZP_L_STATUS_WIDTH_key : (F.KZP_L_STATUS_WIDTH p l).key = 0x484003 + 0x40000 * p + 0x800 * l := Fld.key_of_linkBlock rfl rfl
@[simp] theorem F.KZP_L_STATUS_LANES_OK_key : (F.KZP_L_STATUS_LANES_OK p l).key = 0x484004 + 0x40000 * p + 0x800 * l := Fld.key_of_linkBlock rfl rfl
@[simp] theorem F.KZP_L_STATUS_REASON_key : (F.KZP_L_STATUS_REASON p l).key = 0x484008 + 0x40000 * p + 0x800 * l := Fld.key_of_linkBlock rfl rfl
@[simp] theorem F.KZP_L_STATUS_LAST_TRAIN_MS_key : (F.KZP_L_STATUS_LAST_TRAIN_MS p l).key = 0x48400C + 0x40000 * p + 0x800 * l :=
  Fld.key_of_linkBlock rfl rfl
@[simp] theorem F.KZP_L_STATUS_TX_COUNTER_HI_key : (F.KZP_L_STATUS_TX_COUNTER_HI p l).key = 0x484018 + 0x40000 * p + 0x800 * l :=
  Fld.key_of_linkBlock rfl rfl
@[simp] theorem F.KZP_L_CTRL_RETIRE_key : (F.KZP_L_CTRL_RETIRE p l).key = 0x484200 + 0x40000 * p + 0x800 * l := Fld.key_of_linkBlock rfl rfl
@[simp] theorem F.KZP_L_ERRS_FEC_CORR_key : (F.KZP_L_ERRS_FEC_CORR p l).key = 0x484400 + 0x40000 * p + 0x800 * l := Fld.key_of_linkBlock rfl rfl
@[simp] theorem F.KZP_L_ERRS_FEC_UNCORR_key : (F.KZP_L_ERRS_FEC_UNCORR p l).key = 0x484420 + 0x40000 * p + 0x800 * l := Fld.key_of_linkBlock rfl rfl
@[simp] theorem F.KZP_OE_STATUS_STATE_key : (F.KZP_OE_STATUS_STATE p l).key = 0x488000 + 0x40000 * p + 0x800 * l := Fld.key_of_linkBlock rfl rfl
@[simp] theorem F.KZP_OE_STATUS_LSM_PRESENT_key : (F.KZP_OE_STATUS_LSM_PRESENT p l).key = 0x48800A + 0x40000 * p + 0x800 * l :=
  Fld.key_of_linkBlock rfl rfl
@[simp] theorem F.KZP_OE_STATUS_LSM_STATE_key : (F.KZP_OE_STATUS_LSM_STATE p l).key = 0x48800B + 0x40000 * p + 0x800 * l := Fld.key_of_linkBlock rfl rfl
@[simp] theorem F.KZP_OE_STATUS_LSM_REASON_key : (F.KZP_OE_STATUS_LSM_REASON p l).key = 0x488010 + 0x40000 * p + 0x800 * l :=
  Fld.key_of_linkBlock rfl rfl

end

/-! ### Single bits of a field -/

theorem bits_eq_zero_or_one (v l : Nat) : bits v l 1 = 0 ∨ bits v l 1 = 1 := by
  simp only [bits, pow_one]
  omega

/-- A bit that is 0 is set, and no other bit changes. -/
theorem bits_add_two_pow {v l : Nat} (h : bits v l 1 = 0) (i : Nat) : bits (v + 2 ^ l) i 1 = if i = l then 1 else bits v i 1 := by
  simp only [bits, pow_one] at *
  have hpos : 0 < 2 ^ l := Nat.two_pow_pos l
  split
  case isTrue hi =>
    rw [hi, Nat.add_div_right _ hpos]
    omega
  case isFalse hi =>
    rcases Nat.lt_or_gt_of_ne hi with hlt | hgt
    · obtain ⟨k, rfl⟩ := Nat.exists_eq_add_of_lt hlt
      rw [show 2 ^ (i + k + 1) = 2 ^ i * (2 * 2 ^ k) by ring, Nat.add_mul_div_left _ _ (Nat.two_pow_pos i), Nat.add_mul_mod_self_left]
    · obtain ⟨k, rfl⟩ := Nat.exists_eq_add_of_lt hgt
      rw [show 2 ^ (l + k + 1) = 2 ^ l * 2 * 2 ^ k by ring, ← Nat.div_div_eq_div_mul, ← Nat.div_div_eq_div_mul, ← Nat.div_div_eq_div_mul,
        ← Nat.div_div_eq_div_mul, Nat.add_div_right _ hpos, show (v / 2 ^ l).succ / 2 = v / 2 ^ l / 2 by omega]

/-- A bit that is 1 is cleared, and no other bit changes. -/
theorem bits_sub_two_pow {v l : Nat} (h : bits v l 1 = 1) (i : Nat) : bits (v - 2 ^ l) i 1 = if i = l then 0 else bits v i 1 := by
  have hpos : 0 < 2 ^ l := Nat.two_pow_pos l
  have hle : 2 ^ l ≤ v := by
    by_contra hlt
    simp [bits, Nat.div_eq_of_lt (Nat.not_le.1 hlt)] at h
  obtain ⟨w, rfl⟩ := Nat.exists_eq_add_of_le' hle
  have hw : bits w l 1 = 0 := by
    simp only [bits, pow_one] at h ⊢
    rw [Nat.add_div_right _ hpos] at h
    omega
  rw [Nat.add_sub_cancel, bits_add_two_pow hw]
  split
  case isTrue hi => rw [hi, hw]
  case isFalse => rfl

/-- A field of `n` bits keeps each of its bits. -/
theorem bits_mod_two_pow {n i : Nat} (h : i < n) (v : Nat) : bits (v % 2 ^ n) i 1 = bits v i 1 := by
  have hbit := Nat.testBit_mod_two_pow v n i
  simp only [Nat.testBit_eq_decide_div_mod_eq, h, decide_true, Bool.true_and, decide_eq_decide] at hbit
  simp only [bits, pow_one]
  omega

/-! ### RAS events and the ports' registers (R557) -/

/-- The key that the fields of the ports' registers begin at: what posting a RAS event changes lies below (R698). -/
def portKeys : Nat := F.KZP_HAZE_CFG * 64

theorem portKeys_le_of_block {f : Fld} {b n : Nat} (ho : f.off = b + 0x1000 * n) (hb : 0x11000 ≤ b) : portKeys ≤ f.key := by
  rw [Fld.key, ho, portKeys, F.KZP_HAZE_CFG]
  omega

theorem portKeys_le_of_linkBlock {f : Fld} {b n m : Nat} (ho : f.off = b + 0x1000 * n + 0x20 * m) (hb : 0x11000 ≤ b) : portKeys ≤ f.key := by
  rw [Fld.key, ho, portKeys, F.KZP_HAZE_CFG]
  omega

section
variable (p l : Nat)

theorem portKeys_le_linkState : portKeys ≤ (F.KZP_L_STATUS_STATE p l).key := portKeys_le_of_linkBlock (b := 0x12100) rfl (by decide)
theorem portKeys_le_hazy : portKeys ≤ (F.KZP_STATUS_HAZY p).key := portKeys_le_of_block (b := 0x12008) rfl (by decide)
theorem portKeys_le_linkSet : portKeys ≤ (F.KZP_STATUS_LINK_SET p).key := portKeys_le_of_block (b := 0x12008) rfl (by decide)

end

theorem postRas_get_of_port {f : Fld} (hf : portKeys ≤ f.key) (s : State) (kind source detail addr : Nat) :
    (postRas s kind source detail addr).get f = s.get f := by
  have hbelow : ∀ ks : List Nat, (∀ k ∈ ks, k < portKeys) → f.key ∉ ks := fun ks hks hmem => absurd (hks _ hmem) (Nat.not_lt.2 hf)
  unfold postRas
  extract_lets r posted ev gone comp noted raised sent
  obtain ⟨-, -, -, hfault⟩ := postFault_frame s r
  obtain ⟨-, -, -, hirq⟩ := raiseIrq_frame noted 1
  have hposted : posted.get f = s.get f := hfault f (hbelow _ (by decide))
  have hnoted : noted.regs = posted.regs := by simp only [noted]
  have hraised : raised.get f = noted.get f :=
    hirq f (List.ne_of_not_mem_cons (hbelow [F.MGT_IRQ_STATUS_SOURCES.key] (by decide)))
  have hsent : sent.get f = raised.get f := by
    simp only [sent]
    split <;> rfl
  refine (foldl_get (fun u m => ?_) _ _).trans (hsent.trans (hraised.trans ((State.get_of_regs hnoted f).trans hposted)))
  dsimp only
  split
  · exact State.get_of_regs (writeRecord_regs _ _ _ _) f
  · rfl

theorem sendMsix_comp (s : State) (src vec : Nat) : (sendMsix s src vec).comp = s.comp := by
  unfold sendMsix
  split <;> rfl

theorem raiseIrq_comp (s : State) (b : Nat) : (raiseIrq s b).comp = s.comp := by
  unfold raiseIrq
  dsimp only
  split
  · rfl
  · split
    · rfl
    · exact sendMsix_comp _ _ _

theorem ringWrite_comp (s : State) (r : Ring) (a : Nat) (data : List Byte) : (ringWrite s r a data).comp = s.comp := by
  unfold ringWrite
  split <;> split <;> rfl

theorem notifyRing_comp (s : State) (g : Nat) : (notifyRing s g).comp = s.comp := by
  unfold notifyRing
  dsimp only
  split
  · exact sendMsix_comp _ _ _
  · exact ringWrite_comp _ _ _ _

theorem writeRecord_comp (s : State) (g w0 w1 : Nat) : (writeRecord s g w0 w1).comp = s.comp := by
  unfold writeRecord
  dsimp only
  split
  · exact (notifyRing_comp _ _).trans (ringWrite_comp _ _ _ _)
  · exact ringWrite_comp _ _ _ _

/-- An event that is posted stands among those kept. -/
theorem exists_mem_events_postRas (s : State) (kind source detail : Nat) : ∃ r ∈ (postRas s kind source detail).comp.events, r.kind = kind := by
  unfold postRas
  extract_lets r posted ev gone comp noted raised sent
  have hsent : sent.comp = raised.comp := by
    simp only [sent]
    split <;> rfl
  refine ⟨r, ?_, rfl⟩
  refine List.foldlRecOn (motive := fun u : State => r ∈ u.comp.events) _ _ ?_ fun u hu m _ => ?_
  · have hnoted : noted.comp.events = ev.drop (ev.length - 4096) := by simp only [noted]
    rw [hsent, raiseIrq_comp, hnoted, show ev = posted.comp.events ++ [r] from rfl, List.drop_append]
    refine List.mem_append_right _ ?_
    rw [List.length_append, List.length_singleton, show posted.comp.events.length + 1 - 4096 - posted.comp.events.length = 0 by omega]
    exact List.mem_singleton_self r
  · dsimp only
    split
    · rw [writeRecord_comp]
      exact hu
    · exact hu

/-! ### Links and ports beyond their registers -/

section
variable (s : State) (p l : Nat) (f : Link → Link) (g : PortSt → PortSt)

@[simp] theorem linkOf_setLink_same : linkOf (setLink s p l f) p l = f (linkOf s p l) := tabGet_tabPutD_same _ _ _ _
@[simp] theorem portSt_setPort_same : portSt (setPort s p g) p = g (portSt s p) := tabGet_tabPutD_same _ _ _ _
@[simp] theorem linkOf_setPort (q : Nat) : linkOf (setPort s q g) p l = linkOf s p l := rfl
@[simp] theorem portSt_setLink (q : Nat) : portSt (setLink s p l f) q = portSt s q := rfl
@[simp] theorem setLink_get (x : Fld) : (setLink s p l f).get x = s.get x := rfl
@[simp] theorem setLink_flag (x : Fld) : (setLink s p l f).flag x = s.flag x := rfl
@[simp] theorem setLink_now : (setLink s p l f).now = s.now := rfl
@[simp] theorem setLink_regs : (setLink s p l f).regs = s.regs := rfl
@[simp] theorem setLink_store : (setLink s p l f).store = s.store := rfl
@[simp] theorem setLink_out : (setLink s p l f).out = s.out := rfl

end

theorem lt_six_of_mem_sixLinks {l : Nat} (h : l ∈ sixLinks) : l < 6 := by
  revert l
  decide

theorem linkOf_congr {s t : State} (h : t.ports.links = s.ports.links) (p l : Nat) : linkOf t p l = linkOf s p l := by
  rw [linkOf, linkOf, h]

theorem portSt_congr {s t : State} (h : t.ports.ports = s.ports.ports) (p : Nat) : portSt t p = portSt s p := by
  rw [portSt, portSt, h]

end Sys2Proof.Machine
end

section
/-! SUPPORT. The CXL 3.2 personality (spec/12, R499 to R503): the request that a CXL.mem message stands for, and the answers of the mailbox. -/

namespace Sys2Proof.Machine

open Sys2Proof

/-! ### CXL.mem messages (R500) -/

/-- What a CXL.mem message does on a CXL port that is UP, by its opcode (R500). -/
def cxlMemActs (s : State) (x : CxlMsg) : State :=
  match x.op with
  | .memRdAny => arrive .rdOwn (cxlReq s x 63 []) s
  | .memRdShared | .memRdData => arrive .rdShared (cxlReq s x 63 []) s
  | .memRdInv => arrive .rd (cxlReq s x 63 []) s
  | .memWr inv d => if inv && cxlOwns s x then evict true (cxlMsg0 s x d false false) s else arrive .wrLine (cxlReq s x 63 (padTo 64 d)) s
  | .memWrPtl m d => arrive .wrMask (cxlReq s x 63 (padTo 64 d ++ leBytes 8 m.toNat)) s
  | .memClnEvct => evict false (cxlMsg0 s x [] false false) s
  | .biRsp kept d => match d with
    | some b => snoopAnswer true (cxlMsg0 s x b true kept) s
    | none => snoopAnswer kept (cxlMsg0 s x [] false kept) s
  | .other => s.bumpSat (F.KZP_CXL_STATUS_UNSUPPORTED x.port.val)

/-- The first message sets MEM_EN, and each does what its opcode says. -/
theorem exec_cxlMemRequest {s : State} {x : CxlMsg} (hcxl : cxlPort s x.port = true) (hup : portUp s x.port = true) :
    exec (.cxlMemRequest x) s = .next (cxlMemActs ((s.upto x.t).setFlag (F.KZP_CXL_STATUS_MEM_EN x.port) true) x) := by
  have hserved : ¬ (!cxlPort (s.upto x.t) x.port || !portUp (s.upto x.t) x.port) = true := by
    change ¬ (!cxlPort s x.port || !portUp s x.port) = true
    simp [hcxl, hup]
  exact congrArg Host.Outcome.next (if_neg hserved)

/-! ### The mailbox (R499, R503) -/

/-- The mailbox of a CXL port answers with its port's number and the data. -/
theorem mailbox_of_cxlPort {s : State} {p : Nat} (hcxl : cxlPort s p = true) (what : String) (code : Nat) (data : List Nat) :
    mailbox p what code data s = s.emit (.mgmt what code (p :: data)) := if_pos hcxl

section
variable {s : State} {p : Fin 6} (hcxl : cxlPort s p = true)
include hcxl

theorem exec_biConflict : exec (.biConflict p) s = .next (s.emit (.control p 0 "BIConflictAck" 0)) :=
  congrArg Host.Outcome.next (if_pos hcxl)

/-- An answer whose content the spec does not state holds a free value, and no register changes. -/
theorem mailbox_freeField (what : String) (k : Nat) :
    ∃ v : Nat, (mailbox p what 0 [(freeField s k).1] (freeField s k).2).out = s.out ++ [.mgmt what 0 [p.val, v]] ∧
      (mailbox p what 0 [(freeField s k).1] (freeField s k).2).regs = s.regs := by
  have hcxl' : cxlPort (freeField s k).2 p = true := hcxl
  rw [mailbox_of_cxlPort hcxl']
  exact ⟨(freeField s k).1, rfl, rfl⟩

/-- Clearing the event records leaves none, and is answered (R503). -/
theorem exec_clearEventRecords : exec (.clearEventRecords p) s =
    .next ((setPort s p fun x => { x with cxlEvents := [] }).emit (.mgmt "CLEAR_EVENT_RECORDS" 0 [p.val])) := by
  have hcxl' : cxlPort (setPort s p fun x => { x with cxlEvents := [] }) p = true := by
    rw [cxlPort, portSt_setPort_same]
    exact hcxl
  exact congrArg Host.Outcome.next ((if_pos hcxl).trans (mailbox_of_cxlPort hcxl' _ _ _))

end

/-- Settles O25: a CXL.mem message acts as the request of R500, and the mailbox answers. -/
theorem cxlMessagesMap : Obligations.CxlMessagesMap := by
  refine ⟨fun s x hcxl hup => ?_, fun s p hcxl => ?_⟩
  · have hexec := exec_cxlMemRequest hcxl hup
    refine ⟨fun hop => ⟨_, hexec, ?_⟩, fun hop => ⟨_, hexec, ?_⟩, fun hop => ⟨_, hexec, ?_⟩, fun d hop => ⟨_, hexec, ?_⟩,
      fun hop => ⟨_, hexec, ?_⟩, fun hop => hexec.trans ?_⟩
    case refine_2 => rcases hop with hop | hop <;> rw [cxlMemActs, hop] <;> rfl
    all_goals rw [cxlMemActs, hop]
    all_goals rfl
  · have hmail := @mailbox_of_cxlPort s p hcxl
    exact ⟨exec_biConflict hcxl, congrArg _ (hmail _ _ _), congrArg _ (hmail _ _ _), ⟨_, rfl, mailbox_freeField hcxl _ 0⟩,
      ⟨_, rfl, mailbox_freeField hcxl _ 1⟩, congrArg _ (hmail _ _ _),
      ⟨_, exec_clearEventRecords hcxl, congrArg PortSt.cxlEvents (portSt_setPort_same s p fun x => { x with cxlEvents := [] }), rfl⟩,
      fun op => congrArg _ (hmail _ _ _)⟩

end Sys2Proof.Machine
end

section
/-! SUPPORT. The operations of links and ports (spec/12, R491 to R496): the link set, a link that goes out of service or comes into it, a port that links,
and what each leaves of the registers while the port does not go down. -/

namespace Sys2Proof.Machine

open Sys2Proof

/-! ### The link set (R481, R496) -/

/-- The port stays up for its links: it is not UP, or it has a link more than it needs (R496). -/
def StaysUp (s : State) (p : Nat) : Prop := s.get (F.KZP_STATUS_STATE p) ≠ 3 ∨ s.get (F.KZP_CTRL_MIN_LINKS p) < linkSetSize s p

theorem linkSetSize_congr {s t : State} {p : Nat} (h : t.get (F.KZP_STATUS_LINK_SET p) = s.get (F.KZP_STATUS_LINK_SET p)) :
    linkSetSize t p = linkSetSize s p := by
  rw [linkSetSize, linkSetSize, h]

theorem StaysUp.congr {s t : State} {p : Nat} (hs : StaysUp s p) (hstate : t.get (F.KZP_STATUS_STATE p) = s.get (F.KZP_STATUS_STATE p))
    (hmin : t.get (F.KZP_CTRL_MIN_LINKS p) = s.get (F.KZP_CTRL_MIN_LINKS p))
    (hset : t.get (F.KZP_STATUS_LINK_SET p) = s.get (F.KZP_STATUS_LINK_SET p)) : StaysUp t p := by
  rw [StaysUp, hstate, hmin, linkSetSize_congr hset]
  exact hs

/-- The state once a link has left the link set, and its unacknowledged messages have gone to the others (R481). -/
def leftSet (s : State) (p l : Nat) : State :=
  (s.set (F.KZP_STATUS_LINK_SET p) (s.get (F.KZP_STATUS_LINK_SET p) - 2 ^ l)).emit (.control p l "MOVE" (linkOf s p l).acked)

section
variable {s : State} {p l : Nat}

theorem bits_linkSet_leftSet (h : bits (s.get (F.KZP_STATUS_LINK_SET p)) l 1 = 1) {i : Nat} (hi : i < 6) :
    bits ((leftSet s p l).get (F.KZP_STATUS_LINK_SET p)) i 1 = if i = l then 0 else bits (s.get (F.KZP_STATUS_LINK_SET p)) i 1 := by
  rw [leftSet, State.emit_get, State.get_set_same]
  exact (bits_mod_two_pow hi _).trans (bits_sub_two_pow h i)

/-- A link set loses at most the link that leaves. -/
theorem linkSetSize_le_leftSet (h : bits (s.get (F.KZP_STATUS_LINK_SET p)) l 1 = 1) : linkSetSize s p ≤ linkSetSize (leftSet s p l) p + 1 := by
  have hsub : (sixLinks.filter fun i => bits (s.get (F.KZP_STATUS_LINK_SET p)) i 1 = 1) ⊆
      l :: sixLinks.filter fun i => bits ((leftSet s p l).get (F.KZP_STATUS_LINK_SET p)) i 1 = 1 := by
    intro i hi
    obtain ⟨hmem, hbit⟩ := List.mem_filter.1 hi
    by_cases hil : i = l
    · exact hil ▸ List.mem_cons_self
    · exact List.mem_cons_of_mem _ (List.mem_filter.2 ⟨hmem, by rwa [bits_linkSet_leftSet h (lt_six_of_mem_sixLinks hmem), if_neg hil]⟩)
  have hnodup : (sixLinks.filter fun i => bits (s.get (F.KZP_STATUS_LINK_SET p)) i 1 = 1).Nodup :=
    List.Nodup.filter _ (by decide)
  exact (hnodup.subperm hsub).length_le

variable (hs : StaysUp s p)
include hs

/-- A port that stays up loses the link, and nothing else happens. -/
theorem leaveSet_of_staysUp : leaveSet s p l = if bits (s.get (F.KZP_STATUS_LINK_SET p)) l 1 = 0 then s else leftSet s p l := by
  unfold leaveSet
  dsimp only
  split
  case isTrue => rfl
  case isFalse hbit =>
    have hone := (bits_eq_zero_or_one _ _).resolve_left hbit
    have hstate : (leftSet s p l).get (F.KZP_STATUS_STATE p) = s.get (F.KZP_STATUS_STATE p) := State.get_set_ne _ _ (by simp)
    have hmin : (leftSet s p l).get (F.KZP_CTRL_MIN_LINKS p) = s.get (F.KZP_CTRL_MIN_LINKS p) := State.get_set_ne _ _ (by simp)
    have hsize := linkSetSize_le_leftSet hone
    have hup : ¬ ((leftSet s p l).get (F.KZP_STATUS_STATE p) = 3 ∧ linkSetSize (leftSet s p l) p < (leftSet s p l).get (F.KZP_CTRL_MIN_LINKS p)) := by
      rw [hstate, hmin]
      rintro ⟨hthree, hfew⟩
      rcases hs with hne | hmore
      · exact hne hthree
      · omega
    exact if_neg hup

theorem leaveSet_get {f : Fld} (hf : f.key ≠ (F.KZP_STATUS_LINK_SET p).key) : (leaveSet s p l).get f = s.get f := by
  rw [leaveSet_of_staysUp hs]
  split
  · rfl
  · exact State.get_set_ne _ _ hf

theorem leaveSet_store : (leaveSet s p l).store = s.store := by
  rw [leaveSet_of_staysUp hs]
  split <;> rfl

theorem leaveSet_ports : (leaveSet s p l).ports = s.ports := by
  rw [leaveSet_of_staysUp hs]
  split <;> rfl

theorem bits_linkSet_leaveSet (hl : l < 6) : bits ((leaveSet s p l).get (F.KZP_STATUS_LINK_SET p)) l 1 = 0 := by
  rw [leaveSet_of_staysUp hs]
  split
  case isTrue hbit => exact hbit
  case isFalse hbit =>
    have hone := (bits_eq_zero_or_one _ _).resolve_left hbit
    rw [bits_linkSet_leftSet hone hl, if_pos rfl]

end

/-! ### A port that links (R494, R498) -/

/-- What linking may change of a port's registers. -/
def linkingKeys (p : Nat) : List Nat := [(F.KZP_STATUS_STATE p).key, (F.KZP_STATUS_REASON p).key]

section
variable (s : State) (p : Nat)

theorem tryInit_get {f : Fld} (hf : f.key ∉ linkingKeys p) : (tryInit s p).get f = s.get f := by
  obtain ⟨hstate, hreason⟩ : f.key ≠ (F.KZP_STATUS_STATE p).key ∧ f.key ≠ (F.KZP_STATUS_REASON p).key := by
    simpa only [linkingKeys, List.mem_cons, List.not_mem_nil, or_false, not_or] using hf
  unfold tryInit
  split
  · rfl
  · split
    · exact State.get_set_ne _ _ hstate
    · exact State.get_set_ne _ _ hreason

theorem tryInit_store : (tryInit s p).store = s.store := by
  unfold tryInit
  split
  · rfl
  · split <;> rfl

theorem tryInit_out : (tryInit s p).out = s.out := by
  unfold tryInit
  split
  · rfl
  · split <;> rfl

theorem tryLinking_get {f : Fld} (hf : f.key ∉ linkingKeys p) : (tryLinking s p).get f = s.get f := by
  have hstate : f.key ≠ (F.KZP_STATUS_STATE p).key := fun h => hf (h ▸ List.mem_cons_self)
  unfold tryLinking
  split
  · rfl
  · exact (tryInit_get _ _ hf).trans (State.get_set_ne _ _ hstate)

theorem tryLinking_store : (tryLinking s p).store = s.store := by
  unfold tryLinking
  split
  · rfl
  · exact tryInit_store _ _

theorem tryLinking_out : (tryLinking s p).out = s.out := by
  unfold tryLinking
  split
  · rfl
  · exact tryInit_out _ _

end

/-! ### Links that are lit (R491, R498) -/

/-- May a link that is OFF be lit: its laser module is READY, its port enabled and clocked, and the personality uses the link? -/
def mayLight (s : State) (p l : Nat) : Bool :=
  laserReady s (laserOf p l) && s.flag (F.KZP_CTRL_EN p) && portClocked s p && !(s.flag (F.KZP_CTRL_PERSONALITY p) && decide (4 ≤ l))

theorem lightLink_eq (s : State) (p l : Nat) :
    lightLink s p l = if linkSt s p l = 0 ∧ mayLight s p l = true then s.set (F.KZP_L_STATUS_STATE p l) 1 else s := by
  simp only [lightLink, mayLight, Bool.and_eq_true, decide_eq_true_eq, and_assoc]

/-- Whether a port's loop has a reference follows from the clocks and from registers below the ports' own. -/
theorem portClocked_congr {s t : State} (hget : ∀ f : Fld, f.key < portKeys → t.get f = s.get f) (hclk : t.clk = s.clk) (p : Nat) :
    portClocked t p = portClocked s p := by
  simp only [portClocked, awake, halted, chipClock, State.flag, hclk, hget F.SEC_TAMPER_STATUS_TAMPERED (by decide),
    hget F.PWR_STATUS_STATE (by decide), hget F.CLK_PLL_X_STATE (by decide)]

section
variable {s : State} {p l : Nat}

theorem lightLink_get {f : Fld} (k : Nat) (hf : f.key ≠ (F.KZP_L_STATUS_STATE p k).key) : (lightLink s p k).get f = s.get f := by
  rw [lightLink_eq]
  split
  · exact State.get_set_ne _ _ hf
  · rfl

theorem portClocked_lightLink (k : Nat) : portClocked (lightLink s p k) p = portClocked s p := by
  refine portClocked_congr (fun f hf => ?_) ?_ p
  · exact lightLink_get k (ne_of_lt (lt_of_lt_of_le hf (portKeys_le_of_linkBlock (b := 0x12100) rfl (by decide))))
  · rw [lightLink_eq]
    split <;> rfl

theorem mayLight_lightLink {k : Nat} (hk : k < 6) : mayLight (lightLink s p k) p l = mayLight s p l := by
  have hlaser : laserReady (lightLink s p k) (laserOf p l) = laserReady s (laserOf p l) := by
    have hkey : (F.KZP_OE_STATUS_LSM_STATE (laserOf p l / 2) (laserOf p l % 2)).key ≠ (F.KZP_L_STATUS_STATE p k).key := by
      rw [F.KZP_OE_STATUS_LSM_STATE_key, F.KZP_L_STATUS_STATE_key]
      omega
    rw [laserReady, laserReady, lightLink_get k hkey]
  have hen : (lightLink s p k).get (F.KZP_CTRL_EN p) = s.get (F.KZP_CTRL_EN p) := lightLink_get k (by simp; omega)
  have hcxl : (lightLink s p k).get (F.KZP_CTRL_PERSONALITY p) = s.get (F.KZP_CTRL_PERSONALITY p) := lightLink_get k (by simp; omega)
  simp only [mayLight, State.flag, hlaser, hen, hcxl, portClocked_lightLink]

/-- Lighting links one after the other lights the one that may be lit. -/
theorem linkSt_foldl_lightLink {ls : List Nat} (hls : ∀ k ∈ ls, k < 6) (hmay : mayLight s p l = true)
    (hst : (l ∈ ls ∧ linkSt s p l = 0) ∨ linkSt s p l = 1) : linkSt (ls.foldl (fun s l => lightLink s p l) s) p l = 1 := by
  induction ls generalizing s with
  | nil =>
    rcases hst with ⟨hmem, -⟩ | hone
    · exact absurd hmem List.not_mem_nil
    · exact hone
  | cons k ls ih =>
    refine ih (fun j hj => hls j (List.mem_cons_of_mem _ hj)) ((mayLight_lightLink (hls k List.mem_cons_self)).trans hmay) ?_
    by_cases hk : l = k
    · subst hk
      rcases hst with ⟨-, hzero⟩ | hone
      · right
        change linkSt (lightLink s p l) p l = 1
        rw [lightLink_eq, if_pos ⟨hzero, hmay⟩]
        exact State.get_set_same _ _ _
      · right
        change linkSt (lightLink s p l) p l = 1
        rw [lightLink_eq, if_neg (by omega)]
        exact hone
    · have hkeep : linkSt (lightLink s p k) p l = linkSt s p l := lightLink_get k (by simpa using hk)
      change _ ∨ linkSt (lightLink s p k) p l = 1
      rw [hkeep]
      exact hst.imp_left fun ⟨hmem, hzero⟩ => ⟨(List.mem_cons.1 hmem).resolve_left hk, hzero⟩

end

/-- Lighting a link changes no field but the STATE of the six links. -/
theorem foldl_lightLink_get {s : State} {p : Nat} {f : Fld} (ls : List Nat) (hf : ∀ k ∈ ls, f.key ≠ (F.KZP_L_STATUS_STATE p k).key) :
    (ls.foldl (fun s l => lightLink s p l) s).get f = s.get f :=
  List.foldlRecOn (motive := fun u : State => u.get f = s.get f) ls _ rfl fun _ hu k hk => (lightLink_get k (hf k hk)).trans hu

theorem foldl_lightLink_out {s : State} {p : Nat} (ls : List Nat) : (ls.foldl (fun s l => lightLink s p l) s).out = s.out :=
  List.foldlRecOn (motive := fun u : State => u.out = s.out) ls _ rfl fun u hu k _ => by
    rw [lightLink_eq]
    split <;> exact hu

/-! ### A link's STATE and HAZY bit (R491, R493) -/

section
variable {s : State} {p l v : Nat}

theorem linkSt_setLinkSt (hv : v < 8) : linkSt (setLinkSt s p l v) p l = v := (State.get_set_same _ _ _).trans (Nat.mod_eq_of_lt hv)

theorem setLinkSt_get {f : Fld} (hhazy : f.key ≠ (F.KZP_STATUS_HAZY p).key) (hst : f.key ≠ (F.KZP_L_STATUS_STATE p l).key) :
    (setLinkSt s p l v).get f = s.get f := (State.get_set_ne _ _ hst).trans (State.get_set_ne _ _ hhazy)

theorem staysUp_setLinkSt (hs : StaysUp s p) : StaysUp (setLinkSt s p l v) p :=
  hs.congr (setLinkSt_get (by simp) (by simp; omega)) (setLinkSt_get (by simp) (by simp; omega)) (setLinkSt_get (by simp) (by simp; omega))

/-- The HAZY bit of a link says whether it is in HAZY. -/
theorem bits_hazy_setLinkSt (hl : l < 6) : bits ((setLinkSt s p l v).get (F.KZP_STATUS_HAZY p)) l 1 = if v = 4 then 1 else 0 := by
  have hkey : (F.KZP_STATUS_HAZY p).key ≠ (F.KZP_L_STATUS_STATE p l).key := by simp; omega
  rw [setLinkSt, State.get_set_ne _ _ hkey, State.get_set_same]
  refine (bits_mod_two_pow hl _).trans ?_
  have hclear : bits (s.get (F.KZP_STATUS_HAZY p) - bits (s.get (F.KZP_STATUS_HAZY p)) l 1 * 2 ^ l) l 1 = 0 := by
    rcases bits_eq_zero_or_one (s.get (F.KZP_STATUS_HAZY p)) l with hzero | hone
    · simp [hzero]
    · simpa [hone] using bits_sub_two_pow hone l
  split
  · simp [bits_add_two_pow hclear l]
  · exact hclear

end

/-! ### A link goes out of service (R491) -/

section
variable {s : State} {p l v why : Nat} (hs : StaysUp s p)
include hs

theorem staysUp_linkGoes : StaysUp ((setLinkSt s p l v).set (F.KZP_L_STATUS_REASON p l) why) p :=
  (staysUp_setLinkSt hs).congr (State.get_set_ne _ _ (by simp; omega)) (State.get_set_ne _ _ (by simp; omega)) (State.get_set_ne _ _ (by simp; omega))

theorem linkSt_linkOut (hv : v < 8) : linkSt (linkOut s p l v why) p l = v := by
  refine (leaveSet_get (staysUp_linkGoes hs) (by simp; omega)).trans ?_
  exact (State.get_set_ne _ _ (by simp)).trans (linkSt_setLinkSt hv)

theorem reason_linkOut (hwhy : why < 16) : (linkOut s p l v why).get (F.KZP_L_STATUS_REASON p l) = why :=
  (leaveSet_get (staysUp_linkGoes hs) (by simp; omega)).trans ((State.get_set_same _ _ _).trans (Nat.mod_eq_of_lt (b := 2 ^ 4) hwhy))

theorem bits_linkSet_linkOut (hl : l < 6) : bits ((linkOut s p l v why).get (F.KZP_STATUS_LINK_SET p)) l 1 = 0 :=
  bits_linkSet_leaveSet (staysUp_linkGoes hs) hl

theorem linkOut_store : (linkOut s p l v why).store = s.store := leaveSet_store (staysUp_linkGoes hs)

theorem linkOut_ports : (linkOut s p l v why).ports = s.ports := leaveSet_ports (staysUp_linkGoes hs)

theorem linkOut_retire : (linkOut s p l v why).get (F.KZP_L_CTRL_RETIRE p l) = s.get (F.KZP_L_CTRL_RETIRE p l) := by
  refine (leaveSet_get (staysUp_linkGoes hs) (by simp; omega)).trans ?_
  exact (State.get_set_ne _ _ (by simp)).trans (setLinkSt_get (by simp; omega) (by simp))

end

/-- What a link shows once it is out of service: its STATE, its REASON, and its bit of the link set. -/
def LinkGone (s : State) (p l v why : Nat) (u : State) : Prop :=
  linkSt u p l = v ∧ u.get (F.KZP_L_STATUS_REASON p l) = why ∧ bits (u.get (F.KZP_STATUS_LINK_SET p)) l 1 = 0 ∧ u.store = s.store

theorem linkGone_linkOut {s : State} {p l v why : Nat} (hs : StaysUp s p) (hl : l < 6) (hv : v < 8) (hwhy : why < 16) :
    LinkGone s p l v why (linkOut s p l v why) :=
  ⟨linkSt_linkOut hs hv, reason_linkOut hs hwhy, bits_linkSet_linkOut hs hl, linkOut_store hs⟩

/-- A link in training has left its link set (R491). -/
theorem linkGone_linkTrain {s : State} {p l why : Nat} (hs : StaysUp s p) (hl : l < 6) (hwhy : why < 16) (retrain : Bool) :
    LinkGone s p l 2 why (linkTrain s p l why retrain) :=
  linkGone_linkOut (s := setLink s p l fun x => { x with trainAt := s.now, retrain := retrain, haze := {} }) hs hl (by decide) hwhy

theorem linkSt_linkTrain {s : State} {p l why : Nat} (hs : StaysUp s p) (retrain : Bool) : linkSt (linkTrain s p l why retrain) p l = 2 :=
  linkSt_linkOut (s := setLink s p l fun x => { x with trainAt := s.now, retrain := retrain, haze := {} }) hs (by decide)

theorem linkOf_linkTrain {s : State} {p l why : Nat} (hs : StaysUp s p) (retrain : Bool) :
    linkOf (linkTrain s p l why retrain) p l = { linkOf s p l with trainAt := s.now, retrain := retrain, haze := {} } :=
  (linkOf_congr (congrArg Ports.links (linkOut_ports (s := setLink s p l fun x => { x with trainAt := s.now, retrain := retrain, haze := {} }) hs)) p l).trans
    (linkOf_setLink_same _ _ _ _)

/-! ### A link comes into service (R491, R492, R498) -/

section
variable {s : State} {p l : Nat}

/-- The state once a link stands in the link set. -/
def inSet (s : State) (p l : Nat) : State :=
  if bits (s.get (F.KZP_STATUS_LINK_SET p)) l 1 = 1 then s
  else s.set (F.KZP_STATUS_LINK_SET p) (s.get (F.KZP_STATUS_LINK_SET p) + 2 ^ l)

theorem inSet_get {f : Fld} (hset : f.key ≠ (F.KZP_STATUS_LINK_SET p).key) : (inSet s p l).get f = s.get f := by
  unfold inSet
  split
  · rfl
  · exact State.get_set_ne _ _ hset

theorem bits_linkSet_inSet (hl : l < 6) : bits ((inSet s p l).get (F.KZP_STATUS_LINK_SET p)) l 1 = 1 := by
  unfold inSet
  split
  case isTrue hbit => exact hbit
  case isFalse hbit =>
    have hzero := (bits_eq_zero_or_one _ _).resolve_right hbit
    rw [State.get_set_same]
    exact (bits_mod_two_pow hl _).trans ((bits_add_two_pow hzero l).trans (if_pos rfl))

theorem joinSet_eq (s : State) (p l : Nat) : joinSet s p l = tryInit (if cxlPort (inSet s p l) p ∧
    (List.range 4).all (fun i => linkSt (inSet s p l) p i = 3) then (inSet s p l).setFlag (F.KZP_CXL_STATUS_LINK_UP p) true else inSet s p l) p := rfl

/-- Joining the link set changes no field but the set, the STATE and REASON of its port, and LINK_UP of the CXL personality. -/
theorem joinSet_get_inSet {f : Fld} (hup : f.key ≠ (F.KZP_CXL_STATUS_LINK_UP p).key) (hf : f.key ∉ linkingKeys p) :
    (joinSet s p l).get f = (inSet s p l).get f := by
  rw [joinSet_eq, tryInit_get _ _ hf]
  split
  · exact State.get_setFlag_ne _ _ hup
  · rfl

theorem joinSet_get {f : Fld} (hset : f.key ≠ (F.KZP_STATUS_LINK_SET p).key) (hup : f.key ≠ (F.KZP_CXL_STATUS_LINK_UP p).key)
    (hf : f.key ∉ linkingKeys p) : (joinSet s p l).get f = s.get f := (joinSet_get_inSet hup hf).trans (inSet_get hset)

theorem bits_linkSet_joinSet (hl : l < 6) : bits ((joinSet s p l).get (F.KZP_STATUS_LINK_SET p)) l 1 = 1 := by
  rw [joinSet_get_inSet (by simp) (by simp [linkingKeys])]
  exact bits_linkSet_inSet hl

variable (lanes : Nat) (half : Bool)

/-- The state of a trained link before it joins the link set. -/
def linkTrained (s : State) (p l lanes : Nat) (half : Bool) : State :=
  let s := setLinkSt s p l 3
  let s := s.set (F.KZP_L_STATUS_LAST_TRAIN_MS p l) (min ((s.now - (linkOf s p l).trainAt) / 1000000) 4095)
  (s.set (F.KZP_L_STATUS_LANES_OK p l) lanes).setFlag (F.KZP_L_STATUS_WIDTH p l) half

theorem linkActive_eq : linkActive s p l lanes half = joinSet (flitSeen (linkTrained s p l lanes half) p l) p l := rfl

theorem linkActive_get {f : Fld} (hset : f.key ≠ (F.KZP_STATUS_LINK_SET p).key) (hup : f.key ≠ (F.KZP_CXL_STATUS_LINK_UP p).key)
    (hf : f.key ∉ linkingKeys p) : (linkActive s p l lanes half).get f = (linkTrained s p l lanes half).get f := by
  rw [linkActive_eq, joinSet_get hset hup hf, flitSeen, setPort_get, setLink_get]

theorem linkSt_linkActive : linkSt (linkActive s p l lanes half) p l = 3 := by
  refine (linkActive_get lanes half (by simp; omega) (by simp; omega) (by simp [linkingKeys]; omega)).trans ?_
  refine (State.get_setFlag_ne _ _ (by simp)).trans ((State.get_set_ne _ _ (by simp)).trans ((State.get_set_ne _ _ (by simp)).trans ?_))
  exact linkSt_setLinkSt (by decide)

theorem lanesOk_linkActive : (linkActive s p l lanes half).get (F.KZP_L_STATUS_LANES_OK p l) = lanes % 16 := by
  refine (linkActive_get lanes half (by simp; omega) (by simp; omega) (by simp [linkingKeys]; omega)).trans ?_
  exact (State.get_setFlag_ne _ _ (by simp)).trans (State.get_set_same _ _ _)

theorem width_linkActive : (linkActive s p l lanes half).flag (F.KZP_L_STATUS_WIDTH p l) = half := by
  rw [State.flag, linkActive_get lanes half (by simp; omega) (by simp; omega) (by simp [linkingKeys]; omega)]
  exact State.flag_setFlag_same _ _ _ Nat.one_pos

theorem bits_linkSet_linkActive (hl : l < 6) : bits ((linkActive s p l lanes half).get (F.KZP_STATUS_LINK_SET p)) l 1 = 1 :=
  bits_linkSet_joinSet hl

end

end Sys2Proof.Machine
end

section
/-! SUPPORT. The commands that change the states of links, laser modules and ports (spec/12, R473, R474, R491 to R496, R531, R532). -/

namespace Sys2Proof.Machine

open Sys2Proof

/-! ### Links (R491, R492) -/

section
variable {s : State} {p l : Fin 6} {t : Nat}

theorem exec_linkLight (hst : linkSt s p l = 1) (hclk : portClocked s p = true) :
    exec (.linkLight p l t) s = .next (linkTrain (s.upto t) p l (s.get (F.KZP_L_STATUS_REASON p l)) false) :=
  congrArg Host.Outcome.next (if_pos ⟨hst, hclk⟩)

theorem exec_laneLockLoss (hst : linkSt s p l = 3) : exec (.laneLockLoss p l t) s = .next (linkTrain (s.upto t) p l 8 true) :=
  congrArg Host.Outcome.next (if_pos hst)

theorem exec_flitSilence_due (hst : linkSt s p l = 3) (hdue : (linkOf s p l).flitAt + 10000 ≤ max s.now t) :
    exec (.flitSilence p l t) s = .next (linkTrain (s.upto t) p l 4 true) := congrArg Host.Outcome.next (if_pos ⟨hst, hdue⟩)

theorem exec_flitSilence_early (hdue : max s.now t < (linkOf s p l).flitAt + 10000) : exec (.flitSilence p l t) s = .next (s.upto t) :=
  congrArg Host.Outcome.next (if_neg fun h => Nat.not_le.2 hdue h.2)

theorem exec_linkTrainingDone (hst : linkSt s p l = 2) (hclk : portClocked s p = true)
    (hdue : max s.now t ≤ (linkOf s p l).trainAt + trainBound s p l) : exec (.linkTrainingDone p l t) s =
      .next (linkActive (s.upto t) p l (if s.flag (F.KZP_L_STATUS_WIDTH p l) then s.get (F.KZP_L_STATUS_LANES_OK p l) else 15)
        (s.flag (F.KZP_L_STATUS_WIDTH p l))) := by
  have htrains : ¬ (linkSt s p l ≠ 2 ∨ (!portClocked s p) = true ∨ (linkOf s p l).trainAt + trainBound s p l < max s.now t) :=
    not_or.2 ⟨not_not_intro hst, not_or.2 ⟨by simp [hclk], Nat.not_lt.2 hdue⟩⟩
  exact congrArg Host.Outcome.next (if_neg htrains)

/-- At the bound of its training a link is ACTIVE at ×2 where two adjacent lanes have trained (R492). -/
theorem exec_linkTrainTimeout_half {lanes : Fin 16} (hst : linkSt s p l = 2) (hdue : (linkOf s p l).trainAt + trainBound s p l ≤ max s.now t)
    (hlanes : lanes.val % 4 = 3 ∨ lanes.val / 4 = 3) : exec (.linkTrainTimeout p l lanes t) s =
      .next (postRas (linkActive (s.upto t) p l lanes true) 0x25 0xA0
        (domDetail .link (linkKey p l) 0 + if lanes.val % 4 = 3 then 0 else 65536)) := by
  have htimes : ¬ (linkSt s p l ≠ 2 ∨ max s.now t < (linkOf s p l).trainAt + trainBound s p l) :=
    not_or.2 ⟨not_not_intro hst, Nat.not_lt.2 hdue⟩
  exact congrArg Host.Outcome.next ((if_neg htimes).trans (if_pos hlanes))

theorem exec_linkTrainTimeout_fails {lanes : Fin 16} (hst : linkSt s p l = 2) (hdue : (linkOf s p l).trainAt + trainBound s p l ≤ max s.now t)
    (hlanes : ¬ (lanes.val % 4 = 3 ∨ lanes.val / 4 = 3)) : exec (.linkTrainTimeout p l lanes t) s = .next (linkOut (s.upto t) p l 5 8) := by
  have htimes : ¬ (linkSt s p l ≠ 2 ∨ max s.now t < (linkOf s p l).trainAt + trainBound s p l) :=
    not_or.2 ⟨not_not_intro hst, Nat.not_lt.2 hdue⟩
  exact congrArg Host.Outcome.next ((if_neg htimes).trans (if_neg hlanes))

variable (hopen : PortOpen s)
include hopen

theorem exec_linkRetire_open : exec (.linkRetire p l t) s = .next (retireLink (answeredState (s.upto t)) p l) :=
  congrArg Host.Outcome.next (mgmtWrite_open (hopen.upto t) _ _)

theorem exec_linkReturn_open : exec (.linkReturn p l t) s = .next (returnLink (answeredState (s.upto t)) p l) :=
  congrArg Host.Outcome.next (mgmtWrite_open (hopen.upto t) _ _)

theorem exec_linkRetrain_open : exec (.linkRetrain p l t) s = .next (retrainLink (answeredState (s.upto t)) p l) :=
  congrArg Host.Outcome.next (mgmtWrite_open (hopen.upto t) _ _)

theorem exec_portEnable_open (en : Bool) : exec (.portEnable p en t) s = .next (writeEn (answeredState (s.upto t)) p en) :=
  congrArg Host.Outcome.next (mgmtWrite_open (hopen.upto t) _ _)

end

section
variable {s : State} {p l : Nat}

/-- RETRAIN takes a link in service to training, to try all its lanes. -/
theorem linkGone_retrainLink (hs : StaysUp s p) (hl : l < 6) (hst : linkSt s p l = 3 ∨ linkSt s p l = 4) :
    LinkGone s p l 2 1 (retrainLink s p l) := by
  have hs' : StaysUp ((s.set (F.KZP_L_STATUS_WIDTH p l) 0).set (F.KZP_L_STATUS_LANES_OK p l) 0) p :=
    hs.congr ((State.get_set_ne _ _ (by simp; omega)).trans (State.get_set_ne _ _ (by simp; omega)))
      ((State.get_set_ne _ _ (by simp; omega)).trans (State.get_set_ne _ _ (by simp; omega)))
      ((State.get_set_ne _ _ (by simp; omega)).trans (State.get_set_ne _ _ (by simp; omega)))
  rw [retrainLink, if_pos hst]
  exact linkGone_linkTrain hs' hl (by decide) true

/-- RETIRE takes any link to RETIRED, and its bit stays set. -/
theorem linkGone_retireLink (hs : StaysUp s p) (hl : l < 6) (hst : linkSt s p l ≠ 6) :
    LinkGone s p l 6 1 (retireLink s p l) ∧ (retireLink s p l).flag (F.KZP_L_CTRL_RETIRE p l) = true := by
  have hs' : StaysUp (s.setFlag (F.KZP_L_CTRL_RETIRE p l) true) p :=
    hs.congr (State.get_setFlag_ne _ _ (by simp; omega)) (State.get_setFlag_ne _ _ (by simp; omega)) (State.get_setFlag_ne _ _ (by simp; omega))
  have hst' : linkSt (s.setFlag (F.KZP_L_CTRL_RETIRE p l) true) p l ≠ 6 := by
    rwa [linkSt, State.get_setFlag_ne _ _ (by simp)]
  have hretire : retireLink s p l = linkOut (s.setFlag (F.KZP_L_CTRL_RETIRE p l) true) p l 6 1 := if_neg hst'
  rw [hretire]
  refine ⟨linkGone_linkOut hs' hl (by decide) (by decide), ?_⟩
  rw [State.flag, linkOut_retire hs']
  exact State.flag_setFlag_same _ _ _ Nat.one_pos

/-- RETURN takes a link that is FAILED or RETIRED to LIGHT, and clears its RETIRE bit. -/
theorem returnLink_lights (hst : linkSt s p l = 5 ∨ linkSt s p l = 6) :
    linkSt (returnLink s p l) p l = 1 ∧ (returnLink s p l).flag (F.KZP_L_CTRL_RETIRE p l) = false ∧ (returnLink s p l).store = s.store := by
  rw [returnLink, if_pos hst]
  refine ⟨?_, ?_, tryLinking_store _ _⟩
  · exact (tryLinking_get _ _ (by simp [linkingKeys]; omega)).trans (State.get_set_same _ _ _)
  · rw [State.flag, tryLinking_get _ _ (by simp [linkingKeys]; omega), State.get_set_ne _ _ (by simp)]
    exact State.flag_setFlag_same _ _ _ Nat.one_pos

end

section
variable {s : State} {p l : Fin 6} {t : Nat}

theorem linkTrainingDone_active (hst : linkSt s p l = 2) (hclk : portClocked s p = true)
    (hdue : max s.now t ≤ (linkOf s p l).trainAt + trainBound s p l) : Gives (.linkTrainingDone p l t) s fun u =>
      linkSt u p l = 3 ∧ bits (u.get (F.KZP_STATUS_LINK_SET p)) l 1 = 1 ∧
      u.get (F.KZP_L_STATUS_LANES_OK p l) = (if s.flag (F.KZP_L_STATUS_WIDTH p l) then s.get (F.KZP_L_STATUS_LANES_OK p l) % 16 else 15) := by
  refine ⟨_, exec_linkTrainingDone hst hclk hdue, linkSt_linkActive _ _, bits_linkSet_linkActive _ _ l.isLt, (lanesOk_linkActive _ _).trans ?_⟩
  split <;> rfl

theorem linkTrainTimeout_half {lanes : Fin 16} (hst : linkSt s p l = 2) (hdue : (linkOf s p l).trainAt + trainBound s p l ≤ max s.now t)
    (hlanes : lanes.val % 4 = 3 ∨ lanes.val / 4 = 3) : Gives (.linkTrainTimeout p l lanes t) s fun u =>
      linkSt u p l = 3 ∧ u.flag (F.KZP_L_STATUS_WIDTH p l) = true ∧ u.get (F.KZP_L_STATUS_LANES_OK p l) = lanes.val ∧
      ∃ r ∈ u.comp.events, r.kind = 0x25 := by
  refine ⟨_, exec_linkTrainTimeout_half hst hdue hlanes, ?_, ?_, ?_, exists_mem_events_postRas _ _ _ _⟩
  · exact (postRas_get_of_port (portKeys_le_linkState p l) _ _ _ _ _).trans (linkSt_linkActive _ _)
  · rw [State.flag, postRas_get_of_port (portKeys_le_of_linkBlock (b := 0x12100) rfl (by decide))]
    exact width_linkActive _ _
  · rw [postRas_get_of_port (portKeys_le_of_linkBlock (b := 0x12100) rfl (by decide)), lanesOk_linkActive]
    exact Nat.mod_eq_of_lt lanes.isLt

theorem linkReturn_lights (hopen : PortOpen s) (hst : linkSt s p l = 5 ∨ linkSt s p l = 6) : Gives (.linkReturn p l t) s fun u =>
    linkSt u p l = 1 ∧ u.flag (F.KZP_L_CTRL_RETIRE p l) = false ∧ u.store = s.store :=
  ⟨_, exec_linkReturn_open hopen, returnLink_lights (s := answeredState (s.upto t)) hst⟩

variable (hs : StaysUp s p)
include hs

theorem linkLight_trains (hst : linkSt s p l = 1) (hclk : portClocked s p = true) : Gives (.linkLight p l t) s fun u =>
    linkSt u p l = 2 ∧ (linkOf u p l).trainAt = max s.now t ∧ (linkOf u p l).retrain = false := by
  have hlink := linkOf_linkTrain (s := s.upto t) (l := l) (why := s.get (F.KZP_L_STATUS_REASON p l)) hs false
  exact ⟨_, exec_linkLight hst hclk, linkSt_linkTrain (s := s.upto t) hs _, congrArg Link.trainAt hlink, congrArg Link.retrain hlink⟩

theorem laneLockLoss_trains (hst : linkSt s p l = 3) : Gives (.laneLockLoss p l t) s (LinkGone s p l 2 8) :=
  ⟨_, exec_laneLockLoss hst, linkGone_linkTrain (s := s.upto t) hs l.isLt (by decide) true⟩

theorem flitSilence_trains (hst : linkSt s p l = 3) (hdue : (linkOf s p l).flitAt + 10000 ≤ max s.now t) :
    Gives (.flitSilence p l t) s (LinkGone s p l 2 4) :=
  ⟨_, exec_flitSilence_due hst hdue, linkGone_linkTrain (s := s.upto t) hs l.isLt (by decide) true⟩

theorem linkRetrain_trains (hopen : PortOpen s) (hst : linkSt s p l = 3 ∨ linkSt s p l = 4) :
    Gives (.linkRetrain p l t) s (LinkGone s p l 2 1) :=
  ⟨_, exec_linkRetrain_open hopen, linkGone_retrainLink (s := answeredState (s.upto t)) hs l.isLt hst⟩

theorem linkRetire_retires (hopen : PortOpen s) (hst : linkSt s p l ≠ 6) : Gives (.linkRetire p l t) s fun u =>
    LinkGone s p l 6 1 u ∧ u.flag (F.KZP_L_CTRL_RETIRE p l) = true :=
  ⟨_, exec_linkRetire_open hopen, linkGone_retireLink (s := answeredState (s.upto t)) hs l.isLt hst⟩

theorem linkTrainTimeout_fails {lanes : Fin 16} (hst : linkSt s p l = 2) (hdue : (linkOf s p l).trainAt + trainBound s p l ≤ max s.now t)
    (hlanes : ¬ (lanes.val % 4 = 3 ∨ lanes.val / 4 = 3)) : Gives (.linkTrainTimeout p l lanes t) s (LinkGone s p l 5 8) :=
  ⟨_, exec_linkTrainTimeout_fails hst hdue hlanes, linkGone_linkOut (s := s.upto t) hs l.isLt (by decide) (by decide)⟩

end

/-! ### Laser modules (R473, R474) -/

theorem mem_setAdd_self (k : Nat) (l : List Nat) : k ∈ setAdd k l := by
  induction l with
  | nil => exact List.mem_singleton_self k
  | cons j l ih =>
    unfold setAdd
    split
    · exact List.mem_cons_self
    · split
      case isTrue h => exact h ▸ List.mem_cons_self
      case isFalse => exact List.mem_cons_of_mem _ ih

section
variable {s : State} {m : Fin 12} {t : Nat}

section
variable {x : Cmis} (hst : s.get (F.KZP_OE_STATUS_LSM_STATE (m.val / 2) (m.val % 2)) ≠ 2) (hclk : portClocked s (m.val / 2) = true)
include hst hclk

theorem not_moduleBarred : ¬ (s.get (F.KZP_OE_STATUS_LSM_STATE (m.val / 2) (m.val % 2)) = 2 ∨ (!portClocked s (m.val / 2)) = true) := by
  simp [hst, hclk]

/-- A module that R473 accepts comes up, and is expected to be ready. -/
theorem lsmPresent_accepted (hok : cmisOk x = true) : Gives (.lsmPresent m x t) s fun u =>
    u.get (F.KZP_OE_STATUS_LSM_STATE (m.val / 2) (m.val % 2)) = 1 ∧ m.val ∈ u.ports.lasers := by
  refine ⟨_, congrArg Host.Outcome.next ((if_neg (not_moduleBarred hst hclk)).trans (if_pos hok)), ?_, mem_setAdd_self _ _⟩
  refine (State.get_of_regs (s := State.set _ (F.KZP_OE_STATUS_LSM_REASON (m.val / 2) (m.val % 2)) 0) rfl _).trans ?_
  exact (State.get_set_ne _ _ (by simp)).trans (State.get_set_same _ _ _)

/-- A module that R473 does not accept is FAILED, with the reason. -/
theorem lsmPresent_refused (hbad : cmisOk x = false) : Gives (.lsmPresent m x t) s fun u =>
    u.get (F.KZP_OE_STATUS_LSM_STATE (m.val / 2) (m.val % 2)) = 3 ∧ u.get (F.KZP_OE_STATUS_LSM_REASON (m.val / 2) (m.val % 2)) = 11 :=
  ⟨_, congrArg Host.Outcome.next ((if_neg (not_moduleBarred hst hclk)).trans (if_neg (Bool.eq_false_iff.1 hbad))),
    (State.get_set_ne _ _ (by simp)).trans (State.get_set_same _ _ _), State.get_set_same _ _ _⟩

end

/-- The state once a module's outputs are enabled, before its links are lit. -/
def moduleReady (s : State) (m : Nat) : State :=
  ((({ s with ports := { s.ports with lasers := setDel m s.ports.lasers } } : State).set (F.KZP_OE_STATUS_LSM_STATE (m / 2) (m % 2)) 2).set
    (F.KZP_OE_STATUS_STATE (m / 2) (m % 2)) 1).emit (.pin "LSM_OUTPUTS" true)

theorem exec_laserModuleReady (hm : m.val ∈ s.ports.lasers) :
    exec (.laserModuleReady m t) s = .next (lightPort (moduleReady (s.upto t) m.val) (m.val / 2)) := by
  have hexpected : ¬ (!s.ports.lasers.contains m.val) = true := by simp [hm]
  exact congrArg Host.Outcome.next (if_neg hexpected)

theorem moduleReady_get (m : Nat) {f : Fld} (hlsm : f.key ≠ (F.KZP_OE_STATUS_LSM_STATE (m / 2) (m % 2)).key)
    (hst : f.key ≠ (F.KZP_OE_STATUS_STATE (m / 2) (m % 2)).key) : (moduleReady s m).get f = s.get f := by
  rw [moduleReady, State.emit_get, State.get_set_ne _ _ hst, State.get_set_ne _ _ hlsm]
  rfl

theorem lsmState_moduleReady (m : Nat) : (moduleReady s m).get (F.KZP_OE_STATUS_LSM_STATE (m / 2) (m % 2)) = 2 := by
  rw [moduleReady, State.emit_get, State.get_set_ne _ _ (by simp), State.get_set_same]
  rfl

theorem portClocked_moduleReady (m p : Nat) : portClocked (moduleReady s m) p = portClocked s p := by
  have hbelow : ∀ {f g : Fld}, f.key < portKeys → portKeys ≤ g.key → f.key ≠ g.key := fun hf hg => ne_of_lt (lt_of_lt_of_le hf hg)
  exact portClocked_congr (fun f hf => moduleReady_get m (hbelow hf (portKeys_le_of_linkBlock (b := 0x12200) rfl (by decide)))
    (hbelow hf (portKeys_le_of_linkBlock (b := 0x12200) rfl (by decide)))) rfl p

/-- A module that has become READY lights the links of its engine that may be lit. -/
theorem linkSt_lightPort_moduleReady {l : Nat} (hl : l ∈ sixLinks) (hlaser : laserOf (m.val / 2) l = m.val) (hst : linkSt s (m.val / 2) l = 0)
    (hen : s.flag (F.KZP_CTRL_EN (m.val / 2)) = true) (hclk : portClocked s (m.val / 2) = true)
    (huses : (s.flag (F.KZP_CTRL_PERSONALITY (m.val / 2)) && decide (4 ≤ l)) = false) :
    linkSt (lightPort (moduleReady s m.val) (m.val / 2)) (m.val / 2) l = 1 := by
  have hl6 := lt_six_of_mem_sixLinks hl
  have hmay : mayLight (moduleReady s m.val) (m.val / 2) l = true := by
    have hready : laserReady (moduleReady s m.val) m.val = true := by simp [laserReady, lsmState_moduleReady]
    have hen' : (moduleReady s m.val).flag (F.KZP_CTRL_EN (m.val / 2)) = true := by
      rw [State.flag, moduleReady_get _ (by simp; omega) (by simp; omega)]
      exact hen
    have hcxl : (moduleReady s m.val).flag (F.KZP_CTRL_PERSONALITY (m.val / 2)) = s.flag (F.KZP_CTRL_PERSONALITY (m.val / 2)) := by
      rw [State.flag, moduleReady_get _ (by simp; omega) (by simp; omega)]
      rfl
    simp only [mayLight, hlaser, hready, hen', portClocked_moduleReady, hclk, hcxl, huses, Bool.and_self, Bool.not_false]
  refine (tryLinking_get _ _ (by simp [linkingKeys]; omega)).trans (linkSt_foldl_lightLink (fun _ => lt_six_of_mem_sixLinks) hmay (.inl ⟨hl, ?_⟩))
  exact (moduleReady_get _ (by simp; omega) (by simp; omega)).trans hst

end

/-- The state once a poll has noted whether a module is there. -/
def presenceNoted (s : State) (m : Nat) (present : Bool) : State := s.setFlag (F.KZP_OE_STATUS_LSM_PRESENT (m / 2) (m % 2)) present

section
variable {s : State} {m : Fin 12} {t : Nat}

theorem laserModuleReady_lights (hm : m.val ∈ s.ports.lasers) : Gives (.laserModuleReady m t) s fun u =>
    u.get (F.KZP_OE_STATUS_LSM_STATE (m.val / 2) (m.val % 2)) = 2 ∧ u.out = s.out ++ [.pin "LSM_OUTPUTS" true] ∧
    ∀ l ∈ sixLinks, laserOf (m.val / 2) l = m.val → linkSt s (m.val / 2) l = 0 → s.flag (F.KZP_CTRL_EN (m.val / 2)) = true →
      portClocked s (m.val / 2) = true → (s.flag (F.KZP_CTRL_PERSONALITY (m.val / 2)) && decide (4 ≤ l)) = false →
      linkSt u (m.val / 2) l = 1 := by
  refine ⟨_, exec_laserModuleReady hm, ?_, (tryLinking_out _ _).trans (foldl_lightLink_out _),
    fun l => linkSt_lightPort_moduleReady (s := s.upto t)⟩
  refine (tryLinking_get _ _ (by simp [linkingKeys]; omega)).trans ((foldl_lightLink_get _ fun k hk => ?_).trans (lsmState_moduleReady _))
  have hk6 := lt_six_of_mem_sixLinks hk
  simp
  omega

variable {x : LsmReading} (hst : s.get (F.KZP_OE_STATUS_LSM_STATE (m.val / 2) (m.val % 2)) = 1 ∨
  s.get (F.KZP_OE_STATUS_LSM_STATE (m.val / 2) (m.val % 2)) = 2)
include hst

theorem presenceNoted_up :
    (presenceNoted (s.upto t) m x.present).get (F.KZP_OE_STATUS_LSM_STATE (m.val / 2) (m.val % 2)) = 1 ∨
    (presenceNoted (s.upto t) m x.present).get (F.KZP_OE_STATUS_LSM_STATE (m.val / 2) (m.val % 2)) = 2 := by
  rw [presenceNoted, State.get_setFlag_ne _ _ (by simp)]
  exact hst

theorem exec_lsmPoll_passes (hok : (x.present && x.answers && !x.alarm) = true) : exec (.lsmPoll m x t) s =
    .next ((presenceNoted (s.upto t) m x.present).set (F.KZP_OE_STATUS_LSM_POWER (m.val / 2) (m.val % 2)) x.power.toNat) :=
  congrArg Host.Outcome.next ((if_pos (presenceNoted_up hst)).trans (if_pos hok))

theorem exec_lsmPoll_fails (hbad : (x.present && x.answers && !x.alarm) = false) : exec (.lsmPoll m x t) s =
    .next (laserFail (presenceNoted (s.upto t) m x.present) m) :=
  congrArg Host.Outcome.next ((if_pos (presenceNoted_up hst)).trans (if_neg (Bool.eq_false_iff.1 hbad)))

end

/-! ### Ports (R494 to R496, R531, R532) -/

section
variable {s : State} {p : Fin 6} {t : Nat}

section
variable {x : InitData} (hst : s.get (F.KZP_STATUS_STATE p) = 2)
include hst

/-- The peer's name is kept, and the check of its INIT decides. -/
theorem exec_portInit_refused {r : Nat} (hr : initRefused s p x = some r) : exec (.portInit p x t) s =
    .next (((s.upto t).set (F.KZP_PEER_PEER_ID p) x.peer.toNat).set (F.KZP_STATUS_REASON p) r) := by
  have hr' : initRefused ((s.upto t).set (F.KZP_PEER_PEER_ID p) x.peer.toNat) p x = some r := hr
  have hinit : ¬ (s.upto t).get (F.KZP_STATUS_STATE p) ≠ 2 := not_not_intro hst
  change execPortInit p x t s = _
  unfold execPortInit
  dsimp only
  rw [if_neg hinit, hr']

/-- The state of a port that has come UP on its peer's INIT. -/
def portCame (s : State) (p : Nat) (x : InitData) : State :=
  setPort (((s.set (F.KZP_PEER_PEER_ID p) x.peer.toNat).set (F.KZP_STATUS_STATE p) 3).bump (F.KZP_STATUS_SESSION p)) p fun q =>
    { q with notice := none, msn0 := 0, msn1 := 0, early := [], flitAt := s.now, credits := addCredits [] x.credits.toNat, tags := x.tags.val }

theorem exec_portInit_accepted (hr : initRefused s p x = none) : exec (.portInit p x t) s =
    .next ((portCame (s.upto t) p x).emit (.control p 6 "INIT" ((portCame (s.upto t) p x).get (F.KZP_STATUS_SESSION p)))) := by
  have hr' : initRefused ((s.upto t).set (F.KZP_PEER_PEER_ID p) x.peer.toNat) p x = none := hr
  have hinit : ¬ (s.upto t).get (F.KZP_STATUS_STATE p) ≠ 2 := not_not_intro hst
  change execPortInit p x t s = _
  unfold execPortInit
  dsimp only
  rw [if_neg hinit, hr']
  rfl

end

/-- A port that comes UP names its peer, and has a new SESSION. -/
theorem portCame_get (s : State) (p : Nat) (x : InitData) : (portCame s p x).get (F.KZP_STATUS_STATE p) = 3 ∧
    (portCame s p x).get (F.KZP_PEER_PEER_ID p) = x.peer.toNat ∧
    (portCame s p x).get (F.KZP_STATUS_SESSION p) = (s.get (F.KZP_STATUS_SESSION p) + 1) % 65536 := by
  simp only [portCame, setPort_get]
  refine ⟨?_, ?_, ?_⟩
  · rw [State.get_bump_ne _ _ (by simp), State.get_set_same]
    rfl
  · rw [State.get_bump_ne _ _ (by simp), State.get_set_ne _ _ (by simp), State.get_set_same]
    exact Nat.mod_eq_of_lt x.peer.isLt
  · rw [State.get_bump_same, State.get_set_ne _ _ (by simp), State.get_set_ne _ _ (by simp)]
    rfl

theorem portSt_portCame (s : State) (p : Nat) (x : InitData) : portSt (portCame s p x) p = { portSt s p with
    notice := none, msn0 := 0, msn1 := 0, early := [], flitAt := s.now, credits := addCredits [] x.credits.toNat, tags := x.tags.val } := by
  rw [portCame, portSt_setPort_same]
  rfl

theorem initRefused_lt {s : State} {p : Nat} {x : InitData} {r : Nat} (hr : initRefused s p x = some r) : r < 16 := by
  unfold initRefused at hr
  split at hr
  · cases hr
    decide
  · split at hr
    · cases hr
      decide
    · cases hr

theorem exec_portDown_none (hr : downReason s p = none) : exec (.portDown p t) s = .next (s.upto t) := by
  have hr' : downReason (s.upto t) p = none := hr
  change execPortDown p t s = _
  simp only [execPortDown, hr']

theorem exec_portDown_some {r : Nat} (hst : s.get (F.KZP_STATUS_STATE p) = 3) (hr : downReason s p = some r) :
    exec (.portDown p t) s = .next (goDown (s.upto t) p r true) := by
  have hr' : downReason (s.upto t) p = some r := hr
  have hst' : (s.upto t).get (F.KZP_STATUS_STATE p) = 3 := hst
  change execPortDown p t s = _
  simp only [execPortDown, hr', if_pos hst']

theorem exec_downNoticeEnd_due {a : Nat} (ha : (portSt s p).notice = some a) (hdue : a + 10000 ≤ max s.now t) : exec (.downNoticeEnd p t) s =
    .next ((setPort (s.upto t) p fun q => { q with notice := none }).emit (.control p 6 "QUIET" 0)) := by
  have ha' : (portSt (s.upto t) p).notice = some a := ha
  have hdue' : a + 10000 ≤ (s.upto t).now := hdue
  change execDownNoticeEnd p t s = _
  simp only [execDownNoticeEnd, ha', if_pos hdue']

/-- Work of the port is left: it goes on flushing. -/
theorem exec_portFlushDone_left (hleft : (s.fab.flights.any fun f => f.req.port.val = p.val) = true) :
    exec (.portFlushDone p t) s = .next (s.upto t) := by
  have hstays : (!(s.upto t).flag (F.SCH_K_STATUS_FLUSHING p.val) || (s.upto t).fab.flights.any (fun f => f.req.port.val = p.val)) = true := by
    change (!s.flag (F.SCH_K_STATUS_FLUSHING p.val) || s.fab.flights.any (fun f => f.req.port.val = p.val)) = true
    rw [hleft, Bool.or_true]
  exact congrArg Host.Outcome.next (if_pos hstays)

/-- None of the port's work is left: it may leave DOWN. -/
theorem exec_portFlushDone_done (hflushing : s.flag (F.SCH_K_STATUS_FLUSHING p) = true)
    (hnone : (s.fab.flights.any fun f => f.req.port.val = p.val) = false) :
    exec (.portFlushDone p t) s = .next (tryLinking ((s.upto t).setFlag (F.SCH_K_STATUS_FLUSHING p) false) p) := by
  have hdone : ¬ (!(s.upto t).flag (F.SCH_K_STATUS_FLUSHING p.val) || (s.upto t).fab.flights.any (fun f => f.req.port.val = p.val)) = true := by
    change ¬ (!s.flag (F.SCH_K_STATUS_FLUSHING p.val) || s.fab.flights.any (fun f => f.req.port.val = p.val)) = true
    rw [hnone, hflushing]
    decide
  exact congrArg Host.Outcome.next (if_neg hdone)

end

/-- A port that may leave DOWN links, and waits there for the links that it needs (R494). -/
theorem tryLinking_waits {s : State} {p : Nat} (hst : s.get (F.KZP_STATUS_STATE p) = 0) (hen : s.flag (F.KZP_CTRL_EN p) = true)
    (hflushed : s.flag (F.SCH_K_STATUS_FLUSHING p) = false) (hmay : portsMayRun s = true) (hkept : s.comp.retired.contains (.port, p) = false)
    (hclk : portClocked s p = true) (hlit : ∃ l ∈ sixLinks, linkSt s p l ≠ 0) (hfew : linkSetSize s p < s.get (F.KZP_CTRL_MIN_LINKS p)) :
    (tryLinking s p).get (F.KZP_STATUS_STATE p) = 1 := by
  have hlinks : ¬ (sixLinks.all fun l => linkSt s p l = 0) = true := by simpa using hlit
  unfold tryLinking
  rw [if_neg (by simp only [hst, hen, hflushed, hmay, hkept, hclk, hlinks]; simp)]
  dsimp only
  set q := (setPort (takeLimits s p) p fun x => { x with cxl := s.flag (F.KZP_CTRL_PERSONALITY p) }).set (F.KZP_STATUS_STATE p) 1 with hq
  have hmin : q.get (F.KZP_CTRL_MIN_LINKS p) = s.get (F.KZP_CTRL_MIN_LINKS p) := State.get_set_ne _ _ (by simp)
  have hsize : linkSetSize q p = linkSetSize s p := linkSetSize_congr (State.get_set_ne _ _ (by simp))
  have hinit : tryInit q p = q := if_pos (.inr (by rw [hsize, hmin]; exact hfew))
  refine (congrArg (fun u : State => u.get (F.KZP_STATUS_STATE p)) hinit).trans ?_
  exact State.get_set_same _ _ _

section
variable {s : State} {p : Fin 6} {t : Nat}

theorem portInit_comesUp {x : InitData} (hst : s.get (F.KZP_STATUS_STATE p) = 2) (hr : initRefused s p x = none) :
    Gives (.portInit p x t) s fun u =>
      u.get (F.KZP_STATUS_STATE p) = 3 ∧ u.get (F.KZP_PEER_PEER_ID p) = x.peer.toNat ∧
      u.get (F.KZP_STATUS_SESSION p) = (s.get (F.KZP_STATUS_SESSION p) + 1) % 65536 ∧
      (portSt u p).tags = x.tags.val ∧ (portSt u p).msn0 = 0 ∧ (portSt u p).msn1 = 0 ∧ u.store = s.store := by
  obtain ⟨hup, hpeer, hsession⟩ := portCame_get (s.upto t) p x
  refine ⟨_, exec_portInit_accepted hst hr, ?_⟩
  have hport := (portSt_congr (congrArg Ports.ports (State.emit_ports (portCame (s.upto t) p x) (.control p 6 "INIT"
    ((portCame (s.upto t) p x).get (F.KZP_STATUS_SESSION p))))) p).trans (portSt_portCame (s.upto t) p x)
  simp only [State.emit_get, State.emit_store, hport, true_and]
  exact ⟨hup, hpeer, hsession, rfl⟩

theorem portInit_refuses {x : InitData} {r : Nat} (hst : s.get (F.KZP_STATUS_STATE p) = 2) (hr : initRefused s p x = some r) :
    Gives (.portInit p x t) s fun u =>
      u.get (F.KZP_STATUS_STATE p) = 2 ∧ u.get (F.KZP_STATUS_REASON p) = r ∧ u.store = s.store := by
  refine ⟨_, exec_portInit_refused hst hr, ?_, (State.get_set_same _ _ _).trans (Nat.mod_eq_of_lt (initRefused_lt hr)), rfl⟩
  exact (State.get_set_ne _ _ (by simp)).trans ((State.get_set_ne _ _ (by simp)).trans hst)

theorem downNoticeEnd_ends {a : Nat} (ha : (portSt s p).notice = some a) (hdue : a + 10000 ≤ max s.now t) : Gives (.downNoticeEnd p t) s fun u =>
    (portSt u p).notice = none ∧ u.out = s.out ++ [.control p 6 "QUIET" 0] ∧ u.regs = s.regs :=
  ⟨_, exec_downNoticeEnd_due ha hdue, congrArg PortSt.notice (portSt_setPort_same (s.upto t) p fun q => { q with notice := none }), rfl, rfl⟩

theorem exec_portSilence_due (hst : s.get (F.KZP_STATUS_STATE p) = 3) (hdue : (portSt s p).flitAt + 100000 ≤ max s.now t) :
    exec (.portSilence p t) s = .next (goDown (s.upto t) p 4 true) := congrArg Host.Outcome.next (if_pos ⟨hst, hdue⟩)

variable {en : Bool} (hopen : PortOpen s)
include hopen

theorem exec_portEnable_same (hen : s.flag (F.KZP_CTRL_EN p) = en) : exec (.portEnable p en t) s = .next (answeredState (s.upto t)) := by
  have hsame : ((answeredState (s.upto t)).flag (F.KZP_CTRL_EN p) == en) = true := beq_iff_eq.2 hen
  exact (exec_portEnable_open hopen en).trans (congrArg Host.Outcome.next (if_pos hsame))

theorem exec_portEnable_other (hen : s.flag (F.KZP_CTRL_EN p) = !en) :
    exec (.portEnable p en t) s = .next (enablePort (answeredState (s.upto t)) p en) := by
  have hother : ¬ ((answeredState (s.upto t)).flag (F.KZP_CTRL_EN p) == en) = true := by
    rw [answeredState_flag, State.upto_flag, hen]
    simp
  exact (exec_portEnable_open hopen en).trans (congrArg Host.Outcome.next (if_neg hother))

end

/-- Settles O23: the states of links, laser modules and ports. -/
theorem linksAndPortsChangeState : Obligations.LinksAndPortsChangeState :=
  ⟨fun _ _ _ _ => ⟨linkLight_trains, laneLockLoss_trains, flitSilence_trains, fun _ => exec_flitSilence_early, linkRetrain_trains,
      linkRetire_retires, linkReturn_lights, linkTrainingDone_active, fun _ hst hdue =>
      ⟨linkTrainTimeout_half hst hdue, fun hs => linkTrainTimeout_fails hs hst hdue⟩⟩,
    fun _ _ _ => ⟨fun _ hst hclk => ⟨lsmPresent_accepted hst hclk, lsmPresent_refused hst hclk⟩, laserModuleReady_lights,
      fun _ hst => ⟨exec_lsmPoll_passes hst, exec_lsmPoll_fails hst⟩⟩,
    fun _ _ _ => ⟨fun _ hst => ⟨portInit_comesUp hst, fun _ => portInit_refuses hst⟩, exec_portSilence_due, fun _ => exec_portDown_some,
      exec_portDown_none, fun _ => downNoticeEnd_ends, exec_portFlushDone_done, exec_portFlushDone_left,
      fun _ hopen => ⟨exec_portEnable_same hopen, exec_portEnable_other hopen⟩, tryLinking_waits⟩⟩

end Sys2Proof.Machine
end

section
/-! SUPPORT. Flits, CONTROL flits, crypto frames and keys of a link in service (spec/12, R475 to R490, R493, R614). -/

namespace Sys2Proof.Machine

open Sys2Proof

/-! ### DATA flits (R475 to R478) -/

/-- The codewords that a flit touches are counted, corrected and uncorrectable. -/
def fecCounted (s : State) (p l corr uncorr : Nat) : State :=
  (s.bump (F.KZP_L_ERRS_FEC_CORR p l) corr).bumpSat (F.KZP_L_ERRS_FEC_UNCORR p l) uncorr

theorem flitFails_fecCounted (s : State) (p l corr uncorr : Nat) (b : List Byte) :
    flitFails (fecCounted s p l corr uncorr) p uncorr b = flitFails s p uncorr b := by
  have hsession : (fecCounted s p l corr uncorr).get (F.KZP_STATUS_SESSION p) = s.get (F.KZP_STATUS_SESSION p) :=
    (State.get_bumpSat_ne _ _ (by simp; omega)).trans (State.get_bump_ne _ _ (by simp; omega))
  simp only [flitFails, hsession]

theorem linkOf_flitSeen (s : State) (p l : Nat) : linkOf (flitSeen s p l) p l = { linkOf s p l with flitAt := s.now } := by
  rw [flitSeen, linkOf_setPort, linkOf_setLink_same]

/-- The state once the flit with the next FSN has been accepted. -/
def flitTaken (s : State) (p l : Nat) : State := setLink (flitSeen s p l) p l fun x => { x with rxNext := (x.rxNext + 1) % 4096 }

theorem not_linkOff_upto {s : State} {p l : Nat} (hon : linkOn s p l = true) (t : Nat) : ¬ (!linkOn (s.upto t) p l) = true := by
  change ¬ (!linkOn s p l) = true
  simp [hon]

section
variable {s : State} {p l : Fin 6} {t corr uncorr : Nat} {b : List Byte} (hon : linkOn s p l = true) (hdata : bits (flitHead b) 0 2 = 1)
include hon hdata

/-- A DATA flit that fails is answered with a NAK of the last FSN in order. -/
theorem exec_flitReceive_fails (hfails : flitFails s p uncorr b = true) : exec (.flitReceive p l corr uncorr b t) s =
    .next ((fecCounted (s.upto t) p l corr uncorr).emit (.control p l "NAK" (ackFsn s p l))) := by
  have hfails' : flitFails (fecCounted (s.upto t) p l corr uncorr) p uncorr b = true := (flitFails_fecCounted _ _ _ _ _ _).trans hfails
  change execFlitReceive p l corr uncorr b t s = _
  unfold execFlitReceive
  dsimp only
  rw [if_neg (not_linkOff_upto hon t), ← fecCounted, if_pos hfails', if_pos hdata]
  rfl

/-- A sound DATA flit with the next FSN is accepted and acknowledged. -/
theorem exec_flitReceive_next (hsound : flitFails s p uncorr b = false) (hnext : bits (flitHead b) 2 12 = (linkOf s p l).rxNext) :
    exec (.flitReceive p l corr uncorr b t) s = .next ((flitTaken (fecCounted (s.upto t) p l corr uncorr) p l).emit
      (.control p l "ACK" (ackFsn (flitTaken (fecCounted (s.upto t) p l corr uncorr) p l) p l))) := by
  have hsound' : ¬ flitFails (fecCounted (s.upto t) p l corr uncorr) p uncorr b = true := by
    rw [flitFails_fecCounted]
    exact Bool.eq_false_iff.1 hsound
  have hnext' : bits (flitHead b) 2 12 = (linkOf (fecCounted (s.upto t) p l corr uncorr) p l).rxNext := hnext
  change execFlitReceive p l corr uncorr b t s = _
  unfold execFlitReceive
  dsimp only
  rw [if_neg (not_linkOff_upto hon t), ← fecCounted, if_neg hsound', if_neg (not_not_intro hdata), if_pos hnext']
  rfl

end

theorem linkOf_flitTaken (s : State) (p l : Nat) :
    linkOf (flitTaken s p l) p l = { linkOf s p l with flitAt := s.now, rxNext := ((linkOf s p l).rxNext + 1) % 4096 } := by
  rw [flitTaken, linkOf_setLink_same, linkOf_flitSeen]

/-! ### CONTROL flits (R483 to R485, R496) -/

/-- The state once a CONTROL flit's acknowledgement, MARK_COUNT and credits have been taken. -/
def ctlTaken (s : State) (p l : Nat) (x : CtlFlit) : State :=
  let next := (x.ack.val + 1) % 4096
  let s := setLink (flitSeen s p l) p l fun k => if k.acked = next then k else { k with acked := next, again := 0 }
  let s := if x.mark then setLink s p l fun k => { k with marks := x.markCount.toNat } else s
  setPort s p fun q => { q with credits := addCredits q.credits x.credits.toNat }

section
variable (s : State) (p l : Nat) (x : CtlFlit)

theorem acked_ctlTaken : (linkOf (ctlTaken s p l x) p l).acked = (x.ack.val + 1) % 4096 := by
  have hacked : ∀ k : Link, (if k.acked = (x.ack.val + 1) % 4096 then k else { k with acked := (x.ack.val + 1) % 4096, again := 0 }).acked =
      (x.ack.val + 1) % 4096 := fun k => by
    split
    case isTrue h => exact h
    case isFalse => rfl
  unfold ctlTaken
  dsimp only
  rw [linkOf_setPort]
  split
  · rw [linkOf_setLink_same, linkOf_setLink_same]
    exact hacked _
  · rw [linkOf_setLink_same]
    exact hacked _

theorem credits_ctlTaken : (portSt (ctlTaken s p l x) p).credits = addCredits (portSt s p).credits x.credits.toNat := by
  have hseen : portSt (flitSeen s p l) p = { portSt s p with flitAt := s.now } := portSt_setPort_same _ _ _
  unfold ctlTaken
  dsimp only
  split <;> simp [hseen]

theorem ctlTaken_store : (ctlTaken s p l x).store = s.store := by
  unfold ctlTaken
  dsimp only
  split <;> simp [flitSeen]

theorem ctlTaken_regs : (ctlTaken s p l x).regs = s.regs := by
  unfold ctlTaken
  dsimp only
  split <;> simp [flitSeen]

end

theorem not_unkeyed_upto {s : State} {p : Nat} (hkeyed : portKeyed s p = true) (t : Nat) : ¬ (!portKeyed (s.upto t) p) = true := by
  change ¬ (!portKeyed s p) = true
  simp [hkeyed]

section
variable {s : State} {p l : Fin 6} {t : Nat} {x : CtlFlit} (hon : linkOn s p l = true)
include hon

/-- Without a key a CONTROL flit shows only that the link is alive (R488). -/
theorem exec_controlFlit_unkeyed (hkeyed : portKeyed s p = false) : exec (.controlFlit p l x t) s = .next (flitSeen (s.upto t) p l) := by
  have hkeyed' : (!portKeyed (s.upto t) p) = true := by
    change (!portKeyed s p) = true
    simp [hkeyed]
  exact congrArg Host.Outcome.next ((if_neg (not_linkOff_upto hon t)).trans (if_pos hkeyed'))

variable (hkeyed : portKeyed s p = true)
include hkeyed

theorem exec_controlFlit_badTag (htag : x.tagOk = false) : exec (.controlFlit p l x t) s = .next (tagFails (s.upto t) p l) :=
  congrArg Host.Outcome.next ((if_neg (not_linkOff_upto hon t)).trans ((if_neg (not_unkeyed_upto hkeyed t)).trans (if_pos (by simp [htag]))))

/-- A sound CONTROL flit without NAK is taken, and takes an UP port down where it says DOWN. -/
theorem exec_controlFlit_taken (htag : x.tagOk = true) (hnak : x.nak = false) : exec (.controlFlit p l x t) s =
    .next (if x.down && (ctlTaken (s.upto t) p l x).get (F.KZP_STATUS_STATE p) == 3 then goDown (ctlTaken (s.upto t) p l x) p 3 true
      else ctlTaken (s.upto t) p l x) := by
  change execControlFlit p l x t s = _
  unfold execControlFlit
  dsimp only
  rw [if_neg (not_linkOff_upto hon t), if_neg (not_unkeyed_upto hkeyed t), if_neg (by simp [htag]), hnak]
  rfl

end

/-! ### Crypto frames and keys (R486, R487, R490, R614) -/

/-- The state once a frame has verified: the link's COUNTER moves on, the first frame in the other key slot brings the next generation (R490), and the
messages are handed on (R480). -/
def frameTaken (s : State) (p l : Nat) (x : Frame0) : State :=
  let turn := x.slot != (linkOf s p l).rxSlot
  let s := setLink s p l fun k => { k with rxCtr := x.counter.toNat + 1, rxSlot := x.slot, rxGen := if turn then k.rxGen + 1 else k.rxGen }
  let s := if turn then s.bump (F.KZP_CRYPTO_REKEYS p) else s
  setPort s p fun q => x.msgs.foldl takeMsn q

section
variable (s : State) (p l : Nat) (x : Frame0)

theorem linkOf_frameTaken : linkOf (frameTaken s p l x) p l = { linkOf s p l with
    rxCtr := x.counter.toNat + 1, rxSlot := x.slot,
    rxGen := if x.slot = (linkOf s p l).rxSlot then (linkOf s p l).rxGen else (linkOf s p l).rxGen + 1 } := by
  unfold frameTaken
  dsimp only
  rw [linkOf_setPort]
  by_cases hslot : x.slot = (linkOf s p l).rxSlot
  · have hturn : ¬ (x.slot != (linkOf s p l).rxSlot) = true := by simp [hslot]
    simp only [if_neg hturn, if_pos hslot, linkOf_setLink_same]
  · have hturn : (x.slot != (linkOf s p l).rxSlot) = true := by simp [hslot]
    simp only [if_pos hturn, if_neg hslot]
    exact linkOf_setLink_same s p l fun k => { k with rxCtr := x.counter.toNat + 1, rxSlot := x.slot, rxGen := k.rxGen + 1 }

theorem portSt_frameTaken : portSt (frameTaken s p l x) p = x.msgs.foldl takeMsn (portSt s p) := by
  unfold frameTaken
  dsimp only
  rw [portSt_setPort_same]
  split <;> rfl

end

/-- Is a frame one that R487 drops: its COUNTER is below the last one's in the same key slot? -/
def frameStale (s : State) (p l : Nat) (x : Frame0) : Prop := x.slot = (linkOf s p l).rxSlot ∧ x.counter.toNat < (linkOf s p l).rxCtr

theorem frameStale_iff {s : State} {p l : Nat} {x : Frame0} :
    (!(x.slot != (linkOf s p l).rxSlot) && decide (x.counter.toNat < (linkOf s p l).rxCtr)) = true ↔ frameStale s p l x := by
  simp [frameStale]

section
variable {s : State} {p l : Fin 6} {t : Nat} {x : Frame0} (hon : linkOn s p l = true) (hkeyed : portKeyed s p = true)
include hon hkeyed

theorem not_frameBarred_upto : ¬ (!linkOn (s.upto t) p l || !portKeyed (s.upto t) p) = true := by
  change ¬ (!linkOn s p l || !portKeyed s p) = true
  simp [hon, hkeyed]

theorem exec_cryptoFrame_stale (hstale : frameStale s p l x) : exec (.cryptoFrame p l x t) s = .next (s.upto t) := by
  have hstale' : frameStale (s.upto t) p l x := hstale
  change execCryptoFrame p l x t s = _
  unfold execCryptoFrame
  dsimp only
  rw [if_neg (not_frameBarred_upto hon hkeyed), if_pos (frameStale_iff.2 hstale')]

variable (hfresh : ¬ frameStale s p l x)
include hfresh

/-- A frame that does not verify is counted, and answered with a NAK before its first flit (R489). -/
theorem exec_cryptoFrame_bad (hbad : x.good = false) : exec (.cryptoFrame p l x t) s =
    .next ((tagFails (s.upto t) p l).emit (.control p l "NAK" ((x.first.val + 4095) % 4096))) := by
  have hfresh' : ¬ frameStale (s.upto t) p l x := hfresh
  change execCryptoFrame p l x t s = _
  unfold execCryptoFrame
  dsimp only
  rw [if_neg (not_frameBarred_upto hon hkeyed), if_neg (mt frameStale_iff.1 hfresh'), if_pos (by simp [hbad])]

theorem exec_cryptoFrame_good (hgood : x.good = true) : exec (.cryptoFrame p l x t) s = .next (frameTaken (s.upto t) p l x) := by
  have hfresh' : ¬ frameStale (s.upto t) p l x := hfresh
  change execCryptoFrame p l x t s = _
  unfold execCryptoFrame
  dsimp only
  rw [if_neg (not_frameBarred_upto hon hkeyed), if_neg (mt frameStale_iff.1 hfresh'), if_neg (by simp [hgood])]
  rfl

end

/-- The state once the transmit COUNTER of a link has been noted. -/
def counterNoted (s : State) (p l c : Nat) : State := s.set (F.KZP_L_STATUS_TX_COUNTER_HI p l) (c / 2 ^ 24)

/-- The state once a link has turned to its next key. -/
def keyTurned (s : State) (p l : Nat) : State :=
  ((setLink s p l fun k => { k with txGen := k.txGen + 1, txSlot := !k.txSlot }).bump (F.KZP_CRYPTO_REKEYS p)).set (F.KZP_L_STATUS_TX_COUNTER_HI p l) 0

section
variable {s : State} {p l : Fin 6} {t : Nat} {c : BitVec 63}

theorem rekeyLog2_counterNoted (s : State) (p l c : Nat) : (counterNoted s p l c).get (F.KZP_CTRL_REKEY_LOG2 p) = s.get (F.KZP_CTRL_REKEY_LOG2 p) :=
  State.get_set_ne _ _ (by simp; omega)

theorem linkOn_counterNoted (s : State) (p l c : Nat) : linkOn (counterNoted s p l c) p l = linkOn s p l := by
  have hst : linkSt (counterNoted s p l c) p l = linkSt s p l := State.get_set_ne _ _ (by simp)
  rw [linkOn, linkOn, hst]

variable (hon : linkOn s p l = true)
include hon

/-- A COUNTER below the limit is noted. -/
theorem exec_rekey_below (hbelow : c.toNat < 2 ^ s.get (F.KZP_CTRL_REKEY_LOG2 p)) :
    exec (.rekey p l c t) s = .next (counterNoted (s.upto t) p l c.toNat) := by
  have hon' : linkOn (s.upto t) p l = true := hon
  change execRekey p l c t s = _
  unfold execRekey
  dsimp only
  rw [if_pos hon']
  refine congrArg Host.Outcome.next (if_pos ?_)
  rw [← counterNoted, rekeyLog2_counterNoted]
  simp [hbelow]

/-- A COUNTER at the limit turns the link to its next key, where the port holds keys. -/
theorem exec_rekey_reached (hkeyed : portKeyed s p = true) (hreached : 2 ^ s.get (F.KZP_CTRL_REKEY_LOG2 p) ≤ c.toNat) :
    exec (.rekey p l c t) s = .next (keyTurned (counterNoted (s.upto t) p l c.toNat) p l) := by
  have hon' : linkOn (s.upto t) p l = true := hon
  have hkeyed' : portKeyed (counterNoted (s.upto t) p l c.toNat) p = true := hkeyed
  change execRekey p l c t s = _
  unfold execRekey
  dsimp only
  rw [if_pos hon']
  refine congrArg Host.Outcome.next ((if_neg ?_).trans (if_pos hkeyed'))
  rw [← counterNoted, rekeyLog2_counterNoted, linkOn_counterNoted, hon']
  exact fun h => Nat.not_lt.2 hreached (of_decide_eq_true h)

end

section
variable (s : State) (p l : Nat)

theorem linkOf_keyTurned : linkOf (keyTurned s p l) p l = { linkOf s p l with txGen := (linkOf s p l).txGen + 1, txSlot := !(linkOf s p l).txSlot } :=
  linkOf_setLink_same s p l fun k => { k with txGen := k.txGen + 1, txSlot := !k.txSlot }

theorem rekeys_keyTurned : (keyTurned s p l).get (F.KZP_CRYPTO_REKEYS p) = (s.get (F.KZP_CRYPTO_REKEYS p) + 1) % 65536 :=
  (State.get_set_ne _ _ (by simp; omega)).trans (State.get_bump_same _ _ _)

end

/-! ### Haze of a link (R493) -/

/-- The outcome of one millisecond of a link's Haze test. -/
def linkHaze (s : State) (p l median peers : Nat) : HazeRun × Option Bool :=
  hazeStep s (linkOf s p l).haze (s.get F.KZP_HAZE_CFG_RATIO) (s.get F.KZP_HAZE_CFG_WINDOW_MS) (s.get F.KZP_HAZE_CFG_EXIT_MS)
    (s.get F.KZP_HAZE_CFG_EXIT_RATIO) median peers

/-- The state once a link's Haze run has been noted. -/
def linkHazeNoted (s : State) (p l : Nat) (h : HazeRun) : State := setLink s p l fun x => { x with haze := h }

section
variable {s : State} {p l : Fin 6} {median peers t : Nat} (hon : linkOn s p l = true)
include hon

theorem exec_linkHazeCheck_enters (h : (linkHaze (s.upto t) p l median peers).2 = some true) : exec (.linkHazeCheck p l median peers t) s =
    .next (hazeEvent (leaveSet (setLinkSt (linkHazeNoted (s.upto t) p l (linkHaze (s.upto t) p l median peers).1) p l 4) p l) true 2
      (linkKey p l)) := by
  refine congrArg Host.Outcome.next ((if_neg (not_linkOff_upto hon t)).trans ?_)
  change (match (linkHaze (s.upto t) p l median peers).2 with | none => _ | some true => _ | some false => _) = _
  rw [h]
  rfl

theorem exec_linkHazeCheck_leaves (h : (linkHaze (s.upto t) p l median peers).2 = some false) : exec (.linkHazeCheck p l median peers t) s =
    .next (hazeEvent (joinSet (setLinkSt (linkHazeNoted (s.upto t) p l (linkHaze (s.upto t) p l median peers).1) p l 3) p l) false 2
      (linkKey p l)) := by
  refine congrArg Host.Outcome.next ((if_neg (not_linkOff_upto hon t)).trans ?_)
  change (match (linkHaze (s.upto t) p l median peers).2 with | none => _ | some true => _ | some false => _) = _
  rw [h]
  rfl

end

theorem hazeEvent_get {f : Fld} (hf : portKeys ≤ f.key) (s : State) (enter : Bool) (ty inst : Nat) : (hazeEvent s enter ty inst).get f = s.get f :=
  postRas_get_of_port hf _ _ _ _ _

/-- A link that enters Haze is HAZY and out of the link set. -/
theorem hazeEntered {s : State} {p l : Nat} (hs : StaysUp s p) (hl : l < 6) (ty inst : Nat) :
    let u := hazeEvent (leaveSet (setLinkSt s p l 4) p l) true ty inst
    linkSt u p l = 4 ∧ bits (u.get (F.KZP_STATUS_HAZY p)) l 1 = 1 ∧ bits (u.get (F.KZP_STATUS_LINK_SET p)) l 1 = 0 := by
  refine ⟨?_, ?_, ?_⟩
  · refine (hazeEvent_get (portKeys_le_linkState p l) _ _ _ _).trans ?_
    exact (leaveSet_get (staysUp_setLinkSt hs) (by simp; omega)).trans (linkSt_setLinkSt (by decide))
  · rw [hazeEvent_get (portKeys_le_hazy p), leaveSet_get (staysUp_setLinkSt hs) (by simp)]
    exact (bits_hazy_setLinkSt hl).trans (if_pos rfl)
  · rw [hazeEvent_get (portKeys_le_linkSet p)]
    exact bits_linkSet_leaveSet (staysUp_setLinkSt hs) hl

/-- A link that leaves Haze is ACTIVE and in the link set. -/
theorem hazeLeft {s : State} {p l : Nat} (hl : l < 6) (ty inst : Nat) :
    let u := hazeEvent (joinSet (setLinkSt s p l 3) p l) false ty inst
    linkSt u p l = 3 ∧ bits (u.get (F.KZP_STATUS_HAZY p)) l 1 = 0 ∧ bits (u.get (F.KZP_STATUS_LINK_SET p)) l 1 = 1 := by
  refine ⟨?_, ?_, ?_⟩
  · refine (hazeEvent_get (portKeys_le_linkState p l) _ _ _ _).trans ?_
    exact (joinSet_get (by simp; omega) (by simp; omega) (by simp [linkingKeys]; omega)).trans (linkSt_setLinkSt (by decide))
  · rw [hazeEvent_get (portKeys_le_hazy p), joinSet_get (by simp) (by simp) (by simp [linkingKeys])]
    exact (bits_hazy_setLinkSt hl).trans (if_neg (by decide))
  · rw [hazeEvent_get (portKeys_le_linkSet p)]
    exact bits_linkSet_joinSet hl

/-! ### What the commands leave (R475 to R490, R614) -/

section
variable {s : State} {p l : Fin 6} {t : Nat} (hon : linkOn s p l = true)
include hon

theorem flitReceive_accepts {corr uncorr : Nat} {b : List Byte} (hdata : bits (flitHead b) 0 2 = 1) (hsound : flitFails s p uncorr b = false)
    (hnext : bits (flitHead b) 2 12 = (linkOf s p l).rxNext) : Gives (.flitReceive p l corr uncorr b t) s fun u =>
      (linkOf u p l).rxNext = ((linkOf s p l).rxNext + 1) % 4096 ∧ (linkOf u p l).flitAt = max s.now t ∧
      u.out = s.out ++ [.control p l "ACK" ((((linkOf s p l).rxNext + 1) % 4096 + 4095) % 4096)] := by
  have htaken := linkOf_flitTaken (fecCounted (s.upto t) p l corr uncorr) p l
  refine ⟨_, exec_flitReceive_next hon hdata hsound hnext, congrArg Link.rxNext htaken, congrArg Link.flitAt htaken, ?_⟩
  rw [State.emit_out, ackFsn, htaken]
  rfl

theorem controlFlit_takes {x : CtlFlit} (hkeyed : portKeyed s p = true) (htag : x.tagOk = true) (hnak : x.nak = false) (hdown : x.down = false) :
    Gives (.controlFlit p l x t) s fun u =>
      (linkOf u p l).acked = (x.ack.val + 1) % 4096 ∧ (portSt u p).credits = addCredits (portSt s p).credits x.credits.toNat ∧
      u.store = s.store ∧ u.regs = s.regs := by
  have hexec := (exec_controlFlit_taken (t := t) hon hkeyed htag hnak).trans (congrArg Host.Outcome.next (if_neg (by simp [hdown])))
  exact ⟨_, hexec, acked_ctlTaken _ _ _ _, credits_ctlTaken _ _ _ _, ctlTaken_store _ _ _ _, ctlTaken_regs _ _ _ _⟩

theorem controlFlit_downs {x : CtlFlit} (hkeyed : portKeyed s p = true) (htag : x.tagOk = true) (hnak : x.nak = false) (hdown : x.down = true)
    (hup : s.get (F.KZP_STATUS_STATE p) = 3) : Gives (.controlFlit p l { x with down := false } t) s fun q =>
      exec (.controlFlit p l x t) s = .next (goDown q p 3 true) := by
  have hup' : (ctlTaken (s.upto t) p l x).get (F.KZP_STATUS_STATE p) = 3 := (State.get_of_regs (ctlTaken_regs _ _ _ _) _).trans hup
  have htaken := exec_controlFlit_taken (x := { x with down := false }) (t := t) hon hkeyed htag hnak
  refine ⟨ctlTaken (s.upto t) p l x, htaken.trans (congrArg Host.Outcome.next (if_neg (by simp))), ?_⟩
  exact (exec_controlFlit_taken hon hkeyed htag hnak).trans (congrArg Host.Outcome.next (if_pos (by simp [hdown, hup'])))

theorem cryptoFrame_verifies {x : Frame0} (hkeyed : portKeyed s p = true) (hgood : x.good = true) (hfresh : ¬ frameStale s p l x) :
    Gives (.cryptoFrame p l x t) s fun u =>
      (linkOf u p l).rxCtr = x.counter.toNat + 1 ∧ (linkOf u p l).rxSlot = x.slot ∧
      (linkOf u p l).rxGen = (if x.slot = (linkOf s p l).rxSlot then (linkOf s p l).rxGen else (linkOf s p l).rxGen + 1) ∧
      portSt u p = x.msgs.foldl takeMsn (portSt s p) := by
  have hlink := linkOf_frameTaken (s.upto t) p l x
  exact ⟨_, exec_cryptoFrame_good hon hkeyed hfresh hgood, congrArg Link.rxCtr hlink, congrArg Link.rxSlot hlink, congrArg Link.rxGen hlink,
    portSt_frameTaken _ _ _ _⟩

theorem rekey_turns {c : BitVec 63} (hkeyed : portKeyed s p = true) (hreached : 2 ^ s.get (F.KZP_CTRL_REKEY_LOG2 p) ≤ c.toNat) :
    Gives (.rekey p l c t) s fun u =>
      (linkOf u p l).txGen = (linkOf s p l).txGen + 1 ∧ (linkOf u p l).txSlot = (!(linkOf s p l).txSlot) ∧
      u.get (F.KZP_CRYPTO_REKEYS p) = (s.get (F.KZP_CRYPTO_REKEYS p) + 1) % 65536 := by
  have hlink := linkOf_keyTurned (counterNoted (s.upto t) p l c.toNat) p l
  refine ⟨_, exec_rekey_reached hon hkeyed hreached, congrArg Link.txGen hlink, congrArg Link.txSlot hlink, (rekeys_keyTurned _ _ _).trans ?_⟩
  rw [counterNoted, State.get_set_ne _ _ (by simp; omega), State.upto_get]

theorem rekey_notes {c : BitVec 63} (hbelow : c.toNat < 2 ^ s.get (F.KZP_CTRL_REKEY_LOG2 p)) : Gives (.rekey p l c t) s fun u =>
    linkOf u p l = linkOf s p l ∧ u.get (F.KZP_L_STATUS_TX_COUNTER_HI p l) = c.toNat / 2 ^ 24 := by
  have hc : c.toNat / 2 ^ 24 < 2 ^ 40 := Nat.div_lt_of_lt_mul (lt_of_lt_of_le c.isLt (by decide))
  exact ⟨_, exec_rekey_below hon hbelow, rfl, (State.get_set_same _ _ _).trans (Nat.mod_eq_of_lt hc)⟩

end

/-- Settles O24: flits, CONTROL flits, crypto frames, keys and the Haze test of a link in service. -/
theorem flitsAndFramesReceived : Obligations.FlitsAndFramesReceived := by
  intro s p l t hon
  have hfresh : ∀ {x : Frame0}, x.slot ≠ (linkOf s p l).rxSlot ∨ (linkOf s p l).rxCtr ≤ x.counter.toNat → ¬ frameStale s p l x :=
    fun h hstale => h.elim (fun hslot => hslot hstale.1) (Nat.not_le.2 hstale.2)
  exact ⟨fun corr uncorr b hdata => ⟨fun hfails => ⟨_, exec_flitReceive_fails hon hdata hfails, rfl, rfl⟩, flitReceive_accepts hon hdata⟩,
    fun x hkeyed => ⟨exec_controlFlit_badTag hon hkeyed, controlFlit_takes hon hkeyed, controlFlit_downs hon hkeyed⟩,
    fun x => exec_controlFlit_unkeyed hon,
    fun x hkeyed => ⟨fun hslot hctr => exec_cryptoFrame_stale hon hkeyed ⟨hslot, hctr⟩,
      fun hgood h => cryptoFrame_verifies hon hkeyed hgood (hfresh h), fun hbad h => exec_cryptoFrame_bad hon hkeyed (hfresh h) hbad⟩,
    fun c => rekey_turns hon, fun c => rekey_notes hon,
    fun median peers _ hhazy hs habove hwindow =>
      ⟨_, exec_linkHazeCheck_enters hon (hazeStep_enters (s := s.upto t) hhazy habove hwindow),
        hazeEntered (s := linkHazeNoted (s.upto t) p l _) hs l.isLt _ _⟩,
    fun median peers _ hhazy hbelow hexit =>
      ⟨_, exec_linkHazeCheck_leaves hon (hazeStep_leaves (s := s.upto t) hhazy hbelow hexit), hazeLeft l.isLt _ _⟩⟩

end Sys2Proof.Machine
end

section
/-! SUPPORT. One step of the block (R629), and the commands that clear counters or copy them (R716). -/

namespace Sys2Proof.Machine

open Sys2Proof

/-- Settles O1: `step` branches on the queue, and `idle` on the supply. -/
theorem stepRunsFrontOrTicks : Obligations.StepRunsFrontOrTicks := by
  refine ⟨fun s c rest => rfl, fun s hpending => ⟨fun hon => ?_, fun hoff => ?_⟩⟩
  · simp [step, idle, hpending, hon]
  · simp [step, idle, hpending, hoff]

/-! ### Fields set to zero together -/

/-- The state with some fields set to zero. -/
def zeroed (s : State) (fs : List Fld) : State := fs.foldl (fun u f => u.set f 0) s

theorem zeroed_onlyFields (s : State) (fs : List Fld) : OnlyFields (fs.map Fld.key) s (zeroed s fs) :=
  List.foldlRecOn fs _ (OnlyFields.refl _ s) fun _ h f hf => h.set f 0 (List.mem_map_of_mem hf)

/-- A field that reads zero still does once any field whose reset value is zero is set to zero. -/
theorem get_set_zero {s : State} {f g : Fld} (hf : f.reset = 0) (hg : g.reset = 0) (h : s.get f = 0) : (s.set g 0).get f = 0 := by
  by_cases hkey : f.key = g.key
  · simp [State.get, State.set, hf, hg, hkey]
  · rw [State.get_set_ne s 0 hkey, h]

theorem zeroed_get {fs : List Fld} (hfs : ∀ f ∈ fs, f.reset = 0) : ∀ (s : State), ∀ f ∈ fs, (zeroed s fs).get f = 0 := by
  have hkeeps : ∀ {f : Fld}, f.reset = 0 → ∀ gs : List Fld, (∀ g ∈ gs, g.reset = 0) → ∀ u : State, u.get f = 0 → (zeroed u gs).get f = 0 :=
    fun hf gs hgs u hu => List.foldlRecOn (motive := fun v : State => v.get _ = 0) gs _ hu fun _ hv g hg => get_set_zero hf (hgs g hg) hv
  induction fs with
  | nil => simp
  | cons g fs ih =>
    intro s f hmem
    rcases List.mem_cons.1 hmem with rfl | hmem
    · exact hkeeps (hfs f List.mem_cons_self) fs (fun x hx => hfs x (List.mem_cons_of_mem _ hx)) _ (by simp)
    · exact ih (fun x hx => hfs x (List.mem_cons_of_mem _ hx)) _ f hmem

/-- A command that sets some counters to zero while the port is open. -/
theorem gives_zeroed {c : Instr} {s : State} {fs : List Fld} (he : exec c s = .next (zeroed (answeredState s) fs))
    (hfs : ∀ f ∈ fs, f.reset = 0) :
    Gives c s fun u => (∀ f ∈ fs, u.get f = 0) ∧ OnlyFields (fs.map Fld.key) (answeredState s) u :=
  ⟨_, he, zeroed_get hfs _, zeroed_onlyFields _ fs⟩

/-- The counters that each of the commands clears. -/
def clearedBy : Instr → List Fld
  | .ddrClrCounts d => [F.DDR_D_ECC_CORRECTED d, F.DDR_D_ECC_UNCORRECTED d]
  | .hbmClrCounts m => [F.HBM_H_ECC_CORRECTED m, F.HBM_H_ECC_UNCORRECTED m]
  | .touchMaxClear n => [F.TIER_S_TOUCH_MAX_MAX_NS n]
  | .anvFlagClear p => [F.ANV_K_FLAG_MAX_NS p, F.ANV_K_FLAG_FAILED p]
  | .tileConflictClear g => [F.TP_T_CONFLICT0_MA g, F.TP_T_CONFLICT0_MB g, F.TP_T_CONFLICT0_ACC g, F.TP_T_CONFLICT0_VLD g,
      F.TP_T_CONFLICT1_VST g, F.TP_T_CONFLICT1_CPY g, F.TP_T_CONFLICT1_SAVE g]
  | _ => []

theorem clearedBy_reset (c : Instr) : ∀ f ∈ clearedBy c, f.reset = 0 := by
  intro f hf
  unfold clearedBy at hf
  split at hf <;> simp only [List.mem_cons, List.not_mem_nil, or_false] at hf
  case h_5 => rcases hf with rfl | rfl | rfl | rfl | rfl | rfl | rfl <;> rfl
  case h_3 => subst hf; rfl
  all_goals rcases hf with rfl | rfl <;> rfl

/-- Settles O7: each clear sets its own counters to zero, and SNAP copies them and notes the time. -/
theorem counterClearsAndSnapshot : Obligations.CounterClearsAndSnapshot := by
  have hclears : ∀ {c : Instr} {s : State}, exec c s = .next (zeroed (answeredState s) (clearedBy c)) →
      Gives c s fun u => (∀ f ∈ clearedBy c, u.get f = 0) ∧ OnlyFields ((clearedBy c).map Fld.key) (answeredState s) u :=
    fun he => gives_zeroed he (clearedBy_reset _)
  have hopen : ∀ {s : State} {go : State → State}, PortOpen s →
      (Host.Outcome.next (mgmtWrite false s go) : Ans) = .next (go (answeredState s)) :=
    fun h => congrArg _ (mgmtWrite_open h _ _)
  refine ⟨fun s h => ⟨fun d => ?_, fun m => ?_, fun n => ?_, fun p => ?_, fun g => ?_⟩, fun s t h => ?_⟩
  · obtain ⟨u, he, hzero, honly⟩ := hclears (c := .ddrClrCounts d) (hopen h)
    exact ⟨u, he, hzero _ (by simp [clearedBy]), hzero _ (by simp [clearedBy]), honly⟩
  · obtain ⟨u, he, hzero, honly⟩ := hclears (c := .hbmClrCounts m) (hopen h)
    exact ⟨u, he, hzero _ (by simp [clearedBy]), hzero _ (by simp [clearedBy]), honly⟩
  · obtain ⟨u, he, hzero, honly⟩ := hclears (c := .touchMaxClear n) (hopen h)
    exact ⟨u, he, hzero _ (by simp [clearedBy]), honly⟩
  · obtain ⟨u, he, hzero, honly⟩ := hclears (c := .anvFlagClear p) (hopen h)
    exact ⟨u, he, hzero _ (by simp [clearedBy]), hzero _ (by simp [clearedBy]), honly⟩
  · exact hclears (c := .tileConflictClear g) (hopen h)
  · refine ⟨_, congrArg Host.Outcome.next (mgmtWrite_open (h.upto t) _ _), rfl, rfl, State.get_set_same _ _ _, fun f hf => ?_⟩
    exact State.get_set_ne _ _ hf

end Sys2Proof.Machine
end

section
/-! SUPPORT. Management messages (spec/18, R705 to R708, R711 to R713): when a binding answers, and what each MCTP, PLDM and vendor command answers. -/

namespace Sys2Proof.Machine

open Sys2Proof

section
variable {s : State} {pcie : Bool}

theorem control_works (h : binding s pcie = true) (go : State → State) : control s pcie go = go s := if_pos h

theorem control_dead (h : binding s pcie = false) (go : State → State) : control s pcie go = s := by simp [control, h]

theorem withEid_works (h : binding s pcie = true) (heid : ownEid s pcie ≠ 0) (go : State → State) : withEid s pcie go = go s := by
  simp [withEid, h, heid]

theorem withEid_unset (heid : ownEid s pcie = 0) (go : State → State) : withEid s pcie go = s := by simp [withEid, heid]

/-! ### MCTP control (R705, R706) -/

/-- The field of a binding's EID. -/
def eidFld (pcie : Bool) : Fld := if pcie then F.MGT_STATUS_EID_PCIE else F.MGT_STATUS_EID_SMBUS

theorem ownEid_eq (s : State) (pcie : Bool) : ownEid s pcie = s.get (eidFld pcie) := rfl

theorem ownEid_set_same (s : State) (pcie : Bool) (e : BitVec 8) : ownEid (s.set (eidFld pcie) e.toNat) pcie = e.toNat := by
  have hwid : (eidFld pcie).wid = 8 := by cases pcie <;> rfl
  rw [ownEid_eq, State.get_set_same, hwid, Nat.mod_eq_of_lt e.isLt]

theorem exec_setEndpointId_taken (h : binding s pcie = true) {e : BitVec 8} (h0 : e ≠ 0) (hff : e ≠ 0xFF) :
    exec (.setEndpointId pcie e) s = .next (respond (s.set (eidFld pcie) e.toNat) pcie "SET_ENDPOINT_ID" 0 [e.toNat]) := by
  refine congrArg Host.Outcome.next ((control_works h _).trans (if_neg ?_))
  exact not_or.2 ⟨h0, hff⟩

theorem exec_setEndpointId_refused (h : binding s pcie = true) {e : BitVec 8} (he : e = 0 ∨ e = 0xFF) :
    exec (.setEndpointId pcie e) s = .next (respond s pcie "SET_ENDPOINT_ID" 1 [ownEid s pcie]) :=
  congrArg Host.Outcome.next ((control_works h _).trans (if_pos he))

theorem exec_getMctpVersionSupport_listed (h : binding s pcie = true) {ty : BitVec 8}
    (hty : [0x00, 0x01, 0x7E, 0xFF].contains ty.toNat = true) :
    exec (.getMctpVersionSupport pcie ty) s = .next (respond s pcie "GET_MCTP_VERSION_SUPPORT" 0 [fixedField 2 ty.toNat]) := by
  refine congrArg Host.Outcome.next ((control_works h _).trans (if_pos ?_))
  rcases (by simpa using hty : ty.toNat = 0 ∨ ty.toNat = 1 ∨ ty.toNat = 0x7E ∨ ty.toNat = 0xFF) with hty | hty | hty | hty
  · exact .inl (by rw [hty]; rfl)
  · exact .inl (by rw [hty]; rfl)
  · exact .inl (by rw [hty]; rfl)
  · exact .inr (BitVec.eq_of_toNat_eq hty)

theorem exec_getMctpVersionSupport_other (h : binding s pcie = true) {ty : BitVec 8}
    (hty : [0x00, 0x01, 0x7E, 0xFF].contains ty.toNat = false) :
    exec (.getMctpVersionSupport pcie ty) s = .next (respond s pcie "GET_MCTP_VERSION_SUPPORT" 1 []) := by
  refine congrArg Host.Outcome.next ((control_works h _).trans (if_neg ?_))
  obtain ⟨h0, h1, h7e, hff⟩ : ty.toNat ≠ 0 ∧ ty.toNat ≠ 1 ∧ ty.toNat ≠ 0x7E ∧ ty.toNat ≠ 0xFF := by simpa using hty
  rintro (hmem | rfl)
  · simp [mctpTypes, h0, h1, h7e] at hmem
  · exact hff rfl

theorem exec_getVendorDefinedMessageSupport_other (h : binding s pcie = true) {k : BitVec 8} (hk : k ≠ 0) :
    exec (.getVendorDefinedMessageSupport pcie k) s = .next (respond s pcie "GET_VENDOR_DEFINED_MESSAGE_SUPPORT" 1 []) :=
  congrArg Host.Outcome.next ((control_works h _).trans (if_neg hk))

end

/-! ### Packets of messages (R706) -/

/-- A packet is for the device: it carries its EID, or the null EID with a control message. -/
def packetMine (s : State) (p : MctpPkt) : Prop := p.dst.toNat = 0 ∧ p.type = 0 ∨ ownEid s p.pcie ≠ 0 ∧ p.dst.toNat = ownEid s p.pcie

/-- A message's first packet, for the device, that comes over a working binding. -/
theorem exec_mctpMessage_first {s : State} {p : MctpPkt} (h : binding s p.pcie = true) (hsom : p.som = true) (hmine : packetMine s p) (t : Nat) :
    exec (.mctpMessage p t) s = .next
      (let q := putAssembly (s.upto t) p none
       if p.type ≠ 0 ∧ p.type ≠ 1 ∧ p.type ≠ 0x7E then dropMsg q true
       else if !p.eom ∧ 4 ≤ q.mgmt.assemblies.length then dropMsg q false
       else assemble q p { pcie := p.pcie, src := p.src.toNat, tag := p.tag.val, type := p.type.toNat, bytes := 0 }) := by
  have h' : binding (s.upto t) p.pcie = true := h
  have hfor : ((p.dst.toNat = 0 && (p.type = 0 || !p.som)) || (ownEid (s.upto t) p.pcie != 0 && p.dst.toNat == ownEid (s.upto t) p.pcie)) =
      true := by
    rcases hmine with ⟨hdst, htype⟩ | ⟨hset, hdst⟩
    · simp [hdst, htype]
    · simp [show ownEid (s.upto t) p.pcie ≠ 0 from hset, show p.dst.toNat = ownEid (s.upto t) p.pcie from hdst]
  refine congrArg Host.Outcome.next ((if_neg ?_).trans (if_pos hsom))
  rw [h', hfor]
  decide

theorem assemblyOf_putAssembly_none (s : State) (p : MctpPkt) : assemblyOf (putAssembly s p none) p = none := by
  simp only [assemblyOf, putAssembly, List.find?_eq_none, Option.toList_none, List.append_nil]
  intro a ha
  have hkept := (List.mem_filter.1 ha).2
  grind

/-- A message of one packet of at most 64 bytes is received. -/
theorem assemble_whole {s : State} {p : MctpPkt} (heom : p.eom = true) (hbytes : p.bytes ≤ 64) (a : Assembly) (ha : a.bytes = 0) :
    assemble s p a = (putAssembly s p none).bump F.MGT_MCTP_STATS_RECEIVED := by
  have hsmall : ¬ (64 < p.bytes ∨ 8192 < a.bytes + p.bytes) := by omega
  simp only [assemble, hsmall, if_false, heom, if_true]

/-- A whole message of a type that the device supports is received, and nothing is dropped. -/
theorem mctpMessage_received {s : State} {p : MctpPkt} (h : binding s p.pcie = true) (hsom : p.som = true) (heom : p.eom = true)
    (hmine : packetMine s p) (htype : p.type = 0 ∨ p.type = 1 ∨ p.type = 0x7E) (hbytes : p.bytes ≤ 64) (t : Nat) :
    Gives (.mctpMessage p t) s fun u =>
      u.get F.MGT_MCTP_STATS_RECEIVED = (s.get F.MGT_MCTP_STATS_RECEIVED + 1) % 2 ^ 32 ∧ assemblyOf u p = none ∧
        u.get F.MGT_MCTP_STATS_DROPPED = s.get F.MGT_MCTP_STATS_DROPPED := by
  have hknown : ¬ (p.type ≠ 0 ∧ p.type ≠ 1 ∧ p.type ≠ 0x7E) := by tauto
  refine ⟨_, exec_mctpMessage_first h hsom hmine t, ?_⟩
  simp only [hknown, if_false, heom, Bool.not_true, Bool.false_eq_true, false_and]
  rw [assemble_whole heom hbytes _ rfl]
  refine ⟨State.get_bump_same _ _ _, assemblyOf_putAssembly_none _ _, State.get_bump_ne _ _ (by decide)⟩

/-- A message of a type that the device does not support is dropped and counted. -/
theorem mctpMessage_dropped {s : State} {p : MctpPkt} (h : binding s p.pcie = true) (hsom : p.som = true) (hmine : packetMine s p)
    (htype : p.type ≠ 0 ∧ p.type ≠ 1 ∧ p.type ≠ 0x7E) (t : Nat) :
    Gives (.mctpMessage p t) s fun u =>
      u.get F.MGT_MCTP_STATS_DROPPED = min (s.get F.MGT_MCTP_STATS_DROPPED + 1) 65535 ∧
        u.get F.MGT_MCTP_STATS_BAD_TYPE = min (s.get F.MGT_MCTP_STATS_BAD_TYPE + 1) 65535 := by
  refine ⟨_, exec_mctpMessage_first h hsom hmine t, ?_⟩
  simp only [htype, ne_eq, not_false_eq_true, and_self, if_true, dropMsg]
  constructor
  · rw [State.get_bumpSat_ne _ _ (by decide)]
    exact State.get_bumpSat_same _ _ _
  · rw [State.get_bumpSat_same, State.get_bumpSat_ne _ _ (by decide)]
    rfl

/-! ### PLDM monitoring (R707, R708) -/

section
variable {s : State} {pcie : Bool} (h : binding s pcie = true) (heid : ownEid s pcie ≠ 0)
include h heid

theorem exec_setTid_taken {i : BitVec 8} (h0 : i ≠ 0) (hff : i ≠ 0xFF) :
    exec (.setTid pcie i) s = .next (respond { s with mgmt := { s.mgmt with tid := i.toNat } } pcie "SET_TID" 0 []) := by
  refine congrArg Host.Outcome.next ((withEid_works h heid _).trans (if_neg ?_))
  exact not_or.2 ⟨h0, hff⟩

theorem exec_getPldmVersion (ty : BitVec 8) :
    exec (.getPldmVersion pcie ty) s = .next (if pldmTypes.contains ty.toNat then respond s pcie "GET_PLDM_VERSION" 0 [fixedField 3 ty.toNat]
      else respond s pcie "GET_PLDM_VERSION" 1 []) :=
  congrArg Host.Outcome.next (withEid_works h heid _)

theorem exec_getPldmCommands (ty : BitVec 8) :
    exec (.getPldmCommands pcie ty) s = .next (match pldmCommands ty.toNat with
      | some l => respond s pcie "GET_PLDM_COMMANDS" 0 [l.length, fixedField 4 ty.toNat]
      | none => respond s pcie "GET_PLDM_COMMANDS" 1 []) :=
  congrArg Host.Outcome.next (withEid_works h heid _)

theorem exec_getPdr_some {x : BitVec 32} {i : Nat} (hi : (numericSensors ++ stateSensors)[x.toNat - 1]? = some i) :
    exec (.getPdr pcie x) s = .next (respond s pcie "GET_PDR" 0 [i, fixedField 6 i]) := by
  refine congrArg Host.Outcome.next ((withEid_works h heid _).trans ?_)
  simp only [hi]

theorem exec_getPdr_none {x : BitVec 32} (hi : (numericSensors ++ stateSensors)[x.toNat - 1]? = none) :
    exec (.getPdr pcie x) s = .next (respond s pcie "GET_PDR" 1 []) := by
  refine congrArg Host.Outcome.next ((withEid_works h heid _).trans ?_)
  simp only [hi]

theorem exec_getSensorReading (i : BitVec 16) :
    exec (.getSensorReading pcie i) s = .next (sensorAnswer s pcie "GET_SENSOR_READING" numericSensors i.toNat) :=
  congrArg Host.Outcome.next (withEid_works h heid _)

theorem exec_getStateSensorReadings (i : BitVec 16) :
    exec (.getStateSensorReadings pcie i) s = .next (sensorAnswer s pcie "GET_STATE_SENSOR_READINGS" stateSensors i.toNat) :=
  congrArg Host.Outcome.next (withEid_works h heid _)

end

theorem sensorAnswer_other {among : List Nat} {i : Nat} (hi : among.contains i = false) (s : State) (pcie : Bool) (what : String) :
    sensorAnswer s pcie what among i = respond s pcie what 1 [] := by
  simp only [sensorAnswer, hi, Bool.not_false, if_true]

theorem sensorAnswer_some {s : State} {among : List Nat} {i v : Nat} (hi : among.contains i = true) (hv : tabGet? i s.mgmt.sensors = some v)
    (pcie : Bool) (what : String) : sensorAnswer s pcie what among i = respond s pcie what 0 [1, v] := by
  simp only [sensorAnswer, hi, hv, Bool.not_true, Bool.false_eq_true, if_false]

/-- Two states that a sensor reads alike: they differ in the sensors last refreshed and in what has been sent. -/
def SensesAlike (s u : State) : Prop := u.regs = s.regs ∧ u.store = s.store ∧ u.clk = s.clk

theorem SensesAlike.sensorNow_eq {s u : State} (h : SensesAlike s u) (i : Nat) : sensorNow u i = sensorNow s i := by
  obtain ⟨hregs, hstore, hclk⟩ := h
  have hget : ∀ f : Fld, u.get f = s.get f := State.get_of_regs hregs
  simp only [sensorNow, State.flag, limitNow, lcState, sectorState, hget, hstore, hclk]
  rfl

theorem refreshOne_sensesAlike (s : State) (i : Nat) : SensesAlike s (refreshOne s i) := by
  unfold refreshOne
  dsimp only
  split <;> exact ⟨rfl, rfl, rfl⟩

theorem refreshOne_sensors (s : State) (i : Nat) :
    (refreshOne s i).mgmt.sensors = match sensorNow s i with | some v => tabPut i v s.mgmt.sensors | none => tabDel i s.mgmt.sensors := by
  unfold refreshOne
  dsimp only
  split <;> rfl

theorem refreshOne_same (s : State) (i : Nat) : tabGet? i (refreshOne s i).mgmt.sensors = sensorNow s i := by
  rw [refreshOne_sensors]
  cases sensorNow s i with
  | none => exact tabGet?_tabDel_same _ _
  | some v => exact tabGet?_tabPut_same _ _ _

theorem refreshOne_ne {i k : Nat} (h : k ≠ i) (s : State) : tabGet? k (refreshOne s i).mgmt.sensors = tabGet? k s.mgmt.sensors := by
  rw [refreshOne_sensors]
  cases sensorNow s i with
  | none => exact tabGet?_tabDel_ne _ h
  | some v => exact tabGet?_tabPut_ne _ _ h

/-- Refreshing some sensors leaves each with what it reads now, and no other state but what has been sent. -/
theorem refresh_all (l : List Nat) (s : State) :
    SensesAlike s (l.foldl refreshOne s) ∧ (∀ i ∈ l, tabGet? i (l.foldl refreshOne s).mgmt.sensors = sensorNow s i) ∧
      ∀ i ∉ l, tabGet? i (l.foldl refreshOne s).mgmt.sensors = tabGet? i s.mgmt.sensors := by
  induction l generalizing s with
  | nil => exact ⟨⟨rfl, rfl, rfl⟩, by simp, fun _ _ => rfl⟩
  | cons k l ih =>
    have hk : SensesAlike s (refreshOne s k) := refreshOne_sensesAlike s k
    obtain ⟨⟨hregs, hstore, hclk⟩, hin, hout⟩ := ih (refreshOne s k)
    refine ⟨⟨hregs.trans hk.1, hstore.trans hk.2.1, hclk.trans hk.2.2⟩, fun i hi => ?_, fun i hi => ?_⟩
    · by_cases hmem : i ∈ l
      · exact (hin i hmem).trans (hk.sensorNow_eq i)
      · have hik : i = k := (List.mem_cons.1 hi).resolve_right hmem
        subst hik
        exact (hout i hmem).trans (refreshOne_same s i)
    · obtain ⟨hik, hmem⟩ := not_or.1 (fun h => hi (List.mem_cons.2 h))
      exact (hout i hmem).trans (refreshOne_ne hik s)

theorem pldmSensorRefresh_reads {s : State} (h : halted s = false) (t : Nat) :
    Gives (.pldmSensorRefresh t) s fun u =>
      (∀ i ∈ numericSensors ++ stateSensors, tabGet? i u.mgmt.sensors = sensorNow s i) ∧ u.regs = s.regs ∧ u.store = s.store := by
  have h' : halted (s.upto t) = false := h
  obtain ⟨⟨hregs, hstore, -⟩, hin, -⟩ := refresh_all (numericSensors ++ stateSensors) (s.upto t)
  exact ⟨_, congrArg Host.Outcome.next (by simp only [h', Bool.false_eq_true, if_false]), hin, hregs, hstore⟩

/-- Settles O38: a binding that works answers its control commands, and one with an EID the PLDM commands; a message is dropped by its type or
received whole. -/
theorem mctpAndPldmAnswer : Obligations.MctpAndPldmAnswer := by
  refine ⟨⟨fun s pcie h => ?_, fun s pcie e ty k h c hc => ?_, fun s p t h hsom heom hdst => ⟨fun htype hbytes => ?_, fun h0 ht0 ht1 ht7 => ?_⟩⟩,
    fun s pcie h heid => ?_, fun s t h => pldmSensorRefresh_reads h t, fun s pcie x heid c hc => ?_⟩
  · refine ⟨fun e h0 hff => ⟨_, exec_setEndpointId_taken h h0 hff, ownEid_set_same s pcie e, rfl, rfl⟩,
      fun e he => exec_setEndpointId_refused h he, congrArg Host.Outcome.next (control_works h _),
      ⟨_, by simp, congrArg Host.Outcome.next (control_works h _)⟩, congrArg Host.Outcome.next (control_works h _),
      fun ty => ⟨fun hty => ⟨_, exec_getMctpVersionSupport_listed h hty⟩, fun hty => exec_getMctpVersionSupport_other h hty⟩,
      congrArg Host.Outcome.next ((control_works h _).trans (if_pos rfl)), fun k hk => exec_getVendorDefinedMessageSupport_other h hk⟩
  · have hdead : ∀ go : State → State, (Host.Outcome.next (control s pcie go) : Ans) = .next s := fun go => congrArg Host.Outcome.next (control_dead h go)
    simp only [List.mem_cons, List.not_mem_nil, or_false] at hc
    rcases hc with rfl | rfl | rfl | rfl | rfl | rfl <;> exact hdead _
  · refine mctpMessage_received h hsom heom ?_ (by tauto) hbytes t
    unfold packetMine
    tauto
  · exact mctpMessage_dropped h hsom (by unfold packetMine; tauto) ⟨ht0, ht1, ht7⟩ t
  · refine ⟨congrArg Host.Outcome.next (withEid_works h heid _), fun i h0 hff => ⟨_, exec_setTid_taken h heid h0 hff, rfl, rfl, rfl⟩,
      congrArg Host.Outcome.next (withEid_works h heid _), fun ty => ⟨fun hty => ?_, fun h0 h2 h5 => ?_⟩, ⟨_, congrArg Host.Outcome.next (withEid_works h heid _)⟩,
      fun x => ⟨fun hx => ?_, fun hx => exec_getPdr_none h heid (by rw [List.getElem?_eq_none]; exact Nat.le_sub_of_add_le hx)⟩,
      fun e => ⟨_, congrArg Host.Outcome.next (withEid_works h heid _), rfl, rfl⟩, fun i => ⟨fun v hv => ⟨fun hi => ?_, fun hi => ?_⟩, fun hi => ?_, fun hi => ?_⟩⟩
    · rw [exec_getPldmVersion h heid, exec_getPldmCommands h heid]
      rcases hty with hty | hty | hty <;> rw [hty] <;> exact ⟨⟨_, rfl⟩, ⟨_, rfl⟩⟩
    · have hver : pldmTypes.contains ty.toNat = false := by simp [pldmTypes, h0, h2, h5]
      have hcom : pldmCommands ty.toNat = none := by
        unfold pldmCommands
        split
        · exact absurd ‹_› h0
        · exact absurd ‹_› h2
        · exact absurd ‹_› h5
        · rfl
      rw [exec_getPldmVersion h heid, exec_getPldmCommands h heid, hver, hcom]
      exact ⟨rfl, rfl⟩
    · have hlt : x.toNat - 1 < (numericSensors ++ stateSensors).length := Nat.lt_of_le_of_lt (Nat.sub_le_sub_right hx 1) (by decide)
      exact ⟨_, _, List.getElem?_eq_getElem hlt, exec_getPdr_some h heid (List.getElem?_eq_getElem hlt)⟩
    · rw [exec_getSensorReading h heid, sensorAnswer_some hi hv]; rfl
    · rw [exec_getStateSensorReadings h heid, sensorAnswer_some hi hv]; rfl
    · rw [exec_getSensorReading h heid, sensorAnswer_other hi]; rfl
    · rw [exec_getStateSensorReadings h heid, sensorAnswer_other hi]; rfl
  · have hunset : ∀ go : State → State, (Host.Outcome.next (withEid s pcie go) : Ans) = .next s := fun go => congrArg Host.Outcome.next (withEid_unset heid go)
    simp only [List.mem_cons, List.not_mem_nil, or_false] at hc
    rcases hc with rfl | rfl | rfl | rfl | rfl | rfl | rfl | rfl | rfl <;> exact hunset _

/-! ### Vendor messages (R711 to R713) -/

section
variable {s : State} {pcie : Bool} (h : binding s pcie = true) (heid : ownEid s pcie ≠ 0)
include h heid

/-- In SCRAPPED a vendor command answers DENIED. -/
theorem vendor_scrapped (hlc : lcState s = 5) (cmd inst : Nat) (lenOk : Bool) (go : State → State) :
    vendor s pcie cmd inst lenOk go = vendorSay s pcie cmd .denied inst [] :=
  (withEid_works h heid _).trans (if_pos (.inr (.inl hlc)))

/-- In DEPLOYED a vendor command of the right length is answered. -/
theorem vendor_deployed (hattest : s.flag F.MGT_CTRL_ATTEST_EN = true) (hlc : lcState s = 3) (cmd inst : Nat) (lenOk : Bool) (go : State → State) :
    vendor s pcie cmd inst lenOk go = if lenOk then go s else vendorSay s pcie cmd .malformed inst [] := by
  unfold vendor
  rw [withEid_works h heid]
  simp only [hattest, hlc]
  cases lenOk <;> rfl

end

/-- Settles O39: a vendor command that R712 admits has its own answer, and in SCRAPPED it is refused. -/
theorem vendorMessagesAnswer : Obligations.VendorMessagesAnswer := by
  intro s pcie i h heid hattest
  refine ⟨fun hlc => ⟨?_, ?_, fun off len h1 h1024 => ⟨fun hin => ?_, fun hout => ?_⟩, fun off len hlen => ?_, fun dom nonce t hnonce => ?_⟩,
    fun hlc => ⟨congrArg Host.Outcome.next (vendor_scrapped h heid hlc _ _ _ _), congrArg Host.Outcome.next (vendor_scrapped h heid hlc _ _ _ _)⟩⟩
  · refine congrArg Host.Outcome.next ((vendor_deployed h heid hattest hlc _ _ _ _).trans ?_)
    simp only [if_true, hlc, identityBytes, Nat.reduceEqDiff, if_false]
  · exact congrArg Host.Outcome.next (vendor_deployed h heid hattest hlc _ _ _ _)
  · refine congrArg Host.Outcome.next ((vendor_deployed h heid hattest hlc _ _ _ _).trans ?_)
    simp only [h1, h1024, decide_true, Bool.and_self, if_true, Nat.not_le.2 hin, if_false]
  · refine congrArg Host.Outcome.next ((vendor_deployed h heid hattest hlc _ _ _ _).trans ?_)
    simp only [h1, h1024, decide_true, Bool.and_self, if_true, hout]
  · refine congrArg Host.Outcome.next ((vendor_deployed h heid hattest hlc _ _ _ _).trans (if_neg ?_))
    simp only [Bool.and_eq_true, decide_eq_true_eq]
    omega
  · have hexec : exec (.getReport pcie i dom nonce t) s = .next
        (let r : ReportReq := { pcie := pcie, inst := i.toNat, dom := dom.toNat, nonce := nonce }
         let u := s.upto t
         if !domLive u dom.toNat then vendorSay u pcie 3 .denied i.toNat []
         else if 4 ≤ u.sec.waiting.length then vendorSay u pcie 3 .capacity i.toNat []
         else if !u.sec.waiting.isEmpty then { u with sec := { u.sec with waiting := u.sec.waiting ++ [r] } }
         else reportNow u r) := by
      refine congrArg Host.Outcome.next ((vendor_deployed (s := s.upto t) h heid hattest hlc _ _ _ _).trans ?_)
      simp only [hnonce, BEq.rfl, if_true]
    have hdom : domLive (s.upto t) dom.toNat = domLive s dom.toNat := rfl
    simp only [hexec, hdom, State.upto_sec]
    refine ⟨fun hdead => ?_, fun hlive hnone => ?_, fun hlive hsome hfew => ?_, fun hlive hmany => ?_⟩
    · simp [hdead]
    · simp [hlive, hnone]
    · refine ⟨_, hexec, ?_⟩
      simp [hdom, hlive, Nat.not_le.2 hfew, hsome]
    · simp [hlive, hmany]

end Sys2Proof.Machine
end

section
/-! SUPPORT. Pending MSI-X messages (R704) and sideband buses whose targets stay unreadable (R715). -/

namespace Sys2Proof.Machine

open Sys2Proof

/-! ### Pending messages (R703, R704) -/

/-- May a pending message leave: the link is up, MSI-X is enabled, and its vector is not masked? -/
def mayLeave (s : State) (vec : Nat) : Bool := s.mgmt.linkUp && s.mgmt.msixEn && !s.mgmt.masked.contains vec

/-- A ring's message that is alone pending and may leave is sent. -/
theorem sendPending_sends {s : State} {v : Nat} (hpend : s.mgmt.pendMsix = [(8, v)]) (hmay : mayLeave s v = true) :
    sendPending s = { s with mgmt := { s.mgmt with pendMsix := [] } }.emit (.msix v) := by
  have hgo : [((8 : Nat), v)].filter (fun x => mayLeave s x.2) = [(8, v)] := by simp [hmay]
  have hstay : [((8 : Nat), v)].filter (fun x => !mayLeave s x.2) = [] := by simp [hmay]
  change ((s.mgmt.pendMsix.filter fun x => mayLeave s x.2).foldl _
    { s with mgmt := { s.mgmt with pendMsix := s.mgmt.pendMsix.filter fun x => !mayLeave s x.2 } }) = _
  rw [hpend, hgo, hstay]
  rfl

/-- One that may not leave stays pending. -/
theorem sendPending_keeps {s : State} {v : Nat} (hpend : s.mgmt.pendMsix = [(8, v)]) (hmay : mayLeave s v = false) : sendPending s = s := by
  have hgo : [((8 : Nat), v)].filter (fun x => mayLeave s x.2) = [] := by simp [hmay]
  have hstay : [((8 : Nat), v)].filter (fun x => !mayLeave s x.2) = [(8, v)] := by simp [hmay]
  change ((s.mgmt.pendMsix.filter fun x => mayLeave s x.2).foldl _
    { s with mgmt := { s.mgmt with pendMsix := s.mgmt.pendMsix.filter fun x => !mayLeave s x.2 } }) = _
  rw [hpend, hgo, hstay, ← hpend]
  rfl

/-- The state of the link, of MSI-X Enable and of the vectors, as MSIX_PENDING_SEND brings them. -/
def msixAdmitted (s : State) (up en : Bool) (un : List (Fin 2048)) : State :=
  { s with mgmt := { s.mgmt with
      linkUp := up, msixEn := en, answered := s.mgmt.answered || up,
      masked := s.mgmt.masked.filter fun v => !(un.map fun v => v.val).contains v } }

theorem exec_msixPendingSend {s : State} (hon : s.clk.off = false) (href : s.flag F.CLK_STATUS_REFCLK_OK = true) (up en : Bool)
    (un : List (Fin 2048)) (t : Nat) :
    exec (.msixPendingSend up en un t) s = .next (sendPending (msixAdmitted (s.upto t) up en un)) := by
  refine congrArg Host.Outcome.next ?_
  simp only [msixAdmitted, State.upto_flag, State.upto_clk, href, hon, Bool.not_false, Bool.and_true]

theorem mayLeave_msixAdmitted (s : State) (up en : Bool) (un : List (Fin 2048)) (v : Fin 2048) :
    mayLeave (msixAdmitted s up en un) v = (up && en && (!s.mgmt.masked.contains v.val || decide (v ∈ un))) := by
  have hkept : (s.mgmt.masked.filter fun w => !(un.map fun v => v.val).contains w).contains v.val =
      !(!s.mgmt.masked.contains v.val || decide (v ∈ un)) := by
    rw [Bool.eq_iff_iff]
    simp only [List.mem_filter, Bool.not_eq_true', List.contains_eq_mem, decide_eq_false_iff_not, Bool.or_eq_false_iff,
      Bool.not_eq_false', decide_eq_true_eq, List.mem_map, Fin.val_inj, exists_eq_right]
  change (up && en && !(s.mgmt.masked.filter fun w => !(un.map fun v => v.val).contains w).contains v.val) = _
  rw [hkept, Bool.not_not]

/-! ### Sideband buses (R715) -/

theorem bits_lor_two_pow (v k : Nat) : bits (Nat.lor v (2 ^ k)) k 1 = 1 := by
  have htest : (Nat.lor v (2 ^ k)).testBit k = true := by
    change (v ||| 2 ^ k).testBit k = true
    simp
  rw [Nat.testBit_eq_decide_div_mod_eq, decide_eq_true_eq] at htest
  simpa [bits] using htest

/-- A field below the store's registers is none of theirs. -/
theorem key_ne_of_below {f g : Fld} (hf : f.key < storeKeys) (hg : storeKeys ≤ g.key) : f.key ≠ g.key := by omega

/-- The bus of a channel's module is counted and marked. -/
def i3cMarked (s : State) (d : Nat) : State :=
  (s.bumpSat F.MGT_SIDEBAND_I3C_ERRS).set F.MGT_SIDEBAND_I3C_STUCK (Nat.lor (s.get F.MGT_SIDEBAND_I3C_STUCK) (2 ^ (d / 8)))

/-- The channel behind it fails where it is being identified. -/
def i3cFailed (s : State) (d : Nat) : State :=
  if channelState s d = 1 then
    ((i3cMarked s d).set (F.DDR_D_STATUS_STATE d) 7).set (F.DDR_D_STATUS_REASON d) 4
  else i3cMarked s d

section
variable (s : State) (d : Nat)

theorem i3cMarked_get_unit {f : Fld} (hf : storeKeys ≤ f.key) : (i3cMarked s d).get f = s.get f :=
  (get_set_of_below hf _ _ (by decide)).trans (get_set_of_below hf _ _ (by decide))

theorem i3cFailed_get_below {f : Fld} (hf : f.key < storeKeys) : (i3cFailed s d).get f = (i3cMarked s d).get f := by
  unfold i3cFailed
  split
  · rw [State.get_set_ne _ _ (key_ne_of_below hf (unitFld_channelReason d).storeKeys_le),
      State.get_set_ne _ _ (key_ne_of_below hf (unitFld_channelState d).storeKeys_le)]
  · rfl

theorem i3cFailed_stuck (hd : d < 32) : bits ((i3cFailed s d).get F.MGT_SIDEBAND_I3C_STUCK) (d / 8) 1 = 1 := by
  rw [i3cFailed_get_below s d (by decide), i3cMarked, State.get_set_same, bits_mod_two_pow (n := F.MGT_SIDEBAND_I3C_STUCK.wid)]
  · exact bits_lor_two_pow _ _
  · change d / 8 < 4
    omega

theorem i3cFailed_errs : (i3cFailed s d).get F.MGT_SIDEBAND_I3C_ERRS = min (s.get F.MGT_SIDEBAND_I3C_ERRS + 1) 65535 := by
  rw [i3cFailed_get_below s d (by decide), i3cMarked, State.get_set_ne _ _ (by decide)]
  exact State.get_bumpSat_same _ _ _

theorem i3cFailed_state : channelState (i3cFailed s d) d = if channelState s d = 1 then 7 else channelState s d := by
  unfold i3cFailed
  split
  · refine (State.get_set_ne _ _ ?_).trans (State.get_set_same _ _ _)
    simp
  · exact i3cMarked_get_unit s d (unitFld_channelState d).storeKeys_le

theorem i3cFailed_reason (h : channelState s d = 1) : (i3cFailed s d).get (F.DDR_D_STATUS_REASON d) = 4 := by
  rw [i3cFailed, if_pos h, State.get_set_same]
  rfl

end

section
variable {s : State} (hon : s.clk.off = false) (t : Nat)
include hon

theorem exec_mgtBusTimeout_i3c (d : Fin 32) : exec (.mgtBusTimeout (.i3c d) t) s = .next (i3cFailed (s.upto t) d) := by
  have hstate : channelState (i3cMarked (s.upto t) d) d = channelState s d :=
    i3cMarked_get_unit _ d (unitFld_channelState d).storeKeys_le
  refine congrArg Host.Outcome.next ((if_neg (by simp [hon])).trans ?_)
  unfold i3cFailed
  change (if channelState (i3cMarked (s.upto t) d) d = 1 then _ else _) = _
  rw [hstate]
  rfl

theorem exec_mgtBusTimeout_lsm (m : Fin 12) :
    exec (.mgtBusTimeout (.lsm m) t) s = .next
      (let q := (s.upto t).bumpSat F.MGT_SIDEBAND_LSM_ERRS
       let st := s.get (F.KZP_OE_STATUS_LSM_STATE (m.val / 2) (m.val % 2))
       if st = 1 ∨ st = 2 then wake (laserFail q m) else q) := by
  have hkey : (F.KZP_OE_STATUS_LSM_STATE (m.val / 2) (m.val % 2)).key ≠ F.MGT_SIDEBAND_LSM_ERRS.key := by
    rw [F.KZP_OE_STATUS_LSM_STATE_key]
    change _ ≠ 0x1058 * 64 + 16
    omega
  have hstate : ((s.upto t).bumpSat F.MGT_SIDEBAND_LSM_ERRS).get (F.KZP_OE_STATUS_LSM_STATE (m.val / 2) (m.val % 2)) =
      s.get (F.KZP_OE_STATUS_LSM_STATE (m.val / 2) (m.val % 2)) := State.get_bumpSat_ne _ _ hkey
  refine congrArg Host.Outcome.next ((if_neg (by simp [hon])).trans ?_)
  dsimp only
  rw [hstate]

/-- A CS sensor that stays unreadable is marked, and its reading is gone. -/
theorem mgtBusTimeout_cs : Gives (.mgtBusTimeout .cs t) s fun u =>
    u.flag F.MGT_SIDEBAND_CS_STUCK = true ∧ u.flag F.PWR_THERMAL_INLET_PRESENT = false ∧ u.get F.PWR_THERMAL_INLET_C = 0 ∧
      u.flag F.PWR_THERMAL_INLET_HOT = false := by
  refine ⟨_, congrArg Host.Outcome.next (if_neg (by simp [hon])), ?_, ?_, ?_, State.flag_setFlag_same _ _ _ (by decide)⟩
  · rw [State.flag_setFlag_ne _ _ (by decide), State.flag_set_ne _ _ (by decide), State.flag_setFlag_ne _ _ (by decide)]
    exact State.flag_setFlag_same _ _ _ (by decide)
  · rw [State.flag_setFlag_ne _ _ (by decide), State.flag_set_ne _ _ (by decide)]
    exact State.flag_setFlag_same _ _ _ (by decide)
  · rw [State.get_setFlag_ne _ _ (by decide)]
    exact State.get_set_same _ _ _

end

/-- Settles O40: what is pending leaves or stays, and each sideband bus has its own consequence. -/
theorem interruptsAndBusesReport : Obligations.InterruptsAndBusesReport := by
  intro s t hon
  refine ⟨fun v un hpend href => ⟨fun hopen => ?_, fun hmasked hun => ?_, fun up en hshut => ?_⟩, fun d => ?_,
    fun m => exec_mgtBusTimeout_lsm hon t m, mgtBusTimeout_cs hon t, congrArg Host.Outcome.next (if_neg (by simp [hon]))⟩
  · have hmay : mayLeave (msixAdmitted (s.upto t) true true un) v = true := by
      rw [mayLeave_msixAdmitted]
      rcases hopen with h | h
      · simp only [State.upto_mgmt, h]
        rfl
      · simp [h]
    refine ⟨_, exec_msixPendingSend hon href _ _ _ _, ?_⟩
    rw [sendPending_sends (s := msixAdmitted (s.upto t) _ _ _) hpend hmay]
    exact ⟨rfl, rfl, rfl, rfl⟩
  · have hmay : mayLeave (msixAdmitted (s.upto t) true true un) v = false := by
      rw [mayLeave_msixAdmitted]
      simp only [State.upto_mgmt, hmasked, hun]
      rfl
    refine ⟨_, exec_msixPendingSend hon href _ _ _ _, ?_⟩
    rw [sendPending_keeps (s := msixAdmitted (s.upto t) _ _ _) hpend hmay]
    exact ⟨hpend, rfl⟩
  · have hmay : mayLeave (msixAdmitted (s.upto t) up en un) v = false := by
      rw [mayLeave_msixAdmitted, hshut, Bool.false_and]
    refine ⟨_, exec_msixPendingSend hon href _ _ _ _, ?_⟩
    rw [sendPending_keeps (s := msixAdmitted (s.upto t) _ _ _) hpend hmay]
    exact ⟨hpend, rfl, rfl, rfl⟩
  · exact ⟨_, exec_mgtBusTimeout_i3c hon t d, i3cFailed_stuck _ d d.isLt, i3cFailed_errs _ d, i3cFailed_state _ d, i3cFailed_reason (s.upto t) d⟩

end Sys2Proof.Machine
end

section
/-! SUPPORT. What the device tells of itself leaves the rest of it alone: interrupts (R702, R703), fault records (R106), completion records (R240)
and RAS events (R557) change the fault queue, the records of rings, the messages that leave, and five fields. -/

namespace Sys2Proof.Machine

open Sys2Proof

/-! ### The frame of an event -/

/-- The fields that an event may change. -/
def eventKeys : List Nat :=
  [F.XLT_FQ_PTRS_TAIL.key, F.XLT_FQ_PTRS_TAIL_WRAP.key, F.XLT_FQ_STATUS_SQUALL.key, F.XLT_SQUALL_STATS_ENTRIES.key, F.MGT_IRQ_STATUS_SOURCES.key]

/-- A state without what events are told by: the register fields, the fault queue, the queue contexts, the events kept, the messages pending and
what has been sent. -/
def besideEvents (s : State) : State :=
  { s with
    regs := [], out := []
    xlt := { s.xlt with queue := [], late := [], seq := 0 }
    rings := { s.rings with qcs := [] }
    comp := { s.comp with events := [], lostEvent := none }
    mgmt := { s.mgmt with pendMsix := [] } }

/-- The tasks that wait for records of the fault queue. -/
def queueWaits (s : State) : List Waiter := s.xlt.queue.flatMap (·.waiters)

/-- From `s` to `t` nothing changes but what events are told by, and no task waits that did not. -/
structure OnlyEvents (s t : State) : Prop where
  beside : besideEvents t = besideEvents s
  get : ∀ f : Fld, f.key ∉ eventKeys → t.get f = s.get f
  waits : queueWaits t = queueWaits s

namespace OnlyEvents

theorem refl (s : State) : OnlyEvents s s := ⟨rfl, fun _ _ => rfl, rfl⟩

theorem trans {s t u : State} (h : OnlyEvents s t) (k : OnlyEvents t u) : OnlyEvents s u :=
  ⟨k.beside.trans h.beside, fun f hf => (k.get f hf).trans (h.get f hf), k.waits.trans h.waits⟩

/-- Steps that each only tell of events do so together. -/
theorem foldl {α : Type} {g : State → α → State} (hg : ∀ s x, OnlyEvents s (g s x)) (l : List α) (s : State) : OnlyEvents s (l.foldl g s) :=
  List.foldlRecOn l g (refl s) fun _ h x _ => h.trans (hg _ x)

section
variable {s t : State} (h : OnlyEvents s t)
include h

/-- A part of the state that events do not touch. -/
theorem proj {α : Type} (part : State → α) (hpart : ∀ u, part (besideEvents u) = part u) : part t = part s := by
  rw [← hpart t, h.beside, hpart s]

theorem pending : t.pending = s.pending := h.proj (fun u => u.pending) fun _ => rfl
theorem now : t.now = s.now := h.proj (fun u => u.now) fun _ => rfl
theorem free : t.free = s.free := h.proj (fun u => u.free) fun _ => rfl
theorem store : t.store = s.store := h.proj (fun u => u.store) fun _ => rfl
theorem fab : t.fab = s.fab := h.proj (fun u => u.fab) fun _ => rfl
theorem dir : t.dir = s.dir := h.proj (fun u => u.dir) fun _ => rfl
theorem cache : t.cache = s.cache := h.proj (fun u => u.cache) fun _ => rfl
theorem plane : t.plane = s.plane := h.proj (fun u => u.plane) fun _ => rfl
theorem sched : t.sched = s.sched := h.proj (fun u => u.sched) fun _ => rfl
theorem log : t.log = s.log := h.proj (fun u => u.log) fun _ => rfl
theorem sec : t.sec = s.sec := h.proj (fun u => u.sec) fun _ => rfl
theorem ports : t.ports = s.ports := h.proj (fun u => u.ports) fun _ => rfl
theorem clk : t.clk = s.clk := h.proj (fun u => u.clk) fun _ => rfl
theorem jobs : t.rings.jobs = s.rings.jobs := h.proj (fun u => u.rings.jobs) fun _ => rfl
theorem ringCache : t.rings.cache = s.rings.cache := h.proj (fun u => u.rings.cache) fun _ => rfl
theorem tlb : t.xlt.tlb = s.xlt.tlb := h.proj (fun u => u.xlt.tlb) fun _ => rfl
theorem segCache : t.xlt.segCache = s.xlt.segCache := h.proj (fun u => u.xlt.segCache) fun _ => rfl
theorem corrupt : t.xlt.corrupt = s.xlt.corrupt := h.proj (fun u => u.xlt.corrupt) fun _ => rfl
theorem service : t.xlt.service = s.xlt.service := h.proj (fun u => u.xlt.service) fun _ => rfl
theorem map : t.comp.map = s.comp.map := h.proj (fun u => u.comp.map) fun _ => rfl
theorem compBesideEvents : { t.comp with events := [], lostEvent := none } = { s.comp with events := [], lostEvent := none } :=
  h.proj (fun u => { u.comp with events := [], lostEvent := none }) fun _ => rfl
/-- A part of the comp record beside its events. -/
theorem compPart {α : Type} (part : Comp → α) (hpart : ∀ c : Comp, part { c with events := [], lostEvent := none } = part c) :
    part t.comp = part s.comp := by
  rw [← hpart t.comp, h.compBesideEvents, hpart s.comp]

theorem mgmtBesidePending : { t.mgmt with pendMsix := [] } = { s.mgmt with pendMsix := [] } :=
  h.proj (fun u => { u.mgmt with pendMsix := [] }) fun _ => rfl
theorem linkUp : t.mgmt.linkUp = s.mgmt.linkUp := h.proj (fun u => u.mgmt.linkUp) fun _ => rfl
theorem update : t.mgmt.update = s.mgmt.update := h.proj (fun u => u.mgmt.update) fun _ => rfl

theorem flag {f : Fld} (hf : f.key ∉ eventKeys) : t.flag f = s.flag f := by rw [State.flag, State.flag, h.get f hf]

theorem findJob_eq (g i : Nat) : findJob t g i = findJob s g i := by
  rw [findJob, findJob, h.jobs]

end

/-! ### What tells of events -/

theorem emit (s : State) (o : Out) : OnlyEvents s (s.emit o) := ⟨rfl, fun _ _ => rfl, rfl⟩

theorem putRing (s : State) (g : Nat) (r : Ring) : OnlyEvents s (s.putRing g r) := ⟨rfl, fun _ _ => rfl, rfl⟩

theorem sendMsix (s : State) (src vec : Nat) : OnlyEvents s (sendMsix s src vec) := by
  unfold Machine.sendMsix
  split <;> exact ⟨rfl, fun _ _ => rfl, rfl⟩

/-- A field that events may change is set. -/
theorem set (s : State) {f : Fld} (hf : f.key ∈ eventKeys) (v : Nat) : OnlyEvents s (s.set f v) :=
  ⟨rfl, fun _ hg => State.get_set_ne _ _ fun e => hg (e ▸ hf), rfl⟩

theorem raiseIrq (s : State) (b : Nat) : OnlyEvents s (raiseIrq s b) := by
  unfold Machine.raiseIrq
  dsimp only
  have hset := set s (f := F.MGT_IRQ_STATUS_SOURCES) (by decide) (s.get F.MGT_IRQ_STATUS_SOURCES + 2 ^ b)
  split
  · exact refl s
  · split
    · exact hset
    · exact hset.trans (sendMsix _ _ _)

theorem enqueueFault (s : State) {r : FaultRec} (hr : r.waiters = []) : OnlyEvents s (enqueueFault s r) := by
  unfold Machine.enqueueFault
  extract_lets tail src queued tailed wrapped
  have hqueued : OnlyEvents s queued := ⟨rfl, fun _ _ => rfl, by
    simp only [queued, queueWaits, List.flatMap_append, List.flatMap_singleton, hr, List.append_nil]⟩
  have htailed : OnlyEvents s tailed := hqueued.trans (set _ (by decide) _)
  have hwrapped : OnlyEvents s wrapped := by
    simp only [wrapped]
    split
    · exact htailed.trans (set _ (by decide) _)
    · exact htailed
  split
  · exact hwrapped.trans ((set _ (by decide) _).trans ((set _ (by decide) _).trans (raiseIrq _ _)))
  · exact hwrapped

theorem postFault (s : State) {r : FaultRec} (hr : r.waiters = []) : OnlyEvents s (postFault s r) := by
  unfold Machine.postFault stampFault
  dsimp only
  split
  · have hstamped : OnlyEvents s { s with xlt := { s.xlt with seq := (s.xlt.seq + 1) % 2 ^ 32 } } := ⟨rfl, fun _ _ => rfl, rfl⟩
    exact hstamped.trans (enqueueFault _ hr)
  · exact ⟨rfl, fun _ _ => rfl, rfl⟩

theorem ringWrite (s : State) (r : Ring) (a : Nat) (data : List Byte) : OnlyEvents s (ringWrite s r a data) := by
  unfold Machine.ringWrite
  split <;> split <;> exact ⟨rfl, fun _ _ => rfl, rfl⟩

theorem notifyRing (s : State) (g : Nat) : OnlyEvents s (notifyRing s g) := by
  unfold Machine.notifyRing
  dsimp only
  split
  · exact (putRing _ _ _).trans (sendMsix _ _ _)
  · exact (putRing _ _ _).trans (ringWrite _ _ _ _)

theorem writeRecord (s : State) (g w0 w1 : Nat) : OnlyEvents s (writeRecord s g w0 w1) := by
  unfold Machine.writeRecord
  dsimp only
  split
  · exact (ringWrite _ _ _ _).trans ((putRing _ _ _).trans (notifyRing _ _))
  · exact (ringWrite _ _ _ _).trans (putRing _ _ _)

theorem keptEvents (s : State) (l : List FaultRec) (n : Option Nat) :
    OnlyEvents s { s with comp := { s.comp with events := l, lostEvent := n } } := ⟨rfl, fun _ _ => rfl, rfl⟩

theorem postRas (s : State) (kind source detail : Nat) (addr : Nat := 0) : OnlyEvents s (postRas s kind source detail addr) := by
  unfold Machine.postRas
  extract_lets r posted ev gone src noted raised sent
  have hnoted : OnlyEvents posted noted := keptEvents _ _ _
  have hsent : OnlyEvents raised sent := by
    simp only [sent]
    split
    · exact emit _ _
    · exact refl _
  have hposted : OnlyEvents s posted := postFault s rfl
  have hraised : OnlyEvents noted raised := raiseIrq noted 1
  have htold : OnlyEvents s sent := hposted.trans (hnoted.trans (hraised.trans hsent))
  clear_value sent
  refine htold.trans (foldl (fun u m => ?_) _ _)
  dsimp only
  split
  · exact writeRecord _ _ _ _
  · exact refl u

end OnlyEvents

/-- A field set before an event reads as it was set. -/
theorem OnlyEvents.get_set {s u : State} {f : Fld} {v : Nat} (h : OnlyEvents (s.set f v) u) (hf : f.key ∉ eventKeys) : u.get f = v % 2 ^ f.wid :=
  (h.get f hf).trans (State.get_set_same _ _ _)

/-! ### The interrupt source itself -/

/-- A source that is raised has its status bit set. -/
theorem bits_raiseIrq (s : State) {b : Nat} (hb : b < F.MGT_IRQ_STATUS_SOURCES.wid) :
    bits ((raiseIrq s b).get F.MGT_IRQ_STATUS_SOURCES) b 1 = 1 := by
  unfold raiseIrq
  dsimp only
  split
  case isTrue hset => exact hset
  case isFalse hset =>
    have hzero := (bits_eq_zero_or_one _ _).resolve_right hset
    have hbit : bits ((s.set F.MGT_IRQ_STATUS_SOURCES (s.get F.MGT_IRQ_STATUS_SOURCES + 2 ^ b)).get F.MGT_IRQ_STATUS_SOURCES) b 1 = 1 := by
      rw [State.get_set_same, bits_mod_two_pow hb, bits_add_two_pow hzero, if_pos rfl]
    split
    · exact hbit
    · rw [State.get_of_regs (sendMsix_regs _ _ _)]
      exact hbit

/-! ### The end of a job beside its ring -/

/-- A state without its rings. -/
def besideRings (s : State) : State := { s with rings := {} }

theorem besideRings_proj {s t : State} (h : besideRings t = besideRings s) {α : Type} (part : State → α)
    (hpart : ∀ u, part (besideRings u) = part u) : part t = part s := by
  rw [← hpart t, h, hpart s]

theorem skipChain_besideRings (s : State) (g : Nat) (c : Code) (sk : Bool) (n a : Nat) :
    besideRings (skipChain s g c sk n a) = besideRings s := by
  induction n generalizing s a with
  | zero => rfl
  | succ n ih =>
    unfold skipChain
    split
    · rfl
    · split
      · rfl
      · dsimp only
        split
        · exact ih _ _
        · rfl

/-- The end of a job changes nothing but the rings. -/
theorem finishJob_besideRings (s : State) (j : Job) (c : Code) (x : Nat) : besideRings (finishJob s j c x) = besideRings s := by
  unfold finishJob
  extract_lets
  split
  · exact skipChain_besideRings _ _ _ _ _ _
  · rfl

section
variable (s : State) (j : Job) (c : Code) (x : Nat)

@[simp] theorem finishJob_comp : (finishJob s j c x).comp = s.comp := besideRings_proj (finishJob_besideRings s j c x) State.comp fun _ => rfl
@[simp] theorem finishJob_sec : (finishJob s j c x).sec = s.sec := besideRings_proj (finishJob_besideRings s j c x) State.sec fun _ => rfl
@[simp] theorem finishJob_mgmt : (finishJob s j c x).mgmt = s.mgmt := besideRings_proj (finishJob_besideRings s j c x) State.mgmt fun _ => rfl
@[simp] theorem finishJob_get (f : Fld) : (finishJob s j c x).get f = s.get f := State.get_of_regs (finishJob_regs s j c x) f
@[simp] theorem finishJob_flag (f : Fld) : (finishJob s j c x).flag f = s.flag f := by rw [State.flag, State.flag, finishJob_get]
@[simp] theorem rowEnd_comp (t : State) : (rowEnd s j t).comp = t.comp := rfl
@[simp] theorem rowEnd_sec (t : State) : (rowEnd s j t).sec = t.sec := rfl
@[simp] theorem rowEnd_get (t : State) (f : Fld) : (rowEnd s j t).get f = t.get f := rfl
@[simp] theorem rowEnd_flag (t : State) (f : Fld) : (rowEnd s j t).flag f = t.flag f := rfl

end

@[simp] theorem startState_get (s : State) (d : Desc) (u : Nat) (f : Fld) : (startState s d u).get f = s.get f :=
  State.get_of_regs (startState_regs s d u) f

@[simp] theorem startState_flag (s : State) (d : Desc) (u : Nat) (f : Fld) : (startState s d u).flag f = s.flag f := by
  rw [State.flag, State.flag, startState_get]

/-- A job that a ready descriptor's row has worked on without touching it ends with its code. -/
theorem ends_of_found {s t : State} {d : Desc} {op unit : Nat} {j : Job} (h : Ready s d op unit j)
    (ht : findJob t d.ring.val d.idx.val = findJob s d.ring.val d.idx.val) (c : Code) (x : Nat) :
    Ends (rowEnd s j (finishJob t (started j unit) c x)) d (endCode j c) := by
  obtain ⟨hring, hidx⟩ := findJob_ring h.1
  exact rowEnd_ends (ends_finish (k := started j unit) (ht.trans h.1) hring hidx c x)

theorem findJob_startState (s : State) (d : Desc) (u g i : Nat) : findJob (startState s d u) g i = findJob s g i := by
  rw [findJob, findJob, startState_rings]

end Sys2Proof.Machine
end

section
/-! SUPPORT. Events, leases and fences (spec/14, R550 to R556, R559): what CMP_EVENTS, CMP_LEASE and CMP_FENCE do, and the two timers of LEASE mode. -/

namespace Sys2Proof.Machine

open Sys2Proof

/-! ### CMP_EVENTS (R466, R559) -/

theorem exec_cmpEvents {s s1 : State} {d : Desc} {j : Job} (h : Ready s d 0x62 zenith j) {ev : List FaultRec} {n : Nat}
    (hev : (s.comp.events.filter fun r => decide (dbits d.words 24 0 64 ≤ r.seq)) = ev) (hn : min ev.length (dbits d.words 56 0 32 / 64) = n)
    (hprep : prepare (startState s d zenith) (started j zenith) zenith [⟨dbits d.words 48 0 64, 64 * n, .wr⟩] = (true, s1))
    (hlost : s1.comp.lostEvent = none) :
    exec (.cmpEvents d) s = .next (rowEnd s j (finishJob (writeVa s1 (ringCtx j.ring) (dbits d.words 48 0 64) ((ev.take n).flatMap faultImage))
      (started j zenith) (if n < ev.length then .short else .ok) n)) := by
  have hwords : (started j zenith).words = d.words := h.2.1
  refine congrArg Host.Outcome.next ((runDesc_ready h _).trans (congrArg (rowEnd s j) ?_))
  simp only [hwords, startState_comp, hev, hn, hprep, hlost, Bool.or_false, decide_eq_true_eq]
  rfl

/-! ### CMP_LEASE (R550, R551) -/

/-- LEASE mode ends, if it is on; the heartbeat of a manager. -/
theorem endLease_lastBeat (s : State) : (endLease s).comp.lastBeat = s.comp.lastBeat := by
  unfold endLease
  split
  · exact (OnlyEvents.postRas _ _ _ _ _).compPart Comp.lastBeat fun _ => rfl
  · rfl

theorem endLease_flag (s : State) : (endLease s).flag F.CMP_STATUS_LEASE = false := by
  unfold endLease
  split
  · rw [(OnlyEvents.postRas _ _ _ _ _).flag (by decide)]
    exact State.flag_setFlag_same _ _ _ (by decide)
  · exact Bool.eq_false_iff.2 ‹_›

theorem findJob_endLease (s : State) (g i : Nat) : findJob (endLease s) g i = findJob s g i := by
  unfold endLease
  split
  · exact (OnlyEvents.postRas _ _ _ _ _).findJob_eq g i
  · rfl

section
variable {s : State} {d : Desc} {j : Job} (h : Ready s d 0x63 zenith j)
include h

theorem exec_cmpLease_manager (hman : isManager s (ringCtx j.ring) = true) :
    exec (.cmpLease d) s = .next (rowEnd s j (finishJob (heartbeat (startState s d zenith)) (started j zenith) .ok)) := by
  have hman' : isManager (startState s d zenith) (ringCtx j.ring) = true := by
    simpa only [isManager, managers, startState_comp] using hman
  exact congrArg Host.Outcome.next ((runDesc_ready h _).trans (congrArg (rowEnd s j) (if_pos hman')))

theorem exec_cmpLease_partner (hman : isManager s (ringCtx j.ring) = false) (hmode : s.flag F.CMP_STATUS_LEASE = true)
    (hpath : (s.ring j.ring).path < 6) (hlease : tabHas (tqKey (s.ring j.ring).path (s.ring j.ring).partner) s.comp.leases = true) :
    exec (.cmpLease d) s = .next (rowEnd s j (finishJob { startState s d zenith with comp := { s.comp with
      leases := tabPut (tqKey (s.ring j.ring).path (s.ring j.ring).partner) (max s.now d.t + 1000000 * s.comp.map.node.leaseMs) s.comp.leases } }
      (started j zenith) .ok)) := by
  have hman' : isManager (startState s d zenith) (ringCtx j.ring) = false := by
    simpa only [isManager, managers, startState_comp] using hman
  have hring : (startState s d zenith).ring j.ring = s.ring j.ring := by simp only [State.ring, startState_rings]
  refine congrArg Host.Outcome.next ((runDesc_ready h _).trans (congrArg (rowEnd s j) ?_))
  simp only [show (started j zenith).ring = j.ring from rfl, hman', hring, startState_flag, startState_comp, startState_now, hmode, hpath, hlease,
    decide_true, Bool.and_self, Bool.false_eq_true, if_false, if_true]

end

theorem cmpLease_beats {s : State} {d : Desc} {j : Job} (h : Ready s d 0x63 zenith j) (hman : isManager s (ringCtx j.ring) = true) :
    Gives (.cmpLease d) s fun u =>
      u.comp.lastBeat = max s.now d.t ∧ u.flag F.CMP_STATUS_LEASE = false ∧ Ends u d (endCode j .ok) := by
  refine ⟨_, exec_cmpLease_manager h hman, ?_, ?_, ends_of_found h ?_ _ _⟩
  · rw [rowEnd_comp, finishJob_comp, heartbeat, endLease_lastBeat]
    exact startState_now _ _ _
  · rw [rowEnd_flag, finishJob_flag]
    exact endLease_flag _
  · exact (findJob_endLease _ _ _).trans (findJob_startState _ _ _ _ _)

theorem cmpLease_renews {s : State} {d : Desc} {j : Job} (h : Ready s d 0x63 zenith j) (hman : isManager s (ringCtx j.ring) = false)
    (hmode : s.flag F.CMP_STATUS_LEASE = true) (hpath : (s.ring j.ring).path < 6)
    (hlease : tabHas (tqKey (s.ring j.ring).path (s.ring j.ring).partner) s.comp.leases = true) :
    Gives (.cmpLease d) s fun u =>
      tabGet? (tqKey (s.ring j.ring).path (s.ring j.ring).partner) u.comp.leases = some (max s.now d.t + 1000000 * s.comp.map.node.leaseMs) ∧
        Ends u d (endCode j .ok) := by
  refine ⟨_, exec_cmpLease_partner h hman hmode hpath hlease, ?_, ends_of_found h ?_ _ _⟩
  · rw [rowEnd_comp, finishJob_comp]
    exact tabGet?_tabPut_same _ _ _
  · exact findJob_startState s d zenith _ _

/-! ### CMP_FENCE (R553 to R556) -/

/-- What CMP_FENCE does once its statement and endorsements have been read. -/
def fenceJudged (s : State) (j : Job) (b : List Byte) (es : List (List Byte)) : State :=
  let seq := s.get F.CMP_FENCE_FENCE_SEQ
  let a := leVal ((b.drop 8).take 1)
  let p := leVal ((b.drop 9).take 1)
  let q := leVal ((b.drop 10).take 1)
  if endorsed s b es < s.comp.map.node.quorumK then finishJob s j .integrity
  else if leVal ((b.drop 12).take 4) ≠ curEpoch s ∨ leVal ((b.drop 16).take 8) ≠ seq then
    finishJob (s.bumpSat F.CMP_STATS_STALE_COMMITS) j .staleBase (curEpoch s)
  else if fenceMalformed s b then finishJob s j .malformed
  else
    let g := fenceGo (s.set F.CMP_FENCE_FENCE_SEQ (seq + 1)) a p q
    let g := { g with comp := { g.comp with kept := g.comp.fenced, keptExpel := g.flag F.CMP_STATUS_EXPELLED } }
    finishJob (postRas g 0x2C zenith (a + p * 2 ^ 8 + q * 2 ^ 11)) j .ok

theorem exec_cmpFence {s s1 : State} {d : Desc} {j : Job} {bs : List (List Byte)} (h : Ready s d 0x64 zenith j)
    (hruns : commitRuns (startState s d zenith) = false)
    (hfetch : fetchRanges (startState s d zenith) (started j zenith) zenith (cmpRanges d.words) = (some bs, s1)) :
    exec (.cmpFence d) s = .next (rowEnd s j (fenceJudged s1 (started j zenith) (bs.getD 0 [])
      (cutBytes 3456 (dbits d.words 32 0 8) (bs.getD 1 [])))) := by
  have hwords : (started j zenith).words = d.words := h.2.1
  refine congrArg Host.Outcome.next ((runDesc_ready h _).trans (congrArg (rowEnd s j) ?_))
  simp only [hwords, hruns, hfetch, Bool.false_eq_true, if_false]
  rfl

section
variable {s : State} {j : Job} {b : List Byte} {es : List (List Byte)}

theorem fenceJudged_unendorsed (hfew : ¬ s.comp.map.node.quorumK ≤ endorsed s b es) : fenceJudged s j b es = finishJob s j .integrity :=
  if_pos (Nat.not_le.1 hfew)

variable (henough : s.comp.map.node.quorumK ≤ endorsed s b es)
include henough

theorem fenceJudged_stale
    (hold : ¬ (leVal ((b.drop 12).take 4) = curEpoch s ∧ leVal ((b.drop 16).take 8) = s.get F.CMP_FENCE_FENCE_SEQ)) :
    fenceJudged s j b es = finishJob (s.bumpSat F.CMP_STATS_STALE_COMMITS) j .staleBase (curEpoch s) :=
  (if_neg (Nat.not_lt.2 henough)).trans (if_pos (Classical.not_and_iff_not_or_not.1 hold))

variable (hnow : leVal ((b.drop 12).take 4) = curEpoch s ∧ leVal ((b.drop 16).take 8) = s.get F.CMP_FENCE_FENCE_SEQ)
include hnow

theorem fenceJudged_malformed (hbad : fenceMalformed s b = true) : fenceJudged s j b es = finishJob s j .malformed :=
  (if_neg (Nat.not_lt.2 henough)).trans ((if_neg (by tauto)).trans (if_pos hbad))

theorem fenceJudged_acts (hgood : fenceMalformed s b = false) :
    fenceJudged s j b es =
      (let a := leVal ((b.drop 8).take 1)
       let p := leVal ((b.drop 9).take 1)
       let q := leVal ((b.drop 10).take 1)
       let g := fenceGo (s.set F.CMP_FENCE_FENCE_SEQ (s.get F.CMP_FENCE_FENCE_SEQ + 1)) a p q
       finishJob (postRas { g with comp := { g.comp with kept := g.comp.fenced, keptExpel := g.flag F.CMP_STATUS_EXPELLED } }
         0x2C zenith (a + p * 2 ^ 8 + q * 2 ^ 11)) j .ok) :=
  (if_neg (Nat.not_lt.2 henough)).trans ((if_neg (by tauto)).trans (if_neg (by simp [hgood])))

end

/-! ### The timers of LEASE mode (R550, R552) -/

section
variable {s : State} {t : Nat}

theorem managerTimeout_starts (hmode : s.flag F.CMP_STATUS_LEASE = false) (hman : s.comp.map.managers ≠ [])
    (hdue : s.comp.lastBeat + 1000000 * s.comp.map.node.mgrMs ≤ max s.now t) :
    Gives (.managerTimeout t) s fun u =>
      u.flag F.CMP_STATUS_LEASE = true ∧ u.comp.leases = (s.comp.map.partners.filter fun e => e.2).map fun e =>
        (e.1, max s.now t + 1000000 * s.comp.map.node.leaseMs) := by
  have hgo : ¬ ((s.upto t).flag F.CMP_STATUS_LEASE = true ∨ (s.upto t).comp.map.managers.isEmpty = true ∨
      (s.upto t).now < (s.upto t).comp.lastBeat + 1000000 * (s.upto t).comp.map.node.mgrMs) := by
    simp only [State.upto_flag, State.upto_comp, State.upto_now, hmode, List.isEmpty_iff, hman, Nat.not_lt.2 hdue, Bool.false_eq_true, or_self,
      not_false_eq_true]
  refine ⟨_, congrArg Host.Outcome.next (if_neg hgo), ?_, ?_⟩
  · rw [(OnlyEvents.postRas _ _ _ _ _).flag (by decide)]
    exact State.flag_setFlag_same _ _ _ (by decide)
  · exact (OnlyEvents.postRas _ _ _ _ _).compPart Comp.leases fun _ => rfl

theorem exec_managerTimeout_early (hearly : max s.now t < s.comp.lastBeat + 1000000 * s.comp.map.node.mgrMs) :
    exec (.managerTimeout t) s = .next (s.upto t) :=
  congrArg Host.Outcome.next (if_pos (.inr (.inr hearly)))

variable {p : Fin 6} {q : Fin 256} {e : Nat} (hlease : tabGet? (tqKey p q) s.comp.leases = some e) (hmode : s.flag F.CMP_STATUS_LEASE = true)
include hlease hmode

theorem exec_leaseLapse_due (hdue : e ≤ max s.now t) :
    exec (.leaseLapse p q t) s = .next (wake (postRas { s.upto t with comp := { s.comp with
      leases := tabDel (tqKey p q) s.comp.leases, lapsed := setAdd (tqKey p q) s.comp.lapsed } } 0x2B zenith (p.val * 256 + q.val))) := by
  refine congrArg Host.Outcome.next ?_
  simp only [State.upto_comp, hlease, State.upto_flag, hmode, State.upto_now, hdue, decide_true, Bool.and_self, if_true]

theorem exec_leaseLapse_early (hearly : max s.now t < e) : exec (.leaseLapse p q t) s = .next (s.upto t) := by
  refine congrArg Host.Outcome.next ?_
  simp only [State.upto_comp, hlease, State.upto_flag, hmode, State.upto_now, Nat.not_le.2 hearly, decide_false, Bool.and_false,
    Bool.false_eq_true, if_false]

end

/-- Settles O30: each command and timer of leases and fences, in the cases that the statement names. -/
theorem leasesAndFencesAct : Obligations.LeasesAndFencesAct := by
  refine ⟨fun s d j => ⟨fun s1 h hprep hlost => exec_cmpEvents h rfl rfl hprep hlost, fun h => ⟨cmpLease_beats h, cmpLease_renews h⟩,
      fun s1 bs h hruns hfetch => ⟨fun hfew => ?_, fun henough hold => ?_, fun henough hnow hbad => ?_, fun henough hnow hgood => ?_⟩⟩,
    fun s t => ⟨managerTimeout_starts, exec_managerTimeout_early, fun p q e hlease hmode =>
      ⟨exec_leaseLapse_due hlease hmode, exec_leaseLapse_early hlease hmode⟩⟩⟩
  · rw [exec_cmpFence h hruns hfetch, fenceJudged_unendorsed hfew]
  · rw [exec_cmpFence h hruns hfetch, fenceJudged_stale henough hold]
  · rw [exec_cmpFence h hruns hfetch, fenceJudged_malformed henough hnow hbad]
  · rw [exec_cmpFence h hruns hfetch, fenceJudged_acts henough hnow hgood]

end Sys2Proof.Machine
end

section
/-! SUPPORT. The life cycle and the tamper response (spec/15, R579 to R586, R596, R666): what a change of the life cycle erases where nothing waits,
what a tamper response leaves of the ports, and the rows of the fuse, of debug and of the test port. -/

namespace Sys2Proof.Machine

open Sys2Proof

/-! ### Steps taken once for each of several things -/

/-- What one step of a fold establishes for its element, and every step keeps, holds at the end of each element. -/
theorem foldl_establishes {α : Type} {g : State → α → State} {P : α → State → Prop} (hset : ∀ s x, P x (g s x))
    (hkeep : ∀ s x y, P x s → P x (g s y)) (l : List α) (s : State) : ∀ x ∈ l, P x (l.foldl g s) := by
  induction l generalizing s with
  | nil => exact fun x hx => absurd hx List.not_mem_nil
  | cons y l ih =>
    intro x hx
    rcases List.mem_cons.1 hx with rfl | hx
    · exact List.foldlRecOn (motive := fun u : State => P x u) l g (hset s x) fun u hu y _ => hkeep u x y hu
    · exact ih _ x hx

/-! ### Changing the life cycle (R579 to R581) -/

theorem goDown_of_down {s : State} {p : Nat} (h : s.get (F.KZP_STATUS_STATE p) = 0) (reason : Nat) (send : Bool) : goDown s p reason send = s :=
  if_pos h

theorem ports_goDown_of_down {s : State} (h : ∀ p : Fin 6, s.get (F.KZP_STATUS_STATE p) = 0) (reason : Nat) (send : Bool) :
    (List.range 6).foldl (fun s p => goDown s p reason send) s = s :=
  List.foldlRecOn (motive := fun u : State => u = s) _ _ rfl fun _ hu p hp =>
    hu ▸ goDown_of_down (h ⟨p, List.mem_range.1 hp⟩) reason send

/-- With no transaction, what the directory holds for lines goes and nothing resumes. -/
theorem dropLines_idle {s : State} (h : s.dir.txns = []) (out : Nat → Bool) :
    dropLines s out = { s with dir := { s.dir with ents := s.dir.ents.filter fun e => !out e.1, lost := s.dir.lost.filter fun l => !out l } } := by
  simp only [dropLines, h, List.filter_nil, List.foldl_nil]

/-- The secure SRAM and the register pair of the life cycle, with the domains, as R581 leaves them before the pool goes. -/
def lcErased (s : State) (v : Nat) : State :=
  let s := ((wipeSram s).set F.LC_STATE_STATE v).set F.LC_STATE_STATE_C (onesComp 32 v)
  { s with sec := { s.sec with doms := [], blocksBad := if v = 4 then 0 else s.sec.blocksBad } }

/-- The pool without its pages, bytes and staged lines. -/
def poolGone (s : State) : State :=
  { s with
    store := { s.store with pages := [], mem := [], poison := [], stage := [], dirty := [], huge := [], moves := [] }
    cache := { s.cache with guests := [], track := [], wbs := [] }
    xlt := { s.xlt with tlb := [] } }

/-- Where no transaction is open the pool and the directory's entries go, and nothing else. -/
theorem dropPool_idle {s : State} (h : s.dir.txns = []) : dropPool s = { poolGone s with
    dir := { s.dir with ents := s.dir.ents.filter fun _ => false, lost := s.dir.lost.filter fun _ => false } } :=
  dropLines_idle (s := poolGone s) h fun _ => true

/-- On a quiet device whose ports are all DOWN the steps of R581 are the erasure alone. -/
theorem changeLc_quiet {s : State} (h : Quiet s) (hdown : ∀ p : Fin 6, s.get (F.KZP_STATUS_STATE p) = 0) (v : Nat) :
    changeLc s v = dropPool (lcErased s v) := by
  obtain ⟨hflights, -, hlapsed, hfenced, -, htxns⟩ := h
  have hquiet : Quiet (dropPool (lcErased s v)) := by
    rw [dropPool_idle (s := lcErased s v) htxns]
    exact ⟨hflights, rfl, hlapsed, hfenced, List.filter_false _, htxns⟩
  unfold changeLc
  rw [ports_goDown_of_down hdown]
  exact wake_quiet hquiet

theorem changeLc_erases {s : State} (h : Quiet s) {v : Nat} (hv : v < 2 ^ 32) (hdown : ∀ p : Fin 6, s.get (F.KZP_STATUS_STATE p) = 0) :
    let u := changeLc s v
    u.get F.LC_STATE_STATE = v ∧ u.get F.LC_STATE_STATE_C = onesComp 32 v ∧ u.sec.slots = [] ∧ u.sec.ekeys = [] ∧ u.sec.portCur = [] ∧
      u.store.pages = [] ∧ u.store.mem = [] ∧ u.cache.guests = [] := by
  have htxns : (lcErased s v).dir.txns = [] := h.2.2.2.2.2
  have hcomp : onesComp 32 v < 2 ^ 32 := by
    unfold onesComp
    omega
  rw [changeLc_quiet h hdown, dropPool_idle htxns]
  refine ⟨?_, (State.get_set_same _ _ _).trans (Nat.mod_eq_of_lt hcomp), rfl, rfl, rfl, rfl, rfl, rfl⟩
  exact ((State.get_set_ne _ _ (by decide)).trans (State.get_set_same _ _ _)).trans (Nat.mod_eq_of_lt hv)

/-! ### SEC_LC (R579, R598) -/

/-- A state that is not listed as the next one is refused: the same state never is. -/
theorem secLc_same {s : State} {d : Desc} {j : Job} (h : Ready s d 0x6F zenith j) (hsame : dbits d.words 16 0 8 = lcState s) :
    exec (.secLc d) s = .next (rowEnd s j (finishJob (startState s d zenith) (started j zenith) .denied)) := by
  have hwords : (started j zenith).words = d.words := h.2.1
  have hlc : lcState (startState s d zenith) = lcState s := startState_get _ _ _ _
  refine congrArg Host.Outcome.next ((runDesc_ready h _).trans (congrArg (rowEnd s j) (if_pos ?_)))
  rw [hwords, hsame, hlc]
  have hlisted : ((lcState s == 1 && lcState s == 2) || (lcState s == 2 && lcState s == 3) || (lcState s == 3 && lcState s == 4) ||
      (lcState s == 4 && lcState s == 5) || (lcState s == 5 && decide (1 ≤ lcState s) && decide (lcState s ≤ 3))) = false := by
    simp only [Bool.or_eq_false_iff, Bool.and_eq_false_iff, beq_eq_false_iff_ne, decide_eq_false_iff_not]
    omega
  rw [hlisted]
  rfl

/-- PROVISIONED to SCRAPPED asks for no statement: context 1 alone does it once no domain is left. -/
theorem secLc_scraps {s s1 : State} {d : Desc} {j : Job} {bs : List (List Byte)} (h : Ready s d 0x6F zenith j) (hctx : ringCtx j.ring = 1)
    (hdoms : s.sec.doms = []) (hlc : lcState s = 2) (hto : dbits d.words 16 0 8 = 5)
    (hfetch : fetchRanges (startState s d zenith) (started j zenith) zenith [] = (some bs, s1)) :
    exec (.secLc d) s = .next (rowEnd s j (finishJob (changeLc s1 5) (started j zenith) .ok)) := by
  have hwords : (started j zenith).words = d.words := h.2.1
  have hlc' : lcState (startState s d zenith) = 2 := (startState_get _ _ _ _).trans hlc
  have hctx' : ringCtx (started j zenith).ring = 1 := hctx
  have hdoms' : (startState s d zenith).sec.doms = [] := by rw [startState_sec, hdoms]
  refine congrArg Host.Outcome.next ((runDesc_ready h _).trans (congrArg (rowEnd s j) ?_))
  simp only [hwords, hto, hlc', hctx', hdoms']
  simp only [Nat.reduceBEq, Nat.reduceLT, Nat.reduceLeDiff, decide_true, Bool.and_true, Bool.or_true, Bool.not_true, Bool.false_or, bne_self_eq_false,
    Bool.and_false, List.isEmpty_nil, Bool.false_eq_true, if_false, if_true, List.take_zero, Nat.reduceEqDiff, hfetch]

/-! ### The tamper response (R582 to R586) -/

section
variable (p : Nat)

@[simp] theorem F.KZP_CXL_STATUS_MEM_EN_key : (F.KZP_CXL_STATUS_MEM_EN p).key = 0x480C01 + 0x40000 * p := Fld.key_of_portBlock rfl rfl
@[simp] theorem F.KZP_CRYPTO_KEY_WAIT_key : (F.KZP_CRYPTO_KEY_WAIT p).key = 0x480620 + 0x40000 * p := Fld.key_of_portBlock rfl rfl

end

/-- A state without the register fields, the secure SRAM and what the ports hold beside their registers. -/
def besidePorts (s : State) : State := { s with regs := [], sec := {}, ports := {} }

theorem besidePorts_set (s : State) (f : Fld) (v : Nat) : besidePorts (s.set f v) = besidePorts s := rfl
theorem besidePorts_setFlag (s : State) (f : Fld) (b : Bool) : besidePorts (s.setFlag f b) = besidePorts s := rfl
theorem besidePorts_setLink (s : State) (p l : Nat) (f : Link → Link) : besidePorts (setLink s p l f) = besidePorts s := rfl
theorem besidePorts_setPort (s : State) (p : Nat) (f : PortSt → PortSt) : besidePorts (setPort s p f) = besidePorts s := rfl

theorem turnKeys_beside (s : State) (p : Nat) : besidePorts (turnKeys s p) = besidePorts s := by
  unfold turnKeys
  extract_lets src turned fresh linked
  have hturned : besidePorts turned = besidePorts s := rfl
  have hlinked : besidePorts linked = besidePorts turned :=
    List.foldlRecOn (motive := fun u : State => besidePorts u = besidePorts turned) sixLinks _ rfl fun u hu l _ => by
      rw [besidePorts_set, besidePorts_setLink, hu]
  rw [besidePorts_set, hlinked, hturned]

theorem cutPort_beside (s : State) (p reason : Nat) : besidePorts (cutPort s p reason) = besidePorts s := by
  unfold cutPort
  rw [turnKeys_beside, besidePorts_setPort, besidePorts_setFlag, besidePorts_setFlag, besidePorts_set, besidePorts_set]

/-- The fields of port `p` that a cut changes beside its STATE and REASON. -/
def cutKey (p k : Nat) : Prop :=
  k = (F.KZP_CXL_STATUS_LINK_UP p).key ∨ k = (F.KZP_CXL_STATUS_MEM_EN p).key ∨ k = (F.KZP_CRYPTO_KEY_WAIT p).key ∨
    ∃ l < 6, k = (F.KZP_L_STATUS_TX_COUNTER_HI p l).key

theorem turnKeys_get {s : State} {p : Nat} {f : Fld} (hwait : f.key ≠ (F.KZP_CRYPTO_KEY_WAIT p).key)
    (hctr : ∀ l < 6, f.key ≠ (F.KZP_L_STATUS_TX_COUNTER_HI p l).key) : (turnKeys s p).get f = s.get f := by
  unfold turnKeys
  dsimp only
  rw [State.get_set_ne _ _ hwait]
  refine (List.foldlRecOn (motive := fun u : State => u.get f = s.get f) sixLinks _ rfl fun u hu l hl => ?_)
  rw [State.get_set_ne _ _ (hctr l (lt_six_of_mem_sixLinks hl)), setLink_get, hu]

section
variable {s : State} {p reason : Nat} {f : Fld} (hcut : ¬ cutKey p f.key)
include hcut

/-- A cut of a port changes its STATE and REASON as set before, and no other field but those named. -/
theorem cutPort_get : (cutPort s p reason).get f =
    ((s.set (F.KZP_STATUS_STATE p) 0).set (F.KZP_STATUS_REASON p) reason).get f := by
  simp only [cutKey, not_or, not_exists, not_and] at hcut
  obtain ⟨hup, hmem, hwait, hctr⟩ := hcut
  unfold cutPort
  dsimp only
  rw [turnKeys_get hwait hctr, setPort_get, State.get_setFlag_ne _ _ hmem, State.get_setFlag_ne _ _ hup]

end

/-- The keys that a cut may change lie in the ports' registers, and none is a port's STATE or REASON. -/
theorem not_cutKey_of_lt {p k : Nat} (hk : k < 0x480000) : ¬ cutKey p k := by
  rintro (h | h | h | ⟨l, -, h⟩) <;> simp only [F.KZP_CXL_STATUS_LINK_UP_key, F.KZP_CXL_STATUS_MEM_EN_key, F.KZP_CRYPTO_KEY_WAIT_key,
    F.KZP_L_STATUS_TX_COUNTER_HI_key] at h <;> omega

theorem not_cutKey_status {p q k : Nat} (hk : k = (F.KZP_STATUS_STATE q).key ∨ k = (F.KZP_STATUS_REASON q).key) : ¬ cutKey p k := by
  simp only [F.KZP_STATUS_STATE_key, F.KZP_STATUS_REASON_key] at hk
  rintro (h | h | h | ⟨l, hl, h⟩) <;> simp only [F.KZP_CXL_STATUS_LINK_UP_key, F.KZP_CXL_STATUS_MEM_EN_key, F.KZP_CRYPTO_KEY_WAIT_key,
    F.KZP_L_STATUS_TX_COUNTER_HI_key] at h <;> omega

theorem cutPort_get_of_lt {f : Fld} (hf : f.key < 0x480000) (s : State) (p reason : Nat) : (cutPort s p reason).get f = s.get f := by
  rw [cutPort_get (not_cutKey_of_lt hf), State.get_set_ne, State.get_set_ne]
  · rw [F.KZP_STATUS_STATE_key]
    omega
  · rw [F.KZP_STATUS_REASON_key]
    omega

theorem cutPort_get_state (s : State) (p reason : Nat) : (cutPort s p reason).get (F.KZP_STATUS_STATE p) = 0 := by
  rw [cutPort_get (not_cutKey_status (.inl rfl)), State.get_set_ne, State.get_set_same, Nat.zero_mod]
  rw [F.KZP_STATUS_STATE_key, F.KZP_STATUS_REASON_key]
  omega

theorem cutPort_get_reason (s : State) (p : Nat) {reason : Nat} (hr : reason < 16) :
    (cutPort s p reason).get (F.KZP_STATUS_REASON p) = reason := by
  rw [cutPort_get (not_cutKey_status (.inr rfl)), State.get_set_same]
  exact Nat.mod_eq_of_lt hr

/-- A port that has been cut stays so when another is. -/
theorem cutPort_keeps {s : State} {p q reason : Nat} (hr : reason < 16)
    (h : s.get (F.KZP_STATUS_STATE p) = 0 ∧ s.get (F.KZP_STATUS_REASON p) = reason) :
    (cutPort s q reason).get (F.KZP_STATUS_STATE p) = 0 ∧ (cutPort s q reason).get (F.KZP_STATUS_REASON p) = reason := by
  by_cases hpq : p = q
  · subst hpq
    exact ⟨cutPort_get_state s p reason, cutPort_get_reason s p hr⟩
  · rw [cutPort_get (not_cutKey_status (.inl rfl)), cutPort_get (not_cutKey_status (.inr rfl)), State.get_set_ne, State.get_set_ne, State.get_set_ne,
      State.get_set_ne]
    · exact h
    all_goals
      simp only [F.KZP_STATUS_STATE_key, F.KZP_STATUS_REASON_key]
      omega

/-- All six ports are cut. -/
def cutPorts (s : State) (reason : Nat) : State := (List.range 6).foldl (fun s p => cutPort s p reason) s

theorem cutPorts_beside (s : State) (reason : Nat) : besidePorts (cutPorts s reason) = besidePorts s :=
  List.foldlRecOn (motive := fun u : State => besidePorts u = besidePorts s) _ _ rfl fun u hu p _ => (cutPort_beside u p reason).trans hu

theorem cutPorts_get_of_lt {f : Fld} (hf : f.key < 0x480000) (s : State) (reason : Nat) : (cutPorts s reason).get f = s.get f :=
  foldl_get (fun u p => cutPort_get_of_lt hf u p reason) _ _

theorem cutPorts_down (s : State) {reason : Nat} (hr : reason < 16) (p : Fin 6) :
    (cutPorts s reason).get (F.KZP_STATUS_STATE p) = 0 ∧ (cutPorts s reason).get (F.KZP_STATUS_REASON p) = reason :=
  foldl_establishes (P := fun p u => u.get (F.KZP_STATUS_STATE p) = 0 ∧ u.get (F.KZP_STATUS_REASON p) = reason)
    (fun u q => ⟨cutPort_get_state u q reason, cutPort_get_reason u q hr⟩) (fun _ _ _ h => cutPort_keeps hr h) _ _ _ (List.mem_range.2 p.isLt)

/-- The state with the sensor noted whose condition has lasted. -/
def tamperNoted (s : State) (k : Nat) : State := s.set F.SEC_TAMPER_STATUS_SOURCE (Nat.lor (s.get F.SEC_TAMPER_STATUS_SOURCE) (2 ^ k))

theorem bits_tamperNoted (s : State) (k : Fin 5) : bits ((tamperNoted s k).get F.SEC_TAMPER_STATUS_SOURCE) k 1 = 1 := by
  rw [tamperNoted, State.get_set_same, bits_mod_two_pow (n := F.SEC_TAMPER_STATUS_SOURCE.wid) k.isLt]
  exact bits_lor_two_pow _ _

/-- The tamper response. -/
def tamperMet (s : State) : State := (wipeSram (cutPorts (stopAll s) 14)).setFlag F.SEC_TAMPER_STATUS_TAMPERED true

section
variable {s : State} {k : Fin 5} {t : Nat} (hon : sensorOn s k = true) (hoff : s.clk.off = false)
include hon hoff

theorem exec_tamper_first (hfirst : s.flag F.SEC_TAMPER_STATUS_TAMPERED = false) :
    exec (.tamper k t) s = .next (tamperMet (tamperNoted (s.upto t) k)) := by
  have hnot : ¬ ((!sensorOn (s.upto t) k.val) = true ∨ (s.upto t).clk.off = true) := by
    rw [show sensorOn (s.upto t) k.val = true from hon, State.upto_clk, hoff]
    decide
  have hnoted : (tamperNoted (s.upto t) k).flag F.SEC_TAMPER_STATUS_TAMPERED = false :=
    (State.flag_set_ne _ _ (by decide)).trans hfirst
  exact congrArg Host.Outcome.next ((if_neg hnot).trans (if_neg fun h => absurd (hnoted.symm.trans h) (by decide)))

theorem exec_tamper_again (hagain : s.flag F.SEC_TAMPER_STATUS_TAMPERED = true) :
    exec (.tamper k t) s = .next (tamperNoted (s.upto t) k) := by
  have hnot : ¬ ((!sensorOn (s.upto t) k.val) = true ∨ (s.upto t).clk.off = true) := by
    rw [show sensorOn (s.upto t) k.val = true from hon, State.upto_clk, hoff]
    decide
  have hnoted : (tamperNoted (s.upto t) k).flag F.SEC_TAMPER_STATUS_TAMPERED = true :=
    (State.flag_set_ne _ _ (by decide)).trans hagain
  exact congrArg Host.Outcome.next ((if_neg hnot).trans (if_pos hnoted))

end

theorem wipeSram_get (s : State) (f : Fld) : (wipeSram s).get f = s.get f := rfl

theorem stopAll_get (s : State) (f : Fld) : (stopAll s).get f = s.get f := rfl

/-- What the response wipes in the secure SRAM. -/
theorem tampered_sec (s : State) (f : Fld) : ((wipeSram s).setFlag f true).sec.slots = [] ∧ ((wipeSram s).setFlag f true).sec.ekeys = [] ∧
    ((wipeSram s).setFlag f true).sec.portCur = [] ∧ ((wipeSram s).setFlag f true).sec.portNext = [] := ⟨rfl, rfl, rfl, rfl⟩

theorem tampered_beside (s : State) (f : Fld) : besidePorts ((wipeSram s).setFlag f true) = besidePorts s := rfl

/-- What stopping all work leaves of what accessed memory or a link. -/
theorem stopAll_stops (s : State) : (stopAll s).fab.flights = [] ∧ (stopAll s).rings.jobs = [] ∧ (stopAll s).plane.kerns = [] ∧
    (stopAll s).store = s.store := ⟨rfl, rfl, rfl, rfl⟩

/-- What the response leaves beside the ports' registers and the secure SRAM. -/
theorem tamperMet_part {α : Type} (part : State → α) (hpart : ∀ u, part (besidePorts u) = part u) (s : State) :
    part (tamperMet s) = part (stopAll s) := by
  have hbeside : besidePorts (tamperMet s) = besidePorts (stopAll s) := (tampered_beside _ _).trans (cutPorts_beside (stopAll s) 14)
  rw [← hpart (tamperMet s), hbeside, hpart]

theorem tamperMet_get_source (s : State) : (tamperMet s).get F.SEC_TAMPER_STATUS_SOURCE = s.get F.SEC_TAMPER_STATUS_SOURCE := by
  rw [tamperMet, State.get_setFlag_ne _ _ (by decide), wipeSram_get, cutPorts_get_of_lt (by decide), stopAll_get]

theorem tamperMet_down (s : State) (p : Fin 6) :
    (tamperMet s).get (F.KZP_STATUS_STATE p) = 0 ∧ (tamperMet s).get (F.KZP_STATUS_REASON p) = 14 := by
  rw [tamperMet, State.get_setFlag_ne, State.get_setFlag_ne, wipeSram_get, wipeSram_get]
  · exact cutPorts_down _ (by decide) p
  all_goals
    simp only [F.KZP_STATUS_STATE_key, F.KZP_STATUS_REASON_key]
    change _ ≠ 0x4020 * 64 + 5
    omega

theorem tamper_met (s : State) (k : Fin 5) : let u := tamperMet (tamperNoted s k)
    u.flag F.SEC_TAMPER_STATUS_TAMPERED = true ∧ bits (u.get F.SEC_TAMPER_STATUS_SOURCE) k 1 = 1 ∧ u.sec.slots = [] ∧ u.sec.ekeys = [] ∧
      u.sec.portCur = [] ∧ u.sec.portNext = [] ∧ u.fab.flights = [] ∧ u.rings.jobs = [] ∧ u.plane.kerns = [] ∧ u.store = s.store ∧
      ∀ p : Fin 6, u.get (F.KZP_STATUS_STATE p) = 0 ∧ u.get (F.KZP_STATUS_REASON p) = 14 := by
  intro u
  obtain ⟨hslots, hekeys, hcur, hnext⟩ := tampered_sec (cutPorts (stopAll (tamperNoted s k)) 14) F.SEC_TAMPER_STATUS_TAMPERED
  obtain ⟨hflights, hjobs, hkerns, hstore⟩ := stopAll_stops (tamperNoted s k)
  have hsource : bits (u.get F.SEC_TAMPER_STATUS_SOURCE) k 1 = 1 := by
    rw [tamperMet_get_source]
    exact bits_tamperNoted s k
  exact ⟨State.flag_setFlag_same _ _ _ (by decide), hsource, hslots, hekeys, hcur, hnext,
    (tamperMet_part (fun u => u.fab.flights) (fun _ => rfl) _).trans hflights, (tamperMet_part (fun u => u.rings.jobs) (fun _ => rfl) _).trans hjobs,
    (tamperMet_part (fun u => u.plane.kerns) (fun _ => rfl) _).trans hkerns, (tamperMet_part State.store (fun _ => rfl) _).trans hstore,
    tamperMet_down _⟩

/-! ### The SVN fuse, debug and the test port (R580, R596, R666) -/

section
variable {s : State} {t : Nat}

/-- The image that runs. -/
def runningBank (s : State) : Bank := s.comp.banks.getD (s.get F.RAS_FW_ACTIVE_BANK) {}

theorem exec_svnFuse_raises (hraise : (runningBank s).raise = true) (hstage : s.get F.RAS_FW_STAGE ≠ 1) (hup : s.get F.RAS_STATUS_CORES_UP = 15)
    (hlong : s.comp.imageAt + 60000000000 ≤ max s.now t) (hless : s.get F.LC_SVN_SVN < (runningBank s).svn) :
    exec (.svnFuse t) s = .next ((s.upto t).set F.LC_SVN_SVN (runningBank s).svn) := by
  refine congrArg Host.Outcome.next (if_pos ?_)
  change ((runningBank s).raise && s.get F.RAS_FW_STAGE != 1 && s.get F.RAS_STATUS_CORES_UP == 15 && decide (s.comp.imageAt + 60000000000 ≤ max s.now t) &&
    decide (s.get F.LC_SVN_SVN < (runningBank s).svn)) = true
  simp [hraise, hstage, hup, hlong, hless]

theorem exec_svnFuse_keeps (hraise : (runningBank s).raise = false) : exec (.svnFuse t) s = .next (s.upto t) := by
  refine congrArg Host.Outcome.next (if_neg ?_)
  change ¬ ((runningBank s).raise && _ && _ && _ && _) = true
  rw [hraise]
  simp only [Bool.false_and, Bool.false_eq_true, not_false_eq_true]

theorem exec_debugOpen_opens {token : List Byte} (hrun : halted s = false) (hmay : debugMay s token = true) :
    exec (.debugOpen token t) s = .next
      ((({ s.upto t with sec := { s.sec with nonce := s.sec.nonce + 1 } } : State).setFlag F.LC_DEBUG_OPEN true).bumpSat F.LC_DEBUG_OPENS) := by
  refine congrArg Host.Outcome.next (if_neg ?_)
  rw [show halted (s.upto t) = false from hrun, show debugMay (s.upto t) token = true from hmay]
  decide

theorem exec_debugOpen_refused {token : List Byte} (hmay : debugMay s token = false) : exec (.debugOpen token t) s = .next (s.upto t) := by
  refine congrArg Host.Outcome.next (if_pos ?_)
  rw [show debugMay (s.upto t) token = false from hmay, Bool.not_false, Bool.or_true]

theorem exec_tapInstruction {x : String} (hon : s.clk.off = false) :
    exec (.tapInstruction x) s = .next (s.emit (.mgmt "TAP_INSTRUCTION" (if !s.mgmt.answered || x = "BYPASS" || x = "IDCODE" then 0 else 1) [])) := by
  refine congrArg Host.Outcome.next ?_
  simp only [hon, Bool.not_false, Bool.true_and]

end

/-- Settles O36: a change of the life cycle and a tamper response erase what they must, and the fuse, debug and the test port obey their conditions. -/
theorem lifeCycleAndTamperErase : Obligations.LifeCycleAndTamperErase := by
  refine ⟨fun s s1 d j bs h hctx hdoms hlc hto hfetch => secLc_scraps h hctx hdoms hlc hto hfetch,
    fun s d j h hsame => ⟨_, secLc_same h hsame, ?_, ?_, ends_of_found h (findJob_startState _ _ _ _ _) _ _⟩,
    fun s v h hv hdown => changeLc_erases h hv hdown,
    fun s k t hsensor hon => ⟨fun hfirst => ⟨_, exec_tamper_first hsensor hon hfirst, tamper_met (s.upto t) k⟩, fun hagain =>
      ⟨_, exec_tamper_again hsensor hon hagain, bits_tamperNoted (s.upto t) k, (OnlyFields.refl _ _).set _ _ (by simp)⟩⟩,
    fun s t => ⟨fun hraise hstage hup hlong hless => ⟨_, exec_svnFuse_raises hraise hstage hup hlong hless, State.get_set_same _ _ _,
        (OnlyFields.refl _ _).set _ _ (by simp)⟩,
      fun hraise => exec_svnFuse_keeps hraise, fun token hrun => ⟨fun hmay => ⟨_, exec_debugOpen_opens hrun hmay, ?_, ?_, rfl⟩,
        fun hmay => exec_debugOpen_refused hmay⟩⟩,
    fun s x hon => ⟨fun hok => ?_, fun hans hbypass hid => ?_⟩⟩
  · rw [rowEnd_sec, finishJob_sec, startState_sec]
  · rw [rowEnd_store, finishJob_store, startState_store]
  · rw [State.flag, State.get_bumpSat_ne _ _ (by decide)]
    exact State.flag_setFlag_same _ _ _ (by decide)
  · rw [State.get_bumpSat_same, State.get_setFlag_ne _ _ (by decide)]
    rfl
  · rw [exec_tapInstruction hon, if_pos]
    rcases hok with h | h | h <;> simp [h]
  · rw [exec_tapInstruction hon, if_neg]
    simp [hans, hbypass, hid]

end Sys2Proof.Machine
end

section
/-! SUPPORT. Reports and keys (spec/15, R590 to R592, R601 to R606, R612): what each descriptor of the security block does once its ranges are ready,
and the signature indices. -/

namespace Sys2Proof.Machine

open Sys2Proof

/-! ### SEC_ATTEST (R602) -/

section
variable {s s1 : State} {d : Desc} {j : Job} (h : Ready s d 0x6A zenith j)
include h

theorem exec_secAttest_small (hsmall : dbits d.words 56 0 32 < 5184) :
    exec (.secAttest d) s = .next (rowEnd s j (finishJob (startState s d zenith) (started j zenith) .capacity)) := by
  have hwords : (started j zenith).words = d.words := h.2.1
  refine congrArg Host.Outcome.next ((runDesc_ready h _).trans (congrArg (rowEnd s j) (if_pos ?_)))
  rw [hwords]
  exact hsmall

/-- The end of a report, by what making it gives. -/
def attested (j : Job) (va : Nat) : Except Code (Option (List Byte)) × State → State
  | (.error c, t) => finishJob t (started j zenith) c
  | (.ok none, t) => putJob t { started j zenith with st := .waiting }
  | (.ok (some b), t) => finishJob (writeVa t (ringCtx j.ring) va b) (started j zenith) .ok

theorem exec_secAttest_reports (hlarge : 5184 ≤ dbits d.words 56 0 32)
    (hprep : prepare (startState s d zenith) (started j zenith) zenith [⟨dbits d.words 24 0 64, 32, .rd⟩, ⟨dbits d.words 48 0 64, 5184, .rdwr⟩] =
      (true, s1)) (hsound : poisonVa s1 (ringCtx j.ring) (dbits d.words 24 0 64) 32 = false)
    {b : List Byte} {s2 s3 : State} (hread : readVa s1 (ringCtx j.ring) (dbits d.words 24 0 64) 32 = (b, s2))
    {r : Except Code (Option (List Byte))} (hmade : makeReport s2 (dbits d.words 16 0 8) (dbits d.words 17 0 1 == 1) b = (r, s3)) :
    exec (.secAttest d) s = .next (rowEnd s j (attested j (dbits d.words 48 0 64) (r, s3))) := by
  have hwords : (started j zenith).words = d.words := h.2.1
  have hring : (started j zenith).ring = j.ring := rfl
  refine congrArg Host.Outcome.next ((runDesc_ready h _).trans (congrArg (rowEnd s j) ?_))
  simp only [hwords, hring, Nat.not_lt.2 hlarge, if_false, hprep, hsound, Bool.false_eq_true, hread, hmade]
  rcases r with c | (_ | b)
  · rfl
  · rw [← hwords]
    rfl
  · rfl

end

/-! ### Sealed keys (R603, R604, R612) -/

section
variable {s s1 : State} {d : Desc} {j : Job} {bs : List (List Byte)} (h : Ready s d 0x6B zenith j)
  (hfetch : fetchRanges (startState s d zenith) (started j zenith) zenith (secRanges d.words) = (some bs, s1))
include h hfetch

theorem exec_secKeyImport_wrong (hwrong : ¬ (leVal (((bs.getD 0 []).drop 1568).take 1) = 1 ∧
    leVal (((bs.getD 0 []).drop 1569).take 1) = dbits d.words 16 0 8)) :
    exec (.secKeyImport d) s = .next (rowEnd s j (finishJob s1 (started j zenith) .denied)) := by
  have hwords : (started j zenith).words = d.words := h.2.1
  refine congrArg Host.Outcome.next ((runDesc_ready h _).trans (congrArg (rowEnd s j) ?_))
  simp only [hwords, hfetch]
  exact if_pos (by tauto)

variable (hright : leVal (((bs.getD 0 []).drop 1568).take 1) = 1 ∧ leVal (((bs.getD 0 []).drop 1569).take 1) = dbits d.words 16 0 8)
include hright

theorem exec_secKeyImport_sealed (hopen : openSealed s1 (dbits d.words 16 0 8) (bs.getD 0 []) = none) :
    exec (.secKeyImport d) s = .next (rowEnd s j (finishJob (s1.bumpSat F.SEC_INTEGRITY_UNSEAL_FAILS) (started j zenith) .integrity)) := by
  have hwords : (started j zenith).words = d.words := h.2.1
  refine congrArg Host.Outcome.next ((runDesc_ready h _).trans (congrArg (rowEnd s j) ?_))
  simp only [hwords, hfetch, hright.1, hright.2, ne_eq, not_true_eq_false, or_self, if_false, hopen]

/-- The generation that a slot takes next. -/
def nextGen (s : State) (k : Nat) : Nat := (tabGet 0 k s.sec.gens + 1) % 2048

/-- A key in a slot, under a new generation. -/
def keySlotted (s : State) (k dom key : Nat) : State :=
  { s with sec := { s.sec with slots := tabPut k { domain := dom, gen := nextGen s k, key := key } s.sec.slots, gens := tabPut k (nextGen s k) s.sec.gens } }

theorem exec_secKeyImport_opens {key k : Nat} {s2 : State} (hopen : openSealed s1 (dbits d.words 16 0 8) (bs.getD 0 []) = some key)
    (hfree : freeSlot s1 = (some k, s2)) :
    exec (.secKeyImport d) s = .next (rowEnd s j (finishJob (keySlotted s2 k (dbits d.words 16 0 8) key) (started j zenith) .ok
      (k + dbits d.words 16 0 8 * 2 ^ 11 + nextGen s2 k * 2 ^ 19))) := by
  have hwords : (started j zenith).words = d.words := h.2.1
  refine congrArg Host.Outcome.next ((runDesc_ready h _).trans (congrArg (rowEnd s j) ?_))
  simp only [hwords, hfetch, hright.1, hright.2, ne_eq, not_true_eq_false, or_self, if_false, hopen, hfree]
  rfl

end

section
variable {s s1 : State} {d : Desc} {j : Job} {bs : List (List Byte)} {key : Nat} (h : Ready s d 0x6E zenith j)
  (hfetch : fetchRanges (startState s d zenith) (started j zenith) zenith (secRanges d.words) = (some bs, s1))
  (hkind : leVal (((bs.getD 0 []).drop 1568).take 1) = 2) (hdom : leVal (((bs.getD 0 []).drop 1569).take 1) = 0)
  (hopen : openSealed s1 0 (bs.getD 0 []) = some key)
include h hfetch hkind hdom hopen

/-- What SEC_PORT_KEY does with a port key that it has opened. -/
theorem exec_secPortKey_opened :
    exec (.secPortKey d) s = .next (rowEnd s j
      (let p := dbits d.words 16 0 3
       if tabGet? p s1.sec.portCur = some key ∨ tabGet? p s1.sec.portNext = some key then finishJob s1 (started j zenith) .denied
       else if dbits d.words 16 3 1 = 1 then
         finishJob { s1 with sec := { s1.sec with portNext := tabPut p key s1.sec.portNext } } (started j zenith) .ok
       else if 1 < s1.get (F.KZP_STATUS_STATE p) then finishJob s1 (started j zenith) .denied
       else finishJob (tryInit { s1 with sec := { s1.sec with portCur := tabPut p key s1.sec.portCur } } p) (started j zenith) .ok)) := by
  have hwords : (started j zenith).words = d.words := h.2.1
  refine congrArg Host.Outcome.next ((runDesc_ready h _).trans (congrArg (rowEnd s j) ?_))
  simp only [hwords, hfetch, hkind, hdom, ne_eq, not_true_eq_false, or_self, if_false, hopen, beq_iff_eq]

end

theorem tryInit_sec (s : State) (p : Nat) : (tryInit s p).sec = s.sec := by
  unfold tryInit
  split
  · rfl
  · split <;> rfl

/-! ### Handles (R601) -/

section
variable {s : State} {h : Nat}

theorem useHandle_unpaired {hc : Nat} (hbad : hc ≠ onesComp 32 h) (c : Nat) : useHandle s c h hc = (.error .cpair, secCpair s c) := if_pos hbad

variable (hsound : s.xlt.corrupt.contains (.keyHandle (handleSlot h)) = false)
include hsound

theorem useHandle_empty (hnone : tabGet? (handleSlot h) s.sec.slots = none) (c : Nat) : useHandle s c h (onesComp 32 h) = (.error .denied, s) := by
  simp only [useHandle, ne_eq, not_true_eq_false, if_false, hsound, Bool.false_eq_true, hnone]

theorem useHandle_named {k : KeySlot} (hk : tabGet? (handleSlot h) s.sec.slots = some k) (hgen : k.gen = handleGen h)
    (hdom : k.domain = handleDom h) (c : Nat) : useHandle s c h (onesComp 32 h) = (.ok k.key, s) := by
  simp only [useHandle, ne_eq, not_true_eq_false, if_false, hsound, Bool.false_eq_true, hk, hgen, hdom, and_self, if_true]

end

section
variable {s : State} {d : Desc} {j : Job} (h : Ready s d 0x6C zenith j)
include h

theorem exec_secKeyDiscard_error {c : Code} {t : State}
    (huse : useHandle (startState s d zenith) (ringCtx j.ring) (dbits d.words 16 0 32) (dbits d.words 20 0 32) = (.error c, t)) :
    exec (.secKeyDiscard d) s = .next (rowEnd s j (finishJob t (started j zenith) c)) := by
  have hwords : (started j zenith).words = d.words := h.2.1
  have hring : (started j zenith).ring = j.ring := rfl
  refine congrArg Host.Outcome.next ((runDesc_ready h _).trans (congrArg (rowEnd s j) ?_))
  simp only [hwords, hring, huse]

theorem exec_secKeyDiscard_ok {key : Nat} {t : State}
    (huse : useHandle (startState s d zenith) (ringCtx j.ring) (dbits d.words 16 0 32) (dbits d.words 20 0 32) = (.ok key, t)) :
    exec (.secKeyDiscard d) s = .next (rowEnd s j (finishJob
      { t with sec := { t.sec with slots := tabDel (handleSlot (dbits d.words 16 0 32)) t.sec.slots } } (started j zenith) .ok)) := by
  have hwords : (started j zenith).words = d.words := h.2.1
  have hring : (started j zenith).ring = j.ring := rfl
  refine congrArg Host.Outcome.next ((runDesc_ready h _).trans (congrArg (rowEnd s j) ?_))
  simp only [hwords, hring, huse]

end

theorem secCpair_onlyEvents (s : State) (c : Nat) : OnlyEvents s (secCpair s c) := OnlyEvents.postFault s rfl

section
variable {s : State} {d : Desc} {j : Job} (h : Ready s d 0x6C zenith j)
include h

theorem secKeyDiscard_frees {k : KeySlot} (hpair : dbits d.words 20 0 32 = onesComp 32 (dbits d.words 16 0 32))
    (hsound : s.xlt.corrupt.contains (.keyHandle (handleSlot (dbits d.words 16 0 32))) = false)
    (hk : tabGet? (handleSlot (dbits d.words 16 0 32)) s.sec.slots = some k) (hgen : k.gen = handleGen (dbits d.words 16 0 32))
    (hdom : k.domain = handleDom (dbits d.words 16 0 32)) :
    Gives (.secKeyDiscard d) s fun u =>
      tabGet? (handleSlot (dbits d.words 16 0 32)) u.sec.slots = none ∧
        (∀ i : Nat, i ≠ handleSlot (dbits d.words 16 0 32) → tabGet? i u.sec.slots = tabGet? i s.sec.slots) ∧ Ends u d (endCode j .ok) := by
  have huse : useHandle (startState s d zenith) (ringCtx j.ring) (dbits d.words 16 0 32) (dbits d.words 20 0 32) =
      (.ok k.key, startState s d zenith) := by
    rw [hpair]
    exact useHandle_named (by rw [startState_xlt]; exact hsound) (by rw [startState_sec]; exact hk) hgen hdom _
  refine ⟨_, exec_secKeyDiscard_ok h huse, ?_, fun i hi => ?_, ends_of_found h ?_ _ _⟩
  · rw [rowEnd_sec, finishJob_sec]
    exact tabGet?_tabDel_same _ _
  · rw [rowEnd_sec, finishJob_sec]
    refine (tabGet?_tabDel_ne _ hi).trans ?_
    rw [startState_sec]
  · exact findJob_startState s d zenith _ _

theorem secKeyDiscard_unpaired (hbad : dbits d.words 20 0 32 ≠ onesComp 32 (dbits d.words 16 0 32)) :
    Gives (.secKeyDiscard d) s fun u => u.sec = s.sec ∧ Ends u d .cpair := by
  have hevents := secCpair_onlyEvents (startState s d zenith) (ringCtx j.ring)
  refine ⟨_, exec_secKeyDiscard_error h (useHandle_unpaired hbad _), ?_, ends_of_found h ?_ _ _⟩
  · rw [rowEnd_sec, finishJob_sec, hevents.sec, startState_sec]
  · rw [hevents.findJob_eq, findJob_startState]

theorem secKeyDiscard_empty (hpair : dbits d.words 20 0 32 = onesComp 32 (dbits d.words 16 0 32))
    (hsound : s.xlt.corrupt.contains (.keyHandle (handleSlot (dbits d.words 16 0 32))) = false)
    (hnone : tabGet? (handleSlot (dbits d.words 16 0 32)) s.sec.slots = none) :
    Gives (.secKeyDiscard d) s fun u => u.sec = s.sec ∧ Ends u d .denied := by
  have huse : useHandle (startState s d zenith) (ringCtx j.ring) (dbits d.words 16 0 32) (dbits d.words 20 0 32) =
      (.error .denied, startState s d zenith) := by
    rw [hpair]
    exact useHandle_empty (by rw [startState_xlt]; exact hsound) (by rw [startState_sec]; exact hnone) _
  refine ⟨_, exec_secKeyDiscard_error h huse, ?_, ends_of_found h (findJob_startState s d zenith _ _) _ _⟩
  rw [rowEnd_sec, finishJob_sec, startState_sec]

end

/-! ### SEC_UNSEAL (R605, R606) -/

theorem exec_secUnseal_opens {s s1 s2 : State} {d : Desc} {j : Job} {key : Nat} (h : Ready s d 0x6D zenith j)
    (huse : useHandle (startState s d zenith) (ringCtx j.ring) (dbits d.words 16 0 32) (dbits d.words 20 0 32) = (.ok key, s1))
    (hprep : prepare s1 (started j zenith) zenith (secRanges d.words) = (true, s2)) {c : Code} {i : Nat} {t : State}
    (hopen : unsealFrom (ringCtx j.ring) key (dbits d.words 24 0 64) (dbits d.words 32 0 64) (dbits d.words 40 0 64) (2 ^ dbits d.words 52 0 5)
      (dbits d.words 56 0 32) (dbits d.words 48 0 32) 0 s2 = (c, i, t)) :
    exec (.secUnseal d) s = .next (rowEnd s j (finishJob t (started j zenith) c i)) := by
  have hwords : (started j zenith).words = d.words := h.2.1
  have hring : (started j zenith).ring = j.ring := rfl
  refine congrArg Host.Outcome.next ((runDesc_ready h _).trans (congrArg (rowEnd s j) ?_))
  simp only [hwords, hring, huse, hprep, hopen]

/-! ### Signature indices (R590 to R592) -/

theorem takeIndex_index {s : State} (hgood : s.sec.blocksBad < 2)
    (hroom : s.get F.SEC_XMSS_USED_NEXT_INDEX / 1024 < s.get F.SEC_XMSS_STATE_BLOCKS) :
    (takeIndex s).1 = .index (s.get F.SEC_XMSS_USED_NEXT_INDEX) ∧
      (takeIndex s).2.get F.SEC_XMSS_USED_NEXT_INDEX = (s.get F.SEC_XMSS_USED_NEXT_INDEX + 1) % 2 ^ 40 := by
  unfold takeIndex
  simp only [Nat.not_le.2 hgood, Nat.not_le.2 hroom, if_false]
  refine ⟨trivial, ?_⟩
  split <;> exact State.get_set_same _ _ _

theorem exec_xmssBlockCommit_commits {s : State} {t : Nat} (hdue : s.sec.blockDue = true) (hgood : s.sec.blocksBad < 2)
    (hroom : s.get F.SEC_XMSS_STATE_BLOCKS < 2 ^ 30) (hrun : halted s = false) (hnone : s.sec.waiting = []) :
    exec (.xmssBlockCommit t) s = .next
      (let b := s.get F.SEC_XMSS_STATE_BLOCKS + 1
       let u := ((s.upto t).set F.SEC_XMSS_STATE_BLOCKS b).set F.SEC_XMSS_STATE_BLOCKS_C (onesComp 32 b)
       { u with sec := { s.sec with blockDue := false, blocksBad := 0, waiting := [] } }) := by
  have hgo : ¬ ((!(s.upto t).sec.blockDue) = true ∨ (s.upto t).sec.blocksBad ≥ 2 ∨ 2 ^ 30 ≤ (s.upto t).get F.SEC_XMSS_STATE_BLOCKS ∨
      halted (s.upto t) = true) := by
    rw [State.upto_sec, State.upto_get, hdue, show halted (s.upto t) = false from hrun]
    simp only [Bool.not_true, Bool.false_eq_true, Nat.not_le.2 hgood, Nat.not_le.2 hroom, or_self, not_false_eq_true]
  refine congrArg Host.Outcome.next ((if_neg hgo).trans ?_)
  dsimp only
  change List.foldl reportNow _ s.sec.waiting = _
  rw [hnone]
  rfl

/-- Settles O35: each descriptor on reports and keys, and the two rows of the signature indices. -/
theorem reportsAndKeysHeld : Obligations.ReportsAndKeysHeld := by
  refine ⟨fun s s1 d j => ⟨fun h hsmall => ⟨_, exec_secAttest_small h hsmall, ?_, ends_of_found h (findJob_startState s d zenith _ _) _ _⟩,
      fun h hlarge hprep hsound s3 => ⟨fun b hmade => exec_secAttest_reports h hlarge hprep hsound rfl hmade,
        fun c hmade => exec_secAttest_reports h hlarge hprep hsound rfl hmade⟩,
      fun bs h hfetch => ⟨exec_secKeyImport_wrong h hfetch, exec_secKeyImport_sealed h hfetch, fun key k s2 hright hopen hfree =>
        ⟨_, exec_secKeyImport_opens h hfetch hright hopen hfree, ?_, fun i hi => ?_, ?_⟩⟩,
      fun h => ⟨fun k => secKeyDiscard_frees h, secKeyDiscard_unpaired h, secKeyDiscard_empty h⟩,
      fun key s2 h huse hprep => exec_secUnseal_opens h huse hprep rfl,
      fun bs key h hfetch hkind hdom hopen => ⟨fun hheld => ?_, fun hcur hnext => ⟨fun hstage => ?_, fun hstage hdown => ?_, fun hstage hup => ?_⟩⟩⟩,
    fun s hgood hroom => takeIndex_index hgood hroom, fun s t hdue hgood hroom hrun hnone =>
      ⟨_, exec_xmssBlockCommit_commits hdue hgood hroom hrun hnone, ?_, ?_, rfl⟩⟩
  · rw [rowEnd_sec, finishJob_sec, startState_sec]
  · rw [rowEnd_sec, finishJob_sec]
    exact tabGet?_tabPut_same _ _ _
  · rw [rowEnd_sec, finishJob_sec]
    exact tabGet?_tabPut_ne _ _ hi
  · rw [rowEnd_store, finishJob_store]
    rfl
  · rw [exec_secPortKey_opened h hfetch hkind hdom hopen, if_pos hheld]
  · have hfresh := not_or.2 ⟨hcur, hnext⟩
    refine ⟨_, (exec_secPortKey_opened h hfetch hkind hdom hopen).trans
      (congrArg (fun u => Host.Outcome.next (rowEnd s j u)) ((if_neg hfresh).trans (if_pos hstage))), ?_, ?_, ?_⟩
    · rw [rowEnd_sec, finishJob_sec]
      exact tabGet?_tabPut_same _ _ _
    · rw [rowEnd_sec, finishJob_sec]
    · rw [rowEnd_store, finishJob_store]
  · have hfresh := not_or.2 ⟨hcur, hnext⟩
    refine ⟨_, (exec_secPortKey_opened h hfetch hkind hdom hopen).trans
      (congrArg (fun u => Host.Outcome.next (rowEnd s j u))
        ((if_neg hfresh).trans ((if_neg hstage).trans (if_neg (Nat.not_lt.2 hdown))))), ?_, ?_, ?_⟩
    · rw [rowEnd_sec, finishJob_sec, tryInit_sec]
      exact tabGet?_tabPut_same _ _ _
    · rw [rowEnd_sec, finishJob_sec, tryInit_sec]
    · rw [rowEnd_store, finishJob_store, tryInit_store]
  · have hfresh := not_or.2 ⟨hcur, hnext⟩
    rw [exec_secPortKey_opened h hfetch hkind hdom hopen]
    simp only [hfresh, hstage, hup, if_false, if_true]
  · have hlt : s.get F.SEC_XMSS_STATE_BLOCKS + 1 < 2 ^ 32 := by omega
    exact ((State.get_set_ne _ _ (by decide)).trans (State.get_set_same _ _ _)).trans (Nat.mod_eq_of_lt hlt)
  · have hlt : onesComp 32 (s.get F.SEC_XMSS_STATE_BLOCKS + 1) < 2 ^ 32 := by
      unfold onesComp
      omega
    exact (State.get_set_same _ _ _).trans (Nat.mod_eq_of_lt hlt)

end Sys2Proof.Machine
end

section
/-! SUPPORT. Tenancy domains (spec/15, R599, R616 to R621): what SEC_DOMAIN_SET sets, and a teardown of a domain that holds no page on a device where
nothing waits. -/

namespace Sys2Proof.Machine

open Sys2Proof

theorem mem_tabPut_self {α : Type} (k : Nat) (v : α) (t : Tab α) : (k, v) ∈ tabPut k v t := by
  induction t with
  | nil => exact List.mem_singleton_self _
  | cons e t ih =>
    obtain ⟨i, w⟩ := e
    unfold tabPut
    split
    · exact List.mem_cons_self
    · split
      · exact List.mem_cons_self
      · exact List.mem_cons_of_mem _ ih

/-! ### SEC_DOMAIN_SET (R580, R599, R616) -/

/-- A domain as SEC_DOMAIN_SET leaves it. -/
def domSet (s : State) (n : Nat) (conf : Bool) (quota : Nat) : State :=
  { s with
    sec := { s.sec with doms := tabPut n { conf := conf, quota := quota } s.sec.doms }
    mgmt := { s.mgmt with telem := if (tabGet? n s.sec.doms).isSome then s.mgmt.telem else tabDel n s.mgmt.telem } }

/-- One confidential domain more than R599 allows. -/
def confFull (s : State) (n : Nat) (conf : Bool) : Bool :=
  conf && ((tabGet? n s.sec.doms).map (·.conf)) != some true && decide (64 ≤ confCount s)

/-- The domain is going, or would change its kind while in use. -/
def domHeld (s : State) (n : Nat) (conf : Bool) : Bool :=
  match tabGet? n s.sec.doms with
  | some x => x.zeroing || (x.conf != conf && domInUse s n)
  | none => false

/-- The life cycle does not permit a domain of the kind. -/
def lcBars (s : State) (conf : Bool) : Prop := (lcState s ≠ 2 ∧ lcState s ≠ 3) ∨ (lcState s = 2 ∧ conf = true)

theorem exec_secDomainSet {s : State} {d : Desc} {j : Job} (h : Ready s d 0x68 zenith j) :
    exec (.secDomainSet d) s = .next (rowEnd s j
      (let n := dbits d.words 16 0 8
       let conf := dbits d.words 17 0 1 == 1
       let u := startState s d zenith
       if confFull u n conf then finishJob u (started j zenith) .capacity
       else if domHeld u n conf then finishJob u (started j zenith) .denied
       else if (lcState u ≠ 2 ∧ lcState u ≠ 3) ∨ (lcState u = 2 ∧ conf) then finishJob u (started j zenith) .denied
       else finishJob (confCloses (domSet u n conf (dbits d.words 20 0 32))) (started j zenith) .ok)) := by
  have hwords : (started j zenith).words = d.words := h.2.1
  refine congrArg Host.Outcome.next ((runDesc_ready h _).trans (congrArg (rowEnd s j) ?_))
  dsimp only
  rw [hwords]
  rfl

theorem confFull_startState (s : State) (d : Desc) (n : Nat) (conf : Bool) : confFull (startState s d zenith) n conf = confFull s n conf := by
  simp only [confFull, confCount, startState_sec]
  rfl

theorem domHeld_startState (s : State) (d : Desc) (n : Nat) (conf : Bool) : domHeld (startState s d zenith) n conf = domHeld s n conf := by
  simp only [domHeld, domInUse, startState_sec, startState_store, startState_xlt]

theorem lcState_startState (s : State) (d : Desc) : lcState (startState s d zenith) = lcState s := startState_get _ _ _ _

section
variable {s : State} {d : Desc} {j : Job} (h : Ready s d 0x68 zenith j)
include h

theorem exec_secDomainSet_full (hfull : confFull s (dbits d.words 16 0 8) (dbits d.words 17 0 1 == 1) = true) :
    exec (.secDomainSet d) s = .next (rowEnd s j (finishJob (startState s d zenith) (started j zenith) .capacity)) := by
  rw [exec_secDomainSet h]
  dsimp only
  rw [confFull_startState, if_pos hfull]

variable (hfull : confFull s (dbits d.words 16 0 8) (dbits d.words 17 0 1 == 1) = false)
include hfull

theorem exec_secDomainSet_denied (hno : domHeld s (dbits d.words 16 0 8) (dbits d.words 17 0 1 == 1) = true ∨ lcBars s (dbits d.words 17 0 1 == 1)) :
    exec (.secDomainSet d) s = .next (rowEnd s j (finishJob (startState s d zenith) (started j zenith) .denied)) := by
  rw [exec_secDomainSet h]
  dsimp only
  rw [confFull_startState, hfull, if_neg Bool.false_ne_true, domHeld_startState, lcState_startState]
  split
  case isTrue => rfl
  case isFalse hheld => exact congrArg _ (congrArg _ (if_pos (hno.resolve_left hheld)))

theorem exec_secDomainSet_sets (hheld : domHeld s (dbits d.words 16 0 8) (dbits d.words 17 0 1 == 1) = false)
    (hpass : ¬ lcBars s (dbits d.words 17 0 1 == 1)) :
    exec (.secDomainSet d) s = .next (rowEnd s j (finishJob
      (confCloses (domSet (startState s d zenith) (dbits d.words 16 0 8) (dbits d.words 17 0 1 == 1) (dbits d.words 20 0 32))) (started j zenith) .ok)) := by
  rw [exec_secDomainSet h]
  dsimp only
  rw [confFull_startState, hfull, if_neg Bool.false_ne_true, domHeld_startState, hheld, if_neg Bool.false_ne_true, lcState_startState]
  exact congrArg Host.Outcome.next (congrArg (rowEnd s j) (if_neg hpass))

end

theorem domHeld_eq_false {s : State} {n : Nat} {conf : Bool}
    (h : ∀ x : Dom, tabGet? n s.sec.doms = some x → x.zeroing = false ∧ (x.conf = conf ∨ domInUse s n = false)) : domHeld s n conf = false := by
  unfold domHeld
  split
  case h_1 x hx =>
    obtain ⟨hzero, hkind | hidle⟩ := h x hx
    · simp [hzero, hkind]
    · simp [hzero, hidle]
  case h_2 => rfl

theorem confFull_eq_false {s : State} {n : Nat} {conf : Bool} (h : conf = true → confCount s < 64) : confFull s n conf = false := by
  cases conf with
  | false => rfl
  | true => simp [confFull, Nat.not_le.2 (h rfl)]

/-- A confidential domain that is live counts. -/
theorem confCount_domSet_pos (s : State) (n quota : Nat) : confCount (domSet s n true quota) ≠ 0 := by
  have hmem : (n, ({ conf := true, quota := quota } : Dom)) ∈ (domSet s n true quota).sec.doms := mem_tabPut_self _ _ _
  refine Nat.ne_of_gt (List.length_pos_of_mem (List.mem_filter.2 ⟨hmem, rfl⟩))

theorem confCloses_sec (s : State) : (confCloses s).sec = s.sec := by
  unfold confCloses
  split <;> rfl

theorem confCloses_rings (s : State) : (confCloses s).rings = s.rings := by
  unfold confCloses
  split <;> rfl

/-- Debug is closed once a confidential domain has been made. -/
theorem confCloses_domSet (s : State) (n quota : Nat) : (confCloses (domSet s n true quota)).flag F.LC_DEBUG_OPEN = false := by
  rw [confCloses, if_neg (confCount_domSet_pos s n quota)]
  exact State.flag_setFlag_same _ _ _ (by decide)

/-! ### The teardown (R618 to R620) -/

theorem dropGuests_none (s : State) : discardGuests s [] = s := by
  have hnone : ∀ l : List Nat, (l.filter fun l => ([] : List Nat).contains (l / 32768)) = [] := fun l => List.filter_false l
  simp only [discardGuests, hnone, List.foldl_nil]
  rfl

/-- A state without what the scrub of a domain may change before its structures are dropped: tiles, translations, the store, lost lines and
write-backs. -/
def besideScrub (s : State) : State :=
  { s with plane := {}, xlt := {}, store := {}, dir := { s.dir with lost := [] }, cache := { s.cache with wbs := [] } }

theorem besideScrub_proj {s t : State} (h : besideScrub t = besideScrub s) {α : Type} (part : State → α)
    (hpart : ∀ u, part (besideScrub u) = part u) : part t = part s := by
  rw [← hpart t, h, hpart s]

theorem scrubTile_beside (dom : Nat) (s : State) (g : Nat) : besideScrub (scrubTile dom s g) = besideScrub s := by
  unfold scrubTile
  dsimp only
  split <;> rfl

theorem dropTlb_beside (s : State) (ps : List Nat) : besideScrub (dropTlb s ps) = besideScrub s := rfl

/-- The tiles scrubbed of a domain. -/
def tilesScrubbed (s : State) (dom : Nat) : State := (List.range 64).foldl (scrubTile dom) s

theorem tilesScrubbed_beside (s : State) (dom : Nat) : besideScrub (tilesScrubbed s dom) = besideScrub s :=
  List.foldlRecOn (motive := fun u : State => besideScrub u = besideScrub s) (List.range 64) (scrubTile dom) rfl
    fun u hu g _ => (scrubTile_beside dom u g).trans hu

theorem tilesScrubbed_wbs (s : State) (dom : Nat) : (tilesScrubbed s dom).cache.wbs = s.cache.wbs := by
  unfold tilesScrubbed
  exact List.foldlRecOn (motive := fun u : State => u.cache.wbs = s.cache.wbs) (List.range 64) (scrubTile dom) rfl fun u hu g _ => by
      unfold scrubTile
      dsimp only
      split <;> exact hu

/-- Freeing no page leaves everything but the store and the lost lines. -/
theorem freePages_none_beside (s : State) : besideScrub (freePages s []) = besideScrub s := by
  unfold freePages
  rw [dropGuests_none]
  rfl

theorem freePages_none_cache (s : State) : (freePages s []).cache = s.cache := by
  unfold freePages
  rw [dropGuests_none]
  rfl

/-- The write-backs of some pages are dropped, and the pages freed. -/
def pagesGone (s : State) (ps : List Nat) : State :=
  freePages { s with cache := { s.cache with wbs := s.cache.wbs.filter fun w => !ps.contains (w.line / 32768) } } ps

theorem pagesGone_none_beside (s : State) : besideScrub (pagesGone s []) = besideScrub s := freePages_none_beside _

theorem pagesGone_none_wbs {s : State} (h : s.cache.wbs = []) : (pagesGone s []).cache.wbs = [] := by
  unfold pagesGone
  rw [freePages_none_cache]
  simp only [h, List.filter_nil]

/-- The state in which the structures of a domain are dropped, and its requests: its tiles and pages are scrubbed. -/
def pagesScrubbed (s : State) (dom : Nat) (ps : List Nat) : State := pagesGone (dropTlb (tilesScrubbed s dom) ps) ps

theorem pagesScrubbed_beside (s : State) (dom : Nat) : besideScrub (pagesScrubbed s dom []) = besideScrub s :=
  (pagesGone_none_beside _).trans ((dropTlb_beside (tilesScrubbed s dom) []).trans (tilesScrubbed_beside s dom))

theorem dropTlb_cache (s : State) (ps : List Nat) : (dropTlb s ps).cache = s.cache := rfl

theorem pagesScrubbed_wbs {s : State} (h : s.cache.wbs = []) (dom : Nat) : (pagesScrubbed s dom []).cache.wbs = [] := by
  unfold pagesScrubbed
  refine pagesGone_none_wbs ?_
  rw [dropTlb_cache, tilesScrubbed_wbs, h]

theorem pagesScrubbed_quiet {s : State} (h : Quiet s) (dom : Nat) : Quiet (pagesScrubbed s dom []) := by
  obtain ⟨hflights, hwbs, hlapsed, hfenced, hents, htxns⟩ := h
  have hbeside := pagesScrubbed_beside s dom
  exact ⟨(besideScrub_proj hbeside (fun u => u.fab.flights) fun _ => rfl).trans hflights, pagesScrubbed_wbs hwbs dom,
    (besideScrub_proj hbeside (fun u => u.comp.lapsed) fun _ => rfl).trans hlapsed,
    (besideScrub_proj hbeside (fun u => u.comp.fenced) fun _ => rfl).trans hfenced,
    (besideScrub_proj hbeside (fun u => u.dir.ents) fun _ => rfl).trans hents,
    (besideScrub_proj hbeside (fun u => u.dir.txns) fun _ => rfl).trans htxns⟩

/-- The structures of a domain dropped. -/
def structsScrubbed (s : State) (dom : Nat) : State :=
  let live := fun c : Nat => ctxValid s c
  { s with
    fab := { s.fab with entries := s.fab.entries.filter fun e => e.domain ≠ dom }
    sec := { s.sec with slots := s.sec.slots.filter (fun e => e.2.domain ≠ dom), ekeys := tabDel dom s.sec.ekeys }
    log := { s.log with recs := s.log.recs.filter fun r => r.domain ≠ dom }
    emb := { s.emb with vers := s.emb.vers.filter (fun v => live v.ctx), hooks := s.emb.hooks.filter (fun h => live h.ctx),
                        pins := s.emb.pins.filter (fun p => live p.row.ctx), relocs := s.emb.relocs.filter fun r => live r.row.ctx }
    srch := { s.srch with defs := s.srch.defs.filter fun v => live v.ctx }
    blk := { s.blk with spaces := s.blk.spaces.filter fun e => live e.2.ctx } }

/-- The requests of a domain that wait in lanes are dropped. -/
def flightsScrubbed (s : State) (dom : Nat) : State :=
  (s.fab.flights.filter fun f => f.inLane && (tenant s f.req.port.val f.req.tenant.val).domain = dom).foldl (fun s f => dropFlight s f) s

/-- The pages of a domain. -/
def pagesOfDom (s : State) (dom : Nat) : List Nat := (s.store.pages.filter fun e => e.2.domain = dom).map (·.1)

theorem pagesOfDom_none {s : State} {dom : Nat} (h : (s.store.pages.any fun e => e.2.domain = dom) = false) : pagesOfDom s dom = [] := by
  rw [pagesOfDom, List.map_eq_nil_iff, List.filter_eq_nil_iff]
  exact fun e he => by simpa using List.any_eq_false.1 h e he

theorem scrubDomain_eq (s : State) (dom : Nat) :
    scrubDomain s dom = structsScrubbed (flightsScrubbed (pagesScrubbed s dom (pagesOfDom s dom)) dom) dom := by
  unfold scrubDomain structsScrubbed flightsScrubbed pagesScrubbed pagesGone tilesScrubbed pagesOfDom
  rfl

/-- Where nothing is in flight, the scrub of a domain without pages drops its structures alone. -/
theorem scrubDomain_quiet {s : State} {dom : Nat} (h : Quiet s) (hnone : pagesOfDom s dom = []) :
    scrubDomain s dom = structsScrubbed (pagesScrubbed s dom []) dom := by
  have hflights : (pagesScrubbed s dom []).fab.flights = [] := (pagesScrubbed_quiet h dom).1
  rw [scrubDomain_eq, hnone, flightsScrubbed, hflights, List.filter_nil, List.foldl_nil]

/-- The domain as its teardown leaves it: its zero-fill is under way (R621). -/
def zeroingSet (s : State) (n : Nat) (x : Dom) : State := { s with sec := { s.sec with doms := tabPut n { x with zeroing := true } s.sec.doms } }

theorem structsScrubbed_quiet {s : State} (h : Quiet s) (n : Nat) (x : Dom) : Quiet (zeroingSet (structsScrubbed s n) n x) := h

theorem startState_sched (s : State) (d : Desc) (u : Nat) : (startState s d u).sched = s.sched := by
  unfold startState ungate
  split <;> rfl

/-- A row that starts leaves the device as quiet as it was. -/
theorem startState_quiet {s : State} (h : Quiet s) (d : Desc) (u : Nat) : Quiet (startState s d u) := by
  unfold startState ungate
  split <;> exact h

/-- The evictions of a teardown and what follows them, for a domain `n` with the pages `ps`. -/
def tornDown (s : State) (j : Job) (n : Nat) (ps : List Nat) : State :=
  let cut := fun (a : Bool × State) (p : Nat) =>
    let (ok, s) := evictRange a.2 (p * 2097152) 2097152 (.job j.ring j.idx)
    (a.1 && ok, s)
  let (ok, s) := ps.foldl cut (true, s)
  if !ok then putJob s { j with st := .waiting, phase := 1 }
  else finishJob (wake (zeroingSet (scrubDomain s n) n (tabGet {} n s.sec.doms))) j .ok

theorem tornDown_none (s : State) (j : Job) (n : Nat) :
    tornDown s j n [] = finishJob (wake (zeroingSet (scrubDomain s n) n (tabGet {} n s.sec.doms))) j .ok := rfl

/-- Contexts or queues that still belong to a domain. -/
def domBusy (s : State) (n : Nat) : Bool := s.xlt.ctxs.any (fun e => e.2.domain = n) || s.sched.tqs.any fun e => e.2.en && e.2.domain == n

theorem domBusy_startState (s : State) (d : Desc) (n : Nat) : domBusy (startState s d zenith) n = domBusy s n := by
  simp only [domBusy, startState_xlt, startState_sched]

/-- What a teardown leaves of the secure state. -/
theorem zeroingSet_sec (u : State) (n : Nat) (x : Dom) : (zeroingSet (structsScrubbed u n) n x).sec =
    { u.sec with doms := tabPut n { x with zeroing := true } u.sec.doms, slots := u.sec.slots.filter (fun e => e.2.domain ≠ n),
                 ekeys := tabDel n u.sec.ekeys } := rfl

theorem zeroingSet_rings (u : State) (n : Nat) (x : Dom) : (zeroingSet (structsScrubbed u n) n x).rings = u.rings := rfl

theorem exec_secDomainTeardown_eq (d : Desc) (s : State) :
    exec (.secDomainTeardown d) s = .next (runDesc s d 0x69 zenith fun s j =>
      let n := dbits j.words 16 0 8
      if !domLive s n || (j.phase = 0 && domBusy s n) then finishJob s j .denied else tornDown s j n (pagesOfDom s n)) := by
  change execSecDomainTeardown d s = _
  unfold execSecDomainTeardown
  refine congrArg Host.Outcome.next (congrArg (runDesc s d 0x69 zenith) (funext fun s => funext fun j => ?_))
  unfold tornDown zeroingSet pagesOfDom domBusy
  dsimp only

section
variable {s : State} {d : Desc} {j : Job} (h : Ready s d 0x69 zenith j) (hphase : j.phase = 0)
include h hphase

theorem exec_secDomainTeardown_denied (hno : domLive s (dbits d.words 16 0 8) = false ∨ domBusy s (dbits d.words 16 0 8) = true) :
    exec (.secDomainTeardown d) s = .next (rowEnd s j (finishJob (startState s d zenith) (started j zenith) .denied)) := by
  have hwords : (started j zenith).words = d.words := h.2.1
  have hphase' : (started j zenith).phase = 0 := hphase
  rw [exec_secDomainTeardown_eq, runDesc_ready h]
  dsimp only
  rw [hwords, hphase', startState_domLive, domBusy_startState, if_pos]
  rcases hno with hno | hno <;> simp [hno]

theorem exec_secDomainTeardown_empty {x : Dom} (hx : tabGet? (dbits d.words 16 0 8) s.sec.doms = some x)
    (hlive : domLive s (dbits d.words 16 0 8) = true) (hidle : domBusy s (dbits d.words 16 0 8) = false) (hquiet : Quiet s)
    (hnone : pagesOfDom s (dbits d.words 16 0 8) = []) :
    exec (.secDomainTeardown d) s = .next (rowEnd s j (finishJob
      (zeroingSet (structsScrubbed (pagesScrubbed (startState s d zenith) (dbits d.words 16 0 8) []) (dbits d.words 16 0 8)) (dbits d.words 16 0 8) x)
      (started j zenith) .ok)) := by
  have hwords : (started j zenith).words = d.words := h.2.1
  have hphase' : (started j zenith).phase = 0 := hphase
  have hquiet' := startState_quiet hquiet d zenith
  have hnone' : pagesOfDom (startState s d zenith) (dbits d.words 16 0 8) = [] := by rw [pagesOfDom, startState_store, ← pagesOfDom, hnone]
  have hx' : tabGet {} (dbits d.words 16 0 8) (startState s d zenith).sec.doms = x := by
    rw [startState_sec, tabGet, hx, Option.getD_some]
  rw [exec_secDomainTeardown_eq, runDesc_ready h]
  dsimp only
  rw [hwords, hphase', startState_domLive, domBusy_startState, if_neg (by simp [hlive, hidle]), hnone', tornDown_none,
    scrubDomain_quiet hquiet' hnone', hx', wake_quiet (structsScrubbed_quiet (pagesScrubbed_quiet hquiet' _) _ _)]

end

theorem pagesScrubbed_rings (s : State) (dom : Nat) : (pagesScrubbed s dom []).rings = s.rings :=
  besideScrub_proj (pagesScrubbed_beside s dom) State.rings fun _ => rfl

theorem pagesScrubbed_sec (s : State) (dom : Nat) : (pagesScrubbed s dom []).sec = s.sec :=
  besideScrub_proj (pagesScrubbed_beside s dom) State.sec fun _ => rfl

theorem secDomainTeardown_erases {s : State} {d : Desc} {j : Job} (h : Ready s d 0x69 zenith j) (hphase : j.phase = 0) {x : Dom}
    (hx : tabGet? (dbits d.words 16 0 8) s.sec.doms = some x) (hlive : domLive s (dbits d.words 16 0 8) = true)
    (hidle : domBusy s (dbits d.words 16 0 8) = false) (hquiet : Quiet s)
    (hnone : (s.store.pages.any fun e => e.2.domain = dbits d.words 16 0 8) = false) :
    Gives (.secDomainTeardown d) s fun u =>
      tabGet? (dbits d.words 16 0 8) u.sec.doms = some { x with zeroing := true } ∧ (∀ e ∈ u.sec.slots, e.2.domain ≠ dbits d.words 16 0 8) ∧
        tabGet? (dbits d.words 16 0 8) u.sec.ekeys = none ∧ Ends u d (endCode j .ok) := by
  refine ⟨_, exec_secDomainTeardown_empty h hphase hx hlive hidle hquiet (pagesOfDom_none hnone), ?_, ?_, ?_, ends_of_found h ?_ _ _⟩
  · rw [rowEnd_sec, finishJob_sec, zeroingSet_sec, pagesScrubbed_sec]
    exact tabGet?_tabPut_same _ _ _
  · rw [rowEnd_sec, finishJob_sec, zeroingSet_sec, pagesScrubbed_sec]
    exact fun e he => of_decide_eq_true (List.mem_filter.1 he).2
  · rw [rowEnd_sec, finishJob_sec, zeroingSet_sec, pagesScrubbed_sec]
    exact tabGet?_tabDel_same _ _
  · rw [findJob, findJob, zeroingSet_rings, pagesScrubbed_rings, startState_rings]

/-! ### ZERO_FILL_DONE (R621) -/

section
variable {s : State} {n : Fin 256} {t : Nat} {x : Dom} (hx : tabGet? n.val s.sec.doms = some x)
include hx

theorem exec_zeroFillDone_gone (hzero : x.zeroing = true) :
    exec (.zeroFillDone n t) s = .next { s.upto t with sec := { s.sec with doms := tabDel n.val s.sec.doms } } := by
  refine congrArg Host.Outcome.next ?_
  simp only [State.upto_sec, hx, hzero, if_true]

theorem exec_zeroFillDone_idle (hzero : x.zeroing = false) : exec (.zeroFillDone n t) s = .next (s.upto t) := by
  refine congrArg Host.Outcome.next ?_
  simp only [State.upto_sec, hx, hzero, Bool.false_eq_true, if_false]

end

/-- Settles O34: SEC_DOMAIN_SET by its checks in order, a teardown, and the end of the zero-fill. -/
theorem tenancyDomainsLiveAndEnd : Obligations.TenancyDomainsLiveAndEnd := by
  refine ⟨fun s d j => ⟨fun h => ⟨fun hkept hlc hroom => ?_, fun h2 h3 hroom => ?_, fun hconf hfull hnew => ?_⟩,
      fun h hphase => ⟨fun hno => ⟨_, exec_secDomainTeardown_denied h hphase hno, ?_, ?_, ends_of_found h (findJob_startState s d zenith _ _) _ _⟩,
        fun x hx hlive hidle hquiet hnone => secDomainTeardown_erases h hphase hx hlive hidle hquiet hnone⟩⟩,
    fun s n t x hx => ⟨fun hzero => ⟨_, exec_zeroFillDone_gone hx hzero, tabGet?_tabDel_same _ _, rfl⟩, exec_zeroFillDone_idle hx⟩⟩
  · have hheld : domHeld s (dbits d.words 16 0 8) (dbits d.words 17 0 1 == 1) = false := domHeld_eq_false hkept
    have hfull : confFull s (dbits d.words 16 0 8) (dbits d.words 17 0 1 == 1) = false := confFull_eq_false hroom
    have hpass : ¬ lcBars s (dbits d.words 17 0 1 == 1) := by
      unfold lcBars
      grind
    refine ⟨_, exec_secDomainSet_sets h hfull hheld hpass, ?_, fun hconf => ?_, ends_of_found h ?_ _ _⟩
    · rw [rowEnd_sec, finishJob_sec, confCloses_sec]
      exact tabGet?_tabPut_same _ _ _
    · rw [rowEnd_flag, finishJob_flag, hconf]
      exact confCloses_domSet _ _ _
    · rw [findJob, findJob, confCloses_rings]
      exact congrArg (fun r : Rings => r.jobs.find? _) (startState_rings s d zenith)
  · have hfull : confFull s (dbits d.words 16 0 8) (dbits d.words 17 0 1 == 1) = false := confFull_eq_false hroom
    refine ⟨_, exec_secDomainSet_denied h hfull (.inr (.inl ⟨h2, h3⟩)), ?_, ends_of_found h (findJob_startState s d zenith _ _) _ _⟩
    rw [rowEnd_sec, finishJob_sec, startState_sec]
  · have hfull' : confFull s (dbits d.words 16 0 8) (dbits d.words 17 0 1 == 1) = true := by
      simp only [confFull, hconf, bne_iff_ne.2 hnew, decide_true, hfull, Bool.and_self]
    refine ⟨_, exec_secDomainSet_full h hfull', ?_, ends_of_found h (findJob_startState s d zenith _ _) _ _⟩
    rw [rowEnd_sec, finishJob_sec, startState_sec]
  · rw [rowEnd_sec, finishJob_sec, startState_sec]
  · rw [rowEnd_store, finishJob_store, startState_store]

end Sys2Proof.Machine
end

section
/-! SUPPORT. Firmware (spec/14, R573 to R577; spec/18, R709, R710): the messages of an update, its activation core by core, and the warm restart. -/

namespace Sys2Proof.Machine

open Sys2Proof

/-! ### The messages of an update (R709, R710) -/

section
variable (s : State) (pcie : Bool) (what : String) (code : Nat) (data : List Nat)

theorem respond_get (f : Fld) : (respond s pcie what code data).get f = s.get f := rfl
theorem respond_comp : (respond s pcie what code data).comp = s.comp := rfl
theorem respond_mgmt : (respond s pcie what code data).mgmt = s.mgmt := rfl
theorem respond_sent : Out.mgmt what code (pcie.toNat :: data) ∈ (respond s pcie what code data).out :=
  List.mem_append_right _ (List.mem_singleton_self _)

end


section
variable {s : State} {pcie : Bool} {agent : BitVec 8} {t : Nat}

theorem exec_updateAgentTimeout_due {x : Update} (hx : s.mgmt.update = some x) (hdue : x.heard + 120000000000 ≤ max s.now t) :
    exec (.updateAgentTimeout t) s = .next (({ s.upto t with mgmt := { s.mgmt with update := none } } : State).setFlag F.RAS_FW_READY false) := by
  refine congrArg Host.Outcome.next ?_
  simp only [State.upto_mgmt, hx, State.upto_now, hdue, if_true]

theorem exec_updateAgentTimeout_early {x : Update} (hx : s.mgmt.update = some x) (hearly : max s.now t < x.heard + 120000000000) :
    exec (.updateAgentTimeout t) s = .next (s.upto t) := by
  refine congrArg Host.Outcome.next ?_
  simp only [State.upto_mgmt, hx, State.upto_now, Nat.not_le.2 hearly, if_false]

variable (h : binding s pcie = true) (heid : ownEid s pcie ≠ 0)
include h heid

theorem exec_requestUpdate_starts {n : Nat} (hnone : s.mgmt.update = none) (hen : s.flag F.MGT_CTRL_FWUP_EN = true) (hlc : lcState s ≠ 5)
    (hstage : s.get F.RAS_FW_STAGE ≠ 1) :
    exec (.requestUpdate pcie agent n t) s = .next (respond ((putUpdate (s.upto t)
      { pcie := pcie, agent := agent.toNat, chunk := min n 4096 }).setFlag F.RAS_FW_READY false) pcie "REQUEST_UPDATE" 0 []) := by
  refine congrArg Host.Outcome.next ((withEid_works (s := s.upto t) h heid _).trans ?_)
  have hgo : ¬ ((!s.flag F.MGT_CTRL_FWUP_EN) = true ∨ lcState (s.upto t) = 5 ∨ s.get F.RAS_FW_STAGE = 1) := by
    simp only [hen, Bool.not_true, Bool.false_eq_true, show lcState (s.upto t) ≠ 5 from hlc, hstage, or_self, not_false_eq_true]
  simp only [State.upto_mgmt, hnone, Option.isSome_none, Bool.false_eq_true, if_false, State.upto_flag, State.upto_get, hgo]

theorem exec_requestUpdate_already {n : Nat} (hsome : s.mgmt.update.isSome = true) :
    exec (.requestUpdate pcie agent n t) s = .next ((s.upto t).emit (.mgmt "REQUEST_UPDATE" 0x81 [pcie.toNat])) :=
  congrArg Host.Outcome.next ((withEid_works (s := s.upto t) h heid _).trans (if_pos hsome))

variable {x : Update} (hx : fromAgent s pcie agent = some x)
include hx

theorem exec_passComponentTable_fits {n : Nat} (hn : n ≤ 2 ^ 25) :
    exec (.passComponentTable pcie agent n t) s = .next ((respond (putUpdate (s.upto t) { x with size := some n, got := 0 }) pcie
      "PASS_COMPONENT_TABLE" 0 []).emit (.mgmt "REQUEST_FIRMWARE_DATA" 0 [pcie.toNat, 0, min x.chunk n])) := by
  have hx' : fromAgent (s.upto t) pcie agent = some x := hx
  refine congrArg Host.Outcome.next ((withEid_works (s := s.upto t) h heid _).trans ?_)
  simp only [hx', Nat.not_lt.2 hn, if_false]

theorem exec_passComponentTable_large {n : Nat} (hn : 2 ^ 25 < n) :
    exec (.passComponentTable pcie agent n t) s = .next (respond (putUpdate (s.upto t) x) pcie "PASS_COMPONENT_TABLE" 1 []) := by
  have hx' : fromAgent (s.upto t) pcie agent = some x := hx
  refine congrArg Host.Outcome.next ((withEid_works (s := s.upto t) h heid _).trans ?_)
  simp only [hx', hn, if_true]

/-- The bytes received once a chunk of `len` has come. -/
def gotAfter (x : Update) (n len : Nat) : Nat := x.got + min len (min x.chunk (n - x.got))

/-- The state with the bank that does not run emptied, as the first bytes of an image leave it. -/
def bankEmptied (s : State) : State := { s with comp := { s.comp with banks := listSet s.comp.banks (otherBank s) {} } }

theorem exec_requestFirmwareData {n len : Nat} {img : Option Image} (hsize : x.size = some n) :
    exec (.requestFirmwareData pcie agent len img t) s = .next
      (let u := { x with got := gotAfter x n len }
       if gotAfter x n len = n then verifyImage (bankEmptied (s.upto t)) pcie u img
       else (putUpdate (bankEmptied (s.upto t)) u).emit
         (.mgmt "REQUEST_FIRMWARE_DATA" 0 [pcie.toNat, gotAfter x n len, min x.chunk (n - gotAfter x n len)])) := by
  have hx' : fromAgent (s.upto t) pcie agent = some x := hx
  refine congrArg Host.Outcome.next ((withEid_works (s := s.upto t) h heid _).trans ?_)
  simp only [hx', hsize]
  rfl

theorem exec_activateFirmware_rolls (hmay : mayRoll s = true) :
    exec (.activateFirmware pcie agent t) s = .next
      (respond (rollStart { s.upto t with mgmt := { s.mgmt with update := none } }) pcie "ACTIVATE_FIRMWARE" 0 [1]) := by
  have hx' : fromAgent (s.upto t) pcie agent = some x := hx
  have hmay' : mayRoll (s.upto t) = true := hmay
  refine congrArg Host.Outcome.next ((withEid_works (s := s.upto t) h heid _).trans ?_)
  simp only [hx', hmay', Bool.not_true, Bool.false_eq_true, if_false]
  rfl

theorem exec_activateFirmware_refused (hmay : mayRoll s = false) :
    exec (.activateFirmware pcie agent t) s = .next (respond (putUpdate (s.upto t) x) pcie "ACTIVATE_FIRMWARE" 1 []) := by
  have hx' : fromAgent (s.upto t) pcie agent = some x := hx
  have hmay' : mayRoll (s.upto t) = false := hmay
  refine congrArg Host.Outcome.next ((withEid_works (s := s.upto t) h heid _).trans ?_)
  simp only [hx', hmay', Bool.not_false, if_true]

end

/-- An image that passes R596 is in its bank, and READY; both messages have been sent. -/
theorem verifyImage_good {s : State} {m : Image} (hok : imageOk s m = true) (pcie : Bool) (x : Update) :
    let u := verifyImage s pcie x (some m)
    u.flag F.RAS_FW_READY = true ∧ u.comp.banks = listSet s.comp.banks (otherBank s) (bankOf m) ∧
      Out.mgmt "VERIFY_COMPLETE" 0 [pcie.toNat] ∈ u.out ∧ Out.mgmt "APPLY_COMPLETE" 0 [pcie.toNat] ∈ u.out := by
  let done := putUpdate s { x with size := none, got := 0 }
  let put := (putBank done (otherBank s) m).setFlag F.RAS_FW_READY true
  have hraised : OnlyEvents put (raiseIrq put 6) := OnlyEvents.raiseIrq put 6
  have hgood : verifyImage s pcie x (some m) =
      ((raiseIrq put 6).emit (.mgmt "VERIFY_COMPLETE" 0 [pcie.toNat])).emit (.mgmt "APPLY_COMPLETE" 0 [pcie.toNat]) := by
    simp only [verifyImage, hok, if_true]
    rfl
  rw [hgood]
  refine ⟨?_, ?_, ?_, ?_⟩
  · exact (hraised.flag (by decide)).trans (State.flag_setFlag_same _ _ _ (by decide))
  · exact hraised.compPart Comp.banks fun _ => rfl
  · exact List.mem_append_left _ (List.mem_append_right _ (List.mem_singleton_self _))
  · exact List.mem_append_right _ (List.mem_singleton_self _)

theorem verifyImage_bad {s : State} {img : Option Image} (hbad : ∀ m : Image, img = some m → imageOk s m = false) (pcie : Bool) (x : Update) :
    verifyImage s pcie x img = (putUpdate s { x with size := none, got := 0 }).emit (.mgmt "VERIFY_COMPLETE" 1 [pcie.toNat]) := by
  cases img with
  | none => rfl
  | some m => simp only [verifyImage, hbad m rfl, Bool.false_eq_true, if_false]

/-! ### The activation (R573 to R575) -/

theorem startState_mgmt (s : State) (d : Desc) (u : Nat) : (startState s d u).mgmt = s.mgmt := by
  unfold startState ungate
  split <;> rfl


theorem OnlyEvents.of_setStage (s : State) (v : Nat) : OnlyEvents (s.set F.RAS_FW_STAGE v) (setStage s v) := OnlyEvents.raiseIrq _ 6

theorem OnlyEvents.of_fwEvent (s : State) (bank what : Nat) : OnlyEvents s (fwEvent s bank what) := OnlyEvents.postRas _ _ _ _ _

/-- What the start of an activation leaves (R574). -/
theorem rollStart_starts (s : State) :
    (rollStart s).get F.RAS_FW_STAGE = 1 ∧ (rollStart s).comp.coreBusy = some 0 ∧ (rollStart s).comp.rolling = [1, 2, 3] ∧
      (rollStart s).mgmt.update = s.mgmt.update ∧ ∀ g i, findJob (rollStart s) g i = findJob s g i := by
  let u : State := { s with comp := { s.comp with rolling := [1, 2, 3], coreBusy := some 0 } }
  have hstage : OnlyEvents (u.set F.RAS_FW_STAGE 1) (setStage u 1) := OnlyEvents.of_setStage u 1
  have hevent : OnlyEvents ((setStage u 1).set F.RAS_FW_ON_NEW 0) (rollStart s) := OnlyEvents.of_fwEvent _ _ _
  refine ⟨?_, ?_, ?_, ?_, fun g i => ?_⟩
  · rw [hevent.get _ (by decide), State.get_set_ne _ _ (by decide), hstage.get _ (by decide), State.get_set_same]
    rfl
  · exact (hevent.compPart Comp.coreBusy fun _ => rfl).trans (hstage.compPart Comp.coreBusy fun _ => rfl)
  · exact (hevent.compPart Comp.rolling fun _ => rfl).trans (hstage.compPart Comp.rolling fun _ => rfl)
  · exact hevent.update.trans hstage.update
  · exact (hevent.findJob_eq g i).trans (hstage.findJob_eq g i)

section
variable {s : State} {d : Desc} {j : Job} (h : Ready s d 0x67 zenith j)
include h

theorem exec_cmpFwActivate_denied (hno : mayRoll s = false ∨ s.mgmt.update.isSome = true) :
    exec (.cmpFwActivate d) s = .next (rowEnd s j (finishJob (startState s d zenith) (started j zenith) .denied)) := by
  have hmay : mayRoll (startState s d zenith) = mayRoll s := by simp only [mayRoll, startState_flag, startState_get]
  refine congrArg Host.Outcome.next ((runDesc_ready h _).trans (congrArg (rowEnd s j) (if_pos ?_)))
  rw [hmay, startState_mgmt]
  exact hno.imp (fun hno => by rw [hno]; rfl) id

theorem exec_cmpFwActivate_rolls (hmay : mayRoll s = true) (hnone : s.mgmt.update = none) :
    exec (.cmpFwActivate d) s = .next (rowEnd s j (finishJob (rollStart (startState s d zenith)) (started j zenith) .ok)) := by
  have hmay' : mayRoll (startState s d zenith) = true := by simpa only [mayRoll, startState_flag, startState_get] using hmay
  refine congrArg Host.Outcome.next ((runDesc_ready h _).trans (congrArg (rowEnd s j) (if_neg ?_)))
  rw [hmay', startState_mgmt, hnone]
  decide

end

/-! ### The health checks (R536, R574, R575) -/

/-- A core counts as healthy. -/
def coreUp (s : State) (c : Nat) : State := s.set F.RAS_STATUS_CORES_UP (Nat.lor (s.get F.RAS_STATUS_CORES_UP) (2 ^ c))

/-- A core runs the new image. -/
def coreOnNew (s : State) (c : Nat) : State := (coreUp s c).set F.RAS_FW_ON_NEW (Nat.lor ((coreUp s c).get F.RAS_FW_ON_NEW) (2 ^ c))

theorem bits_coreUp (s : State) (c : Fin 4) : bits ((coreUp s c).get F.RAS_STATUS_CORES_UP) c 1 = 1 := by
  rw [coreUp, State.get_set_same, bits_mod_two_pow (n := F.RAS_STATUS_CORES_UP.wid) c.isLt]
  exact bits_lor_two_pow _ _

theorem bits_coreOnNew (s : State) (c : Fin 4) : bits ((coreOnNew s c).get F.RAS_FW_ON_NEW) c 1 = 1 := by
  rw [coreOnNew, State.get_set_same, bits_mod_two_pow (n := F.RAS_FW_ON_NEW.wid) c.isLt]
  exact bits_lor_two_pow _ _

section
variable {s : State} {c : Fin 4} {t : Nat}

theorem exec_coreHealthCheck_idle (hstage : s.get F.RAS_FW_STAGE ≠ 1) : exec (.coreHealthCheck c true t) s = .next (coreUp (s.upto t) c) :=
  congrArg Host.Outcome.next ((if_neg hstage).trans (if_pos rfl))

variable (hstage : s.get F.RAS_FW_STAGE = 1) (hbusy : s.comp.coreBusy = some c.val)
include hstage hbusy

theorem exec_coreHealthCheck_fails :
    exec (.coreHealthCheck c false t) s = .next
      (let u : State := { s.upto t with comp := { s.comp with rolling := [], coreBusy := none } }
       fwEvent ((setStage u 2).set F.RAS_FW_ON_NEW 0) (otherBank u) 2) :=
  congrArg Host.Outcome.next ((if_pos hstage).trans ((if_neg (not_not.2 hbusy)).trans (if_pos rfl)))

theorem exec_coreHealthCheck_hands {x : Nat} {l : List Nat} (hroll : s.comp.rolling = x :: l) :
    exec (.coreHealthCheck c true t) s = .next { coreOnNew (s.upto t) c with comp := { s.comp with rolling := l, coreBusy := some x } } := by
  refine congrArg Host.Outcome.next ((if_pos hstage).trans ((if_neg (not_not.2 hbusy)).trans ((if_neg (by decide)).trans ?_)))
  change (match s.comp.rolling with
    | [] => fwDone (coreOnNew (s.upto t) c)
    | x :: l => { coreOnNew (s.upto t) c with comp := { s.comp with rolling := l, coreBusy := some x } }) = _
  rw [hroll]

theorem exec_coreHealthCheck_last (hroll : s.comp.rolling = []) :
    exec (.coreHealthCheck c true t) s = .next (fwDone (coreOnNew (s.upto t) c)) := by
  refine congrArg Host.Outcome.next ((if_pos hstage).trans ((if_neg (not_not.2 hbusy)).trans ((if_neg (by decide)).trans ?_)))
  change (match s.comp.rolling with
    | [] => fwDone (coreOnNew (s.upto t) c)
    | x :: l => { coreOnNew (s.upto t) c with comp := { s.comp with rolling := l, coreBusy := some x } }) = _
  rw [hroll]

theorem coreHealthCheck_fails : Gives (.coreHealthCheck c false t) s fun u =>
    u.get F.RAS_FW_STAGE = 2 ∧ u.comp.coreBusy = none ∧ u.get F.RAS_FW_ACTIVE_BANK = s.get F.RAS_FW_ACTIVE_BANK := by
  let u : State := { s.upto t with comp := { s.comp with rolling := [], coreBusy := none } }
  have hstaged : OnlyEvents (u.set F.RAS_FW_STAGE 2) (setStage u 2) := OnlyEvents.of_setStage u 2
  have hevent : OnlyEvents ((setStage u 2).set F.RAS_FW_ON_NEW 0) (fwEvent ((setStage u 2).set F.RAS_FW_ON_NEW 0) (otherBank u) 2) :=
    OnlyEvents.of_fwEvent _ _ _
  refine ⟨_, exec_coreHealthCheck_fails hstage hbusy, ?_, ?_, ?_⟩
  · rw [hevent.get _ (by decide), State.get_set_ne _ _ (by decide), hstaged.get _ (by decide), State.get_set_same]
    rfl
  · exact (hevent.compPart Comp.coreBusy fun _ => rfl).trans (hstaged.compPart Comp.coreBusy fun _ => rfl)
  · rw [hevent.get _ (by decide), State.get_set_ne _ _ (by decide), hstaged.get _ (by decide), State.get_set_ne _ _ (by decide)]
    rfl

theorem coreHealthCheck_next {x : Nat} {l : List Nat} (hroll : s.comp.rolling = x :: l) : Gives (.coreHealthCheck c true t) s fun u =>
    u.comp.coreBusy = some x ∧ u.comp.rolling = l ∧ bits (u.get F.RAS_FW_ON_NEW) c 1 = 1 ∧ u.get F.RAS_FW_STAGE = 1 := by
  refine ⟨_, exec_coreHealthCheck_hands hstage hbusy hroll, rfl, rfl, bits_coreOnNew _ c, ?_⟩
  refine Eq.trans ?_ hstage
  exact (State.get_set_ne _ _ (by decide)).trans (State.get_set_ne _ _ (by decide))

end

/-- What the end of an activation leaves (R575). -/
theorem fwDone_done (s : State) :
    (fwDone s).get F.RAS_FW_ACTIVE_BANK = otherBank s % 2 ∧ (fwDone s).get F.RAS_FW_STAGE = 0 ∧ (fwDone s).flag F.RAS_FW_READY = false ∧
      (fwDone s).get F.RAS_FW_VERSION = (s.comp.banks.getD (otherBank s) {}).version % 2 ^ 32 ∧ (fwDone s).comp.coreBusy = none := by
  let u : State := { s with comp := { s.comp with rolling := [], coreBusy := none, imageAt := s.now } }
  let v := (((setStage u 0).set F.RAS_FW_ON_NEW 0).set F.RAS_FW_ACTIVE_BANK (otherBank s)).setFlag F.RAS_FW_READY false
  have hstaged : OnlyEvents (u.set F.RAS_FW_STAGE 0) (setStage u 0) := OnlyEvents.of_setStage u 0
  have hbanks : v.comp.banks = s.comp.banks := hstaged.compPart Comp.banks fun _ => rfl
  have hevent : OnlyEvents (v.set F.RAS_FW_VERSION (v.comp.banks.getD (otherBank s) {}).version) (fwDone s) := OnlyEvents.of_fwEvent _ _ _
  refine ⟨?_, ?_, ?_, ?_, ?_⟩
  · rw [hevent.get _ (by decide), State.get_set_ne _ _ (by decide)]
    exact (State.get_setFlag_ne _ _ (by decide)).trans (State.get_set_same _ _ _)
  · rw [hevent.get _ (by decide), State.get_set_ne _ _ (by decide)]
    refine (State.get_setFlag_ne _ _ (by decide)).trans ((State.get_set_ne _ _ (by decide)).trans ((State.get_set_ne _ _ (by decide)).trans ?_))
    rw [hstaged.get _ (by decide), State.get_set_same]
    rfl
  · rw [hevent.flag (by decide), State.flag_set_ne _ _ (by decide)]
    exact State.flag_setFlag_same _ _ _ (by decide)
  · rw [hevent.get _ (by decide), State.get_set_same, hbanks]
    rfl
  · exact (hevent.compPart Comp.coreBusy fun _ => rfl).trans (hstaged.compPart Comp.coreBusy fun _ => rfl)

/-! ### The failures of cores and of the device (R536, R577) -/

/-- A core no longer counts as healthy. -/
def coreDown (s : State) (c : Nat) : State :=
  s.set F.RAS_STATUS_CORES_UP (s.get F.RAS_STATUS_CORES_UP - bits (s.get F.RAS_STATUS_CORES_UP) c 1 * 2 ^ c)

section
variable {s : State} {t : Nat} (hawake : awake s = true)
include hawake

theorem exec_zenithCoreFail (c : Fin 4) :
    exec (.zenithCoreFail c t) s = .next
      (if s.get F.RAS_STATUS_CORES_UP ≠ 0 ∧ (coreDown (s.upto t) c).get F.RAS_STATUS_CORES_UP = 0 then wake (warmRestart (coreDown (s.upto t) c) 2)
       else coreDown (s.upto t) c) := by
  have hawake' : awake (s.upto t) = true := hawake
  refine congrArg Host.Outcome.next (if_neg ?_)
  rw [hawake']
  decide

theorem exec_deviceFault {b : Fin 9} (hb : b.val ≠ 0) : exec (.deviceFault b t) s = .next (wake (warmRestart (s.upto t) b)) := by
  have hawake' : awake (s.upto t) = true := hawake
  refine congrArg Host.Outcome.next (if_neg ?_)
  rw [hawake']
  exact fun h => h.elim hb (by decide)

end

/-! ### The warm restart (R577) -/

/-- The state in which the event of a warm restart has been posted. -/
def warmTold (s : State) (b : Nat) : State := if b = 5 then s else postRas s 0x2F zenith b

/-- Registers and volatile state as a warm restart takes them away. -/
def warmReset (s : State) : State :=
  { s with
    regs := s.regs.filter fun e => keptWarm e.1
    xlt := { s.xlt with queue := [], service := [], late := [], corrupt := [] }
    sec := { s.sec with portCur := [], portNext := [], ekeys := [], waiting := [] }
    plane := { s.plane with kerns := s.plane.kerns.map fun k => if k.tiles.isEmpty then k else { k with hurt := true } }
    mgmt := { linkUp := s.mgmt.linkUp, msixEn := s.mgmt.msixEn, masked := s.mgmt.masked, hostWrites := s.mgmt.hostWrites, answered := s.mgmt.answered }
    comp := { s.comp with rolling := [], coreBusy := none, staging := none, changed := [], committing := none, leases := [] } }

/-- What the registers of a warm restart show. -/
def warmMarked (s : State) (b : Nat) : State :=
  let s := ((s.setFlag F.RAS_STATUS_DEVICE_FAULT true).set F.RAS_STATUS_BLOCK b).set F.RAS_FW_STAGE 0
  let s := startBlock ((s.bumpSat F.SYS_BOOT_WARM_RESTARTS).setFlag F.SYS_BOOT_COLD false)
  (s.setFlag F.RAS_FW_READY false).set F.RAS_FW_ON_NEW 0

/-- The state with another map, its partners to be asked again (R199). -/
def mapNamed (s : State) (m : CMap) : State :=
  let kept := s.comp.maskDone.filter fun x => s.comp.fenced.contains (tqKey x.2.1 x.2.2)
  let c := { s.comp with map := m, prev := some s.comp.map, since := s.now, lapsed := [], maskDone := kept, committing := none }
  let un := s.dir.unresp.filter fun x => !namesPartner s.comp.map m x.2.1 x.2.2
  { s with comp := c, dir := { s.dir with unresp := un } }

theorem mapNamed_leaves (s : State) (m : CMap) : (mapNamed s m).comp.map = m ∧ (mapNamed s m).sec = s.sec ∧ (mapNamed s m).store = s.store ∧
    (mapNamed s m).log = s.log := ⟨rfl, rfl, rfl, rfl⟩

/-- The state in which the map that is put in force shows in the registers (R543). -/
def mapShown (s : State) (m : CMap) (e : Nat) : State :=
  showNode ((((mapNamed s m).set F.CMP_EPOCH_EPOCH e).set F.CMP_EPOCH_EPOCH_C (onesComp 32 e)).setFlag F.CMP_STATUS_PERSISTED false)

theorem warmRestart_eq (s : State) (b : Nat) : warmRestart s b =
    (let u := (List.range 6).foldl (fun s p => goDown s p 0 true) (warmTold s b)
     let w := warmMarked ((u.xlt.queue ++ u.xlt.service).foldl resumeWaiters (logInForce (u.get F.BLK_LOG_CFG_LOG_GIB) (warmReset u))) b
     (placeMap (keptFences w) w.comp.persisted w.comp.persistedEpoch false).setFlag F.CMP_STATUS_PERSISTED true) := by
  unfold warmRestart warmTold warmMarked warmReset
  dsimp only

theorem warmTold_onlyEvents (s : State) (b : Nat) : OnlyEvents s (warmTold s b) := by
  unfold warmTold
  split
  · exact OnlyEvents.refl s
  · exact OnlyEvents.postRas _ _ _ _ _

/-- Records that no task waits for resume nothing. -/
theorem resumeWaiters_none {l : List FaultRec} (h : ∀ r ∈ l, r.waiters = []) (s : State) : l.foldl resumeWaiters s = s :=
  List.foldlRecOn (motive := fun u : State => u = s) l resumeWaiters rfl fun u hu r hr => by
    rw [resumeWaiters, h r hr, List.foldl_nil, hu]

theorem startBlock_get {f : Fld} (hf : f.key ∉ [F.SEC_XMSS_USED_NEXT_INDEX.key, F.SEC_XMSS_STATE_BLOCKS.key, F.SEC_XMSS_STATE_BLOCKS_C.key])
    (s : State) : (startBlock s).get f = s.get f := by
  simp only [List.mem_cons, List.not_mem_nil, or_false, not_or] at hf
  obtain ⟨hindex, hblocks, hcomp⟩ := hf
  unfold startBlock
  dsimp only
  split
  · exact State.get_set_ne _ _ hindex
  · exact (State.get_set_ne _ _ hcomp).trans ((State.get_set_ne _ _ hblocks).trans (State.get_set_ne _ _ hindex))

/-- A state without its register fields and the note of the next block of signatures. -/
def besideMarks (s : State) : State := { s with regs := [], sec := { s.sec with blocksBad := 0, blockDue := false } }

theorem besideMarks_proj {s t : State} (h : besideMarks t = besideMarks s) {α : Type} (part : State → α)
    (hpart : ∀ u, part (besideMarks u) = part u) : part t = part s := by
  rw [← hpart t, h, hpart s]

theorem besideMarks_set (s : State) (f : Fld) (v : Nat) : besideMarks (s.set f v) = besideMarks s := rfl

theorem startBlock_beside (s : State) : besideMarks (startBlock s) = besideMarks s := by
  unfold startBlock
  dsimp only
  split <;> rfl

theorem warmMarked_beside (s : State) (b : Nat) : besideMarks (warmMarked s b) = besideMarks s := by
  unfold warmMarked State.setFlag State.bumpSat
  dsimp only
  rw [besideMarks_set, besideMarks_set, startBlock_beside, besideMarks_set, besideMarks_set, besideMarks_set, besideMarks_set, besideMarks_set]

theorem logInForce_beside (gib : Nat) (s : State) : besideMarks (logInForce gib s) = besideMarks { s with log := { s.log with gib := gib } } := by
  unfold logInForce
  dsimp only
  split
  · exact List.foldlRecOn (motive := fun u : State => besideMarks u = besideMarks { s with log := { s.log with gib := gib } }) (List.range 4) _ rfl
      fun u hu n _ => (besideMarks_set u _ _).trans hu
  · rfl

/-- The keys of the registers that a map in force shows in. -/
def mapKeys : List Nat :=
  [F.CMP_EPOCH_EPOCH.key, F.CMP_EPOCH_EPOCH_C.key, F.CMP_STATUS_PERSISTED.key, F.CMP_NODE_NODE_ID.key, F.CMP_NODE_GRACE_US.key,
   F.CMP_NODE_QUORUM_K.key, F.CMP_NODE_MANAGERS.key, F.CMP_NODE_LOST_HOME.key]

theorem portState_not_mapKey (p : Nat) : (F.KZP_STATUS_STATE p).key ∉ mapKeys := by
  intro hmem
  have hlt : ∀ k ∈ mapKeys, k < 0x480000 := by decide
  have hp := hlt _ hmem
  rw [F.KZP_STATUS_STATE_key] at hp
  omega

theorem mapShown_get {f : Fld} (hf : f.key ∉ mapKeys) (s : State) (m : CMap) (e : Nat) : (mapShown s m e).get f = s.get f := by
  simp only [mapKeys, List.mem_cons, List.not_mem_nil, or_false, not_or] at hf
  obtain ⟨h1, h2, h3, h4, h5, h6, h7, h8⟩ := hf
  unfold mapShown showNode
  dsimp only
  rw [State.get_set_ne _ _ h8, State.get_set_ne _ _ h7, State.get_set_ne _ _ h6, State.get_set_ne _ _ h5, State.get_set_ne _ _ h4,
    State.get_setFlag_ne _ _ h3, State.get_set_ne _ _ h2, State.get_set_ne _ _ h1]
  rfl

theorem mapShown_get_epoch (s : State) (m : CMap) (e : Nat) : (mapShown s m e).get F.CMP_EPOCH_EPOCH = e % 2 ^ 32 := by
  unfold mapShown showNode
  dsimp only
  rw [State.get_set_ne _ _ (by decide), State.get_set_ne _ _ (by decide), State.get_set_ne _ _ (by decide), State.get_set_ne _ _ (by decide),
    State.get_set_ne _ _ (by decide), State.get_setFlag_ne _ _ (by decide), State.get_set_ne _ _ (by decide), State.get_set_same]
  rfl

theorem mapShown_beside (s : State) (m : CMap) (e : Nat) : besideMarks (mapShown s m e) = besideMarks (mapNamed s m) := by
  unfold mapShown showNode State.setFlag
  dsimp only
  rw [besideMarks_set, besideMarks_set, besideMarks_set, besideMarks_set, besideMarks_set, besideMarks_set, besideMarks_set, besideMarks_set]

theorem mapNamed_quiet {s : State} (h : Quiet s) (m : CMap) : Quiet (mapNamed s m) := by
  obtain ⟨hflights, hwbs, -, hfenced, hents, htxns⟩ := h
  exact ⟨hflights, hwbs, rfl, hfenced, hents, htxns⟩

/-- Quiet is a matter of what stands beside the registers. -/
theorem quiet_of_beside {s t : State} (h : besideMarks t = besideMarks s) (hs : Quiet s) : Quiet t := by
  obtain ⟨hflights, hwbs, hlapsed, hfenced, hents, htxns⟩ := hs
  exact ⟨(besideMarks_proj h (fun u => u.fab.flights) fun _ => rfl).trans hflights, (besideMarks_proj h (fun u => u.cache.wbs) fun _ => rfl).trans hwbs,
    (besideMarks_proj h (fun u => u.comp.lapsed) fun _ => rfl).trans hlapsed, (besideMarks_proj h (fun u => u.comp.fenced) fun _ => rfl).trans hfenced,
    (besideMarks_proj h (fun u => u.dir.ents) fun _ => rfl).trans hents, (besideMarks_proj h (fun u => u.dir.txns) fun _ => rfl).trans htxns⟩

/-- The heartbeat that a map in force counts as. -/
def beatNow (s : State) : State := { s with comp := { s.comp with lastBeat := s.now } }

theorem beatNow_get (s : State) (f : Fld) : (beatNow s).get f = s.get f := rfl

theorem beatNow_quiet {s : State} (h : Quiet s) : Quiet (beatNow s) := h

theorem heartbeat_of_not_lease {s : State} (h : s.flag F.CMP_STATUS_LEASE = false) : heartbeat s = beatNow s :=
  if_neg (Bool.eq_false_iff.1 h)

/-- What putting a map in force does once it shows. -/
theorem placeMap_eq (s : State) (m : CMap) (e : Nat) : placeMap s m e false =
    (let v := heartbeat ((tenantsChanged s.comp.map m).foldl (fun s k => forceTq s (k / 256) (k % 256) (mapTenant m k).1 (mapTenant m k).2)
       (mapShown s m e))
     wake (((List.range 6).filter fun p => portUp v p && tabGet? p s.comp.map.ports != tabGet? p m.ports).foldl
       (fun s p => goDown s p 12 true) v)) := by
  unfold placeMap mapShown mapNamed
  dsimp only
  rfl

/-- A map that differs in no tenant is put in force where nothing waits, no port is UP and LEASE mode is off: it shows, and the heartbeat is new. -/
theorem placeMap_quiet {s : State} {m : CMap} (hquiet : Quiet s) (htenants : tenantsChanged s.comp.map m = [])
    (hlease : s.flag F.CMP_STATUS_LEASE = false) (hdown : ∀ p : Fin 6, s.get (F.KZP_STATUS_STATE p) = 0) (e : Nat) :
    placeMap s m e false = beatNow (mapShown s m e) := by
  have hshown : Quiet (mapShown s m e) := quiet_of_beside (mapShown_beside s m e) (mapNamed_quiet hquiet m)
  have hlease' : (mapShown s m e).flag F.CMP_STATUS_LEASE = false := by
    rw [State.flag, mapShown_get (by decide)]
    exact hlease
  have hnone : ((List.range 6).filter fun p => portUp (beatNow (mapShown s m e)) p && tabGet? p s.comp.map.ports != tabGet? p m.ports) = [] := by
    rw [List.filter_eq_nil_iff]
    intro p hp
    have hport : (mapShown s m e).get (F.KZP_STATUS_STATE p) = 0 :=
      (mapShown_get (portState_not_mapKey p) s m e).trans (hdown ⟨p, List.mem_range.1 hp⟩)
    have hnot : portUp (beatNow (mapShown s m e)) p = false := by
      rw [portUp, beatNow_get, hport]
      rfl
    rw [hnot, Bool.false_and]
    decide
  rw [placeMap_eq, htenants, List.foldl_nil, heartbeat_of_not_lease hlease']
  dsimp only
  rw [hnone]
  exact wake_quiet (beatNow_quiet hshown)

theorem keptFences_get {f : Fld} (hf : f.key ≠ F.CMP_STATUS_EXPELLED.key) (s : State) : (keptFences s).get f = s.get f :=
  State.get_setFlag_ne _ _ hf

theorem tabGet?_filter_of_kept {α : Type} {k : Nat} {p : Nat → Bool} (hp : p k = true) (t : Tab α) :
    tabGet? k (t.filter fun e => p e.1) = tabGet? k t := by
  induction t with
  | nil => rfl
  | cons a t ih =>
    obtain ⟨i, v⟩ := a
    by_cases hik : i = k
    · subst hik
      simp [hp, tabGet?]
    · rw [List.filter_cons]
      split <;> simp [tabGet?, hik, ih]

/-- A field that a warm restart keeps, and one that it does not. -/
theorem warmReset_get_kept {f : Fld} (hf : keptWarm f.key = true) (s : State) : (warmReset s).get f = s.get f :=
  congrArg (fun o : Option Nat => o.getD f.reset) (tabGet?_filter_of_kept hf s.regs)

theorem warmReset_get_lost {f : Fld} (hf : keptWarm f.key = false) (s : State) : (warmReset s).get f = f.reset :=
  congrArg (fun o : Option Nat => o.getD f.reset) (tabGet?_filter_none (t := s.regs) (.inr hf))

theorem logInForce_get {f : Fld} (hgib : f.key ≠ F.BLK_LOG_CFG_LOG_GIB.key) (hframes : ∀ n < 4, f.key ≠ (F.TIER_S_NEAR_STATUS_POOL_FRAMES n).key)
    (gib : Nat) (s : State) : (logInForce gib s).get f = s.get f := by
  have hset : ({ s.set F.BLK_LOG_CFG_LOG_GIB gib with log := { s.log with gib := gib } } : State).get f = s.get f := State.get_set_ne s gib hgib
  unfold logInForce
  dsimp only
  split
  · exact List.foldlRecOn (motive := fun u : State => u.get f = s.get f) (List.range 4) _ hset
      fun u hu n hn => (State.get_set_ne u _ (hframes n (List.mem_range.1 hn))).trans hu
  · exact hset

/-- The keys of the registers that a warm restart marks. -/
def markKeys : List Nat :=
  [F.RAS_STATUS_DEVICE_FAULT.key, F.RAS_STATUS_BLOCK.key, F.RAS_FW_STAGE.key, F.SYS_BOOT_WARM_RESTARTS.key, F.SYS_BOOT_COLD.key,
   F.SEC_XMSS_USED_NEXT_INDEX.key, F.SEC_XMSS_STATE_BLOCKS.key, F.SEC_XMSS_STATE_BLOCKS_C.key, F.RAS_FW_READY.key, F.RAS_FW_ON_NEW.key]

theorem warmMarked_get {f : Fld} (hf : f.key ∉ markKeys) (s : State) (b : Nat) : (warmMarked s b).get f = s.get f := by
  simp only [markKeys, List.mem_cons, List.not_mem_nil, or_false, not_or] at hf
  obtain ⟨hfault, hblock, hstage, hwarm, hcold, hindex, hblocks, hcomp, hready, hnew⟩ := hf
  unfold warmMarked
  dsimp only
  rw [State.get_set_ne _ _ hnew, State.get_setFlag_ne _ _ hready, startBlock_get (by simp [hindex, hblocks, hcomp]), State.get_setFlag_ne _ _ hcold,
    State.get_bumpSat_ne _ _ hwarm, State.get_set_ne _ _ hstage, State.get_set_ne _ _ hblock, State.get_setFlag_ne _ _ hfault]

theorem warmMarked_marks (s : State) {b : Nat} (hb : b < 2 ^ 8) :
    (warmMarked s b).flag F.RAS_STATUS_DEVICE_FAULT = true ∧ (warmMarked s b).get F.RAS_STATUS_BLOCK = b ∧
      (warmMarked s b).flag F.SYS_BOOT_COLD = false := by
  unfold warmMarked
  dsimp only
  refine ⟨?_, ?_, ?_⟩
  · rw [State.flag, State.get_set_ne _ _ (by decide), State.get_setFlag_ne _ _ (by decide), startBlock_get (by decide),
      State.get_setFlag_ne _ _ (by decide), State.get_bumpSat_ne _ _ (by decide), State.get_set_ne _ _ (by decide), State.get_set_ne _ _ (by decide)]
    exact State.flag_setFlag_same _ _ _ (by decide)
  · rw [State.get_set_ne _ _ (by decide), State.get_setFlag_ne _ _ (by decide), startBlock_get (by decide), State.get_setFlag_ne _ _ (by decide),
      State.get_bumpSat_ne _ _ (by decide), State.get_set_ne _ _ (by decide), State.get_set_same]
    exact Nat.mod_eq_of_lt hb
  · rw [State.flag, State.get_set_ne _ _ (by decide), State.get_setFlag_ne _ _ (by decide), startBlock_get (by decide)]
    exact State.flag_setFlag_same _ _ _ (by decide)

/-- The state of a warm restart before its map is put in force, on a device whose ports are DOWN and whose faults no task waits for. -/
def warmReady (s : State) (b : Nat) : State :=
  keptFences (warmMarked (logInForce ((warmTold s b).get F.BLK_LOG_CFG_LOG_GIB) (warmReset (warmTold s b))) b)

theorem portState_not_eventKey (p : Nat) : (F.KZP_STATUS_STATE p).key ∉ eventKeys := by
  intro hmem
  have hlt : ∀ k ∈ eventKeys, k < 0x480000 := by decide
  have hp := hlt _ hmem
  rw [F.KZP_STATUS_STATE_key] at hp
  omega

/-- A field that neither the marks nor the log of a warm restart touch. -/
theorem warmReady_get {f : Fld} (hf : f.key ∉ F.CMP_STATUS_EXPELLED.key :: F.BLK_LOG_CFG_LOG_GIB.key :: markKeys)
    (hframes : ∀ n < 4, f.key ≠ (F.TIER_S_NEAR_STATUS_POOL_FRAMES n).key) (s : State) (b : Nat) :
    (warmReady s b).get f = (warmReset (warmTold s b)).get f := by
  simp only [List.mem_cons, not_or] at hf
  obtain ⟨hexp, hgib, hmarks⟩ := hf
  rw [warmReady, keptFences_get hexp, warmMarked_get (by simpa only [List.mem_cons] using hmarks), logInForce_get hgib hframes]

theorem warmReady_lease (s : State) (b : Nat) : (warmReady s b).flag F.CMP_STATUS_LEASE = false := by
  rw [State.flag, warmReady_get (by decide) (by decide), warmReset_get_lost (by decide)]
  rfl

theorem warmReady_portState (s : State) (b p : Nat) : (warmReady s b).get (F.KZP_STATUS_STATE p) = s.get (F.KZP_STATUS_STATE p) := by
  have hlt : ∀ k ∈ F.CMP_STATUS_EXPELLED.key :: F.BLK_LOG_CFG_LOG_GIB.key :: markKeys, k < 0x480000 := by decide
  have hkept : keptWarm (F.KZP_STATUS_STATE p).key = true := by
    have hoff : 0x11000 ≤ (F.KZP_STATUS_STATE p).key / 64 := by
      rw [F.KZP_STATUS_STATE_key]
      omega
    simp only [keptWarm, hoff, decide_true, Bool.true_or]
  rw [warmReady_get, warmReset_get_kept hkept]
  · exact (warmTold_onlyEvents s b).get _ (portState_not_eventKey p)
  · intro hmem
    have hp := hlt _ hmem
    rw [F.KZP_STATUS_STATE_key] at hp
    omega
  · intro n hn
    rw [F.KZP_STATUS_STATE_key]
    change _ ≠ (0x1e030 + 0x1000 * n) * 64 + 0
    omega

/-- The fences that flash keeps are in force. -/
def fencesKept (s : State) : State := { s with comp := { s.comp with fenced := s.comp.kept } }

theorem keptFences_beside (s : State) : besideMarks (keptFences s) = fencesKept (besideMarks s) := rfl

theorem warmReady_beside (s : State) (b : Nat) : besideMarks (warmReady s b) = fencesKept (besideMarks
    { warmReset (warmTold s b) with log := { (warmTold s b).log with gib := (warmTold s b).get F.BLK_LOG_CFG_LOG_GIB } }) := by
  rw [warmReady, keptFences_beside, warmMarked_beside, logInForce_beside]
  rfl

/-- A part of the state that neither the registers nor the next block hold, as it stands before the map is put in force. -/
theorem warmReady_part {α : Type} (part : State → α) (hpart : ∀ u, part (besideMarks u) = part u) (s : State) (b : Nat) :
    part (warmReady s b) = part (fencesKept (besideMarks
      { warmReset (warmTold s b) with log := { (warmTold s b).log with gib := (warmTold s b).get F.BLK_LOG_CFG_LOG_GIB } })) := by
  rw [← hpart (warmReady s b), warmReady_beside]

section
variable {s : State} (b : Nat)

theorem warmReady_quiet (h : Quiet s) (hkept : s.comp.kept = []) : Quiet (warmReady s b) := by
  have hevents := warmTold_onlyEvents s b
  obtain ⟨hflights, hwbs, hlapsed, -, hents, htxns⟩ := h
  refine ⟨(warmReady_part (fun u => u.fab.flights) (fun _ => rfl) s b).trans ?_, (warmReady_part (fun u => u.cache.wbs) (fun _ => rfl) s b).trans ?_,
    (warmReady_part (fun u => u.comp.lapsed) (fun _ => rfl) s b).trans ?_, (warmReady_part (fun u => u.comp.fenced) (fun _ => rfl) s b).trans ?_,
    (warmReady_part (fun u => u.dir.ents) (fun _ => rfl) s b).trans ?_, (warmReady_part (fun u => u.dir.txns) (fun _ => rfl) s b).trans ?_⟩
  · exact (congrArg Fabric.flights hevents.fab).trans hflights
  · exact (congrArg Cache.wbs hevents.cache).trans hwbs
  · exact (hevents.compPart Comp.lapsed fun _ => rfl).trans hlapsed
  · exact (hevents.compPart Comp.kept fun _ => rfl).trans hkept
  · exact (congrArg Dir.ents hevents.dir).trans hents
  · exact (congrArg Dir.txns hevents.dir).trans htxns

theorem warmReady_store : (warmReady s b).store = s.store :=
  (warmReady_part State.store (fun _ => rfl) s b).trans (warmTold_onlyEvents s b).store

theorem warmReady_map : (warmReady s b).comp.map = s.comp.map :=
  (warmReady_part (fun u => u.comp.map) (fun _ => rfl) s b).trans (warmTold_onlyEvents s b).map

theorem warmReady_persisted : (warmReady s b).comp.persisted = s.comp.persisted :=
  (warmReady_part (fun u => u.comp.persisted) (fun _ => rfl) s b).trans ((warmTold_onlyEvents s b).compPart Comp.persisted fun _ => rfl)

theorem warmReady_persistedEpoch : (warmReady s b).comp.persistedEpoch = s.comp.persistedEpoch :=
  (warmReady_part (fun u => u.comp.persistedEpoch) (fun _ => rfl) s b).trans ((warmTold_onlyEvents s b).compPart Comp.persistedEpoch fun _ => rfl)

theorem warmReady_keys : (warmReady s b).sec.portCur = [] ∧ (warmReady s b).sec.ekeys = [] :=
  ⟨warmReady_part (fun u => u.sec.portCur) (fun _ => rfl) s b, warmReady_part (fun u => u.sec.ekeys) (fun _ => rfl) s b⟩

theorem warmReady_gib : (warmReady s b).log.gib = s.get F.BLK_LOG_CFG_LOG_GIB :=
  (warmReady_part (fun u => u.log.gib) (fun _ => rfl) s b).trans ((warmTold_onlyEvents s b).get _ (by decide))

end

section
variable {s : State} {b : Nat} (hdown : ∀ p : Fin 6, s.get (F.KZP_STATUS_STATE p) = 0) (hqueue : s.xlt.queue = []) (hservice : s.xlt.service = [])
include hdown hqueue hservice

/-- With no port UP and no record posted, a warm restart is the reset, its marks, and the persisted map put in force. -/
theorem warmRestart_ready : warmRestart s b =
    (placeMap (warmReady s b) (warmReady s b).comp.persisted (warmReady s b).comp.persistedEpoch false).setFlag F.CMP_STATUS_PERSISTED true := by
  have hevents := warmTold_onlyEvents s b
  have hports : (List.range 6).foldl (fun s p => goDown s p 0 true) (warmTold s b) = warmTold s b :=
    ports_goDown_of_down (fun p => (hevents.get _ (portState_not_eventKey p)).trans (hdown p)) 0 true
  have hwaits : ∀ r ∈ (warmTold s b).xlt.queue ++ (warmTold s b).xlt.service, r.waiters = [] := by
    have hnone : queueWaits (warmTold s b) = [] := by rw [hevents.waits, queueWaits, hqueue, List.flatMap_nil]
    rw [hevents.service, hservice, List.append_nil]
    exact List.flatMap_eq_nil_iff.1 hnone
  rw [warmRestart_eq]
  dsimp only
  rw [hports, resumeWaiters_none hwaits]
  rfl

/-- What a warm restart leaves where nothing waits (R577). -/
theorem warmRestart_leaves (hquiet : Quiet s) (hkept : s.comp.kept = []) (htenants : tenantsChanged s.comp.map s.comp.persisted = []) (hb : b < 2 ^ 8) :
    let u := warmRestart s b
    u.flag F.RAS_STATUS_DEVICE_FAULT = true ∧ u.get F.RAS_STATUS_BLOCK = b ∧ u.flag F.SYS_BOOT_COLD = false ∧ u.comp.map = s.comp.persisted ∧
      u.get F.CMP_EPOCH_EPOCH = s.comp.persistedEpoch % 2 ^ 32 ∧ u.sec.portCur = [] ∧ u.sec.ekeys = [] ∧ u.store = s.store ∧
      u.log.gib = s.get F.BLK_LOG_CFG_LOG_GIB := by
  have htenants' : tenantsChanged (warmReady s b).comp.map (warmReady s b).comp.persisted = [] := by rw [warmReady_map, warmReady_persisted, htenants]
  have hplaced := placeMap_quiet (warmReady_quiet b hquiet hkept) htenants' (warmReady_lease s b)
    (fun p => (warmReady_portState s b p).trans (hdown p)) (warmReady s b).comp.persistedEpoch
  have hbeside := mapShown_beside (warmReady s b) (warmReady s b).comp.persisted (warmReady s b).comp.persistedEpoch
  obtain ⟨hfault, hblock, hcold⟩ := warmMarked_marks
    (logInForce ((warmTold s b).get F.BLK_LOG_CFG_LOG_GIB) (warmReset (warmTold s b))) hb
  have hget : ∀ {f : Fld}, f.key ∉ F.CMP_STATUS_EXPELLED.key :: mapKeys → (warmRestart s b).get f =
      (warmMarked (logInForce ((warmTold s b).get F.BLK_LOG_CFG_LOG_GIB) (warmReset (warmTold s b))) b).get f := by
    intro f hf
    simp only [List.mem_cons, not_or] at hf
    obtain ⟨hexp, hmap⟩ := hf
    have hpersisted : f.key ≠ F.CMP_STATUS_PERSISTED.key := fun e => hmap (by rw [e]; decide)
    rw [warmRestart_ready hdown hqueue hservice, hplaced, State.get_setFlag_ne _ _ hpersisted, beatNow_get, mapShown_get hmap, warmReady,
      keptFences_get hexp]
  have hpart : ∀ {α : Type} (part : State → α), (∀ u, part (besideMarks u) = part u) → (∀ u : State, part (beatNow u) = part u) →
      part (warmRestart s b) = part (mapNamed (warmReady s b) (warmReady s b).comp.persisted) := by
    intro α part hp hbeat
    rw [warmRestart_ready hdown hqueue hservice, hplaced, ← besideMarks_proj hbeside part hp, ← hbeat (mapShown _ _ _)]
    exact besideMarks_proj (besideMarks_set _ _ _) part hp
  obtain ⟨hmap, hsec, hstore, hlog⟩ := mapNamed_leaves (warmReady s b) (warmReady s b).comp.persisted
  refine ⟨?_, (hget (by decide)).trans hblock, ?_, ?_, ?_, ?_, ?_, ?_, ?_⟩
  · rw [State.flag, hget (by decide)]
    exact hfault
  · rw [State.flag, hget (by decide)]
    exact hcold
  · rw [hpart (fun u => u.comp.map) (fun _ => rfl) fun _ => rfl, hmap, warmReady_persisted]
  · rw [warmRestart_ready hdown hqueue hservice, hplaced, State.get_setFlag_ne _ _ (by decide), beatNow_get, mapShown_get_epoch,
      warmReady_persistedEpoch]
  · rw [hpart (fun u => u.sec.portCur) (fun _ => rfl) fun _ => rfl, hsec, (warmReady_keys b).1]
  · rw [hpart (fun u => u.sec.ekeys) (fun _ => rfl) fun _ => rfl, hsec, (warmReady_keys b).2]
  · rw [hpart State.store (fun _ => rfl) fun _ => rfl, hstore, warmReady_store]
  · rw [hpart (fun u => u.log.gib) (fun _ => rfl) fun _ => rfl, hlog, warmReady_gib]

end

/-- Settles O33: the messages of an update, the activation and its health checks, and the warm restart of a quiet device. -/
theorem firmwareUpdatesRoll : Obligations.FirmwareUpdatesRoll := by
  refine ⟨fun s pcie agent t => ⟨fun h heid => ⟨fun n hnone hen hlc hstage => ?_, fun n hsome => exec_requestUpdate_already h heid hsome,
        fun x hx => ⟨fun n hn => ⟨_, exec_passComponentTable_fits h heid hx hn, rfl, ?_⟩, fun n hn => ⟨_, exec_passComponentTable_large h heid hx hn, rfl, rfl⟩,
          fun n len img hsize => ⟨fun hmore => ?_, fun m hall himg hok => ?_, fun hall hbad => ?_⟩, fun hmay => ?_, fun hmay => ?_⟩⟩,
      fun x hx => ⟨fun hdue => ?_, exec_updateAgentTimeout_early hx⟩⟩,
    ⟨fun s d j h => ⟨fun hno => ?_, fun hmay hnone => ?_⟩,
      fun s c t => ⟨fun hstage => ⟨_, exec_coreHealthCheck_idle hstage, bits_coreUp _ c, fun f hf => State.get_set_ne _ _ hf⟩,
        fun hstage hbusy => ⟨coreHealthCheck_fails hstage hbusy, fun x l hroll => coreHealthCheck_next hstage hbusy hroll, fun hroll => ?_⟩,
        fun hawake => ⟨fun hsome => ?_, fun hup hzero => ?_⟩, fun b hb hawake => exec_deviceFault hawake hb⟩,
      fun s b hquiet hkept hdown hqueue hservice htenants =>
        warmRestart_leaves hdown hqueue hservice hquiet hkept htenants (Nat.lt_of_lt_of_le b.isLt (by decide))⟩⟩
  · refine ⟨_, exec_requestUpdate_starts h heid hnone hen hlc hstage, rfl, ?_, rfl⟩
    rw [State.flag, respond_get]
    exact State.flag_setFlag_same _ _ _ (by decide)
  · exact List.append_assoc _ _ _
  · refine ⟨_, (exec_requestFirmwareData h heid hx hsize).trans (congrArg Host.Outcome.next (if_neg hmore)), rfl, rfl⟩
  · obtain ⟨hready, hbanks, hverify, happly⟩ := verifyImage_good (s := bankEmptied (s.upto t)) (m := m) hok pcie { x with got := gotAfter x n len }
    subst himg
    exact ⟨_, (exec_requestFirmwareData h heid hx hsize).trans (congrArg Host.Outcome.next (if_pos hall)), hready, hbanks, hverify, happly⟩
  · refine ⟨_, (exec_requestFirmwareData h heid hx hsize).trans (congrArg Host.Outcome.next (if_pos hall)), ?_⟩
    rw [verifyImage_bad (s := bankEmptied (s.upto t)) hbad]
    exact ⟨rfl, rfl⟩
  · obtain ⟨hstage, hbusy, -, hnone, -⟩ := rollStart_starts { s.upto t with mgmt := { s.mgmt with update := none } }
    refine ⟨_, exec_activateFirmware_rolls h heid hx hmay, ?_, ?_, ?_, respond_sent _ _ _ _ _⟩
    · rw [respond_get, hstage]
    · rw [respond_comp, hbusy]
    · rw [respond_mgmt, hnone]
  · exact ⟨_, exec_activateFirmware_refused h heid hx hmay, rfl, rfl⟩
  · exact ⟨_, exec_updateAgentTimeout_due hx hdue, rfl, State.flag_setFlag_same _ _ _ (by decide), rfl⟩
  · refine ⟨_, exec_cmpFwActivate_denied h hno, ?_, ?_, ends_of_found h (findJob_startState s d zenith _ _) _ _⟩
    · rw [rowEnd_comp, finishJob_comp, startState_comp]
    · exact (finishJob_regs _ _ _ _).trans (startState_regs s d zenith)
  · obtain ⟨hstage, hbusy, hrolling, -, hfind⟩ := rollStart_starts (startState s d zenith)
    refine ⟨_, exec_cmpFwActivate_rolls h hmay hnone, ?_, ?_, ?_, ends_of_found h ((hfind _ _).trans (findJob_startState s d zenith _ _)) _ _⟩
    · rw [rowEnd_get, finishJob_get, hstage]
    · rw [rowEnd_comp, finishJob_comp, hbusy]
    · rw [rowEnd_comp, finishJob_comp, hrolling]
  · have hbank : otherBank (coreOnNew (s.upto t) c) = otherBank s := by
      rw [otherBank, coreOnNew, State.get_set_ne _ _ (by decide), coreUp, State.get_set_ne _ _ (by decide), State.upto_get, otherBank]
    have hdone := fwDone_done (coreOnNew (s.upto t) c)
    rw [hbank] at hdone
    exact ⟨_, exec_coreHealthCheck_last hstage hbusy hroll, hdone⟩
  · rw [exec_zenithCoreFail hawake, if_neg (fun hboth => hsome.elim hboth.1 fun hne => hne hboth.2)]
    rfl
  · rw [exec_zenithCoreFail hawake, if_pos ⟨hup, hzero⟩]
    rfl

end Sys2Proof.Machine
end

section
/-! SUPPORT. Sectors (spec/14, R567 to R572): the state of one as it is set and as other settings leave it, a power-down, a self-test, and a page that
moves where nothing holds its lines. -/

namespace Sys2Proof.Machine

open Sys2Proof

/-! ### The state of a sector (R567) -/

/-- Four bits of a word replaced read as they were put. -/
theorem bits_nibble_replaced {n v : Nat} (hn : n < 4) (hv : v < 16) (w : Nat) :
    bits ((w - bits w (4 * n) 4 * 2 ^ (4 * n) + v * 2 ^ (4 * n)) % 2 ^ 16) (4 * n) 4 = v := by
  obtain rfl | rfl | rfl | rfl : n = 0 ∨ n = 1 ∨ n = 2 ∨ n = 3 := by omega
  all_goals
    unfold bits
    omega

theorem OnlyEvents.of_setSectorState (s : State) (n v : Nat) :
    OnlyEvents (s.set F.RAS_SECTOR_STATE (s.get F.RAS_SECTOR_STATE - bits (s.get F.RAS_SECTOR_STATE) (4 * n) 4 * 2 ^ (4 * n) + v * 2 ^ (4 * n)))
      (setSectorState s n v) := OnlyEvents.postRas _ _ _ _ _

theorem sectorState_setSectorState {n v : Nat} (hn : n < 4) (hv : v < 16) (s : State) : sectorState (setSectorState s n v) n = v :=
  (congrArg (bits · (4 * n) 4) ((OnlyEvents.of_setSectorState s n v).get_set (by decide))).trans (bits_nibble_replaced hn hv _)

theorem setSectorState_store (s : State) (n v : Nat) : (setSectorState s n v).store = s.store := (OnlyEvents.of_setSectorState s n v).store

theorem setSectorState_findJob (s : State) (n v g i : Nat) : findJob (setSectorState s n v) g i = findJob s g i :=
  (OnlyEvents.of_setSectorState s n v).findJob_eq g i

theorem setSectorState_get {f : Fld} (hf : f.key ≠ F.RAS_SECTOR_STATE.key) (hquiet : f.key ∉ eventKeys) (s : State) (n v : Nat) :
    (setSectorState s n v).get f = s.get f :=
  ((OnlyEvents.of_setSectorState s n v).get f hquiet).trans (State.get_set_ne _ _ hf)

theorem sectorState_of_get {s t : State} (h : t.get F.RAS_SECTOR_STATE = s.get F.RAS_SECTOR_STATE) (n : Nat) : sectorState t n = sectorState s n := by
  rw [sectorState, sectorState, h]

theorem sectorState_showEvac (s : State) (n m : Nat) : sectorState (showEvac s n) m = sectorState s m :=
  sectorState_of_get ((State.get_set_ne _ _ (by decide)).trans (State.get_set_ne _ _ (by decide))) m

theorem dbits_two_lt (ws : List Word) (w l : Nat) : dbits ws w l 2 < 4 := Nat.mod_lt _ (by decide)

/-! ### CMP_SECTOR (R567 to R569) -/

theorem sectorState_startState (s : State) (d : Desc) (u n : Nat) : sectorState (startState s d u) n = sectorState s n :=
  sectorState_of_get (startState_get s d u _) n

section
variable {s : State} {d : Desc} {j : Job} (h : Ready s d 0x65 zenith j)
include h

/-- The return of a sector that is OFF, no other being on its way. -/
theorem cmpSector_returns (hreturn : dbits d.words 16 2 1 = 1) (hoff : sectorState s (dbits d.words 16 0 2) = 3)
    (halone : ((List.range 4).any fun m => m ≠ dbits d.words 16 0 2 && sectorState s m ≠ 0) = false) :
    Gives (.cmpSector d) s fun u => sectorState u (dbits d.words 16 0 2) = 4 ∧ u.store = s.store ∧ Ends u d (endCode j .ok) := by
  have hwords : (started j zenith).words = d.words := h.2.1
  have hexec : exec (.cmpSector d) s = .next (rowEnd s j (finishJob
      (setSectorState (startState s d zenith) (dbits d.words 16 0 2) 4) (started j zenith) .ok)) := by
    refine congrArg Host.Outcome.next ((runDesc_ready h _).trans (congrArg (rowEnd s j) ?_))
    simp only [hwords, sectorState_startState]
    rw [if_pos hreturn, if_pos ⟨hoff, by rw [halone]; rfl⟩]
  refine ⟨_, hexec, ?_, ?_, ends_of_found h ((setSectorState_findJob _ _ _ _ _).trans (findJob_startState _ _ _ _ _)) _ _⟩
  · exact (sectorState_of_get ((rowEnd_get _ _ _ _).trans (finishJob_get _ _ _ _ _)) _).trans
      (sectorState_setSectorState (dbits_two_lt _ _ _) (by decide) _)
  · exact (finishJob_store _ _ _ _).trans ((setSectorState_store _ _ _).trans (startState_store _ _ _))

/-- A refusal ends the descriptor and changes nothing else. -/
theorem cmpSector_ends {c : Code} (hc : c ≠ .ok)
    (hexec : exec (.cmpSector d) s = .next (rowEnd s j (finishJob (startState s d zenith) (started j zenith) c))) :
    Gives (.cmpSector d) s fun u => u.regs = s.regs ∧ u.store = s.store ∧ Ends u d c := by
  refine ⟨_, hexec, (finishJob_regs _ _ _ _).trans (startState_regs _ _ _), (finishJob_store _ _ _ _).trans (startState_store _ _ _), ?_⟩
  have hends := ends_of_found h (findJob_startState s d zenith d.ring.val d.idx.val) c 0
  rwa [endCode, if_neg fun hok => hc hok.1] at hends

theorem exec_cmpSector_notOff (hreturn : dbits d.words 16 2 1 = 1) (hnot : sectorState s (dbits d.words 16 0 2) ≠ 3) :
    exec (.cmpSector d) s = .next (rowEnd s j (finishJob (startState s d zenith) (started j zenith) .denied)) := by
  have hwords : (started j zenith).words = d.words := h.2.1
  refine congrArg Host.Outcome.next ((runDesc_ready h _).trans (congrArg (rowEnd s j) ?_))
  simp only [hwords, sectorState_startState]
  rw [if_pos hreturn, if_neg fun hoff => hnot hoff.1]

theorem exec_cmpSector_refused {c : Code} (haway : dbits d.words 16 2 1 ≠ 1)
    (hno : evacRefused (startState s d zenith) (dbits d.words 16 0 2) (dbits d.words 17 0 2) = some c) :
    exec (.cmpSector d) s = .next (rowEnd s j (finishJob (startState s d zenith) (started j zenith) c)) := by
  have hwords : (started j zenith).words = d.words := h.2.1
  refine congrArg Host.Outcome.next ((runDesc_ready h _).trans (congrArg (rowEnd s j) ?_))
  simp only [hwords]
  rw [if_neg haway, hno]

theorem exec_cmpSector_starts (haway : dbits d.words 16 2 1 ≠ 1)
    (hmay : evacRefused (startState s d zenith) (dbits d.words 16 0 2) (dbits d.words 17 0 2) = none) :
    exec (.cmpSector d) s = .next (rowEnd s j (finishJob (evacStart { startState s d zenith with comp := { (startState s d zenith).comp with
      recoveries := (startState s d zenith).comp.recoveries ++
        [{ ty := .sector, inst := dbits d.words 16 0 2, cause := 5, since := (startState s d zenith).now }] } }
      (dbits d.words 16 0 2) (dbits d.words 17 0 2)) (started j zenith) .ok)) := by
  have hwords : (started j zenith).words = d.words := h.2.1
  refine congrArg Host.Outcome.next ((runDesc_ready h _).trans (congrArg (rowEnd s j) ?_))
  simp only [hwords]
  rw [if_neg haway, hmay]

end

/-! ### The power-down (R567) -/

/-- Where no write-back is open and no guest line is held there is nothing to write back. -/
theorem writeBacks_none {s : State} (hwbs : s.cache.wbs = []) (n : Nat) : writeBacks s n [] true = s := by
  have hcache : { s.cache with wbs := [] } = s.cache := hwbs ▸ rfl
  unfold writeBacks drainBacks
  simp only [hwbs, List.filter_nil, List.map_nil, List.foldl_nil, if_true, List.append_nil, hcache]

theorem guestLines_none {s : State} (hguests : s.cache.guests = []) (n : Nat) : guestLines s n = [] := by
  rw [guestLines, hguests]
  rfl

/-- The tiles of a sector without power. -/
def tilesOff (s : State) (n : Nat) : State := (span (16 * n) 16).foldl tileOff s

theorem tileOff_store (s : State) (g : Nat) : (tileOff s g).store = s.store := rfl

theorem tilesOff_store (s : State) (n : Nat) : (tilesOff s n).store = s.store :=
  List.foldlRecOn (motive := fun u : State => u.store = s.store) _ tileOff rfl fun u h g _ => (tileOff_store u g).trans h

/-- A tile's registers show a state and banks in bits of their own. -/
theorem tileState_key (g : Nat) : (F.TP_T_STATUS_STATE g).key = 0xC40000 + 0x1000 * g ∧ (F.TP_T_STATUS_BANKS_ON g).key = 0xC40008 + 0x1000 * g ∧
    (F.TP_T_STATUS_BANKS_RET g).key = 0xC40018 + 0x1000 * g := by
  refine ⟨?_, ?_, ?_⟩ <;> simp only [Fld.key, F.TP_T_STATUS_STATE, F.TP_T_STATUS_BANKS_ON, F.TP_T_STATUS_BANKS_RET, F.TP_T_STATUS] <;> omega

theorem tileState_not_sector (g : Nat) : (F.TP_T_STATUS_STATE g).key ≠ F.RAS_SECTOR_STATE.key := by
  have hkey : F.RAS_SECTOR_STATE.key = 0x1C0800 := rfl
  obtain ⟨hstate, -, -⟩ := tileState_key g
  omega

theorem tileState_not_event (g : Nat) : (F.TP_T_STATUS_STATE g).key ∉ eventKeys := by
  obtain ⟨hstate, -, -⟩ := tileState_key g
  have hbelow : ∀ k ∈ eventKeys, k < 0xC40000 := by decide
  intro h
  have := hbelow _ h
  omega

theorem tileOff_get_state (s : State) (g : Nat) : (tileOff s g).get (F.TP_T_STATUS_STATE g) = 0 := by
  obtain ⟨hstate, hon, hret⟩ := tileState_key g
  rw [tileOff, State.get_set_ne _ _ (by omega), State.get_set_ne _ _ (by omega), State.get_set_same]
  rfl

/-- A tile that is off stays so when another loses its power. -/
theorem tileOff_keeps {s : State} {x : Nat} (h : s.get (F.TP_T_STATUS_STATE x) = 0) (g : Nat) : (tileOff s g).get (F.TP_T_STATUS_STATE x) = 0 := by
  obtain rfl | hne := eq_or_ne x g
  · exact tileOff_get_state s x
  · obtain ⟨hstate, hon, hret⟩ := tileState_key g
    obtain ⟨hx, -, -⟩ := tileState_key x
    rw [tileOff, State.get_set_ne _ _ (by omega), State.get_set_ne _ _ (by omega), State.get_set_ne _ _ (by omega)]
    exact h

theorem tilesOff_get_state (s : State) {n g : Nat} (hg : g / 16 = n) : (tilesOff s n).get (F.TP_T_STATUS_STATE g) = 0 :=
  foldl_establishes (P := fun x u => u.get (F.TP_T_STATUS_STATE x) = 0) tileOff_get_state (fun _ _ g h => tileOff_keeps h g) _ s g
    (mem_span.2 (by omega))

section
variable {s : State} {n : Fin 4} {t : Nat}

theorem exec_sectorPowerDown_off (hstate : sectorState s n = 2) (hidle : sectorBusy s n = false) (hguests : s.cache.guests = [])
    (hwbs : s.cache.wbs = []) : exec (.sectorPowerDown n t) s = .next (setSectorState (tilesOff (s.upto t) n) n 3) := by
  have hlines : guestLines (s.upto t) n = [] := guestLines_none hguests n
  have hback : writeBacks (s.upto t) n [] true = s.upto t := writeBacks_none (s := s.upto t) hwbs n
  have hnone : backsOpen (s.upto t) [n.val] = false := by
    show s.cache.wbs.any _ = false
    rw [hwbs]
    rfl
  have hstay : ¬ (sectorState (s.upto t) n ≠ 2 ∨ sectorBusy (s.upto t) n) := by
    show ¬ (sectorState s n ≠ 2 ∨ sectorBusy s n)
    simp only [hstate, hidle, ne_eq, not_true_eq_false, Bool.false_eq_true, or_self, not_false_iff]
  show execSectorPowerDown n t s = _
  unfold execSectorPowerDown
  dsimp only
  rw [if_neg hstay, hlines, hback, if_neg (by rw [hnone]; decide)]
  rfl

theorem exec_sectorPowerDown_else (hstate : sectorState s n ≠ 2) : exec (.sectorPowerDown n t) s = .next (s.upto t) :=
  congrArg Host.Outcome.next (if_pos (Or.inl hstate))

end

/-! ### The self-test (R567) -/

/-- The engines of a list are set to serve. -/
def enginesServe (s : State) (l : List Nat) : State := l.foldl (fun s e => setEngine s e 0) s

theorem setEngine_store (s : State) (e v : Nat) : (setEngine s e v).store = s.store := by
  unfold setEngine
  split <;> rfl

theorem enginesServe_store (s : State) (l : List Nat) : (enginesServe s l).store = s.store :=
  List.foldlRecOn (motive := fun u : State => u.store = s.store) _ _ rfl fun u h e _ => (setEngine_store u e 0).trans h

/-- The state of a sector that has passed its self-test, before its pages return. -/
def sectorTested (s : State) (n : Nat) : State :=
  let t := setSectorState (enginesServe s ((sectorEngines n).filter fun e => !s.comp.retired.contains (.engine, e))) n 5
  showEvac (addExtra { t with comp := { t.comp with moved := [] } } (t.get F.RAS_SECTOR_TARGET) 1) n

theorem addExtra_get (s : State) (n : Nat) (d : Int) (f : Fld) : (addExtra s n d).get f = s.get f := rfl
theorem addExtra_comp (s : State) (n : Nat) (d : Int) : (addExtra s n d).comp = s.comp := rfl
theorem addExtra_pages (s : State) (n : Nat) (d : Int) : (addExtra s n d).store.pages = s.store.pages := rfl
theorem showEvac_comp (s : State) (n : Nat) : (showEvac s n).comp = s.comp := rfl
theorem showEvac_store (s : State) (n : Nat) : (showEvac s n).store = s.store := rfl

theorem sectorTested_moved (s : State) (n : Nat) : (sectorTested s n).comp.moved = [] := rfl

theorem sectorTested_pages (s : State) (n : Nat) : (sectorTested s n).store.pages = s.store.pages :=
  (congrArg Store.pages (showEvac_store _ n)).trans ((addExtra_pages _ n 1).trans
    (congrArg Store.pages ((setSectorState_store _ n 5).trans (enginesServe_store s _))))

theorem sectorState_sectorTested (s : State) {n : Nat} (hn : n < 4) : sectorState (sectorTested s n) n = 5 :=
  (sectorState_showEvac _ _ _).trans (sectorState_setSectorState hn (by decide) _)

/-- With a page of the index not moved, nothing ends. -/
theorem evacCheck_of_left {s : State} {n : Nat} (h : ((indexPages s n).any fun e => !s.comp.moved.contains e.1) = true) : evacCheck s n = s :=
  if_pos (Or.inr h)

theorem indexPages_of_pages {s t : State} (h : t.store.pages = s.store.pages) (n : Nat) : indexPages t n = indexPages s n := by
  rw [indexPages, indexPages, h]

theorem left_of_none_moved {s : State} {n : Nat} (hpages : indexPages s n ≠ []) (hmoved : s.comp.moved = []) :
    ((indexPages s n).any fun e => !s.comp.moved.contains e.1) = true := by
  obtain ⟨e, he⟩ := List.exists_mem_of_ne_nil _ hpages
  exact List.any_eq_true.2 ⟨e, he, by rw [hmoved]; rfl⟩

section
variable {s : State} {n : Fin 4} {t : Nat} (hstate : sectorState s n = 4)
include hstate

theorem exec_sectorSelfTestDone_failed : exec (.sectorSelfTestDone n false t) s = .next (setSectorState (s.upto t) n 3) := by
  have hgo : ¬ sectorState (s.upto t) n ≠ 4 := not_not.2 hstate
  exact congrArg Host.Outcome.next ((if_neg hgo).trans (if_pos rfl))

theorem exec_sectorSelfTestDone_passed (hsettled : memorySettled s n = true) :
    exec (.sectorSelfTestDone n true t) s = .next (evacCheck (sectorTested (s.upto t) n) n) := by
  have hgo : ¬ sectorState (s.upto t) n ≠ 4 := not_not.2 hstate
  have hsettled' : memorySettled (s.upto t) n = true := hsettled
  refine congrArg Host.Outcome.next ((if_neg hgo).trans ((if_neg (by decide)).trans ((if_neg ?_).trans rfl)))
  rw [hsettled']
  decide

end

/-! ### A page that moves (R570) -/

/-- With no entry and no transaction the directory knows no line, and nothing is recalled. -/
theorem evictRange_none {s : State} (hents : s.dir.ents = []) (htxns : s.dir.txns = []) (a n : Nat) (what : TxnFor) :
    evictRange s a n what = (true, s) := by
  unfold evictRange recallRange knownLines
  simp only [hents, htxns]
  rfl

theorem guestsIn_none {s : State} (hguests : s.cache.guests = []) (n base len : Nat) : guestsIn s n base len = [] := by
  rw [guestsIn, guestLines_none hguests]
  rfl

/-- A page that is on its way is no huge page's part, and its moved bit is set. -/
def pageLeaving (s : State) (p : Nat) : State :=
  { s with store := { s.store with huge := s.store.huge.filter fun h => h ≠ p / 512 * 4 + homeOf s p },
           comp := { s.comp with moved := setAdd p s.comp.moved } }

/-- The sector that the pages of an index go to. -/
def evacTarget (s : State) (n : Nat) : Nat := if sectorState s n = 1 then s.get F.RAS_SECTOR_TARGET else n

theorem exec_evacPageMoved {s : State} {p : Fin 67108864} {t : Nat} {e : Page} {v : State}
    (hstate : sectorState s (homeIndex p) = 1 ∨ sectorState s (homeIndex p) = 5) (hpage : s.page? p = some e) (hfirst : p.val ∉ s.comp.moved)
    (hnear : nearLeft s (homeIndex p) = false) (hents : s.dir.ents = []) (htxns : s.dir.txns = []) (hguests : s.cache.guests = [])
    (hwbs : s.cache.wbs = [])
    (hlaid : relayPage (pageLeaving (s.upto t) p) (evacTarget s (homeIndex p)) p e = some v) :
    exec (.evacPageMoved p t) s = .next (evacCheck (wake (showEvac (dropTlb v [p.val]) (homeIndex p))) (homeIndex p)) := by
  have hgo : ¬ (sectorState (s.upto t) (homeIndex p) ≠ 1 ∧ sectorState (s.upto t) (homeIndex p) ≠ 5) := by
    show ¬ (sectorState s (homeIndex p) ≠ 1 ∧ sectorState s (homeIndex p) ≠ 5)
    omega
  have hpage' : (s.upto t).page? p = some e := hpage
  have hfirst' : (s.upto t).comp.moved.contains p.val = false := by simpa using hfirst
  have hnear' : nearLeft (s.upto t) (homeIndex p) = false := hnear
  have hevict : evictRange (s.upto t) (p * 2097152) 2097152 .none = (true, s.upto t) := evictRange_none (s := s.upto t) hents htxns _ _ _
  have hguest : ∀ m, writeBacks (s.upto t) m (guestsIn (s.upto t) m (p * 2097152) 2097152) true = s.upto t := fun m => by
    rw [guestsIn_none (s := s.upto t) hguests]
    exact writeBacks_none (s := s.upto t) hwbs m
  have hback : (List.range 4).foldl (fun s m => writeBacks s m (guestsIn s m (p * 2097152) 2097152) true) (s.upto t) = s.upto t := by
    simp only [List.range_succ_eq_map, List.range_zero, List.map_nil, List.map_cons, List.foldl_cons, List.foldl_nil, hguest]
  have hnone : ((s.upto t).cache.wbs.any fun w => w.line / 32768 = p) = false := by
    show s.cache.wbs.any _ = false
    rw [hwbs]
    rfl
  show execEvacPageMoved p t s = _
  unfold execEvacPageMoved
  dsimp only
  rw [if_neg hgo, hpage']
  dsimp only
  rw [if_neg (by rw [hfirst']; decide), if_neg (by rw [hnear', Bool.and_false]; decide), hevict]
  dsimp only
  rw [hback, if_neg (by rw [hnone]; decide)]
  change Host.Outcome.next (match relayPage (pageLeaving (s.upto t) p) (evacTarget s (homeIndex p)) p e with | none => _ | some w => _) = _
  rw [hlaid]

/-- Settles O32: CMP_SECTOR by its checks in order, a power-down, a self-test, and a page that moves where nothing holds its lines. -/
theorem sectorsEvacuateAndReturn : Obligations.SectorsEvacuateAndReturn := by
  unfold Obligations.SectorsEvacuateAndReturn
  refine ⟨fun s d j h => ⟨?_, ?_, ?_, ?_⟩, fun s n t => ⟨?_, ?_, ?_, ?_⟩, ?_⟩
  · exact fun hreturn hoff halone => cmpSector_returns h hreturn hoff halone
  · exact fun hreturn hnot => cmpSector_ends h (by decide) (exec_cmpSector_notOff h hreturn hnot)
  · exact fun c hc haway hno => cmpSector_ends h hc (exec_cmpSector_refused h haway hno)
  · exact fun haway hmay => exec_cmpSector_starts h haway hmay
  · intro hstate hidle hguests hwbs
    refine ⟨_, exec_sectorPowerDown_off hstate hidle hguests hwbs, sectorState_setSectorState n.isLt (by decide) _, fun g hg => ?_, ?_⟩
    · rw [setSectorState_get (f := F.TP_T_STATUS_STATE g) (tileState_not_sector g) (tileState_not_event g)]
      exact tilesOff_get_state _ hg
    · rw [setSectorState_store, tilesOff_store]
      rfl
  · exact exec_sectorPowerDown_else
  · exact fun hstate => ⟨_, exec_sectorSelfTestDone_failed hstate, sectorState_setSectorState n.isLt (by decide) _, setSectorState_store _ _ _⟩
  · intro hstate hsettled hpages
    have hleft : evacCheck (sectorTested (s.upto t) n) n = sectorTested (s.upto t) n :=
      evacCheck_of_left (left_of_none_moved (by rwa [indexPages_of_pages (sectorTested_pages _ _)]) (sectorTested_moved _ _))
    exact ⟨_, (exec_sectorSelfTestDone_passed hstate hsettled).trans (congrArg Host.Outcome.next hleft), sectorState_sectorTested _ n.isLt,
      sectorTested_moved _ _, sectorTested_pages _ _⟩
  · exact fun s p t e v hstate hpage hfirst hnear hents htxns hguests hwbs hlaid =>
      exec_evacPageMoved hstate hpage hfirst hnear hents htxns hguests hwbs hlaid

end Sys2Proof.Machine
end

section
/-! SUPPORT. The pool window (spec/18, R694 to R696): an access of one piece, what it reads or writes in a page of the near tier that nothing spoils,
and what it counts while the window is off. -/

namespace Sys2Proof.Machine

open Sys2Proof

/-! ### Bytes of near lines (R157) -/

theorem byte_putBytes (s : State) (a : Nat) (l : List Byte) (b : Nat) :
    (s.putBytes a l).byte b = if a ≤ b ∧ b < a + l.length then l.getD (b - a) 0 else s.byte b := by
  split
  case isTrue hin =>
    obtain ⟨i, rfl⟩ := Nat.exists_eq_add_of_le hin.1
    have hi : i < l.length := by omega
    rw [State.byte_putBytes_in s a l i hi, Nat.add_sub_cancel_left, List.getD_eq_getElem _ _ hi]
  case isFalse hout => exact State.byte_putBytes_out s a l b (by omega)

theorem bytes_of_mem {s t : State} (h : t.store.mem = s.store.mem) (a n : Nat) : t.bytes a n = s.bytes a n := by
  induction n generalizing a with
  | zero => rfl
  | succ n ih => rw [State.bytes, State.bytes, ih, State.byte, State.byte, h]

/-- Bytes read one by one. -/
theorem bytes_eq_of_byte {s : State} {a : Nat} {l : List Byte} (h : ∀ i < l.length, s.byte (a + i) = l.getD i 0) : s.bytes a l.length = l := by
  induction l generalizing a with
  | nil => rfl
  | cons b t ih =>
    have hhead : s.byte a = b := h 0 (Nat.zero_lt_succ _)
    have htail : s.bytes (a + 1) t.length = t := ih fun i hi => by
      rw [Nat.add_assoc, Nat.add_comm 1 i]
      exact h (i + 1) (Nat.succ_lt_succ hi)
    rw [List.length_cons, State.bytes, hhead, htail]

/-- A state without the bytes of the pool, the marks of poisoned lines and the lost-line table. -/
def besideBytes (s : State) : State := { s with store := { s.store with mem := [], poison := [] }, dir := { s.dir with lost := [] } }

theorem besideBytes_proj {s t : State} (h : besideBytes t = besideBytes s) {α : Type} (part : State → α)
    (hpart : ∀ u, part (besideBytes u) = part u) : part t = part s := by
  rw [← hpart t, h, hpart s]

theorem putBytes_beside (s : State) (a : Nat) (l : List Byte) : besideBytes (s.putBytes a l) = besideBytes s := by
  induction l generalizing s a with
  | nil => rfl
  | cons b t ih => exact ih (s.putByte a b) (a + 1)

/-- A line lies in the near tier. -/
def lineNear (s : State) (line : Nat) : Prop := ∃ e : Page, s.page? (line / 32768) = some e ∧ granuleNear e (line / 1024 % 32) = true

theorem lineNear_of_beside {s t : State} (h : besideBytes t = besideBytes s) {line : Nat} (hnear : lineNear s line) : lineNear t line := by
  obtain ⟨e, he, hg⟩ := hnear
  exact ⟨e, (besideBytes_proj h (fun u => u.page? (line / 32768)) fun _ => rfl).trans he, hg⟩

/-- A line that is whole clears its marks. -/
def marksCleared (s : State) (line : Nat) : State :=
  { s with store := { s.store with poison := setDel line s.store.poison }, dir := { s.dir with lost := setDel line s.dir.lost } }

theorem writeLine_near {s : State} {line : Nat} (h : lineNear s line) (a : Nat) (data : List Byte) :
    writeLine s line a data = if a = line * 64 ∧ data.length = 64 then marksCleared (s.putBytes a data) line else s.putBytes a data := by
  obtain ⟨e, he, hg⟩ := h
  unfold writeLine
  dsimp only
  rw [he]
  simp only [hg, Bool.not_true, Bool.false_and, Bool.false_eq_true, if_false, marksCleared]

theorem writeLine_near_beside {s : State} {line : Nat} (h : lineNear s line) (a : Nat) (data : List Byte) :
    besideBytes (writeLine s line a data) = besideBytes s := by
  rw [writeLine_near h]
  split
  · exact putBytes_beside s a data
  · exact putBytes_beside s a data

theorem writeLine_near_byte {s : State} {line : Nat} (h : lineNear s line) (a : Nat) (data : List Byte) (b : Nat) :
    (writeLine s line a data).byte b = (s.putBytes a data).byte b := by
  rw [writeLine_near h]
  split <;> rfl

/-- The part of a range's write that lies in one line. -/
def rangePart (a : Nat) (data : List Byte) (s : State) (l : Nat) : State :=
  writeLine s l (max a (l * 64)) ((data.drop (max a (l * 64) - a)).take (min (a + data.length) (l * 64 + 64) - max a (l * 64)))

theorem writeRange_eq (s : State) (a : Nat) (data : List Byte) : writeRange s a data = (linesOf a data.length).foldl (rangePart a data) s := rfl

section
variable {s : State} {l : Nat} (h : lineNear s l) (a : Nat) (data : List Byte)
include h

theorem rangePart_beside : besideBytes (rangePart a data s l) = besideBytes s := writeLine_near_beside h _ _

/-- A byte of the line takes what the range holds for it. -/
theorem rangePart_byte (b : Nat) : (rangePart a data s l).byte b =
    if b / 64 = l ∧ a ≤ b ∧ b < a + data.length then data.getD (b - a) 0 else s.byte b := by
  rw [rangePart, writeLine_near_byte h, byte_putBytes, List.length_take, List.length_drop]
  by_cases hin : b / 64 = l ∧ a ≤ b ∧ b < a + data.length
  · rw [if_pos hin, if_pos (by omega), List.getD_eq_getElem?_getD, List.getElem?_take_of_lt (by omega), List.getElem?_drop,
      ← List.getD_eq_getElem?_getD]
    congr 1
    omega
  · rw [if_neg hin, if_neg (by omega)]

end

/-- Parts of a range written to near lines. -/
theorem rangeParts_bytes (a : Nat) (data : List Byte) : ∀ (ls : List Nat) (s : State), (∀ l ∈ ls, lineNear s l) →
    besideBytes (ls.foldl (rangePart a data) s) = besideBytes s ∧
    ∀ b, (ls.foldl (rangePart a data) s).byte b = if b / 64 ∈ ls ∧ a ≤ b ∧ b < a + data.length then data.getD (b - a) 0 else s.byte b := by
  intro ls
  induction ls with
  | nil => exact fun s _ => ⟨rfl, fun b => by simp only [List.foldl_nil, List.not_mem_nil, false_and, if_false]⟩
  | cons l ls ih =>
    intro s h
    have hl : lineNear s l := h l (List.mem_cons_self ..)
    have hbeside := rangePart_beside hl a data
    obtain ⟨hrest, hbytes⟩ := ih (rangePart a data s l) fun x hx => lineNear_of_beside hbeside (h x (List.mem_cons_of_mem _ hx))
    refine ⟨hrest.trans hbeside, fun b => ?_⟩
    rw [List.foldl_cons, hbytes b, rangePart_byte hl]
    by_cases hrange : a ≤ b ∧ b < a + data.length
    · simp only [List.mem_cons, hrange, and_true]
      by_cases hmem : b / 64 ∈ ls
      · rw [if_pos hmem, if_pos (Or.inr hmem)]
      · simp only [hmem, or_false, if_false]
    · simp only [hrange, and_false, if_false]

theorem mem_linesOf {a n l : Nat} (hn : 0 < n) : l ∈ linesOf a n ↔ a / 64 ≤ l ∧ l ≤ (a + n - 1) / 64 := by
  rw [linesOf, if_neg (Nat.pos_iff_ne_zero.1 hn), mem_span]
  have hle : a / 64 ≤ (a + n - 1) / 64 := Nat.div_le_div_right (by omega)
  omega

/-- A range of near lines reads as it was written, and every other byte as before. -/
theorem writeRange_near {s : State} {a : Nat} {data : List Byte} (h : ∀ l ∈ linesOf a data.length, lineNear s l) :
    besideBytes (writeRange s a data) = besideBytes s ∧ (writeRange s a data).bytes a data.length = data ∧
    ∀ b, (b < a ∨ a + data.length ≤ b) → (writeRange s a data).byte b = s.byte b := by
  obtain ⟨hbeside, hbytes⟩ := rangeParts_bytes a data _ s h
  rw [writeRange_eq]
  refine ⟨hbeside, bytes_eq_of_byte fun i hi => ?_, fun b hb => ?_⟩
  · rw [hbytes, if_pos ⟨(mem_linesOf (by omega)).2 ⟨by omega, by omega⟩, by omega, by omega⟩, Nat.add_sub_cancel_left]
  · rw [hbytes, if_neg (by omega)]

/-! ### One piece (R694, R695) -/

/-- An access that crosses no boundary of 256 bytes is one piece. -/
theorem cutPieces_one {a n : Nat} (hn : 0 < n) (hfit : a % 256 + n ≤ 256) : cutPieces 17 a n = [(a, n)] := by
  have hmin : min n (256 - a % 256) = n := by omega
  rw [cutPieces, if_neg (by omega), hmin]
  dsimp only
  rw [Nat.sub_self]
  rfl

/-- An access of the window at `a` may reach the page `e` (R695). -/
structure WindowAdmits (s : State) (a : Nat) (e : Page) : Prop where
  en : s.flag F.MGT_POOLWIN_EN = true
  ctx : s.get F.MGT_POOLWIN_CTX ≠ 0
  valid : ctxValid s (s.get F.MGT_POOLWIN_CTX) = true
  outside : inWindow a = false
  granuleOutside : inWindow (a / 65536 * 65536) = false
  page : s.page? (a / 2097152) = some e
  shared : domConf s e.domain = false
  own : e.domain = ctxDomain s (s.get F.MGT_POOLWIN_CTX)
  whole : e.split = none
  near : ∃ fr, e.loc = .near fr

/-- An access that arrives finds the window as it is. -/
theorem WindowAdmits.arrived {s : State} {a : Nat} {e : Page} (h : WindowAdmits s a e) (t : Nat) : WindowAdmits (answeredState (s.upto t)) a e :=
  ⟨h.en, h.ctx, h.valid, h.outside, h.granuleOutside, h.page, h.shared, h.own, h.whole, h.near⟩

theorem granuleNear_of_whole {e : Page} (hwhole : e.split = none) (hnear : ∃ fr, e.loc = .near fr) (g : Nat) : granuleNear e g = true := by
  obtain ⟨fr, hfr⟩ := hnear
  rw [granuleNear, hwhole]
  dsimp only
  rw [hfr]

/-- Every line of a range within one page lies in the page. -/
theorem page_of_line {a n l : Nat} (hn : 0 < n) (hpage : a / 2097152 = (a + n - 1) / 2097152) (hl : l ∈ linesOf a n) : l / 32768 = a / 2097152 := by
  have := (mem_linesOf hn).1 hl
  omega

section
variable {s : State} {a n : Nat} {e : Page} (h : WindowAdmits s a e)
include h

theorem locate_of_admits (k : AccKind) : locate s (a / 65536) k = .ok := by
  obtain ⟨fr, hfr⟩ := h.near
  have hpage : s.page? (a / 65536 / 32) = some e := by
    rw [Nat.div_div_eq_div_mul]
    exact h.page
  unfold locate
  rw [if_neg (by rw [h.granuleOutside]; decide), hpage]
  dsimp only
  rw [h.whole]
  dsimp only
  rw [hfr]

theorem lineNear_of_admits (hn : 0 < n) (hpage : a / 2097152 = (a + n - 1) / 2097152) : ∀ l ∈ linesOf a n, lineNear s l := fun l hl =>
  ⟨e, by rw [page_of_line hn hpage hl]; exact h.page, granuleNear_of_whole h.whole h.near _⟩

theorem touch_of_admits : touch s (a / 65536) = s := by
  have hpage : s.page? (a / 65536 / 32) = some e := by
    rw [Nat.div_div_eq_div_mul]
    exact h.page
  unfold touch
  dsimp only
  rw [hpage]
  dsimp only
  rw [if_pos (by rw [granuleNear_of_whole h.whole h.near]; rfl)]

variable (hsound : NearAndSound s a n)
include hsound

theorem pieceSpoiled_of_sound : pieceSpoiled s (a, n) = false := by
  obtain ⟨-, hpage, hn, hlines⟩ := hsound
  refine List.any_eq_false.2 fun l hl => ?_
  obtain ⟨hlost, hpoison⟩ := hlines l hl
  obtain ⟨x, hx, hnear⟩ := lineNear_of_admits h hn hpage l hl
  rw [linePoisoned, hlost, hpoison, hx]
  simp only [hnear, Bool.not_true, Bool.false_and, Bool.or_self, Bool.false_eq_true, not_false_iff]

/-- The piece is served. -/
theorem pieceCode_of_admits (write late : Bool) : pieceCode s write late (a, n) = .ok := by
  have hctx : (s.get F.MGT_POOLWIN_CTX == 0) = false := beq_false_of_ne h.ctx
  have hown : (e.domain != ctxDomain s (s.get F.MGT_POOLWIN_CTX)) = false := by rw [← h.own, bne_self_eq_false]
  unfold pieceCode
  dsimp only
  rw [if_neg (by rw [h.en, hctx, h.valid]; decide), if_neg (by rw [h.outside]; decide), h.page]
  dsimp only
  rw [if_neg (by rw [h.shared, hown]; decide), locate_of_admits h]
  dsimp only
  rw [if_neg (by rw [pieceSpoiled_of_sound h hsound]; decide)]

end

/-! ### The access (R694 to R696) -/

/-- The state in which an access of the window works: it has arrived, and waits for nothing. -/
def windowState (s : State) (t : Nat) : State :=
  { answeredState (s.upto t) with mgmt := { (answeredState (s.upto t)).mgmt with winAt := none } }

theorem WindowAdmits.works {s : State} {a : Nat} {e : Page} (h : WindowAdmits s a e) (t : Nat) : WindowAdmits (windowState s t) a e :=
  ⟨h.en, h.ctx, h.valid, h.outside, h.granuleOutside, h.page, h.shared, h.own, h.whole, h.near⟩

/-- Has an access that waits done so for longer than R59 lets it? -/
def windowLate (s : State) (t : Nat) : Bool := match s.mgmt.winAt with | some x => decide (x + 2000 < max s.now t) | none => false

theorem recallRange_none {s : State} (hents : s.dir.ents = []) (htxns : s.dir.txns = []) (a n : Nat) (write : Bool) (what : TxnFor) :
    recallRange s a n write what = (true, s) := by
  unfold recallRange knownLines
  simp only [hents, htxns]
  rfl

/-- A piece that is served where no partner holds a line waits for nothing. -/
theorem windowWaits_served {s : State} {a n : Nat} {e : Page} (h : WindowAdmits s a e) (hsound : NearAndSound s a n) (hents : s.dir.ents = [])
    (htxns : s.dir.txns = []) (write late : Bool) : windowWaits s write late [(a, n)] = (false, s) := by
  have hok : [(a, n)].filter (fun p => pieceCode s write late p = .ok) = [(a, n)] := by
    rw [List.filter_singleton, pieceCode_of_admits h hsound]
    rfl
  unfold windowWaits
  dsimp only
  rw [hok]
  simp only [List.any_cons, List.any_nil, locate_of_admits h, List.foldl_cons, List.foldl_nil, recallRange_none hents htxns]
  rfl

/-- A piece that is refused waits for nothing. -/
theorem windowWaits_refused {s : State} {p : Nat × Nat} {write late : Bool} (h : pieceCode s write late p ≠ .ok) :
    windowWaits s write late [p] = (false, s) := by
  have hnone : [p].filter (fun p => pieceCode s write late p = .ok) = [] := by
    rw [List.filter_singleton, decide_eq_false h]
    rfl
  unfold windowWaits
  dsimp only
  rw [hnone]
  rfl

/-- What a read of the pieces `ps` gives once it need not wait. -/
def windowRead (late : Bool) (ps : List (Nat × Nat)) (s : State) : State :=
  if ps.any fun p => pieceCode s false late p = .poison then
    (ps.foldl (fun s p => (readPiece s late p).2) s).emit (.mgmt "POISONED_COMPLETION" (codeNum .poison) [])
  else
    let got := ps.foldl (fun a p => (a.1 ++ (readPiece a.2 late p).1, (readPiece a.2 late p).2)) (([] : List Byte), s)
    got.2.emit (.mmio (leVal got.1))

/-- What a write of the pieces `ps` from `base` leaves once it need not wait. -/
def windowWrite (late : Bool) (base : Nat) (ps : List (Nat × Nat)) (d : List Byte) (s : State) : State :=
  wake (ps.foldl (fun s p => writePiece s late p.1 ((d.drop (p.1 - base)).take p.2)) s)

theorem windowRead_one {s : State} {late : Bool} {p : Nat × Nat} (h : pieceCode s false late p ≠ .poison) :
    windowRead late [p] s = (readPiece s late p).2.emit (.mmio (leVal (readPiece s late p).1)) := by
  have hclean : ([p].any fun p => pieceCode s false late p = .poison) = false := by
    simpa only [List.any_cons, List.any_nil, Bool.or_false, decide_eq_false_iff_not] using h
  unfold windowRead
  rw [if_neg (by rw [hclean]; decide)]
  rfl

theorem windowWrite_one (s : State) (late : Bool) (a : Nat) (d : List Byte) :
    windowWrite late a [(a, d.length)] d s = wake (writePiece s late a d) := by
  unfold windowWrite
  simp only [List.foldl_cons, List.foldl_nil, Nat.sub_self, List.drop_zero, List.take_length]

section
variable {s : State} {off : BitVec 32} {t a : Nat} (ha : s.get F.MGT_POOLWIN_BASE * 2 ^ 32 + off.toNat = a) (hawake : awake s = true)
  (hoff : s.clk.off = false)
include ha hawake hoff

/-- A read that waits for nothing is done. -/
theorem exec_poolWindowAccess_read {n : Fin 4097} (hn : 0 < n.val) (hfit : a % 256 + n.val ≤ 256)
    (hwaits : ∀ late, windowWaits (answeredState (s.upto t)) false late [(a, n.val)] = (false, answeredState (s.upto t))) :
    exec (.poolWindowAccess off (.read n) t) s = .next (windowRead (windowLate s t) [(a, n.val)] (windowState s t)) := by
  have hdeep : s.get F.PWR_STATUS_STATE ≠ 2 := by
    simp only [awake, Bool.and_eq_true, bne_iff_ne] at hawake
    exact hawake.2
  have htouch : mgmtTouch (s.upto t) = answeredState (s.upto t) := mgmtTouch_of_not_deep (s := s.upto t) hoff hdeep
  have hup : awake (answeredState (s.upto t)) = true := hawake
  have hbase : (answeredState (s.upto t)).get F.MGT_POOLWIN_BASE * 2 ^ 32 + off.toNat = a := ha
  show execPoolWindowAccess off (.read n) t s = _
  unfold execPoolWindowAccess
  dsimp only
  rw [htouch, hbase, cutPieces_one hn hfit, if_neg (by rw [hup]; decide), hwaits]
  rfl

/-- A write that waits for nothing is done. -/
theorem exec_poolWindowAccess_write {d : List Byte} (hn : 0 < d.length) (hfit : a % 256 + d.length ≤ 256)
    (hwaits : ∀ late, windowWaits (answeredState (s.upto t)) true late [(a, d.length)] = (false, answeredState (s.upto t))) :
    exec (.poolWindowAccess off (.write d) t) s = .next (windowWrite (windowLate s t) a [(a, d.length)] d (windowState s t)) := by
  have hdeep : s.get F.PWR_STATUS_STATE ≠ 2 := by
    simp only [awake, Bool.and_eq_true, bne_iff_ne] at hawake
    exact hawake.2
  have htouch : mgmtTouch (s.upto t) = answeredState (s.upto t) := mgmtTouch_of_not_deep (s := s.upto t) hoff hdeep
  have hup : awake (answeredState (s.upto t)) = true := hawake
  have hbase : (answeredState (s.upto t)).get F.MGT_POOLWIN_BASE * 2 ^ 32 + off.toNat = a := ha
  show execPoolWindowAccess off (.write d) t s = _
  unfold execPoolWindowAccess
  dsimp only
  rw [htouch, hbase, cutPieces_one hn hfit, if_neg (by rw [hup]; decide), hwaits]
  rfl

end

/-! ### What a piece that is served does -/

theorem tabGet?_tabMod_ne {α : Type} {k c : Nat} (hne : c ≠ k) (f : α → α) (t : Tab α) : tabGet? c (tabMod k f t) = tabGet? c t := by
  induction t with
  | nil => rfl
  | cons e t ih =>
    obtain ⟨i, w⟩ := e
    by_cases hk : i = k
    · have hc : i ≠ c := fun h => hne (h ▸ hk)
      simpa [tabMod, tabGet?, hk, hne.symm] using ih
    · simp only [tabMod, List.map_cons, if_neg hk, tabGet?] at ih ⊢
      rw [ih]

/-- A state without its pages and the counters of its domains. -/
def besideCounts (s : State) : State := { s with store := { s.store with pages := [] }, mgmt := { s.mgmt with telem := [] } }

theorem besideCounts_proj {s t : State} (h : besideCounts t = besideCounts s) {α : Type} (part : State → α)
    (hpart : ∀ u, part (besideCounts u) = part u) : part t = part s := by
  rw [← hpart t, h, hpart s]

theorem countLines_beside (s : State) (ls : List Nat) : besideCounts (countLines s ls) = besideCounts s :=
  List.foldlRecOn (motive := fun u : State => besideCounts u = besideCounts s) ls _ rfl fun _ h _ _ => h

/-- A page with one access more counted. -/
def Page.counted (e : Page) : Page := { e with count := min (e.count + 1) 65535 }

/-- An access counter raised moves no line. -/
theorem lineNear_counted {s : State} {line : Nat} (h : lineNear s line) (k : Nat) :
    lineNear { s with store := { s.store with pages := tabMod k Page.counted s.store.pages } } line := by
  obtain ⟨e, he, hg⟩ := h
  obtain rfl | hne := eq_or_ne (line / 32768) k
  · exact ⟨e.counted, tabGet?_tabMod_same Page.counted he, hg⟩
  · exact ⟨e, (tabGet?_tabMod_ne hne Page.counted _).trans he, hg⟩

theorem lineNear_countLines {s : State} {line : Nat} (h : lineNear s line) (ls : List Nat) : lineNear (countLines s ls) line :=
  List.foldlRecOn (motive := fun u : State => lineNear u line) ls _ h fun _ hu l _ => lineNear_counted hu (l / 32768)

theorem telem_beside (s : State) (dom : Nat) (f : Telem → Telem) : besideCounts (telem s dom f) = besideCounts s := rfl

/-- The state in which the lines of a piece and its bytes are counted. -/
def pieceCounted (s : State) (a n : Nat) (f : Telem → Telem) : State :=
  telem (countLines s (linesOf a n)) (ctxDomain s (s.get F.MGT_POOLWIN_CTX)) f

theorem pieceCounted_beside (s : State) (a n : Nat) (f : Telem → Telem) : besideCounts (pieceCounted s a n f) = besideCounts s :=
  (telem_beside _ _ _).trans (countLines_beside s _)

/-- A state without its open reads. -/
theorem closeReads_parts (s : State) (a n : Nat) : (closeReads s a n).store = s.store ∧ (closeReads s a n).dir = s.dir ∧
    (closeReads s a n).fab.flights = s.fab.flights ∧ (closeReads s a n).cache = s.cache ∧ (closeReads s a n).comp = s.comp ∧
    (closeReads s a n).out = s.out := by
  unfold closeReads
  dsimp only
  split <;> exact ⟨rfl, rfl, rfl, rfl, rfl, rfl⟩

section
variable {s : State} {a : Nat} {e : Page} (h : WindowAdmits s a e)
include h

theorem readPiece_served {n : Nat} (hsound : NearAndSound s a n) (late : Bool) :
    readPiece s late (a, n) = (s.bytes a n, pieceCounted s a n fun x => { x with rd := x.rd + n }) := by
  have hmem : (pieceCounted s a n fun x => { x with rd := x.rd + n }).store.mem = s.store.mem :=
    besideCounts_proj (pieceCounted_beside _ _ _ _) (fun u => u.store.mem) fun _ => rfl
  unfold readPiece
  rw [pieceCode_of_admits h hsound]
  dsimp only
  rw [touch_of_admits h]
  exact Prod.ext (bytes_of_mem hmem a n) rfl

theorem writePiece_served {data : List Byte} (hsound : NearAndSound s a data.length) (late : Bool) :
    writePiece s late a data = writeRange (closeReads (pieceCounted s a data.length fun x => { x with wr := x.wr + data.length }) a data.length)
      a data := by
  unfold writePiece
  rw [pieceCode_of_admits h hsound]
  dsimp only
  rw [touch_of_admits h]
  rfl

/-- A write that is served leaves its bytes, the others, and what keeps the device quiet. -/
theorem writePiece_leaves (hquiet : Quiet s) {data : List Byte} (hsound : NearAndSound s a data.length) (late : Bool) :
    let u := writePiece s late a data
    Quiet u ∧ u.out = s.out ∧ u.bytes a data.length = data ∧ ∀ b, (b < a ∨ a + data.length ≤ b) → u.byte b = s.byte b := by
  rw [writePiece_served h hsound]
  generalize hc : (pieceCounted s a data.length fun x => { x with wr := x.wr + data.length }) = c
  have hcounted : besideCounts c = besideCounts s := hc ▸ pieceCounted_beside _ _ _ _
  obtain ⟨hstore, hdir, hflights, hcache, hcomp, hout⟩ := closeReads_parts c a data.length
  have hnear : ∀ l ∈ linesOf a data.length, lineNear (closeReads c a data.length) l := fun l hl => by
    obtain ⟨x, hx, hg⟩ : lineNear c l := hc ▸ lineNear_countLines (lineNear_of_admits h hsound.2.2.1 hsound.2.1 l hl) _
    exact ⟨x, by rw [State.page?, hstore]; exact hx, hg⟩
  obtain ⟨hbeside, hbytes, hothers⟩ := writeRange_near hnear
  generalize hr : writeRange (closeReads c a data.length) a data = r at hbeside hbytes hothers
  obtain ⟨hq1, hq2, hq3, hq4, hq5, hq6⟩ := hquiet
  have hpart : ∀ {α : Type} (part : State → α), (∀ u, part (besideCounts u) = part u) → part c = part s := besideCounts_proj hcounted
  refine ⟨⟨?_, ?_, ?_, ?_, ?_, ?_⟩, ?_, hbytes, fun b hb => (hothers b hb).trans ?_⟩
  · exact ((besideBytes_proj hbeside (fun u => u.fab.flights) fun _ => rfl).trans hflights).trans
      ((hpart (fun u => u.fab.flights) fun _ => rfl).trans hq1)
  · exact ((besideBytes_proj hbeside (fun u => u.cache.wbs) fun _ => rfl).trans (congrArg Cache.wbs hcache)).trans
      ((hpart (fun u => u.cache.wbs) fun _ => rfl).trans hq2)
  · exact ((besideBytes_proj hbeside (fun u => u.comp.lapsed) fun _ => rfl).trans (congrArg Comp.lapsed hcomp)).trans
      ((hpart (fun u => u.comp.lapsed) fun _ => rfl).trans hq3)
  · exact ((besideBytes_proj hbeside (fun u => u.comp.fenced) fun _ => rfl).trans (congrArg Comp.fenced hcomp)).trans
      ((hpart (fun u => u.comp.fenced) fun _ => rfl).trans hq4)
  · exact ((besideBytes_proj hbeside (fun u => u.dir.ents) fun _ => rfl).trans (congrArg Dir.ents hdir)).trans
      ((hpart (fun u => u.dir.ents) fun _ => rfl).trans hq5)
  · exact ((besideBytes_proj hbeside (fun u => u.dir.txns) fun _ => rfl).trans (congrArg Dir.txns hdir)).trans
      ((hpart (fun u => u.dir.txns) fun _ => rfl).trans hq6)
  · exact ((besideBytes_proj hbeside State.out fun _ => rfl).trans hout).trans (hpart State.out fun _ => rfl)
  · rw [State.byte, hstore]
    exact congrArg (tabGet 0 b) (hpart (fun u => u.store.mem) fun _ => rfl)

end

/-! ### The window while it is off (R695) -/

theorem pieceCode_off {s : State} (h : s.flag F.MGT_POOLWIN_EN = false) (write late : Bool) (p : Nat × Nat) : pieceCode s write late p = .denied := by
  unfold pieceCode
  dsimp only
  rw [if_pos (by rw [h]; rfl)]

/-- What counting a refusal leaves. -/
theorem countPiece_counts (s : State) (a : Nat) :
    let u := countPiece s a .denied
    u.get F.MGT_POOLWIN_ERR_LAST_CODE = 8 ∧ u.get F.MGT_POOLWIN_ERR_COUNT = min (s.get F.MGT_POOLWIN_ERR_COUNT + 1) (2 ^ 32 - 1) ∧
    u.store = s.store ∧ u.fab = s.fab ∧ u.cache = s.cache ∧ u.comp.lapsed = s.comp.lapsed ∧ u.comp.fenced = s.comp.fenced := by
  let v := (((s.set F.MGT_POOLWIN_ERR_LAST_CODE 8).bumpSat F.MGT_POOLWIN_ERR_COUNT).set F.MGT_POOLWIN_ADDR_POOL_ADDR a).setFlag
    F.MGT_POOLWIN_ADDR_VALID true
  have hv : OnlyEvents v (countPiece s a .denied) := by
    unfold countPiece
    dsimp only
    split
    · exact OnlyEvents.refl v
    · exact OnlyEvents.raiseIrq v 7
  refine ⟨(hv.get _ (by decide)).trans ?_, (hv.get _ (by decide)).trans ?_, hv.store, hv.fab, hv.cache, hv.compPart Comp.lapsed fun _ => rfl,
    hv.compPart Comp.fenced fun _ => rfl⟩
  · rw [State.get_setFlag_ne _ _ (by decide), State.get_set_ne _ _ (by decide), State.get_bumpSat_ne _ _ (by decide), State.get_set_same]
    rfl
  · rw [State.get_setFlag_ne _ _ (by decide), State.get_set_ne _ _ (by decide), State.get_bumpSat_same, State.get_set_ne _ _ (by decide)]
    rfl

/-- Nothing wakes where no request is in flight, no write-back open and no partner barred. -/
theorem wake_atRest {s : State} (hflights : s.fab.flights = []) (hwbs : s.cache.wbs = []) (hlapsed : s.comp.lapsed = []) (hfenced : s.comp.fenced = []) :
    wake s = s := by
  have hchase : chaseBarred s = s := by
    rw [chaseBarred, hlapsed, hfenced]
    rfl
  have hdrain : drainBacks s = s := by
    rw [drainBacks, hwbs]
    rfl
  simp only [wake, hchase, hdrain, hflights, List.filter_nil, sortBy, List.foldr_nil, List.foldl_nil]

/-- Bytes that are all ones. -/
theorem leVal_ones (n : Nat) : leVal (List.replicate n (255 : Byte)) = 2 ^ (8 * n) - 1 := by
  induction n with
  | zero => rfl
  | succ n ih =>
    have hpos : 0 < 2 ^ (8 * n) := Nat.two_pow_pos _
    have hsucc : 2 ^ (8 * (n + 1)) = 256 * 2 ^ (8 * n) := by
      rw [Nat.mul_succ, Nat.pow_add, Nat.mul_comm]
    have hbyte : (255 : Byte).toNat = 255 := rfl
    rw [List.replicate_succ, leVal, ih, hsucc, hbyte]
    omega

theorem readPiece_off {s : State} (h : s.flag F.MGT_POOLWIN_EN = false) (late : Bool) (a n : Nat) :
    readPiece s late (a, n) = (List.replicate n 255, countPiece s a .denied) := by
  have hones : pieceZeros s (a, n) = false := by
    rw [pieceZeros, h]
    rfl
  unfold readPiece
  rw [pieceCode_off h]
  dsimp only
  rw [hones]
  rfl

theorem writePiece_off {s : State} (h : s.flag F.MGT_POOLWIN_EN = false) (late : Bool) (a : Nat) (data : List Byte) :
    writePiece s late a data = countPiece s a .denied := by
  unfold writePiece
  rw [pieceCode_off h]

/-- A page of the near tier that nothing spoils, reached through a window that admits it. -/
theorem WindowAdmits.of_sound {s : State} {a n : Nat} {e : Page} (hen : s.flag F.MGT_POOLWIN_EN = true) (hctx : s.get F.MGT_POOLWIN_CTX ≠ 0)
    (hvalid : ctxValid s (s.get F.MGT_POOLWIN_CTX) = true) (houtside : inWindow a = false) (hgranule : inWindow (a / 65536 * 65536) = false)
    (hpage : s.page? (a / 2097152) = some e) (hshared : domConf s e.domain = false) (hown : e.domain = ctxDomain s (s.get F.MGT_POOLWIN_CTX))
    (hsound : NearAndSound s a n) : WindowAdmits s a e := by
  obtain ⟨⟨x, hx, hwhole, hnear⟩, -⟩ := hsound
  obtain rfl : e = x := Option.some.inj (hpage.symm.trans hx)
  exact ⟨hen, hctx, hvalid, houtside, hgranule, hpage, hshared, hown, hwhole, hnear⟩

/-- Settles O37: an access of one piece, in a page of the near tier that nothing spoils, and while the window is off. -/
theorem poolWindowReadsAndWrites : Obligations.PoolWindowReadsAndWrites := by
  intro s off t c a hawake hoff
  refine ⟨fun e hquiet hen hctx hvalid houtside hgranule hpage hshared hown => ⟨fun n hn hfit hsound => ?_, fun d hd hfit hsound => ?_⟩,
    fun hen hflights hwbs hlapsed hfenced => ⟨fun n hn hfit => ?_, fun d hd hfit => ?_⟩⟩
  · have hadmits := WindowAdmits.of_sound hen hctx hvalid houtside hgranule hpage hshared hown hsound
    obtain ⟨-, -, -, -, hents, htxns⟩ := hquiet
    have hexec := exec_poolWindowAccess_read (t := t) rfl hawake hoff hn hfit fun late =>
      windowWaits_served (hadmits.arrived t) hsound hents htxns false late
    rw [windowRead_one (by rw [pieceCode_of_admits (hadmits.works t) hsound]; decide), readPiece_served (hadmits.works t) hsound] at hexec
    have hcounted := pieceCounted_beside (windowState s t) a n fun x => { x with rd := x.rd + n }
    refine ⟨_, hexec, ?_, ?_⟩
    · have hout := besideCounts_proj hcounted State.out fun _ => rfl
      have hbytes : (windowState s t).bytes a n = s.bytes a n := bytes_of_mem (s := s) (t := windowState s t) rfl a n
      rw [State.emit_out, hout, hbytes]
      rfl
    · exact besideCounts_proj hcounted (fun u => u.store.mem) fun _ => rfl
  · have hadmits := WindowAdmits.of_sound hen hctx hvalid houtside hgranule hpage hshared hown hsound
    obtain ⟨-, -, -, -, hents, htxns⟩ := id hquiet
    have hexec := exec_poolWindowAccess_write (t := t) rfl hawake hoff (List.length_pos_iff.2 hd) hfit fun late =>
      windowWaits_served (hadmits.arrived t) hsound hents htxns true late
    obtain ⟨hstill, hout, hbytes, hothers⟩ := writePiece_leaves (hadmits.works t) hquiet hsound (windowLate s t)
    rw [windowWrite_one, wake_quiet hstill] at hexec
    exact ⟨_, hexec, hbytes, hothers, hout⟩
  · have hexec := exec_poolWindowAccess_read (t := t) rfl hawake hoff hn hfit fun late =>
      windowWaits_refused (by rw [pieceCode_off (s := answeredState (s.upto t)) hen]; decide)
    have hoffWin : (windowState s t).flag F.MGT_POOLWIN_EN = false := hen
    rw [windowRead_one (by rw [pieceCode_off hoffWin]; decide), readPiece_off hoffWin, leVal_ones] at hexec
    obtain ⟨hlast, hcount, hstore, -⟩ := countPiece_counts (windowState s t) a
    refine ⟨_, hexec, ?_, (State.emit_get _ _ _).trans hlast, (State.emit_get _ _ _).trans hcount, hstore⟩
    rw [State.emit_out]
    exact List.mem_append_right _ (List.mem_singleton_self _)
  · have hexec := exec_poolWindowAccess_write (t := t) rfl hawake hoff (List.length_pos_iff.2 hd) hfit fun late =>
      windowWaits_refused (by rw [pieceCode_off (s := answeredState (s.upto t)) hen]; decide)
    have hoffWin : (windowState s t).flag F.MGT_POOLWIN_EN = false := hen
    obtain ⟨hlast, -, hstore, hfab, hcache, hlapsed', hfenced'⟩ := countPiece_counts (windowState s t) a
    rw [windowWrite_one, writePiece_off hoffWin,
      wake_atRest (by rw [hfab]; exact hflights) (by rw [hcache]; exact hwbs) (hlapsed'.trans hlapsed) (hfenced'.trans hfenced)] at hexec
    exact ⟨_, hexec, hlast, hstore⟩

end Sys2Proof.Machine
end

section
/-! SUPPORT. Start-up (spec/16, R670 to R674): what a cold start keeps, the image that starts, and the near tier once its stacks have trained. -/

namespace Sys2Proof.Machine

open Sys2Proof

/-! ### Fields kept (R543, R573, R579, R585, R590) -/

/-- The state `z` with the fields of a list as they stand in `s`. -/
def fieldsKept (s z : State) (l : List Fld) : State := l.foldl (fun a f => a.set f (s.get f)) z

theorem fieldsKept_get_other {s : State} {l : List Fld} {g : Fld} (hg : g.key ∉ l.map Fld.key) (z : State) : (fieldsKept s z l).get g = z.get g := by
  induction l generalizing z with
  | nil => rfl
  | cons f l ih =>
    rw [List.map_cons, List.mem_cons, not_or] at hg
    exact (ih hg.2 _).trans (State.get_set_ne _ _ hg.1)

theorem fieldsKept_get {s : State} {l : List Fld} (hkeys : (l.map Fld.key).Nodup) {f : Fld} (hf : f ∈ l) (z : State) :
    (fieldsKept s z l).get f = s.get f % 2 ^ f.wid := by
  induction l generalizing z with
  | nil => exact absurd hf List.not_mem_nil
  | cons g l ih =>
    rw [List.map_cons, List.nodup_cons] at hkeys
    rcases List.mem_cons.1 hf with rfl | hl
    · exact (fieldsKept_get_other hkeys.1 _).trans (State.get_set_same _ _ _)
    · exact ih hkeys.2 hl _

/-- A state without its register fields. -/
def besideFields (s : State) : State := { s with regs := [] }

theorem besideFields_set (s : State) (f : Fld) (v : Nat) : besideFields (s.set f v) = besideFields s := rfl
theorem besideFields_bumpSat (s : State) (f : Fld) (v : Nat) : besideFields (s.bumpSat f v) = besideFields s := rfl

theorem besideFields_proj {s t : State} (h : besideFields t = besideFields s) {α : Type} (part : State → α)
    (hpart : ∀ u, part (besideFields u) = part u) : part t = part s := by
  rw [← hpart t, h, hpart s]

theorem fieldsKept_beside (s z : State) (l : List Fld) : besideFields (fieldsKept s z l) = besideFields z :=
  List.foldlRecOn (motive := fun u : State => besideFields u = besideFields z) l _ rfl fun u h f _ => (besideFields_set u f _).trans h

/-- The fields that fuses and flash hold, beside the tamper count. -/
def flashFields : List Fld := [F.LC_STATE_STATE, F.LC_STATE_STATE_C, F.LC_SVN_SVN, F.LC_SVN_OWNER_COSIGN, F.SEC_XMSS_STATE_BLOCKS,
  F.SEC_XMSS_STATE_BLOCKS_C, F.RAS_FW_ACTIVE_BANK]

/-- All fields that fuses and flash hold, in the order in which a cold start keeps them. -/
def coldFields : List Fld := [F.LC_STATE_STATE, F.LC_STATE_STATE_C, F.LC_SVN_SVN, F.LC_SVN_OWNER_COSIGN, F.SEC_XMSS_STATE_BLOCKS,
  F.SEC_XMSS_STATE_BLOCKS_C, F.SEC_TAMPER_STATUS_COUNT, F.RAS_FW_ACTIVE_BANK]

/-- The state after reset, with what flash holds beside register fields. -/
def coldBase (s : State) : State :=
  { State.reset with
    pending := s.pending, free := s.free, out := s.out
    comp := { persisted := s.comp.persisted, persistedEpoch := s.comp.persistedEpoch, kept := s.comp.kept,
              keptExpel := s.comp.keptExpel, banks := s.comp.banks }
    sec := { owner := s.sec.owner, blocksBad := s.sec.blocksBad, nextEkey := s.sec.nextEkey, nonce := s.sec.nonce } }

theorem coldState_eq (s : State) : coldState s = if s.flag F.SEC_TAMPER_STATUS_TAMPERED then
    (fieldsKept s (coldBase s) coldFields).bumpSat F.SEC_TAMPER_STATUS_COUNT else fieldsKept s (coldBase s) coldFields := rfl

theorem coldState_beside (s : State) : besideFields (coldState s) = besideFields (coldBase s) := by
  rw [coldState_eq]
  split
  · exact (besideFields_bumpSat _ _ _).trans (fieldsKept_beside s _ _)
  · exact fieldsKept_beside s _ _

/-- Beside the tamper count, the fields are as they are kept. -/
theorem coldState_get {s : State} {f : Fld} (hf : f.key ≠ F.SEC_TAMPER_STATUS_COUNT.key) :
    (coldState s).get f = (fieldsKept s (coldBase s) coldFields).get f := by
  rw [coldState_eq]
  split
  · exact State.get_bumpSat_ne _ _ hf
  · rfl

theorem coldState_get_kept {s : State} {f : Fld} (hf : f ∈ flashFields) : (coldState s).get f = s.get f % 2 ^ f.wid := by
  have hcount : ∀ g ∈ flashFields, g.key ≠ F.SEC_TAMPER_STATUS_COUNT.key := by decide
  have hmem : ∀ g ∈ flashFields, g ∈ coldFields := by decide
  exact (coldState_get (hcount f hf)).trans (fieldsKept_get (by decide) (hmem f hf) _)

theorem coldBase_get (s : State) (f : Fld) : (coldBase s).get f = f.reset := rfl

theorem coldState_get_reset {s : State} {f : Fld} (hf : f.key ∉ (flashFields ++ [F.SEC_TAMPER_STATUS_COUNT]).map Fld.key) :
    (coldState s).get f = f.reset := by
  have hsub : ∀ k ∈ coldFields.map Fld.key, k ∈ (flashFields ++ [F.SEC_TAMPER_STATUS_COUNT]).map Fld.key := by decide
  have hcount : F.SEC_TAMPER_STATUS_COUNT.key ∈ (flashFields ++ [F.SEC_TAMPER_STATUS_COUNT]).map Fld.key := by decide
  exact (coldState_get fun h => hf (h ▸ hcount)).trans ((fieldsKept_get_other (fun h => hf (hsub _ h)) _).trans (coldBase_get s f))

theorem coldState_get_count {s : State} (h : s.flag F.SEC_TAMPER_STATUS_TAMPERED = false) :
    (coldState s).get F.SEC_TAMPER_STATUS_COUNT = s.get F.SEC_TAMPER_STATUS_COUNT % 2 ^ F.SEC_TAMPER_STATUS_COUNT.wid := by
  rw [coldState_eq, if_neg (by rw [h]; decide)]
  exact fieldsKept_get (by decide) (by decide) _

/-- A part of the state beside its register fields, as a cold start leaves it. -/
theorem coldState_part {α : Type} (part : State → α) (hpart : ∀ u, part (besideFields u) = part u) (s : State) :
    part (coldState s) = part (coldBase s) := besideFields_proj (coldState_beside s) part hpart

/-- From `s` to `u` the device has started cold, but for the fields `also` (R670). -/
def StartsCold (s : State) (also : List Fld) (u : State) : Prop :=
  (∀ f ∈ flashFields, u.get f = s.get f % 2 ^ f.wid) ∧
  (∀ f : Fld, f.key ∉ (flashFields ++ F.SEC_TAMPER_STATUS_COUNT :: also).map Fld.key → u.get f = f.reset) ∧
  (s.flag F.SEC_TAMPER_STATUS_TAMPERED = false → u.get F.SEC_TAMPER_STATUS_COUNT = s.get F.SEC_TAMPER_STATUS_COUNT % 2 ^ F.SEC_TAMPER_STATUS_COUNT.wid) ∧
  u.comp.persisted = s.comp.persisted ∧ u.comp.persistedEpoch = s.comp.persistedEpoch ∧ u.comp.kept = s.comp.kept ∧
  u.comp.banks = s.comp.banks ∧ u.sec.owner = s.sec.owner ∧ u.store.mem = [] ∧ u.store.pages = [] ∧ u.dir = {} ∧ u.pending = s.pending

/-- A cold start, with the fields `also` set after it. -/
theorem startsCold_of {s u : State} {also : List Fld} (hget : ∀ f : Fld, f.key ∉ also.map Fld.key → u.get f = (coldState s).get f)
    (hkept : ∀ f ∈ flashFields ++ [F.SEC_TAMPER_STATUS_COUNT], f.key ∉ also.map Fld.key) (hcomp : u.comp = (coldState s).comp)
    (hsec : u.sec = (coldState s).sec) (hstore : u.store = (coldState s).store) (hdir : u.dir = (coldState s).dir)
    (hpending : u.pending = (coldState s).pending) : StartsCold s also u := by
  have hcomp' : u.comp = (coldBase s).comp := hcomp.trans (coldState_part State.comp (fun _ => rfl) s)
  have hsec' : u.sec = (coldBase s).sec := hsec.trans (coldState_part State.sec (fun _ => rfl) s)
  have hstore' : u.store = (coldBase s).store := hstore.trans (coldState_part State.store (fun _ => rfl) s)
  have hdir' : u.dir = (coldBase s).dir := hdir.trans (coldState_part State.dir (fun _ => rfl) s)
  have hpending' : u.pending = (coldBase s).pending := hpending.trans (coldState_part State.pending (fun _ => rfl) s)
  refine ⟨fun f hf => ?_, fun f hf => ?_, fun h => ?_, (congrArg Comp.persisted hcomp').trans rfl, (congrArg Comp.persistedEpoch hcomp').trans rfl,
    (congrArg Comp.kept hcomp').trans rfl, (congrArg Comp.banks hcomp').trans rfl, (congrArg Sec.owner hsec').trans rfl, congrArg Store.mem hstore', congrArg Store.pages hstore', hdir',
    hpending'⟩
  · exact (hget f (hkept f (List.mem_append_left _ hf))).trans (coldState_get_kept hf)
  · have hout : f.key ∉ (flashFields ++ [F.SEC_TAMPER_STATUS_COUNT]).map Fld.key ∧ f.key ∉ also.map Fld.key := by
      simp only [List.map_append, List.map_cons, List.map_nil, List.mem_append, List.mem_cons, List.not_mem_nil, or_false, not_or] at hf ⊢
      exact ⟨⟨hf.1, hf.2.1⟩, hf.2.2⟩
    exact (hget f hout.2).trans (coldState_get_reset hout.1)
  · exact (hget _ (hkept _ (List.mem_append_right _ (List.mem_singleton_self _)))).trans (coldState_get_count h)

/-- The device without its supply (R671). -/
def suppliesLost (s : State) (t : Nat) : State :=
  { coldState (s.upto t) with now := (s.upto t).now, clk := { (coldState (s.upto t)).clk with off := true } }

theorem powerOn_cold (s : State) (x : Fin 8) : Gives (.powerOn x) s fun u => StartsCold s [F.CLK_STATUS_XDLY] u ∧
    u.get F.CLK_STATUS_XDLY = x.val ∧ u.clk.off = false ∧ u.now = 0 := by
  refine ⟨(coldState s).set F.CLK_STATUS_XDLY x.val, rfl, startsCold_of (fun f hf => State.get_set_ne _ _ ?_) (by decide) rfl rfl rfl rfl rfl,
    (State.get_set_same _ _ _).trans ?_, ?_, ?_⟩
  · exact fun h => hf (List.mem_singleton.2 h)
  · exact Nat.mod_eq_of_lt x.isLt
  · exact congrArg Clk.off (coldState_part State.clk (fun _ => rfl) s)
  · exact coldState_part State.now (fun _ => rfl) s

theorem supplyLoss_cold (s : State) (t : Nat) : Gives (.supplyLoss t) s fun u => StartsCold s [] u ∧ u.clk.off = true ∧ u.now = max s.now t ∧
    u.out = s.out ++ [.pin "ALL_BALLS_RELEASED" true] := by
  have hout : (coldState (s.upto t)).out = s.out := coldState_part State.out (fun _ => rfl) (s.upto t)
  refine ⟨(suppliesLost s t).emit (.pin "ALL_BALLS_RELEASED" true), rfl, ?_, rfl, rfl, ?_⟩
  · exact startsCold_of (s := s.upto t) (fun _ _ => rfl) (by decide) rfl rfl rfl rfl rfl
  · rw [State.emit_out]
    exact congrArg (· ++ _) hout

/-! ### The image that starts (R591, R596, R674) -/

/-- The commit at a start, while a copy of BLOCKS is good and blocks are left. -/
theorem startBlock_blocks {s : State} (hgood : s.sec.blocksBad < 2) (hleft : s.get F.SEC_XMSS_STATE_BLOCKS < 2 ^ 30) :
    (startBlock s).get F.SEC_XMSS_STATE_BLOCKS = s.get F.SEC_XMSS_STATE_BLOCKS + 1 := by
  have hnot : ¬ (s.sec.blocksBad ≥ 2 ∨ 2 ^ 30 ≤ s.get F.SEC_XMSS_STATE_BLOCKS) := by omega
  have hset : (startBlock s).get F.SEC_XMSS_STATE_BLOCKS = (((s.set F.SEC_XMSS_USED_NEXT_INDEX (s.get F.SEC_XMSS_STATE_BLOCKS * 1024)).set
      F.SEC_XMSS_STATE_BLOCKS (s.get F.SEC_XMSS_STATE_BLOCKS + 1)).set F.SEC_XMSS_STATE_BLOCKS_C
      (onesComp 32 (s.get F.SEC_XMSS_STATE_BLOCKS + 1))).get F.SEC_XMSS_STATE_BLOCKS := by
    unfold startBlock
    dsimp only
    exact State.get_of_regs (congrArg State.regs (if_neg hnot)) _
  rw [hset, State.get_set_ne _ _ (by decide), State.get_set_same]
  exact Nat.mod_eq_of_lt (Nat.lt_of_le_of_lt hleft (by decide))

/-- The device with the image in its bank, and firmware running. -/
def imageRuns (s : State) (x : Image) : State :=
  ((({ putBank s (s.get F.RAS_FW_ACTIVE_BANK) x with
      comp := { (putBank s (s.get F.RAS_FW_ACTIVE_BANK) x).comp with imageAt := s.now } } : State).setFlag F.SYS_STATUS_FW_RUNNING true).set
    F.SYS_BOOT_FW_MS (nowMs s)).set F.RAS_FW_VERSION x.version.toNat

theorem imageRuns_sec (s : State) (x : Image) : (imageRuns s x).sec = s.sec := rfl

theorem imageRuns_get {f : Fld} (hf : f.key ∉ [F.SYS_STATUS_FW_RUNNING.key, F.SYS_BOOT_FW_MS.key, F.RAS_FW_VERSION.key]) (s : State) (x : Image) :
    (imageRuns s x).get f = s.get f := by
  simp only [List.mem_cons, List.not_mem_nil, or_false, not_or] at hf
  obtain ⟨hrun, hms, hver⟩ := hf
  rw [imageRuns, State.get_set_ne _ _ hver, State.get_set_ne _ _ hms, State.get_setFlag_ne _ _ hrun]
  rfl

section
variable {s : State} {t : Nat} {x : Image}

theorem exec_activeBankVerified_runs (hfirst : s.flag F.SYS_STATUS_FW_RUNNING = false) (hoff : s.clk.off = false) (hok : imageOk s x = true) :
    exec (.activeBankVerified x t) s = .next (startBlock (imageRuns (s.upto t) x)) := by
  have hgo : ¬ ((s.upto t).flag F.SYS_STATUS_FW_RUNNING ∨ (s.upto t).clk.off ∨ !imageOk (s.upto t) x) := by
    show ¬ (s.flag F.SYS_STATUS_FW_RUNNING ∨ s.clk.off ∨ !imageOk s x)
    rw [hfirst, hoff, hok]
    decide
  exact congrArg Host.Outcome.next ((if_neg hgo).trans rfl)

theorem exec_activeBankVerified_fails (hbad : imageOk s x = false) : exec (.activeBankVerified x t) s = .next (s.upto t) := by
  refine congrArg Host.Outcome.next (if_pos (Or.inr (Or.inr ?_)))
  show (!imageOk s x) = true
  rw [hbad]
  rfl

theorem activeBankVerified_starts (hfirst : s.flag F.SYS_STATUS_FW_RUNNING = false) (hoff : s.clk.off = false) (hok : imageOk s x = true) :
    Gives (.activeBankVerified x t) s fun u =>
      u.flag F.SYS_STATUS_FW_RUNNING = true ∧ u.get F.RAS_FW_VERSION = x.version.toNat ∧
      u.get F.SYS_BOOT_FW_MS = min (max s.now t / 1000000) 65535 ∧
      (s.sec.blocksBad < 2 → s.get F.SEC_XMSS_STATE_BLOCKS < 2 ^ 30 → u.get F.SEC_XMSS_STATE_BLOCKS = s.get F.SEC_XMSS_STATE_BLOCKS + 1) ∧
      u.store = s.store := by
  refine ⟨_, exec_activeBankVerified_runs hfirst hoff hok, ?_, ?_, ?_, fun hgood hleft => ?_, ?_⟩
  · rw [State.flag, startBlock_get (by decide), imageRuns, State.get_set_ne _ _ (by decide), State.get_set_ne _ _ (by decide)]
    exact State.flag_setFlag_same _ F.SYS_STATUS_FW_RUNNING true (by decide)
  · rw [startBlock_get (by decide), imageRuns, State.get_set_same]
    exact Nat.mod_eq_of_lt x.version.isLt
  · rw [startBlock_get (by decide), imageRuns, State.get_set_ne _ _ (by decide), State.get_set_same]
    exact Nat.mod_eq_of_lt (Nat.lt_of_le_of_lt (Nat.min_le_right _ _) (by decide))
  · have hblocks : (imageRuns (s.upto t) x).get F.SEC_XMSS_STATE_BLOCKS = s.get F.SEC_XMSS_STATE_BLOCKS := imageRuns_get (by decide) _ _
    exact (startBlock_blocks (s := imageRuns (s.upto t) x) hgood (hblocks.symm ▸ hleft)).trans (congrArg (· + 1) hblocks)
  · exact besideMarks_proj ((startBlock_beside _).trans rfl) State.store fun _ => rfl

end

/-! ### The near tier (R674) -/

/-- A stack that has trained is in service. -/
def stackUp (s : State) (m : Nat) : State := if s.get (F.HBM_H_STATUS_STATE m) = 2 then s.set (F.HBM_H_STATUS_STATE m) 3 else s

theorem stackState_inj {m k : Nat} (h : m ≠ k) : (F.HBM_H_STATUS_STATE m).key ≠ (F.HBM_H_STATUS_STATE k).key := by
  rw [F.HBM_H_STATUS_STATE_key, F.HBM_H_STATUS_STATE_key]
  omega

theorem stackUp_get_same (s : State) (m : Nat) : (stackUp s m).get (F.HBM_H_STATUS_STATE m) =
    if s.get (F.HBM_H_STATUS_STATE m) = 2 then 3 else s.get (F.HBM_H_STATUS_STATE m) := by
  unfold stackUp
  split
  · exact State.get_set_same _ _ _
  · rfl

theorem stackUp_get_ne {m k : Nat} (h : m ≠ k) (s : State) : (stackUp s k).get (F.HBM_H_STATUS_STATE m) = s.get (F.HBM_H_STATUS_STATE m) := by
  unfold stackUp
  split
  · exact State.get_set_ne _ _ (stackState_inj h)
  · rfl

/-- Of several stacks, each that has trained is in service. -/
theorem stacksUp_get {l : List Nat} (hl : l.Nodup) (s : State) (m : Nat) : (l.foldl stackUp s).get (F.HBM_H_STATUS_STATE m) =
    if m ∈ l ∧ s.get (F.HBM_H_STATUS_STATE m) = 2 then 3 else s.get (F.HBM_H_STATUS_STATE m) := by
  induction l generalizing s with
  | nil => simp only [List.foldl_nil, List.not_mem_nil, false_and, if_false]
  | cons k l ih =>
    rw [List.nodup_cons] at hl
    rw [List.foldl_cons, ih hl.2]
    obtain rfl | hne := eq_or_ne m k
    · simp only [hl.1, false_and, if_false, List.mem_cons, true_or, true_and]
      exact stackUp_get_same s m
    · rw [stackUp_get_ne hne]
      simp only [List.mem_cons, hne, false_or]

/-- Every stack that has trained is in service. -/
def stacksUp (s : State) : State := (List.range 8).foldl stackUp s

/-- The near tier serves. -/
def nearServes (u : State) : State := setPoolFrames ((u.setFlag F.SYS_STATUS_NEAR_SERVING true).set F.SYS_BOOT_NEAR_MS (nowMs u))

theorem stackUp_beside (s : State) (m : Nat) : besideFields (stackUp s m) = besideFields s := by
  unfold stackUp
  split <;> rfl

theorem stacksUp_beside (s : State) : besideFields (stacksUp s) = besideFields s :=
  List.foldlRecOn (motive := fun u : State => besideFields u = besideFields s) _ stackUp rfl fun u h m _ => (stackUp_beside u m).trans h

theorem setPoolFrames_beside (s : State) : besideFields (setPoolFrames s) = besideFields s :=
  List.foldlRecOn (motive := fun u : State => besideFields u = besideFields s) _ _ rfl fun _ h _ _ => h

theorem nearServes_beside (u : State) : besideFields (nearServes u) = besideFields u := (setPoolFrames_beside _).trans rfl

/-- The near tier serves stacks that have trained with the composition as it was. -/
theorem nearServes_comp (s : State) : (nearServes (stacksUp s)).comp = s.comp :=
  besideFields_proj ((nearServes_beside _).trans (stacksUp_beside s)) State.comp fun _ => rfl

/-- The persisted map is put in force, with the fences that flash kept (R674). -/
def persistedPlaced (q : State) : State :=
  (placeMap (keptFences (q.setFlag F.SYS_STATUS_MAP_INSTALLED true)) q.comp.persisted q.comp.persistedEpoch false).setFlag F.CMP_STATUS_PERSISTED true

/-- What follows once the stacks that have trained are in service. -/
def stacksServe (first : Bool) (w : State) : State := if first then persistedPlaced (nearServes w) else wake w

section
variable {s : State} {t : Nat} (hlocked : loopLocked s 1 = true) (hawake : awake s = true) (hrun : s.flag F.SYS_STATUS_FW_RUNNING = true)
  (hone : ∃ m : Fin 8, s.get (F.HBM_H_STATUS_STATE m) = 2)
include hlocked hawake hrun hone

/-- A stack has trained: where the near tier serves already, or no stack is left to train, the stacks come into service. -/
theorem exec_hbmTrained (hready : s.flag F.SYS_STATUS_NEAR_SERVING = true ∨ ∀ m : Fin 8, 2 ≤ s.get (F.HBM_H_STATUS_STATE m)) :
    exec (.hbmTrained t) s = .next (stacksServe (!s.flag F.SYS_STATUS_NEAR_SERVING) (stacksUp (s.upto t))) := by
  have htrained : ((List.range 8).any fun m => s.get (F.HBM_H_STATUS_STATE m) == 2) = true := by
    obtain ⟨m, hm⟩ := hone
    exact List.any_eq_true.2 ⟨m, List.mem_range.2 m.isLt, beq_iff_eq.2 hm⟩
  have hleft : (!s.flag F.SYS_STATUS_NEAR_SERVING && (List.range 8).any fun m => decide (s.get (F.HBM_H_STATUS_STATE m) < 2)) = false := by
    rcases hready with hagain | hall
    · rw [hagain]
      rfl
    · rw [Bool.and_eq_false_iff]
      refine Or.inr (List.any_eq_false.2 fun m hm => ?_)
      exact fun h => absurd (hall ⟨m, List.mem_range.1 hm⟩) (Nat.not_le.2 (of_decide_eq_true h))
  have hgo : (!loopLocked (s.upto t) 1 || !awake (s.upto t) || !(s.upto t).flag F.SYS_STATUS_FW_RUNNING ||
      !(List.range 8).any (fun m => (s.upto t).get (F.HBM_H_STATUS_STATE m) == 2) || (!(s.upto t).flag F.SYS_STATUS_NEAR_SERVING &&
        (List.range 8).any fun m => decide ((s.upto t).get (F.HBM_H_STATUS_STATE m) < 2))) = false := by
    show (!loopLocked s 1 || !awake s || !s.flag F.SYS_STATUS_FW_RUNNING || !(List.range 8).any (fun m => s.get (F.HBM_H_STATUS_STATE m) == 2) ||
      (!s.flag F.SYS_STATUS_NEAR_SERVING && (List.range 8).any fun m => decide (s.get (F.HBM_H_STATUS_STATE m) < 2))) = false
    rw [hlocked, hawake, hrun, htrained, hleft]
    rfl
  show execHbmTrained t s = _
  unfold execHbmTrained
  dsimp only
  rw [if_neg (by rw [hgo]; decide)]
  unfold stacksServe persistedPlaced nearServes stacksUp
  delta stackUp
  rfl

theorem exec_hbmTrained_again (hagain : s.flag F.SYS_STATUS_NEAR_SERVING = true) : exec (.hbmTrained t) s = .next (wake (stacksUp (s.upto t))) := by
  rw [exec_hbmTrained hlocked hawake hrun hone (Or.inl hagain), hagain]
  rfl

theorem exec_hbmTrained_first (hfirst : s.flag F.SYS_STATUS_NEAR_SERVING = false) (hall : ∀ m : Fin 8, 2 ≤ s.get (F.HBM_H_STATUS_STATE m)) :
    exec (.hbmTrained t) s = .next ((placeMap (keptFences ((nearServes (stacksUp (s.upto t))).setFlag
      F.SYS_STATUS_MAP_INSTALLED true)) s.comp.persisted s.comp.persistedEpoch false).setFlag
      F.CMP_STATUS_PERSISTED true) := by
  rw [exec_hbmTrained hlocked hawake hrun hone (Or.inr hall), hfirst, stacksServe, Bool.not_false, if_pos rfl, persistedPlaced, nearServes_comp]
  rfl

end

/-- Settles O26: a cold start field by field, the image that starts, and the stacks that have trained. -/
theorem startsKeepFusesAndFlash : Obligations.StartsKeepFusesAndFlash := by
  refine ⟨fun s => ⟨powerOn_cold s, supplyLoss_cold s⟩, fun s t => ⟨fun hfirst hoff => ⟨fun x hok => activeBankVerified_starts hfirst hoff hok,
    fun x hbad => exec_activeBankVerified_fails hbad⟩, fun hlocked hawake hrun hone => ⟨fun hfirst hall => exec_hbmTrained_first hlocked hawake hrun hone hfirst hall,
      fun hagain => exec_hbmTrained_again hlocked hawake hrun hone hagain, fun m => ?_⟩⟩⟩
  refine (stacksUp_get List.nodup_range (s.upto t) m).trans ?_
  simp only [List.mem_range, m.isLt, true_and]
  rfl

end Sys2Proof.Machine
end

section
/-! SUPPORT. Clocks (spec/16, R630 to R645): the three core loops, what returns to the ports, and the sources that are lost and come back. -/

namespace Sys2Proof.Machine

open Sys2Proof

/-! ### Ports that link (R494) -/

/-- A state without its register fields, the ports and the limits of their sources. -/
def besideLinking (s : State) : State := { s with regs := [], sched := {}, ports := {} }

theorem besideLinking_set (s : State) (f : Fld) (v : Nat) : besideLinking (s.set f v) = besideLinking s := rfl

theorem besideLinking_proj {s t : State} (h : besideLinking t = besideLinking s) {α : Type} (part : State → α)
    (hpart : ∀ u, part (besideLinking u) = part u) : part t = part s := by
  rw [← hpart t, h, hpart s]

theorem lightLink_beside (s : State) (p l : Nat) : besideLinking (lightLink s p l) = besideLinking s := by
  rw [lightLink_eq]
  split <;> rfl

theorem tryInit_beside (s : State) (p : Nat) : besideLinking (tryInit s p) = besideLinking s := by
  unfold tryInit
  split
  · rfl
  · split <;> rfl

theorem tryLinking_beside (s : State) (p : Nat) : besideLinking (tryLinking s p) = besideLinking s := by
  unfold tryLinking
  split
  · rfl
  · exact tryInit_beside _ _

theorem lightPort_beside (s : State) (p : Nat) : besideLinking (lightPort s p) = besideLinking s :=
  (tryLinking_beside _ _).trans (List.foldlRecOn (motive := fun u : State => besideLinking u = besideLinking s) sixLinks _ rfl
    fun u h l _ => (lightLink_beside u p l).trans h)

theorem portsLink_beside (s : State) : besideLinking (portsLink s) = besideLinking s :=
  List.foldlRecOn (motive := fun u : State => besideLinking u = besideLinking s) _ lightPort rfl fun u h p _ => (lightPort_beside u p).trans h

theorem lightPort_get {f : Fld} (hf : f.key < portKeys) (s : State) (p : Nat) : (lightPort s p).get f = s.get f := by
  have hlink : ∀ k ∈ sixLinks, f.key ≠ (F.KZP_L_STATUS_STATE p k).key := fun k _ =>
    ne_of_lt (lt_of_lt_of_le hf (portKeys_le_of_linkBlock (b := 0x12100) rfl (by decide)))
  have hport : f.key ∉ linkingKeys p := by
    simp only [linkingKeys, List.mem_cons, List.not_mem_nil, or_false, not_or]
    exact ⟨ne_of_lt (lt_of_lt_of_le hf (portKeys_le_of_block (b := 0x12008) rfl (by decide))),
      ne_of_lt (lt_of_lt_of_le hf (portKeys_le_of_block (b := 0x12008) rfl (by decide)))⟩
  exact (tryLinking_get _ _ hport).trans (foldl_lightLink_get sixLinks hlink)

theorem portsLink_get {f : Fld} (hf : f.key < portKeys) (s : State) : (portsLink s).get f = s.get f := foldl_get (fun s p => lightPort_get hf s p) _ s

/-! ### Core loops (R636 to R639) -/

/-- The three loops' fields are apart, and STATE and FREQ_MHZ have 2 and 11 bits. -/
theorem loopKeys_ne : ∀ k m : Fin 3, (loopState k).key ≠ (loopFreq m).key ∧ (loopState k).key ≠ (loopLock m).key ∧
    (loopFreq k).key ≠ (loopLock m).key ∧ (k ≠ m → (loopFreq k).key ≠ (loopFreq m).key) := by decide

theorem loop_wid : ∀ k : Fin 3, (loopState k).wid = 2 ∧ (loopFreq k).wid = 11 ∧ (loopLock k).wid = 16 := by decide

theorem loopMhz_lt (s : State) (k : Nat) : loopMhz s k < 2 ^ 11 := by
  unfold loopMhz
  split <;> split <;> decide

theorem get_set_of_lt {s : State} {f : Fld} {v w : Nat} (hw : f.wid = w) (hv : v < 2 ^ w) : (s.set f v).get f = v := by
  subst hw
  exact (State.get_set_same _ _ _).trans (Nat.mod_eq_of_lt hv)

/-- The registers of a loop that locks. -/
def loopLocks (s : State) (k ns : Nat) : State := ((s.set (loopState k) 2).set (loopFreq k) (loopMhz s k)).set (loopLock k) (min ns 65535)

theorem exec_pllLocked {s : State} {k : Fin 3} {ns t : Nat} (hstart : s.get (loopState k) = 1) (hawake : awake s = true)
    (href : (s.flag F.CLK_STATUS_XTAL_OK || s.flag F.CLK_STATUS_COASTING) = true) :
    exec (.pllLocked k ns t) s = .next { loopLocks (s.upto t) k ns with clk := { s.clk with
      idleT := if k.val = 0 then (s.upto t).now else s.clk.idleT, idleE := if k.val = 2 then (s.upto t).now else s.clk.idleE } } := by
  have hgo : ¬ ((s.upto t).get (loopState k) ≠ 1 ∨ !awake (s.upto t) ∨
      !((s.upto t).flag F.CLK_STATUS_XTAL_OK || (s.upto t).flag F.CLK_STATUS_COASTING)) := by
    show ¬ (s.get (loopState k) ≠ 1 ∨ !awake s ∨ !(s.flag F.CLK_STATUS_XTAL_OK || s.flag F.CLK_STATUS_COASTING))
    rw [hstart, hawake, href]
    decide
  exact congrArg Host.Outcome.next ((if_neg hgo).trans rfl)

section
variable (s : State) (k : Fin 3) (ns : Nat)

theorem loopLocks_get_state : (loopLocks s k ns).get (loopState k) = 2 := by
  obtain ⟨hfreq, hlock, -, -⟩ := loopKeys_ne k k
  rw [loopLocks, State.get_set_ne _ _ hlock, State.get_set_ne _ _ hfreq]
  exact get_set_of_lt (loop_wid k).1 (by decide)

theorem loopLocks_get_freq : (loopLocks s k ns).get (loopFreq k) = loopMhz s k := by
  obtain ⟨-, -, hlock, -⟩ := loopKeys_ne k k
  rw [loopLocks, State.get_set_ne _ _ hlock]
  exact get_set_of_lt (loop_wid k).2.1 (loopMhz_lt s k)

theorem loopLocks_get_lock : (loopLocks s k ns).get (loopLock k) = min ns 65535 :=
  get_set_of_lt (loop_wid k).2.2 (Nat.lt_of_le_of_lt (Nat.min_le_right _ _) (by decide))

theorem loopLocks_get_other {f : Fld} (hf : f.key ∉ [(loopState k).key, (loopFreq k).key, (loopLock k).key]) : (loopLocks s k ns).get f = s.get f := by
  simp only [List.mem_cons, List.not_mem_nil, or_false, not_or] at hf
  obtain ⟨hstate, hfreq, hlock⟩ := hf
  rw [loopLocks, State.get_set_ne _ _ hlock, State.get_set_ne _ _ hfreq, State.get_set_ne _ _ hstate]

end

theorem pllLocked_locks {s : State} {k : Fin 3} {ns t : Nat} (hstart : s.get (loopState k) = 1) (hawake : awake s = true)
    (href : (s.flag F.CLK_STATUS_XTAL_OK || s.flag F.CLK_STATUS_COASTING) = true) : Gives (.pllLocked k ns t) s fun u =>
      u.get (loopState k) = 2 ∧ u.get (loopFreq k) = loopMhz s k ∧ u.get (loopLock k) = min ns 65535 ∧
      ∀ f : Fld, f.key ∉ [(loopState k).key, (loopFreq k).key, (loopLock k).key] → u.get f = s.get f :=
  ⟨_, exec_pllLocked hstart hawake href, loopLocks_get_state (s.upto t) k ns, loopLocks_get_freq (s.upto t) k ns,
    loopLocks_get_lock (s.upto t) k ns, fun _ hf => loopLocks_get_other (s.upto t) k ns hf⟩

/-- The loop that an idle-stop row stops. -/
def idleLoop (engines : Bool) : Fin 3 := if engines then 2 else 0

/-- Does the loop stop gated (R639)? -/
def loopWarm (s : State) (engines : Bool) : Bool := if engines then s.flag F.CLK_CTRL_WARM_E else s.flag F.CLK_CTRL_WARM_T

/-- The registers of a loop that stops. -/
def loopStops (s : State) (engines : Bool) : State :=
  (s.set (loopState (idleLoop engines)) (if loopWarm s engines then 3 else 0)).set (loopFreq (idleLoop engines)) 0

/-- With the other loop stopped too, the device is IDLE (R647). -/
def idleShown (s : State) (engines : Bool) : State :=
  if s.get (loopState (2 - idleLoop engines)) = 0 ∨ s.get (loopState (2 - idleLoop engines)) = 3 then s.set F.PWR_STATUS_STATE 1 else s

section
variable {s : State} {engines : Bool} {t : Nat}

theorem exec_pllIdleStop_stops (hawake : awake s = true) (hlocked : loopLocked s (idleLoop engines) = true)
    (hidle : loopIdle (s.upto t) engines = true) : exec (.pllIdleStop engines t) s = .next (idleShown (loopStops (s.upto t) engines) engines) := by
  have hgo : ¬ (!awake (s.upto t) ∨ !loopLocked (s.upto t) (idleLoop engines) ∨ !loopIdle (s.upto t) engines) := by
    show ¬ (!awake s ∨ !loopLocked s (idleLoop engines) ∨ !loopIdle (s.upto t) engines)
    rw [hawake, hlocked, hidle]
    decide
  cases engines
  · exact congrArg Host.Outcome.next ((if_neg hgo).trans rfl)
  · exact congrArg Host.Outcome.next ((if_neg hgo).trans rfl)

theorem exec_pllIdleStop_busy (hbusy : loopIdle (s.upto t) engines = false) : exec (.pllIdleStop engines t) s = .next (s.upto t) := by
  refine congrArg Host.Outcome.next (if_pos (Or.inr (Or.inr ?_)))
  rw [hbusy]
  rfl

end

theorem idleShown_get {f : Fld} (hf : f.key ≠ F.PWR_STATUS_STATE.key) (s : State) (engines : Bool) : (idleShown s engines).get f = s.get f := by
  unfold idleShown
  split
  · exact State.get_set_ne _ _ hf
  · rfl

theorem pwrState_apart : ∀ k : Fin 3, (loopState k).key ≠ F.PWR_STATUS_STATE.key ∧ (loopFreq k).key ≠ F.PWR_STATUS_STATE.key := by decide

theorem otherLoop_ne (engines : Bool) : (loopState (2 - idleLoop engines)).key ≠ (loopState (idleLoop engines)).key ∧
    (loopState (2 - idleLoop engines)).key ≠ (loopFreq (idleLoop engines)).key := by
  cases engines <;> decide

theorem loopStops_idle (s : State) (engines : Bool) : let u := idleShown (loopStops s engines) engines
    u.get (loopState (idleLoop engines)) = (if loopWarm s engines then 3 else 0) ∧ u.get (loopFreq (idleLoop engines)) = 0 ∧
    (s.get (loopState (2 - idleLoop engines)) = 0 → u.get F.PWR_STATUS_STATE = 1) := by
  obtain ⟨hstate, hfreq⟩ := pwrState_apart (idleLoop engines)
  refine ⟨?_, ?_, fun hother => ?_⟩
  · rw [idleShown_get hstate, loopStops, State.get_set_ne _ _ (loopKeys_ne _ _).1]
    refine get_set_of_lt (loop_wid _).1 ?_
    split <;> decide
  · rw [idleShown_get hfreq, loopStops]
    exact get_set_of_lt (loop_wid _).2.1 (by decide)
  · have hrest : (loopStops s engines).get (loopState (2 - idleLoop engines)) = 0 := by
      rw [loopStops, State.get_set_ne _ _ (otherLoop_ne engines).2, State.get_set_ne _ _ (otherLoop_ne engines).1, hother]
    rw [idleShown, if_pos (Or.inl hrest)]
    exact State.get_set_same _ _ _

/-! ### Loops that change their reference (R636, R642, R645) -/

/-- A locked loop takes the frequency of its reference. -/
def loopTuned (s : State) (k : Nat) : State := if loopLocked s k then s.set (loopFreq k) (loopMhz s k) else s

theorem retune_eq (s : State) : retune s = (List.range 3).foldl loopTuned s := rfl

/-- The keys of the loops' FREQ_MHZ. -/
def freqKeys : List Nat := [(loopFreq 0).key, (loopFreq 1).key, (loopFreq 2).key]

theorem freq_mem_freqKeys : ∀ k : Fin 3, (loopFreq k).key ∈ freqKeys := by decide

theorem loopTuned_get {f : Fld} (s : State) (k : Fin 3) (hf : f.key ≠ (loopFreq k).key) : (loopTuned s k).get f = s.get f := by
  unfold loopTuned
  split
  · exact State.get_set_ne _ _ hf
  · rfl

theorem loopTuned_beside (s : State) (k : Nat) : besideFields (loopTuned s k) = besideFields s := by
  unfold loopTuned
  split <;> rfl

theorem retune_beside (s : State) : besideFields (retune s) = besideFields s :=
  List.foldlRecOn (motive := fun u : State => besideFields u = besideFields s) _ loopTuned rfl fun u h k _ => (loopTuned_beside u k).trans h

theorem retune_get {f : Fld} (hf : f.key ∉ freqKeys) (s : State) : (retune s).get f = s.get f := by
  simp only [freqKeys, List.mem_cons, List.not_mem_nil, or_false, not_or] at hf
  obtain ⟨h0, h1, h2⟩ := hf
  exact (loopTuned_get _ 2 h2).trans ((loopTuned_get _ 1 h1).trans (loopTuned_get _ 0 h0))

/-- A loop's frequency follows from its STATE and the reference. -/
theorem loopMhz_of_get {s t : State} (h : t.get F.CLK_STATUS_COASTING = s.get F.CLK_STATUS_COASTING) (k : Nat) : loopMhz t k = loopMhz s k := by
  unfold loopMhz State.flag
  rw [h]

theorem loopTuned_get_freq {s : State} {k : Fin 3} (h : s.get (loopState k) = 2) : (loopTuned s k).get (loopFreq k) = loopMhz s k := by
  have hlocked : loopLocked s k = true := by
    rw [loopLocked, h]
    rfl
  rw [loopTuned, if_pos hlocked]
  exact get_set_of_lt (loop_wid k).2.1 (loopMhz_lt s k)

theorem retune_get_freq : ∀ {s : State} {k : Fin 3}, s.get (loopState k) = 2 → (retune s).get (loopFreq k) = loopMhz s k
  | s, 0, h => (loopTuned_get _ 2 (by decide)).trans ((loopTuned_get _ 1 (by decide)).trans (loopTuned_get_freq (k := 0) h))
  | s, 1, h => by
    have hstate : (loopTuned s 0).get (loopState (1 : Fin 3)) = 2 := (loopTuned_get s 0 (by decide)).trans h
    have hcoast : (loopTuned s 0).get F.CLK_STATUS_COASTING = s.get F.CLK_STATUS_COASTING := loopTuned_get s 0 (by decide)
    exact (loopTuned_get _ 2 (by decide)).trans ((loopTuned_get_freq (k := 1) hstate).trans (loopMhz_of_get hcoast 1))
  | s, 2, h => by
    have hstate : (loopTuned (loopTuned s 0) 1).get (loopState (2 : Fin 3)) = 2 :=
      (loopTuned_get _ 1 (by decide)).trans ((loopTuned_get s 0 (by decide)).trans h)
    have hcoast : (loopTuned (loopTuned s 0) 1).get F.CLK_STATUS_COASTING = s.get F.CLK_STATUS_COASTING :=
      (loopTuned_get _ 1 (by decide)).trans (loopTuned_get s 0 (by decide))
    exact (loopTuned_get_freq (k := 2) hstate).trans (loopMhz_of_get hcoast 2)

theorem loopMhz_coasting {s : State} (h : s.flag F.CLK_STATUS_COASTING = true) (k : Fin 3) : loopMhz s k = [300, 500, 400].getD k.val 0 := by
  fin_cases k <;> exact if_pos h

theorem loopMhz_full {s : State} (h : s.flag F.CLK_STATUS_COASTING = false) (k : Fin 3) : loopMhz s k = [1200, 2000, 1600].getD k.val 0 := by
  have hnot : ¬ s.flag F.CLK_STATUS_COASTING = true := by
    rw [h]
    decide
  fin_cases k <;> exact if_neg hnot

theorem clkStatus_apart : ∀ k : Fin 3, (loopState k).key ≠ F.CLK_STATUS_COASTING.key ∧
    (loopState k).key ∉ [F.CLK_SOURCE_LOST_XTAL.key, F.CLK_SOURCE_LOST_XTAL_EVENTS.key, F.CLK_STATUS_XTAL_OK.key] := by decide

theorem backKeys_apart : ∀ k : Fin 3, (loopState k).key ∉ [F.CLK_STATUS_XTAL_OK.key, F.CLK_STATUS_XTAL_STABLE_MS.key, F.CLK_STATUS_COASTING.key,
    F.CLK_SOURCE_LOST_COAST_MS.key] := by decide

theorem loopFreq_below : ∀ k : Fin 3, (loopFreq k).key < portKeys := by decide

theorem loopState_not_event : ∀ k : Fin 3, (loopState k).key ∉ eventKeys := by decide

/-! ### The test of XTAL (R630 to R632) -/

/-- The state in which XTAL has been accepted. -/
def xtalAccepted (s : State) : State :=
  let s := { s with clk := { s.clk with testing := false } }
  ((((s.setFlag F.CLK_STATUS_XTAL_OK true).set F.CLK_STATUS_XTAL_STABLE_MS (nowMs s)).setFlag F.CLK_STATUS_LPO_TRIMMED true).set F.CLK_PLL_X_STATE 1).bump
    F.CLK_PLL_X_STARTS

theorem nowMs_lt (s : State) : nowMs s < 2 ^ 16 := Nat.lt_of_le_of_lt (Nat.min_le_right _ _) (by decide)

theorem OnlyEvents.of_sourceLost (s : State) (f : Fld) : OnlyEvents (s.setFlag f true) (sourceLost s f) := OnlyEvents.raiseIrq _ 2

section
variable {s : State} {t : Nat} (hoff : s.clk.off = false)
include hoff

theorem exec_xtalTestStart (hstill : chipClock s = false) (hdelay : 1000000 * xtalDelay s ≤ max s.now t) :
    exec (.xtalTestStart t) s = .next { s.upto t with clk := { s.clk with testing := true } } := by
  refine congrArg Host.Outcome.next ((if_pos ?_).trans rfl)
  show (!s.clk.off && !chipClock s && decide (1000000 * xtalDelay s ≤ max s.now t)) = true
  rw [hoff, hstill, decide_eq_true hdelay]
  rfl

theorem xtalStable_accepts (htest : s.clk.testing = true) : Gives (.xtalStable t) s fun u =>
    u.flag F.CLK_STATUS_XTAL_OK = true ∧ u.flag F.CLK_STATUS_LPO_TRIMMED = true ∧ u.get F.CLK_PLL_X_STATE = 1 ∧
    u.get F.CLK_STATUS_XTAL_STABLE_MS = min (max s.now t / 1000000) 65535 ∧ u.clk.testing = false ∧ u.store = s.store := by
  have hgo : ¬ (!(s.upto t).clk.testing ∨ (s.upto t).clk.off) := by
    show ¬ (!s.clk.testing ∨ s.clk.off)
    rw [htest, hoff]
    decide
  refine ⟨xtalAccepted (s.upto t), congrArg Host.Outcome.next ((if_neg hgo).trans rfl), ?_, ?_, ?_, ?_, rfl, rfl⟩
  · rw [State.flag, xtalAccepted, State.get_bump_ne _ _ (by decide), State.get_set_ne _ _ (by decide), State.get_setFlag_ne _ _ (by decide),
      State.get_set_ne _ _ (by decide)]
    exact State.flag_setFlag_same _ F.CLK_STATUS_XTAL_OK true (by decide)
  · rw [State.flag, xtalAccepted, State.get_bump_ne _ _ (by decide), State.get_set_ne _ _ (by decide)]
    exact State.flag_setFlag_same _ F.CLK_STATUS_LPO_TRIMMED true (by decide)
  · rw [xtalAccepted, State.get_bump_ne _ _ (by decide)]
    exact State.get_set_same _ _ _
  · rw [xtalAccepted, State.get_bump_ne _ _ (by decide), State.get_set_ne _ _ (by decide), State.get_setFlag_ne _ _ (by decide)]
    exact get_set_of_lt rfl (nowMs_lt _)

theorem xtalStartTimeout_lost (htest : s.clk.testing = true) (hlate : 2000000 * xtalDelay s ≤ max s.now t)
    (hfirst : s.flag F.CLK_SOURCE_LOST_XTAL = false) : Gives (.xtalStartTimeout t) s fun u =>
      u.flag F.CLK_SOURCE_LOST_XTAL = true ∧ bits (u.get F.MGT_IRQ_STATUS_SOURCES) 2 1 = 1 ∧ u.clk = s.clk := by
  have hlost := OnlyEvents.of_sourceLost (s.upto t) F.CLK_SOURCE_LOST_XTAL
  have hgo : ((s.upto t).clk.testing && !(s.upto t).clk.off && decide (2000000 * xtalDelay (s.upto t) ≤ (s.upto t).now) &&
      !(s.upto t).flag F.CLK_SOURCE_LOST_XTAL) = true := by
    show (s.clk.testing && !s.clk.off && decide (2000000 * xtalDelay s ≤ max s.now t) && !s.flag F.CLK_SOURCE_LOST_XTAL) = true
    rw [htest, hoff, decide_eq_true hlate, hfirst]
    rfl
  refine ⟨_, congrArg Host.Outcome.next (if_pos hgo), ?_, ?_, hlost.clk⟩
  · exact (hlost.flag (by decide)).trans (State.flag_setFlag_same _ F.CLK_SOURCE_LOST_XTAL true (by decide))
  · exact bits_raiseIrq ((s.upto t).setFlag F.CLK_SOURCE_LOST_XTAL true) (b := 2) (by decide)

/-! ### Sources lost and returned (R641 to R645) -/

/-- The state in which the loss of XTAL shows. -/
def xtalLost (s : State) : State := ((sourceLost s F.CLK_SOURCE_LOST_XTAL).bumpSat F.CLK_SOURCE_LOST_XTAL_EVENTS).setFlag F.CLK_STATUS_XTAL_OK false

/-- The device as it coasts from now. -/
def coasting (s : State) : State :=
  ({ s with clk := { s.clk with coastAt := some s.now, slowMem := true, portRef := [] } } : State).setFlag F.CLK_STATUS_COASTING true

omit hoff in
theorem coasting_get {f : Fld} (hf : f.key ≠ F.CLK_STATUS_COASTING.key) (s : State) : (coasting s).get f = s.get f := State.get_setFlag_ne _ _ hf

omit hoff in
theorem xtalLost_get {f : Fld} (hf : f.key ∉ [F.CLK_SOURCE_LOST_XTAL.key, F.CLK_SOURCE_LOST_XTAL_EVENTS.key, F.CLK_STATUS_XTAL_OK.key])
    (hquiet : f.key ∉ eventKeys) (s : State) : (xtalLost s).get f = s.get f := by
  simp only [List.mem_cons, List.not_mem_nil, or_false, not_or] at hf
  obtain ⟨hlost, hevents, hok⟩ := hf
  rw [xtalLost, State.get_setFlag_ne _ _ hok, State.get_bumpSat_ne _ _ hevents, (OnlyEvents.of_sourceLost s _).get f hquiet, State.get_setFlag_ne _ _ hlost]

theorem exec_xtalLoss (hok : s.flag F.CLK_STATUS_XTAL_OK = true) (hawake : s.get F.PWR_STATUS_STATE ≠ 2) :
    exec (.xtalLoss t) s = .next (retune (coasting (xtalLost (s.upto t)))) := by
  have hgo : ¬ (!(s.upto t).flag F.CLK_STATUS_XTAL_OK ∨ (s.upto t).clk.off) := by
    show ¬ (!s.flag F.CLK_STATUS_XTAL_OK ∨ s.clk.off)
    rw [hok, hoff]
    decide
  have hstate : (xtalLost (s.upto t)).get F.PWR_STATUS_STATE ≠ 2 := by
    rw [xtalLost_get (by decide) (by decide)]
    exact hawake
  exact congrArg Host.Outcome.next ((if_neg hgo).trans ((if_neg hstate).trans rfl))

theorem xtalLoss_coasts (hok : s.flag F.CLK_STATUS_XTAL_OK = true) (hawake : s.get F.PWR_STATUS_STATE ≠ 2) : Gives (.xtalLoss t) s fun u =>
    u.flag F.CLK_STATUS_XTAL_OK = false ∧ u.flag F.CLK_STATUS_COASTING = true ∧ u.flag F.CLK_SOURCE_LOST_XTAL = true ∧
    u.clk.coastAt = some (max s.now t) ∧ u.clk.slowMem = true ∧
    ∀ k : Fin 3, s.get (loopState k) = 2 → u.get (loopFreq k) = [300, 500, 400].getD k.val 0 := by
  have hlost := OnlyEvents.of_sourceLost (s.upto t) F.CLK_SOURCE_LOST_XTAL
  have hclk : (retune (coasting (xtalLost (s.upto t)))).clk = (coasting (xtalLost (s.upto t))).clk :=
    besideFields_proj (retune_beside _) State.clk fun _ => rfl
  have hnow : (xtalLost (s.upto t)).now = max s.now t := hlost.now
  have hcoast : (coasting (xtalLost (s.upto t))).flag F.CLK_STATUS_COASTING = true := State.flag_setFlag_same _ F.CLK_STATUS_COASTING true (by decide)
  refine ⟨_, exec_xtalLoss hoff hok hawake, ?_, ?_, ?_, ?_, ?_, fun k hk => ?_⟩
  · rw [State.flag, retune_get (by decide), coasting_get (by decide)]
    exact State.flag_setFlag_same _ F.CLK_STATUS_XTAL_OK false (by decide)
  · rw [State.flag, retune_get (by decide)]
    exact hcoast
  · rw [State.flag, retune_get (by decide), coasting_get (by decide), xtalLost, State.get_setFlag_ne _ _ (by decide),
      State.get_bumpSat_ne _ _ (by decide)]
    exact (hlost.flag (by decide)).trans (State.flag_setFlag_same _ F.CLK_SOURCE_LOST_XTAL true (by decide))
  · exact (congrArg Clk.coastAt hclk).trans (congrArg some hnow)
  · exact congrArg Clk.slowMem hclk
  · have hstate : (coasting (xtalLost (s.upto t))).get (loopState k) = 2 := by
      rw [coasting_get (clkStatus_apart k).1, xtalLost_get (clkStatus_apart k).2 (loopState_not_event k)]
      exact hk
    exact (retune_get_freq hstate).trans (loopMhz_coasting hcoast k)

/-- A port's loop has another reference. -/
def portRefSet (s : State) (p v : Nat) : State := { s with clk := { s.clk with portRef := tabPut p v s.clk.portRef } }

section
variable {p : Fin 6} {a : Nat} (hcoast : s.clk.coastAt = some a)
include hcoast
omit hoff

theorem exec_portLoopHoldover : exec (.portLoopHoldover p t) s = .next (
    if max s.now t < a + 10000000 ∨ tabGet 0 p.val s.clk.portRef = 2 then s.upto t
    else if s.flag F.CLK_STATUS_REFCLK_OK then portRefSet (s.upto t) p 1 else unlockPort (portRefSet (s.upto t) p 2) p) := by
  show execPortLoopHoldover p t s = _
  unfold execPortLoopHoldover
  dsimp only
  split
  next hnone => exact absurd (hcoast.symm.trans hnone) (Option.some_ne_none a)
  next x hx =>
    obtain rfl : a = x := Option.some.inj (hcoast.symm.trans hx)
    rfl

theorem exec_portLoopHoldover_early (hearly : max s.now t < a + 10000000) : exec (.portLoopHoldover p t) s = .next (s.upto t) := by
  rw [exec_portLoopHoldover hcoast, if_pos (Or.inl hearly)]

variable (href : tabGet 0 p.val s.clk.portRef ≠ 2) (hlate : a + 10000000 ≤ max s.now t)
include href hlate

theorem exec_portLoopHoldover_refclk (hok : s.flag F.CLK_STATUS_REFCLK_OK = true) :
    exec (.portLoopHoldover p t) s = .next (portRefSet (s.upto t) p 1) := by
  rw [exec_portLoopHoldover hcoast, if_neg (not_or.2 ⟨Nat.not_lt.2 hlate, href⟩), if_pos hok]

theorem exec_portLoopHoldover_unlocks (hno : s.flag F.CLK_STATUS_REFCLK_OK = false) :
    exec (.portLoopHoldover p t) s = .next (unlockPort (portRefSet (s.upto t) p 2) p) := by
  rw [exec_portLoopHoldover hcoast, if_neg (not_or.2 ⟨Nat.not_lt.2 hlate, href⟩), if_neg (ne_true_of_eq_false hno)]

end

/-- The management port's link is down. -/
def mgmtLinkDown (s : State) : State := { s with mgmt := { s.mgmt with linkUp := false } }

theorem refclkLoss_loses (hok : s.flag F.CLK_STATUS_REFCLK_OK = true) : Gives (.refclkLoss t) s fun u =>
    u.flag F.CLK_STATUS_REFCLK_OK = false ∧ u.flag F.CLK_SOURCE_LOST_REFCLK = true ∧ u.mgmt.linkUp = false ∧ u.store = s.store := by
  have hgo : ¬ (!(s.upto t).flag F.CLK_STATUS_REFCLK_OK ∨ (s.upto t).clk.off) := by
    show ¬ (!s.flag F.CLK_STATUS_REFCLK_OK ∨ s.clk.off)
    rw [hok, hoff]
    decide
  have hlost := OnlyEvents.of_sourceLost ((mgmtLinkDown (s.upto t)).setFlag F.CLK_STATUS_REFCLK_OK false) F.CLK_SOURCE_LOST_REFCLK
  refine ⟨(sourceLost ((mgmtLinkDown (s.upto t)).setFlag F.CLK_STATUS_REFCLK_OK false) F.CLK_SOURCE_LOST_REFCLK).bumpSat F.CLK_SOURCE_LOST_REFCLK_EVENTS,
    congrArg Host.Outcome.next ((if_neg hgo).trans rfl), ?_, ?_, hlost.linkUp, hlost.store⟩
  · rw [State.flag, State.get_bumpSat_ne _ _ (by decide), hlost.get _ (by decide), State.get_setFlag_ne _ _ (by decide)]
    exact State.flag_setFlag_same _ F.CLK_STATUS_REFCLK_OK false (by decide)
  · rw [State.flag, State.get_bumpSat_ne _ _ (by decide)]
    exact (hlost.flag (by decide)).trans (State.flag_setFlag_same _ F.CLK_SOURCE_LOST_REFCLK true (by decide))

/-- A port loop that had no reference locks to REFCLK. -/
def relocked (e : Nat × Nat) : Nat × Nat := if e.2 = 2 then (e.1, 1) else e

omit hoff in
theorem relocked_ne (e : Nat × Nat) : (relocked e).2 ≠ 2 := by
  unfold relocked
  split
  case isTrue => exact fun h => absurd h (by decide : (1 : Nat) ≠ 2)
  case isFalse hne => exact hne

/-- REFCLK is valid again, with the management port's link and the port loops. -/
def refclkBack (s : State) : State :=
  ({ s with mgmt := { s.mgmt with linkUp := true }, clk := { s.clk with portRef := s.clk.portRef.map relocked } } : State).setFlag
    F.CLK_STATUS_REFCLK_OK true

theorem refclkReturn_back (hlost : s.flag F.CLK_STATUS_REFCLK_OK = false) : Gives (.refclkReturn t) s fun u =>
    u.flag F.CLK_STATUS_REFCLK_OK = true ∧ u.mgmt.linkUp = true ∧ (∀ e ∈ u.clk.portRef, e.2 ≠ 2) ∧ u.store = s.store := by
  have hgo : ¬ ((s.upto t).flag F.CLK_STATUS_REFCLK_OK ∨ (s.upto t).clk.off) := by
    show ¬ (s.flag F.CLK_STATUS_REFCLK_OK ∨ s.clk.off)
    rw [hlost, hoff]
    decide
  have hlinks := portsLink_beside (refclkBack (s.upto t))
  have href : (portsLink (refclkBack (s.upto t))).clk.portRef = s.clk.portRef.map relocked :=
    besideLinking_proj hlinks (fun u => u.clk.portRef) fun _ => rfl
  refine ⟨portsLink (refclkBack (s.upto t)), congrArg Host.Outcome.next (if_neg hgo), ?_, ?_, fun e he => ?_, ?_⟩
  · rw [State.flag, portsLink_get (by decide)]
    exact State.flag_setFlag_same _ F.CLK_STATUS_REFCLK_OK true (by decide)
  · exact besideLinking_proj hlinks (fun u => u.mgmt.linkUp) fun _ => rfl
  · rw [href] at he
    obtain ⟨x, -, rfl⟩ := List.mem_map.1 he
    exact relocked_ne x
  · exact besideLinking_proj hlinks State.store fun _ => rfl

/-- A loop that locks takes a time of its own. -/
def loopRelocked (s : State) (k : Nat) : State := if loopLocked s k then ({ s with free := s.free + 1 } : State).set (loopLock k) (Config.pick s.free) else s

/-- The three loops lock again. -/
def loopsRelocked (s : State) : State := (List.range 3).foldl loopRelocked s

omit hoff in
theorem loopRelocked_clk (s : State) (k : Nat) : (loopRelocked s k).clk = s.clk := by
  unfold loopRelocked
  split <;> rfl

omit hoff in
theorem loopsRelocked_clk (s : State) : (loopsRelocked s).clk = s.clk :=
  List.foldlRecOn (motive := fun u : State => u.clk = s.clk) (List.range 3) loopRelocked rfl fun u h k _ => (loopRelocked_clk u k).trans h

omit hoff in
theorem loopRelocked_get {f : Fld} (s : State) (k : Fin 3) (hf : f.key ≠ (loopLock k).key) : (loopRelocked s k).get f = s.get f := by
  unfold loopRelocked
  split
  · exact State.get_set_ne _ _ hf
  · rfl

omit hoff in
theorem loopsRelocked_get {f : Fld} (hf : ∀ k : Fin 3, f.key ≠ (loopLock k).key) (s : State) : (loopsRelocked s).get f = s.get f :=
  (loopRelocked_get _ 2 (hf 2)).trans ((loopRelocked_get _ 1 (hf 1)).trans (loopRelocked_get s 0 (hf 0)))

/-- XTAL is valid again. -/
def xtalShown (s : State) : State := (s.setFlag F.CLK_STATUS_XTAL_OK true).set F.CLK_STATUS_XTAL_STABLE_MS (nowMs s)

/-- Coasting since `a` ends. -/
def coastEnded (s : State) (a : Nat) : State := (s.setFlag F.CLK_STATUS_COASTING false).raiseTo F.CLK_SOURCE_LOST_COAST_MS ((s.now - a) / 1000000)

/-- Memories and port loops are back on XTAL. -/
def fullRate (s : State) : State := { s with clk := { s.clk with coastAt := none, slowMem := false, portRef := [] } }

/-- The state in which the return of XTAL shows. -/
def xtalBack (s : State) (a : Nat) : State := fullRate (coastEnded (xtalShown s) a)

omit hoff in
theorem fullRate_get (s : State) (f : Fld) : (fullRate s).get f = s.get f := rfl

omit hoff in
theorem coastEnded_get {f : Fld} (hcoast : f.key ≠ F.CLK_STATUS_COASTING.key) (hms : f.key ≠ F.CLK_SOURCE_LOST_COAST_MS.key) (s : State) (a : Nat) :
    (coastEnded s a).get f = s.get f := by
  rw [coastEnded, State.get_raiseTo_ne _ _ hms, State.get_setFlag_ne _ _ hcoast]

omit hoff in
theorem xtalShown_get {f : Fld} (hok : f.key ≠ F.CLK_STATUS_XTAL_OK.key) (hstable : f.key ≠ F.CLK_STATUS_XTAL_STABLE_MS.key) (s : State) :
    (xtalShown s).get f = s.get f := by
  rw [xtalShown, State.get_set_ne _ _ hstable, State.get_setFlag_ne _ _ hok]

omit hoff in
theorem xtalBack_get {f : Fld} (hf : f.key ∉ [F.CLK_STATUS_XTAL_OK.key, F.CLK_STATUS_XTAL_STABLE_MS.key, F.CLK_STATUS_COASTING.key,
    F.CLK_SOURCE_LOST_COAST_MS.key]) (s : State) (a : Nat) : (xtalBack s a).get f = s.get f := by
  simp only [List.mem_cons, List.not_mem_nil, or_false, not_or] at hf
  obtain ⟨hok, hstable, hcoast, hms⟩ := hf
  rw [xtalBack, fullRate_get, coastEnded_get hcoast hms, xtalShown_get hok hstable]

omit hoff in
theorem xtalBack_xtal (s : State) (a : Nat) : (xtalBack s a).flag F.CLK_STATUS_XTAL_OK = true := by
  rw [State.flag, xtalBack, fullRate_get, coastEnded_get (by decide) (by decide), xtalShown, State.get_set_ne _ _ (by decide)]
  exact State.flag_setFlag_same s F.CLK_STATUS_XTAL_OK true (by decide)

omit hoff in
theorem xtalBack_coasting (s : State) (a : Nat) : (xtalBack s a).flag F.CLK_STATUS_COASTING = false := by
  rw [State.flag, xtalBack, fullRate_get, coastEnded, State.get_raiseTo_ne _ _ (by decide)]
  exact State.flag_setFlag_same _ F.CLK_STATUS_COASTING false (by decide)

theorem exec_xtalReturn {a : Nat} (hlost : s.flag F.CLK_STATUS_XTAL_OK = false) (htest : s.clk.testing = false)
    (hstable : s.get F.CLK_STATUS_XTAL_STABLE_MS ≠ 0) (hcoast : s.clk.coastAt = some a) :
    exec (.xtalReturn t) s = .next (portsLink (retune (loopsRelocked (xtalBack (s.upto t) a)))) := by
  have hgo : ¬ ((s.upto t).flag F.CLK_STATUS_XTAL_OK ∨ (s.upto t).clk.off ∨ (s.upto t).clk.testing ∨
      (s.upto t).get F.CLK_STATUS_XTAL_STABLE_MS = 0) := by
    show ¬ (s.flag F.CLK_STATUS_XTAL_OK ∨ s.clk.off ∨ s.clk.testing ∨ s.get F.CLK_STATUS_XTAL_STABLE_MS = 0)
    rw [hlost, hoff, htest]
    simp only [Bool.false_eq_true, false_or, hstable, not_false_iff]
  have hcoast' : (((s.upto t).setFlag F.CLK_STATUS_XTAL_OK true).set F.CLK_STATUS_XTAL_STABLE_MS (nowMs (s.upto t))).clk.coastAt = some a := hcoast
  show execXtalReturn t s = _
  unfold execXtalReturn
  dsimp only
  rw [if_neg hgo, hcoast']
  rfl

theorem xtalReturn_ends {a : Nat} (hlost : s.flag F.CLK_STATUS_XTAL_OK = false) (htest : s.clk.testing = false)
    (hstable : s.get F.CLK_STATUS_XTAL_STABLE_MS ≠ 0) (hcoast : s.clk.coastAt = some a) : Gives (.xtalReturn t) s fun u =>
      u.flag F.CLK_STATUS_XTAL_OK = true ∧ u.flag F.CLK_STATUS_COASTING = false ∧ u.clk.coastAt = none ∧ u.clk.slowMem = false ∧
      u.clk.portRef = [] ∧ ∀ k : Fin 3, s.get (loopState k) = 2 → u.get (loopFreq k) = [1200, 2000, 1600].getD k.val 0 := by
  have hclk : (portsLink (retune (loopsRelocked (xtalBack (s.upto t) a)))).clk = (xtalBack (s.upto t) a).clk :=
    (besideLinking_proj (portsLink_beside _) State.clk fun _ => rfl).trans
      ((besideFields_proj (retune_beside _) State.clk fun _ => rfl).trans (loopsRelocked_clk _))
  have hfull : (loopsRelocked (xtalBack (s.upto t) a)).flag F.CLK_STATUS_COASTING = false := by
    rw [State.flag, loopsRelocked_get (by decide)]
    exact xtalBack_coasting _ _
  refine ⟨_, exec_xtalReturn hoff hlost htest hstable hcoast, ?_, ?_, congrArg Clk.coastAt hclk, congrArg Clk.slowMem hclk, congrArg Clk.portRef hclk,
    fun k hk => ?_⟩
  · rw [State.flag, portsLink_get (by decide), retune_get (by decide), loopsRelocked_get (by decide)]
    exact xtalBack_xtal _ _
  · rw [State.flag, portsLink_get (by decide), retune_get (by decide)]
    exact hfull
  · have hstate : (loopsRelocked (xtalBack (s.upto t) a)).get (loopState k) = 2 := by
      rw [loopsRelocked_get fun m => (loopKeys_ne k m).2.1, xtalBack_get (backKeys_apart k)]
      exact hk
    rw [portsLink_get (loopFreq_below k), retune_get_freq hstate, loopMhz_full hfull k]

/-! ### The trim of IOSC (R634, R635) -/

omit hoff in
theorem signedBits_lt (w : Nat) (v : Int) : signedBits w v < 2 ^ w := by
  have hpos : (0 : Int) < 2 ^ w := by positivity
  have hlt := Int.emod_lt_of_pos (max (-(2 ^ (w - 1) : Int)) (min v (2 ^ (w - 1) - 1))) hpos
  rw [signedBits, Int.toNat_lt' (Nat.two_pow_pos w)]
  exact_mod_cast hlt

/-- The registers of the trim after a window. -/
def trimmed (s : State) (ppm : Int) : State :=
  ((s.bump F.CLK_IOSC_TRIM_WINDOWS).set F.CLK_IOSC_TRIM_ERR_PPM (signedBits 16 ppm)).set F.CLK_IOSC_TRIM_CODE
    (signedBits 8 (trimStep (signedOf 8 (s.get F.CLK_IOSC_TRIM_CODE)) ppm))

theorem ioscTrimWindow_trims {marks : Bool} {ppm : Int} (hawake : s.get F.PWR_STATUS_STATE ≠ 2) (href : trimRef s = (if marks then 2 else 1)) :
    Gives (.ioscTrimWindow marks ppm t) s fun u =>
      u.get F.CLK_IOSC_TRIM_CODE = signedBits 8 (trimStep (signedOf 8 (s.get F.CLK_IOSC_TRIM_CODE)) ppm) ∧
      u.get F.CLK_IOSC_TRIM_ERR_PPM = signedBits 16 ppm ∧
      u.get F.CLK_IOSC_TRIM_WINDOWS = (s.get F.CLK_IOSC_TRIM_WINDOWS + 1) % 2 ^ 32 := by
  have hgo : ¬ ((s.upto t).clk.off ∨ (s.upto t).get F.PWR_STATUS_STATE = 2 ∨ trimRef (s.upto t) ≠ (if marks then 2 else 1)) := by
    show ¬ (s.clk.off ∨ s.get F.PWR_STATUS_STATE = 2 ∨ trimRef s ≠ (if marks then 2 else 1))
    rw [hoff, href]
    simp only [Bool.false_eq_true, hawake, ne_eq, not_true_eq_false, or_self, not_false_iff]
  refine ⟨trimmed (s.upto t) ppm, congrArg Host.Outcome.next (if_neg hgo), ?_, ?_, ?_⟩
  · exact get_set_of_lt rfl (signedBits_lt 8 _)
  · rw [trimmed, State.get_set_ne _ _ (by decide)]
    exact get_set_of_lt rfl (signedBits_lt 16 _)
  · rw [trimmed, State.get_set_ne _ _ (by decide), State.get_set_ne _ _ (by decide)]
    exact State.get_bump_same _ _ _

end

/-- Settles O27: the test of XTAL, the core loops, the sources lost and returned, and the trim. -/
theorem clocksStartCoastReturn : Obligations.ClocksStartCoastReturn := by
  refine ⟨fun s t hoff => ⟨exec_xtalTestStart hoff, xtalStable_accepts hoff, xtalStartTimeout_lost hoff,
    fun k ns hstart hawake href => pllLocked_locks hstart hawake href, fun engines => ?_⟩, fun s t hoff => ⟨xtalLoss_coasts hoff,
    fun p a hcoast href => ⟨exec_portLoopHoldover_early hcoast, exec_portLoopHoldover_refclk hcoast href, exec_portLoopHoldover_unlocks hcoast href⟩,
    refclkLoss_loses hoff, refclkReturn_back hoff, fun hlost htest hstable a hcoast => xtalReturn_ends hoff hlost htest hstable hcoast,
    fun marks ppm hawake href => ioscTrimWindow_trims hoff hawake href⟩⟩
  cases engines
  · exact fun hawake hlocked => ⟨fun hidle => ⟨_, exec_pllIdleStop_stops hawake hlocked hidle, loopStops_idle _ _⟩, exec_pllIdleStop_busy⟩
  · exact fun hawake hlocked => ⟨fun hidle => ⟨_, exec_pllIdleStop_stops hawake hlocked hidle, loopStops_idle _ _⟩, exec_pllIdleStop_busy⟩

end Sys2Proof.Machine
end

section
/-! SUPPORT. DEEP_IDLE (spec/16, R646 to R655): its entry where nothing is in flight, its end, and the always-on domain; and the limits of power and
temperature (R677 to R683). -/

namespace Sys2Proof.Machine

open Sys2Proof

/-! ### The result of an entry (R648, R650) -/

/-- The fields that show the result of an entry. -/
def resultShown (s : State) (c : Code) (why : Nat) : State :=
  ((s.setFlag F.PWR_STATUS_ENTERING false).set F.PWR_STATUS_RESULT (codeNum c)).set F.PWR_STATUS_DENY_REASON why

theorem OnlyEvents.of_deepResult (s : State) (c : Code) (why : Nat) : OnlyEvents (resultShown s c why) (deepResult s c why) := OnlyEvents.raiseIrq _ 4

theorem resultShown_get {f : Fld} (hf : f.key ∉ [F.PWR_STATUS_ENTERING.key, F.PWR_STATUS_RESULT.key, F.PWR_STATUS_DENY_REASON.key]) (s : State)
    (c : Code) (why : Nat) : (resultShown s c why).get f = s.get f := by
  simp only [List.mem_cons, List.not_mem_nil, or_false, not_or] at hf
  obtain ⟨hentering, hresult, hwhy⟩ := hf
  rw [resultShown, State.get_set_ne _ _ hwhy, State.get_set_ne _ _ hresult, State.get_setFlag_ne _ _ hentering]

theorem resultShown_beside (s : State) (c : Code) (why : Nat) : besideFields (resultShown s c why) = besideFields s := rfl

theorem deepResult_get {f : Fld} (hf : f.key ∉ [F.PWR_STATUS_ENTERING.key, F.PWR_STATUS_RESULT.key, F.PWR_STATUS_DENY_REASON.key])
    (hquiet : f.key ∉ eventKeys) (s : State) (c : Code) (why : Nat) : (deepResult s c why).get f = s.get f :=
  ((OnlyEvents.of_deepResult s c why).get f hquiet).trans (resultShown_get hf s c why)

theorem deepResult_shows (s : State) (c : Code) {why : Nat} (hwhy : why < 16) : (deepResult s c why).flag F.PWR_STATUS_ENTERING = false ∧
    (deepResult s c why).get F.PWR_STATUS_RESULT = codeNum c % 2 ^ 8 ∧ (deepResult s c why).get F.PWR_STATUS_DENY_REASON = why := by
  have hevents := OnlyEvents.of_deepResult s c why
  refine ⟨(hevents.flag (by decide)).trans ?_, (hevents.get _ (by decide)).trans ?_, (hevents.get _ (by decide)).trans (get_set_of_lt rfl hwhy)⟩
  · rw [resultShown, State.flag_set_ne _ _ (by decide), State.flag_set_ne _ _ (by decide)]
    exact State.flag_setFlag_same _ F.PWR_STATUS_ENTERING false (by decide)
  · rw [resultShown, State.get_set_ne _ _ (by decide)]
    exact State.get_set_same _ _ _

/-- The reasons against an entry are numbered 1 to 6. -/
theorem deepDenied_lt {s : State} {r : Nat} (h : deepDenied s = some r) : r < 16 := by
  unfold deepDenied at h
  dsimp only at h
  split_ifs at h <;> cases h <;> decide

/-! ### The entry (R648, R649) -/

/-- A state without its register fields and what has been sent. -/
def besideShown (s : State) : State := { s with regs := [], out := [] }

theorem besideShown_set (s : State) (f : Fld) (v : Nat) : besideShown (s.set f v) = besideShown s := rfl

theorem besideShown_emit (s : State) (o : Out) : besideShown (s.emit o) = besideShown s := rfl

theorem besideShown_proj {s t : State} (h : besideShown t = besideShown s) {α : Type} (part : State → α)
    (hpart : ∀ u, part (besideShown u) = part u) : part t = part s := by
  rw [← hpart t, h, hpart s]

theorem setLinkSt_beside (s : State) (p l v : Nat) : besideShown (setLinkSt s p l v) = besideShown s := rfl

theorem leftSet_beside (s : State) (p l : Nat) : besideShown (leftSet s p l) = besideShown s := rfl

/-- Every port is DOWN. -/
def portsDown (s : State) : Prop := ∀ p : Fin 6, s.get (F.KZP_STATUS_STATE p) = 0

theorem staysUp_of_down {s : State} {p : Nat} (h : s.get (F.KZP_STATUS_STATE p) = 0) : StaysUp s p := Or.inl (by rw [h]; decide)

/-- A link of a port that is DOWN goes out with no more than its own registers and a message. -/
theorem linkOut_beside {s : State} {p : Nat} (h : s.get (F.KZP_STATUS_STATE p) = 0) (l v why : Nat) :
    besideShown (linkOut s p l v why) = besideShown s := by
  rw [linkOut, leaveSet_of_staysUp (staysUp_linkGoes (staysUp_of_down h))]
  split
  · rfl
  · exact leftSet_beside _ _ _

/-- No port's STATE is among the registers that a link going out changes. -/
theorem linkOut_portState {s : State} {p l : Nat} (h : s.get (F.KZP_STATUS_STATE p) = 0) (v why q : Nat) :
    (linkOut s p l v why).get (F.KZP_STATUS_STATE q) = s.get (F.KZP_STATUS_STATE q) := by
  have hhazy : (F.KZP_STATUS_STATE q).key ≠ (F.KZP_STATUS_HAZY p).key := by
    simp only [F.KZP_STATUS_STATE_key, F.KZP_STATUS_HAZY_key]
    omega
  have hset : (F.KZP_STATUS_STATE q).key ≠ (F.KZP_STATUS_LINK_SET p).key := by
    simp only [F.KZP_STATUS_STATE_key, F.KZP_STATUS_LINK_SET_key]
    omega
  have hstate : (F.KZP_STATUS_STATE q).key ≠ (F.KZP_L_STATUS_STATE p l).key := by
    simp only [F.KZP_STATUS_STATE_key, F.KZP_L_STATUS_STATE_key]
    omega
  have hwhy : (F.KZP_STATUS_STATE q).key ≠ (F.KZP_L_STATUS_REASON p l).key := by
    simp only [F.KZP_STATUS_STATE_key, F.KZP_L_STATUS_REASON_key]
    omega
  exact (leaveSet_get (staysUp_linkGoes (staysUp_of_down h)) hset).trans ((State.get_set_ne _ _ hwhy).trans (setLinkSt_get hhazy hstate))

/-- The links of a port that are not OFF go out. -/
def linksDark (s : State) (p : Nat) : State :=
  sixLinks.foldl (fun s l => if 1 ≤ linkSt s p l ∧ linkSt s p l ≤ 4 then linkOut s p l 1 1 else s) s

/-- From `s` to `u` links have gone out, with every port DOWN. -/
def WentDark (s u : State) : Prop := besideShown u = besideShown s ∧ portsDown u

theorem linksDark_dark {s u : State} (h : WentDark s u) {p : Nat} (hp : p < 6) : WentDark s (linksDark u p) :=
  List.foldlRecOn (motive := WentDark s) sixLinks _ h fun w hw l _ => by
    obtain ⟨hbeside, hdown⟩ := hw
    have hzero := hdown ⟨p, hp⟩
    split
    · exact ⟨(linkOut_beside hzero l 1 1).trans hbeside, fun q => (linkOut_portState hzero 1 1 q).trans (hdown q)⟩
    · exact ⟨hbeside, hdown⟩

/-- Every light goes out. -/
def lightsDark (s : State) : State := ((List.range 6).foldl linksDark s).emit (.pin "LSM_OUTPUTS" false)

theorem lightsDark_beside {s : State} (h : portsDown s) : besideShown (lightsDark s) = besideShown s :=
  (besideShown_emit _ _).trans
    (List.foldlRecOn (motive := WentDark s) (List.range 6) linksDark ⟨rfl, h⟩ fun _ hu _ hp => linksDark_dark hu (List.mem_range.1 hp)).1

/-- The tiles and arrays without power. -/
def chipDark (s : State) : State := (List.range 64).foldl tileOff (arraysOff s)

/-- A state without its register fields, its tiles and the count of free values. -/
def besideTiles (s : State) : State := { s with regs := [], free := 0, plane := {} }

theorem tileOff_beside (s : State) (g : Nat) : besideTiles (tileOff s g) = besideTiles s := rfl

theorem besideTiles_proj {s t : State} (h : besideTiles t = besideTiles s) {α : Type} (part : State → α)
    (hpart : ∀ u, part (besideTiles u) = part u) : part t = part s := by
  rw [← hpart t, h, hpart s]

theorem chipDark_beside (s : State) : besideTiles (chipDark s) = besideTiles (arraysOff s) :=
  List.foldlRecOn (motive := fun u : State => besideTiles u = besideTiles (arraysOff s)) _ tileOff rfl fun u h g _ => (tileOff_beside u g).trans h

theorem tileOff_portState (s : State) (g : Nat) (p : Fin 6) : (tileOff s g).get (F.KZP_STATUS_STATE p) = s.get (F.KZP_STATUS_STATE p) := by
  obtain ⟨hstate, hon, hret⟩ := tileState_key g
  have hkey := F.KZP_STATUS_STATE_key p
  rw [tileOff, State.get_set_ne _ _ (by omega), State.get_set_ne _ _ (by omega), State.get_set_ne _ _ (by omega)]
  rfl

/-- With no line dirty over a far granule nothing is stored. -/
theorem storeDirty_none {s : State} (h : s.store.dirty = []) : storeDirty s = s := by
  rw [storeDirty, h]
  rfl

/-- The arrays as they go OFF (R656). -/
def arraysCleared (s : State) : State :=
  { s with
    cache := { s.cache with track := [] }
    dir := { s.dir with cache := [] }
    rings := { s.rings with cache := [] }
    xlt := { s.xlt with tlb := [], segCache := [] } }

theorem arraysOff_none {s : State} (h : s.store.dirty = []) : arraysOff s = arraysCleared s := by
  rw [arraysOff, storeDirty_none h]
  rfl

theorem chipDark_portsDown {s : State} (hdirty : s.store.dirty = []) (h : portsDown s) : portsDown (chipDark s) := fun p => by
  refine (foldl_get (fun u g => tileOff_portState u g p) _ _).trans ?_
  rw [arraysOff_none hdirty]
  exact h p

/-- A core loop is off. -/
def loopOff (s : State) (k : Nat) : State := (s.set (loopState k) 0).set (loopFreq k) 0

/-- The three core loops are off. -/
def loopsOff (s : State) : State := (List.range 3).foldl loopOff s

theorem loopsOff_beside (s : State) : besideFields (loopsOff s) = besideFields s :=
  List.foldlRecOn (motive := fun u : State => besideFields u = besideFields s) _ loopOff rfl fun _ h _ _ => h

theorem loopOff_get_state (s : State) (k : Fin 3) : (loopOff s k).get (loopState k) = 0 := by
  rw [loopOff, State.get_set_ne _ _ (loopKeys_ne k k).1]
  exact get_set_of_lt (loop_wid k).1 (by decide)

theorem loopStates_ne : ∀ k m : Fin 3, k ≠ m → (loopState k).key ≠ (loopState m).key := by decide

theorem loopOff_keeps {s : State} {k : Fin 3} (h : s.get (loopState k) = 0) (m : Fin 3) : (loopOff s m).get (loopState k) = 0 := by
  obtain rfl | hne := eq_or_ne k m
  · exact loopOff_get_state s k
  · rw [loopOff, State.get_set_ne _ _ (loopKeys_ne k m).1, State.get_set_ne _ _ (loopStates_ne k m hne)]
    exact h

theorem loopsOff_get_state : ∀ (s : State) (k : Fin 3), (loopsOff s).get (loopState k) = 0
  | s, 0 => loopOff_keeps (k := 0) (loopOff_keeps (k := 0) (loopOff_get_state s 0) 1) 2
  | s, 1 => loopOff_keeps (k := 1) (loopOff_get_state (loopOff s 0) 1) 2
  | s, 2 => loopOff_get_state (loopOff (loopOff s 0) 1) 2

/-- DEEP_IDLE begins now, with every engine gated. -/
def deepBegins (s : State) : State :=
  (({ s with clk := { s.clk with gated := List.range 20, deepAt := s.now } } : State).set F.PWR_STATUS_STATE 2).bumpSat F.PWR_STATS_DEEP_ENTRIES

theorem deepBegins_parts (s : State) : (deepBegins s).xlt = s.xlt ∧ (deepBegins s).rings = s.rings ∧ (deepBegins s).store = s.store ∧
    (deepBegins s).clk.deepAt = s.now := ⟨rfl, rfl, rfl, rfl⟩

theorem deepBegins_get {f : Fld} (hstate : f.key ≠ F.PWR_STATUS_STATE.key) (hcount : f.key ≠ F.PWR_STATS_DEEP_ENTRIES.key) (s : State) :
    (deepBegins s).get f = s.get f := (State.get_bumpSat_ne _ _ hcount).trans (State.get_set_ne _ _ hstate)

/-- The state in which DEEP_IDLE is reached. -/
def deepReached (s : State) : State := deepBegins (loopsOff (lightsDark (chipDark s)))

/-- Nothing need be recalled, written back or sent. -/
structure AtRest (s : State) : Prop where
  ents : s.dir.ents = []
  txns : s.dir.txns = []
  down : portsDown s
  guests : s.cache.guests = []
  wbs : s.cache.wbs = []
  dirty : s.store.dirty = []

/-- Where nothing need be recalled, written back or sent, DEEP_IDLE is reached at once. -/
theorem deepGo_atRest {s : State} (h : AtRest s) : deepGo s = deepResult (deepReached s) .ok 0 := by
  have hdown : (List.range 6).foldl (fun s p => goDown s p 1 true) s = s := ports_goDown_of_down h.down 1 true
  have hback : (List.range 4).foldl (fun s n => writeBacks s n (guestLines s n) true) s = s :=
    List.foldlRecOn (motive := fun u : State => u = s) _ _ rfl fun u hu n _ => by
      rw [hu, guestLines_none h.guests, writeBacks_none h.wbs]
  have hopen : backsOpen s [0, 1, 2, 3] = false := by
    rw [backsOpen, h.wbs]
    rfl
  unfold deepGo
  rw [evictRange_none h.ents h.txns]
  dsimp only
  rw [if_neg (by rw [h.txns]; decide), hdown, hback, if_neg (by rw [hopen]; decide)]
  delta deepReached deepBegins loopsOff loopOff lightsDark linksDark chipDark
  rfl

/-- What stands beside the registers when DEEP_IDLE is reached. -/
theorem deepReached_beside {s : State} (h : AtRest s) : (deepReached s).xlt = (arraysCleared s).xlt ∧ (deepReached s).rings = (arraysCleared s).rings ∧
    (deepReached s).store = s.store ∧ (deepReached s).clk.deepAt = s.now := by
  have hloops := loopsOff_beside (lightsDark (chipDark s))
  have hlights := lightsDark_beside (chipDark_portsDown h.dirty h.down)
  have hchip := chipDark_beside s
  rw [arraysOff_none h.dirty] at hchip
  have hpart : ∀ {α : Type} (part : State → α), (∀ u, part (besideFields u) = part u) → (∀ u, part (besideShown u) = part u) →
      (∀ u, part (besideTiles u) = part u) → part (loopsOff (lightsDark (chipDark s))) = part (arraysCleared s) := fun part hf hs ht =>
    (besideFields_proj hloops part hf).trans ((besideShown_proj hlights part hs).trans (besideTiles_proj hchip part ht))
  obtain ⟨hxlt, hrings, hstore, hat⟩ := deepBegins_parts (loopsOff (lightsDark (chipDark s)))
  exact ⟨hxlt.trans (hpart State.xlt (fun _ => rfl) (fun _ => rfl) fun _ => rfl), hrings.trans (hpart State.rings (fun _ => rfl) (fun _ => rfl) fun _ => rfl),
    hstore.trans (hpart State.store (fun _ => rfl) (fun _ => rfl) fun _ => rfl), hat.trans (hpart State.now (fun _ => rfl) (fun _ => rfl) fun _ => rfl)⟩

theorem pwrFields_apart : ∀ k : Fin 3, (loopState k).key ∉ [F.PWR_STATUS_ENTERING.key, F.PWR_STATUS_RESULT.key, F.PWR_STATUS_DENY_REASON.key] ∧
    (loopState k).key ≠ F.PWR_STATUS_STATE.key ∧ (loopState k).key ≠ F.PWR_STATS_DEEP_ENTRIES.key := by decide

/-- What the device shows in DEEP_IDLE, and what it has dropped (R649, R656). -/
theorem deepReached_shows {s : State} (h : AtRest s) : let u := deepResult (deepReached s) .ok 0
    u.get F.PWR_STATUS_STATE = 2 ∧ u.get F.PWR_STATUS_RESULT = 0 ∧ (∀ k : Fin 3, u.get (loopState k) = 0) ∧
    u.xlt.tlb = [] ∧ u.xlt.segCache = [] ∧ u.rings.cache = [] ∧ u.clk.deepAt = s.now ∧ u.store.mem = s.store.mem := by
  have hevents := OnlyEvents.of_deepResult (deepReached s) .ok 0
  obtain ⟨hxlt, hrings, hstore, hat⟩ := deepReached_beside h
  obtain ⟨-, hresult, -⟩ := deepResult_shows (deepReached s) .ok (why := 0) (by decide)
  have hstate : (deepReached s).get F.PWR_STATUS_STATE = 2 := (State.get_bumpSat_ne _ _ (by decide)).trans (State.get_set_same _ _ _)
  have hshown : ∀ {α : Type} (part : State → α), (∀ u, part (besideFields u) = part u) →
      part (resultShown (deepReached s) .ok 0) = part (deepReached s) := fun part hpart =>
    besideFields_proj (resultShown_beside _ _ _) part hpart
  refine ⟨?_, hresult, fun k => ?_, ?_, ?_, ?_, ?_, ?_⟩
  · exact (deepResult_get (by decide) (by decide) _ _ _).trans hstate
  · obtain ⟨hfields, hpwr, hcount⟩ := pwrFields_apart k
    exact (deepResult_get hfields (loopState_not_event k) _ _ _).trans ((deepBegins_get hpwr hcount _).trans (loopsOff_get_state _ k))
  · exact hevents.tlb.trans ((hshown (fun u => u.xlt.tlb) fun _ => rfl).trans (congrArg Xlt.tlb hxlt))
  · exact hevents.segCache.trans ((hshown (fun u => u.xlt.segCache) fun _ => rfl).trans (congrArg Xlt.segCache hxlt))
  · exact hevents.ringCache.trans ((hshown (fun u => u.rings.cache) fun _ => rfl).trans (congrArg Rings.cache hrings))
  · exact (congrArg Clk.deepAt hevents.clk).trans ((hshown (fun u => u.clk.deepAt) fun _ => rfl).trans hat)
  · exact (congrArg Store.mem hevents.store).trans ((hshown (fun u => u.store.mem) fun _ => rfl).trans (congrArg Store.mem hstore))

section
variable {s : State} {t : Nat} (hopen : PortOpen s) (hawake : awake s = true) (hlocked : loopLocked s 1 = true)
  (hidle : s.flag F.PWR_STATUS_ENTERING = false)
include hopen hawake hlocked hidle

/-- An entry that is asked for is refused with its first reason, or goes on. -/
theorem exec_enterDeep : exec (.enterDeep t) s = .next (match deepDenied s with
    | some r => deepResult (answeredState (s.upto t)) .denied r
    | none => deepGo ((answeredState (s.upto t)).setFlag F.PWR_STATUS_ENTERING true)) := by
  have hgo : ¬ (!awake (answeredState (s.upto t)) ∨ !loopLocked (answeredState (s.upto t)) 1) := by
    show ¬ (!awake s ∨ !loopLocked s 1)
    rw [hawake, hlocked]
    decide
  have hnot : ¬ (answeredState (s.upto t)).flag F.PWR_STATUS_ENTERING = true := ne_true_of_eq_false hidle
  refine (congrArg Host.Outcome.next (mgmtWrite_open (hopen.upto t) true enterDeep)).trans (congrArg Host.Outcome.next ?_)
  unfold enterDeep
  rw [if_neg hgo, if_neg hnot]
  rfl

theorem enterDeep_refused {r : Nat} (hno : deepDenied s = some r) : Gives (.enterDeep t) s fun u =>
    u.get F.PWR_STATUS_RESULT = 8 ∧ u.get F.PWR_STATUS_DENY_REASON = r ∧ u.get F.PWR_STATUS_STATE = s.get F.PWR_STATUS_STATE ∧ u.store = s.store := by
  have hexec := exec_enterDeep (t := t) hopen hawake hlocked hidle
  rw [hno] at hexec
  obtain ⟨-, hresult, hwhy⟩ := deepResult_shows (answeredState (s.upto t)) .denied (deepDenied_lt hno)
  exact ⟨_, hexec, hresult, hwhy, deepResult_get (by decide) (by decide) _ _ _, (OnlyEvents.of_deepResult (answeredState (s.upto t)) .denied r).store⟩

theorem enterDeep_reached (hmay : deepDenied s = none) (hrest : AtRest s) : Gives (.enterDeep t) s fun u =>
    u.get F.PWR_STATUS_STATE = 2 ∧ u.get F.PWR_STATUS_RESULT = 0 ∧ (∀ k : Fin 3, u.get (loopState k) = 0) ∧
    u.xlt.tlb = [] ∧ u.xlt.segCache = [] ∧ u.rings.cache = [] ∧ u.clk.deepAt = max s.now t ∧ u.store.mem = s.store.mem := by
  have hexec := exec_enterDeep (t := t) hopen hawake hlocked hidle
  have hdown : portsDown ((answeredState (s.upto t)).setFlag F.PWR_STATUS_ENTERING true) := fun p =>
    (State.get_setFlag_ne _ _ (ne_of_gt (lt_of_lt_of_le (by decide) (portKeys_le_of_block (b := 0x12008) rfl (by decide))))).trans (hrest.down p)
  have hstart : AtRest ((answeredState (s.upto t)).setFlag F.PWR_STATUS_ENTERING true) :=
    ⟨hrest.ents, hrest.txns, hdown, hrest.guests, hrest.wbs, hrest.dirty⟩
  rw [hmay] at hexec
  dsimp only at hexec
  rw [deepGo_atRest hstart] at hexec
  exact ⟨_, hexec, deepReached_shows hstart⟩

end

/-! ### The end of DEEP_IDLE, and of an entry (R650 to R653) -/

/-- The device in IDLE for a cause, its memories and ports on the reference there is. -/
def deepLeft (s : State) (cause : Nat) : State :=
  let s := ((s.set F.PWR_STATUS_STATE 1).set F.PWR_WAKE_CAUSE cause).bump F.PWR_STATS_DEEP_S ((s.now - s.clk.deepAt) / 1000000000)
  let coast := !s.flag F.CLK_STATUS_XTAL_OK
  { s with free := s.free + 1, clk := { s.clk with coastAt := if coast then some s.now else none, slowMem := coast, portRef := [] } }

/-- PLL-X has started and locked. -/
def pllxLocked (s : State) (coast : Bool) (ns : Nat) : State :=
  (((s.setFlag F.CLK_STATUS_COASTING coast).set F.CLK_PLL_X_STATE 2).bump F.CLK_PLL_X_STARTS).set F.CLK_PLL_X_LAST_LOCK_NS ns

/-- PLL-X runs at the frequency of its reference, and the outputs of the laser modules with it. -/
def pllxRuns (s : State) : State := (s.set F.CLK_PLL_X_FREQ_MHZ (loopMhz s 1)).emit (.pin "LSM_OUTPUTS" true)

/-- The fields that a start of PLL-X sets. -/
def pllxKeys : List Nat := [F.CLK_STATUS_COASTING.key, F.CLK_PLL_X_STATE.key, F.CLK_PLL_X_STARTS.key, F.CLK_PLL_X_LAST_LOCK_NS.key]

theorem pllxLocked_get {f : Fld} (hf : f.key ∉ pllxKeys) (s : State) (coast : Bool) (ns : Nat) : (pllxLocked s coast ns).get f = s.get f := by
  simp only [pllxKeys, List.mem_cons, List.not_mem_nil, or_false, not_or] at hf
  obtain ⟨hcoast, hstate, hstarts, hlock⟩ := hf
  rw [pllxLocked, State.get_set_ne _ _ hlock, State.get_bump_ne _ _ hstarts, State.get_set_ne _ _ hstate, State.get_setFlag_ne _ _ hcoast]

theorem pllxLocked_state (s : State) (coast : Bool) (ns : Nat) : (pllxLocked s coast ns).get F.CLK_PLL_X_STATE = 2 := by
  rw [pllxLocked, State.get_set_ne _ _ (by decide), State.get_bump_ne _ _ (by decide)]
  exact State.get_set_same _ _ _

theorem pllxLocked_store (s : State) (coast : Bool) (ns : Nat) : (pllxLocked s coast ns).store = s.store := rfl

theorem pllxRuns_get {f : Fld} (hf : f.key ≠ F.CLK_PLL_X_FREQ_MHZ.key) (s : State) : (pllxRuns s).get f = s.get f := by
  rw [pllxRuns, State.emit_get, State.get_set_ne _ _ hf]

theorem pllxRuns_store (s : State) : (pllxRuns s).store = s.store := rfl

theorem deepLeft_store (s : State) (cause : Nat) : (deepLeft s cause).store = s.store := rfl

theorem deepLeft_state (s : State) (cause : Nat) : (deepLeft s cause).get F.PWR_STATUS_STATE = 1 :=
  (State.get_bump_ne _ _ (by decide)).trans ((State.get_set_ne _ _ (by decide)).trans (State.get_set_same _ _ _))

theorem deepLeft_cause (s : State) {cause : Nat} (hc : cause < 16) : (deepLeft s cause).get F.PWR_WAKE_CAUSE = cause :=
  (State.get_bump_ne _ _ (by decide)).trans (get_set_of_lt rfl hc)

section
variable {s : State} (hrun : halted s = false) (htrip : s.clk.trip = false)
include hrun htrip

theorem wakeUp_deep (hdeep : s.get F.PWR_STATUS_STATE = 2) (cause : Nat) : ∃ coast ns,
    wakeUp s cause = portsLink (raiseIrq (pllxRuns (pllxLocked (deepLeft s cause) coast ns)) 4) := by
  have hgo : ¬ (halted s || s.clk.trip) = true := by
    rw [hrun, htrip]
    decide
  refine ⟨!(deepLeft s cause).flag F.CLK_STATUS_XTAL_OK, Config.pick s.free, ?_⟩
  unfold wakeUp
  rw [if_neg hgo, if_pos hdeep]
  rfl

theorem wakeUp_entering (hnot : s.get F.PWR_STATUS_STATE ≠ 2) (hentering : s.flag F.PWR_STATUS_ENTERING = true) (cause : Nat) :
    wakeUp s cause = portsLink ((deepResult (s.set F.PWR_WAKE_CAUSE cause) .denied 7).bumpSat F.PWR_STATS_DEEP_ABORTS) := by
  have hgo : ¬ (halted s || s.clk.trip) = true := by
    rw [hrun, htrip]
    decide
  unfold wakeUp
  rw [if_neg hgo, if_neg hnot, if_pos hentering]

/-- A wake from DEEP_IDLE. -/
theorem wakeUp_leaves (hdeep : s.get F.PWR_STATUS_STATE = 2) {cause : Nat} (hc : cause < 16) : let u := wakeUp s cause
    u.get F.PWR_STATUS_STATE = 1 ∧ u.get F.PWR_WAKE_CAUSE = cause ∧ u.get F.CLK_PLL_X_STATE = 2 ∧ u.store = s.store := by
  obtain ⟨coast, ns, hwake⟩ := wakeUp_deep hrun htrip hdeep cause
  rw [hwake]
  have hirq := OnlyEvents.raiseIrq (pllxRuns (pllxLocked (deepLeft s cause) coast ns)) 4
  refine ⟨?_, ?_, ?_, ?_⟩
  · rw [portsLink_get (by decide), hirq.get _ (by decide), pllxRuns_get (by decide), pllxLocked_get (by decide), deepLeft_state]
  · rw [portsLink_get (by decide), hirq.get _ (by decide), pllxRuns_get (by decide), pllxLocked_get (by decide), deepLeft_cause s hc]
  · rw [portsLink_get (by decide), hirq.get _ (by decide), pllxRuns_get (by decide), pllxLocked_state]
  · rw [besideLinking_proj (portsLink_beside _) State.store fun _ => rfl, hirq.store, pllxRuns_store, pllxLocked_store, deepLeft_store]

/-- A wake during an entry. -/
theorem wakeUp_abandons (hnot : s.get F.PWR_STATUS_STATE ≠ 2) (hentering : s.flag F.PWR_STATUS_ENTERING = true) {cause : Nat} (hc : cause < 16) :
    let u := wakeUp s cause
    u.flag F.PWR_STATUS_ENTERING = false ∧ u.get F.PWR_STATUS_RESULT = 8 ∧ u.get F.PWR_STATUS_DENY_REASON = 7 ∧ u.get F.PWR_WAKE_CAUSE = cause := by
  rw [wakeUp_entering hrun htrip hnot hentering]
  obtain ⟨hdone, hresult, hwhy⟩ := deepResult_shows (s.set F.PWR_WAKE_CAUSE cause) .denied (why := 7) (by decide)
  refine ⟨?_, ?_, ?_, ?_⟩
  · rw [State.flag, portsLink_get (by decide), State.get_bumpSat_ne _ _ (by decide)]
    exact hdone
  · rw [portsLink_get (by decide), State.get_bumpSat_ne _ _ (by decide), hresult]
    rfl
  · rw [portsLink_get (by decide), State.get_bumpSat_ne _ _ (by decide), hwhy]
  · rw [portsLink_get (by decide), State.get_bumpSat_ne _ _ (by decide), deepResult_get (by decide) (by decide)]
    exact get_set_of_lt rfl hc

end

theorem exec_deepWakeEvent_timer {s : State} {t : Nat} (hon : s.flag F.PWR_CTRL_WAKE_ON_TIMER = true) (hms : s.get F.PWR_WAKE_TIMER_MS ≠ 0)
    (hdeep : s.get F.PWR_STATUS_STATE = 2) (hdue : s.clk.deepAt + 1000000 * s.get F.PWR_WAKE_TIMER_MS ≤ max s.now t) :
    exec (.deepWakeEvent .timer t) s = .next (wakeUp (s.upto t) 4) :=
  congrArg Host.Outcome.next (if_pos ⟨hon, hms, hdeep, hdue⟩)

/-! ### The always-on domain (R652) -/

section
variable {s : State} {t : Nat} {a : MgmtAccess} (hoff : s.clk.off = false) (hdeep : deepNoWake s = true) (hbar : a.bar = 0)
  (hserved : deepServed a.off.toNat = true)
include hoff hdeep hbar hserved

omit hdeep in
/-- An access that the always-on domain serves arrives as any other. -/
theorem mgmtAccess_served (refused go : State → State) :
    mgmtAccess (a.bar == 0 && deepServed a.off.toNat) (s.upto t) refused go = go (mgmtTouch (s.upto t)) := by
  have hoff' : ¬ (s.upto t).clk.off = true := ne_true_of_eq_false hoff
  unfold mgmtAccess
  rw [if_neg hoff', if_neg (by rw [hbar, hserved]; simp)]

theorem exec_deepIdleMgmtAccess_read (hread : a.val = none) (haligned : a.off.toNat % 8 = 0) (hmapped : (regAt a.off.toNat).isSome = true) :
    exec (.deepIdleMgmtAccess a t) s = .next ((mgmtTouch (s.upto t)).emit (.mmio (regRead (s.upto t) a.off.toNat))) := by
  have hgo : ¬ (!deepNoWake (s.upto t)) = true := by
    show ¬ (!deepNoWake s) = true
    rw [hdeep]
    decide
  have hthere : ¬ (regAt a.off.toNat).isNone = true := by
    rw [Option.isNone_eq_false_iff.2 hmapped]
    decide
  show execDeepIdleMgmtAccess a t s = _
  unfold execDeepIdleMgmtAccess
  dsimp only
  rw [if_neg hgo, hread]
  dsimp only
  rw [mgmtRead, mgmtAccess_served hoff hbar hserved, if_pos haligned, if_neg (not_not.2 haligned), if_neg hthere]

omit hoff hbar hserved in
/-- With its wake off, the access leaves the device as it is. -/
theorem takesWrites_mgmtTouch : takesWrites (mgmtTouch (s.upto t)) = takesWrites s := by
  have hnot : ¬ s.flag F.PWR_CTRL_WAKE_ON_PCIE = true := by
    rw [deepNoWake, Bool.and_eq_true, Bool.not_eq_true'] at hdeep
    exact ne_true_of_eq_false hdeep.2
  unfold mgmtTouch
  rw [if_neg fun h => hnot h.2]
  rfl

theorem exec_deepIdleMgmtAccess_write {v : Word} (hwrite : a.val = some v) (htakes : takesWrites s = true) :
    exec (.deepIdleMgmtAccess a t) s = .next (writeAt (mgmtTouch (s.upto t)) a.off.toNat v.toNat) := by
  have hgo : ¬ (!deepNoWake (s.upto t)) = true := by
    show ¬ (!deepNoWake s) = true
    rw [hdeep]
    decide
  show execDeepIdleMgmtAccess a t s = _
  unfold execDeepIdleMgmtAccess
  dsimp only
  rw [if_neg hgo, hwrite]
  dsimp only
  rw [mgmtWrite, mgmtAccess_served hoff hbar hserved, if_pos ((takesWrites_mgmtTouch hdeep).trans htakes)]

end

/-! ### Idle engines (R655) -/

theorem engineIdleGate_gates {s : State} {e : Fin 20} {t : Nat} (hjobs : s.rings.jobs = []) (hcopies : s.plane.kcopies = [])
    (hidle : tabGet 0 e.val s.clk.engAt + 50000 ≤ max s.now t) : Gives (.engineIdleGate e t) s fun u =>
      e.val ∈ u.clk.gated ∧ u.regs = s.regs ∧ u.store = s.store := by
  have hjobs' : (s.upto t).rings.jobs = [] := hjobs
  have hcopies' : (s.upto t).plane.kcopies = [] := hcopies
  have hdue : ¬ (s.upto t).now < tabGet 0 e.val (s.upto t).clk.engAt + 50000 := Nat.not_lt.2 hidle
  have hexec : exec (.engineIdleGate e t) s = .next (if (s.upto t).clk.gated.contains e.val then s.upto t
      else { s.upto t with clk := { (s.upto t).clk with gated := setAdd e.val (s.upto t).clk.gated } }) := by
    show execEngineIdleGate e t s = _
    unfold execEngineIdleGate
    dsimp only
    rw [hjobs', hcopies', decide_eq_false hdue]
    simp only [List.any_nil, Bool.false_or, Bool.or_false]
  by_cases hgated : (s.upto t).clk.gated.contains e.val = true
  · rw [if_pos hgated] at hexec
    exact ⟨_, hexec, List.contains_iff_mem.1 hgated, rfl, rfl⟩
  · rw [if_neg hgated] at hexec
    exact ⟨_, hexec, mem_setAdd_self _ _, rfl, rfl⟩

/-! ### Throttles (R677 to R681) -/

/-- Keeping the throttled time changes one counter, and no more of the clocks than the note of when it began. -/
theorem noteThrottle_get {f : Fld} (hf : f.key ≠ F.PWR_THROTTLE_THROTTLED_MS.key) (s : State) : (noteThrottle s).get f = s.get f := by
  unfold noteThrottle
  split
  · split <;> rfl
  · split
    · rfl
    · exact State.get_bump_ne _ _ hf

theorem noteThrottle_clk {α : Type} (part : Clk → α) (hpart : ∀ (c : Clk) (x : Option Nat), part { c with throttleAt := x } = part c) (s : State) :
    part (noteThrottle s).clk = part s.clk := by
  unfold noteThrottle
  split
  · split
    · exact hpart _ _
    · rfl
  · split
    · rfl
    · exact hpart _ _

theorem noteThrottle_flag {f : Fld} (hf : f.key ≠ F.PWR_THROTTLE_THROTTLED_MS.key) (s : State) : (noteThrottle s).flag f = s.flag f := by
  rw [State.flag, State.flag, noteThrottle_get hf]

section
variable {s : State} {t : Nat} (hoff : s.clk.off = false)
include hoff

theorem supplied : ¬ (s.upto t).clk.off = true := ne_true_of_eq_false hoff

theorem throttleN_shows (low : Bool) : Gives (.throttleN low t) s fun u =>
    u.flag F.PWR_THROTTLE_PIN = low ∧ ∀ f : Fld, f.key ∉ [F.PWR_THROTTLE_PIN.key, F.PWR_THROTTLE_THROTTLED_MS.key] → u.get f = s.get f := by
  refine ⟨noteThrottle ((s.upto t).setFlag F.PWR_THROTTLE_PIN low), congrArg Host.Outcome.next (if_neg (supplied hoff)), ?_, fun f hf => ?_⟩
  · rw [noteThrottle_flag (by decide)]
    exact State.flag_setFlag_same _ F.PWR_THROTTLE_PIN low (by decide)
  · simp only [List.mem_cons, List.not_mem_nil, or_false, not_or] at hf
    exact (noteThrottle_get hf.2 _).trans (State.get_setFlag_ne _ _ hf.1)

/-- The clocks after a reading of the junctions (R680). -/
def thermalClk (s : State) (tj : Nat) : Clk :=
  let lim := s.get F.PWR_THERMAL_THROTTLE_C
  if lim ≤ tj ∧ s.clk.lowerAt + 10000000 ≤ s.now then { s.clk with thermal := max 400 (s.clk.thermal - 80), lowerAt := s.now }
  else if tj + 3 ≤ lim ∧ s.clk.raiseAt + 100000000 ≤ s.now then { s.clk with thermal := min 1600 (s.clk.thermal + 80), raiseAt := s.now }
  else s.clk

/-- The state after a reading, before the power interrupt. -/
def thermalRead (s : State) (tj : Nat) : State :=
  let s := s.set F.PWR_THERMAL_TJ_MAX_C tj
  noteThrottle (({ s with clk := thermalClk s tj } : State).setFlag F.PWR_THROTTLE_THERMAL (decide ((thermalClk s tj).thermal < 1600)))

omit hoff in
theorem thermalClk_thermal (s : State) (tj : Nat) : (thermalClk s tj).thermal =
    if s.get F.PWR_THERMAL_THROTTLE_C ≤ tj ∧ s.clk.lowerAt + 10000000 ≤ s.now then max 400 (s.clk.thermal - 80)
    else if tj + 3 ≤ s.get F.PWR_THERMAL_THROTTLE_C ∧ s.clk.raiseAt + 100000000 ≤ s.now then min 1600 (s.clk.thermal + 80) else s.clk.thermal := by
  unfold thermalClk
  dsimp only
  split
  · rfl
  · split <;> rfl

theorem thermalLimitTick_limits (tj : Fin 256) : Gives (.thermalLimitTick tj t) s fun u =>
    let lim := s.get F.PWR_THERMAL_THROTTLE_C
    u.get F.PWR_THERMAL_TJ_MAX_C = tj.val ∧
    u.clk.thermal =
      (if lim ≤ tj.val ∧ s.clk.lowerAt + 10000000 ≤ max s.now t then max 400 (s.clk.thermal - 80)
       else if tj.val + 3 ≤ lim ∧ s.clk.raiseAt + 100000000 ≤ max s.now t then min 1600 (s.clk.thermal + 80) else s.clk.thermal) ∧
    u.flag F.PWR_THROTTLE_THERMAL = decide (u.clk.thermal < 1600) := by
  have hexec : ∃ b : Bool, exec (.thermalLimitTick tj t) s = .next (if b then raiseIrq (thermalRead (s.upto t) tj) 3 else thermalRead (s.upto t) tj) :=
    ⟨_, congrArg Host.Outcome.next (if_neg (supplied hoff))⟩
  obtain ⟨b, hexec⟩ := hexec
  have hevents : OnlyEvents (thermalRead (s.upto t) tj)
      (if b then raiseIrq (thermalRead (s.upto t) tj) 3 else thermalRead (s.upto t) tj) := by
    split
    · exact OnlyEvents.raiseIrq _ 3
    · exact OnlyEvents.refl _
  generalize (if b then raiseIrq (thermalRead (s.upto t) tj) 3 else thermalRead (s.upto t) tj) = u at hexec hevents
  have hlim : ((s.upto t).set F.PWR_THERMAL_TJ_MAX_C tj).get F.PWR_THERMAL_THROTTLE_C = s.get F.PWR_THERMAL_THROTTLE_C :=
    State.get_set_ne _ _ (by decide)
  have hthermal : u.clk.thermal = (thermalClk ((s.upto t).set F.PWR_THERMAL_TJ_MAX_C tj) tj).thermal :=
    (congrArg Clk.thermal hevents.clk).trans (noteThrottle_clk Clk.thermal (fun _ _ => rfl) _)
  refine ⟨u, hexec, ?_, ?_, ?_⟩
  · rw [hevents.get _ (by decide), thermalRead, noteThrottle_get (by decide), State.get_setFlag_ne _ _ (by decide)]
    exact get_set_of_lt (s := s.upto t) (f := F.PWR_THERMAL_TJ_MAX_C) rfl tj.isLt
  · rw [hthermal, thermalClk_thermal, hlim]
    rfl
  · rw [hthermal, hevents.flag (by decide), thermalRead, noteThrottle_flag (by decide)]
    exact State.flag_setFlag_same _ F.PWR_THROTTLE_THERMAL _ (by decide)

/-- The stacks that throttle, after a reading of one (R681). -/
def hotStacks (l : List Nat) (m temp : Nat) : List Nat := if 90 ≤ temp then setAdd m l else if temp ≤ 87 then setDel m l else l

/-- The clocks with a reading of a stack. -/
def stackRead (s : State) (m temp : Nat) : State :=
  { s with clk := { s.clk with hot := hotStacks s.clk.hot m temp, temps := tabPut m temp s.clk.temps } }

theorem exec_hbmTempCheck (m : Fin 8) (temp : Fin 256) : exec (.hbmTempCheck m temp t) s = .next (noteThrottle
    (((stackRead (s.upto t) m temp).set F.PWR_THERMAL_HBM_MAX_C (hottestStack (stackRead (s.upto t) m temp))).setFlag F.PWR_THROTTLE_HBM
      (!(hotStacks s.clk.hot m temp).isEmpty))) := congrArg Host.Outcome.next (if_neg (supplied hoff))

theorem hbmTempCheck_throttles (m : Fin 8) (temp : Fin 256) : Gives (.hbmTempCheck m temp t) s fun u =>
    (90 ≤ temp.val → u.flag F.PWR_THROTTLE_HBM = true ∧ m.val ∈ u.clk.hot) ∧
    (temp.val ≤ 87 → (∀ k ∈ s.clk.hot, k = m.val) → u.flag F.PWR_THROTTLE_HBM = false) ∧
    (87 < temp.val → temp.val < 90 → u.clk.hot = s.clk.hot) := by
  have hexec := exec_hbmTempCheck (t := t) hoff m temp
  generalize hu : noteThrottle _ = u at hexec
  have hflag : u.flag F.PWR_THROTTLE_HBM = !(hotStacks s.clk.hot m temp).isEmpty := by
    rw [← hu, noteThrottle_flag (by decide)]
    exact State.flag_setFlag_same _ F.PWR_THROTTLE_HBM _ (by decide)
  have hhot : u.clk.hot = hotStacks s.clk.hot m temp := by
    rw [← hu]
    exact noteThrottle_clk Clk.hot (fun _ _ => rfl) _
  refine ⟨u, hexec, fun hhigh => ?_, fun hlow honly => ?_, fun habove hbelow => ?_⟩
  · have hadd : hotStacks s.clk.hot m temp = setAdd m s.clk.hot := if_pos hhigh
    have hmem : m.val ∈ setAdd m.val s.clk.hot := mem_setAdd_self _ _
    rw [hflag, hhot, hadd, List.isEmpty_eq_false_iff.2 (List.ne_nil_of_mem hmem)]
    exact ⟨rfl, hmem⟩
  · have hdel : hotStacks s.clk.hot m temp = setDel m s.clk.hot := (if_neg (by omega)).trans (if_pos hlow)
    have hnone : setDel m.val s.clk.hot = [] := List.filter_eq_nil_iff.2 fun k hk => by simp [honly k hk]
    rw [hflag, hdel, hnone]
    rfl
  · rw [hhot, hotStacks, if_neg (by omega), if_neg (by omega)]

/-- The hottest readings shown. -/
def tripRead (s : State) (j k e : Nat) : State := ((s.set F.PWR_THERMAL_TJ_MAX_C j).set F.PWR_THERMAL_HBM_MAX_C k).set F.PWR_THERMAL_OE_MAX_C e

/-- The device has tripped: nothing else is driven. -/
def tripped (s : State) : State := { s with clk := { s.clk with trip := true } }

section
variable {j k e : Fin 256} (htrip : s.clk.trip = false)
include htrip

theorem thermalTrip_trips (hhot : 115 ≤ j.val ∨ 105 ≤ k.val ∨ 90 ≤ e.val) : Gives (.thermalTrip j k e t) s fun u =>
    u.clk.trip = true ∧ u.fab.flights = [] ∧ u.rings.jobs = [] ∧ u.plane.kerns = [] ∧ (∀ p : Fin 6, u.get (F.KZP_STATUS_STATE p) = 0) ∧
    u.out = s.out ++ [.pin "THERMTRIP_N" false] := by
  have hgo : ¬ ((s.upto t).clk.off ∨ (s.upto t).clk.trip) := by
    show ¬ (s.clk.off ∨ s.clk.trip)
    rw [hoff, htrip]
    decide
  have hcool : ¬ (j.val < 115 ∧ k.val < 105 ∧ e.val < 90) := by omega
  have hexec : exec (.thermalTrip j k e t) s = .next ((tripped (cutPorts (stopAll (tripRead (s.upto t) j k e)) 0)).emit (.pin "THERMTRIP_N" false)) :=
    congrArg Host.Outcome.next ((if_neg hgo).trans (if_neg hcool))
  obtain ⟨hflights, hjobs, hkerns, -⟩ := stopAll_stops (tripRead (s.upto t) j k e)
  have hcut := cutPorts_beside (stopAll (tripRead (s.upto t) j k e)) 0
  have hdown := fun p : Fin 6 => (cutPorts_down (stopAll (tripRead (s.upto t) j k e)) (reason := 0) (by decide) p).1
  generalize hw : cutPorts (stopAll (tripRead (s.upto t) j k e)) 0 = w at hexec hcut hdown
  have hpart : ∀ {α : Type} (part : State → α), (∀ u, part (besidePorts u) = part u) →
      part w = part (stopAll (tripRead (s.upto t) j k e)) := fun part hp => by rw [← hp, hcut, hp]
  have hout : w.out = s.out := hpart State.out fun _ => rfl
  refine ⟨_, hexec, rfl, ?_, ?_, ?_, hdown, ?_⟩
  · exact (hpart (fun u => u.fab.flights) fun _ => rfl).trans hflights
  · exact (hpart (fun u => u.rings.jobs) fun _ => rfl).trans hjobs
  · exact (hpart (fun u => u.plane.kerns) fun _ => rfl).trans hkerns
  · exact congrArg (· ++ [Out.pin "THERMTRIP_N" false]) hout

theorem thermalTrip_shows (hj : j.val < 115) (hk : k.val < 105) (he : e.val < 90) : Gives (.thermalTrip j k e t) s fun u =>
    u.clk = s.clk ∧ u.get F.PWR_THERMAL_TJ_MAX_C = j.val ∧ u.get F.PWR_THERMAL_HBM_MAX_C = k.val ∧ u.get F.PWR_THERMAL_OE_MAX_C = e.val := by
  have hgo : ¬ ((s.upto t).clk.off ∨ (s.upto t).clk.trip) := by
    show ¬ (s.clk.off ∨ s.clk.trip)
    rw [hoff, htrip]
    decide
  refine ⟨tripRead (s.upto t) j k e, congrArg Host.Outcome.next ((if_neg hgo).trans (if_pos ⟨hj, hk, he⟩)), rfl, ?_, ?_, ?_⟩
  · rw [tripRead, State.get_set_ne _ _ (by decide), State.get_set_ne _ _ (by decide)]
    exact get_set_of_lt rfl j.isLt
  · rw [tripRead, State.get_set_ne _ _ (by decide)]
    exact get_set_of_lt rfl k.isLt
  · exact get_set_of_lt rfl e.isLt

end

/-- A reading of the inlet sensor shown. -/
def inletRead (s : State) (c : Nat) : State :=
  ((s.setFlag F.PWR_THERMAL_INLET_PRESENT true).set F.PWR_THERMAL_INLET_C c).setFlag F.PWR_THERMAL_INLET_HOT (decide (40 < c))

theorem inletSensorRead_some (c : Fin 256) : Gives (.inletSensorRead (some c) t) s fun u =>
    u.flag F.PWR_THERMAL_INLET_PRESENT = true ∧ u.get F.PWR_THERMAL_INLET_C = c.val ∧ u.flag F.PWR_THERMAL_INLET_HOT = decide (40 < c.val) := by
  have hexec : ∃ b : Bool, exec (.inletSensorRead (some c) t) s = .next (if b then raiseIrq (inletRead (s.upto t) c) 3 else inletRead (s.upto t) c) :=
    ⟨_, congrArg Host.Outcome.next (if_neg (supplied hoff))⟩
  obtain ⟨b, hexec⟩ := hexec
  have hevents : OnlyEvents (inletRead (s.upto t) c) (if b then raiseIrq (inletRead (s.upto t) c) 3 else inletRead (s.upto t) c) := by
    split
    · exact OnlyEvents.raiseIrq _ 3
    · exact OnlyEvents.refl _
  refine ⟨_, hexec, (hevents.flag (by decide)).trans ?_, (hevents.get _ (by decide)).trans ?_, (hevents.flag (by decide)).trans ?_⟩
  · rw [inletRead, State.flag_setFlag_ne _ _ (by decide), State.flag_set_ne _ _ (by decide)]
    exact State.flag_setFlag_same _ F.PWR_THERMAL_INLET_PRESENT true (by decide)
  · rw [inletRead, State.get_setFlag_ne _ _ (by decide)]
    exact get_set_of_lt rfl c.isLt
  · exact State.flag_setFlag_same _ F.PWR_THERMAL_INLET_HOT _ (by decide)

/-- An inlet sensor that does not answer. -/
def inletGone (s : State) : State :=
  ((s.setFlag F.PWR_THERMAL_INLET_PRESENT false).set F.PWR_THERMAL_INLET_C 0).setFlag F.PWR_THERMAL_INLET_HOT false

theorem inletSensorRead_none : Gives (.inletSensorRead none t) s fun u =>
    u.flag F.PWR_THERMAL_INLET_PRESENT = false ∧ u.flag F.PWR_THERMAL_INLET_HOT = false := by
  refine ⟨inletGone (s.upto t), congrArg Host.Outcome.next (if_neg (supplied hoff)), ?_, State.flag_setFlag_same _ F.PWR_THERMAL_INLET_HOT false (by decide)⟩
  rw [inletGone, State.flag_setFlag_ne _ _ (by decide), State.flag_set_ne _ _ (by decide)]
  exact State.flag_setFlag_same _ F.PWR_THERMAL_INLET_PRESENT false (by decide)

/-- Is the power of a window at or above the limit in force? -/
def overPower (s : State) (watts : Nat) : Bool := decide (limitNow s ≤ watts)

/-- Is the core current of a window at or above its limit? -/
def overCurrent (s : State) (amps : Nat) : Bool := decide (s.get F.PWR_LIMIT_CORE_LIMIT_A ≤ amps)

/-- One group more or one less is held. -/
def groupsHeld (s : State) (more : Bool) : State := { s with clk := { s.clk with held := if more then min 3 (s.clk.held + 1) else s.clk.held - 1 } }

/-- The power of a window shown. -/
def powerRead (s : State) (watts : Nat) : State := s.set F.PWR_STATUS_POWER_W (min watts 4095)

omit hoff in
theorem powerRead_limits (s : State) (watts amps : Nat) : overPower (powerRead s watts) watts = overPower s watts ∧
    overCurrent (powerRead s watts) amps = overCurrent s amps := by
  have hget : ∀ f : Fld, f.key ≠ F.PWR_STATUS_POWER_W.key → (powerRead s watts).get f = s.get f := fun f hf => State.get_set_ne _ _ hf
  have hclk : (powerRead s watts).clk = s.clk := rfl
  refine ⟨?_, ?_⟩
  · rw [overPower, overPower, limitNow, limitNow, State.flag, State.flag, hget _ (by decide), hget _ (by decide), hget _ (by decide), hclk]
  · rw [overCurrent, overCurrent, hget _ (by decide)]

theorem exec_powerLimitWindow (watts amps : Nat) : ∃ power : Bool, exec (.powerLimitWindow watts amps t) s = .next (noteThrottle
    (((groupsHeld (powerRead (s.upto t) watts) (overPower (powerRead (s.upto t) watts) watts || overCurrent (powerRead (s.upto t) watts) amps)).setFlag
      F.PWR_THROTTLE_POWER power).setFlag F.PWR_THROTTLE_CURRENT (overCurrent (powerRead (s.upto t) watts) amps))) :=
  ⟨_, congrArg Host.Outcome.next (if_neg (supplied hoff))⟩

theorem powerLimitWindow_holds (watts amps : Nat) : Gives (.powerLimitWindow watts amps t) s fun u =>
    u.get F.PWR_STATUS_POWER_W = min watts 4095 ∧
    u.clk.held = (if limitNow s ≤ watts ∨ s.get F.PWR_LIMIT_CORE_LIMIT_A ≤ amps then min 3 (s.clk.held + 1) else s.clk.held - 1) ∧
    u.flag F.PWR_THROTTLE_CURRENT = decide (s.get F.PWR_LIMIT_CORE_LIMIT_A ≤ amps) := by
  obtain ⟨power, hexec⟩ := exec_powerLimitWindow (t := t) hoff watts amps
  obtain ⟨hpower, hcurrent⟩ := powerRead_limits (s.upto t) watts amps
  have hover : (overPower (powerRead (s.upto t) watts) watts || overCurrent (powerRead (s.upto t) watts) amps) =
      decide (limitNow s ≤ watts ∨ s.get F.PWR_LIMIT_CORE_LIMIT_A ≤ amps) := by
    rw [hpower, hcurrent, Bool.decide_or]
    rfl
  rw [hover, hcurrent] at hexec
  refine ⟨_, hexec, ?_, ?_, ?_⟩
  · rw [noteThrottle_get (by decide), State.get_setFlag_ne _ _ (by decide), State.get_setFlag_ne _ _ (by decide)]
    exact get_set_of_lt (s := s.upto t) (f := F.PWR_STATUS_POWER_W) rfl (Nat.lt_of_le_of_lt (Nat.min_le_right _ _) (by decide))
  · refine (noteThrottle_clk Clk.held (fun _ _ => rfl) _).trans ?_
    simp only [State.setFlag_clk, groupsHeld, decide_eq_true_eq]
    rfl
  · rw [noteThrottle_flag (by decide)]
    exact State.flag_setFlag_same _ F.PWR_THROTTLE_CURRENT _ (by decide)

end

/-- Settles O28: the entry into DEEP_IDLE, its end, the always-on domain, and the limits of power and temperature. -/
theorem deepIdleAndLimits : Obligations.DeepIdleAndLimits := by
  refine ⟨fun s t => ⟨fun hopen hawake hlocked hidle => ⟨fun r hno => enterDeep_refused hopen hawake hlocked hidle hno,
      fun hmay hents htxns hdown hguests hwbs hdirty =>
        enterDeep_reached hopen hawake hlocked hidle hmay ⟨hents, htxns, hdown, hguests, hwbs, hdirty⟩⟩,
    fun hrun htrip => ⟨fun hdeep => ⟨wakeUp (s.upto t) 1, rfl, wakeUp_leaves (s := s.upto t) hrun htrip hdeep (by decide)⟩,
      fun hnot hentering => ⟨wakeUp (s.upto t) 1, rfl, wakeUp_abandons (s := s.upto t) hrun htrip hnot hentering (by decide)⟩⟩,
    rfl, rfl, exec_deepWakeEvent_timer, rfl,
    fun a hoff hdeep _ hbar hserved haligned hmapped hread => exec_deepIdleMgmtAccess_read hoff hdeep hbar hserved hread haligned hmapped,
    fun a v hoff hdeep htakes hbar hserved hwrite => exec_deepIdleMgmtAccess_write hoff hdeep hbar hserved hwrite htakes,
    fun e hjobs hcopies hidle => engineIdleGate_gates hjobs hcopies hidle⟩,
    fun s t hoff => ⟨throttleN_shows hoff, thermalLimitTick_limits hoff, hbmTempCheck_throttles hoff,
      fun j k e htrip hhot => thermalTrip_trips hoff htrip hhot, fun j k e htrip hj hk he => thermalTrip_shows hoff htrip hj hk he,
      inletSensorRead_some hoff, inletSensorRead_none hoff, powerLimitWindow_holds hoff⟩⟩

end Sys2Proof.Machine
end
